-- ==== Sys2Proof/Word.lean ====
section
/-! DEFINITION. The word types of the block: a register word (R5: 32 bits), a byte of an addressed memory, and the
64-bit quantities that a pair of registers spans (R8). -/

namespace Sys2Proof

/-- A register word (R5). -/
abbrev Word := BitVec 32

/-- A byte of an addressed memory. -/
abbrev Byte := BitVec 8

/-- A 64-bit quantity (R8). -/
abbrev Wide := BitVec 64

end Sys2Proof
end

