-- ==== Sys2Proof/Syntax.lean ====
section
/-! DEFINITION. The commands of the block, one constructor of `Instr` for each row of the spec's operation table, with
the operands the row's rule gives it. Register-writing rows name the requester (R29, R475); rows for events on pins,
lines and clocks carry what the pin or line shows. Indices of units are `Fin`, so no command names a unit that does
not exist. -/

namespace Sys2Proof

/-- Who accesses the address map, by the codes of GRANARY_ERRLOG0.REQ: a DMA channel, a control core, the link host
through a port, a camera pipeline, Weaver's update path, Granary's fill. -/
inductive Requester where
  | dma (ch : Fin 32)
  | core (cc : Fin 4)
  | host (port : Fin 2)
  | pipe (p : Fin 2)
  | update
  | fill
deriving DecidableEq, Repr





/-- The kind of word of a hamlet's memories that fails parity (R196): a decoded line, a level-buffer slot, or a table
(tone curve, mask, threshold cell). -/
inductive ParityWord where
  | decoded | levelBuffer | table
deriving DecidableEq, Repr

/-- Who retires a nozzle (R166, RSRC). -/
inductive RetireSource where
  | inspection | headChannel | software | parity
deriving DecidableEq, Repr








/-- Who sends a Loquetu request, and how (R384, R392): the client's address and UDP port, SID, TID, and the SSEQ of a
frame whose tag verified, none for a frame without a tag. -/
structure Request where
  ip : BitVec 32
  port : BitVec 16
  sid : BitVec 32
  tid : BitVec 16
  sseq : Option (BitVec 64)
deriving DecidableEq, Repr

/-- An item (R388): index, subindex, type code and value bytes; VLEN is their number. -/
structure Item where
  index : BitVec 16
  sub : BitVec 8
  type : BitVec 8
  value : List Byte
deriving DecidableEq, Repr

/-- What an IPv4 datagram carries for the internal port (R380). -/
inductive IpContent where
  | echoRequest (data : List Byte)
  | udp (srcPort dstPort : BitVec 16) (data : List Byte)
  | other
deriving DecidableEq, Repr

/-- What an Ethernet frame carries (R378, R380): an ARP request of a sender for an address, an IPv4 datagram, a PTP
message over IEEE 802.3, or anything else. -/
inductive FrameContent where
  | arpRequest (sender target : BitVec 32)
  | ipv4 (src dst : BitVec 32) (fragment : Bool) (content : IpContent)
  | ptp
  | other
deriving DecidableEq, Repr

/-- An Ethernet frame: its addresses, its length in bytes, and its content. -/
structure EthFrame where
  dst : BitVec 48
  src : BitVec 48
  len : Nat
  content : FrameContent
deriving DecidableEq, Repr

/-- A PTP message of IEEE 1588-2019, with its times in ns and its correctionField in ns. -/
inductive PtpKind where
  | sync (twoStep : Bool) (origin : Nat) (corr : Int)
  | followUp (origin : Nat) (corr : Int)
  | delayReq (corr : Int)
  | delayResp (receive : Nat) (corr : Int) (ours : Bool)
  | announce (better : Bool)
  | other
deriving DecidableEq, Repr

/-- A PTP message with its domain and sequence number. -/
structure PtpMsg where
  domain : Nat
  seq : Nat
  kind : PtpKind
deriving DecidableEq, Repr




/-- The commands of the block, in the order of the operation table. -/
inductive Instr where
  /-- REGISTER_WRITE (R475): a write of `data` at chip address `addr`, of a width and alignment as given. -/
  | registerWrite (r : Requester) (addr : Nat) (data : List Byte)
  /-- RC_REGISTER_READ (R6): a read of `len` bytes at `addr`; `event` is what hardware counts in the same cycle. -/
  | rcRegisterRead (r : Requester) (addr : Nat) (len : Nat) (event : Nat)
  /-- W1C_EVENT_CLEAR (R6): a write of `v` to an event register; `hw` are the bits that hardware sets in the same
  cycle. -/
  | w1cEventClear (r : Requester) (addr : Nat) (v : Word) (hw : Word)
  /-- WIDE_PAIR_LOW_READ (R8): a read of the low word of a 64-bit pair. -/
  | widePairLowRead (r : Requester) (addr : Nat)

  /-- LINK_ENABLE (R36): a write of `v` to LINK_CTRL with EN 1. -/
  | linkEnable (r : Requester) (v : Word)
  /-- LINK_DISABLE (R57): a write of `v` to LINK_CTRL with EN 0. -/
  | linkDisable (r : Requester) (v : Word)
  /-- SYMBOL_LOCK (R40): lane `n` shows three aligned COM symbols, with its polarity inverted or not. -/
  | symbolLock (n : Fin 8) (inverted : Bool)
  /-- PORT_UP (R42): the lane-marker columns of port `p` arrive; `skews` are the lanes' deskew delays, in lane order. -/
  | portUp (p : Fin 2) (skews : List Nat)
  /-- LANE_MARKER_SET_RECEIVED (R44): the six data symbols of a lane-marker set on lane `n`. -/
  | laneMarkerSetReceived (n : Fin 8) (ln gen txm rxm mode chk : Byte)
  /-- SKIP_SET_RECEIVED (R40): a skip set on lane `n`; the receiver inserts or removes one SKP. -/
  | skipSetReceived (n : Fin 8) (insert : Bool)
  /-- EIE_SET_RECEIVED (R70): an EIE set on port `p`. -/
  | eieSetReceived (p : Fin 2)
  /-- PACKET_RECEIVED (R52): the columns of a packet on port `p`: for each lane LK0 to LK7 the running disparity before
  its first symbol (true positive) and its symbols as received, without ordered sets. -/
  | packetReceived (p : Fin 2) (lanes : List (Bool × List (BitVec 10)))
  /-- STREAM_DATA_PACKET (R60): port `p` hands its oldest accepted stream packet to the intake FIFO. -/
  | streamDataPacket (p : Fin 2)
  /-- MEMORY_WRITE_PACKET (R49): port `p` performs its oldest accepted memory packet, a write. -/
  | memoryWritePacket (p : Fin 2)
  /-- MEMORY_READ_REQUEST (R50): port `p` issues its oldest accepted memory packet, a read request. -/
  | memoryReadRequest (p : Fin 2)
  /-- MEMORY_READ_COMPLETION (R49): port `p` answers its oldest finished read. -/
  | memoryReadCompletion (p : Fin 2)
  /-- CREDIT_PACKET_RECEIVED (R58): port `p` takes its oldest accepted credit packet. -/
  | creditPacketReceived (p : Fin 2)
  /-- CREDIT_UPDATE_SEND (R59): port `p` sends a credit packet that is due. -/
  | creditUpdateSend (p : Fin 2)
  /-- ACK_TIMER_EXPIRY (R53): port `p` reports ACKSEQ. -/
  | ackTimerExpiry (p : Fin 2)
  /-- NAK_TRANSMIT (R54): port `p` sends the NAK that is due. -/
  | nakTransmit (p : Fin 2)
  /-- NAK_TIMEOUT (R54): NAK_TO passes without the expected packet. -/
  | nakTimeout (p : Fin 2)
  /-- NAK_RECEIVED (R55): port `p` handles the NAK that the host sent. -/
  | nakReceived (p : Fin 2)
  /-- REPLAY_TIMEOUT (R55): no acknowledgement advances for REPLAY_TO on port `p`. -/
  | replayTimeout (p : Fin 2)
  /-- LANE_RETIREMENT (R63): symbols outside packets on lane `n`, with the running disparity before the first; their code
  and disparity errors count, and at ERRMAX the lane retires. -/
  | laneRetirement (n : Fin 8) (rd : Bool) (syms : List (BitVec 10))
  /-- SYMBOL_LOCK_LOSS (R62): four consecutive invalid symbols on lane `n`. -/
  | symbolLockLoss (n : Fin 8)
  /-- DESKEW_OVERFLOW (R62): the deskew of lane `n` overflows. -/
  | deskewOverflow (n : Fin 8)
  /-- LINK_RETIRE (R62): a write of `v` to LINK_RETIRE. -/
  | linkRetire (r : Requester) (v : Word)
  /-- LINK_READMIT (R67): a write of `v` to LINK_READMIT. -/
  | linkReadmit (r : Requester) (v : Word)
  /-- LANE_QUALIFICATION_COMPLETE (R67): lane `n` has counted SYMBOLS error-free symbols at deskew delay `skew`. -/
  | laneQualificationComplete (n : Fin 8) (skew : Nat)
  /-- READMIT_ABANDON (R68): symbols of the qualifying lane `n`, with the running disparity before the first; an error
  restarts the count, and after four restarts the lane stays retired. -/
  | readmitAbandon (n : Fin 8) (rd : Bool) (syms : List (BitVec 10))
  /-- LINK_POWER_REQUEST (R69): a write of `v` to LINK_PM_CTRL. -/
  | linkPowerRequest (r : Requester) (v : Word)
  /-- IDLE_TIMER_EXPIRY (R70): IDLE_US passes on port `p` without a packet to send. -/
  | idleTimerExpiry (p : Fin 2)
  /-- STANDBY_EXIT (R70): the transmitter of port `p` leaves Standby. -/
  | standbyExit (p : Fin 2)
  /-- LINK_DORMANT_REQUEST (R72): port `p` takes the host's event 0x20. -/
  | linkDormantRequest (p : Fin 2)
  /-- LINK_DORMANT_ANSWER (R71): port `p` takes the host's event 0x21 or 0x22. -/
  | linkDormantAnswer (p : Fin 2)
  /-- SIGNAL_DETECT_WAKE (R71): the signal detector wakes the lanes of port `p`. -/
  | signalDetectWake (p : Fin 2)
  /-- STREAM_BIND_WRITE (R61): a write of `v` to LINK_STREAM_BIND. -/
  | streamBindWrite (r : Requester) (v : Word)

  /-- CHANNEL_ENABLE (R84): a write of `v` to DMA_CHn_CTRL with EN 1. -/
  | channelEnable (r : Requester) (n : Fin 32) (v : Word)
  /-- CHANNEL_DISABLE (R84): a write of `v` to DMA_CHn_CTRL with EN 0. -/
  | channelDisable (r : Requester) (n : Fin 32) (v : Word)
  /-- CHANNEL_PAUSE (R102): a write of `v` to DMA_CHn_CTRL with PAUSE 1. -/
  | channelPause (r : Requester) (n : Fin 32) (v : Word)
  /-- CHANNEL_UNPAUSE (R103): a write of `v` to DMA_CHn_CTRL with PAUSE 0. -/
  | channelUnpause (r : Requester) (n : Fin 32) (v : Word)
  /-- CHANNEL_RESUME (R101): a write of `v` to DMA_CHn_CTRL with RESUME 1. -/
  | channelResume (r : Requester) (n : Fin 32) (v : Word)
  /-- CHANNEL_SKIP (R101): a write of `v` to DMA_CHn_CTRL with SKIP 1. -/
  | channelSkip (r : Requester) (n : Fin 32) (v : Word)
  /-- DOORBELL (R82): a write to DMA_CHn_DOORBELL. -/
  | doorbell (r : Requester) (n : Fin 32)
  /-- RING_RESET (R85): a write of `v` to DMA_CHn_RING_HI. -/
  | ringReset (r : Requester) (n : Fin 32) (v : Word)
  /-- ABORT_REQUEST (R105): a write of `v` to DMA_CHn_ABORT. -/
  | abortRequest (r : Requester) (n : Fin 32) (v : Word)
  /-- ABORT_COMPLETE (R106): the issued writes of the aborting channel are answered. -/
  | abortComplete (n : Fin 32)
  /-- DESCRIPTOR_FETCH (R77): channel `n` reads the descriptor at its fetch index. -/
  | descriptorFetch (n : Fin 32)
  /-- INVALID_DESCRIPTOR_HALT (R77): the descriptor in progress of channel `n` is invalid. -/
  | invalidDescriptorHalt (n : Fin 32)
  /-- BURST_GRANT (R89): the engine grants one burst. -/
  | burstGrant
  /-- PACE_TIMEOUT (R88): the source FIFO of channel `n` holds data for PACE_TO without reaching HIGH. -/
  | paceTimeout (n : Fin 32)
  /-- BURST_COMPLETE (R92): the oldest burst of channel `n` whose write succeeds is answered with OK. -/
  | burstComplete (n : Fin 32)
  /-- WRITE_ARRIVAL (R95): the writes of an answered burst of channel `n` have arrived. -/
  | writeArrival (n : Fin 32)
  /-- BURST_FAILURE (R96): a burst of channel `n` receives an error response. -/
  | burstFailure (n : Fin 32)
  /-- LATE_WRITE_FAILURE (R94): a DRAM write of channel `n` fails after its OK response. -/
  | lateWriteFailure (n : Fin 32)
  /-- DRAIN_COMPLETE (R102): the last outstanding burst of channel `n` is answered. -/
  | drainComplete (n : Fin 32)
  /-- CAPTURE_FRAME_START (R317): the camera port marks a frame start to capture channel 16 + `p`. -/
  | captureFrameStart (p : Fin 4)

  /-- GRANARY_INIT (R129): a write of `v` to GRANARY_CTRL with EN 1. -/
  | granaryInit (r : Requester) (v : Word)
  /-- GRANARY_READY (R129): channel `c` has finished its power-up sequence. -/
  | granaryReady (c : Fin 2)
  /-- DELAY_RAM_ACCESS (R130): a write of a word to GRANARY_DLY_DATA, or a read of it. -/
  | delayRamAccess (r : Requester) (w : Option Word)
  /-- DRAM_REQUEST (R118): a requester reads `len` bytes at `addr` or writes `data` there, within one block. -/
  | dramRequest (r : Requester) (addr : Nat) (len : Nat) (data : Option (List Byte))
  /-- COMMAND_SLOT (R118): a command slot of channel `c`; `seen` is the burst and check value that a read for a
  read-modify-write returns, where the DRAM does not return what was written. -/
  | commandSlot (c : Fin 2) (seen : Option (List (List Byte)))
  /-- DRAM_READ_COMPLETE (R115): 64 DDR clocks after the oldest read command in flight on channel `c`; `seen` as
  above. -/
  | dramReadComplete (c : Fin 2) (seen : Option (List (List Byte)))
  /-- DRAM_WRITE_ARRIVAL (R124): 64 DDR clocks after the oldest write command in flight on channel `c`. -/
  | dramWriteArrival (c : Fin 2)
  /-- ALERT_N (R123): ALERT_n of channel `c` is asserted. -/
  | alertN (c : Fin 2)
  /-- REFRESH_TIMER (R121): tREFI expires for a rank of channel `c`. -/
  | refreshTimer (c : Fin 2) (rank : Fin 2)
  /-- ZQCS_TIMER (R122): ZQINT expires. -/
  | zqcsTimer
  /-- DIE_TEMP_SAMPLE (R131): the die temperature in 1/16 °C. -/
  | dieTempSample (t : Int)
  /-- INIT_FILL (R117): a write of `v` to GRANARY_INIT_GO. -/
  | initFill (r : Requester) (v : Word)
  /-- INIT_FILL_DONE (R117): the fill completes. -/
  | initFillDone
  /-- SELF_REFRESH_REQUEST (R133): a write of `v` to GRANARY_SR with REQ 1. -/
  | selfRefreshRequest (r : Requester) (v : Word)
  /-- SELF_REFRESH_ENTERED (R133): the queues are empty and both channels enter self-refresh. -/
  | selfRefreshEntered
  /-- SELF_REFRESH_EXIT (R133): a write of `v` to GRANARY_SR with REQ 0. -/
  | selfRefreshExit (r : Requester) (v : Word)
  /-- GRANARY_ERRLOG_POP (R135): a read of GRANARY_ERRLOG3. -/
  | granaryErrlogPop (r : Requester)

  /-- DECODER_BLOCK (R149): decoder `d` takes the block at the front of its input, or what has arrived of it; `parity` says
  that a word of it fails parity. -/
  | decoderBlock (d : Fin 8) (parity : Bool)
  /-- END_OF_PAGE_BLOCK (R150): decoder `d` takes the end-of-page block at the front of its input; `parity` says that a
  word of it fails parity. -/
  | endOfPageBlock (d : Fin 8) (parity : Bool)
  /-- HUNT_RESYNC (R152): decoder `d` examines its input for the next header. -/
  | huntResync (d : Fin 8)
  /-- DECODER_ENABLE (R153): a write of `v` to MILLER_CTRL with bit `d` of DEC_EN 1. -/
  | decoderEnable (r : Requester) (d : Fin 8) (v : Word)
  /-- DECODER_DISABLE (R153): a write of `v` to MILLER_CTRL with bit `d` of DEC_EN 0. -/
  | decoderDisable (r : Requester) (d : Fin 8) (v : Word)
  /-- ENCODER_ENABLE (R159): a write of `v` to MILLER_ENCe_CTRL with EN 1. -/
  | encoderEnable (r : Requester) (e : Fin 2) (v : Word)
  /-- ENCODER_DISABLE (R154): a write of `v` to MILLER_ENCe_CTRL with EN 0. -/
  | encoderDisable (r : Requester) (e : Fin 2) (v : Word)
  /-- ENCODER_FLUSH (R154): a write of `v` to MILLER_ENCe_CTRL with FLUSH 1. -/
  | encoderFlush (r : Requester) (e : Fin 2) (v : Word)
  /-- ENCODER_LINE (R155): encoder `e` takes a whole line of its input. -/
  | encoderLine (e : Fin 2)
  /-- MILLER_RESULT_POP (R159): a read of MILLER_ENCe_RES2. -/
  | millerResultPop (r : Requester) (e : Fin 2)

  /-- SLOT_OPEN (R287): the preparation slot of the next line of hamlet `k` opens; `bad` are the nozzles whose record
  fails parity in the pass that starts. -/
  | slotOpen (k : Fin 4) (bad : List Nat)
  /-- SCREENING_PASS_START (R287): hamlet `k` starts a pass; `bad` are the nozzles whose record fails parity. -/
  | screeningPassStart (k : Fin 4) (bad : List Nat)
  /-- SCREENING_PASS_END (R287): the pass of hamlet `k` ends; `parity` is what failed parity in it. -/
  | screeningPassEnd (k : Fin 4) (parity : Option ParityWord)
  /-- RECOMPUTE (R293): hamlet `k` gives its next block to a decoder at a block boundary. -/
  | recompute (k : Fin 4)
  /-- RECOMPUTE_FAILURE (R294): a recompute of hamlet `k` has failed. -/
  | recomputeFailure (k : Fin 4)
  /-- TAKE_DEADLINE (R289): the take deadline of the next line of row `r` of channel `h`. -/
  | takeDeadline (h : Fin 24) (r : Fin 2)
  /-- MASK_BANK_FLIP (R180): hamlet `k` flips its mask bank. -/
  | maskBankFlip (k : Fin 4)
  /-- NOZZLE_RETIREMENT (R190): Shepherd retires global nozzle `g`. -/
  | nozzleRetirement (g : Fin 101376) (src : RetireSource)
  /-- NOZZLE_READMIT_EFFECT (R190): the update path clears RET of a nozzle whose line every row has reached. -/
  | nozzleReadmitEffect
  /-- OVERLAP_WRITE (R199): a write of `v` to WEAVER_OVERLAP of hamlet `k`. -/
  | overlapWrite (r : Requester) (k : Fin 4) (v : Word)

  /-- HC_ENABLE (R231): a write of `v` to HC_CTRL of channel `h` with EN 1. -/
  | hcEnable (r : Requester) (h : Fin 24) (v : Word)
  /-- HC_DISABLE (R231): a write of `v` to HC_CTRL of channel `h` with EN 0. -/
  | hcDisable (r : Requester) (h : Fin 24) (v : Word)
  /-- CODE_FRAME_FORM (R204): channel `h` takes the next line of row `row`; `parity` is what fails parity in its row pass (a word of
  the level-buffer slot, or of a mask), `bad` are nozzles whose record does, `badHist` head columns whose history does. -/
  | codeFrameForm (h : Fin 24) (row : Fin 2) (parity : Option ParityWord) (bad badHist : List Nat)
  /-- FRAME_SHIFT_START (R215): channel `h` starts to shift the code frame that it has formed. -/
  | frameShiftStart (h : Fin 24)
  /-- LATCH_PULSE (R213): channel `h` raises LAT for the frame that it has shifted. -/
  | latchPulse (h : Fin 24)
  /-- TABLE_FRAME_SEND (R218): channel `h` starts to shift a table frame that is to be sent. -/
  | tableFrameSend (h : Fin 24)
  /-- FIRE_TIME (R214): a fire time of row `row` of channel `h`. -/
  | fireTime (h : Fin 24) (row : Fin 2)
  /-- COMB_RUN_END (R214): the comb run of row `row` of channel `h` ends. -/
  | combRunEnd (h : Fin 24) (row : Fin 2)
  /-- LATE_FIRE_EVENT (R222): the frame of row `row` of channel `h` cannot meet its latch deadline. -/
  | lateFireEvent (h : Fin 24) (row : Fin 2)
  /-- FRAME_ERROR_RESHIFT (R226): channel `h` detects an error in the frame that it shifts. -/
  | frameErrorReshift (h : Fin 24)
  /-- COMB_BANK_FLIP (R217): both rows of channel `h` have fired the line of HC_COMBLINE. -/
  | combBankFlip (h : Fin 24)
  /-- TEMP_STALE_TIMEOUT (R223): channel `h` has had no fresh reading for 100 ms. -/
  | tempStaleTimeout (h : Fin 24)
  /-- WARMUP_COMPLETE (R231): both rows of channel `h` reach its re-admission line. -/
  | warmupComplete (h : Fin 24)
  /-- SCAN_ARM (R234): a write of `v` to HC_SCAN_CFG of channel 22 + `i` with ARM 1. -/
  | scanArm (r : Requester) (i : Fin 2) (v : Word)
  /-- SOS_EDGE (R234): an edge on SOSi, rising or falling, of a pulse of at least 20 ns or shorter. -/
  | sosEdge (i : Fin 2) (rising wide : Bool)

  /-- ENCODER_COUNT (R240): the filtered levels of A and B of path `n` become `a` and `b`. -/
  | encoderCount (n : Fin 4) (a b : Bool)
  /-- INDEX (R245): the filtered level of Z of path `n` becomes `z`. -/
  | index (n : Fin 4) (z : Bool)
  /-- INDEX_CORRECTION_COUNT (R246): ENC0 gains the correction count that is due. -/
  | indexCorrectionCount
  /-- INDEX_REARM (R247): a write of `v` to ENCn_IDXCFG with REARM 1. -/
  | indexRearm (r : Requester) (n : Fin 4) (v : Word)
  /-- SPEED_WINDOW_UPDATE (R248): 10 µs have passed since the last update of path `n`. -/
  | speedWindowUpdate (n : Fin 4)
  /-- STANDSTILL_TIMEOUT (R249): path `n` has counted nothing for STILL ms. -/
  | standstillTimeout (n : Fin 4)
  /-- LOSS_OF_SIGNAL (R251): receiver A, B or Z (0, 1, 2) of path `n` has had no signal for 1 µs. -/
  | lossOfSignal (n : Fin 4) (rx : Fin 3)
  /-- SSI_FRAME_START (R252): SSI port `m` starts to clock a frame; its first falling clock edge is now. -/
  | ssiFrameStart (m : Fin 2)
  /-- SSI_FRAME_RECEIVED (R253): the frame of SSI port `m` is complete: DAT before the first clock edge, the bits in their
  order, and whether DAT returned high within MONO µs. -/
  | ssiFrameReceived (m : Fin 2) (idle : Bool) (bits : List Bool) (high : Bool)
  /-- MARK_EDGE (R254): the level of MARKi has been `level` for FILT × 10 ns. -/
  | markEdge (i : Fin 4) (level : Bool)
  /-- MARK_FIFO_POP (R260): a read of MARKi_LAT3. -/
  | markFifoPop (r : Requester) (i : Fin 4)
  /-- HOME_EDGE (R255): the debounced level of HOMEk becomes `level`. -/
  | homeEdge (k : Fin 8) (level : Bool)
  /-- COMPARE_PULSE_END (R256): the action in progress on CMPj has ended. -/
  | comparePulseEnd (j : Fin 8)
  /-- TABLE_ENTRY_STORE (R259): a write of `v` to POS_TAB_DATA_HI. -/
  | tableEntryStore (r : Requester) (v : Word)
  /-- COMPARE_RESTART (R259): a write of `v` to CMPj_CTRL with RESTART 1. -/
  | compareRestart (r : Requester) (j : Fin 8) (v : Word)

  /-- LOOP_ENABLE (R261): a write of `v` to BR_CTRL with EN 1. -/
  | loopEnable (r : Requester) (v : Word)
  /-- LOOP_DISABLE (R263): a write of `v` to BR_CTRL with EN 0. -/
  | loopDisable (r : Requester) (v : Word)
  /-- LOOP_UPDATE (R264): a microsecond has passed since the last update of the loop. -/
  | loopUpdate
  /-- RUN_START (R271): a write of `v` to BR_CTRL with RUN 1. -/
  | runStart (r : Requester) (v : Word)
  /-- RUN_STOP (R271): a write of `v` to BR_CTRL with RUN 0. -/
  | runStop (r : Requester) (v : Word)
  /-- ROW_FIRE (R269): the fire time of the next line of row `row` of channel `h`. -/
  | rowFire (h : Fin 24) (row : Fin 2)
  /-- MARK_TAKE (R276): Bellringer takes the oldest entry of the mark FIFO that BR_PAGE_CFG.MARKSEL names. -/
  | markTake

  /-- HC_RETIRE_REQUEST (R299): a write of `v` to FAULT_HC_RETIRE. -/
  | hcRetireRequest (r : Requester) (v : Word)
  /-- HC_READMIT_REQUEST (R298): a write of `v` to FAULT_HC_READMIT. -/
  | hcReadmitRequest (r : Requester) (v : Word)
  /-- NOZZLE_RETIRE_REQUEST (R299): a write of `v` to FAULT_NOZ_RETIRE. -/
  | nozzleRetireRequest (r : Requester) (v : Word)
  /-- SAFE_STOP_REQUEST (R305): a write of `v` to FAULT_CTRL with SAFESTOP 1. -/
  | safeStopRequest (r : Requester) (v : Word)
  /-- SAFE_STOP_CLEAR (R307): a write of `v` to FAULT_CTRL with CLEAR 1. -/
  | safeStopClear (r : Requester) (v : Word)

  /-- CAMERA_ARM (R314): a write of `v` to CAMn_CTRL with ARM 1. -/
  | cameraArm (r : Requester) (n : Fin 4) (v : Word)
  /-- CAMERA_DISARM (R337): a write of `v` to CAMn_CTRL with ARM 0. -/
  | cameraDisarm (r : Requester) (n : Fin 4) (v : Word)
  /-- SOFTWARE_TRIGGER (R312): a write of `v` to CAMn_CTRL with SWTRIG 1. -/
  | softwareTrigger (r : Requester) (n : Fin 4) (v : Word)
  /-- TRIGGER_PULSE_END (R312): the pulse on CAMn_TRIG has lasted EXPW × 10 ns. -/
  | triggerPulseEnd (n : Fin 4)
  /-- CAMERA_LINE (R311): LV of port `n` falls after a line; `tapA` and `tapB` are the pixels taken on the taps, `fv` whether
  FV was high, `pos` and `ts` ENC0's POS and the PTP time at the rising edge of LV. -/
  | cameraLine (n : Fin 4) (tapA tapB : List (BitVec 12)) (fv : Bool) (pos : Int) (ts : Nat)
  /-- LINE_TIMEOUT (R316): LINETO µs have passed since the oldest trigger of port `n`. -/
  | lineTimeout (n : Fin 4)
  /-- PCLK_STOP (R318): CAMn_PCLK has stopped for 10 µs. -/
  | pclkStop (n : Fin 4)
  /-- CAMERA_PORT_READMIT (R318): a write of `v` to CAM_READMIT. -/
  | cameraPortReadmit (r : Requester) (v : Word)
  /-- SERIAL_BYTE_RECEIVED (R315): byte `b` arrives on CAMn_RXD. -/
  | serialByteReceived (n : Fin 4) (b : Byte)
  /-- SERIAL_DATA_ACCESS (R337): a write of `v` to CAMn_SER_DATA, or a read of it. -/
  | serialDataAccess (r : Requester) (n : Fin 4) (v : Option Word)
  /-- SERIAL_BYTE_SENT (R315): the oldest byte of the transmit FIFO of port `n` has been sent. -/
  | serialByteSent (n : Fin 4)
  /-- PIPELINE_LINE (R322): pipeline `p` takes a line. -/
  | pipelineLine (p : Fin 2)
  /-- CAM_NOZZLE_RETIRE (R335): a write of `v` to CAM_NOZ_RETIRE. -/
  | camNozzleRetire (r : Requester) (v : Word)
  /-- CAM_TABLE_ACCESS (R337): a write of `v` to CAM_TAB_DATA, or a read of it. -/
  | camTableAccess (r : Requester) (v : Option Word)
  /-- LADDER_VERDICT (R335): CC2 reads and judges the next ladder record of pipeline `p`. -/
  | ladderVerdict (p : Fin 2)
  /-- COLUMN_PROPOSAL (R336): CC2 forms a column proposal. -/
  | columnProposal

  /-- ADC_CONVERSION (R339): a conversion period ends with `code` from the input that priority chooses. -/
  | adcConversion (code : BitVec 16)
  /-- ADC_ZERO (R340): the conversion of the ADC's shorted zero gives `z`, signed. -/
  | adcZero (z : BitVec 16)
  /-- PATH_CALIBRATION (R342): PCALPER seconds have passed. -/
  | pathCalibration
  /-- CALIBRATION_CYCLE (R345): PERIOD ms have passed. -/
  | calibrationCycle
  /-- CALIBRATION_SLOT (R343): a slot for the current head begins, or the slot in progress ends after RECOV. -/
  | calibrationSlot (ending : Bool)
  /-- TRIM_STEP (R348): a step of the trims of channel `h` falls due or may take effect. -/
  | trimStep (h : Fin 24)
  /-- TRIM_TARGET_WRITE (R349): a write of `v` to CAL_HCh_TRIM. -/
  | trimTargetWrite (r : Requester) (h : Fin 24) (v : Word)

  /-- MOTION_UPDATE (R352): an update of the four axes. -/
  | motionUpdate
  /-- CURRENT_SAMPLE (R354): the currents of phases A and B of axis `n` at the centre of a PWM period. -/
  | currentSample (n : Fin 4) (a b : BitVec 12)
  /-- BRIDGE_FAULT (R354): AXn_FLTn has been low for 2 µs. -/
  | bridgeFault (n : Fin 4)
  /-- AXIS_ENABLE (R373): a write of `v` to MOT_AXn_CTRL with EN 1. -/
  | axisEnable (r : Requester) (n : Fin 4) (v : Word)
  /-- AXIS_DISABLE (R373): a write of `v` to MOT_AXn_CTRL with EN 0. -/
  | axisDisable (r : Requester) (n : Fin 4) (v : Word)
  /-- AXIS_LINK (R372): a write of `v` to MOT_AX1_CTRL that sets LINK. -/
  | axisLink (r : Requester) (v : Word)
  /-- MOVE_TO_TARGET (R358): a write of 0x1 to MOT_AXn_CMD. -/
  | moveToTarget (r : Requester) (n : Fin 4)
  /-- STOP_AT_DMAX (R373): a write of 0x2 to MOT_AXn_CMD. -/
  | stopAtDmax (r : Requester) (n : Fin 4)
  /-- QUICK_STOP (R366): a write of 0x3 to MOT_AXn_CMD. -/
  | quickStop (r : Requester) (n : Fin 4)
  /-- HOME_AXIS (R368): a write of 0x4 to MOT_AXn_CMD. -/
  | homeAxis (r : Requester) (n : Fin 4)
  /-- ENGAGE_GEARING (R369): a write of 0x5 to MOT_AXn_CMD. -/
  | engageGearing (r : Requester) (n : Fin 4)
  /-- DISENGAGE_GEARING (R369): a write of 0x6 to MOT_AXn_CMD. -/
  | disengageGearing (r : Requester) (n : Fin 4)
  /-- SET_POSITION (R377): a write of 0x7 to MOT_AXn_CMD. -/
  | setPosition (r : Requester) (n : Fin 4)
  /-- RATIO_CHANGE_ARM (R370): a write of `v` to MOT_AX2_GSCHED_HI. -/
  | ratioChangeArm (r : Requester) (v : Word)

  /-- ETHERNET_FRAME (R378): a frame received at ETHp. -/
  | ethernetFrame (p : Fin 2) (f : EthFrame)
  /-- PTP_EVENT_MESSAGE (R382): a PTP message received at ETHp; `residence` is its time in the switch in ns, `err` the
  error of its timestamp. -/
  | ptpEventMessage (p : Fin 2) (m : PtpMsg) (residence : Nat) (err : Int)
  /-- READ (R387). -/
  | read (q : Request) (index : BitVec 16) (sub : BitVec 8)
  /-- WRITE (R387). -/
  | write (q : Request) (item : Item)
  /-- SEG_READ (R393). -/
  | segRead (q : Request) (index : BitVec 16) (sub : BitVec 8) (offset : BitVec 32) (maxlen : BitVec 16)
  /-- SEG_WRITE_INIT (R393). -/
  | segWriteInit (q : Request) (index : BitVec 16) (sub : BitVec 8) (handle : BitVec 8) (total crc : BitVec 32)
  /-- SEG_WRITE (R393). -/
  | segWrite (q : Request) (xfer : BitVec 16) (offset : BitVec 32) (data : List Byte)
  /-- SEG_ABORT (R393). -/
  | segAbort (q : Request) (xfer : BitVec 16)
  /-- SEG_TRANSFER_TIMEOUT (R393): transfer `xfer` has received no segment for 1 s. -/
  | segTransferTimeout (xfer : Nat)
  /-- GROUP_OPEN (R394). -/
  | groupOpen (q : Request)
  /-- GROUP_STAGE (R395). -/
  | groupStage (q : Request) (handle : BitVec 8) (item : Item)
  /-- GROUP_ARM (R396). -/
  | groupArm (q : Request) (handle kind : BitVec 8) (value : BitVec 64)
  /-- GROUP_DISCARD (R397). -/
  | groupDiscard (q : Request) (handle : BitVec 8)
  /-- GROUP_STATUS (R394). -/
  | groupStatus (q : Request) (handle : BitVec 8)
  /-- GROUP_LANDING (R394): an armed group is applied for the first time. -/
  | groupLanding (handle : Nat)
  /-- GROUP_APPLIED (R394): every row in service has fired the group's line. -/
  | groupApplied (handle : Nat)
  /-- GROUP_EXPIRY (R394): 10 s have passed since a group was applied. -/
  | groupExpiry (handle : Nat)
  /-- SNAPSHOT (R399): the objects by index and subindex. -/
  | snapshot (q : Request) (objects : List (BitVec 16 × BitVec 8))
  /-- SUBSCRIBE (R400). -/
  | subscribe (q : Request) (classes : BitVec 32) (port : BitVec 16)
  /-- UNSUBSCRIBE (R400). -/
  | unsubscribe (q : Request) (subscriber : BitVec 8)
  /-- EVENT_ACK (R401). -/
  | eventAck (q : Request) (subscriber : BitVec 8) (eseq : BitVec 32)
  /-- EVENT_FRAME_SEND (R401): the records of a subscriber that were never sent. -/
  | eventFrameSend (subscriber : Fin 8)
  /-- EVENT_RESEND_TIMER (R401): 10 ms have passed since the last event frame of a subscriber. -/
  | eventResendTimer (subscriber : Fin 8)
  /-- SUBSCRIBER_TIMEOUT (R401): a subscriber has acknowledged nothing for 1 s. -/
  | subscriberTimeout (subscriber : Fin 8)
  /-- PAGE_ARM (R405): a WRITE of 1 to ARM of page context `n`. -/
  | pageArm (q : Request) (n : BitVec 8)
  /-- PAGE_DISARM (R405): a WRITE of 2 to ARM of page context `n`. -/
  | pageDisarm (q : Request) (n : BitVec 8)
  /-- SETTINGS_SAVE (R408): a WRITE of SAVE. -/
  | settingsSave (q : Request)
  /-- HELLO (R434). -/
  | hello (q : Request) (level : Byte) (cnonce ceph : List Byte)
  /-- CLIENT_AUTH (R434). -/
  | clientAuth (q : Request) (anchor cert csig : List Byte)
  /-- CLOSE (R434). -/
  | close (q : Request)
  /-- ATTEST (R437). -/
  | attest (q : Request) (nonce : List Byte)
  /-- AUTH_TIMEOUT (R434): 5 s have passed since HELLO. -/
  | authTimeout (sid : Nat)
  /-- SESSION_IDLE_TIMEOUT (R392): a session has received no valid frame for SESS_IDLE. -/
  | sessionIdleTimeout (sid : Nat)

  /-- STANDBY_REQUEST (R415): a write of `v` to CLKPWR_CTRL with REQ 1. -/
  | standbyRequest (r : Requester) (v : Word)
  /-- READY_REQUEST (R415): a write of `v` to CLKPWR_CTRL with REQ 2. -/
  | readyRequest (r : Requester) (v : Word)
  /-- POWER_DORMANT_REQUEST (R418): a write of `v` to CLKPWR_CTRL with REQ 0. -/
  | powerDormantRequest (r : Requester) (v : Word)
  /-- WAKE_INPUT (R412): an edge of WAKEk whose new level has been stable for two Watchman cycles. -/
  | wakeInput (k : Fin 4) (rising : Bool)
  /-- RTC_ALARM (R412): the RTC reaches or passes ALARM. -/
  | rtcAlarm
  /-- WATCHMAN_WRITE_LAND (R410): the oldest pending write of a Watchman register lands. -/
  | watchmanWriteLand
  /-- RTC_SYNC (R412): the firmware writes the RTC from PTP time. -/
  | rtcSync
  /-- VBAT_LOSS (R409): VBAT_AO falls below 1.6 V. -/
  | vbatLoss
  /-- PORN (R426): PORn falls, or rises. -/
  | porn (level : Bool)
  /-- RSTN (R426): RSTn falls, or rises. -/
  | rstn (level : Bool)
  /-- SOFTWARE_WARM_RESET (R426): a write of `v` to CLKPWR_CTRL with SWRST 1. -/
  | softwareWarmReset (r : Requester) (v : Word)
  /-- START_UP_COMPLETE (R427, R428): the timeline reaches its end, or stops with a start fault that is not 0. -/
  | startUpComplete (fault : Fin 5)
  /-- PLL_LOCK_LOSS (R421): PLL 0 core, 1 DDR, 2 head-shift, 3 I/O loses lock. -/
  | pllLockLoss (p : Fin 4)
  /-- PLL_RELOCK (R26): a PLL has locked. -/
  | pllRelock (p : Fin 4)
  /-- DROOP_STRETCH (R422): a sensor reads below STRETCH. -/
  | droopStretch
  /-- SAG_FALLBACK (R423): FBDELAY has passed below STRETCH. -/
  | sagFallback
  /-- SAG_RECOVER (R424): RECOVER has passed at or above STRETCH. -/
  | sagRecover
  /-- UNDERVOLTAGE (R425): a sensor has read below UV for 2 µs. -/
  | undervoltage

  /-- SIGN (R431): a write of `v` to SEC_SIGN_CTRL. -/
  | sign (r : Requester) (v : Word)
  /-- SIGN_COMPLETE (R431): the key-holding logic is done. -/
  | signComplete
  /-- ACTIVATE (R443): a WRITE of object 0x1500:03. -/
  | activate (q : Request) (time : BitVec 64)
  /-- ACTIVATION_TIME (R444): PTP time has reached the scheduled time. -/
  | activationTime
  /-- COPY_BLOCK (R445): the boot ROM completes one 64 KiB block. -/
  | copyBlock
  /-- CONFIRM (R447): a write of `v` to SEC_CONFIRM. -/
  | confirm (r : Requester) (v : Word)
  /-- TRIAL_EXPIRY (R447): the trial window expires. -/
  | trialExpiry
  /-- FALLBACK_REQUEST (R450): a WRITE of 1 to object 0x1500:09. -/
  | fallbackRequest (q : Request)
  /-- REVOKE (R452): a WRITE of a slot number to object 0x1430:01. -/
  | revoke (q : Request) (slot : Byte)

  /-- FRAME_VALID_EDGE (R311): an edge of CAMn_FV. -/
  | frameValidEdge (n : Fin 4) (rising : Bool)
  /-- VBAT_RETURN (R431, R461): VBAT_AO reaches 1.8 V. -/
  | vbatReturn
  /-- DROOP_CLEARED (R424): every sensor reads at or above STRETCH. -/
  | droopCleared
  /-- ETHERNET_PHY_LINK_CHANGE (R378): the PHY of ETHp shows 0 no link, 1 10, 2 100 or 3 1000 Mb/s. -/
  | ethernetPhyLinkChange (p : Fin 2) (speed : Fin 4)
  /-- SCAN_KEEPWET_TICK (R207): HC_SCAN_PER has elapsed once more on scan-paced channel 22 + i. -/
  | scanKeepwetTick (i : Fin 2)
deriving DecidableEq, Repr

end Sys2Proof
end

