-- ==== Sys2Proof/Decode.lean ====
section
/-! DEFINITION. The command that a word of the operation table spells. No row of spec/opcode_table.json gives bits: the
commands of the block are accesses and events, and none is encoded in a word. -/

namespace Sys2Proof

/-- The command that a word spells by the table's bits: none, for no row gives bits. -/
def decodeTableWord (_nbits _w : Nat) : Option Instr := none

end Sys2Proof
end

