-- ==== Sys2Proof/Machine/Crc.lean ====
section
/-! DEFINITION. The two cyclic redundancy checks of the block: CRC-32C (R47) and CRC-64 over a DRAM block (R114). -/

namespace Sys2Proof.Machine

/-- One bit step of CRC-32C with the reflected polynomial of 0x1EDC_6F41. -/
def crc32cBit (c : BitVec 32) : BitVec 32 :=
  if c.getLsbD 0 then (c >>> 1) ^^^ 0x82F63B78#32 else c >>> 1

/-- One byte step of CRC-32C. -/
def crc32cByte (c : BitVec 32) (b : Byte) : BitVec 32 :=
  crc32cBit (crc32cBit (crc32cBit (crc32cBit (crc32cBit (crc32cBit (crc32cBit (crc32cBit (c ^^^ b.setWidth 32))))))))

/-- CRC-32C: reflected, initial value and final XOR 0xFFFF_FFFF (R47). -/
def crc32c (l : List Byte) : Nat := (l.foldl crc32cByte 0xFFFFFFFF#32 ^^^ 0xFFFFFFFF#32).toNat

/-- One bit step of CRC-64 with the unreflected polynomial of R114. -/
def crc64Bit (c : BitVec 64) : BitVec 64 :=
  if c.getLsbD 63 then (c <<< 1) ^^^ 0x42F0E1EBA9EA3693#64 else c <<< 1

/-- One byte step of CRC-64. -/
def crc64Byte (c : BitVec 64) (b : Byte) : BitVec 64 :=
  crc64Bit (crc64Bit (crc64Bit (crc64Bit (crc64Bit (crc64Bit (crc64Bit (crc64Bit
    (c ^^^ (b.setWidth 64 <<< 56)))))))))

/-- CRC-64 of a byte list: initial value and final XOR all ones (R114). -/
def crc64 (l : List Byte) : BitVec 64 := l.foldl crc64Byte (BitVec.allOnes 64) ^^^ BitVec.allOnes 64

end Sys2Proof.Machine
end

