-- ==== Sys2Proof/Config.lean ====
section
/-! DEFINITION. What an implementation of the block fixes and the values the spec leaves open. A constant with no body
is a free value: no proof can see what it is. -/

namespace Sys2Proof

/-- A value that the spec leaves open, by the number of the draw. -/
opaque Config.free : Nat → Nat

/-- CODE of an event record by its class and what happened (R401 gives no codes). -/
opaque Config.eventCode : Nat → Nat → Nat

/-- CAUSE of a fault-log entry for which the spec names none, by source and event. -/
opaque Config.logCause : Nat → Nat → Nat

/-- The 12 bytes of detail of an event record, by class and the number of the draw (R401). -/
opaque Config.eventDetail : Nat → Nat → List (BitVec 8)

/-- The offset in the decoded-line area at which hamlet `k` places its first decoded line (R163: managed by
hardware). -/
opaque Config.decodedBase : Nat → Nat

/-- BARRIER, INT and LINKEVT, and TAG, of a descriptor that CC1 builds from a page index (R404 states neither), by the
number of the draw. -/
opaque Config.descFlags : Nat → Nat
opaque Config.descTag : Nat → Nat

/-- The beats of a burst that DRAM returns to an access within a command, where they are not those that were written, and
whether ALERT_n is asserted then, by the number of the draw (R115, R123). -/
opaque Config.burstSeen : Nat → Option (List (List (BitVec 8)))
opaque Config.alertSeen : Nat → Bool

/-- Symbol `i` of the PRBS-15 sequence in the qualification pattern (step 2 of the re-admission gives neither its start nor
its bit order). -/
opaque Config.prbs15 : Nat → BitVec 8

/-- What the PTP servo adds to the clock for a measured offset in ns, by the number of the draw (R381, R382). -/
opaque Config.ptpServo : Nat → Int → Int

/-- The Torvuk 64 × 64 blue-noise pattern at row and column (R175), a value from 0 to 63. -/
opaque Config.dither : Nat → Nat → Nat

/-- The density that an entry of DLUT above 4,095 gives (R322 bounds densities at 4,095). -/
opaque Config.overDensity : Nat → Nat

/-- Whether a product of the tracking loop is rounded up to 16 fractional bits (R264), by the number of the draw. -/
opaque Config.roundUp : Nat → Bool

/-! ## Identity: what OTP and board data hold, and the cryptographic functions that the spec names without defining -/

/-- The image in the Active slot of a unit as delivered. -/
opaque Config.factoryImage : List (BitVec 8)

/-- SHA-256. -/
opaque Config.sha256 : List (BitVec 8) → List (BitVec 8)

/-- Whether a P-256 public key verifies a signature of a digest: key, digest, signature. -/
opaque Config.ecdsaVerify : List (BitVec 8) → List (BitVec 8) → List (BitVec 8) → Bool

/-- The unit key's signature of a digest, r and s of 32 bytes each, by the number of the draw (R431). -/
opaque Config.unitSign : List (BitVec 8) → Nat → List (BitVec 8)

/-- The unit's public key, X and Y (R431), its serial, its MAC address, and its certificate (R432). -/
opaque Config.unitKey : List (BitVec 8)
opaque Config.serial : List (BitVec 8)
opaque Config.mac : BitVec 48
opaque Config.unitCert : List (Nat × List (BitVec 8)) → List (BitVec 8)

/-- Whether the certificate in the board data disagrees with the hash in OTP (R432). -/
opaque Config.certBad : List (Nat × List (BitVec 8)) → Bool

/-- OTP key slot s is valid (R438), and the SHA-256 of its key. -/
opaque Config.keyValid : Nat → Bool
opaque Config.keyHash : Nat → List (BitVec 8)

/-- Whether the part is an engineering sample, whose slot 2 holds the engineering key (R3, R438), and the service anchor's hash, empty where it is not fused. -/
opaque Config.engSample : Bool
opaque Config.serviceAnchor : List (BitVec 8)

/-- Whether the flash can take the next segment of an image at once (R442), by the number of the draw. -/
opaque Config.flashReady : Nat → Bool

/-- What a client certificate holds, where it is one (R433): its P-256 key, whether keyUsage has digitalSignature, and
its validity as PTP times. -/
opaque Config.certKey : List (BitVec 8) → Option (List (BitVec 8))
opaque Config.certUsage : List (BitVec 8) → Bool
opaque Config.certValidity : List (BitVec 8) → Nat × Nat

/-- Whether an anchor key verifies a certificate: key, certificate. -/
opaque Config.certSigned : List (BitVec 8) → List (BitVec 8) → Bool

/-- UNONCE and the ephemeral point UEPH of a handshake, by the number of the draw (R434). -/
opaque Config.unonce : Nat → List (BitVec 8)
opaque Config.ephemeral : Nat → List (BitVec 8)

/-- The 32 bytes of HKDF-SHA-256 from the ECDH of a client's point and the ephemeral key of a draw, with a salt and an
info string (R435). -/
opaque Config.sessionKeys : List (BitVec 8) → Nat → List (BitVec 8) → List (BitVec 8) → List (BitVec 8)

/-- AES-128-GCM (R435): key, nonce, additional data and text. `gcmOpen` also takes the tag and fails on a wrong one. -/
opaque Config.gcmSeal : List (BitVec 8) → List (BitVec 8) → List (BitVec 8) → List (BitVec 8) →
  List (BitVec 8) × List (BitVec 8)
opaque Config.gcmOpen : List (BitVec 8) → List (BitVec 8) → List (BitVec 8) → List (BitVec 8) → List (BitVec 8) →
  Option (List (BitVec 8))

/-! ## The part of the object dictionary that only its directory lists (R406) -/

/-- A register field as an object: its register's address, its place and width in the word (a width above 32 spans a pair
of registers), its type code (R388), and its access: 0 RO, 1 RW, 2 RWS, 3 WO. -/
structure Config.FieldObject where
  addr : Nat
  lo : Nat
  width : Nat
  type : Nat
  acc : Nat
deriving DecidableEq, Repr

/-- A table as a DOMAIN object (R406): the tone-curve targets of a hamlet, its mask bank, the gain targets of its
nozzles, the nozzles to be re-admitted, a threshold array, the comb of a head channel, a record of the board data by its
number, and the scan image of HC22 (0) or HC23 (1). -/
inductive Config.Table where
  | tone (k : Nat)
  | mask (k : Nat)
  | gain (k : Nat)
  | readmit
  | threshold (a : Nat)
  | comb (h : Nat)
  | board (r : Nat)
  | scan (i : Nat)
deriving DecidableEq, Repr

/-- The register field, or the table, at an index and subindex of the Expert and Service ranges; the highest subindex
of such an index. -/
opaque Config.fieldObject : Nat → Nat → Option Config.FieldObject
opaque Config.tableObject : Nat → Nat → Option Config.Table
opaque Config.topSub : Nat → Option Nat

/-- The contents of object 0x1010:01, and of a board-data record as delivered, by its number: 0 the DDR delay table, 1
the head profiles. -/
opaque Config.directoryBytes : List (BitVec 8)
opaque Config.boardRecord : Nat → List (BitVec 8)

/-- The state object that a response with status 0x06 names where no rule names it, by the object that was written. -/
opaque Config.busyObject : Nat → Nat

end Sys2Proof
end

