-- ==== Sys2Proof/Machine/RegMap.lean ====
section
/-! DEFINITION. The register map: every register of the spec's register tables with its address, its fields,
their access codes (R6) and its reset value. `F.<REGISTER>_<FIELD>` is a field of a field table, `R.<REGISTER>` the
40-bit address of a register (R28), whose indices wrap at their counts, `rows<BLOCK>` the table of a block. Bits that no field names are reserved (R7). -/

namespace Sys2Proof.Machine

/-- The access codes of R6. -/
inductive Access where
  | ro | rw | wo | w1c | rc
deriving DecidableEq, Repr

/-- A register field: its lowest bit, its width in bits and its access code. -/
structure Field where
  lo : Nat
  width : Nat
  acc : Access
deriving DecidableEq, Repr

/-- A row of a register table: the offset in its block, the strides and counts by which it repeats (greatest
stride first), its fields and its reset value. -/
structure RegRow where
  off : Nat
  dims : List (Nat × Nat)
  fields : List Field
  reset : Nat
deriving DecidableEq, Repr

/-! ## LINK block (R73) -/

def R.LINK_CTRL : Nat := 0x100000000
def F.LINK_CTRL_EN : Field := ⟨0, 1, .rw⟩
def F.LINK_CTRL_MODE : Field := ⟨1, 2, .rw⟩
def F.LINK_CTRL_RATE : Field := ⟨3, 1, .rw⟩
def F.LINK_CTRL_EVTPORT : Field := ⟨4, 1, .rw⟩
def R.LINK_STAT : Nat := 0x100000004
def F.LINK_STAT_RXMASK : Field := ⟨0, 8, .ro⟩
def F.LINK_STAT_TXMASK : Field := ⟨8, 8, .ro⟩
def F.LINK_STAT_GEN : Field := ⟨16, 8, .ro⟩
def F.LINK_STAT_P0UP : Field := ⟨24, 1, .ro⟩
def F.LINK_STAT_P1UP : Field := ⟨25, 1, .ro⟩
def F.LINK_STAT_P0PWR : Field := ⟨26, 2, .ro⟩
def F.LINK_STAT_P1PWR : Field := ⟨28, 2, .ro⟩
def R.LINK_EVT : Nat := 0x100000008
def F.LINK_EVT_LANE_RETIRED : Field := ⟨0, 8, .w1c⟩
def F.LINK_EVT_LANE_READMITTED : Field := ⟨8, 8, .w1c⟩
def F.LINK_EVT_P0DOWN : Field := ⟨16, 1, .w1c⟩
def F.LINK_EVT_P1DOWN : Field := ⟨17, 1, .w1c⟩
def F.LINK_EVT_REPLAY_LIMIT : Field := ⟨18, 1, .w1c⟩
def F.LINK_EVT_CREDIT_ERR : Field := ⟨19, 1, .w1c⟩
def F.LINK_EVT_READMIT_FAIL : Field := ⟨20, 1, .w1c⟩
def F.LINK_EVT_DORMANT_REFUSED : Field := ⟨21, 1, .w1c⟩
def R.LINK_EVT_EN : Nat := 0x10000000c
def F.LINK_EVT_EN_LANE_RETIRED : Field := ⟨0, 8, .rw⟩
def F.LINK_EVT_EN_LANE_READMITTED : Field := ⟨8, 8, .rw⟩
def F.LINK_EVT_EN_P0DOWN : Field := ⟨16, 1, .rw⟩
def F.LINK_EVT_EN_P1DOWN : Field := ⟨17, 1, .rw⟩
def F.LINK_EVT_EN_REPLAY_LIMIT : Field := ⟨18, 1, .rw⟩
def F.LINK_EVT_EN_CREDIT_ERR : Field := ⟨19, 1, .rw⟩
def F.LINK_EVT_EN_READMIT_FAIL : Field := ⟨20, 1, .rw⟩
def F.LINK_EVT_EN_DORMANT_REFUSED : Field := ⟨21, 1, .rw⟩
def R.LINK_LANE_THR : Nat := 0x100000010
def F.LINK_LANE_THR_ERRMAX : Field := ⟨0, 16, .rw⟩
def F.LINK_LANE_THR_WINDOW : Field := ⟨16, 16, .rw⟩
def R.LINK_LANE_QUAL : Nat := 0x100000014
def F.LINK_LANE_QUAL_SYMBOLS : Field := ⟨0, 32, .rw⟩
def R.LINK_READMIT : Nat := 0x100000018
def F.LINK_READMIT_LANES : Field := ⟨0, 8, .wo⟩
def R.LINK_RETIRE : Nat := 0x10000001c
def F.LINK_RETIRE_LANES : Field := ⟨0, 8, .wo⟩
def R.LINK_TIMERS : Nat := 0x100000020
def F.LINK_TIMERS_ACK_PKTS : Field := ⟨0, 8, .rw⟩
def F.LINK_TIMERS_ACK_T : Field := ⟨8, 4, .rw⟩
def F.LINK_TIMERS_NAK_TO : Field := ⟨12, 8, .rw⟩
def F.LINK_TIMERS_REPLAY_TO : Field := ⟨20, 12, .rw⟩
def R.LINK_PM_CTRL : Nat := 0x100000024
def F.LINK_PM_CTRL_P0_REQ : Field := ⟨0, 2, .rw⟩
def F.LINK_PM_CTRL_P1_REQ : Field := ⟨2, 2, .rw⟩
def F.LINK_PM_CTRL_IDLE_US : Field := ⟨16, 16, .rw⟩
def R.LINK_STREAM_BIND : Nat := 0x100000028
def F.LINK_STREAM_BIND_PORT : Field := ⟨0, 8, .rw⟩
def R.LINK_REPLAY_MAX : Nat := 0x10000002c
def F.LINK_REPLAY_MAX_COUNT : Field := ⟨0, 4, .rw⟩
def R.LINK_Pp_CRCERR (p : Nat) : Nat := 0x100000040 + 0x20 * (p % 2)
def F.LINK_Pp_CRCERR_COUNT : Field := ⟨0, 32, .rc⟩
def R.LINK_Pp_NAKTX (p : Nat) : Nat := 0x100000044 + 0x20 * (p % 2)
def F.LINK_Pp_NAKTX_COUNT : Field := ⟨0, 32, .rc⟩
def R.LINK_Pp_NAKRX (p : Nat) : Nat := 0x100000048 + 0x20 * (p % 2)
def F.LINK_Pp_NAKRX_COUNT : Field := ⟨0, 32, .rc⟩
def R.LINK_Pp_DUP (p : Nat) : Nat := 0x10000004c + 0x20 * (p % 2)
def F.LINK_Pp_DUP_COUNT : Field := ⟨0, 32, .rc⟩
def R.LINK_Pp_SEQERR (p : Nat) : Nat := 0x100000050 + 0x20 * (p % 2)
def F.LINK_Pp_SEQERR_COUNT : Field := ⟨0, 32, .rc⟩
def R.LINK_Pp_SEQ (p : Nat) : Nat := 0x100000054 + 0x20 * (p % 2)
def F.LINK_Pp_SEQ_RXNEXT : Field := ⟨0, 12, .ro⟩
def F.LINK_Pp_SEQ_TXACKED : Field := ⟨16, 12, .ro⟩
def R.LINK_LANEn_STAT (n : Nat) : Nat := 0x100000100 + 0x10 * (n % 8)
def F.LINK_LANEn_STAT_LOCK : Field := ⟨0, 1, .ro⟩
def F.LINK_LANEn_STAT_ALIGNED : Field := ⟨1, 1, .ro⟩
def F.LINK_LANEn_STAT_ACTIVE : Field := ⟨2, 1, .ro⟩
def F.LINK_LANEn_STAT_RETIRED : Field := ⟨3, 1, .ro⟩
def F.LINK_LANEn_STAT_QUALIFYING : Field := ⟨4, 1, .ro⟩
def F.LINK_LANEn_STAT_PWR : Field := ⟨5, 2, .ro⟩
def F.LINK_LANEn_STAT_SKEW : Field := ⟨8, 8, .ro⟩
def R.LINK_LANEn_CODEERR (n : Nat) : Nat := 0x100000104 + 0x10 * (n % 8)
def F.LINK_LANEn_CODEERR_COUNT : Field := ⟨0, 32, .rc⟩
def R.LINK_LANEn_DISPERR (n : Nat) : Nat := 0x100000108 + 0x10 * (n % 8)
def F.LINK_LANEn_DISPERR_COUNT : Field := ⟨0, 32, .rc⟩
def R.LINK_LANEn_LOCKLOSS (n : Nat) : Nat := 0x10000010c + 0x10 * (n % 8)
def F.LINK_LANEn_LOCKLOSS_COUNT : Field := ⟨0, 16, .rc⟩
def R.LINK_STREAMs_CREDIT (s : Nat) : Nat := 0x100000200 + 0x4 * (s % 8)
def F.LINK_STREAMs_CREDIT_LIMIT : Field := ⟨0, 16, .ro⟩
def F.LINK_STREAMs_CREDIT_USED : Field := ⟨16, 10, .ro⟩

/-! ## DMA block (R109) -/

def R.DMA_CTRL : Nat := 0x100010000
def F.DMA_CTRL_EN : Field := ⟨0, 1, .rw⟩
def R.DMA_STAT : Nat := 0x100010004
def F.DMA_STAT_OUTSTANDING : Field := ⟨0, 9, .ro⟩
def R.DMA_DONE_EVT : Nat := 0x100010008
def F.DMA_DONE_EVT_CH : Field := ⟨0, 32, .w1c⟩
def R.DMA_DONE_EN : Nat := 0x10001000c
def F.DMA_DONE_EN_CH : Field := ⟨0, 32, .rw⟩
def R.DMA_HALT_EVT : Nat := 0x100010010
def F.DMA_HALT_EVT_CH : Field := ⟨0, 32, .w1c⟩
def R.DMA_HALT_EN : Nat := 0x100010014
def F.DMA_HALT_EN_CH : Field := ⟨0, 32, .rw⟩
def R.DMA_ERR_THR : Nat := 0x100010018
def F.DMA_ERR_THR_ERRMAX : Field := ⟨0, 8, .rw⟩
def F.DMA_ERR_THR_WINDOW : Field := ⟨16, 16, .rw⟩
def R.DMA_LATE_EVT : Nat := 0x10001001c
def F.DMA_LATE_EVT_CH : Field := ⟨0, 32, .w1c⟩
def R.DMA_CHn_CTRL (n : Nat) : Nat := 0x100010100 + 0x40 * (n % 32)
def F.DMA_CHn_CTRL_EN : Field := ⟨0, 1, .rw⟩
def F.DMA_CHn_CTRL_PAUSE : Field := ⟨1, 1, .rw⟩
def F.DMA_CHn_CTRL_RESUME : Field := ⟨2, 1, .wo⟩
def F.DMA_CHn_CTRL_SKIP : Field := ⟨3, 1, .wo⟩
def R.DMA_CHn_CFG (n : Nat) : Nat := 0x100010104 + 0x40 * (n % 32)
def F.DMA_CHn_CFG_PRIO : Field := ⟨0, 2, .rw⟩
def F.DMA_CHn_CFG_BURST : Field := ⟨2, 3, .rw⟩
def F.DMA_CHn_CFG_RETRY : Field := ⟨8, 4, .rw⟩
def F.DMA_CHn_CFG_MAXOUT : Field := ⟨16, 6, .rw⟩
def F.DMA_CHn_CFG_PACE_MODE : Field := ⟨22, 2, .rw⟩
def F.DMA_CHn_CFG_LINKPORT : Field := ⟨24, 1, .rw⟩
def R.DMA_CHn_RING_LO (n : Nat) : Nat := 0x100010108 + 0x40 * (n % 32)
def F.DMA_CHn_RING_LO_BASE_LO : Field := ⟨5, 27, .rw⟩
def R.DMA_CHn_RING_HI (n : Nat) : Nat := 0x10001010c + 0x40 * (n % 32)
def F.DMA_CHn_RING_HI_BASE_HI : Field := ⟨0, 8, .rw⟩
def F.DMA_CHn_RING_HI_SIZE_LOG2 : Field := ⟨16, 4, .rw⟩
def R.DMA_CHn_HEAD (n : Nat) : Nat := 0x100010110 + 0x40 * (n % 32)
def F.DMA_CHn_HEAD_HEAD : Field := ⟨0, 12, .ro⟩
def F.DMA_CHn_HEAD_FETCH : Field := ⟨16, 12, .ro⟩
def R.DMA_CHn_DOORBELL (n : Nat) : Nat := 0x100010114 + 0x40 * (n % 32)
def F.DMA_CHn_DOORBELL_RING : Field := ⟨0, 32, .wo⟩
def R.DMA_CHn_PACE (n : Nat) : Nat := 0x100010118 + 0x40 * (n % 32)
def F.DMA_CHn_PACE_HIGH : Field := ⟨0, 12, .rw⟩
def F.DMA_CHn_PACE_LOW : Field := ⟨12, 12, .rw⟩
def F.DMA_CHn_PACE_PACE_TO : Field := ⟨24, 8, .rw⟩
def R.DMA_CHn_STAT (n : Nat) : Nat := 0x10001011c + 0x40 * (n % 32)
def F.DMA_CHn_STAT_STATE : Field := ⟨0, 3, .ro⟩
def F.DMA_CHn_STAT_ABORT_RES : Field := ⟨4, 2, .ro⟩
def F.DMA_CHn_STAT_HALT_CAUSE : Field := ⟨8, 4, .ro⟩
def F.DMA_CHn_STAT_RETRYCNT : Field := ⟨12, 4, .ro⟩
def F.DMA_CHn_STAT_OUTSTANDING : Field := ⟨16, 6, .ro⟩
def R.DMA_CHn_CUR_SRC_LO (n : Nat) : Nat := 0x100010120 + 0x40 * (n % 32)
def F.DMA_CHn_CUR_SRC_LO_ADDR_LO : Field := ⟨0, 32, .ro⟩
def R.DMA_CHn_CUR_SRC_HI (n : Nat) : Nat := 0x100010124 + 0x40 * (n % 32)
def F.DMA_CHn_CUR_SRC_HI_ADDR_HI : Field := ⟨0, 8, .ro⟩
def R.DMA_CHn_CUR_DST_LO (n : Nat) : Nat := 0x100010128 + 0x40 * (n % 32)
def F.DMA_CHn_CUR_DST_LO_ADDR_LO : Field := ⟨0, 32, .ro⟩
def R.DMA_CHn_CUR_DST_HI (n : Nat) : Nat := 0x10001012c + 0x40 * (n % 32)
def F.DMA_CHn_CUR_DST_HI_ADDR_HI : Field := ⟨0, 8, .ro⟩
def R.DMA_CHn_REMAIN (n : Nat) : Nat := 0x100010130 + 0x40 * (n % 32)
def F.DMA_CHn_REMAIN_REMAIN : Field := ⟨0, 24, .ro⟩
def R.DMA_CHn_ERRADDR_LO (n : Nat) : Nat := 0x100010134 + 0x40 * (n % 32)
def F.DMA_CHn_ERRADDR_LO_ADDR_LO : Field := ⟨0, 32, .ro⟩
def R.DMA_CHn_ERRADDR_HI (n : Nat) : Nat := 0x100010138 + 0x40 * (n % 32)
def F.DMA_CHn_ERRADDR_HI_ADDR_HI : Field := ⟨0, 8, .ro⟩
def R.DMA_CHn_ABORT (n : Nat) : Nat := 0x10001013c + 0x40 * (n % 32)
def F.DMA_CHn_ABORT_INDEX : Field := ⟨0, 12, .wo⟩

/-! ## GRANARY block (R135) -/

def R.GRANARY_CTRL : Nat := 0x100020000
def F.GRANARY_CTRL_EN : Field := ⟨0, 1, .rw⟩
def F.GRANARY_CTRL_CHMODE : Field := ⟨1, 1, .rw⟩
def F.GRANARY_CTRL_RANKS : Field := ⟨2, 1, .rw⟩
def F.GRANARY_CTRL_DENSITY : Field := ⟨3, 2, .rw⟩
def F.GRANARY_CTRL_RATE : Field := ⟨5, 2, .rw⟩
def F.GRANARY_CTRL_CMD2N : Field := ⟨7, 1, .rw⟩
def R.GRANARY_STAT : Nat := 0x100020004
def F.GRANARY_STAT_CH0STATE : Field := ⟨0, 3, .ro⟩
def F.GRANARY_STAT_CH1STATE : Field := ⟨3, 3, .ro⟩
def F.GRANARY_STAT_BAND : Field := ⟨8, 3, .ro⟩
def F.GRANARY_STAT_BANDPEND : Field := ⟨11, 1, .ro⟩
def F.GRANARY_STAT_INITBUSY : Field := ⟨12, 1, .ro⟩
def R.GRANARY_EVT : Nat := 0x100020008
def F.GRANARY_EVT_RDERR : Field := ⟨0, 2, .w1c⟩
def F.GRANARY_EVT_CAPAR : Field := ⟨2, 2, .w1c⟩
def F.GRANARY_EVT_RMWERR : Field := ⟨4, 1, .w1c⟩
def F.GRANARY_EVT_THRESH : Field := ⟨5, 1, .w1c⟩
def F.GRANARY_EVT_BANDCHG : Field := ⟨6, 1, .w1c⟩
def F.GRANARY_EVT_INITDONE : Field := ⟨7, 1, .w1c⟩
def F.GRANARY_EVT_LOGOVF : Field := ⟨8, 1, .w1c⟩
def R.GRANARY_EVT_EN : Nat := 0x10002000c
def F.GRANARY_EVT_EN_RDERR : Field := ⟨0, 2, .rw⟩
def F.GRANARY_EVT_EN_CAPAR : Field := ⟨2, 2, .rw⟩
def F.GRANARY_EVT_EN_RMWERR : Field := ⟨4, 1, .rw⟩
def F.GRANARY_EVT_EN_THRESH : Field := ⟨5, 1, .rw⟩
def F.GRANARY_EVT_EN_BANDCHG : Field := ⟨6, 1, .rw⟩
def F.GRANARY_EVT_EN_INITDONE : Field := ⟨7, 1, .rw⟩
def F.GRANARY_EVT_EN_LOGOVF : Field := ⟨8, 1, .rw⟩
def R.GRANARY_ERR_THR : Nat := 0x100020010
def F.GRANARY_ERR_THR_ERRMAX : Field := ⟨0, 8, .rw⟩
def F.GRANARY_ERR_THR_WINDOW : Field := ⟨16, 16, .rw⟩
def R.GRANARY_REF : Nat := 0x100020014
def F.GRANARY_REF_POSTPONE : Field := ⟨0, 3, .rw⟩
def F.GRANARY_REF_ZQINT : Field := ⟨8, 8, .rw⟩
def R.GRANARY_SR : Nat := 0x100020018
def F.GRANARY_SR_REQ : Field := ⟨0, 1, .rw⟩
def F.GRANARY_SR_AUTOWAKE : Field := ⟨1, 1, .rw⟩
def F.GRANARY_SR_IN_SR : Field := ⟨8, 1, .ro⟩
def R.GRANARY_TIMING : Nat := 0x10002001c
def F.GRANARY_TIMING_CL : Field := ⟨0, 8, .rw⟩
def F.GRANARY_TIMING_CWL : Field := ⟨8, 8, .rw⟩
def F.GRANARY_TIMING_RCD : Field := ⟨16, 8, .rw⟩
def F.GRANARY_TIMING_RP : Field := ⟨24, 8, .rw⟩
def R.GRANARY_INIT_BASE_LO : Nat := 0x100020020
def F.GRANARY_INIT_BASE_LO_BASE_LO : Field := ⟨16, 16, .rw⟩
def R.GRANARY_INIT_BASE_HI : Nat := 0x100020024
def F.GRANARY_INIT_BASE_HI_BASE_HI : Field := ⟨0, 8, .rw⟩
def R.GRANARY_INIT_LEN : Nat := 0x100020028
def F.GRANARY_INIT_LEN_UNITS : Field := ⟨0, 20, .rw⟩
def R.GRANARY_INIT_GO : Nat := 0x10002002c
def F.GRANARY_INIT_GO_GO : Field := ⟨0, 1, .wo⟩
def R.GRANARY_ERRLOG0 : Nat := 0x100020030
def F.GRANARY_ERRLOG0_TYPE : Field := ⟨0, 4, .ro⟩
def F.GRANARY_ERRLOG0_CH : Field := ⟨4, 1, .ro⟩
def F.GRANARY_ERRLOG0_RANK : Field := ⟨5, 1, .ro⟩
def F.GRANARY_ERRLOG0_OVF : Field := ⟨6, 1, .ro⟩
def F.GRANARY_ERRLOG0_REQ : Field := ⟨8, 8, .ro⟩
def F.GRANARY_ERRLOG0_BG : Field := ⟨16, 2, .ro⟩
def F.GRANARY_ERRLOG0_BA : Field := ⟨18, 2, .ro⟩
def R.GRANARY_ERRLOG1 : Nat := 0x100020034
def F.GRANARY_ERRLOG1_ADDR_LO : Field := ⟨0, 32, .ro⟩
def R.GRANARY_ERRLOG2 : Nat := 0x100020038
def F.GRANARY_ERRLOG2_ADDR_HI : Field := ⟨0, 8, .ro⟩
def F.GRANARY_ERRLOG2_ROW : Field := ⟨8, 17, .ro⟩
def R.GRANARY_ERRLOG3 : Nat := 0x10002003c
def F.GRANARY_ERRLOG3_COLUMN : Field := ⟨0, 10, .rc⟩
def F.GRANARY_ERRLOG3_BAND : Field := ⟨12, 3, .rc⟩
def R.GRANARY_CHc_RDERR (c : Nat) : Nat := 0x100020040 + 0x10 * (c % 2)
def F.GRANARY_CHc_RDERR_COUNT : Field := ⟨0, 32, .rc⟩
def R.GRANARY_CHc_CAPAR (c : Nat) : Nat := 0x100020044 + 0x10 * (c % 2)
def F.GRANARY_CHc_CAPAR_COUNT : Field := ⟨0, 32, .rc⟩
def R.GRANARY_CHc_RMWERR (c : Nat) : Nat := 0x100020048 + 0x10 * (c % 2)
def F.GRANARY_CHc_RMWERR_COUNT : Field := ⟨0, 32, .rc⟩
def R.GRANARY_CHc_QUEUE (c : Nat) : Nat := 0x10002004c + 0x10 * (c % 2)
def F.GRANARY_CHc_QUEUE_OCC : Field := ⟨0, 8, .ro⟩
def F.GRANARY_CHc_QUEUE_MAXBYP : Field := ⟨8, 6, .ro⟩
def R.GRANARY_DLY_ADDR : Nat := 0x100020100
def F.GRANARY_DLY_ADDR_INDEX : Field := ⟨0, 10, .rw⟩
def R.GRANARY_DLY_DATA : Nat := 0x100020104
def F.GRANARY_DLY_DATA_DATA : Field := ⟨0, 32, .rw⟩

/-! ## MILLER block (R159) -/

def R.MILLER_CTRL : Nat := 0x100030000
def F.MILLER_CTRL_DEC_EN : Field := ⟨0, 8, .rw⟩
def R.MILLER_EVT : Nat := 0x100030004
def F.MILLER_EVT_DEC_ERR : Field := ⟨0, 8, .w1c⟩
def F.MILLER_EVT_ENC_NOGAIN : Field := ⟨8, 2, .w1c⟩
def F.MILLER_EVT_ENC_RES : Field := ⟨10, 2, .w1c⟩
def R.MILLER_EVT_EN : Nat := 0x100030008
def F.MILLER_EVT_EN_DEC_ERR : Field := ⟨0, 8, .rw⟩
def F.MILLER_EVT_EN_ENC_NOGAIN : Field := ⟨8, 2, .rw⟩
def F.MILLER_EVT_EN_ENC_RES : Field := ⟨10, 2, .rw⟩
def R.MILLER_DECd_STAT (d : Nat) : Nat := 0x100030100 + 0x20 * (d % 8)
def F.MILLER_DECd_STAT_STATE : Field := ⟨0, 3, .ro⟩
def F.MILLER_DECd_STAT_PAGE : Field := ⟨8, 8, .ro⟩
def F.MILLER_DECd_STAT_FMT : Field := ⟨16, 4, .ro⟩
def R.MILLER_DECd_LINE (d : Nat) : Nat := 0x100030104 + 0x20 * (d % 8)
def F.MILLER_DECd_LINE_LINE : Field := ⟨0, 32, .ro⟩
def R.MILLER_DECd_ERRCNT (d : Nat) : Nat := 0x100030108 + 0x20 * (d % 8)
def F.MILLER_DECd_ERRCNT_HDR : Field := ⟨0, 8, .rc⟩
def F.MILLER_DECd_ERRCNT_CONFLICT : Field := ⟨8, 8, .rc⟩
def F.MILLER_DECd_ERRCNT_STREAM : Field := ⟨16, 8, .rc⟩
def F.MILLER_DECd_ERRCNT_CRC : Field := ⟨24, 8, .rc⟩
def R.MILLER_DECd_ERRLINE (d : Nat) : Nat := 0x10003010c + 0x20 * (d % 8)
def F.MILLER_DECd_ERRLINE_LINE : Field := ⟨0, 32, .ro⟩
def R.MILLER_DECd_BLOCKS (d : Nat) : Nat := 0x100030110 + 0x20 * (d % 8)
def F.MILLER_DECd_BLOCKS_COUNT : Field := ⟨0, 32, .rc⟩
def R.MILLER_DECd_HUNT (d : Nat) : Nat := 0x100030114 + 0x20 * (d % 8)
def F.MILLER_DECd_HUNT_COUNT : Field := ⟨0, 32, .rc⟩
def R.MILLER_ENCe_CTRL (e : Nat) : Nat := 0x100030200 + 0x40 * (e % 2)
def F.MILLER_ENCe_CTRL_EN : Field := ⟨0, 1, .rw⟩
def F.MILLER_ENCe_CTRL_FLUSH : Field := ⟨1, 1, .wo⟩
def R.MILLER_ENCe_CFG (e : Nat) : Nat := 0x100030204 + 0x40 * (e % 2)
def F.MILLER_ENCe_CFG_FMT : Field := ⟨0, 4, .rw⟩
def F.MILLER_ENCe_CFG_PAGE : Field := ⟨4, 8, .rw⟩
def F.MILLER_ENCe_CFG_WIDTH : Field := ⟨16, 15, .rw⟩
def R.MILLER_ENCe_GEOM (e : Nat) : Nat := 0x100030208 + 0x40 * (e % 2)
def F.MILLER_ENCe_GEOM_X0 : Field := ⟨0, 16, .rw⟩
def F.MILLER_ENCe_GEOM_LINESMAX : Field := ⟨16, 16, .rw⟩
def R.MILLER_ENCe_LINE0 (e : Nat) : Nat := 0x10003020c + 0x40 * (e % 2)
def F.MILLER_ENCe_LINE0_LINE0 : Field := ⟨0, 32, .rw⟩
def R.MILLER_ENCe_STAT (e : Nat) : Nat := 0x100030210 + 0x40 * (e % 2)
def F.MILLER_ENCe_STAT_STATE : Field := ⟨0, 2, .ro⟩
def F.MILLER_ENCe_STAT_RESCNT : Field := ⟨8, 6, .ro⟩
def F.MILLER_ENCe_STAT_LINES_PEND : Field := ⟨16, 16, .ro⟩
def R.MILLER_ENCe_RES0 (e : Nat) : Nat := 0x100030214 + 0x40 * (e % 2)
def F.MILLER_ENCe_RES0_LINE0 : Field := ⟨0, 32, .ro⟩
def R.MILLER_ENCe_RES1 (e : Nat) : Nat := 0x100030218 + 0x40 * (e % 2)
def F.MILLER_ENCe_RES1_LINES : Field := ⟨0, 16, .ro⟩
def F.MILLER_ENCe_RES1_STATUS : Field := ⟨16, 1, .ro⟩
def F.MILLER_ENCe_RES1_FLUSHED : Field := ⟨17, 1, .ro⟩
def F.MILLER_ENCe_RES1_VALID : Field := ⟨31, 1, .ro⟩
def R.MILLER_ENCe_RES2 (e : Nat) : Nat := 0x10003021c + 0x40 * (e % 2)
def F.MILLER_ENCe_RES2_PAYLEN : Field := ⟨0, 17, .rc⟩
def R.MILLER_ENCe_BYTESIN (e : Nat) : Nat := 0x100030220 + 0x40 * (e % 2)
def F.MILLER_ENCe_BYTESIN_COUNT : Field := ⟨0, 32, .rc⟩
def R.MILLER_ENCe_BYTESOUT (e : Nat) : Nat := 0x100030224 + 0x40 * (e % 2)
def F.MILLER_ENCe_BYTESOUT_COUNT : Field := ⟨0, 32, .rc⟩

/-! ## WEAVER block (R197) -/

def R.WEAVER_CFG (k : Nat) : Nat := 0x100100100 + 0x10000 * (k % 4)
def F.WEAVER_CFG_UPS : Field := ⟨0, 1, .rw⟩
def F.WEAVER_CFG_SCREEN : Field := ⟨1, 2, .rw⟩
def F.WEAVER_CFG_TESTRET : Field := ⟨4, 1, .rw⟩
def F.WEAVER_CFG_OFFX : Field := ⟨8, 8, .rw⟩
def F.WEAVER_CFG_OFFY : Field := ⟨16, 8, .rw⟩
def R.WEAVER_RAMP (k : Nat) : Nat := 0x100100104 + 0x10000 * (k % 4)
def F.WEAVER_RAMP_INTERVAL : Field := ⟨0, 16, .rw⟩
def R.WEAVER_KERNEL (k : Nat) : Nat := 0x100100108 + 0x10000 * (k % 4)
def F.WEAVER_KERNEL_W1 : Field := ⟨0, 8, .rw⟩
def F.WEAVER_KERNEL_W2 : Field := ⟨8, 8, .rw⟩
def F.WEAVER_KERNEL_W3 : Field := ⟨16, 8, .rw⟩
def F.WEAVER_KERNEL_W4 : Field := ⟨24, 8, .rw⟩
def R.WEAVER_KERNEL_START (k : Nat) : Nat := 0x10010010c + 0x10000 * (k % 4)
def F.WEAVER_KERNEL_START_W1 : Field := ⟨0, 8, .rw⟩
def F.WEAVER_KERNEL_START_W2 : Field := ⟨8, 8, .rw⟩
def F.WEAVER_KERNEL_START_W3 : Field := ⟨16, 8, .rw⟩
def F.WEAVER_KERNEL_START_W4 : Field := ⟨24, 8, .rw⟩
def R.WEAVER_VER0 (k : Nat) : Nat := 0x100100110 + 0x10000 * (k % 4)
def F.WEAVER_VER0_PARAM : Field := ⟨0, 16, .rw⟩
def F.WEAVER_VER0_MASK : Field := ⟨16, 16, .rw⟩
def R.WEAVER_VER1 (k : Nat) : Nat := 0x100100114 + 0x10000 * (k % 4)
def F.WEAVER_VER1_COMP : Field := ⟨0, 16, .rw⟩
def R.WEAVER_MASKSEL (k : Nat) : Nat := 0x100100118 + 0x10000 * (k % 4)
def F.WEAVER_MASKSEL_BANK : Field := ⟨0, 1, .rw⟩
def R.WEAVER_MASKLINE (k : Nat) : Nat := 0x10010011c + 0x10000 * (k % 4)
def F.WEAVER_MASKLINE_LINE : Field := ⟨0, 32, .rw⟩
def R.WEAVER_LVLBUF (k : Nat) : Nat := 0x100100120 + 0x10000 * (k % 4)
def F.WEAVER_LVLBUF_DEPTH : Field := ⟨0, 10, .rw⟩
def F.WEAVER_LVLBUF_USED : Field := ⟨16, 10, .ro⟩
def R.WEAVER_SCREENED (k : Nat) : Nat := 0x100100124 + 0x10000 * (k % 4)
def F.WEAVER_SCREENED_LINE : Field := ⟨0, 32, .ro⟩
def R.WEAVER_RAMPSTAT (k : Nat) : Nat := 0x100100128 + 0x10000 * (k % 4)
def F.WEAVER_RAMPSTAT_TONEBUSY : Field := ⟨0, 1, .ro⟩
def F.WEAVER_RAMPSTAT_GAINBUSY : Field := ⟨1, 1, .ro⟩
def F.WEAVER_RAMPSTAT_MASKPEND : Field := ⟨2, 1, .ro⟩
def F.WEAVER_RAMPSTAT_READMIT : Field := ⟨8, 7, .ro⟩
def R.WEAVER_TONE_L (k : Nat) : Nat := 0x10010012c + 0x10000 * (k % 4)
def F.WEAVER_TONE_L_LINE : Field := ⟨0, 32, .rw⟩
def R.WEAVER_TONE_E (k : Nat) : Nat := 0x100100130 + 0x10000 * (k % 4)
def F.WEAVER_TONE_E_LINE : Field := ⟨0, 32, .ro⟩
def R.WEAVER_GAIN_L (k : Nat) : Nat := 0x100100134 + 0x10000 * (k % 4)
def F.WEAVER_GAIN_L_LINE : Field := ⟨0, 32, .rw⟩
def R.WEAVER_GAIN_E (k : Nat) : Nat := 0x100100138 + 0x10000 * (k % 4)
def F.WEAVER_GAIN_E_LINE : Field := ⟨0, 32, .ro⟩
def R.WEAVER_EVT (k : Nat) : Nat := 0x10010013c + 0x10000 * (k % 4)
def F.WEAVER_EVT_VERMISM : Field := ⟨0, 1, .w1c⟩
def F.WEAVER_EVT_TESTDROP : Field := ⟨1, 1, .w1c⟩
def F.WEAVER_EVT_RAMPBUSY : Field := ⟨2, 1, .w1c⟩
def F.WEAVER_EVT_MASKBUSY : Field := ⟨3, 1, .w1c⟩
def F.WEAVER_EVT_DEPTH : Field := ⟨4, 1, .w1c⟩
def F.WEAVER_EVT_READMITFULL : Field := ⟨5, 1, .w1c⟩
def F.WEAVER_EVT_LOST : Field := ⟨6, 1, .w1c⟩
def F.WEAVER_EVT_CLAMP : Field := ⟨7, 1, .w1c⟩
def R.WEAVER_EVT_EN (k : Nat) : Nat := 0x100100140 + 0x10000 * (k % 4)
def F.WEAVER_EVT_EN_VERMISM : Field := ⟨0, 1, .rw⟩
def F.WEAVER_EVT_EN_TESTDROP : Field := ⟨1, 1, .rw⟩
def F.WEAVER_EVT_EN_RAMPBUSY : Field := ⟨2, 1, .rw⟩
def F.WEAVER_EVT_EN_MASKBUSY : Field := ⟨3, 1, .rw⟩
def F.WEAVER_EVT_EN_DEPTH : Field := ⟨4, 1, .rw⟩
def F.WEAVER_EVT_EN_READMITFULL : Field := ⟨5, 1, .rw⟩
def F.WEAVER_EVT_EN_LOST : Field := ⟨6, 1, .rw⟩
def F.WEAVER_EVT_EN_CLAMP : Field := ⟨7, 1, .rw⟩
def R.WEAVER_CNT_TWIN (k : Nat) : Nat := 0x100100144 + 0x10000 * (k % 4)
def F.WEAVER_CNT_TWIN_COUNT : Field := ⟨0, 32, .rc⟩
def R.WEAVER_CNT_PARTNER (k : Nat) : Nat := 0x100100148 + 0x10000 * (k % 4)
def F.WEAVER_CNT_PARTNER_COUNT : Field := ⟨0, 32, .rc⟩
def R.WEAVER_CNT_BOOST (k : Nat) : Nat := 0x10010014c + 0x10000 * (k % 4)
def F.WEAVER_CNT_BOOST_COUNT : Field := ⟨0, 32, .rc⟩
def R.WEAVER_CNT_LOST (k : Nat) : Nat := 0x100100150 + 0x10000 * (k % 4)
def F.WEAVER_CNT_LOST_COUNT : Field := ⟨0, 32, .rc⟩
def R.WEAVER_CNT_CLAMP (k : Nat) : Nat := 0x100100154 + 0x10000 * (k % 4)
def F.WEAVER_CNT_CLAMP_COUNT : Field := ⟨0, 32, .rc⟩
def R.WEAVER_OVERLAP (k : Nat) : Nat := 0x100100158 + 0x10000 * (k % 4)
def F.WEAVER_OVERLAP_V : Field := ⟨0, 8, .rw⟩

/-! ## HC block (R237) -/

def R.HC_CTRL (h : Nat) : Nat := 0x100180000 + 0x1000 * (h % 24)
def F.HC_CTRL_EN : Field := ⟨0, 1, .rw⟩
def F.HC_CTRL_SCAN : Field := ⟨1, 1, .rw⟩
def F.HC_CTRL_DMODE : Field := ⟨2, 1, .rw⟩
def F.HC_CTRL_AUTOREADMIT : Field := ⟨4, 1, .rw⟩
def R.HC_STAT (h : Nat) : Nat := 0x100180004 + 0x1000 * (h % 24)
def F.HC_STAT_STATE : Field := ⟨0, 3, .ro⟩
def F.HC_STAT_TZONE : Field := ⟨4, 2, .ro⟩
def F.HC_STAT_DERATED : Field := ⟨6, 1, .ro⟩
def F.HC_STAT_STALE : Field := ⟨7, 1, .ro⟩
def F.HC_STAT_BANKU : Field := ⟨8, 1, .ro⟩
def F.HC_STAT_BANKD : Field := ⟨9, 1, .ro⟩
def F.HC_STAT_COMBPEND : Field := ⟨10, 1, .ro⟩
def F.HC_STAT_CFGERR : Field := ⟨12, 4, .ro⟩
def F.HC_STAT_RCAUSE : Field := ⟨16, 4, .ro⟩
def R.HC_EVT (h : Nat) : Nat := 0x100180008 + 0x1000 * (h % 24)
def F.HC_EVT_LATE : Field := ⟨0, 1, .w1c⟩
def F.HC_EVT_RESHIFT : Field := ⟨1, 1, .w1c⟩
def F.HC_EVT_RETIRED : Field := ⟨2, 1, .w1c⟩
def F.HC_EVT_READMITTED : Field := ⟨3, 1, .w1c⟩
def F.HC_EVT_TWARN : Field := ⟨4, 1, .w1c⟩
def F.HC_EVT_TLIMIT : Field := ⟨5, 1, .w1c⟩
def F.HC_EVT_TTRIP : Field := ⟨6, 1, .w1c⟩
def F.HC_EVT_TSTALE : Field := ⟨7, 1, .w1c⟩
def F.HC_EVT_THIN : Field := ⟨8, 1, .w1c⟩
def F.HC_EVT_COLLIDE : Field := ⟨9, 1, .w1c⟩
def F.HC_EVT_GUARD : Field := ⟨10, 1, .w1c⟩
def F.HC_EVT_SOSOVR : Field := ⟨11, 1, .w1c⟩
def F.HC_EVT_TABLEREF : Field := ⟨12, 1, .w1c⟩
def R.HC_EVT_EN (h : Nat) : Nat := 0x10018000c + 0x1000 * (h % 24)
def F.HC_EVT_EN_LATE : Field := ⟨0, 1, .rw⟩
def F.HC_EVT_EN_RESHIFT : Field := ⟨1, 1, .rw⟩
def F.HC_EVT_EN_RETIRED : Field := ⟨2, 1, .rw⟩
def F.HC_EVT_EN_READMITTED : Field := ⟨3, 1, .rw⟩
def F.HC_EVT_EN_TWARN : Field := ⟨4, 1, .rw⟩
def F.HC_EVT_EN_TLIMIT : Field := ⟨5, 1, .rw⟩
def F.HC_EVT_EN_TTRIP : Field := ⟨6, 1, .rw⟩
def F.HC_EVT_EN_TSTALE : Field := ⟨7, 1, .rw⟩
def F.HC_EVT_EN_THIN : Field := ⟨8, 1, .rw⟩
def F.HC_EVT_EN_COLLIDE : Field := ⟨9, 1, .rw⟩
def F.HC_EVT_EN_GUARD : Field := ⟨10, 1, .rw⟩
def F.HC_EVT_EN_SOSOVR : Field := ⟨11, 1, .rw⟩
def F.HC_EVT_EN_TABLEREF : Field := ⟨12, 1, .rw⟩
def R.HC_PROF0 (h : Nat) : Nat := 0x100180010 + 0x1000 * (h % 24)
def F.HC_PROF0_NOZ : Field := ⟨0, 12, .rw⟩
def F.HC_PROF0_ROWS : Field := ⟨12, 1, .rw⟩
def F.HC_PROF0_BPN : Field := ⟨13, 2, .rw⟩
def F.HC_PROF0_PAIRS : Field := ⟨15, 4, .rw⟩
def F.HC_PROF0_SHIFTF : Field := ⟨19, 2, .rw⟩
def F.HC_PROF0_SEGMAX : Field := ⟨21, 5, .rw⟩
def R.HC_PROF1 (h : Nat) : Nat := 0x100180014 + 0x1000 * (h % 24)
def F.HC_PROF1_STROBEMAX : Field := ⟨0, 16, .rw⟩
def F.HC_PROF1_LATW : Field := ⟨16, 8, .rw⟩
def F.HC_PROF1_STRW : Field := ⟨24, 8, .rw⟩
def R.HC_PROF2 (h : Nat) : Nat := 0x100180018 + 0x1000 * (h % 24)
def F.HC_PROF2_LFSU : Field := ⟨0, 16, .rw⟩
def F.HC_PROF2_SEGMIN : Field := ⟨16, 16, .rw⟩
def R.HC_PROF3 (h : Nat) : Nat := 0x10018001c + 0x1000 * (h % 24)
def F.HC_PROF3_TWARN : Field := ⟨0, 8, .rw⟩
def F.HC_PROF3_TLIMIT : Field := ⟨8, 8, .rw⟩
def F.HC_PROF3_TTRIP : Field := ⟨16, 8, .rw⟩
def F.HC_PROF3_TRESTORE : Field := ⟨24, 8, .rw⟩
def R.HC_PROF4 (h : Nat) : Nat := 0x100180020 + 0x1000 * (h % 24)
def F.HC_PROF4_COMBMAX : Field := ⟨0, 10, .rw⟩
def F.HC_PROF4_CODEMAX : Field := ⟨16, 14, .rw⟩
def R.HC_MAP_LO (h : Nat) : Nat := 0x100180024 + 0x1000 * (h % 24)
def F.HC_MAP_LO_VALUE : Field := ⟨0, 32, .rw⟩
def R.HC_MAP_HI (h : Nat) : Nat := 0x100180028 + 0x1000 * (h % 24)
def F.HC_MAP_HI_VALUE : Field := ⟨0, 32, .rw⟩
def R.HC_DMAP_LO (h : Nat) : Nat := 0x10018002c + 0x1000 * (h % 24)
def F.HC_DMAP_LO_VALUE : Field := ⟨0, 32, .rw⟩
def R.HC_DMAP_HI (h : Nat) : Nat := 0x100180030 + 0x1000 * (h % 24)
def F.HC_DMAP_HI_VALUE : Field := ⟨0, 32, .rw⟩
def R.HC_CODES (h : Nat) : Nat := 0x100180034 + 0x1000 * (h % 24)
def F.HC_CODES_SPITCODE : Field := ⟨0, 4, .rw⟩
def F.HC_CODES_WARMCODE : Field := ⟨4, 4, .rw⟩
def F.HC_CODES_REST : Field := ⟨16, 14, .rw⟩
def R.HC_DUTY (h : Nat) : Nat := 0x100180038 + 0x1000 * (h % 24)
def F.HC_DUTY_NMAX : Field := ⟨0, 9, .rw⟩
def F.HC_DUTY_NWIN : Field := ⟨16, 9, .rw⟩
def R.HC_SHARE (h : Nat) : Nat := 0x10018003c + 0x1000 * (h % 24)
def F.HC_SHARE_SHARE : Field := ⟨0, 8, .rw⟩
def F.HC_SHARE_SWIN : Field := ⟨8, 7, .rw⟩
def F.HC_SHARE_DSHARE : Field := ⟨16, 8, .rw⟩
def R.HC_SPIT (h : Nat) : Nat := 0x100180040 + 0x1000 * (h % 24)
def F.HC_SPIT_K : Field := ⟨0, 16, .rw⟩
def F.HC_SPIT_MAXPER : Field := ⟨16, 12, .rw⟩
def F.HC_SPIT_INPAGE : Field := ⟨28, 1, .rw⟩
def F.HC_SPIT_RETSPIT : Field := ⟨29, 1, .rw⟩
def R.HC_WARM (h : Nat) : Nat := 0x100180044 + 0x1000 * (h % 24)
def F.HC_WARM_WARMN : Field := ⟨0, 8, .rw⟩
def R.HC_COMBSEL (h : Nat) : Nat := 0x100180048 + 0x1000 * (h % 24)
def F.HC_COMBSEL_BANK : Field := ⟨0, 1, .rw⟩
def R.HC_COMBLINE (h : Nat) : Nat := 0x10018004c + 0x1000 * (h % 24)
def F.HC_COMBLINE_LINE : Field := ⟨0, 32, .rw⟩
def R.HC_ERR_THR (h : Nat) : Nat := 0x100180050 + 0x1000 * (h % 24)
def F.HC_ERR_THR_ERRMAX : Field := ⟨0, 8, .rw⟩
def F.HC_ERR_THR_WINDOW : Field := ⟨16, 16, .rw⟩
def R.HC_TEMP (h : Nat) : Nat := 0x100180054 + 0x1000 * (h % 24)
def F.HC_TEMP_TEMP : Field := ⟨0, 16, .ro⟩
def F.HC_TEMP_STALE : Field := ⟨16, 1, .ro⟩
def F.HC_TEMP_AGE : Field := ⟨24, 8, .ro⟩
def R.HC_SCAN_CFG (h : Nat) : Nat := 0x100180058 + 0x1000 * (h % 24)
def F.HC_SCAN_CFG_ARM : Field := ⟨0, 1, .rw⟩
def F.HC_SCAN_CFG_EDGE : Field := ⟨1, 1, .rw⟩
def F.HC_SCAN_CFG_QUEUE : Field := ⟨2, 1, .rw⟩
def F.HC_SCAN_CFG_G : Field := ⟨4, 7, .rw⟩
def F.HC_SCAN_CFG_SCANLEN : Field := ⟨16, 10, .rw⟩
def R.HC_SCAN_DLY (h : Nat) : Nat := 0x10018005c + 0x1000 * (h % 24)
def F.HC_SCAN_DLY_DLY : Field := ⟨0, 24, .rw⟩
def R.HC_SCAN_PER (h : Nat) : Nat := 0x100180060 + 0x1000 * (h % 24)
def F.HC_SCAN_PER_PER : Field := ⟨0, 24, .rw⟩
def R.HC_SCAN_ROWD (h : Nat) : Nat := 0x100180064 + 0x1000 * (h % 24)
def F.HC_SCAN_ROWD_ROWD : Field := ⟨0, 24, .rw⟩
def R.HC_SCAN_PTR (h : Nat) : Nat := 0x100180068 + 0x1000 * (h % 24)
def F.HC_SCAN_PTR_PTR : Field := ⟨0, 10, .ro⟩
def F.HC_SCAN_PTR_PEND : Field := ⟨12, 1, .ro⟩
def R.HC_CNT_THINN (h : Nat) : Nat := 0x100180070 + 0x1000 * (h % 24)
def F.HC_CNT_THINN_COUNT : Field := ⟨0, 32, .rc⟩
def R.HC_CNT_THINH (h : Nat) : Nat := 0x100180074 + 0x1000 * (h % 24)
def F.HC_CNT_THINH_COUNT : Field := ⟨0, 32, .rc⟩
def R.HC_CNT_SPIT (h : Nat) : Nat := 0x100180078 + 0x1000 * (h % 24)
def F.HC_CNT_SPIT_COUNT : Field := ⟨0, 32, .rc⟩
def R.HC_CNT_LATE (h : Nat) : Nat := 0x10018007c + 0x1000 * (h % 24)
def F.HC_CNT_LATE_COUNT : Field := ⟨0, 32, .rc⟩
def R.HC_CNT_RESHIFT (h : Nat) : Nat := 0x100180080 + 0x1000 * (h % 24)
def F.HC_CNT_RESHIFT_COUNT : Field := ⟨0, 32, .rc⟩
def R.HC_CNT_COLLIDE (h : Nat) : Nat := 0x100180084 + 0x1000 * (h % 24)
def F.HC_CNT_COLLIDE_COUNT : Field := ⟨0, 32, .rc⟩
def R.HC_CNT_GUARD (h : Nat) : Nat := 0x100180088 + 0x1000 * (h % 24)
def F.HC_CNT_GUARD_COUNT : Field := ⟨0, 32, .rc⟩
def R.HC_CNT_SOSOVR (h : Nat) : Nat := 0x10018008c + 0x1000 * (h % 24)
def F.HC_CNT_SOSOVR_COUNT : Field := ⟨0, 32, .rc⟩
def R.HC_SEGb_s (h : Nat) (b : Nat) (s : Nat) : Nat := 0x100180100 + 0x1000 * (h % 24) + 0x40 * (b % 2) + 0x4 * (s % 16)
def F.HC_SEGb_s_DUR : Field := ⟨0, 12, .rw⟩
def R.HC_SELb_j (h : Nat) (b : Nat) (j : Nat) : Nat := 0x100180180 + 0x1000 * (h % 24) + 0x20 * (b % 2) + 0x4 * (j % 8)
def F.HC_SELb_j_ENTRY_LO : Field := ⟨0, 16, .rw⟩
def F.HC_SELb_j_ENTRY_HI : Field := ⟨16, 16, .rw⟩
def R.HC_WAVb_j (h : Nat) (b : Nat) (j : Nat) : Nat := 0x100180800 + 0x1000 * (h % 24) + 0x400 * (b % 2) + 0x4 * (j % 256)
def F.HC_WAVb_j_SAMPLE_LO : Field := ⟨0, 14, .rw⟩
def F.HC_WAVb_j_SAMPLE_HI : Field := ⟨16, 14, .rw⟩

/-! ## POS block (R260) -/

def R.POS_EVT0 : Nat := 0x100300000
def F.POS_EVT0_REVERSE : Field := ⟨0, 4, .w1c⟩
def F.POS_EVT0_IDXMISS : Field := ⟨4, 4, .w1c⟩
def F.POS_EVT0_IDXFAULT : Field := ⟨8, 4, .w1c⟩
def F.POS_EVT0_LOS : Field := ⟨12, 4, .w1c⟩
def F.POS_EVT0_STILL : Field := ⟨16, 4, .w1c⟩
def F.POS_EVT0_MARK : Field := ⟨20, 4, .w1c⟩
def F.POS_EVT0_HOME : Field := ⟨24, 8, .w1c⟩
def R.POS_EVT0_EN : Nat := 0x100300004
def F.POS_EVT0_EN_REVERSE : Field := ⟨0, 4, .rw⟩
def F.POS_EVT0_EN_IDXMISS : Field := ⟨4, 4, .rw⟩
def F.POS_EVT0_EN_IDXFAULT : Field := ⟨8, 4, .rw⟩
def F.POS_EVT0_EN_LOS : Field := ⟨12, 4, .rw⟩
def F.POS_EVT0_EN_STILL : Field := ⟨16, 4, .rw⟩
def F.POS_EVT0_EN_MARK : Field := ⟨20, 4, .rw⟩
def F.POS_EVT0_EN_HOME : Field := ⟨24, 8, .rw⟩
def R.POS_EVT1 : Nat := 0x100300008
def F.POS_EVT1_CMP : Field := ⟨0, 8, .w1c⟩
def F.POS_EVT1_SSIERR : Field := ⟨8, 2, .w1c⟩
def F.POS_EVT1_MARKOVF : Field := ⟨10, 4, .w1c⟩
def F.POS_EVT1_CMPSTOP : Field := ⟨14, 8, .w1c⟩
def R.POS_EVT1_EN : Nat := 0x10030000c
def F.POS_EVT1_EN_CMP : Field := ⟨0, 8, .rw⟩
def F.POS_EVT1_EN_SSIERR : Field := ⟨8, 2, .rw⟩
def F.POS_EVT1_EN_MARKOVF : Field := ⟨10, 4, .rw⟩
def F.POS_EVT1_EN_CMPSTOP : Field := ⟨14, 8, .rw⟩
def R.POS_HOME_CFG : Nat := 0x100300010
def F.POS_HOME_CFG_POL : Field := ⟨0, 8, .rw⟩
def F.POS_HOME_CFG_HOMEFILT : Field := ⟨16, 16, .rw⟩
def R.POS_INSTATE : Nat := 0x100300014
def F.POS_INSTATE_HOME : Field := ⟨0, 8, .ro⟩
def F.POS_INSTATE_MARK : Field := ⟨8, 4, .ro⟩
def F.POS_INSTATE_Z : Field := ⟨12, 4, .ro⟩
def R.ENCn_CTRL (n : Nat) : Nat := 0x100300100 + 0x80 * (n % 4)
def F.ENCn_CTRL_EN : Field := ⟨0, 1, .rw⟩
def F.ENCn_CTRL_MODE : Field := ⟨1, 2, .rw⟩
def F.ENCn_CTRL_MULT : Field := ⟨3, 2, .rw⟩
def F.ENCn_CTRL_INV : Field := ⟨5, 1, .rw⟩
def F.ENCn_CTRL_SWAP : Field := ⟨6, 1, .rw⟩
def F.ENCn_CTRL_ZEN : Field := ⟨7, 1, .rw⟩
def F.ENCn_CTRL_ZPOL : Field := ⟨8, 1, .rw⟩
def F.ENCn_CTRL_ZGATE : Field := ⟨9, 1, .rw⟩
def F.ENCn_CTRL_GAP : Field := ⟨10, 1, .rw⟩
def F.ENCn_CTRL_TWDIR : Field := ⟨11, 1, .rw⟩
def F.ENCn_CTRL_FILT : Field := ⟨16, 8, .rw⟩
def R.ENCn_REVCNT (n : Nat) : Nat := 0x100300104 + 0x80 * (n % 4)
def F.ENCn_REVCNT_REVCNT : Field := ⟨0, 24, .rw⟩
def R.ENCn_IDXPOS (n : Nat) : Nat := 0x100300108 + 0x80 * (n % 4)
def F.ENCn_IDXPOS_IDXPOS : Field := ⟨0, 24, .rw⟩
def R.ENCn_IDXCFG (n : Nat) : Nat := 0x10030010c + 0x80 * (n % 4)
def F.ENCn_IDXCFG_TOL : Field := ⟨0, 12, .rw⟩
def F.ENCn_IDXCFG_SLEW : Field := ⟨12, 12, .rw⟩
def F.ENCn_IDXCFG_MISSMAX : Field := ⟨24, 4, .rw⟩
def F.ENCn_IDXCFG_REARM : Field := ⟨28, 1, .wo⟩
def R.ENCn_SPDCFG (n : Nat) : Nat := 0x100300110 + 0x80 * (n % 4)
def F.ENCn_SPDCFG_WIN : Field := ⟨0, 8, .rw⟩
def F.ENCn_SPDCFG_PCNT : Field := ⟨8, 4, .rw⟩
def F.ENCn_SPDCFG_XHI : Field := ⟨12, 8, .rw⟩
def F.ENCn_SPDCFG_XLO : Field := ⟨20, 8, .rw⟩
def R.ENCn_DIRCFG (n : Nat) : Nat := 0x100300114 + 0x80 * (n % 4)
def F.ENCn_DIRCFG_DIRHYST : Field := ⟨0, 8, .rw⟩
def F.ENCn_DIRCFG_STILL : Field := ⟨8, 8, .rw⟩
def R.ENCn_SCALE (n : Nat) : Nat := 0x100300118 + 0x80 * (n % 4)
def F.ENCn_SCALE_NM : Field := ⟨0, 32, .rw⟩
def R.ENCn_ERR_THR (n : Nat) : Nat := 0x10030011c + 0x80 * (n % 4)
def F.ENCn_ERR_THR_ERRMAX : Field := ⟨0, 8, .rw⟩
def F.ENCn_ERR_THR_WINDOW : Field := ⟨16, 16, .rw⟩
def R.ENCn_PRESET_LO (n : Nat) : Nat := 0x100300120 + 0x80 * (n % 4)
def F.ENCn_PRESET_LO_VALUE : Field := ⟨0, 32, .rw⟩
def R.ENCn_PRESET_HI (n : Nat) : Nat := 0x100300124 + 0x80 * (n % 4)
def F.ENCn_PRESET_HI_VALUE : Field := ⟨0, 32, .rw⟩
def R.ENCn_POS_LO (n : Nat) : Nat := 0x100300128 + 0x80 * (n % 4)
def F.ENCn_POS_LO_VALUE : Field := ⟨0, 32, .ro⟩
def R.ENCn_POS_HI (n : Nat) : Nat := 0x10030012c + 0x80 * (n % 4)
def F.ENCn_POS_HI_VALUE : Field := ⟨0, 32, .ro⟩
def R.ENCn_MAX_LO (n : Nat) : Nat := 0x100300130 + 0x80 * (n % 4)
def F.ENCn_MAX_LO_VALUE : Field := ⟨0, 32, .ro⟩
def R.ENCn_MAX_HI (n : Nat) : Nat := 0x100300134 + 0x80 * (n % 4)
def F.ENCn_MAX_HI_VALUE : Field := ⟨0, 32, .ro⟩
def R.ENCn_REV (n : Nat) : Nat := 0x100300138 + 0x80 * (n % 4)
def F.ENCn_REV_REV : Field := ⟨0, 24, .ro⟩
def R.ENCn_SPEED (n : Nat) : Nat := 0x10030013c + 0x80 * (n % 4)
def F.ENCn_SPEED_SPEED : Field := ⟨0, 32, .ro⟩
def R.ENCn_VEL (n : Nat) : Nat := 0x100300140 + 0x80 * (n % 4)
def F.ENCn_VEL_VEL : Field := ⟨0, 32, .ro⟩
def R.ENCn_STAT (n : Nat) : Nat := 0x100300144 + 0x80 * (n % 4)
def F.ENCn_STAT_DIR : Field := ⟨0, 1, .ro⟩
def F.ENCn_STAT_STILL : Field := ⟨1, 1, .ro⟩
def F.ENCn_STAT_VALID : Field := ⟨2, 1, .ro⟩
def F.ENCn_STAT_WINMODE : Field := ⟨3, 1, .ro⟩
def F.ENCn_STAT_REF : Field := ⟨4, 1, .ro⟩
def F.ENCn_STAT_IDXLOST : Field := ⟨5, 1, .ro⟩
def F.ENCn_STAT_FAULT : Field := ⟨6, 1, .ro⟩
def F.ENCn_STAT_MISS : Field := ⟨8, 4, .ro⟩
def F.ENCn_STAT_CORR : Field := ⟨16, 16, .ro⟩
def R.ENCn_IDXERR (n : Nat) : Nat := 0x100300148 + 0x80 * (n % 4)
def F.ENCn_IDXERR_E : Field := ⟨0, 24, .ro⟩
def F.ENCn_IDXERR_OUT : Field := ⟨24, 1, .ro⟩
def R.ENCn_QERR (n : Nat) : Nat := 0x10030014c + 0x80 * (n % 4)
def F.ENCn_QERR_COUNT : Field := ⟨0, 32, .rc⟩
def R.ENCn_IDXCNT (n : Nat) : Nat := 0x100300150 + 0x80 * (n % 4)
def F.ENCn_IDXCNT_COUNT : Field := ⟨0, 32, .rc⟩
def R.SSIm_CFG (m : Nat) : Nat := 0x100300300 + 0x40 * (m % 2)
def F.SSIm_CFG_EN : Field := ⟨0, 1, .rw⟩
def F.SSIm_CFG_GRAY : Field := ⟨1, 1, .rw⟩
def F.SSIm_CFG_ERRBIT : Field := ⟨2, 1, .rw⟩
def F.SSIm_CFG_PARITY : Field := ⟨3, 1, .rw⟩
def F.SSIm_CFG_BITS : Field := ⟨4, 6, .rw⟩
def F.SSIm_CFG_POSBITS : Field := ⟨10, 6, .rw⟩
def F.SSIm_CFG_CLKDIV : Field := ⟨16, 12, .rw⟩
def R.SSIm_TIMING (m : Nat) : Nat := 0x100300304 + 0x40 * (m % 2)
def F.SSIm_TIMING_PERIOD : Field := ⟨0, 16, .rw⟩
def F.SSIm_TIMING_MONO : Field := ⟨16, 8, .rw⟩
def R.SSIm_MAXJUMP (m : Nat) : Nat := 0x100300308 + 0x40 * (m % 2)
def F.SSIm_MAXJUMP_MAXJUMP : Field := ⟨0, 32, .rw⟩
def R.SSIm_POS_LO (m : Nat) : Nat := 0x10030030c + 0x40 * (m % 2)
def F.SSIm_POS_LO_VALUE : Field := ⟨0, 32, .ro⟩
def R.SSIm_POS_HI (m : Nat) : Nat := 0x100300310 + 0x40 * (m % 2)
def F.SSIm_POS_HI_VALUE : Field := ⟨0, 32, .ro⟩
def R.SSIm_TS_LO (m : Nat) : Nat := 0x100300314 + 0x40 * (m % 2)
def F.SSIm_TS_LO_VALUE : Field := ⟨0, 32, .ro⟩
def R.SSIm_TS_HI (m : Nat) : Nat := 0x100300318 + 0x40 * (m % 2)
def F.SSIm_TS_HI_VALUE : Field := ⟨0, 32, .ro⟩
def R.SSIm_STAT (m : Nat) : Nat := 0x10030031c + 0x40 * (m % 2)
def F.SSIm_STAT_VALID : Field := ⟨0, 1, .ro⟩
def F.SSIm_STAT_LASTERR : Field := ⟨1, 3, .ro⟩
def R.SSIm_ERRCNT (m : Nat) : Nat := 0x100300320 + 0x40 * (m % 2)
def F.SSIm_ERRCNT_COUNT : Field := ⟨0, 32, .rc⟩
def R.MARKi_CFG (i : Nat) : Nat := 0x100300400 + 0x20 * (i % 4)
def F.MARKi_CFG_EN : Field := ⟨0, 1, .rw⟩
def F.MARKi_CFG_EDGE : Field := ⟨1, 1, .rw⟩
def F.MARKi_CFG_SRC : Field := ⟨2, 2, .rw⟩
def F.MARKi_CFG_FILT : Field := ⟨8, 8, .rw⟩
def F.MARKi_CFG_BLANK : Field := ⟨16, 16, .rw⟩
def R.MARKi_LAT0 (i : Nat) : Nat := 0x100300404 + 0x20 * (i % 4)
def F.MARKi_LAT0_POS : Field := ⟨0, 32, .ro⟩
def R.MARKi_LAT1 (i : Nat) : Nat := 0x100300408 + 0x20 * (i % 4)
def F.MARKi_LAT1_POS : Field := ⟨0, 32, .ro⟩
def R.MARKi_LAT2 (i : Nat) : Nat := 0x10030040c + 0x20 * (i % 4)
def F.MARKi_LAT2_TS_LO : Field := ⟨0, 32, .ro⟩
def R.MARKi_LAT3 (i : Nat) : Nat := 0x100300410 + 0x20 * (i % 4)
def F.MARKi_LAT3_TS_HI : Field := ⟨0, 32, .rc⟩
def R.MARKi_STAT (i : Nat) : Nat := 0x100300414 + 0x20 * (i % 4)
def F.MARKi_STAT_LEVEL : Field := ⟨0, 5, .ro⟩
def F.MARKi_STAT_OVF : Field := ⟨5, 1, .ro⟩
def F.MARKi_STAT_BLANKED : Field := ⟨16, 16, .ro⟩
def R.CMPj_CTRL (j : Nat) : Nat := 0x100300500 + 0x40 * (j % 8)
def F.CMPj_CTRL_EN : Field := ⟨0, 1, .rw⟩
def F.CMPj_CTRL_SRC : Field := ⟨1, 3, .rw⟩
def F.CMPj_CTRL_POL : Field := ⟨4, 1, .rw⟩
def F.CMPj_CTRL_RESTART : Field := ⟨5, 1, .wo⟩
def F.CMPj_CTRL_WIDTH : Field := ⟨8, 16, .rw⟩
def R.CMPj_STAT (j : Nat) : Nat := 0x100300504 + 0x40 * (j % 8)
def F.CMPj_STAT_PTR : Field := ⟨0, 10, .ro⟩
def F.CMPj_STAT_STATE : Field := ⟨10, 2, .ro⟩
def F.CMPj_STAT_LEVEL : Field := ⟨12, 1, .ro⟩
def R.CMPj_OFF_LO (j : Nat) : Nat := 0x100300508 + 0x40 * (j % 8)
def F.CMPj_OFF_LO_VALUE : Field := ⟨0, 32, .rw⟩
def R.CMPj_OFF_HI (j : Nat) : Nat := 0x10030050c + 0x40 * (j % 8)
def F.CMPj_OFF_HI_VALUE : Field := ⟨0, 32, .rw⟩
def R.CMPj_PER_LO (j : Nat) : Nat := 0x100300510 + 0x40 * (j % 8)
def F.CMPj_PER_LO_VALUE : Field := ⟨0, 32, .rw⟩
def R.CMPj_PER_HI (j : Nat) : Nat := 0x100300514 + 0x40 * (j % 8)
def F.CMPj_PER_HI_VALUE : Field := ⟨0, 32, .rw⟩
def R.CMPj_LATE (j : Nat) : Nat := 0x100300518 + 0x40 * (j % 8)
def F.CMPj_LATE_COUNT : Field := ⟨0, 32, .rc⟩
def R.POS_TAB_ADDR : Nat := 0x100300700
def F.POS_TAB_ADDR_ENTRY : Field := ⟨0, 10, .rw⟩
def F.POS_TAB_ADDR_CMP : Field := ⟨10, 3, .rw⟩
def R.POS_TAB_DATA_LO : Nat := 0x100300704
def F.POS_TAB_DATA_LO_DATA : Field := ⟨0, 32, .rw⟩
def R.POS_TAB_DATA_HI : Nat := 0x100300708
def F.POS_TAB_DATA_HI_DATA : Field := ⟨0, 32, .rw⟩

/-! ## BR block (R284) -/

def R.BR_CTRL : Nat := 0x100308000
def F.BR_CTRL_EN : Field := ⟨0, 1, .rw⟩
def F.BR_CTRL_RUN : Field := ⟨1, 1, .rw⟩
def F.BR_CTRL_STRETCHONLY : Field := ⟨2, 1, .rw⟩
def R.BR_STAT : Nat := 0x100308004
def F.BR_STAT_STATE : Field := ⟨0, 2, .ro⟩
def F.BR_STAT_RUNNING : Field := ⟨2, 1, .ro⟩
def F.BR_STAT_DIRINH : Field := ⟨3, 1, .ro⟩
def F.BR_STAT_BAND : Field := ⟨4, 2, .ro⟩
def F.BR_STAT_DATUMHC : Field := ⟨8, 5, .ro⟩
def F.BR_STAT_DATUMROW : Field := ⟨13, 1, .ro⟩
def F.BR_STAT_PAGEACT : Field := ⟨14, 1, .ro⟩
def F.BR_STAT_PAGE : Field := ⟨16, 8, .ro⟩
def R.BR_EVT : Nat := 0x100308008
def F.BR_EVT_CFGREF : Field := ⟨0, 1, .w1c⟩
def F.BR_EVT_LOCKED : Field := ⟨1, 1, .w1c⟩
def F.BR_EVT_UNLOCK : Field := ⟨2, 1, .w1c⟩
def F.BR_EVT_SNAP : Field := ⟨3, 1, .w1c⟩
def F.BR_EVT_STRETCH : Field := ⟨4, 1, .w1c⟩
def F.BR_EVT_OVSBLANK : Field := ⟨5, 1, .w1c⟩
def F.BR_EVT_PAGESTART : Field := ⟨6, 1, .w1c⟩
def F.BR_EVT_PAGEEND : Field := ⟨7, 1, .w1c⟩
def F.BR_EVT_LATESTART : Field := ⟨8, 1, .w1c⟩
def F.BR_EVT_MARKREJ : Field := ⟨9, 1, .w1c⟩
def F.BR_EVT_DATUMCHG : Field := ⟨10, 1, .w1c⟩
def R.BR_EVT_EN : Nat := 0x10030800c
def F.BR_EVT_EN_CFGREF : Field := ⟨0, 1, .rw⟩
def F.BR_EVT_EN_LOCKED : Field := ⟨1, 1, .rw⟩
def F.BR_EVT_EN_UNLOCK : Field := ⟨2, 1, .rw⟩
def F.BR_EVT_EN_SNAP : Field := ⟨3, 1, .rw⟩
def F.BR_EVT_EN_STRETCH : Field := ⟨4, 1, .rw⟩
def F.BR_EVT_EN_OVSBLANK : Field := ⟨5, 1, .rw⟩
def F.BR_EVT_EN_PAGESTART : Field := ⟨6, 1, .rw⟩
def F.BR_EVT_EN_PAGEEND : Field := ⟨7, 1, .rw⟩
def F.BR_EVT_EN_LATESTART : Field := ⟨8, 1, .rw⟩
def F.BR_EVT_EN_MARKREJ : Field := ⟨9, 1, .rw⟩
def F.BR_EVT_EN_DATUMCHG : Field := ⟨10, 1, .rw⟩
def R.BR_NUM : Nat := 0x100308010
def F.BR_NUM_VALUE : Field := ⟨0, 32, .rw⟩
def R.BR_DEN : Nat := 0x100308014
def F.BR_DEN_VALUE : Field := ⟨0, 32, .rw⟩
def R.BR_ORG_LO : Nat := 0x100308018
def F.BR_ORG_LO_VALUE : Field := ⟨0, 32, .rw⟩
def R.BR_ORG_HI : Nat := 0x10030801c
def F.BR_ORG_HI_VALUE : Field := ⟨0, 32, .rw⟩
def R.BR_LOOP : Nat := 0x100308020
def F.BR_LOOP_BW : Field := ⟨0, 12, .rw⟩
def F.BR_LOOP_ACQBW : Field := ⟨12, 12, .rw⟩
def F.BR_LOOP_DAMP : Field := ⟨24, 8, .rw⟩
def R.BR_LOCK : Nat := 0x100308024
def F.BR_LOCK_LOCKTOL : Field := ⟨0, 8, .rw⟩
def F.BR_LOCK_UNLOCKTOL : Field := ⟨8, 8, .rw⟩
def F.BR_LOCK_SNAPTOL : Field := ⟨16, 8, .rw⟩
def F.BR_LOCK_LOCKN : Field := ⟨24, 8, .rw⟩
def R.BR_VMIN : Nat := 0x100308028
def F.BR_VMIN_VMIN : Field := ⟨0, 20, .rw⟩
def R.BR_OVS : Nat := 0x10030802c
def F.BR_OVS_CLAMP : Field := ⟨0, 10, .rw⟩
def R.BR_STRETCH : Nat := 0x100308030
def F.BR_STRETCH_S : Field := ⟨0, 16, .rw⟩
def R.BR_PAGE_CFG : Nat := 0x100308034
def F.BR_PAGE_CFG_MARKSEL : Field := ⟨0, 2, .rw⟩
def F.BR_PAGE_CFG_MINGAP : Field := ⟨8, 16, .rw⟩
def R.BR_MARKOFF : Nat := 0x100308038
def F.BR_MARKOFF_OFF : Field := ⟨0, 32, .rw⟩
def R.BR_LINESTART : Nat := 0x10030803c
def F.BR_LINESTART_LINE : Field := ⟨0, 32, .rw⟩
def R.BR_PHI_LO : Nat := 0x100308040
def F.BR_PHI_LO_VALUE : Field := ⟨0, 32, .ro⟩
def R.BR_PHI_HI : Nat := 0x100308044
def F.BR_PHI_HI_VALUE : Field := ⟨0, 32, .ro⟩
def R.BR_PHIMAX_LO : Nat := 0x100308048
def F.BR_PHIMAX_LO_VALUE : Field := ⟨0, 32, .ro⟩
def R.BR_PHIMAX_HI : Nat := 0x10030804c
def F.BR_PHIMAX_HI_VALUE : Field := ⟨0, 32, .ro⟩
def R.BR_RATE : Nat := 0x100308050
def F.BR_RATE_RATE : Field := ⟨0, 32, .ro⟩
def R.BR_FMAX : Nat := 0x100308054
def F.BR_FMAX_FMAX : Field := ⟨0, 20, .ro⟩
def R.BR_LINE : Nat := 0x100308058
def F.BR_LINE_LINE : Field := ⟨0, 32, .ro⟩
def R.BR_SNAPLINE : Nat := 0x10030805c
def F.BR_SNAPLINE_LINE : Field := ⟨0, 32, .ro⟩
def R.BR_ERR : Nat := 0x100308060
def F.BR_ERR_E : Field := ⟨0, 32, .ro⟩
def R.BR_STRETCHSUM : Nat := 0x100308064
def F.BR_STRETCHSUM_SUM : Field := ⟨0, 32, .ro⟩
def R.BR_CNT_STRETCH : Nat := 0x100308070
def F.BR_CNT_STRETCH_COUNT : Field := ⟨0, 32, .rc⟩
def R.BR_CNT_OVSBLANK : Nat := 0x100308074
def F.BR_CNT_OVSBLANK_COUNT : Field := ⟨0, 32, .rc⟩
def R.BR_CNT_UNLOCK : Nat := 0x100308078
def F.BR_CNT_UNLOCK_COUNT : Field := ⟨0, 32, .rc⟩
def R.BR_CNT_SNAP : Nat := 0x10030807c
def F.BR_CNT_SNAP_COUNT : Field := ⟨0, 32, .rc⟩
def R.BR_CNT_MARKREJ : Nat := 0x100308080
def F.BR_CNT_MARKREJ_COUNT : Field := ⟨0, 32, .rc⟩

/-! ## BRROW block (R285) -/

def R.BR_ROWU (h : Nat) : Nat := 0x100180400 + 0x1000 * (h % 24)
def F.BR_ROWU_DELAY : Field := ⟨0, 16, .rw⟩
def F.BR_ROWU_PHASE : Field := ⟨16, 16, .rw⟩
def R.BR_ROWD (h : Nat) : Nat := 0x100180404 + 0x1000 * (h % 24)
def F.BR_ROWD_DELAY : Field := ⟨0, 16, .rw⟩
def F.BR_ROWD_PHASE : Field := ⟨16, 16, .rw⟩
def R.BR_HLIMIT (h : Nat) : Nat := 0x100180408 + 0x1000 * (h % 24)
def F.BR_HLIMIT_LIMIT : Field := ⟨0, 20, .ro⟩
def F.BR_HLIMIT_TERM : Field := ⟨20, 2, .ro⟩
def F.BR_HLIMIT_DELTA : Field := ⟨24, 6, .ro⟩
def R.BR_ROWU_NEXT (h : Nat) : Nat := 0x10018040c + 0x1000 * (h % 24)
def F.BR_ROWU_NEXT_LINE : Field := ⟨0, 32, .ro⟩
def R.BR_ROWD_NEXT (h : Nat) : Nat := 0x100180410 + 0x1000 * (h % 24)
def F.BR_ROWD_NEXT_LINE : Field := ⟨0, 32, .ro⟩

/-! ## HAM block (R308) -/

def R.HAM_LEAD (k : Nat) : Nat := 0x100100000 + 0x10000 * (k % 4)
def F.HAM_LEAD_LEAD : Field := ⟨0, 11, .rw⟩
def R.HAM_STAT (k : Nat) : Nat := 0x100100004 + 0x10000 * (k % 4)
def F.HAM_STAT_LEADNOW : Field := ⟨0, 16, .ro⟩
def F.HAM_STAT_CATCHUP : Field := ⟨16, 1, .ro⟩
def F.HAM_STAT_RECOMP : Field := ⟨17, 1, .ro⟩
def R.HAM_LEADDEF (k : Nat) : Nat := 0x100100008 + 0x10000 * (k % 4)
def F.HAM_LEADDEF_DEF : Field := ⟨0, 16, .rc⟩
def R.HAM_PREPLINE (k : Nat) : Nat := 0x10010000c + 0x10000 * (k % 4)
def F.HAM_PREPLINE_LINE : Field := ⟨0, 32, .ro⟩
def R.HAM_EVT (k : Nat) : Nat := 0x100100010 + 0x10000 * (k % 4)
def F.HAM_EVT_LATE : Field := ⟨0, 1, .w1c⟩
def F.HAM_EVT_BLANK : Field := ⟨1, 1, .w1c⟩
def F.HAM_EVT_SKIP : Field := ⟨2, 1, .w1c⟩
def F.HAM_EVT_RECOMP : Field := ⟨3, 1, .w1c⟩
def F.HAM_EVT_LOST : Field := ⟨4, 1, .w1c⟩
def F.HAM_EVT_THRESH : Field := ⟨5, 1, .w1c⟩
def R.HAM_EVT_EN (k : Nat) : Nat := 0x100100014 + 0x10000 * (k % 4)
def F.HAM_EVT_EN_LATE : Field := ⟨0, 1, .rw⟩
def F.HAM_EVT_EN_BLANK : Field := ⟨1, 1, .rw⟩
def F.HAM_EVT_EN_SKIP : Field := ⟨2, 1, .rw⟩
def F.HAM_EVT_EN_RECOMP : Field := ⟨3, 1, .rw⟩
def F.HAM_EVT_EN_LOST : Field := ⟨4, 1, .rw⟩
def F.HAM_EVT_EN_THRESH : Field := ⟨5, 1, .rw⟩
def R.HAM_ERR_THR (k : Nat) : Nat := 0x100100018 + 0x10000 * (k % 4)
def F.HAM_ERR_THR_ERRMAX : Field := ⟨0, 8, .rw⟩
def F.HAM_ERR_THR_WINDOW : Field := ⟨16, 16, .rw⟩
def R.HAM_CNT_LATE (k : Nat) : Nat := 0x100100020 + 0x10000 * (k % 4)
def F.HAM_CNT_LATE_COUNT : Field := ⟨0, 32, .rc⟩
def R.HAM_CNT_BLANK (k : Nat) : Nat := 0x100100024 + 0x10000 * (k % 4)
def F.HAM_CNT_BLANK_COUNT : Field := ⟨0, 32, .rc⟩
def R.HAM_CNT_SKIP (k : Nat) : Nat := 0x100100028 + 0x10000 * (k % 4)
def F.HAM_CNT_SKIP_COUNT : Field := ⟨0, 32, .rc⟩
def R.HAM_CNT_RECOMP (k : Nat) : Nat := 0x10010002c + 0x10000 * (k % 4)
def F.HAM_CNT_RECOMP_COUNT : Field := ⟨0, 32, .rc⟩
def R.HAM_CNT_PARITY (k : Nat) : Nat := 0x100100030 + 0x10000 * (k % 4)
def F.HAM_CNT_PARITY_COUNT : Field := ⟨0, 32, .rc⟩
def R.HAM_CNT_LOST (k : Nat) : Nat := 0x100100034 + 0x10000 * (k % 4)
def F.HAM_CNT_LOST_COUNT : Field := ⟨0, 32, .rc⟩

/-! ## FAULT block (R309) -/

def R.FAULT_CTRL : Nat := 0x100420000
def F.FAULT_CTRL_SAFESTOP : Field := ⟨0, 1, .wo⟩
def F.FAULT_CTRL_CLEAR : Field := ⟨1, 1, .wo⟩
def F.FAULT_CTRL_MERGE : Field := ⟨2, 1, .rw⟩
def R.FAULT_STAT : Nat := 0x100420004
def F.FAULT_STAT_SAFE : Field := ⟨0, 1, .ro⟩
def F.FAULT_STAT_SSCAUSE : Field := ⟨4, 4, .ro⟩
def F.FAULT_STAT_HCRET : Field := ⟨8, 24, .ro⟩
def R.FAULT_EVT : Nat := 0x100420008
def F.FAULT_EVT_SAFESTOP : Field := ⟨0, 1, .w1c⟩
def F.FAULT_EVT_PERM : Field := ⟨1, 1, .w1c⟩
def F.FAULT_EVT_RETIRE : Field := ⟨2, 1, .w1c⟩
def F.FAULT_EVT_READMIT : Field := ⟨3, 1, .w1c⟩
def F.FAULT_EVT_LOGOVF : Field := ⟨4, 1, .w1c⟩
def F.FAULT_EVT_HAMTHR : Field := ⟨5, 1, .w1c⟩
def F.FAULT_EVT_CLEARREF : Field := ⟨6, 1, .w1c⟩
def R.FAULT_EVT_EN : Nat := 0x10042000c
def F.FAULT_EVT_EN_SAFESTOP : Field := ⟨0, 1, .rw⟩
def F.FAULT_EVT_EN_PERM : Field := ⟨1, 1, .rw⟩
def F.FAULT_EVT_EN_RETIRE : Field := ⟨2, 1, .rw⟩
def F.FAULT_EVT_EN_READMIT : Field := ⟨3, 1, .rw⟩
def F.FAULT_EVT_EN_LOGOVF : Field := ⟨4, 1, .rw⟩
def F.FAULT_EVT_EN_HAMTHR : Field := ⟨5, 1, .rw⟩
def F.FAULT_EVT_EN_CLEARREF : Field := ⟨6, 1, .rw⟩
def R.FAULT_HC_RETIRE : Nat := 0x100420010
def F.FAULT_HC_RETIRE_HC : Field := ⟨0, 24, .wo⟩
def R.FAULT_HC_READMIT : Nat := 0x100420014
def F.FAULT_HC_READMIT_HC : Field := ⟨0, 24, .wo⟩
def R.FAULT_NOZ_RETIRE : Nat := 0x100420018
def F.FAULT_NOZ_RETIRE_NOZ : Field := ⟨0, 17, .wo⟩
def R.FAULT_LOG_WR : Nat := 0x100420020
def F.FAULT_LOG_WR_SEQ : Field := ⟨0, 32, .ro⟩
def R.FAULT_LOG_RD : Nat := 0x100420024
def F.FAULT_LOG_RD_SEQ : Field := ⟨0, 32, .rw⟩
def R.FAULT_LOG_LOST : Nat := 0x100420028
def F.FAULT_LOG_LOST_COUNT : Field := ⟨0, 32, .rc⟩
def R.FAULT_LOG_Ww (w : Nat) : Nat := 0x100420040 + 0x4 * (w % 8)
def F.FAULT_LOG_Ww_DATA : Field := ⟨0, 32, .ro⟩

/-! ## CAM block (R337) -/

def R.CAM_EVT : Nat := 0x100200000
def F.CAM_EVT_DROP : Field := ⟨0, 4, .w1c⟩
def F.CAM_EVT_RETIRED : Field := ⟨4, 4, .w1c⟩
def F.CAM_EVT_READMITTED : Field := ⟨8, 4, .w1c⟩
def F.CAM_EVT_RESFULL : Field := ⟨12, 2, .w1c⟩
def F.CAM_EVT_MAPLOST : Field := ⟨14, 2, .w1c⟩
def F.CAM_EVT_LADDER : Field := ⟨16, 2, .w1c⟩
def F.CAM_EVT_PAGE : Field := ⟨18, 2, .w1c⟩
def R.CAM_EVT_EN : Nat := 0x100200004
def F.CAM_EVT_EN_DROP : Field := ⟨0, 4, .rw⟩
def F.CAM_EVT_EN_RETIRED : Field := ⟨4, 4, .rw⟩
def F.CAM_EVT_EN_READMITTED : Field := ⟨8, 4, .rw⟩
def F.CAM_EVT_EN_RESFULL : Field := ⟨12, 2, .rw⟩
def F.CAM_EVT_EN_MAPLOST : Field := ⟨14, 2, .rw⟩
def F.CAM_EVT_EN_LADDER : Field := ⟨16, 2, .rw⟩
def F.CAM_EVT_EN_PAGE : Field := ⟨18, 2, .rw⟩
def R.CAM_READMIT : Nat := 0x100200008
def F.CAM_READMIT_PORT : Field := ⟨0, 4, .wo⟩
def R.CAM_NOZ_RETIRE : Nat := 0x10020000c
def F.CAM_NOZ_RETIRE_NOZ : Field := ⟨0, 17, .wo⟩
def R.CAM_TAB_ADDR : Nat := 0x100200010
def F.CAM_TAB_ADDR_INDEX : Field := ⟨0, 14, .rw⟩
def F.CAM_TAB_ADDR_TAB : Field := ⟨16, 2, .rw⟩
def F.CAM_TAB_ADDR_UNIT : Field := ⟨20, 2, .rw⟩
def R.CAM_TAB_DATA : Nat := 0x100200014
def F.CAM_TAB_DATA_VALUE : Field := ⟨0, 16, .rw⟩
def R.CAM_LAD_CFG : Nat := 0x100200018
def F.CAM_LAD_CFG_N : Field := ⟨0, 8, .rw⟩
def F.CAM_LAD_CFG_BANDH : Field := ⟨8, 8, .rw⟩
def F.CAM_LAD_CFG_BANDGAP : Field := ⟨16, 8, .rw⟩
def F.CAM_LAD_CFG_LEVEL : Field := ⟨24, 2, .rw⟩
def R.CAM_LAD_NOM : Nat := 0x10020001c
def F.CAM_LAD_NOM_NOM : Field := ⟨0, 16, .rw⟩
def F.CAM_LAD_NOM_PRESMIN : Field := ⟨16, 8, .rw⟩
def R.CAM_LAD_NEXT : Nat := 0x100200020
def F.CAM_LAD_NEXT_LINE : Field := ⟨0, 32, .ro⟩
def R.CAM_REF_LO : Nat := 0x100200024
def F.CAM_REF_LO_BASE_LO : Field := ⟨6, 26, .rw⟩
def R.CAM_REF_HI : Nat := 0x100200028
def F.CAM_REF_HI_BASE_HI : Field := ⟨0, 8, .rw⟩
def R.CAM_REF_LINES : Nat := 0x10020002c
def F.CAM_REF_LINES_LINES : Field := ⟨0, 16, .rw⟩
def R.CAMn_CTRL (n : Nat) : Nat := 0x100200100 + 0x80 * (n % 4)
def F.CAMn_CTRL_ARM : Field := ⟨0, 1, .rw⟩
def F.CAMn_CTRL_TAPS : Field := ⟨1, 1, .rw⟩
def F.CAMn_CTRL_TAPMODE : Field := ⟨2, 1, .rw⟩
def F.CAMn_CTRL_FRAMEMODE : Field := ⟨3, 1, .rw⟩
def F.CAMn_CTRL_CAPEN : Field := ⟨4, 1, .rw⟩
def F.CAMn_CTRL_TRIGSRC : Field := ⟨8, 4, .rw⟩
def F.CAMn_CTRL_SWTRIG : Field := ⟨12, 1, .wo⟩
def R.CAMn_STAT (n : Nat) : Nat := 0x100200104 + 0x80 * (n % 4)
def F.CAMn_STAT_STATE : Field := ⟨0, 2, .ro⟩
def F.CAMn_STAT_DROPPING : Field := ⟨2, 1, .ro⟩
def F.CAMn_STAT_TRIGLVL : Field := ⟨3, 5, .ro⟩
def F.CAMn_STAT_FIFOLVL : Field := ⟨8, 11, .ro⟩
def F.CAMn_STAT_LASTCAUSE : Field := ⟨24, 4, .ro⟩
def R.CAMn_GEOM (n : Nat) : Nat := 0x100200108 + 0x80 * (n % 4)
def F.CAMn_GEOM_LINEPX : Field := ⟨0, 15, .rw⟩
def F.CAMn_GEOM_FRAMELINES : Field := ⟨16, 15, .rw⟩
def R.CAMn_TIMEOUT (n : Nat) : Nat := 0x10020010c + 0x80 * (n % 4)
def F.CAMn_TIMEOUT_LINETO : Field := ⟨0, 16, .rw⟩
def R.CAMn_EXP (n : Nat) : Nat := 0x100200110 + 0x80 * (n % 4)
def F.CAMn_EXP_EXPW : Field := ⟨0, 24, .rw⟩
def R.CAMn_GAIN (n : Nat) : Nat := 0x100200114 + 0x80 * (n % 4)
def F.CAMn_GAIN_GAIN : Field := ⟨0, 16, .rw⟩
def F.CAMn_GAIN_EXPSET : Field := ⟨16, 16, .rw⟩
def R.CAMn_EXP_NOW (n : Nat) : Nat := 0x100200118 + 0x80 * (n % 4)
def F.CAMn_EXP_NOW_EXPW : Field := ⟨0, 24, .ro⟩
def R.CAMn_GAIN_NOW (n : Nat) : Nat := 0x10020011c + 0x80 * (n % 4)
def F.CAMn_GAIN_NOW_GAIN : Field := ⟨0, 16, .ro⟩
def F.CAMn_GAIN_NOW_EXPSET : Field := ⟨16, 16, .ro⟩
def R.CAMn_FSEQ (n : Nat) : Nat := 0x100200120 + 0x80 * (n % 4)
def F.CAMn_FSEQ_FSEQ : Field := ⟨0, 32, .ro⟩
def R.CAMn_X0 (n : Nat) : Nat := 0x100200124 + 0x80 * (n % 4)
def F.CAMn_X0_X0 : Field := ⟨0, 32, .rw⟩
def R.CAMn_PITCH (n : Nat) : Nat := 0x100200128 + 0x80 * (n % 4)
def F.CAMn_PITCH_PITCH : Field := ⟨0, 32, .rw⟩
def R.CAMn_YDIST (n : Nat) : Nat := 0x10020012c + 0x80 * (n % 4)
def F.CAMn_YDIST_YDIST : Field := ⟨0, 32, .rw⟩
def R.CAMn_SER_CFG (n : Nat) : Nat := 0x100200130 + 0x80 * (n % 4)
def F.CAMn_SER_CFG_EN : Field := ⟨0, 1, .rw⟩
def F.CAMn_SER_CFG_DIV : Field := ⟨8, 16, .rw⟩
def R.CAMn_SER_DATA (n : Nat) : Nat := 0x100200134 + 0x80 * (n % 4)
def F.CAMn_SER_DATA_DATA : Field := ⟨0, 8, .rw⟩
def F.CAMn_SER_DATA_RXV : Field := ⟨8, 1, .ro⟩
def F.CAMn_SER_DATA_TXFULL : Field := ⟨9, 1, .ro⟩
def F.CAMn_SER_DATA_RXOVF : Field := ⟨10, 1, .ro⟩
def R.CAMn_ERR_THR (n : Nat) : Nat := 0x100200138 + 0x80 * (n % 4)
def F.CAMn_ERR_THR_ERRMAX : Field := ⟨0, 8, .rw⟩
def F.CAMn_ERR_THR_WINDOW : Field := ⟨16, 16, .rw⟩
def R.CAMn_CNT_FRAMES (n : Nat) : Nat := 0x10020013c + 0x80 * (n % 4)
def F.CAMn_CNT_FRAMES_COUNT : Field := ⟨0, 32, .rc⟩
def R.CAMn_CNT_DROP (n : Nat) : Nat := 0x100200140 + 0x80 * (n % 4)
def F.CAMn_CNT_DROP_COUNT : Field := ⟨0, 32, .rc⟩
def R.Pp_CTRL (p : Nat) : Nat := 0x100200400 + 0x80 * (p % 2)
def F.Pp_CTRL_ARB : Field := ⟨0, 1, .rw⟩
def F.Pp_CTRL_PRIO : Field := ⟨1, 1, .rw⟩
def F.Pp_CTRL_FF : Field := ⟨2, 1, .rw⟩
def F.Pp_CTRL_LAD : Field := ⟨3, 1, .rw⟩
def F.Pp_CTRL_CMP : Field := ⟨4, 1, .rw⟩
def R.Pp_STAT (p : Nat) : Nat := 0x100200404 + 0x80 * (p % 2)
def F.Pp_STAT_MAPLVL : Field := ⟨0, 11, .ro⟩
def F.Pp_STAT_LASTPORT : Field := ⟨16, 1, .ro⟩
def F.Pp_STAT_BUSY : Field := ⟨17, 1, .ro⟩
def R.Pp_RES_LO (p : Nat) : Nat := 0x100200408 + 0x80 * (p % 2)
def F.Pp_RES_LO_BASE_LO : Field := ⟨5, 27, .rw⟩
def R.Pp_RES_HI (p : Nat) : Nat := 0x10020040c + 0x80 * (p % 2)
def F.Pp_RES_HI_BASE_HI : Field := ⟨0, 8, .rw⟩
def F.Pp_RES_HI_SIZE_LOG2 : Field := ⟨16, 4, .rw⟩
def R.Pp_RES_WR (p : Nat) : Nat := 0x100200410 + 0x80 * (p % 2)
def F.Pp_RES_WR_INDEX : Field := ⟨0, 15, .ro⟩
def R.Pp_RES_RD (p : Nat) : Nat := 0x100200414 + 0x80 * (p % 2)
def F.Pp_RES_RD_INDEX : Field := ⟨0, 15, .rw⟩
def R.Pp_REGION (p : Nat) : Nat := 0x100200418 + 0x80 * (p % 2)
def F.Pp_REGION_REGW : Field := ⟨0, 8, .rw⟩
def F.Pp_REGION_REGH : Field := ⟨8, 8, .rw⟩
def R.Pp_CMPTHR (p : Nat) : Nat := 0x10020041c + 0x80 * (p % 2)
def F.Pp_CMPTHR_PIXTHR : Field := ⟨0, 12, .rw⟩
def F.Pp_CMPTHR_CNTTHR : Field := ⟨12, 12, .rw⟩
def F.Pp_CMPTHR_MEANTHR : Field := ⟨24, 8, .rw⟩
def R.Pp_CNT_RESLOST (p : Nat) : Nat := 0x100200420 + 0x80 * (p % 2)
def F.Pp_CNT_RESLOST_COUNT : Field := ⟨0, 32, .rc⟩

/-! ## CAL block (R351) -/

def R.CAL_CTRL : Nat := 0x100320000
def F.CAL_CTRL_EN : Field := ⟨0, 1, .rw⟩
def F.CAL_CTRL_TRIMEN : Field := ⟨1, 1, .rw⟩
def R.CAL_STAT : Nat := 0x100320004
def F.CAL_STAT_CURHC : Field := ⟨0, 5, .ro⟩
def F.CAL_STAT_BUSY : Field := ⟨5, 1, .ro⟩
def F.CAL_STAT_LAG : Field := ⟨8, 8, .ro⟩
def R.CAL_EVT : Nat := 0x100320008
def F.CAL_EVT_CYCLE : Field := ⟨0, 1, .w1c⟩
def F.CAL_EVT_CUT : Field := ⟨1, 1, .w1c⟩
def F.CAL_EVT_IMPLAUS : Field := ⟨2, 1, .w1c⟩
def F.CAL_EVT_RANGE : Field := ⟨3, 1, .w1c⟩
def F.CAL_EVT_ADCRANGE : Field := ⟨4, 1, .w1c⟩
def R.CAL_EVT_EN : Nat := 0x10032000c
def F.CAL_EVT_EN_CYCLE : Field := ⟨0, 1, .rw⟩
def F.CAL_EVT_EN_CUT : Field := ⟨1, 1, .rw⟩
def F.CAL_EVT_EN_IMPLAUS : Field := ⟨2, 1, .rw⟩
def F.CAL_EVT_EN_RANGE : Field := ⟨3, 1, .rw⟩
def F.CAL_EVT_EN_ADCRANGE : Field := ⟨4, 1, .rw⟩
def R.CAL_SCHED : Nat := 0x100320010
def F.CAL_SCHED_PERIOD : Field := ⟨0, 16, .rw⟩
def F.CAL_SCHED_NPT : Field := ⟨16, 8, .rw⟩
def F.CAL_SCHED_MAXSTEP : Field := ⟨24, 8, .rw⟩
def R.CAL_SLOT : Nat := 0x100320014
def F.CAL_SLOT_SETTLE : Field := ⟨0, 8, .rw⟩
def F.CAL_SLOT_RECOV : Field := ⟨8, 8, .rw⟩
def F.CAL_SLOT_STEPLINES : Field := ⟨16, 16, .rw⟩
def R.CAL_HCMASK : Nat := 0x100320018
def F.CAL_HCMASK_HC : Field := ⟨0, 24, .rw⟩
def R.CAL_TSLIN : Nat := 0x10032001c
def F.CAL_TSLIN_TSOFF : Field := ⟨0, 16, .rw⟩
def F.CAL_TSLIN_TSSLOPE : Field := ⟨16, 16, .rw⟩
def R.CAL_TSCFG : Nat := 0x100320020
def F.CAL_TSCFG_TAVG : Field := ⟨0, 8, .rw⟩
def F.CAL_TSCFG_PCALN : Field := ⟨8, 8, .rw⟩
def F.CAL_TSCFG_PCALPER : Field := ⟨16, 16, .rw⟩
def R.CAL_ADC : Nat := 0x100320024
def F.CAL_ADC_OFSTRIM : Field := ⟨0, 8, .ro⟩
def F.CAL_ADC_ZERO : Field := ⟨8, 16, .ro⟩
def R.CAL_CNT_SLOTS : Nat := 0x100320028
def F.CAL_CNT_SLOTS_COUNT : Field := ⟨0, 32, .rc⟩
def R.CAL_CNT_CUT : Nat := 0x10032002c
def F.CAL_CNT_CUT_COUNT : Field := ⟨0, 32, .rc⟩
def R.CAL_CNT_IMPLAUS : Nat := 0x100320030
def F.CAL_CNT_IMPLAUS_COUNT : Field := ⟨0, 32, .rc⟩
def R.CAL_HCh_TRIM (h : Nat) : Nat := 0x100320100 + 0x20 * (h % 24)
def F.CAL_HCh_TRIM_OFS : Field := ⟨0, 10, .rw⟩
def F.CAL_HCh_TRIM_GAIN : Field := ⟨16, 10, .rw⟩
def R.CAL_HCh_NOW (h : Nat) : Nat := 0x100320104 + 0x20 * (h % 24)
def F.CAL_HCh_NOW_OFS : Field := ⟨0, 10, .ro⟩
def F.CAL_HCh_NOW_GAIN : Field := ⟨16, 10, .ro⟩
def R.CAL_HCh_PTS (h : Nat) : Nat := 0x100320108 + 0x20 * (h % 24)
def F.CAL_HCh_PTS_CODELO : Field := ⟨0, 14, .rw⟩
def F.CAL_HCh_PTS_CODEHI : Field := ⟨16, 14, .rw⟩
def R.CAL_HCh_TGT (h : Nat) : Nat := 0x10032010c + 0x20 * (h % 24)
def F.CAL_HCh_TGT_TGTLO : Field := ⟨0, 16, .rw⟩
def F.CAL_HCh_TGT_TGTHI : Field := ⟨16, 16, .rw⟩
def R.CAL_HCh_MEAS (h : Nat) : Nat := 0x100320110 + 0x20 * (h % 24)
def F.CAL_HCh_MEAS_MLO : Field := ⟨0, 16, .ro⟩
def F.CAL_HCh_MEAS_MHI : Field := ⟨16, 16, .ro⟩
def R.CAL_HCh_PATH (h : Nat) : Nat := 0x100320114 + 0x20 * (h % 24)
def F.CAL_HCh_PATH_TSOFS : Field := ⟨0, 16, .ro⟩
def F.CAL_HCh_PATH_VSOFS : Field := ⟨16, 16, .ro⟩
def R.CAL_HCh_STAT (h : Nat) : Nat := 0x100320118 + 0x20 * (h % 24)
def F.CAL_HCh_STAT_BUSY : Field := ⟨0, 1, .ro⟩
def F.CAL_HCh_STAT_TSCAL : Field := ⟨1, 1, .ro⟩
def F.CAL_HCh_STAT_VSCAL : Field := ⟨2, 1, .ro⟩
def F.CAL_HCh_STAT_RANGE : Field := ⟨3, 1, .ro⟩
def F.CAL_HCh_STAT_IMPLAUS : Field := ⟨4, 1, .ro⟩
def F.CAL_HCh_STAT_STEPPING : Field := ⟨5, 1, .ro⟩
def R.CAL_HCh_LASTLINE (h : Nat) : Nat := 0x10032011c + 0x20 * (h % 24)
def F.CAL_HCh_LASTLINE_LINE : Field := ⟨0, 32, .ro⟩

/-! ## MOT block (R377) -/

def R.MOT_PWM : Nat := 0x100310000
def F.MOT_PWM_DEADT : Field := ⟨0, 8, .rw⟩
def R.MOT_EVT : Nat := 0x100310004
def F.MOT_EVT_AX0_DONE : Field := ⟨0, 1, .w1c⟩
def F.MOT_EVT_AX0_HOMED : Field := ⟨1, 1, .w1c⟩
def F.MOT_EVT_AX0_LIMIT : Field := ⟨2, 1, .w1c⟩
def F.MOT_EVT_AX0_FAULT : Field := ⟨3, 1, .w1c⟩
def F.MOT_EVT_AX0_REVERSE : Field := ⟨4, 1, .w1c⟩
def F.MOT_EVT_AX0_TGTREF : Field := ⟨5, 1, .w1c⟩
def F.MOT_EVT_AX1_DONE : Field := ⟨8, 1, .w1c⟩
def F.MOT_EVT_AX1_HOMED : Field := ⟨9, 1, .w1c⟩
def F.MOT_EVT_AX1_LIMIT : Field := ⟨10, 1, .w1c⟩
def F.MOT_EVT_AX1_FAULT : Field := ⟨11, 1, .w1c⟩
def F.MOT_EVT_AX1_REVERSE : Field := ⟨12, 1, .w1c⟩
def F.MOT_EVT_AX1_TGTREF : Field := ⟨13, 1, .w1c⟩
def F.MOT_EVT_AX2_DONE : Field := ⟨16, 1, .w1c⟩
def F.MOT_EVT_AX2_HOMED : Field := ⟨17, 1, .w1c⟩
def F.MOT_EVT_AX2_LIMIT : Field := ⟨18, 1, .w1c⟩
def F.MOT_EVT_AX2_FAULT : Field := ⟨19, 1, .w1c⟩
def F.MOT_EVT_AX2_REVERSE : Field := ⟨20, 1, .w1c⟩
def F.MOT_EVT_AX2_TGTREF : Field := ⟨21, 1, .w1c⟩
def F.MOT_EVT_AX3_DONE : Field := ⟨24, 1, .w1c⟩
def F.MOT_EVT_AX3_HOMED : Field := ⟨25, 1, .w1c⟩
def F.MOT_EVT_AX3_LIMIT : Field := ⟨26, 1, .w1c⟩
def F.MOT_EVT_AX3_FAULT : Field := ⟨27, 1, .w1c⟩
def F.MOT_EVT_AX3_REVERSE : Field := ⟨28, 1, .w1c⟩
def F.MOT_EVT_AX3_TGTREF : Field := ⟨29, 1, .w1c⟩
def R.MOT_EVT_EN : Nat := 0x100310008
def F.MOT_EVT_EN_AX0_DONE : Field := ⟨0, 1, .rw⟩
def F.MOT_EVT_EN_AX0_HOMED : Field := ⟨1, 1, .rw⟩
def F.MOT_EVT_EN_AX0_LIMIT : Field := ⟨2, 1, .rw⟩
def F.MOT_EVT_EN_AX0_FAULT : Field := ⟨3, 1, .rw⟩
def F.MOT_EVT_EN_AX0_REVERSE : Field := ⟨4, 1, .rw⟩
def F.MOT_EVT_EN_AX0_TGTREF : Field := ⟨5, 1, .rw⟩
def F.MOT_EVT_EN_AX1_DONE : Field := ⟨8, 1, .rw⟩
def F.MOT_EVT_EN_AX1_HOMED : Field := ⟨9, 1, .rw⟩
def F.MOT_EVT_EN_AX1_LIMIT : Field := ⟨10, 1, .rw⟩
def F.MOT_EVT_EN_AX1_FAULT : Field := ⟨11, 1, .rw⟩
def F.MOT_EVT_EN_AX1_REVERSE : Field := ⟨12, 1, .rw⟩
def F.MOT_EVT_EN_AX1_TGTREF : Field := ⟨13, 1, .rw⟩
def F.MOT_EVT_EN_AX2_DONE : Field := ⟨16, 1, .rw⟩
def F.MOT_EVT_EN_AX2_HOMED : Field := ⟨17, 1, .rw⟩
def F.MOT_EVT_EN_AX2_LIMIT : Field := ⟨18, 1, .rw⟩
def F.MOT_EVT_EN_AX2_FAULT : Field := ⟨19, 1, .rw⟩
def F.MOT_EVT_EN_AX2_REVERSE : Field := ⟨20, 1, .rw⟩
def F.MOT_EVT_EN_AX2_TGTREF : Field := ⟨21, 1, .rw⟩
def F.MOT_EVT_EN_AX3_DONE : Field := ⟨24, 1, .rw⟩
def F.MOT_EVT_EN_AX3_HOMED : Field := ⟨25, 1, .rw⟩
def F.MOT_EVT_EN_AX3_LIMIT : Field := ⟨26, 1, .rw⟩
def F.MOT_EVT_EN_AX3_FAULT : Field := ⟨27, 1, .rw⟩
def F.MOT_EVT_EN_AX3_REVERSE : Field := ⟨28, 1, .rw⟩
def F.MOT_EVT_EN_AX3_TGTREF : Field := ⟨29, 1, .rw⟩
def R.MOT_AXn_CTRL (n : Nat) : Nat := 0x100310100 + 0x80 * (n % 4)
def F.MOT_AXn_CTRL_EN : Field := ⟨0, 1, .rw⟩
def F.MOT_AXn_CTRL_MODE : Field := ⟨1, 2, .rw⟩
def F.MOT_AXn_CTRL_SHAPE : Field := ⟨3, 1, .rw⟩
def F.MOT_AXn_CTRL_SSACT : Field := ⟨4, 2, .rw⟩
def F.MOT_AXn_CTRL_LINK : Field := ⟨6, 1, .rw⟩
def F.MOT_AXn_CTRL_HYST : Field := ⟨8, 8, .rw⟩
def R.MOT_AXn_CMD (n : Nat) : Nat := 0x100310104 + 0x80 * (n % 4)
def F.MOT_AXn_CMD_CMD : Field := ⟨0, 4, .wo⟩
def R.MOT_AXn_STAT (n : Nat) : Nat := 0x100310108 + 0x80 * (n % 4)
def F.MOT_AXn_STAT_STATE : Field := ⟨0, 3, .ro⟩
def F.MOT_AXn_STAT_DIR : Field := ⟨3, 1, .ro⟩
def F.MOT_AXn_STAT_STILL : Field := ⟨4, 1, .ro⟩
def F.MOT_AXn_STAT_VVALID : Field := ⟨5, 1, .ro⟩
def F.MOT_AXn_STAT_REF : Field := ⟨6, 1, .ro⟩
def F.MOT_AXn_STAT_PEND : Field := ⟨7, 1, .ro⟩
def F.MOT_AXn_STAT_RES : Field := ⟨8, 3, .ro⟩
def F.MOT_AXn_STAT_LIMNEG : Field := ⟨11, 1, .ro⟩
def F.MOT_AXn_STAT_LIMPOS : Field := ⟨12, 1, .ro⟩
def F.MOT_AXn_STAT_BLEND : Field := ⟨13, 1, .ro⟩
def F.MOT_AXn_STAT_CAUSE : Field := ⟨16, 4, .ro⟩
def F.MOT_AXn_STAT_GLAG : Field := ⟨24, 8, .ro⟩
def R.MOT_AXn_POS (n : Nat) : Nat := 0x10031010c + 0x80 * (n % 4)
def F.MOT_AXn_POS_VALUE : Field := ⟨0, 32, .ro⟩
def R.MOT_AXn_VEL (n : Nat) : Nat := 0x100310110 + 0x80 * (n % 4)
def F.MOT_AXn_VEL_VALUE : Field := ⟨0, 32, .ro⟩
def R.MOT_AXn_TGT (n : Nat) : Nat := 0x100310114 + 0x80 * (n % 4)
def F.MOT_AXn_TGT_VALUE : Field := ⟨0, 32, .rw⟩
def R.MOT_AXn_VMAX (n : Nat) : Nat := 0x100310118 + 0x80 * (n % 4)
def F.MOT_AXn_VMAX_VALUE : Field := ⟨0, 32, .rw⟩
def R.MOT_AXn_AMAX (n : Nat) : Nat := 0x10031011c + 0x80 * (n % 4)
def F.MOT_AXn_AMAX_VALUE : Field := ⟨0, 32, .rw⟩
def R.MOT_AXn_DMAX (n : Nat) : Nat := 0x100310120 + 0x80 * (n % 4)
def F.MOT_AXn_DMAX_VALUE : Field := ⟨0, 32, .rw⟩
def R.MOT_AXn_QDEC (n : Nat) : Nat := 0x100310124 + 0x80 * (n % 4)
def F.MOT_AXn_QDEC_VALUE : Field := ⟨0, 32, .rw⟩
def R.MOT_AXn_TRAP (n : Nat) : Nat := 0x100310128 + 0x80 * (n % 4)
def F.MOT_AXn_TRAP_VSTART : Field := ⟨0, 16, .rw⟩
def F.MOT_AXn_TRAP_VSTOP : Field := ⟨16, 16, .rw⟩
def R.MOT_AXn_VBREAK (n : Nat) : Nat := 0x10031012c + 0x80 * (n % 4)
def F.MOT_AXn_VBREAK_VALUE : Field := ⟨0, 32, .rw⟩
def R.MOT_AXn_ACC1 (n : Nat) : Nat := 0x100310130 + 0x80 * (n % 4)
def F.MOT_AXn_ACC1_VALUE : Field := ⟨0, 32, .rw⟩
def R.MOT_AXn_DEC1 (n : Nat) : Nat := 0x100310134 + 0x80 * (n % 4)
def F.MOT_AXn_DEC1_VALUE : Field := ⟨0, 32, .rw⟩
def R.MOT_AXn_CUR (n : Nat) : Nat := 0x100310138 + 0x80 * (n % 4)
def F.MOT_AXn_CUR_IRUN : Field := ⟨0, 12, .rw⟩
def F.MOT_AXn_CUR_IHOLD : Field := ⟨12, 12, .rw⟩
def F.MOT_AXn_CUR_HOLDDLY : Field := ⟨24, 8, .rw⟩
def R.MOT_AXn_CURPI (n : Nat) : Nat := 0x10031013c + 0x80 * (n % 4)
def F.MOT_AXn_CURPI_KP : Field := ⟨0, 12, .rw⟩
def F.MOT_AXn_CURPI_KI : Field := ⟨12, 12, .rw⟩
def F.MOT_AXn_CURPI_IMAX : Field := ⟨24, 8, .rw⟩
def R.MOT_AXn_USTEP0 (n : Nat) : Nat := 0x100310140 + 0x80 * (n % 4)
def F.MOT_AXn_USTEP0_UP1 : Field := ⟨0, 16, .rw⟩
def F.MOT_AXn_USTEP0_UP2 : Field := ⟨16, 16, .rw⟩
def R.MOT_AXn_USTEP1 (n : Nat) : Nat := 0x100310144 + 0x80 * (n % 4)
def F.MOT_AXn_USTEP1_UP3 : Field := ⟨0, 16, .rw⟩
def F.MOT_AXn_USTEP1_UP4 : Field := ⟨16, 16, .rw⟩
def R.MOT_AXn_SW (n : Nat) : Nat := 0x100310148 + 0x80 * (n % 4)
def F.MOT_AXn_SW_HOMESEL : Field := ⟨0, 3, .rw⟩
def F.MOT_AXn_SW_HOMEEN : Field := ⟨3, 1, .rw⟩
def F.MOT_AXn_SW_LNEGSEL : Field := ⟨4, 3, .rw⟩
def F.MOT_AXn_SW_LNEGEN : Field := ⟨7, 1, .rw⟩
def F.MOT_AXn_SW_LPOSSEL : Field := ⟨8, 3, .rw⟩
def F.MOT_AXn_SW_LPOSEN : Field := ⟨11, 1, .rw⟩
def F.MOT_AXn_SW_HDIR : Field := ⟨12, 1, .rw⟩
def R.MOT_AXn_HOME (n : Nat) : Nat := 0x10031014c + 0x80 * (n % 4)
def F.MOT_AXn_HOME_HFAST : Field := ⟨0, 16, .rw⟩
def F.MOT_AXn_HOME_HSLOW : Field := ⟨16, 16, .rw⟩
def R.MOT_AXn_HOMEPOS (n : Nat) : Nat := 0x100310150 + 0x80 * (n % 4)
def F.MOT_AXn_HOMEPOS_VALUE : Field := ⟨0, 32, .rw⟩
def R.MOT_AXn_HMAXDIST (n : Nat) : Nat := 0x100310154 + 0x80 * (n % 4)
def F.MOT_AXn_HMAXDIST_VALUE : Field := ⟨0, 32, .rw⟩
def R.MOT_AXn_SOFTLO (n : Nat) : Nat := 0x100310158 + 0x80 * (n % 4)
def F.MOT_AXn_SOFTLO_VALUE : Field := ⟨0, 32, .rw⟩
def R.MOT_AXn_SOFTHI (n : Nat) : Nat := 0x10031015c + 0x80 * (n % 4)
def F.MOT_AXn_SOFTHI_VALUE : Field := ⟨0, 32, .rw⟩
def R.MOT_AXn_SSPOS (n : Nat) : Nat := 0x100310160 + 0x80 * (n % 4)
def F.MOT_AXn_SSPOS_VALUE : Field := ⟨0, 32, .rw⟩
def R.MOT_AXn_LINKOFS (n : Nat) : Nat := 0x100310164 + 0x80 * (n % 4)
def F.MOT_AXn_LINKOFS_VALUE : Field := ⟨0, 32, .ro⟩
def R.MOT_AX2_GCFG : Nat := 0x100310268
def F.MOT_AX2_GCFG_SRC : Field := ⟨0, 3, .rw⟩
def F.MOT_AX2_GCFG_LAGMAX : Field := ⟨8, 16, .rw⟩
def R.MOT_AX2_GRATIO : Nat := 0x10031026c
def F.MOT_AX2_GRATIO_VALUE : Field := ⟨0, 32, .rw⟩
def R.MOT_AX2_GNEXT : Nat := 0x100310270
def F.MOT_AX2_GNEXT_VALUE : Field := ⟨0, 32, .rw⟩
def R.MOT_AX2_GSCHED_LO : Nat := 0x100310274
def F.MOT_AX2_GSCHED_LO_VALUE : Field := ⟨0, 32, .rw⟩
def R.MOT_AX2_GSCHED_HI : Nat := 0x100310278
def F.MOT_AX2_GSCHED_HI_VALUE : Field := ⟨0, 32, .rw⟩
def R.MOT_AX2_GBLEND : Nat := 0x10031027c
def F.MOT_AX2_GBLEND_BLEND : Field := ⟨0, 32, .rw⟩

/-! ## CLKPWR block (R430) -/

def R.CLKPWR_CTRL : Nat := 0x100400000
def F.CLKPWR_CTRL_REQ : Field := ⟨0, 2, .rw⟩
def F.CLKPWR_CTRL_SWRST : Field := ⟨8, 1, .wo⟩
def R.CLKPWR_STAT : Nat := 0x100400004
def F.CLKPWR_STAT_STATE : Field := ⟨0, 3, .ro⟩
def F.CLKPWR_STAT_WBUSY : Field := ⟨3, 1, .ro⟩
def F.CLKPWR_STAT_CORELOCK : Field := ⟨4, 1, .ro⟩
def F.CLKPWR_STAT_DDRLOCK : Field := ⟨5, 1, .ro⟩
def F.CLKPWR_STAT_SHIFTLOCK : Field := ⟨6, 1, .ro⟩
def F.CLKPWR_STAT_IOLOCK : Field := ⟨7, 1, .ro⟩
def F.CLKPWR_STAT_CORE600 : Field := ⟨8, 1, .ro⟩
def F.CLKPWR_STAT_STRETCH : Field := ⟨9, 1, .ro⟩
def R.CLKPWR_EVT : Nat := 0x100400008
def F.CLKPWR_EVT_STATECHG : Field := ⟨0, 1, .w1c⟩
def F.CLKPWR_EVT_REQREF : Field := ⟨1, 1, .w1c⟩
def F.CLKPWR_EVT_WAKE : Field := ⟨2, 1, .w1c⟩
def F.CLKPWR_EVT_SAG : Field := ⟨3, 1, .w1c⟩
def F.CLKPWR_EVT_SAGEND : Field := ⟨4, 1, .w1c⟩
def F.CLKPWR_EVT_UV : Field := ⟨5, 1, .w1c⟩
def F.CLKPWR_EVT_OT : Field := ⟨6, 1, .w1c⟩
def F.CLKPWR_EVT_PLLLOSS : Field := ⟨7, 1, .w1c⟩
def F.CLKPWR_EVT_STARTFAULT : Field := ⟨8, 1, .w1c⟩
def R.CLKPWR_EVT_EN : Nat := 0x10040000c
def F.CLKPWR_EVT_EN_STATECHG : Field := ⟨0, 1, .rw⟩
def F.CLKPWR_EVT_EN_REQREF : Field := ⟨1, 1, .rw⟩
def F.CLKPWR_EVT_EN_WAKE : Field := ⟨2, 1, .rw⟩
def F.CLKPWR_EVT_EN_SAG : Field := ⟨3, 1, .rw⟩
def F.CLKPWR_EVT_EN_SAGEND : Field := ⟨4, 1, .rw⟩
def F.CLKPWR_EVT_EN_UV : Field := ⟨5, 1, .rw⟩
def F.CLKPWR_EVT_EN_OT : Field := ⟨6, 1, .rw⟩
def F.CLKPWR_EVT_EN_PLLLOSS : Field := ⟨7, 1, .rw⟩
def F.CLKPWR_EVT_EN_STARTFAULT : Field := ⟨8, 1, .rw⟩
def R.CLKPWR_DROOP : Nat := 0x100400010
def F.CLKPWR_DROOP_STRETCH : Field := ⟨0, 10, .rw⟩
def F.CLKPWR_DROOP_UV : Field := ⟨16, 10, .rw⟩
def R.CLKPWR_SAGTIME : Nat := 0x100400014
def F.CLKPWR_SAGTIME_FBDELAY : Field := ⟨0, 8, .rw⟩
def F.CLKPWR_SAGTIME_RECOVER : Field := ⟨16, 16, .rw⟩
def R.CLKPWR_OT : Nat := 0x100400018
def F.CLKPWR_OT_OTTRIP : Field := ⟨0, 8, .rw⟩
def R.CLKPWR_TEMP : Nat := 0x10040001c
def F.CLKPWR_TEMP_TEMP : Field := ⟨0, 16, .ro⟩
def R.CLKPWR_GATE : Nat := 0x100400020
def F.CLKPWR_GATE_HAM : Field := ⟨0, 4, .ro⟩
def F.CLKPWR_GATE_ENC : Field := ⟨4, 2, .ro⟩
def F.CLKPWR_GATE_PIPE : Field := ⟨6, 2, .ro⟩
def F.CLKPWR_GATE_MOTION : Field := ⟨8, 1, .ro⟩
def R.CLKPWR_BOOTSTAT : Nat := 0x100400024
def F.CLKPWR_BOOTSTAT_FAULT : Field := ⟨0, 4, .ro⟩
def F.CLKPWR_BOOTSTAT_SETDEF : Field := ⟨4, 1, .ro⟩
def F.CLKPWR_BOOTSTAT_VLOST : Field := ⟨5, 1, .ro⟩
def F.CLKPWR_BOOTSTAT_RSTCAUSE : Field := ⟨8, 3, .ro⟩
def R.CLKPWR_SAGCNT : Nat := 0x100400028
def F.CLKPWR_SAGCNT_COUNT : Field := ⟨0, 32, .rc⟩
def R.CLKPWR_WAKECFG : Nat := 0x100400100
def F.CLKPWR_WAKECFG_WEN : Field := ⟨0, 4, .rw⟩
def F.CLKPWR_WAKECFG_WPOL : Field := ⟨4, 4, .rw⟩
def F.CLKPWR_WAKECFG_ALRMEN : Field := ⟨8, 1, .rw⟩
def R.CLKPWR_WAKESRC : Nat := 0x100400104
def F.CLKPWR_WAKESRC_SRC : Field := ⟨0, 5, .ro⟩
def R.CLKPWR_RTC_LO : Nat := 0x100400108
def F.CLKPWR_RTC_LO_RTC : Field := ⟨0, 32, .rw⟩
def R.CLKPWR_RTC_HI : Nat := 0x10040010c
def F.CLKPWR_RTC_HI_RTC : Field := ⟨0, 32, .rw⟩
def R.CLKPWR_ALARM_LO : Nat := 0x100400110
def F.CLKPWR_ALARM_LO_ALARM : Field := ⟨0, 32, .rw⟩
def R.CLKPWR_ALARM_HI : Nat := 0x100400114
def F.CLKPWR_ALARM_HI_ALARM : Field := ⟨0, 32, .rw⟩
def R.CLKPWR_RETw (w : Nat) : Nat := 0x100400120 + 0x4 * (w % 8)
def F.CLKPWR_RETw_DATA : Field := ⟨0, 32, .rw⟩

/-! ## SEC block (R455) -/

def R.SEC_STAT : Nat := 0x100410000
def F.SEC_STAT_BOOTSTATE : Field := ⟨0, 4, .ro⟩
def F.SEC_STAT_STAGE : Field := ⟨4, 3, .ro⟩
def F.SEC_STAT_ACT : Field := ⟨8, 3, .ro⟩
def F.SEC_STAT_ENGSAMPLE : Field := ⟨11, 1, .ro⟩
def F.SEC_STAT_NOIMAGE : Field := ⟨12, 1, .ro⟩
def F.SEC_STAT_CERTBAD : Field := ⟨13, 1, .ro⟩
def R.SEC_EVT : Nat := 0x100410004
def F.SEC_EVT_STAGED : Field := ⟨0, 1, .w1c⟩
def F.SEC_EVT_MISSED : Field := ⟨1, 1, .w1c⟩
def F.SEC_EVT_FELLBACK : Field := ⟨2, 1, .w1c⟩
def F.SEC_EVT_CONFIRMED : Field := ⟨3, 1, .w1c⟩
def F.SEC_EVT_SESSREF : Field := ⟨4, 1, .w1c⟩
def R.SEC_EVT_EN : Nat := 0x100410008
def F.SEC_EVT_EN_STAGED : Field := ⟨0, 1, .rw⟩
def F.SEC_EVT_EN_MISSED : Field := ⟨1, 1, .rw⟩
def F.SEC_EVT_EN_FELLBACK : Field := ⟨2, 1, .rw⟩
def F.SEC_EVT_EN_CONFIRMED : Field := ⟨3, 1, .rw⟩
def F.SEC_EVT_EN_SESSREF : Field := ⟨4, 1, .rw⟩
def R.SEC_CONFIRM : Nat := 0x10041000c
def F.SEC_CONFIRM_KEY : Field := ⟨0, 32, .wo⟩
def R.SEC_KEYSLOT : Nat := 0x100410010
def F.SEC_KEYSLOT_SLOT0 : Field := ⟨0, 4, .ro⟩
def F.SEC_KEYSLOT_SLOT1 : Field := ⟨4, 4, .ro⟩
def F.SEC_KEYSLOT_SLOT2 : Field := ⟨8, 4, .ro⟩
def F.SEC_KEYSLOT_SVCANCHOR : Field := ⟨12, 1, .ro⟩
def R.SEC_SECVER : Nat := 0x100410014
def F.SEC_SECVER_FUSED : Field := ⟨0, 6, .ro⟩
def R.SEC_JOURNAL : Nat := 0x100410018
def F.SEC_JOURNAL_STEP : Field := ⟨0, 3, .ro⟩
def F.SEC_JOURNAL_BLOCK : Field := ⟨8, 8, .ro⟩
def F.SEC_JOURNAL_GEN : Field := ⟨16, 16, .ro⟩
def R.SEC_TRIAL : Nat := 0x10041001c
def F.SEC_TRIAL_REMAIN : Field := ⟨0, 16, .ro⟩
def R.SEC_SIGN_CTRL : Nat := 0x100410020
def F.SEC_SIGN_CTRL_GO : Field := ⟨0, 1, .wo⟩
def F.SEC_SIGN_CTRL_BUSY : Field := ⟨1, 1, .ro⟩
def F.SEC_SIGN_CTRL_ERR : Field := ⟨2, 1, .ro⟩
def R.SEC_DIGESTw (w : Nat) : Nat := 0x100410040 + 0x4 * (w % 8)
def F.SEC_DIGESTw_DATA : Field := ⟨0, 32, .rw⟩
def R.SEC_SIGw (w : Nat) : Nat := 0x100410060 + 0x4 * (w % 16)
def F.SEC_SIGw_DATA : Field := ⟨0, 32, .ro⟩
def R.SEC_PUBKEYw (w : Nat) : Nat := 0x1004100a0 + 0x4 * (w % 16)
def F.SEC_PUBKEYw_DATA : Field := ⟨0, 32, .ro⟩

def rowsLINK_0 : List RegRow := [
  ⟨0x0, [], [F.LINK_CTRL_EN, F.LINK_CTRL_MODE, F.LINK_CTRL_RATE, F.LINK_CTRL_EVTPORT], 0x0⟩,
  ⟨0x4, [], [F.LINK_STAT_RXMASK, F.LINK_STAT_TXMASK, F.LINK_STAT_GEN, F.LINK_STAT_P0UP, F.LINK_STAT_P1UP, F.LINK_STAT_P0PWR, F.LINK_STAT_P1PWR], 0x0⟩,
  ⟨0x8, [], [F.LINK_EVT_LANE_RETIRED, F.LINK_EVT_LANE_READMITTED, F.LINK_EVT_P0DOWN, F.LINK_EVT_P1DOWN, F.LINK_EVT_REPLAY_LIMIT, F.LINK_EVT_CREDIT_ERR, F.LINK_EVT_READMIT_FAIL, F.LINK_EVT_DORMANT_REFUSED], 0x0⟩,
  ⟨0xc, [], [F.LINK_EVT_EN_LANE_RETIRED, F.LINK_EVT_EN_LANE_READMITTED, F.LINK_EVT_EN_P0DOWN, F.LINK_EVT_EN_P1DOWN, F.LINK_EVT_EN_REPLAY_LIMIT, F.LINK_EVT_EN_CREDIT_ERR, F.LINK_EVT_EN_READMIT_FAIL, F.LINK_EVT_EN_DORMANT_REFUSED], 0x0⟩,
  ⟨0x10, [], [F.LINK_LANE_THR_ERRMAX, F.LINK_LANE_THR_WINDOW], 0x3e80010⟩,
  ⟨0x14, [], [F.LINK_LANE_QUAL_SYMBOLS], 0x1000000⟩,
  ⟨0x18, [], [F.LINK_READMIT_LANES], 0x0⟩,
  ⟨0x1c, [], [F.LINK_RETIRE_LANES], 0x0⟩,
  ⟨0x20, [], [F.LINK_TIMERS_ACK_PKTS, F.LINK_TIMERS_ACK_T, F.LINK_TIMERS_NAK_TO, F.LINK_TIMERS_REPLAY_TO], 0xc64420⟩,
  ⟨0x24, [], [F.LINK_PM_CTRL_P0_REQ, F.LINK_PM_CTRL_P1_REQ, F.LINK_PM_CTRL_IDLE_US], 0x0⟩,
  ⟨0x28, [], [F.LINK_STREAM_BIND_PORT], 0x0⟩,
  ⟨0x2c, [], [F.LINK_REPLAY_MAX_COUNT], 0x4⟩]
def rowsLINK_1 : List RegRow := [
  ⟨0x40, [(0x20, 2)], [F.LINK_Pp_CRCERR_COUNT], 0x0⟩,
  ⟨0x44, [(0x20, 2)], [F.LINK_Pp_NAKTX_COUNT], 0x0⟩,
  ⟨0x48, [(0x20, 2)], [F.LINK_Pp_NAKRX_COUNT], 0x0⟩,
  ⟨0x4c, [(0x20, 2)], [F.LINK_Pp_DUP_COUNT], 0x0⟩,
  ⟨0x50, [(0x20, 2)], [F.LINK_Pp_SEQERR_COUNT], 0x0⟩,
  ⟨0x54, [(0x20, 2)], [F.LINK_Pp_SEQ_RXNEXT, F.LINK_Pp_SEQ_TXACKED], 0x0⟩,
  ⟨0x100, [(0x10, 8)], [F.LINK_LANEn_STAT_LOCK, F.LINK_LANEn_STAT_ALIGNED, F.LINK_LANEn_STAT_ACTIVE, F.LINK_LANEn_STAT_RETIRED, F.LINK_LANEn_STAT_QUALIFYING, F.LINK_LANEn_STAT_PWR, F.LINK_LANEn_STAT_SKEW], 0x0⟩,
  ⟨0x104, [(0x10, 8)], [F.LINK_LANEn_CODEERR_COUNT], 0x0⟩,
  ⟨0x108, [(0x10, 8)], [F.LINK_LANEn_DISPERR_COUNT], 0x0⟩,
  ⟨0x10c, [(0x10, 8)], [F.LINK_LANEn_LOCKLOSS_COUNT], 0x0⟩,
  ⟨0x200, [(0x4, 8)], [F.LINK_STREAMs_CREDIT_LIMIT, F.LINK_STREAMs_CREDIT_USED], 0x0⟩]
/-- The registers of the LINK block, offsets from the block's start (R73). -/
def rowsLINK : List RegRow := rowsLINK_0 ++ rowsLINK_1

def rowsDMA_0 : List RegRow := [
  ⟨0x0, [], [F.DMA_CTRL_EN], 0x0⟩,
  ⟨0x4, [], [F.DMA_STAT_OUTSTANDING], 0x0⟩,
  ⟨0x8, [], [F.DMA_DONE_EVT_CH], 0x0⟩,
  ⟨0xc, [], [F.DMA_DONE_EN_CH], 0x0⟩,
  ⟨0x10, [], [F.DMA_HALT_EVT_CH], 0x0⟩,
  ⟨0x14, [], [F.DMA_HALT_EN_CH], 0x0⟩,
  ⟨0x18, [], [F.DMA_ERR_THR_ERRMAX, F.DMA_ERR_THR_WINDOW], 0x3e80003⟩,
  ⟨0x1c, [], [F.DMA_LATE_EVT_CH], 0x0⟩,
  ⟨0x100, [(0x40, 32)], [F.DMA_CHn_CTRL_EN, F.DMA_CHn_CTRL_PAUSE, F.DMA_CHn_CTRL_RESUME, F.DMA_CHn_CTRL_SKIP], 0x0⟩,
  ⟨0x104, [(0x40, 32)], [F.DMA_CHn_CFG_PRIO, F.DMA_CHn_CFG_BURST, F.DMA_CHn_CFG_RETRY, F.DMA_CHn_CFG_MAXOUT, F.DMA_CHn_CFG_PACE_MODE, F.DMA_CHn_CFG_LINKPORT], 0x0⟩,
  ⟨0x108, [(0x40, 32)], [F.DMA_CHn_RING_LO_BASE_LO], 0x0⟩,
  ⟨0x10c, [(0x40, 32)], [F.DMA_CHn_RING_HI_BASE_HI, F.DMA_CHn_RING_HI_SIZE_LOG2], 0x10000⟩]
def rowsDMA_1 : List RegRow := [
  ⟨0x110, [(0x40, 32)], [F.DMA_CHn_HEAD_HEAD, F.DMA_CHn_HEAD_FETCH], 0x0⟩,
  ⟨0x114, [(0x40, 32)], [F.DMA_CHn_DOORBELL_RING], 0x0⟩,
  ⟨0x118, [(0x40, 32)], [F.DMA_CHn_PACE_HIGH, F.DMA_CHn_PACE_LOW, F.DMA_CHn_PACE_PACE_TO], 0x0⟩,
  ⟨0x11c, [(0x40, 32)], [F.DMA_CHn_STAT_STATE, F.DMA_CHn_STAT_ABORT_RES, F.DMA_CHn_STAT_HALT_CAUSE, F.DMA_CHn_STAT_RETRYCNT, F.DMA_CHn_STAT_OUTSTANDING], 0x0⟩,
  ⟨0x120, [(0x40, 32)], [F.DMA_CHn_CUR_SRC_LO_ADDR_LO], 0x0⟩,
  ⟨0x124, [(0x40, 32)], [F.DMA_CHn_CUR_SRC_HI_ADDR_HI], 0x0⟩,
  ⟨0x128, [(0x40, 32)], [F.DMA_CHn_CUR_DST_LO_ADDR_LO], 0x0⟩,
  ⟨0x12c, [(0x40, 32)], [F.DMA_CHn_CUR_DST_HI_ADDR_HI], 0x0⟩,
  ⟨0x130, [(0x40, 32)], [F.DMA_CHn_REMAIN_REMAIN], 0x0⟩,
  ⟨0x134, [(0x40, 32)], [F.DMA_CHn_ERRADDR_LO_ADDR_LO], 0x0⟩,
  ⟨0x138, [(0x40, 32)], [F.DMA_CHn_ERRADDR_HI_ADDR_HI], 0x0⟩,
  ⟨0x13c, [(0x40, 32)], [F.DMA_CHn_ABORT_INDEX], 0x0⟩]
/-- The registers of the DMA block, offsets from the block's start (R109). -/
def rowsDMA : List RegRow := rowsDMA_0 ++ rowsDMA_1

def rowsGRANARY_0 : List RegRow := [
  ⟨0x0, [], [F.GRANARY_CTRL_EN, F.GRANARY_CTRL_CHMODE, F.GRANARY_CTRL_RANKS, F.GRANARY_CTRL_DENSITY, F.GRANARY_CTRL_RATE, F.GRANARY_CTRL_CMD2N], 0x0⟩,
  ⟨0x4, [], [F.GRANARY_STAT_CH0STATE, F.GRANARY_STAT_CH1STATE, F.GRANARY_STAT_BAND, F.GRANARY_STAT_BANDPEND, F.GRANARY_STAT_INITBUSY], 0x0⟩,
  ⟨0x8, [], [F.GRANARY_EVT_RDERR, F.GRANARY_EVT_CAPAR, F.GRANARY_EVT_RMWERR, F.GRANARY_EVT_THRESH, F.GRANARY_EVT_BANDCHG, F.GRANARY_EVT_INITDONE, F.GRANARY_EVT_LOGOVF], 0x0⟩,
  ⟨0xc, [], [F.GRANARY_EVT_EN_RDERR, F.GRANARY_EVT_EN_CAPAR, F.GRANARY_EVT_EN_RMWERR, F.GRANARY_EVT_EN_THRESH, F.GRANARY_EVT_EN_BANDCHG, F.GRANARY_EVT_EN_INITDONE, F.GRANARY_EVT_EN_LOGOVF], 0x0⟩,
  ⟨0x10, [], [F.GRANARY_ERR_THR_ERRMAX, F.GRANARY_ERR_THR_WINDOW], 0x3e80010⟩,
  ⟨0x14, [], [F.GRANARY_REF_POSTPONE, F.GRANARY_REF_ZQINT], 0x8004⟩,
  ⟨0x18, [], [F.GRANARY_SR_REQ, F.GRANARY_SR_AUTOWAKE, F.GRANARY_SR_IN_SR], 0x2⟩,
  ⟨0x1c, [], [F.GRANARY_TIMING_CL, F.GRANARY_TIMING_CWL, F.GRANARY_TIMING_RCD, F.GRANARY_TIMING_RP], 0x16161016⟩,
  ⟨0x20, [], [F.GRANARY_INIT_BASE_LO_BASE_LO], 0x0⟩,
  ⟨0x24, [], [F.GRANARY_INIT_BASE_HI_BASE_HI], 0x0⟩,
  ⟨0x28, [], [F.GRANARY_INIT_LEN_UNITS], 0x0⟩,
  ⟨0x2c, [], [F.GRANARY_INIT_GO_GO], 0x0⟩]
def rowsGRANARY_1 : List RegRow := [
  ⟨0x30, [], [F.GRANARY_ERRLOG0_TYPE, F.GRANARY_ERRLOG0_CH, F.GRANARY_ERRLOG0_RANK, F.GRANARY_ERRLOG0_OVF, F.GRANARY_ERRLOG0_REQ, F.GRANARY_ERRLOG0_BG, F.GRANARY_ERRLOG0_BA], 0x0⟩,
  ⟨0x34, [], [F.GRANARY_ERRLOG1_ADDR_LO], 0x0⟩,
  ⟨0x38, [], [F.GRANARY_ERRLOG2_ADDR_HI, F.GRANARY_ERRLOG2_ROW], 0x0⟩,
  ⟨0x3c, [], [F.GRANARY_ERRLOG3_COLUMN, F.GRANARY_ERRLOG3_BAND], 0x0⟩,
  ⟨0x40, [(0x10, 2)], [F.GRANARY_CHc_RDERR_COUNT], 0x0⟩,
  ⟨0x44, [(0x10, 2)], [F.GRANARY_CHc_CAPAR_COUNT], 0x0⟩,
  ⟨0x48, [(0x10, 2)], [F.GRANARY_CHc_RMWERR_COUNT], 0x0⟩,
  ⟨0x4c, [(0x10, 2)], [F.GRANARY_CHc_QUEUE_OCC, F.GRANARY_CHc_QUEUE_MAXBYP], 0x0⟩,
  ⟨0x100, [], [F.GRANARY_DLY_ADDR_INDEX], 0x0⟩,
  ⟨0x104, [], [F.GRANARY_DLY_DATA_DATA], 0x0⟩]
/-- The registers of the GRANARY block, offsets from the block's start (R135). -/
def rowsGRANARY : List RegRow := rowsGRANARY_0 ++ rowsGRANARY_1

def rowsMILLER_0 : List RegRow := [
  ⟨0x0, [], [F.MILLER_CTRL_DEC_EN], 0x0⟩,
  ⟨0x4, [], [F.MILLER_EVT_DEC_ERR, F.MILLER_EVT_ENC_NOGAIN, F.MILLER_EVT_ENC_RES], 0x0⟩,
  ⟨0x8, [], [F.MILLER_EVT_EN_DEC_ERR, F.MILLER_EVT_EN_ENC_NOGAIN, F.MILLER_EVT_EN_ENC_RES], 0x0⟩,
  ⟨0x100, [(0x20, 8)], [F.MILLER_DECd_STAT_STATE, F.MILLER_DECd_STAT_PAGE, F.MILLER_DECd_STAT_FMT], 0x0⟩,
  ⟨0x104, [(0x20, 8)], [F.MILLER_DECd_LINE_LINE], 0x0⟩,
  ⟨0x108, [(0x20, 8)], [F.MILLER_DECd_ERRCNT_HDR, F.MILLER_DECd_ERRCNT_CONFLICT, F.MILLER_DECd_ERRCNT_STREAM, F.MILLER_DECd_ERRCNT_CRC], 0x0⟩,
  ⟨0x10c, [(0x20, 8)], [F.MILLER_DECd_ERRLINE_LINE], 0xffffffff⟩,
  ⟨0x110, [(0x20, 8)], [F.MILLER_DECd_BLOCKS_COUNT], 0x0⟩,
  ⟨0x114, [(0x20, 8)], [F.MILLER_DECd_HUNT_COUNT], 0x0⟩,
  ⟨0x200, [(0x40, 2)], [F.MILLER_ENCe_CTRL_EN, F.MILLER_ENCe_CTRL_FLUSH], 0x0⟩,
  ⟨0x204, [(0x40, 2)], [F.MILLER_ENCe_CFG_FMT, F.MILLER_ENCe_CFG_PAGE, F.MILLER_ENCe_CFG_WIDTH], 0x0⟩,
  ⟨0x208, [(0x40, 2)], [F.MILLER_ENCe_GEOM_X0, F.MILLER_ENCe_GEOM_LINESMAX], 0x0⟩]
def rowsMILLER_1 : List RegRow := [
  ⟨0x20c, [(0x40, 2)], [F.MILLER_ENCe_LINE0_LINE0], 0x0⟩,
  ⟨0x210, [(0x40, 2)], [F.MILLER_ENCe_STAT_STATE, F.MILLER_ENCe_STAT_RESCNT, F.MILLER_ENCe_STAT_LINES_PEND], 0x0⟩,
  ⟨0x214, [(0x40, 2)], [F.MILLER_ENCe_RES0_LINE0], 0x0⟩,
  ⟨0x218, [(0x40, 2)], [F.MILLER_ENCe_RES1_LINES, F.MILLER_ENCe_RES1_STATUS, F.MILLER_ENCe_RES1_FLUSHED, F.MILLER_ENCe_RES1_VALID], 0x0⟩,
  ⟨0x21c, [(0x40, 2)], [F.MILLER_ENCe_RES2_PAYLEN], 0x0⟩,
  ⟨0x220, [(0x40, 2)], [F.MILLER_ENCe_BYTESIN_COUNT], 0x0⟩,
  ⟨0x224, [(0x40, 2)], [F.MILLER_ENCe_BYTESOUT_COUNT], 0x0⟩]
/-- The registers of the MILLER block, offsets from the block's start (R159). -/
def rowsMILLER : List RegRow := rowsMILLER_0 ++ rowsMILLER_1

def rowsHAMLET_0 : List RegRow := [
  ⟨0x0, [], [F.HAM_LEAD_LEAD], 0x40⟩,
  ⟨0x4, [], [F.HAM_STAT_LEADNOW, F.HAM_STAT_CATCHUP, F.HAM_STAT_RECOMP], 0x0⟩,
  ⟨0x8, [], [F.HAM_LEADDEF_DEF], 0x0⟩,
  ⟨0xc, [], [F.HAM_PREPLINE_LINE], 0x0⟩,
  ⟨0x10, [], [F.HAM_EVT_LATE, F.HAM_EVT_BLANK, F.HAM_EVT_SKIP, F.HAM_EVT_RECOMP, F.HAM_EVT_LOST, F.HAM_EVT_THRESH], 0x0⟩,
  ⟨0x14, [], [F.HAM_EVT_EN_LATE, F.HAM_EVT_EN_BLANK, F.HAM_EVT_EN_SKIP, F.HAM_EVT_EN_RECOMP, F.HAM_EVT_EN_LOST, F.HAM_EVT_EN_THRESH], 0x0⟩,
  ⟨0x18, [], [F.HAM_ERR_THR_ERRMAX, F.HAM_ERR_THR_WINDOW], 0x3e80010⟩,
  ⟨0x20, [], [F.HAM_CNT_LATE_COUNT], 0x0⟩,
  ⟨0x24, [], [F.HAM_CNT_BLANK_COUNT], 0x0⟩,
  ⟨0x28, [], [F.HAM_CNT_SKIP_COUNT], 0x0⟩,
  ⟨0x2c, [], [F.HAM_CNT_RECOMP_COUNT], 0x0⟩,
  ⟨0x30, [], [F.HAM_CNT_PARITY_COUNT], 0x0⟩]
def rowsHAMLET_1 : List RegRow := [
  ⟨0x34, [], [F.HAM_CNT_LOST_COUNT], 0x0⟩,
  ⟨0x100, [], [F.WEAVER_CFG_UPS, F.WEAVER_CFG_SCREEN, F.WEAVER_CFG_TESTRET, F.WEAVER_CFG_OFFX, F.WEAVER_CFG_OFFY], 0x0⟩,
  ⟨0x104, [], [F.WEAVER_RAMP_INTERVAL], 0x20⟩,
  ⟨0x108, [], [F.WEAVER_KERNEL_W1, F.WEAVER_KERNEL_W2, F.WEAVER_KERNEL_W3, F.WEAVER_KERNEL_W4], 0x80⟩,
  ⟨0x10c, [], [F.WEAVER_KERNEL_START_W1, F.WEAVER_KERNEL_START_W2, F.WEAVER_KERNEL_START_W3, F.WEAVER_KERNEL_START_W4], 0x80⟩,
  ⟨0x110, [], [F.WEAVER_VER0_PARAM, F.WEAVER_VER0_MASK], 0x0⟩,
  ⟨0x114, [], [F.WEAVER_VER1_COMP], 0x0⟩,
  ⟨0x118, [], [F.WEAVER_MASKSEL_BANK], 0x0⟩,
  ⟨0x11c, [], [F.WEAVER_MASKLINE_LINE], 0xffffffff⟩,
  ⟨0x120, [], [F.WEAVER_LVLBUF_DEPTH, F.WEAVER_LVLBUF_USED], 0x2f9⟩,
  ⟨0x124, [], [F.WEAVER_SCREENED_LINE], 0xffffffff⟩,
  ⟨0x128, [], [F.WEAVER_RAMPSTAT_TONEBUSY, F.WEAVER_RAMPSTAT_GAINBUSY, F.WEAVER_RAMPSTAT_MASKPEND, F.WEAVER_RAMPSTAT_READMIT], 0x0⟩]
def rowsHAMLET_2 : List RegRow := [
  ⟨0x12c, [], [F.WEAVER_TONE_L_LINE], 0x0⟩,
  ⟨0x130, [], [F.WEAVER_TONE_E_LINE], 0x0⟩,
  ⟨0x134, [], [F.WEAVER_GAIN_L_LINE], 0x0⟩,
  ⟨0x138, [], [F.WEAVER_GAIN_E_LINE], 0x0⟩,
  ⟨0x13c, [], [F.WEAVER_EVT_VERMISM, F.WEAVER_EVT_TESTDROP, F.WEAVER_EVT_RAMPBUSY, F.WEAVER_EVT_MASKBUSY, F.WEAVER_EVT_DEPTH, F.WEAVER_EVT_READMITFULL, F.WEAVER_EVT_LOST, F.WEAVER_EVT_CLAMP], 0x0⟩,
  ⟨0x140, [], [F.WEAVER_EVT_EN_VERMISM, F.WEAVER_EVT_EN_TESTDROP, F.WEAVER_EVT_EN_RAMPBUSY, F.WEAVER_EVT_EN_MASKBUSY, F.WEAVER_EVT_EN_DEPTH, F.WEAVER_EVT_EN_READMITFULL, F.WEAVER_EVT_EN_LOST, F.WEAVER_EVT_EN_CLAMP], 0x0⟩,
  ⟨0x144, [], [F.WEAVER_CNT_TWIN_COUNT], 0x0⟩,
  ⟨0x148, [], [F.WEAVER_CNT_PARTNER_COUNT], 0x0⟩,
  ⟨0x14c, [], [F.WEAVER_CNT_BOOST_COUNT], 0x0⟩,
  ⟨0x150, [], [F.WEAVER_CNT_LOST_COUNT], 0x0⟩,
  ⟨0x154, [], [F.WEAVER_CNT_CLAMP_COUNT], 0x0⟩,
  ⟨0x158, [], [F.WEAVER_OVERLAP_V], 0x30⟩]
/-- The registers of the HAMLET block, offsets from the block's start (R308, R197). -/
def rowsHAMLET : List RegRow := rowsHAMLET_0 ++ rowsHAMLET_1 ++ rowsHAMLET_2

def rowsHEADCH_0 : List RegRow := [
  ⟨0x0, [], [F.HC_CTRL_EN, F.HC_CTRL_SCAN, F.HC_CTRL_DMODE, F.HC_CTRL_AUTOREADMIT], 0x10⟩,
  ⟨0x4, [], [F.HC_STAT_STATE, F.HC_STAT_TZONE, F.HC_STAT_DERATED, F.HC_STAT_STALE, F.HC_STAT_BANKU, F.HC_STAT_BANKD, F.HC_STAT_COMBPEND, F.HC_STAT_CFGERR, F.HC_STAT_RCAUSE], 0x0⟩,
  ⟨0x8, [], [F.HC_EVT_LATE, F.HC_EVT_RESHIFT, F.HC_EVT_RETIRED, F.HC_EVT_READMITTED, F.HC_EVT_TWARN, F.HC_EVT_TLIMIT, F.HC_EVT_TTRIP, F.HC_EVT_TSTALE, F.HC_EVT_THIN, F.HC_EVT_COLLIDE, F.HC_EVT_GUARD, F.HC_EVT_SOSOVR, F.HC_EVT_TABLEREF], 0x0⟩,
  ⟨0xc, [], [F.HC_EVT_EN_LATE, F.HC_EVT_EN_RESHIFT, F.HC_EVT_EN_RETIRED, F.HC_EVT_EN_READMITTED, F.HC_EVT_EN_TWARN, F.HC_EVT_EN_TLIMIT, F.HC_EVT_EN_TTRIP, F.HC_EVT_EN_TSTALE, F.HC_EVT_EN_THIN, F.HC_EVT_EN_COLLIDE, F.HC_EVT_EN_GUARD, F.HC_EVT_EN_SOSOVR, F.HC_EVT_EN_TABLEREF], 0x0⟩,
  ⟨0x10, [], [F.HC_PROF0_NOZ, F.HC_PROF0_ROWS, F.HC_PROF0_BPN, F.HC_PROF0_PAIRS, F.HC_PROF0_SHIFTF, F.HC_PROF0_SEGMAX], 0x0⟩,
  ⟨0x14, [], [F.HC_PROF1_STROBEMAX, F.HC_PROF1_LATW, F.HC_PROF1_STRW], 0x0⟩,
  ⟨0x18, [], [F.HC_PROF2_LFSU, F.HC_PROF2_SEGMIN], 0x0⟩,
  ⟨0x1c, [], [F.HC_PROF3_TWARN, F.HC_PROF3_TLIMIT, F.HC_PROF3_TTRIP, F.HC_PROF3_TRESTORE], 0x323c3730⟩,
  ⟨0x20, [], [F.HC_PROF4_COMBMAX, F.HC_PROF4_CODEMAX], 0x0⟩,
  ⟨0x24, [], [F.HC_MAP_LO_VALUE], 0x0⟩,
  ⟨0x28, [], [F.HC_MAP_HI_VALUE], 0x0⟩,
  ⟨0x2c, [], [F.HC_DMAP_LO_VALUE], 0x0⟩]
def rowsHEADCH_1 : List RegRow := [
  ⟨0x30, [], [F.HC_DMAP_HI_VALUE], 0x0⟩,
  ⟨0x34, [], [F.HC_CODES_SPITCODE, F.HC_CODES_WARMCODE, F.HC_CODES_REST], 0x0⟩,
  ⟨0x38, [], [F.HC_DUTY_NMAX, F.HC_DUTY_NWIN], 0x10000e6⟩,
  ⟨0x3c, [], [F.HC_SHARE_SHARE, F.HC_SHARE_SWIN, F.HC_SHARE_DSHARE], 0x8040c0⟩,
  ⟨0x40, [], [F.HC_SPIT_K, F.HC_SPIT_MAXPER, F.HC_SPIT_INPAGE, F.HC_SPIT_RETSPIT], 0x1000800⟩,
  ⟨0x44, [], [F.HC_WARM_WARMN], 0x8⟩,
  ⟨0x48, [], [F.HC_COMBSEL_BANK], 0x0⟩,
  ⟨0x4c, [], [F.HC_COMBLINE_LINE], 0xffffffff⟩,
  ⟨0x50, [], [F.HC_ERR_THR_ERRMAX, F.HC_ERR_THR_WINDOW], 0x3e80003⟩,
  ⟨0x54, [], [F.HC_TEMP_TEMP, F.HC_TEMP_STALE, F.HC_TEMP_AGE], 0x0⟩,
  ⟨0x58, [], [F.HC_SCAN_CFG_ARM, F.HC_SCAN_CFG_EDGE, F.HC_SCAN_CFG_QUEUE, F.HC_SCAN_CFG_G, F.HC_SCAN_CFG_SCANLEN], 0x10010⟩,
  ⟨0x5c, [], [F.HC_SCAN_DLY_DLY], 0x50⟩]
def rowsHEADCH_2 : List RegRow := [
  ⟨0x60, [], [F.HC_SCAN_PER_PER], 0x7d0⟩,
  ⟨0x64, [], [F.HC_SCAN_ROWD_ROWD], 0x0⟩,
  ⟨0x68, [], [F.HC_SCAN_PTR_PTR, F.HC_SCAN_PTR_PEND], 0x0⟩,
  ⟨0x70, [], [F.HC_CNT_THINN_COUNT], 0x0⟩,
  ⟨0x74, [], [F.HC_CNT_THINH_COUNT], 0x0⟩,
  ⟨0x78, [], [F.HC_CNT_SPIT_COUNT], 0x0⟩,
  ⟨0x7c, [], [F.HC_CNT_LATE_COUNT], 0x0⟩,
  ⟨0x80, [], [F.HC_CNT_RESHIFT_COUNT], 0x0⟩,
  ⟨0x84, [], [F.HC_CNT_COLLIDE_COUNT], 0x0⟩,
  ⟨0x88, [], [F.HC_CNT_GUARD_COUNT], 0x0⟩,
  ⟨0x8c, [], [F.HC_CNT_SOSOVR_COUNT], 0x0⟩,
  ⟨0x100, [(0x40, 2), (0x4, 16)], [F.HC_SEGb_s_DUR], 0x0⟩]
def rowsHEADCH_3 : List RegRow := [
  ⟨0x180, [(0x20, 2), (0x4, 8)], [F.HC_SELb_j_ENTRY_LO, F.HC_SELb_j_ENTRY_HI], 0x0⟩,
  ⟨0x800, [(0x400, 2), (0x4, 256)], [F.HC_WAVb_j_SAMPLE_LO, F.HC_WAVb_j_SAMPLE_HI], 0x0⟩,
  ⟨0x400, [], [F.BR_ROWU_DELAY, F.BR_ROWU_PHASE], 0x0⟩,
  ⟨0x404, [], [F.BR_ROWD_DELAY, F.BR_ROWD_PHASE], 0x0⟩,
  ⟨0x408, [], [F.BR_HLIMIT_LIMIT, F.BR_HLIMIT_TERM, F.BR_HLIMIT_DELTA], 0x61a80⟩,
  ⟨0x40c, [], [F.BR_ROWU_NEXT_LINE], 0x0⟩,
  ⟨0x410, [], [F.BR_ROWD_NEXT_LINE], 0x0⟩]
/-- The registers of the HEADCH block, offsets from the block's start (R237, R285). -/
def rowsHEADCH : List RegRow := rowsHEADCH_0 ++ rowsHEADCH_1 ++ rowsHEADCH_2 ++ rowsHEADCH_3

def rowsPOS_0 : List RegRow := [
  ⟨0x0, [], [F.POS_EVT0_REVERSE, F.POS_EVT0_IDXMISS, F.POS_EVT0_IDXFAULT, F.POS_EVT0_LOS, F.POS_EVT0_STILL, F.POS_EVT0_MARK, F.POS_EVT0_HOME], 0x0⟩,
  ⟨0x4, [], [F.POS_EVT0_EN_REVERSE, F.POS_EVT0_EN_IDXMISS, F.POS_EVT0_EN_IDXFAULT, F.POS_EVT0_EN_LOS, F.POS_EVT0_EN_STILL, F.POS_EVT0_EN_MARK, F.POS_EVT0_EN_HOME], 0x0⟩,
  ⟨0x8, [], [F.POS_EVT1_CMP, F.POS_EVT1_SSIERR, F.POS_EVT1_MARKOVF, F.POS_EVT1_CMPSTOP], 0x0⟩,
  ⟨0xc, [], [F.POS_EVT1_EN_CMP, F.POS_EVT1_EN_SSIERR, F.POS_EVT1_EN_MARKOVF, F.POS_EVT1_EN_CMPSTOP], 0x0⟩,
  ⟨0x10, [], [F.POS_HOME_CFG_POL, F.POS_HOME_CFG_HOMEFILT], 0xa0000⟩,
  ⟨0x14, [], [F.POS_INSTATE_HOME, F.POS_INSTATE_MARK, F.POS_INSTATE_Z], 0x0⟩,
  ⟨0x100, [(0x80, 4)], [F.ENCn_CTRL_EN, F.ENCn_CTRL_MODE, F.ENCn_CTRL_MULT, F.ENCn_CTRL_INV, F.ENCn_CTRL_SWAP, F.ENCn_CTRL_ZEN, F.ENCn_CTRL_ZPOL, F.ENCn_CTRL_ZGATE, F.ENCn_CTRL_GAP, F.ENCn_CTRL_TWDIR, F.ENCn_CTRL_FILT], 0x18⟩,
  ⟨0x104, [(0x80, 4)], [F.ENCn_REVCNT_REVCNT], 0x0⟩,
  ⟨0x108, [(0x80, 4)], [F.ENCn_IDXPOS_IDXPOS], 0x0⟩,
  ⟨0x10c, [(0x80, 4)], [F.ENCn_IDXCFG_TOL, F.ENCn_IDXCFG_SLEW, F.ENCn_IDXCFG_MISSMAX, F.ENCn_IDXCFG_REARM], 0x3010008⟩,
  ⟨0x110, [(0x80, 4)], [F.ENCn_SPDCFG_WIN, F.ENCn_SPDCFG_PCNT, F.ENCn_SPDCFG_XHI, F.ENCn_SPDCFG_XLO], 0xc1440a⟩,
  ⟨0x114, [(0x80, 4)], [F.ENCn_DIRCFG_DIRHYST, F.ENCn_DIRCFG_STILL], 0xa04⟩]
def rowsPOS_1 : List RegRow := [
  ⟨0x118, [(0x80, 4)], [F.ENCn_SCALE_NM], 0x0⟩,
  ⟨0x11c, [(0x80, 4)], [F.ENCn_ERR_THR_ERRMAX, F.ENCn_ERR_THR_WINDOW], 0x3e80010⟩,
  ⟨0x120, [(0x80, 4)], [F.ENCn_PRESET_LO_VALUE], 0x0⟩,
  ⟨0x124, [(0x80, 4)], [F.ENCn_PRESET_HI_VALUE], 0x0⟩,
  ⟨0x128, [(0x80, 4)], [F.ENCn_POS_LO_VALUE], 0x0⟩,
  ⟨0x12c, [(0x80, 4)], [F.ENCn_POS_HI_VALUE], 0x0⟩,
  ⟨0x130, [(0x80, 4)], [F.ENCn_MAX_LO_VALUE], 0x0⟩,
  ⟨0x134, [(0x80, 4)], [F.ENCn_MAX_HI_VALUE], 0x0⟩,
  ⟨0x138, [(0x80, 4)], [F.ENCn_REV_REV], 0x0⟩,
  ⟨0x13c, [(0x80, 4)], [F.ENCn_SPEED_SPEED], 0x0⟩,
  ⟨0x140, [(0x80, 4)], [F.ENCn_VEL_VEL], 0x0⟩,
  ⟨0x144, [(0x80, 4)], [F.ENCn_STAT_DIR, F.ENCn_STAT_STILL, F.ENCn_STAT_VALID, F.ENCn_STAT_WINMODE, F.ENCn_STAT_REF, F.ENCn_STAT_IDXLOST, F.ENCn_STAT_FAULT, F.ENCn_STAT_MISS, F.ENCn_STAT_CORR], 0x0⟩]
def rowsPOS_2 : List RegRow := [
  ⟨0x148, [(0x80, 4)], [F.ENCn_IDXERR_E, F.ENCn_IDXERR_OUT], 0x0⟩,
  ⟨0x14c, [(0x80, 4)], [F.ENCn_QERR_COUNT], 0x0⟩,
  ⟨0x150, [(0x80, 4)], [F.ENCn_IDXCNT_COUNT], 0x0⟩,
  ⟨0x300, [(0x40, 2)], [F.SSIm_CFG_EN, F.SSIm_CFG_GRAY, F.SSIm_CFG_ERRBIT, F.SSIm_CFG_PARITY, F.SSIm_CFG_BITS, F.SSIm_CFG_POSBITS, F.SSIm_CFG_CLKDIV], 0x276300⟩,
  ⟨0x304, [(0x40, 2)], [F.SSIm_TIMING_PERIOD, F.SSIm_TIMING_MONO], 0x140064⟩,
  ⟨0x308, [(0x40, 2)], [F.SSIm_MAXJUMP_MAXJUMP], 0x1000⟩,
  ⟨0x30c, [(0x40, 2)], [F.SSIm_POS_LO_VALUE], 0x0⟩,
  ⟨0x310, [(0x40, 2)], [F.SSIm_POS_HI_VALUE], 0x0⟩,
  ⟨0x314, [(0x40, 2)], [F.SSIm_TS_LO_VALUE], 0x0⟩,
  ⟨0x318, [(0x40, 2)], [F.SSIm_TS_HI_VALUE], 0x0⟩,
  ⟨0x31c, [(0x40, 2)], [F.SSIm_STAT_VALID, F.SSIm_STAT_LASTERR], 0x0⟩,
  ⟨0x320, [(0x40, 2)], [F.SSIm_ERRCNT_COUNT], 0x0⟩]
def rowsPOS_3 : List RegRow := [
  ⟨0x400, [(0x20, 4)], [F.MARKi_CFG_EN, F.MARKi_CFG_EDGE, F.MARKi_CFG_SRC, F.MARKi_CFG_FILT, F.MARKi_CFG_BLANK], 0x400⟩,
  ⟨0x404, [(0x20, 4)], [F.MARKi_LAT0_POS], 0x0⟩,
  ⟨0x408, [(0x20, 4)], [F.MARKi_LAT1_POS], 0x0⟩,
  ⟨0x40c, [(0x20, 4)], [F.MARKi_LAT2_TS_LO], 0x0⟩,
  ⟨0x410, [(0x20, 4)], [F.MARKi_LAT3_TS_HI], 0x0⟩,
  ⟨0x414, [(0x20, 4)], [F.MARKi_STAT_LEVEL, F.MARKi_STAT_OVF, F.MARKi_STAT_BLANKED], 0x0⟩,
  ⟨0x500, [(0x40, 8)], [F.CMPj_CTRL_EN, F.CMPj_CTRL_SRC, F.CMPj_CTRL_POL, F.CMPj_CTRL_RESTART, F.CMPj_CTRL_WIDTH], 0x6400⟩,
  ⟨0x504, [(0x40, 8)], [F.CMPj_STAT_PTR, F.CMPj_STAT_STATE, F.CMPj_STAT_LEVEL], 0x0⟩,
  ⟨0x508, [(0x40, 8)], [F.CMPj_OFF_LO_VALUE], 0x0⟩,
  ⟨0x50c, [(0x40, 8)], [F.CMPj_OFF_HI_VALUE], 0x0⟩,
  ⟨0x510, [(0x40, 8)], [F.CMPj_PER_LO_VALUE], 0x0⟩,
  ⟨0x514, [(0x40, 8)], [F.CMPj_PER_HI_VALUE], 0x0⟩]
def rowsPOS_4 : List RegRow := [
  ⟨0x518, [(0x40, 8)], [F.CMPj_LATE_COUNT], 0x0⟩,
  ⟨0x700, [], [F.POS_TAB_ADDR_ENTRY, F.POS_TAB_ADDR_CMP], 0x0⟩,
  ⟨0x704, [], [F.POS_TAB_DATA_LO_DATA], 0x0⟩,
  ⟨0x708, [], [F.POS_TAB_DATA_HI_DATA], 0x0⟩]
/-- The registers of the POS block, offsets from the block's start (R260). -/
def rowsPOS : List RegRow := rowsPOS_0 ++ rowsPOS_1 ++ rowsPOS_2 ++ rowsPOS_3 ++ rowsPOS_4

def rowsBR_0 : List RegRow := [
  ⟨0x8000, [], [F.BR_CTRL_EN, F.BR_CTRL_RUN, F.BR_CTRL_STRETCHONLY], 0x0⟩,
  ⟨0x8004, [], [F.BR_STAT_STATE, F.BR_STAT_RUNNING, F.BR_STAT_DIRINH, F.BR_STAT_BAND, F.BR_STAT_DATUMHC, F.BR_STAT_DATUMROW, F.BR_STAT_PAGEACT, F.BR_STAT_PAGE], 0x0⟩,
  ⟨0x8008, [], [F.BR_EVT_CFGREF, F.BR_EVT_LOCKED, F.BR_EVT_UNLOCK, F.BR_EVT_SNAP, F.BR_EVT_STRETCH, F.BR_EVT_OVSBLANK, F.BR_EVT_PAGESTART, F.BR_EVT_PAGEEND, F.BR_EVT_LATESTART, F.BR_EVT_MARKREJ, F.BR_EVT_DATUMCHG], 0x0⟩,
  ⟨0x800c, [], [F.BR_EVT_EN_CFGREF, F.BR_EVT_EN_LOCKED, F.BR_EVT_EN_UNLOCK, F.BR_EVT_EN_SNAP, F.BR_EVT_EN_STRETCH, F.BR_EVT_EN_OVSBLANK, F.BR_EVT_EN_PAGESTART, F.BR_EVT_EN_PAGEEND, F.BR_EVT_EN_LATESTART, F.BR_EVT_EN_MARKREJ, F.BR_EVT_EN_DATUMCHG], 0x0⟩,
  ⟨0x8010, [], [F.BR_NUM_VALUE], 0x0⟩,
  ⟨0x8014, [], [F.BR_DEN_VALUE], 0x0⟩,
  ⟨0x8018, [], [F.BR_ORG_LO_VALUE], 0x0⟩,
  ⟨0x801c, [], [F.BR_ORG_HI_VALUE], 0x0⟩,
  ⟨0x8020, [], [F.BR_LOOP_BW, F.BR_LOOP_ACQBW, F.BR_LOOP_DAMP], 0xb57d01f4⟩,
  ⟨0x8024, [], [F.BR_LOCK_LOCKTOL, F.BR_LOCK_UNLOCKTOL, F.BR_LOCK_SNAPTOL, F.BR_LOCK_LOCKN], 0x40084008⟩,
  ⟨0x8028, [], [F.BR_VMIN_VMIN], 0x3e8⟩,
  ⟨0x802c, [], [F.BR_OVS_CLAMP], 0x1e⟩]
def rowsBR_1 : List RegRow := [
  ⟨0x8030, [], [F.BR_STRETCH_S], 0x0⟩,
  ⟨0x8034, [], [F.BR_PAGE_CFG_MARKSEL, F.BR_PAGE_CFG_MINGAP], 0x1000⟩,
  ⟨0x8038, [], [F.BR_MARKOFF_OFF], 0x0⟩,
  ⟨0x803c, [], [F.BR_LINESTART_LINE], 0x0⟩,
  ⟨0x8040, [], [F.BR_PHI_LO_VALUE], 0x0⟩,
  ⟨0x8044, [], [F.BR_PHI_HI_VALUE], 0x0⟩,
  ⟨0x8048, [], [F.BR_PHIMAX_LO_VALUE], 0x0⟩,
  ⟨0x804c, [], [F.BR_PHIMAX_HI_VALUE], 0x0⟩,
  ⟨0x8050, [], [F.BR_RATE_RATE], 0x0⟩,
  ⟨0x8054, [], [F.BR_FMAX_FMAX], 0x61a80⟩,
  ⟨0x8058, [], [F.BR_LINE_LINE], 0xffffffff⟩,
  ⟨0x805c, [], [F.BR_SNAPLINE_LINE], 0xffffffff⟩]
def rowsBR_2 : List RegRow := [
  ⟨0x8060, [], [F.BR_ERR_E], 0x0⟩,
  ⟨0x8064, [], [F.BR_STRETCHSUM_SUM], 0x0⟩,
  ⟨0x8070, [], [F.BR_CNT_STRETCH_COUNT], 0x0⟩,
  ⟨0x8074, [], [F.BR_CNT_OVSBLANK_COUNT], 0x0⟩,
  ⟨0x8078, [], [F.BR_CNT_UNLOCK_COUNT], 0x0⟩,
  ⟨0x807c, [], [F.BR_CNT_SNAP_COUNT], 0x0⟩,
  ⟨0x8080, [], [F.BR_CNT_MARKREJ_COUNT], 0x0⟩]
/-- The registers of the BR block, offsets from the block's start (R284). -/
def rowsBR : List RegRow := rowsBR_0 ++ rowsBR_1 ++ rowsBR_2

def rowsCAM_0 : List RegRow := [
  ⟨0x0, [], [F.CAM_EVT_DROP, F.CAM_EVT_RETIRED, F.CAM_EVT_READMITTED, F.CAM_EVT_RESFULL, F.CAM_EVT_MAPLOST, F.CAM_EVT_LADDER, F.CAM_EVT_PAGE], 0x0⟩,
  ⟨0x4, [], [F.CAM_EVT_EN_DROP, F.CAM_EVT_EN_RETIRED, F.CAM_EVT_EN_READMITTED, F.CAM_EVT_EN_RESFULL, F.CAM_EVT_EN_MAPLOST, F.CAM_EVT_EN_LADDER, F.CAM_EVT_EN_PAGE], 0x0⟩,
  ⟨0x8, [], [F.CAM_READMIT_PORT], 0x0⟩,
  ⟨0xc, [], [F.CAM_NOZ_RETIRE_NOZ], 0x0⟩,
  ⟨0x10, [], [F.CAM_TAB_ADDR_INDEX, F.CAM_TAB_ADDR_TAB, F.CAM_TAB_ADDR_UNIT], 0x0⟩,
  ⟨0x14, [], [F.CAM_TAB_DATA_VALUE], 0x0⟩,
  ⟨0x18, [], [F.CAM_LAD_CFG_N, F.CAM_LAD_CFG_BANDH, F.CAM_LAD_CFG_BANDGAP, F.CAM_LAD_CFG_LEVEL], 0x3081000⟩,
  ⟨0x1c, [], [F.CAM_LAD_NOM_NOM, F.CAM_LAD_NOM_PRESMIN], 0x800400⟩,
  ⟨0x20, [], [F.CAM_LAD_NEXT_LINE], 0xffffffff⟩,
  ⟨0x24, [], [F.CAM_REF_LO_BASE_LO], 0x0⟩,
  ⟨0x28, [], [F.CAM_REF_HI_BASE_HI], 0x0⟩,
  ⟨0x2c, [], [F.CAM_REF_LINES_LINES], 0x0⟩]
def rowsCAM_1 : List RegRow := [
  ⟨0x100, [(0x80, 4)], [F.CAMn_CTRL_ARM, F.CAMn_CTRL_TAPS, F.CAMn_CTRL_TAPMODE, F.CAMn_CTRL_FRAMEMODE, F.CAMn_CTRL_CAPEN, F.CAMn_CTRL_TRIGSRC, F.CAMn_CTRL_SWTRIG], 0x2⟩,
  ⟨0x104, [(0x80, 4)], [F.CAMn_STAT_STATE, F.CAMn_STAT_DROPPING, F.CAMn_STAT_TRIGLVL, F.CAMn_STAT_FIFOLVL, F.CAMn_STAT_LASTCAUSE], 0x0⟩,
  ⟨0x108, [(0x80, 4)], [F.CAMn_GEOM_LINEPX, F.CAMn_GEOM_FRAMELINES], 0x1001000⟩,
  ⟨0x10c, [(0x80, 4)], [F.CAMn_TIMEOUT_LINETO], 0x64⟩,
  ⟨0x110, [(0x80, 4)], [F.CAMn_EXP_EXPW], 0x1f4⟩,
  ⟨0x114, [(0x80, 4)], [F.CAMn_GAIN_GAIN, F.CAMn_GAIN_EXPSET], 0x100⟩,
  ⟨0x118, [(0x80, 4)], [F.CAMn_EXP_NOW_EXPW], 0x1f4⟩,
  ⟨0x11c, [(0x80, 4)], [F.CAMn_GAIN_NOW_GAIN, F.CAMn_GAIN_NOW_EXPSET], 0x100⟩,
  ⟨0x120, [(0x80, 4)], [F.CAMn_FSEQ_FSEQ], 0x0⟩,
  ⟨0x124, [(0x80, 4)], [F.CAMn_X0_X0], 0x0⟩,
  ⟨0x128, [(0x80, 4)], [F.CAMn_PITCH_PITCH], 0x20000⟩,
  ⟨0x12c, [(0x80, 4)], [F.CAMn_YDIST_YDIST], 0x0⟩]
def rowsCAM_2 : List RegRow := [
  ⟨0x130, [(0x80, 4)], [F.CAMn_SER_CFG_EN, F.CAMn_SER_CFG_DIV], 0x36400⟩,
  ⟨0x134, [(0x80, 4)], [F.CAMn_SER_DATA_DATA, F.CAMn_SER_DATA_RXV, F.CAMn_SER_DATA_TXFULL, F.CAMn_SER_DATA_RXOVF], 0x0⟩,
  ⟨0x138, [(0x80, 4)], [F.CAMn_ERR_THR_ERRMAX, F.CAMn_ERR_THR_WINDOW], 0x3e80003⟩,
  ⟨0x13c, [(0x80, 4)], [F.CAMn_CNT_FRAMES_COUNT], 0x0⟩,
  ⟨0x140, [(0x80, 4)], [F.CAMn_CNT_DROP_COUNT], 0x0⟩,
  ⟨0x400, [(0x80, 2)], [F.Pp_CTRL_ARB, F.Pp_CTRL_PRIO, F.Pp_CTRL_FF, F.Pp_CTRL_LAD, F.Pp_CTRL_CMP], 0x1c⟩,
  ⟨0x404, [(0x80, 2)], [F.Pp_STAT_MAPLVL, F.Pp_STAT_LASTPORT, F.Pp_STAT_BUSY], 0x0⟩,
  ⟨0x408, [(0x80, 2)], [F.Pp_RES_LO_BASE_LO], 0x0⟩,
  ⟨0x40c, [(0x80, 2)], [F.Pp_RES_HI_BASE_HI, F.Pp_RES_HI_SIZE_LOG2], 0x40000⟩,
  ⟨0x410, [(0x80, 2)], [F.Pp_RES_WR_INDEX], 0x0⟩,
  ⟨0x414, [(0x80, 2)], [F.Pp_RES_RD_INDEX], 0x0⟩,
  ⟨0x418, [(0x80, 2)], [F.Pp_REGION_REGW, F.Pp_REGION_REGH], 0x4040⟩]
def rowsCAM_3 : List RegRow := [
  ⟨0x41c, [(0x80, 2)], [F.Pp_CMPTHR_PIXTHR, F.Pp_CMPTHR_CNTTHR, F.Pp_CMPTHR_MEANTHR], 0x330100cd⟩,
  ⟨0x420, [(0x80, 2)], [F.Pp_CNT_RESLOST_COUNT], 0x0⟩]
/-- The registers of the CAM block, offsets from the block's start (R337). -/
def rowsCAM : List RegRow := rowsCAM_0 ++ rowsCAM_1 ++ rowsCAM_2 ++ rowsCAM_3

def rowsCAL_0 : List RegRow := [
  ⟨0x0, [], [F.CAL_CTRL_EN, F.CAL_CTRL_TRIMEN], 0x0⟩,
  ⟨0x4, [], [F.CAL_STAT_CURHC, F.CAL_STAT_BUSY, F.CAL_STAT_LAG], 0x0⟩,
  ⟨0x8, [], [F.CAL_EVT_CYCLE, F.CAL_EVT_CUT, F.CAL_EVT_IMPLAUS, F.CAL_EVT_RANGE, F.CAL_EVT_ADCRANGE], 0x0⟩,
  ⟨0xc, [], [F.CAL_EVT_EN_CYCLE, F.CAL_EVT_EN_CUT, F.CAL_EVT_EN_IMPLAUS, F.CAL_EVT_EN_RANGE, F.CAL_EVT_EN_ADCRANGE], 0x0⟩,
  ⟨0x10, [], [F.CAL_SCHED_PERIOD, F.CAL_SCHED_NPT, F.CAL_SCHED_MAXSTEP], 0x101003e8⟩,
  ⟨0x14, [], [F.CAL_SLOT_SETTLE, F.CAL_SLOT_RECOV, F.CAL_SLOT_STEPLINES], 0x1000a1e⟩,
  ⟨0x18, [], [F.CAL_HCMASK_HC], 0x0⟩,
  ⟨0x1c, [], [F.CAL_TSLIN_TSOFF, F.CAL_TSLIN_TSSLOPE], 0x0⟩,
  ⟨0x20, [], [F.CAL_TSCFG_TAVG, F.CAL_TSCFG_PCALN, F.CAL_TSCFG_PCALPER], 0xa4040⟩,
  ⟨0x24, [], [F.CAL_ADC_OFSTRIM, F.CAL_ADC_ZERO], 0x0⟩,
  ⟨0x28, [], [F.CAL_CNT_SLOTS_COUNT], 0x0⟩,
  ⟨0x2c, [], [F.CAL_CNT_CUT_COUNT], 0x0⟩]
def rowsCAL_1 : List RegRow := [
  ⟨0x30, [], [F.CAL_CNT_IMPLAUS_COUNT], 0x0⟩,
  ⟨0x100, [(0x20, 24)], [F.CAL_HCh_TRIM_OFS, F.CAL_HCh_TRIM_GAIN], 0x2000200⟩,
  ⟨0x104, [(0x20, 24)], [F.CAL_HCh_NOW_OFS, F.CAL_HCh_NOW_GAIN], 0x2000200⟩,
  ⟨0x108, [(0x20, 24)], [F.CAL_HCh_PTS_CODELO, F.CAL_HCh_PTS_CODEHI], 0x0⟩,
  ⟨0x10c, [(0x20, 24)], [F.CAL_HCh_TGT_TGTLO, F.CAL_HCh_TGT_TGTHI], 0x0⟩,
  ⟨0x110, [(0x20, 24)], [F.CAL_HCh_MEAS_MLO, F.CAL_HCh_MEAS_MHI], 0x0⟩,
  ⟨0x114, [(0x20, 24)], [F.CAL_HCh_PATH_TSOFS, F.CAL_HCh_PATH_VSOFS], 0x0⟩,
  ⟨0x118, [(0x20, 24)], [F.CAL_HCh_STAT_BUSY, F.CAL_HCh_STAT_TSCAL, F.CAL_HCh_STAT_VSCAL, F.CAL_HCh_STAT_RANGE, F.CAL_HCh_STAT_IMPLAUS, F.CAL_HCh_STAT_STEPPING], 0x0⟩,
  ⟨0x11c, [(0x20, 24)], [F.CAL_HCh_LASTLINE_LINE], 0xffffffff⟩]
/-- The registers of the CAL block, offsets from the block's start (R351). -/
def rowsCAL : List RegRow := rowsCAL_0 ++ rowsCAL_1

def rowsMOTION_0 : List RegRow := [
  ⟨0x0, [], [F.MOT_PWM_DEADT], 0x10⟩,
  ⟨0x4, [], [F.MOT_EVT_AX0_DONE, F.MOT_EVT_AX0_HOMED, F.MOT_EVT_AX0_LIMIT, F.MOT_EVT_AX0_FAULT, F.MOT_EVT_AX0_REVERSE, F.MOT_EVT_AX0_TGTREF, F.MOT_EVT_AX1_DONE, F.MOT_EVT_AX1_HOMED, F.MOT_EVT_AX1_LIMIT, F.MOT_EVT_AX1_FAULT, F.MOT_EVT_AX1_REVERSE, F.MOT_EVT_AX1_TGTREF, F.MOT_EVT_AX2_DONE, F.MOT_EVT_AX2_HOMED, F.MOT_EVT_AX2_LIMIT, F.MOT_EVT_AX2_FAULT, F.MOT_EVT_AX2_REVERSE, F.MOT_EVT_AX2_TGTREF, F.MOT_EVT_AX3_DONE, F.MOT_EVT_AX3_HOMED, F.MOT_EVT_AX3_LIMIT, F.MOT_EVT_AX3_FAULT, F.MOT_EVT_AX3_REVERSE, F.MOT_EVT_AX3_TGTREF], 0x0⟩,
  ⟨0x8, [], [F.MOT_EVT_EN_AX0_DONE, F.MOT_EVT_EN_AX0_HOMED, F.MOT_EVT_EN_AX0_LIMIT, F.MOT_EVT_EN_AX0_FAULT, F.MOT_EVT_EN_AX0_REVERSE, F.MOT_EVT_EN_AX0_TGTREF, F.MOT_EVT_EN_AX1_DONE, F.MOT_EVT_EN_AX1_HOMED, F.MOT_EVT_EN_AX1_LIMIT, F.MOT_EVT_EN_AX1_FAULT, F.MOT_EVT_EN_AX1_REVERSE, F.MOT_EVT_EN_AX1_TGTREF, F.MOT_EVT_EN_AX2_DONE, F.MOT_EVT_EN_AX2_HOMED, F.MOT_EVT_EN_AX2_LIMIT, F.MOT_EVT_EN_AX2_FAULT, F.MOT_EVT_EN_AX2_REVERSE, F.MOT_EVT_EN_AX2_TGTREF, F.MOT_EVT_EN_AX3_DONE, F.MOT_EVT_EN_AX3_HOMED, F.MOT_EVT_EN_AX3_LIMIT, F.MOT_EVT_EN_AX3_FAULT, F.MOT_EVT_EN_AX3_REVERSE, F.MOT_EVT_EN_AX3_TGTREF], 0x0⟩,
  ⟨0x100, [(0x80, 4)], [F.MOT_AXn_CTRL_EN, F.MOT_AXn_CTRL_MODE, F.MOT_AXn_CTRL_SHAPE, F.MOT_AXn_CTRL_SSACT, F.MOT_AXn_CTRL_LINK, F.MOT_AXn_CTRL_HYST], 0x1⟩,
  ⟨0x104, [(0x80, 4)], [F.MOT_AXn_CMD_CMD], 0x0⟩,
  ⟨0x108, [(0x80, 4)], [F.MOT_AXn_STAT_STATE, F.MOT_AXn_STAT_DIR, F.MOT_AXn_STAT_STILL, F.MOT_AXn_STAT_VVALID, F.MOT_AXn_STAT_REF, F.MOT_AXn_STAT_PEND, F.MOT_AXn_STAT_RES, F.MOT_AXn_STAT_LIMNEG, F.MOT_AXn_STAT_LIMPOS, F.MOT_AXn_STAT_BLEND, F.MOT_AXn_STAT_CAUSE, F.MOT_AXn_STAT_GLAG], 0x0⟩,
  ⟨0x10c, [(0x80, 4)], [F.MOT_AXn_POS_VALUE], 0x0⟩,
  ⟨0x110, [(0x80, 4)], [F.MOT_AXn_VEL_VALUE], 0x0⟩,
  ⟨0x114, [(0x80, 4)], [F.MOT_AXn_TGT_VALUE], 0x0⟩,
  ⟨0x118, [(0x80, 4)], [F.MOT_AXn_VMAX_VALUE], 0x7d00⟩,
  ⟨0x11c, [(0x80, 4)], [F.MOT_AXn_AMAX_VALUE], 0x1388⟩,
  ⟨0x120, [(0x80, 4)], [F.MOT_AXn_DMAX_VALUE], 0x1388⟩]
def rowsMOTION_1 : List RegRow := [
  ⟨0x124, [(0x80, 4)], [F.MOT_AXn_QDEC_VALUE], 0x4e20⟩,
  ⟨0x128, [(0x80, 4)], [F.MOT_AXn_TRAP_VSTART, F.MOT_AXn_TRAP_VSTOP], 0x0⟩,
  ⟨0x12c, [(0x80, 4)], [F.MOT_AXn_VBREAK_VALUE], 0x0⟩,
  ⟨0x130, [(0x80, 4)], [F.MOT_AXn_ACC1_VALUE], 0x0⟩,
  ⟨0x134, [(0x80, 4)], [F.MOT_AXn_DEC1_VALUE], 0x0⟩,
  ⟨0x138, [(0x80, 4)], [F.MOT_AXn_CUR_IRUN, F.MOT_AXn_CUR_IHOLD, F.MOT_AXn_CUR_HOLDDLY], 0x0⟩,
  ⟨0x13c, [(0x80, 4)], [F.MOT_AXn_CURPI_KP, F.MOT_AXn_CURPI_KI, F.MOT_AXn_CURPI_IMAX], 0x1010400⟩,
  ⟨0x140, [(0x80, 4)], [F.MOT_AXn_USTEP0_UP1, F.MOT_AXn_USTEP0_UP2], 0x4b0012c⟩,
  ⟨0x144, [(0x80, 4)], [F.MOT_AXn_USTEP1_UP3, F.MOT_AXn_USTEP1_UP4], 0x2ee012c0⟩,
  ⟨0x148, [(0x80, 4)], [F.MOT_AXn_SW_HOMESEL, F.MOT_AXn_SW_HOMEEN, F.MOT_AXn_SW_LNEGSEL, F.MOT_AXn_SW_LNEGEN, F.MOT_AXn_SW_LPOSSEL, F.MOT_AXn_SW_LPOSEN, F.MOT_AXn_SW_HDIR], 0x0⟩,
  ⟨0x14c, [(0x80, 4)], [F.MOT_AXn_HOME_HFAST, F.MOT_AXn_HOME_HSLOW], 0x3201f4⟩,
  ⟨0x150, [(0x80, 4)], [F.MOT_AXn_HOMEPOS_VALUE], 0x0⟩]
def rowsMOTION_2 : List RegRow := [
  ⟨0x154, [(0x80, 4)], [F.MOT_AXn_HMAXDIST_VALUE], 0x1000000⟩,
  ⟨0x158, [(0x80, 4)], [F.MOT_AXn_SOFTLO_VALUE], 0x80000000⟩,
  ⟨0x15c, [(0x80, 4)], [F.MOT_AXn_SOFTHI_VALUE], 0x7fffffff⟩,
  ⟨0x160, [(0x80, 4)], [F.MOT_AXn_SSPOS_VALUE], 0x0⟩,
  ⟨0x164, [(0x80, 4)], [F.MOT_AXn_LINKOFS_VALUE], 0x0⟩,
  ⟨0x268, [], [F.MOT_AX2_GCFG_SRC, F.MOT_AX2_GCFG_LAGMAX], 0x1⟩,
  ⟨0x26c, [], [F.MOT_AX2_GRATIO_VALUE], 0x10000⟩,
  ⟨0x270, [], [F.MOT_AX2_GNEXT_VALUE], 0x10000⟩,
  ⟨0x274, [], [F.MOT_AX2_GSCHED_LO_VALUE], 0x0⟩,
  ⟨0x278, [], [F.MOT_AX2_GSCHED_HI_VALUE], 0x0⟩,
  ⟨0x27c, [], [F.MOT_AX2_GBLEND_BLEND], 0x400⟩]
/-- The registers of the MOTION block, offsets from the block's start (R377). -/
def rowsMOTION : List RegRow := rowsMOTION_0 ++ rowsMOTION_1 ++ rowsMOTION_2

def rowsCLKPWR_0 : List RegRow := [
  ⟨0x0, [], [F.CLKPWR_CTRL_REQ, F.CLKPWR_CTRL_SWRST], 0x2⟩,
  ⟨0x4, [], [F.CLKPWR_STAT_STATE, F.CLKPWR_STAT_WBUSY, F.CLKPWR_STAT_CORELOCK, F.CLKPWR_STAT_DDRLOCK, F.CLKPWR_STAT_SHIFTLOCK, F.CLKPWR_STAT_IOLOCK, F.CLKPWR_STAT_CORE600, F.CLKPWR_STAT_STRETCH], 0x4⟩,
  ⟨0x8, [], [F.CLKPWR_EVT_STATECHG, F.CLKPWR_EVT_REQREF, F.CLKPWR_EVT_WAKE, F.CLKPWR_EVT_SAG, F.CLKPWR_EVT_SAGEND, F.CLKPWR_EVT_UV, F.CLKPWR_EVT_OT, F.CLKPWR_EVT_PLLLOSS, F.CLKPWR_EVT_STARTFAULT], 0x0⟩,
  ⟨0xc, [], [F.CLKPWR_EVT_EN_STATECHG, F.CLKPWR_EVT_EN_REQREF, F.CLKPWR_EVT_EN_WAKE, F.CLKPWR_EVT_EN_SAG, F.CLKPWR_EVT_EN_SAGEND, F.CLKPWR_EVT_EN_UV, F.CLKPWR_EVT_EN_OT, F.CLKPWR_EVT_EN_PLLLOSS, F.CLKPWR_EVT_EN_STARTFAULT], 0x0⟩,
  ⟨0x10, [], [F.CLKPWR_DROOP_STRETCH, F.CLKPWR_DROOP_UV], 0x2a802d0⟩,
  ⟨0x14, [], [F.CLKPWR_SAGTIME_FBDELAY, F.CLKPWR_SAGTIME_RECOVER], 0x3e80005⟩,
  ⟨0x18, [], [F.CLKPWR_OT_OTTRIP], 0x6e⟩,
  ⟨0x1c, [], [F.CLKPWR_TEMP_TEMP], 0x0⟩,
  ⟨0x20, [], [F.CLKPWR_GATE_HAM, F.CLKPWR_GATE_ENC, F.CLKPWR_GATE_PIPE, F.CLKPWR_GATE_MOTION], 0x0⟩,
  ⟨0x24, [], [F.CLKPWR_BOOTSTAT_FAULT, F.CLKPWR_BOOTSTAT_SETDEF, F.CLKPWR_BOOTSTAT_VLOST, F.CLKPWR_BOOTSTAT_RSTCAUSE], 0x0⟩,
  ⟨0x28, [], [F.CLKPWR_SAGCNT_COUNT], 0x0⟩,
  ⟨0x100, [], [F.CLKPWR_WAKECFG_WEN, F.CLKPWR_WAKECFG_WPOL, F.CLKPWR_WAKECFG_ALRMEN], 0x0⟩]
def rowsCLKPWR_1 : List RegRow := [
  ⟨0x104, [], [F.CLKPWR_WAKESRC_SRC], 0x0⟩,
  ⟨0x108, [], [F.CLKPWR_RTC_LO_RTC], 0x0⟩,
  ⟨0x10c, [], [F.CLKPWR_RTC_HI_RTC], 0x0⟩,
  ⟨0x110, [], [F.CLKPWR_ALARM_LO_ALARM], 0x0⟩,
  ⟨0x114, [], [F.CLKPWR_ALARM_HI_ALARM], 0x0⟩,
  ⟨0x120, [(0x4, 8)], [F.CLKPWR_RETw_DATA], 0x0⟩]
/-- The registers of the CLKPWR block, offsets from the block's start (R430). -/
def rowsCLKPWR : List RegRow := rowsCLKPWR_0 ++ rowsCLKPWR_1

def rowsSEC_0 : List RegRow := [
  ⟨0x0, [], [F.SEC_STAT_BOOTSTATE, F.SEC_STAT_STAGE, F.SEC_STAT_ACT, F.SEC_STAT_ENGSAMPLE, F.SEC_STAT_NOIMAGE, F.SEC_STAT_CERTBAD], 0x0⟩,
  ⟨0x4, [], [F.SEC_EVT_STAGED, F.SEC_EVT_MISSED, F.SEC_EVT_FELLBACK, F.SEC_EVT_CONFIRMED, F.SEC_EVT_SESSREF], 0x0⟩,
  ⟨0x8, [], [F.SEC_EVT_EN_STAGED, F.SEC_EVT_EN_MISSED, F.SEC_EVT_EN_FELLBACK, F.SEC_EVT_EN_CONFIRMED, F.SEC_EVT_EN_SESSREF], 0x0⟩,
  ⟨0xc, [], [F.SEC_CONFIRM_KEY], 0x0⟩,
  ⟨0x10, [], [F.SEC_KEYSLOT_SLOT0, F.SEC_KEYSLOT_SLOT1, F.SEC_KEYSLOT_SLOT2, F.SEC_KEYSLOT_SVCANCHOR], 0x0⟩,
  ⟨0x14, [], [F.SEC_SECVER_FUSED], 0x0⟩,
  ⟨0x18, [], [F.SEC_JOURNAL_STEP, F.SEC_JOURNAL_BLOCK, F.SEC_JOURNAL_GEN], 0x0⟩,
  ⟨0x1c, [], [F.SEC_TRIAL_REMAIN], 0x0⟩,
  ⟨0x20, [], [F.SEC_SIGN_CTRL_GO, F.SEC_SIGN_CTRL_BUSY, F.SEC_SIGN_CTRL_ERR], 0x0⟩,
  ⟨0x40, [(0x4, 8)], [F.SEC_DIGESTw_DATA], 0x0⟩,
  ⟨0x60, [(0x4, 16)], [F.SEC_SIGw_DATA], 0x0⟩,
  ⟨0xa0, [(0x4, 16)], [F.SEC_PUBKEYw_DATA], 0x0⟩]
/-- The registers of the SEC block, offsets from the block's start (R455). -/
def rowsSEC : List RegRow := rowsSEC_0

def rowsFAULT_0 : List RegRow := [
  ⟨0x0, [], [F.FAULT_CTRL_SAFESTOP, F.FAULT_CTRL_CLEAR, F.FAULT_CTRL_MERGE], 0x4⟩,
  ⟨0x4, [], [F.FAULT_STAT_SAFE, F.FAULT_STAT_SSCAUSE, F.FAULT_STAT_HCRET], 0x0⟩,
  ⟨0x8, [], [F.FAULT_EVT_SAFESTOP, F.FAULT_EVT_PERM, F.FAULT_EVT_RETIRE, F.FAULT_EVT_READMIT, F.FAULT_EVT_LOGOVF, F.FAULT_EVT_HAMTHR, F.FAULT_EVT_CLEARREF], 0x0⟩,
  ⟨0xc, [], [F.FAULT_EVT_EN_SAFESTOP, F.FAULT_EVT_EN_PERM, F.FAULT_EVT_EN_RETIRE, F.FAULT_EVT_EN_READMIT, F.FAULT_EVT_EN_LOGOVF, F.FAULT_EVT_EN_HAMTHR, F.FAULT_EVT_EN_CLEARREF], 0x0⟩,
  ⟨0x10, [], [F.FAULT_HC_RETIRE_HC], 0x0⟩,
  ⟨0x14, [], [F.FAULT_HC_READMIT_HC], 0x0⟩,
  ⟨0x18, [], [F.FAULT_NOZ_RETIRE_NOZ], 0x0⟩,
  ⟨0x20, [], [F.FAULT_LOG_WR_SEQ], 0x0⟩,
  ⟨0x24, [], [F.FAULT_LOG_RD_SEQ], 0x0⟩,
  ⟨0x28, [], [F.FAULT_LOG_LOST_COUNT], 0x0⟩,
  ⟨0x40, [(0x4, 8)], [F.FAULT_LOG_Ww_DATA], 0x0⟩]
/-- The registers of the FAULT block, offsets from the block's start (R309). -/
def rowsFAULT : List RegRow := rowsFAULT_0

end Sys2Proof.Machine
end

