-- ==== Sys2Proof/Machine/Sparse.lean ====
section
/-! DEFINITION. Sparse tables: lists of pairs with rising keys in which no entry equals what an unlisted key reads as.
Registers, memories and tables of units are held in this one form, so equal tables are equal data. -/

namespace Sys2Proof.Machine

/-- What key `k` holds in table `m`, where an unlisted key holds `d k`. -/
def sget {α : Type} (d : Nat → α) (m : List (Nat × α)) (k : Nat) : α :=
  match m with
  | [] => d k
  | (k', v) :: t => if k' = k then v else sget d t k

/-- Table `m` without its entries at key `k`. -/
def sdel {α : Type} (m : List (Nat × α)) (k : Nat) : List (Nat × α) :=
  match m with
  | [] => []
  | (k', v) :: t => if k' = k then sdel t k else (k', v) :: sdel t k

/-- Table `m`, which holds no key `k`, with `v` put at `k` in rising order. -/
def sins {α : Type} (m : List (Nat × α)) (k : Nat) (v : α) : List (Nat × α) :=
  match m with
  | [] => [(k, v)]
  | (k', v') :: t => if k < k' then (k, v) :: (k', v') :: t else (k', v') :: sins t k v

/-- Table `m` with `v` at key `k`; a value that an unlisted key holds removes the entry. -/
def sset {α : Type} [DecidableEq α] (d : Nat → α) (m : List (Nat × α)) (k : Nat) (v : α) : List (Nat × α) :=
  if v = d k then sdel m k else sins (sdel m k) k v

/-- The canonical form of a table: keys rising, no entry equal to what an unlisted key holds. -/
def swf {α : Type} [DecidableEq α] (d : Nat → α) (m : List (Nat × α)) : Bool :=
  match m with
  | [] => true
  | (k, v) :: t => decide (v ≠ d k) && t.all (fun e => decide (k < e.1)) && swf d t

end Sys2Proof.Machine
end

