-- ==== Sys2Proof/Machine/Bits.lean ====
section
/-! DEFINITION. Fields of a register word, bytes and little-endian numbers (R5, R45), signed readings of words, and
the lookup of an address in the register map (R28). -/

namespace Sys2Proof.Machine

/-- The mask of a field in its word. -/
def Field.mask (f : Field) : Nat := (2 ^ f.width - 1) <<< f.lo

/-- The value of field `f` of word `w`. -/
def getField (f : Field) (w : Word) : Nat := (w.toNat >>> f.lo) % 2 ^ f.width

/-- Word `w` with field `f` set to the low bits of `v`. -/
def putField (f : Field) (w : Word) (v : Nat) : Word :=
  BitVec.ofNat 32 ((w.toNat &&& (0xFFFFFFFF ^^^ f.mask)) ||| ((v % 2 ^ f.width) <<< f.lo))

/-- The mask of the fields of `fs` that carry access code `a`. -/
def maskOf (a : Access) (fs : List Field) : Word :=
  BitVec.ofNat 32 (fs.foldl (fun m f => if f.acc = a then m ||| f.mask else m) 0)

/-- The number that bytes spell, the lowest byte first. -/
def leNat : List Byte → Nat
  | [] => 0
  | b :: t => b.toNat + 256 * leNat t

/-- The `n` bytes of a number, the lowest byte first. -/
def leBytes : Nat → Nat → List Byte
  | 0, _ => []
  | n + 1, v => BitVec.ofNat 8 v :: leBytes n (v / 256)

/-- The `n` bytes from offset `i` of a byte list, missing bytes left out. -/
def slice (l : List Byte) (i n : Nat) : List Byte := (l.drop i).take n

/-- The little-endian number in the `n` bytes from offset `i`. -/
def leAt (l : List Byte) (i n : Nat) : Nat := leNat (slice l i n)

/-- The little-endian 32-bit words of a byte list. -/
def words32 (l : List Byte) : List Nat := (List.range (l.length / 4)).map (fun i => leAt l (4 * i) 4)

/-- The signed reading of the low `w` bits of `n`. -/
def sext (w n : Nat) : Int :=
  let m := n % 2 ^ w
  if m < 2 ^ (w - 1) then (m : Int) else (m : Int) - 2 ^ w

/-- The low `w` bits of an integer in two's complement. -/
def wrap (w : Nat) (i : Int) : Nat := (i % 2 ^ w).toNat

/-- An integer held within bounds. -/
def clampInt (lo hi i : Int) : Int := if i < lo then lo else if hi < i then hi else i

/-- The quotient of integers rounded to the nearest, halves away from zero. -/
def roundDiv (a b : Int) : Int :=
  if b = 0 then 0
  else
    let q := (2 * a.natAbs + b.natAbs) / (2 * b.natAbs)
    if (a < 0) = (b < 0) then (q : Int) else -(q : Int)

/-- The distance from `b` up to `a` modulo `m`. -/
def modSub (m a b : Nat) : Nat := (a + m - b % m) % m

/-- The indices of the bits of `n` that are 1, below `w`. -/
def bitList (w n : Nat) : List Nat := (List.range w).filter n.testBit

/-- Whether register row `r` holds offset `o`, and at which indices. -/
def RegRow.indices (r : RegRow) (o : Nat) : Option (List Nat) :=
  if o < r.off then none
  else
    let rec go : List (Nat × Nat) → Nat → Option (List Nat)
      | [], x => if x = 0 then some [] else none
      | (st, cnt) :: t, x => if x / st < cnt then (go t (x % st)).map (fun l => x / st :: l) else none
    go r.dims (o - r.off)

/-- The row of a register table that holds offset `o`. -/
def findRow (rows : List RegRow) (o : Nat) : Option (RegRow × List Nat) :=
  match rows with
  | [] => none
  | r :: t =>
    match r.indices o with
    | some l => some (r, l)
    | none => findRow t o

/-- The register table that covers an address of the register space and the offset in it (R28). Hamlet blocks repeat
four times and head-channel blocks twenty-four times; the scan registers stand in HC22 and HC23 only (R237). -/
def blockAt (a : Nat) : Option (List RegRow × Nat) :=
  if a < 0x100000000 then none
  else
    let o := a - 0x100000000
    if o < 0x10000 then some (rowsLINK, o)
    else if o < 0x20000 then some (rowsDMA, o - 0x10000)
    else if o < 0x30000 then some (rowsGRANARY, o - 0x20000)
    else if o < 0x40000 then some (rowsMILLER, o - 0x30000)
    else if 0x100000 ≤ o && o < 0x140000 then some (rowsHAMLET, (o - 0x100000) % 0x10000)
    else if 0x180000 ≤ o && o < 0x196000 && 0x58 ≤ o % 0x1000 && o % 0x1000 < 0x6C then none
    else if 0x180000 ≤ o && o < 0x198000 then some (rowsHEADCH, o % 0x1000)
    else if 0x200000 ≤ o && o < 0x210000 then some (rowsCAM, o - 0x200000)
    else if 0x300000 ≤ o && o < 0x308000 then some (rowsPOS, o - 0x300000)
    else if 0x308000 ≤ o && o < 0x310000 then some (rowsBR, o - 0x300000)
    else if 0x310000 ≤ o && o < 0x320000 then some (rowsMOTION, o - 0x310000)
    else if 0x320000 ≤ o && o < 0x330000 then some (rowsCAL, o - 0x320000)
    else if 0x400000 ≤ o && o < 0x410000 then some (rowsCLKPWR, o - 0x400000)
    else if 0x410000 ≤ o && o < 0x420000 then some (rowsSEC, o - 0x410000)
    else if 0x420000 ≤ o && o < 0x430000 then some (rowsFAULT, o - 0x420000)
    else none

/-- The register at an address, with the indices under which its row repeats; none where the address is reserved. -/
def regAt (a : Nat) : Option (RegRow × List Nat) :=
  match blockAt a with
  | some (rows, o) => findRow rows o
  | none => none

/-- The register at address `a` is a counter: all its fields clear on read (R6). -/
def isCounter (a : Nat) : Bool :=
  match regAt a with
  | some (r, _) => !r.fields.isEmpty && r.fields.all (fun f => f.acc == .rc)
  | none => false

/-- Reset value of DMA_CHn_CFG (R91, R109). -/
def dmaCfgReset (n : Nat) : Nat :=
  if n < 8 then 0x00500311 else if n < 16 then 0x00900310 else if n < 20 then 0x00500011
  else if n = 20 || n = 22 then 0x0088030E else if n = 21 || n = 23 then 0x0048030E else 0x0008030B

/-- Reset value of DMA_CHn_PACE (R91, R109). -/
def dmaPaceReset (n : Nat) : Nat :=
  if n < 8 || n = 21 || n = 23 then 0x0A000010 else if n < 16 then 0x00040080 else if n < 20 then 0x05000010
  else if n = 20 || n = 22 then 0x00020040 else 0

/-- Reset value of MOT_AXn_SW: the assignment that the firmware sets at start (R365, R377). -/
def motSwReset (n : Nat) : Nat :=
  if n = 0 then 0x10C8 else if n = 1 then 0x10D9 else if n = 2 then 0x1FEA else 0x1F0B

/-- The reset value of the register at address `a`; 0 where there is none. -/
def resetWord (a : Nat) : Word :=
  if 0x100010104 ≤ a && a < 0x100010900 && (a - 0x100010104) % 0x40 = 0 then
    BitVec.ofNat 32 (dmaCfgReset ((a - 0x100010104) / 0x40))
  else if 0x100010118 ≤ a && a < 0x100010914 && (a - 0x100010118) % 0x40 = 0 then
    BitVec.ofNat 32 (dmaPaceReset ((a - 0x100010118) / 0x40))
  else if 0x100310148 ≤ a && a < 0x100310348 && (a - 0x100310148) % 0x80 = 0 then
    BitVec.ofNat 32 (motSwReset ((a - 0x100310148) / 0x80))
  else
    match regAt a with
    | some (r, _) => BitVec.ofNat 32 r.reset
    | none => 0

end Sys2Proof.Machine
end

