-- ==== Sys2Proof/Machine/State.lean ====
section
/-! DEFINITION. The state of the block as plain data, its state after reset, and the reasons a command can stop.
A register of the register map has its one home in `State.regs`: the sparse table lists the registers whose value is
not their reset value, keyed by their 40-bit address. Memory bytes have theirs in `State.mem`. The structures below
hold what the spec gives the units beside their registers. A unit table (`List (Nat × _)`) lists the units whose state
is not the unit's state after reset. -/

namespace Sys2Proof.Machine

/-- The answer to the requester of the last register or memory access (R29, R475): the requester's code, whether the
access was performed, and the data of a read. -/
structure BusResp where
  req : Nat
  ok : Bool
  data : List Byte
deriving DecidableEq, Repr

/-- One entry of the fault log (R302). -/
structure LogEntry where
  seq : Nat
  ts : Nat
  pos : Int
  line : Nat
  level : Nat
  kind : Nat
  unit : Nat
  src : Nat
  cause : Nat
  rep : Nat
  detail : Nat
deriving DecidableEq, Repr


/-- The K-codes that the link uses (R38). -/
inductive KCode where
  | com | sop | eop | ebp | idl | skp | lmk | eie
deriving DecidableEq, Repr

/-- A symbol of a lane: a data byte or a K-code (R38). -/
inductive Sym where
  | data (b : Byte)
  | ctl (k : KCode)
deriving DecidableEq, Repr

/-- A lane of the link beside its registers (R38 to R41, R62, R67, R68). -/
structure LaneSt where
  /-- The lane's polarity is corrected (step 2 of the alignment). -/
  inverted : Bool := false
  /-- LN of the lane-marker set seen in the alignment. -/
  lnSeen : Option Nat := none
  /-- SKP symbols inserted less those removed (R40). -/
  elastic : Int := 0
  /-- Instants of the errors within the window of R62, newest first. -/
  errStamps : List Nat := []
  /-- Errors since the first of the NAKs in a row (R56). -/
  errSinceNak : Nat := 0
  /-- Restarts of the qualification count (R68). -/
  restarts : Nat := 0
  /-- When the count of the qualification began anew (R68). -/
  qualSince : Nat := 0
  /-- The symbols of the last transmission on the lane, the ordered sets that fell due within it among them (R39, R43). -/
  out : List Sym := []
deriving DecidableEq, Repr

/-- A packet of the link with its header fields (R45). -/
structure Packet where
  cls : Nat
  target : Nat
  seq : Nat
  addr : Nat
  pad : Nat
  status : Nat
  dlen : Nat
  payload : List Byte
deriving DecidableEq, Repr

/-- The ordered sets, with the data symbols that all lanes share (R39). -/
inductive OrderedSet where
  | skip
  | laneMarker (gen txm rxm mode : Nat)
  | electricalIdle
  | standbyExit (gen txm rxm mode : Nat)
  | qualification (lane gen txm rxm mode : Nat)
deriving DecidableEq, Repr

/-- The last credit packet that a port sent: ACKSEQ, its NAK bit and the limits of words 0 to 9 (R53, R54, R58). -/
structure CreditOut where
  ackSeq : Nat
  nak : Bool
  limits : List Nat
deriving DecidableEq, Repr

/-- The direction of a port from the host: its line is followed, idle in Standby, or idle in Dormant (R69 to R71). -/
inductive RxPower where
  | active | standby | dormant
deriving DecidableEq, Repr

/-- A read of the link host that is performed and not yet answered (R49, R50): the request's header fields, the number of
its DRAM access while Granary has it, the data of another read, and whether it was refused. -/
structure LinkRead where
  tag : Nat
  addr : Nat
  dlen : Nat
  rd : Option Nat
  data : List Byte
  failed : Bool
deriving DecidableEq, Repr

/-- A port of the link beside its registers. -/
structure PortSt where
  /-- The alignment procedure runs. -/
  starting : Bool := false
  /-- The alignment reruns out of Dormant: sequence numbers and credits keep their values (R71). -/
  warm : Bool := false
  rx : RxPower := .active
  /-- Sequence number of the next packet to be sent. -/
  txNext : Nat := 0
  /-- Packets that wait for credit, space or power. -/
  waiting : List Packet := []
  /-- Sequenced packets kept until acknowledged (R55). -/
  unacked : List Packet := []
  /-- Packets accepted and not yet handed on, oldest first. -/
  accepted : List Packet := []
  /-- Accepted packets whose acceptance is not reported yet; a repeated ACKSEQ counts as one (R53). -/
  ackPending : Nat := 0
  /-- When the first of them was accepted. -/
  ackSince : Nat := 0
  /-- A NAK is to be sent (R54). -/
  nakPending : Bool := false
  /-- A NAK is out for the expected sequence number. -/
  nakOut : Bool := false
  /-- When it was sent (R54). -/
  nakSince : Nat := 0
  /-- NAKs in a row for the expected sequence number (R56). -/
  nakCount : Nat := 0
  /-- ACKSEQ of a NAK that the host sent and that waits for its handling (R55). -/
  nakIn : Option Nat := none
  /-- Sequence numbers sent again at the last replay (R55). -/
  lastReplay : List Nat := []
  /-- When an acknowledgement last advanced, or since when a packet waits for one, or the last replay (R55). -/
  ackedAt : Nat := 0
  /-- When a limit advanced first since the last credit packet (R59). -/
  limitSince : Nat := 0
  /-- When the port last sent a packet (R70). -/
  idleSince : Nat := 0
  /-- The symbol position behind the last transmission (R39, R40). -/
  txPos : Nat := 0
  /-- GEN, TXM and RXM of the host's last accepted lane-marker set. -/
  hostGen : Nat := 0
  hostTxm : Nat := 0
  hostRxm : Nat := 0
  /-- RXM that the XB7240 sends. -/
  rxm : Nat := 0
  /-- Charged totals of the buffers: streams 0 to 7, memory writes 8, read requests 9 (R58). -/
  charged : List Nat := [0, 0, 0, 0, 0, 0, 0, 0, 0, 0]
  /-- Credit limits of the same buffers. -/
  limit : List Nat := [512, 512, 512, 512, 512, 512, 512, 512, 256, 64]
  /-- Limits in the last credit packet sent. -/
  sentLimit : List Nat := [0, 0, 0, 0, 0, 0, 0, 0, 0, 0]
  /-- Credit packets of the bring-up still to be sent (R59). -/
  bringUp : Nat := 0
  /-- The host's limits for completions and events, none before its first credit packet (R58). -/
  hostLimits : Option (Nat × Nat) := none
  /-- Charges used for completions and events. -/
  usedCompl : Nat := 0
  usedEvent : Nat := 0
  /-- A Dormant request of the XB7240 waits for its answer; Dormant is entered once all is acknowledged (R71). -/
  dormantAsked : Bool := false
  dormantDue : Bool := false
  /-- Reads of the host in progress, oldest first. -/
  reads : List LinkRead := []
  lastSet : Option OrderedSet := none
  lastCredit : Option CreditOut := none
deriving DecidableEq, Repr

/-- A packet in an intake FIFO: its bytes not yet drained, its charge and the port that accepted it (R58, R60). -/
structure FifoPacket where
  data : List Byte
  charge : Nat
  port : Nat
deriving DecidableEq, Repr

/-- The link beside its registers: the mode and rate in force (R36), its lanes, ports and intake FIFOs. -/
structure LinkSt where
  mode : Nat := 0
  rate : Nat := 0
  lanes : List (Nat × LaneSt) := []
  ports : List (Nat × PortSt) := []
  fifos : List (Nat × List FifoPacket) := []
deriving DecidableEq, Repr


/-- A descriptor that the engine holds (R75, R80): its ring index, flags and addresses, whether it is valid (R77), the
issue offset, the bytes completed in order, the pieces completed ahead of them as offset and length, and the failed
bursts (R92, R96). -/
structure Desc where
  idx : Nat
  barrier : Bool
  int : Bool
  linkEvt : Bool
  len : Nat
  src : Nat
  dst : Nat
  tag : Nat
  valid : Bool
  issued : Nat := 0
  inOrder : Nat := 0
  ahead : List (Nat × Nat) := []
  retries : Nat := 0
deriving DecidableEq, Repr

/-- A burst of a channel (R86, R87): its descriptor, offset and length, its data once read, the number of its DRAM
read and of its DRAM write, whether its write was answered with OK and is held until arrival, its failures, and
whether it waits for the grant of a retry. -/
structure Burst where
  idx : Nat
  off : Nat
  len : Nat
  src : Nat
  dst : Nat
  data : Option (List Byte)
  rd : Option Nat
  wr : Option Nat
  okd : Bool
  fails : Nat
  retry : Bool
deriving DecidableEq, Repr

/-- A DMA channel beside its registers. -/
structure DmaChan where
  held : List Desc := []
  bursts : List Burst := []
  /-- Word 0 at the fetch index is to be read: a doorbell rang, or the last read found OWN 1 (R82). -/
  look : Bool := false
  /-- The STATUS with which the oldest descriptor is to be returned out of its turn: by SKIP, or by a new frame (R101,
  R317). -/
  backStatus : Option Nat := none
  /-- The instants of failed bursts within the window (R98). -/
  stamps : List Nat := []
  /-- A halt with this cause waits for the outstanding bursts; 0 for none (R98). -/
  haltDue : Nat := 0
  /-- The index of an abort that was decided, and its descriptor where it was not held then (R105, R106). -/
  abort : Option Nat := none
  abortDesc : Option Desc := none
  /-- The channel is eligible by its pacing queue, or since PACE_TO has passed; the instant since when the fixed source
  FIFO holds data without the channel being eligible (R88). -/
  paceOn : Bool := false
  paceTimeout : Bool := false
  paceSince : Nat := 0
  /-- The first chip address of the descriptor in progress that DRAM failed to read, and the offset of its burst (R126). -/
  dramFail : Option (Nat × Nat) := none
  /-- Bytes of the dropped frame whose descriptors still return with STATUS 0x03 (R317). -/
  frameSkip : Nat := 0
  /-- LEN of the descriptors that were returned since the frame began (R317). -/
  frameUsed : Nat := 0
  /-- The block that recompute bursts fetch outside the ring (R293). -/
  recomp : Option Desc := none
  /-- Channels 8 to 15: the ring entry that CC1 fills next, and the pieces of page data that it has still to hand over, as
  arming serial, source and length (R404). -/
  tail : Nat := 0
  backlog : List (Nat × Nat × Nat) := []
deriving DecidableEq, Repr

/-- The engine beside its registers: its channels and the last channel granted at each level (R89). -/
structure DmaSt where
  chans : List (Nat × DmaChan) := []
  last : List Nat := [31, 31, 31, 31]
deriving DecidableEq, Repr


/-- A request of one 64-byte block in Granary (R118): whose it is, the block's chip address, the bytes of the block
that it concerns, the data of a write, how often younger requests bypassed it, and, once issued, the instant of its
command and the CRC-64 of a written burst (R114, R123). -/
structure DramReq where
  id : Nat
  part : Nat
  req : Nat
  addr : Nat
  off : Nat
  len : Nat
  data : Option (List Byte)
  bypass : Nat
  since : Nat := 0
  crc : Wide := 0
deriving DecidableEq, Repr

/-- What Granary answered to one request: the access and part it belongs to, whether it was a write, whether it
succeeded, the data of a read and the failing chip address. -/
structure DramDone where
  id : Nat
  part : Nat
  write : Bool
  ok : Bool
  data : List Byte
  addr : Nat
deriving DecidableEq, Repr

/-- A write of a control core, the link host, a pipeline or the update path that waits for its blocks to arrive
(R124). -/
structure DramWrite where
  id : Nat
  req : Nat
  port : Nat
  addr : Nat
  missing : Nat
  failed : Bool
deriving DecidableEq, Repr

/-- A DDR4 channel (R118 to R124): its queue, the requests held at the interconnect, the commands of the last 64 DDR
clock periods, open rows by bank, owed refreshes by rank, owed ZQ commands, the instants of refreshes by rank, error
stamps within the window, whether the threshold is passed, and the temperature band in force. -/
structure DramChan where
  queue : List DramReq := []
  held : List DramReq := []
  flight : List DramReq := []
  rows : List (Nat × Nat) := []
  owed0 : Nat := 0
  owed1 : Nat := 0
  forced : Bool := false
  zqOwed : Nat := 0
  refreshed : List (Nat × Nat) := []
  errStamps : List Nat := []
  above : Bool := false
  band : Nat := 0
  /-- The instants at which a refresh of rank 0 and of rank 1 falls due (R121). -/
  refAt0 : Nat := 0
  refAt1 : Nat := 0
  /-- The instant at which the power-up sequence began (R129). -/
  initAt : Nat := 0
  /-- In the devices: ZQ calibration is done, the extended temperature mode is set, and the VrefDQ codes by rank and byte
  lane (R111, R121, R122, R129, R131). -/
  zqCal : Bool := false
  ext : Bool := false
  vref : List Nat := []
deriving DecidableEq, Repr

/-- An entry of Granary's error FIFO (R128, R135). -/
structure DramErr where
  type : Nat
  ch : Nat
  rank : Nat
  ovf : Bool
  req : Nat
  bg : Nat
  ba : Nat
  addr : Nat
  row : Nat
  col : Nat
  band : Nat
deriving DecidableEq, Repr

/-- Granary beside its registers. -/
structure GranarySt where
  chans : List (Nat × DramChan) := []
  errFifo : List DramErr := []
  ovf : Bool := false
  /-- Words of the delay RAM that are not 0 (R130). -/
  delay : List (Nat × Word) := []
  /-- The band selected by the die temperature (R131). -/
  bandTarget : Nat := 0
  /-- The range of block numbers that the initialisation fill writes, the next of them, and those to be written again
  (R117, R125). -/
  fill : Option (Nat × Nat) := none
  fillNext : Nat := 0
  fillRedo : List Nat := []
  /-- The DDR4 configuration that the board carries (R110, R112): DENSITY, 4 times RANKS, 8 times CHMODE. -/
  installed : Nat := 5
  /-- The access that waits for its answer within its command. -/
  sync : Option Nat := none
  answers : List DramDone := []
  writes : List DramWrite := []
  nextId : Nat := 0
deriving DecidableEq, Repr


/-- An entry of a decoder's block directory (R293), with the page that the block belongs to. -/
structure DirEntry where
  addr : Nat
  serial : Nat
  page : Nat
  fmt : Nat
  line0 : Nat
  lines : Nat
  paylen : Nat
deriving DecidableEq, Repr

/-- A header of a codec block (R136). -/
structure BlockHeader where
  type : Nat
  fmt : Nat
  flushed : Bool
  line0 : Nat
  x0 : Nat
  width : Nat
  lines : Nat
  page : Nat
  paylen : Nat
deriving DecidableEq, Repr

/-- A decoder beside its registers (R148 to R153, R293): its input FIFO as pieces with the chip address that their
first byte came from; the bytes of the block in progress and the chip address of its header; whether it serves a page
context, which, and its serial; the line after the last block taken of that page; a gap that a hunt began; its block
directory, newest first; and the bytes of a recompute that have arrived. -/
structure DecoderSt where
  input : List (Nat × List Byte) := []
  block : List Byte := []
  blockAddr : Nat := 0
  serving : Bool := false
  page : Nat := 0
  serial : Nat := 0
  pos : Nat := 0
  gaps : List (Nat × Nat × Nat) := []
  dir : List DirEntry := []
  recompute : Option (List Byte) := none
  /-- A word of the block in progress failed parity (R151). -/
  parity : Bool := false
deriving DecidableEq, Repr

/-- A result of an encoder (R155). -/
structure EncResult where
  line0 : Nat
  lines : Nat
  noGain : Bool
  flushed : Bool
  paylen : Nat
deriving DecidableEq, Repr

/-- An encoder beside its registers: input bytes not yet taken, the bytes of the line that has come in part, whole lines of
the current block, the lines still to be taken before a flush takes effect, whether the encoder closes, output bytes not yet drained, and the
result FIFO (R154 to R156). -/
structure EncoderSt where
  input : List Byte := []
  part : List Byte := []
  lines : List (List Byte) := []
  flushLeft : Option Nat := none
  closing : Bool := false
  output : List Byte := []
  results : List EncResult := []
deriving DecidableEq, Repr

/-- The codec beside its registers. -/
structure MillerSt where
  decs : List (Nat × DecoderSt) := []
  encs : List (Nat × EncoderSt) := []
deriving DecidableEq, Repr


/-- A value of a register field that waits in its pending queue for a printed line (R168, R202, R398); `group` is the
handle of the commit group that named it. -/
structure PendVal where
  addr : Nat
  lo : Nat
  width : Nat
  line : Nat
  value : Nat
  group : Nat
deriving DecidableEq, Repr

/-- A decoded line in the decoded-line area of a hamlet (R149, R293): the page's arming serial, its number at the
block's resolution, its format, its place in the area, the decoder and LINE0 of its block. -/
structure DecLine where
  serial : Nat
  line : Nat
  fmt : Nat
  off : Nat
  len : Nat
  dec : Nat
  line0 : Nat
  valid : Bool
deriving DecidableEq, Repr

/-- A block to be recomputed (R293, R294): the decoder that accepted it first, its directory entry, the printed line
whose parity error needs it (none for a decoder error), the decoder it was given to, and whether it failed. -/
structure RecompJob where
  dec : Nat
  entry : DirEntry
  need : Option Nat
  given : Option Nat
  failed : Bool
deriving DecidableEq, Repr

/-- A screening pass in progress (R160): its line, what it writes to the level-buffer slot, the dots and shares that it
counts as boosted, lost and clamped, and its reference sums (R329). -/
structure PassOut where
  line : Nat
  first : Bool
  slot : List Byte
  boost : Nat
  lost : Nat
  clamp : Nat
  refs : List Nat
  /-- The instant at which the 2,112 core clock cycles of the pass are over (R287). -/
  doneAt : Nat := 0
deriving DecidableEq, Repr

/-- A hamlet beside its registers (R286 to R294). -/
structure HamletSt where
  /-- Decoded lines in the decoded-line area, oldest first. -/
  held : List DecLine := []
  /-- Ranges of decoded lines made valid: page serial, first line, line after the last (R148). -/
  made : List (Nat × Nat × Nat) := []
  /-- Offset in the area at which the next decoded line goes. -/
  ringEnd : Nat := 0
  /-- Printed lines whose level-buffer slot is valid, newest first (R167). -/
  valid : List Nat := []
  /-- Printed lines that are Lost (R290). -/
  lost : List Nat := []
  /-- The next line to prepare for the first time, once the grid runs. -/
  next : Nat := 0
  /-- Lines whose pass runs again before any later line (R287), lowest first. -/
  redo : List Nat := []
  /-- The screening pass that runs. -/
  pass : Option PassOut := none
  /-- The line last prepared since RUN. -/
  lastPrep : Option Nat := none
  /-- The least lead since the hamlet was last on its slots (R291). -/
  leadBase : Option Nat := none
  /-- Sums of the two samples of each reference pixel on the even line before (R329). -/
  refRow : Option (Nat × List Nat) := none
  /-- Ranges of decoded lines that can no longer be had: page serial, first line, line after the last (R294, R152). -/
  lostDec : List (Nat × Nat × Nat) := []
  jobs : List RecompJob := []
  /-- Needs that a recompute has served: page serial, LINE0, the printed line (R294). -/
  needs : List (Nat × Nat × Option Nat) := []
  stamps : List Nat := []
  above : Bool := false
  /-- The tone ramp, and the gain and kernel ramp, not yet screened through their end lines (R189). -/
  toneOpen : Bool := false
  gainOpen : Bool := false
deriving DecidableEq, Repr

/-- Weaver beside its registers and tables: the re-admission table (R190), the nozzles whose record failed parity once
(R196), and the hamlets. -/
structure WeaverSt where
  readmit : List (Nat × Nat) := []
  parityNoz : List Nat := []
  hams : List (Nat × HamletSt) := []
  /-- The overlap in force since the last setting of RUN (R199). -/
  overlap : Nat := 48
deriving DecidableEq, Repr


/-- A frame of a head channel (R211): a code frame of a row and line, or a table frame of a bank. -/
structure Frame where
  table : Bool
  row : Nat
  line : Nat
  bank : Nat
  /-- Drop levels by head column before the duty limits (R204, step 1). -/
  levels : List Nat
  /-- Codes by head column (R210). -/
  codes : List Nat
  /-- Head columns that make an ejecting fire (R477). -/
  eject : List Nat
  spits : Nat
  /-- Dots thinned by the duty window and by the share (R205, R206). -/
  thinN : Nat
  thinH : Nat
  warm : Bool
  /-- Formed while derated (R224). -/
  derated : Bool
  /-- Errors met by the frame (R226). -/
  errors : Nat
  /-- Head columns whose history failed parity as the frame was formed (R209). -/
  badHist : List Nat
deriving DecidableEq, Repr

/-- One fire event with its ejecting fires: none where it printed blank, was never fired or is a warm-up (R206, R477). -/
structure EjectRec where
  row : Nat
  line : Nat
  cols : List Nat
deriving DecidableEq, Repr

/-- A head row beside its registers: the next line that it takes, the code frame in its latch with the end of the latch
pulse that brought it, the fire times that Bellringer passed to it (line and time, oldest first), its last fire time, and
the end of its comb run. -/
structure RowSt where
  nextTake : Nat := 0
  latched : Option Frame := none
  latchedAt : Nat := 0
  due : List (Nat × Nat) := []
  lastFire : Option Nat := none
  runEnd : Option Nat := none
deriving DecidableEq, Repr

/-- A scan-paced channel beside its registers (R232 to R236): lines of the running group still to start, the time of
the SOS edge that is held, the next scan line, the time of row U's last fire, the scan images of commit groups with their
lines, and the image whose line has come, with the instant after which an SOS edge puts it into effect (R233). -/
structure ScanSt where
  left : Nat := 0
  heldEdge : Option Nat := none
  line : Nat := 0
  lastU : Nat := 0
  images : List (Nat × List Byte) := []
  image : Option (Nat × List Byte) := none
deriving DecidableEq, Repr

/-- A head channel beside its registers. -/
structure HcSt where
  /-- Banks whose table frame is to be sent, those of them whose table frame met an error, and whether both go before the
  first code frame, since the enable or a re-admission (R218, R226). -/
  tables : List Nat := []
  tableErr : List Nat := []
  tablesFirst : Bool := false
  /-- Code frames formed and not yet shifted, in fire-event order. -/
  formed : List Frame := []
  shifting : Option Frame := none
  shiftStart : Nat := 0
  latchEnd : Nat := 0
  /-- Fire events with their ejecting fires, newest first, the last 256 lines. -/
  hist : List EjectRec := []
  rowU : RowSt := {}
  rowD : RowSt := {}
  /-- The re-admission line while Warming, and until every row has fired it (R195, R298). -/
  lr : Option Nat := none
  /-- Error stamps within the window (R227). -/
  stamps : List Nat := []
  /-- The instants of the last fresh temperature reading and of the last enable. -/
  freshAt : Option Nat := none
  enabledAt : Nat := 0
  /-- The temperature zones entered and not left (R223). -/
  warnZone : Bool := false
  limitZone : Bool := false
  tripZone : Bool := false
  /-- Banks whose select table the head holds. -/
  sentBanks : List Nat := []
  scan : ScanSt := {}
deriving DecidableEq, Repr


/-- An encoder path beside its registers (R240 to R251). -/
structure EncSt where
  /-- The filtered levels of A, B and Z. -/
  a : Bool := false
  b : Bool := false
  z : Bool := false
  /-- Counts since the estimate was reset by enable or standstill: instant and whether backward, newest first. -/
  counts : List (Nat × Bool) := []
  /-- Counts in the direction of the latest since the last reset of the estimate (R249). -/
  run : Nat := 0
  /-- The instant of the latest count, of the enable before the first. -/
  since : Nat := 0
  /-- Consecutive counts against DIR (R250). -/
  against : Nat := 0
  /-- Recent changes of POS, instant and step, newest first (R254). -/
  moves : List (Nat × Int) := []
  /-- Illegal transitions within the window; the threshold is passed (R251). -/
  stamps : List Nat := []
  above : Bool := false
  /-- An index came since REV entered the window (R245). -/
  seen : Bool := false
  /-- Line boundaries since the last correction count, none before the first; a correction count is due (R246). -/
  corrLines : Option Nat := none
  corrDue : Bool := false
  /-- Toothed wheel (R242): the last edge, T_n, the normal periods since the last reset, and the period before an extra
  tooth. -/
  edge : Option Nat := none
  tn : Nat := 0
  normals : Nat := 0
  half : Option Nat := none
  /-- POS before the motion of the present sample, while its compare evaluation is still to come (R239). -/
  cmpFrom : Option Int := none
deriving DecidableEq, Repr

/-- An SSI port beside its registers: the timestamp of the frame in progress and the frames rejected in a row. -/
structure SsiSt where
  start : Option Nat := none
  rejected : Nat := 0
deriving DecidableEq, Repr

/-- A mark input beside its registers (R254): its FIFO of POS and timestamp, the forward counts still to pass before it
takes a mark, and the filtered level. -/
structure MarkSt where
  fifo : List (Int × Nat) := []
  blank : Nat := 0
  level : Bool := false
deriving DecidableEq, Repr

/-- A compare output beside its registers (R257): the end of its pulse, the instant from which an entry that waits may fire,
the position up to which entries were reached that have still to fire, and whether the action under way ends with a stop. -/
structure CmpSt where
  pulse : Option Nat := none
  free : Nat := 0
  reach : Option Int := none
  stopping : Bool := false
deriving DecidableEq, Repr

/-- The position block beside its registers: paths, SSI ports, marks, compare outputs, the compare tables by output and
entry, and the debounced levels of HOME0 to HOME7. -/
structure PosSt where
  encs : List (Nat × EncSt) := []
  ssis : List (Nat × SsiSt) := []
  marks : List (Nat × MarkSt) := []
  cmps : List (Nat × CmpSt) := []
  table : List (Nat × Nat) := []
  home : Nat := 0
deriving DecidableEq, Repr

/-- A placed line of the grid (R268): its number, its position in 2^-16 dot, and whether it is stretched or blank
(R280). -/
structure GridLine where
  line : Nat
  pos : Int
  stretched : Bool
  blank : Bool
deriving DecidableEq, Repr

/-- A designated ladder (R325): its first line, band height and gap, and drop level. -/
structure Ladder where
  l0 : Nat
  bandH : Nat
  gap : Nat
  level : Nat
deriving DecidableEq, Repr

/-- Bellringer beside its registers (R261 to R285). -/
structure BrSt where
  /-- φ at the end of the update in progress, v per second and φmax, with 16 fractional bits below 1/64 dot (R264, R265). -/
  phi : Int := 0
  v : Int := 0
  phimax : Int := 0
  /-- φ at the start of that update, and its instant: φ moves evenly between the two (R269). -/
  phi0 : Int := 0
  updAt : Nat := 0
  /-- Consecutive updates within LOCKTOL. -/
  lockRun : Nat := 0
  /-- Placed lines, newest first. -/
  grid : List GridLine := []
  /-- The lines that the datum row has fired since RUN with their instants, newest first (R286). -/
  datumFires : List (Nat × Nat) := []
  /-- The first line since RUN, and the instant of RUN. -/
  firstLine : Nat := 0
  runAt : Nat := 0
  /-- L_last of the previous page since RUN (R275). -/
  prevLast : Option Nat := none
  /-- The last line placed was blank for overspeed (R280). -/
  blankRun : Bool := false
  /-- Number of armings ever, and of armings since RUN (R405). -/
  serial : Nat := 0
  seq : Nat := 0
  ladders : List Ladder := []
  /-- Pages since RUN whose L_last was fixed (R325). -/
  pagesFixed : Nat := 0
deriving DecidableEq, Repr


/-- What the line FIFO of a camera port holds for the capture channel (R317): the mark of a frame start, the bytes of a
line with the FIFO space that the line takes, or fill bytes of 0xFF without space. -/
inductive CamItem where
  | frameStart
  | line (data : List Byte) (space : Nat)
  | fill (bytes : Nat)
deriving DecidableEq, Repr

/-- A frame of a camera port (R314, R320): its number, its exposure set and gain, and the PTP time of its start. -/
structure FrameInfo where
  fseq : Nat
  expset : Nat
  gain : Nat
  ts : Nat
deriving DecidableEq, Repr

/-- A frame that has started and not ended: the lines taken, the cause of its drop (0 for a disarm), whether its start is
marked to the capture channel, and whether the lines that it misses were filled (R317). -/
structure CamFrame where
  info : FrameInfo
  lines : Nat := 0
  dropped : Option Nat := none
  marked : Bool := false
  filled : Bool := false
deriving DecidableEq, Repr

/-- An entry of the trigger FIFO (R313): ENC0's POS and the PTP time of the trigger, its instant, and in count framing its
frame. -/
structure CamTrig where
  pos : Int
  ts : Nat
  at_ : Nat
  frame : Option Nat
deriving DecidableEq, Repr

/-- What a port has for its pipeline, in order: a line, or the end of a frame with the cause of a drop (R334). -/
inductive CamWork where
  | line (px : List Nat) (pos : Int) (frame : FrameInfo)
  | frameEnd (frame : FrameInfo) (drop : Option Nat)
deriving DecidableEq, Repr

/-- The statistics of a frame (R322, R334). -/
structure FrameAcc where
  lines : Nat := 0
  sat : Nat := 0
  pixels : Nat := 0
  sum : Nat := 0
  lo : Nat := 4095
  hi : Nat := 0
  sumD : Nat := 0
  first : Option Nat := none
  maplost : Bool := false
deriving DecidableEq, Repr

/-- A ladder band under a camera (R328): its background, and by pixel the sums over its camera lines of density and of
density times the down-web position from the band's centre line in 1/64 dot. -/
structure BandAcc where
  ladder : Ladder
  band : Nat
  bg : List Nat
  sums : List Int
  ysums : List Int
  lines : Nat
deriving DecidableEq, Repr

/-- A region of a page (R331): NPIX, SUMABS, NOVER, the largest |diff|, the sum of diff and all its pixels. -/
structure RegAcc where
  npix : Nat := 0
  sumabs : Nat := 0
  nover : Nat := 0
  top : Nat := 0
  sum : Int := 0
  total : Nat := 0
deriving DecidableEq, Repr

/-- What a camera column gathers over a page (R332): the sum of diff, the pixels counted, and the sum of their reference
densities. -/
structure ColAcc where
  diff : Int := 0
  n : Nat := 0
  ref : Nat := 0
deriving DecidableEq, Repr

/-- A page under a camera (R331, R332): its context and lines, the camera lines of the row of regions in progress with
their first printed line, the regions, the columns, and how many regions were DEFECT and NOTCMP. -/
structure PageAcc where
  page : Nat
  lfirst : Nat
  llast : Nat
  rows : Nat := 0
  firstLine : Nat := 0
  regs : List RegAcc := []
  cols : List ColAcc := []
  defects : Nat := 0
  notcmp : Nat := 0
deriving DecidableEq, Repr

/-- A camera port beside its registers (R310 to R320, R328 to R334). -/
structure CamPort where
  fifo : List CamItem := []
  work : List CamWork := []
  trig : List CamTrig := []
  /-- Triggers, or lines without triggers, since arming. -/
  count : Nat := 0
  /-- The instant at which the pulse on CAMn_TRIG ends. -/
  pulse : Option Nat := none
  frames : List CamFrame := []
  /-- Exposure sets not yet in force: the instant from which a frame start takes them, CAMn_EXP and CAMn_GAIN, newest
  first (R319). -/
  sets : List (Nat × Word × Word) := []
  stamps : List Nat := []
  /-- A re-admission takes effect at the next frame start (R318). -/
  readmit : Bool := false
  acc : Option FrameAcc := none
  /-- The position of the last line processed, in 1/64 dot. -/
  lastW : Option Int := none
  /-- Densities of the last camera line that lay in no band. -/
  gap : List Nat := []
  band : Option BandAcc := none
  page : Option PageAcc := none
  tx : List Byte := []
  /-- The instant from which the oldest byte of the transmit FIFO is being sent (R315). -/
  txFrom : Nat := 0
  rx : List Byte := []
  rxOvf : Bool := false
deriving DecidableEq, Repr

/-- An entry of a map FIFO (R323): a printed line, its datum fire position in 2^-16 dot, its pitch, and the page and
ladder that it lies in. -/
structure MapEntry where
  line : Nat
  pos : Int
  pitch : Nat
  page : Option (Nat × Nat × Nat)
  ladder : Option Ladder
deriving DecidableEq, Repr

/-- A pipeline beside its registers: its map FIFO, and the positions of the lines of the first and the last lost entry
(R324). -/
structure PipeSt where
  map : List MapEntry := []
  lost : Option (Int × Int) := none
  /-- The instant at which the line in the pipeline has passed it (R321, R337). -/
  busyUntil : Nat := 0
deriving DecidableEq, Repr

/-- What a row printed of a band (R334): the ladder's first line, the band, channel and row, the head columns retired
while it printed, and whether the channel was out of service. -/
structure BandMark where
  l0 : Nat
  band : Nat
  hc : Nat
  row : Nat
  ret : List Nat
  out : Bool
deriving DecidableEq, Repr

/-- What CC2 knows of a nozzle (R335): the last ladder, and how many ladders in a row it failed or passed. -/
structure NozVerdict where
  l0 : Option Nat := none
  fails : Nat := 0
  passes : Nat := 0
deriving DecidableEq, Repr

/-- What CC2 has of a printed column for a proposal (R335, R336): the pages that count with the last one's first line, the
compared pixels, and the sums of their measured and reference densities. -/
structure ColMeasure where
  pages : Nat := 0
  last : Option Nat := none
  n : Nat := 0
  meas : Int := 0
  ref : Nat := 0
deriving DecidableEq, Repr

/-- Cameras and pipelines beside their registers: the tables of R322 and R331 by table, unit and index, the newest
reference line written (R330), what the rows printed of the bands, and what CC2 keeps for its policy. -/
structure CamSt where
  ports : List (Nat × CamPort) := []
  pipes : List (Nat × PipeSt) := []
  tables : List (Nat × Nat) := []
  refNewest : Option Nat := none
  marks : List BandMark := []
  verdicts : List (Nat × NozVerdict) := []
  measures : List (Nat × ColMeasure) := []
  /-- A proposal has been armed. -/
  proposed : Bool := false
deriving DecidableEq, Repr

/-- A granted calibration slot (R343): its channel, whether it measures CODEHI, and the conversion once made. -/
structure CalSlot where
  hc : Nat
  high : Bool
  value : Option Nat
  /-- The instant at which the DAC left REST. -/
  since : Nat := 0
deriving DecidableEq, Repr

/-- The trims of a channel beside their registers (R348): the line of the first step since the target changed, and
the line of a step that waits for an instant without a comb run. -/
structure TrimSt where
  first : Option Nat := none
  due : Option Nat := none
deriving DecidableEq, Repr

/-- Trim and calibration beside its registers (R338 to R349). -/
structure CalSt where
  slot : Option CalSlot := none
  /-- The last zero conversions, newest first, at most 16 (R340). -/
  zeros : List Int := []
  /-- Conversions of the temperature reading in progress by channel: how many, and their sum (R341). -/
  ts : List (Nat × Nat × Nat) := []
  /-- The channel that the temperature scan served last. -/
  lastTs : Nat := 23
  /-- Sense paths still to be calibrated, 2·h for TS and 2·h + 1 for VS (R342). -/
  paths : List Nat := []
  /-- The path under calibration with its conversions and their sum. -/
  path : Option (Nat × Nat × Nat) := none
  /-- Channels of the cycle still to be visited, the current one first (R345). -/
  left : List Nat := []
  /-- Readings of the current channel. -/
  lo : List Nat := []
  hi : List Nat := []
  /-- The lag of the present episode has made its entry (R295). -/
  lagged : Bool := false
  trims : List (Nat × TrimSt) := []
  /-- The nominal starts of the last cycle and of the last path calibration, and the instants of the last conversion and of
  the last zero conversion (R338, R340, R342, R345). -/
  cycleAt : Option Nat := none
  pathAt : Option Nat := none
  convAt : Option Nat := none
  zeroAt : Option Nat := none
deriving DecidableEq, Repr


/-- A segment of a profile (R358, R361): the position at its start, the velocities at its ends, its duration in 2^-16
update, and its shape: 0 sinusoidal, 1 quintic, 2 linear. Positions count in 1/163,840,000 of 1/256 step, velocities in
2^-16 of 1/16 step/s, so that one update moves the axis by its velocity. -/
structure Seg where
  x : Int
  v0 : Int
  v1 : Int
  dur : Nat
  shape : Nat
deriving DecidableEq, Repr

/-- A ratio blend of the gearing (R370): where it starts, its length, the ratios before and after it, and the counts
after which a later change replaced it. -/
structure Blend where
  start : Int
  len : Nat
  from_ : Int
  to_ : Int
  cut : Option Int
deriving DecidableEq, Repr

/-- The gearing of AX2 (R369 to R371): the engage position, the axis position there, the ratio there, the blends since,
oldest first, the last valid master position, and whether the master is invalid. -/
structure GearSt where
  m0 : Int := 0
  gofs : Int := 0
  ratio : Int := 0
  blends : List Blend := []
  lastM : Int := 0
  invalid : Bool := false
deriving DecidableEq, Repr

/-- A phase of an axis (R352): its target current, the last sample, the sum of the errors and the duty. -/
structure PhaseSt where
  target : Int := 0
  sample : Nat := 0
  sum : Int := 0
  duty : Int := 0
deriving DecidableEq, Repr

/-- What an axis does when it has come to a standstill: nothing more, the return of R360, or its safe-stop action. -/
inductive AfterStop where
  | rest | reverse | bridgesOff | toSafePos
  /-- A fault with its cause follows the quick stop (R371, R372). -/
  | fault (cause : Nat)
deriving DecidableEq, Repr

/-- An axis beside its registers (R355 to R374): its position and velocity, the segments of its profile with the time
in the first, its target, a change that waits for the end of a transition, what follows a standstill, the step of
homing with the position where it began, the updates since the velocity became 0, a safe stop to act on, the bridges
off, the gearing, and the phases. -/
structure AxisSt where
  x : Int := 0
  v : Int := 0
  plan : List Seg := []
  t : Nat := 0
  goal : Option Int := none
  replan : Bool := false
  after : AfterStop := .rest
  /-- 0 not homing; 1 fast approach, 2 its stop, 3 release, 4 its stop, 5 slow approach, 6 its stop, 7 a stop that
  fails (R368). -/
  home : Nat := 0
  homeFrom : Int := 0
  still : Nat := 0
  safe : Bool := false
  off : Bool := false
  gear : GearSt := {}
  phA : PhaseSt := {}
  phB : PhaseSt := {}
deriving DecidableEq, Repr

/-- The update loop of the axes (R295, R352, R376): the lag of the present episode has made its entry, the nominal start of the
last update, and the values of commit groups that wait for the next one. -/
structure MotSt where
  lagged : Bool := false
  last : Option Nat := none
  due : List PendVal := []
deriving DecidableEq, Repr


/-- A page context (R403): its settings, state and results, its serial in the order of arming, and the candidate line of
a web-position trigger (R275). -/
structure PageCtx where
  /-- 0 Free, 1 Loaded, 2 Armed, 3 Printing, 4 Done, 5 Aborted. -/
  state : Nat := 0
  length : Nat := 0
  trigger : Nat := 0
  trigPos : Int := 0
  stream : Nat := 0
  addr : Nat := 0
  size : Nat := 0
  fmt : Nat := 0
  paramVer : Nat := 0
  maskVer : Nat := 0
  compVer : Nat := 0
  seq : Nat := 0
  lfirst : Nat := 0xFFFFFFFF
  llast : Nat := 0xFFFFFFFF
  stretched : Bool := false
  defective : Bool := false
  firstCause : Nat := 0
  causes : Nat := 0
  stretchSum : Nat := 0
  /-- The lines from L_first on that the datum row has judged (R277). -/
  judged : Nat := 0
  serial : Nat := 0
  cand : Option Nat := none
  /-- The head channels that were derated or out of service on a line of the page (R336). -/
  unfit : Nat := 0
deriving DecidableEq, Repr

/-- An event record (R401). -/
structure EventRec where
  eseq : Nat
  cls : Nat
  code : Nat
  unit : Nat
  payload : List Byte
deriving DecidableEq, Repr

/-- A subscriber (R400, R401): its client and session, the classes and port it named, its unacknowledged records,
oldest first, the next ESEQ, LOST, the instants of the last acknowledgement and of the last frame, and how many of the
records were never sent. -/
structure Subscriber where
  ip : Nat
  port : Nat
  sid : Nat
  classes : Nat
  evPort : Nat
  queue : List EventRec
  nextSeq : Nat
  lost : Nat
  lastAck : Nat
  lastSend : Nat
  unsent : Nat
deriving DecidableEq, Repr

/-- What the Ethernet ports send: a frame forwarded to a port (2 is the internal port), a PTP message forwarded with its
correction, an ARP reply, an echo reply, a UDP datagram of the internal port, a Delay_Req, or a Delay_Resp. -/
inductive EthOut where
  | forward (port : Nat) (f : EthFrame)
  | ptp (port : Nat) (m : PtpMsg)
  | arpReply (port : Nat) (to_ : Nat)
  | echoReply (port : Nat) (to_ : Nat) (data : List Byte)
  | datagram (ip udpPort : Nat) (data : List Byte)
  | delayReq (port : Nat)
  | delayResp (port seq receive : Nat)
deriving DecidableEq, Repr

/-- A response kept for its client (R386): its TID and the datagram. -/
structure KeptResp where
  tid : Nat
  data : List Byte
deriving DecidableEq, Repr

/-- Who owns a group or a transfer (R394): a session by its SID, or with SID 0 a client address. -/
structure Owner where
  sid : Nat
  ip : Nat
  port : Nat
deriving DecidableEq, Repr

/-- An open write transfer (R393): its owner, object, group handle (0: written directly), TOTAL and CRC, the bytes so far
and the instant of the last segment. -/
structure Xfer where
  id : Nat
  owner : Owner
  index : Nat
  sub : Nat
  handle : Nat
  total : Nat
  crc : Nat
  data : List Byte
  at_ : Nat
deriving DecidableEq, Repr

/-- A write staged in a group (R395): the object, the table that it is, none for a register field, and its value bytes. -/
structure Staged where
  index : Nat
  sub : Nat
  table : Option Config.Table
  value : List Byte
deriving DecidableEq, Repr

/-- A commit group (R394 to R397): its owner, its state (1 Open, 2 Armed, 3 Landing, 4 Applied), its writes in staging
order, its line and the LINE that it reports, the trigger that it waits for with RUN = 0 (KIND and VALUE), the refused
item of the last arming, and the instant at which it was applied. -/
structure Group where
  owner : Owner
  state : Nat
  items : List Staged
  line : Nat
  shown : Nat
  wait : Option (Nat × Nat)
  failIndex : Nat
  failSub : Nat
  failStatus : Nat
  at_ : Nat
deriving DecidableEq, Repr

/-- Ethernet, the switch, the PTP clock and the object protocol (R378 to R408). -/
structure EthSt where
  /-- PTP time at the instant 0, modulo 2^64. -/
  ptpBase : Nat := 0
  /-- NUM and DEN that the firmware writes when BR_CTRL.EN is next set (R408). -/
  ratio : Option (Nat × Nat) := none
  /-- The state of the PTP port by IEEE 1588-2019, the last offset from the master in ns, the Sync that waits for its
  Follow_Up (sequence number, arrival, correction), arrival less departure of the last Sync, and the departure of the
  last Delay_Req. -/
  ptpState : Nat := 4
  ptpOffset : Int := 0
  sync : Option (Nat × Nat × Int) := none
  syncDelay : Option Int := none
  reqAt : Option Nat := none
  /-- LINK0 and LINK1 (R407). -/
  link0 : Nat := 0
  link1 : Nat := 0
  /-- The learned addresses with port and instant, newest first (R378). -/
  table : List (Nat × Nat × Nat) := []
  /-- What the last command sent. -/
  sent : List EthOut := []
  /-- IPADDR, IPMASK and GATEWAY in force (R390). -/
  ip : Nat := 0xC0A8640A
  mask : Nat := 0xFFFFFF00
  gateway : Nat := 0
  /-- Objects without a register whose value is not the default, by index · 256 + subindex. -/
  dict : List (Nat × Nat) := []
  tagFail : Nat := 0
  /-- The responses kept by client, newest first (R386). -/
  kept : List ((Nat × Nat) × List KeptResp) := []
  xfers : List Xfer := []
  nextXfer : Nat := 1
  /-- Commit groups by handle: 1 to 8 those of clients, above 255 plain writes and groups of the firmware (R390). -/
  groups : List (Nat × Group) := []
  /-- The line of the last applied commit group (R399). -/
  lastApplied : Nat := 0xFFFFFFFF
deriving DecidableEq, Repr

/-- Clocks, power and Watchman beside their registers (R409 to R430). -/
structure PowerSt where
  /-- Levels of PORn and RSTn. -/
  porn : Bool := true
  rstn : Bool := true
  /-- VBAT_AO is present, and PWR_EN is high. -/
  vbat : Bool := true
  pwrEn : Bool := true
  /-- Watchman writes that have not landed, oldest first: register and value (R410). -/
  wpend : List (Nat × Nat) := []
  /-- The RTC at an instant (R412). -/
  rtcBase : Nat := 0
  rtcAt : Nat := 0
  /-- When the firmware last wrote the RTC from PTP time. -/
  rtcSync : Option Nat := none
  /-- Watchman state was lost since the last start (R409). -/
  vlost : Bool := false
  /-- RSTCAUSE of the start in progress or made (R430). -/
  cause : Nat := 1
  /-- The instant at which PWR_EN fell, and a wake that waits for 10 ms from it (R418). -/
  offAt : Option Nat := none
  wakeDue : Bool := false
  /-- The Standby entry is followed by Dormant (R418). -/
  dormantDue : Bool := false
  /-- The head channels that the Standby entry recorded (R415). -/
  hcRec : Nat := 0
  /-- Since when a sensor has read below STRETCH, and since when none has (R423, R424). -/
  lowSince : Option Nat := none
  highSince : Option Nat := none
  /-- Undervoltage and overtemperature are present (R425). -/
  uv : Bool := false
  ot : Bool := false
  /-- The blocks that have had work since the reset, by their bits of CLKPWR_GATE (R420). -/
  clocked : Nat := 0
deriving DecidableEq, Repr

/-- The contents of the flash and of the OTP that change in use (R433, R438, R439, R446, R451): the three image slots
as bytes, the Staging state, the last journal record with the number of records of its GEN, the saved settings by
format, the written board data, the owner anchors, the revoked key slots and the security counter. They outlive every reset. -/
structure FlashSt where
  active : List Byte := Config.factoryImage
  previous : List Byte := []
  staging : List Byte := []
  /-- 0 Empty, 1 Receiving, 2 Verified, 3 Rejected. -/
  stage : Nat := 0
  jStep : Nat := 0
  jBlock : Nat := 0
  jGen : Nat := 0
  jCount : Nat := 0
  /-- ACTIVATE as last accepted (R443). -/
  activate : Nat := 0xFFFFFFFFFFFFFFFF
  /-- The saved settings, newest first, at most two: the format, the objects and the registers. -/
  saved : List (Nat × List (Nat × Nat) × List (Nat × Word)) := []
  /-- Board-data records that Service objects wrote, by object (R428). -/
  board : List (Nat × List Byte) := []
  owner0 : List Byte := []
  owner1 : List Byte := []
  revoked : Nat := 0
  secver : Nat := 0
deriving DecidableEq, Repr

/-- A session (R392, R433 to R436): its client, LEVEL asked for, the level granted (0 before CLIENT_AUTH), the instants
of HELLO and of the last valid frame, the hash H1, the two keys, the highest accepted SSEQ with the accepted ones
within 64 of it, and the SSEQ last sent. -/
structure Session where
  sid : Nat
  ip : Nat
  port : Nat
  asked : Nat
  level : Nat
  born : Nat
  lastFrame : Nat
  h1 : List Byte
  keyIn : List Byte
  keyOut : List Byte
  high : Nat
  seen : List Nat
  sent : Nat
deriving DecidableEq, Repr

/-- Identity and update beside its registers and the flash: a signature in progress with its digest, the trial's end,
and the sessions with the number of the next SID. -/
structure SecSt where
  signing : Option (List Byte) := none
  /-- The boot ROM copies an image (R445). -/
  copying : Bool := false
  trialEnd : Option Nat := none
  sessions : List Session := []
  nextSid : Nat := 1
deriving DecidableEq, Repr


/-- Why a run of the block could stop with a fault. No command does: the spec gives every command an effect. -/
inductive Fault where
  /-- Raised by no command. It is safe: a machine that stops proves nothing of what follows. -/
  | none
deriving DecidableEq, Repr

/-- Why a command could be refused by the model. -/
inductive Refusal where
  /-- Raised by the arm of a command that has no meaning yet. It is safe: nothing is claimed of the command. -/
  | notModelled (mnemonic : String)
deriving DecidableEq, Repr

/-- The state of the block. -/
structure State where
  /-- time since reset in steps of the 1.25 ns grid (R25) -/
  now : Nat
  /-- registers whose value is not their reset value, by address, rising -/
  regs : List (Nat × Word)
  /-- bytes of the SRAMs and of DRAM that are not zero, by chip address, rising (R27) -/
  mem : List Host.Cell
  /-- latched high words of 64-bit pairs, by address of the low word (R8) -/
  highLatch : List (Nat × Word)
  /-- low words written and waiting for the write of their high word (R260, R377, R430) -/
  halfWrites : List (Nat × Word)
  /-- answer to the last access -/
  resp : Option BusResp
  /-- the model's own counter of free values drawn -/
  freeCtr : Nat
  /-- the fault log, newest entry first, at most 4,096 entries (R302) -/
  log : List LogEntry
  /-- Ublet Link (R36 to R73) -/
  link : LinkSt
  /-- the DMA engine (R74 to R109) -/
  dma : DmaSt
  /-- Granary (R110 to R135) -/
  granary : GranarySt
  /-- ranges of DRAM blocks that carry a valid CRC-64, as block numbers from the window base, rising (R114, R117) -/
  dramValid : List (Nat × Nat)
  /-- the codec (R136 to R159) -/
  miller : MillerSt
  /-- pending values of commit groups, in arming order within rising lines (R398) -/
  pend : List PendVal
  /-- values that pending ones replaced, for lines above the snapshot line, newest first (R399) -/
  landed : List PendVal
  /-- Weaver and the hamlets (R160 to R199, R286 to R295) -/
  weaver : WeaverSt
  /-- the head channels (R200 to R237) -/
  hcs : List (Nat × HcSt)
  /-- web position (R238 to R260) -/
  pos : PosSt
  /-- Bellringer (R261 to R285) -/
  br : BrSt
  /-- camera ports and pipelines (R310 to R337) -/
  cam : CamSt
  /-- trim and calibration (R338 to R351) -/
  cal : CalSt
  /-- the axes (R352 to R377) -/
  axes : List (Nat × AxisSt)
  /-- the update loop of the axes (R295, R352, R376) -/
  mot : MotSt
  /-- Ethernet, PTP and the object protocol (R378 to R408) -/
  eth : EthSt
  /-- page contexts 0 to 255 (R403) -/
  pages : List (Nat × PageCtx)
  /-- subscribers (R400) -/
  subs : List (Nat × Subscriber)
  /-- the last event record of each class (R406) -/
  lastEvents : List (Nat × EventRec)
  /-- clocks, power and Watchman (R409 to R430); Watchman's registers are in `regs` -/
  pwr : PowerSt
  /-- flash and OTP contents (R433, R438, R439, R446, R451) -/
  flash : FlashSt
  /-- identity, sessions and update (R431 to R455) -/
  sec : SecSt
  /-- the commands that wait, first in first out -/
  pending : List Instr
deriving DecidableEq, Repr

/-- The block right after the reset of PORn (R426): every register at its reset value, every memory unlisted, every
unit as its chapter states, and no command waiting. -/
def State.reset : State where
  now := 0
  regs := []
  mem := []
  highLatch := []
  halfWrites := []
  resp := none
  freeCtr := 0
  log := []
  link := {}
  dma := {}
  granary := {}
  dramValid := []
  miller := {}
  pend := []
  landed := []
  weaver := {}
  hcs := []
  pos := {}
  br := {}
  cam := {}
  cal := {}
  axes := []
  mot := {}
  eth := {}
  pages := []
  subs := []
  lastEvents := []
  pwr := {}
  flash := {}
  sec := {}
  pending := []

end Sys2Proof.Machine
end

