-- ==== Sys2Proof/Machine/Ops.lean ====
section
/-! DEFINITION. The named operations over registers, memory bytes, time and the answer to a requester. -/

namespace Sys2Proof.Machine

/-! ## Registers -/

/-- The word that the register at address `a` holds. -/
def State.reg (s : State) (a : Nat) : Word := sget resetWord s.regs a

/-- The state with word `w` in the register at address `a`. -/
def State.setReg (s : State) (a : Nat) (w : Word) : State := { s with regs := sset resetWord s.regs a w }

/-- The register at address `a` as a number. -/
def State.regN (s : State) (a : Nat) : Nat := (s.reg a).toNat

/-- Field `f` of the register at address `a`. -/
def State.fld (s : State) (a : Nat) (f : Field) : Nat := getField f (s.reg a)

/-- A one-bit field of the register at address `a`, as a truth value. -/
def State.bit (s : State) (a : Nat) (f : Field) : Bool := s.fld a f != 0

/-- Field `f` of the register at address `a` set to `v`. -/
def State.setFld (s : State) (a : Nat) (f : Field) (v : Nat) : State := s.setReg a (putField f (s.reg a) v)

/-- A one-bit field set from a truth value. -/
def State.setBit (s : State) (a : Nat) (f : Field) (b : Bool) : State := s.setFld a f (if b then 1 else 0)

/-- Bit `i` of field `f` set, the other bits kept: hardware sets a bit of an event field. -/
def State.orFld (s : State) (a : Nat) (f : Field) (i : Nat) : State := s.setFld a f (s.fld a f ||| 2 ^ i)

/-- Bit `i` of field `f` cleared, the other bits kept. -/
def State.clrFldBit (s : State) (a : Nat) (f : Field) (i : Nat) : State :=
  s.setFld a f (s.fld a f - s.fld a f / 2 ^ i % 2 * 2 ^ i)

/-- Counter field `f` advanced by `n`, saturating at the greatest value of the field. -/
def State.count (s : State) (a : Nat) (f : Field) (n : Nat) : State :=
  s.setFld a f (min (s.fld a f + n) (2 ^ f.width - 1))

/-- The 64-bit quantity of the pair whose low word is at address `a` (R8). -/
def State.wide (s : State) (a : Nat) : Nat := s.regN a + 2 ^ 32 * s.regN (a + 4)

/-- The 64-bit quantity of a pair set. -/
def State.setWide (s : State) (a : Nat) (v : Nat) : State :=
  (s.setReg a (BitVec.ofNat 32 v)).setReg (a + 4) (BitVec.ofNat 32 (v / 2 ^ 32))

/-- The RW fields of a register row take the bits of `v`; every other field keeps its value (R6). -/
def writePlain (r : RegRow) (old v : Word) : Word :=
  let m := maskOf .rw r.fields
  (old &&& ~~~m) ||| (v &&& m)

/-- A write of `v` to the register at `a` by its access codes (R6): RW fields take the value, a 1 clears a W1C bit,
RO, RC and WO fields and reserved bits keep theirs. -/
def State.writeByCodes (s : State) (a : Nat) (v : Word) : State :=
  match regAt a with
  | some (r, _) => s.setReg a (writePlain r (s.reg a) v &&& ~~~(v &&& maskOf .w1c r.fields))
  | none => s

/-- A read of the register at `a` by its access codes (R6): WO fields and reserved bits read 0. -/
def State.readByCodes (s : State) (a : Nat) : Word :=
  match regAt a with
  | some (r, _) =>
    s.reg a &&& (maskOf .ro r.fields ||| maskOf .rw r.fields ||| maskOf .w1c r.fields ||| maskOf .rc r.fields)
  | none => 0

/-- The RC fields of the register at `a` cleared by a read (R6). -/
def State.clearRC (s : State) (a : Nat) : State :=
  match regAt a with
  | some (r, _) => s.setReg a (s.reg a &&& ~~~maskOf .rc r.fields)
  | none => s

/-! ## Memory -/

/-- What an unlisted byte of memory reads as (DESIGN CHOICE, log entry 3). -/
def memDefault (_ : Nat) : Byte := 0

/-- The byte at chip address `a`. -/
def State.byte (s : State) (a : Nat) : Byte := sget memDefault s.mem a

/-- The byte `b` stored at chip address `a`. -/
def State.setByte (s : State) (a : Nat) (b : Byte) : State := { s with mem := sset memDefault s.mem a b }

/-- The `n` bytes from chip address `a`. -/
def State.bytes (s : State) (a n : Nat) : List Byte := (List.range n).map (fun i => s.byte (a + i))

/-- The entries of a list of bytes from chip address `a`: those that an unlisted address does not read as. -/
def memCells (a : Nat) : List Byte → List Host.Cell
  | [] => []
  | b :: t => if b = memDefault a then memCells (a + 1) t else (a, b) :: memCells (a + 1) t

/-- A list of bytes stored in a memory from chip address `a`. -/
def memSet (m : List Host.Cell) (a : Nat) (l : List Byte) : List Host.Cell :=
  m.filter (fun e => decide (e.1 < a)) ++ (memCells a l ++ m.filter (fun e => decide (a + l.length ≤ e.1)))

/-- The bytes `l` stored from chip address `a`. -/
def State.setBytes (s : State) (a : Nat) (l : List Byte) : State := { s with mem := memSet s.mem a l }

/-- The little-endian number of `n` bytes from chip address `a`. -/
def State.num (s : State) (a n : Nat) : Nat := leNat (s.bytes a n)

/-- A little-endian number of `n` bytes stored from chip address `a`. -/
def State.setNum (s : State) (a n v : Nat) : State := s.setBytes a (leBytes n v)

/-- The canonical form of memory. -/
def Memory.wf (m : List Host.Cell) : Bool := swf memDefault m

/-- The canonical form of the register table. -/
def Regs.wf (m : List (Nat × Word)) : Bool := swf resetWord m

/-! ## Time -/

/-- A number of microseconds in steps of the 1.25 ns grid. -/
def us (n : Nat) : Nat := 800 * n

/-- A number of milliseconds in steps of the grid. -/
def ms (n : Nat) : Nat := 800000 * n

/-- The PTP time in ns, a 64-bit count (R238): the base of the clock and 1.25 ns a step, rounded. -/
def State.ptp (s : State) : Nat := (s.eth.ptpBase + (s.now * 5 + 2) / 4) % 2 ^ 64

/-- The stamps of a list that lie within `w` steps before the instant `now`. -/
def recent (now w : Nat) (l : List Nat) : List Nat := l.filter (fun t => now ≤ t + w)

/-- Data come into the fixed source FIFO of DMA channel `n`: where it was empty, it holds data from now on (R88). -/
def State.sourceFills (s : State) (n : Nat) (wasEmpty : Bool) : State :=
  if wasEmpty then
    { s with dma := { s.dma with
      chans := sset (fun _ => {}) s.dma.chans n { sget (fun _ => {}) s.dma.chans n with paceSince := s.now } } }
  else s

/-! ## Free values -/

/-- The state after a free value was drawn. -/
def State.drawn (s : State) : State := { s with freeCtr := s.freeCtr + 1 }

/-- The state after `n` free values were drawn. -/
def State.drawnN (s : State) (n : Nat) : State := { s with freeCtr := s.freeCtr + n }

/-- A quotient of integers to a whole number, the spec naming no rounding: the floor or the next number, by draw `k`; a
quotient by 0 is free. -/
def quot (a b : Int) (k : Nat) : Int :=
  if b = 0 then Config.free k
  else Int.fdiv a b + (if Int.fmod a b = 0 then 0 else if Config.roundUp k then 1 else 0)

/-- A value as an unsigned field of `w` bits; the field is free where the value does not fit. -/
def fitU (w : Nat) (v : Int) (k : Nat) : Nat := if 0 ≤ v ∧ v < 2 ^ w then v.toNat else Config.free k % 2 ^ w

/-- A value as a signed field of `w` bits; the field is free where the value does not fit. -/
def fitS (w : Nat) (v : Int) (k : Nat) : Nat :=
  if -(2 ^ (w - 1)) ≤ v ∧ v < 2 ^ (w - 1) then wrap w v else Config.free k % 2 ^ w

end Sys2Proof.Machine
end

