-- ==== Sys2Proof/Machine/Board.lean ====
section
/-! DEFINITION. The records of the board data that the firmware reads at a start: the DDR delay table (R130, R132) and the
head profiles (R200, R201). -/

namespace Sys2Proof.Machine

/-- Record `r` of the board data: as a Service object wrote it, else as delivered. Record 0 is the DDR delay table, record
1 the head profiles. -/
def State.boardRec (s : State) (r : Nat) : List Byte :=
  ((s.flash.board.find? (fun e => e.1 == r)).map (·.2)).getD (Config.boardRecord r)

/-- The little-endian 32-bit word `i` of a record. -/
def recWord (l : List Byte) (i : Nat) : Nat := leAt l (4 * i) 4

/-- Word `n` of a record is the CRC-32C of all words before it. -/
def recCrcOk (l : List Byte) (n : Nat) : Bool := decide (4 * n + 4 ≤ l.length) && recWord l n == crc32c (l.take (4 * n))

/-! ## The DDR delay table -/

/-- BANDS of a delay table (R130). -/
def ddrBands (l : List Byte) : Nat := recWord l 0 / 256 % 16

/-- The words of a delay table, its CRC left out (R130). -/
def ddrWords (l : List Byte) : Nat := 3 + 74 * ddrBands l

/-- GRANARY_CTRL as a delay table names the configuration, EN 0 (R130, R135). -/
def ddrCtrl (l : List Byte) : Word :=
  let w := recWord l 0
  BitVec.ofNat 32 (w / 2 ^ 17 % 2 * 2 + w / 2 ^ 16 % 2 * 4 + w / 2 ^ 14 % 4 * 8 + w / 2 ^ 12 % 4 * 32 + w / 2 ^ 18 % 2 * 128)

/-- A delay table is present, has VERSION 0x01, 1 to 8 bands and its reserved bits 0, passes its CRC, and agrees with the
installed configuration: DENSITY, RANKS and CHMODE as the board carries them (R130, R132). -/
def State.ddrRecordOk (s : State) : Bool :=
  let l := s.boardRec 0
  let w := recWord l 0
  decide (w % 256 = 1 ∧ 1 ≤ ddrBands l ∧ ddrBands l ≤ 8 ∧ w / 2 ^ 19 = 0) && recCrcOk l (ddrWords l) &&
    decide (w / 2 ^ 14 % 16 = s.granary.installed)

/-! ## The head profiles -/

/-- COUNT of a head-profiles record, and the profile index of channel `h` (R200). -/
def profCount (l : List Byte) : Nat := recWord l 0 / 256 % 16
def profIndex (l : List Byte) (h : Nat) : Nat := recWord l (1 + h / 8) / 16 ^ (h % 8) % 16

/-- The firmware may enable channels by the head-profiles record: present, VERSION 0x01, COUNT 1 to 8, a right CRC, and no
index from COUNT to 14 (R201). -/
def State.headRecordOk (s : State) : Bool :=
  let l := s.boardRec 1
  decide (recWord l 0 % 256 = 1 ∧ 1 ≤ profCount l ∧ profCount l ≤ 8) && recCrcOk l (4 + 16 * profCount l) &&
    (List.range 24).all (fun h => decide (profIndex l h < profCount l ∨ profIndex l h = 15))

/-- A head is fitted to channel `h` by a sound record (R200, R201). -/
def State.headFitted (s : State) (h : Nat) : Bool := s.headRecordOk && profIndex (s.boardRec 1) h != 15

/-- Word `w` of the profile of channel `h` (R200). -/
def State.headProfile (s : State) (h w : Nat) : Word :=
  let l := s.boardRec 1
  BitVec.ofNat 32 (recWord l (4 + 16 * profIndex l h + w))

end Sys2Proof.Machine
end

