-- ==== Sys2Proof/Machine/Operands.lean ====
section
/-! DEFINITION. The operands that commands share: who accesses, and the answer to that requester. -/

namespace Sys2Proof.Machine

/-! ## Answers -/

/-- The code of a requester (R135, GRANARY_ERRLOG0.REQ). -/
def reqCode : Requester → Nat
  | .dma ch => ch.val
  | .core cc => 0x20 + cc.val
  | .host _ => 0x24
  | .pipe p => 0x25 + p.val
  | .update => 0x27
  | .fill => 0x28

/-- The access is performed; a read returns `data`. -/
def State.okResp (s : State) (r : Requester) (data : List Byte) : State :=
  { s with resp := some ⟨reqCode r, true, data⟩ }

/-- The access is answered with an error response and no data (R29). -/
def State.errResp (s : State) (r : Requester) : State := { s with resp := some ⟨reqCode r, false, []⟩ }

end Sys2Proof.Machine
end

