-- ==== Sys2Proof/Machine/Flags.lean ====
section
/-! DEFINITION. The event flags, the interrupt line IRQn (R402), the fault log (R302 to R304) and the refusal of a
register write (R475). -/

namespace Sys2Proof.Machine

/-! ## The fault log -/

/-- What a source tells Shepherd of a fault or event (R302). -/
structure FaultInfo where
  level : Nat
  kind : Nat
  unit : Nat
  src : Nat
  cause : Nat
  detail : Nat := 0
  line : Option Nat := none

/-- The event bits of FAULT_EVT that an entry of a KIND sets (R309). -/
def State.kindEvents (s : State) (kind : Nat) : State :=
  if kind = 1 then s.setBit R.FAULT_EVT F.FAULT_EVT_PERM true
  else if kind = 2 then s.setBit R.FAULT_EVT F.FAULT_EVT_RETIRE true
  else if kind = 3 then s.setBit R.FAULT_EVT F.FAULT_EVT_READMIT true
  else s

/-- The web position of ENC0 as a signed number (R239). -/
def State.enc0Pos (s : State) : Int := sext 64 (s.wide (R.ENCn_POS_LO 0))

/-- Whether a fault repeats the newest entry within 1 ms, so that it is merged (R303). -/
def mergesWith (s : State) (e : FaultInfo) (n : LogEntry) : Bool :=
  s.bit R.FAULT_CTRL F.FAULT_CTRL_MERGE && n.src == e.src && n.unit == e.unit && n.cause == e.cause &&
    n.kind == e.kind && decide (modSub (2 ^ 64) s.ptp n.ts ≤ 1000000)

/-! ## Event records -/

/-- Entry `seq` of the log as its 32 bytes (R302). -/
def logBytes (e : LogEntry) : List Byte :=
  leBytes 4 e.seq ++ leBytes 8 e.ts ++ leBytes 8 (wrap 64 e.pos) ++ leBytes 4 e.line ++
    leBytes 4 (e.level + 4 * e.kind + 256 * e.unit + 2 ^ 25 * e.src) ++
    leBytes 4 (e.cause + 256 * e.rep + 65536 * e.detail)

/-- A record joins the queue of a subscriber at instant `now`; a full queue of 64 loses its oldest (R401). The second
within which a subscriber must acknowledge starts with the first record that waits. -/
def pushEvent (now : Nat) (r : EventRec) (b : Subscriber) : Subscriber :=
  if b.classes.testBit r.cls then
    { b with
      queue := b.queue.drop (b.queue.length + 1 - 64) ++ [{ r with eseq := b.nextSeq }]
      lastAck := if b.queue.isEmpty then now else b.lastAck
      nextSeq := (b.nextSeq + 1) % 2 ^ 32
      lost := min 65535 (b.lost + (b.queue.length + 1 - 64))
      unsent := min 64 (b.unsent + 1) }
  else b

/-- An event of a class reaches every subscriber of the class (R400, R401). -/
def State.pushRecord (s : State) (cls what unit : Nat) (payload : List Byte) : State :=
  let r : EventRec := ⟨0, cls, Config.eventCode cls what % 256, unit % 65536, payload⟩
  { s with
    subs := s.subs.map (fun e => (e.1, pushEvent s.now r e.2))
    lastEvents := (cls, r) :: s.lastEvents.filter (fun e => e.1 != cls) }

/-- An event that is not a fault-log entry: PTP time, web position, printed line and 12 bytes of detail (R401). -/
def State.notify (s : State) (cls what unit : Nat) : State :=
  (s.pushRecord cls what unit
    (leBytes 8 s.ptp ++ leBytes 8 (wrap 64 s.enc0Pos) ++ leBytes 4 (s.regN R.BR_LINE) ++
      (Config.eventDetail cls s.freeCtr).take 12)).drawn

/-! ## Entries -/

/-- A new entry written into the ring (R302, R304). -/
def State.writeEntry (s : State) (e : FaultInfo) : State :=
  let seq := s.regN R.FAULT_LOG_WR
  let entry : LogEntry := {
    seq := seq, ts := s.ptp, pos := s.enc0Pos, line := e.line.getD (s.regN R.BR_LINE), level := e.level % 4,
    kind := e.kind % 8, unit := e.unit, src := e.src, cause := e.cause % 256, rep := 0, detail := e.detail % 65536 }
  let lost := decide (sext 32 (modSub (2 ^ 32) seq (s.regN R.FAULT_LOG_RD)) ≥ 4096)
  let s := { s with log := (entry :: s.log).take 4096 }
  let s := s.setReg R.FAULT_LOG_WR (BitVec.ofNat 32 (seq + 1))
  let s := s.pushRecord 0 0 entry.unit (logBytes entry)
  if lost then
    (s.count R.FAULT_LOG_LOST F.FAULT_LOG_LOST_COUNT 1).setBit R.FAULT_EVT F.FAULT_EVT_LOGOVF true
  else s

/-- A fault or event handed to Shepherd: merged with the newest entry or written as a new one (R302 to R304). -/
def State.logFault (s : State) (e : FaultInfo) : State :=
  let s' := match s.log with
    | n :: t => if mergesWith s e n then { s with log := { n with rep := min (n.rep + 1) 255 } :: t }
                else s.writeEntry e
    | [] => s.writeEntry e
  s'.kindEvents e.kind

/-! ## IRQn -/

/-- The event registers of the block, each with its enable register (R402). -/
def eventPairs : List (Nat × Nat) :=
  [(R.LINK_EVT, R.LINK_EVT_EN), (R.DMA_DONE_EVT, R.DMA_DONE_EN), (R.DMA_HALT_EVT, R.DMA_HALT_EN),
   (R.GRANARY_EVT, R.GRANARY_EVT_EN), (R.MILLER_EVT, R.MILLER_EVT_EN), (R.POS_EVT0, R.POS_EVT0_EN),
   (R.POS_EVT1, R.POS_EVT1_EN), (R.BR_EVT, R.BR_EVT_EN), (R.FAULT_EVT, R.FAULT_EVT_EN), (R.CAM_EVT, R.CAM_EVT_EN),
   (R.CAL_EVT, R.CAL_EVT_EN), (R.MOT_EVT, R.MOT_EVT_EN), (R.CLKPWR_EVT, R.CLKPWR_EVT_EN),
   (R.SEC_EVT, R.SEC_EVT_EN)] ++
  (List.range 4).flatMap (fun k => [(R.HAM_EVT k, R.HAM_EVT_EN k), (R.WEAVER_EVT k, R.WEAVER_EVT_EN k)]) ++
  (List.range 24).map (fun h => (R.HC_EVT h, R.HC_EVT_EN h))

/-- IRQn is low while an event bit and its enable bit are both 1 (R402), and while the boot ROM has no valid image
(R448). -/
def State.irqLow (s : State) : Bool :=
  eventPairs.any (fun p => s.reg p.1 &&& s.reg p.2 != 0) || s.bit R.SEC_STAT F.SEC_STAT_NOIMAGE

/-! ## Refusal -/

/-- A register write is refused (R475): no field changes, the requester gets an error response, and the fault log an
entry of SRC 0x0C, KIND 0x5 with the cause. -/
def State.refuse (s : State) (r : Requester) (cause : Nat) : State :=
  (s.errResp r).logFault { level := 3, kind := 5, unit := reqCode r, src := 0x0C, cause := cause }

/-- A register write is performed with an OK response. -/
def State.written (s : State) (r : Requester) : State := s.okResp r []

end Sys2Proof.Machine
end

