-- ==== Sys2Proof/Machine/Line.lean ====
section
/-! DEFINITION. The line of a Ublet Link lane: the 8b/10b code (R38), ordered sets (R39, R40), striping (R43) and the bytes
of a packet (R45, R47). The spec names the 8b/10b code without its tables: they are the code's own, taken from outside. -/

namespace Sys2Proof.Machine

/-! ## The 8b/10b code -/

/-- The byte of a K-code (R38). -/
def KCode.byte : KCode → Nat
  | .com => 0xBC | .sop => 0xFB | .eop => 0xFD | .ebp => 0xFE | .idl => 0x7C | .skp => 0x1C | .lmk => 0x5C | .eie => 0xDC

/-- The K-codes of R38. -/
def kCodes : List KCode := [.com, .sop, .eop, .ebp, .idl, .skp, .lmk, .eie]

/-- The ones of the low `n` bits of a number. -/
def onesOf (n w : Nat) : Nat := ((List.range n).filter w.testBit).length

/-- The 6-bit code abcdei of the low five bits of a byte, at negative running disparity. -/
def code6 : List Nat :=
  [0b100111, 0b011101, 0b101101, 0b110001, 0b110101, 0b101001, 0b011001, 0b111000] ++
  [0b111001, 0b100101, 0b010101, 0b110100, 0b001101, 0b101100, 0b011100, 0b010111] ++
  [0b011011, 0b100011, 0b010011, 0b110010, 0b001011, 0b101010, 0b011010, 0b111010] ++
  [0b110011, 0b100110, 0b010110, 0b110110, 0b001110, 0b101110, 0b011110, 0b101011]

/-- The 4-bit code fghj of the high three bits of a byte, at negative running disparity. -/
def code4 : List Nat := [0b1011, 0b1001, 0b0101, 0b1100, 0b1101, 0b1010, 0b0110, 0b1110]

/-- The same for a K-code, whose high three bits 1, 2, 5 and 6 change sides with the disparity too. -/
def codeK4 : List Nat := [0b0100, 0b1001, 0b0101, 0b0011, 0b0010, 0b1010, 0b0110, 0b1000]

/-- The 6-bit code of `x` at running disparity `rd`: a balanced code serves both disparities, but for that of 7. -/
def enc6 (rd : Bool) (x : Nat) : Nat :=
  let c := code6.getD x 0
  if rd && (onesOf 6 c != 3 || x == 7) then 63 - c else c

/-- The 4-bit code of `y` after the 6-bit code of `x`, at the running disparity `rd` between them. -/
def enc4 (rd : Bool) (x y : Nat) : Nat :=
  let alt := y == 7 && (if rd then [11, 13, 14].contains x else [17, 18, 20].contains x)
  let c := if alt then 0b0111 else code4.getD y 0
  if rd && (onesOf 4 c != 2 || y == 3) then 15 - c else c

/-- The symbol of a data byte or a K-code at running disparity `rd`. -/
def encodeSym (rd : Bool) (s : Sym) : BitVec 10 :=
  match s with
  | .data b =>
    let c := enc6 rd (b.toNat % 32)
    BitVec.ofNat 10 (16 * c + enc4 (rd != (onesOf 6 c != 3)) (b.toNat % 32) (b.toNat / 32))
  | .ctl k =>
    let c6 := if k.byte % 32 = 28 then 0b001111 else code6.getD (k.byte % 32) 0
    let c := 16 * c6 + codeK4.getD (k.byte / 32) 0
    BitVec.ofNat 10 (if rd then 1023 - c else c)

/-- The running disparity behind a symbol: more ones than zeros make it positive, fewer negative. -/
def nextRd (rd : Bool) (w : BitVec 10) : Bool :=
  if onesOf 10 w.toNat = 5 then rd else decide (5 < onesOf 10 w.toNat)

/-- What a symbol means at running disparity `rd`, if anything. -/
def symAt (rd : Bool) (w : BitVec 10) : Option Sym :=
  match kCodes.find? (fun k => encodeSym rd (.ctl k) == w) with
  | some k => some (.ctl k)
  | none =>
    match (List.range 32).find? (fun x => enc6 rd x == w.toNat / 16) with
    | none => none
    | some x =>
      ((List.range 8).find? (fun y => encodeSym rd (.data (BitVec.ofNat 8 (32 * y + x))) == w)).map
        (fun y => .data (BitVec.ofNat 8 (32 * y + x)))

/-- The symbols of a lane as read, none where one is in error, with the counts of code and disparity errors: a symbol that
only the other disparity has is a disparity error, one of neither, or a K-code outside R38, a code error. -/
def readSyms : Bool → List (BitVec 10) → List (Option Sym) × Nat × Nat
  | _, [] => ([], 0, 0)
  | rd, w :: t =>
    let (l, c, d) := readSyms (nextRd rd w) t
    match symAt rd w with
    | some x => (some x :: l, c, d)
    | none => if (symAt (!rd) w).isSome then (none :: l, c, d + 1) else (none :: l, c + 1, d)

/-- The line symbols of a transmission that starts at running disparity `rd`. -/
def lineSyms : Bool → List Sym → List (BitVec 10)
  | _, [] => []
  | rd, x :: t => encodeSym rd x :: lineSyms (nextRd rd (encodeSym rd x)) t

/-! ## Ordered sets -/

/-- The lane-marker set of lane `n`: LN and CHK are the lane's own (R39). -/
def markerSet (n gen txm rxm mode : Nat) : List Sym :=
  [.ctl .com, .ctl .lmk] ++ [n, gen, txm, rxm, mode].map (fun v => .data (BitVec.ofNat 8 v)) ++
    [.data (BitVec.ofNat 8 n ^^^ BitVec.ofNat 8 gen ^^^ BitVec.ofNat 8 txm ^^^ BitVec.ofNat 8 rxm ^^^ BitVec.ofNat 8 mode)]

/-- COM and three symbols `k`: a skip set or an EIE set (R39). -/
def comSet (k : KCode) : List Sym := [.ctl .com, .ctl k, .ctl k, .ctl k]

/-- The symbols of an ordered set on lane `n` (R39, R70): the exit from Standby sends 128 COM symbols before its
lane-marker set. -/
def OrderedSet.syms (n : Nat) : OrderedSet → List Sym
  | .skip => comSet .skp
  | .laneMarker g t r m => markerSet n g t r m
  | .electricalIdle => comSet .eie
  | .standbyExit g t r m => List.replicate 128 (.ctl .com) ++ markerSet n g t r m
  | .qualification _ g t r m => markerSet n g t r m ++ (List.range 1016).map (fun i => .data (Config.prbs15 i))

/-- The position from which `n` symbols go out without a skip set within: sets are due at every multiple of 4,096, and the
`w` positions from there are theirs (R39, R40). -/
def freePos (w n pos : Nat) : Nat :=
  let b := pos / 4096 * 4096
  if pos = b then pos
  else if pos < b + w then b + w
  else if b + 4096 < pos + n then b + 4096
  else pos

/-- The symbols of a lane from position `pos` on, with the sets `due` at every multiple of 4,096 (R39, R40). -/
def weave (due : List Sym) : Nat → List Sym → List Sym
  | _, [] => []
  | pos, x :: t =>
    if pos % 4096 = 0 then due ++ x :: weave due (pos + due.length + 1) t else x :: weave due (pos + 1) t

/-! ## Striping -/

/-- What lane `j` of `n` carries of a byte stream: byte i goes to lane i mod n, and IDL fills the last column (R43). -/
def stripe (n j : Nat) (l : List Sym) : List Sym :=
  (List.range ((l.length + n - 1) / n)).map (fun c => l.getD (c * n + j) (.ctl .idl))

/-- The byte stream that lanes in ascending order carry, column by column (R43). -/
def destripe {α : Type} (lanes : List (List α)) : List α :=
  (List.range ((lanes.map List.length).foldl max 0)).flatMap (fun c => lanes.filterMap (fun l => l[c]?))

/-! ## Packets -/

/-- The ACK word of a packet: ACKSEQ, ACKV set, and NAK (R45, R53). -/
def ackWord (ack : Nat) (nak : Bool) : Nat := ack % 4096 + 4096 + if nak then 8192 else 0

/-- The 16 bytes of a packet's header (R45). -/
def packetHeader (k : Packet) (ack : Nat) : List Byte :=
  leBytes 1 (16 * k.cls) ++ leBytes 1 k.target ++ leBytes 2 k.seq ++ leBytes 2 ack ++ leBytes 2 k.payload.length ++
    leBytes 5 (if k.cls = 1 then k.pad else k.addr) ++ leBytes 1 k.status ++ leBytes 2 k.dlen

/-- A packet from its header to its CRC (R45, R47). -/
def packetBytes (k : Packet) (ack : Nat) : List Byte :=
  let l := packetHeader k ack ++ k.payload
  l ++ leBytes 4 (crc32c l)

/-- A packet on the stripe: SOP, its bytes, EOP. -/
def packetSyms (k : Packet) (ack : Nat) : List Sym := .ctl .sop :: (packetBytes k ack).map .data ++ [.ctl .eop]

/-- How a received packet ends: with EOP, with EBP, or cut off. -/
inductive PacketEnd where
  | eop | ebp | cut
deriving DecidableEq, Repr

/-- The bytes of a packet behind its SOP, none where a symbol is no data byte, and its end. -/
def packetBody : List (Option Sym) → List (Option Byte) × PacketEnd
  | [] => ([], .cut)
  | some (.ctl .eop) :: _ => ([], .eop)
  | some (.ctl .ebp) :: _ => ([], .ebp)
  | some (.data b) :: t => (some b :: (packetBody t).1, (packetBody t).2)
  | _ :: t => (none :: (packetBody t).1, (packetBody t).2)

/-- The packet of a byte stream: what follows its SOP. -/
def findPacket : List (Option Sym) → Option (List (Option Byte) × PacketEnd)
  | [] => none
  | some (.ctl .sop) :: t => some (packetBody t)
  | _ :: t => findPacket t

end Sys2Proof.Machine
end

