-- ==== Sys2Proof/Machine/Link.lean ====
section
/-! DEFINITION. Ublet Link: alignment, packets, sequence and replay, credits, lanes and their retirement, power states
(R36 to R73). The memory accesses of its packets stand in Machine/LinkMemory.lean. -/

namespace Sys2Proof.Machine

/-! ## Ports and lanes -/

/-- The lanes of port `p` in mode `m` (R36). -/
def portLanes (m p : Nat) : List Nat :=
  if m = 0 then (if p = 0 then [0, 1, 2, 3, 4, 5, 6, 7] else [])
  else if m = 1 || m = 2 then (if p = 0 then [0, 1, 2, 3] else [4, 5, 6, 7])
  else []

/-- The mask of a list of lanes. -/
def laneMask (l : List Nat) : Nat := l.foldl (fun m n => m ||| 2 ^ n) 0

/-- The port that lane `n` belongs to in mode `m`. -/
def portOfLane (m n : Nat) : Nat := if m = 0 then 0 else if n < 4 then 0 else 1

/-- Whether stream `t` is carried by port `p` (R36, R61). -/
def State.streamOnPort (s : State) (t p : Nat) : Bool :=
  if s.link.mode = 0 then p == 0
  else if s.link.mode = 1 then p == (if t < 4 then 0 else 1)
  else p == (if (s.fld R.LINK_STREAM_BIND F.LINK_STREAM_BIND_PORT).testBit t then 1 else 0)

/-- The state of port `p`. -/
def State.port (s : State) (p : Nat) : PortSt := sget (fun _ => {}) s.link.ports p

/-- The state with port `p` set. -/
def State.setPort (s : State) (p : Nat) (x : PortSt) : State :=
  { s with link := { s.link with ports := sset (fun _ => {}) s.link.ports p x } }

/-- The state of lane `n`. -/
def State.lane (s : State) (n : Nat) : LaneSt := sget (fun _ => {}) s.link.lanes n

/-- The state with lane `n` set. -/
def State.setLane (s : State) (n : Nat) (x : LaneSt) : State :=
  { s with link := { s.link with lanes := sset (fun _ => {}) s.link.lanes n x } }

/-- The bytes of intake stream `t` that DMA has not drained, packet by packet (R60). -/
def State.fifo (s : State) (t : Nat) : List FifoPacket := sget (fun _ => []) s.link.fifos t

/-- The state with the intake FIFO of stream `t` set. -/
def State.setFifo (s : State) (t : Nat) (l : List FifoPacket) : State :=
  { s with link := { s.link with fifos := sset (fun _ => []) s.link.fifos t l } }

/-- Field of LINK_STAT that says port `p` is up. -/
def upField (p : Nat) : Field := if p = 0 then F.LINK_STAT_P0UP else F.LINK_STAT_P1UP

/-- Field of LINK_STAT with the transmit power state of port `p`. -/
def pwrField (p : Nat) : Field := if p = 0 then F.LINK_STAT_P0PWR else F.LINK_STAT_P1PWR

/-- Port `p` is up (R42). -/
def State.portUp (s : State) (p : Nat) : Bool := s.bit R.LINK_STAT (upField p)

/-- The transmitter of port `p` is Active (R69). -/
def State.txActive (s : State) (p : Nat) : Bool := s.fld R.LINK_STAT (pwrField p) == 0

/-- The lanes of port `p` set to a power state, retired lanes held in Standby (R69). -/
def State.lanePower (s : State) (lanes : List Nat) (v : Nat) : State :=
  lanes.foldl (fun s n =>
    s.setFld (R.LINK_LANEn_STAT n) F.LINK_LANEn_STAT_PWR
      (if s.bit (R.LINK_LANEn_STAT n) F.LINK_LANEn_STAT_RETIRED then 1 else v)) s

/-- The masks of LINK_STAT and the ACTIVE bits of the lanes follow from what port `p` sends and what its host sends:
the XB7240 receives on the lanes of its own RXM that the host stripes onto (R44). -/
def State.refreshRxMask (s : State) (p : Nat) : State :=
  let lanes := portLanes s.link.mode p
  let x := s.port p
  let rx := x.rxm &&& x.hostTxm
  let old := s.fld R.LINK_STAT F.LINK_STAT_RXMASK
  let s := s.setFld R.LINK_STAT F.LINK_STAT_RXMASK ((old - (old &&& laneMask lanes)) ||| (rx &&& laneMask lanes))
  lanes.foldl (fun s n => s.setBit (R.LINK_LANEn_STAT n) F.LINK_LANEn_STAT_ACTIVE (rx.testBit n)) s

/-- The symbols that pass on a lane in a time of the grid: 1.6 ns or 3.2 ns each (R37). -/
def State.symbolsIn (s : State) (d : Nat) : Nat := d * 25 / (if s.link.rate = 0 then 32 else 64)

/-- The lanes that port `p` stripes onto, in ascending order (R43). -/
def State.txLanes (s : State) (p : Nat) : List Nat :=
  (portLanes s.link.mode p).filter (fun n => (s.fld R.LINK_STAT F.LINK_STAT_TXMASK).testBit n)

/-- The lane-marker set of port `p` at present: GEN, TXM, RXM and MODE (R39). -/
def State.markerOf (s : State) (p : Nat) : OrderedSet :=
  .laneMarker (s.fld R.LINK_STAT F.LINK_STAT_GEN)
    (s.fld R.LINK_STAT F.LINK_STAT_TXMASK &&& laneMask (portLanes s.link.mode p)) (s.port p).rxm
    (s.link.mode + 4 * s.link.rate)

/-- The set of the exit from Standby (R70). -/
def standbyExitOf : OrderedSet → OrderedSet
  | .laneMarker g t r m => .standbyExit g t r m
  | o => o

/-- A lane of port `p` qualifies for re-admission. -/
def State.qualifies (s : State) (p : Nat) : Bool :=
  (portLanes s.link.mode p).any (fun n => s.bit (R.LINK_LANEn_STAT n) F.LINK_LANEn_STAT_QUALIFYING)

/-- What lane `n` of port `p` sends at every multiple of 4,096 symbols: a skip set, and a lane-marker set while a lane
qualifies (R39, R40). -/
def State.dueSets (s : State) (p n : Nat) : List Sym :=
  OrderedSet.syms n .skip ++ if s.qualifies p then (s.markerOf p).syms n else []

/-- Port `p` sends `len` symbols, `f n` on lane `n`, from its next free position on; those that are to stay in one piece
wait for a place between the sets that are due (R39, R40). -/
def State.sendSyms (s : State) (p len : Nat) (whole : Bool) (f : Nat → List Sym) : State :=
  let x := s.port p
  let w := (s.dueSets p 0).length
  let pos := freePos w (if whole then len else 0) (max x.txPos (s.symbolsIn s.now))
  let lanes := s.txLanes p
  let s := lanes.foldl (fun s n => s.setLane n { s.lane n with out := weave (s.dueSets p n) pos (f n) }) s
  s.setPort p { x with txPos := pos + (weave (List.replicate w (.ctl .skp)) pos (List.replicate len (.ctl .idl))).length }

/-- Port `p` sends an ordered set, `times` over, on all its active lanes (R39). -/
def State.sendSet (s : State) (p times : Nat) (o : OrderedSet) : State :=
  let s := s.setPort p { s.port p with lastSet := some o }
  s.sendSyms p (times * (o.syms 0).length) true (fun n => (List.replicate times (o.syms n)).flatten)

/-- The transmitter of port `p` leaves Standby with COM symbols and a lane-marker set (R70). -/
def State.exitStandby (s : State) (p : Nat) : State :=
  ((s.setFld R.LINK_STAT (pwrField p) 0).lanePower (portLanes s.link.mode p) 0).sendSet p 1 (standbyExitOf (s.markerOf p))

/-- The lane-marker sets that port `p` sends on all its active lanes (R39, R44); in Standby they are those of the exit (R70),
and in Dormant the alignment sends them (R71). -/
def State.sendLaneMarker (s : State) (p : Nat) : State :=
  let pwr := s.fld R.LINK_STAT (pwrField p)
  if pwr = 0 then s.sendSet p 1 (s.markerOf p) else if pwr = 1 then s.exitStandby p else s

/-- GEN incremented by 1 modulo 256 (R44). -/
def State.nextGen (s : State) : State :=
  s.setFld R.LINK_STAT F.LINK_STAT_GEN (s.fld R.LINK_STAT F.LINK_STAT_GEN + 1)

/-! ## Transmission -/

/-- The units of 64 bytes that a packet charges: header, payload and CRC (R58). -/
def packetUnits (payload : Nat) : Nat := (16 + payload + 4 + 63) / 64

/-- Whether a charged total stays within a limit, compared modulo 65,536 within a half range (R58). -/
def withinLimit (charged limit : Nat) : Bool := decide (modSub 65536 limit charged < 32768)

/-- The payload bytes that unacknowledged packets hold. -/
def storedBytes (l : List Packet) : Nat := (l.map (fun k => 20 + k.payload.length)).sum

/-- Whether port `x` may transmit the packet now: credit of the host (R58), 1,024 packets and 512 KiB (R55). -/
def maySend (x : PortSt) (k : Packet) : Bool :=
  match x.hostLimits with
  | none => false
  | some (compl, event) =>
    let u := packetUnits k.payload.length
    decide (x.unacked.length < 1024) && decide (storedBytes x.unacked + 20 + k.payload.length ≤ 524288) &&
      (if k.cls = 4 then withinLimit (x.usedCompl + u) compl else withinLimit (x.usedEvent + u) event)

/-- The waiting packets of a port that may go out are sent, oldest first, each with the next sequence number (R55). -/
def pumpPort : List Packet → PortSt → PortSt
  | [], x => { x with waiting := [] }
  | k :: t, x =>
    if maySend x k then
      let u := packetUnits k.payload.length
      pumpPort t { x with
        unacked := x.unacked ++ [{ k with seq := x.txNext }]
        txNext := (x.txNext + 1) % 4096
        usedCompl := if k.cls = 4 then (x.usedCompl + u) % 65536 else x.usedCompl
        usedEvent := if k.cls = 4 then x.usedEvent else (x.usedEvent + u) % 65536 }
    else { x with waiting := k :: t }

/-- Dormant is entered once it was agreed and no packet is unacknowledged: an EIE set and electrical idle (R71). -/
def State.settleDormant (s : State) (p : Nat) : State :=
  let x := s.port p
  if x.dormantDue && x.unacked.isEmpty && x.waiting.isEmpty then
    let s := (s.setPort p { x with dormantDue := false, dormantAsked := false }).sendSet p 1 .electricalIdle
    (s.setFld R.LINK_STAT (pwrField p) 2).lanePower (portLanes s.link.mode p) 2
  else s

/-- ACKSEQ of port `p`: the number before the next expected one (R53). -/
def State.ackSeq (s : State) (p : Nat) : Nat := (s.fld (R.LINK_Pp_SEQ p) F.LINK_Pp_SEQ_RXNEXT + 4095) % 4096

/-- Packets go out on port `p`, each with ACKSEQ, striped over its active lanes (R43, R45, R53); a packet to send ends
Standby (R70). -/
def State.transmit (s : State) (p : Nat) (nak : Bool) (l : List Packet) : State :=
  if l.isEmpty then s
  else
    let s := if s.fld R.LINK_STAT (pwrField p) = 1 then s.exitStandby p else s
    let stream := l.flatMap (fun k => packetSyms k (ackWord (s.ackSeq p) nak))
    let lanes := s.txLanes p
    let s := s.sendSyms p ((stream.length + lanes.length - 1) / lanes.length) false
      (fun n => stripe lanes.length (lanes.idxOf n) stream)
    s.setPort p { s.port p with idleSince := s.now, ackPending := 0 }

/-- The port is up, its alignment is over and it is not Dormant: it may transmit. -/
def State.maySpeak (s : State) (p : Nat) : Bool :=
  s.portUp p && !(s.port p).starting && s.fld R.LINK_STAT (pwrField p) != 2

/-- Port `p` transmits what it may. -/
def State.pump (s : State) (p : Nat) : State :=
  if s.maySpeak p then
    let x := s.port p
    let y := pumpPort x.waiting x
    let y := if x.unacked.isEmpty then { y with ackedAt := s.now } else y
    ((s.setPort p y).transmit p false (y.unacked.drop x.unacked.length)).settleDormant p
  else s

/-- A packet queued for transmission on port `p`, when that port is up. -/
def State.queuePacket (s : State) (p : Nat) (k : Packet) : State :=
  if s.portUp p then (s.setPort p { s.port p with waiting := (s.port p).waiting ++ [k] }).pump p else s

/-- A payload padded with zero bytes to 16 bytes (R46). -/
def padPayload (l : List Byte) : List Byte := l ++ List.replicate (16 - l.length) 0

/-- An event packet with an event code queued on port `p` (R45). -/
def State.sendEvent (s : State) (p code : Nat) (payload : List Byte) : State :=
  s.queuePacket p ⟨5, code, 0, 0, 0, 0, 0, padPayload payload⟩

/-- A credit packet (R58): twelve words, those of the buffers the XB7240 grants and two zeros, and eight zero bytes. -/
def creditPacket (limits : List Nat) : Packet :=
  ⟨6, 0, 0, 0, 0, 0, 0, limits.flatMap (leBytes 2) ++ List.replicate 12 0⟩

/-- A credit packet sent on port `p`: it carries ACKSEQ and the limits of the buffers (R53, R58). -/
def State.sendCredit (s : State) (p : Nat) (nak : Bool) : State :=
  let x := s.port p
  let s := s.setPort p { x with lastCredit := some ⟨s.ackSeq p, nak, x.limit⟩, sentLimit := x.limit }
  s.transmit p nak [creditPacket x.limit]

/-! ## Ports going down, lanes retiring -/

/-- Port `p` is down: it accepts no packet, what it had not got acknowledged is lost, P0DOWN or P1DOWN is set and an
entry made (R57). -/
def State.portDown (s : State) (p kind : Nat) : State :=
  if s.portUp p || (s.port p).starting then
    let s := s.setPort p { s.port p with
      starting := false, waiting := [], unacked := [], nakPending := false, nakOut := false, nakCount := 0,
      dormantAsked := false, dormantDue := false }
    let s := s.setBit R.LINK_STAT (upField p) false
    let s := s.setBit R.LINK_EVT (if p = 0 then F.LINK_EVT_P0DOWN else F.LINK_EVT_P1DOWN) true
    s.logFault { level := 3, kind := kind, unit := 8 + p, src := 1, cause := 16 + p }
  else s

/-- Receive lane `k` retires (R62, R63): RXM without `k` and GEN incremented in a lane-marker set, then a NAK. The
last lane of a port takes the port down (R66). -/
def State.retireLane (s : State) (k : Nat) : State :=
  let p := portOfLane s.link.mode k
  let x := s.port p
  if s.bit (R.LINK_LANEn_STAT k) F.LINK_LANEn_STAT_RETIRED || !(portLanes s.link.mode p).contains k then s
  else
    let rxm := x.rxm - (x.rxm &&& 2 ^ k)
    let s := s.setBit (R.LINK_LANEn_STAT k) F.LINK_LANEn_STAT_RETIRED true
    let s := s.setBit (R.LINK_LANEn_STAT k) F.LINK_LANEn_STAT_ALIGNED false
    let s := s.setFld (R.LINK_LANEn_STAT k) F.LINK_LANEn_STAT_PWR 1
    let s := s.setLane k { s.lane k with errStamps := [], restarts := 0 }
    let s := s.setPort p { x with rxm := rxm, nakPending := s.portUp p }
    let s := (s.nextGen.sendLaneMarker p).refreshRxMask p
    let s := s.orFld R.LINK_EVT F.LINK_EVT_LANE_RETIRED k
    let s := s.logFault { level := 3, kind := 2, unit := k, src := 1, cause := k }
    if rxm = 0 then s.portDown p 1 else s

/-- An error in the qualification of lane `n` restarts its count; after four restarts the re-admission is abandoned and the
lane stays retired (R68). -/
def State.qualError (s : State) (n : Nat) : State :=
  let a := R.LINK_LANEn_STAT n
  if s.bit a F.LINK_LANEn_STAT_QUALIFYING then
    if (s.lane n).restarts < 4 then
      s.setLane n { s.lane n with restarts := (s.lane n).restarts + 1, qualSince := s.now }
    else
      let s := (s.setBit a F.LINK_LANEn_STAT_QUALIFYING false).setFld a F.LINK_LANEn_STAT_PWR 1
      let s := (s.setLane n { s.lane n with restarts := 0 }).setBit R.LINK_EVT F.LINK_EVT_READMIT_FAIL true
      s.logFault { level := 3, kind := 4, unit := n, src := 1, cause := 20 }
  else s

/-- Lane `n` counts code and disparity errors (R62): the counters, the stamps within the window and the errors since
the first NAK; on a qualifying lane they restart its count (R68). A lane whose line is idle counts none (R70). -/
def State.laneErrors (s : State) (n code disp : Nat) : State :=
  if (s.port (portOfLane s.link.mode n)).rx = .active then
    let x := s.lane n
    let w := us (s.fld R.LINK_LANE_THR F.LINK_LANE_THR_WINDOW)
    let s := s.count (R.LINK_LANEn_CODEERR n) F.LINK_LANEn_CODEERR_COUNT code
    let s := s.count (R.LINK_LANEn_DISPERR n) F.LINK_LANEn_DISPERR_COUNT disp
    let s := s.setLane n { x with
      errStamps := (List.replicate (code + disp) s.now ++ recent s.now w x.errStamps).take 65535
      errSinceNak := x.errSinceNak + code + disp }
    if 0 < code + disp then s.qualError n else s
  else s

/-- A lane whose errors within the window reach ERRMAX retires; ERRMAX 0 disables this (R62). -/
def State.judgeLane (s : State) (n : Nat) : State :=
  let m := s.fld R.LINK_LANE_THR F.LINK_LANE_THR_ERRMAX
  if m ≠ 0 && decide (m ≤ (s.lane n).errStamps.length) then s.retireLane n else s

/-- The lane among `l` with the most errors since the first of the NAKs, the lowest among equals; none without an
error (R56). -/
def worstLane (s : State) (l : List Nat) : Option Nat :=
  l.foldl (fun b n =>
    match b with
    | none => if (s.lane n).errSinceNak = 0 then none else some n
    | some m => if (s.lane m).errSinceNak < (s.lane n).errSinceNak then some n else some m) none

/-- A NAK for the expected sequence number goes out on port `p` (R54). At LINK_REPLAY_MAX.COUNT in a row the fault is
permanent: the lane with the most errors retires, or the port goes down (R56). -/
def State.sendNak (s : State) (p : Nat) : State :=
  let lanes := (portLanes s.link.mode p).filter (fun n => s.bit (R.LINK_LANEn_STAT n) F.LINK_LANEn_STAT_ACTIVE)
  let c := (s.port p).nakCount + 1
  let s := if c = 1 then lanes.foldl (fun s n => s.setLane n { s.lane n with errSinceNak := 0 }) s else s
  let s := s.sendCredit p true
  let s := s.setPort p { s.port p with nakPending := false, nakOut := true, nakCount := c, nakSince := s.now }
  let s := s.count (R.LINK_Pp_NAKTX p) F.LINK_Pp_NAKTX_COUNT 1
  if max 1 (s.fld R.LINK_REPLAY_MAX F.LINK_REPLAY_MAX_COUNT) ≤ c then
    let s := s.setBit R.LINK_EVT F.LINK_EVT_REPLAY_LIMIT true
    let s := s.setPort p { s.port p with nakCount := 0 }
    match worstLane s lanes with
    | some n => s.retireLane n
    | none => s.portDown p 1
  else s

/-! ## Packets -/

/-- The header of a received packet (R45), from the bytes between SOP and the CRC. -/
def parsePacket (l : List Byte) : Packet :=
  let cls := leAt l 0 1 / 16
  { cls := cls, target := leAt l 1 1, seq := leAt l 2 2 % 4096
    addr := if cls = 1 then 0 else leAt l 8 5
    pad := if cls = 1 then leAt l 8 1 % 16 else 0
    status := leAt l 13 1, dlen := leAt l 14 2
    payload := slice l 16 (leAt l 6 2) }

/-- The class-dependent fields of the header are as R45 and R46 allow: reserved fields 0, lengths in their ranges. -/
def headerOk (l : List Byte) : Bool :=
  let cls := leAt l 0 1 / 16
  let len := leAt l 6 2
  let tgt := leAt l 1 1
  let addr := leAt l 8 5
  let st := leAt l 13 1
  let dlen := leAt l 14 2
  let dlenOk := decide (4 ≤ dlen && dlen ≤ 2048 && dlen % 4 = 0)
  decide (leAt l 0 1 % 16 = 0) && decide (leAt l 2 2 < 4096) && decide (leAt l 4 2 < 16384) &&
    decide (16 ≤ len && len ≤ 2048 && len % 4 = 0) &&
    (if cls = 1 then decide (tgt < 8 && addr < 16 && st = 0 && dlen = 0)
     else if cls = 2 then decide (tgt = 0 && st = 0) && dlenOk && decide (len = max 16 dlen)
     else if cls = 3 then decide (st = 0) && dlenOk
     else if cls = 4 then decide (addr = 0) && dlenOk
     else if cls = 5 then decide (addr = 0 && st = 0 && dlen = 0)
     else if cls = 6 then decide (tgt = 0 && leAt l 2 2 = 0 && addr = 0 && st = 0 && dlen = 0 && len = 32)
     else false)

/-- A received packet is valid: its length agrees with the position of EOP, its CRC-32C is right, no reserved field is
set (R47). -/
def packetValid (bytes : List Byte) : Bool :=
  decide (36 ≤ bytes.length) && decide (bytes.length = 20 + leAt bytes 6 2) &&
    decide (leNat (bytes.drop (bytes.length - 4)) = crc32c (bytes.take (bytes.length - 4))) && headerOk bytes

/-- The credit buffer that a packet occupies: stream t, memory writes 8, read requests 9 (R58). -/
def creditBuffer (k : Packet) : Option Nat :=
  if k.cls = 1 then some (k.target % 8) else if k.cls = 2 then some 8 else if k.cls = 3 then some 9 else none

/-- Entry `i` of a list of numbers, 0 where there is none. -/
def natAt (l : List Nat) (i : Nat) : Nat := l.getD i 0

/-- The acknowledgement that a header carries: every packet up to ACKSEQ is released (R53, R55). -/
def State.takeAck (s : State) (p ack : Nat) : State :=
  let x := s.port p
  let keep := x.unacked.filter (fun k => decide (modSub 4096 ack k.seq ≥ 2048))
  if keep.length < x.unacked.length then
    (s.setPort p { x with unacked := keep, ackedAt := s.now }).setFld (R.LINK_Pp_SEQ p) F.LINK_Pp_SEQ_TXACKED ack
  else s

/-- The first discard for an expected sequence number makes a NAK due (R52, R54). -/
def State.wantNak (s : State) (p : Nat) : State :=
  let x := s.port p
  s.setPort p { x with nakPending := x.nakPending || !x.nakOut }

/-- A packet of port `p` with the expected sequence number is accepted: ACKSEQ advances, its buffer is charged, and it
waits to be handed on (R52, R58). -/
def State.acceptPacket (s : State) (p : Nat) (k : Packet) : State :=
  let x := s.port p
  let u := packetUnits k.payload.length
  let drop := (k.cls = 1 && !s.streamOnPort (k.target % 8) p) || k.cls = 4 ||
    (k.cls = 5 && !(k.target = 0x20 || k.target = 0x21 || k.target = 0x22))
  let x := match creditBuffer k with
    | some b => { x with
        charged := x.charged.set b ((natAt x.charged b + u) % 65536)
        limit := if drop then x.limit.set b ((natAt x.limit b + u) % 65536) else x.limit
        limitSince := if drop && x.limit == x.sentLimit then s.now else x.limitSince }
    | none => x
  let s := s.setPort p { x with
    accepted := if drop then x.accepted else x.accepted ++ [k]
    ackPending := x.ackPending + 1, ackSince := if x.ackPending = 0 then s.now else x.ackSince
    nakPending := false, nakOut := false, nakCount := 0 }
  s.setFld (R.LINK_Pp_SEQ p) F.LINK_Pp_SEQ_RXNEXT ((k.seq + 1) % 4096)

/-- A packet whose charge passes the credit limit of its buffer (R59). -/
def overCredit (x : PortSt) (k : Packet) : Bool :=
  match creditBuffer k with
  | some b => !withinLimit (natAt x.charged b + packetUnits k.payload.length) (natAt x.limit b)
  | none => false

/-- A sequenced packet is judged by its sequence number and its validity (R52) and its credit (R59). -/
def State.judgeSeq (s : State) (p : Nat) (valid : Bool) (k : Packet) : State :=
  let d := modSub 4096 k.seq (s.fld (R.LINK_Pp_SEQ p) F.LINK_Pp_SEQ_RXNEXT)
  if d = 0 then
    if !valid then s.wantNak p
    else if overCredit (s.port p) k then
      ((s.wantNak p).setBit R.LINK_EVT F.LINK_EVT_CREDIT_ERR true).logFault
        { level := 3, kind := 5, unit := 8 + p, src := 1, cause := 19 }
    else s.acceptPacket p k
  else if d ≤ 1023 then s.wantNak p
  else if 3072 ≤ d then
    let s := s.count (R.LINK_Pp_DUP p) F.LINK_Pp_DUP_COUNT 1
    let x := s.port p
    s.setPort p { x with
      ackPending := max 1 x.ackPending, ackSince := if x.ackPending = 0 then s.now else x.ackSince }
  else (s.count (R.LINK_Pp_SEQERR p) F.LINK_Pp_SEQERR_COUNT 1).wantNak p

/-- The acknowledgement fields of a valid packet: ACKV releases packets, which lets others go; a NAK waits for its handling,
and nothing new goes before it (R53, R55). -/
def State.takeHeaderAck (s : State) (p : Nat) (bytes : List Byte) : State :=
  let a := leAt bytes 4 2
  let s := if a.testBit 12 then s.takeAck p (a % 4096) else s
  if a.testBit 13 then s.setPort p { s.port p with nakIn := some (a % 4096) }
  else if a.testBit 12 then (s.pump p).settleDormant p
  else s

/-- The lanes on which port `p` receives, in ascending order: those of the host's striping (R43). -/
def State.rxLanes (s : State) (p : Nat) : List Nat :=
  (portLanes s.link.mode p).filter (fun n => (s.port p).hostTxm.testBit n)

/-- The host stripes onto lanes that the XB7240 accepts; between a retirement and the host's new set it does not, and every
byte on the old striping is discarded (R63). -/
def State.stripingGood (s : State) (p : Nat) : Bool := (s.rxLanes p).all (fun n => (s.port p).rxm.testBit n)

/-- The errors of the symbols received on lane `n` count, and the lane is judged (R38, R62). -/
def State.judgeSyms (s : State) (n : Nat) (l : Bool × List (BitVec 10)) : State :=
  (s.laneErrors n (readSyms l.1 l.2).2.1 (readSyms l.1 l.2).2.2).judgeLane n

/-- A discarded packet that fails R47: it counts and makes an entry; a sequenced one is judged by its number (R52), a credit
packet is only lost. -/
def State.badPacket (s : State) (p : Nat) (bytes : List Byte) : State :=
  let s := (s.count (R.LINK_Pp_CRCERR p) F.LINK_Pp_CRCERR_COUNT 1).logFault
    { level := 3, kind := 0, unit := 8 + p, src := 1, cause := 0x20 }
  if leAt bytes 0 1 / 16 = 6 then s
  else s.judgeSeq p false { parsePacket bytes with
    seq := if bytes.length < 4 then s.fld (R.LINK_Pp_SEQ p) F.LINK_Pp_SEQ_RXNEXT else leAt bytes 2 2 % 4096 }

/-- A packet that came on port `p`: one that ends with EBP is discarded without a NAK (R48), one with an error within or
without its end fails R47, any other is judged (R47, R52). -/
def State.takePacket (s : State) (p : Nat) : Option (List (Option Byte) × PacketEnd) → State
  | none => s
  | some (l, e) =>
    let bytes := l.map (·.getD 0)
    if e = .ebp then s
    else if e = .eop && l.all (·.isSome) && packetValid bytes then
      let s := s.takeHeaderAck p bytes
      let k := parsePacket bytes
      if k.cls = 6 then s.setPort p { s.port p with accepted := (s.port p).accepted ++ [k] } else s.judgeSeq p true k
    else s.badPacket p bytes

/-- The packet that the symbols of lanes LK0 to LK7 carry on port `p` (R43). -/
def State.packetOn (s : State) (p : Nat) (lanes : List (Bool × List (BitVec 10))) :
    Option (List (Option Byte) × PacketEnd) :=
  findPacket (destripe ((s.rxLanes p).map (fun n => (readSyms (lanes.getD n (false, [])).1 (lanes.getD n (false, [])).2).1)))

/-- PACKET_RECEIVED (R38, R43, R47, R48, R52, R63). -/
def execPacketReceived (p : Fin 2) (lanes : List (Bool × List (BitVec 10))) (s : State) :
    Host.Outcome State Fault Refusal :=
  .next <|
    if !s.portUp p || (s.port p).starting || (s.port p).rx != .active then s
    else
      let good := s.stripingGood p
      let k := s.packetOn p lanes
      let s := (s.rxLanes p).foldl (fun s n => s.judgeSyms n (lanes.getD n (false, []))) s
      if good && s.portUp p && s.stripingGood p then s.takePacket p k else s

/-- The first accepted packet that satisfies `f`, and the others in their order. -/
def takeFirst {α : Type} (f : α → Bool) : List α → Option (α × List α)
  | [] => none
  | k :: t => if f k then some (k, t) else (takeFirst f t).map (fun r => (r.1, k :: r.2))

/-- The buffer space of a packet of port `p` is freed: the limit of buffer `b` advances by its charge (R58). -/
def State.freeCredit (s : State) (p b u : Nat) : State :=
  let x := s.port p
  s.setPort p { x with
    limit := x.limit.set b ((natAt x.limit b + u) % 65536)
    limitSince := if x.limit == x.sentLimit then s.now else x.limitSince }

/-- STREAM_DATA_PACKET (R60): the payload without its pad goes into the intake FIFO of its stream. -/
def execStreamDataPacket (p : Fin 2) (s : State) : Host.Outcome State Fault Refusal :=
  .next <|
    match takeFirst (fun k => k.cls = 1) (s.port p).accepted with
    | none => s
    | some (k, rest) =>
      let s := s.setPort p { s.port p with accepted := rest }
      let t := k.target % 8
      (s.sourceFills t (s.fifo t).isEmpty).setFifo t (s.fifo t ++
        [⟨k.payload.take (k.payload.length - k.pad), packetUnits k.payload.length, p.val⟩])

/-- The first `n` bytes of stream `t` leave its FIFO; the charge of a packet is freed with its last byte (R58, R60). -/
def drainFifo : Nat → List FifoPacket → List Byte × List FifoPacket × List FifoPacket
  | _, [] => ([], [], [])
  | 0, l => ([], l, [])
  | n, k :: t =>
    if k.data.length ≤ n then
      let (d, keep, gone) := drainFifo (n - k.data.length) t
      (k.data ++ d, keep, k :: gone)
    else (k.data.take n, { k with data := k.data.drop n } :: t, [])

/-- Bytes that the FIFO of stream `t` holds. -/
def State.fifoBytes (s : State) (t : Nat) : Nat := ((s.fifo t).map (fun k => k.data.length)).sum

/-- DMA takes `n` bytes from the FIFO of stream `t`, and the credit of the drained packets is freed: a byte is drained when
it leaves the FIFO for its burst (DESIGN CHOICE: R60 does not say whether the burst must have completed). -/
def State.drainStream (s : State) (t n : Nat) : List Byte × State :=
  let (d, keep, gone) := drainFifo n (s.fifo t)
  (d, gone.foldl (fun s k => s.freeCredit k.port t k.charge) (s.setFifo t keep))

/-- Word `i` of 16 bits of a payload. -/
def creditWord (l : List Byte) (i : Nat) : Nat := leAt l (2 * i) 2

/-- CREDIT_PACKET_RECEIVED (R58): the host's limits for completions and events, words 10 and 11, advance. -/
def execCreditPacketReceived (p : Fin 2) (s : State) : Host.Outcome State Fault Refusal :=
  .next <|
    match takeFirst (fun k => k.cls = 6) (s.port p).accepted with
    | none => s
    | some (k, rest) =>
      let x := s.port p
      let c := creditWord k.payload 10
      let e := creditWord k.payload 11
      let lim := match x.hostLimits with
        | none => (c, e)
        | some (c0, e0) => (if withinLimit c0 c then c else c0, if withinLimit e0 e then e else e0)
      (s.setPort p { x with accepted := rest, hostLimits := some lim }).pump p

/-- A credit packet of port `x` is due at instant `now`: at bring-up, after an advance of 16 units, and 2 µs after any
advance (R59). -/
def creditDue (now : Nat) (x : PortSt) : Bool :=
  decide (0 < x.bringUp) ||
    (List.range 10).any (fun b => decide (16 ≤ modSub 65536 (natAt x.limit b) (natAt x.sentLimit b))) ||
    (x.limit != x.sentLimit && decide (x.limitSince + us 2 ≤ now))

/-- CREDIT_UPDATE_SEND (R59). -/
def execCreditUpdateSend (p : Fin 2) (s : State) : Host.Outcome State Fault Refusal :=
  .next <|
    let x := s.port p
    if s.maySpeak p && creditDue s.now x then (s.setPort p { x with bringUp := x.bringUp - 1 }).sendCredit p false else s

/-- An acknowledgement of port `p` is due: ACK_PKTS packets accepted, or ACK_T passed since the first (R53). -/
def State.ackDue (s : State) (p : Nat) : Bool :=
  let x := s.port p
  decide (0 < x.ackPending) &&
    (decide (s.fld R.LINK_TIMERS F.LINK_TIMERS_ACK_PKTS ≤ x.ackPending) ||
      decide (x.ackSince + 200 * s.fld R.LINK_TIMERS F.LINK_TIMERS_ACK_T ≤ s.now))

/-- ACK_TIMER_EXPIRY (R53): with nothing else to send, a credit packet carries ACKSEQ. -/
def execAckTimerExpiry (p : Fin 2) (s : State) : Host.Outcome State Fault Refusal :=
  .next <| if s.maySpeak p && s.ackDue p then s.sendCredit p false else s

/-- NAK_TRANSMIT (R54). -/
def execNakTransmit (p : Fin 2) (s : State) : Host.Outcome State Fault Refusal :=
  .next <| if s.maySpeak p && (s.port p).nakPending then s.sendNak p else s

/-- NAK_TIMEOUT (R54): the expected packet has not arrived within NAK_TO of the NAK. -/
def execNakTimeout (p : Fin 2) (s : State) : Host.Outcome State Fault Refusal :=
  .next <|
    if s.maySpeak p && (s.port p).nakOut &&
        decide ((s.port p).nakSince + 80 * s.fld R.LINK_TIMERS F.LINK_TIMERS_NAK_TO ≤ s.now) then s.sendNak p
    else s

/-- Port `p` sends again, in order, every packet it keeps (R55). -/
def State.replay (s : State) (p : Nat) : State :=
  let x := s.port p
  (s.setPort p { x with lastReplay := x.unacked.map (·.seq), ackedAt := s.now }).transmit p false x.unacked

/-- NAK_RECEIVED (R55): what ACKSEQ acknowledges is released, the rest is sent again before anything new. -/
def execNakReceived (p : Fin 2) (s : State) : Host.Outcome State Fault Refusal :=
  .next <|
    match (s.port p).nakIn with
    | none => s
    | some ack =>
      let s := s.setPort p { s.port p with nakIn := none }
      let s := (s.count (R.LINK_Pp_NAKRX p) F.LINK_Pp_NAKRX_COUNT 1).takeAck p ack
      if s.maySpeak p then ((s.replay p).pump p).settleDormant p else s

/-- REPLAY_TIMEOUT (R55): no acknowledgement has advanced for REPLAY_TO, in steps of 5/3 µs. -/
def execReplayTimeout (p : Fin 2) (s : State) : Host.Outcome State Fault Refusal :=
  .next <|
    if s.maySpeak p && !(s.port p).unacked.isEmpty &&
        decide (3 * (s.port p).ackedAt + 4000 * s.fld R.LINK_TIMERS F.LINK_TIMERS_REPLAY_TO ≤ 3 * s.now) then s.replay p
    else s

/-! ## Enable, alignment, masks -/

/-- Port `p` starts the alignment procedure from its first step: sequence numbers, credits and masks start anew
(R36, R57, R58). Packets that were accepted before stay accepted, but
for credit packets, whose limits are those of the sequence before; a host's reads in progress are answered in the new
sequence (DESIGN CHOICE). -/
def State.startPort (s : State) (p : Nat) : State :=
  let lanes := portLanes s.link.mode p
  if lanes.isEmpty then s
  else
    let x := s.port p
    let s := s.setPort p { ({} : PortSt) with
      starting := true, rxm := laneMask lanes, accepted := x.accepted.filter (fun k => k.cls != 6), reads := x.reads
      txPos := x.txPos }
    let s := lanes.foldl (fun s n => (s.setReg (R.LINK_LANEn_STAT n) 0).setLane n {}) s
    let s := s.setReg (R.LINK_Pp_SEQ p) 0
    let s := s.setFld R.LINK_STAT F.LINK_STAT_TXMASK (s.fld R.LINK_STAT F.LINK_STAT_TXMASK ||| laneMask lanes)
    let s := (s.setBit R.LINK_STAT (upField p) false).setFld R.LINK_STAT (pwrField p) 0
    s.sendLaneMarker p

/-- A write of `v` to LINK_CTRL: EN from 0 to 1 takes the mode, and the rate with it (DESIGN CHOICE: R37 does not say when
RATE is taken), and starts the ports (R36); EN from 1 to 0 takes
them down (R57). -/
def State.linkCtrlWrite (s : State) (v : Word) : State :=
  let old := s.bit R.LINK_CTRL F.LINK_CTRL_EN
  let s := s.writeByCodes R.LINK_CTRL v
  let new := s.bit R.LINK_CTRL F.LINK_CTRL_EN
  if !old && new then
    let s := { s with link := { s.link with mode := s.fld R.LINK_CTRL F.LINK_CTRL_MODE, rate := s.fld R.LINK_CTRL F.LINK_CTRL_RATE } }
    ((s.setReg R.LINK_STAT 0).startPort 0).startPort 1
  else if old && !new then (s.portDown 0 5).portDown 1 5
  else s

/-- LINK_ENABLE (R36, R42). -/
def execLinkEnable (r : Requester) (v : Word) (s : State) : Host.Outcome State Fault Refusal :=
  .next ((s.linkCtrlWrite (putField F.LINK_CTRL_EN v 1)).written r)

/-- LINK_DISABLE (R57). -/
def execLinkDisable (r : Requester) (v : Word) (s : State) : Host.Outcome State Fault Refusal :=
  .next ((s.linkCtrlWrite (putField F.LINK_CTRL_EN v 0)).written r)

/-- SYMBOL_LOCK (step 2 of the alignment): in the alignment of its port or in its own qualification the lane takes
symbol lock and corrects its polarity. -/
def execSymbolLock (n : Fin 8) (inverted : Bool) (s : State) : Host.Outcome State Fault Refusal :=
  .next <|
    if (s.port (portOfLane s.link.mode n)).starting || s.bit (R.LINK_LANEn_STAT n) F.LINK_LANEn_STAT_QUALIFYING then
      (s.setBit (R.LINK_LANEn_STAT n) F.LINK_LANEn_STAT_LOCK true).setLane n
        { s.lane n with inverted := inverted, qualSince := s.now }
    else s

/-- A lane of a starting port is admitted (steps 2 to 5, R41): not retired, locked, its LN its own number, its skew within
64. -/
def State.admits (s : State) (n skew : Nat) : Bool :=
  !s.bit (R.LINK_LANEn_STAT n) F.LINK_LANEn_STAT_RETIRED && s.bit (R.LINK_LANEn_STAT n) F.LINK_LANEn_STAT_LOCK &&
    (s.lane n).lnSeen == some n && decide (skew ≤ 64)

/-- PORT_UP (R42, steps 5 and 6). -/
def execPortUp (p : Fin 2) (skews : List Nat) (s : State) : Host.Outcome State Fault Refusal :=
  .next <|
    let lanes := portLanes s.link.mode p
    let good := (lanes.zip skews).filter (fun e => s.admits e.1 e.2)
    if (s.port p).starting && !good.isEmpty then
      let m := laneMask (good.map (·.1))
      let x := s.port p
      let hostRxm := if x.hostRxm = 0 then m else x.hostRxm
      let hostTxm := if x.hostTxm = 0 then m else x.hostTxm &&& m
      let s := good.foldl (fun s e =>
        (s.setBit (R.LINK_LANEn_STAT e.1) F.LINK_LANEn_STAT_ALIGNED true).setFld (R.LINK_LANEn_STAT e.1)
          F.LINK_LANEn_STAT_SKEW e.2) s
      let s := s.setPort p { x with
        starting := false, warm := false, rx := .active, rxm := m, hostRxm := hostRxm, hostTxm := hostTxm
        bringUp := if x.warm then x.bringUp else 16, idleSince := s.now }
      let tx := s.fld R.LINK_STAT F.LINK_STAT_TXMASK
      let s := s.setFld R.LINK_STAT F.LINK_STAT_TXMASK
        ((tx - (tx &&& laneMask lanes)) ||| (laneMask lanes &&& hostRxm))
      let s := (s.sendSet p 16 (s.markerOf p)).refreshRxMask p
      (s.setBit R.LINK_STAT (upField p) true).pump p
    else s

/-- The transmit lanes of port `p` follow the host's RXM: a lane that it lacks leaves the striping (R64), a lane of
the own RXM that it names joins it (step 6 of the re-admission). A change goes out in a lane-marker set with GEN
incremented (R44). -/
def State.followHostRxm (s : State) (p : Nat) : State :=
  let lanes := laneMask (portLanes s.link.mode p)
  let x := s.port p
  let tx := s.fld R.LINK_STAT F.LINK_STAT_TXMASK
  let mine := tx &&& lanes
  let new := (mine &&& x.hostRxm) ||| (x.rxm &&& x.hostRxm &&& lanes)
  if new = mine then s
  else (s.setFld R.LINK_STAT F.LINK_STAT_TXMASK ((tx - mine) ||| new)).nextGen.sendLaneMarker p

/-- LANE_MARKER_SET_RECEIVED (R39, R44, R64). -/
def execLaneMarkerSetReceived (n : Fin 8) (ln gen txm rxm mode chk : Byte) (s : State) :
    Host.Outcome State Fault Refusal :=
  .next <|
    let p := portOfLane s.link.mode n
    let x := s.port p
    if x.rx = .dormant then s
    else if chk ≠ ln ^^^ gen ^^^ txm ^^^ rxm ^^^ mode then (s.laneErrors n 1 0).judgeLane n
    else if x.starting then
      let okMode := mode.toNat = s.link.mode + 4 * s.link.rate
      let s := s.setLane n { s.lane n with lnSeen := if okMode then some ln.toNat else none }
      s.setPort p { x with hostGen := gen.toNat, hostTxm := txm.toNat, hostRxm := rxm.toNat }
    else if s.portUp p then
      let d := modSub 256 gen.toNat x.hostGen
      let s := s.setPort p { x with rx := .active }
      if 0 < d && d < 128 then
        let s := s.setPort p { s.port p with hostGen := gen.toNat, hostTxm := txm.toNat, hostRxm := rxm.toNat }
        (s.refreshRxMask p).followHostRxm p
      else s
    else s

/-- SKIP_SET_RECEIVED (R40): one SKP is inserted or removed to absorb the clock difference. -/
def execSkipSetReceived (n : Fin 8) (insert : Bool) (s : State) : Host.Outcome State Fault Refusal :=
  .next (s.setLane n { s.lane n with elastic := (s.lane n).elastic + (if insert then 1 else -1) })

/-- EIE_SET_RECEIVED (R70, R71): the line is ignored from here on, in Standby or, when Dormant was agreed, in
Dormant. -/
def execEieSetReceived (p : Fin 2) (s : State) : Host.Outcome State Fault Refusal :=
  .next <|
    if s.portUp p then
      let x := s.port p
      let dormant := x.dormantDue || s.fld R.LINK_STAT (pwrField p) == 2
      s.setPort p { x with rx := if dormant then .dormant else .standby }
    else s

/-! ## Lane faults and re-admission -/

/-- LANE_RETIREMENT (R62, R63). -/
def execLaneRetirement (n : Fin 8) (rd : Bool) (syms : List (BitVec 10)) (s : State) :
    Host.Outcome State Fault Refusal :=
  .next (s.judgeSyms n (rd, syms))

/-- SYMBOL_LOCK_LOSS (R62); on a qualifying lane it restarts the count (R68). -/
def execSymbolLockLoss (n : Fin 8) (s : State) : Host.Outcome State Fault Refusal :=
  .next <|
    if (s.port (portOfLane s.link.mode n)).rx != .active then s
    else
      let s := s.count (R.LINK_LANEn_LOCKLOSS n) F.LINK_LANEn_LOCKLOSS_COUNT 1
      ((s.setBit (R.LINK_LANEn_STAT n) F.LINK_LANEn_STAT_LOCK false).qualError n).retireLane n

/-- DESKEW_OVERFLOW (R62). -/
def execDeskewOverflow (n : Fin 8) (s : State) : Host.Outcome State Fault Refusal :=
  .next ((s.setBit (R.LINK_LANEn_STAT n) F.LINK_LANEn_STAT_ALIGNED false).retireLane n)

/-- A write of `v` to LINK_RETIRE retires each named lane that is not retired (R62, R73). -/
def State.linkRetireWrite (s : State) (v : Word) : State :=
  (bitList 8 (getField F.LINK_RETIRE_LANES v)).foldl State.retireLane s

/-- LINK_RETIRE (R62). -/
def execLinkRetire (r : Requester) (v : Word) (s : State) : Host.Outcome State Fault Refusal :=
  .next ((s.linkRetireWrite v).written r)

/-- A write of `v` to LINK_READMIT starts the qualification pattern on each named lane that is retired; a lane not
retired is ignored (R67, R73). -/
def State.linkReadmitWrite (s : State) (v : Word) : State :=
  (bitList 8 (getField F.LINK_READMIT_LANES v)).foldl (fun s n =>
    if s.bit (R.LINK_LANEn_STAT n) F.LINK_LANEn_STAT_RETIRED then
      let p := portOfLane s.link.mode n
      let s := s.setBit (R.LINK_LANEn_STAT n) F.LINK_LANEn_STAT_QUALIFYING true
      let s := s.setBit (R.LINK_LANEn_STAT n) F.LINK_LANEn_STAT_LOCK false
      let s := s.setFld (R.LINK_LANEn_STAT n) F.LINK_LANEn_STAT_PWR 0
      let o := match s.markerOf p with
        | .laneMarker g t r m => .qualification n g t r m
        | o => o
      let s := s.setLane n { s.lane n with restarts := 0, errStamps := [], qualSince := s.now, out := o.syms n }
      s.setPort p { s.port p with lastSet := some o }
    else s) s

/-- LINK_READMIT (R67). -/
def execLinkReadmit (r : Requester) (v : Word) (s : State) : Host.Outcome State Fault Refusal :=
  .next ((s.linkReadmitWrite v).written r)

/-- The qualification of lane `n` has counted its symbols without error: SYMBOLS, at least 0x0001_0000 (R73). -/
def State.qualified (s : State) (n : Nat) : Bool :=
  decide (max 0x10000 (s.fld R.LINK_LANE_QUAL F.LINK_LANE_QUAL_SYMBOLS) ≤ s.symbolsIn (s.now - (s.lane n).qualSince))

/-- LANE_QUALIFICATION_COMPLETE (R67): a lane without error and with its skew within R41 returns to RXM with a new
GEN; the re-admission makes its entry (R15). -/
def execLaneQualificationComplete (n : Fin 8) (skew : Nat) (s : State) : Host.Outcome State Fault Refusal :=
  .next <|
    let p := portOfLane s.link.mode n
    let a := R.LINK_LANEn_STAT n
    if s.bit a F.LINK_LANEn_STAT_QUALIFYING && s.bit a F.LINK_LANEn_STAT_LOCK && s.qualified n &&
        decide (skew ≤ 64) then
      let s := (s.setBit a F.LINK_LANEn_STAT_QUALIFYING false).setBit a F.LINK_LANEn_STAT_RETIRED false
      let s := (s.setBit a F.LINK_LANEn_STAT_ALIGNED true).setFld a F.LINK_LANEn_STAT_SKEW skew
      let s := s.setPort p { s.port p with rxm := (s.port p).rxm ||| 2 ^ n.val }
      let s := (s.nextGen.sendLaneMarker p).refreshRxMask p
      let s := s.orFld R.LINK_EVT F.LINK_EVT_LANE_READMITTED n
      s.logFault { level := 3, kind := 3, unit := n, src := 1, cause := 8 + n.val }
    else s

/-- READMIT_ABANDON (R68). -/
def execReadmitAbandon (n : Fin 8) (rd : Bool) (syms : List (BitVec 10)) (s : State) :
    Host.Outcome State Fault Refusal :=
  .next <|
    if s.bit (R.LINK_LANEn_STAT n) F.LINK_LANEn_STAT_QUALIFYING then
      s.laneErrors n (readSyms rd syms).2.1 (readSyms rd syms).2.2
    else s

/-! ## Power states -/

/-- A page context is armed. -/
def State.anyPageArmed (s : State) : Bool := s.pages.any (fun e => e.2.state == 2)

/-- The transmitter of port `p` sends an EIE set and enters Standby (R70). -/
def State.enterStandby (s : State) (p : Nat) : State :=
  let s := s.sendSet p 1 .electricalIdle
  (s.setFld R.LINK_STAT (pwrField p) 1).lanePower (portLanes s.link.mode p) 1

/-- The transmitter of port `p` leaves Standby: COM symbols, a lane-marker set, then packets (R70). -/
def State.leaveStandby (s : State) (p : Nat) : State := (s.exitStandby p).pump p

/-- The alignment of port `p` runs again from its step 2 (R71): its lanes lose their lock and are deskewed anew; those that
are retired stay so, and sequence numbers and credits keep their values. -/
def State.realign (s : State) (p : Nat) : State :=
  let lanes := portLanes s.link.mode p
  let s := lanes.foldl (fun s n =>
    ((s.setBit (R.LINK_LANEn_STAT n) F.LINK_LANEn_STAT_LOCK false).setBit (R.LINK_LANEn_STAT n)
      F.LINK_LANEn_STAT_ALIGNED false).setLane n { s.lane n with lnSeen := none }) s
  let s := s.setPort p { s.port p with starting := true, warm := true, rx := .active }
  ((s.setFld R.LINK_STAT (pwrField p) 0).lanePower lanes 0).sendLaneMarker p

/-- A port's power request of LINK_PM_CTRL (R69 to R72). -/
def State.requestPower (s : State) (p req : Nat) : State :=
  let cur := s.fld R.LINK_STAT (pwrField p)
  if !s.portUp p then s
  else if req = 0 then
    if cur = 1 then s.leaveStandby p
    else if cur = 2 then s.realign p
    else s
  else if req = 1 then (if cur = 0 then s.enterStandby p else s)
  else if req = 2 then
    if cur = 2 then s
    else if s.anyPageArmed then s.setBit R.LINK_EVT F.LINK_EVT_DORMANT_REFUSED true
    else (s.setPort p { s.port p with dormantAsked := true }).sendEvent p 0x20 []
  else s

/-- A write of `v` to LINK_PM_CTRL (R69). -/
def State.linkPmWrite (s : State) (v : Word) : State :=
  let s := s.writeByCodes R.LINK_PM_CTRL v
  (s.requestPower 0 (s.fld R.LINK_PM_CTRL F.LINK_PM_CTRL_P0_REQ)).requestPower 1
    (s.fld R.LINK_PM_CTRL F.LINK_PM_CTRL_P1_REQ)

/-- LINK_POWER_REQUEST (R69). -/
def execLinkPowerRequest (r : Requester) (v : Word) (s : State) : Host.Outcome State Fault Refusal :=
  .next ((s.linkPmWrite v).written r)

/-- IDLE_TIMER_EXPIRY (R70): IDLE_US has passed since the last packet; an IDLE_US of 0 disables it. -/
def execIdleTimerExpiry (p : Fin 2) (s : State) : Host.Outcome State Fault Refusal :=
  .next <|
    let w := s.fld R.LINK_PM_CTRL F.LINK_PM_CTRL_IDLE_US
    if s.maySpeak p && s.txActive p && (s.port p).waiting.isEmpty && w != 0 &&
        decide ((s.port p).idleSince + us w ≤ s.now) then s.enterStandby p
    else s

/-- STANDBY_EXIT (R70). -/
def execStandbyExit (p : Fin 2) (s : State) : Host.Outcome State Fault Refusal :=
  .next <| if s.portUp p && s.fld R.LINK_STAT (pwrField p) == 1 then s.leaveStandby p else s

/-- LINK_DORMANT_REQUEST (R71, R72): the host's event 0x20 is answered with 0x21, and Dormant follows, or refused with
0x22 while a page context is armed. -/
def execLinkDormantRequest (p : Fin 2) (s : State) : Host.Outcome State Fault Refusal :=
  .next <|
    match takeFirst (fun k => decide (k.cls = 5 ∧ k.target = 0x20)) (s.port p).accepted with
    | none => s
    | some (_, rest) =>
      let s := s.setPort p { s.port p with accepted := rest }
      if s.anyPageArmed then
        (s.setBit R.LINK_EVT F.LINK_EVT_DORMANT_REFUSED true).sendEvent p 0x22 []
      else
        let s := s.sendEvent p 0x21 []
        (s.setPort p { s.port p with dormantDue := true }).settleDormant p

/-- LINK_DORMANT_ANSWER (R71, R72): the host's event 0x21 lets the requester enter Dormant; 0x22 ends the request. -/
def execLinkDormantAnswer (p : Fin 2) (s : State) : Host.Outcome State Fault Refusal :=
  .next <|
    match takeFirst (fun k => decide (k.cls = 5 ∧ (k.target = 0x21 ∨ k.target = 0x22))) (s.port p).accepted with
    | none => s
    | some (k, rest) =>
      let s := s.setPort p { s.port p with accepted := rest }
      if !(s.port p).dormantAsked then s
      else if k.target = 0x21 then (s.setPort p { s.port p with dormantDue := true }).settleDormant p
      else (s.setPort p { s.port p with dormantAsked := false }).setBit R.LINK_EVT F.LINK_EVT_DORMANT_REFUSED true

/-- SIGNAL_DETECT_WAKE (R71): the lanes wake and the alignment reruns from its step 2; sequence numbers and credits
keep their values. -/
def execSignalDetectWake (p : Fin 2) (s : State) : Host.Outcome State Fault Refusal :=
  .next <|
    if s.portUp p && (s.port p).rx == .dormant then s.realign p else s

/-- STREAM_BIND_WRITE (R61). -/
def execStreamBindWrite (r : Requester) (v : Word) (s : State) : Host.Outcome State Fault Refusal :=
  .next ((s.writeByCodes R.LINK_STREAM_BIND v).written r)

/-- LINK_STREAMs_CREDIT as it reads: the limit last granted and the units held in the FIFO (R58, R73). Before the first
credit packet it is 0, since none has been granted yet (DESIGN CHOICE: R58 starts the limit at 512 units). -/
def State.streamCredit (s : State) (t : Nat) : Word :=
  let p := if s.streamOnPort t 0 then 0 else 1
  let w := putField F.LINK_STREAMs_CREDIT_LIMIT 0 (natAt (s.port p).sentLimit t)
  putField F.LINK_STREAMs_CREDIT_USED w ((s.fifo t).map (·.charge)).sum

end Sys2Proof.Machine
end

