-- ==== Sys2Proof/Machine/Rows.lean ====
section
/-! DEFINITION. What the print path shares: arithmetic of printed lines (R268), pending values of settings (R398), the
state of hamlets, head channels and rows, the datum row (R20, R272), and page contexts with their flags (R277). -/

namespace Sys2Proof.Machine

/-! ## Printed lines -/

/-- The number of printed line numbers: 0xFFFF_FFFF is skipped (R268). -/
def lineMod : Nat := 0xFFFFFFFF

/-- Printed line `l` and `n` lines on (R268). -/
def lineAdd (l n : Nat) : Nat := (l + n) % lineMod

/-- The line `n` lines before `l`. -/
def lineSub (l n : Nat) : Nat := (l + lineMod - n % lineMod) % lineMod

/-- `a` is at or before `b`: line numbers compare modulo 2^32 within half the range (R268). -/
def lineLe (a b : Nat) : Bool := decide (modSub (2 ^ 32) b a < 2 ^ 31)

/-- `a` is before `b`. -/
def lineLt (a b : Nat) : Bool := lineLe a b && a != b

/-- The lines from `b` up to `a`, negative when `a` is before `b`. -/
def lineDist (a b : Nat) : Int :=
  if lineLe b a then ((modSub lineMod a b : Nat) : Int) else -((modSub lineMod b a : Nat) : Int)

/-! ## Bases of the SRAM windows (R27) -/

/-- The base of the line SRAM of hamlet `k`. -/
def lineBase (k : Nat) : Nat := 0x1000000 + 0x400000 * (k % 4)

/-- The base of the compensation SRAM. -/
def compBase : Nat := 0x2000000

/-- The address of tone record `i` of hamlet `k` (R171). -/
def toneAddr (k i : Nat) : Nat := lineBase k + 0x40000 + 32 * (i % 12672)

/-- The address of the record of global nozzle `g` (R165). -/
def nozAddr (g : Nat) : Nat := compBase + 8 * (g % 101376)

/-! ## Pending values -/

/-- A word with the pending values of its register that apply at line `l` put in, in the order of the queue (R398). -/
def applyPend (a l : Nat) : List PendVal → Word → Word
  | [], w => w
  | p :: t, w =>
    applyPend a l t (if p.addr = a && lineLe p.line l then putField ⟨p.lo, p.width, .rw⟩ w p.value else w)

/-- The value of the register at address `a` in force for printed line `l` (R168, R202, R398). -/
def State.regFor (s : State) (a l : Nat) : Word := applyPend a l s.pend (s.reg a)

/-- Field `f` of that value. -/
def State.fldFor (s : State) (a : Nat) (f : Field) (l : Nat) : Nat := getField f (s.regFor a l)

/-- A pending value enters the list: behind the values of lines at or before its own. -/
def insertPend (p : PendVal) : List PendVal → List PendVal
  | [] => [p]
  | q :: t => if lineLt p.line q.line then p :: q :: t else q :: insertPend p t

/-- Two pending values of one setting for one line. -/
def sameSlot (p q : PendVal) : Bool := q.addr == p.addr && q.lo == p.lo && q.line == p.line

/-- The pending queues (R398): a later-armed value replaces the earlier one of its setting and line. The replaced value
stands in the list until both are in force, so that it counts again when the later group is freed before that. -/
def queueOf : List PendVal → List PendVal
  | [] => []
  | p :: t => if t.any (sameSlot p) then queueOf t else p :: queueOf t

/-- The field that a pending value is for. -/
def PendVal.field (p : PendVal) : Field := ⟨p.lo, p.width, .rw⟩

/-- The value in force that pending value `p` replaces is noted for lines before its own (R399). -/
def State.noteLanded (s : State) (p : PendVal) : State :=
  { s with landed := { p with value := s.fld p.addr p.field } :: s.landed }

/-- A pending value moves into force as the new word of its field. -/
def State.landField (s : State) (p : PendVal) : State := (s.noteLanded p).setFld p.addr p.field p.value

/-- A word with the values that were in force before the changes of its register for lines after `l`. -/
def undoLanded (a l : Nat) (log : List PendVal) (w : Word) : Word :=
  log.foldl (fun w p => if p.addr = a && lineLt l p.line then putField p.field w p.value else w) w

/-- The word of the register at `a` in force on line `l`, which not every row may have passed (R24, R399). -/
def State.regOn (s : State) (a l : Nat) : Word := applyPend a l s.pend (undoLanded a l s.landed (s.reg a))

/-- The values of the registers from address `lo` up to `hi` whose line is at or before `l` move into force (R398). -/
def State.settlePend (s : State) (lo hi l : Nat) : State :=
  let due := fun p : PendVal => decide (lo ≤ p.addr ∧ p.addr < hi) && lineLe p.line l
  let s' := (s.pend.filter due).foldl State.landField s
  { s' with pend := s.pend.filter (fun p => !due p) }

/-! ## Threshold arrays of commit groups -/

/-- The threshold arrays that the groups `f` holds of bring are written into their slots: groups armed for a line, and landed
ones (R173). An array that a group writes is in force nowhere before, so a read of it returns the old one (R9). -/
def State.landArrays (s : State) (f : Group → Bool) : State :=
  (s.eth.groups.filter (fun e => (e.2.state == 2 || e.2.state == 3) && e.2.wait.isNone && f e.2)).foldl (fun s e =>
    e.2.items.foldl (fun s i =>
      match i.table with
      | some (.threshold a) => s.setBytes (compBase + 0xC6000 + 0x30000 * (a % 4)) (i.value.take 0x30000)
      | _ => s) s) s

/-! ## The power state -/

/-- CLKPWR_STAT.STATE (R413): 0 Dormant, 1 Standby, 2 Ready, 3 Printing, 4 Starting, 5 Entering Standby, 6 Leaving
Standby. -/
def State.power (s : State) : Nat := s.fld R.CLKPWR_STAT F.CLKPWR_STAT_STATE

/-- The block enters a power state; STATECHG and an event of class 7 follow (R400, R413, R430). -/
def State.setPower (s : State) (v : Nat) : State :=
  ((s.setFld R.CLKPWR_STAT F.CLKPWR_STAT_STATE v).setBit R.CLKPWR_EVT F.CLKPWR_EVT_STATECHG true).notify 7 v 0

/-- The blocks that Standby stops run: hamlets, Miller, camera pipelines (R413). -/
def State.blocksRun (s : State) : Bool := s.power != 0 && s.power != 1

/-! ## Hamlets, head channels, rows -/

/-- Hamlet `k`. -/
def State.ham (s : State) (k : Nat) : HamletSt := sget (fun _ => {}) s.weaver.hams k

/-- The state with hamlet `k` set. -/
def State.setHam (s : State) (k : Nat) (x : HamletSt) : State :=
  { s with weaver := { s.weaver with hams := sset (fun _ => {}) s.weaver.hams k x } }

/-- Head channel `h`. -/
def State.hc (s : State) (h : Nat) : HcSt := sget (fun _ => {}) s.hcs h

/-- The state with head channel `h` set. -/
def State.setHc (s : State) (h : Nat) (x : HcSt) : State := { s with hcs := sset (fun _ => {}) s.hcs h x }

/-- Row `r` of head channel `h`: 0 is row U, 1 row D. -/
def State.row (s : State) (h r : Nat) : RowSt := if r = 0 then (s.hc h).rowU else (s.hc h).rowD

/-- The state with row `r` of head channel `h` set. -/
def State.setRow (s : State) (h r : Nat) (x : RowSt) : State :=
  s.setHc h (if r = 0 then { s.hc h with rowU := x } else { s.hc h with rowD := x })

/-- HC_STAT.STATE (R231): 0 Disabled, 1 Idle, 2 Printing, 3 Warming, 4 Retired, 5 Cooling. -/
def State.hcState (s : State) (h : Nat) : Nat := s.fld (R.HC_STAT h) F.HC_STAT_STATE

/-- Channel `h` is scan-paced (R232). -/
def State.scanPaced (s : State) (h : Nat) : Bool := decide (22 ≤ h) && s.bit (R.HC_CTRL h) F.HC_CTRL_SCAN

/-- Channel `h` has two rows (R200). -/
def State.twoRows (s : State) (h : Nat) : Bool := s.bit (R.HC_PROF0 h) F.HC_PROF0_ROWS

/-- The rows of channel `h`. -/
def State.rowsOf (s : State) (h : Nat) : List Nat := if s.twoRows h then [0, 1] else [0]

/-- All head channels. -/
def allHc : List Nat := List.range 24

/-- A head channel is printing, for the protections of R30, R168 and R199: Printing or Warming (DEDUCED). -/
def State.anyPrinting (s : State) : Bool := allHc.any (fun h => s.hcState h == 2 || s.hcState h == 3)

/-- Channel `h` is in service now: its rows fire printed lines. -/
def State.inServiceNow (s : State) (h : Nat) : Bool :=
  (s.hcState h == 1 || s.hcState h == 2) && !s.scanPaced h

/-- Channel `h` is in service for line `l`: it fires `l` (R181, R195). One that was re-admitted is so from its line L_r on,
for rows that have still to take lines before L_r too. -/
def State.inService (s : State) (h l : Nat) : Bool :=
  let from_ := (s.hc h).lr
  (s.inServiceNow h && from_.isNone) ||
    ((s.inServiceNow h || (s.hcState h == 3 && !s.scanPaced h)) && (match from_ with
      | some lr => lineLe lr l
      | none => false))

/-- The rows in service, as channel and row. -/
def State.serviceRows (s : State) : List (Nat × Nat) :=
  (allHc.filter s.inServiceNow).flatMap (fun h => (s.rowsOf h).map (fun r => (h, r)))

/-- The rows of enabled channels that are not scan-paced: in service, warming or screening in shadow (R180, R195). -/
def State.enabledRows (s : State) : List (Nat × Nat) :=
  (allHc.filter (fun h => s.hcState h != 0 && !s.scanPaced h)).flatMap (fun h => (s.rowsOf h).map (fun r => (h, r)))

/-- The address of BR_ROWU or BR_ROWD of a row, and of its next-line register. -/
def rowReg (h r : Nat) : Nat := if r = 0 then R.BR_ROWU h else R.BR_ROWD h
def rowNextReg (h r : Nat) : Nat := if r = 0 then R.BR_ROWU_NEXT h else R.BR_ROWD_NEXT h

/-- The line delay of a row (R285). -/
def State.rowDelay (s : State) (h r : Nat) : Nat := s.fld (rowReg h r) F.BR_ROWU_DELAY

/-- The row with the smallest line delay of a list, the first among equals (R20). -/
def State.leastDelay (s : State) (l : List (Nat × Nat)) : Option (Nat × Nat) :=
  l.foldl (fun b x =>
    match b with
    | none => some x
    | some y => if s.rowDelay x.1 x.2 < s.rowDelay y.1 y.2 then some x else some y) none

/-- The datum row that BR_STAT reports. -/
def State.datumRow (s : State) : Nat × Nat :=
  (s.fld R.BR_STAT F.BR_STAT_DATUMHC, s.fld R.BR_STAT F.BR_STAT_DATUMROW)

/-- The datum row follows the rows in service; a change sets DATUMCHG; with none in service the last one stays
(R20, R272). -/
def State.refreshDatum (s : State) : State :=
  match s.leastDelay s.serviceRows with
  | none => s
  | some (h, r) =>
    if s.datumRow = (h, r) then s
    else ((s.setFld R.BR_STAT F.BR_STAT_DATUMHC h).setFld R.BR_STAT F.BR_STAT_DATUMROW r).setBit R.BR_EVT
      F.BR_EVT_DATUMCHG true

/-- BR_FMAX: the smallest limit of the channels that are Printing or Warming, else the chip limit (R279). -/
def State.refreshFmax (s : State) : State :=
  let l := (allHc.filter (fun h => (s.hcState h == 2 || s.hcState h == 3) && !s.scanPaced h)).map
    (fun h => s.fld (R.BR_HLIMIT h) F.BR_HLIMIT_LIMIT)
  s.setFld R.BR_FMAX F.BR_FMAX_FMAX (l.foldl min 400000)

/-- The largest and smallest line delay of the rows of hamlet `k`'s channels, retired ones counted, scan-paced and
Disabled ones not (R167, R232); none without such a row. -/
def State.delaySpan (s : State) (k : Nat) : Option (Nat × Nat) :=
  let l := ((List.range 6).map (fun i => 6 * k + i)).filter (fun h => s.hcState h != 0 && !s.scanPaced h)
  let d := l.flatMap (fun h => (s.rowsOf h).map (s.rowDelay h))
  match d with
  | [] => none
  | x :: t => some (t.foldl max x, t.foldl min x)

/-- The printed line after the line last fired of a row: BR_ROWx_NEXT. -/
def State.rowNext (s : State) (x : Nat × Nat) : Nat := s.regN (rowNextReg x.1 x.2)

/-- BR_STAT.RUNNING: the line grid runs. -/
def State.running (s : State) : Bool := s.bit R.BR_STAT F.BR_STAT_RUNNING

/-- The rows that decide when a line has been fired by all: those in service, the datum row where none is. -/
def State.firingRows (s : State) : List (Nat × Nat) := if s.serviceRows.isEmpty then [s.datumRow] else s.serviceRows

/-- Every row that counts has fired line `l`. -/
def State.allFired (s : State) (l : Nat) : Bool := s.firingRows.all (fun x => lineLt l (s.rowNext x))

/-- The least next line of rows. -/
def State.leastNext (s : State) (rows : List (Nat × Nat)) : Option Nat :=
  rows.foldl (fun m x =>
    match m with
    | some v => some (if lineLt (s.rowNext x) v then s.rowNext x else v)
    | none => some (s.rowNext x)) none

/-- BR_SNAPLINE shows the snapshot line (R24): the highest line that every row in service has fired. What changes replaced
is kept until every row, retired ones and warming ones too, has fired their line. -/
def State.showSnap (s : State) : State :=
  match s.leastNext s.firingRows with
  | some n =>
    if n = s.br.firstLine then s
    else
      let s := s.setReg R.BR_SNAPLINE (BitVec.ofNat 32 (lineSub n 1))
      let m := (s.leastNext (s.enabledRows ++ [s.datumRow])).getD n
      { s with landed := s.landed.filter (fun p => lineLt (lineSub m 1) p.line) }
  | none => s

/-! ## Pages -/

/-- Page context `n`. -/
def State.page (s : State) (n : Nat) : PageCtx := sget (fun _ => {}) s.pages n

/-- The state with page context `n` set. -/
def State.setPage (s : State) (n : Nat) (x : PageCtx) : State :=
  { s with pages := sset (fun _ => {}) s.pages n x }

/-- Line `l` lies between the first and the last printed line of a page whose lines are fixed. -/
def pageHas (x : PageCtx) (l : Nat) : Bool :=
  x.lfirst != 0xFFFFFFFF && 2 ≤ x.state && x.state ≤ 4 && lineLe x.lfirst l && lineLe l x.llast

/-- The page context that printed line `l` belongs to. -/
def State.pageOfLine (s : State) (l : Nat) : Option Nat :=
  (s.pages.find? (fun e => pageHas e.2 l)).map (·.1)

/-- Page context `n` is flagged DEFECTIVE with a cause (R277, R403). -/
def State.flagPage (s : State) (n cause : Nat) : State :=
  let x := s.page n
  let s' := s.setPage n { x with
    defective := true, causes := x.causes ||| 2 ^ cause
    firstCause := if x.firstCause = 0 then cause + 1 else x.firstCause }
  if x.defective then s' else s'.notify 1 2 n

/-- The page of line `l`, if any, is flagged DEFECTIVE with a cause. -/
def State.flagLine (s : State) (l cause : Nat) : State :=
  match s.pageOfLine l with
  | some n => s.flagPage n cause
  | none => s

/-- Pages whose last line every row has fired end (R275, R405). -/
def State.endPages (s : State) : State :=
  (s.pages.filter (fun e => e.2.state == 3 && s.allFired e.2.llast)).foldl (fun s e =>
    ((s.setPage e.1 { s.page e.1 with state := 4 }).setBit R.BR_EVT F.BR_EVT_PAGEEND true).notify 1 1 e.1) s

/-! ## States of channels -/

/-- The rows in service are others than before: the snapshot line and the pages that have ended follow (R24, R275). In a safe
stop the grid stops with the channels (R306). -/
def State.serviceChanged (s : State) : State :=
  if s.running && !s.bit R.FAULT_STAT F.FAULT_STAT_SAFE then s.endPages.showSnap else s

/-- The trims of channel `h` move to their targets at once (R348). -/
def State.trimAtOnce (s : State) (h : Nat) : State :=
  let s := (s.setReg (R.CAL_HCh_NOW h) (s.reg (R.CAL_HCh_TRIM h))).setBit (R.CAL_HCh_STAT h) F.CAL_HCh_STAT_STEPPING false
  { s with cal := { s.cal with trims := sset (fun _ => {}) s.cal.trims h {} } }

/-- Channel `h` enters a state; the event of class 3 follows, and the datum row, BR_FMAX and what the rows in service decide
with it. The trims of a
channel that does not print follow their targets (R348). -/
def State.setHcState (s : State) (h v : Nat) : State :=
  let s := if v = 2 ∨ v = 3 then s else s.trimAtOnce h
  let s := s.setFld (R.HC_STAT h) F.HC_STAT_STATE v
  let m := s.fld R.FAULT_STAT F.FAULT_STAT_HCRET
  let m := m - (m &&& 2 ^ h)
  let s := s.setFld R.FAULT_STAT F.FAULT_STAT_HCRET (if v = 4 ∨ v = 5 then m ||| 2 ^ h else m)
  (s.notify 3 v h).refreshDatum.refreshFmax.serviceChanged

/-! ## The page sequence -/

/-- The contexts that were armed and not aborted, by the serial of their arming, lowest first. -/
def insertSerial (p : Nat × Nat) : List (Nat × Nat) → List (Nat × Nat)
  | [] => [p]
  | q :: t => if p.1 < q.1 then p :: q :: t else q :: insertSerial p t

/-- The page sequence: arming serial and context number of every context that is Armed, Printing or Done (R405). -/
def State.pageOrder (s : State) : List (Nat × Nat) :=
  (s.pages.filter (fun e => 2 ≤ e.2.state && e.2.state ≤ 4)).foldl
    (fun l e => insertSerial (e.2.serial, e.1) l) []

/-- The context that follows arming serial `n` in the page sequence. -/
def State.nextInOrder (s : State) (n : Nat) : Option (Nat × Nat) := s.pageOrder.find? (fun e => decide (n < e.1))

end Sys2Proof.Machine
end

