-- ==== Sys2Proof/Machine/Grid.lean ====
section
/-! DEFINITION. The line grid as it stands (R268): grid positions, row offsets and fire positions (R269), and the
ladders designated on it (R325, R326). -/

namespace Sys2Proof.Machine

/-- The steps of the grid that `n` core clock cycles take: one each at 800 MHz, 4/3 at 600 MHz, and 5/4 while the cycles are
stretched (R421 to R423). -/
def State.coreTicks (s : State) (n : Nat) : Nat :=
  if s.bit R.CLKPWR_STAT F.CLKPWR_STAT_CORE600 then n * 4 / 3
  else if s.bit R.CLKPWR_STAT F.CLKPWR_STAT_STRETCH then n * 5 / 4 else n

/-- The grid position of line `l` in 2^-16 dot: fixed, or counted at one dot from the last fixed line (R268, R273). -/
def State.gridPos (s : State) (l : Nat) : Int :=
  match s.br.grid.find? (fun g => g.line == l) with
  | some g => g.pos
  | none =>
    match s.br.grid with
    | g :: _ => g.pos + 65536 * lineDist l g.line
    | [] => 65536 * lineDist l s.br.firstLine

/-- Line `l` is blank for overspeed (R280). -/
def State.blankLine (s : State) (l : Nat) : Bool := s.br.grid.any (fun g => g.line == l && g.blank)

/-- BR_STAT.STATE (R263): 0 Off, 1 Direct, 2 Acquire, 3 Locked. -/
def State.loopState (s : State) : Nat := s.fld R.BR_STAT F.BR_STAT_STATE

/-- φ now (R269): it moves evenly through the update in progress. -/
def State.phiNow (s : State) : Int :=
  if s.br.updAt + 800 ≤ s.now then s.br.phi
  else s.br.phi0 + Int.fdiv ((s.br.phi - s.br.phi0) * (s.now - s.br.updAt : Nat)) 800

/-- The quotient of integers rounded to the nearest, halves upward. -/
def roundHalfUp (a b : Int) : Int := (2 * a + b) / (2 * b)

/-- The offset of a row with delay `d`, phase `p` and stretch factor `f`, in 1/64 dot (R269). -/
def offsetOf (d : Nat) (p f : Int) : Int := roundHalfUp ((64 * (d : Int) + p) * (2 ^ 20 + f)) (2 ^ 20)

/-- The offset of row `r` of channel `h` for line `l` (R269). -/
def State.rowOffset (s : State) (h r l : Nat) : Int :=
  offsetOf (s.fldFor (rowReg h r) F.BR_ROWU_DELAY l) (sext 16 (s.fldFor (rowReg h r) F.BR_ROWU_PHASE l))
    (sext 16 (s.fldFor R.BR_STRETCH F.BR_STRETCH_S l))

/-- The fire position of line `l` on a row, in 1/64 dot (R269). -/
def State.firePos (s : State) (h r l : Nat) : Int := roundHalfUp (s.gridPos l) 1024 + s.rowOffset h r l

/-- The band of ladder `x` that line `l` lies in (R325). -/
def ladderBand (x : Ladder) (l : Nat) : Option Nat :=
  let o := lineDist l x.l0
  let p := x.bandH + x.gap
  if o < 0 ∨ p = 0 then none
  else
    let n := o.toNat
    if n / p < 32 ∧ n % p < x.bandH then some (n / p) else none

/-- The ladder and band that line `l` is designated for (R325). -/
def State.ladderAt (s : State) (l : Nat) : Option (Ladder × Nat) :=
  s.br.ladders.findSome? (fun x => (ladderBand x l).map (fun b => (x, b)))

/-- Line `l` prints a ladder: designated, and on no page (R187). -/
def State.ladderLine (s : State) (l : Nat) : Option (Ladder × Nat) :=
  if (s.pageOfLine l).isSome then none else s.ladderAt l

/-- Whether band `b` gives its level to head column `c` of row `r` of channel `h` (R326). -/
def ladderNozzle (b h r c : Nat) : Bool :=
  decide (h % 2 = b / 16 ∧ r = b % 16 / 8 ∧ c % 8 = b % 8)

end Sys2Proof.Machine
end

