-- ==== Sys2Proof/Machine/Codec.lean ====
section
/-! DEFINITION. The codec's format: block headers (R136), sample packing (R137, R138), raw payloads (R139) and the
coded bitstream, read and written (R140 to R147). -/

namespace Sys2Proof.Machine

/-! ## Formats -/

/-- The coding constants of a sample format (R137): bits, M, A0 and KMAX. -/
structure FmtConst where
  bits : Nat
  m : Nat
  a0 : Nat
  kmax : Nat
deriving DecidableEq, Repr

/-- The constants of FMT 0x0 to 0x3. -/
def fmtConst (fmt : Nat) : FmtConst :=
  if fmt = 2 then ⟨2, 4, 1, 1⟩ else if fmt = 3 then ⟨12, 4096, 64, 11⟩ else ⟨8, 256, 4, 7⟩

/-- Original bytes of a line (R137). -/
def lineBytes (fmt width : Nat) : Nat :=
  if fmt = 2 then (width + 3) / 4 else if fmt = 3 then 2 * width else width

/-- The samples of a line's bytes (R138). -/
def unpackLine (fmt width : Nat) (l : List Byte) : List Nat :=
  (List.range width).map (fun x =>
    if fmt = 2 then leAt l (x / 4) 1 / 4 ^ (x % 4) % 4
    else if fmt = 3 then leAt l (2 * x) 2 % 4096
    else leAt l x 1)

/-- The bytes of a line's samples (R138). -/
def packLine (fmt : Nat) (l : List Nat) : List Byte :=
  if fmt = 2 then
    (List.range ((l.length + 3) / 4)).map (fun i =>
      BitVec.ofNat 8 (((List.range 4).map (fun j => l.getD (4 * i + j) 0 % 4 * 4 ^ j)).sum))
  else if fmt = 3 then l.flatMap (leBytes 2)
  else l.map (BitVec.ofNat 8)

/-- A number rounded up to a multiple of 4. -/
def up4 (n : Nat) : Nat := (n + 3) / 4 * 4

/-! ## Headers -/

/-- The fields of a block header (R136). -/
def parseHeader (l : List Byte) : BlockHeader :=
  { type := leAt l 2 1 % 16, fmt := leAt l 2 1 / 16, flushed := (leAt l 3 1).testBit 0
    line0 := leAt l 4 4, x0 := leAt l 8 2, width := leAt l 10 2, lines := leAt l 12 2, page := leAt l 14 1
    paylen := leAt l 16 4 }

/-- SYNC and HCRC are right (R136). -/
def headerSound (l : List Byte) : Bool :=
  decide (24 ≤ l.length) && decide (leAt l 0 2 = 0x7A5C) && decide (leAt l 20 4 = crc32c (l.take 20))

/-- ORIGLEN of a block (R138). -/
def origLen (h : BlockHeader) : Nat := lineBytes h.fmt h.width * h.lines

/-- The other fields of a header are as R136 and R151 allow. -/
def headerFields (l : List Byte) : Bool :=
  let h := parseHeader l
  decide (leAt l 3 1 < 2) && decide (leAt l 15 1 = 0) &&
    (if h.type = 3 then decide (h.lines = 0 ∧ h.paylen = 0)
     else
       decide ((h.type = 1 ∨ h.type = 2) ∧ h.fmt ≤ 2 ∧ 1 ≤ h.width ∧ h.width ≤ 16384 ∧ 1 ≤ h.lines ∧
         4 ≤ h.paylen ∧ h.paylen ≤ 65536 ∧ h.paylen % 4 = 0 ∧ origLen h ≤ 65536) &&
         (h.type == 1 || h.paylen == up4 (origLen h)))

/-- The bytes of a header (R136). -/
def headerBytes (h : BlockHeader) : List Byte :=
  let l := leBytes 2 0x7A5C ++ leBytes 1 (h.type + 16 * h.fmt) ++ leBytes 1 (if h.flushed then 1 else 0) ++
    leBytes 4 h.line0 ++ leBytes 2 h.x0 ++ leBytes 2 h.width ++ leBytes 2 h.lines ++ leBytes 1 h.page ++ leBytes 1 0 ++
    leBytes 4 h.paylen
  l ++ leBytes 4 (crc32c l)

/-! ## The coder -/

/-- The median edge predictor (R142). -/
def medPredict (a b c : Nat) : Int :=
  if max a b ≤ c then (min a b : Nat) else if c ≤ min a b then (max a b : Nat) else (a : Int) + b - c

/-- The bin of a difference (R143). -/
def diffBin (d : Int) : Nat :=
  if d ≤ -128 then 0 else if d ≤ -64 then 1 else if d ≤ -32 then 2 else if d ≤ -16 then 3 else if d ≤ -8 then 4
  else if d ≤ -4 then 5 else if d ≤ -2 then 6 else if d ≤ -1 then 7 else if d ≤ 0 then 8 else if d ≤ 1 then 9
  else if d ≤ 3 then 10 else if d ≤ 7 then 11 else if d ≤ 15 then 12 else if d ≤ 31 then 13 else if d ≤ 63 then 14
  else 15

/-- The context of a sample (R143). -/
def sampleContext (a b c : Nat) : Nat := 16 * diffBin ((b : Int) - c) + diffBin ((c : Int) - a)

/-- The smallest k with N·2^k ≥ A, at most `cap` (R145). -/
def riceK (a n : Nat) : Nat → Nat → Nat
  | 0, k => k
  | fuel + 1, k => if a ≤ n * 2 ^ k then k else riceK a n fuel (k + 1)

/-- A pair (A, N) after a coded value (R145). -/
def updatePair (p : Nat × Nat) (v : Nat) : Nat × Nat :=
  if p.2 + 1 = 64 then ((p.1 + v) / 2, 32) else (p.1 + v, p.2 + 1)

/-- The coder's pairs: the contexts, and the run pair (R145). -/
structure Coder where
  ctxs : List (Nat × (Nat × Nat))
  run : Nat × Nat
deriving DecidableEq, Repr

/-- The coder at the start of a block. -/
def Coder.start : Coder := ⟨[], (8, 1)⟩

/-- The pair of a context. -/
def Coder.pair (c : Coder) (f : FmtConst) (x : Nat) : Nat × Nat := sget (fun _ => (f.a0, 1)) c.ctxs x

/-- The coder after value `v` in context `x`. -/
def Coder.next (c : Coder) (f : FmtConst) (x v : Nat) : Coder :=
  { c with ctxs := sset (fun _ => (f.a0, 1)) c.ctxs x (updatePair (c.pair f x) v) }

/-- The coder after a run of length `r`. -/
def Coder.nextRun (c : Coder) (r : Nat) : Coder := { c with run := updatePair c.run r }

/-- The parameter k of a context and of a run. -/
def Coder.k (c : Coder) (f : FmtConst) (x : Nat) : Nat := riceK (c.pair f x).1 (c.pair f x).2 f.kmax 0
def Coder.runK (c : Coder) : Nat := riceK c.run.1 c.run.2 14 0

/-! ## Bits -/

/-- The bits of a byte list, the first bit in bit 7 (R140). -/
def toBits (l : List Byte) : List Bool := l.flatMap (fun b => [7, 6, 5, 4, 3, 2, 1, 0].map b.getLsbD)

/-- A number's low `n` bits, most significant first. -/
def natBits (n v : Nat) : List Bool := (List.range n).map (fun i => v.testBit (n - 1 - i))

/-- The number that bits spell, most significant first. -/
def bitsNat (l : List Bool) : Nat := l.foldl (fun n b => 2 * n + (if b then 1 else 0)) 0

/-- Whole bytes from bits; a missing rest is filled with zeros. -/
def fromBits : Nat → List Bool → List Byte
  | 0, _ => []
  | n + 1, l => BitVec.ofNat 8 (bitsNat ((l.take 8) ++ List.replicate (8 - (l.take 8).length) false)) ::
      fromBits n (l.drop 8)

/-- `n` bits read. -/
def readBits (n : Nat) (l : List Bool) : Option (Nat × List Bool) :=
  if n ≤ l.length then some (bitsNat (l.take n), l.drop n) else none

/-- Zero bits before the first one bit; more than 24 fail (R147). -/
def readZeros : Nat → Nat → List Bool → Option (Nat × List Bool)
  | 0, _, _ => none
  | _ + 1, _, [] => none
  | _ + 1, z, true :: t => some (z, t)
  | fuel + 1, z, false :: t => readZeros fuel (z + 1) t

/-- A value read with parameter `k` and escape width `e` (R146). -/
def readValue (k e : Nat) (l : List Bool) : Option (Nat × List Bool) :=
  (readZeros 25 0 l).bind (fun p =>
    if p.1 < 24 then (readBits k p.2).map (fun q => (p.1 * 2 ^ k + q.1, q.2)) else readBits e p.2)

/-- A value written with parameter `k` and escape width `e` (R146). -/
def writeValue (k e v : Nat) : List Bool :=
  if v / 2 ^ k < 24 then List.replicate (v / 2 ^ k) false ++ true :: natBits k v
  else List.replicate 24 false ++ true :: natBits e v

/-! ## Decoding -/

/-- A sample read in regular mode (R144, R147): the sample, the coder and the bits left; none on a stream failure. -/
def readSample (f : FmtConst) (brk : Bool) (a b c : Nat) (st : Coder) (bits : List Bool) :
    Option (Nat × Coder × List Bool) :=
  let x := sampleContext a b c
  (readValue (st.k f x) f.bits bits).bind (fun p =>
    let m := if brk && x = 136 then p.1 + 1 else p.1
    if f.m ≤ m then none
    else
      let e : Int := if m % 2 = 0 then (m / 2 : Nat) else -(((m + 1) / 2 : Nat) : Int)
      some (((medPredict a b c + e) % f.m).toNat, st.next f x p.1, p.2))

/-- A line read from the bits (R147): `above` are the samples of the line above from column x on, `a` and `c` the left
neighbour and the one above it, `out` the samples so far, last first. -/
def readRow (f : FmtConst) : Nat → List Nat → Nat → Nat → List Nat → Coder → List Bool →
    Option (List Nat × Coder × List Bool)
  | 0, _, _, _, out, st, bits => some (out.reverse, st, bits)
  | _ + 1, [], _, _, out, st, bits => some (out.reverse, st, bits)
  | fuel + 1, b :: above, a, c, out, st, bits =>
    if a = b ∧ b = c then
      (readValue st.runK 15 bits).bind (fun p =>
        let r := p.1
        let st := st.nextRun r
        if above.length + 1 < r then none
        else
          let out := List.replicate r a ++ out
          let c := if r = 0 then c else (b :: above).getD (r - 1) 0
          match (b :: above).drop r with
          | [] => some (out.reverse, st, p.2)
          | b' :: rest =>
            (readSample f true a b' c st p.2).bind (fun q =>
              readRow f fuel rest q.1 b' (q.1 :: out) q.2.1 q.2.2))
    else
      (readSample f false a b c st bits).bind (fun q =>
        readRow f fuel above q.1 b (q.1 :: out) q.2.1 q.2.2)

/-- The lines of a coded payload (R147): the samples of each line, and the bits left. -/
def readRows (f : FmtConst) (width : Nat) : Nat → List Nat → Coder → List Bool →
    Option (List (List Nat) × List Bool)
  | 0, _, _, bits => some ([], bits)
  | n + 1, above, st, bits =>
    (readRow f width above 0 0 [] st bits).bind (fun p =>
      (readRows f width n p.1 p.2.1 p.2.2).map (fun q => (p.1 :: q.1, q.2)))

/-- The original of a coded payload, none on a stream failure: the payload ends at the next 32-bit boundary after the
last code, and its fill bits are 0 (R140, R147). -/
def decodeCoded (fmt width lines : Nat) (payload : List Byte) : Option (List Byte) :=
  (readRows (fmtConst fmt) width lines (List.replicate width 0) Coder.start (toBits payload)).bind (fun p =>
    if p.2.length < 32 && p.2.all (fun b => !b) then some (p.1.flatMap (packLine fmt)) else none)

/-- The original of a raw payload, none where a pad byte or pad bit is not 0 (R139, R151). -/
def decodeRaw (fmt width lines : Nat) (payload : List Byte) : Option (List Byte) :=
  let n := lineBytes fmt width * lines
  let lineOk := fun i => packLine fmt (unpackLine fmt width (slice payload (i * lineBytes fmt width)
    (lineBytes fmt width))) == slice payload (i * lineBytes fmt width) (lineBytes fmt width)
  if (payload.drop n).all (fun b => b == 0) && (List.range lines).all lineOk then some (payload.take n) else none

/-! ## Encoding -/

/-- A sample written in regular mode (R144). -/
def writeSample (f : FmtConst) (brk : Bool) (a b c s : Nat) (st : Coder) : List Bool × Coder :=
  let x := sampleContext a b c
  let e0 := ((s : Int) - medPredict a b c) % f.m
  let e := if e0 < ((f.m / 2 : Nat) : Int) then e0 else e0 - f.m
  let m := if 0 ≤ e then (2 * e).toNat else (-2 * e - 1).toNat
  let v := if brk && x = 136 then m - 1 else m
  (writeValue (st.k f x) f.bits v, st.next f x v)

/-- How many samples of a line, from its front, equal `a`. -/
def runLength (a : Nat) : List Nat → Nat
  | [] => 0
  | s :: t => if s = a then runLength a t + 1 else 0

/-- A line written as bits (R147). -/
def writeRow (f : FmtConst) : Nat → List Nat → List Nat → Nat → Nat → Coder → List Bool × Coder
  | 0, _, _, _, _, st => ([], st)
  | _ + 1, [], _, _, _, st => ([], st)
  | fuel + 1, s :: row, above, a, c, st =>
    let b := above.headD 0
    if a = b ∧ b = c then
      let r := runLength a (s :: row)
      let w := writeValue st.runK 15 r
      let st := st.nextRun r
      let c := if r = 0 then c else above.getD (r - 1) 0
      match (s :: row).drop r with
      | [] => (w, st)
      | s' :: rest =>
        let b' := (above.drop r).headD 0
        let (w1, st) := writeSample f true a b' c s' st
        let (w2, st) := writeRow f fuel rest (above.drop (r + 1)) s' b' st
        (w ++ w1 ++ w2, st)
    else
      let (w1, st) := writeSample f false a b c s st
      let (w2, st) := writeRow f fuel row above.tail s b st
      (w1 ++ w2, st)

/-- The lines of a block written as bits. -/
def writeRows (f : FmtConst) : List (List Nat) → List Nat → Coder → List Bool
  | [], _, _ => []
  | row :: t, above, st =>
    let (w, st) := writeRow f row.length row above 0 0 st
    w ++ writeRows f t row st

/-- The coded payload of lines of samples, filled with zeros to a multiple of 32 bits (R140). -/
def encodeCoded (fmt width : Nat) (rows : List (List Nat)) : List Byte :=
  let bits := writeRows (fmtConst fmt) rows (List.replicate width 0) Coder.start
  fromBits ((bits.length + 31) / 32 * 4) bits

end Sys2Proof.Machine
end

