-- ==== Sys2Proof/Machine/SafeStop.lean ====
section
/-! DEFINITION. Stopping units: the halt of a DMA channel (R98), the retirement of a head channel (R228), the end of the
line grid (R271), and the safe stop, which uses them all (R305, R306). -/

namespace Sys2Proof.Machine

/-! ## DMA channels -/

/-- Channel `n`. -/
def State.ch (s : State) (n : Nat) : DmaChan := sget (fun _ => {}) s.dma.chans n

/-- The state with channel `n` set. -/
def State.setCh (s : State) (n : Nat) (x : DmaChan) : State :=
  { s with dma := { s.dma with chans := sset (fun _ => {}) s.dma.chans n x } }

/-- DMA_CHn_STAT.STATE (R83): 0 Disabled, 1 Idle, 2 Running, 3 Draining, 4 Paused, 5 Halted, 6 Aborting. -/
def State.dmaState (s : State) (n : Nat) : Nat := s.fld (R.DMA_CHn_STAT n) F.DMA_CHn_STAT_STATE

/-- Channel `n` put into a state. -/
def State.setDmaState (s : State) (n v : Nat) : State := s.setFld (R.DMA_CHn_STAT n) F.DMA_CHn_STAT_STATE v

/-- HEAD and FETCH of channel `n`. -/
def State.dmaHead (s : State) (n : Nat) : Nat := s.fld (R.DMA_CHn_HEAD n) F.DMA_CHn_HEAD_HEAD
def State.dmaFetch (s : State) (n : Nat) : Nat := s.fld (R.DMA_CHn_HEAD n) F.DMA_CHn_HEAD_FETCH

/-- The number of descriptors of the ring of channel `n`. -/
def State.ringSize (s : State) (n : Nat) : Nat := 2 ^ s.fld (R.DMA_CHn_RING_HI n) F.DMA_CHn_RING_HI_SIZE_LOG2

/-- The base of the ring of channel `n`. -/
def State.ringBase (s : State) (n : Nat) : Nat :=
  s.fld (R.DMA_CHn_RING_HI n) F.DMA_CHn_RING_HI_BASE_HI * 2 ^ 32 +
    s.fld (R.DMA_CHn_RING_LO n) F.DMA_CHn_RING_LO_BASE_LO * 32

/-- The chip address of descriptor `i` of channel `n` (R75). -/
def State.descAddr (s : State) (n i : Nat) : Nat := s.ringBase n + 32 * (i % s.ringSize n)

/-- The engine is enabled and the channel is not asked to pause; DMA_CTRL.EN 0 acts as PAUSE (R109). -/
def State.dmaPaused (s : State) (n : Nat) : Bool :=
  s.bit (R.DMA_CHn_CTRL n) F.DMA_CHn_CTRL_PAUSE || !s.bit R.DMA_CTRL F.DMA_CTRL_EN

/-- Bursts of a channel that are outstanding: issued, not answered, not waiting for a retry (R86, R87). -/
def outstanding (x : DmaChan) : Nat := (x.bursts.filter (fun b => !b.okd && !b.retry)).length

/-- The index that marks recompute bursts, which belong to no descriptor of the ring (R293). -/
def recompIdx : Nat := 0xFFFF

/-- The index that marks bursts held until arrival whose descriptor is returned, and late bursts written again: no
descriptor of the ring counts them any more (R87, R94). -/
def lateIdx : Nat := 0xFFFE

/-- The indices that mark descriptor fetches and write-backs, which are bursts of their channel too (R89, R99). -/
def fetchIdx : Nat := 0xFFFD
def backIdx : Nat := 0xFFFC

/-- Channel `n` goes to Idle, or to Running when it holds a descriptor. -/
def State.dmaIdleOrRun (s : State) (n : Nat) : State :=
  s.setDmaState n (if (s.ch n).held.isEmpty then 1 else 2)

/-! ## Halt of a DMA channel -/

/-- The payload of events 0x30 and 0x31 (R108). -/
def dmaEventPayload (n code idx bytes tag : Nat) : List Byte :=
  leBytes 1 n ++ leBytes 1 code ++ leBytes 2 idx ++ leBytes 4 bytes ++ leBytes 4 tag ++ leBytes 4 0

/-- The link port of the events of channel `n`: LINKPORT (R108), and port 0 in ×8 mode, which carries all events (R36).
EVTPORT names the port of an event that no rule gives a port, and there is none (log entry on R36). -/
def State.dmaPort (s : State) (n : Nat) : Nat :=
  if s.link.mode = 0 then 0 else s.fld (R.DMA_CHn_CFG n) F.DMA_CHn_CFG_LINKPORT

/-- Bytes of the descriptor in progress that are not completed in order (R92); 0 for an invalid one (R77). -/
def dmaRemain (x : DmaChan) : Nat :=
  match x.held with
  | d :: _ => if d.valid then d.len - d.inOrder else 0
  | [] => 0

/-- The payload of event 0x40 (R126): the first failing chip address, and the length of the range from there to the end of
the descriptor, both in whole blocks. -/
def resendPayload (n a stop : Nat) : List Byte :=
  let first := a / 64 * 64
  leBytes 5 first ++ leBytes 3 0 ++ leBytes 4 ((stop - first + 63) / 64 * 64) ++ leBytes 1 n ++ leBytes 3 0

/-- CC1 asks the host for the data of a hamlet-fetch channel again that DRAM failed to read (R126). -/
def State.askResend (s : State) (n cause : Nat) : State :=
  match (s.ch n).dramFail, (s.ch n).held with
  | some (a, _), d :: _ =>
    if 8 ≤ n ∧ n < 16 ∧ (cause = 1 ∨ cause = 4) then
      s.sendEvent (s.dmaPort n) 0x40 (resendPayload n a (d.src + d.len))
    else s
  | _, _ => s

/-- Channel `n` is Halted with a cause (R98, R107, R108, R126): the event bit, events 0x31 and 0x40, and the entry of the
retirement. -/
def State.dmaHalt (s : State) (n cause : Nat) : State :=
  let x := s.ch n
  let atEnable := cause = 5 || cause = 6
  let (idx, rem, tag) := match x.held with
    | d :: _ => if atEnable then (s.dmaHead n, 0, 0) else (d.idx, dmaRemain x, d.tag)
    | [] => (s.dmaHead n, 0, 0)
  let s := s.setCh n { x with haltDue := 0 }
  let s := (s.setDmaState n 5).setFld (R.DMA_CHn_STAT n) F.DMA_CHn_STAT_HALT_CAUSE cause
  let s := s.orFld R.DMA_HALT_EVT F.DMA_HALT_EVT_CH n
  let s := s.logFault { level := 3, kind := 2, unit := n, src := 2, cause := cause }
  (s.sendEvent (s.dmaPort n) 0x31 (dmaEventPayload n cause idx rem tag)).askResend n cause

/-- A halt of channel `n`, which is not Disabled, Halted or Aborting, is due (R84): at once with no burst outstanding, else
after the last is answered. The lowest cause is reported (R98). -/
def State.haltWhenAnswered (s : State) (n cause : Nat) : State :=
  let x := s.ch n
  let c := if x.haltDue = 0 then cause else min x.haltDue cause
  if s.dmaState n = 0 ∨ 4 < s.dmaState n then s
  else if outstanding x = 0 then s.dmaHalt n c
  else s.setCh n { x with haltDue := c }

/-- The safe stop halts a channel that is Idle, Running, Draining or Paused (R84, R306). -/
def State.dmaSafeStop (s : State) (n : Nat) : State :=
  let st := s.dmaState n
  if 1 ≤ st ∧ st ≤ 4 then s.haltWhenAnswered n 7 else s

/-! ## Retirement of a head channel -/

/-- Frames of channel `h` are dropped without being fired: the fire events of code frames stay with no ejecting fire (R228,
R477). A table frame that is being shifted goes on. -/
def State.dropFrames (s : State) (h : Nat) : State :=
  let x := s.hc h
  let open_ := x.formed ++ x.shifting.toList ++ x.rowU.latched.toList ++ x.rowD.latched.toList
  let gone := fun e : EjectRec => open_.any (fun f => !f.table && f.row == e.row && f.line == e.line)
  s.setHc h { x with
    formed := [], shifting := x.shifting.filter (·.table)
    hist := x.hist.map (fun e => if gone e then { e with cols := [] } else e)
    rowU := { x.rowU with latched := none, due := [] }, rowD := { x.rowD with latched := none, due := [] } }

/-- Channel `h` drives nothing more (R228, R231): its frames of both kinds are dropped, and a group of scan lines ends. -/
def State.stopDrive (s : State) (h : Nat) : State :=
  let s := s.dropFrames h
  let x := s.hc h
  let s := s.setHc h { x with
    shifting := none, tables := [], lr := none, scan := { x.scan with left := 0, heldEdge := none } }
  if x.scan.heldEdge.isSome then s.setFld (R.HC_SCAN_PTR h) F.HC_SCAN_PTR_PEND 0 else s

/-- Head channel `h` is retired with a cause (R228): it drives nothing more, and the retirement makes its entry. A
temperature trip (cause 3) leaves it Cooling (R225). -/
def State.retireHc (s : State) (h cause : Nat) : State :=
  let s := s.stopDrive h
  let s := s.setFld (R.HC_STAT h) F.HC_STAT_RCAUSE cause
  let s := s.setBit (R.HC_EVT h) F.HC_EVT_RETIRED true
  let s := s.setHcState h (if cause = 3 then 5 else 4)
  s.logFault { level := 1, kind := 2, unit := h, src := 7, cause := cause }

/-- Channel `h` is Idle, Printing or Warming (R231). -/
def State.hcActive (s : State) (h : Nat) : Bool := decide (1 ≤ s.hcState h ∧ s.hcState h ≤ 3)

/-! ## The line grid -/

/-- BR_CTRL.RUN goes to 0 (R271): no row fires any more, the channels that printed are Idle, no pass starts, and
Printing gives way to Ready (R414). -/
def State.stopGrid (s : State) : State :=
  let s := if s.power = 3 then s.setPower 2 else s
  let s := (s.setBit R.BR_CTRL F.BR_CTRL_RUN false).setBit R.BR_STAT F.BR_STAT_RUNNING false
  let s := (s.setBit R.BR_STAT F.BR_STAT_PAGEACT false).setBit R.BR_STAT F.BR_STAT_DIRINH false
  allHc.foldl (fun s h =>
    if s.scanPaced h then s
    else
      let s := s.dropFrames h
      if s.hcState h = 2 then (s.setHc h { s.hc h with lr := none }).setHcState h 1 else s) s

/-! ## Axes -/

/-- Axis `n`. -/
def State.ax (s : State) (n : Nat) : AxisSt := sget (fun _ => {}) s.axes n

/-- The state with axis `n` set. -/
def State.setAx (s : State) (n : Nat) (x : AxisSt) : State := { s with axes := sset (fun _ => {}) s.axes n x }

/-- The STATE of axis `n` (R373): 0 Disabled, 1 Idle, 2 Moving, 3 Stopping, 4 Homing, 5 Geared, 6 Faulted. -/
def State.axState (s : State) (n : Nat) : Nat := s.fld (R.MOT_AXn_STAT n) F.MOT_AXn_STAT_STATE

/-- An axis is to start its safe-stop action at the next update, unless it is Disabled or Faulted or has none (R374). -/
def State.axSafeStop (s : State) (n : Nat) : State :=
  if s.axState n = 0 ∨ s.axState n = 6 ∨ s.fld (R.MOT_AXn_CTRL n) F.MOT_AXn_CTRL_SSACT = 3 then s
  else s.setAx n { s.ax n with safe := true }

/-! ## Commit groups -/

/-- The ramp of the tone curves that was armed and has not begun is taken back (R188): its targets are the starts again. -/
def State.undoTone (s : State) : State :=
  (List.range 4).foldl (fun s k =>
    let s := (List.range 12672).foldl (fun s i => s.setBytes (toneAddr k i + 16) (s.bytes (toneAddr k i) 16)) s
    s.setHam k { s.ham k with toneOpen := false }) s

/-- The ramp of gains and kernel that was armed and has not begun is taken back (R188). -/
def State.undoGain (s : State) : State :=
  let s := (List.range 101376).foldl (fun s g => s.setByte (nozAddr g + 2) (s.byte (nozAddr g + 1))) s
  (List.range 4).foldl (fun s k =>
    (s.setReg (R.WEAVER_KERNEL k) (s.reg (R.WEAVER_KERNEL_START k))).setHam k { s.ham k with gainOpen := false }) s

/-- The switch of a comb that was armed and has not begun is taken back (R217). -/
def State.undoComb (s : State) (h : Nat) : State :=
  let b := 1 - s.fld (R.HC_COMBSEL h) F.HC_COMBSEL_BANK
  let s := (s.setReg (R.HC_COMBLINE h) 0xFFFFFFFF#32).setBit (R.HC_STAT h) F.HC_STAT_COMBPEND false
  s.setHc h { s.hc h with tables := (s.hc h).tables.filter (· != b) }

/-- An item of an armed group whose line has not come is taken back, where it changed a table (R397). -/
def State.undoItem (s : State) (line : Nat) (i : Staged) : State :=
  match i.table with
  | some (.tone _) => s.undoTone
  | some (.gain _) => s.undoGain
  | some (.mask _) => (List.range 4).foldl (fun s k => s.setReg (R.WEAVER_MASKLINE k) 0xFFFFFFFF#32) s
  | some (.comb h) => s.undoComb (h % 24)
  | some (.scan j) =>
    let x := s.hc (22 + j % 2)
    s.setHc (22 + j % 2) { x with scan := { x.scan with
      images := x.scan.images.filter (fun e => e.1 != line || e.2 != i.value) } }
  | some .readmit => { s with weaver := { s.weaver with
      readmit := s.weaver.readmit.filter (fun e => e.2 != line || !(words32 i.value).contains e.1) } }
  | _ =>
    match Config.fieldObject i.index i.sub with
    | some o => if (List.range 4).any (fun k => o.addr == R.WEAVER_KERNEL k) then s.undoGain else s
    | none => s

/-- What a group that is Armed for a line has done to tables and queues is taken back (R394, R397, R398). -/
def State.undoGroup (s : State) (k : Nat) (g : Group) : State :=
  let s := if g.state = 2 ∧ g.wait.isNone then g.items.foldl (fun s i => s.undoItem g.line i) s else s
  if g.state ≤ 2 then { s with pend := s.pend.filter (fun p => p.group != k) }
  else { s with pend := s.pend.map (fun p => if p.group = k then { p with group := 0 } else p) }

/-- Commit group `k` is freed (R394). -/
def State.freeGroup (s : State) (k : Nat) : State :=
  let s := match s.eth.groups.find? (fun e => e.1 == k) with
    | some e => s.undoGroup k e.2
    | none => s
  State.notify { s with
    eth := { s.eth with
      groups := s.eth.groups.filter (fun e => e.1 != k)
      xfers := s.eth.xfers.filter (fun x => x.handle != k) } } 2 0 k

/-- A safe stop frees every Open and Armed group with an entry (R394). -/
def State.stopGroups (s : State) : State :=
  (s.eth.groups.filter (fun e => e.2.state ≤ 2)).foldl (fun s e =>
    (s.freeGroup e.1).logFault { level := 3, kind := 5, unit := 0, src := 0x0B, cause := Config.logCause 0x0B 1 }) s

/-! ## Safe stop -/

/-- The printing page and every armed context are flagged DEFECTIVE with cause SAFESTOP and aborted (R306, R405). -/
def State.abortPages (s : State) : State :=
  (s.pages.filter (fun e => e.2.state == 2 || e.2.state == 3)).foldl (fun s e =>
    let s := s.flagPage e.1 5
    s.setPage e.1 { s.page e.1 with state := 5 }) s

/-- A trigger of safe stop with its SSCAUSE (R305, R306). -/
def State.safeStop (s : State) (cause : Nat) : State :=
  if s.bit R.FAULT_STAT F.FAULT_STAT_SAFE then
    s.logFault { level := 3, kind := 5, unit := 0, src := 0x0B, cause := cause }
  else
    let s := (s.setBit R.FAULT_STAT F.FAULT_STAT_SAFE true).setFld R.FAULT_STAT F.FAULT_STAT_SSCAUSE cause
    let s := s.logFault { level := 3, kind := 6, unit := 0, src := 0x0B, cause := cause }
    let s := allHc.foldl (fun s h => if s.hcActive h then s.retireHc h 5 else s) s
    let s := s.stopGrid
    let s := (List.range 32).foldl State.dmaSafeStop s
    let s := s.abortPages.stopGroups
    let s := (List.range 4).foldl State.axSafeStop s
    let s := [0, 1].foldl (fun s p => s.sendEvent p 0x50 (leBytes 1 cause)) s
    s.setBit R.FAULT_EVT F.FAULT_EVT_SAFESTOP true

end Sys2Proof.Machine
end

