-- ==== Sys2Proof/Machine/Granary.lean ====
section
/-! DEFINITION. Granary: the decode of DRAM addresses, the request queues and their scheduling, the check of every
burst, command errors, the initialisation fill and self-refresh (R110 to R135). -/

namespace Sys2Proof.Machine

/-! ## Configuration and addresses -/

/-- The first chip address of DRAM (R27, R112). -/
def dramBase : Nat := 0x8000000000

/-- Capacity of a channel in bytes by GRANARY_CTRL (R110). -/
def channelBytes (density ranks : Nat) : Nat := 2 ^ (32 + density + ranks)

/-- Installed capacity in bytes (R110, R112). -/
def State.dramBytes (s : State) : Nat :=
  let c := channelBytes (s.fld R.GRANARY_CTRL F.GRANARY_CTRL_DENSITY) (s.fld R.GRANARY_CTRL F.GRANARY_CTRL_RANKS)
  if s.bit R.GRANARY_CTRL F.GRANARY_CTRL_CHMODE then c else 2 * c

/-- Whether channel `c` is populated (R112). -/
def State.chanUsed (s : State) (c : Nat) : Bool := c == 0 || !s.bit R.GRANARY_CTRL F.GRANARY_CTRL_CHMODE

/-- Where a DRAM address lies (R113). -/
structure DramPlace where
  ch : Nat
  rank : Nat
  bg : Nat
  ba : Nat
  row : Nat
  col : Nat
deriving DecidableEq, Repr

/-- The channel and the channel address L of DRAM offset `a`: interleaved, A[8] selects the channel and is removed
(R113). -/
def chanAddr (single : Bool) (a : Nat) : Nat × Nat :=
  if single then (0, a) else (a / 256 % 2, a / 512 * 256 + a % 256)

/-- The decode of channel address `l` (R113). -/
def decodeL (ch : Nat) (twoRanks : Bool) (rowBits l : Nat) : DramPlace :=
  { ch := ch
    rank := if twoRanks then l / 2 ^ 17 % 2 else 0
    bg := l / 2 ^ 8 % 4
    ba := l / 2 ^ 15 % 4
    row := (if twoRanks then l / 2 ^ 18 else l / 2 ^ 17) % 2 ^ rowBits
    col := l / 2 ^ 10 % 32 * 32 + l / 2 ^ 6 % 4 * 8 }

/-- The place of a chip address in DRAM under the configuration of GRANARY_CTRL (R110, R113). -/
def State.place (s : State) (addr : Nat) : DramPlace :=
  let (ch, l) := chanAddr (s.bit R.GRANARY_CTRL F.GRANARY_CTRL_CHMODE) (addr - dramBase)
  decodeL ch (s.bit R.GRANARY_CTRL F.GRANARY_CTRL_RANKS) (15 + s.fld R.GRANARY_CTRL F.GRANARY_CTRL_DENSITY) l

/-- The bank of a place within its channel. -/
def DramPlace.bank (p : DramPlace) : Nat := p.rank * 16 + p.bg * 4 + p.ba

/-- The CRC-64 of a burst: its 64 bytes and the four bytes of L[33:6] (R114). -/
def State.burstCrc (s : State) (addr : Nat) (data : List Byte) : Wide :=
  let l := (chanAddr (s.bit R.GRANARY_CTRL F.GRANARY_CTRL_CHMODE) (addr - dramBase)).2
  crc64 (data ++ leBytes 4 (l / 64 % 2 ^ 28))

/-- The eight beats of a burst on a channel: data byte lane j of beat b carries byte 8·b + j, and the check lane, the last,
bits [8·b + 7 : 8·b] of the CRC-64 (R114). -/
def burstBeats (data : List Byte) (crc : Wide) : List (List Byte) :=
  (List.range 8).map (fun b => slice data (8 * b) 8 ++ [(crc >>> (8 * b)).setWidth 8])

/-- The data bytes and the check value that eight beats carry (R114). -/
def beatsData (beats : List (List Byte)) : List Byte := beats.flatMap (fun l => l.take 8)
def beatsCrc (beats : List (List Byte)) : Wide := BitVec.ofNat 64 (leNat (beats.flatMap (fun l => l.drop 8)))

/-- 64 DDR clock periods in steps of the 1.25 ns grid, rounded up, by GRANARY_CTRL.RATE (R111, R123). -/
def ddr64 (rate : Nat) : Nat := if rate = 0 then 43 else if rate = 1 then 39 else if rate = 2 then 35 else 32

/-! ## State of the channels -/

/-- The state of channel `c`. -/
def State.chan (s : State) (c : Nat) : DramChan := sget (fun _ => {}) s.granary.chans c

/-- The state with channel `c` set. -/
def State.setChan (s : State) (c : Nat) (x : DramChan) : State :=
  { s with granary := { s.granary with chans := sset (fun _ => {}) s.granary.chans c x } }

/-- The field of GRANARY_STAT with the state of channel `c`. -/
def chStateField (c : Nat) : Field := if c = 0 then F.GRANARY_STAT_CH0STATE else F.GRANARY_STAT_CH1STATE

/-- The state code of channel `c` (R135). -/
def State.chState (s : State) (c : Nat) : Nat := s.fld R.GRANARY_STAT (chStateField c)

/-- Channel `c` put into a state. -/
def State.setChState (s : State) (c v : Nat) : State := s.setFld R.GRANARY_STAT (chStateField c) v

/-- The populated channels put into a state. -/
def State.setChStates (s : State) (v : Nat) : State :=
  let s := if s.chanUsed 0 then s.setChState 0 v else s
  if s.chanUsed 1 then s.setChState 1 v else s

/-- A range added to a rising list of disjoint ranges. -/
def addRange (lo hi : Nat) : List (Nat × Nat) → List (Nat × Nat)
  | [] => [(lo, hi)]
  | (a, b) :: t =>
    if hi < a then (lo, hi) :: (a, b) :: t
    else if b < lo then (a, b) :: addRange lo hi t
    else addRange (min lo a) (max hi b) t

/-- The block at chip address `addr` carries a valid CRC-64 (R117). -/
def State.blockValid (s : State) (addr : Nat) : Bool :=
  s.dramValid.any (fun r => decide (r.1 ≤ (addr - dramBase) / 64 ∧ (addr - dramBase) / 64 < r.2))

/-- A burst written to a block: the block holds the data that its beats carry, and is valid where their check value is
the CRC-64 of the block (R114, R117). -/
def State.putBlock (s : State) (addr : Nat) (beats : List (List Byte)) : State :=
  let b := (addr - dramBase) / 64
  let d := beatsData beats
  if beatsCrc beats = s.burstCrc addr d then
    { s.setBytes (dramBase + 64 * b) d with dramValid := addRange b (b + 1) s.dramValid }
  else s.setBytes (dramBase + 64 * b) d

/-! ## The delay table in force -/

/-- Word `i` of the delay RAM (R130). -/
def State.delayWord (s : State) (i : Nat) : Nat := (sget (fun _ => (0 : Word)) s.granary.delay i).toNat

/-- EXT of temperature band `b` for channel `c`: 2× refresh (R121, R130). -/
def State.bandExt (s : State) (b c : Nat) : Bool := (s.delayWord (3 + 74 * b + 37 * c)).testBit 16

/-- The VrefDQ codes of temperature band `b` for the devices of channel `c`, by rank and byte lane (R129, R130). -/
def State.bandVref (s : State) (b c : Nat) : List Nat :=
  (List.range (if s.bit R.GRANARY_CTRL F.GRANARY_CTRL_RANKS then 18 else 9)).map (fun i =>
    s.delayWord (5 + 74 * b + 37 * c + 2 * i) / 256 % 128)

/-- tREFI of channel `c` in steps of the grid: 7.8 µs, and 3.9 µs where the band in force has EXT (R121). -/
def State.refreshInterval (s : State) (c : Nat) : Nat := if (s.chan c).ext then 3120 else 6240

/-! ## Errors -/

/-- An entry of the error FIFO; a full FIFO drops it and keeps OVF for the next (R128, R135). -/
def State.dramEntry (s : State) (c type req addr : Nat) : State :=
  let p := s.place addr
  let e : DramErr := ⟨type, c, p.rank, s.granary.ovf, req, p.bg, p.ba, addr, p.row, p.col, (s.chan c).band⟩
  if s.granary.errFifo.length < 16 then
    { s with granary := { s.granary with errFifo := s.granary.errFifo ++ [e], ovf := false } }
  else ({ s with granary := { s.granary with ovf := true } }).setBit R.GRANARY_EVT F.GRANARY_EVT_LOGOVF true

/-- An error of a request: the counters and event bits of its kind, an entry of the fault log and one of the error
FIFO, and the threshold (R115, R116, R123, R127, R128). -/
def State.dramError (s : State) (c type req addr : Nat) : State :=
  let s := if type = 1 then
      (s.count (R.GRANARY_CHc_RDERR c) F.GRANARY_CHc_RDERR_COUNT 1).orFld R.GRANARY_EVT F.GRANARY_EVT_RDERR c
    else if type = 4 then
      (s.count (R.GRANARY_CHc_RMWERR c) F.GRANARY_CHc_RMWERR_COUNT 1).setBit R.GRANARY_EVT F.GRANARY_EVT_RMWERR true
    else s
  let s := s.logFault { level := 3, kind := 0, unit := c, src := 3, cause := type, detail := (s.place addr).row }
  let s := s.dramEntry c type req addr
  let w := ms (s.fld R.GRANARY_ERR_THR F.GRANARY_ERR_THR_WINDOW)
  let old := recent s.now w (s.chan c).errStamps
  let m := s.fld R.GRANARY_ERR_THR F.GRANARY_ERR_THR_ERRMAX
  let was := (s.chan c).above && decide (m < old.length)
  let new := (s.now :: old).take 1024
  let s := s.setChan c { s.chan c with errStamps := new, above := decide (m < new.length) }
  if decide (m < new.length) && !was then
    let s := s.setBit R.GRANARY_EVT F.GRANARY_EVT_THRESH true
    (s.logFault { level := 3, kind := 1, unit := c, src := 3, cause := 0x10 }).safeStop 2
  else s

/-! ## Requests -/

/-- The split of an access at chip address `a` of `n` bytes into block parts: block address, offset, length (R118). -/
def splitBlocks : Nat → Nat → Nat → List (Nat × Nat × Nat)
  | 0, _, _ => []
  | fuel + 1, a, n =>
    if n = 0 then []
    else
      let off := a % 64
      let k := min n (64 - off)
      (a - off, off, k) :: splitBlocks fuel (a + k) (n - k)

/-- A request enters the queue of its channel; with 128 requests in it, or while the channel takes none, it is held at
the interconnect (R118, R120, R133, R134). -/
def State.enqueue (s : State) (q : DramReq) : State :=
  let c := (s.place q.addr).ch
  let x := s.chan c
  let closed := 4 ≤ s.chState c
  if closed || !x.held.isEmpty || decide (128 ≤ x.queue.length) then s.setChan c { x with held := x.held ++ [q] }
  else s.setChan c { x with queue := x.queue ++ [q] }

/-- Held requests move into the queue of channel `c` while there is room and the channel takes requests (R120). -/
def State.admitHeld (s : State) (c : Nat) : State :=
  let x := s.chan c
  if 4 ≤ s.chState c then s
  else
    let n := 128 - x.queue.length
    s.setChan c { x with queue := x.queue ++ x.held.take n, held := x.held.drop n }

/-- The exit from self-refresh starts: REQ 0, the DDR PLL relocks (R133, R134). -/
def State.startSrExit (s : State) : State :=
  let s := s.setBit R.GRANARY_SR F.GRANARY_SR_REQ false
  let s := s.setBit R.GRANARY_SR F.GRANARY_SR_IN_SR false
  let s := if s.chState 0 = 5 then s.setChState 0 6 else s
  if s.chState 1 = 5 then s.setChState 1 6 else s

/-- Channel `c` is ready: its rows are closed, ZQCL has run, VrefDQ and the refresh rate are those of the band in force,
its refreshes fall due tREFI apart, those of two ranks offset by half of it, and it serves the held requests; a
self-refresh that was asked for meanwhile is entered (R121, R122, R129, R133). -/
def State.channelReady (s : State) (c : Nat) : State :=
  let b := (s.chan c).band
  let s := s.setChan c { s.chan c with rows := [], zqCal := true, ext := s.bandExt b c, vref := s.bandVref b c }
  let t := s.refreshInterval c
  let s := s.setChan c { s.chan c with refAt0 := s.now + t, refAt1 := s.now + t + t / 2 }
  if s.bit R.GRANARY_SR F.GRANARY_SR_REQ then s.setChState c 4 else (s.setChState c 2).admitHeld c

/-- Whether Granary refuses requests: in self-refresh with AUTOWAKE 0 (R134). -/
def State.dramAsleep (s : State) : Bool :=
  s.bit R.GRANARY_SR F.GRANARY_SR_IN_SR && !s.bit R.GRANARY_SR F.GRANARY_SR_AUTOWAKE

/-- An access of a requester enters Granary, block by block under one number; self-refresh is left for it (R118,
R134). The number of the access is answered with the state. -/
def State.dramSubmit (s : State) (req addr n : Nat) (data : Option (List Byte)) : Nat × State :=
  let id := s.granary.nextId
  let s := { s with granary := { s.granary with nextId := id + 1 } }
  let s := if s.bit R.GRANARY_SR F.GRANARY_SR_IN_SR then s.startSrExit else s
  let parts := splitBlocks (n / 64 + 2) addr n
  (id, parts.foldl (fun s p =>
    let rel := p.1 + p.2.1 - addr
    s.enqueue { id := id, part := rel, req := req, addr := p.1, off := p.2.1, len := p.2.2
                data := data.map (fun d => slice d rel p.2.2), bypass := 0 }) s)

/-- An answer of Granary kept for its requester. -/
def State.answer (s : State) (d : DramDone) : State :=
  { s with granary := { s.granary with answers := s.granary.answers ++ [d] } }

/-- A burst of channel `n` waits for answers to access `id`. -/
def State.burstWaits (s : State) (n id : Nat) : Bool :=
  (s.ch n).bursts.any (fun b => b.rd == some id || b.wr == some id)

/-- Granary's answers to access `id`. -/
def State.answersOf (s : State) (id : Nat) : List DramDone := s.granary.answers.filter (fun d => d.id == id)

/-- Granary's answers without those to access `id`. -/
def State.dropAnswers (s : State) (id : Option Nat) : State :=
  match id with
  | none => s
  | some i => { s with granary := { s.granary with answers := s.granary.answers.filter (fun d => d.id != i) } }

/-- The data of a read in block parts, put together. -/
def assemble (n : Nat) (l : List DramDone) : List Byte :=
  (l.foldl (fun acc d => (acc.take d.part) ++ d.data ++ acc.drop (d.part + d.data.length)) (List.replicate n 0))

/-- The number of blocks of a DRAM access. -/
def blockCount (a n : Nat) : Nat := (splitBlocks (n / 64 + 2) a n).length

/-- The payload of event 0x10: the refused chip address (R49). -/
def refusedPayload (addr : Nat) : List Byte := leBytes 5 addr ++ List.replicate 11 0

/-- A write of a requester other than DMA has one block less to arrive; after the last, the requester is answered: an
error response, and for the link host event 0x10 and an entry (R49, R124, R125). -/
def State.writePartDone (s : State) (id : Nat) (ok : Bool) : State :=
  match s.granary.writes.find? (fun w => w.id == id) with
  | none => s
  | some w =>
    let w' := { w with missing := w.missing - 1, failed := w.failed || !ok }
    let rest := s.granary.writes.filter (fun w => w.id != id)
    if w'.missing = 0 then
      let s := { s with granary := { s.granary with writes := rest } }
      if w.req = 0x24 then
        if w'.failed then
          (s.sendEvent w.port 0x10 (refusedPayload w.addr)).logFault
            { level := 3, kind := 5, unit := 8 + w.port, src := 1, cause := 0x21 }
        else s
      else { s with resp := some ⟨w.req, !w'.failed, []⟩ }
    else { s with granary := { s.granary with writes := w' :: rest } }

/-- A block of the fill has been written, or is to be written again (R125). -/
def State.fillBlock (s : State) (addr : Nat) (ok : Bool) : State :=
  if ok then s
  else { s with granary := { s.granary with fillRedo := s.granary.fillRedo ++ [(addr - dramBase) / 64] } }

/-- A request of Granary ends: a read is answered with its data or an error, a write has arrived or failed. -/
def State.finishReq (s : State) (q : DramReq) (ok : Bool) (data : List Byte) : State :=
  let d : DramDone := ⟨q.id, q.part, q.data.isSome, ok, data, q.addr + q.off⟩
  if s.granary.sync = some q.id then s.answer d
  else if q.req < 0x20 then (if s.burstWaits q.req q.id then s.answer d else s)
  else if q.req = 0x28 then s.fillBlock q.addr ok
  else if q.data.isSome then s.writePartDone q.id ok
  else if q.req = 0x24 then s.answer d
  else { s with resp := some ⟨q.req, ok, data⟩ }

/-- The reads of a block that wait behind a failed write fail with it, up to the next write of the block (R119). -/
def failBehind (addr : Nat) : List DramReq → List DramReq × List DramReq
  | [] => ([], [])
  | q :: t =>
    if q.addr = addr then
      match q.data with
      | none => let (k, f) := failBehind addr t; (k, q :: f)
      | some _ => (q :: t, [])
    else let (k, f) := failBehind addr t; (q :: k, f)

/-- A write of channel `c` fails: it counts as not arrived, and the reads behind it, in the queue or held at the
interconnect, fail with it (R119, R123). -/
def State.failWrite (s : State) (c : Nat) (q : DramReq) : State :=
  let x := s.chan c
  let (keep, bad) := failBehind q.addr x.queue
  let open_ := !keep.any (fun e => e.addr == q.addr)
  let (held, late) := if open_ then failBehind q.addr x.held else (x.held, [])
  let s := s.setChan c { x with queue := keep, held := held }
  let s := s.finishReq q false []
  ((bad ++ late).foldl (fun s b => s.finishReq b false []) s).admitHeld c

/-! ## Command slots -/

/-- The bank and row of a request, and whether its row is open. -/
def State.rowHit (s : State) (c : Nat) (q : DramReq) : Bool :=
  let p := s.place q.addr
  (s.chan c).rows.any (fun e => e.1 == p.bank && e.2 == p.row)

/-- The index of the first entry that satisfies `f`. -/
def firstIdx {α : Type} (f : α → Bool) : List α → Option Nat
  | [] => none
  | q :: t => if f q then some 0 else (firstIdx f t).map (· + 1)

/-- The index of the request to be issued next (R118): the oldest that 32 younger requests have bypassed, else the
oldest row hit, else the oldest. -/
def State.chooseReq (s : State) (c : Nat) (l : List DramReq) : Nat :=
  match firstIdx (fun q => decide (32 ≤ q.bypass)) l with
  | some i => i
  | none => (firstIdx (s.rowHit c) l).getD 0

/-- Channel `c` applies a pending change of temperature band, its delays, VrefDQ codes and EXT in one step, and then owes
a ZQCS; with both channels changed, BANDCHG is set (R131). -/
def State.applyBand (s : State) (c : Nat) : State :=
  if s.bit R.GRANARY_STAT F.GRANARY_STAT_BANDPEND && (s.chan c).band != s.granary.bandTarget then
    let b := s.granary.bandTarget
    let s := s.setChan c { s.chan c with
      band := b, zqOwed := (s.chan c).zqOwed + 1, ext := s.bandExt b c, vref := s.bandVref b c }
    let other := 1 - c
    if !s.chanUsed other || (s.chan other).band == s.granary.bandTarget then
      let s := s.setFld R.GRANARY_STAT F.GRANARY_STAT_BAND s.granary.bandTarget
      (s.setBit R.GRANARY_STAT F.GRANARY_STAT_BANDPEND false).setBit R.GRANARY_EVT F.GRANARY_EVT_BANDCHG true
    else s
  else s

/-- A refresh of rank `k` of channel `c` is issued: its banks are precharged, and all banks where a change of band waits
for it (R121, R131). -/
def State.refreshRank (s : State) (c k : Nat) : State :=
  let x := s.chan c
  let pend := s.bit R.GRANARY_STAT F.GRANARY_STAT_BANDPEND && x.band != s.granary.bandTarget
  let s := s.setChan c { x with
    owed0 := if k = 0 then x.owed0 - 1 else x.owed0
    owed1 := if k = 0 then x.owed1 else x.owed1 - 1
    rows := if pend then [] else x.rows.filter (fun e => e.1 / 16 != k)
    refreshed := (k, s.now) :: x.refreshed.filter (fun e => e.1 != k)
    forced := x.forced && decide (1 < x.owed0 + x.owed1) }
  s.applyBand c

/-- What a burst that comes back from DRAM holds, when its CRC-64 is right: the stored block, valid since Granary wrote
it, or the beats that are seen instead, checked against the check value that they carry (R114, R115). -/
def State.checkedBurst (s : State) (addr : Nat) (seen : Option (List (List Byte))) : Option (List Byte) :=
  match seen with
  | none => if s.blockValid addr then some (s.bytes addr 64) else none
  | some l =>
    if (beatsData l).length = 64 ∧ s.burstCrc addr (beatsData l) = beatsCrc l then some (beatsData l) else none

/-- The new bytes of a partial write merged into a block (R116). -/
def mergeBlock (old new : List Byte) (off : Nat) : List Byte := old.take off ++ new ++ old.drop (off + new.length)

/-- A whole block goes to the devices, with its CRC-64 (R114), and counts as in flight until it has arrived. -/
def State.sendBurst (s : State) (c : Nat) (q : DramReq) (block : List Byte) : State :=
  s.setChan c { s.chan c with flight := (s.chan c).flight ++
    [{ q with off := 0, data := some block, since := s.now, crc := s.burstCrc q.addr block }] }

/-- A request is issued: its row is open from now on; a partial write reads, checks and merges first (R116). -/
def State.issue (s : State) (c : Nat) (q : DramReq) (seen : Option (List (List Byte))) : State :=
  let p := s.place q.addr
  let x := s.chan c
  let s := s.setChan c { x with rows := (p.bank, p.row) :: x.rows.filter (fun e => e.1 != p.bank) }
  match q.data with
  | none => s.setChan c { s.chan c with flight := (s.chan c).flight ++ [{ q with since := s.now }] }
  | some d =>
    if q.len = 64 then s.sendBurst c q d
    else
      match (s.chan c).flight.reverse.find? (fun f => f.addr == q.addr && f.data.isSome) with
      | some f => s.sendBurst c q (mergeBlock (f.data.getD []) d q.off)
      | none =>
        match s.checkedBurst q.addr seen with
        | some old => s.sendBurst c q (mergeBlock old d q.off)
        | none => (s.dramError c 4 q.req q.addr).failWrite c q

/-- The next block of the initialisation fill, where it lies in channel `c` and the queue has room, enters the queue like
every request (R117, R118). -/
def State.fillEnter (s : State) (c : Nat) : State :=
  let g := s.granary
  match g.fill with
  | none => s
  | some (_, hi) =>
    let b := g.fillRedo.headD g.fillNext
    let addr := dramBase + 64 * b
    if (s.chan c).queue.length < 128 ∧ (s.chan c).held.isEmpty ∧ (g.fillRedo ≠ [] ∨ g.fillNext < hi) ∧
        (s.place addr).ch = c then
      let s := { s with granary := { g with
        nextId := g.nextId + 1, fillRedo := g.fillRedo.tail
        fillNext := if g.fillRedo.isEmpty then g.fillNext + 1 else g.fillNext } }
      s.enqueue { id := g.nextId, part := 0, req := 0x28, addr := addr, off := 0, len := 64
                  data := some (List.replicate 64 0), bypass := 0 }
    else s

/-- A command slot of channel `c` (R118, R119, R121, R122): a forced refresh or an owed ZQ command first, then the chosen
request; with nothing queued, a postponed refresh. Granary issues nothing before its PLL is locked (R26). -/
def State.slot (s : State) (c : Nat) (seen : Option (List (List Byte))) : State :=
  if (s.chState c ≠ 2 ∧ s.chState c ≠ 4) ∨ !s.bit R.CLKPWR_STAT F.CLKPWR_STAT_DDRLOCK then s
  else
    let s := (s.admitHeld c).fillEnter c
    let x := s.chan c
    if x.forced || (x.queue.isEmpty && decide (0 < x.owed0 + x.owed1)) then
      s.refreshRank c (if 0 < x.owed0 then 0 else 1)
    else if 0 < x.zqOwed then s.setChan c { x with zqOwed := x.zqOwed - 1 }
    else
      let i := s.chooseReq c x.queue
      match x.queue[i]? with
      | none => s
      | some q =>
        let passed := (x.queue.take i).map (fun e => { e with bypass := e.bypass + 1 })
        let top := passed.foldl (fun m e => max m e.bypass) (s.fld (R.GRANARY_CHc_QUEUE c) F.GRANARY_CHc_QUEUE_MAXBYP)
        let s := s.setChan c { x with queue := passed ++ x.queue.drop (i + 1) }
        let s := s.setFld (R.GRANARY_CHc_QUEUE c) F.GRANARY_CHc_QUEUE_MAXBYP top
        (s.issue c q seen).admitHeld c

/-- COMMAND_SLOT (R118). -/
def execCommandSlot (c : Fin 2) (seen : Option (List (List Byte))) (s : State) : Host.Outcome State Fault Refusal :=
  .next (s.slot c seen)

/-- DRAM_REQUEST (R29, R118, R134): an access within one block; beyond the installed capacity, or in self-refresh with
AUTOWAKE 0, it is refused with an error response and an entry. -/
def execDramRequest (r : Requester) (addr len : Nat) (data : Option (List Byte)) (s : State) :
    Host.Outcome State Fault Refusal :=
  .next <|
    let n := match data with
      | some d => d.length
      | none => len
    if addr < dramBase || decide (dramBase + s.dramBytes < addr + n) || n = 0 || decide (64 < addr % 64 + n) then
      s.refuse r 1
    else if s.dramAsleep then
      (s.errResp r).logFault { level := 3, kind := 5, unit := reqCode r, src := 0x0C, cause := 4 }
    else
      let (id, s) := s.dramSubmit (reqCode r) addr n data
      if data.isSome && decide (0x20 ≤ reqCode r) then
        let port := match r with
          | .host p => p.val
          | _ => 0
        { s with granary := { s.granary with writes := ⟨id, reqCode r, port, addr, 1, false⟩ :: s.granary.writes } }
      else s

/-- 64 DDR clock periods have passed since the command of a request (R123, R124). -/
def State.clocksPassed (s : State) (q : DramReq) : Bool :=
  decide (q.since + ddr64 (s.fld R.GRANARY_CTRL F.GRANARY_CTRL_RATE) ≤ s.now)

/-- The oldest read in flight on channel `c` that satisfies `f` and that no older write of its block holds back is checked
and answered (R115, R119). -/
def State.readFinish (s : State) (c : Nat) (f : DramReq → Bool) (seen : Option (List (List Byte))) : State :=
  let x := s.chan c
  match takeFirst (fun q => q.data.isNone) x.flight with
  | none => s
  | some (q, rest) =>
    if !f q || (x.flight.takeWhile (fun e => e.data.isSome)).any (fun e => e.addr == q.addr) then s
    else
      let s := s.setChan c { x with flight := rest }
      match s.checkedBurst q.addr seen with
      | some d => s.finishReq q true (slice d q.off q.len)
      | none => (s.dramError c 1 q.req q.addr).finishReq q false []

/-- The oldest write in flight on channel `c`, where it satisfies `f`, has arrived (R124). -/
def State.writeFinish (s : State) (c : Nat) (f : DramReq → Bool) : State :=
  let x := s.chan c
  match takeFirst (fun q => q.data.isSome) x.flight with
  | none => s
  | some (q, rest) =>
    if !f q then s
    else
      let s := s.setChan c { x with flight := rest }
      (s.putBlock q.addr (burstBeats (q.data.getD []) q.crc)).finishReq q true []

/-- DRAM_READ_COMPLETE (R115, R119, R123): the data of a read are held until 64 DDR clock periods after its command. -/
def execDramReadComplete (c : Fin 2) (seen : Option (List (List Byte))) (s : State) :
    Host.Outcome State Fault Refusal :=
  .next (s.readFinish c s.clocksPassed seen)

/-- DRAM_WRITE_ARRIVAL (R124): a write has arrived 64 DDR clock periods after its command. -/
def execDramWriteArrival (c : Fin 2) (s : State) : Host.Outcome State Fault Refusal :=
  .next (s.writeFinish c s.clocksPassed)

/-- A device of channel `c` asserts ALERT_n (R123): every command of the last 64 DDR clock periods on the channel has
failed; all banks are precharged, MR5 is cleared and the channel resumes. -/
def State.commandError (s : State) (c : Nat) : State :=
  let x := s.chan c
  let w := ddr64 (s.fld R.GRANARY_CTRL F.GRANARY_CTRL_RATE)
  let redo := fun k => if x.refreshed.any (fun e => e.1 == k && decide (s.now ≤ e.2 + w)) then 1 else 0
  let bad := x.flight.filter (fun q => decide (s.now ≤ q.since + w))
  let s := s.setChan c { x with
    flight := x.flight.filter (fun q => !decide (s.now ≤ q.since + w)), rows := []
    owed0 := x.owed0 + redo 0, owed1 := x.owed1 + redo 1
    refreshed := x.refreshed.filter (fun e => decide (e.2 + w < s.now)) }
  let s := s.count (R.GRANARY_CHc_CAPAR c) F.GRANARY_CHc_CAPAR_COUNT 1
  let s := s.orFld R.GRANARY_EVT F.GRANARY_EVT_CAPAR c
  bad.foldl (fun s q =>
    match q.data with
    | none => (s.dramError c 2 q.req q.addr).finishReq q false []
    | some _ => (s.dramError c 3 q.req q.addr).failWrite c q) s

/-- ALERT_N (R123). -/
def execAlertN (c : Fin 2) (s : State) : Host.Outcome State Fault Refusal := .next (s.commandError c)

/-- REFRESH_TIMER (R121): at its interval, a rank of a running channel owes a refresh. It is issued at once when nothing
is queued; else it is postponed, by up to POSTPONE intervals, and then forced. -/
def execRefreshTimer (c rank : Fin 2) (s : State) : Host.Outcome State Fault Refusal :=
  .next <|
    let x := s.chan c
    let st := s.chState c
    let due := if rank.val = 0 then x.refAt0 else x.refAt1
    if (st ≠ 2 ∧ st ≠ 4) ∨ (rank.val = 1 ∧ !s.bit R.GRANARY_CTRL F.GRANARY_CTRL_RANKS) ∨ s.now < due then s
    else
      let t := s.refreshInterval c
      let o0 := if rank.val = 0 then x.owed0 + 1 else x.owed0
      let o1 := if rank.val = 1 then x.owed1 + 1 else x.owed1
      let m := min 4 (s.fld R.GRANARY_REF F.GRANARY_REF_POSTPONE)
      let s := s.setChan c { x with
        owed0 := o0, owed1 := o1, forced := x.forced || decide (m < max o0 o1)
        refAt0 := if rank.val = 0 then due + t else x.refAt0
        refAt1 := if rank.val = 1 then due + t else x.refAt1 }
      if x.queue.isEmpty then s.refreshRank c rank else s

/-- ZQCS_TIMER (R122): each running channel owes a ZQCS; a ZQINT of 0 disables it. -/
def execZqcsTimer (s : State) : Host.Outcome State Fault Refusal :=
  .next <|
    if s.fld R.GRANARY_REF F.GRANARY_REF_ZQINT = 0 then s
    else
      [0, 1].foldl (fun s c =>
        if s.chState c = 2 then s.setChan c { s.chan c with zqOwed := (s.chan c).zqOwed + 1 } else s) s

/-! ## Temperature bands -/

/-- The upper bound of band `b` in °C: byte `b` of words 1 and 2 of the delay table (R130). -/
def State.bandBound (s : State) (b : Nat) : Int := sext 8 (s.delayWord (1 + b / 4) / 256 ^ (b % 4))

/-- The number of temperature bands of the delay table. -/
def State.bandCount (s : State) : Nat := s.delayWord 0 / 256 % 16

/-- The lowest band whose upper bound is not below `t` in 1/16 °C, or the last (R131). -/
def State.bandOf (s : State) (t : Int) : Nat :=
  match (List.range (s.bandCount - 1)).find? (fun b => decide (t ≤ 16 * s.bandBound b)) with
  | some b => b
  | none => s.bandCount - 1

/-- The band that temperature `t` selects from the present one: a lower band only 2 °C below its upper bound
(R131). -/
def State.nextBand (s : State) (t : Int) : Nat :=
  let cur := s.granary.bandTarget
  let b := s.bandOf t
  if b < cur then
    match (List.range cur).find? (fun b' => decide (b ≤ b' ∧ t + 32 ≤ 16 * s.bandBound b')) with
    | some b' => b'
    | none => cur
  else b

/-- A new die temperature selects a band; a change waits for the next refresh of each channel (R131). -/
def State.sampleBand (s : State) (t : Int) : State :=
  if !s.bit R.GRANARY_CTRL F.GRANARY_CTRL_EN || s.bandCount = 0 then s
  else
    let b := s.nextBand t
    let s := { s with granary := { s.granary with bandTarget := b } }
    let pend := (s.chan 0).band != b || (s.chanUsed 1 && (s.chan 1).band != b)
    s.setBit R.GRANARY_STAT F.GRANARY_STAT_BANDPEND pend

/-! ## Enable, delay RAM, fill -/

/-- The configuration bits of GRANARY_CTRL, ignored by a write while EN is 1 (R135). -/
def granaryConfigMask : Word := 0xFE#32

/-- A write of `v` to GRANARY_CTRL (R129, R135): refused for 16 Gb with two ranks and for a clear of EN while printing;
EN from 0 to 1 starts the power-up sequence of every populated channel. -/
def State.granaryCtrlWrite (s : State) (r : Requester) (v : Word) : State :=
  let old := s.bit R.GRANARY_CTRL F.GRANARY_CTRL_EN
  let new := getField F.GRANARY_CTRL_EN v != 0
  let dens := getField F.GRANARY_CTRL_DENSITY v
  if !old && (dens = 3 || (dens = 2 && getField F.GRANARY_CTRL_RANKS v = 1)) then s.refuse r 5
  else if old && !new && s.anyPrinting then s.refuse r 4
  else
    let v := if old then (v &&& ~~~granaryConfigMask) ||| (s.reg R.GRANARY_CTRL &&& granaryConfigMask) else v
    let s := (s.writeByCodes R.GRANARY_CTRL v).written r
    if !old && new then
      [0, 1].foldl (fun s c => s.setChan c { s.chan c with initAt := s.now }) (s.setChStates 1)
    else if old && !new then
      [0, 1].foldl (fun s c => (s.setChState c 0).setChan c { s.chan c with
        rows := [], owed0 := 0, owed1 := 0, forced := false, zqOwed := 0, zqCal := false, ext := false, vref := [] }) s
    else s

/-- DDRc_RESETn of channel `c`: low while Granary is off and for 200 µs after EN, high after that; a channel that is not
populated keeps its reset state (R112, R129). -/
def State.ddrResetN (s : State) (c : Nat) : Bool :=
  s.chanUsed c && s.chState c != 0 && (s.chState c != 1 || decide ((s.chan c).initAt + us 200 ≤ s.now))

/-- DDRc_CKE of channel `c`: high 500 µs after DDRc_RESETn is released, and low in self-refresh (R129, R133). -/
def State.ddrCke (s : State) (c : Nat) : Bool :=
  s.chanUsed c && (s.chState c == 2 || s.chState c == 3 || s.chState c == 4 ||
    (s.chState c == 1 && decide ((s.chan c).initAt + us 700 ≤ s.now)))

/-- GRANARY_INIT (R129). -/
def execGranaryInit (r : Requester) (v : Word) (s : State) : Host.Outcome State Fault Refusal :=
  .next (s.granaryCtrlWrite r (putField F.GRANARY_CTRL_EN v 1))

/-- GRANARY_READY (R129): after the power-up sequence, at least 700 µs for DDRc_RESETn and CKE with the DDR PLL locked, the
channel is reported ready. -/
def execGranaryReady (c : Fin 2) (s : State) : Host.Outcome State Fault Refusal :=
  .next <|
    if s.chState c = 1 ∧ s.ddrCke c ∧ s.bit R.CLKPWR_STAT F.CLKPWR_STAT_DDRLOCK then s.channelReady c else s

/-- The word index of the delay RAM advances by 1 with an access (R135). -/
def State.advanceDelay (s : State) : State :=
  s.setFld R.GRANARY_DLY_ADDR F.GRANARY_DLY_ADDR_INDEX (s.fld R.GRANARY_DLY_ADDR F.GRANARY_DLY_ADDR_INDEX + 1)

/-- An access of GRANARY_DLY_DATA (R129, R130, R135): a write is ignored while EN is 1; the index advances. Words
above 595 do not exist: they read 0 and keep nothing. -/
def State.delayAccess (s : State) (r : Requester) (w : Option Word) : State :=
  let i := s.fld R.GRANARY_DLY_ADDR F.GRANARY_DLY_ADDR_INDEX
  match w with
  | some v =>
    let s := if s.bit R.GRANARY_CTRL F.GRANARY_CTRL_EN || decide (595 < i) then s
      else { s with granary := { s.granary with delay := sset (fun _ => (0 : Word)) s.granary.delay i v } }
    s.advanceDelay.written r
  | none => s.advanceDelay.okResp r (leBytes 4 (s.delayWord i))

/-- DELAY_RAM_ACCESS (R130). -/
def execDelayRamAccess (r : Requester) (w : Option Word) (s : State) : Host.Outcome State Fault Refusal :=
  .next (s.delayAccess r w)

/-- A write of `v` to GRANARY_INIT_GO (R117, R134, R135): refused while printing; ignored while a fill runs; a range beyond
the installed capacity is refused with an entry of TYPE 0x5. A fill ends self-refresh like every request. -/
def State.initGoWrite (s : State) (r : Requester) (v : Word) : State :=
  let base := s.fld R.GRANARY_INIT_BASE_HI F.GRANARY_INIT_BASE_HI_BASE_HI * 2 ^ 32 +
    s.fld R.GRANARY_INIT_BASE_LO F.GRANARY_INIT_BASE_LO_BASE_LO * 65536
  let len := s.fld R.GRANARY_INIT_LEN F.GRANARY_INIT_LEN_UNITS * 65536
  if getField F.GRANARY_INIT_GO_GO v = 0 then s.written r
  else if s.bit R.GRANARY_STAT F.GRANARY_STAT_INITBUSY then s.written r
  else if s.anyPrinting then s.refuse r 4
  else if base < dramBase || len = 0 || decide (dramBase + s.dramBytes < base + len) then
    (s.dramEntry 0 5 0x28 base).refuse r 5
  else if s.dramAsleep then s.refuse r 4
  else
    let lo := (base - dramBase) / 64
    let s := { s with granary := { s.granary with
      fill := some (lo, lo + len / 64), fillNext := lo, fillRedo := [] } }
    let s := if s.bit R.GRANARY_SR F.GRANARY_SR_IN_SR then s.startSrExit else s
    (s.setBit R.GRANARY_STAT F.GRANARY_STAT_INITBUSY true).written r

/-- INIT_FILL (R117). -/
def execInitFill (r : Requester) (v : Word) (s : State) : Host.Outcome State Fault Refusal :=
  .next (s.initGoWrite r v)

/-- A request of the fill waits in channel `c`, or has not arrived. -/
def State.fillWaits (s : State) (c : Nat) : Bool :=
  let x := s.chan c
  (x.queue ++ x.held ++ x.flight).any (fun q => q.req == 0x28)

/-- The blocks from `lo` to `hi` and those of `redo` hold zeros with valid CRC-64 (R117). -/
def State.zeroDram (s : State) (lo hi : Nat) (redo : List Nat) : State :=
  { s with
    mem := s.mem.filter (fun e => !decide (dramBase + 64 * lo ≤ e.1 ∧ e.1 < dramBase + 64 * hi) &&
      !redo.any (fun b => decide (dramBase + 64 * b ≤ e.1 ∧ e.1 < dramBase + 64 * b + 64)))
    dramValid := redo.foldl (fun l b => addRange b (b + 1) l) (if lo < hi then addRange lo hi s.dramValid else s.dramValid) }

/-- INIT_FILL_DONE (R117): every block of the range holds zeros with valid CRC-64, those that have not entered the queues
before too, and INITDONE is set. The fill is not done while one of its requests waits or is in flight. -/
def execInitFillDone (s : State) : Host.Outcome State Fault Refusal :=
  .next <|
    match s.granary.fill with
    | none => s
    | some (_, hi) =>
      if s.fillWaits 0 || s.fillWaits 1 then s
      else
        let left := s.granary.fillNext
        let redo := s.granary.fillRedo
        let s := s.zeroDram left hi redo
        let s := { s with granary := { s.granary with fill := none, fillNext := 0, fillRedo := [] } }
        (s.setBit R.GRANARY_STAT F.GRANARY_STAT_INITBUSY false).setBit R.GRANARY_EVT F.GRANARY_EVT_INITDONE true

/-! ## Self-refresh -/

/-- Self-refresh is requested: Granary takes no new requests and issues what is queued (R133). -/
def State.startSrEntry (s : State) : State :=
  let s := s.setBit R.GRANARY_SR F.GRANARY_SR_REQ true
  let s := if s.chState 0 = 2 then s.setChState 0 4 else s
  if s.chState 1 = 2 then s.setChState 1 4 else s

/-- A write of `v` to GRANARY_SR (R133, R134). -/
def State.granarySrWrite (s : State) (v : Word) : State :=
  let s := s.writeByCodes R.GRANARY_SR v
  if getField F.GRANARY_SR_REQ v = 1 then s.startSrEntry
  else if s.bit R.GRANARY_SR F.GRANARY_SR_IN_SR then s.startSrExit
  else
    let s := if s.chState 0 = 4 then (s.setChState 0 2).admitHeld 0 else s
    if s.chState 1 = 4 then (s.setChState 1 2).admitHeld 1 else s

/-- SELF_REFRESH_REQUEST (R133). -/
def execSelfRefreshRequest (r : Requester) (v : Word) (s : State) : Host.Outcome State Fault Refusal :=
  .next ((s.granarySrWrite (putField F.GRANARY_SR_REQ v 1)).written r)

/-- Self-refresh may be entered: asked for, with the queues empty and nothing in flight (R133). -/
def State.srReady (s : State) : Bool :=
  let empty := fun c => (s.chan c).queue.isEmpty && (s.chan c).flight.isEmpty
  decide (s.chState 0 = 4 ∧ (s.chState 1 = 4 ∨ !s.chanUsed 1)) && empty 0 && empty 1

/-- Self-refresh is entered (R131, R133): all banks are precharged, each rank is refreshed, which applies a pending band,
clocks and DDR PLL stop. -/
def State.enterSelfRefresh (s : State) : State :=
  let s := [0, 1].foldl (fun s c =>
    let s := s.setChan c { s.chan c with rows := [], owed0 := 0, owed1 := 0, forced := false, zqCal := false }
    if s.chanUsed c then s.applyBand c else s) s
  let s := (s.setChStates 5).setBit R.GRANARY_SR F.GRANARY_SR_IN_SR true
  let s := s.setBit R.CLKPWR_STAT F.CLKPWR_STAT_DDRLOCK false
  if (s.chan 0).held.isEmpty && (s.chan 1).held.isEmpty then s
  else if s.bit R.GRANARY_SR F.GRANARY_SR_AUTOWAKE then s.startSrExit
  else s

/-- SELF_REFRESH_EXIT (R133): the exit runs until the DDR PLL has relocked (R26). -/
def execSelfRefreshExit (r : Requester) (v : Word) (s : State) : Host.Outcome State Fault Refusal :=
  .next ((s.granarySrWrite (putField F.GRANARY_SR_REQ v 0)).written r)

/-- The DDR PLL has locked: the channels that leave self-refresh raise CKE, apply a pending band, run ZQCL and serve
the held requests (R133, R134). -/
def State.finishSrExit (s : State) : State :=
  [0, 1].foldl (fun s c => if s.chState c = 6 then (s.applyBand c).channelReady c else s) s

/-! ## Accesses that are answered within their command -/

/-- Granary leaves self-refresh within the command, where an access has begun the exit (R134). -/
def State.wakeNow (s : State) : State :=
  if s.chState 0 = 6 ∨ s.chState 1 = 6 then (s.setBit R.CLKPWR_STAT F.CLKPWR_STAT_DDRLOCK true).finishSrExit else s

/-- One turn of channel `c` for an access that is answered within its command: a command slot, then the answer of a read
and the arrival of a write. The burst that comes back and ALERT_n are free. -/
def State.turn (s : State) (c : Nat) : State :=
  let k := s.freeCtr
  let s := (s.drawn.slot c (Config.burstSeen k)).drawn
  let s := if Config.alertSeen k then s.commandError c else s
  (s.readFinish c (fun _ => true) (Config.burstSeen (k + 1))).writeFinish c (fun _ => true)

/-- The channels run until access `id` of `parts` blocks is answered. -/
def State.serveAccess : Nat → Nat → Nat → State → State
  | 0, _, _, s => s
  | fuel + 1, id, parts, s =>
    if (s.answersOf id).length = parts then s else State.serveAccess fuel id parts ((s.turn 0).turn 1)

/-- An access that was not answered, as its channel does not run, is withdrawn. -/
def State.withdraw (s : State) (id : Nat) : State :=
  [0, 1].foldl (fun s c =>
    let x := s.chan c
    let f := fun l : List DramReq => l.filter (fun q => q.id != id)
    s.setChan c { x with queue := f x.queue, held := f x.held, flight := f x.flight }) s

/-- A DRAM access of a requester enters the queues and is answered within its command (R118): the answers to its blocks. -/
def State.dramServe (s : State) (req addr n : Nat) (data : Option (List Byte)) : List DramDone × State :=
  let (id, s) := s.dramSubmit req addr n data
  let s := { s with granary := { s.granary with sync := some id } }
  let parts := blockCount addr n
  let waiting := ((s.chan 0).queue ++ (s.chan 0).held ++ (s.chan 0).flight ++ (s.chan 1).queue ++ (s.chan 1).held ++
    (s.chan 1).flight).length
  let s := State.serveAccess (4 * waiting + 32) id parts s.wakeNow
  let l := s.answersOf id
  (l, { ((s.dropAnswers (some id)).withdraw id) with granary :=
    { ((s.dropAnswers (some id)).withdraw id).granary with sync := none } })

/-! ## Error FIFO and derived registers -/

/-- Words 0 to 3 of the oldest entry of the error FIFO, 0 when it is empty (R128, R135). -/
def State.errlogWord (s : State) (w : Nat) : Word :=
  match s.granary.errFifo with
  | [] => 0
  | e :: _ =>
    if w = 0 then
      BitVec.ofNat 32 (e.type + 16 * e.ch + 32 * e.rank + (if e.ovf then 64 else 0) + 256 * e.req + 65536 * e.bg +
        262144 * e.ba)
    else if w = 1 then BitVec.ofNat 32 e.addr
    else if w = 2 then BitVec.ofNat 32 (e.addr / 2 ^ 32 % 256 + 256 * e.row)
    else BitVec.ofNat 32 (e.col + 4096 * e.band)

/-- A read of GRANARY_ERRLOG3 removes the oldest entry (R135). -/
def State.popErrlog (s : State) (r : Requester) : State :=
  let w := s.errlogWord 3
  ({ s with granary := { s.granary with errFifo := s.granary.errFifo.tail } }).okResp r (leBytes 4 w.toNat)

/-- GRANARY_ERRLOG_POP (R135). -/
def execGranaryErrlogPop (r : Requester) (s : State) : Host.Outcome State Fault Refusal :=
  .next (s.popErrlog r)

/-- GRANARY_CHc_QUEUE as it reads: the occupancy beside the highest bypass count (R135). -/
def State.queueWord (s : State) (c : Nat) : Word :=
  putField F.GRANARY_CHc_QUEUE_OCC (s.reg (R.GRANARY_CHc_QUEUE c)) (s.chan c).queue.length

end Sys2Proof.Machine
end

