-- ==== Sys2Proof/Machine/AddressMap.lean ====
section
/-! DEFINITION. The address map (R27 to R30): its regions, what protects them, and the FIFO apertures that it holds. -/

namespace Sys2Proof.Machine

/-- A mapped region of the 40-bit address space (R27). -/
inductive Region where
  | shared
  | line (k : Nat)
  | comp
  | regs
  | dram
deriving DecidableEq, Repr

/-- The region that holds a chip address; none for a reserved address, a line-SRAM window address above 3 MiB, and
DRAM above the installed capacity (R27, R29). -/
def State.region (s : State) (a : Nat) : Option Region :=
  if a < 0x200000 then some .shared
  else if 0x1000000 ≤ a && a < 0x2000000 then
    if (a - 0x1000000) % 0x400000 < 0x300000 then some (.line ((a - 0x1000000) / 0x400000)) else none
  else if 0x2000000 ≤ a && a < 0x2200000 then some .comp
  else if 0x100000000 ≤ a && a < 0x200000000 then some .regs
  else if dramBase ≤ a && a < dramBase + s.dramBytes then some .dram
  else none

/-- A range of addresses lies in one region. -/
def State.rangeRegion (s : State) (a n : Nat) : Option Region :=
  match s.region a with
  | some g => if s.region (a + (n - 1)) = some g then some g else none
  | none => none

/-- The last addresses of the regions of the address map, the reserved ones among them (R27). -/
def regionEnds : List Nat :=
  [0x1FFFFF, 0xFFFFFF, 0x12FFFFF, 0x13FFFFF, 0x16FFFFF, 0x17FFFFF, 0x1AFFFFF, 0x1BFFFFF, 0x1EFFFFF, 0x1FFFFFF,
    0x21FFFFF, 0xFFFFFFFF, 0x1FFFFFFFF, 0x7FFFFFFFFF, 0x87FFFFFFFF, 0xFFFFFFFFFF]

/-- A range of addresses crosses the end of a region of the address map (R27, R77). -/
def crossesEnd (a n : Nat) : Bool := regionEnds.any (fun e => decide (a ≤ e ∧ e < a + (n - 1)))

/-- The decoder whose compressed-input area holds a chip address (R163, R164). -/
def apertureAt (a : Nat) : Option Nat :=
  if 0x1000000 ≤ a && a < 0x2000000 && (a - 0x1000000) % 0x400000 < 0x10000 then
    some (2 * ((a - 0x1000000) / 0x400000) + (a - 0x1000000) % 0x400000 / 0x8000)
  else none

/-- Why a write to memory is refused, by the causes of R475: 1 outside the map, 2 protected while printing (R29, R30).
DMA channels 8 to 15 write the compressed-input areas of their own decoders at all times. -/
def State.writeRefusal (s : State) (req a n : Nat) : Option Nat :=
  match s.rangeRegion a n with
  | none => some 1
  | some (.line _) =>
    if s.anyPrinting && !(decide (8 ≤ req ∧ req < 16) && apertureAt a == some (req - 8) &&
        apertureAt (a + (n - 1)) == some (req - 8)) then some 2 else none
  | some .comp => if s.anyPrinting then some 2 else none
  | some _ => none

/-- Decoder `d`. -/
def State.dec (s : State) (d : Nat) : DecoderSt := sget (fun _ => {}) s.miller.decs d

/-- The state with decoder `d` set. -/
def State.setDec (s : State) (d : Nat) (x : DecoderSt) : State :=
  { s with miller := { s.miller with decs := sset (fun _ => {}) s.miller.decs d x } }

/-- Encoder `e`. -/
def State.enc (s : State) (e : Nat) : EncoderSt := sget (fun _ => {}) s.miller.encs e

/-- The state with encoder `e` set. -/
def State.setEnc (s : State) (e : Nat) (x : EncoderSt) : State :=
  { s with miller := { s.miller with encs := sset (fun _ => {}) s.miller.encs e x } }

/-- Camera port `n`. -/
def State.camPort (s : State) (n : Nat) : CamPort := sget (fun _ => {}) s.cam.ports n

/-- The state with camera port `n` set. -/
def State.setCamPort (s : State) (n : Nat) (x : CamPort) : State :=
  { s with cam := { s.cam with ports := sset (fun _ => {}) s.cam.ports n x } }

/-- The bytes of SRAM read by a requester: the compressed-input areas read 0 (R164). -/
def State.sramRead (s : State) (a n : Nat) : List Byte :=
  (List.range n).map (fun i => if (apertureAt (a + i)).isSome then 0 else s.byte (a + i))

/-- Bytes written to SRAM: a write within a compressed-input area appends to its decoder's input (R164). `src` is the
chip address that the bytes came from, where the engine moved them. -/
def State.sramWrite (s : State) (a : Nat) (l : List Byte) (src : Nat) : State :=
  match apertureAt a with
  | some d => s.setDec d { s.dec d with input := (s.dec d).input ++ [(src, l)] }
  | none => s.setBytes a l

/-- An entry for an access that was not performed (R29, R134, R475). -/
def State.accessRefused (s : State) (req cause : Nat) : State :=
  s.logFault { level := 3, kind := 5, unit := req, src := 0x0C, cause := cause }

/-- The answered blocks of a read put in their places; none for a byte of a block that failed. -/
def answerBytes (n : Nat) (l : List DramDone) : List (Option Byte) :=
  l.foldl (fun acc d => if d.ok then acc.take d.part ++ d.data.map some ++ acc.drop (d.part + d.data.length) else acc)
    (List.replicate n none)

/-- A read of memory that is answered within its command, by its requester's number (R29, R118, R134, R135): shared
SRAM, line and compensation SRAM at once, DRAM through Granary's queues; none for a byte that could not be read. -/
def State.memRead (s : State) (req a n : Nat) : List (Option Byte) × State :=
  match s.rangeRegion a n with
  | some .dram =>
    if s.dramAsleep then (List.replicate n none, s.accessRefused req 4)
    else
      let (l, s) := s.dramServe req a n none
      (answerBytes n l, s)
  | some .regs => (List.replicate n none, s)
  | some _ => ((s.sramRead a n).map some, s)
  | none => (List.replicate n none, s.accessRefused req 1)

/-- The bytes of a read, where every one could be read. -/
def allRead : List (Option Byte) → Option (List Byte)
  | [] => some []
  | some b :: t => (allRead t).map (b :: ·)
  | none :: _ => none

/-- A write to memory that its requester does not wait for: SRAM takes it at once, DRAM through Granary's queues (R118,
R134). -/
def State.memPost (s : State) (req a : Nat) (l : List Byte) : State :=
  match s.rangeRegion a l.length with
  | some .dram => if s.dramAsleep then s.accessRefused req 4 else (s.dramSubmit req a l.length (some l)).2
  | some .regs => s
  | some _ => s.sramWrite a l 0
  | none => s.accessRefused req 1

end Sys2Proof.Machine
end

