-- ==== Sys2Proof/Machine/CamPort.lean ====
section
/-! DEFINITION. The camera ports as other units act on them (R312 to R320): frame starts and drops, triggers, and the
retirement of a port; with the result ring (R333) and the frame record (R334). -/

namespace Sys2Proof.Machine

/-- CAMn_STAT.STATE (R337): 0 disarmed, 1 armed, 2 retired. -/
def State.camState (s : State) (n : Nat) : Nat := s.fld (R.CAMn_STAT n) F.CAMn_STAT_STATE

/-- LINEPX and FRAMELINES of port `n`. -/
def State.linePx (s : State) (n : Nat) : Nat := s.fld (R.CAMn_GEOM n) F.CAMn_GEOM_LINEPX
def State.frameLines (s : State) (n : Nat) : Nat := s.fld (R.CAMn_GEOM n) F.CAMn_GEOM_FRAMELINES

/-- Port `n` captures through its DMA channel. -/
def State.capen (s : State) (n : Nat) : Bool := s.bit (R.CAMn_CTRL n) F.CAMn_CTRL_CAPEN

/-- Bytes of complete lines that wait for the pipeline. -/
def workBytes : List CamWork → Nat
  | [] => 0
  | .line px _ _ :: t => 2 * px.length + workBytes t
  | .frameEnd _ _ :: t => workBytes t

/-- FIFO space of the lines that the capture channel has not drained. -/
def fifoSpace : List CamItem → Nat
  | [] => 0
  | .line _ sp :: t => sp + fifoSpace t
  | _ :: t => fifoSpace t

/-- Bytes that the line FIFO of a port holds: a line leaves it when both its readers have taken it. -/
def fifoBytesHeld (x : CamPort) : Nat := max (workBytes x.work) (fifoSpace x.fifo)

/-- CAMn_STAT shows DROPPING, TRIGLVL and FIFOLVL of port `n`. -/
def State.showPort (s : State) (n : Nat) : State :=
  let x := s.camPort n
  let a := R.CAMn_STAT n
  let s := s.setBit a F.CAMn_STAT_DROPPING (match x.frames.getLast? with
    | some f => f.dropped.isSome
    | none => false)
  let s := s.setFld a F.CAMn_STAT_TRIGLVL x.trig.length
  s.setFld a F.CAMn_STAT_FIFOLVL ((fifoBytesHeld x + 63) / 64)

/-! ## Result records -/

/-- The records of the result ring of pipeline `p`. -/
def State.resSize (s : State) (p : Nat) : Nat := 2 ^ s.fld (R.Pp_RES_HI p) F.Pp_RES_HI_SIZE_LOG2

/-- The base of the result ring of pipeline `p`. -/
def State.resBase (s : State) (p : Nat) : Nat :=
  s.fld (R.Pp_RES_HI p) F.Pp_RES_HI_BASE_HI * 2 ^ 32 + s.fld (R.Pp_RES_LO p) F.Pp_RES_LO_BASE_LO * 32

/-- The chip address of record `i` of the result ring of pipeline `p`. -/
def State.resAddr (s : State) (p i : Nat) : Nat := s.resBase p + 32 * (i % s.resSize p)

/-- A record of port `n` is written to the ring of its pipeline, or dropped when the ring is full (R333). -/
def State.writeRecord (s : State) (n : Nat) (bytes : List Byte) : State :=
  let p := n / 2
  let wr := s.fld (R.Pp_RES_WR p) F.Pp_RES_WR_INDEX
  let next := (wr + 1) % s.resSize p
  if next = s.fld (R.Pp_RES_RD p) F.Pp_RES_RD_INDEX % s.resSize p then
    ((s.count (R.Pp_CNT_RESLOST p) F.Pp_CNT_RESLOST_COUNT 1).orFld R.CAM_EVT F.CAM_EVT_RESFULL p).logFault
      { level := 3, kind := 5, unit := n, src := 0x0A, cause := 0xA }
  else
    (s.memPost (0x25 + p) (s.resAddr p wr) ((bytes ++ List.replicate 32 0).take 32)).setFld (R.Pp_RES_WR p)
      F.Pp_RES_WR_INDEX next

/-- The frame record of a frame of port `n` with its statistics and the cause of a drop (R333). -/
def frameRecord (n : Nat) (f : FrameInfo) (drop : Option Nat) (a : FrameAcc) (k : Nat) : List Byte :=
  let mean := fun (v i : Nat) => leBytes 2 (quot v a.pixels (k + i)).toNat
  let most := fun (v i : Nat) => leBytes 2 (if a.pixels = 0 then Config.free (k + i) else v)
  leBytes 1 1 ++
    leBytes 1 (n + 4 * (if drop.isSome then 1 else 0) + 8 * (if a.maplost then 1 else 0) + 16 * drop.getD 0) ++
    leBytes 2 f.expset ++ leBytes 4 f.fseq ++ leBytes 4 (a.first.getD 0xFFFFFFFF) ++ leBytes 2 a.lines ++
    leBytes 2 (min a.sat 65535) ++ mean a.sum 0 ++ most a.lo 1 ++ most a.hi 2 ++ mean a.sumD 3 ++ leBytes 8 f.ts

/-- Frames of port `n` whose lines the pipeline has all taken end with their records (R334). -/
def State.drainEnds : Nat → Nat → State → State
  | 0, _, s => s
  | fuel + 1, n, s =>
    let x := s.camPort n
    match x.work with
    | .frameEnd f drop :: t =>
      let a := x.acc.getD {}
      let s := s.setCamPort n { x with work := t, acc := none }
      State.drainEnds fuel n ((s.writeRecord n (frameRecord n f drop a s.freeCtr)).drawnN 4)
    | _ => s

/-- The same for every frame that has ended. -/
def State.endFrames (s : State) (n : Nat) : State := State.drainEnds (s.camPort n).work.length n s

/-! ## Frames -/

/-- The dropped frames at the front of the open frames are settled: the missing lines go to the capture channel as fill
(R317), and a frame that a later start follows ends with its record (R334). -/
def settleFrames (capture : Bool) (fullBytes lineBytes : Nat) : List CamFrame → CamPort → CamPort
  | [], x => { x with frames := [] }
  | f :: t, x =>
    match f.dropped with
    | none => { x with frames := f :: t }
    | some c =>
      let fill := capture && !f.filled && c != 0 && c != 5
      let x := if fill then { x with
          fifo := x.fifo ++ (if f.marked then [] else [.frameStart]) ++ [.fill (fullBytes - f.lines * lineBytes)] }
        else x
      let f := { f with filled := true, marked := f.marked || fill }
      match t with
      | [] => { x with frames := [f] }
      | g :: t => settleFrames capture fullBytes lineBytes (g :: t)
          { x with work := x.work ++ [.frameEnd f.info (some c)] }

/-- The settling of the frames of port `n`, with its status. -/
def State.settlePort (s : State) (n : Nat) : State :=
  let x := s.camPort n
  let lb := 2 * s.linePx n
  let y := settleFrames (s.capen n) (s.frameLines n * lb) lb x.frames x
  let s := s.sourceFills (16 + n) (x.fifo.isEmpty && !y.fifo.isEmpty)
  ((s.setCamPort n y).endFrames n).showPort n

/-! ## Retirement -/

/-- Port `n` takes nothing more: triggers, lines and frames in progress go, and CAMn_TRIG is low. `cause` marks the
frames that end so. -/
def CamPort.cleared (x : CamPort) (cause : Nat) (lines : Bool) : CamPort :=
  { x with
    trig := [], pulse := none, readmit := false
    frames := x.frames.map (fun f => if f.dropped.isSome then f else { f with dropped := some cause })
    work := if lines then x.work else x.work.filter (fun w => match w with
      | .frameEnd _ _ => true
      | _ => false) }

/-- Camera port `n` is retired with a cause (R318): its FIFOs empty, and its descriptor in progress completes with
fill. -/
def State.camRetire (s : State) (n cause : Nat) : State :=
  let x := (s.camPort n).cleared cause false
  let rest := match (sget (fun _ => {}) s.dma.chans (16 + n)).held with
    | d :: _ => if d.valid && d.issued != 0 then d.len - d.issued else 0
    | [] => 0
  let x := { x with
    fifo := if s.capen n && rest != 0 then [.fill rest] else []
    frames := x.frames.map (fun f => { f with filled := true }) }
  let s := ((s.sourceFills (16 + n) (s.camPort n).fifo.isEmpty).setCamPort n x).showPort n
  let s := s.setFld (R.CAMn_STAT n) F.CAMn_STAT_STATE 2
  let s := s.setFld (R.CAMn_STAT n) F.CAMn_STAT_LASTCAUSE cause
  let s := s.setBit (R.CAMn_STAT n) F.CAMn_STAT_DROPPING false
  let s := s.orFld R.CAM_EVT F.CAM_EVT_RETIRED n
  s.logFault { level := 3, kind := 2, unit := n, src := 0x0A, cause := cause }

/-! ## Drops -/

/-- The frame numbered `k` drops its remainder with a cause. -/
def markDrop (k cause : Nat) (l : List CamFrame) : List CamFrame :=
  l.map (fun f => if f.info.fseq = k && f.dropped.isNone then { f with dropped := some cause } else f)

/-- Each drop sets CAM_EVT.DROP, counts, makes its entry, and counts against CAMn_ERR_THR; drops above the threshold
retire the port (R316, R318). -/
def State.countDrop (s : State) (n cause : Nat) : State :=
  let s := s.setFld (R.CAMn_STAT n) F.CAMn_STAT_LASTCAUSE cause
  let s := s.orFld R.CAM_EVT F.CAM_EVT_DROP n
  let s := s.count (R.CAMn_CNT_DROP n) F.CAMn_CNT_DROP_COUNT 1
  let s := s.logFault { level := 3, kind := 0, unit := n, src := 0x0A, cause := cause }
  let t := R.CAMn_ERR_THR n
  let l := (s.now :: recent s.now (ms (s.fld t F.CAMn_ERR_THR_WINDOW)) (s.camPort n).stamps).take 257
  let s := s.setCamPort n { s.camPort n with stamps := l }
  if s.fld t F.CAMn_ERR_THR_ERRMAX < l.length then s.camRetire n 9 else s

/-- Port `n` drops the rest of frame `k`, where one is concerned; a frame whose remainder is dropped already, or that has
ended, drops nothing more (R316). -/
def State.camDrop (s : State) (n : Nat) (k : Option Nat) (cause : Nat) : State :=
  let x := s.camPort n
  match k with
  | none => s.countDrop n cause
  | some k =>
    if x.frames.any (fun f => f.info.fseq == k && f.dropped.isNone) then
      ((s.setCamPort n { x with frames := markDrop k cause x.frames }).settlePort n).countDrop n cause
    else s

/-- The number of the newest open frame of a port. -/
def newestFrame (x : CamPort) : Option Nat := x.frames.getLast?.map (·.info.fseq)

/-! ## Frame starts -/

/-- A frame starts at port `n` (R314, R319): its number is FSEQ, which advances; the newest exposure set that is due comes
into force; a re-admission takes effect (R318). -/
def State.camFrameStart (s : State) (n ts : Nat) : State :=
  let x := s.camPort n
  let s := match x.sets.find? (fun e => decide (e.1 ≤ s.now)) with
    | some (_, e, g) => (s.setReg (R.CAMn_EXP_NOW n) e).setReg (R.CAMn_GAIN_NOW n) g
    | none => s
  let g := s.reg (R.CAMn_GAIN_NOW n)
  let info : FrameInfo := ⟨s.regN (R.CAMn_FSEQ n), getField F.CAMn_GAIN_NOW_EXPSET g, getField F.CAMn_GAIN_NOW_GAIN g, ts⟩
  let s := s.setReg (R.CAMn_FSEQ n) (BitVec.ofNat 32 (info.fseq + 1))
  let s := s.count (R.CAMn_CNT_FRAMES n) F.CAMn_CNT_FRAMES_COUNT 1
  let s := if x.readmit then
      (s.orFld R.CAM_EVT F.CAM_EVT_READMITTED n).logFault { level := 3, kind := 3, unit := n, src := 0x0A, cause := 0 }
    else s
  (s.setCamPort n { x with
    sets := x.sets.takeWhile (fun e => decide (s.now < e.1))
    readmit := false
    frames := x.frames ++ [{ info := info }] }).settlePort n

/-! ## Triggers -/

/-- A trigger at port `n` (R312 to R316): it counts; in count framing every FRAMELINES-th starts a frame; it drives a pulse
and enters the FIFO, or drops the frame when the FIFO is full or the pulse still high. A retired port only counts. -/
def State.camTrigger (s : State) (n : Nat) : State :=
  let x := s.camPort n
  let k := x.count
  let s := s.setCamPort n { x with count := k + 1 }
  if s.camState n ≠ 1 then s
  else
    let counting := !s.bit (R.CAMn_CTRL n) F.CAMn_CTRL_FRAMEMODE
    let s := if counting && k % max 1 (s.frameLines n) == 0 then s.camFrameStart n s.ptp else s
    let x := s.camPort n
    if 16 ≤ x.trig.length ∨ x.pulse.isSome then s.camDrop n (newestFrame x) 4
    else
      (s.setCamPort n { x with
        trig := x.trig ++ [⟨s.enc0Pos, s.ptp, s.now, if counting then newestFrame x else none⟩]
        pulse := some (s.now + 8 * s.fld (R.CAMn_EXP_NOW n) F.CAMn_EXP_NOW_EXPW) }).showPort n

/-- A fired action of output CMPj triggers the ports that select it (R312). -/
def State.cmpTriggers (s : State) (j : Nat) : State :=
  (List.range 4).foldl (fun s n =>
    if s.fld (R.CAMn_CTRL n) F.CAMn_CTRL_TRIGSRC = j + 1 ∧ s.camState n ≠ 0 then s.camTrigger n else s) s

end Sys2Proof.Machine
end

