-- ==== Sys2Proof/Machine/Dma.lean ====
section
/-! DEFINITION. The DMA engine: descriptor rings, channel states, arbitration, bursts, retry and halt, pause, skip and
abort (R74 to R109). -/

namespace Sys2Proof.Machine

/-! ## Descriptors of page data -/

/-- A descriptor of channel `n`, 8 to 15, that moves `len` bytes from `src` to the decoder's compressed-input area and is
handed over (R75, R164). -/
def pageDesc (n src len k : Nat) : List Byte :=
  leBytes 4 (1 + 2 * (Config.descFlags k % 8)) ++ leBytes 4 len ++ leBytes 8 src ++
    leBytes 8 (lineBase ((n - 8) / 2) + 0x8000 * (n % 2)) ++ leBytes 4 0 ++ leBytes 4 (Config.descTag k)

/-- CC1 hands one piece of page data of channel `n` over in the ring entry that it fills next, words 1 to 7 before word 0
(R79, R404): none where no piece waits, the ring is off, or the next entry is the one at HEAD. -/
def State.feedOne (s : State) (n : Nat) : Option State :=
  let x := s.ch n
  let k := s.fld (R.DMA_CHn_RING_HI n) F.DMA_CHn_RING_HI_SIZE_LOG2
  match x.backlog with
  | (_, src, len) :: rest =>
    if 1 ≤ k ∧ k ≤ 12 ∧ (x.tail + 1) % s.ringSize n ≠ s.dmaHead n then
      let a := s.descAddr n x.tail
      let d := pageDesc n src len s.freeCtr
      let t := (s.memPost 0x21 (a + 4) (d.drop 4)).memPost 0x21 a (d.take 4)
      some (t.setCh n { x with backlog := rest, tail := (x.tail + 1) % s.ringSize n, look := true }).drawn
    else none
  | [] => none

/-- CC1 hands page data of channel `n` over in the ring entries that software owns, and rings the doorbell (R79, R82,
R404). -/
def State.feedRing : Nat → Nat → State → State
  | 0, _, s => s
  | fuel + 1, n, s =>
    match s.feedOne n with
    | some t => State.feedRing fuel n t
    | none => s

/-! ## Failures and returns -/

/-- The failing address of channel `n` (R98). -/
def State.setErrAddr (s : State) (n a : Nat) : State :=
  (s.setReg (R.DMA_CHn_ERRADDR_LO n) (BitVec.ofNat 32 a)).setFld (R.DMA_CHn_ERRADDR_HI n)
    F.DMA_CHn_ERRADDR_HI_ADDR_HI (a / 2 ^ 32)

/-- The failed bursts of channel `n` within the window, this one included, exceed ERRMAX (R98). -/
def State.noteFailure (s : State) (n : Nat) : Bool × State :=
  let w := ms (s.fld R.DMA_ERR_THR F.DMA_ERR_THR_WINDOW)
  let l := (s.now :: recent s.now w (s.ch n).stamps).take 1024
  (decide (s.fld R.DMA_ERR_THR F.DMA_ERR_THR_ERRMAX < l.length), s.setCh n { s.ch n with stamps := l })

/-- RETRYCNT of channel `n`: the failures of its current failing burst (R109). -/
def State.showRetry (s : State) (n : Nat) : State :=
  s.setFld (R.DMA_CHn_STAT n) F.DMA_CHn_STAT_RETRYCNT
    (min 15 ((((s.ch n).bursts.find? (fun b => b.retry || (!b.okd && b.fails != 0))).map (·.fails)).getD 0))

/-- Word 0 of a descriptor as the engine returns it: OWN 0, STATUS, the software flags unchanged (R81). -/
def returnedWord0 (d : Desc) (status : Nat) : Nat :=
  (if d.barrier then 2 else 0) + (if d.int then 4 else 0) + (if d.linkEvt then 8 else 0) + 256 * status

/-- The two words written back into a descriptor: word 6 with DONE_BYTES and RETRIES, then word 0 (R81). -/
def returnWords (d : Desc) (status : Nat) : List Byte :=
  leBytes 4 (d.inOrder + 2 ^ 24 * min d.retries 255) ++ leBytes 4 (returnedWord0 d status)

/-- The bursts that outlive their descriptor: those with an OK response, whose data are held until arrival, and late ones
(R87, R94). -/
def keptBursts (idx : Nat) (l : List Burst) : List Burst :=
  (l.filter (fun b => b.idx != idx || b.okd)).map (fun b => if b.idx = idx then { b with idx := lateIdx } else b)

/-- The bursts of a channel whose descriptors are all gone: those that are held until arrival, late ones and those of a
recompute. -/
def lateBursts (l : List Burst) : List Burst :=
  (l.filter (fun b => b.okd || b.idx == lateIdx || b.idx == recompIdx)).map (fun b =>
    if b.idx = recompIdx then b else { b with idx := lateIdx })

/-- The oldest descriptor is complete: all bytes, for a barrier every write arrived, and no abort has reached it (R94, R95,
R106). -/
def headComplete (x : DmaChan) : Bool :=
  match x.held with
  | d :: _ => d.valid && decide (d.inOrder = d.len) && !(d.barrier && x.bursts.any (fun b => b.idx == d.idx)) &&
      x.abort != some d.idx
  | [] => false

/-- The STATUS with which the oldest descriptor of channel `n` is to be returned now (R76): as SKIP or a new frame ordered,
aborted, of a dropped frame (R317), or complete; none where it is not to be returned. -/
def State.dueStatus (s : State) (n : Nat) : Option Nat :=
  let x := s.ch n
  match x.held with
  | [] => none
  | _ :: _ =>
    match x.backStatus with
    | some k => some k
    | none =>
      if s.dmaState n = 6 then some 1
      else if 0 < x.frameSkip then some 3
      else if headComplete x then some 0
      else none

/-- An abort whose index HEAD has reached takes effect (R84, R106): the channel is Aborting; read data that is not yet
written is discarded; INDEX and the later descriptors that were started are to be returned. -/
def State.abortDue (s : State) (n : Nat) : State :=
  let x := s.ch n
  if x.abort = some (s.dmaHead n) ∧ s.dmaState n ≠ 0 ∧ s.dmaState n ≠ 6 then
    let held := match x.held with
      | [] => x.abortDesc.toList
      | d :: t => d :: t.takeWhile (fun e => decide (0 < e.issued))
    let s := s.setCh n { x with
      held := held, abortDesc := none, backStatus := none, haltDue := 0
      bursts := x.bursts.filter (fun b => b.idx == recompIdx || b.idx == lateIdx || b.wr.isSome) }
    (s.setFld (R.DMA_CHn_STAT n) F.DMA_CHn_STAT_HALT_CAUSE 0).setDmaState n 6
  else s

/-- Channel `n` has written descriptor `d` back with a STATUS: HEAD moves on, a channel left without a descriptor is Idle,
and the completion events follow (R81, R84, R107, R108). -/
def State.returned (s : State) (n : Nat) (d : Desc) (rest : List Desc) (status : Nat) : State :=
  let x := s.ch n
  let s := s.setCh n { x with
    held := rest, backStatus := none, bursts := keptBursts d.idx x.bursts, dramFail := none
    frameSkip := x.frameSkip - d.len, frameUsed := x.frameUsed + d.len }
  let s := s.setFld (R.DMA_CHn_HEAD n) F.DMA_CHn_HEAD_HEAD ((d.idx + 1) % s.ringSize n)
  let s := if s.dmaState n = 2 ∧ rest.isEmpty then s.setDmaState n 1 else s
  let s := if d.int then s.orFld R.DMA_DONE_EVT F.DMA_DONE_EVT_CH n else s
  let s := if d.linkEvt then
      s.sendEvent (s.dmaPort n) 0x30 (dmaEventPayload n status d.idx d.inOrder d.tag) else s
  State.feedRing 1 n (s.abortDue n)

/-! ## Fetch -/

/-- A used address range of a descriptor is aligned and crosses the end of no region of the address map (R77). -/
def usedRange (a n : Nat) : Bool := decide (a % 4 = 0) && !crossesEnd a n

/-- The source of channel `n` is fixed; its destination is fixed (R74). -/
def fixedSrc (n : Nat) : Bool := n < 8 || (16 ≤ n && n < 20) || n = 21 || n = 23
def fixedDst (n : Nat) : Bool := n = 20 || n = 22

/-- The descriptor that 32 bytes of a ring spell for channel `n`, with its validity (R75, R77). -/
def parseDesc (n idx : Nat) (l : List Byte) : Desc :=
  let w := fun i => leAt l (4 * i) 4
  let len := w 1 % 2 ^ 24
  let src := w 2 + 2 ^ 32 * (w 3 % 256)
  let dst := w 4 + 2 ^ 32 * (w 5 % 256)
  let reserved := decide (w 0 % 256 / 16 = 0 ∧ w 0 / 65536 = 0 ∧ w 1 / 2 ^ 24 = 0 ∧ w 3 / 256 = 0 ∧ w 5 / 256 = 0)
  let valid := decide (len ≠ 0 ∧ len % 4 = 0) && reserved && (fixedSrc n || usedRange src len) &&
    (fixedDst n || usedRange dst len)
  { idx := idx, barrier := (w 0).testBit 1, int := (w 0).testBit 2, linkEvt := (w 0).testBit 3, len := len
    src := if fixedSrc n then 0 else src, dst := if fixedDst n then 0 else dst, tag := w 7, valid := valid }

/-- Channel `n` fetches a descriptor when it is granted (R80, R82, R83, R89): it is Idle or Running, a doorbell or the last
fetch calls for it, and it holds fewer than four and no entry twice. Nothing is fetched at or after the index of an
abort. -/
def State.mayFetch (s : State) (n : Nat) : Bool :=
  let x := s.ch n
  (s.dmaState n = 1 || s.dmaState n = 2) && x.look && decide (x.held.length < min 4 (s.ringSize n)) &&
    s.bit R.DMA_CTRL F.DMA_CTRL_EN && !x.bursts.any (fun b => b.idx == fetchIdx) &&
    (match x.abort with
      | some i => s.dmaFetch n != i && !x.held.any (fun d => d.idx == i)
      | none => true)

/-- INVALID_DESCRIPTOR_HALT (R77): the invalid descriptor has become the descriptor in progress. -/
def execInvalidDescriptorHalt (n : Fin 32) (s : State) : Host.Outcome State Fault Refusal :=
  .next <|
    match (s.ch n).held with
    | d :: _ =>
      if !d.valid ∧ (s.dmaState n = 2 ∨ s.dmaState n = 3) ∧ (s.ch n).backStatus = none then s.haltWhenAnswered n 3 else s
    | [] => s

/-! ## Pacing and grants -/

/-- Bytes at the front of the line FIFO of a camera port, up to the next frame start. -/
def camBytes : List CamItem → Nat
  | [] => 0
  | .frameStart :: _ => 0
  | .line d _ :: t => d.length + camBytes t
  | .fill n :: t => n + camBytes t

/-- The fill of the fixed source FIFO of channel `n`, in bytes. -/
def State.srcFill (s : State) (n : Nat) : Nat :=
  if n < 8 then s.fifoBytes n
  else if 16 ≤ n && n < 20 then camBytes (s.camPort (n - 16)).fifo
  else (s.enc ((n - 21) / 2)).output.length

/-- Bytes of a list of input pieces. -/
def inputBytes (l : List (Nat × List Byte)) : Nat := (l.map (fun p => p.2.length)).sum

/-- Capacity of a decoder's compressed-input area (R163) and of an encoder's input (DESIGN CHOICE, log entry 12). -/
def areaBytes (n : Nat) : Nat := if n < 16 then 32768 else 8192

/-- The fill of the paced destination of channel `n`, with the bursts that are issued and have not landed (R88). -/
def State.dstFill (s : State) (n : Nat) : Nat :=
  let issued := ((s.ch n).bursts.map (fun b => if b.okd then 0 else b.len)).sum
  issued + (if n < 16 then inputBytes (s.dec (n - 8)).input + ((s.dec (n - 8)).recompute.getD []).length
            else (s.enc ((n - 20) / 2)).input.length)

/-- PACE_MODE of channel `n`. -/
def State.paceMode (s : State) (n : Nat) : Nat := s.fld (R.DMA_CHn_CFG n) F.DMA_CHn_CFG_PACE_MODE

/-- HIGH and LOW of channel `n` in bytes (R88). -/
def State.paceHigh (s : State) (n : Nat) : Nat := 64 * s.fld (R.DMA_CHn_PACE n) F.DMA_CHn_PACE_HIGH
def State.paceLow (s : State) (n : Nat) : Nat := 64 * s.fld (R.DMA_CHn_PACE n) F.DMA_CHn_PACE_LOW

/-- Whether its pacing queue makes channel `n` eligible (R88). -/
def State.paced (s : State) (n : Nat) : Bool :=
  let x := s.ch n
  if s.paceMode n = 1 then x.paceOn || x.paceTimeout
  else if s.paceMode n = 2 then x.paceOn
  else true

/-- BURST of channel `n` in bytes (R86). -/
def State.burstBytes (s : State) (n : Nat) : Nat := 64 * 2 ^ s.fld (R.DMA_CHn_CFG n) F.DMA_CHn_CFG_BURST

/-- The descriptor whose next burst may be issued: none beyond an invalid one, none of the next before a barrier
descriptor is returned (R77, R95), none at or after the index of an abort. -/
def nextToIssue (stop : Option Nat) : List Desc → Option Desc
  | [] => none
  | d :: t =>
    if !d.valid || stop == some d.idx then none
    else if d.issued < d.len then some d
    else if d.barrier then none
    else nextToIssue stop t

/-- The length of the next burst of a descriptor: bounded by BURST, by the BURST-aligned boundary of the destination,
by the descriptor, by what the source FIFO holds and by the free space (R86, R88). -/
def State.burstLen (s : State) (n : Nat) (d : Desc) : Nat :=
  let b := s.burstBytes n
  let k := min (b - (d.dst + d.issued) % b) (d.len - d.issued)
  let k := if fixedSrc n then min k (s.srcFill n / 4 * 4) else k
  if s.paceMode n = 2 then min k ((areaBytes n - s.dstFill n) / 4 * 4) else k

/-- The burst that channel `n` would be granted: a retry first, then the write-back of a descriptor with its STATUS, then a
recompute burst, then the next of its descriptors, then a fetch (R89, R99, R293). -/
inductive GrantKind where
  | retry (b : Burst)
  | writeBack (status : Nat)
  | fetch
  | recomp (d : Desc) (len : Nat)
  | data (d : Desc) (len : Nat)
deriving DecidableEq, Repr

/-- A burst waits for its retry in a state of the channel that issues it (R83, R96): in Aborting only a write-back, and those
of a recompute in Idle and Running alone (R293). -/
def retries (st : Nat) (b : Burst) : Bool :=
  b.retry && (st = 1 || st = 2 || (st = 3 && b.idx != recompIdx) || (st = 6 && b.idx == backIdx))

/-- The recompute burst that channel `n` would be granted (R293). -/
def State.wantsRecomp (s : State) (n : Nat) : Option GrantKind :=
  (s.ch n).recomp.bind (fun d =>
    let k := min (min (s.burstBytes n) (d.len - d.issued)) ((areaBytes n - s.dstFill n) / 4 * 4)
    if 0 < k && s.paced n then some (.recomp d k) else none)

/-- The data burst that channel `n` would be granted (R86, R88); none while its oldest descriptor is to be returned
incomplete. -/
def State.wantsData (s : State) (n : Nat) : Option GrantKind :=
  if s.dmaState n ≠ 2 ∨ s.dmaPaused n ∨ !s.paced n ∨ (s.dueStatus n).any (fun k => k != 0) then none
  else
    (nextToIssue (s.ch n).abort (s.ch n).held).bind (fun d =>
      let k := s.burstLen n d
      if 0 < k then some (.data d k) else none)

/-- What channel `n` would be granted now, if it is eligible (R83, R88, R89). Pacing holds back data, not fetches and
write-backs. -/
def State.wants (s : State) (n : Nat) : Option GrantKind :=
  let x := s.ch n
  let st := s.dmaState n
  if max 1 (s.fld (R.DMA_CHn_CFG n) F.DMA_CHn_CFG_MAXOUT) ≤ outstanding x ∨ x.haltDue ≠ 0 ∨ !(st = 1 || st = 2 || st = 3 || st = 6)
  then none
  else
    match x.bursts.find? (retries st) with
    | some b => some (.retry b)
    | none =>
      let back := if x.bursts.any (fun b => b.idx == backIdx) ∨ (st = 6 ∧ outstanding x ≠ 0) then none else s.dueStatus n
      match back with
      | some k => some (.writeBack k)
      | none =>
        if st = 3 || st = 6 then none
        else
          match s.wantsRecomp n with
          | some g => some g
          | none =>
            match s.wantsData n with
            | some g => some g
            | none => if s.mayFetch n then some .fetch else none

/-- The channels in the order of service of one level: round robin, after the last channel granted at it (R89). -/
def roundRobin (last : Nat) : List Nat := (List.range 32).map (fun i => (last + 1 + i) % 32)

/-- The channel granted next: the lowest PRIO value with an eligible channel, strictly (R89, R90). -/
def State.grantee (s : State) : Option (Nat × Nat) :=
  let total := ((List.range 32).map (fun n => outstanding (s.ch n))).sum
  if 256 ≤ total then none
  else
    (List.range 4).findSome? (fun lvl =>
      ((roundRobin (natAt s.dma.last lvl)).find? (fun n =>
        s.fld (R.DMA_CHn_CFG n) F.DMA_CHn_CFG_PRIO == lvl && (s.wants n).isSome)).map (fun n => (lvl, n)))

/-- The first `k` bytes leave the front lines of a camera FIFO. -/
def camTake : Nat → List CamItem → List Byte × List CamItem
  | _, [] => ([], [])
  | _, .frameStart :: t => ([], .frameStart :: t)
  | k, .line d sp :: t =>
    if d.length ≤ k then
      let (r, rest) := camTake (k - d.length) t
      (d ++ r, rest)
    else (d.take k, .line (d.drop k) sp :: t)
  | k, .fill n :: t =>
    if n ≤ k then
      let (r, rest) := camTake (k - n) t
      (List.replicate n 0xFF ++ r, rest)
    else (List.replicate k 0xFF, .fill (n - k) :: t)

/-- The engine reads `k` bytes from the fixed source FIFO of channel `n`. -/
def State.takeSrc (s : State) (n k : Nat) : List Byte × State :=
  if n < 8 then s.drainStream n k
  else if 16 ≤ n && n < 20 then
    let x := s.camPort (n - 16)
    let (d, rest) := camTake k x.fifo
    (d, (s.setCamPort (n - 16) { x with fifo := rest }).showPort (n - 16))
  else
    let e := (n - 21) / 2
    ((s.enc e).output.take k, s.setEnc e { s.enc e with output := (s.enc e).output.drop k })

/-- Burst `b` joins the bursts of channel `n`. -/
def State.addBurst (s : State) (n : Nat) (b : Burst) : State := s.setCh n { s.ch n with bursts := (s.ch n).bursts ++ [b] }

/-- The read of a burst is issued: from the fixed FIFO, from SRAM, or as requests to Granary. A refused read leaves
the burst without data, and makes the entry of R29 or of R134. -/
def State.issueRead (s : State) (n : Nat) (b : Burst) : State :=
  if fixedSrc n && b.idx != fetchIdx then
    let (d, s) := s.takeSrc n b.len
    s.addBurst n { b with data := some d }
  else
    match s.rangeRegion b.src b.len with
    | some .dram =>
      if s.dramAsleep then (s.accessRefused n 4).addBurst n b
      else
        let (id, s) := s.dramSubmit n b.src b.len none
        s.addBurst n { b with rd := some id }
    | some .regs => (s.accessRefused n 1).addBurst n b
    | some _ => s.addBurst n { b with data := some (s.sramRead b.src b.len) }
    | none => (s.accessRefused n 1).addBurst n b

/-- The write-back of a descriptor is issued: to DRAM as two requests to Granary, word 6 before word 0 (R81); to SRAM with
its response. -/
def State.issueBack (s : State) (n : Nat) (b : Burst) : State :=
  match s.rangeRegion b.dst 32 with
  | some .dram =>
    if s.dramAsleep then (s.accessRefused n 4).addBurst n b
    else
      let d := b.data.getD []
      let (i, s) := s.dramSubmit n (b.dst + 24) 4 (some (d.take 4))
      let (j, s) := s.dramSubmit n b.dst 4 (some (d.drop 4))
      s.addBurst n { b with rd := some i, wr := some j }
  | _ => s.addBurst n b

/-- Descriptor `idx` of a list with `k` more bytes issued. -/
def markIssued (idx k : Nat) (l : List Desc) : List Desc :=
  l.map (fun d => if d.idx = idx then { d with issued := d.issued + k } else d)

/-- One burst of channel `n` is issued (R86, R89, R92, R99). -/
def State.grantTo (s : State) (n : Nat) : GrantKind → State
  | .retry b =>
    let s := s.setCh n { s.ch n with bursts := (s.ch n).bursts.filter (fun c => c != b) }
    let b := { b with retry := false, rd := none, wr := none, okd := false }
    if b.idx = backIdx then s.issueBack n b
    else if b.data.isSome then s.addBurst n b
    else s.issueRead n b
  | .writeBack k =>
    match (s.ch n).held with
    | d :: _ => s.issueBack n ⟨backIdx, k, 8, 0, s.descAddr n d.idx, some (returnWords d k), none, none, false, 0, false⟩
    | [] => s
  | .fetch =>
    s.issueRead n ⟨fetchIdx, s.dmaFetch n, 32, s.descAddr n (s.dmaFetch n), 0, none, none, none, false, 0, false⟩
  | .recomp d k =>
    let s := s.setCh n { s.ch n with recomp := some { d with issued := d.issued + k } }
    s.issueRead n ⟨recompIdx, d.issued, k, d.src + d.issued, d.dst, none, none, none, false, 0, false⟩
  | .data d k =>
    let s := s.setCh n { s.ch n with held := markIssued d.idx k (s.ch n).held }
    let src := if fixedSrc n then 0 else d.src + d.issued
    s.issueRead n ⟨d.idx, d.issued, k, src, d.dst + d.issued, none, none, none, false, 0, false⟩

/-- Paced channels become eligible by their pacing queues (R88). -/
def State.updatePacing (s : State) : State :=
  (List.range 24).foldl (fun s n =>
    if (s.paceMode n = 1 && decide (s.paceHigh n ≤ s.srcFill n)) || (s.paceMode n = 2 && decide (s.dstFill n ≤ s.paceLow n))
    then s.setCh n { s.ch n with paceOn := true } else s) s

/-- After a burst, paced channel `n` stops being eligible by its pacing queue (R88). -/
def State.stopPacing (s : State) (n : Nat) : State :=
  if (s.paceMode n = 1 && decide (s.srcFill n ≤ s.paceLow n)) || (s.paceMode n = 2 && decide (s.paceHigh n ≤ s.dstFill n))
  then s.setCh n { s.ch n with paceOn := false, paceTimeout := false, paceSince := s.now } else s

/-- Idle channels that hold a descriptor are Running (R84). -/
def State.runHolders (s : State) : State :=
  (List.range 32).foldl (fun s n => if s.dmaState n = 1 ∧ (s.ch n).held ≠ [] then s.setDmaState n 2 else s) s

/-- BURST_GRANT (R88 to R90): one burst to the eligible channel of the highest priority. -/
def execBurstGrant (s : State) : Host.Outcome State Fault Refusal :=
  .next <|
    let s := s.runHolders.updatePacing
    match s.grantee with
    | none => s
    | some (lvl, n) =>
      match s.wants n with
      | none => s
      | some g =>
        let s := { s with dma := { s.dma with last := s.dma.last.set lvl n } }
        (s.grantTo n g).stopPacing n

/-- PACE_TIMEOUT (R88): in source mode, with a PACE_TO that is not 0, the FIFO has held data for PACE_TO µs without reaching
HIGH. -/
def execPaceTimeout (n : Fin 32) (s : State) : Host.Outcome State Fault Refusal :=
  .next <|
    let k := s.fld (R.DMA_CHn_PACE n) F.DMA_CHn_PACE_PACE_TO
    if s.paceMode n = 1 ∧ k ≠ 0 ∧ 0 < s.srcFill n ∧ s.srcFill n < s.paceHigh n ∧ !(s.ch n).paceOn ∧
        (s.ch n).paceSince + us k ≤ s.now then
      s.setCh n { s.ch n with paceTimeout := true }
    else s

/-! ## Responses -/

/-- The data of a burst, once its read has succeeded. -/
def State.burstData (s : State) (b : Burst) : Option (List Byte) :=
  match b.data with
  | some d => some d
  | none =>
    b.rd.bind (fun id =>
      let l := s.answersOf id
      if l.length = blockCount b.src b.len && l.all (·.ok) then some (assemble b.len l) else none)

/-- Where the writes of channel `n` go. -/
inductive Sink where
  | decoder (d : Nat)
  | encoder (e : Nat)
  | dram
  | sram
  | refused (cause : Nat)
deriving DecidableEq, Repr

/-- The target of a burst's write, with the refusals of R29 and R30 and the destinations of R74. -/
def State.sinkOf (s : State) (n : Nat) (b : Burst) : Sink :=
  if b.idx = recompIdx then .decoder (n - 8)
  else if fixedDst n then .encoder ((n - 20) / 2)
  else
    match s.writeRefusal n b.dst b.len with
    | some c => .refused c
    | none =>
      match s.region b.dst with
      | some .dram => if s.dramAsleep then .refused 4 else .dram
      | some .regs => .refused 1
      | some _ =>
        match apertureAt b.dst with
        | some d => .decoder d
        | none => .sram
      | none => .refused 1

/-- Granary has taken every block of access `id` into its queues (R124). -/
def State.dramAccepted (s : State) (id : Nat) : Bool :=
  !((s.chan 0).held.any (fun q => q.id == id) || (s.chan 1).held.any (fun q => q.id == id))

/-- The bytes completed in order grow over the pieces that follow on (R92). -/
def foldAhead : Nat → Nat → List (Nat × Nat) → Nat × List (Nat × Nat)
  | 0, p, l => (p, l)
  | fuel + 1, p, l =>
    match takeFirst (fun e => e.1 == p) l with
    | some (e, rest) => foldAhead fuel (p + e.2) rest
    | none => (p, l)

/-- Descriptor `idx` of a list with the piece at `off` completed. -/
def markDone (idx off len : Nat) (l : List Desc) : List Desc :=
  l.map (fun d =>
    if d.idx = idx then
      let (p, a) := foldAhead (d.ahead.length + 1) d.inOrder (d.ahead ++ [(off, len)])
      { d with inOrder := p, ahead := a }
    else d)

/-- The burst of a channel replaced. -/
def State.putBurst (s : State) (n : Nat) (old new : Burst) : State :=
  s.setCh n { s.ch n with bursts := (s.ch n).bursts.map (fun c => if c = old then new else c) }

/-- The burst of a channel removed. -/
def State.dropBurst (s : State) (n : Nat) (b : Burst) : State :=
  s.setCh n { s.ch n with bursts := (s.ch n).bursts.filter (fun c => c != b) }

/-- A burst whose write was answered with OK is complete: REMAIN falls in order (R92). -/
def State.burstDone (s : State) (n : Nat) (b : Burst) : State :=
  let s := s.showRetry n
  if b.idx = recompIdx then s
  else
    let x := s.ch n
    s.setCh n { x with
      held := markDone b.idx b.off b.len x.held
      dramFail := x.dramFail.filter (fun e => e.2 != b.off || b.idx == lateIdx) }

/-- The write-back of a burst is answered: in DRAM by the arrival of both words; in SRAM the words are written now. -/
def State.backAnswered (s : State) (b : Burst) : Bool :=
  match b.rd, b.wr with
  | some i, some j => decide ((s.answersOf i).length = 1 ∧ (s.answersOf j).length = 1)
  | _, _ => false

/-- The write-back of channel `n` can complete: both words have arrived in DRAM, or the ring lies in SRAM (R78, R81). -/
def State.backComplete (s : State) (b : Burst) : Bool :=
  if b.wr.isSome then s.backAnswered b && ((s.answersOf (b.rd.getD 0)) ++ (s.answersOf (b.wr.getD 0))).all (·.ok)
  else s.rangeRegion b.dst 32 == some .shared

/-- The write-back of channel `n` is complete: the descriptor is returned with the STATUS that its burst carries (R81). -/
def State.finishBack (s : State) (n : Nat) (b : Burst) : State :=
  let w := b.data.getD []
  let s := if b.wr.isSome || s.rangeRegion b.dst 32 != some .shared then s
    else (s.setBytes (b.dst + 24) (w.take 4)).setBytes b.dst ((w.drop 4).take 4)
  let s := ((s.dropBurst n b).dropAnswers b.rd).dropAnswers b.wr
  match (s.ch n).held with
  | d :: rest => (s.returned n d rest b.off).showRetry n
  | [] => s

/-- The write of a burst with its data is carried out: SRAM and the FIFO apertures take it at once; Granary answers OK
when it has taken every block into its queues (R93, R124). -/
def State.writeBurst (s : State) (n : Nat) (b : Burst) (d : List Byte) : State :=
  if b.idx = backIdx then s.finishBack n b else
  match s.sinkOf n b with
  | .decoder k =>
    let x := s.dec k
    let s := if b.idx = recompIdx then s.setDec k { x with recompute := some (x.recompute.getD [] ++ d) }
      else s.setDec k { x with input := x.input ++ [(b.src, d)] }
    (((s.dropBurst n b).dropAnswers b.rd)).burstDone n b
  | .encoder k =>
    let s := s.setEnc k { s.enc k with input := (s.enc k).input ++ d }
    (((s.dropBurst n b).dropAnswers b.rd)).burstDone n b
  | .sram =>
    let s := s.setBytes b.dst (d.take b.len)
    (((s.dropBurst n b).dropAnswers b.rd)).burstDone n b
  | .dram =>
    match b.wr with
    | some id =>
      if s.dramAccepted id then (s.putBurst n b { b with okd := true }).burstDone n b else s
    | none =>
      let (id, s) := s.dramSubmit n b.dst b.len (some d)
      let s := s.dropAnswers b.rd
      let b' := { b with data := some d, rd := none, wr := some id }
      let s := s.putBurst n b b'
      if s.dramAccepted id then (s.putBurst n b' { b' with okd := true }).burstDone n b' else s
  | .refused _ => s

/-- A burst of the channel can complete now: it is not answered yet, its data are there, its write is not refused. -/
def State.canComplete (s : State) (n : Nat) (b : Burst) : Bool :=
  if b.idx = backIdx then !b.retry && s.backComplete b else
  !b.okd && !b.retry && b.idx != fetchIdx && (s.burstData b).isSome &&
    (match s.sinkOf n b with
     | .refused _ => false
     | .dram => match b.wr with
       | some id => s.dramAccepted id
       | none => true
     | _ => true)

/-- BURST_COMPLETE (R92). -/
def execBurstComplete (n : Fin 32) (s : State) : Host.Outcome State Fault Refusal :=
  .next <|
    match (s.ch n).bursts.find? (s.canComplete n) with
    | some b => s.writeBurst n b ((s.burstData b).getD [])
    | none => s

/-- DESCRIPTOR_FETCH (R77, R80, R82, R84): the fetched descriptor has been read. With OWN 1 it is checked and held, and an
Idle channel runs; OWN 0 ends the fetching until the next doorbell. -/
def execDescriptorFetch (n : Fin 32) (s : State) : Host.Outcome State Fault Refusal :=
  .next <|
    match (s.ch n).bursts.find? (fun b => b.idx == fetchIdx && !b.retry && (s.burstData b).isSome) with
    | none => s
    | some b =>
      let l := (s.burstData b).getD []
      let s := ((s.dropBurst n b).dropAnswers b.rd).showRetry n
      let x := s.ch n
      if (leAt l 0 1).testBit 0 then
        let s := s.setCh n { x with held := x.held ++ [parseDesc n b.off l] }
        let s := s.setFld (R.DMA_CHn_HEAD n) F.DMA_CHn_HEAD_FETCH ((b.off + 1) % s.ringSize n)
        if s.dmaState n = 1 then s.setDmaState n 2 else s
      else s.setCh n { x with look := false }

/-- Every block of the write of a burst has been answered by Granary. -/
def State.writeAnswered (s : State) (b : Burst) : Bool :=
  match b.wr with
  | some id => b.okd && decide ((s.answersOf id).length = blockCount b.dst b.len)
  | none => false

/-- Every block of the write of a burst has arrived. -/
def State.hasArrived (s : State) (b : Burst) : Bool :=
  s.writeAnswered b && (match b.wr with
    | some id => (s.answersOf id).all (·.ok)
    | none => false)

/-- WRITE_ARRIVAL (R93, R95): the held data of the burst are released; a barrier descriptor may return. -/
def execWriteArrival (n : Fin 32) (s : State) : Host.Outcome State Fault Refusal :=
  .next <|
    match (s.ch n).bursts.find? s.hasArrived with
    | some b => (s.dropBurst n b).dropAnswers b.wr
    | none => s

/-! ## Failures -/

/-- The read of a burst has failed: an error answer of Granary, or an access that was refused. -/
def State.readFailed (s : State) (b : Burst) : Option Nat :=
  match b.data, b.rd with
  | some _, _ => none
  | none, some id =>
    let l := s.answersOf id
    if l.length = blockCount b.src b.len then ((l.find? (fun d => !d.ok)).map (·.addr)) else none
  | none, none => some b.src

/-- A burst has received an error response, with the failing address (R96): of its read, of its write, or, for a
barrier descriptor, of a write that had its OK (R95). -/
def State.burstFailed (s : State) (n : Nat) (b : Burst) : Option Nat :=
  if b.retry then none
  else if b.idx = backIdx then
    if b.wr.isSome then
      if s.backAnswered b then
        (((s.answersOf (b.rd.getD 0)) ++ (s.answersOf (b.wr.getD 0))).find? (fun d => !d.ok)).map (·.addr)
      else none
    else if s.rangeRegion b.dst 32 == some .shared then none
    else some b.dst
  else if b.okd then
    if (s.ch n).held.any (fun d => d.idx == b.idx && d.barrier) && s.writeAnswered b then
      match b.wr with
      | some id => ((s.answersOf id).find? (fun d => !d.ok)).map (·.addr)
      | none => none
    else none
  else
    match s.readFailed b with
    | some a => some a
    | none =>
      if (s.burstData b).isSome && b.idx != fetchIdx then
        match s.sinkOf n b with
        | .refused _ => some b.dst
        | _ => none
      else none

/-- Descriptor `d` with the piece at `off` not completed: a write that had its OK failed before it arrived (R95, R96). -/
def unDone (off len : Nat) (d : Desc) : Desc :=
  if off < d.inOrder then
    { d with inOrder := off, ahead := d.ahead ++ (if off + len < d.inOrder then [(off + len, d.inOrder - (off + len))] else []) }
  else { d with ahead := d.ahead.filter (fun e => e.1 != off) }

/-- A camera channel drops the rest of a frame (R100): the descriptor returns with STATUS 0x03, as do those that follow up to
the frame's size (R317); the frame's remaining bytes leave the FIFO, and the port drops what still comes of the frame
(R316). -/
def State.dropFrame (s : State) (n : Nat) : State :=
  let x := s.camPort (n - 16)
  let rest := x.fifo.dropWhile (fun i => i != .frameStart)
  let open_ := if rest.isEmpty then (x.frames.find? (·.marked)).map (·.info.fseq) else none
  let s := s.setCamPort (n - 16) { x with fifo := rest }
  let g := R.CAMn_GEOM (n - 16)
  let size := 2 * s.fld g F.CAMn_GEOM_LINEPX * s.fld g F.CAMn_GEOM_FRAMELINES
  let y := s.ch n
  let s := s.setCh n { y with
    bursts := y.bursts.filter (fun b => b.okd || b.idx == lateIdx || b.idx == fetchIdx || b.idx == backIdx)
    frameSkip := max 1 (size - y.frameUsed) }
  s.camDrop (n - 16) open_ 5

/-- A recompute whose retries are exhausted fails; the channel does not halt (R293). -/
def State.recompFailed (s : State) (n : Nat) : State :=
  let x := s.ch n
  let s := s.setCh n { x with recomp := none, bursts := x.bursts.filter (fun b => b.idx != recompIdx) }
  let s := s.setDec (n - 8) { s.dec (n - 8) with recompute := none }
  let k := (n - 8) / 2
  s.setHam k { s.ham k with
    jobs := (s.ham k).jobs.map (fun j => if j.given = some (n - 8) then { j with failed := true } else j) }

/-- The retries of a burst of channel `n` are exhausted (R94, R98 to R100, R125): a fetch or write-back halts with cause
0x2, a camera channel drops the frame, every other channel halts with cause 0x1. A late burst of a camera frame that is
over is released. -/
def State.exhausted (s : State) (n : Nat) (b : Burst) : State :=
  if b.idx = fetchIdx ∨ b.idx = backIdx then s.haltWhenAnswered n 2
  else if 16 ≤ n ∧ n < 20 then
    let s := if b.idx ≠ lateIdx ∨ 0 < (s.ch n).frameUsed then s.dropFrame n else s
    s.setCh n { s.ch n with bursts := (s.ch n).bursts.filter (fun c =>
      !(c.retry && decide (s.fld (R.DMA_CHn_CFG n) F.DMA_CHn_CFG_RETRY < c.fails))) }
  else s.haltWhenAnswered n 1

/-- A descriptor with one failed burst more; of a barrier descriptor, with the piece taken back (R95, R96). -/
def failedDesc (b : Burst) (late : Bool) (d : Desc) : Desc :=
  if d.idx = b.idx then
    let d := if b.okd && !late then unDone b.off b.len d else d
    { d with retries := min (d.retries + 1) 255 }
  else d

/-- A burst of channel `n` fails (R96, R98, R100): counts and entry, then a retry under its own grant, with the data that it
has read (R87), a dropped frame or a halt; the lowest cause that applies is reported. A late burst, with cause 0x11,
leaves its descriptor (R94). In Aborting nothing but a write-back is retried (R106). -/
def State.failBurst (s : State) (n : Nat) (b : Burst) (addr cause : Nat) : State :=
  let late := cause = 0x11 || b.idx = lateIdx
  let fails := b.fails + 1
  let data := s.burstData b
  let fromDram := decide (8 ≤ n ∧ n < 16) && b.data.isNone && b.rd.isSome && data.isNone
  let s := (s.dropAnswers b.rd).dropAnswers b.wr
  let s := s.setErrAddr n addr
  let s := s.putBurst n b { b with
    idx := if late then lateIdx else b.idx, fails := fails, retry := true, okd := false
    data := if b.idx = fetchIdx then none else data }
  let x := s.ch n
  let s := s.setCh n { x with
    held := x.held.map (failedDesc b late)
    dramFail := if fromDram && x.dramFail.isNone then some (addr, b.off) else x.dramFail
    bursts := if s.dmaState n = 6 then x.bursts.filter (fun c => !c.retry || c.idx == backIdx || c.idx == lateIdx ||
      c.idx == recompIdx) else x.bursts }
  let s := s.showRetry n
  let s := s.logFault { level := 3, kind := 0, unit := n, src := 2, cause := cause }
  let (above, s) := s.noteFailure n
  let out := decide (s.fld (R.DMA_CHn_CFG n) F.DMA_CHn_CFG_RETRY < fails)
  let s := if b.idx = recompIdx then (if out then s.recompFailed n else s)
    else if out then s.exhausted n b else s
  if above then s.haltWhenAnswered n 4 else s

/-- BURST_FAILURE (R96, R97). -/
def execBurstFailure (n : Fin 32) (s : State) : Host.Outcome State Fault Refusal :=
  .next <|
    match (s.ch n).bursts.find? (fun b => (s.burstFailed n b).isSome) with
    | some b =>
      let s' := match s.sinkOf n b with
        | .refused c => if (s.burstData b).isSome && !b.okd && decide (c ≤ 2 ∨ c = 4) then
            s.accessRefused n c else s
        | _ => s
      s'.failBurst n b ((s.burstFailed n b).getD 0) 0x10
    | none => s

/-- LATE_WRITE_FAILURE (R94): the bit in DMA_LATE_EVT and an entry; the burst is written again from its held data, under
the retries and the threshold of R96 and R98. -/
def execLateWriteFailure (n : Fin 32) (s : State) : Host.Outcome State Fault Refusal :=
  .next <|
    match (s.ch n).bursts.find? (fun b =>
        s.writeAnswered b && !s.hasArrived b && !(s.ch n).held.any (fun d => d.idx == b.idx && d.barrier)) with
    | some b =>
      let addr := match b.wr with
        | some id => (((s.answersOf id).find? (fun d => !d.ok)).map (·.addr)).getD b.dst
        | none => b.dst
      (s.orFld R.DMA_LATE_EVT F.DMA_LATE_EVT_CH n).failBurst n b addr 0x11
    | none => s

/-- DRAIN_COMPLETE (R84, R98, R102): with every burst answered, a due halt is reported; a draining channel with no
retry left is Paused, or Disabled when EN is 0. -/
def execDrainComplete (n : Fin 32) (s : State) : Host.Outcome State Fault Refusal :=
  .next <|
    let x := s.ch n
    if outstanding x ≠ 0 then s
    else if x.haltDue ≠ 0 then s.dmaHalt n x.haltDue
    else if s.dmaState n = 3 ∧ !x.bursts.any (·.retry) ∧ s.dueStatus n = none then
      s.setDmaState n (if s.bit (R.DMA_CHn_CTRL n) F.DMA_CHn_CTRL_EN then 4 else 0)
    else s

/-! ## Control -/

/-- The cause of a halt at enable, 0 for a valid configuration (R78, R84, R88). -/
def State.enableCause (s : State) (n : Nat) : Nat :=
  let k := s.fld (R.DMA_CHn_RING_HI n) F.DMA_CHn_RING_HI_SIZE_LOG2
  let base := s.ringBase n
  let g := s.rangeRegion base (32 * 2 ^ (min k 12))
  let m := s.paceMode n
  let modeOk := m = 0 || (m = 1 && fixedSrc n) || (m = 2 && ((8 ≤ n && n < 16) || n = 20 || n = 22))
  let lowOk := m = 0 || decide (s.fld (R.DMA_CHn_PACE n) F.DMA_CHn_PACE_LOW < s.fld (R.DMA_CHn_PACE n) F.DMA_CHn_PACE_HIGH)
  if g ≠ some .shared ∧ g ≠ some .dram then 5
  else if k < 1 ∨ 12 < k ∨ 4 < s.fld (R.DMA_CHn_CFG n) F.DMA_CHn_CFG_BURST ∨ !modeOk ∨ !lowOk then 6
  else 0

/-- Channel `n` leaves Running or Idle for Draining when it is asked to pause or to stop (R84). -/
def State.dmaDrain (s : State) (n : Nat) : State :=
  let st := s.dmaState n
  if st = 1 ∨ st = 2 then s.setDmaState n 3 else s

/-- EN of channel `n` is written (R84). -/
def State.dmaEnChange (s : State) (n : Nat) (en : Bool) : State :=
  let st := s.dmaState n
  if en then
    if st = 0 then
      let c := s.enableCause n
      if c = 0 then (s.setCh n { s.ch n with paceOn := false, paceTimeout := false, paceSince := s.now }).setDmaState n 1
      else s.dmaHalt n c
    else s
  else if st = 4 then s.setDmaState n 0
  else if st = 5 then (s.setDmaState n 0).setFld (R.DMA_CHn_STAT n) F.DMA_CHn_STAT_HALT_CAUSE 0
  else s.dmaDrain n

/-- A pause that is asked for or lifted takes effect (R84, R102, R103). -/
def State.dmaPauseChange (s : State) (n : Nat) : State :=
  if s.dmaPaused n then s.dmaDrain n
  else if s.dmaState n = 4 ∧ s.bit (R.DMA_CHn_CTRL n) F.DMA_CHn_CTRL_EN then s.dmaIdleOrRun n
  else s

/-- Channel `n` leaves Halted (R84, R101): Paused while PAUSE is 1, else Idle or Running, with a fresh retry count. -/
def State.leaveHalted (s : State) (n cause : Nat) : State :=
  let x := s.ch n
  let s := s.setCh n { x with
    bursts := x.bursts.map (fun b => { b with fails := 0 }), haltDue := 0, dramFail := none }
  let s := (s.setFld (R.DMA_CHn_STAT n) F.DMA_CHn_STAT_HALT_CAUSE 0).setFld (R.DMA_CHn_STAT n) F.DMA_CHn_STAT_RETRYCNT 0
  let s := s.logFault { level := 3, kind := 3, unit := n, src := 2, cause := cause }
  if s.dmaPaused n then s.setDmaState n 4 else s.dmaIdleOrRun n

/-- SKIP of channel `n`, halted with cause `c` (R101): the halted descriptor, the oldest held, is to be returned with STATUS
0x02, or 0x04 for an invalid one; its failed bursts are not retried. After a failed fetch none is held, and the fetch goes
on. -/
def State.skipHalted (s : State) (n c : Nat) : State :=
  let x := s.ch n
  match x.held with
  | d :: _ => s.setCh n { x with
      backStatus := some (if c = 3 || !d.valid then 4 else 2)
      bursts := x.bursts.filter (fun b => !(b.retry && (b.idx == d.idx || b.idx == backIdx))) }
  | [] => s

/-- RESUME or SKIP written alone (R101). -/
def State.resumeSkip (s : State) (n : Nat) (resume skip : Bool) : State :=
  let c := s.fld (R.DMA_CHn_STAT n) F.DMA_CHn_STAT_HALT_CAUSE
  if s.dmaState n ≠ 5 ∨ c = 5 ∨ c = 6 ∨ (resume && skip) then s
  else if resume then s.leaveHalted n 0x12
  else if skip then
    if c = 7 then s.leaveHalted n 0x13
    else (s.skipHalted n c).leaveHalted n 0x13
  else s

/-- A write of `v` to DMA_CHn_CTRL (R84, R101 to R103). -/
def State.dmaChCtrlWrite (s : State) (n : Nat) (v : Word) : State :=
  let s := s.writeByCodes (R.DMA_CHn_CTRL n) v
  let s := s.dmaEnChange n (s.bit (R.DMA_CHn_CTRL n) F.DMA_CHn_CTRL_EN)
  let s := s.dmaPauseChange n
  s.resumeSkip n (getField F.DMA_CHn_CTRL_RESUME v != 0) (getField F.DMA_CHn_CTRL_SKIP v != 0)

/-- CHANNEL_ENABLE (R84). -/
def execChannelEnable (r : Requester) (n : Fin 32) (v : Word) (s : State) : Host.Outcome State Fault Refusal :=
  .next ((s.dmaChCtrlWrite n (putField F.DMA_CHn_CTRL_EN v 1)).written r)

/-- CHANNEL_DISABLE (R84). -/
def execChannelDisable (r : Requester) (n : Fin 32) (v : Word) (s : State) : Host.Outcome State Fault Refusal :=
  .next ((s.dmaChCtrlWrite n (putField F.DMA_CHn_CTRL_EN v 0)).written r)

/-- CHANNEL_PAUSE (R102). -/
def execChannelPause (r : Requester) (n : Fin 32) (v : Word) (s : State) : Host.Outcome State Fault Refusal :=
  .next ((s.dmaChCtrlWrite n (putField F.DMA_CHn_CTRL_PAUSE v 1)).written r)

/-- CHANNEL_UNPAUSE (R103). -/
def execChannelUnpause (r : Requester) (n : Fin 32) (v : Word) (s : State) : Host.Outcome State Fault Refusal :=
  .next ((s.dmaChCtrlWrite n (putField F.DMA_CHn_CTRL_PAUSE v 0)).written r)

/-- CHANNEL_RESUME (R101). -/
def execChannelResume (r : Requester) (n : Fin 32) (v : Word) (s : State) : Host.Outcome State Fault Refusal :=
  .next ((s.dmaChCtrlWrite n (putField F.DMA_CHn_CTRL_RESUME v 1)).written r)

/-- CHANNEL_SKIP (R101). -/
def execChannelSkip (r : Requester) (n : Fin 32) (v : Word) (s : State) : Host.Outcome State Fault Refusal :=
  .next ((s.dmaChCtrlWrite n (putField F.DMA_CHn_CTRL_SKIP v 1)).written r)

/-- A write of `v` to DMA_CTRL: EN 0 acts as PAUSE on every channel (R109). -/
def State.dmaCtrlWrite (s : State) (v : Word) : State :=
  (List.range 32).foldl State.dmaPauseChange (s.writeByCodes R.DMA_CTRL v)

/-- DOORBELL (R82): word 0 at the fetch index is read again; the doorbell is latched. -/
def execDoorbell (r : Requester) (n : Fin 32) (s : State) : Host.Outcome State Fault Refusal :=
  .next ((s.setCh n { s.ch n with look := true }).written r)

/-- A write of `v` to DMA_CHn_RING_HI (R85): accepted only in Disabled, HEAD and FETCH become 0 and the partial
descriptor state is discarded; in every other state it is ignored. -/
def State.ringHiWrite (s : State) (n : Nat) (v : Word) : State :=
  if s.dmaState n = 0 then
    let s := s.writeByCodes (R.DMA_CHn_RING_HI n) v
    (s.setReg (R.DMA_CHn_HEAD n) 0).setCh n { s.ch n with
      held := [], bursts := lateBursts (s.ch n).bursts, backStatus := none, abort := none, abortDesc := none
      dramFail := none, frameSkip := 0, tail := 0 }
  else s

/-- RING_RESET (R85). -/
def execRingReset (r : Requester) (n : Fin 32) (v : Word) (s : State) : Host.Outcome State Fault Refusal :=
  .next ((s.ringHiWrite n v).written r)

/-! ## Abort -/

/-- The result of an abort decision (R105). -/
def State.abortRes (s : State) (n v : Nat) : State := s.setFld (R.DMA_CHn_STAT n) F.DMA_CHn_STAT_ABORT_RES v

/-- Descriptor `i` of channel `n`, owned by the engine, is to be aborted (R105, R106): of two aborts the one nearer to HEAD
stands, and it takes effect when HEAD reaches it. Nothing of it or of a later descriptor is issued or written any more. -/
def State.abortAt (s : State) (n i : Nat) (d : Option Desc) : State :=
  let s := s.abortRes n 1
  let x := s.ch n
  let dist := fun j => modSub (s.ringSize n) j (s.dmaHead n)
  let first := match x.abort with
    | some j => if dist j ≤ dist i then j else i
    | none => i
  let taken := fun j => j != recompIdx && j != lateIdx && j != fetchIdx && j != backIdx && decide (dist first ≤ dist j)
  (s.setCh n { x with
    abort := some first, abortDesc := if first = i then d else x.abortDesc
    bursts := x.bursts.filter (fun b => !(taken b.idx && b.wr.isNone)) }).abortDue n

/-- Descriptor `i` is being written back by channel `n`: it counts as returned (R104). -/
def beingReturned (x : DmaChan) (i : Nat) : Bool :=
  x.bursts.any (fun b => b.idx == backIdx) && x.held.head?.any (fun d => d.idx == i)

/-- A write of INDEX `i` to DMA_CHn_ABORT (R104 to R106): a descriptor that the channel holds, or that the ring shows with
OWN 1, is owned by the engine. -/
def State.abortWrite (s : State) (n i : Nat) : State :=
  let x := s.ch n
  if s.dmaState n = 0 ∨ s.ringSize n ≤ i ∨ beingReturned x i then s.abortRes n 2
  else if x.held.any (fun d => d.idx == i) then s.abortAt n i none
  else
    let (l, s) := s.memRead n (s.descAddr n i) 32
    match allRead l with
    | some l => if (leAt l 0 1).testBit 0 then s.abortAt n i (some (parseDesc n i l)) else s.abortRes n 2
    | none => s.abortRes n 2

/-- ABORT_REQUEST (R105). -/
def execAbortRequest (r : Requester) (n : Fin 32) (v : Word) (s : State) : Host.Outcome State Fault Refusal :=
  .next ((s.abortWrite n (getField F.DMA_CHn_ABORT_INDEX v)).written r)

/-- ABORT_COMPLETE (R106): INDEX and the later descriptors that were started have returned with STATUS 0x01, and no write is
outstanding: EN clears and the channel is Disabled. -/
def execAbortComplete (n : Fin 32) (s : State) : Host.Outcome State Fault Refusal :=
  .next <|
    let x := s.ch n
    if s.dmaState n = 6 ∧ x.held = [] ∧ outstanding x = 0 then
      let s := s.setCh n { x with abort := none, haltDue := 0, bursts := lateBursts x.bursts }
      let s := s.setFld (R.DMA_CHn_HEAD n) F.DMA_CHn_HEAD_FETCH (s.dmaHead n)
      (s.setBit (R.DMA_CHn_CTRL n) F.DMA_CHn_CTRL_EN false).setDmaState n 0
    else s

/-! ## Camera frames -/

/-- CAPTURE_FRAME_START (R317): the mark leaves the FIFO, and the engine begins the frame with a new descriptor. A
descriptor that still has bytes to move is returned with STATUS 0x03 before. -/
def execCaptureFrameStart (p : Fin 4) (s : State) : Host.Outcome State Fault Refusal :=
  .next <|
    let n := 16 + p.val
    let x := s.camPort p
    let y := s.ch n
    match x.fifo with
    | .frameStart :: t =>
      if outstanding y ≠ 0 then s
      else if headComplete y then s
      else if y.held.any (fun d => decide (d.issued ≠ 0)) then s.setCh n { y with backStatus := some 3 }
      else (s.setCamPort p { x with fifo := t }).setCh n { y with frameUsed := 0 }
    | _ => s

/-! ## Derived registers -/

/-- The address that DMA_CHn_CUR_SRC and DMA_CHn_CUR_DST show: they move with REMAIN, and read 0 for a fixed end and
for an invalid descriptor (R77, R92). -/
def State.curAddr (s : State) (n : Nat) (dst : Bool) : Nat :=
  match (s.ch n).held with
  | d :: _ =>
    if !d.valid then 0
    else if dst then (if fixedDst n then 0 else d.dst + d.inOrder)
    else (if fixedSrc n then 0 else d.src + d.inOrder)
  | [] => 0

end Sys2Proof.Machine
end

