-- ==== Sys2Proof/Machine/Miller.lean ====
section
/-! DEFINITION. Miller: the decoders with their errors, hunt and recompute blocks, and the encoders (R136 to R159). -/

namespace Sys2Proof.Machine

/-! ## Hamlet faults -/

/-- The events of a fault list within the window of a threshold: the stamps with this one, and whether the threshold is
crossed anew (R296). -/
def crossing (now w limit : Nat) (stamps : List Nat) (above : Bool) : List Nat × Bool × Bool :=
  let old := recent now w stamps
  let new := (now :: old).take 1024
  let was := above && decide (limit < old.length)
  (new, decide (limit < new.length), decide (limit < new.length) && !was)

/-- A transient fault of hamlet `k` (R151, R196, R294): its entry, and the threshold once for each crossing. -/
def State.hamletFault (s : State) (k src unit cause : Nat) : State :=
  let s := s.logFault { level := 2, kind := 0, unit := unit, src := src, cause := cause }
  let w := ms (s.fld (R.HAM_ERR_THR k) F.HAM_ERR_THR_WINDOW)
  let c := crossing s.now w (s.fld (R.HAM_ERR_THR k) F.HAM_ERR_THR_ERRMAX) (s.ham k).stamps (s.ham k).above
  let s := s.setHam k { s.ham k with stamps := c.1, above := c.2.1 }
  if c.2.2 then
    let s := (s.setBit (R.HAM_EVT k) F.HAM_EVT_THRESH true).setBit R.FAULT_EVT F.FAULT_EVT_HAMTHR true
    s.logFault { level := 2, kind := 5, unit := k, src := 5, cause := 6 }
  else s

/-! ## Geometry -/

/-- The first decoded column of hamlet `k` and its count, for an overlap `v` (R18). -/
def decodedRange (v k : Nat) : Nat × Nat :=
  let p := 2112 - v
  (6 * k * p, if k = 3 then 6 * p + v else 6 * p)

/-- The page length at the resolution of a format (R148). -/
def lengthAt (fmt length : Nat) : Nat := if fmt = 1 then (length + 1) / 2 else length

/-- X0 and WIDTH of the blocks of hamlet `k` (R148). -/
def blockGeom (v k fmt : Nat) : Nat × Nat :=
  let (x, n) := decodedRange v k
  if fmt = 1 then (x / 2, (n + 1) / 2) else (x, n)

/-- Ranges overlap. -/
def rangesMeet (a b c d : Nat) : Bool := decide (a < d ∧ c < b)

/-- A block is accepted for page context `n` of arming serial `ser` by hamlet `k` (R148). -/
def State.blockAccepted (s : State) (k n ser : Nat) (h : BlockHeader) : Bool :=
  let g := blockGeom s.weaver.overlap k h.fmt
  decide (h.fmt = (s.page n).fmt) && decide (h.x0 = g.1 ∧ h.width = g.2) &&
    decide (h.line0 + h.lines ≤ lengthAt h.fmt (s.page n).length) &&
    !((s.ham k).made.any (fun r => r.1 == ser && rangesMeet r.2.1 r.2.2 h.line0 (h.line0 + h.lines)))

/-! ## The decoded-line area -/

/-- Bytes of the decoded-line area (R163). -/
def decodedArea : Nat := 0x30000

/-- The chip address of byte `i` of a held line. -/
def heldAddr (k : Nat) (x : DecLine) (i : Nat) : Nat :=
  lineBase k + 0x10000 + (Config.decodedBase k + x.off + i) % decodedArea

/-- The bytes of a held line. -/
def State.heldBytes (s : State) (k : Nat) (x : DecLine) : List Byte :=
  (List.range x.len).map (fun i => s.byte (heldAddr k x i))

/-- The last printed line of a page, as page line, that reads decoded line `y` (R169). -/
def lastReader (fmt y : Nat) : Nat := if fmt = 1 then 2 * y + 1 else y

/-- The first line that a hamlet still has to prepare. -/
def oldestLine (x : HamletSt) : Nat := x.redo.headD x.next

/-- The line whose pass runs or comes next (R308, HAM_PREPLINE). -/
def prepLine (x : HamletSt) : Nat :=
  match x.pass with
  | some p => p.line
  | none => oldestLine x

/-- Every screening pass that reads held line `x` of hamlet `k` has completed, in the hamlet and in the lower one that
its overlap columns go to (R19, R293). -/
def State.heldDone (s : State) (k : Nat) (x : DecLine) : Bool :=
  match s.pages.find? (fun e => e.2.serial == x.serial && 2 ≤ e.2.state && e.2.state ≤ 4) with
  | none => true
  | some (_, c) =>
    let past := fun k' => lineLt (lineAdd c.lfirst (lastReader x.fmt x.line)) (oldestLine (s.ham k'))
    c.state == 4 || (c.lfirst != 0xFFFFFFFF && past k && (k == 0 || past (k - 1)))

/-- Lines leave the area, oldest first, until `need` bytes are free; none where a line still needed stands in the way
(R293). -/
def State.freeArea (s : State) (k need : Nat) : List DecLine → Option (List DecLine)
  | [] => if need ≤ decodedArea then some [] else none
  | x :: t =>
    if need + (x.len + (t.map (·.len)).sum) ≤ decodedArea then some (x :: t)
    else if s.heldDone k x then s.freeArea k need t
    else none

/-- A held line that a block of page serial `ser` brings. -/
def ofBlock (ser line0 lines : Nat) (x : DecLine) : Bool :=
  x.serial == ser && decide (line0 ≤ x.line ∧ x.line < line0 + lines)

/-- The bytes of a line of an original written where held line `x` of hamlet `k` lies. -/
def State.putLine (s : State) (k : Nat) (x : DecLine) (l : List Byte) : State :=
  (l.zipIdx).foldl (fun s e => s.setByte (heldAddr k x e.2) e.1) s

/-- The lines of an original written into the area of hamlet `k`, none while there is no room: where lines of the block are
still held, not valid, they are written again in their places (R293), and else at the end of the ring. -/
def State.storeLines (s : State) (k d ser : Nat) (h : BlockHeader) (orig : List Byte) : Option State :=
  let n := lineBytes h.fmt h.width
  let mine := ofBlock ser h.line0 h.lines
  let x := s.ham k
  if x.held.any mine then
    let s := (x.held.filter mine).foldl (fun s y => s.putLine k y (slice orig ((y.line - h.line0) * n) n)) s
    some (s.setHam k { s.ham k with
      held := (s.ham k).held.map (fun y => if mine y then { y with valid := true } else y)
      made := (ser, h.line0, h.line0 + h.lines) :: (s.ham k).made })
  else
  (s.freeArea k (n * h.lines) (s.ham k).held).map (fun keep =>
    let s := s.setHam k { s.ham k with held := keep, made := (ser, h.line0, h.line0 + h.lines) :: (s.ham k).made }
    (List.range h.lines).foldl (fun s i =>
      let x : DecLine := ⟨ser, h.line0 + i, h.fmt, (s.ham k).ringEnd, n, d, h.line0, true⟩
      let s := s.putLine k x (slice orig (i * n) n)
      s.setHam k { s.ham k with
        held := (s.ham k).held ++ [x], ringEnd := ((s.ham k).ringEnd + n) % decodedArea }) s)

/-! ## Decoder states and errors -/

/-- Decoder `d` put into a STATE of MILLER_DECd_STAT: 0 stopped, 1 header, 2 coded, 3 raw, 4 trailer, 5 hunt, 6 waiting
(R159). -/
def State.setDecState (s : State) (d v : Nat) : State :=
  s.setFld (R.MILLER_DECd_STAT d) F.MILLER_DECd_STAT_STATE v

/-- The STATE of decoder `d`. -/
def State.decState (s : State) (d : Nat) : Nat := s.fld (R.MILLER_DECd_STAT d) F.MILLER_DECd_STAT_STATE

/-- The bit of decoder `d` in MILLER_CTRL.DEC_EN. -/
def State.decEnabled (s : State) (d : Nat) : Bool := (s.fld R.MILLER_CTRL F.MILLER_CTRL_DEC_EN).testBit d

/-- The counter of MILLER_DECd_ERRCNT of an error: 1 header, 2 conflict, 3 stream, 4 CRC. -/
def errField (kind : Nat) : Field :=
  if kind = 1 then F.MILLER_DECd_ERRCNT_HDR else if kind = 2 then F.MILLER_DECd_ERRCNT_CONFLICT
  else if kind = 3 then F.MILLER_DECd_ERRCNT_STREAM else F.MILLER_DECd_ERRCNT_CRC

/-- An error of decoder `d` (R151), with LINE0 where its header could be read. -/
def State.decError (s : State) (d kind : Nat) (line0 : Option Nat) : State :=
  let s := s.count (R.MILLER_DECd_ERRCNT d) (errField kind) 1
  let s := s.orFld R.MILLER_EVT F.MILLER_EVT_DEC_ERR d
  let s := s.setReg (R.MILLER_DECd_ERRLINE d) (BitVec.ofNat 32 (line0.getD 0xFFFFFFFF))
  s.hamletFault (d / 2) 4 d kind

/-- The first `n` bytes of input pieces, and the rest with the addresses that it came from. -/
def takePieces : Nat → List (Nat × List Byte) → List Byte × List (Nat × List Byte)
  | _, [] => ([], [])
  | n, (a, l) :: t =>
    if n = 0 then ([], (a, l) :: t)
    else if l.length ≤ n then
      let (b, rest) := takePieces (n - l.length) t
      (l ++ b, rest)
    else (l.take n, (a + n, l.drop n) :: t)

/-- The chip address of the front of the input. -/
def frontAddr : List (Nat × List Byte) → Nat
  | [] => 0
  | (a, l) :: t => if l.isEmpty then frontAddr t else a

/-- Decoder `d` begins to serve the next context of the page sequence once it is armed; else it waits (R150). -/
def State.servePage (s : State) (d : Nat) : State :=
  if (s.dec d).serving then s
  else
    match s.nextInOrder (s.dec d).serial with
    | some (ser, n) =>
      let s := s.setDec d { s.dec d with serving := true, page := n, serial := ser, pos := 0 }
      (s.setFld (R.MILLER_DECd_STAT d) F.MILLER_DECd_STAT_PAGE n).setDecState d 1
    | none => s.setDecState d 6

/-- The page of decoder `d` ends for it (R150). -/
def State.endDecPage (s : State) (d : Nat) : State := s.setDec d { s.dec d with serving := false }

/-- A block has ended: the decoder stands at a header, or stops when it is disabled (R153). -/
def State.blockDone (s : State) (d : Nat) : State :=
  let s := s.setDec d { s.dec d with block := [], parity := false }
  s.setDecState d (if s.decEnabled d then 1 else 0)

/-- The directory of decoder `d` takes an accepted block; it keeps 512 (R293). -/
def State.addDir (s : State) (d : Nat) (e : DirEntry) : State :=
  s.setDec d { s.dec d with dir := (e :: (s.dec d).dir).take 512 }

/-- The lines of a block can no longer be had (R294). -/
def State.loseBlock (s : State) (k : Nat) (e : DirEntry) : State :=
  s.setHam k { s.ham k with lostDec := (e.serial, e.line0, e.line0 + e.lines) :: (s.ham k).lostDec }

/-- A block needs a recompute (R293): it is queued, once for each need; a second failure for the same need fails at once
(R294). -/
def State.wantRecompute (s : State) (d : Nat) (e : DirEntry) (need : Option Nat) : State :=
  let k := d / 2
  let x := s.ham k
  let again := x.needs.any (fun n => n == (e.serial, e.line0, need))
  let made := x.made.filter (fun r => !(r.1 == e.serial && rangesMeet r.2.1 r.2.2 e.line0 (e.line0 + e.lines)))
  let held := x.held.map (fun y => if ofBlock e.serial e.line0 e.lines y then { y with valid := false } else y)
  if x.jobs.any (fun j => j.entry.serial == e.serial && j.entry.line0 == e.line0) then s
  else s.setHam k { x with
    made := made, held := held, needs := (e.serial, e.line0, need) :: x.needs
    jobs := x.jobs ++ [⟨d, e, need, none, again⟩] }

/-- The original of a block's payload, none on a stream failure (R139, R147, R151). -/
def blockOriginal (h : BlockHeader) (payload : List Byte) (parity : Bool) : Option (List Byte) :=
  if parity then none
  else if h.type = 2 then decodeRaw h.fmt h.width h.lines payload
  else decodeCoded h.fmt h.width h.lines payload

/-- What a whole block gives: its original, or the kind of the error (R149, R151). -/
def judgeBlock (h : BlockHeader) (block : List Byte) (parity : Bool) : Except Nat (List Byte) :=
  match blockOriginal h (slice block 24 h.paylen) parity with
  | none => .error 3
  | some o => if leAt block (24 + h.paylen) 4 = crc32c o then .ok o else .error 4

/-- The lines of a block are made valid (R149). -/
def State.madeValid (s : State) (d : Nat) (h : BlockHeader) : State :=
  let s := s.setReg (R.MILLER_DECd_LINE d) (BitVec.ofNat 32 (h.line0 + h.lines))
  s.count (R.MILLER_DECd_BLOCKS d) F.MILLER_DECd_BLOCKS_COUNT 1

/-- A whole ring block of decoder `d` is judged (R148, R149, R151); with no room for its lines it waits. -/
def State.finishBlock (s : State) (d : Nat) : State :=
  let x := s.dec d
  let h := parseHeader x.block
  let k := d / 2
  if h.page ≠ x.page ∨ !s.blockAccepted k x.page x.serial h then
    (s.decError d 2 (some h.line0)).blockDone d
  else
    let e : DirEntry := ⟨x.blockAddr, x.serial, x.page, h.fmt, h.line0, h.lines, h.paylen⟩
    let moved := fun s : State => s.setDec d { s.dec d with pos := h.line0 + h.lines }
    match judgeBlock h x.block x.parity with
    | .error kind => (moved (((s.addDir d e).decError d kind (some h.line0)).wantRecompute d e none)).blockDone d
    | .ok o =>
      match s.storeLines k d x.serial h o with
      | none => s.setDecState d 4
      | some s => (moved ((s.addDir d e).madeValid d h)).blockDone d

/-- A recompute block that has arrived whole is judged (R293, R294): its header against its directory entry, then its
data. A failure fails the recompute, without a hunt. -/
def State.finishRecompute (s : State) (d : Nat) (j : RecompJob) (block : List Byte) (parity : Bool) : State :=
  let k := d / 2
  let h := parseHeader block
  let drop := fun s : State => s.setDec d { s.dec d with recompute := none }
  let without := fun s : State => s.setHam k { s.ham k with jobs := (s.ham k).jobs.filter (fun i => i != j) }
  let failed := fun s : State => s.setHam k { s.ham k with
    jobs := (s.ham k).jobs.map (fun i => if i = j then { i with failed := true } else i) }
  let ok := headerSound block && headerFields block && h.type != 3 && s.blockAccepted k j.entry.page j.entry.serial h &&
    decide (h.page = j.entry.page ∧ h.line0 = j.entry.line0 ∧ h.lines = j.entry.lines ∧ h.paylen = j.entry.paylen)
  if !ok then failed (drop (s.decError d 1 (if headerSound block then some h.line0 else none)))
  else
    match judgeBlock h block parity with
    | .error kind => failed (drop (s.decError d kind (some h.line0)))
    | .ok o =>
      match s.storeLines k d j.entry.serial h o with
      | none => s
      | some s =>
        let s := without (drop (s.madeValid d h))
        if (s.ham k).jobs.isEmpty then s.setBit (R.HAM_STAT k) F.HAM_STAT_RECOMP false else s

/-- The recompute of decoder `d` whose bytes have arrived whole. -/
def State.recomputeReady (s : State) (d : Nat) : Option (RecompJob × List Byte) :=
  match (s.dec d).recompute, (s.ham (d / 2)).jobs.find? (fun j => j.given == some d && !j.failed) with
  | some b, some j => if b.length = 28 + j.entry.paylen then some (j, b) else none
  | _, _ => none

/-- The header at the front of the input is judged (R148, R150, R151): an unsound one begins a hunt, which leaves its
start behind (R152); one of the next armed page ends the current page with a header error; the block then begins. -/
def State.beginBlock (s : State) (d : Nat) : State :=
  let x := s.dec d
  let hdr := (takePieces 24 x.input).1
  let h := parseHeader hdr
  if hdr.length < 24 then s.setDecState d 1
  else if !(headerSound hdr && headerFields hdr) then
    let s := s.setDec d { x with input := (takePieces 4 x.input).2, parity := false }
    let s := s.count (R.MILLER_DECd_HUNT d) F.MILLER_DECd_HUNT_COUNT 4
    (s.decError d 1 (if headerSound hdr then some h.line0 else none)).setDecState d 5
  else if h.type = 3 then s
  else
    let next := match s.nextInOrder x.serial with
      | some (_, n) => h.page != x.page && n == h.page
      | none => false
    let s := if next then ((s.decError d 1 (some h.line0)).endDecPage d).servePage d else s
    let x := s.dec d
    let s := s.setDec d { x with block := hdr, blockAddr := frontAddr x.input, input := (takePieces 24 x.input).2 }
    (s.setFld (R.MILLER_DECd_STAT d) F.MILLER_DECd_STAT_FMT h.fmt).setDecState d (if h.type = 1 then 2 else 3)

/-- The block in progress takes what has arrived of it: past its payload the decoder waits for the trailer (R159), and whole
it is judged. -/
def State.continueBlock (s : State) (d : Nat) : State :=
  let x := s.dec d
  if x.block.isEmpty then s
  else
    let total := 28 + (parseHeader x.block).paylen
    let (b, rest) := takePieces (total - x.block.length) x.input
    let s := s.setDec d { x with block := x.block ++ b, input := rest }
    let got := (s.dec d).block.length
    if got = total then s.finishBlock d else if total ≤ got + 4 then s.setDecState d 4 else s

/-- A parity error on a word of the block that decoder `d` reads is kept until the block is judged (R151). -/
def State.noteParity (s : State) (d : Nat) (parity : Bool) : State :=
  s.setDec d { s.dec d with parity := (s.dec d).parity || parity }

/-- Decoder `d` has a recompute to take before its next ring block, whose bytes are still to come (R292): its channel fetches
them, Idle or Running, and its pacing does not hold them back. -/
def State.awaitsRecompute (s : State) (d : Nat) : Bool :=
  (s.dec d).recompute.isSome && (s.recomputeReady d).isNone &&
    (s.dmaState (8 + d) == 1 || s.dmaState (8 + d) == 2) &&
    (s.paced (8 + d) || (s.ch (8 + d)).bursts.any (fun b => b.idx == recompIdx && !b.okd))

/-- DECODER_BLOCK (R148 to R151, R153, R292, R293). A recompute block goes before the next ring block. -/
def execDecoderBlock (d : Fin 8) (parity : Bool) (s : State) : Host.Outcome State Fault Refusal :=
  .next <|
    if !s.blocksRun then s
    else if !(s.dec d).block.isEmpty then (s.noteParity d parity).continueBlock d
    else
      match s.recomputeReady d with
      | some (j, b) => s.finishRecompute d j b parity
      | none =>
        if s.decState d = 0 ∨ s.decState d = 5 ∨ s.awaitsRecompute d then s
        else
          let s := s.servePage d
          if (s.dec d).serving then ((s.beginBlock d).noteParity d parity).continueBlock d else s

/-- The end of a page in the stream of decoder `d` by an end-of-page block of 28 bytes (R150, R151): its OCRC is checked
whichever page it names; one that names the next armed page ends both, with a header error for the missing block. -/
def State.endPageBlock (s : State) (d : Nat) (b : List Byte) : State :=
  let x := s.dec d
  let h := parseHeader b
  let crc := fun s : State => if leAt b 24 4 = 0 then s else s.decError d 4 (some h.line0)
  if h.page = x.page then ((crc s).endDecPage d).servePage d
  else
    match s.nextInOrder x.serial with
    | some (_, n) =>
      if n = h.page then
        ((crc (((s.decError d 1 (some h.line0)).endDecPage d).servePage d)).endDecPage d).servePage d
      else s.decError d 2 (some h.line0)
    | none => s.decError d 2 (some h.line0)

/-- END_OF_PAGE_BLOCK (R150, R151): the block at the front of the input ends the page of its PAGE for the decoder. A
PAGE that is neither the current nor the next context is a conflict, an OCRC that is not 0 a CRC error, and a parity error
on a word of it a stream error, which skips it. -/
def execEndOfPageBlock (d : Fin 8) (parity : Bool) (s : State) : Host.Outcome State Fault Refusal :=
  .next <|
    if !(s.dec d).block.isEmpty ∨ s.decState d = 0 ∨ s.decState d = 5 ∨ !s.blocksRun ∨ s.awaitsRecompute d then s
    else
      let s := s.servePage d
      let x := s.dec d
      let (b, rest) := takePieces 28 x.input
      if !x.serving ∨ b.length < 28 ∨ !(headerSound b && headerFields b) ∨ (parseHeader b).type ≠ 3 then s
      else
        let s := s.setDec d { x with input := rest, parity := false }
        if parity || x.parity then s.decError d 3 (some (parseHeader b).line0) else s.endPageBlock d b

/-- A header that ends the hunt (R152): sound, and passing R148, naming the next armed page, or ending the current or
the next. -/
def State.huntHit (s : State) (d : Nat) (hdr : List Byte) : Bool :=
  let x := s.dec d
  let h := parseHeader hdr
  let next := match s.nextInOrder x.serial with
    | some (_, n) => n == h.page
    | none => false
  headerSound hdr && (next || (h.page == x.page && (h.type == 3 || s.blockAccepted (d / 2) x.page x.serial h)))

/-- The hunt over a byte list: bytes skipped before the first position that ends it, and whether one was found. A
position counts only once its 24 bytes are there. -/
def State.huntSkip (s : State) (d : Nat) : Nat → List Byte → Nat × Bool
  | 0, _ => (0, false)
  | fuel + 1, l =>
    if l.length < 24 then (0, false)
    else if s.huntHit d l then (0, true)
    else
      let (n, f) := s.huntSkip d fuel (l.drop 4)
      (n + 4, f)

/-- HUNT_RESYNC (R152): each aligned position after the failed header's start is examined. The lines between the last
block taken and the one resumed at are a gap. -/
def execHuntResync (d : Fin 8) (s : State) : Host.Outcome State Fault Refusal :=
  .next <|
    if s.decState d ≠ 5 ∨ !s.blocksRun then s
    else
      let x := s.dec d
      let l := (takePieces (inputBytes x.input) x.input).1
      let (skip, found) := s.huntSkip d l.length l
      let s := s.count (R.MILLER_DECd_HUNT d) F.MILLER_DECd_HUNT_COUNT skip
      let s := s.setDec d { x with input := (takePieces skip x.input).2 }
      if found then
        let h := parseHeader (l.drop skip)
        let stop := if h.page = x.page ∧ h.type ≠ 3 then h.line0
          else lengthAt (s.page x.page).fmt (s.page x.page).length
        let s := s.setDec d { s.dec d with gaps := (x.serial, x.pos, stop) :: (s.dec d).gaps }
        s.setDecState d (if s.decEnabled d then 1 else 0)
      else s

/-! ## Decoder enables -/

/-- A write of `v` to MILLER_CTRL (R153): a decoder whose bit is set restarts at a header; one whose bit is cleared
finishes the block in progress and stops. -/
def State.millerCtrlWrite (s : State) (v : Word) : State :=
  let s := s.writeByCodes R.MILLER_CTRL v
  (List.range 8).foldl (fun s d =>
    if s.decEnabled d then (if s.decState d = 0 then s.setDecState d 1 else s)
    else if (s.dec d).block.isEmpty then s.setDecState d 0
    else s) s

/-- DECODER_ENABLE (R153). -/
def execDecoderEnable (r : Requester) (d : Fin 8) (v : Word) (s : State) : Host.Outcome State Fault Refusal :=
  .next ((s.millerCtrlWrite (v ||| BitVec.ofNat 32 (2 ^ d.val))).written r)

/-- DECODER_DISABLE (R153). -/
def execDecoderDisable (r : Requester) (d : Fin 8) (v : Word) (s : State) : Host.Outcome State Fault Refusal :=
  .next ((s.millerCtrlWrite (v &&& ~~~BitVec.ofNat 32 (2 ^ d.val))).written r)

/-! ## Encoders -/

/-- FMT, WIDTH and bytes of a line of encoder `e`. -/
def State.encFmt (s : State) (e : Nat) : Nat := s.fld (R.MILLER_ENCe_CFG e) F.MILLER_ENCe_CFG_FMT
def State.encWidth (s : State) (e : Nat) : Nat := s.fld (R.MILLER_ENCe_CFG e) F.MILLER_ENCe_CFG_WIDTH
def State.encLineBytes (s : State) (e : Nat) : Nat := lineBytes (s.encFmt e) (s.encWidth e)

/-- Whether encoder `e` can end a block: room in the result FIFO, and the output of the last block drained (R156; the
output holds one block: DESIGN CHOICE, log entry 12). -/
def State.encReady (s : State) (e : Nat) : Bool :=
  decide ((s.enc e).results.length < 32) && (s.enc e).output.isEmpty

/-- The current block of encoder `e` ends (R155): it is emitted whole, or reported to bring no gain. -/
def State.endEncBlock (s : State) (e : Nat) (flushed : Bool) : State :=
  let x := s.enc e
  let fmt := s.encFmt e
  let n := x.lines.length
  let orig := x.lines.flatten
  let payload := encodeCoded fmt (s.encWidth e) (x.lines.map (unpackLine fmt (s.encWidth e)))
  let noGain := decide (up4 orig.length ≤ payload.length)
  let line0 := s.regN (R.MILLER_ENCe_LINE0 e)
  let h : BlockHeader := {
    type := 1, fmt := fmt, flushed := flushed, line0 := line0, x0 := s.fld (R.MILLER_ENCe_GEOM e) F.MILLER_ENCe_GEOM_X0
    width := s.encWidth e, lines := n, page := s.fld (R.MILLER_ENCe_CFG e) F.MILLER_ENCe_CFG_PAGE
    paylen := payload.length }
  let out := if noGain then [] else headerBytes h ++ payload ++ leBytes 4 (crc32c orig)
  let res : EncResult := ⟨line0, n, noGain, flushed, if noGain then 0 else payload.length⟩
  let s := (s.sourceFills (21 + 2 * e) x.output.isEmpty).setEnc e { x with
    lines := [], output := x.output ++ out, results := x.results ++ [res] }
  let s := s.setReg (R.MILLER_ENCe_LINE0 e) (BitVec.ofNat 32 (line0 + n))
  let s := s.count (R.MILLER_ENCe_BYTESOUT e) F.MILLER_ENCe_BYTESOUT_COUNT out.length
  let s := s.orFld R.MILLER_EVT F.MILLER_EVT_ENC_RES e
  if noGain then s.orFld R.MILLER_EVT F.MILLER_EVT_ENC_NOGAIN e else s

/-- A flush whose last line has been taken takes effect: the block ends, or nothing is emitted without a pending line;
a closing encoder is then disabled (R154). -/
def State.encSettle (s : State) (e : Nat) : State :=
  let x := s.enc e
  if x.flushLeft = some 0 then
    if x.lines.isEmpty then
      s.setEnc e { x with flushLeft := none, closing := false, input := if x.closing then [] else x.input }
    else if s.encReady e then
      let s := s.endEncBlock e true
      let x := s.enc e
      s.setEnc e { x with flushLeft := none, closing := false, input := if x.closing then [] else x.input }
    else s
  else s

/-- A block that a further line would take beyond 64 KiB, or that has LINESMAX lines, is full (section "Encoders"). -/
def State.encFull (s : State) (e : Nat) : Bool :=
  let n := (s.enc e).lines.length
  let m := s.fld (R.MILLER_ENCe_GEOM e) F.MILLER_ENCe_GEOM_LINESMAX
  decide (n ≠ 0) && (decide (65536 < (n + 1) * s.encLineBytes e) || (m != 0 && decide (m ≤ n)))

/-- Encoder `e` takes what has come of the next line, and the line once it is whole, unless it is stalled (R155, R156). -/
def State.encTakeLine (s : State) (e : Nat) : State :=
  let x := s.enc e
  let n := s.encLineBytes e
  if n = 0 || x.flushLeft = some 0 then s
  else
    let part := x.part ++ x.input.take (n - x.part.length)
    let rest := x.input.drop (n - x.part.length)
    if part.length < n then s.setEnc e { x with input := rest, part := part }
    else
      let s := s.setEnc e { x with
        input := rest, part := [], lines := x.lines ++ [part], flushLeft := x.flushLeft.map (· - 1) }
      s.count (R.MILLER_ENCe_BYTESIN e) F.MILLER_ENCe_BYTESIN_COUNT n

/-- One step of encoder `e`: a full block ends first, then a line is taken, then a full block or a flush ends. -/
def State.encStep (s : State) (e : Nat) : State :=
  let close := fun s : State => if s.encFull e && s.encReady e then s.endEncBlock e false else s
  let s := close s
  if s.encFull e then s
  else
    let s := s.encTakeLine e
    let m := s.fld (R.MILLER_ENCe_GEOM e) F.MILLER_ENCe_GEOM_LINESMAX
    let s := if m ≠ 0 && decide (m ≤ (s.enc e).lines.length) then close s else s
    s.encSettle e

/-- Encoder `e` works: it is enabled, or it closes. -/
def State.encWorks (s : State) (e : Nat) : Bool :=
  s.bit (R.MILLER_ENCe_CTRL e) F.MILLER_ENCe_CTRL_EN || (s.enc e).closing

/-- ENCODER_LINE (R155, R156). -/
def execEncoderLine (e : Fin 2) (s : State) : Host.Outcome State Fault Refusal :=
  .next (if s.encWorks e && s.blocksRun then s.encStep e else s)

/-- A flush of encoder `e` (R154): it takes effect after the lines received so far, a partial one included. -/
def State.encFlush (s : State) (e : Nat) (partialLine : Bool) : State :=
  let x := s.enc e
  let n := max 1 (s.encLineBytes e)
  let got := x.part.length + x.input.length
  let k := if partialLine then (got + n - 1) / n else got / n
  if x.flushLeft.isSome then s else (s.setEnc e { x with flushLeft := some k }).encSettle e

/-- A write of `v` to MILLER_ENCe_CTRL (R154, R159): a WIDTH out of range refuses the enable. -/
def State.encCtrlWrite (s : State) (r : Requester) (e : Nat) (v : Word) : State :=
  let a := R.MILLER_ENCe_CTRL e
  let old := s.bit a F.MILLER_ENCe_CTRL_EN
  let new := getField F.MILLER_ENCe_CTRL_EN v != 0
  let w := s.encWidth e
  if !old && new && (w = 0 || decide (16384 < w)) then s.refuse r 5
  else
    let s := (s.writeByCodes a v).written r
    if old && !new then
      let s := s.setEnc e { s.enc e with closing := true, flushLeft := none }
      let n := max 1 (s.encLineBytes e)
      let all := (s.enc e).part ++ (s.enc e).input
      let s := s.setEnc e { s.enc e with part := [], input := all.take (all.length / n * n) }
      s.encFlush e false
    else if new && getField F.MILLER_ENCe_CTRL_FLUSH v != 0 then s.encFlush e true
    else s

/-- ENCODER_ENABLE (R159). -/
def execEncoderEnable (r : Requester) (e : Fin 2) (v : Word) (s : State) : Host.Outcome State Fault Refusal :=
  .next (s.encCtrlWrite r e (putField F.MILLER_ENCe_CTRL_EN v 1))

/-- ENCODER_DISABLE (R154). -/
def execEncoderDisable (r : Requester) (e : Fin 2) (v : Word) (s : State) : Host.Outcome State Fault Refusal :=
  .next (s.encCtrlWrite r e (putField F.MILLER_ENCe_CTRL_EN v 0))

/-- ENCODER_FLUSH (R154). -/
def execEncoderFlush (r : Requester) (e : Fin 2) (v : Word) (s : State) : Host.Outcome State Fault Refusal :=
  .next (s.encCtrlWrite r e (putField F.MILLER_ENCe_CTRL_FLUSH v 1))

/-- MILLER_ENCe_RES0, RES1 and RES2 as they read (R159). -/
def State.encResult (s : State) (e w : Nat) : Word :=
  match (s.enc e).results with
  | [] => 0
  | x :: _ =>
    if w = 0 then BitVec.ofNat 32 x.line0
    else if w = 1 then
      BitVec.ofNat 32 (x.lines % 65536 + (if x.noGain then 65536 else 0) + (if x.flushed then 131072 else 0) + 2 ^ 31)
    else BitVec.ofNat 32 x.paylen

/-- A read of MILLER_ENCe_RES2 removes the oldest result (R159). -/
def State.popResult (s : State) (r : Requester) (e : Nat) : State :=
  let w := s.encResult e 2
  (s.setEnc e { s.enc e with results := (s.enc e).results.tail }).okResp r (leBytes 4 w.toNat)

/-- MILLER_RESULT_POP (R159). -/
def execMillerResultPop (r : Requester) (e : Fin 2) (s : State) : Host.Outcome State Fault Refusal :=
  .next (s.popResult r e)

/-- MILLER_ENCe_STAT as it reads (R159): disabled, idle, coding or stalled; results held; whole lines pending. -/
def State.encStat (s : State) (e : Nat) : Word :=
  let x := s.enc e
  let stall := (s.encFull e || (x.flushLeft = some 0 && !x.lines.isEmpty)) && !s.encReady e
  let st := if !s.encWorks e then 0 else if stall then 3 else if x.lines.isEmpty && x.part.isEmpty && x.input.isEmpty then 1 else 2
  putField F.MILLER_ENCe_STAT_LINES_PEND
    (putField F.MILLER_ENCe_STAT_RESCNT (putField F.MILLER_ENCe_STAT_STATE 0 st) x.results.length) x.lines.length

end Sys2Proof.Machine
end

