-- ==== Sys2Proof/Machine/Weaver.lean ====
section
/-! DEFINITION. Weaver: masks and receivers (R173 to R184), tone and gain (R170 to R172), the neighbour boost (R185,
R186), the screening pass and the row pass (R160), nozzle retirement and the joint overlap (R190, R199). -/

namespace Sys2Proof.Machine

/-! ## Columns and heads -/

/-- Columns from the start of one head to the next (R161). -/
def State.pitch (s : State) : Nat := 2112 - s.weaver.overlap

/-- The printed columns of the bar (R199). -/
def State.barColumns (s : State) : Nat := 24 * s.pitch + s.weaver.overlap

/-- The heads that cover printed column `x`: the head of the column and, in an overlap, the joint position with the
head before it (R161, R174). -/
def State.coverOf (s : State) (x : Nat) : Nat × Option Nat :=
  let p := s.pitch
  let h := x / p
  if 24 ≤ h then (23, none)
  else if 0 < h && x - h * p < s.weaver.overlap then (h, some (x - h * p))
  else (h, none)

/-- The hamlet that decodes printed column `x` (R18). -/
def State.ownerOf (s : State) (x : Nat) : Nat := min 3 (x / (6 * s.pitch))

/-! ## Masks -/

/-- The base of the mask bank of hamlet `k` in force for line `l` (R163, R180). -/
def State.maskBase (s : State) (k l : Nat) : Nat :=
  let b := s.fld (R.WEAVER_MASKSEL k) F.WEAVER_MASKSEL_BANK
  let ml := s.regN (R.WEAVER_MASKLINE k)
  let b := if ml ≠ 0xFFFFFFFF && lineLe ml l then 1 - b else b
  lineBase k + 0xA3000 + 0x5000 * b

/-- Bit `i` of the bit plane at address `a`. -/
def State.bitAt (s : State) (a i : Nat) : Bool := (s.byte (a + i / 8)).getLsbD (i % 8)

/-- The lane slot of head `h` in a mask bank of hamlet `k` (R179). -/
def laneSlot (k h : Nat) : Nat := (h + 1 - 6 * k) % 8

/-- The row-mask bit of plane `lv` for head column `c` of head `h` (R176): row D where it is set. -/
def planeBit (s : State) (base k h lv l c : Nat) : Bool :=
  s.bitAt (base + 0x600 * laneSlot k h + 0x200 * (lv - 1) + 8 * (l % 64)) (c % 64)

/-- The ROWACT bit of row `r` of head `h` for line `l` (R177, R179). -/
def rowactBit (s : State) (base k h r l : Nat) : Bool :=
  s.bitAt (base + 0x4380 + 0x10 * laneSlot k h + 8 * r) (l % 64)

/-- TWINXFER of head `h` (R179). -/
def twinXfer (s : State) (base k h : Nat) : Bool := s.bitAt (base + 0x4400 + laneSlot k h) 0

/-- The dither value of line `l` and printed column `x` in a mask bank (R174). -/
def ditherAt (s : State) (base l x : Nat) : Nat := (s.byte (base + 0x3000 + 64 * (l % 64) + x % 64)).toNat

/-- The assignee head of a dot and its partner, none outside an overlap (R174). -/
def State.assign (s : State) (k l x : Nat) : Nat × Option Nat :=
  match s.coverOf x with
  | (h, none) => (h, none)
  | (h, some j) =>
    let base := s.maskBase k l
    let share := (s.byte (base + 0x4000 + 0x80 * laneSlot k (h - 1) + j)).toNat
    if ditherAt s base l x < share then (h, some (h - 1)) else (h - 1, some h)

/-- The twin of nozzle `n` of a head. -/
def twinOf (n : Nat) : Nat := if n < 2112 then n + 2112 else n - 2112

/-- The candidates of one head for a dot of level `lv` (R182): the nozzle that the plane names, then its twin. -/
def headCandidates (s : State) (k l x lv h : Nat) : List (Nat × Nat) :=
  let base := s.maskBase k l
  let c := x - h * s.pitch
  let n := if planeBit s base k h lv l c then c + 2112 else c
  if twinXfer s base k h then [(h, n), (h, twinOf n)] else [(h, n)]

/-- The candidates for a dot, in order (R182). -/
def State.candidates (s : State) (k l x lv : Nat) : List (Nat × Nat) :=
  let (a, p) := s.assign k l x
  headCandidates s k l x lv a ++ (match p with
    | some q => headCandidates s k l x lv q
    | none => [])

/-! ## Nozzle records -/

/-- The global number of nozzle `n` of head `h`. -/
def nozId (h n : Nat) : Nat := 4224 * h + n

/-- RET of a nozzle (R166). -/
def State.nozRetired (s : State) (g : Nat) : Bool := (s.byte (nozAddr g)).getLsbD 0

/-- A nozzle may fire line `l`: RET is 0, or its re-admission takes effect at or before `l` (R181, R190). -/
def State.nozOpen (s : State) (l g : Nat) : Bool :=
  !s.nozRetired g || s.weaver.readmit.any (fun e => e.1 == g && lineLe e.2 l)

/-- A nozzle is a live receiver for line `l` (R181); `bad` are nozzles whose record fails parity for the line
(R196). -/
def State.live (s : State) (l : Nat) (bad : List Nat) (x : Nat × Nat) : Bool :=
  s.inService x.1 l && s.nozOpen l (nozId x.1 x.2) && !bad.contains (nozId x.1 x.2)

/-- A dot is lost: no level has a live candidate (R183). -/
def State.lostDot (s : State) (k l : Nat) (bad : List Nat) (x : Nat) : Bool :=
  [1, 2, 3].all (fun lv => !(s.candidates k l x lv).any (s.live l bad))

/-! ## Ramps, tone and gain -/

/-- A ramped value (R188). -/
def ramped (start target step : Int) (l0 interval l : Nat) : Int :=
  if lineLt l l0 then start
  else
    let n : Int := lineDist l l0 / (max 1 interval : Nat) + 1
    if start ≤ target then min target (start + n * step) else max target (start - n * step)

/-- The ramp interval of hamlet `k` for line `l`. -/
def State.rampInterval (s : State) (k l : Nat) : Nat := s.fldFor (R.WEAVER_RAMP k) F.WEAVER_RAMP_INTERVAL l

/-- Point `p` of the half of a tone record at address `a` (R171). -/
def State.tonePoint (s : State) (a p : Nat) : Nat := s.num a 16 / 2 ^ (12 * p) % 4096

/-- Point `p` of the tone curve of printed column `x` in hamlet `k`, in force for line `l` (R171, R188). -/
def State.toneAt (s : State) (k l x p : Nat) : Int :=
  let a := lineBase k + 0x40000 + 32 * (x - 6 * k * s.pitch)
  ramped (s.tonePoint a p) (s.tonePoint (a + 16) p) 16 (s.regN (R.WEAVER_TONE_L k)) (s.rampInterval k l) l

/-- The corrected value of an 8-bit sample by the points of a curve (R171). -/
def toneValue (p : Nat → Int) (x : Nat) : Nat :=
  let i := x / 32
  let f : Int := (x % 32 : Nat)
  (clampInt 0 4095 (p i + ((p (i + 1) - p i) * f + 16) / 32)).toNat

/-- The gain trim of nozzle `g` in force for line `l` (R166, R188). -/
def State.gainAt (s : State) (k l g : Nat) : Int :=
  ramped (sext 8 (s.byte (nozAddr g + 1)).toNat) (sext 8 (s.byte (nozAddr g + 2)).toNat) 1
    (s.regN (R.WEAVER_GAIN_L k)) (s.rampInterval k l) l

/-- Kernel weight at distance `t` in force for line `l` (R185, R188). -/
def State.kernelAt (s : State) (k l t : Nat) : Nat :=
  let f : Field := ⟨8 * (t - 1), 8, .rw⟩
  (ramped (s.fld (R.WEAVER_KERNEL_START k) f) (s.fld (R.WEAVER_KERNEL k) f) 1 (s.regN (R.WEAVER_GAIN_L k))
    (s.rampInterval k l) l).toNat

/-- The gain trim of a dot that is not lost (R172). -/
def State.dotGain (s : State) (k l : Nat) (bad : List Nat) (x : Nat) : Int :=
  let (a, p) := s.assign k l x
  let named : Nat → List (Nat × Nat) := fun h => ([1, 2, 3].flatMap (fun lv => headCandidates s k l x lv h)).eraseDups.filter (s.live l bad)
  let l1 := named a
  let nozs := if l1.isEmpty then (p.map named).getD [] else l1
  if nozs.isEmpty then 0
  else ((nozs.map (fun n => s.gainAt k l (nozId n.1 n.2))).sum) / ((nozs.length : Nat) : Int)

/-! ## Samples -/

/-- A decoded line of the page with arming serial `ser` that hamlet `k` holds and that is valid. -/
def State.heldLine (s : State) (k ser y : Nat) : Option DecLine :=
  (s.ham k).held.find? (fun x => x.serial == ser && x.line == y && x.valid)

/-- Sample `i` of a held line (R138). -/
def State.heldSample (s : State) (k : Nat) (x : DecLine) (i : Nat) : Nat :=
  if x.fmt = 2 then (s.byte (heldAddr k x (i / 4))).toNat / 4 ^ (i % 4) % 4 else (s.byte (heldAddr k x i)).toNat

/-- The decoded sample of decoded line `y` at column `i` of the block's own cross-web resolution; a column beyond the
bar takes the last one (R169, R170). -/
def State.sampleAt (s : State) (c : PageCtx) (y i : Nat) : Nat :=
  let i := if c.fmt = 1 then min i ((s.barColumns + 1) / 2 - 1) else i
  let k := s.ownerOf (if c.fmt = 1 then 2 * i else i)
  match s.heldLine k c.serial y with
  | some x => s.heldSample k x (i - (blockGeom s.weaver.overlap k c.fmt).1)
  | none => 0

/-- The 1200-dpi sample of printed column `x` and page line `y` of a page (R169, R170). -/
def State.pageSample (s : State) (k l : Nat) (c : PageCtx) (x y : Nat) : Nat :=
  if c.fmt = 1 then
    let i := x / 2
    let j := y / 2
    let last := lengthAt 1 c.length - 1
    let at_ := fun i j => s.sampleAt c (min j last) i
    if s.fldFor (R.WEAVER_CFG k) F.WEAVER_CFG_UPS l = 0 then at_ i j
    else
      let h := fun j => if x % 2 = 0 then at_ i j else (at_ i j + at_ (i + 1) j + 1) / 2
      if y % 2 = 0 then h j else (h j + h (j + 1) + 1) / 2
  else s.sampleAt c y x

/-- The decoded lines of a page that page line `y` draws on (R169). -/
def drawsOn (c : PageCtx) (y : Nat) : List Nat :=
  if c.fmt = 1 then [y / 2, min (y / 2 + 1) (lengthAt 1 c.length - 1)] else [y]

/-- Page line of printed line `l` (R169). -/
def pageLine (c : PageCtx) (l : Nat) : Nat := modSub lineMod l c.lfirst

/-- The decoded lines that printed line `l` reads, with the serial of their page. -/
def State.linesRead (s : State) (l : Nat) : List (Nat × Nat) :=
  match s.pageOfLine l with
  | none => []
  | some n => (drawsOn (s.page n) (pageLine (s.page n) l)).map (fun y => ((s.page n).serial, y))

/-- Decoder `d` brings decoded line `y` of a page no more: it skipped it in hunt, has passed it, serves a later page, or is
stopped. -/
def State.decPast (s : State) (d ser y : Nat) : Bool :=
  let x := s.dec d
  x.gaps.any (fun r => r.1 == ser && decide (r.2.1 ≤ y ∧ y < r.2.2)) || decide (ser < x.serial) ||
    (x.serial == ser && (!x.serving || decide (y < x.pos))) || s.decState d == 0

/-- Decoded line `y` lay in a block that a decoder of hamlet `k` skipped in hunt, and no decoder of it brings it (R152,
R290). -/
def State.huntLost (s : State) (k ser y : Nat) : Bool :=
  [2 * k, 2 * k + 1].any (fun d => (s.dec d).gaps.any (fun r => r.1 == ser && decide (r.2.1 ≤ y ∧ y < r.2.2))) &&
    [2 * k, 2 * k + 1].all (fun d => s.decPast d ser y) &&
    !((s.ham k).made.any (fun r => r.1 == ser && decide (r.2.1 ≤ y ∧ y < r.2.2)))

/-- Line `l` is Lost in hamlet `k`, marked or to be marked: a decoded line that it reads can no longer be had (R290). -/
def State.lineLost (s : State) (k l : Nat) : Bool :=
  (s.ham k).lost.contains l ||
    (s.linesRead l).any (fun e => (s.ham k).lostDec.any (fun r => r.1 == e.1 && decide (r.2.1 ≤ e.2 ∧ e.2 < r.2.2)) ||
      s.huntLost k e.1 e.2)

/-- Columns of the upper hamlet's exchange screen to 0 and boost nothing when it marked the line Lost (R290). -/
def State.zeroed (s : State) (k l x : Nat) : Bool := s.ownerOf x != k && s.lineLost (s.ownerOf x) l

/-- The tone-corrected value x12 of a column for a line: by the hamlet's own sample and record, and beyond its lanes by the
upper hamlet's (R171, R192). -/
def State.x12At (s : State) (k l : Nat) (c : PageCtx) (x : Nat) : Nat :=
  let k' := if x < 6 * k * s.pitch + 5 * s.pitch + 2112 then k else s.ownerOf x
  toneValue (s.toneAt k' l x) (s.pageSample k' l c x (pageLine c l))

/-! ## Boost -/

/-- Column `b` lies beyond the bar, or across the start of a hamlet's decoded range, seen from column `a` (R185). -/
def State.crosses (s : State) (a b : Int) : Bool :=
  decide (b < 0) || decide (((s.barColumns : Nat) : Int) ≤ b) ||
    [1, 2, 3].any (fun k => decide (a < ((6 * k * s.pitch : Nat) : Int)) != decide (b < ((6 * k * s.pitch : Nat) : Int)))

/-- A share moves outward past lost columns, up to distance 4 (R185). -/
def State.outward (s : State) (lost : Nat → Bool) (x side : Int) : Nat → Nat → Option Nat
  | 0, _ => none
  | fuel + 1, d =>
    let t := x + side * d
    if 4 < d || s.crosses x t then none
    else if lost t.toNat then s.outward lost x side fuel (d + 1)
    else some t.toNat

/-- A lost dot is spread: some head of its column is in service (R185). -/
def State.spreads (s : State) (k l x : Nat) : Bool :=
  let (a, p) := s.assign k l x
  s.inService a l || (match p with
    | some q => s.inService q l
    | none => false)

/-- The two shares `b` of a lost dot at distance `t`: target columns with amounts, none for a dropped share. One that would
cross a boundary is added to the other, and is dropped where both would (R185). -/
def State.sharePair (s : State) (lost : Nat → Bool) (x t b : Nat) : List (Option Nat × Nat) :=
  match s.crosses x ((x : Int) - t), s.crosses x ((x : Int) + t) with
  | true, true => [(none, b), (none, b)]
  | true, false => [(s.outward lost x 1 5 t, 2 * b)]
  | false, true => [(s.outward lost x (-1) 5 t, 2 * b)]
  | false, false => [(s.outward lost x (-1) 5 t, b), (s.outward lost x 1 5 t, b)]

/-- The shares of a lost dot with value `v` (R185). -/
def State.sharesOf (s : State) (k l : Nat) (lost : Nat → Bool) (x v : Nat) : List (Option Nat × Nat) :=
  [1, 2, 3, 4].flatMap (fun t =>
    let b := (v * s.kernelAt k l t + 128) / 256
    if b = 0 then [] else s.sharePair lost x t b)

/-- Where a lost dot of a pre-screened line goes (R186): left on even lines, right on odd ones, else the other side. -/
def State.neighbourOf (s : State) (l : Nat) (lost : Nat → Bool) (x : Nat) : Option Nat :=
  let side : Int := if l % 2 = 0 then -1 else 1
  [side, -side].findSome? (fun d =>
    let t : Int := x + d
    if s.crosses x t || lost t.toNat then none else some t.toNat)

/-! ## Screening -/

/-- The level of a value at a cell of a threshold array (R173). -/
def State.screenValue (s : State) (k l x v : Nat) : Nat :=
  let f := fun g => s.fldFor (R.WEAVER_CFG k) g l
  let r := (l + f F.WEAVER_CFG_OFFY) % 256
  let q := (x + f F.WEAVER_CFG_OFFX) % 256
  let a := compBase + 0xC6000 + 0x30000 * f F.WEAVER_CFG_SCREEN + 3 * (256 * r + q)
  ([0, 1, 2].filter (fun i =>
    let t := (s.byte (a + i)).toNat
    decide (1 ≤ t ∧ 16 * t ≤ v + 8))).length

/-- What a screening pass computes for one column: its level, and what it counts (R198). -/
structure ColOut where
  level : Nat
  boost : Nat
  lost : Nat
  clamp : Nat
deriving DecidableEq, Repr

/-- The columns that hamlet `k` screens for itself: those of its six lanes. -/
def State.laneColumns (s : State) (k : Nat) : List Nat :=
  (List.range (5 * s.pitch + 2112)).map (fun i => 6 * k * s.pitch + i)

/-- The screening of column `x` for line `l` of a contone page (R162, stages 2 to 5). -/
def State.screenContone (s : State) (k l : Nat) (c : PageCtx) (bad : List Nat) (x : Nat) : ColOut :=
  let lost := s.lostDot k l bad
  let mine := (s.assign k l x).1 / 6 == k
  let v := s.x12At k l c x
  if lost x then
    if mine && v != 0 && s.spreads k l x then
      ⟨0, 1, ((s.sharesOf k l lost x v).filter (fun e => e.1.isNone)).length, 0⟩
    else ⟨0, 0, 0, 0⟩
  else
    let g := s.dotGain k l bad x
    let own := min 4095 (((v : Int) * (512 + g) + 256) / 512).toNat
    let near : List Int := ((List.range 9).map (fun (i : Nat) => (x : Int) - 4 + (i : Int))).filter (fun (y : Int) =>
      y != (x : Int) && !s.crosses x y && !s.zeroed k l y.toNat && lost y.toNat && s.spreads k l y.toNat)
    let got := (near.map (fun (y : Int) =>
      ((s.sharesOf k l lost y.toNat (s.x12At k l c y.toNat)).map (fun e => if e.1 = some x then e.2 else 0)).sum)).sum
    let sum := own + got
    ⟨s.screenValue k l x (min 4095 sum), 0, 0, if mine && decide (4095 < sum) then 1 else 0⟩

/-- The level of column `x` for line `l` of a pre-screened page (R186). -/
def State.screenLevels (s : State) (k l : Nat) (c : PageCtx) (bad : List Nat) (x : Nat) : ColOut :=
  let lost := s.lostDot k l bad
  let mine := (s.assign k l x).1 / 6 == k
  let lv := fun x => s.pageSample k l c x (pageLine c l) % 4
  if lost x then
    if mine && lv x != 0 && s.spreads k l x then
      if (s.neighbourOf l lost x).isSome then ⟨0, 1, 0, 0⟩ else ⟨0, 0, 1, 0⟩
    else ⟨0, 0, 0, 0⟩
  else
    let near := [(x : Int) - 1, x + 1].filter (fun y =>
      !s.crosses x y && !s.zeroed k l y.toNat && lost y.toNat && s.spreads k l y.toNat &&
        s.neighbourOf l lost y.toNat == some x)
    let sum := lv x + (near.map (fun y => lv y.toNat)).sum
    ⟨min 3 sum, 0, 0, if mine && decide (3 < sum) then 1 else 0⟩

/-- The screening of column `x` for line `l` (R162, R169, R290). -/
def State.screenColumn (s : State) (k l : Nat) (bad : List Nat) (x : Nat) : ColOut :=
  match s.pageOfLine l with
  | none => ⟨0, 0, 0, 0⟩
  | some n =>
    if s.zeroed k l x then ⟨0, 0, 0, 0⟩
    else if (s.page n).fmt = 2 then s.screenLevels k l (s.page n) bad x
    else s.screenContone k l (s.page n) bad x

/-- Levels packed four to a byte (R167). -/
def packLevels (l : List Nat) : List Byte := packLine 2 l

/-- The bytes of a level-buffer slot (R167): six lanes, the line number, the valid mark. -/
def State.slotBytes (s : State) (l : Nat) (levels : List Nat) : List Byte :=
  ((List.range 6).flatMap (fun i => packLevels (slice' levels (i * s.pitch) 2112))) ++ leBytes 4 l ++ leBytes 1 1
where
  /-- The `n` levels from index `i`. -/
  slice' (l : List Nat) (i n : Nat) : List Nat := (List.range n).map (fun j => l.getD (i + j) 0)

/-- The chip address of the level-buffer slot that holds line `l` in hamlet `k`, by the DEPTH in force for that line (R167,
R168). -/
def State.slotAddr (s : State) (k l : Nat) : Nat :=
  lineBase k + 0xAD000 + 3200 * (l % max 1 (min 761 (getField F.WEAVER_LVLBUF_DEPTH (s.regOn (R.WEAVER_LVLBUF k) l))))

/-- The reference sample of a column before tone correction; a level counts 85 (R329). -/
def State.refSample (s : State) (k l x : Nat) : Nat :=
  match s.pageOfLine l with
  | none => 0
  | some n =>
    let c := s.page n
    let v := s.pageSample k l c x (pageLine c l)
    if c.fmt = 2 then 85 * (v % 4) else v

/-- The sums of the two samples of each reference pixel of hamlet `k` on line `l` (R329). -/
def State.refSums (s : State) (k l : Nat) : List Nat :=
  let (x, n) := decodedRange s.weaver.overlap k
  (List.range (n / 2)).map (fun i => s.refSample k l (x + 2 * i) + s.refSample k l (x + 2 * i + 1))

/-- The screening pass of line `l` in hamlet `k`, from what it reads when it starts (R160, R162). -/
def State.screenLine (s : State) (k l : Nat) (first : Bool) (bad : List Nat) : PassOut :=
  let cols := (s.laneColumns k).map (s.screenColumn k l bad)
  { line := l, first := first, slot := s.slotBytes l (cols.map (·.level))
    boost := (cols.map (·.boost)).sum, lost := (cols.map (·.lost)).sum, clamp := (cols.map (·.clamp)).sum
    refs := s.refSums k l }

/-! ## Row pass -/

/-- The level of head column `c` of lane `i` in the slot of line `l` (R167). -/
def State.laneLevel (s : State) (k l i c : Nat) : Nat :=
  (s.byte (s.slotAddr k l + 528 * i + c / 4)).toNat / 4 ^ (c % 4) % 4

/-- What the row pass gives a nozzle: its level, and whether its dot is counted as a twin's, a partner's or lost. -/
structure RowCol where
  level : Nat
  twin : Nat
  partner : Nat
  lost : Nat
deriving DecidableEq, Repr

/-- The row pass of row `r` of channel `h` for head column `c` of an image line (R182, R194, R198). -/
def State.rowColumn (s : State) (h r l : Nat) (bad : List Nat) (c : Nat) : RowCol :=
  let k := h / 6
  let lv := s.laneLevel k l (h % 6) c
  if lv = 0 then ⟨0, 0, 0, 0⟩
  else
    let x := h * s.pitch + c
    let cand := s.candidates k l x lv
    let hit := cand.find? (s.live l bad)
    let mine : Nat × Nat := (h, c + 2112 * r)
    let counts := cand.head? == some mine
    match hit with
    | none => ⟨0, 0, 0, if counts then 1 else 0⟩
    | some n =>
      ⟨if n = mine then lv else 0, if counts && n.1 == h && n != mine then 1 else 0,
        if counts && n.1 != h then 1 else 0, 0⟩

/-- The row pass of row `r` of channel `h` for line `l` (R160, R187). -/
def State.rowPass (s : State) (h r l : Nat) (bad : List Nat) : List RowCol :=
  match s.ladderLine l with
  | some (x, b) =>
    (List.range 2112).map (fun c =>
      let open_ := s.nozOpen l (nozId h (c + 2112 * r)) && !bad.contains (nozId h (c + 2112 * r))
      let test := s.fldFor (R.WEAVER_CFG (h / 6)) F.WEAVER_CFG_TESTRET l != 0
      ⟨if ladderNozzle b h r c && (open_ || test) then x.level else 0, 0, 0, 0⟩)
  | none => (List.range 2112).map (s.rowColumn h r l bad)

/-- A counter of Weaver advances; LOST and CLAMP set their event bits with theirs (R197). -/
def State.weaverCounts (s : State) (k twin partner boost lost clamp : Nat) : State :=
  let s := s.count (R.WEAVER_CNT_TWIN k) F.WEAVER_CNT_TWIN_COUNT twin
  let s := s.count (R.WEAVER_CNT_PARTNER k) F.WEAVER_CNT_PARTNER_COUNT partner
  let s := s.count (R.WEAVER_CNT_BOOST k) F.WEAVER_CNT_BOOST_COUNT boost
  let s := s.count (R.WEAVER_CNT_LOST k) F.WEAVER_CNT_LOST_COUNT lost
  let s := s.count (R.WEAVER_CNT_CLAMP k) F.WEAVER_CNT_CLAMP_COUNT clamp
  let s := if lost ≠ 0 then s.setBit (R.WEAVER_EVT k) F.WEAVER_EVT_LOST true else s
  if clamp ≠ 0 then s.setBit (R.WEAVER_EVT k) F.WEAVER_EVT_CLAMP true else s

/-! ## Nozzles -/

/-- RSRC of a retirement (R166). -/
def retireCode : RetireSource → Nat
  | .inspection => 1
  | .headChannel => 2
  | .software => 3
  | .parity => 4

/-- A nozzle is retired (R190): RET and RSRC are set at once, its pending re-admission is removed, the entry is made. -/
def State.retireNozzle (s : State) (g : Nat) (src : RetireSource) : State :=
  let b := (s.byte (nozAddr g)).toNat
  let s := s.setByte (nozAddr g) (BitVec.ofNat 8 (b / 16 * 16 + 2 * retireCode src + 1))
  let s := { s with weaver := { s.weaver with readmit := s.weaver.readmit.filter (fun e => e.1 != g) } }
  s.logFault { level := 0, kind := 2, unit := g, src := 6, cause := retireCode src
               detail := if g % 4224 < 2112 then 0 else 1 }

/-- Parity errors of nozzle records (R196): a transient fault of the nozzle; the second failure retires it. -/
def State.badNozzles (s : State) (bad : List Nat) : State :=
  bad.foldl (fun s g =>
    if s.weaver.parityNoz.contains g then s.retireNozzle g .parity
    else
      let s := { s with weaver := { s.weaver with parityNoz := g :: s.weaver.parityNoz } }
      s.logFault { level := 0, kind := 0, unit := g, src := 6, cause := 4
                   detail := if g % 4224 < 2112 then 0 else 1 }) s

/-- NOZZLE_RETIREMENT (R190). -/
def execNozzleRetirement (g : Fin 101376) (src : RetireSource) (s : State) : Host.Outcome State Fault Refusal :=
  .next (s.retireNozzle g src)

/-- Every counted row has started the row pass of line `l` (R180, R190). -/
def State.allStarted (s : State) (l : Nat) : Bool :=
  s.enabledRows.all (fun x => lineLt l (s.row x.1 x.2).nextTake)

/-- The re-admission of a nozzle makes its entry when it takes effect (R297). -/
def State.readmitNozzle (s : State) (g : Nat) : State :=
  let b := (s.byte (nozAddr g)).toNat
  let s := s.setByte (nozAddr g) (BitVec.ofNat 8 (b / 2 * 2))
  let s := { s with weaver := { s.weaver with
    readmit := s.weaver.readmit.filter (fun e => e.1 != g), parityNoz := s.weaver.parityNoz.filter (· != g) } }
  s.logFault { level := 0, kind := 3, unit := g, src := 6, cause := b / 2 % 8
               detail := if g % 4224 < 2112 then 0 else 1 }

/-- NOZZLE_READMIT_EFFECT (R190). -/
def execNozzleReadmitEffect (s : State) : Host.Outcome State Fault Refusal :=
  .next <|
    match s.weaver.readmit.find? (fun e => s.allStarted e.2) with
    | some (g, _) => s.readmitNozzle g
    | none => s

/-! ## Parity errors and lines no longer held -/

/-- The decoder of hamlet `k` and the directory entry of the block that brought decoded line `y` of a page (R293). -/
def State.findEntry (s : State) (k ser y : Nat) : Option (Nat × DirEntry) :=
  [2 * k, 2 * k + 1].findSome? (fun d =>
    ((s.dec d).dir.find? (fun e => e.serial == ser && decide (e.line0 ≤ y ∧ y < e.line0 + e.lines))).map (fun e => (d, e)))

/-- A block of hamlet `k` is no longer in the directory: the lines that decoded line `y` came with can no longer be had, which
is a hamlet-level permanent fault (R294). -/
def State.lostFromDirectory (s : State) (k ser y : Nat) : State :=
  if (s.ham k).lostDec.any (fun r => r.1 == ser && decide (r.2.1 ≤ y ∧ y < r.2.2)) then s
  else
    let r := ((s.ham k).made.find? (fun r => r.1 == ser && decide (r.2.1 ≤ y ∧ y < r.2.2))).getD (ser, y, y + 1)
    (s.setHam k { s.ham k with lostDec := r :: (s.ham k).lostDec }).logFault
      { level := 2, kind := 1, unit := k, src := 5, cause := 4 }

/-- Decoded line `y` is needed again for printed line `l` (R293); outside the block directory it can no longer be had
(R294). -/
def State.recomputeLine (s : State) (k l ser y : Nat) : State :=
  match s.findEntry k ser y with
  | some (d, e) => s.wantRecompute d e (some l)
  | none => s.lostFromDirectory k ser y

/-- A line enters the lines whose pass runs again, lowest first. -/
def insertLine (l : Nat) : List Nat → List Nat
  | [] => [l]
  | x :: t => if x = l then x :: t else if lineLt l x then l :: x :: t else x :: insertLine l t

/-- A parity error that the work on line `l` meets in hamlet `k` (R196, R287, R293): CAUSE 1 decoded line, 2 level
buffer, 3 table. The slot is not valid and the pass of the line runs again, from recomputed blocks where a decoded line
failed or is no longer held; for its exchange the upper hamlet recomputes what it no longer holds (R19). -/
def State.parityFault (s : State) (k cause l : Nat) : State :=
  let s := (s.count (R.HAM_CNT_PARITY k) F.HAM_CNT_PARITY_COUNT 1).hamletFault k 5 k cause
  let s := s.setByte (s.slotAddr k l + 3172) 0
  let s := s.setHam k { s.ham k with valid := (s.ham k).valid.filter (· != l), redo := insertLine l (s.ham k).redo }
  let need := if cause = 1 then (s.linesRead l).take 1
    else (s.linesRead l).filter (fun e => (s.heldLine k e.1 e.2).isNone)
  let s := need.foldl (fun s e => s.recomputeLine k l e.1 e.2) s
  if k = 3 || s.lineLost (k + 1) l then s
  else ((s.linesRead l).filter (fun e => (s.heldLine (k + 1) e.1 e.2).isNone)).foldl
    (fun s e => s.recomputeLine (k + 1) l e.1 e.2) s

/-! ## Mask bank and overlap -/

/-- A write of `v` to WEAVER_OVERLAP sets all four copies; refused while RUN is 1 or a channel prints, and above 128
(R199). -/
def State.overlapWrite (s : State) (r : Requester) (v : Word) : State :=
  if s.bit R.BR_CTRL F.BR_CTRL_RUN || s.anyPrinting then s.refuse r 4
  else if 128 < getField F.WEAVER_OVERLAP_V v then s.refuse r 5
  else ((List.range 4).foldl (fun s k => s.writeByCodes (R.WEAVER_OVERLAP k) v) s).written r

/-- OVERLAP_WRITE (R199). -/
def execOverlapWrite (r : Requester) (_ : Fin 4) (v : Word) (s : State) : Host.Outcome State Fault Refusal :=
  .next (s.overlapWrite r v)

end Sys2Proof.Machine
end

