-- ==== Sys2Proof/Machine/HeadChannel.lean ====
section
/-! DEFINITION. The head channels: profile checks (R200 to R203), codes (R204 to R210), frames, latches, comb runs and
their errors (R211 to R222, R226), temperature (R223 to R225), retirement and re-admission (R227 to R231, R298), line-rate
limits (R278), and scan-paced channels (R232 to R236). -/

namespace Sys2Proof.Machine

/-! ## Profile -/

/-- Bits per code, b = BPN + 2 (R200). -/
def State.codeBits (s : State) (h : Nat) : Nat := s.fld (R.HC_PROF0 h) F.HC_PROF0_BPN + 2

/-- Nozzles per row. -/
def State.noz (s : State) (h : Nat) : Nat := s.fld (R.HC_PROF0 h) F.HC_PROF0_NOZ

/-- The highest fire-event rate of a row in Hz: min(STROBEMAX·10 Hz, 400 kHz) (R215). -/
def State.strobeHz (s : State) (h : Nat) : Nat := min (10 * s.fld (R.HC_PROF1 h) F.HC_PROF1_STROBEMAX) 400000

/-- The least time between fire times of a row, in steps of the grid. -/
def State.strobeTicks (s : State) (h : Nat) : Nat :=
  if s.strobeHz h = 0 then 0 else (800000000 + s.strobeHz h - 1) / s.strobeHz h

/-- The frame time of a code frame in steps of the grid (R211). -/
def State.frameTicks (s : State) (h : Nat) : Nat :=
  let p := max 1 (s.fld (R.HC_PROF0 h) F.HC_PROF0_PAIRS)
  (8 + s.codeBits h * ((s.noz h + p - 1) / p)) * 2 ^ s.fld (R.HC_PROF0 h) F.HC_PROF0_SHIFTF

/-- The time of a table frame (R211). -/
def State.tableTicks (s : State) (h : Nat) : Nat := 264 * 2 ^ s.fld (R.HC_PROF0 h) F.HC_PROF0_SHIFTF

/-- The latch pulse width and the least time from its end to the fire time. -/
def State.latw (s : State) (h : Nat) : Nat := s.fld (R.HC_PROF1 h) F.HC_PROF1_LATW
def State.lfsu (s : State) (h : Nat) : Nat := s.fld (R.HC_PROF2 h) F.HC_PROF2_LFSU

/-- Entry `i` of the map in a pair of registers. -/
def mapEntry (lo hi : Word) (i : Nat) : Nat := (lo.toNat + 2 ^ 32 * hi.toNat) / 16 ^ i % 16

/-- The first check of R201 that fails, by its CFGERR code; 0 when all hold. -/
def State.profErr (s : State) (h : Nat) : Nat :=
  let f := s.fld
  let lim := 2 ^ s.codeBits h
  let entries := ((List.range 12).map (fun i => mapEntry (s.reg (R.HC_MAP_LO h)) (s.reg (R.HC_MAP_HI h)) (i + 4))) ++
    ((List.range 12).map (fun i => mapEntry (s.reg (R.HC_DMAP_LO h)) (s.reg (R.HC_DMAP_HI h)) (i + 4))) ++
    [f (R.HC_CODES h) F.HC_CODES_SPITCODE, f (R.HC_CODES h) F.HC_CODES_WARMCODE]
  let pairs := f (R.HC_PROF0 h) F.HC_PROF0_PAIRS
  let strobe := f (R.HC_PROF1 h) F.HC_PROF1_STROBEMAX
  if s.noz h = 0 ∨ 2112 < s.noz h then 1
  else if s.codeBits h = 5 ∨ pairs = 0 ∨ 8 < pairs then 2
  else if strobe = 0 ∨ 40000 < strobe then 3
  else if entries.any (fun e => e = 0 || decide (lim ≤ e)) then 4
  else if 8 * f (R.HC_PROF2 h) F.HC_PROF2_SEGMIN < f (R.HC_PROF1 h) F.HC_PROF1_STRW + 8 then 5
  else if 800000000 < (s.frameTicks h + s.latw h + s.lfsu h) * s.strobeHz h then 6
  else 0

/-- The segments of comb bank `b` in samples, in order up to the first of no length (R216). -/
def State.segments (s : State) (h b : Nat) : List Nat :=
  ((List.range 16).map (fun i => s.fld (R.HC_SEGb_s h b i) F.HC_SEGb_s_DUR)).takeWhile (· != 0)

/-- The samples of comb bank `b` (R216). -/
def State.combLen (s : State) (h b : Nat) : Nat := (s.segments h b).sum

/-- The comb bank of channel `h` in force for line `l` (R217). -/
def State.combBank (s : State) (h l : Nat) : Nat :=
  let b := s.fld (R.HC_COMBSEL h) F.HC_COMBSEL_BANK
  let cl := s.regN (R.HC_COMBLINE h)
  if cl ≠ 0xFFFFFFFF && lineLe cl l then 1 - b else b

/-- The channel fires: enabled and Idle, Printing or Warming. -/
def State.hcFires (s : State) (h : Nat) : Bool := s.bit (R.HC_CTRL h) F.HC_CTRL_EN && s.hcActive h

/-- The printed line that settings of channel `h` are read for: that of the line, or of the datum row for a scan
line. -/
def State.setLine (s : State) (h l : Nat) : Nat := if s.scanPaced h then s.regN R.BR_LINE else l

/-! ## Line-rate limit -/

/-- The positions of the bits of an activity word of row `r` of head `h` in a mask bank. -/
def State.actBits (s : State) (base k h r : Nat) : List Nat := (List.range 64).filter (rowactBit s base k h r)

/-- The smallest cyclic distance between two of the bits; 64 with fewer than two (R278). -/
def cyclicGap (l : List Nat) : Nat :=
  l.foldl (fun m a => l.foldl (fun m b => if a = b then m else min m (modSub 64 b a)) m) 64

/-- The smallest distance of two positions modulo `m`. -/
def cyclicDist (m : Nat) (x : Int) : Nat :=
  let y := (x % m).toNat
  min y (m - y)

/-- The mask banks in force or pending in hamlet `k`. -/
def State.maskBanks (s : State) (k : Nat) : List Nat :=
  let b := s.fld (R.WEAVER_MASKSEL k) F.WEAVER_MASKSEL_BANK
  let at_ := fun b => lineBase k + 0xA3000 + 0x5000 * b
  if s.regN (R.WEAVER_MASKLINE k) = 0xFFFFFFFF then [at_ b] else [at_ b, at_ (1 - b)]

/-- The lines for which the offsets of channel `h` are read: now, and that of each pending value (R278). -/
def State.offsetLines (s : State) (h : Nat) : List Nat :=
  s.regN R.BR_LINE :: (s.pend.filter (fun p => p.addr == R.BR_ROWU h || p.addr == R.BR_ROWD h || p.addr == R.BR_STRETCH)).map (·.line)

/-- δ of channel `h` for one mask bank (R278). -/
def State.deltaFor (s : State) (h base : Nat) : Nat :=
  let k := h / 6
  let offs := fun r => (s.offsetLines h).map (s.rowOffset h r)
  let all := twinXfer s base k h
  let u := s.actBits base k h 0
  let d := s.actBits base k h 1
  (offs 0).foldl (fun m x => (offs 1).foldl (fun m y =>
    if all then min m (cyclicDist 64 (y - x))
    else u.foldl (fun m (i : Nat) => d.foldl (fun m (j : Nat) =>
      min m (cyclicDist 4096 (64 * (j : Int) - 64 * (i : Int) + y - x))) m) m) m) 4096

/-- f_h, its bounding term and δ of channel `h` (R278). The collision term is rounded to the nearest line per second
(DEDUCED from the worked example of chapter 09). -/
def State.headLimit (s : State) (h : Nat) : Nat × Nat × Nat :=
  let k := h / 6
  let banks := s.maskBanks k
  let twin := banks.any (fun b => twinXfer s b k h)
  let g := if twin then 1 else (banks.flatMap (fun b => (s.rowsOf h).map (fun r => cyclicGap (s.actBits b k h r)))).foldl min 64
  let strobe := g * s.strobeHz h
  let c := max (s.combLen h 0) (s.combLen h 1)
  let delta := (banks.map (s.deltaFor h)).foldl min 4096
  let coll := if s.twoRows h && c != 0 then (2 * delta * 100000000 + 64 * c) / (128 * c) else 400000
  if 400000 ≤ strobe ∧ 400000 ≤ coll then (400000, 0, delta)
  else if strobe ≤ coll then (strobe, 1, delta)
  else (coll, 2, delta)

/-- BR_HLIMIT of channel `h` is computed anew, and BR_FMAX with it (R278, R279). DELTA reads at most 32. -/
def State.refreshLimit (s : State) (h : Nat) : State :=
  let (l, t, d) := s.headLimit h
  let d := if s.twoRows h then min 32 d else 0
  let s := s.setFld (R.BR_HLIMIT h) F.BR_HLIMIT_LIMIT l
  ((s.setFld (R.BR_HLIMIT h) F.BR_HLIMIT_TERM t).setFld (R.BR_HLIMIT h) F.BR_HLIMIT_DELTA d).refreshFmax

/-- All limits computed anew. -/
def State.refreshLimits (s : State) : State := allHc.foldl State.refreshLimit s

/-- MASK_BANK_FLIP (R180). -/
def execMaskBankFlip (k : Fin 4) (s : State) : Host.Outcome State Fault Refusal :=
  .next <|
    let ml := s.regN (R.WEAVER_MASKLINE k)
    if ml ≠ 0xFFFFFFFF ∧ s.allStarted ml then
      let s := s.setFld (R.WEAVER_MASKSEL k) F.WEAVER_MASKSEL_BANK (1 - s.fld (R.WEAVER_MASKSEL k) F.WEAVER_MASKSEL_BANK)
      (s.setReg (R.WEAVER_MASKLINE k) 0xFFFFFFFF#32).refreshLimits
    else s

/-! ## Enable and disable -/

/-- The firmware's writes at the enable of a head that lacks nozzles or a row (R203). -/
def State.absentNozzles (s : State) (h : Nat) : State :=
  let two := s.twoRows h
  let gone := fun n => if n < 2112 then decide (s.noz h ≤ n) else !two || decide (s.noz h ≤ n - 2112)
  let s := ((List.range 4224).filter gone).foldl (fun s n =>
    let a := nozAddr (nozId h n)
    s.setByte a (BitVec.ofNat 8 ((s.byte a).toNat / 16 * 16 + 5))) s
  if two then s
  else
    ((List.range 4).filter (fun k => decide (6 * k ≤ h + 1 ∧ h + 1 < 6 * k + 8))).foldl (fun s k =>
      [0, 1].foldl (fun s b =>
        let base := lineBase k + 0xA3000 + 0x5000 * b
        let j := laneSlot k h
        let s := s.setBytes (base + 0x600 * j) (List.replicate 0x600 0)
        let s := s.setBytes (base + 0x4380 + 0x10 * j) (List.replicate 8 0xFF ++ List.replicate 8 0)
        s.setByte (base + 0x4400 + j) (BitVec.ofNat 8 ((s.byte (base + 0x4400 + j)).toNat / 2 * 2))) s) s

/-- Whether the scan timing (CFGERR 7) or the scan image (CFGERR 8) of channel `h` is refused (R233, R236). -/
def State.scanErr (s : State) (h : Nat) : Nat :=
  let per := s.fld (R.HC_SCAN_PER h) F.HC_SCAN_PER_PER
  let rowd := s.fld (R.HC_SCAN_ROWD h) F.HC_SCAN_ROWD_ROWD
  let comb := 8 * s.fld (R.HC_PROF4 h) F.HC_PROF4_COMBMAX
  let n := if s.twoRows h then 2 else 1
  if per * s.strobeHz h < 800000000 ∨ per < n * (s.frameTicks h + s.latw h) ∨
      s.fld (R.HC_SCAN_DLY h) F.HC_SCAN_DLY_DLY < 80 ∨ (s.twoRows h ∧ (rowd < comb ∨ per < rowd + comb)) then 7
  else if 761 < s.fld (R.WEAVER_LVLBUF 3) F.WEAVER_LVLBUF_DEPTH + s.fld (R.HC_SCAN_CFG h) F.HC_SCAN_CFG_SCANLEN then 8
  else 0

/-- A scan image of channel `h` is written to its lane of hamlet D's slots from DEPTH on, 528 bytes a line (R167, R233). -/
def State.putScan (s : State) (h : Nat) (v : List Byte) : State :=
  let depth := s.fld (R.WEAVER_LVLBUF 3) F.WEAVER_LVLBUF_DEPTH
  let s := (List.range (min (s.fld (R.HC_SCAN_CFG h) F.HC_SCAN_CFG_SCANLEN) (761 - depth))).foldl (fun s n =>
    s.setBytes (lineBase 3 + 0xAD000 + 3200 * (depth + n) + 528 * (h % 6)) ((v.drop (528 * n)).take 528)) s
  s.setHc h { s.hc h with scan := { (s.hc h).scan with image := none } }

/-- A scan image has its line (R233): it waits for the next group of a channel that fires, over one that waits already. -/
def State.scanImageDue (s : State) (h : Nat) (v : List Byte) : State :=
  let x := s.hc h
  let old := match x.scan.image with
    | some e => e.2
    | none => []
  if s.scanPaced h && s.hcFires h then
    s.setHc h { x with scan := { x.scan with image := some (s.now, v ++ old.drop v.length) } }
  else s.putScan h v

/-- The scan images named at printed line `l` or before have their line: the datum row fires it (R21, R233). -/
def State.landScans (s : State) (l : Nat) : State :=
  [22, 23].foldl (fun s h =>
    let x := s.hc h
    let due := x.scan.images.filter (fun e => lineLe e.1 l)
    if due.isEmpty then s
    else due.foldl (fun s e => s.scanImageDue h e.2)
      (s.setHc h { x with scan := { x.scan with images := x.scan.images.filter (fun e => !lineLe e.1 l) } })) s

/-- Channel `h` is enabled with a valid profile (R203, R218, R231): it is Idle, and both tables are to be sent. -/
def State.hcEnabled (s : State) (h : Nat) : State :=
  let s := (s.setFld (R.HC_STAT h) F.HC_STAT_CFGERR 0).absentNozzles h
  let s := match (s.hc h).scan.image with
    | some e => s.putScan h e.2
    | none => s
  let x := s.hc h
  let take := fun r => if s.scanPaced h then x.scan.line else s.regN (rowNextReg h r)
  let s := s.setHc h { x with
    tables := [0, 1], tableErr := [], tablesFirst := true, formed := [], shifting := none, stamps := [], enabledAt := s.now
    rowU := { x.rowU with nextTake := take 0 }, rowD := { x.rowD with nextTake := take 1 } }
  (s.setHcState h 1).refreshLimit h

/-- A comb run of row `r` is running. -/
def State.combRuns (s : State) (h r : Nat) : Bool :=
  match (s.row h r).runEnd with
  | some e => decide (s.now < e)
  | none => false

/-- EN went to 0 (R231): nothing more is driven, and the channel is Disabled after the running comb completes. -/
def State.hcDisabled (s : State) (h : Nat) : State :=
  let s := s.stopDrive h
  if s.combRuns h 0 || s.combRuns h 1 then s else s.setHcState h 0

/-- A write of `v` to HC_CTRL of channel `h` (R201, R202, R231, R236, R237, R417). -/
def State.hcCtrlWrite (s : State) (r : Requester) (h : Nat) (v : Word) : State :=
  let a := R.HC_CTRL h
  let old := s.reg a
  let printing := s.hcState h = 2 || s.hcState h = 3
  let changes := fun f => getField f v != getField f old
  let en := getField F.HC_CTRL_EN v != 0
  let was := getField F.HC_CTRL_EN old != 0
  if printing && (changes F.HC_CTRL_SCAN || changes F.HC_CTRL_DMODE) then s.refuse r 4
  else if en && !was && s.power != 2 && s.power != 3 then s.refuse r 4
  else
    let scan := if was || decide (h < 22) then getField F.HC_CTRL_SCAN old else getField F.HC_CTRL_SCAN v
    let v := putField F.HC_CTRL_SCAN v scan
    let scanBad := if scan ≠ 0 ∧ getField F.HC_CTRL_SCAN old = 0 then s.scanErr h else 0
    let bad := if scanBad ≠ 0 then scanBad else if en && !was then s.profErr h else 0
    if bad ≠ 0 then (s.setFld (R.HC_STAT h) F.HC_STAT_CFGERR bad).refuse r 5
    else
      let s := (s.writeByCodes a v).written r
      let s := if scan ≠ getField F.HC_CTRL_SCAN old then s.setHc h { s.hc h with hist := [] } else s
      if en && !was then s.hcEnabled h else if was && !en then s.hcDisabled h else s

/-- HC_ENABLE (R201, R231). -/
def execHcEnable (r : Requester) (h : Fin 24) (v : Word) (s : State) : Host.Outcome State Fault Refusal :=
  .next (s.hcCtrlWrite r h (putField F.HC_CTRL_EN v 1))

/-- HC_DISABLE (R231). -/
def execHcDisable (r : Requester) (h : Fin 24) (v : Word) (s : State) : Host.Outcome State Fault Refusal :=
  .next (s.hcCtrlWrite r h (putField F.HC_CTRL_EN v 0))

/-! ## Codes -/

/-- The ejecting fires of a row's nozzle at head column `c` on lines `l` − `hi` to `l` − 1 (R205, R209, R477). -/
def firesBefore (hist : List EjectRec) (row l hi c : Nat) : Nat :=
  (hist.filter (fun e => e.row == row && decide (1 ≤ lineDist l e.line ∧ lineDist l e.line ≤ hi) && e.cols.contains c)).length

/-- The place of an entry among keys in rising order, equal keys by their column. -/
def rankOf (l : List (Nat × Nat)) (x : Nat × Nat) : Nat :=
  (l.filter (fun y => decide (y.1 < x.1 ∨ (y.1 = x.1 ∧ y.2 < x.2)))).length

/-- KEEPWET of a nozzle (R166, R207). -/
def State.keepwet (s : State) (g : Nat) : Nat := s.num (nozAddr g + 4) 2

/-- The level after the duty window (R205). -/
def State.dutyLevel (s : State) (h row l : Nat) (levels : List Nat) (c : Nat) : Nat :=
  let f := fun f => s.fldFor (R.HC_DUTY h) f (s.setLine h l)
  let lv := levels.getD c 0
  if lv ≠ 0 ∧ f F.HC_DUTY_NMAX ≤ firesBefore (s.hc h).hist row l (f F.HC_DUTY_NWIN - 1) c then 0 else lv

/-- SHARE in force for a line, or DSHARE while derated in share mode (R206, R224). -/
def State.shareFor (s : State) (h l : Nat) : Nat :=
  if s.bit (R.HC_STAT h) F.HC_STAT_DERATED && s.fldFor (R.HC_CTRL h) F.HC_CTRL_DMODE (s.setLine h l) != 0 then
    s.fldFor (R.HC_SHARE h) F.HC_SHARE_DSHARE (s.setLine h l)
  else s.fldFor (R.HC_SHARE h) F.HC_SHARE_SHARE (s.setLine h l)

/-- How many of `n` dots of a frame the share removes (R206): the slots of every fire event of the window count, of blank ones
and warm-up ones too. -/
def State.shareExcess (s : State) (h l n : Nat) : Nat :=
  let w := s.fldFor (R.HC_SHARE h) F.HC_SHARE_SWIN (s.setLine h l)
  let win := (s.hc h).hist.filter (fun e => decide (0 ≤ lineDist l e.line ∧ lineDist l e.line < w))
  let fires := (win.map (fun e => e.cols.length)).sum + n
  let slots := s.noz h * (win.length + 1)
  if s.shareFor h l = 0 then 0 else min n (fires - s.shareFor h l * slots / 256)

/-- The dither value that orders the thinning of head column `c` on line `l` (R206). -/
def State.thinKey (s : State) (h l c : Nat) : Nat := ditherAt s (s.maskBase (h / 6) (s.setLine h l)) l c

/-- The conditions of a spit on nozzle `n` of a frame but its level (R208). -/
def State.maySpit (s : State) (h l n : Nat) : Bool :=
  let f := fun f => s.fldFor (R.HC_SPIT h) f (s.setLine h l)
  let scan := s.scanPaced h
  let inPage := scan || (s.pageOfLine l).isSome
  let dead := if scan then s.nozRetired (nozId h n) else !s.nozOpen l (nozId h n)
  decide (f F.HC_SPIT_K ≤ s.keepwet (nozId h n)) && (scan || (s.ladderLine l).isNone) &&
    (if dead then f F.HC_SPIT_RETSPIT != 0 && !inPage else !inPage || f F.HC_SPIT_INPAGE != 0)

/-- The code of a level and history class (R210), before it is cut to its low b bits. -/
def State.mapCode (s : State) (h l lv k : Nat) : Nat :=
  let derated := s.bit (R.HC_STAT h) F.HC_STAT_DERATED && s.fldFor (R.HC_CTRL h) F.HC_CTRL_DMODE (s.setLine h l) == 0
  let g := fun a => s.regFor a (s.setLine h l)
  if derated then mapEntry (g (R.HC_DMAP_LO h)) (g (R.HC_DMAP_HI h)) (4 * lv + k)
  else mapEntry (g (R.HC_MAP_LO h)) (g (R.HC_MAP_HI h)) (4 * lv + k)

/-- The code frame of row `row` and line `l` from the levels of its row pass (R204 to R210). Columns in `badHist` take
history class 3 (R209). -/
def State.formFrame (s : State) (h row l : Nat) (levels badHist : List Nat) : Frame :=
  let cols := List.range (min 2112 (s.noz h))
  let l2 := fun c => s.dutyLevel h row l levels c
  let dots := cols.filter (fun c => l2 c != 0)
  let keys := dots.map (fun c => (s.thinKey h l c, c))
  let thinned := keys.filter (fun e => decide (rankOf keys e < s.shareExcess h l dots.length))
  let kept := dots.filter (fun c => !thinned.any (fun e => e.2 == c))
  let cand := cols.filter (fun c => !kept.contains c && s.maySpit h l (c + 2112 * row))
  let wet := cand.map (fun c => (0x10000 - s.keepwet (nozId h (c + 2112 * row)), c))
  let most := s.fldFor (R.HC_SPIT h) F.HC_SPIT_MAXPER (s.setLine h l)
  let spits := (wet.filter (fun e => decide (rankOf wet e < most))).map (·.2)
  let code := fun c =>
    if kept.contains c then
      s.mapCode h l (l2 c) (if badHist.contains c then 3 else min 3 (firesBefore (s.hc h).hist row l 3 c))
    else if spits.contains c then getField F.HC_CODES_SPITCODE (s.regFor (R.HC_CODES h) (s.setLine h l))
    else 0
  { table := false, row := row, line := l, bank := s.combBank h (s.setLine h l), levels := levels, badHist := badHist
    codes := (List.range 2112).map (fun c => code c % 2 ^ s.codeBits h), eject := kept ++ spits, spits := spits.length
    thinN := (cols.filter (fun c => levels.getD c 0 != 0)).length - dots.length, thinH := thinned.length
    warm := false, derated := s.bit (R.HC_STAT h) F.HC_STAT_DERATED, errors := 0 }

/-- The warm-up frame of row `row` and line `l` (R229). -/
def State.warmFrame (s : State) (h row l : Nat) : Frame :=
  let code := fun c =>
    if c < s.noz h && s.nozOpen l (nozId h (c + 2112 * row)) then
      s.fldFor (R.HC_CODES h) F.HC_CODES_WARMCODE l % 2 ^ s.codeBits h else 0
  { table := false, row := row, line := l, bank := s.combBank h l, levels := [], badHist := [], codes := (List.range 2112).map code
    eject := [], spits := 0, thinN := 0, thinH := 0, warm := true
    derated := s.bit (R.HC_STAT h) F.HC_STAT_DERATED, errors := 0 }

/-! ## Forming -/

/-- The next line that row `r` takes moves on by one; values of the channel's settings that both rows have reached move
into force (R202). -/
def State.tookLine (s : State) (h r : Nat) : State :=
  let scan := s.scanPaced h
  let next := fun l => if scan then l + 1 else lineAdd l 1
  let s := s.setRow h r { s.row h r with nextTake := next (s.row h r).nextTake }
  if scan then s.settlePend (R.HC_CTRL h) (R.BR_ROWU h) (s.regN R.BR_LINE)
  else
    let taken := fun r => lineSub (s.row h r).nextTake 1
    let l := if s.twoRows h && lineLt (taken 1) (taken 0) then taken 1 else taken 0
    s.settlePend (R.HC_CTRL h) (R.BR_ROWU h) l

/-- What a row does on line `l`: nothing or a shadow pass (0), a warm-up frame (1), or its image (2) (R195, R229). -/
def State.rowMode (s : State) (h l : Nat) : Nat :=
  if !s.hcFires h then 0
  else
    match (s.hc h).lr with
    | some lr =>
      if s.hcState h != 3 || lineLe lr l then 2
      else if lineLe (lineSub lr (s.fldFor (R.HC_WARM h) F.HC_WARM_WARMN l)) l then 1 else 0
    | none => 2

/-- The frame for the next line of row `r` comes before that of the head's other row (R218, R477). -/
def State.firstOfHead (s : State) (h r : Nat) : Bool :=
  if !s.twoRows h then r == 0
  else
    let u := (s.row h 0).nextTake
    let d := (s.row h 1).nextTake
    let uFirst := if s.scanPaced h then decide (u ≤ d) else decide (s.firePos h 0 u ≤ s.firePos h 1 d)
    uFirst == (r == 0)

/-- The row pass of a scan line (R232, R233): lane 4 or 5 of hamlet D's slots from DEPTH on, with row masks and twin
transfer. -/
def State.scanColumn (s : State) (h r n : Nat) (bad : List Nat) (c : Nat) : RowCol :=
  let depth := s.fld (R.WEAVER_LVLBUF 3) F.WEAVER_LVLBUF_DEPTH
  let len := max 1 (s.fld (R.HC_SCAN_CFG h) F.HC_SCAN_CFG_SCANLEN)
  let a := lineBase 3 + 0xAD000 + 3200 * (depth + n % len) + 528 * (h % 6) + c / 4
  let lv := (s.byte a).toNat / 4 ^ (c % 4) % 4
  let base := s.maskBase 3 (s.regN R.BR_LINE)
  let open_ := fun m => !s.nozRetired (nozId h m) && !bad.contains (nozId h m)
  if lv = 0 then ⟨0, 0, 0, 0⟩
  else
    let m := if planeBit s base 3 h lv n c then c + 2112 else c
    let mine := c + 2112 * r
    let use := if open_ m then some m else if twinXfer s base 3 h && open_ (twinOf m) then some (twinOf m) else none
    match use with
    | none => ⟨0, 0, 0, if m = mine then 1 else 0⟩
    | some u => ⟨if u = mine then lv else 0, if m = mine ∧ u ≠ mine then 1 else 0, 0, 0⟩

/-- The row pass of the next line of a row. -/
def State.takePass (s : State) (h r l : Nat) (bad : List Nat) : List RowCol :=
  if s.scanPaced h then (List.range 2112).map (s.scanColumn h r l bad) else s.rowPass h r l bad

/-- The ROWACT bit of a row for the line that it takes (R177). -/
def State.rowacts (s : State) (h r l : Nat) : Bool :=
  rowactBit s (s.maskBase (h / 6) (s.setLine h l)) (h / 6) h r l

/-- What a row pass counts (R197, R198), and a ladder line that falls on a page (R187). -/
def State.passCounts (s : State) (h l : Nat) (cols : List RowCol) : State :=
  let sum := fun f => (cols.map f).sum
  let s := s.weaverCounts (h / 6) (sum RowCol.twin) (sum RowCol.partner) 0 (sum RowCol.lost) 0
  if !s.scanPaced h && (s.ladderAt l).isSome && (s.pageOfLine l).isSome then
    s.setBit (R.WEAVER_EVT (h / 6)) F.WEAVER_EVT_TESTDROP true
  else s

/-- An error of channel `h` counts toward its threshold (R227); above it the channel is retired. -/
def State.hcError (s : State) (h : Nat) : State :=
  let w := ms (s.fld (R.HC_ERR_THR h) F.HC_ERR_THR_WINDOW)
  let stamps := (s.now :: recent s.now w (s.hc h).stamps).take 1024
  let s := s.setHc h { s.hc h with stamps := stamps }
  if s.fld (R.HC_ERR_THR h) F.HC_ERR_THR_ERRMAX < stamps.length ∧ s.hcActive h then s.retireHc h 2 else s

/-- Parity errors of nozzle histories (R209): a transient fault without a re-shift; its CAUSE is not stated, a free
value. -/
def State.histFault (s : State) (h r l : Nat) : State :=
  let s := s.logFault { level := 1, kind := 0, unit := h, src := 7, cause := Config.free s.freeCtr, detail := r, line := some l }
  s.drawn.hcError h

/-- A fire event of row `row` on line `l` with its ejecting fires enters the history (R206, R477). -/
def State.noteEvent (s : State) (h row l : Nat) (cols : List Nat) : State :=
  let x := s.hc h
  s.setHc h { x with hist := (⟨row, l, cols⟩ :: x.hist).take 4096 }

/-- A formed code frame waits to be shifted; its fire event counts from now on (R477). -/
def State.holdFrame (s : State) (h : Nat) (f : Frame) : State :=
  let s := s.noteEvent h f.row f.line f.eject
  s.setHc h { s.hc h with formed := (s.hc h).formed ++ [f] }

/-- Row `r` of channel `h` takes line `l`, whose level-buffer slot is good (R160, R177, R204): the row pass, and the frame
where the row has a fire event. A channel that does not fire runs the pass in shadow (R195). -/
def State.takeImage (s : State) (h r l : Nat) (bad badHist : List Nat) : State :=
  let s := s.badNozzles bad
  let cols := s.takePass h r l bad
  let s := s.passCounts h l cols
  let levels := cols.map (·.level)
  let fires := s.rowMode h l == 2 && (s.rowacts h r l || levels.any (· != 0))
  let s := if fires then s.holdFrame h (s.formFrame h r l levels badHist) else s
  let s := s.tookLine h r
  if fires && !badHist.isEmpty then s.histFault h r l else s

/-- Scan line `n` of channel `h` may be prepared (R234): edges are accepted, or it belongs to a group that an accepted edge
releases. -/
def State.scanReleased (s : State) (h n : Nat) : Bool :=
  let x := (s.hc h).scan
  let held := if x.heldEdge.isSome then s.fld (R.HC_SCAN_CFG h) F.HC_SCAN_CFG_G else 0
  s.bit (R.HC_SCAN_CFG h) F.HC_SCAN_CFG_ARM || decide (n < x.line + x.left + held)

/-- The row can take its next line now: the grid runs, or the scan line is released; nothing is formed or shifted before
it. -/
def State.mayTake (s : State) (h r : Nat) : Bool :=
  (r == 0 || s.twoRows h) && s.hcState h != 0 && (s.hc h).formed.isEmpty && (s.hc h).shifting.isNone && s.firstOfHead h r &&
    (if s.scanPaced h then s.scanReleased h (s.row h r).nextTake else s.running)

/-- The cause of a parity error in a row pass (R196, R302): a level-buffer word, or a mask word. A row pass reads no decoded
line. -/
def rowCause : ParityWord → Nat
  | .table => 3
  | _ => 2

/-- CODE_FRAME_FORM (R195, R196, R204, R229, R280). -/
def execCodeFrameForm (h : Fin 24) (row : Fin 2) (parity : Option ParityWord) (bad badHist : List Nat) (s : State) :
    Host.Outcome State Fault Refusal :=
  .next <|
    let l := (s.row h row).nextTake
    if !s.mayTake h row then s
    else if s.scanPaced h then
      match parity with
      | some w => (s.count (R.HAM_CNT_PARITY 3) F.HAM_CNT_PARITY_COUNT 1).hamletFault 3 5 3 (rowCause w)
      | none => s.takeImage h row l bad badHist
    else if s.blankLine l then s.tookLine h row
    else if s.rowMode h l = 1 then
      (if s.rowacts h row l then s.holdFrame h (s.warmFrame h row l) else s).tookLine h row
    else if !(s.ham (h / 6)).valid.contains l then s
    else
      match parity with
      | some w => s.parityFault (h / 6) (rowCause w) l
      | none => s.takeImage h row l bad badHist

/-! ## Shifting and latching -/

/-- A frame that will never fire counts no ejecting fire from now on (R477); its fire event printed blank (R206, R222). -/
def State.uncount (s : State) (h : Nat) (f : Frame) : State :=
  if f.table then s
  else s.setHc h { s.hc h with
    hist := (s.hc h).hist.map (fun e => if e.row == f.row && e.line == f.line then { e with cols := [] } else e) }

/-- The history without the fire event of a frame. -/
def State.forget (s : State) (h : Nat) (f : Frame) : State :=
  s.setHc h { s.hc h with hist := (s.hc h).hist.filter (fun e => !(e.row == f.row && e.line == f.line)) }

/-- The frame as it starts to shift: with the derating in force at that instant (R224). -/
def State.atShift (s : State) (h : Nat) (f : Frame) : State × Frame :=
  if f.warm || f.derated == s.bit (R.HC_STAT h) F.HC_STAT_DERATED then (s, f)
  else
    let s := s.forget h f
    let f := s.formFrame h f.row f.line f.levels f.badHist
    (s.noteEvent h f.row f.line f.eject, f)

/-- The shift lines of channel `h` are free: the shift clock's PLL is locked, and the last latch pulse has ended (R26,
R215). -/
def State.shiftFree (s : State) (h : Nat) : Bool :=
  s.hcFires h && s.bit R.CLKPWR_STAT F.CLKPWR_STAT_SHIFTLOCK && (s.hc h).shifting.isNone &&
    decide ((s.hc h).latchEnd ≤ s.now)

/-- FRAME_SHIFT_START (R211, R215, R218, R224). -/
def execFrameShiftStart (h : Fin 24) (s : State) : Host.Outcome State Fault Refusal :=
  .next <|
    match (s.hc h).formed with
    | [] => s
    | f :: rest =>
      if !s.shiftFree h || (s.hc h).tables.contains f.bank || ((s.hc h).tablesFirst && !(s.hc h).tables.isEmpty) then s
      else
        let s := s.setHc h { s.hc h with formed := rest, tablesFirst := false }
        let (s, f) := s.atShift h f
        let s := s.count (R.HC_CNT_THINN h) F.HC_CNT_THINN_COUNT f.thinN
        let s := s.count (R.HC_CNT_THINH h) F.HC_CNT_THINH_COUNT f.thinH
        let s := if f.thinH = 0 then s else s.setBit (R.HC_EVT h) F.HC_EVT_THIN true
        s.setHc h { s.hc h with shifting := some f, shiftStart := s.now }

/-- A table frame of a bank, with the errors that it has met. -/
def tableFrame (b errors : Nat) : Frame :=
  { table := true, row := 0, line := 0, bank := b, levels := [], codes := [], eject := [], spits := 0, thinN := 0
    thinH := 0, warm := false, derated := false, errors := errors, badHist := [] }

/-- The fire time that Bellringer passed for line `l` of a row. -/
def State.dueOf (s : State) (h r l : Nat) : Option Nat := ((s.row h r).due.find? (fun e => e.1 == l)).map (·.2)

/-- Line `l` of row `r` fires `n` steps of the grid from now or later: by the fire time that was passed to the channel, else
by Bellringer's prediction (F − φ) / v (R218, R283). A scan line without a fire time waits for an edge. -/
def State.firesAfter (s : State) (h r l n : Nat) : Bool :=
  match s.dueOf h r l with
  | some t => decide (s.now + n ≤ t)
  | none =>
    s.scanPaced h || !s.running ||
      (decide (2 ≤ s.loopState ∧ 0 < s.br.v) && decide ((n : Int) * s.br.v ≤ (s.firePos h r l * 65536 - s.phiNow) * 800000000))

/-- The row and line of the next code frame of channel `h`: the one that is formed, else that of the row whose next line comes
first. -/
def State.nextCode (s : State) (h : Nat) : Nat × Nat :=
  match (s.hc h).formed with
  | f :: _ => (f.row, f.line)
  | [] => let r := if s.firstOfHead h 0 then 0 else 1; (r, (s.row h r).nextTake)

/-- A table frame that is shifted now lets the next code frame meet its latch deadline (R218). -/
def State.tableFits (s : State) (h : Nat) : Bool :=
  let n := s.nextCode h
  s.firesAfter h n.1 n.2 (s.tableTicks h + s.frameTicks h + 2 * (s.latw h + 2) + s.lfsu h)

/-- The table frame that may be shifted now (R218, R226): that of the bank which the next code frame names in any case, another
one before the first code frame, or where the next code frame still meets its latch deadline after it. -/
def State.tableDue (s : State) (h : Nat) : Option Nat :=
  let x := s.hc h
  match x.formed.head?.filter (fun f => x.tables.contains f.bank) with
  | some f => some f.bank
  | none => if x.tablesFirst || s.tableFits h then x.tables.head? else none

/-- TABLE_FRAME_SEND (R211, R218). -/
def execTableFrameSend (h : Fin 24) (s : State) : Host.Outcome State Fault Refusal :=
  .next <|
    match s.tableDue h with
    | none => s
    | some b =>
      let x := s.hc h
      if !s.shiftFree h then s
      else s.setHc h { x with
        tables := x.tables.filter (· != b), tableErr := x.tableErr.filter (· != b)
        shifting := some (tableFrame b (if x.tableErr.contains b then 1 else 0)), shiftStart := s.now }

/-- A fire event prints blank (R222): event, counter and entry. -/
def State.lateEvent (s : State) (h r l : Nat) : State :=
  let s := (s.setBit (R.HC_EVT h) F.HC_EVT_LATE true).count (R.HC_CNT_LATE h) F.HC_CNT_LATE_COUNT 1
  s.logFault { level := 1, kind := 0, unit := h, src := 7, cause := 0x10, detail := r, line := some l }

/-- The frame of row `r` that is formed or shifted and not latched is abandoned (R222). -/
def State.abandonFrame (s : State) (h r : Nat) : State :=
  let x := s.hc h
  let mine := fun f : Frame => !f.table && f.row == r
  match (x.shifting.toList ++ x.formed).find? mine with
  | none => s
  | some f =>
    let s := s.uncount h f
    let s := s.setHc h { s.hc h with
      shifting := if x.shifting.any mine then none else x.shifting, formed := x.formed.filter (fun f => !mine f) }
    s.lateEvent h r f.line

/-- LATCH_PULSE (R213, R215, R222): 2.5 ns after the last bit at the earliest; a code frame's only after its row's comb
run has ended and its latched frame has fired. -/
def execLatchPulse (h : Fin 24) (s : State) : Host.Outcome State Fault Refusal :=
  .next <|
    let x := s.hc h
    match x.shifting with
    | none => s
    | some f =>
      let lat := s.now + s.latw h
      if f.table then
        if s.now < x.shiftStart + s.tableTicks h + 2 then s
        else s.setHc h { x with
          shifting := none, latchEnd := lat, sentBanks := f.bank :: x.sentBanks.filter (· != f.bank) }
      else if s.now < x.shiftStart + s.frameTicks h + 2 || s.combRuns h f.row || (s.row h f.row).latched.isSome then s
      else if (match s.dueOf h f.row f.line with
          | some t => decide (t < lat + s.lfsu h)
          | none => false) then s.abandonFrame h f.row
      else
        let s := s.setHc h { x with shifting := none, latchEnd := lat }
        let s := s.setRow h f.row { s.row h f.row with latched := some f, latchedAt := lat }
        s.setFld (R.HC_STAT h) (if f.row = 0 then F.HC_STAT_BANKU else F.HC_STAT_BANKD) f.bank

/-- The steps of the grid from now to the end of the latch pulse of row `r`'s frame at the earliest (R215); none where no frame
of the row is formed or being shifted. -/
def State.latchTicks (s : State) (h r : Nat) : Option Nat :=
  let x := s.hc h
  if x.shifting.any (fun f => !f.table && f.row == r) then
    some (x.shiftStart + s.frameTicks h + 2 - s.now + s.latw h)
  else if x.formed.any (fun f => f.row == r) then some (s.frameTicks h + 2 + s.latw h) else none

/-- LATE_FIRE_EVENT (R222): the latch pulse of the row's frame cannot end LFSU before its fire time. A fire time that was
passed to the channel, or is predicted, decides; in Direct, which predicts none, the command itself does. -/
def execLateFireEvent (h : Fin 24) (row : Fin 2) (s : State) : Host.Outcome State Fault Refusal :=
  .next <|
    let x := s.hc h
    match (x.shifting.toList ++ x.formed).find? (fun f => !f.table && f.row == row.val), s.latchTicks h row with
    | some f, some n => if s.firesAfter h row f.line (n + s.lfsu h) then s else s.abandonFrame h row
    | _, _ => s

/-- A table frame that met an error is shifted again under the order of R218 (R226). -/
def State.tableAgain (s : State) (h b : Nat) : State :=
  let x := s.hc h
  s.setHc h { x with shifting := none, tables := b :: x.tables, tableErr := b :: x.tableErr }

/-- FRAME_ERROR_RESHIFT (R226, R227). -/
def execFrameErrorReshift (h : Fin 24) (s : State) : Host.Outcome State Fault Refusal :=
  .next <|
    match (s.hc h).shifting with
    | none => s
    | some f =>
      if f.errors ≠ 0 then s.retireHc h 1
      else
        let s := if f.table then s.tableAgain h f.bank
          else s.setHc h { s.hc h with shifting := some { f with errors := 1 }, shiftStart := s.now }
        let s := (s.count (R.HC_CNT_RESHIFT h) F.HC_CNT_RESHIFT_COUNT 1).setBit (R.HC_EVT h) F.HC_EVT_RESHIFT true
        let s := s.logFault { level := 1, kind := 0, unit := h, src := 7, cause := 0x11, detail := f.row }
        s.hcError h

/-! ## Deadlines -/

/-- Row `r` of channel `h` did not take line `l`, its next one, in time (R222, R288, R289): a row with a fire event prints
it blank. Where the level-buffer slot is not valid the hamlet counts it, and its page is flagged LATE unless the line is
Lost (R290). -/
def State.missTake (s : State) (h r : Nat) : State :=
  let k := h / 6
  let l := (s.row h r).nextTake
  let mode := if !s.scanPaced h && s.blankLine l then 0 else s.rowMode h l
  let bad := !s.scanPaced h && !(s.ham k).valid.contains l
  let event := s.rowacts h r l || (mode == 2 && !bad && (s.takePass h r l []).any (fun c => c.level != 0))
  let s := s.tookLine h r
  if mode = 0 ∨ !event then s
  else
    let s := (s.noteEvent h r l []).lateEvent h r l
    if mode = 2 ∧ bad then
      let s := s.count (R.HAM_CNT_BLANK k) F.HAM_CNT_BLANK_COUNT 1
      let s := s.setBit (R.HAM_EVT k) F.HAM_EVT_BLANK true
      if (s.ham k).lost.contains l then s else s.flagLine l 3
    else s

/-- Lines up to `l` that row `r` has not taken are missed. -/
def State.missTo (s : State) (h r l : Nat) : State :=
  let n := (lineDist l (s.row h r).nextTake + 1).toNat
  (List.range n).foldl (fun s _ => s.missTake h r) s

/-! ## Firing -/

/-- A granted calibration slot of channel `h` is cut by a fire time (R344). -/
def State.cutSlot (s : State) (h : Nat) : State :=
  match s.cal.slot with
  | some x =>
    if x.hc = h then
      let s := { s with cal := { s.cal with slot := none } }
      (s.count R.CAL_CNT_CUT F.CAL_CNT_CUT_COUNT 1).setBit R.CAL_EVT F.CAL_EVT_CUT true
    else s
  | none => s

/-- The fire time of row `r` moves to `t` (R221), with its counter, event bit and entry. -/
def State.moveFire (s : State) (h r l t : Nat) (rest : List (Nat × Nat)) (cnt bit : Nat) (f e : Field) : State :=
  let s := s.setRow h r { s.row h r with due := (l, t) :: rest }
  let s := (s.count cnt f 1).setBit (R.HC_EVT h) e true
  s.logFault { level := 1, kind := 5, unit := h, src := 7, cause := 0x10 + bit, detail := r, line := some l }

/-- The latched frame of row `r` prints blank: its latch pulse did not end LFSU before the fire time (R222). -/
def State.abandonLatched (s : State) (h r : Nat) (f : Frame) : State :=
  let s := s.uncount h f
  (s.setRow h r { s.row h r with latched := none }).lateEvent h r f.line

/-- The comb run of row `r` starts at `t` (R207, R208, R214): ejecting fires reset KEEPWET, spits are counted. -/
def State.fireRow (s : State) (h r t : Nat) (f : Frame) : State :=
  let s := s.cutSlot h
  let s := s.setRow h r { s.row h r with
    latched := none, lastFire := some t, runEnd := some (t + 8 * s.combLen h f.bank) }
  if f.warm then s
  else
    let s := f.eject.foldl (fun s c => s.setNum (nozAddr (nozId h (c + 2112 * r)) + 4) 2 0) s
    s.count (R.HC_CNT_SPIT h) F.HC_CNT_SPIT_COUNT f.spits

/-- The frames of scan line `n` of channel `h` are formed and shifted anew (R233). -/
def State.reformLine (s : State) (h n : Nat) : State :=
  [0, 1].foldl (fun s r =>
    let x := s.hc h
    let mine := fun f : Frame => !f.table && f.row == r && f.line == n
    match (x.formed ++ x.shifting.toList ++ (s.row h r).latched.toList).find? mine with
    | none => s
    | some f =>
      let s := s.forget h f
      let s := s.setHc h { s.hc h with
        formed := (s.hc h).formed.filter (fun f => !mine f), shifting := (s.hc h).shifting.filter (fun f => !mine f) }
      s.setRow h r { s.row h r with latched := (s.row h r).latched.filter (fun f => !mine f), nextTake := n }) s

/-- The rows of channel `h` are to fire scan line `n` from `t` on (R234). -/
def State.scanStart (s : State) (h n t : Nat) : State :=
  let s := s.setRow h 0 { s.row h 0 with due := [(n, t)] }
  let s := if s.twoRows h then
      s.setRow h 1 { s.row h 1 with due := [(n, t + s.fld (R.HC_SCAN_ROWD h) F.HC_SCAN_ROWD_ROWD)] } else s
  s.setHc h { s.hc h with scan := { (s.hc h).scan with lastU := t } }

/-- A group of scan lines starts at `t` from the SOS edge at `e` (R233, R234): an image whose line came before the edge is in
effect from its first line on. -/
def State.startScanGroup (s : State) (h e t : Nat) : State :=
  let n := (s.hc h).scan.line
  let s := match (s.hc h).scan.image with
    | some (i, v) => if i < e then (s.putScan h v).reformLine h n else s
    | none => s
  let s := s.setHc h { s.hc h with scan := { (s.hc h).scan with left := s.fld (R.HC_SCAN_CFG h) F.HC_SCAN_CFG_G } }
  s.scanStart h n t

/-- The scan line of channel `h` moves on after its last row; the next one of the group, or a held group, follows (R234,
R235). -/
def State.scanAdvance (s : State) (h : Nat) : State :=
  let x := (s.hc h).scan
  let per := s.fld (R.HC_SCAN_PER h) F.HC_SCAN_PER_PER
  let n := x.line + 1
  let s := s.setHc h { s.hc h with scan := { x with line := n } }
  let s := s.setFld (R.HC_SCAN_PTR h) F.HC_SCAN_PTR_PTR (n % max 1 (s.fld (R.HC_SCAN_CFG h) F.HC_SCAN_CFG_SCANLEN))
  if 1 < x.left then
    let s := s.setHc h { s.hc h with scan := { (s.hc h).scan with left := x.left - 1 } }
    s.scanStart h n (x.lastU + per)
  else
    match x.heldEdge with
    | some e =>
      let s := s.setFld (R.HC_SCAN_PTR h) F.HC_SCAN_PTR_PEND 0
      let s := s.setHc h { s.hc h with scan := { (s.hc h).scan with heldEdge := none } }
      s.startScanGroup h e (max (e + s.fld (R.HC_SCAN_DLY h) F.HC_SCAN_DLY_DLY) (x.lastU + per))
    | none => s.setHc h { s.hc h with scan := { (s.hc h).scan with left := 0 } }

/-- The fire time of line `l` of a row has passed: it leaves the list; a scan line may end with it. -/
def State.duePassed (s : State) (h r : Nat) : State :=
  let s := s.setRow h r { s.row h r with due := (s.row h r).due.tail }
  if s.scanPaced h && (s.row h 0).due.isEmpty && (s.row h 1).due.isEmpty then s.scanAdvance h else s

/-- FIRE_TIME (R207, R214, R220 to R222, R344). -/
def execFireTime (h : Fin 24) (row : Fin 2) (s : State) : Host.Outcome State Fault Refusal :=
  .next <|
    match (s.row h row).due with
    | [] => s
    | (l, t) :: rest =>
      if s.now < t then s
      else
        let s := s.missTo h row l
        let x := s.hc h
        let mine := fun f : Frame => !f.table && f.row == row.val && f.line == l
        let latched := (s.row h row).latched.filter (fun f => f.line == l)
        let has := latched.isSome || (x.shifting.toList ++ x.formed).any mine
        let guarded := match (s.row h row).lastFire with
          | some u => if t < u + s.strobeTicks h then some (u + s.strobeTicks h) else none
          | none => none
        let other := match (s.row h (1 - row.val)).runEnd with
          | some e => if s.twoRows h && decide (t < e) then some (e + 8) else none
          | none => none
        match has, guarded, other with
        | true, some t', _ => s.moveFire h row l t' rest (R.HC_CNT_GUARD h) 10 F.HC_CNT_GUARD_COUNT F.HC_EVT_GUARD
        | true, none, some t' =>
          s.moveFire h row l t' rest (R.HC_CNT_COLLIDE h) 9 F.HC_CNT_COLLIDE_COUNT F.HC_EVT_COLLIDE
        | _, _, _ =>
          let s := match latched with
            | some f =>
              if t < (s.row h row).latchedAt + s.lfsu h then s.abandonLatched h row f else s.fireRow h row t f
            | none => if has then s.abandonFrame h row else s
          s.duePassed h row

/-- COMB_RUN_END (R214, R231): the output returns to REST; a channel whose EN is 0 is then Disabled. -/
def execCombRunEnd (h : Fin 24) (row : Fin 2) (s : State) : Host.Outcome State Fault Refusal :=
  .next <|
    match (s.row h row).runEnd with
    | none => s
    | some e =>
      if s.now < e then s
      else
        let s := s.setRow h row { s.row h row with runEnd := none }
        if !s.bit (R.HC_CTRL h) F.HC_CTRL_EN && s.hcState h != 0 && !s.combRuns h (1 - row.val) then s.setHcState h 0 else s

/-! ## Comb banks -/

/-- HC_COMBLINE of channel `h` takes a line (R217, R218): a switch is pending, and the bank's table is to be sent. -/
def State.combLineSet (s : State) (h : Nat) (v : Word) : State :=
  let s := s.setReg (R.HC_COMBLINE h) v
  let pend := v != 0xFFFFFFFF#32
  let s := s.setBit (R.HC_STAT h) F.HC_STAT_COMBPEND pend
  let b := 1 - s.fld (R.HC_COMBSEL h) F.HC_COMBSEL_BANK
  let s := if pend && s.hcActive h then s.setHc h { s.hc h with 
    tables := (s.hc h).tables.filter (· != b) ++ [b], tableErr := (s.hc h).tableErr.filter (· != b) } else s
  s.refreshLimit h

/-- COMB_BANK_FLIP (R217, R278). -/
def execCombBankFlip (h : Fin 24) (s : State) : Host.Outcome State Fault Refusal :=
  .next <|
    let cl := s.regN (R.HC_COMBLINE h)
    let passed := if s.scanPaced h then lineLe cl (s.regN R.BR_LINE)
      else (s.rowsOf h).all (fun r => lineLt cl (s.regN (rowNextReg h r)))
    if cl ≠ 0xFFFFFFFF ∧ passed then
      let s := s.setFld (R.HC_COMBSEL h) F.HC_COMBSEL_BANK (1 - s.fld (R.HC_COMBSEL h) F.HC_COMBSEL_BANK)
      s.combLineSet h 0xFFFFFFFF#32
    else s

/-! ## Re-admission -/

/-- A re-admission of channel `h` is refused (R279, R298); the CAUSE of the entry is not stated, a free value. -/
def State.readmitRefused (s : State) (h : Nat) : State :=
  (s.logFault { level := 1, kind := 4, unit := h, src := 7, cause := Config.free s.freeCtr }).drawn

/-- The loop line rate in 1/16 line/s, as a magnitude. -/
def State.rate16 (s : State) : Nat := (sext 32 (s.regN R.BR_RATE)).natAbs

/-- Line periods for two table frames, one code frame, its latch pulse and LFSU, at the present line rate (R298). -/
def State.readmitLines (s : State) (h : Nat) : Nat :=
  let t := 2 * s.tableTicks h + s.frameTicks h + s.latw h + s.lfsu h
  (t * s.rate16 + 12800000000 - 1) / 12800000000

/-- Re-admission of channel `h` starts (R218, R229, R279, R298). -/
def State.readmitHc (s : State) (h : Nat) : State :=
  if s.hcState h ≠ 4 ∨ s.fld (R.BR_HLIMIT h) F.BR_HLIMIT_LIMIT * 16 < s.rate16 then s.readmitRefused h
  else
    let r := if s.twoRows h && decide (s.rowDelay h 1 < s.rowDelay h 0) then 1 else 0
    let n := s.regN (rowNextReg h r)
    let lr := lineAdd n (s.fld (R.HC_WARM h) F.HC_WARM_WARMN + 2 + s.readmitLines h)
    let s := s.setHc h { s.hc h with lr := some lr, tables := [0, 1], tableErr := [], tablesFirst := true }
    s.setHcState h 3

/-- WARMUP_COMPLETE (R231, R297). L_r stays known until every row has fired it (R195). -/
def execWarmupComplete (h : Fin 24) (s : State) : Host.Outcome State Fault Refusal :=
  .next <|
    match (s.hc h).lr with
    | none => s
    | some lr =>
      if s.hcState h = 3 ∧ (s.rowsOf h).all (fun r => lineLt lr (s.regN (rowNextReg h r))) then
        let s := (s.setHcState h 2).setBit (R.HC_EVT h) F.HC_EVT_READMITTED true
        s.logFault { level := 1, kind := 3, unit := h, src := 7, cause := 0x13 }
      else s

/-! ## Temperature -/

/-- DERATED and TZONE follow the zones and the staleness (R223, R224). -/
def State.zoneShown (s : State) (h : Nat) : State :=
  let x := s.hc h
  let z := if x.tripZone then 3 else if x.limitZone then 2 else if x.warnZone then 1 else 0
  let s := s.setFld (R.HC_STAT h) F.HC_STAT_TZONE z
  s.setBit (R.HC_STAT h) F.HC_STAT_DERATED (x.limitZone || s.bit (R.HC_STAT h) F.HC_STAT_STALE)

/-- A threshold of HC_PROF3 in 1/16 °C. -/
def State.tempThr (s : State) (h : Nat) (f : Field) : Int := 16 * sext 8 (s.fld (R.HC_PROF3 h) f)

/-- A fresh reading of the temperature of head `h` in 1/16 °C (R223 to R225, R341). -/
def State.headReading (s : State) (h : Nat) (t : Int) : State :=
  let a := R.HC_TEMP h
  let s := ((s.setFld a F.HC_TEMP_TEMP (wrap 16 t)).setFld a F.HC_TEMP_STALE 0).setFld a F.HC_TEMP_AGE 0
  let x := s.hc h
  let warn := s.tempThr h F.HC_PROF3_TWARN
  let w := if x.warnZone then decide (warn - 32 ≤ t) else decide (warn ≤ t)
  let l := if x.limitZone then decide (warn ≤ t) else decide (s.tempThr h F.HC_PROF3_TLIMIT ≤ t)
  let p := if x.tripZone then decide (s.tempThr h F.HC_PROF3_TRESTORE ≤ t) else decide (s.tempThr h F.HC_PROF3_TTRIP ≤ t)
  let s := s.setHc h { x with freshAt := some s.now, warnZone := w, limitZone := l, tripZone := p }
  let s := if w && !x.warnZone then s.setBit (R.HC_EVT h) F.HC_EVT_TWARN true else s
  let s := if l && !x.limitZone then s.setBit (R.HC_EVT h) F.HC_EVT_TLIMIT true else s
  let s := if p && !x.tripZone then s.setBit (R.HC_EVT h) F.HC_EVT_TTRIP true else s
  let s := (s.setFld (R.HC_STAT h) F.HC_STAT_STALE 0).zoneShown h
  if decide (s.tempThr h F.HC_PROF3_TTRIP ≤ t) && s.hcActive h then s.retireHc h 3
  else if s.hcState h = 5 ∧ t < s.tempThr h F.HC_PROF3_TRESTORE then
    let s := s.setHcState h 4
    if s.bit (R.HC_CTRL h) F.HC_CTRL_AUTOREADMIT then s.readmitHc h else s
  else s

/-- TEMP_STALE_TIMEOUT (R223). -/
def execTempStaleTimeout (h : Fin 24) (s : State) : Host.Outcome State Fault Refusal :=
  .next <|
    let x := s.hc h
    if s.now < max (x.freshAt.getD 0) x.enabledAt + ms 100 || s.hcState h = 0 || s.bit (R.HC_STAT h) F.HC_STAT_STALE then s
    else
      let s := (s.setBit (R.HC_STAT h) F.HC_STAT_STALE true).setBit (R.HC_EVT h) F.HC_EVT_TSTALE true
      s.zoneShown h

/-! ## Scan-paced channels -/

/-- A write of `v` to HC_SCAN_CFG of channel `h` (R202, R233, R236). -/
def State.scanCfgWrite (s : State) (r : Requester) (h : Nat) (v : Word) : State :=
  let a := R.HC_SCAN_CFG h
  let t := (s.writeByCodes a v)
  let err := if getField F.HC_SCAN_CFG_ARM v = 0 then 0 else t.scanErr h
  let printing := s.hcState h = 2 || s.hcState h = 3
  if printing && (v &&& 0xFFFFFFFE#32) &&& maskOf .rw rowsSCANCFG != (s.reg a &&& 0xFFFFFFFE#32) then s.refuse r 4
  else if err ≠ 0 then (s.setFld (R.HC_STAT h) F.HC_STAT_CFGERR err).refuse r 5
  else t.written r
where
  /-- The fields of HC_SCAN_CFG. -/
  rowsSCANCFG : List Field :=
    [F.HC_SCAN_CFG_ARM, F.HC_SCAN_CFG_EDGE, F.HC_SCAN_CFG_QUEUE, F.HC_SCAN_CFG_G, F.HC_SCAN_CFG_SCANLEN]

/-- SCAN_ARM (R234, R236). -/
def execScanArm (r : Requester) (i : Fin 2) (v : Word) (s : State) : Host.Outcome State Fault Refusal :=
  .next (s.scanCfgWrite r (22 + i.val) (putField F.HC_SCAN_CFG_ARM v 1))

/-- An SOS edge of channel `h` is accepted (R234, R235): its group starts, or the edge is held, or dropped. -/
def State.sosAccepted (s : State) (h : Nat) : State :=
  let x := (s.hc h).scan
  if x.left = 0 then
    s.startScanGroup h s.now (s.now + s.fld (R.HC_SCAN_DLY h) F.HC_SCAN_DLY_DLY)
  else if s.bit (R.HC_SCAN_CFG h) F.HC_SCAN_CFG_QUEUE && x.heldEdge.isNone then
    (s.setHc h { s.hc h with scan := { x with heldEdge := some s.now } }).setFld (R.HC_SCAN_PTR h) F.HC_SCAN_PTR_PEND 1
  else (s.count (R.HC_CNT_SOSOVR h) F.HC_CNT_SOSOVR_COUNT 1).setBit (R.HC_EVT h) F.HC_EVT_SOSOVR true

/-- SOS_EDGE (R232, R234, R235). -/
def execSosEdge (i : Fin 2) (rising wide : Bool) (s : State) : Host.Outcome State Fault Refusal :=
  .next <|
    let h := 22 + i.val
    let takes := s.scanPaced h && s.hcFires h && s.bit (R.HC_SCAN_CFG h) F.HC_SCAN_CFG_ARM && wide &&
      (rising == !s.bit (R.HC_SCAN_CFG h) F.HC_SCAN_CFG_EDGE)
    if takes then s.sosAccepted h else s

/-- KEEPWET of every nozzle of a row advances by one, to at most 0xFFFF (R207). -/
def State.keepwetRow (s : State) (h r : Nat) : State :=
  (List.range 2112).foldl (fun s c =>
    let g := nozId h (c + 2112 * r)
    s.setNum (nozAddr g + 4) 2 (min 0xFFFF (s.keepwet g + 1))) s

/-- SCAN_KEEPWET_TICK (R232). -/
def execScanKeepwetTick (i : Fin 2) (s : State) : Host.Outcome State Fault Refusal :=
  .next <|
    let h := 22 + i.val
    if s.scanPaced h && s.hcState h != 0 then (s.rowsOf h).foldl (fun s r => s.keepwetRow h r) s else s

end Sys2Proof.Machine
end

