-- ==== Sys2Proof/Machine/Camera.lean ====
section
/-! DEFINITION. Camera ports and pipelines (R310 to R336): lines, frames, the serial ports, the stages of a pipeline, and
the map FIFO. -/

namespace Sys2Proof.Machine

/-! ## Arming and software triggers -/

/-- A write of CAMn_CTRL (R312, R314, R337): while the port is armed only ARM and SWTRIG act. Arming clears FSEQ and the
count of triggers; disarming drops the frame in progress. -/
def State.camCtrlWrite (s : State) (n : Nat) (v : Word) : State :=
  let a := R.CAMn_CTRL n
  let was := s.bit a F.CAMn_CTRL_ARM
  let now := getField F.CAMn_CTRL_ARM v == 1
  let s := if was then s.setBit a F.CAMn_CTRL_ARM now else s.writeByCodes a v
  let s :=
    if now && !was then
      let s := s.setCamPort n { s.camPort n with count := 0 }
      let s := s.setReg (R.CAMn_FSEQ n) 0
      if s.camState n = 2 then s else s.setFld (R.CAMn_STAT n) F.CAMn_STAT_STATE 1
    else if was && !now then
      let s := (s.setCamPort n ((s.camPort n).cleared 0 true)).settlePort n
      if s.camState n = 2 then s else s.setFld (R.CAMn_STAT n) F.CAMn_STAT_STATE 0
    else s
  if getField F.CAMn_CTRL_SWTRIG v = 1 ∧ s.fld a F.CAMn_CTRL_TRIGSRC = 9 ∧ s.camState n ≠ 0 then s.camTrigger n else s

/-- CAMERA_ARM (R314). -/
def execCameraArm (r : Requester) (n : Fin 4) (v : Word) (s : State) : Host.Outcome State Fault Refusal :=
  .next (if getField F.CAMn_CTRL_ARM v = 1 then (s.camCtrlWrite n v).written r else s)

/-- CAMERA_DISARM (R337). -/
def execCameraDisarm (r : Requester) (n : Fin 4) (v : Word) (s : State) : Host.Outcome State Fault Refusal :=
  .next (if getField F.CAMn_CTRL_ARM v = 0 then (s.camCtrlWrite n v).written r else s)

/-- SOFTWARE_TRIGGER (R312). -/
def execSoftwareTrigger (r : Requester) (n : Fin 4) (v : Word) (s : State) : Host.Outcome State Fault Refusal :=
  .next (if getField F.CAMn_CTRL_SWTRIG v = 1 then (s.camCtrlWrite n v).written r else s)

/-- TRIGGER_PULSE_END (R312). -/
def execTriggerPulseEnd (n : Fin 4) (s : State) : Host.Outcome State Fault Refusal :=
  .next <|
    match (s.camPort n).pulse with
    | some t => if t ≤ s.now then s.setCamPort n { s.camPort n with pulse := none } else s
    | none => s

/-! ## Lines -/

/-- Two tap streams taken in turn. -/
def interleave {α : Type} : List α → List α → List α
  | a :: s, b :: t => a :: b :: interleave s t
  | s, [] => s
  | [], t => t

/-- The pixels of a line by TAPS and TAPMODE (R310). -/
def State.linePixels (s : State) (n : Nat) (a b : List (BitVec 12)) : List Nat :=
  let c := R.CAMn_CTRL n
  (if !s.bit c F.CAMn_CTRL_TAPS then a
   else if !s.bit c F.CAMn_CTRL_TAPMODE then interleave a b
   else a ++ b).map (·.toNat)

/-- The frames of a port once frame `k` has taken one more line; in count framing a frame with all its lines ends. -/
def takeLine (k full : Nat) (counting : Bool) (w : List CamWork) : List CamFrame → List CamFrame × List CamWork
  | [] => ([], w)
  | f :: t =>
    if f.info.fseq = k ∧ f.dropped.isNone then
      let f := { f with lines := f.lines + 1, marked := true }
      if counting && f.lines == full then (t, w ++ [.frameEnd f.info none]) else (f :: t, w)
    else
      let (l, w) := takeLine k full counting w t
      (f :: l, w)

/-- A sound line of the open frame `f` enters the line FIFO, or finds it full (R316, R317). -/
def State.storeLine (s : State) (n : Nat) (f : CamFrame) (px : List Nat) (pos : Int) : State :=
  let x := s.camPort n
  if 65536 < fifoBytesHeld x + 2 * px.length then s.camDrop n (some f.info.fseq) 1
  else
    let item := CamItem.line (px.flatMap (leBytes 2)) (2 * px.length)
    let fifo := if s.capen n then x.fifo ++ (if f.marked then [] else [.frameStart]) ++ [item] else x.fifo
    let counting := !s.bit (R.CAMn_CTRL n) F.CAMn_CTRL_FRAMEMODE
    let (frames, work) := takeLine f.info.fseq (s.frameLines n) counting (x.work ++ [.line px pos f.info]) x.frames
    ((s.sourceFills (16 + n) x.fifo.isEmpty).setCamPort n { x with fifo := fifo, work := work, frames := frames }).settlePort n

/-- A line paired with position `pos` that belongs to frame `k`, none outside every frame: malformed lines drop the frame
(R316), and a line of no frame or of a dropped one is discarded. -/
def State.judgeLine (s : State) (n : Nat) (k : Option Nat) (outside : Bool) (px : List Nat) (pos : Int) : State :=
  let x := s.camPort n
  if x.readmit then s.showPort n
  else if outside then s.camDrop n k 2
  else
    match k with
    | none => s.showPort n
    | some k =>
      if px.length ≠ s.linePx n then (s.camDrop n (some k) 2).showPort n
      else
        match x.frames.find? (fun f => f.info.fseq == k && f.dropped.isNone) with
        | some f => s.storeLine n f px pos
        | none => s.showPort n

/-- CAMERA_LINE (R311, R313, R314): the line is paired with the oldest trigger, or without triggers takes the values of the
rising edge of LV, where in count framing it also counts and starts frames. -/
def execCameraLine (n : Fin 4) (tapA tapB : List (BitVec 12)) (fv : Bool) (pos : Int) (ts : Nat) (s : State) :
    Host.Outcome State Fault Refusal :=
  .next <|
    if s.camState n ≠ 1 then s
    else
      let px := s.linePixels n tapA tapB
      let c := R.CAMn_CTRL n
      let counting := !s.bit c F.CAMn_CTRL_FRAMEMODE
      let outside := !counting && !fv
      if s.fld c F.CAMn_CTRL_TRIGSRC = 0 then
        let x := s.camPort n
        let s := s.setCamPort n { x with count := x.count + 1 }
        let s := if counting && x.count % max 1 (s.frameLines n) == 0 then s.camFrameStart n ts else s
        s.judgeLine n (newestFrame (s.camPort n)) outside px pos
      else
        let x := s.camPort n
        match x.trig with
        | [] => if x.readmit then s else s.camDrop n (newestFrame x) 6
        | t :: rest =>
          let s := s.setCamPort n { x with trig := rest }
          s.judgeLine n (if counting then t.frame else newestFrame x) outside px t.pos

/-- LINE_TIMEOUT (R316): the oldest trigger is LINETO µs old; its entry is discarded and its frame drops. -/
def execLineTimeout (n : Fin 4) (s : State) : Host.Outcome State Fault Refusal :=
  .next <|
    let x := s.camPort n
    match x.trig with
    | t :: rest =>
      if s.now < t.at_ + us (s.fld (R.CAMn_TIMEOUT n) F.CAMn_TIMEOUT_LINETO) then s
      else
        let k := if s.bit (R.CAMn_CTRL n) F.CAMn_CTRL_FRAMEMODE then newestFrame x else t.frame
        let s := (s.setCamPort n { x with trig := rest }).showPort n
        if x.readmit then s else s.camDrop n k 3
    | [] => s

/-- PCLK_STOP (R318): the clock has stopped while a trigger waits. -/
def execPclkStop (n : Fin 4) (s : State) : Host.Outcome State Fault Refusal :=
  .next (if s.camState n = 1 ∧ !(s.camPort n).trig.isEmpty then s.camRetire n 8 else s)

/-- FRAME_VALID_EDGE (R314): FV starts a frame, or ends it, which must then hold FRAMELINES lines. -/
def execFrameValidEdge (n : Fin 4) (rising : Bool) (s : State) : Host.Outcome State Fault Refusal :=
  .next <|
    if s.camState n ≠ 1 ∨ !s.bit (R.CAMn_CTRL n) F.CAMn_CTRL_FRAMEMODE then s
    else if rising then s.camFrameStart n s.ptp
    else
      let x := s.camPort n
      match x.frames.getLast? with
      | some f =>
        if f.dropped.isSome then s
        else if f.lines ≠ s.frameLines n then s.camDrop n (some f.info.fseq) 2
        else (s.setCamPort n { x with
          frames := x.frames.dropLast, work := x.work ++ [.frameEnd f.info none] }).settlePort n
      | none => s

/-- CAMERA_PORT_READMIT (R318): named retired ports take lines again from their next frame start. -/
def execCameraPortReadmit (r : Requester) (v : Word) (s : State) : Host.Outcome State Fault Refusal :=
  .next <|
    (((List.range 4).filter (fun n => (getField F.CAM_READMIT_PORT v).testBit n && s.camState n == 2)).foldl
      (fun s n =>
        let armed := s.bit (R.CAMn_CTRL n) F.CAMn_CTRL_ARM
        (s.setCamPort n { s.camPort n with readmit := true, stamps := [] }).setFld (R.CAMn_STAT n) F.CAMn_STAT_STATE
          (if armed then 1 else 0)) s).written r

/-! ## Exposure sets -/

/-- An exposure set written while the port is disarmed (R319): it is due at the first frame start after arming. -/
def State.exposureWrite (s : State) (n : Nat) (a : Nat) (v : Word) : State :=
  let s := s.writeByCodes a v
  let x := s.camPort n
  s.setCamPort n { x with sets := (0, s.reg (R.CAMn_EXP n), s.reg (R.CAMn_GAIN n)) :: x.sets }

/-- An exposure set that a commit group writes now: frame starts from the next sample on take it (R319). -/
def State.exposureCommit (s : State) (n : Nat) : State :=
  let x := s.camPort n
  s.setCamPort n { x with sets := (s.now + 1, s.reg (R.CAMn_EXP n), s.reg (R.CAMn_GAIN n)) :: x.sets }

/-! ## Serial ports -/

/-- SERIAL_BYTE_RECEIVED (R315). -/
def execSerialByteReceived (n : Fin 4) (b : Byte) (s : State) : Host.Outcome State Fault Refusal :=
  .next <|
    let x := s.camPort n
    if !s.bit (R.CAMn_SER_CFG n) F.CAMn_SER_CFG_EN then s
    else if 16 ≤ x.rx.length then s.setCamPort n { x with rxOvf := true }
    else s.setCamPort n { x with rx := x.rx ++ [b] }

/-- The word of a read of CAMn_SER_DATA (R337). -/
def serialWord (x : CamPort) : Word :=
  BitVec.ofNat 32 ((match x.rx with
    | b :: _ => b.toNat + 256
    | [] => 0) + (if 16 ≤ x.tx.length then 512 else 0) + (if x.rxOvf then 1024 else 0))

/-- SERIAL_DATA_ACCESS (R337): a write queues a byte, or is dropped at a full FIFO; a read removes the oldest byte. -/
def execSerialDataAccess (r : Requester) (n : Fin 4) (v : Option Word) (s : State) : Host.Outcome State Fault Refusal :=
  .next <|
    let x := s.camPort n
    match v with
    | some w =>
      (if 16 ≤ x.tx.length then s
       else s.setCamPort n { x with
        tx := x.tx ++ leBytes 1 w.toNat, txFrom := if x.tx.isEmpty then s.now else x.txFrom }).written r
    | none =>
      (s.setCamPort n { x with rx := x.rx.drop 1, rxOvf := false }).okResp r (leBytes 4 (serialWord x).toNat)

/-- SERIAL_BYTE_SENT (R315): a start bit, 8 data bits and a stop bit of DIV × 10 ns each have gone out. -/
def execSerialByteSent (n : Fin 4) (s : State) : Host.Outcome State Fault Refusal :=
  .next <|
    let x := s.camPort n
    if s.bit (R.CAMn_SER_CFG n) F.CAMn_SER_CFG_EN && !x.tx.isEmpty &&
        decide (x.txFrom + 80 * s.fld (R.CAMn_SER_CFG n) F.CAMn_SER_CFG_DIV ≤ s.now) then
      s.setCamPort n { x with tx := x.tx.drop 1, txFrom := s.now }
    else s

/-- A write of CAMn_SER_CFG (R315): bytes that wait are sent from the enable on. -/
def State.serialCfgWrite (s : State) (n : Nat) (v : Word) : State :=
  let was := s.bit (R.CAMn_SER_CFG n) F.CAMn_SER_CFG_EN
  let s := s.writeByCodes (R.CAMn_SER_CFG n) v
  if was then s else s.setCamPort n { s.camPort n with txFrom := s.now }

/-! ## Tables -/

/-- The number of a table entry: 0 DARK, 1 FF, 2 DLUT, 3 PRED, by unit and index. -/
def camTabKey (tab unit i : Nat) : Nat := (4 * tab + unit) * 16384 + i

/-- A table entry (R322, R331). -/
def State.camTab (s : State) (tab unit i : Nat) : Nat := sget (fun _ => 0) s.cam.tables (camTabKey tab unit i)

/-- The entries of a table. -/
def tabSize (tab : Nat) : Nat := if tab < 2 then 16384 else if tab = 2 then 4096 else 256

/-- The ports whose arming protects a table of a unit (R337). -/
def tabPorts (tab unit : Nat) : List Nat := if tab < 3 then [unit] else [2 * unit, 2 * unit + 1]

/-- CAM_TABLE_ACCESS (R337): INDEX advances with each access; an entry that does not exist holds nothing, and its read is
free. -/
def execCamTableAccess (r : Requester) (v : Option Word) (s : State) : Host.Outcome State Fault Refusal :=
  .next <|
    let a := R.CAM_TAB_ADDR
    let tab := s.fld a F.CAM_TAB_ADDR_TAB
    let unit := s.fld a F.CAM_TAB_ADDR_UNIT
    let i := s.fld a F.CAM_TAB_ADDR_INDEX
    let there := decide (i < tabSize tab ∧ (tab < 3 ∨ unit < 2))
    let next := fun s : State => s.setFld a F.CAM_TAB_ADDR_INDEX (i + 1)
    match v with
    | some w =>
      if (tabPorts tab unit).any (fun n => s.bit (R.CAMn_CTRL n) F.CAMn_CTRL_ARM) then s.refuse r 4
      else
        let e := getField F.CAM_TAB_DATA_VALUE w
        (next (if there then
            { s with cam := { s.cam with tables := sset (fun _ => 0) s.cam.tables (camTabKey tab unit i) e } }
          else s)).written r
    | none =>
      if there then (next s).okResp r (leBytes 4 (s.camTab tab unit i))
      else (next s).drawn.okResp r (leBytes 4 (Config.free s.freeCtr % 65536))

/-- CAM_NOZZLE_RETIRE (R335): the nozzle is retired with RSRC 0x1; values above 101,375 are ignored. -/
def execCamNozzleRetire (r : Requester) (v : Word) (s : State) : Host.Outcome State Fault Refusal :=
  .next <|
    let g := getField F.CAM_NOZ_RETIRE_NOZ v
    (if g < 101376 then s.retireNozzle g .inspection else s).written r

/-! ## Map FIFO -/

/-- Pipeline `p`. -/
def State.pipe (s : State) (p : Nat) : PipeSt := sget (fun _ => {}) s.cam.pipes p

/-- The state with pipeline `p` set, and MAPLVL with it. -/
def State.setPipe (s : State) (p : Nat) (x : PipeSt) : State :=
  ({ s with cam := { s.cam with pipes := sset (fun _ => {}) s.cam.pipes p x } }).setFld (R.Pp_STAT p) F.Pp_STAT_MAPLVL
    x.map.length

/-- The ladder that line `l` lies in, its gaps included (R325). -/
def State.ladderSpan (s : State) (l : Nat) : Option Ladder :=
  s.br.ladders.find? (fun x => lineLe x.l0 l && decide (lineDist l x.l0 < 32 * (x.bandH + x.gap)))

/-- An entry for line `l` goes to the map FIFO of both pipelines (R323); one that finds it full is lost (R324). -/
def State.pushMap (s : State) (l : Nat) (pos : Int) (pitch : Nat) : State :=
  let pg := s.pageOfLine l
  let e : MapEntry := ⟨l, pos, pitch, pg.map (fun n => (n, (s.page n).lfirst, (s.page n).llast)),
    if pg.isSome then none else s.ladderSpan l⟩
  [0, 1].foldl (fun s p =>
    let x := s.pipe p
    if 1024 ≤ x.map.length then
      ((s.setPipe p { x with lost := some ((x.lost.map (·.1)).getD pos, pos) }).orFld R.CAM_EVT F.CAM_EVT_MAPLOST p).logFault
        { level := 3, kind := 5, unit := 2 * p, src := 0x0A, cause := 7 }
    else s.setPipe p { x with map := x.map ++ [e] }) s

/-- The entries that every armed port of a pipeline has passed the next entry of leave the FIFO (R323). -/
def dropPassed (passed : Int → Bool) : List MapEntry → List MapEntry
  | e :: f :: t => if passed f.pos then dropPassed passed (f :: t) else e :: f :: t
  | l => l

/-- The map FIFO of pipeline `p` after a line (R323, R324). -/
def State.trimMap (s : State) (p : Nat) : State :=
  let x := s.pipe p
  let ports := [2 * p, 2 * p + 1].filter (fun n => s.camState n == 1)
  let m := dropPassed (fun q => ports.all (fun n => match (s.camPort n).lastW with
    | some w => decide (q ≤ w)
    | none => false)) x.map
  let lost := match x.lost, m with
    | some (a, b), e :: _ => if b ≤ e.pos then none else some (a, b)
    | l, _ => l
  s.setPipe p { x with map := m, lost := lost }

/-- The last entry of a map at or below a position. -/
def mapAt (w : Int) : List MapEntry → Option MapEntry
  | [] => none
  | e :: t => if w < e.pos then none else (mapAt w t).orElse (fun _ => some e)

/-- Wc of a line in 2^-16 dot, rounded down, from its POS (R323); none while BR_DEN is 0. -/
def State.camPos (s : State) (n : Nat) (pos : Int) : Option Int :=
  let den := s.regN R.BR_DEN
  if den = 0 then none
  else
    let org := sext 64 (s.wide R.BR_ORG_LO)
    let y := sext 32 (s.regN (R.CAMn_YDIST n))
    some (Int.fdiv ((64 * (pos - org) * s.regN R.BR_NUM - y * den) * 1024) den)

/-! ## Stages -/

/-- The printed column of camera pixel `x` in 1/65,536 column (R322). -/
def State.pixelColumn (s : State) (n x : Nat) : Int :=
  256 * sext 32 (s.regN (R.CAMn_X0 n)) + (x : Int) * s.regN (R.CAMn_PITCH n)

/-- The camera pixel of printed column `X` (R328): the last pixel that starts at or before it. -/
def State.columnPixel (s : State) (n X : Nat) : Option Int :=
  let p := s.regN (R.CAMn_PITCH n)
  if p = 0 then none else some (Int.fdiv (65536 * (X : Int) - 256 * sext 32 (s.regN (R.CAMn_X0 n))) p)

/-- Stage 1 (R322). -/
def State.flatField (s : State) (n gain x p : Nat) : Nat :=
  if !s.bit (R.Pp_CTRL (n / 2)) F.Pp_CTRL_FF then p
  else
    (clampInt 0 4095 (Int.fdiv (((p : Int) - s.camTab 0 n x) * s.camTab 1 n x * gain + 2 ^ 21) (2 ^ 22))).toNat

/-- Stage 3 (R322). -/
def State.density (s : State) (n p : Nat) : Nat :=
  let v := s.camTab 2 n p
  if v < 4096 then v else Config.overDensity v % 4096

/-- Stage 6 (R322, R334): a line of raw pixels, corrected pixels and densities joins the statistics of its frame. -/
def addStats (a : FrameAcc) (px cor den : List Nat) (lcam : Option Nat) (lost : Bool) : FrameAcc :=
  { a with
    lines := a.lines + 1
    sat := a.sat + (px.filter (· == 4095)).length
    pixels := a.pixels + px.length
    sum := a.sum + cor.sum
    lo := cor.foldl min a.lo
    hi := cor.foldl max a.hi
    sumD := a.sumD + den.sum
    first := a.first.orElse (fun _ => lcam)
    maplost := a.maplost || lost }

/-! ## Ladders -/

/-- The nozzles of band `b` (R326), as channel, row and head column. -/
def State.bandNozzles (s : State) (b : Nat) : List (Nat × Nat × Nat) :=
  (allHc.filter (fun h => h % 2 == b / 16 && (s.rowsOf h).contains (b % 16 / 8))).flatMap (fun h =>
    (List.range 264).map (fun i => (h, b % 16 / 8, 8 * i + b % 8)))

/-- The nozzles of a band that the port sees, with their camera pixels (R328). -/
def State.seenNozzles (s : State) (n b : Nat) : List ((Nat × Nat × Nat) × Nat) :=
  (s.bandNozzles b).filterMap (fun z =>
    match s.columnPixel n (z.1 * s.pitch + z.2.2) with
    | some x => if 0 ≤ x ∧ x < s.linePx n then some (z, x.toNat) else none
    | none => none)

/-- The ladder record of one nozzle (R328, R333); `k` is its first free draw. -/
def State.ladderRecord (s : State) (n : Nat) (a : BandAcc) (z : Nat × Nat × Nat) (xc k : Nat) : List Byte :=
  let win := (List.range 5).filterMap (fun i => if xc + i < 2 ∨ s.linePx n ≤ xc + i - 2 then none else some (xc + i - 2))
  let clip := decide (win.length < 5)
  let at_ := fun (l : List Int) x => l.getD x 0
  let sum := (win.map (at_ a.sums)).sum
  let nom := s.fld R.CAM_LAD_NOM F.CAM_LAD_NOM_NOM
  let dens := fitU 16 (quot (1024 * sum) nom k) k
  let here := if nom = 0 then decide (4 * s.fld R.CAM_LAD_NOM F.CAM_LAD_NOM_PRESMIN ≤ dens)
    else decide (((s.fld R.CAM_LAD_NOM F.CAM_LAD_NOM_PRESMIN * nom : Nat) : Int) ≤ 256 * sum)
  let X := 65536 * ((z.1 * s.pitch + z.2.2 : Nat) : Int)
  let dx := (win.map (fun x => at_ a.sums x * (s.pixelColumn n x - X))).sum
  let dy := (win.map (at_ a.ysums)).sum
  let m := s.cam.marks.find? (fun m => m.l0 == a.ladder.l0 && m.band == a.band && m.hc == z.1 && m.row == z.2.1)
  let g := nozId z.1 (2112 * z.2.1 + z.2.2)
  let ret := match m with
    | some m => m.ret.contains z.2.2
    | none => s.nozRetired g
  let out := match m with
    | some m => m.out
    | none => true
  leBytes 1 2 ++
    leBytes 1 (n + 4 * here.toNat + 8 * ret.toNat + 16 * out.toNat + 32 * clip.toNat) ++ leBytes 2 0 ++ leBytes 4 g ++
    leBytes 4 a.ladder.l0 ++ leBytes 2 dens ++ leBytes 2 (fitS 16 (quot dx (1024 * sum) (k + 1)) (k + 1)) ++
    leBytes 2 (fitS 16 (quot dy sum (k + 2)) (k + 2)) ++ leBytes 2 a.lines

/-- The band under port `n` has passed: its records are written; the last band's end the ladder (R328, R337). -/
def State.closeBand (s : State) (n : Nat) (a : BandAcc) : State :=
  let s := s.setCamPort n { s.camPort n with band := none }
  let s := (s.seenNozzles n a.band).foldl (fun s z =>
    (s.writeRecord n (s.ladderRecord n a z.1 z.2 s.freeCtr)).drawnN 3) s
  if a.band = 31 then (s.orFld R.CAM_EVT F.CAM_EVT_LADDER (n / 2)).notify 5 0 n else s

/-- Sums of two lists of one length; an empty first list counts as zeros. -/
def addLists (a b : List Int) : List Int := if a.isEmpty then b else List.zipWith (· + ·) a b

/-- Stage 4 (R328): line `l` with its fraction in 1/64 joins its band, or renews the background. -/
def State.ladderStage (s : State) (n l frac : Nat) (e : MapEntry) (den : List Nat) : State :=
  let band := fun i => e.ladder.bind (fun x => (ladderBand x i).map (fun b => (x, b)))
  let here := band l
  let s := match (s.camPort n).band with
    | some a => if here = some (a.ladder, a.band) then s else s.closeBand n a
    | none => s
  let next := band (lineAdd l 1)
  match here with
  | some (x, b) =>
    if next ≠ some (x, b) then s
    else
      let s := if (s.camPort n).gap.isEmpty then
          (s.setCamPort n { s.camPort n with
            gap := (List.range den.length).map (fun i => Config.free (s.freeCtr + i)) }).drawnN den.length
        else s
      let p := s.camPort n
      let a := p.band.getD ⟨x, b, p.gap, [], [], 0⟩
      let y : Int := 64 * (lineDist l x.l0 - b * (x.bandH + x.gap)) + frac - 32 * x.bandH
      let d := List.zipWith (fun (v g : Nat) => (v : Int) - g) den a.bg
      s.setCamPort n { p with band := some { a with
        sums := addLists a.sums d, ysums := addLists a.ysums (d.map (· * y)), lines := a.lines + 1 } }
  | none => if next.isNone then s.setCamPort n { s.camPort n with gap := den } else s

/-! ## Page compare -/

/-- The stride of the reference ring (R329). -/
def State.refStride (s : State) : Nat := (min 50688 s.barColumns / 2 + 63) / 64 * 64

/-- The base of the reference ring and its lines (R329, R330). -/
def State.refBase (s : State) : Nat :=
  s.fld R.CAM_REF_HI F.CAM_REF_HI_BASE_HI * 2 ^ 32 + s.fld R.CAM_REF_LO F.CAM_REF_LO_BASE_LO * 64
def State.refLines (s : State) : Nat := s.fld R.CAM_REF_LINES F.CAM_REF_LINES_LINES

/-- Reference line `j` is usable (R330). -/
def State.refUsable (s : State) (j : Nat) : Bool :=
  match s.cam.refNewest with
  | some m => decide (modSub (2 ^ 31) m j < s.refLines)
  | none => false

/-- Pipeline `n / 2` reads reference line `j` from the ring (R118, R330): its bytes, none for those that cannot be read, and
none at all where the line is not usable. -/
def State.refLine (s : State) (n j : Nat) : List (Option Byte) × State :=
  if s.refUsable j then
    s.memRead (0x25 + n / 2) (s.refBase + s.refStride * (j % max 1 s.refLines)) (min s.refStride (s.barColumns / 2))
  else ([], s)

/-- The reference pixel for camera pixel `x` in a reference line; none where the pixel is not compared (R331). -/
def State.refPixel (s : State) (n : Nat) (ref : List (Option Byte)) (x : Nat) : Option Nat :=
  let X := Int.fdiv (s.pixelColumn n x) 65536
  if X < 0 ∨ (s.barColumns : Int) ≤ X then none else ((ref[X.toNat / 2]?).join).map (·.toNat)

/-- A row of compared pixels, diff and d_ref of each, joins a region (R331). -/
def addRegion (thr : Nat) (a : RegAcc) (px : List (Option (Int × Nat))) : RegAcc :=
  px.foldl (fun a p =>
    match p with
    | none => { a with total := a.total + 1 }
    | some (d, _) =>
      { npix := a.npix + 1, sumabs := a.sumabs + d.natAbs
        nover := a.nover + (if thr < d.natAbs then 1 else 0), top := max a.top d.natAbs
        sum := a.sum + d, total := a.total + 1 }) a

/-- A pixel joins its column (R332). -/
def addColumn (thr : Nat) (a : ColAcc) (p : Option (Int × Nat)) : ColAcc :=
  match p with
  | some (d, r) => if d.natAbs ≤ thr then ⟨a.diff + d, a.n + 1, a.ref + r⟩ else a
  | none => a

/-- The row of regions of a page under port `n` is complete: its records are written (R331, R333). -/
def State.closeRegions (s : State) (n : Nat) (a : PageAcc) : State × PageAcc :=
  let c := R.Pp_CMPTHR (n / 2)
  (a.regs.zipIdx).foldl (fun (s, a) (g, i) =>
    let bad := decide (s.fld c F.Pp_CMPTHR_CNTTHR < g.nover ∨ s.fld c F.Pp_CMPTHR_MEANTHR * g.npix < g.sumabs)
    let not := decide (g.total < 2 * (g.total - g.npix))
    let bytes := leBytes 1 3 ++ leBytes 1 (n + 4 * bad.toNat + 8 * not.toNat) ++ leBytes 1 a.page ++ leBytes 1 0 ++
      leBytes 4 a.firstLine ++ leBytes 2 i ++ leBytes 2 g.npix ++ leBytes 4 g.sumabs ++ leBytes 2 g.nover ++
      leBytes 2 g.top ++ leBytes 2 (fitS 16 (quot g.sum g.npix s.freeCtr) s.freeCtr)
    ((s.writeRecord n bytes).drawn, { a with defects := a.defects + bad.toNat, notcmp := a.notcmp + not.toNat }))
    (s, { a with regs := [], rows := 0 })

/-- The column record for pixels `x` to `x + 3` (R332, R333). -/
def columnRecord (n page x : Nat) (l : List ColAcc) (k : Nat) : List Byte :=
  leBytes 1 4 ++ leBytes 1 n ++ leBytes 2 x ++ leBytes 1 page ++ leBytes 3 0 ++
    (List.range 4).flatMap (fun i =>
      let c := l.getD (x + i) {}
      leBytes 4 (fitS 32 c.diff (k + 2 * i)) ++ leBytes 2 (fitU 16 c.n (k + 2 * i + 1)))

/-- A page counts toward a proposal for printed column `X` (R336). -/
def State.pageCounts (s : State) (c : PageCtx) (X : Nat) : Bool :=
  let (h, o) := s.coverOf X
  !c.defective && !c.unfit.testBit h && (match o with
    | some _ => !c.unfit.testBit (h - 1)
    | none => true) &&
    (!s.cam.proposed || lineLt (s.regN (R.WEAVER_TONE_E (s.ownerOf X))) c.lfirst)

/-- What a page that counts adds to the measure of a printed column (R335). -/
def addMeasure (m : ColMeasure) (lfirst : Nat) (c : ColAcc) : ColMeasure :=
  { pages := if m.last = some lfirst then m.pages else m.pages + 1
    last := some lfirst, n := m.n + c.n, meas := m.meas + c.diff + c.ref, ref := m.ref + c.ref }

/-- The page under port `n` has passed the camera: its last regions, the column records and the end-of-page record are
written (R332), and CC2 has the page for its proposals (R336). -/
def State.closePage (s : State) (n : Nat) (a : PageAcc) : State :=
  let s := s.setCamPort n { s.camPort n with page := none }
  let (s, a) := s.closeRegions n a
  let s := (List.range ((a.cols.length + 3) / 4)).foldl (fun s i =>
    (s.writeRecord n (columnRecord n a.page (4 * i) a.cols s.freeCtr)).drawnN 8) s
  let s := s.writeRecord n (leBytes 1 5 ++ leBytes 1 n ++ leBytes 1 a.page ++ leBytes 1 0 ++ leBytes 4 a.lfirst ++
    leBytes 4 a.llast ++ leBytes 2 a.defects ++ leBytes 2 a.notcmp)
  let s := (s.orFld R.CAM_EVT F.CAM_EVT_PAGE (n / 2)).notify 5 1 a.page
  let c := s.page a.page
  let m := (List.range s.barColumns).foldl (fun m X =>
    match s.columnPixel n X with
    | some x =>
      if 0 ≤ x ∧ x < a.cols.length ∧ c.lfirst = a.lfirst ∧ s.pageCounts c X then
        sset (fun _ => {}) m X (addMeasure (sget (fun _ => {}) m X) a.lfirst (a.cols.getD x.toNat {}))
      else m
    | none => m) s.cam.measures
  { s with cam := { s.cam with measures := m } }

/-- Stage 5 (R331, R332): line `l` joins its page. -/
def State.compareStage (s : State) (n l : Nat) (e : MapEntry) (den : List Nat) : State :=
  let here := match e.page with
    | some (c, f, t) => if lineLe f l && lineLe l t then some (c, f, t) else none
    | none => none
  let s := match (s.camPort n).page with
    | some a => if here = some (a.page, a.lfirst, a.llast) then s else s.closePage n a
    | none => s
  match here with
  | none => s
  | some (c, f, t) =>
    if s.refLines = 0 then s
    else
      let g := R.Pp_REGION (n / 2)
      let w := max 1 (s.fld g F.Pp_REGION_REGW)
      let thr := s.fld (R.Pp_CMPTHR (n / 2)) F.Pp_CMPTHR_PIXTHR
      let a := (s.camPort n).page.getD { page := c, lfirst := f, llast := t }
      let a := if a.rows = 0 then { a with
          firstLine := l, regs := List.replicate ((den.length + w - 1) / w) {} } else a
      let (line, s) := s.refLine n (l / 2)
      let px := den.zipIdx.map (fun (d, x) =>
        (s.refPixel n line x).map (fun v => ((d : Int) - s.camTab 3 (n / 2) v, s.camTab 3 (n / 2) v)))
      let a := { a with
        rows := a.rows + 1
        regs := a.regs.zipIdx.map (fun (r, i) => addRegion thr r ((px.drop (w * i)).take w))
        cols := px.zipIdx.map (fun (p, x) => addColumn thr (a.cols.getD x {}) p) }
      let (s, a) := if s.fld g F.Pp_REGION_REGH ≤ a.rows then s.closeRegions n a else (s, a)
      s.setCamPort n { s.camPort n with page := some a }

/-! ## A line in a pipeline -/

/-- Where a line lies on the grid (R323, R324): the map entry, the printed line and the fraction of its pitch in 1/64. -/
def State.placeLine (s : State) (p : Nat) (w : Int) : Option (MapEntry × Nat × Nat) :=
  let x := s.pipe p
  let beyond := match x.lost with
    | some (a, _) => decide (a < w)
    | none => false
  if beyond then none
  else
    match mapAt w x.map with
    | some e =>
      let d := (w - e.pos).toNat
      let pitch := max 1 e.pitch
      some (e, lineAdd e.line (d / pitch), d % pitch * 64 / pitch)
    | none => none

/-- Pipeline `n / 2` applies its stages to a line of port `n` (R322). -/
def State.pipelineLine (s : State) (n : Nat) (px : List Nat) (pos : Int) (f : FrameInfo) : State :=
  let p := n / 2
  let w := s.camPos n pos
  let place := w.bind (s.placeLine p)
  let lost := decide (w.isSome ∧ place.isNone ∧ (s.pipe p).lost.isSome)
  let s := match place with
    | some (_, l, _) => s.settlePend (R.Pp_CTRL p) (R.Pp_CTRL p + 0x80) l
    | none => s
  let cor := px.zipIdx.map (fun (v, x) => s.flatField n f.gain x v)
  let den := cor.map (s.density n)
  let x := s.camPort n
  let s := s.setCamPort n { x with
    acc := some (addStats (x.acc.getD {}) px cor den (place.map (·.2.1)) lost)
    lastW := if w.isSome then w else x.lastW }
  let s := match place with
    | some (e, l, frac) =>
      let s := if s.bit (R.Pp_CTRL p) F.Pp_CTRL_LAD then s.ladderStage n l frac e den else s
      if s.bit (R.Pp_CTRL p) F.Pp_CTRL_CMP then s.compareStage n l e den else s
    | none => s
  s.trimMap p

/-- The port whose line pipeline `p` takes next (R321). -/
def State.nextPort (s : State) (p : Nat) : Option Nat :=
  let waits := fun n => !(s.camPort n).work.isEmpty
  let c := R.Pp_CTRL p
  let first := if s.bit c F.Pp_CTRL_ARB then s.fld c F.Pp_CTRL_PRIO else 1 - s.fld (R.Pp_STAT p) F.Pp_STAT_LASTPORT
  if waits (2 * p + first) then some (2 * p + first)
  else if waits (2 * p + (1 - first)) then some (2 * p + (1 - first)) else none

/-- Pipeline `p` is free to take a line (R26, R321). -/
def State.pipeFree (s : State) (p : Nat) : Bool := s.blocksRun && decide ((s.pipe p).busyUntil ≤ s.now)

/-- PIPELINE_LINE (R321, R322): the pipeline takes a complete line by arbitration; the line leaves the FIFO for it and is in
the pipeline for a core clock cycle for every two pixels. -/
def execPipelineLine (p : Fin 2) (s : State) : Host.Outcome State Fault Refusal :=
  .next <|
    match (if s.pipeFree p then s.nextPort p else none) with
    | none => s
    | some n =>
      match (s.camPort n).work with
      | .line px pos f :: t =>
        let s := (s.setCamPort n { s.camPort n with work := t }).setFld (R.Pp_STAT p) F.Pp_STAT_LASTPORT (n % 2)
        let s := s.setPipe p { s.pipe p with busyUntil := s.now + s.coreTicks ((px.length + 1) / 2) }
        ((s.pipelineLine n px pos f).endFrames n).showPort n
      | _ => s

end Sys2Proof.Machine
end

