-- ==== Sys2Proof/Machine/HeadPins.lean ====
section
/-! DEFINITION. The pins of the heads: the bits of frames on the data pairs (R211, R212), the shift clock, latch and strobe
levels (R211, R213 to R215, R228), and the waveform output with its trims (R214, R228, R343, R346). -/

namespace Sys2Proof.Machine

/-! ## Frames as bits -/

/-- The low `n` bits of a number, the most significant first. -/
def msbFirst (n v : Nat) : List Bool := (List.range n).map (fun i => v.testBit (n - 1 - i))

/-- The header of a frame (R212): TYPE, ROW, BANK and CHECK, MSB first. -/
def Frame.header (f : Frame) : List Bool :=
  [f.table, !f.table && f.row == 1, f.bank == 1] ++ msbFirst 5 0b10110

/-- Select entry `e` of bank `b` of channel `h` (R216). -/
def State.selEntry (s : State) (h b e : Nat) : Nat :=
  s.fld (R.HC_SELb_j h b (e / 2)) (if e % 2 = 0 then F.HC_SELb_j_ENTRY_LO else F.HC_SELb_j_ENTRY_HI)

/-- Data pairs of channel `h`. -/
def State.pairs (s : State) (h : Nat) : Nat := s.fld (R.HC_PROF0 h) F.HC_PROF0_PAIRS

/-- The share of the payload that pair `p` carries in a code frame (R211): the codes of head columns c ≡ p (mod PAIRS) in
ascending order, MSB first, and code 0 beyond column NOZ − 1. -/
def State.codeBitsOf (s : State) (h p : Nat) (f : Frame) : List Bool :=
  let n := max 1 (s.pairs h)
  (List.range ((s.noz h + n - 1) / n)).flatMap (fun i =>
    let c := p + n * i
    msbFirst (s.codeBits h) (if c < s.noz h then f.codes.getD c 0 else 0))

/-- The share of pair `p` in a table frame (R211): the sixteen select entries on pair 0, segment 15 first, zeros elsewhere. -/
def State.tableBitsOf (s : State) (h p : Nat) (f : Frame) : List Bool :=
  (List.range 16).flatMap (fun e => msbFirst 16 (if p = 0 then s.selEntry h f.bank e else 0))

/-- The bits that pair `p` carries in a frame (R211). -/
def State.frameBits (s : State) (h p : Nat) (f : Frame) : List Bool :=
  f.header ++ (if f.table then s.tableBitsOf h p f else s.codeBitsOf h p f)

/-! ## Digital outputs -/

/-- The bit of the frame that is on the shift lines now, one on each edge of the shift clock (R211); none between frames and
on a channel that does not drive (R228). -/
def State.shiftIndex (s : State) (h : Nat) : Option Nat :=
  let x := s.hc h
  match x.shifting with
  | some f =>
    let i := (s.now - x.shiftStart) / 2 ^ s.fld (R.HC_PROF0 h) F.HC_PROF0_SHIFTF
    if s.hcFires h && decide (x.shiftStart ≤ s.now ∧ i < (s.frameBits h 0 f).length) then some i else none
  | none => none

/-- The level of HDnn_Dk (R211, R228). -/
def State.pinD (s : State) (h p : Nat) : Bool :=
  match s.shiftIndex h, (s.hc h).shifting with
  | some i, some f => decide (p < s.pairs h) && (s.frameBits h p f).getD i false
  | _, _ => false

/-- The level of HDnn_CK (R211, R228): the first bit goes out on a rising edge. -/
def State.pinCk (s : State) (h : Nat) : Bool :=
  match s.shiftIndex h with
  | some i => i % 2 == 0
  | none => false

/-- The level of HDnn_LAT (R213, R215, R228). -/
def State.pinLat (s : State) (h : Nat) : Bool :=
  s.hcFires h && decide (s.now < (s.hc h).latchEnd ∧ (s.hc h).latchEnd ≤ s.now + s.latw h)

/-- The bank of the comb run of row `r`. -/
def State.runBank (s : State) (h r : Nat) : Nat :=
  s.fld (R.HC_STAT h) (if r = 0 then F.HC_STAT_BANKU else F.HC_STAT_BANKD)

/-- The starts of segments after the fire time, in samples (R215). -/
def segStarts : Nat → List Nat → List Nat
  | _, [] => []
  | n, d :: t => n :: segStarts (n + d) t

/-- The level of HDnn_FU (row 0) or HDnn_FD (row 1): a pulse of STRW at the start of each segment of a comb run (R214, R215). -/
def State.pinStrobe (s : State) (h r : Nat) : Bool :=
  match (s.row h r).lastFire with
  | some t =>
    s.hcState h != 0 && s.combRuns h r && (segStarts 0 (s.segments h (s.runBank h r))).any (fun n =>
      decide (t + 8 * n ≤ s.now ∧ s.now < t + 8 * n + s.fld (R.HC_PROF1 h) F.HC_PROF1_STRW))
  | none => false

/-! ## The waveform output -/

/-- The sample of the comb run of row `r` that is out now: sample i from the fire time + 10 ns·i on (R214). -/
def State.combSample (s : State) (h r : Nat) : Nat :=
  let i := (s.now - (s.row h r).lastFire.getD 0) / 8
  s.fld (R.HC_WAVb_j h (s.runBank h r) (i / 2)) (if i % 2 = 0 then F.HC_WAVb_j_SAMPLE_LO else F.HC_WAVb_j_SAMPLE_HI)

/-- The DAC code on HDnn_WAV (R214, R228, R343): 0 while the channel is Disabled, a comb sample in a run, the calibration point
in a slot until its conversion, else REST. -/
def State.wavCode (s : State) (h : Nat) : Nat :=
  let rest := s.fld (R.HC_CODES h) F.HC_CODES_REST
  if s.hcState h = 0 then 0
  else if s.combRuns h 0 then s.combSample h 0
  else if s.combRuns h 1 then s.combSample h 1
  else
    match s.cal.slot with
    | some x =>
      if x.hc = h ∧ x.value.isNone then
        s.fld (R.CAL_HCh_PTS h) (if x.high then F.CAL_HCh_PTS_CODEHI else F.CAL_HCh_PTS_CODELO)
      else rest
    | none => rest

/-- The output of a DAC code under the trims in force, in 2^-16 of a DAC LSB (R346): scaled by 1 + (GAIN − 512)/16,384 and
shifted by (OFS − 512)/4 LSB. -/
def trimmed (code gain ofs : Nat) : Int := 4 * (code : Int) * (15872 + gain) + 16384 * ((ofs : Int) - 512)

/-- The level of HDnn_WAV in 2^-16 of a DAC LSB: every code passes the trims (R346). -/
def State.wavOut (s : State) (h : Nat) : Int :=
  trimmed (s.wavCode h) (s.fld (R.CAL_HCh_NOW h) F.CAL_HCh_NOW_GAIN) (s.fld (R.CAL_HCh_NOW h) F.CAL_HCh_NOW_OFS)

end Sys2Proof.Machine
end

