-- ==== Sys2Proof/Machine/Loop.lean ====
section
/-! DEFINITION. The tracking loop of Bellringer (R261 to R267): the web position in dots, the phase φ with φmax, the states
of the loop and its update. Positions and speeds here carry 16 fractional bits below 1/64 dot. -/

namespace Sys2Proof.Machine

/-! ## Position, phase and speed -/

/-- The numerator of a web position over BR_DEN (R261): W of `pos`, with `extra` 1/64 counts added. -/
def State.wNum (s : State) (pos extra : Int) : Int :=
  (64 * (pos - sext 64 (s.wide R.BR_ORG_LO)) + extra) * 65536 * s.regN R.BR_NUM

/-- W of an ENC0 position (R261), rounded to 16 fractional bits. -/
def State.wOf (s : State) (pos : Int) : Int := quot (s.wNum pos 0) (s.regN R.BR_DEN) s.freeCtr

/-- φmax now (R265). -/
def State.phimaxNow (s : State) : Int := max s.br.phimax s.phiNow

/-- ENC0 SPEED, and its status bits (R248 to R250). -/
def State.enc0Speed (s : State) : Int := sext 32 (s.regN (R.ENCn_SPEED 0))
def State.enc0Valid (s : State) : Bool := s.bit (R.ENCn_STAT 0) F.ENCn_STAT_VALID
def State.enc0Back (s : State) : Bool := s.bit (R.ENCn_STAT 0) F.ENCn_STAT_DIR

/-- The loop speed in lines/s as a fraction (R263, R280): of the loop while it tracks; in Direct ENC0's speed when VALID;
else 0. -/
def State.lineRate (s : State) : Int × Nat :=
  if 2 ≤ s.loopState then (s.br.v, 64 * 65536)
  else if s.loopState = 1 ∧ s.enc0Valid then (s.enc0Speed * s.regN R.BR_NUM, 64 * s.regN R.BR_DEN)
  else (0, 1)

/-- BR_RATE shows the loop speed in 1/16 line/s (R284). -/
def State.showRate (s : State) : State :=
  let (n, d) := s.lineRate
  s.setReg R.BR_RATE (BitVec.ofInt 32 (clampInt (-(2 ^ 31)) (2 ^ 31 - 1) (quot (16 * n) d s.freeCtr)))

/-- φ stands at a value from now on, and φmax with it (R265). -/
def State.setPhi (s : State) (p : Int) : State :=
  { s with br := { s.br with phimax := max s.phimaxNow p, phi := p, phi0 := p, updAt := s.now } }

/-- φ = W (R263). -/
def State.phiToW (s : State) : State := (s.setPhi (s.wOf s.enc0Pos)).drawn

/-- BR_STAT.STATE set. -/
def State.setLoopState (s : State) (v : Nat) : State := s.setFld R.BR_STAT F.BR_STAT_STATE v

/-! ## Transitions -/

/-- The page between its first and its last datum fire is DEFECTIVE with cause UNLOCK (R266, R277). -/
def State.flagUnlock (s : State) : State :=
  match s.pages.find? (fun e => e.2.state == 3 && decide (e.2.judged < e.2.length)) with
  | some e => s.flagPage e.1 1
  | none => s

/-- An entry of Bellringer (R302): the datum head channel and a bit number of BR_EVT. -/
def State.brLog (s : State) (kind bit : Nat) : State :=
  s.logFault { level := 1, kind := kind, unit := s.datumRow.1, src := 9, cause := bit }

/-- |speed| of ENC0 in lines/s is at least `k`/8 of BR_VMIN (R263). -/
def State.fastFor (s : State) (k : Nat) : Bool :=
  decide (k * s.fld R.BR_VMIN F.BR_VMIN_VMIN * (64 * s.regN R.BR_DEN) ≤ 8 * (s.enc0Speed.natAbs * s.regN R.BR_NUM))

/-- The speed of the loop from ENC0: SPEED·NUM/DEN (R263, R266). -/
def State.speedV (s : State) : Int :=
  quot (s.enc0Speed * s.regN R.BR_NUM * 65536) (s.regN R.BR_DEN) s.freeCtr

/-- The loop leaves Locked where it stands in it (R266, R277): its entry, and the flag of the page. -/
def State.leaveLock (s : State) : State := if s.loopState = 3 then (s.brLog 0 2).flagUnlock else s

/-- The transitions that ENC0 causes (R263): FAULT puts the loop Off; Direct and the tracking states exchange by speed. -/
def State.judgeLoop (s : State) : State :=
  let st := s.loopState
  let s' :=
    if st = 0 then s
    else if s.bit (R.ENCn_STAT 0) F.ENCn_STAT_FAULT then (s.leaveLock.setPhi s.phiNow).setLoopState 0
    else if st = 1 then
      if s.enc0Valid && s.fastFor 9 then
        let s := s.setLoopState 2
        let s := { s with br := { s.br with v := s.speedV, lockRun := 0 } }
        s.drawn.phiToW
      else s
    else if !s.enc0Valid || s.bit (R.ENCn_STAT 0) F.ENCn_STAT_STILL || !s.fastFor 8 then
      (s.leaveLock.setLoopState 1).phiToW
    else s
  s'.showRate.drawn

/-- ENC0's POS has changed: in Direct φ follows it (R263, R267). -/
def State.loopMoved (s : State) : State := if s.loopState = 1 then s.phiToW else s

/-! ## The update -/

/-- π to 20 decimal places, over 10^20. -/
def piNum : Int := 314159265358979323846

/-- Snap (R266). -/
def State.snapLoop (s : State) (wc : Int) : State :=
  let s := { s with br := { s.br with v := s.speedV, lockRun := 0 } }
  let s := (s.drawn.setLoopState 2).setBit R.BR_EVT F.BR_EVT_SNAP true
  let s := (s.count R.BR_CNT_SNAP F.BR_CNT_SNAP_COUNT 1).brLog 0 3
  s.flagUnlock.setPhi wc

/-- φ and v after an update with loop error `e` over `den` (R264), at a bandwidth in Hz. -/
def State.stepLoop (s : State) (e : Int) (den bw : Nat) : State :=
  let k := s.freeCtr
  let two := 2 * piNum * bw
  let damp : Int := s.fld R.BR_LOOP F.BR_LOOP_DAMP
  let v := s.br.v + quot (two * two * e) (10 ^ 46 * den) k
  let d := quot (v * 128 * 10 ^ 20 * den + damp * two * e) (128 * 10 ^ 26 * den) (k + 1)
  let p := s.phiNow + d
  let lim := fun (x : Int) (i : Nat) => quot (s.wNum s.enc0Pos (64 * x)) den (k + i)
  let p := if s.enc0Back then max p (lim (-1) 2) else min p (lim 1 2)
  { s with
    br := { s.br with phimax := s.phimaxNow, phi0 := s.phiNow, phi := p, v := v, updAt := s.now }
    freeCtr := k + 3 }

/-- Lock and unlock (R263, R266). -/
def State.judgeLock (s : State) (e : Int) (den : Nat) : State :=
  let within := fun f => decide (e.natAbs ≤ s.fld R.BR_LOCK f * 65536 * den)
  if s.loopState = 2 then
    let n := if within F.BR_LOCK_LOCKTOL then s.br.lockRun + 1 else 0
    let s := { s with br := { s.br with lockRun := n } }
    if max 1 (s.fld R.BR_LOCK F.BR_LOCK_LOCKN) ≤ n then (s.setLoopState 3).setBit R.BR_EVT F.BR_EVT_LOCKED true else s
  else if !within F.BR_LOCK_UNLOCKTOL then
    let s := { s with br := { s.br with lockRun := 0 } }
    let s := (s.setLoopState 2).setBit R.BR_EVT F.BR_EVT_UNLOCK true
    ((s.count R.BR_CNT_UNLOCK F.BR_CNT_UNLOCK_COUNT 1).brLog 0 2).flagUnlock
  else s

/-- LOOP_UPDATE (R264): once per microsecond in Acquire and Locked. -/
def execLoopUpdate (s : State) : Host.Outcome State Fault Refusal :=
  .next <|
    let s := s.judgeLoop
    if s.loopState < 2 ∨ s.now < s.br.updAt + 800 then s
    else
      let den := s.regN R.BR_DEN
      let wc := s.wNum s.enc0Pos (if s.enc0Back then -32 else 32)
      let e := wc - s.phiNow * den
      let s := s.setReg R.BR_ERR (BitVec.ofInt 32 (clampInt (-(2 ^ 31)) (2 ^ 31 - 1)
        (quot e (65536 * den) s.freeCtr)))
      let s := s.drawn
      let s :=
        if 64 * s.fld R.BR_LOCK F.BR_LOCK_SNAPTOL * 65536 * den < e.natAbs then
          s.drawn.snapLoop (quot wc den s.freeCtr)
        else
          let bw := if s.loopState = 3 then s.fld R.BR_LOOP F.BR_LOOP_BW else s.fld R.BR_LOOP F.BR_LOOP_ACQBW
          (s.stepLoop e den bw).judgeLock e den
      s.showRate.drawn

end Sys2Proof.Machine
end

