-- ==== Sys2Proof/Machine/Position.lean ====
section
/-! DEFINITION. Web position (R238 to R260): encoder paths, SSI ports, mark inputs, switches and compare outputs. -/

namespace Sys2Proof.Machine

/-! ## Units -/

/-- Encoder path `n`. -/
def State.encSt (s : State) (n : Nat) : EncSt := sget (fun _ => {}) s.pos.encs n

/-- The state with encoder path `n` set. -/
def State.setEncSt (s : State) (n : Nat) (x : EncSt) : State :=
  { s with pos := { s.pos with encs := sset (fun _ => {}) s.pos.encs n x } }

/-- SSI port `m`, mark input `i` and compare output `j`, and each of them set. -/
def State.ssi (s : State) (m : Nat) : SsiSt := sget (fun _ => {}) s.pos.ssis m
def State.setSsi (s : State) (m : Nat) (x : SsiSt) : State :=
  { s with pos := { s.pos with ssis := sset (fun _ => {}) s.pos.ssis m x } }
def State.mark (s : State) (i : Nat) : MarkSt := sget (fun _ => {}) s.pos.marks i
def State.setMark (s : State) (i : Nat) (x : MarkSt) : State :=
  { s with pos := { s.pos with marks := sset (fun _ => {}) s.pos.marks i x } }
def State.cmp (s : State) (j : Nat) : CmpSt := sget (fun _ => {}) s.pos.cmps j
def State.setCmp (s : State) (j : Nat) (x : CmpSt) : State :=
  { s with pos := { s.pos with cmps := sset (fun _ => {}) s.pos.cmps j x } }

/-- POS of path `n`; the position of source 4 + m is that of SSI port m. -/
def State.srcPos (s : State) (n : Nat) : Int :=
  if n < 4 then sext 64 (s.wide (R.ENCn_POS_LO n)) else sext 64 (s.wide (R.SSIm_POS_LO (n - 4)))

/-- Path `n` is enabled. -/
def State.encOn (s : State) (n : Nat) : Bool := s.bit (R.ENCn_CTRL n) F.ENCn_CTRL_EN

/-- An entry of the position block (R302). -/
def State.posLog (s : State) (kind unit cause detail : Nat) : State :=
  s.logFault { level := 3, kind := kind, unit := unit, src := 8, cause := cause, detail := detail }

/-! ## Compare outputs -/

/-- The table entry at PTR of output `j`. -/
def State.cmpPtr (s : State) (j : Nat) : Nat := s.fld (R.CMPj_STAT j) F.CMPj_STAT_PTR
def State.cmpEntry (s : State) (j : Nat) : Nat := sget (fun _ => 0) s.pos.table (1024 * j + s.cmpPtr j)

/-- The target of an entry of output `j` (R256). -/
def State.cmpTarget (s : State) (j e : Nat) : Int := sext 48 e + sext 64 (s.wide (R.CMPj_OFF_LO j))

/-- The level of output `j` before POL. -/
def State.setLevel (s : State) (j : Nat) (v : Bool) : State := s.setBit (R.CMPj_STAT j) F.CMPj_STAT_LEVEL v

/-- The action of an entry of output `j` is driven now, and triggers the cameras that select it (R256, R312). -/
def State.driveCmp (s : State) (j e : Nat) : State :=
  let act := e / 2 ^ 48 % 4
  let wide := 8 * s.fld (R.CMPj_CTRL j) F.CMPj_CTRL_WIDTH
  let ends := if act = 0 then s.now + wide else s.now
  let s := s.setCmp j { s.cmp j with pulse := if act = 0 then some ends else none, free := ends + 8 }
  let s := s.setLevel j (if act = 3 then !s.bit (R.CMPj_STAT j) F.CMPj_STAT_LEVEL else act != 2)
  (if e / 2 ^ 52 % 2 = 1 then s.orFld R.POS_EVT1 F.POS_EVT1_CMP j else s).cmpTriggers j

/-- Output `j` passes its entry (R257): PTR advances, or with WRAP returns to 0 with CMPj_PER added to CMPj_OFF. -/
def State.passCmp (s : State) (j e : Nat) : State :=
  if e / 2 ^ 50 % 2 = 1 then
    (s.setFld (R.CMPj_STAT j) F.CMPj_STAT_PTR 0).setWide (R.CMPj_OFF_LO j)
      (s.wide (R.CMPj_OFF_LO j) + s.wide (R.CMPj_PER_LO j))
  else s.setFld (R.CMPj_STAT j) F.CMPj_STAT_PTR (s.cmpPtr j + 1)

/-- Output `j` stops once the action of an entry with STOP has ended (R257). -/
def State.stopCmp (s : State) (j : Nat) : State :=
  let x := s.cmp j
  if x.stopping && x.pulse.isNone then
    ((s.setCmp j { x with stopping := false, reach := none }).setFld (R.CMPj_STAT j) F.CMPj_STAT_STATE 2).orFld R.POS_EVT1
      F.POS_EVT1_CMPSTOP j
  else s

/-- The entry at PTR of output `j` fires (R257): its action, then PTR, and a stop after it where STOP is 1. -/
def State.fireCmp (s : State) (j : Nat) : State :=
  let e := s.cmpEntry j
  let s := (s.driveCmp j e).passCmp j e
  (s.setCmp j { s.cmp j with stopping := e / 2 ^ 51 % 2 == 1 }).stopCmp j

/-- The entry at PTR of output `j` is reached at position `p`, and the output runs. -/
def State.cmpReached (s : State) (j : Nat) (p : Int) : Bool :=
  s.fld (R.CMPj_STAT j) F.CMPj_STAT_STATE == 1 && !(s.cmp j).stopping && decide (s.cmpTarget j (s.cmpEntry j) ≤ p)

/-- Where the entry at PTR of output `j` is reached at `p` too, it waits for the end of the action before it (R257). -/
def State.holdCmp (s : State) (j : Nat) (p : Int) : State :=
  s.setCmp j { s.cmp j with reach := if s.cmpReached j p then some p else none }

/-- Output `j` at position `p` of its source, which moved forward to it (R257): the entry at PTR fires; further entries that
are reached at once, and those reached while such entries wait, fire after it in table order. -/
def State.reachCmp (s : State) (j : Nat) (p : Int) : State :=
  match (s.cmp j).reach with
  | some q => s.setCmp j { s.cmp j with reach := some (max p q) }
  | none => if s.cmpReached j p then (s.fireCmp j).holdCmp j p else s

/-- The position of source `n` has moved from `old`: forward motion fires compare entries (R257, R258). -/
def State.comparePos (s : State) (n : Nat) (old : Int) : State :=
  let p := s.srcPos n
  if p ≤ old then s
  else
    (List.range 8).foldl (fun s j =>
      if s.fld (R.CMPj_CTRL j) F.CMPj_CTRL_SRC = n then s.reachCmp j p else s) s

/-- The compare evaluation of the present sample of path `n`, after its count and its index (R239). -/
def State.compareNow (s : State) (n : Nat) : State :=
  match (s.encSt n).cmpFrom with
  | some old => (s.setEncSt n { s.encSt n with cmpFrom := none }).comparePos n old
  | none => s

/-- COMPARE_PULSE_END (R256, R257): a pulse that has lasted its width falls; 10 ns after the end of an action the next entry
that waits fires, and counts as late. -/
def execComparePulseEnd (j : Fin 8) (s : State) : Host.Outcome State Fault Refusal :=
  .next <|
    let s := match (s.cmp j).pulse with
      | some t => if t ≤ s.now then ((s.setCmp j { s.cmp j with pulse := none }).setLevel j false).stopCmp j else s
      | none => s
    let x := s.cmp j
    match x.reach with
    | some p =>
      if x.pulse.isSome ∨ s.now < x.free then s
      else if s.cmpReached j p then
        ((s.count (R.CMPj_LATE j) F.CMPj_LATE_COUNT 1).fireCmp j).holdCmp j p
      else s.setCmp j { x with reach := none }
    | none => s

/-- A write of CMPj_CTRL (R259, R260): EN starts the output, or leaves its pin low; RESTART sets PTR to 0. -/
def State.cmpCtrlWrite (s : State) (j : Nat) (v : Word) : State :=
  let was := s.bit (R.CMPj_CTRL j) F.CMPj_CTRL_EN
  let s := s.writeByCodes (R.CMPj_CTRL j) v
  let now := s.bit (R.CMPj_CTRL j) F.CMPj_CTRL_EN
  let s := if getField F.CMPj_CTRL_RESTART v = 1 then
      (s.setFld (R.CMPj_STAT j) F.CMPj_STAT_PTR 0).setCmp j { s.cmp j with reach := none } else s
  if now && !was then s.setFld (R.CMPj_STAT j) F.CMPj_STAT_STATE 1
  else if was && !now then
    ((s.setCmp j {}).setLevel j false).setFld (R.CMPj_STAT j) F.CMPj_STAT_STATE 0
  else s

/-- COMPARE_RESTART (R259). -/
def execCompareRestart (r : Requester) (j : Fin 8) (v : Word) (s : State) : Host.Outcome State Fault Refusal :=
  .next (if getField F.CMPj_CTRL_RESTART v = 1 then (s.cmpCtrlWrite j v).written r else s)

/-- TABLE_ENTRY_STORE (R259): the entry is stored whole, its reserved bits 0, and ENTRY advances. -/
def execTableEntryStore (r : Requester) (v : Word) (s : State) : Host.Outcome State Fault Refusal :=
  .next <|
    let a := R.POS_TAB_ADDR
    let i := s.fld a F.POS_TAB_ADDR_ENTRY
    let e := (s.regN R.POS_TAB_DATA_LO + 2 ^ 32 * v.toNat) % 2 ^ 53
    let s := { s with pos := { s.pos with
      table := sset (fun _ => 0) s.pos.table (1024 * s.fld a F.POS_TAB_ADDR_CMP + i) e } }
    (s.setFld a F.POS_TAB_ADDR_ENTRY (i + 1)).written r

/-- The stored entry at POS_TAB_ADDR, which reads of POS_TAB_DATA return (R260). -/
def State.tableEntry (s : State) : Nat :=
  sget (fun _ => 0) s.pos.table
    (1024 * s.fld R.POS_TAB_ADDR F.POS_TAB_ADDR_CMP + s.fld R.POS_TAB_ADDR F.POS_TAB_ADDR_ENTRY)

/-! ## Motion of a path -/

/-- POS of path `n` steps by `d` (R243, R244): MAX follows forward, Bellringer sees ENC0, and the compare evaluation of the
sample is to come (R239). -/
def State.stepPos (s : State) (n : Nat) (d : Int) : State :=
  let old := s.srcPos n
  let x := s.encSt n
  let s := s.setEncSt n { x with
    moves := (s.now, d) :: x.moves.filter (fun m => decide (s.now ≤ m.1 + 2040)), cmpFrom := some (x.cmpFrom.getD old) }
  let s := s.setWide (R.ENCn_POS_LO n) (wrap 64 (old + d))
  let s := if sext 64 (s.wide (R.ENCn_MAX_LO n)) < old + d then s.setWide (R.ENCn_MAX_LO n) (wrap 64 (old + d)) else s
  if n = 0 then s.loopMoved else s

/-- REVCNT, IDXPOS and TOL of path `n`, and its per-revolution counter. -/
def State.revcnt (s : State) (n : Nat) : Nat := s.fld (R.ENCn_REVCNT n) F.ENCn_REVCNT_REVCNT
def State.idxpos (s : State) (n : Nat) : Nat := s.fld (R.ENCn_IDXPOS n) F.ENCn_IDXPOS_IDXPOS
def State.idxTol (s : State) (n : Nat) : Nat := s.fld (R.ENCn_IDXCFG n) F.ENCn_IDXCFG_TOL
def State.revAt (s : State) (n : Nat) : Nat := s.fld (R.ENCn_REV n) F.ENCn_REV_REV

/-- The error of an index at `rev` (R245): REV − IDXPOS, reduced into half a revolution to either side. -/
def indexError (revcnt rev idxpos : Nat) : Int :=
  let d := modSub revcnt rev (idxpos % max 1 revcnt)
  if d < (revcnt + 1) / 2 then d else (d : Int) - revcnt

/-- Path `n` judges indices: REV counts, and MISSMAX has not been reached (R247, R260). -/
def State.judges (s : State) (n : Nat) : Bool :=
  decide (2 ≤ s.revcnt n) && !s.bit (R.ENCn_STAT n) F.ENCn_STAT_IDXLOST

/-- A miss of path `n` (R245, R247). -/
def State.indexMiss (s : State) (n : Nat) : State :=
  let s := s.orFld R.POS_EVT0 F.POS_EVT0_IDXMISS n
  let m := s.fld (R.ENCn_STAT n) F.ENCn_STAT_MISS + 1
  let s := s.setFld (R.ENCn_STAT n) F.ENCn_STAT_MISS (min m 15)
  if s.fld (R.ENCn_IDXCFG n) F.ENCn_IDXCFG_MISSMAX ≤ m then
    ((s.setBit (R.ENCn_STAT n) F.ENCn_STAT_IDXLOST true).orFld R.POS_EVT0 F.POS_EVT0_IDXFAULT n).posLog 5 n (8 + n)
      (s.fld (R.ENCn_IDXERR n) F.ENCn_IDXERR_E % 65536)
  else s

/-- REV of path `n` steps by `d` (R243); leaving the window without an index since it entered is a miss (R245). -/
def State.stepRev (s : State) (n : Nat) (d : Int) : State :=
  let rc := s.revcnt n
  if rc < 2 then s
  else
    let old := s.revAt n
    let new := ((old + d) % rc).toNat
    let within := fun v => decide ((indexError rc v (s.idxpos n)).natAbs ≤ s.idxTol n)
    let s := s.setFld (R.ENCn_REV n) F.ENCn_REV_REV new
    let x := s.encSt n
    let missed := within old && !within new && !x.seen && s.bit (R.ENCn_STAT n) F.ENCn_STAT_REF && s.judges n
    let s := s.setEncSt n { x with seen := x.seen && within old && within new }
    if missed then s.indexMiss n else s

/-- CORR of path `n` (R246). -/
def State.corr (s : State) (n : Nat) : Int := sext 16 (s.fld (R.ENCn_STAT n) F.ENCn_STAT_CORR)
def State.setCorr (s : State) (n : Nat) (c : Int) : State := s.setFld (R.ENCn_STAT n) F.ENCn_STAT_CORR (wrap 16 c)

/-- The correction `c` of an accepted index (R246): on ENC0 in single counts at line boundaries while the grid runs,
otherwise at once; it replaces what was outstanding. -/
def State.correct (s : State) (n : Nat) (c : Int) : State :=
  if n = 0 ∧ s.running then
    (s.setCorr 0 c).setEncSt 0 { s.encSt 0 with corrLines := none, corrDue := false }
  else
    let s := s.setCorr n 0
    if c = 0 then s else s.stepPos n c

/-- An index of path `n` is judged (R245). -/
def State.judgeIndex (s : State) (n : Nat) : State :=
  if !s.judges n then s
  else
    let e := indexError (s.revcnt n) (s.revAt n) (s.idxpos n)
    let toIdx := fun s : State => s.setFld (R.ENCn_REV n) F.ENCn_REV_REV (s.idxpos n)
    let s := s.setEncSt n { s.encSt n with seen := true }
    let taken := fun s : State => s.count (R.ENCn_IDXCNT n) F.ENCn_IDXCNT_COUNT 1
    let show_ := fun (s : State) (out : Bool) =>
      (s.setFld (R.ENCn_IDXERR n) F.ENCn_IDXERR_E (wrap 24 e)).setBit (R.ENCn_IDXERR n) F.ENCn_IDXERR_OUT out
    if !s.bit (R.ENCn_STAT n) F.ENCn_STAT_REF then
      (taken ((toIdx s).setBit (R.ENCn_STAT n) F.ENCn_STAT_REF true)).correct n 0
    else if s.idxTol n < e.natAbs then (show_ s true).indexMiss n
    else
      let s := (taken (show_ s false)).setFld (R.ENCn_STAT n) F.ENCn_STAT_MISS 0
      if e = 0 then s.correct n 0
      else ((toIdx s).posLog 0 n (Config.logCause 8 0 % 256) (wrap 16 e)).correct n (-e)

/-! ## Speed -/

/-- SPEED and VEL of path `n` (R248): they saturate. -/
def State.setSpeed (s : State) (n : Nat) (v : Int) : State :=
  let c := clampInt (-(2 ^ 31)) (2 ^ 31 - 1)
  let s := s.setReg (R.ENCn_SPEED n) (BitVec.ofInt 32 (c v))
  (s.setReg (R.ENCn_VEL n) (BitVec.ofInt 32 (c (quot (c v * s.regN (R.ENCn_SCALE n)) 64000 s.freeCtr)))).drawn

/-- A speed from `n` counts in `t` steps of the grid, in 1/64 count/s. -/
def speedOf (back : Bool) (n t k : Nat) : Int :=
  let v := quot (51200000000 * n) t k
  if back then -v else v

/-- The estimate of the period regime (R248, R249): none before the second count in a direction. While no count arrives it
is no more than one count in the time since the latest. -/
def State.periodSpeed (s : State) (n : Nat) : Option Int :=
  let x := s.encSt n
  match x.counts with
  | (t, back) :: _ =>
    let m := min (s.fld (R.ENCn_SPDCFG n) F.ENCn_SPDCFG_PCNT) (x.run - 1)
    match x.counts[m]? with
    | some (t0, _) =>
      if m = 0 then none
      else
        let v := speedOf false m (t - t0) s.freeCtr
        let v := if t < s.now then min v (speedOf false 1 (s.now - t) (s.freeCtr + 1)) else v
        some (if back then -v else v)
    | none => none
  | [] => none

/-- The counts of the window of path `n` (R248). -/
def State.windowCounts (s : State) (n : Nat) : List (Nat × Bool) :=
  let w := us (10 * s.fld (R.ENCn_SPDCFG n) F.ENCn_SPDCFG_WIN)
  (s.encSt n).counts.filter (fun c => decide (s.now < c.1 + w))

/-- SPEED of path `n` by the period regime, with VALID (R249). -/
def State.showPeriod (s : State) (n : Nat) : State :=
  match s.periodSpeed n with
  | some v => (s.setSpeed n v).setBit (R.ENCn_STAT n) F.ENCn_STAT_VALID true
  | none => (s.setSpeed n 0).setBit (R.ENCn_STAT n) F.ENCn_STAT_VALID false

/-- A count of path `n` at instant `t` joins the estimate (R248, R249); a count against the one before it resets it. -/
def State.countSpeed (s : State) (n t : Nat) (back : Bool) : State :=
  let x := s.encSt n
  let turn : Bool := match x.counts with
    | (_, b) :: _ => b != back
    | [] => true
  let keep := us 2550
  let s := s.setEncSt n { x with
    counts := (t, back) :: (x.counts.take 15 ++ (x.counts.drop 15).filter (fun c => decide (t < c.1 + keep)))
    run := if turn then 1 else x.run + 1, since := t }
  let s := s.setBit (R.ENCn_STAT n) F.ENCn_STAT_STILL false
  if turn ∨ !s.bit (R.ENCn_STAT n) F.ENCn_STAT_WINMODE ∨ !s.bit (R.ENCn_STAT n) F.ENCn_STAT_VALID then s.showPeriod n else s

/-- DIR with its hysteresis (R250). When DIR of ENC0 returns to forward, no line is held any more (R270). -/
def State.countDir (s : State) (n : Nat) (back : Bool) : State :=
  let a := R.ENCn_STAT n
  let x := s.encSt n
  if s.bit a F.ENCn_STAT_DIR = back then s.setEncSt n { x with against := 0 }
  else if x.against + 1 < s.fld (R.ENCn_DIRCFG n) F.ENCn_DIRCFG_DIRHYST then
    s.setEncSt n { x with against := x.against + 1 }
  else
    let s := s.setEncSt n { x with against := 0 }
    let s := (s.setBit a F.ENCn_STAT_DIR back).orFld R.POS_EVT0 F.POS_EVT0_REVERSE n
    if n = 0 ∧ !back then s.setBit R.BR_STAT F.BR_STAT_DIRINH false else s

/-- Forward counts of path `n` shorten the blanking of its mark inputs (R254). -/
def State.countBlank (s : State) (n : Nat) (back : Bool) : State :=
  if back then s
  else
    (List.range 4).foldl (fun s i =>
      if s.fld (R.MARKi_CFG i) F.MARKi_CFG_SRC = n ∧ (s.mark i).blank ≠ 0 then
        s.setMark i { s.mark i with blank := (s.mark i).blank - 1 } else s) s

/-- One count of path `n` at instant `t` (R240, R243). -/
def State.encCount (s : State) (n t : Nat) (back : Bool) : State :=
  let d : Int := if back then -1 else 1
  let s := ((s.countSpeed n t back).countDir n back).countBlank n back
  let s := (s.stepRev n d).stepPos n d
  if n = 0 then s.judgeLoop else s

/-! ## Decoding -/

/-- A permanent fault of path `n` (R251); on ENC0 it triggers safe stop. -/
def State.encFault (s : State) (n : Nat) : State :=
  let s := (s.setBit (R.ENCn_STAT n) F.ENCn_STAT_FAULT true).orFld R.POS_EVT0 F.POS_EVT0_LOS n
  let s := s.posLog 1 n (12 + n) 0
  if n = 0 then s.judgeLoop.safeStop 1 else s

/-- An illegal transition of path `n` (R241, R251). -/
def State.illegal (s : State) (n : Nat) : State :=
  let s := (s.count (R.ENCn_QERR n) F.ENCn_QERR_COUNT 1).posLog 0 n (Config.logCause 8 1 % 256) 0
  let a := R.ENCn_ERR_THR n
  let x := s.encSt n
  let before := recent s.now (ms (s.fld a F.ENCn_ERR_THR_WINDOW)) x.stamps
  let l := (s.now :: before).take 257
  let max_ := s.fld a F.ENCn_ERR_THR_ERRMAX
  let was := x.above && decide (max_ < before.length)
  let above := decide (max_ < l.length)
  let s := s.setEncSt n { x with stamps := l, above := above }
  if above && !was then s.encFault n else s

/-- What quadrature counts for a change from `a`, `b` to `a'`, `b'` (R240): none, or whether the count is backward. A leads
B when the web moves forward (PRESUMED). ×2 counts the edges of A, ×1 those while B is low. -/
def quadCount (mult : Nat) (a b a' b' : Bool) : Option Bool :=
  if a ≠ a' then
    let back := a' == b
    if mult = 3 ∨ mult = 2 then some back else if mult = 1 ∧ !b then some back else none
  else if b ≠ b' then if mult = 3 then some (b' != a) else none
  else none

/-- A rising edge of A in toothed-wheel mode (R242). The period that spans a reversal is not measured. -/
def State.toothEdge (s : State) (n : Nat) (back : Bool) : State :=
  let x := s.encSt n
  let extra := s.bit (R.ENCn_CTRL n) F.ENCn_CTRL_GAP
  let turned := match x.counts with
    | (_, b) :: _ => b != back
    | [] => false
  let x := if turned then { x with normals := 0, half := none, edge := none } else x
  match x.edge with
  | none => (s.setEncSt n { x with edge := some s.now }).encCount n s.now back
  | some t0 =>
    let t := s.now - t0
    let judged := decide (2 ≤ x.normals)
    if judged && !extra && decide (3 * x.tn ≤ 2 * t) then
      let s := (s.setEncSt n { x with edge := some s.now }).encCount n (s.now - t / 2) back
      (s.encCount n s.now back).judgeIndex n
    else if judged && extra && x.half.isNone && decide (8 * t ≤ 5 * x.tn) then
      (s.setEncSt n { x with edge := some s.now, half := some t }).judgeIndex n
    else
      (s.setEncSt n { x with
        edge := some s.now, tn := t + x.half.getD 0, normals := x.normals + 1, half := none }).encCount n s.now back

/-- New filtered levels of A and B on path `n`, which is enabled (R240, R241). -/
def State.encEdge (s : State) (n : Nat) (x : EncSt) (a b : Bool) : State :=
  let c := R.ENCn_CTRL n
  let swap := s.bit c F.ENCn_CTRL_SWAP
  let inv := s.bit c F.ENCn_CTRL_INV
  let a0 := if swap then x.b else x.a
  let b0 := if swap then x.a else x.b
  let a1 := if swap then b else a
  let b1 := if swap then a else b
  let mode := s.fld c F.ENCn_CTRL_MODE
  if mode = 0 then
    if a0 ≠ a1 ∧ b0 ≠ b1 then s.illegal n
    else
      match quadCount (s.fld c F.ENCn_CTRL_MULT) a0 b0 a1 b1 with
      | some back => s.encCount n s.now (back != inv)
      | none => s
  else if mode = 1 then if !a0 && a1 then s.encCount n s.now (!b1 != inv) else s
  else if mode = 2 then
    if !a0 && a1 then s.toothEdge n ((s.bit c F.ENCn_CTRL_TWDIR && !b1) != inv) else s
  else s

/-- An index of path `n` still waits in the queue. All commands that wait belong to the present sample, because time passes
only on an empty queue. -/
def State.indexWaits (s : State) (n : Nat) : Bool :=
  s.pending.any (fun c =>
    match c with
    | .index m _ => m.val == n
    | _ => false)

/-- ENCODER_COUNT (R239 to R241): filtered levels of A and B change. The compare evaluation follows, after an index of the
sample where one waits. -/
def execEncoderCount (n : Fin 4) (a b : Bool) (s : State) : Host.Outcome State Fault Refusal :=
  .next <|
    let x := s.encSt n
    let s := s.setEncSt n { x with a := a, b := b }
    if !s.encOn n then s
    else
      let s := s.encEdge n x a b
      if s.indexWaits n then s else s.compareNow n

/-- INDEX (R239, R245): a Z edge of the polarity that ZPOL names; with ZGATE it counts only while A and B are both 1. -/
def execIndex (n : Fin 4) (z : Bool) (s : State) : Host.Outcome State Fault Refusal :=
  .next <|
    let x := s.encSt n
    let c := R.ENCn_CTRL n
    let s := s.setEncSt n { x with z := z }
    let i := s.fld R.POS_INSTATE F.POS_INSTATE_Z
    let s := s.setFld R.POS_INSTATE F.POS_INSTATE_Z (i - i / 2 ^ n.val % 2 * 2 ^ n.val + (if z then 2 ^ n.val else 0))
    let s :=
      if x.z = z ∨ !s.encOn n ∨ !s.bit c F.ENCn_CTRL_ZEN ∨ s.fld c F.ENCn_CTRL_MODE = 2 ∨ z = s.bit c F.ENCn_CTRL_ZPOL ∨
          (s.bit c F.ENCn_CTRL_ZGATE ∧ !(x.a && x.b)) then s
      else s.judgeIndex n
    s.compareNow n

/-- INDEX_CORRECTION_COUNT (R246): one count in the direction of the correction. -/
def execIndexCorrectionCount (s : State) : Host.Outcome State Fault Refusal :=
  .next <|
    let c := s.corr 0
    let x := s.encSt 0
    if c = 0 ∨ (s.running ∧ !x.corrDue) then s
    else
      let d : Int := if c < 0 then -1 else 1
      let s := (s.setEncSt 0 { x with corrDue := false, corrLines := some 0 }).setCorr 0 (c - d)
      (s.stepPos 0 d).compareNow 0

/-- A line boundary (R246): the first after an index, and every SLEW lines from it, one correction count is due. -/
def State.corrBoundary (s : State) : State :=
  if s.corr 0 = 0 then s
  else
    let x := s.encSt 0
    match x.corrLines with
    | none => s.setEncSt 0 { x with corrDue := true }
    | some l =>
      s.setEncSt 0 { x with
        corrLines := some (l + 1)
        corrDue := x.corrDue || decide (s.fld (R.ENCn_IDXCFG 0) F.ENCn_IDXCFG_SLEW ≤ l + 1) }

/-- INDEX_REARM (R247). -/
def execIndexRearm (r : Requester) (n : Fin 4) (v : Word) (s : State) : Host.Outcome State Fault Refusal :=
  .next <|
    if getField F.ENCn_IDXCFG_REARM v = 0 then s
    else
      let s := s.writeByCodes (R.ENCn_IDXCFG n) v
      ((s.setBit (R.ENCn_STAT n) F.ENCn_STAT_IDXLOST false).setBit (R.ENCn_STAT n) F.ENCn_STAT_REF false).written r

/-- SPEED_WINDOW_UPDATE (R248): the regime by the counts of the window, and the speed by the regime; a window with counts of
both directions uses the period regime. -/
def execSpeedWindowUpdate (n : Fin 4) (s : State) : Host.Outcome State Fault Refusal :=
  .next <|
    if !s.encOn n then s
    else
      let a := R.ENCn_STAT n
      let w := s.windowCounts n
      let win :=
        if s.fld (R.ENCn_SPDCFG n) F.ENCn_SPDCFG_XHI ≤ w.length then true
        else if w.length ≤ s.fld (R.ENCn_SPDCFG n) F.ENCn_SPDCFG_XLO then false
        else s.bit a F.ENCn_STAT_WINMODE
      let s := s.setBit a F.ENCn_STAT_WINMODE win
      let s :=
        match w, w.getLast? with
        | (t, back) :: _, some (t0, _) =>
          if win && w.all (fun c => c.2 == back) && decide (2 ≤ w.length) then
            (s.setSpeed n (speedOf back (w.length - 1) (t - t0) s.freeCtr)).setBit a F.ENCn_STAT_VALID true
          else s.showPeriod n
        | _, _ => if s.bit a F.ENCn_STAT_STILL then s else s.showPeriod n
      if n.val = 0 then s.judgeLoop else s

/-- STANDSTILL_TIMEOUT (R249): no count for STILL ms. -/
def execStandstillTimeout (n : Fin 4) (s : State) : Host.Outcome State Fault Refusal :=
  .next <|
    let a := R.ENCn_STAT n
    let x := s.encSt n
    if !s.encOn n ∨ s.bit a F.ENCn_STAT_STILL ∨
        s.now < x.since + ms (s.fld (R.ENCn_DIRCFG n) F.ENCn_DIRCFG_STILL) then s
    else
      let s := s.setEncSt n { x with counts := [], run := 0, normals := 0, half := none, edge := none }
      let s := (s.setSpeed n 0).setBit a F.ENCn_STAT_VALID false
      let s := (s.setBit a F.ENCn_STAT_STILL true).orFld R.POS_EVT0 F.POS_EVT0_STILL n
      if n.val = 0 then s.judgeLoop else s

/-- A receiver of path `n` is in use, where SWAP exchanges those of A and B (R240, R251). -/
def State.rxUsed (s : State) (n rx : Nat) : Bool :=
  let c := R.ENCn_CTRL n
  let decoded := if rx < 2 ∧ s.bit c F.ENCn_CTRL_SWAP then 1 - rx else rx
  if decoded = 0 then true
  else if decoded = 1 then s.fld c F.ENCn_CTRL_MODE != 2 || s.bit c F.ENCn_CTRL_TWDIR
  else s.bit c F.ENCn_CTRL_ZEN

/-- LOSS_OF_SIGNAL (R251). -/
def execLossOfSignal (n : Fin 4) (rx : Fin 3) (s : State) : Host.Outcome State Fault Refusal :=
  .next (if s.encOn n && s.rxUsed n rx then s.encFault n else s)

/-- A write of ENCn_CTRL (R243, R249, R251): while EN is 1 only EN acts; EN from 0 to 1 starts the path, and with FAULT clears
what the threshold of R251 has reported. Illegal transitions stay within their window. -/
def State.pathCtrlWrite (s : State) (n : Nat) (v : Word) : State :=
  let c := R.ENCn_CTRL n
  let on := getField F.ENCn_CTRL_EN v == 1
  if s.encOn n then s.setBit c F.ENCn_CTRL_EN on
  else
    let s := s.writeByCodes c v
    if !on then s
    else
      let p := s.wide (R.ENCn_PRESET_LO n)
      let jump := sext 64 p - s.srcPos n
      let s := ((s.setReg (R.ENCn_REV n) 0).setWide (R.ENCn_POS_LO n) p).setWide (R.ENCn_MAX_LO n) p
      let a := R.ENCn_STAT n
      let s := [F.ENCn_STAT_REF, F.ENCn_STAT_FAULT, F.ENCn_STAT_VALID, F.ENCn_STAT_STILL, F.ENCn_STAT_WINMODE].foldl
        (fun s f => s.setBit a f false) s
      let x := s.encSt n
      let s := (s.setCorr n 0).setEncSt n {
        a := x.a, b := x.b, z := x.z, since := s.now, stamps := x.stamps, moves := (s.now, jump) :: x.moves }
      let s := s.setSpeed n 0
      if n = 0 then s.loopMoved.judgeLoop else s

/-! ## SSI ports -/

/-- SSI_FRAME_START (R252): the timestamp is taken at the first falling clock edge. -/
def execSsiFrameStart (m : Fin 2) (s : State) : Host.Outcome State Fault Refusal :=
  .next <|
    if s.bit (R.SSIm_CFG m) F.SSIm_CFG_EN then s.setSsi m { s.ssi m with start := some s.ptp } else s

/-- The bits of a number in Gray code, each the exclusive or of those at and before it. -/
def grayBits (l : List Bool) : List Bool :=
  (l.foldl (fun (acc : Bool × List Bool) b => (acc.1 != b, acc.2 ++ [acc.1 != b])) (false, [])).2

/-- The step of least magnitude from `p` to a position that reads `v` modulo 2^w (R253); of two of one magnitude the free
value decides. -/
def leastStep (w v k : Nat) (p : Int) : Int :=
  let d := ((v : Int) - p) % 2 ^ w
  if 2 * d < 2 ^ w then d else if 2 * d = 2 ^ w ∧ Config.roundUp k then d else d - 2 ^ w

/-- Why a frame is rejected (R253, LASTERR of R260); 0 for none. -/
def State.ssiError (s : State) (m : Nat) (idle : Bool) (bits : List Bool) (high : Bool) (step : Int) : Nat :=
  let c := R.SSIm_CFG m
  if !idle then 1
  else if !high then 2
  else if s.bit c F.SSIm_CFG_ERRBIT && bits.getD (s.fld c F.SSIm_CFG_POSBITS) false then 3
  else if s.bit c F.SSIm_CFG_PARITY && (bits.take (s.fld c F.SSIm_CFG_BITS)).foldl xor false then 4
  else if s.regN (R.SSIm_MAXJUMP m) < step.natAbs then 5 else 0

/-- SSI_FRAME_RECEIVED (R253). -/
def execSsiFrameReceived (m : Fin 2) (idle : Bool) (bits : List Bool) (high : Bool) (s : State) :
    Host.Outcome State Fault Refusal :=
  .next <|
    let x := s.ssi m
    match x.start with
    | none => s
    | some ts =>
      let c := R.SSIm_CFG m
      let w := s.fld c F.SSIm_CFG_POSBITS
      let raw := bits.take w
      let v := bitsNat (if s.bit c F.SSIm_CFG_GRAY then grayBits raw else raw)
      let old := s.srcPos (4 + m.val)
      let step := leastStep w v s.freeCtr old
      let err := s.ssiError m idle bits high step
      let s := s.drawn
      if err ≠ 0 then
        let s := s.setSsi m { start := none, rejected := x.rejected + 1 }
        let s := (s.count (R.SSIm_ERRCNT m) F.SSIm_ERRCNT_COUNT 1).setFld (R.SSIm_STAT m) F.SSIm_STAT_LASTERR err
        if x.rejected + 1 = 3 then
          (s.setBit (R.SSIm_STAT m) F.SSIm_STAT_VALID false).orFld R.POS_EVT1 F.POS_EVT1_SSIERR m
        else s
      else
        let s := s.setSsi m { start := none, rejected := 0 }
        let s := (s.setWide (R.SSIm_POS_LO m) (wrap 64 (old + step))).setWide (R.SSIm_TS_LO m) ts
        let s := (s.setBit (R.SSIm_STAT m) F.SSIm_STAT_VALID true).setFld (R.SSIm_STAT m) F.SSIm_STAT_LASTERR 0
        s.comparePos (4 + m.val) old

/-! ## Marks and switches -/

/-- MARKi_STAT shows LEVEL. -/
def State.showMark (s : State) (i : Nat) : State := s.setFld (R.MARKi_STAT i) F.MARKi_STAT_LEVEL (s.mark i).fifo.length

/-- POS of path `n` at an instant before now (R254). -/
def State.posAt (s : State) (n t : Nat) : Int :=
  s.srcPos n - (((s.encSt n).moves.filter (fun m => decide (t < m.1))).map (·.2)).sum

/-- MARK_EDGE (R254): the raw edge came FILT × 10 ns ago. -/
def execMarkEdge (i : Fin 4) (level : Bool) (s : State) : Host.Outcome State Fault Refusal :=
  .next <|
    let c := R.MARKi_CFG i
    let x := s.mark i
    let m := s.fld R.POS_INSTATE F.POS_INSTATE_MARK
    let s := s.setFld R.POS_INSTATE F.POS_INSTATE_MARK
      (m - m / 2 ^ i.val % 2 * 2 ^ i.val + (if level then 2 ^ i.val else 0))
    let s := s.setMark i { x with level := level }
    if x.level = level ∨ !s.bit c F.MARKi_CFG_EN ∨ level = s.bit c F.MARKi_CFG_EDGE then s
    else if x.blank ≠ 0 then
      s.setFld (R.MARKi_STAT i) F.MARKi_STAT_BLANKED (min 65535 (s.fld (R.MARKi_STAT i) F.MARKi_STAT_BLANKED + 1))
    else
      let x := { s.mark i with blank := s.fld c F.MARKi_CFG_BLANK }
      if 16 ≤ x.fifo.length then
        ((s.setMark i x).setBit (R.MARKi_STAT i) F.MARKi_STAT_OVF true).orFld R.POS_EVT1 F.POS_EVT1_MARKOVF i
      else
        let back := 8 * s.fld c F.MARKi_CFG_FILT
        let e := (s.posAt (s.fld c F.MARKi_CFG_SRC) (s.now - back), ({ s with now := s.now - back }).ptp)
        ((s.setMark i { x with fifo := x.fifo ++ [e] }).showMark i).orFld R.POS_EVT0 F.POS_EVT0_MARK i

/-- The words of MARKi_LAT0 to MARKi_LAT3: the oldest entry, 0 without one. -/
def State.markWord (s : State) (i w : Nat) : Nat :=
  match (s.mark i).fifo with
  | (p, t) :: _ => (if w < 2 then wrap 64 p else t) / (if w % 2 = 1 then 2 ^ 32 else 1) % 2 ^ 32
  | [] => 0

/-- The oldest entry of a mark FIFO is removed. -/
def State.popMark (s : State) (i : Nat) : State :=
  (s.setMark i { s.mark i with fifo := (s.mark i).fifo.drop 1 }).showMark i

/-- MARK_FIFO_POP (R260): the read of LAT3 removes the entry and clears OVF; it returns the high word that the read of
LAT2 latched (R8). -/
def execMarkFifoPop (r : Requester) (i : Fin 4) (s : State) : Host.Outcome State Fault Refusal :=
  .next <|
    let w := sget (fun _ => (0 : Word)) s.highLatch (R.MARKi_LAT2 i)
    ((s.popMark i).setBit (R.MARKi_STAT i) F.MARKi_STAT_OVF false).okResp r (leBytes 4 w.toNat)

/-- HOME_EDGE (R255): a debounced edge sets its event. -/
def execHomeEdge (k : Fin 8) (level : Bool) (s : State) : Host.Outcome State Fault Refusal :=
  .next <|
    if s.pos.home.testBit k = level then s
    else
      let s := { s with pos := { s.pos with home := s.pos.home ^^^ 2 ^ k.val } }
      s.orFld R.POS_EVT0 F.POS_EVT0_HOME k

/-- POS_INSTATE.HOME: the debounced levels after POL (R260). -/
def State.homeLevels (s : State) : Nat := s.pos.home ^^^ s.fld R.POS_HOME_CFG F.POS_HOME_CFG_POL

end Sys2Proof.Machine
end

