-- ==== Sys2Proof/Machine/Bellringer.lean ====
section
/-! DEFINITION. Bellringer's line grid (R268 to R285): RUN, the fire events of rows, pitch decisions, page starts and ends,
ladders, the limits that settings must keep, and its registers. -/

namespace Sys2Proof.Machine

/-! ## Lines and positions -/

/-- The row that line boundaries and conversions use (R20, R272). -/
def State.datum (s : State) : Nat × Nat := s.datumRow

/-- The datum fire position of a line in 1/64 dot. -/
def State.datumPos (s : State) (l : Nat) : Int := s.firePos s.datum.1 s.datum.2 l

/-- The first line whose datum fire position is at or after `t` 1/64 dots; lines not yet placed count one dot apart
(R273). -/
def State.lineAtDot (s : State) (t : Int) : Nat :=
  match (s.br.grid.reverse.find? (fun g => decide (t ≤ s.datumPos g.line))), s.br.grid with
  | some g, _ => g.line
  | none, g :: _ => lineAdd g.line ((t - s.datumPos g.line + 63) / 64).toNat
  | none, [] => s.br.firstLine

/-- W of an ENC0 position in 1/64 dot, rounded up: a line lies at or after the one when it does the other. -/
def State.dotOf (s : State) (pos : Int) : Int :=
  let d : Int := 65536 * s.regN R.BR_DEN
  if d = 0 then 0 else -Int.fdiv (-(s.wNum pos 0)) d

/-- The first line whose datum fire position is at or after W(P) (R273). -/
def State.lineAtPos (s : State) (pos : Int) : Nat := s.lineAtDot (s.dotOf pos)

/-- The first line whose predicted datum fire time is at or after PTP time `t` in ns (R273); none while the loop gives no
forward speed. -/
def State.lineAtTime (s : State) (t : Nat) : Option Nat :=
  if s.loopState < 2 ∨ s.br.v ≤ 0 then none
  else
    let dt : Int := (t : Int) - s.ptp
    let q := s.phiNow * 1000000000 + s.br.v * dt
    some (s.lineAtDot (-Int.fdiv (-q) (65536 * 1000000000)))

/-- The last line that the datum row has fired since RUN; before the first, the line before BR_LINESTART. -/
def State.lastFired (s : State) : Nat :=
  if s.regN R.BR_LINE = 0xFFFFFFFF then lineSub s.br.firstLine 1 else s.regN R.BR_LINE

/-- HAM_LEAD.LEAD, one value for the chip (R286, R291). -/
def State.lead (s : State) : Nat := s.fld (R.HAM_LEAD 0) F.HAM_LEAD_LEAD

/-! ## Ladders -/

/-- CAM_LAD_NEXT shows the next ladder that the datum row has not begun (R325). -/
def State.showLadder (s : State) : State :=
  let ahead := s.br.ladders.filter (fun x => lineLt s.lastFired x.l0)
  let next := ahead.foldl (fun (m : Option Nat) x =>
    match m with
    | some v => some (if lineLt x.l0 v then x.l0 else v)
    | none => some x.l0) none
  s.setReg R.CAM_LAD_NEXT (BitVec.ofNat 32 (next.getD 0xFFFFFFFF))

/-- LADDER_DESIGNATION (R325): after every N-th page whose last line is fixed. -/
def State.designate (s : State) (llast : Nat) : State :=
  let n := s.fld R.CAM_LAD_CFG F.CAM_LAD_CFG_N
  let k := s.br.pagesFixed + 1
  let s := { s with br := { s.br with pagesFixed := k } }
  if n = 0 ∨ k % n ≠ 0 then s
  else
    let c := fun f => s.fld R.CAM_LAD_CFG f
    let gap := c F.CAM_LAD_CFG_BANDGAP
    let x : Ladder := ⟨lineAdd llast (gap + 1), c F.CAM_LAD_CFG_BANDH, gap, c F.CAM_LAD_CFG_LEVEL⟩
    ({ s with br := { s.br with ladders := (x :: s.br.ladders).take 8 } }).showLadder

/-! ## Page starts -/

/-- The page that comes next (R275): the first armed context of the sequence whose lines are not fixed. -/
def State.nextPage (s : State) : Option Nat :=
  (s.pageOrder.find? (fun e => (s.page e.2).state == 2 && (s.page e.2).lfirst == 0xFFFFFFFF)).map (·.2)

/-- L_prev + MINGAP (R275, R276). -/
def State.pageLimit (s : State) : Nat :=
  match s.br.prevLast with
  | some l => lineAdd l (s.fld R.BR_PAGE_CFG F.BR_PAGE_CFG_MINGAP)
  | none => lineSub s.br.firstLine 1

/-- The lines of page context `n` are fixed from its candidate line (R275); `prep` is the last line whose preparation has
begun. -/
def State.fixPage (s : State) (n lc prep : Nat) : State :=
  let c := s.page n
  let late := lineLe lc prep
  let lf := if late then lineAdd prep 1 else lc
  let ll := lineAdd lf (c.length - 1)
  let s := s.setPage n { c with lfirst := lf, llast := ll }
  let s := { s with br := { s.br with prevLast := some ll } }
  let s := if late then (s.setBit R.BR_EVT F.BR_EVT_LATESTART true).flagPage n 2 else s
  s.designate ll

/-- Contexts next in the sequence whose trigger fixes them do so, one after the other (R275); a web-position page stays
MINGAP lines behind the page before it. -/
def State.advancePages : Nat → Nat → State → State
  | 0, _, s => s
  | fuel + 1, prep, s =>
    match s.nextPage with
    | none => s
    | some n =>
      let c := s.page n
      let soon := lineAdd s.pageLimit 1
      if c.trigger = 0 then s
      else
        let lc := if c.trigger = 2 then soon else
          let l := c.cand.getD soon
          if lineLt l soon then soon else l
        State.advancePages fuel prep (s.fixPage n lc prep)

/-- The last line whose preparation has begun: one lead beyond the last line fired (R275). -/
def State.prepBegun (s : State) : Nat := lineAdd s.lastFired s.lead

/-- What the arming of context `n` does in Bellringer (R275): a web position is converted, and the sequence advances. -/
def State.pageArmed (s : State) (n : Nat) : State :=
  if !s.running then s
  else
    let c := s.page n
    let s := if c.trigger = 1 then s.setPage n { c with cand := some (s.lineAtPos c.trigPos) } else s
    State.advancePages 256 s.prepBegun s

/-- A mark is discarded (R276). -/
def State.rejectMark (s : State) : State :=
  (s.setBit R.BR_EVT F.BR_EVT_MARKREJ true).count R.BR_CNT_MARKREJ F.BR_CNT_MARKREJ_COUNT 1

/-- MARK_TAKE (R276). -/
def execMarkTake (s : State) : Host.Outcome State Fault Refusal :=
  .next <|
    let i := s.fld R.BR_PAGE_CFG F.BR_PAGE_CFG_MARKSEL
    match (s.mark i).fifo with
    | [] => s
    | (pos, _) :: _ =>
      let s := s.popMark i
      match s.nextPage with
      | none => s.rejectMark
      | some n =>
        if !s.running ∨ (s.page n).trigger ≠ 0 then s.rejectMark
        else
          let lc := s.lineAtDot (s.dotOf pos + sext 32 (s.regN R.BR_MARKOFF))
          if lineLe lc s.pageLimit then s.rejectMark
          else
            let s := s.fixPage n lc s.prepBegun
            State.advancePages 256 s.prepBegun s

/-! ## RUN -/

/-- Line BR_LINESTART in 2^-16 dot (R271): φmax rounded up to a whole dot, and lead + 8 dots. -/
def State.startPos (s : State) : Int := (-Int.fdiv (-s.phimaxNow) 4194304) * 65536 + 65536 * (s.lead + 8 : Nat)

/-- The rows of a channel stand before line `first`, of which none has fired an earlier line of the new grid (R206, R209);
scan-paced channels take no part. -/
def State.startRows (s : State) (first : Nat) : State :=
  allHc.foldl (fun s h =>
    if s.scanPaced h then s
    else
      [0, 1].foldl (fun s r =>
        (s.setReg (rowNextReg h r) (BitVec.ofNat 32 first)).setRow h r { s.row h r with nextTake := first, due := [] })
        (s.setHc h { s.hc h with hist := [] })) s

/-- The hamlets stand before line `first`: no slot of the new grid is valid, and none has been prepared (R287). -/
def State.startHamlets (s : State) (first : Nat) : State :=
  (List.range 4).foldl (fun s k =>
    s.setHam k { s.ham k with
      valid := [], lost := [], next := first, redo := [], pass := none, lastPrep := none, leadBase := none
      refRow := none }) s

/-- Armed contexts count from RUN (R405), and their web positions are converted (R273). -/
def State.startPages (s : State) : State :=
  let (s, n) := (s.pageOrder.filter (fun e => (s.page e.2).state == 2)).foldl (fun (s, n) e =>
    let c := s.page e.2
    (s.setPage e.2 { c with
      seq := n, lfirst := 0xFFFFFFFF, llast := 0xFFFFFFFF, judged := 0
      cand := if c.trigger = 1 then some (s.lineAtPos c.trigPos) else none }, n + 1)) (s, 0)
  { s with br := { s.br with seq := n } }

/-- RUN from 0 to 1 (R199, R271); the state is Printing (R414). -/
def State.startGrid (s : State) : State :=
  let s := { s.setPower 3 with landed := [] }
  let first := s.regN R.BR_LINESTART
  let pos := s.startPos
  let s := { s with
    br := { s.br with
      grid := [⟨first, pos, false, false⟩], datumFires := [], firstLine := first, runAt := s.now, prevLast := none
      blankRun := false, ladders := [], pagesFixed := 0 }
    weaver := { s.weaver with overlap := s.fld (R.WEAVER_OVERLAP 0) F.WEAVER_OVERLAP_V } }
  let s := (s.setBit R.BR_CTRL F.BR_CTRL_RUN true).setBit R.BR_STAT F.BR_STAT_RUNNING true
  let s := (s.setReg R.BR_LINE 0xFFFFFFFF#32).setReg R.BR_SNAPLINE 0xFFFFFFFF#32
  let s := ((s.setFld R.BR_STAT F.BR_STAT_BAND 0).startRows first).startHamlets first
  let s := s.refreshLimits.refreshDatum.startPages
  let s := State.advancePages 256 (lineSub first 1) s
  (s.pushMap first (s.datumPos first * 1024) 65536).showLadder

/-! ## The datum row -/

/-- The pitch of the line after `l` and its band: 0 normal, 1 stretch, 2 blank (R280, R281). -/
def State.pitchOf (s : State) (l : Nat) : Nat × Nat :=
  let (n, d) := s.lineRate
  let f := n.toNat
  let m := s.fld R.BR_FMAX F.BR_FMAX_FMAX
  let only := s.fldFor R.BR_CTRL F.BR_CTRL_STRETCHONLY (lineAdd l 1) == 1
  let clamp := s.fldFor R.BR_OVS F.BR_OVS_CLAMP (lineAdd l 1)
  if f ≤ m * d then (65536, 0)
  else if m ≠ 0 ∧ (only ∨ f * 1000 ≤ m * d * (1000 + clamp)) then ((65536 * f + m * d - 1) / (m * d), 1)
  else (65536, 2)

/-- Frames of line `l` that are formed, shifted or latched will not fire: a blank line has no fire event (R280, R477). -/
def State.dropLine (s : State) (l : Nat) : State :=
  allHc.foldl (fun s h =>
    if s.scanPaced h then s
    else
      let x := s.hc h
      let mine := fun f : Frame => !f.table && f.line == l
      let all := x.formed ++ x.shifting.toList ++ x.rowU.latched.toList ++ x.rowD.latched.toList
      let s := (all.filter mine).foldl (fun s f => s.forget h f) s
      let x := s.hc h
      s.setHc h { x with
        formed := x.formed.filter (fun f => !mine f), shifting := x.shifting.filter (fun f => !mine f)
        rowU := { x.rowU with latched := x.rowU.latched.filter (fun f => !mine f) }
        rowD := { x.rowD with latched := x.rowD.latched.filter (fun f => !mine f) } }) s

/-- A map entry is due for line `l` (R323): its pitch differs, or a page or a ladder starts at it or ended before it. -/
def State.mapDue (s : State) (l pitch before : Nat) : Bool :=
  let last := lineSub l 1
  pitch != before ||
    s.pages.any (fun e => 2 ≤ e.2.state && e.2.state ≤ 4 && e.2.lfirst != 0xFFFFFFFF &&
      (e.2.lfirst == l || e.2.llast == last)) ||
    s.br.ladders.any (fun x => x.l0 == l || lineAdd x.l0 (32 * (x.bandH + x.gap)) == l)

/-- PITCH_DECISION (R268, R280): at the datum fire of line `l`, the line after it is placed. -/
def State.placeNext (s : State) (l : Nat) : State :=
  let next := lineAdd l 1
  let before := (s.gridPos l - s.gridPos (lineSub l 1)).toNat
  let (pitch, band) := s.pitchOf l
  let g : GridLine := ⟨next, s.gridPos l + pitch, band == 1, band == 2⟩
  let s := { s with br := { s.br with grid := g :: s.br.grid } }
  let s := s.setFld R.BR_STAT F.BR_STAT_BAND band
  let s :=
    if band = 1 then (s.setBit R.BR_EVT F.BR_EVT_STRETCH true).count R.BR_CNT_STRETCH F.BR_CNT_STRETCH_COUNT 1
    else if band = 2 then
      let s := (s.setBit R.BR_EVT F.BR_EVT_OVSBLANK true).count R.BR_CNT_OVSBLANK F.BR_CNT_OVSBLANK_COUNT 1
      (if s.br.blankRun then s else s.brLog 0 5).dropLine next
    else s
  let s := { s with br := { s.br with blankRun := band == 2 } }
  if s.mapDue next pitch (if l = s.br.firstLine then 65536 else before) then s.pushMap next (s.datumPos next * 1024) pitch
  else s

/-- What placed line `l` does to its page `n` (R277). -/
def State.judgePageLine (s : State) (n l : Nat) : State :=
  match s.br.grid.find? (fun g => g.line == l) with
  | none => s
  | some g =>
    let s := if g.blank then s.flagPage n 0 else s
    if !g.stretched then s
    else
      let d := (g.pos - s.gridPos (lineSub l 1)).toNat - 65536
      let c := s.page n
      (s.setPage n { c with stretched := true, stretchSum := (c.stretchSum + d) % 2 ^ 32 }).setReg R.BR_STRETCHSUM
        (BitVec.ofNat 32 (s.regN R.BR_STRETCHSUM + d))

/-- Page `n` at the datum fire of line `l` (R275, R277): it starts at its first line, and every line of it up to `l` is judged
once, whichever row was the datum row for it (R272). -/
def State.judgePage (s : State) (l n : Nat) : State :=
  let c := s.page n
  if c.state < 2 ∨ 3 < c.state ∨ c.lfirst = 0xFFFFFFFF ∨ lineLt l c.lfirst then s
  else
    let m := min ((lineDist l c.lfirst).toNat + 1) c.length
    let s :=
      if c.state = 2 then
        let s := (s.setReg R.BR_STRETCHSUM 0).setBit R.BR_EVT F.BR_EVT_PAGESTART true
        (s.setPage n { c with state := 3 }).notify 1 0 n
      else s
    let s := (List.range (m - c.judged)).foldl (fun s i => s.judgePageLine n (lineAdd c.lfirst (c.judged + i))) s
    s.setPage n { s.page n with judged := max c.judged m }

/-- What line `l` does to pages at the datum row (R275, R277). -/
def State.pageAtDatum (s : State) (l : Nat) : State :=
  let s := s.pages.foldl (fun s e => s.judgePage l e.1) s
  match s.pageOfLine l with
  | none => s.setBit R.BR_STAT F.BR_STAT_PAGEACT false
  | some n => (s.setBit R.BR_STAT F.BR_STAT_PAGEACT true).setFld R.BR_STAT F.BR_STAT_PAGE n

/-- Whether a pending value belongs to the datum row's fire time (R21, R274): not to head rows, hamlets or pipelines. -/
def datumSetting (a : Nat) : Bool :=
  !(0x100100000 ≤ a && a < 0x100198000) && !(0x100200400 ≤ a && a < 0x100200500) && a != R.BR_STRETCH

/-- A register of the MOTION block. -/
def motionReg (a : Nat) : Bool := 0x100310000 ≤ a && a < 0x100320000

/-- A pending value moves into force at the datum row's fire time (R21, R319); one of the MOTION block waits for the next motion
update (R376). -/
def State.landPend (s : State) (p : PendVal) : State :=
  if motionReg p.addr then { s with mot := { s.mot with due := s.mot.due ++ [p] } } else
  let w := putField ⟨p.lo, p.width, .rw⟩ (s.reg p.addr) p.value
  match (List.range 8).find? (fun j => p.addr == R.CMPj_CTRL j) with
  | some j => s.cmpCtrlWrite j w
  | none =>
    let s := s.setReg p.addr w
    let s := match (List.range 4).find? (fun n => p.addr == R.ENCn_SCALE n) with
      | some n => s.setSpeed n (sext 32 (s.regN (R.ENCn_SPEED n)))
      | none => s
    match (List.range 4).find? (fun n => p.addr == R.CAMn_EXP n || p.addr == R.CAMn_GAIN n) with
    | some n => s.exposureCommit n
    | none => s

/-- The values named at or before line `l` that are not tied to a head row move into force. -/
def State.settleDatum (s : State) (l : Nat) : State :=
  let due := fun p : PendVal => datumSetting p.addr && lineLe p.line l
  if s.pend.any due then
    let s' := (s.pend.filter due).foldl (fun s p => (s.noteLanded p).landPend p) s
    { s' with pend := s.pend.filter (fun p => !due p) }
  else s

/-- HAM_LEAD moves into force in all four hamlets at the datum row's fire time of its line (R291). -/
def State.settleLead (s : State) (l : Nat) : State :=
  (List.range 4).foldl (fun s k => s.settlePend (R.HAM_LEAD k) (R.HAM_LEAD k + 1) l) s

/-- Grid entries and fire instants that no row needs any more are given up (R268). -/
def State.pruneGrid (s : State) : State :=
  let rows := (allHc.filter (fun h => !s.scanPaced h)).flatMap (fun h => (s.rowsOf h).map (fun r => s.regN (rowNextReg h r)))
  let keep := fun l => rows.any (fun n => lineLe (lineSub n 2) l)
  { s with br := { s.br with
    grid := (s.br.grid.take 2) ++ (s.br.grid.drop 2).filter (fun g => keep g.line)
    datumFires := s.br.datumFires.take 1024 } }

/-- Lines up to `l` that were never placed, because an earlier row has become the datum row, lie one dot apart (R272, R273). -/
def State.fillGrid (s : State) (l : Nat) : State :=
  match s.br.grid with
  | [] => s
  | g :: _ =>
    let fill := (List.range (lineDist l g.line).toNat).map (fun (i : Nat) =>
      (⟨lineAdd g.line (i + 1), g.pos + 65536 * ((i + 1 : Nat) : Int), false, false⟩ : GridLine))
    { s with br := { s.br with grid := fill.reverse ++ s.br.grid } }

/-- The datum row fires line `l` (R246, R268, R272, R273, R280): the line after it is placed unless it was already, for another
datum row. -/
def State.datumFire (s : State) (l : Nat) : State :=
  let s := s.setReg R.BR_LINE (BitVec.ofNat 32 l)
  let s := { s with br := { s.br with datumFires := (l, s.now) :: s.br.datumFires.filter (fun e => e.1 != l) } }
  let s := (((s.fillGrid l).pageAtDatum l).settleDatum l).settleLead l
  let s := s.landScans l
  let s := if s.br.grid.any (fun g => g.line == lineAdd l 1) then s else s.placeNext l
  s.corrBoundary.showLadder.pruneGrid

/-! ## Rows -/

/-- What a row prints of a ladder band is noted with each line of the band: the nozzles retired and the channel out of service
on any of them (R334). -/
def State.noteBand (s : State) (h r l : Nat) : State :=
  match s.ladderLine l with
  | some (x, b) =>
    if h % 2 = b / 16 ∧ r = b % 16 / 8 then
      let mine := fun (m : BandMark) => m.l0 == x.l0 && m.band == b && m.hc == h && m.row == r
      let old := s.cam.marks.find? mine
      let cols := (List.range 264).map (fun i => 8 * i + b % 8)
      let ret := cols.filter (fun c => s.nozRetired (nozId h (2112 * r + c)) || old.any (fun m => m.ret.contains c))
      { s with cam := { s.cam with
        marks := (⟨x.l0, b, h, r, ret, !s.inService h l || old.any (·.out)⟩ ::
          s.cam.marks.filter (fun m => !mine m)).take 2048 } }
    else s
  | none => s

/-- A head that is derated or out of service on a line of a page is noted (R336). -/
def State.noteUnfit (s : State) (h l : Nat) : State :=
  if s.inService h l && !s.bit (R.HC_STAT h) F.HC_STAT_DERATED then s
  else
    match s.pageOfLine l with
    | some n => if (s.page n).unfit.testBit h then s else
        s.setPage n { s.page n with unfit := (s.page n).unfit ||| 2 ^ h }
    | none => s

/-- The earliest row of hamlet `k`: the row with the smallest line delay, retired channels counted (R286). -/
def State.earliestRow (s : State) (k : Nat) : Option (Nat × Nat) :=
  s.leastDelay (s.enabledRows.filter (fun x => x.1 / 6 == k))

/-- HAM_STAT.LEADNOW of hamlet `k` (R308): the last line prepared less the last line that its earliest row has fired. -/
def State.leadNow (s : State) (k : Nat) : Int :=
  match s.earliestRow k with
  | some x =>
    lineDist ((s.ham k).lastPrep.getD (lineSub s.br.firstLine 1)) (lineSub (s.regN (rowNextReg x.1 x.2)) 1)
  | none => 0

/-- HAM_LEADDEF follows when the earliest row of a hamlet fires (R308). -/
def State.noteLead (s : State) (h r : Nat) : State :=
  let k := h / 6
  if s.earliestRow k = some (h, r) then
    let d := ((s.lead : Int) - s.leadNow k).toNat
    let f := F.HAM_LEADDEF_DEF
    if s.fld (R.HAM_LEADDEF k) f < d then s.setFld (R.HAM_LEADDEF k) f (min d 65535) else s
  else s

/-- BR_STRETCH moves into force once every row has fired a line at or after its own (R274, R278). -/
def State.settleStretch (s : State) (l : Nat) : State :=
  let rows := (allHc.filter (fun h => !s.scanPaced h)).flatMap (fun h => (s.rowsOf h).map (fun r => (h, r)))
  if s.pend.any (fun p => p.addr == R.BR_STRETCH) && rows.all (fun x => lineLt l (s.regN (rowNextReg x.1 x.2))) then
    (s.settlePend R.BR_STRETCH (R.BR_STRETCH + 1) l).refreshLimits
  else s

/-- L_r of a re-admitted channel is given up once every enabled row has fired it (R195). -/
def State.settleReadmit (s : State) : State :=
  allHc.foldl (fun s h =>
    match (s.hc h).lr with
    | some v =>
      if s.hcState h = 2 ∧ s.enabledRows.all (fun x => lineLt v (s.rowNext x)) then s.setHc h { s.hc h with lr := none } else s
    | none => s) s

/-- Row `r` of channel `h` reaches the fire time of line `l` (R207, R269): the fire time passes to a channel that fires,
unless the line is blank. -/
def State.rowFired (s : State) (h r l : Nat) : State :=
  let s := if s.hcState h = 0 then s else s.keepwetRow h r
  let s := if s.hcState h = 1 && s.hcFires h then s.setHcState h 2 else s
  let s := if s.hcFires h && !s.blankLine l then
      s.setRow h r { s.row h r with due := (s.row h r).due ++ [(l, s.now)] } else s
  let s := (s.noteUnfit h l).noteBand h r l
  let s := s.setReg (rowNextReg h r) (BitVec.ofNat 32 (lineAdd l 1))
  let s := if s.pend.any (fun p => p.addr == rowReg h r) then
      (s.settlePend (rowReg h r) (rowReg h r + 1) l).refreshLimits.refreshDatum else s
  ((s.settleStretch l).noteLead h r).settleReadmit.endPages.showSnap

/-- ROW_FIRE (R269, R270): φmax has reached the fire position of the row's next line; while ENC0 runs backward the line is
held. -/
def execRowFire (h : Fin 24) (row : Fin 2) (s : State) : Host.Outcome State Fault Refusal :=
  .next <|
    let l := s.regN (rowNextReg h row)
    if !s.running ∨ s.scanPaced h ∨ !(s.rowsOf h).contains row.val ∨ s.phimaxNow < s.firePos h row l * 65536 then s
    else if s.enc0Back then s.setBit R.BR_STAT F.BR_STAT_DIRINH true
    else
      let s := if s.datum = (h.val, row.val) then s.datumFire l else s
      s.rowFired h row l

/-! ## Limits on settings -/

/-- The line delays of a row in force or pending (R167), `d` in place of the one in force where given. -/
def State.rowDelays (s : State) (h r : Nat) (d : Option Nat) : List Nat :=
  let a := rowReg h r
  d.getD (s.rowDelay h r) :: ((queueOf s.pend).filter (fun p => p.addr == a && p.lo == 0)).map (·.value)

/-- R167 holds in hamlet `k` with a lead and changed line delays: lead + (d_max − d_min) + 4 ≤ DEPTH. -/
def State.depthHolds (s : State) (k lead : Nat) (new : Nat → Nat → Option Nat) : Bool :=
  let hs := ((List.range 6).map (fun i => 6 * k + i)).filter (fun h => s.hcState h != 0 && !s.scanPaced h)
  let ds := hs.flatMap (fun h => (s.rowsOf h).flatMap (fun r => s.rowDelays h r (new h r)))
  let spread := match ds with
    | [] => 0
    | d :: t => t.foldl max d - t.foldl min d
  decide (lead + spread + 4 ≤ s.fld (R.WEAVER_LVLBUF k) F.WEAVER_LVLBUF_DEPTH)

/-- The leads in force or pending. -/
def State.leads (s : State) : List Nat :=
  s.lead :: ((queueOf s.pend).filter (fun p => p.addr == R.HAM_LEAD 0)).map (·.value)

/-- The hamlets in which R167 would break. -/
def State.depthBroken (s : State) (leads : List Nat) (new : Nat → Nat → Option Nat) : List Nat :=
  (List.range 4).filter (fun k => leads.any (fun l => !s.depthHolds k l new))

/-- WEAVER_EVT.DEPTH of hamlets (R167). -/
def State.setDepthEvt (s : State) (l : List Nat) : State :=
  l.foldl (fun s k => s.setBit (R.WEAVER_EVT k) F.WEAVER_EVT_DEPTH true) s

/-! ## Register writes -/

/-- A write is refused by R274: BR_EVT.CFGREF, and the refusal of R475. -/
def State.brRefuse (s : State) (r : Requester) (cause : Nat) : State :=
  (s.setBit R.BR_EVT F.BR_EVT_CFGREF true).refuse r cause

/-- A page context is armed or printing. -/
def State.pagesOpen (s : State) : Bool := s.pages.any (fun e => e.2.state == 2 || e.2.state == 3)

/-- The ratio that the firmware has derived is written when EN is set (R408); a NUM that exceeds 32 bits saturates, and
R261 refuses it. -/
def State.applyRatio (s : State) : State :=
  match s.eth.ratio with
  | some (n, d) =>
    let s := (s.setReg R.BR_NUM (BitVec.ofNat 32 (min n 0xFFFFFFFF))).setReg R.BR_DEN (BitVec.ofNat 32 d)
    { s with eth := { s.eth with ratio := none } }
  | none => s

/-- The loop may be enabled (R261). -/
def State.ratioOk (s : State) : Bool :=
  let n := s.regN R.BR_NUM
  let d := s.regN R.BR_DEN
  n != 0 && d != 0 && decide (n ≤ 4 * d)

/-- A write of BR_CTRL (R261, R263, R271, R274, R417). -/
def State.brCtrlWrite (s : State) (r : Requester) (v : Word) : State :=
  let old := s.reg R.BR_CTRL
  let en0 := getField F.BR_CTRL_EN old == 1
  let run0 := getField F.BR_CTRL_RUN old == 1
  let en1 := getField F.BR_CTRL_EN v == 1
  let run1 := getField F.BR_CTRL_RUN v == 1
  let only := getField F.BR_CTRL_STRETCHONLY v
  if run0 && (en0 != en1 || only != getField F.BR_CTRL_STRETCHONLY old) then s.brRefuse r 4
  else if run0 && !run1 && s.pagesOpen then s.brRefuse r 4
  else
    let s1 := if en1 && !en0 then s.applyRatio else s
    if en1 && !en0 && !s1.ratioOk then s.brRefuse r 5
    else if run1 && !run0 && (!en1 || (s.power != 2 && s.power != 3)) then s.brRefuse r 4
    else
      let s := (s1.setFld R.BR_CTRL F.BR_CTRL_STRETCHONLY only).setBit R.BR_CTRL F.BR_CTRL_EN en1
      let s :=
        if en1 && !en0 then
          let p := s.wOf s.enc0Pos
          let s := { s.drawn with br := { s.br with phi := p, phi0 := p, phimax := p, updAt := s.now, v := 0, lockRun := 0 } }
          (s.setLoopState 1).judgeLoop
        else if en0 && !en1 then ((s.setPhi s.phiNow).setLoopState 0).showRate.drawn
        else s
      let s := if run1 && !run0 then s.startGrid else if run0 && !run1 then s.stopGrid else s
      s.written r

/-- LOOP_ENABLE (R261). -/
def execLoopEnable (r : Requester) (v : Word) (s : State) : Host.Outcome State Fault Refusal :=
  .next (if getField F.BR_CTRL_EN v = 1 then s.brCtrlWrite r v else s)

/-- LOOP_DISABLE (R263). -/
def execLoopDisable (r : Requester) (v : Word) (s : State) : Host.Outcome State Fault Refusal :=
  .next (if getField F.BR_CTRL_EN v = 0 then s.brCtrlWrite r v else s)

/-- RUN_START (R271). -/
def execRunStart (r : Requester) (v : Word) (s : State) : Host.Outcome State Fault Refusal :=
  .next (if getField F.BR_CTRL_RUN v = 1 then s.brCtrlWrite r v else s)

/-- RUN_STOP (R271). -/
def execRunStop (r : Requester) (v : Word) (s : State) : Host.Outcome State Fault Refusal :=
  .next (if getField F.BR_CTRL_RUN v = 0 then s.brCtrlWrite r v else s)

/-- A plain write of another register of Bellringer (R262, R274, R284). -/
def State.brWrite (s : State) (r : Requester) (a : Nat) (v : Word) : State :=
  if a = R.BR_CTRL then s.brCtrlWrite r v
  else if a = R.BR_EVT ∨ a = R.BR_EVT_EN then (s.writeByCodes a v).written r
  else if s.bit R.BR_CTRL F.BR_CTRL_RUN then s.brRefuse r 4
  else if a = R.BR_LINESTART ∧ v = 0xFFFFFFFF#32 then s.brRefuse r 5
  else if s.bit R.BR_CTRL F.BR_CTRL_EN ∧ (a = R.BR_NUM ∨ a = R.BR_DEN ∨ a = R.BR_ORG_LO ∨ a = R.BR_ORG_HI) then s.written r
  else ((s.writeByCodes a v).refreshLimits).written r

/-- A plain write of BR_ROWU or BR_ROWD (R167, R202, R274, R285). -/
def State.rowRegWrite (s : State) (r : Requester) (h row : Nat) (v : Word) : State :=
  if s.bit R.BR_CTRL F.BR_CTRL_RUN then s.brRefuse r 4
  else if s.hcState h = 2 ∨ s.hcState h = 3 then s.refuse r 4
  else
    let d := getField F.BR_ROWU_DELAY v
    let broken := s.depthBroken s.leads (fun h' r' => if h' = h ∧ r' = row then some d else none)
    if broken.contains (h / 6) then (s.setDepthEvt broken).refuse r 5
    else ((s.writeByCodes (rowReg h row) v).refreshLimits.refreshDatum).written r

/-- A plain write of HAM_LEAD of any hamlet (R167, R291): it writes all four copies. -/
def State.leadWrite (s : State) (r : Requester) (v : Word) : State :=
  let l := getField F.HAM_LEAD_LEAD v
  if s.bit R.BR_CTRL F.BR_CTRL_RUN then s.refuse r 4
  else if l < 8 ∨ 757 < l then s.refuse r 5
  else
    let broken := s.depthBroken [l] (fun _ _ => none)
    if broken.isEmpty then
      ((List.range 4).foldl (fun s k => s.setFld (R.HAM_LEAD k) F.HAM_LEAD_LEAD l) s).written r
    else (s.setDepthEvt broken).refuse r 5

end Sys2Proof.Machine
end

