-- ==== Sys2Proof/Machine/Cal.lean ====
section
/-! DEFINITION. Trim and calibration (R338 to R351): the sense ADC and its priorities, temperature readings, path
calibration, calibration cycles and slots, and the steps of the trims. -/

namespace Sys2Proof.Machine

/-! ## Trims -/

/-- Targets of the trims of channel `h` (R348, R349): a change restarts the count of step points, and a channel that
neither prints nor warms takes them at once. -/
def State.setTrimTarget (s : State) (h : Nat) (w : Word) : State :=
  let a := R.CAL_HCh_TRIM h
  let changed := w != s.reg a
  let s := s.setReg a w
  if s.hcState h = 2 ∨ s.hcState h = 3 then
    let s := s.setBit (R.CAL_HCh_STAT h) F.CAL_HCh_STAT_STEPPING (w != s.reg (R.CAL_HCh_NOW h))
    if changed then { s with cal := { s.cal with trims := sset (fun _ => {}) s.cal.trims h {} } } else s
  else s.trimAtOnce h

/-- A write of `v` to CAL_HCh_TRIM (R349). -/
def State.trimWrite (s : State) (h : Nat) (v : Word) : State :=
  let a := R.CAL_HCh_TRIM h
  let ofs := getField F.CAL_HCh_TRIM_OFS v
  let gain := getField F.CAL_HCh_TRIM_GAIN v
  s.setTrimTarget h (putField F.CAL_HCh_TRIM_GAIN (putField F.CAL_HCh_TRIM_OFS (s.reg a) ofs) gain)

/-- TRIM_TARGET_WRITE (R349). -/
def execTrimTargetWrite (r : Requester) (h : Fin 24) (v : Word) (s : State) : Host.Outcome State Fault Refusal :=
  .next ((s.trimWrite h v).written r)

/-- The reference row of channel `h`: the row with the smaller line delay, row U on a tie (R348). -/
def State.refRowOf (s : State) (h : Nat) : Nat := if s.twoRows h && s.rowDelay h 1 < s.rowDelay h 0 then 1 else 0

/-- The time to the next fire event of channel `h` at the present line rate is at least `t` steps of the grid (R283, R348);
true where the web does not run forward. -/
def State.noFireWithin (s : State) (h t : Nat) : Bool :=
  let (n, d) := s.lineRate
  !s.running || s.scanPaced h || decide (n ≤ 0) ||
    (s.rowsOf h).all (fun r => decide ((t : Int) * n * (64 * 65536) <
      (s.firePos h r (s.regN (rowNextReg h r)) * 65536 - s.phiNow) * d * 800000000))

/-- No comb run of the head is running and no fire time of it falls within 150 ns (R348). -/
def State.trimFree (s : State) (h : Nat) : Bool :=
  !s.combRuns h 0 && !s.combRuns h 1 && s.noFireWithin h 120 &&
    ((s.row h 0).due ++ (s.row h 1).due).all (fun e => decide (s.now + 120 < e.2))

/-- A trim field one LSB nearer to its target. -/
def towards (now target : Nat) : Nat := if now < target then now + 1 else if target < now then now - 1 else now

/-- TRIM_STEP (R348). -/
def execTrimStep (h : Fin 24) (s : State) : Host.Outcome State Fault Refusal :=
  .next <|
    let t := sget (fun _ => ({} : TrimSt)) s.cal.trims h
    let a := R.CAL_HCh_NOW h
    let l := lineSub (s.regN (rowNextReg h (s.refRowOf h))) 1
    let steps := max 1 (s.fld R.CAL_SLOT F.CAL_SLOT_STEPLINES)
    let point := match t.due, t.first with
      | some l, _ => some l
      | none, none => some l
      | none, some f => if l ≠ s.regN (R.CAL_HCh_LASTLINE h) ∧ lineDist l f % steps = 0 then some l else none
    match point with
    | none => s
    | some l =>
      if !(s.hcState h == 2 || s.hcState h == 3) || s.reg a == s.reg (R.CAL_HCh_TRIM h) then s
      else if !s.trimFree h then
        { s with cal := { s.cal with trims := sset (fun _ => {}) s.cal.trims h { t with due := some l } } }
      else
        let step := fun (s : State) f => s.setFld a f (towards (s.fld a f) (s.fld (R.CAL_HCh_TRIM h) f))
        let s := step (step s F.CAL_HCh_TRIM_OFS) F.CAL_HCh_TRIM_GAIN
        let s := s.setReg (R.CAL_HCh_LASTLINE h) (BitVec.ofNat 32 l)
        let s := s.setBit (R.CAL_HCh_STAT h) F.CAL_HCh_STAT_STEPPING (s.reg a != s.reg (R.CAL_HCh_TRIM h))
        { s with cal := { s.cal with trims := sset (fun _ => {}) s.cal.trims h ⟨some (t.first.getD l), none⟩ } }

/-! ## Cycles -/

/-- A plausible result of a channel's points (R347): the changes of GAIN and OFS before the dead band. -/
def trimChange (lo hi : List Nat) (vsofs t0 t1 c0 c1 : Int) : Option (Int × Int) :=
  let n : Int := (lo.length : Nat)
  let a := ((lo.sum : Nat) : Int) - n * vsofs
  let b := ((hi.sum : Nat) : Int) - n * vsofs
  let dt := t1 - t0
  let off := (a * dt - (b - a) * t0) * (c1 - c0)
  if (lo ++ hi).any (fun v => v == 0 || v == 65535) || decide (dt ≤ 0 ∨ c1 ≤ c0) then none
  else if n * dt < 16 * ((b - a - n * dt).natAbs : Int) ∨ 128 * (n * dt * dt) < (off.natAbs : Int) then none
  else some (roundDiv ((b - a - n * dt) * 16384) (n * dt), roundDiv (4 * off) (n * dt * dt))

/-- A target moved by a change: the dead band, MAXSTEP and the range; whether the range clamped it (R347). -/
def trimTarget (target : Nat) (d maxstep : Int) : Nat × Bool :=
  let d := if d.natAbs ≤ 1 then 0 else clampInt (-maxstep) maxstep d
  let t := (target : Int) - d
  ((clampInt 0 1023 t).toNat, decide (t < 0 ∨ 1023 < t))

/-- The end of the points of channel `h` (R347). -/
def State.applyPoints (s : State) (h : Nat) : State :=
  let n : Int := (s.cal.lo.length : Nat)
  let ofs := sext 16 (s.fld (R.CAL_HCh_PATH h) F.CAL_HCh_PATH_VSOFS)
  let f := fun a g => ((s.fld a g : Nat) : Int)
  let r := trimChange s.cal.lo s.cal.hi ofs (f (R.CAL_HCh_TGT h) F.CAL_HCh_TGT_TGTLO)
    (f (R.CAL_HCh_TGT h) F.CAL_HCh_TGT_TGTHI) (f (R.CAL_HCh_PTS h) F.CAL_HCh_PTS_CODELO)
    (f (R.CAL_HCh_PTS h) F.CAL_HCh_PTS_CODEHI)
  let mean := fun (l : List Nat) k => quot (((l.sum : Nat) : Int) - n * ofs) n k
  let k := s.freeCtr
  let s := s.setFld (R.CAL_HCh_MEAS h) F.CAL_HCh_MEAS_MLO (fitU 16 (mean s.cal.lo k) (k + 1))
  let s := s.setFld (R.CAL_HCh_MEAS h) F.CAL_HCh_MEAS_MHI (fitU 16 (mean s.cal.hi (k + 2)) (k + 3))
  let s := s.drawnN 4
  let st := R.CAL_HCh_STAT h
  match r with
  | none =>
    let s := (s.setBit st F.CAL_HCh_STAT_IMPLAUS true).setBit R.CAL_EVT F.CAL_EVT_IMPLAUS true
    (s.setBit st F.CAL_HCh_STAT_RANGE false).count R.CAL_CNT_IMPLAUS F.CAL_CNT_IMPLAUS_COUNT 1
  | some (dg, d) =>
    let m := ((s.fld R.CAL_SCHED F.CAL_SCHED_MAXSTEP : Nat) : Int)
    let a := R.CAL_HCh_TRIM h
    let (gain, cg) := trimTarget (s.fld a F.CAL_HCh_TRIM_GAIN) dg m
    let (off, co) := trimTarget (s.fld a F.CAL_HCh_TRIM_OFS) d m
    let s := (s.setBit st F.CAL_HCh_STAT_IMPLAUS false).setBit st F.CAL_HCh_STAT_RANGE (cg || co)
    let s := if cg || co then s.setBit R.CAL_EVT F.CAL_EVT_RANGE true else s
    if s.bit R.CAL_CTRL F.CAL_CTRL_TRIMEN then
      s.setTrimTarget h (putField F.CAL_HCh_TRIM_GAIN (putField F.CAL_HCh_TRIM_OFS (s.reg a) off) gain)
    else s

/-- The cycle turns to the next of its channels that is not Disabled, or completes (R343, R345). -/
def State.visitNext (s : State) : State :=
  let l := s.cal.left.dropWhile (fun h => s.hcState h == 0)
  let s := { s with cal := { s.cal with left := l, lo := [], hi := [] } }
  match l with
  | h :: _ => (s.setFld R.CAL_STAT F.CAL_STAT_CURHC h).setBit (R.CAL_HCh_STAT h) F.CAL_HCh_STAT_BUSY true
  | [] => (s.setBit R.CAL_STAT F.CAL_STAT_BUSY false).setBit R.CAL_EVT F.CAL_EVT_CYCLE true

/-- A cycle starts over the channels of CAL_HCMASK (R345). -/
def State.startCycle (s : State) : State :=
  let s := s.setBit R.CAL_STAT F.CAL_STAT_BUSY true
  State.visitNext { s with cal := { s.cal with left := bitList 24 (s.fld R.CAL_HCMASK F.CAL_HCMASK_HC) } }

/-- The current channel is done with: the next is visited; where the cycle completes behind its period, the next cycle
starts at its end (R295, R345). -/
def State.channelDone (s : State) : State :=
  let s := match s.cal.left with
    | h :: _ => s.setBit (R.CAL_HCh_STAT h) F.CAL_HCh_STAT_BUSY false
    | [] => s
  let s := State.visitNext { s with cal := { s.cal with left := s.cal.left.tail } }
  let lag := s.fld R.CAL_STAT F.CAL_STAT_LAG
  if !s.cal.left.isEmpty then s
  else if lag = 0 then { s with cal := { s.cal with lagged := false } }
  else (s.setFld R.CAL_STAT F.CAL_STAT_LAG (lag - 1)).startCycle

/-- A period of `p` steps has passed since its last nominal start, or none began before. -/
def periodOver (last : Option Nat) (p now : Nat) : Bool := (last.map (fun t => decide (t + p ≤ now))).getD true

/-- The nominal start of the period that begins now: one period after the last, or now where more than one passed. -/
def periodStart (last : Option Nat) (p now : Nat) : Nat :=
  (last.map (fun t => if now < t + 2 * p then t + p else now)).getD now

/-- A period begins (R295, R345): a cycle starts, or the one that still runs lags; the fourth period in a row that it
lags makes an entry. -/
def State.beginPeriod (s : State) : State :=
  if !s.bit R.CAL_STAT F.CAL_STAT_BUSY then s.startCycle
  else
    let s := s.count R.CAL_STAT F.CAL_STAT_LAG 1
    if s.fld R.CAL_STAT F.CAL_STAT_LAG < 4 ∨ s.cal.lagged then s
    else
      let s := { s with cal := { s.cal with lagged := true } }
      s.logFault { level := 2, kind := 0, unit := s.fld R.CAL_STAT F.CAL_STAT_CURHC / 6, src := 5, cause := 8 }

/-- CALIBRATION_CYCLE (R295, R345): every PERIOD ms. -/
def execCalibrationCycle (s : State) : Host.Outcome State Fault Refusal :=
  .next <|
    let p := ms (s.fld R.CAL_SCHED F.CAL_SCHED_PERIOD)
    if !s.bit R.CAL_CTRL F.CAL_CTRL_EN || !periodOver s.cal.cycleAt p s.now then s
    else State.beginPeriod { s with cal := { s.cal with cycleAt := some (periodStart s.cal.cycleAt p s.now) } }

/-! ## Slots -/

/-- The length of a slot in steps of the grid (R343). -/
def State.slotTicks (s : State) : Nat :=
  8 * s.fld R.CAL_SLOT F.CAL_SLOT_SETTLE + 640 + 8 * s.fld R.CAL_SLOT F.CAL_SLOT_RECOV

/-- Channel `h` grants a slot (R219, R283, R343). -/
def State.grantsSlot (s : State) (h : Nat) : Bool :=
  let st := s.hcState h
  let limited := s.bit R.BR_CTRL F.BR_CTRL_RUN && (st == 2 || st == 3)
  st != 0 && !s.combRuns h 0 && !s.combRuns h 1 && !(match s.cal.path with
    | some (q, _) => q == 2 * h + 1
    | none => false) &&
    (!limited || (decide (2 ≤ s.loopState) && s.noFireWithin h (s.slotTicks + 800)))

/-- CALIBRATION_SLOT (R343, R345, R347): a slot begins, or ends after SETTLE, its conversion and RECOV. -/
def execCalibrationSlot (ending : Bool) (s : State) : Host.Outcome State Fault Refusal :=
  .next <|
    match ending, s.cal.slot, s.cal.left with
    | false, none, h :: _ =>
      if !s.bit R.CAL_CTRL F.CAL_CTRL_EN then s
      else if s.hcState h = 0 then s.channelDone
      else if s.grantsSlot h then
        { s with cal := { s.cal with slot := some ⟨h, decide (s.cal.hi.length < s.cal.lo.length), none, s.now⟩ } }
      else s
    | true, some x, _ =>
      if s.now < x.since + s.slotTicks then s else
      let s := { s with cal := { s.cal with slot := none } }
      match x.value with
      | none => s
      | some v =>
        let s := s.count R.CAL_CNT_SLOTS F.CAL_CNT_SLOTS_COUNT 1
        let s := { s with cal := { s.cal with
          lo := if x.high then s.cal.lo else s.cal.lo ++ [v], hi := if x.high then s.cal.hi ++ [v] else s.cal.hi } }
        let n := max 1 (s.fld R.CAL_SCHED F.CAL_SCHED_NPT)
        if n ≤ s.cal.lo.length ∧ n ≤ s.cal.hi.length then (s.applyPoints x.hc).channelDone else s
    | _, _, _ => s

/-! ## The sense ADC -/

/-- The calibration of the next queued sense path begins (R342): a TS path's reading is held and marked stale, its
partial reading discarded. -/
def State.nextPath (s : State) : State :=
  match s.cal.paths with
  | [] => { s with cal := { s.cal with path := none } }
  | q :: t =>
    let s := { s with cal := { s.cal with paths := t, path := some (q, 0, 0) } }
    let h := q / 2
    if q % 2 = 1 then s.setBit (R.CAL_HCh_STAT h) F.CAL_HCh_STAT_VSCAL true
    else
      let s := { s with cal := { s.cal with ts := s.cal.ts.filter (fun e => e.1 != h) } }
      (s.setBit (R.CAL_HCh_STAT h) F.CAL_HCh_STAT_TSCAL true).setFld (R.HC_TEMP h) F.HC_TEMP_STALE 1

/-- PATH_CALIBRATION (R342): every PCALPER seconds the paths of the enabled channels are queued in turn. -/
def execPathCalibration (s : State) : Host.Outcome State Fault Refusal :=
  .next <|
    let p := ms (1000 * s.fld R.CAL_TSCFG F.CAL_TSCFG_PCALPER)
    if s.cal.path.isSome || !periodOver s.cal.pathAt p s.now then s
    else
      let s := { s with cal := { s.cal with pathAt := some (periodStart s.cal.pathAt p s.now) } }
      let hs := allHc.filter (fun h => s.bit (R.HC_CTRL h) F.HC_CTRL_EN)
      State.nextPath { s with cal := { s.cal with paths := hs.flatMap (fun h => [2 * h, 2 * h + 1]) } }

/-- A conversion of the path under calibration; after PCALN its mean is the path's offset (R342). -/
def State.pathConversion (s : State) (q n sum code : Nat) : State :=
  let n := n + 1
  let sum := sum + code
  if n < max 1 (s.fld R.CAL_TSCFG F.CAL_TSCFG_PCALN) then
    { s with cal := { s.cal with path := some (q, n, sum) } }
  else
    let h := q / 2
    let v := fitS 16 (quot (sum : Int) (n : Int) s.freeCtr) (s.freeCtr + 1)
    let s := s.drawnN 2
    let s := if q % 2 = 1 then
        (s.setFld (R.CAL_HCh_PATH h) F.CAL_HCh_PATH_VSOFS v).setBit (R.CAL_HCh_STAT h) F.CAL_HCh_STAT_VSCAL false
      else (s.setFld (R.CAL_HCh_PATH h) F.CAL_HCh_PATH_TSOFS v).setBit (R.CAL_HCh_STAT h) F.CAL_HCh_STAT_TSCAL false
    s.nextPath

/-- The channel that the temperature scan serves next: enabled, its TS path not under calibration (R339, R342). -/
def State.nextTs (s : State) : Option Nat :=
  let open_ := allHc.filter (fun h =>
    s.bit (R.HC_CTRL h) F.HC_CTRL_EN && !s.bit (R.CAL_HCh_STAT h) F.CAL_HCh_STAT_TSCAL)
  match open_.find? (fun h => decide (s.cal.lastTs < h)) with
  | some h => some h
  | none => open_.head?

/-- A conversion of HDnn_TS; TAVG of them make a reading (R341). -/
def State.tsConversion (s : State) (h code : Nat) : State :=
  let (n, sum) := match s.cal.ts.find? (fun e => e.1 == h) with
    | some (_, n, sum) => (n + 1, sum + code)
    | none => (1, code)
  let rest := s.cal.ts.filter (fun e => e.1 != h)
  if n < max 1 (s.fld R.CAL_TSCFG F.CAL_TSCFG_TAVG) then
    { s with cal := { s.cal with lastTs := h, ts := (h, n, sum) :: rest } }
  else
    let mean := quot (sum : Int) (n : Int) s.freeCtr - sext 16 (s.fld (R.CAL_HCh_PATH h) F.CAL_HCh_PATH_TSOFS)
    let t := Int.fdiv ((mean - (s.fld R.CAL_TSLIN F.CAL_TSLIN_TSOFF : Nat)) *
      sext 16 (s.fld R.CAL_TSLIN F.CAL_TSLIN_TSSLOPE)) 65536
    let s := { s with cal := { s.cal with lastTs := h, ts := rest } }
    s.drawn.headReading h (clampInt (-32768) 32767 t)

/-- The slot whose conversion period of 0.8 µs, which begins SETTLE after the DAC left REST, ends now (R343). -/
def State.slotDue (s : State) : Option CalSlot :=
  s.cal.slot.filter (fun x => x.value.isNone &&
    decide (x.since + 8 * s.fld R.CAL_SLOT F.CAL_SLOT_SETTLE + 640 ≤ s.now))

/-- ADC_CONVERSION (R338, R339): a conversion period of 0.8 µs ends, of a calibration slot first, then of a path calibration,
then of the temperature scan. -/
def execAdcConversion (code : BitVec 16) (s : State) : Host.Outcome State Fault Refusal :=
  .next <|
    if !periodOver s.cal.convAt 640 s.now then s
    else
    let s := { s with cal := { s.cal with convAt := some s.now } }
    match s.slotDue, s.cal.path, s.nextTs with
    | some x, _, _ => { s with cal := { s.cal with slot := some { x with value := some code.toNat } } }
    | _, some (q, n, sum), _ => s.pathConversion q n sum code.toNat
    | _, none, some h => s.tsConversion h code.toNat
    | _, none, none => s

/-- ADC_ZERO (R340): every 1 ms. -/
def execAdcZero (z : BitVec 16) (s : State) : Host.Outcome State Fault Refusal :=
  .next <|
    if !periodOver s.cal.zeroAt (ms 1) s.now then s
    else
    let s := { s with cal := { s.cal with zeroAt := some (periodStart s.cal.zeroAt (ms 1) s.now) } }
    let l := (sext 16 z.toNat :: s.cal.zeros).take 16
    let sum := l.sum
    let s := { s with cal := { s.cal with zeros := l } }
    let s := (s.setFld R.CAL_ADC F.CAL_ADC_ZERO (wrap 16 (quot sum ((l.length : Nat) : Int) s.freeCtr))).drawn
    let t := sext 8 (s.fld R.CAL_ADC F.CAL_ADC_OFSTRIM)
    if l.length < 16 ∨ (-16 ≤ sum ∧ sum ≤ 16) then s
    else
      let t' := if 0 < sum then t - 1 else t + 1
      if t' < -128 ∨ 127 < t' then s.setBit R.CAL_EVT F.CAL_EVT_ADCRANGE true
      else s.setFld R.CAL_ADC F.CAL_ADC_OFSTRIM (wrap 8 t')

end Sys2Proof.Machine
end

