-- ==== Sys2Proof/Machine/Schedule.lean ====
section
/-! DEFINITION. The line schedule of the hamlets: preparation slots, screening passes, skipped and Lost lines, recomputes
and take deadlines (R286 to R294). -/

namespace Sys2Proof.Machine

/-! ## Slots -/

/-- The line whose datum fire opens the slot of line `l` in hamlet `k`, for a lead (R286): l − λ + d_k − d_0, and not before
the preparation of `l` begins on the datum row (R160). A hamlet without a row that counts takes d_k as d_0. -/
def State.slotLine (s : State) (k lead l : Nat) : Nat :=
  let d0 := s.rowDelay s.datum.1 s.datum.2
  let dk := match s.delaySpan k with
    | some (_, m) => max m d0
    | none => d0
  lineSub (lineAdd l dk) (lead + d0)

/-- The slot of line `l` opens at RUN itself: its opening line comes before the datum row's first fire event (R287). -/
def State.slotAtRun (s : State) (k lead l : Nat) : Bool := lineLt (s.slotLine k lead l) s.br.firstLine

/-- The slot of line `l` in hamlet `k` has opened. -/
def State.slotOpened (s : State) (k lead l : Nat) : Bool :=
  s.slotAtRun k lead l || lineLe (s.slotLine k lead l) s.lastFired

/-- Now is after the opening of the slot of line `l`, which has opened. -/
def State.afterSlot (s : State) (k lead l : Nat) : Bool :=
  match s.br.datumFires.find? (fun e => e.1 == s.slotLine k lead l) with
  | some e => decide (e.2 < s.now)
  | none => true

/-! ## Skipped and Lost lines -/

/-- The rows that R288 judges for hamlet `k`: those in service of its head channels, else those of its enabled ones. -/
def State.judgedRows (s : State) (k : Nat) : List (Nat × Nat) :=
  let l := s.serviceRows.filter (fun x => x.1 / 6 == k)
  if l.isEmpty then s.enabledRows.filter (fun x => x.1 / 6 == k) else l

/-- Every judged row has passed its take deadline of line `l`, or has taken it (R288). -/
def State.mustSkip (s : State) (k l : Nat) : Bool :=
  !(s.judgedRows k).isEmpty && (s.judgedRows k).all (fun x => lineLt l (s.row x.1 x.2).nextTake)

/-- Line `l` becomes Lost in hamlet `k` (R290): its counter, event, entry and page. -/
def State.markLost (s : State) (k l : Nat) : State :=
  let s := s.setHam k { s.ham k with
    lost := (l :: (s.ham k).lost).take 4096, redo := (s.ham k).redo.filter (· != l)
    next := if (s.ham k).next = l then lineAdd l 1 else (s.ham k).next }
  let s := (s.count (R.HAM_CNT_LOST k) F.HAM_CNT_LOST_COUNT 1).setBit (R.HAM_EVT k) F.HAM_EVT_LOST true
  (s.logFault { level := 2, kind := 1, unit := k, src := 5, cause := 5 }).flagLine l 4

/-- The next line of hamlet `k` is skipped (R288). -/
def State.skipLine (s : State) (k : Nat) : State :=
  let s := s.setHam k { s.ham k with next := lineAdd (s.ham k).next 1 }
  (s.count (R.HAM_CNT_SKIP k) F.HAM_CNT_SKIP_COUNT 1).setBit (R.HAM_EVT k) F.HAM_EVT_SKIP true

/-- Lines of hamlet `k` that are not prepared at all pass by: Lost lines, and lines that it skips once their slots have
opened. -/
def State.passBy (k : Nat) : Nat → State → State
  | 0, s => s
  | fuel + 1, s =>
    let l := oldestLine (s.ham k)
    let again := !(s.ham k).redo.isEmpty
    if !again && !s.slotOpened k s.lead l then s
    else if !again && s.mustSkip k l then State.passBy k fuel (s.skipLine k)
    else if s.lineLost k l then State.passBy k fuel (s.markLost k l)
    else s

/-! ## Screening passes -/

/-- The inputs of line `l` are present (R286): its decoded lines are valid in hamlet `k`, and the exchange from the upper
hamlet has arrived, or its lost marker (R290). -/
def State.inputsReady (s : State) (k l : Nat) : Bool :=
  (s.linesRead l).all (fun e => (s.heldLine k e.1 e.2).isSome) &&
    (k == 3 || s.lineLost (k + 1) l ||
      (s.linesRead l).all (fun e => (s.heldLine (k + 1) e.1 e.2).isSome))

/-- The versions that the page of line `l` names are compared when hamlet `k` screens its first line (R191). -/
def State.checkVersions (s : State) (k l : Nat) : State :=
  match s.pageOfLine l with
  | none => s
  | some n =>
    let c := s.page n
    let same := fun named inForce => named == 0 || named == inForce
    if c.lfirst != l || (same c.paramVer (s.fldFor (R.WEAVER_VER0 k) F.WEAVER_VER0_PARAM l) &&
        same c.maskVer (s.fldFor (R.WEAVER_VER0 k) F.WEAVER_VER0_MASK l) &&
        same c.compVer (s.fldFor (R.WEAVER_VER1 k) F.WEAVER_VER1_COMP l)) then s
    else
      let s := (s.flagPage n 6).setBit (R.WEAVER_EVT k) F.WEAVER_EVT_VERMISM true
      s.logFault { level := 2, kind := 5, unit := k, src := 5, cause := 7 }

/-- Pending values of hamlet `k`'s Weaver settings move into force when it starts the pass of line `l` (R168); TESTRET,
which the row pass uses, once every row has started its line. -/
def State.settleHamlet (s : State) (k l : Nat) : State :=
  let due := fun p : PendVal =>
    decide (R.WEAVER_CFG k ≤ p.addr ∧ p.addr < R.WEAVER_CFG k + 0xFF00) && lineLe p.line l &&
      (p.addr != R.WEAVER_CFG k || p.lo != F.WEAVER_CFG_TESTRET.lo || s.allStarted p.line)
  let s' := (s.pend.filter due).foldl State.landField s
  { s' with pend := s.pend.filter (fun p => !due p) }

/-- The start of the pass of line `l` against its slot (R287, R291): CATCHUP, HAM_CNT_LATE and the lead that lateness is
judged by, the least since the hamlet was last on its slots. -/
def State.judgeStart (s : State) (k l : Nat) : State :=
  let behind := !s.slotAtRun k s.lead l && s.afterSlot k s.lead l
  let base := if behind then min s.lead ((s.ham k).leadBase.getD s.lead) else s.lead
  let late := !s.slotAtRun k base l && s.slotOpened k base l && s.afterSlot k base l
  let s := s.setHam k { s.ham k with leadBase := some base }
  let s := s.setBit (R.HAM_STAT k) F.HAM_STAT_CATCHUP behind
  if late then (s.count (R.HAM_CNT_LATE k) F.HAM_CNT_LATE_COUNT 1).setBit (R.HAM_EVT k) F.HAM_EVT_LATE true else s

/-- Hamlet `k` starts the pass of line `l` (R160, R287): for the first time, or again. Threshold arrays that groups named at
`l` or before bring are in their slots from then on (R9, R173). -/
def State.startPass (s : State) (k l : Nat) (first : Bool) (bad : List Nat) : State :=
  let s := (s.badNozzles bad).landArrays (fun g => lineLe g.line l)
  let s := if first then ((s.judgeStart k l).settleHamlet k l).checkVersions k l else s
  let s := if (s.ladderAt l).isSome && (s.pageOfLine l).isSome then
      s.setBit (R.WEAVER_EVT k) F.WEAVER_EVT_TESTDROP true else s
  s.setHam k { s.ham k with pass := some { s.screenLine k l first bad with doneAt := s.now + s.coreTicks 2112 } }

/-- The hamlet works while the grid runs and no pass of it does. -/
def State.mayPrepare (s : State) (k : Nat) : Bool := s.running && (s.ham k).pass.isNone

/-- Hamlet `k` passes lines by and starts the pass that comes next, where its slot has opened and its inputs are there;
lines whose pass runs again come first (R287). -/
def State.prepareNext (s : State) (k : Nat) (bad : List Nat) : State :=
  let s := State.passBy k 4096 s
  let l := oldestLine (s.ham k)
  let first := (s.ham k).redo.isEmpty
  if (!first || s.slotOpened k s.lead l) && s.inputsReady k l then s.startPass k l first bad else s

/-- SLOT_OPEN (R287, R288). -/
def execSlotOpen (k : Fin 4) (bad : List Nat) (s : State) : Host.Outcome State Fault Refusal :=
  .next <|
    if s.mayPrepare k && (s.ham k).redo.isEmpty && s.slotOpened k s.lead (s.ham k).next then s.prepareNext k bad else s

/-- SCREENING_PASS_START (R287). -/
def execScreeningPassStart (k : Fin 4) (bad : List Nat) (s : State) : Host.Outcome State Fault Refusal :=
  .next <| if s.mayPrepare k then s.prepareNext k bad else s

/-- The reference pixels of hamlet `k` on lines L and L + 1 are written to the reference ring (R329); the sums of an even
line wait for the line after it. -/
def State.writeRefs (s : State) (k : Nat) (p : PassOut) : State :=
  if s.refLines = 0 then s
  else if p.line % 2 = 0 then s.setHam k { s.ham k with refRow := some (p.line, p.refs) }
  else
    match (s.ham k).refRow with
    | some (l, sums) =>
      if l + 1 ≠ p.line then s
      else
        let j := l / 2
        let px := (sums.zip p.refs).map (fun e => BitVec.ofNat 8 ((e.1 + e.2 + 2) / 4))
        let x := (decodedRange s.weaver.overlap k).1 / 2
        let s := s.memPost 0x27 (s.refBase + s.refStride * (j % s.refLines) + x) (px.take (s.refStride - x))
        let newer := match s.cam.refNewest with
          | some m => decide (modSub (2 ^ 31) j m < 2 ^ 30)
          | none => true
        if newer then { s with cam := { s.cam with refNewest := some j } } else s
    | none => s

/-- The pass of a line ends with its slot written and valid (R167, R290, Ready). -/
def State.lineReady (s : State) (k : Nat) (p : PassOut) : State :=
  let slot := s.slotAddr k p.line
  let s := s.setBytes slot (p.slot.take 3200)
  let x := s.ham k
  let last := match x.lastPrep with
    | some l => if lineLt l p.line then p.line else l
    | none => p.line
  let s := s.setHam k { x with
    valid := (p.line :: x.valid.filter (fun l => s.slotAddr k l != slot)).take 4096, lastPrep := some last
    toneOpen := x.toneOpen && lineLt last (s.regN (R.WEAVER_TONE_E k))
    gainOpen := x.gainOpen && lineLt last (s.regN (R.WEAVER_GAIN_E k)) }
  let s := s.setReg (R.WEAVER_SCREENED k) (BitVec.ofNat 32 last)
  (s.weaverCounts k 0 0 p.boost p.lost p.clamp).writeRefs k p

/-- SCREENING_PASS_END (R287, R196): after its 2,112 core clock cycles the slot is valid, or after a parity error the pass is
to run again. -/
def execScreeningPassEnd (k : Fin 4) (parity : Option ParityWord) (s : State) : Host.Outcome State Fault Refusal :=
  .next <|
    match (s.ham k).pass with
    | none => s
    | some p =>
      if s.now < p.doneAt then s else
      let x := s.ham k
      let s := s.setHam k { x with
        pass := none, redo := x.redo.filter (· != p.line), next := if p.first then lineAdd p.line 1 else x.next }
      let s := s.setBit (R.HAM_STAT k) F.HAM_STAT_CATCHUP false
      match parity with
      | none => s.lineReady k p
      | some .decoded => s.parityFault k 1 p.line
      | some .levelBuffer => s.parityFault k 2 p.line
      | some .table => s.parityFault k 3 p.line

/-! ## Recomputes -/

/-- Decoder `d` stands at a block boundary: enabled, not hunting, no block in progress or being recomputed (R293). -/
def State.atBoundary (s : State) (d : Nat) : Bool :=
  s.decEnabled d && (s.dec d).block.isEmpty && (s.dec d).recompute.isNone && s.decState d != 0 && s.decState d != 5

/-- The decoder of hamlet `k` that takes a recompute now: the one that first accepted the block where both stand at a
block boundary, else the one that does (R293). -/
def State.recomputeDecoder (s : State) (k first : Nat) : Option Nat :=
  match s.atBoundary (2 * k), s.atBoundary (2 * k + 1) with
  | true, true => some first
  | true, false => some (2 * k)
  | false, true => some (2 * k + 1)
  | false, false => none

/-- RECOMPUTE (R293): the next block is given to a decoder, and its DMA channel is to fetch its 28 + PAYLEN bytes outside
the ring. -/
def execRecompute (k : Fin 4) (s : State) : Host.Outcome State Fault Refusal :=
  .next <|
    match (s.ham k).jobs.find? (fun j => j.given.isNone && !j.failed) with
    | none => s
    | some j =>
      match s.recomputeDecoder k j.dec with
      | none => s
      | some d =>
        let s := s.setHam k { s.ham k with
          jobs := (s.ham k).jobs.map (fun i => if i = j then { j with given := some d } else i) }
        let s := s.setDec d { s.dec d with recompute := some [] }
        let w : Desc := { idx := recompIdx, barrier := false, int := false, linkEvt := false, len := 28 + j.entry.paylen
                          src := j.entry.addr, dst := lineBase k + 0x8000 * (d % 2), tag := 0, valid := true }
        let s := s.setCh (8 + d) { s.ch (8 + d) with recomp := some w }
        let s := (s.count (R.HAM_CNT_RECOMP k) F.HAM_CNT_RECOMP_COUNT 1).setBit (R.HAM_EVT k) F.HAM_EVT_RECOMP true
        s.setBit (R.HAM_STAT k) F.HAM_STAT_RECOMP true

/-- RECOMPUTE_FAILURE (R294): the lines of the block become Lost as their passes come. -/
def execRecomputeFailure (k : Fin 4) (s : State) : Host.Outcome State Fault Refusal :=
  .next <|
    match (s.ham k).jobs.find? (fun j => j.failed) with
    | none => s
    | some j =>
      let s := s.setHam k { s.ham k with jobs := (s.ham k).jobs.filter (fun i => i != j) }
      let s := if (s.ham k).jobs.any (fun i => i.given.isSome) then s else
        s.setBit (R.HAM_STAT k) F.HAM_STAT_RECOMP false
      (s.loseBlock k j.entry).logFault { level := 2, kind := 1, unit := k, src := 5, cause := 4 }

/-! ## Take deadlines -/

/-- TAKE_DEADLINE (R289): the next line of a row was not taken by its take deadline. -/
def execTakeDeadline (h : Fin 24) (r : Fin 2) (s : State) : Host.Outcome State Fault Refusal :=
  .next <|
    if s.running && !s.scanPaced h && s.hcState h != 0 && (s.rowsOf h).contains r.val then s.missTake h r else s

end Sys2Proof.Machine
end

