-- ==== Sys2Proof/Machine/Motion.lean ====
section
/-! DEFINITION. The axes (R352 to R377): profiles, commands, homing, limits, gearing, the linked bar-lift ends, drive
currents and faults. Positions inside a profile count in 1/163,840,000 of 1/256 step and velocities in 2^-16 of
1/16 step/s, so that one update of 25 µs moves an axis by its velocity. -/

namespace Sys2Proof.Machine

/-! ## Cosine -/

/-- The terms of the cosine series: `t` is the last term and `a2` the square of the angle, both over 2^60. -/
def cosTerms (a2 : Int) : Nat → Nat → Int → Int
  | 0, _, _ => 0
  | n + 1, k, t => t + cosTerms a2 n (k + 2) (-(t * a2 / 2 ^ 60 / ((k + 1) * (k + 2) : Nat)))

/-- cos of `f`/2^40 of a turn, over 2^40. -/
def cosTurn (f : Int) : Int :=
  let g := f % 2 ^ 40
  let g := if 2 ^ 39 < g then 2 ^ 40 - g else g
  let quarter : Int := 2 ^ 38
  let a := fun (g : Int) => 2 * piNum * g * 2 ^ 20 / 10 ^ 20
  let c := fun (g : Int) => cosTerms (a g * a g / 2 ^ 60) 14 0 (2 ^ 60) / 2 ^ 20
  if g ≤ quarter then c g else -c (2 ^ 39 - g)

/-- sin of `f`/2^40 of a turn, over 2^40. -/
def sinTurn (f : Int) : Int := cosTurn (f - 2 ^ 38)

/-- The largest whole number whose square is at most `n`, below 2^48. -/
def isqrt (n : Nat) : Nat :=
  (List.range 48).foldl (fun r i => let b := r + 2 ^ (47 - i); if b * b ≤ n then b else r) 0

/-! ## Segments -/

/-- One unit of P, 1/256 step, in profile units. -/
def unitP : Int := 163840000

/-- k of a transition shape as a fraction (R358): 2, 1.875, and 1 for a linear segment. -/
def shapeK (shape : Nat) : Nat × Nat := if shape = 0 then (2, 1) else if shape = 1 then (15, 8) else (1, 1)

/-- The duration of a transition over a change of velocity at an acceleration in steps/s², in 2^-16 update. -/
def segDur (shape : Nat) (dv : Int) (a : Nat) : Nat :=
  (shapeK shape).1 * dv.natAbs * 2500 / ((shapeK shape).2 * max 1 a)

/-- The distance that a segment covers. -/
def segDist (v0 v1 : Int) (dur : Nat) : Int := (v0 + v1) * (dur : Int) / 131072

/-- A transition from `x`; an acceleration of 0 never changes the velocity. -/
def transition (shape : Nat) (x v0 v1 : Int) (a : Nat) : List Seg :=
  if v0 = v1 ∨ a = 0 then [] else [⟨x, v0, v1, segDur shape (v1 - v0) a, shape⟩]

/-- The position at the end of a list of segments that starts at `x`. -/
def planEnd (x : Int) (l : List Seg) : Int := l.foldl (fun _ g => g.x + segDist g.v0 g.v1 g.dur) x

/-- Position and velocity at time `t` in a segment (R358, R361, R366). -/
def evalSeg (g : Seg) (t : Nat) : Int × Int :=
  let s : Int := (t : Int) * 2 ^ 40 / ((max 1 g.dur : Nat) : Int)
  let dv := g.v1 - g.v0
  let m := fun (a b : Int) => a * b / 2 ^ 40
  let s2 := m s s
  let s3 := m s2 s
  let (fv, fx) : Int × Int :=
    if g.shape = 0 then
      (s - sinTurn s * 10 ^ 20 / (2 * piNum), s2 / 2 + (cosTurn s - 2 ^ 40) * 10 ^ 40 / (4 * piNum * piNum))
    else if g.shape = 1 then
      (10 * s3 - 15 * m s3 s + 6 * m s3 s2, (5 * m s3 s - 6 * m s3 s2 + 2 * m s3 s3) / 2)
    else (s, s2 / 2)
  (g.x + (g.dur : Int) * m g.v0 s / 65536 + (g.dur : Int) * m dv fx / 65536, g.v0 + m dv fv)

/-- A transition is running: the head segment changes the velocity (R359). -/
def inTransition (a : AxisSt) : Bool :=
  match a.plan with
  | g :: _ => g.v0 != g.v1
  | [] => false

/-! ## Settings of an axis -/

/-- Speeds and accelerations of axis `n` in force: VMAX in profile units, AMAX, DMAX, QDEC, and the shape. -/
def State.axVmax (s : State) (n : Nat) : Int := 65536 * (s.regN (R.MOT_AXn_VMAX n) : Nat)
def State.axAmax (s : State) (n : Nat) : Nat := s.regN (R.MOT_AXn_AMAX n)
def State.axDmax (s : State) (n : Nat) : Nat := s.regN (R.MOT_AXn_DMAX n)
def State.axTrap (s : State) (n : Nat) : Bool := s.fld (R.MOT_AXn_CTRL n) F.MOT_AXn_CTRL_MODE == 1
def State.axShape (s : State) (n : Nat) : Nat := s.fld (R.MOT_AXn_CTRL n) F.MOT_AXn_CTRL_SHAPE

/-- A velocity of whole steps/s in profile units. -/
def stepsV (v : Nat) : Int := 1048576 * (v : Int)

/-- P of axis `n`. -/
def State.axPos (s : State) (n : Nat) : Int := sext 32 (s.regN (R.MOT_AXn_POS n))

/-- REF of axis `n`. -/
def State.axRef (s : State) (n : Nat) : Bool := s.bit (R.MOT_AXn_STAT n) F.MOT_AXn_STAT_REF

/-- AX1 is linked (R372). -/
def State.linked (s : State) : Bool := s.bit (R.MOT_AXn_CTRL 1) F.MOT_AXn_CTRL_LINK

/-- The event bit `k` of axis `n` (R377). -/
def State.motEvent (s : State) (n k : Nat) : State :=
  s.setReg R.MOT_EVT (s.reg R.MOT_EVT ||| BitVec.ofNat 32 (2 ^ (8 * n + k)))

/-- An axis has an event of class 6 and, with a cause, an entry in the log (R375). -/
def State.motLog (s : State) (n kind cause : Nat) : State :=
  let s := s.setFld (R.MOT_AXn_STAT n) F.MOT_AXn_STAT_CAUSE cause
  (s.logFault { level := 3, kind := kind, unit := n, src := 0x0D, cause := cause }).notify 6 cause n

/-- STATE of axis `n` set (R373). -/
def State.setAxState (s : State) (n v : Nat) : State := s.setFld (R.MOT_AXn_STAT n) F.MOT_AXn_STAT_STATE v

/-! ## Planning -/

/-- The segments that bring velocity `v` to 0 at DMAX (R358, R361): in the trapezoid down to VSTOP, with a jump. -/
def State.stopPlan (s : State) (n : Nat) (x v : Int) : List Seg :=
  if s.axTrap n then
    let sg : Int := if v < 0 then -1 else 1
    let vb : Int := 65536 * (s.regN (R.MOT_AXn_VBREAK n) : Nat)
    let vs := stepsV (s.fld (R.MOT_AXn_TRAP n) F.MOT_AXn_TRAP_VSTOP)
    let w := sg * v
    let a := if vb < w then transition 2 x v (sg * vb) (s.axDmax n) else []
    let x1 := planEnd x a
    let w1 := min w vb
    let b := if vs < w1 then transition 2 x1 (sg * w1) (sg * vs) (s.regN (R.MOT_AXn_DEC1 n)) else []
    let x2 := planEnd x1 b
    a ++ b ++ (if w1 = 0 ∨ vs = 0 then [] else [⟨x2, sg * min w1 vs, 0, 0, 2⟩])
  else transition (s.axShape n) x v 0 (s.axDmax n)

/-- The velocity that a native move over distance `d` reaches from velocity `w` (R358), before the limit of VMAX. -/
def nativePeak (shape : Nat) (d w : Int) (a dd : Nat) : Int :=
  let (kn, kd) := shapeK shape
  let num : Int := 2 ^ 41 * d * (a * dd * kd : Nat) / ((256 * kn : Nat) * unitP) + w * w * (dd : Nat)
  (isqrt (num / ((max 1 (a + dd) : Nat) : Int)).toNat : Nat)

/-- Speed squared gained per profile distance at an acceleration, as a multiple of v² (linear segments). -/
def linDist (v0 v1 : Int) (a : Nat) : Int := (v1 * v1 - v0 * v0) * 2500 / (131072 * (max 1 a : Nat))

/-- The peak velocity of a trapezoid over distance `d` (R361) from velocity `w`. -/
def State.trapPeak (s : State) (n : Nat) (d w : Int) : Int :=
  let vm := s.axVmax n
  let vb := min vm (65536 * (s.regN (R.MOT_AXn_VBREAK n) : Nat))
  let vs := stepsV (s.fld (R.MOT_AXn_TRAP n) F.MOT_AXn_TRAP_VSTOP)
  let a1 := s.regN (R.MOT_AXn_ACC1 n)
  let d1 := s.regN (R.MOT_AXn_DEC1 n)
  let need := fun (v : Int) =>
    (if v ≤ vb then linDist w v a1 else (if w < vb then linDist w vb a1 else 0) + linDist (max w vb) v (s.axAmax n)) +
      (if v ≤ vb then linDist vs v d1 else linDist vs vb d1 + linDist vb v (s.axDmax n))
  let lo := max w (max vs 1)
  (List.range 40).foldl (fun r i =>
    let v := r + 2 ^ (39 - i)
    if v ≤ vm ∧ need v ≤ d then v else r) lo

/-- The segments that raise `v` to `w` along direction `sg` in the trapezoid (R361): a jump to VSTART first. -/
def State.risePlan (s : State) (n : Nat) (x sg v w : Int) : List Seg :=
  let vb : Int := 65536 * (s.regN (R.MOT_AXn_VBREAK n) : Nat)
  let v := if v = 0 then min w (stepsV (s.fld (R.MOT_AXn_TRAP n) F.MOT_AXn_TRAP_VSTART)) else v
  let mid := max v (min w vb)
  let a := transition 2 x (sg * v) (sg * mid) (s.regN (R.MOT_AXn_ACC1 n))
  a ++ (if mid < w then transition 2 (planEnd x a) (sg * mid) (sg * w) (s.axAmax n) else [])

/-- The plan from position `x` and velocity `v` to target `y`, which lies ahead of the stopping point (R358, R360,
R361). -/
def State.movePlan (s : State) (n : Nat) (x v y : Int) : List Seg :=
  let sg : Int := if v < 0 ∨ (v = 0 ∧ y < x) then -1 else 1
  let w := sg * v
  let d := sg * (y - x)
  let vm := s.axVmax n
  let peak := if s.axTrap n then s.trapPeak n d (if v = 0 then stepsV (s.fld (R.MOT_AXn_TRAP n) F.MOT_AXn_TRAP_VSTART) else w)
    else nativePeak (s.axShape n) d w (s.axAmax n) (s.axDmax n)
  let p := min vm peak
  let a := if w ≤ p then
      (if s.axTrap n then s.risePlan n x sg w p else transition (s.axShape n) x v (sg * p) (s.axAmax n))
    else transition (if s.axTrap n then 2 else s.axShape n) x v (sg * p) (s.axDmax n)
  let x1 := planEnd x a
  let down := s.stopPlan n 0 (sg * p)
  let rem := d - sg * (x1 - x) - sg * planEnd 0 down
  let c : List Seg := if 0 < rem ∧ 0 < p then [⟨x1, sg * p, sg * p, (rem * 65536 / p).toNat, 2⟩] else []
  a ++ c ++ s.stopPlan n (planEnd x1 c) (sg * p)

/-- Axis `n` plans anew from where it stands (R358 to R360): to a stop without a target, which homing makes in the native
shape (R368); from standstill or ahead to the target; else past it, to return after a standstill. -/
def State.replanAx (s : State) (n : Nat) (a : AxisSt) : AxisSt :=
  let a := { a with replan := false, t := 0 }
  match a.goal with
  | none => { a with plan :=
      if a.home = 0 then s.stopPlan n a.x a.v else transition (s.axShape n) a.x a.v 0 (s.axDmax n) }
  | some g =>
    let y := g * unitP
    let stop := s.stopPlan n a.x a.v
    let sg : Int := if a.v < 0 then -1 else 1
    if a.v = 0 ∨ 0 ≤ sg * (y - planEnd a.x stop) then { a with plan := s.movePlan n a.x a.v y, after := .rest }
    else { a with plan := stop, after := .reverse }

/-- A change takes effect at once at a cruise or a standstill, else at the end of the transition (R359). -/
def State.askReplan (s : State) (n : Nat) (a : AxisSt) : AxisSt :=
  if inTransition a then { a with replan := true } else s.replanAx n a

/-- A quick stop replaces whatever runs (R366): linear, at QDEC. -/
def State.quickStopAx (s : State) (n : Nat) (a : AxisSt) : AxisSt :=
  { a with plan := transition 2 a.x a.v 0 (s.regN (R.MOT_AXn_QDEC n)), t := 0, goal := none, replan := false, after := .rest }

/-! ## Faults -/

/-- Axis `n` enters Faulted (R354, R373, R375): the bridges are off, and REF is cleared. -/
def State.faultAx (s : State) (n cause : Nat) : State :=
  if s.axState n = 0 ∨ s.axState n = 6 then s
  else
    let s := s.setAx n { s.ax n with plan := [], t := 0, v := 0, goal := none, replan := false, after := .rest, home := 0, off := true }
    let s := (s.setAxState n 6).motEvent n 3
    (s.setBit (R.MOT_AXn_STAT n) F.MOT_AXn_STAT_REF false).motLog n 1 cause

/-- A quick stop of an axis that moves or holds (R366). -/
def State.quickStopOne (s : State) (n : Nat) : State :=
  let st := s.axState n
  if st = 0 ∨ st = 6 then s
  else
    let fail := st = 4
    let a := s.quickStopAx n (s.ax n)
    (s.setAx n { a with home := if fail then 7 else a.home }).setAxState n (if fail then 4 else 3)

/-- Axis `n` quick-stops and then enters Faulted (R371, R372); at once where it stands. -/
def State.stopFault (s : State) (n cause : Nat) : State :=
  if s.axState n = 0 ∨ s.axState n = 6 then s
  else if (s.ax n).v = 0 then s.faultAx n cause
  else
    let s := s.quickStopOne n
    (s.setAx n { s.ax n with home := 0, after := .fault cause }).setAxState n 3

/-- A fault of an axis, which a linked partner follows with cause 0x7 after its quick stop (R372). -/
def State.faultPair (s : State) (n cause : Nat) : State :=
  let s := s.faultAx n cause
  if s.linked && decide (n < 2) then s.stopFault (1 - n) 7 else s

/-- A quick stop of an axis with its linked partner (R372). -/
def State.quickStopPair (s : State) (n : Nat) : State :=
  let s := s.quickStopOne n
  if s.linked && decide (n < 2) then s.quickStopOne (1 - n) else s

/-- BRIDGE_FAULT (R354). -/
def execBridgeFault (n : Fin 4) (s : State) : Host.Outcome State Fault Refusal := .next (s.faultPair n 1)

/-- CURRENT_SAMPLE (R352, R354). -/
def execCurrentSample (n : Fin 4) (a b : BitVec 12) (s : State) : Host.Outcome State Fault Refusal :=
  .next <|
    let x := s.ax n
    let s := s.setAx n { x with phA := { x.phA with sample := a.toNat }, phB := { x.phB with sample := b.toNat } }
    let m := 16 * s.fld (R.MOT_AXn_CURPI n) F.MOT_AXn_CURPI_IMAX
    if m ≠ 0 ∧ m < max a.toNat b.toNat then s.faultPair n 2 else s

/-! ## Commands -/

/-- A command is refused (R367): the present motion goes on. -/
def State.refuseCmd (s : State) (n : Nat) : State := (s.motEvent n 5).motLog n 5 6

/-- A speed or acceleration breaks R357 or R362, or is 0 where a move needs it (R367). -/
def State.badSpeeds (s : State) (n : Nat) : Bool :=
  let vm := s.axVmax n
  let vb : Int := 65536 * (s.regN (R.MOT_AXn_VBREAK n) : Nat)
  let t := fun f => stepsV (s.fld (R.MOT_AXn_TRAP n) f)
  let up := stepsV (s.fld (R.MOT_AXn_USTEP0 n) F.MOT_AXn_USTEP0_UP1)
  let above := fun v : Int => decide (vb < v ∨ vm < v ∨ up < 8 * v)
  decide (vm = 0 ∨ stepsV 20000 < vm) ||
    (if s.axTrap n then
      above (t F.MOT_AXn_TRAP_VSTART) || above (t F.MOT_AXn_TRAP_VSTOP) ||
        decide (0 < vb ∧ (s.regN (R.MOT_AXn_ACC1 n) = 0 ∨ s.regN (R.MOT_AXn_DEC1 n) = 0)) ||
        decide (vb < vm ∧ (s.axAmax n = 0 ∨ s.axDmax n = 0))
    else decide (s.axAmax n = 0 ∨ s.axDmax n = 0))

/-- A position lies outside the soft limits (R367). -/
def State.outsideSoft (s : State) (n : Nat) (p : Int) : Bool :=
  decide (p < sext 32 (s.regN (R.MOT_AXn_SOFTLO n)) ∨ sext 32 (s.regN (R.MOT_AXn_SOFTHI n)) < p)

/-- The target of a move is refused (R366, R367): by the soft limits, for itself or for the stopping point of R360, or by
a limit switch that is active in its direction. -/
def State.badTarget (s : State) (n : Nat) (g : Int) : Bool :=
  let a := s.ax n
  let stop := planEnd a.x (s.stopPlan n a.x a.v)
  let sg : Int := if a.v < 0 then -1 else 1
  let behind := decide (a.v ≠ 0 ∧ sg * (g * unitP - stop) < 0)
  let st := R.MOT_AXn_STAT n
  (s.axRef n && (s.outsideSoft n g || (behind && s.outsideSoft n (Int.fdiv stop unitP)))) ||
    (s.bit st F.MOT_AXn_STAT_LIMPOS && decide (s.axPos n < g)) ||
    (s.bit st F.MOT_AXn_STAT_LIMNEG && decide (g < s.axPos n))

/-- A move or homing command is refused whatever its target (R367): the axis is Disabled or Faulted, or a linked AX1. -/
def State.noCommands (s : State) (n : Nat) : Bool :=
  s.axState n == 0 || s.axState n == 6 || (n == 1 && s.linked)

/-- The axis is homing or geared: a move, stop or gear command has no place there (R373). -/
def State.axBusy (s : State) (n : Nat) : Bool := s.axState n == 4 || s.axState n == 5

/-- A move to target `g` begins or is taken up (R358, R360). -/
def State.moveTo (s : State) (n : Nat) (g : Int) : State :=
  let a := s.askReplan n { s.ax n with goal := some g, off := false, still := 0, after := .rest }
  (s.setAx n a).setAxState n 2

/-- MOVE_TO_TARGET (R358 to R360, R367). -/
def execMoveToTarget (r : Requester) (n : Fin 4) (s : State) : Host.Outcome State Fault Refusal :=
  .next <|
    let s := s.written r
    let g := sext 32 (s.regN (R.MOT_AXn_TGT n))
    if s.noCommands n || s.badSpeeds n || s.badTarget n g then s.refuseCmd n
    else if s.axBusy n then s
    else s.moveTo n g

/-- STOP_AT_DMAX (R372, R373): a linked AX1 refuses it. -/
def execStopAtDmax (r : Requester) (n : Fin 4) (s : State) : Host.Outcome State Fault Refusal :=
  .next <|
    let s := s.written r
    if n.val = 1 ∧ s.linked then s.refuseCmd n
    else if s.noCommands n || s.axBusy n then s
    else (s.setAx n (s.askReplan n { s.ax n with goal := none, after := .rest })).setAxState n 3

/-- QUICK_STOP (R366, R372): a linked AX1 refuses it. -/
def execQuickStop (r : Requester) (n : Fin 4) (s : State) : Host.Outcome State Fault Refusal :=
  .next <|
    let s := s.written r
    if n.val = 1 ∧ s.linked then s.refuseCmd n
    else if s.noCommands n then s
    else s.quickStopPair n

/-- The debounced level of the home input `k` (R365). -/
def State.homeInput (s : State) (k : Nat) : Bool := s.homeLevels.testBit k

/-- The home switch of axis `n` is in use and active. -/
def State.homeActive (s : State) (n : Nat) : Bool :=
  s.bit (R.MOT_AXn_SW n) F.MOT_AXn_SW_HOMEEN && s.homeInput (s.fld (R.MOT_AXn_SW n) F.MOT_AXn_SW_HOMESEL)

/-- The sign of HDIR: +1 forward, −1 backward. -/
def State.homeDir (s : State) (n : Nat) : Int := if s.bit (R.MOT_AXn_SW n) F.MOT_AXn_SW_HDIR then -1 else 1

/-- Axis `n` runs to a velocity by a native transition and keeps it (R368). -/
def State.runAt (s : State) (n : Nat) (a : AxisSt) (v : Int) : AxisSt :=
  let up := transition (s.axShape n) a.x 0 v (s.axAmax n)
  { a with
    plan := if up.isEmpty ∧ v ≠ 0 then [⟨a.x, v, v, 0, 2⟩] else up
    t := 0, goal := none, replan := false, homeFrom := a.x, off := false, still := 0 }

/-- HOME_AXIS (R367, R368, R372, R373): from Idle; refused on a linked axis. -/
def execHomeAxis (r : Requester) (n : Fin 4) (s : State) : Host.Outcome State Fault Refusal :=
  .next <|
    let s := s.written r
    let h := fun f => s.fld (R.MOT_AXn_HOME n) f
    let bad := fun v => decide (v = 0 ∨ 20000 < v)
    if s.noCommands n || (s.linked && decide (n.val < 2)) || s.badSpeeds n || bad (h F.MOT_AXn_HOME_HFAST) ||
        bad (h F.MOT_AXn_HOME_HSLOW) then s.refuseCmd n
    else if s.axState n ≠ 1 then s
    else
      let a := s.runAt n (s.ax n) (s.homeDir n * stepsV (h F.MOT_AXn_HOME_HFAST))
      (s.setAx n { a with home := 1, after := .rest }).setAxState n 4

/-! ## Gearing -/

/-- The master position M (R369), and whether the master is valid (R371). -/
def State.masterPos (s : State) : Int := s.srcPos (s.fld R.MOT_AX2_GCFG F.MOT_AX2_GCFG_SRC)
def State.masterValid (s : State) : Bool :=
  let k := s.fld R.MOT_AX2_GCFG F.MOT_AX2_GCFG_SRC
  if k < 4 then !s.bit (R.ENCn_STAT k) F.ENCn_STAT_FAULT
  else if k < 6 then s.bit (R.SSIm_STAT (k - 4)) F.SSIm_STAT_VALID else false

/-- What a blend adds to G, in 2^-16 of 1/256 step and times 2·B (R370): nothing before it, the running ratio within it,
the new ratio after it; where a later change cut it, the ratio of the cut goes on. -/
def blendPart (b : Blend) (m : Int) : Int :=
  let y := m - b.start
  let n : Int := (b.len : Int)
  let h := fun (y : Int) => if y ≤ 0 then 0 else if y < n then y * y else 2 * n * y - n * n
  let d := b.to_ - b.from_
  if n = 0 then
    (match b.cut with
    | some c => if c ≤ 0 then 0 else if y ≤ 0 then 0 else 2 * d * y
    | none => if y ≤ 0 then 0 else 2 * d * y)
  else
    match b.cut with
    | some c => if y ≤ c then d * h y else d * h c + d * 2 * (clampInt 0 n c) * (y - c)
    | none => d * h y

/-- G of master position `m` (R369, R370), in 2^-16 of 1/256 step. -/
def gearG (g : GearSt) (m : Int) : Int :=
  g.ratio * (m - g.m0) + (g.blends.map (fun b =>
    Int.fdiv (blendPart b m - blendPart b g.m0) ((2 * max 1 b.len : Nat) : Int))).sum

/-- The ratio in force at master position `m`, signed 16.16 (R370). -/
def gearRatio (g : GearSt) (m : Int) : Int :=
  g.ratio + (g.blends.map (fun b =>
    let y := match b.cut with
      | some c => min c (m - b.start)
      | none => m - b.start
    let n : Int := (b.len : Int)
    let d := b.to_ - b.from_
    if y ≤ 0 then 0 else if n ≤ y then d else d * y / n)).sum

/-- ENGAGE_GEARING (R369, R373): AX2 in mode 0b10, from Idle or Moving. -/
def execEngageGearing (r : Requester) (n : Fin 4) (s : State) : Host.Outcome State Fault Refusal :=
  .next <|
    let s := s.written r
    if n.val = 2 ∧ s.fld (R.MOT_AXn_CTRL 2) F.MOT_AXn_CTRL_MODE = 2 ∧ (s.axState 2 = 1 ∨ s.axState 2 = 2) then
      let m := s.masterPos
      let a := s.ax 2
      let g : GearSt := { m0 := m, gofs := s.axPos 2, ratio := sext 32 (s.regN R.MOT_AX2_GRATIO), blends := [], lastM := m }
      (s.setAx 2 { a with plan := [], t := 0, goal := none, replan := false, after := .rest, gear := g, off := false }).setAxState 2 5
    else s

/-- DISENGAGE_GEARING (R369, R373). -/
def execDisengageGearing (r : Requester) (n : Fin 4) (s : State) : Host.Outcome State Fault Refusal :=
  .next <|
    let s := s.written r
    if n.val = 2 ∧ s.axState 2 = 5 then
      (s.setAx 2 (s.replanAx 2 { s.ax 2 with goal := none })).setAxState 2 3
    else s

/-- RATIO_CHANGE_ARM (R370): a blend from the ratio in force to GNEXT; one already running is cut at the master's
position. -/
def State.ratioArm (s : State) : State :=
  if s.axState 2 ≠ 5 then s
  else
    let a := s.ax 2
    let m := a.gear.lastM
    let cut := a.gear.blends.map (fun b =>
      match b.cut with
      | some _ => b
      | none => if m < b.start + (b.len : Int) then { b with cut := some (m - b.start) } else b)
    let g := { a.gear with blends := cut }
    let start := max m (sext 64 (s.wide R.MOT_AX2_GSCHED_LO))
    let b : Blend := ⟨start, s.fld R.MOT_AX2_GBLEND F.MOT_AX2_GBLEND_BLEND, gearRatio g m, sext 32 (s.regN R.MOT_AX2_GNEXT), none⟩
    s.setAx 2 { a with gear := { g with blends := g.blends ++ [b] } }

/-- RATIO_CHANGE_ARM: the low word of GSCHED that was written before takes effect with the high word (R377). -/
def State.gschedHiWrite (s : State) (v : Word) : State :=
  let low := (s.halfWrites.find? (fun e => e.1 == R.MOT_AX2_GSCHED_LO)).map (·.2)
  let s := match low with
    | some w => { s.setReg R.MOT_AX2_GSCHED_LO w with
        halfWrites := s.halfWrites.filter (fun e => e.1 != R.MOT_AX2_GSCHED_LO) }
    | none => s
  (s.setReg R.MOT_AX2_GSCHED_HI v).ratioArm

/-- RATIO_CHANGE_ARM (R370). -/
def execRatioChangeArm (r : Requester) (v : Word) (s : State) : Host.Outcome State Fault Refusal :=
  .next ((s.gschedHiWrite v).written r)

/-- SET_POSITION (R372, R377): at standstill with REF 1; a linked AX1 refuses it. -/
def execSetPosition (r : Requester) (n : Fin 4) (s : State) : Host.Outcome State Fault Refusal :=
  .next <|
    let s := s.written r
    let a := s.ax n
    if n.val = 1 ∧ s.linked then s.refuseCmd n
    else if s.axRef n && a.v == 0 && a.plan.isEmpty && s.axState n != 0 && s.axState n != 6 then
      let w := s.reg (R.MOT_AXn_TGT n)
      (s.setAx n { a with x := sext 32 w.toNat * unitP }).setReg (R.MOT_AXn_POS n) w
    else s

/-! ## Control registers -/

/-- Both bar-lift ends stand still. -/
def State.liftStill (s : State) : Bool :=
  [0, 1].all (fun n => (s.ax n).v == 0 && (s.ax n).plan.isEmpty)

/-- A change of a speed, an acceleration or the shape (R359): a running move is planned anew with it; a stop that runs keeps
its ramp, and the change waits for the end of it. -/
def State.heldChange (s : State) (n : Nat) : State :=
  let a := s.ax n
  if a.goal.isSome ∨ (a.home = 0 ∧ inTransition a) then s.setAx n { a with replan := true } else s

/-- A write of `v` to MOT_AXn_CTRL (R359, R372, R373, R377): MODE changes in Idle, LINK with both ends at standstill. -/
def State.motCtrlWrite (s : State) (n : Nat) (v : Word) : State :=
  let a := R.MOT_AXn_CTRL n
  let old := s.reg a
  let en := getField F.MOT_AXn_CTRL_EN v
  let mode := if s.axState n = 1 then getField F.MOT_AXn_CTRL_MODE v else getField F.MOT_AXn_CTRL_MODE old
  let link := if n = 1 && s.liftStill then getField F.MOT_AXn_CTRL_LINK v else getField F.MOT_AXn_CTRL_LINK old
  let s := s.writeByCodes a v
  let s := (s.setFld a F.MOT_AXn_CTRL_MODE mode).setFld a F.MOT_AXn_CTRL_LINK link
  let s := if link = 1 ∧ getField F.MOT_AXn_CTRL_LINK old = 0 then
      s.setReg (R.MOT_AXn_LINKOFS 1) (s.reg (R.MOT_AXn_POS 1) - s.reg (R.MOT_AXn_POS 0)) else s
  let s := if getField F.MOT_AXn_CTRL_SHAPE v ≠ getField F.MOT_AXn_CTRL_SHAPE old then s.heldChange n else s
  if en = 0 ∧ s.axState n ≠ 0 then
    (s.setAx n { x := (s.ax n).x, off := true }).setAxState n 0
  else if en = 1 ∧ getField F.MOT_AXn_CTRL_EN old = 0 then
    ((s.setAx n { x := (s.ax n).x }).setAxState n 1).setBit (R.MOT_AXn_STAT n) F.MOT_AXn_STAT_REF false
  else s

/-- AXIS_ENABLE (R373). -/
def execAxisEnable (r : Requester) (n : Fin 4) (v : Word) (s : State) : Host.Outcome State Fault Refusal :=
  .next ((s.motCtrlWrite n v).written r)

/-- AXIS_DISABLE (R373). -/
def execAxisDisable (r : Requester) (n : Fin 4) (v : Word) (s : State) : Host.Outcome State Fault Refusal :=
  .next ((s.motCtrlWrite n v).written r)

/-- AXIS_LINK (R372). -/
def execAxisLink (r : Requester) (v : Word) (s : State) : Host.Outcome State Fault Refusal :=
  .next ((s.motCtrlWrite 1 v).written r)

/-- A write of `v` to a speed or acceleration of axis `n` (R359). -/
def State.motSpeedWrite (s : State) (n a : Nat) (v : Word) : State := (s.setReg a v).heldChange n

/-- A write of `v` to MOT_AX2_GRATIO: geared, the axis takes the new ratio from the master's position on. -/
def State.gratioWrite (s : State) (v : Word) : State :=
  let s := s.setReg R.MOT_AX2_GRATIO v
  if s.axState 2 ≠ 5 then s
  else
    let a := s.ax 2
    let m := a.gear.lastM
    let b : Blend := ⟨m, 0, gearRatio a.gear m, sext 32 v.toNat, none⟩
    s.setAx 2 { a with gear := { a.gear with blends := a.gear.blends ++ [b] } }

/-- Register `a` of the MOTION block takes `v` (R359, R369, R370, R373, R377); commands apart. -/
def State.motSet (s : State) (a : Nat) (v : Word) : State :=
  if a < R.MOT_AXn_CTRL 0 then s.writeByCodes a v
  else if a = R.MOT_AX2_GRATIO then s.gratioWrite v
  else if a = R.MOT_AX2_GSCHED_HI then s.gschedHiWrite v
  else if a = R.MOT_AX2_GCFG ∧ s.axState 2 = 5 then
    s.writeByCodes a (putField F.MOT_AX2_GCFG_SRC v (s.fld a F.MOT_AX2_GCFG_SRC))
  else
    let n := (a - R.MOT_AXn_CTRL 0) / 0x80
    let o := (a - R.MOT_AXn_CTRL 0) % 0x80
    if o = 0 then s.motCtrlWrite n v
    else if 0x18 ≤ o ∧ o ≤ 0x34 then s.motSpeedWrite n a v
    else s.writeByCodes a v

/-- The values of commit groups that wait for this update (R376). -/
def State.landMotion (s : State) : State :=
  s.mot.due.foldl (fun s p => s.motSet p.addr (putField ⟨p.lo, p.width, .rw⟩ (s.reg p.addr) p.value))
    { s with mot := { s.mot with due := [] } }

/-! ## The update: profile -/

/-- An axis moved on by `t` in its plan (R358 to R361); at the end of a transition a waiting change is planned. -/
def State.runPlan (s : State) (n : Nat) : Nat → AxisSt → AxisSt
  | 0, a => a
  | fuel + 1, a =>
    match a.plan with
    | [] =>
      if a.replan then State.runPlan s n fuel { s.replanAx n a with t := a.t }
      else { a with x := a.x + a.v * (a.t : Int) / 65536, t := 0 }
    | g :: rest =>
      if a.t < g.dur then
        let (x, v) := evalSeg g a.t
        { a with x := x, v := v }
      else
        let a := { a with x := g.x + segDist g.v0 g.v1 g.dur, v := g.v1, plan := rest, t := a.t - g.dur }
        if a.replan then State.runPlan s n fuel { s.replanAx n a with t := a.t } else State.runPlan s n fuel a

/-- One update of a profile: 25 µs more. A change that waits takes effect at once at a cruise or standstill. -/
def State.stepPlan (s : State) (n : Nat) (a : AxisSt) : AxisSt :=
  let a := if a.replan && !inTransition a then
      match a.plan with
      | g :: _ => s.replanAx n { a with x := (evalSeg g a.t).1 }
      | [] => s.replanAx n a
    else a
  State.runPlan s n 16 { a with t := a.t + 65536 }

/-! ## The update: what follows -/

/-- The distance that the axis travels in HOMEFILT, in units of P (R368). -/
def State.homeTravel (s : State) (a : AxisSt) : Int :=
  quot ((a.v.natAbs : Int) * 16 * (s.fld R.POS_HOME_CFG F.POS_HOME_CFG_HOMEFILT : Nat)) (65536 * 1000000) s.freeCtr

/-- Homing after an update (R368). -/
def State.homeStep (s : State) (n : Nat) : State :=
  let a := s.ax n
  let on := s.homeActive n
  let far := decide ((s.regN (R.MOT_AXn_HMAXDIST n) : Int) * unitP < ((a.x - a.homeFrom).natAbs : Int))
  let stop := fun (k : Nat) (a : AxisSt) => { s.askReplan n { a with goal := none } with home := k }
  let still := a.v = 0 ∧ a.plan.isEmpty ∧ !a.replan
  let slow := stepsV (s.fld (R.MOT_AXn_HOME n) F.MOT_AXn_HOME_HSLOW)
  if a.home = 1 then
    if on then s.setAx n (stop 2 a) else if far then s.setAx n (stop 7 a) else s
  else if a.home = 2 then
    if still then s.setAx n { s.runAt n a (-(s.homeDir n) * slow) with home := 3 } else s
  else if a.home = 3 then
    if on then s else s.setAx n (stop 4 a)
  else if a.home = 4 then
    if still then s.setAx n { s.runAt n a (s.homeDir n * slow) with home := 5 } else s
  else if a.home = 5 then
    if on then
      let p := sext 32 (s.regN (R.MOT_AXn_HOMEPOS n)) - s.homeTravel a
      let d := p * unitP - a.x
      (s.setAx n (stop 6 { a with x := a.x + d, plan := a.plan.map (fun g => { g with x := g.x + d }) })).drawn
    else if far then s.setAx n (stop 7 a) else s
  else if a.home = 6 then
    if still then
      let s := (s.setAx n { a with home := 0 }).setBit (R.MOT_AXn_STAT n) F.MOT_AXn_STAT_REF true
      (s.motEvent n 1).setAxState n 1
    else s
  else if a.home = 7 ∧ still then s.faultPair n 4
  else s

/-- What follows when the profile of an axis has come to its end at a standstill (R358, R360, R371 to R374). -/
def State.atStandstill (s : State) (n : Nat) : State :=
  let a := s.ax n
  if s.axState n = 4 ∨ s.axState n = 5 ∨ a.v ≠ 0 ∨ !a.plan.isEmpty ∨ a.replan then s
  else
    match a.after, a.goal with
    | .reverse, some _ => (s.setAx n (s.replanAx n { a with after := .rest })).motEvent n 4
    | .fault c, _ => s.faultAx n c
    | .bridgesOff, _ =>
      ((s.setAx n { a with after := .rest, off := true }).setBit (R.MOT_AXn_STAT n) F.MOT_AXn_STAT_REF false).setAxState n 1
    | .toSafePos, _ =>
      let g := sext 32 (s.regN (R.MOT_AXn_SSPOS n))
      (s.setAx n (s.replanAx n { a with after := .rest, goal := some g, still := 0 })).setAxState n 2
    | _, some g => ((s.setAx n { a with x := g * unitP, goal := none }).motEvent n 0).setAxState n 1
    | _, none => if s.axState n = 2 ∨ s.axState n = 3 then s.setAxState n 1 else s

/-- The limit switches of axis `n` (R365, R366): one that becomes active in the direction of travel stops the axis. -/
def State.limits (s : State) (n : Nat) : State :=
  let sw := R.MOT_AXn_SW n
  let st := R.MOT_AXn_STAT n
  let neg := s.bit sw F.MOT_AXn_SW_LNEGEN && s.homeInput (s.fld sw F.MOT_AXn_SW_LNEGSEL)
  let pos := s.bit sw F.MOT_AXn_SW_LPOSEN && s.homeInput (s.fld sw F.MOT_AXn_SW_LPOSSEL)
  let hit := (neg && !s.bit st F.MOT_AXn_STAT_LIMNEG && decide ((s.ax n).v < 0)) ||
    (pos && !s.bit st F.MOT_AXn_STAT_LIMPOS && decide (0 < (s.ax n).v))
  let homing := s.axState n == 4 && ((neg && decide ((s.ax n).v < 0)) || (pos && decide (0 < (s.ax n).v))) && (s.ax n).home != 7
  let s := (s.setBit st F.MOT_AXn_STAT_LIMNEG neg).setBit st F.MOT_AXn_STAT_LIMPOS pos
  if (hit || homing) && s.axState n != 0 && s.axState n != 6 then ((s.quickStopPair n).motEvent n 2).motLog n 5 5 else s

/-- The safe-stop action of an axis begins (R374); a linked AX1 follows AX0. -/
def State.startSafe (s : State) (n : Nat) : State :=
  let a := s.ax n
  if !a.safe then s
  else
    let act := s.fld (R.MOT_AXn_CTRL n) F.MOT_AXn_CTRL_SSACT
    let a := s.quickStopAx n { a with safe := false, home := 0 }
    (s.setAx n { a with
      after := if act = 1 then .bridgesOff else if act = 2 ∧ ¬ (n = 1 ∧ s.linked) then .toSafePos else .rest }).setAxState n 3

/-- The update of a geared AX2 (R369 to R371). -/
def State.gearStep (s : State) : State :=
  let a := s.ax 2
  let ok := s.masterValid
  let m := if ok then s.masterPos else a.gear.lastM
  let s := if !ok && !a.gear.invalid then (s.motEvent 2 3).motLog 2 5 8 else s
  let ended := fun b : Blend => b.cut.isNone && decide (b.start + (b.len : Int) ≤ m)
  let news := a.gear.blends.filter (fun b => ended b && !decide (b.start + (b.len : Int) ≤ a.gear.lastM) || (ended b && s.regN R.MOT_AX2_GRATIO != wrap 32 b.to_))
  let s := match news.getLast? with
    | some b => (s.setReg R.MOT_AX2_GRATIO (BitVec.ofInt 32 b.to_)).motEvent 2 0
    | none => s
  let s := s.setBit (R.MOT_AXn_STAT 2) F.MOT_AXn_STAT_BLEND
    (a.gear.blends.any (fun b => b.cut.isNone && decide (b.start ≤ m ∧ m < b.start + (b.len : Int))))
  let p := a.gear.gofs + quot (gearG a.gear m) 65536 s.freeCtr
  let y := p * unitP
  let dv : Int := stepsV (s.axAmax 2) / 40000
  let vm := s.axVmax 2
  let v := clampInt (-vm) vm (clampInt (a.v - dv) (a.v + dv) (y - a.x))
  let x := a.x + v
  let lag := y - x
  let full := quot lag (256 * unitP) (s.freeCtr + 1)
  let s := s.drawnN 2
  let s := s.setFld (R.MOT_AXn_STAT 2) F.MOT_AXn_STAT_GLAG (wrap 8 (clampInt (-128) 127 full))
  let s := s.setAx 2 { a with x := x, v := v, gear := { a.gear with lastM := m, invalid := !ok } }
  let lm := s.fld R.MOT_AX2_GCFG F.MOT_AX2_GCFG_LAGMAX
  if lm ≠ 0 ∧ (lm : Int) * 256 * unitP < (lag.natAbs : Int) then
    s.stopFault 2 3
  else s

/-- The motion of axis `n` in an update: profile, gearing, or AX0's position while AX0 has not faulted (R355, R369,
R372). -/
def State.moveAx (s : State) (n : Nat) : State :=
  let st := s.axState n
  if st = 0 ∨ st = 6 then s
  else if n = 1 ∧ s.linked ∧ s.axState 0 ≠ 6 then
    let a := s.ax 0
    (s.setAx 1 { s.ax 1 with
      x := a.x + sext 32 (s.regN (R.MOT_AXn_LINKOFS 1)) * unitP, v := a.v, plan := [], t := 0, goal := none
      replan := false }).atStandstill 1
  else if st = 5 then s.gearStep
  else
    let s := s.setAx n (s.stepPlan n (s.ax n))
    if st = 4 then s.homeStep n else s.atStandstill n

/-! ## The update: what the axis reports and drives -/

/-- The microsteps per full step of RES code `k` as the width q of a microstep in 1/256 step (R355). -/
def microQ (k : Nat) : Nat := 4 ^ k

/-- The resolution that the velocity calls for (R356), from the one in force. -/
def State.wantRes (s : State) (n k : Nat) (v : Int) : Nat :=
  let up := fun i => stepsV (if i = 1 then s.fld (R.MOT_AXn_USTEP0 n) F.MOT_AXn_USTEP0_UP1
    else if i = 2 then s.fld (R.MOT_AXn_USTEP0 n) F.MOT_AXn_USTEP0_UP2
    else if i = 3 then s.fld (R.MOT_AXn_USTEP1 n) F.MOT_AXn_USTEP1_UP3
    else s.fld (R.MOT_AXn_USTEP1 n) F.MOT_AXn_USTEP1_UP4)
  let hy : Int := (s.fld (R.MOT_AXn_CTRL n) F.MOT_AXn_CTRL_HYST : Nat)
  let w : Int := (v.natAbs : Nat)
  let k := [0, 1, 2, 3].foldl (fun k i => if k = i ∧ up (i + 1) ≤ w then i + 1 else k) k
  [4, 3, 2, 1].foldl (fun k i => if k = i ∧ w * 256 < up i * (256 - hy) then i - 1 else k) k

/-- The phase current target I·c (R352). -/
def phaseTarget (i : Nat) (c : Int) (k : Nat) : Int := quot ((i : Int) * c) (2 ^ 40) k

/-- The PI controller of a phase (R352). -/
def phaseStep (p : PhaseSt) (target : Int) (kp ki k : Nat) : PhaseSt :=
  let e := target - (p.sample : Int)
  let sum := p.sum + e
  { p with target := target, sum := sum, duty := quot ((kp : Int) * e + (ki : Int) * sum) 4096 k }

/-- The current I (R353): IRUN in motion, falling to IHOLD over 64 updates after HOLDDLY ms at standstill. -/
def State.axCurrent (s : State) (n : Nat) (still : Nat) : Nat :=
  let c := fun f => s.fld (R.MOT_AXn_CUR n) f
  let run := c F.MOT_AXn_CUR_IRUN
  let hold := min run (c F.MOT_AXn_CUR_IHOLD)
  let j := min 64 (still - 40 * c F.MOT_AXn_CUR_HOLDDLY)
  run - (run - hold) * j / 64

/-- The registers and phases of axis `n` after an update (R352 to R356, R363, R364). -/
def State.showAx (s : State) (n : Nat) : State :=
  let a := s.ax n
  let st := R.MOT_AXn_STAT n
  let old := s.axPos n
  let p := quot a.x unitP s.freeCtr
  let geared := n = 2 ∧ s.axState 2 = 5
  let src := s.fld R.MOT_AX2_GCFG F.MOT_AX2_GCFG_SRC
  let vel := if geared then
      (if src < 4 then quot (gearRatio a.gear a.gear.lastM * sext 32 (s.regN (R.ENCn_SPEED src))) (2 ^ 26) (s.freeCtr + 1)
      else sext 32 (Config.free (s.freeCtr + 1)))
    else quot a.v 65536 (s.freeCtr + 1)
  let valid := if geared then
      (if src < 4 then s.bit (R.ENCn_STAT src) F.ENCn_STAT_VALID else s.masterValid) else true
  let s := s.setReg (R.MOT_AXn_POS n) (BitVec.ofInt 32 p)
  let s := s.setReg (R.MOT_AXn_VEL n) (BitVec.ofInt 32 vel)
  let s := (s.setBit st F.MOT_AXn_STAT_STILL (a.v == 0)).setBit st F.MOT_AXn_STAT_VVALID valid
  let s := if a.v = 0 then s else s.setBit st F.MOT_AXn_STAT_DIR (decide (a.v < 0))
  let s := s.setBit st F.MOT_AXn_STAT_PEND (a.replan && inTransition a)
  let k := s.fld st F.MOT_AXn_STAT_RES
  let crossed := p % 256 = 0 ∨ p / 256 ≠ old / 256
  let k := if crossed then s.wantRes n (min k 4) a.v else k
  let s := s.setFld st F.MOT_AXn_STAT_RES k
  let still := if a.v = 0 then min (a.still + 1) 20000 else 0
  let i := if a.off ∨ s.axState n = 0 ∨ s.axState n = 6 then 0 else s.axCurrent n still
  let q := microQ k
  let th : Int := ((p % 1024).toNat / q * q : Nat)
  let kp := s.fld (R.MOT_AXn_CURPI n) F.MOT_AXn_CURPI_KP
  let ki := s.fld (R.MOT_AXn_CURPI n) F.MOT_AXn_CURPI_KI
  let f := s.freeCtr
  let pa := phaseStep a.phA (phaseTarget i (cosTurn (th * 2 ^ 30)) (f + 2)) kp ki (f + 3)
  let pb := phaseStep a.phB (phaseTarget i (sinTurn (th * 2 ^ 30)) (f + 4)) kp ki (f + 5)
  (s.setAx n { a with still := still, phA := pa, phB := pb }).drawnN 6

/-- The lag of the update loop (R295, R375): four periods or more make one entry for each episode. -/
def State.motLag (s : State) (lag : Nat) : State :=
  if lag = 0 then { s with mot := { s.mot with lagged := false } }
  else if lag < 4 ∨ s.mot.lagged then s
  else
    ({ s with mot := { s.mot with lagged := true } }.logFault
      { level := 3, kind := 5, unit := Config.free s.freeCtr % 4, src := 0x0D, cause := 9 }).drawn

/-- The period of the motion update, 25 µs. -/
def motPeriod : Nat := us 25

/-- The nominal start of the update that comes next (R295, R352): one period after the last, now for the first. -/
def State.motNominal (s : State) : Nat := (s.mot.last.map (· + motPeriod)).getD s.now

/-- MOTION_UPDATE (R295, R352 to R376): no period is skipped, and the loop lags by the periods that have passed since the
nominal start. -/
def execMotionUpdate (s : State) : Host.Outcome State Fault Refusal :=
  .next <|
    let t := s.motNominal
    if s.now < t then s
    else
      let s := (s.motLag ((s.now - t) / motPeriod)).landMotion
      (List.range 4).foldl (fun s n => (((s.startSafe n).limits n).moveAx n).showAx n)
        { s with mot := { s.mot with last := some t } }

/-! ## The bridges -/

/-- The level of a bridge input of a phase with a duty in 1/4,096 (R352): the first input is on for the share 1/2 + duty/2 of
the period, about its centre, the second for the rest, with the dead time between them (DESIGN CHOICE, log entry on R352). -/
def bridgeLevel (duty : Int) (dead t : Nat) (second : Bool) : Bool :=
  let on := clampInt 0 motPeriod ((4096 + duty) * motPeriod / 8192)
  let c : Int := 2 * ((t % motPeriod : Nat) - (motPeriod / 2 : Nat) : Int).natAbs
  if second then decide (on + dead ≤ c) else decide (c + dead < on)

/-- AXn_PA1, AXn_PA2, AXn_PB1 and AXn_PB2 now (R352, R354, R373): low while the bridges are off. -/
def State.bridgePins (s : State) (n : Nat) : List Bool :=
  let a := s.ax n
  let dead := s.fld R.MOT_PWM F.MOT_PWM_DEADT
  if a.off ∨ s.axState n = 0 ∨ s.axState n = 6 then [false, false, false, false]
  else [bridgeLevel a.phA.duty dead s.now false, bridgeLevel a.phA.duty dead s.now true,
    bridgeLevel a.phB.duty dead s.now false, bridgeLevel a.phB.duty dead s.now true]

end Sys2Proof.Machine
end

