-- ==== Sys2Proof/Machine/Flash.lean ====
section
/-! DEFINITION. Flash and OTP: image headers (R440, R441), the update journal (R446), the boot ROM's decision at a start
(R445 to R449), and the copies of images. -/

namespace Sys2Proof.Machine

/-! ## Watchman's words -/

/-- A write of a Watchman register; it lands later (R410). -/
def State.watchWrite (s : State) (a v : Nat) : State :=
  { s.setBit R.CLKPWR_STAT F.CLKPWR_STAT_WBUSY true with pwr := { s.pwr with wpend := s.pwr.wpend ++ [(a, v)] } }

/-- A retention word as last written, landed or still pending (R410, R449). -/
def State.retWord (s : State) (w : Nat) : Nat :=
  match (s.pwr.wpend.reverse.find? (fun e => e.1 == R.CLKPWR_RETw w)) with
  | some e => e.2
  | none => s.regN (R.CLKPWR_RETw w)

/-- BOOTSTATE of the boot word with the trial window, shown by SEC_STAT too (R449, R455). -/
def State.setBootState (s : State) (v window : Nat) : State :=
  (s.setFld R.SEC_STAT F.SEC_STAT_BOOTSTATE v).watchWrite (R.CLKPWR_RETw 0) (v + 65536 * window)

/-- The boot word names state `v`, as SEC_STAT does; a word that disagrees with the journal is rewritten, its WINDOW kept
(R449). -/
def State.agreeBootState (s : State) (v : Nat) : State :=
  if s.retWord 0 % 16 = v then s.setFld R.SEC_STAT F.SEC_STAT_BOOTSTATE v else s.setBootState v (s.retWord 0 / 65536)

/-! ## Images -/

/-- The fields of an image header that the model reads (R440). -/
def hdrKeySlot (l : List Byte) : Nat := leAt l 13 1
def hdrSecver (l : List Byte) : Nat := leAt l 14 2
def hdrVersion (l : List Byte) : Nat := leAt l 16 4
def hdrBodyLen (l : List Byte) : Nat := leAt l 20 4
def hdrSetFmt (l : List Byte) : Nat := leAt l 24 4
def hdrAdvSec (l : List Byte) : Bool := leAt l 28 4 % 2 = 1

/-- Slot `k` holds the engineering key (R3, R438). -/
def engSlot (k : Nat) : Bool := k == 2 && Config.engSample

/-- The bits of OTP key slot `k`: valid, FW, SVC, revoked. Every slot has the FW role; the slot of the engineering key
holds a key and has the SVC role too (R3, R438). -/
def State.slotBits (s : State) (k : Nat) : Nat :=
  (if Config.keyValid k || engSlot k then 1 else 0) + 2 + (if engSlot k then 4 else 0) + (if s.flash.revoked.testBit k then 8 else 0)

/-- Slot `k` may sign firmware: valid, with the FW role, not revoked (R441). -/
def State.slotSigns (s : State) (k : Nat) : Bool := decide (k ≤ 2) && (s.slotBits k &&& 0xB) == 3

/-- The header check (R441). -/
def State.headerOk (s : State) (l : List Byte) : Bool :=
  leAt l 0 4 == 0x4D465854 && leAt l 4 2 == 1 && leAt l 6 2 == 256 && leAt l 8 4 == 0x7240 &&
  (leAt l 12 1).testBit 2 && decide (leAt l 28 4 < 2) && leAt l 176 16 == 0 &&
  decide (4 ≤ hdrBodyLen l ∧ hdrBodyLen l ≤ 4194048 ∧ hdrBodyLen l % 4 = 0) &&
  s.slotSigns (hdrKeySlot l) &&
  decide (Config.sha256 (slice l 112 64) = Config.keyHash (hdrKeySlot l)) &&
  Config.ecdsaVerify (slice l 112 64) (Config.sha256 (l.take 192)) (slice l 192 64) &&
  decide (s.flash.secver ≤ hdrSecver l) &&
  [0, 1, 2, 3].all (fun i => decide (leAt l (64 + 12 * i) 4 + leAt l (68 + 12 * i) 4 ≤ hdrBodyLen l ∧
    leAt l (68 + 12 * i) 4 ≤ 524288))

/-- BODYHASH matches the body (R442, R445). -/
def bodyOk (l : List Byte) : Bool := decide (Config.sha256 (slice l 256 (hdrBodyLen l)) = slice l 32 32)

/-- An image in a slot passes the boot ROM's check (R445). -/
def State.imageOk (s : State) (l : List Byte) : Bool := s.headerOk l && bodyOk l

/-- The number of 64 KiB blocks up to the one that holds the image's last byte (R445). -/
def imageBlocks (l : List Byte) : Nat := (256 + hdrBodyLen l + 65535) / 65536

/-- A slot with block `b` erased and programmed from another (R445). -/
def copied (dst src : List Byte) (b : Nat) : List Byte :=
  let pad := dst ++ List.replicate (65536 * b - dst.length) 0xFF#8
  pad.take (65536 * b) ++ slice src (65536 * b) 65536 ++ pad.drop (65536 * (b + 1))

/-- The Staging state, also in SEC_STAT (R442, R455). -/
def State.setStage (s : State) (v : Nat) : State :=
  { s.setFld R.SEC_STAT F.SEC_STAT_STAGE v with flash := { s.flash with stage := v } }

/-- The activation state (R443, R455). -/
def State.setAct (s : State) (v : Nat) : State := s.setFld R.SEC_STAT F.SEC_STAT_ACT v

/-- The activation state in force: 0 none, 1 Scheduled, 2 Missed, 3 Copying, 4 Trial, 5 Confirmed, 6 Fallen back. -/
def State.act (s : State) : Nat := s.fld R.SEC_STAT F.SEC_STAT_ACT

/-! ## The journal -/

/-- The last record as SEC_JOURNAL shows it (R455). -/
def State.showJournal (s : State) : State :=
  let f := s.flash
  ((s.setFld R.SEC_JOURNAL F.SEC_JOURNAL_STEP f.jStep).setFld R.SEC_JOURNAL F.SEC_JOURNAL_BLOCK f.jBlock).setFld
    R.SEC_JOURNAL F.SEC_JOURNAL_GEN f.jGen

/-- A record appended; a full journal area of 4,096 records starts the next GEN with it (R446). -/
def State.journal (s : State) (step block : Nat) : State :=
  let f := s.flash
  let (g, n) := if 4096 ≤ f.jCount then (f.jGen + 1, 1) else (f.jGen, f.jCount + 1)
  State.showJournal { s with flash := { f with jStep := step, jBlock := block, jGen := g, jCount := n } }

/-! ## Log entries -/

/-- An entry of the security block with its firmware-update event (R454). -/
def State.secLog (s : State) (cause kind detail : Nat) : State :=
  (s.logFault { level := 3, kind := kind, unit := 0, src := 0x0F, cause := cause, detail := detail }).notify 9 cause 0

/-! ## Start of the boot ROM -/

/-- No valid image is left (R448). -/
def State.noImage (s : State) : State := s.setBit R.SEC_STAT F.SEC_STAT_NOIMAGE true

/-- Without a valid image in Active and Previous a Verified Staging is tried, which is copied like an activated one, and
without that the cores are held (R448). -/
def State.tryStaging (s : State) : State :=
  if s.flash.stage = 2 ∧ s.imageOk s.flash.staging then
    let s := s.journal 2 255
    { s with sec := { s.sec with copying := true } }
  else { s.noImage with sec := { s.noImage.sec with copying := false } }

/-- A fallback-pending record with the fallback word; the copy of Previous to Active begins (R448, R449). -/
def State.beginFallback (s : State) (cause : Nat) : State :=
  let s := s.watchWrite (R.CLKPWR_RETw 1) (cause + 256 * (hdrVersion s.flash.active % 2 ^ 24))
  if s.imageOk s.flash.previous then
    let s := (s.journal 6 0).setBootState 3 0
    { s with sec := { s.sec with copying := true } }
  else s.tryStaging

/-- The registers that the boot ROM sets before the firmware starts (R455). -/
def State.bootRegs (s : State) : State :=
  let s := (List.range 3).foldl (fun s k => s.setFld R.SEC_KEYSLOT ⟨4 * k, 4, .ro⟩ (s.slotBits k)) s
  let s := s.setBit R.SEC_KEYSLOT F.SEC_KEYSLOT_SVCANCHOR (!Config.serviceAnchor.isEmpty)
  let s := s.setFld R.SEC_SECVER F.SEC_SECVER_FUSED s.flash.secver
  let s := (List.range 16).foldl (fun s w =>
    s.setReg (R.SEC_PUBKEYw w) (BitVec.ofNat 32 (leNat (slice Config.unitKey (4 * w) 4).reverse))) s
  let s := (s.setBit R.SEC_STAT F.SEC_STAT_ENGSAMPLE Config.engSample).showJournal
  s.setStage s.flash.stage

/-- The boot ROM at a start: the last record of the journal decides (R446). `why` is the cause of a trial that failed:
1 its window expired, 2 a reset during the trial (R448, R449). -/
def State.bootRom (s : State) (why : Nat) : State :=
  let s := { s with sec := { s.sec with copying := false, trialEnd := none } }
  let s := (if s.flash.stage = 1 then s.setStage 3 else s).bootRegs
  let step := s.flash.jStep
  if step = 0 then (if s.imageOk s.flash.active then s.setBootState 0 0 else s.beginFallback 3)
  else if step = 4 then (s.setStage 3).beginFallback why
  else
    let s := if step ≤ 3 then (s.setAct 3).agreeBootState 1 else s.agreeBootState 3
    { s with sec := { s.sec with copying := true } }

end Sys2Proof.Machine
end

