-- ==== Sys2Proof/Machine/Power.lean ====
section
/-! DEFINITION. Power states, clocks and resets (R409 to R429): requests, Watchman, the supply sag, the PLLs, the resets,
and the entry of self-refresh that a Standby entry waits for. -/

namespace Sys2Proof.Machine

/-! ## Log entries -/

/-- An entry of the clock and power block (R429). -/
def State.pwrLog (s : State) (kind cause detail : Nat) : State :=
  s.logFault { level := 3, kind := kind, unit := 0, src := 0x0E, cause := cause, detail := detail }

/-! ## The RTC -/

/-- The RTC in 1/32,768 s (R412). -/
def State.rtc (s : State) : Nat := (s.pwr.rtcBase + (s.now - s.pwr.rtcAt) * 512 / 12500000) % 2 ^ 64

/-- The PTP clock set to a time in ns. -/
def State.setPtp (s : State) (t : Nat) : State :=
  { s with eth := { s.eth with ptpBase := modSub (2 ^ 64) t ((s.now * 5 + 2) / 4) } }

/-- The PTP clock takes its first time from the RTC (R382, R412). -/
def State.ptpFromRtc (s : State) : State := s.setPtp (s.rtc * 1953125 / 64)

/-! ## Resets -/

/-- What every reset keeps: time, the commands that wait, flash and OTP, and Watchman with its registers (R409, R426).
Every other register takes its reset value; memory contents are lost. -/
def State.kept (s : State) : State :=
  let p := s.pwr
  let t := { State.reset with
    now := s.now, pending := s.pending, freeCtr := s.freeCtr, flash := s.flash
    granary := { installed := s.granary.installed }
    regs := s.regs.filter (fun e => decide (0x100400100 ≤ e.1 ∧ e.1 < 0x100400140))
    pwr := { porn := p.porn, rstn := p.rstn, vbat := p.vbat, pwrEn := p.pwrEn, wpend := p.wpend, rtcBase := p.rtcBase,
             rtcAt := p.rtcAt, vlost := p.vlost, cause := p.cause, offAt := p.offAt, wakeDue := p.wakeDue } }
  t.setBit R.CLKPWR_STAT F.CLKPWR_STAT_WBUSY (!p.wpend.isEmpty)

/-- The reset of PORn (R426). -/
def State.coldReset (s : State) (cause : Nat) : State :=
  { s.kept with pwr := { s.kept.pwr with cause := cause } }

/-- The registers that a warm reset keeps: Granary's configuration, and the numbers of the fault log (R426). -/
def warmRegs : List Nat :=
  [R.GRANARY_CTRL, R.GRANARY_ERR_THR, R.GRANARY_REF, R.GRANARY_TIMING, R.FAULT_LOG_WR, R.FAULT_LOG_RD]

/-- The reset of RSTn and of the software warm reset (R426): the PLLs keep running, DRAM is kept in self-refresh with
Granary's configuration and delay RAM, the devices keep their calibration and mode registers, and the fault log is
kept. -/
def State.warmReset (s : State) (cause : Nat) : State :=
  let t := s.coldReset cause
  let t := warmRegs.foldl (fun t a => t.setReg a (s.reg a)) t
  let lock := fun (t : State) f => t.setFld R.CLKPWR_STAT f (s.fld R.CLKPWR_STAT f)
  let t := lock (lock (lock t F.CLKPWR_STAT_CORELOCK) F.CLKPWR_STAT_SHIFTLOCK) F.CLKPWR_STAT_IOLOCK
  let t := { t with
    log := s.log, mem := s.mem.filter (fun e => decide (dramBase ≤ e.1)), dramValid := s.dramValid
    granary := { installed := s.granary.installed, delay := s.granary.delay } }
  let t := [0, 1].foldl (fun t c =>
    t.setChan c { zqCal := (s.chan c).zqCal, ext := (s.chan c).ext, vref := (s.chan c).vref }) t
  if s.bit R.GRANARY_CTRL F.GRANARY_CTRL_EN then
    ((t.setBit R.GRANARY_SR F.GRANARY_SR_REQ true).setBit R.GRANARY_SR F.GRANARY_SR_IN_SR true).setChStates 5
  else t

/-- The chip is held in reset by a pin or is Dormant. -/
def State.inReset (s : State) : Bool := !s.pwr.porn || !s.pwr.rstn || s.power == 0

/-- The start after a reset whose pins are high: the boot ROM runs, and the PTP clock takes the RTC's time (R427). -/
def State.start (s : State) (why : Nat) : State := s.ptpFromRtc.bootRom why

/-- PORN (R426): low, the chip is reset; its rise, or the first power-up, starts the start-up timeline. RSTCAUSE is a
power-up where the level never was low before, a wake where Dormant was left. -/
def execPorn (level : Bool) (s : State) : Host.Outcome State Fault Refusal :=
  .next <|
    if level && s.pwr.porn && !(s.power == 4 && s.pwr.cause == 1) then s
    else if level then
      let s := { s with pwr := { s.pwr with porn := true } }
      if s.pwr.rstn then s.start 2 else s
    else
      let s := { s with pwr := { s.pwr with porn := false, pwrEn := true, offAt := none, wakeDue := false } }
      s.coldReset (if s.pwr.cause = 5 ∧ s.power = 4 then 5 else 2)

/-- RSTN (R426). A level that the pin has already is no edge. -/
def execRstn (level : Bool) (s : State) : Host.Outcome State Fault Refusal :=
  .next <|
    if level && s.pwr.rstn then s
    else if level then
      let s := { s with pwr := { s.pwr with rstn := true } }
      if s.pwr.porn then s.start 2 else s
    else
      let s := { s with pwr := { s.pwr with rstn := false, pwrEn := true, offAt := none, wakeDue := false } }
      if s.pwr.porn then s.warmReset 3 else s

/-- The software warm reset (R426): safe stop, self-refresh, then a reset as by RSTn, and the start. -/
def State.softReset (s : State) (why : Nat) : State :=
  if s.inReset then s else ((s.safeStop 3).warmReset 4).start why

/-! ## Standby, Ready, Dormant -/

/-- Dormant is entered (R418): axes and link stop with the rest of the chip, which is held in reset; PWR_EN falls. -/
def State.enterDormant (s : State) : State :=
  let s := (s.coldReset s.pwr.cause).setPower 0
  { s with pwr := { s.pwr with pwrEn := false, offAt := some s.now } }

/-- Standby is reached (R414, R415); a Dormant request goes on from there. -/
def State.standbyReached (s : State) : State :=
  let due := s.pwr.dormantDue
  let s := s.setPower 1
  if due then s.enterDormant else s

/-- Why a request for Standby or Dormant is refused (R415). -/
def State.noStandby (s : State) : Bool :=
  decide (s.power = 0 ∨ 3 ≤ s.power) || s.pages.any (fun e => e.2.state == 2 || e.2.state == 3) ||
    (List.range 4).any (fun n => decide (2 ≤ s.axState n ∧ s.axState n ≤ 5))

/-- A request is refused: REQREF is set (R415). The status is 0x06. -/
def State.refuseReq (s : State) : Nat × State := (6, s.setBit R.CLKPWR_EVT F.CLKPWR_EVT_REQREF true)

/-- DMA channels 0 to 7 are paused, or their pauses cleared (R415). -/
def State.pauseIntake (s : State) (on : Bool) : State :=
  (List.range 8).foldl (fun s n =>
    s.dmaChCtrlWrite n (putField F.DMA_CHn_CTRL_PAUSE (s.reg (R.DMA_CHn_CTRL n)) (if on then 1 else 0))) s

/-- The entry procedure of Standby up to the request for self-refresh (R415). -/
def State.enterStandbyState (s : State) : State :=
  let s := s.setPower 5
  let rec_ := allHc.foldl (fun m h => if s.bit (R.HC_CTRL h) F.HC_CTRL_EN then m + 2 ^ h else m) 0
  let s := { s with pwr := { s.pwr with hcRec := rec_ } }
  let s := (bitList 24 rec_).foldl (fun s h => (s.setBit (R.HC_CTRL h) F.HC_CTRL_EN false).hcDisabled h) s
  let s := (List.range 4).foldl (fun s n =>
    s.camCtrlWrite n (putField F.CAMn_CTRL_ARM (s.reg (R.CAMn_CTRL n)) 0)) s
  let s := (s.pauseIntake true).setBit R.GRANARY_SR F.GRANARY_SR_AUTOWAKE false
  if !s.bit R.GRANARY_CTRL F.GRANARY_CTRL_EN || s.bit R.GRANARY_SR F.GRANARY_SR_IN_SR then
    (s.setBit R.GRANARY_SR F.GRANARY_SR_REQ true).standbyReached
  else s.startSrEntry

/-- A request for Standby, with its status (R414, R415). -/
def State.requestStandby (s : State) : Nat × State :=
  if s.power = 1 then (0, s) else if s.noStandby then s.refuseReq else (0, s.enterStandbyState)

/-- A request for Dormant, with its status (R414, R415, R418). -/
def State.requestDormant (s : State) : Nat × State :=
  if s.power = 0 then (0, s)
  else if s.noStandby then s.refuseReq
  else if s.power = 1 then (0, State.enterDormant { s with pwr := { s.pwr with wakeDue := false } })
  else (0, State.enterStandbyState { s with pwr := { s.pwr with dormantDue := true, wakeDue := false } })

/-- Leaving Standby ends (R415): the recorded channels are enabled again, then the pauses are cleared. -/
def State.readyReached (s : State) : State :=
  let s := (bitList 24 s.pwr.hcRec).foldl (fun s h => (s.setBit (R.HC_CTRL h) F.HC_CTRL_EN true).hcEnabled h) s
  State.setPower { s.pauseIntake false with pwr := { s.pwr with hcRec := 0 } } 2

/-- A request for Ready, with its status (R414, R415, R428). -/
def State.requestReady (s : State) : Nat × State :=
  if s.power = 2 then (0, s)
  else if s.power ≠ 1 then (6, s)
  else if s.fld R.CLKPWR_BOOTSTAT F.CLKPWR_BOOTSTAT_FAULT ≠ 0 then (7, s)
  else
    let s := (s.setPower 6).setBit R.GRANARY_SR F.GRANARY_SR_AUTOWAKE true
    if s.bit R.GRANARY_SR F.GRANARY_SR_IN_SR then (0, s.startSrExit) else (0, s.readyReached)

/-- A request by its code, as CLKPWR_CTRL.REQ and POWERSTATE name it: 0 Dormant, 1 Standby, 2 Ready (R414, R430). -/
def State.requestState (s : State) (code : Nat) : Nat × State :=
  if code = 0 then s.requestDormant else if code = 1 then s.requestStandby
  else if code = 2 then s.requestReady else (5, s)

/-- A write of CLKPWR_CTRL (R414, R415, R426): SWRST starts the software warm reset, REQ asks for a state; 0b11 asks for
none. -/
def State.clkCtrlWrite (s : State) (r : Requester) (v : Word) : State :=
  let s := (s.writeByCodes R.CLKPWR_CTRL v).written r
  if getField F.CLKPWR_CTRL_SWRST v = 1 then s.softReset 2
  else (s.requestState (getField F.CLKPWR_CTRL_REQ v)).2

/-- STANDBY_REQUEST (R415). -/
def execStandbyRequest (r : Requester) (v : Word) (s : State) : Host.Outcome State Fault Refusal :=
  .next (s.clkCtrlWrite r (putField F.CLKPWR_CTRL_REQ v 1))

/-- READY_REQUEST (R415). -/
def execReadyRequest (r : Requester) (v : Word) (s : State) : Host.Outcome State Fault Refusal :=
  .next (s.clkCtrlWrite r (putField F.CLKPWR_CTRL_REQ v 2))

/-- POWER_DORMANT_REQUEST (R418). -/
def execPowerDormantRequest (r : Requester) (v : Word) (s : State) : Host.Outcome State Fault Refusal :=
  .next (s.clkCtrlWrite r (putField F.CLKPWR_CTRL_REQ v 0))

/-- SOFTWARE_WARM_RESET (R426). -/
def execSoftwareWarmReset (r : Requester) (v : Word) (s : State) : Host.Outcome State Fault Refusal :=
  .next (s.clkCtrlWrite r (putField F.CLKPWR_CTRL_SWRST v 1))

/-- SELF_REFRESH_ENTERED (R133, R415): with the queues empty self-refresh is entered; a Standby entry is then complete. -/
def execSelfRefreshEntered (s : State) : Host.Outcome State Fault Refusal :=
  .next <|
    if s.srReady then
      let s := s.enterSelfRefresh
      if s.power = 5 then s.standbyReached else s
    else s

/-! ## Watchman -/

/-- The start out of Dormant (R414, R418): PWR_EN rises, the cold start follows. -/
def State.wakeUp (s : State) : State :=
  let s := { s with pwr := { s.pwr with pwrEn := true, offAt := none, wakeDue := false, cause := 5 } }
  (s.coldReset 5).start 2

/-- A wake from a source (R412, R418): in Dormant it starts the chip once PWR_EN has been low for 10 ms; elsewhere it
only sets EVT.WAKE, except that a Dormant entry in progress goes on to the start. -/
def State.wake (s : State) (src : Nat) : State :=
  if s.power = 0 then
    let s := s.setReg R.CLKPWR_WAKESRC (BitVec.ofNat 32 (2 ^ src))
    match s.pwr.offAt with
    | some t => if t + ms 10 ≤ s.now then s.wakeUp else { s with pwr := { s.pwr with wakeDue := true } }
    | none => s.wakeUp
  else if s.power = 5 ∧ s.pwr.dormantDue then
    { s.setReg R.CLKPWR_WAKESRC (BitVec.ofNat 32 (2 ^ src)) with pwr := { s.pwr with wakeDue := true } }
  else s.setBit R.CLKPWR_EVT F.CLKPWR_EVT_WAKE true

/-- WAKE_INPUT (R412). -/
def execWakeInput (k : Fin 4) (rising : Bool) (s : State) : Host.Outcome State Fault Refusal :=
  .next <|
    if (s.fld R.CLKPWR_WAKECFG F.CLKPWR_WAKECFG_WEN).testBit k &&
        (s.fld R.CLKPWR_WAKECFG F.CLKPWR_WAKECFG_WPOL).testBit k != rising && s.pwr.vbat then s.wake k
    else s

/-- RTC_ALARM (R412). -/
def execRtcAlarm (s : State) : Host.Outcome State Fault Refusal :=
  .next <|
    if s.bit R.CLKPWR_WAKECFG F.CLKPWR_WAKECFG_ALRMEN && decide (s.wide R.CLKPWR_ALARM_LO ≤ s.rtc) && s.pwr.vbat then
      s.wake 4
    else s

/-- A pending write reaches its register (R410). -/
def State.landWrite (s : State) (a v : Nat) : State :=
  if a = R.CLKPWR_RTC_LO then { s with pwr := { s.pwr with rtcBase := v % 2 ^ 64, rtcAt := s.now } }
  else if a = R.CLKPWR_ALARM_LO then s.setWide a v
  else s.setReg a (BitVec.ofNat 32 v)

/-- WATCHMAN_WRITE_LAND (R410). -/
def execWatchmanWriteLand (s : State) : Host.Outcome State Fault Refusal :=
  .next <|
    match s.pwr.wpend with
    | [] => s
    | (a, v) :: t =>
      let s := State.landWrite { s with pwr := { s.pwr with wpend := t } } a v
      s.setBit R.CLKPWR_STAT F.CLKPWR_STAT_WBUSY (!t.isEmpty)

/-- A plain write of a Watchman word or of WAKECFG (R410, R411, R430). -/
def State.watchmanWrite (s : State) (r : Requester) (a : Nat) (v : Word) : State :=
  if (a = R.CLKPWR_RETw 0 ∨ a = R.CLKPWR_RETw 1) ∧ r ≠ .core 0 then s.refuse r 2
  else if a = R.CLKPWR_WAKESRC then s.written r
  else (s.watchWrite a (if a = R.CLKPWR_WAKECFG then v.toNat % 512 else v.toNat)).written r

/-- A write of a word of the RTC or ALARM pair: the low word takes effect with the write of the high word that follows
(R430). -/
def State.watchPairWrite (s : State) (r : Requester) (lo : Nat) (high : Bool) (v : Word) : State :=
  if high then
    let now := if lo = R.CLKPWR_RTC_LO then s.rtc else s.wide lo
    let l := match s.halfWrites.find? (fun e => e.1 == lo) with
      | some e => e.2.toNat
      | none => now % 2 ^ 32
    let s := s.watchWrite lo (l + 2 ^ 32 * v.toNat)
    State.written { s with halfWrites := s.halfWrites.filter (fun e => e.1 != lo) } r
  else State.written { s with halfWrites := (lo, v) :: s.halfWrites.filter (fun e => e.1 != lo) } r

/-- VBAT_LOSS (R409, R431): Watchman holds 0 in every register, the RTC restarts at 0, and no session is served. -/
def execVbatLoss (s : State) : Host.Outcome State Fault Refusal :=
  .next <|
    let s := { s with
      regs := s.regs.filter (fun e => !decide (0x100400100 ≤ e.1 ∧ e.1 < 0x100400140))
      halfWrites := s.halfWrites.filter (fun e => !decide (0x100400100 ≤ e.1 ∧ e.1 < 0x100400140))
      pwr := { s.pwr with vbat := false, vlost := true, wpend := [], rtcBase := 0, rtcAt := s.now }
      sec := { s.sec with sessions := [] } }
    s.setBit R.CLKPWR_STAT F.CLKPWR_STAT_WBUSY false

/-- VBAT_RETURN (R431, R461): Watchman restarts with its cleared state, and PWR_EN rises; a chip that was Dormant
starts. -/
def execVbatReturn (s : State) : Host.Outcome State Fault Refusal :=
  .next <|
    if s.pwr.vbat then s
    else
      let s := { s with pwr := { s.pwr with vbat := true, pwrEn := true, rtcBase := 0, rtcAt := s.now } }
      if s.power = 0 then s.wakeUp else s

/-! ## PLLs -/

/-- The lock bit of PLL `p`: 0 core, 1 DDR, 2 head-shift, 3 I/O (R430). -/
def lockField (p : Nat) : Field := ⟨4 + p, 1, .ro⟩

/-- PLL_LOCK_LOSS (R421, R429): of the I/O PLL an entry wherever it runs, of the others a permanent fault in Ready and
Printing. -/
def execPllLockLoss (p : Fin 4) (s : State) : Host.Outcome State Fault Refusal :=
  .next <|
    let t := s.setBit R.CLKPWR_STAT (lockField p) false
    if p.val = 3 then (if s.power = 0 then t else t.pwrLog 5 5 7)
    else if s.power ≠ 2 ∧ s.power ≠ 3 then t
    else ((t.setBit R.CLKPWR_EVT F.CLKPWR_EVT_PLLLOSS true).pwrLog 1 5 (4 + p.val)).safeStop 4

/-- PLL_RELOCK (R26, R133, R415, R419): the lock of the DDR PLL ends an exit from self-refresh, and with it Leaving
Standby; a PLL that is stopped does not lock. -/
def execPllRelock (p : Fin 4) (s : State) : Host.Outcome State Fault Refusal :=
  .next <|
    if s.power = 0 ∨ s.pwr.porn = false ∨ (p.val = 1 ∧ s.bit R.GRANARY_SR F.GRANARY_SR_IN_SR) then s
    else
      let s := s.setBit R.CLKPWR_STAT (lockField p) true
      if p.val = 1 then
        let s := s.finishSrExit
        if s.power = 6 then s.readyReached else s
      else s

/-! ## Supply sag -/

/-- DROOP_STRETCH (R422 to R424): at 800 MHz the cycles are stretched and the time to the fallback runs; at 600 MHz the
count of RECOVER starts again. -/
def execDroopStretch (s : State) : Host.Outcome State Fault Refusal :=
  .next <|
    let since := match s.pwr.lowSince with
      | some t => t
      | none => s.now
    let s := { s with pwr := { s.pwr with lowSince := some since, highSince := none } }
    s.setBit R.CLKPWR_STAT F.CLKPWR_STAT_STRETCH (!s.bit R.CLKPWR_STAT F.CLKPWR_STAT_CORE600)

/-- DROOP_CLEARED (R422, R424, R425): stretching ends, and the count of RECOVER starts. -/
def execDroopCleared (s : State) : Host.Outcome State Fault Refusal :=
  .next <|
    let s := { s with pwr := { s.pwr with lowSince := none, highSince := some s.now, uv := false } }
    s.setBit R.CLKPWR_STAT F.CLKPWR_STAT_STRETCH false

/-- SAG_FALLBACK (R423, R429). -/
def execSagFallback (s : State) : Host.Outcome State Fault Refusal :=
  .next <|
    match s.pwr.lowSince with
    | some t =>
      if t + us (s.fld R.CLKPWR_SAGTIME F.CLKPWR_SAGTIME_FBDELAY) ≤ s.now ∧ !s.bit R.CLKPWR_STAT F.CLKPWR_STAT_CORE600 then
        let s := (s.setBit R.CLKPWR_STAT F.CLKPWR_STAT_CORE600 true).setBit R.CLKPWR_STAT F.CLKPWR_STAT_STRETCH false
        let s := s.setBit R.CLKPWR_EVT F.CLKPWR_EVT_SAG true
        (s.count R.CLKPWR_SAGCNT F.CLKPWR_SAGCNT_COUNT 1).pwrLog 5 1 0
      else s
    | none => s

/-- SAG_RECOVER (R424, R429). -/
def execSagRecover (s : State) : Host.Outcome State Fault Refusal :=
  .next <|
    match s.pwr.highSince with
    | some t =>
      if t + us (s.fld R.CLKPWR_SAGTIME F.CLKPWR_SAGTIME_RECOVER) ≤ s.now ∧ s.bit R.CLKPWR_STAT F.CLKPWR_STAT_CORE600 then
        let s := s.setBit R.CLKPWR_STAT F.CLKPWR_STAT_CORE600 false
        (s.setBit R.CLKPWR_EVT F.CLKPWR_EVT_SAGEND true).pwrLog 5 2 0
      else s
    | none => s

/-- UNDERVOLTAGE (R425, R429). -/
def execUndervoltage (s : State) : Host.Outcome State Fault Refusal :=
  .next <|
    let s := { s with pwr := { s.pwr with uv := true } }
    ((s.setBit R.CLKPWR_EVT F.CLKPWR_EVT_UV true).pwrLog 1 3 0).safeStop 4

/-- DIE_TEMP_SAMPLE (R131, R425, R430): CLKPWR_TEMP, the temperature band of Granary, and the overtemperature trip,
which is present until the temperature reads 10 °C below OTTRIP. -/
def execDieTempSample (t : Int) (s : State) : Host.Outcome State Fault Refusal :=
  .next <|
    let s := s.setFld R.CLKPWR_TEMP F.CLKPWR_TEMP_TEMP (wrap 16 t)
    let s := s.sampleBand t
    let trip := 16 * sext 8 (s.fld R.CLKPWR_OT F.CLKPWR_OT_OTTRIP)
    if trip ≤ t ∧ !s.pwr.ot then
      let s := { s with pwr := { s.pwr with ot := true } }
      ((s.setBit R.CLKPWR_EVT F.CLKPWR_EVT_OT true).pwrLog 1 4 0).safeStop 4
    else if t ≤ trip - 160 then { s with pwr := { s.pwr with ot := false } }
    else s

/-! ## Plain writes and derived registers -/

/-- A plain write of a register of the clock and power block (R411, R422, R423, R430, R475). -/
def State.clkWrite (s : State) (r : Requester) (a : Nat) (v : Word) : State :=
  let g := fun f => getField f v
  if a = R.CLKPWR_CTRL then s.clkCtrlWrite r v
  else if a = R.CLKPWR_DROOP then
    let st := g F.CLKPWR_DROOP_STRETCH
    let uv := g F.CLKPWR_DROOP_UV
    if 650 ≤ st ∧ st ≤ 750 ∧ 600 ≤ uv ∧ uv ≤ 700 ∧ uv < st then (s.writeByCodes a v).written r else s.refuse r 5
  else if a = R.CLKPWR_SAGTIME then
    if 1 ≤ g F.CLKPWR_SAGTIME_FBDELAY ∧ 10 ≤ g F.CLKPWR_SAGTIME_RECOVER then (s.writeByCodes a v).written r
    else s.refuse r 5
  else if a = R.CLKPWR_OT then
    if 90 ≤ g F.CLKPWR_OT_OTTRIP ∧ g F.CLKPWR_OT_OTTRIP ≤ 125 then (s.writeByCodes a v).written r else s.refuse r 5
  else if a = R.CLKPWR_RTC_LO then s.watchPairWrite r R.CLKPWR_RTC_LO false v
  else if a = R.CLKPWR_RTC_HI then s.watchPairWrite r R.CLKPWR_RTC_LO true v
  else if a = R.CLKPWR_ALARM_LO then s.watchPairWrite r R.CLKPWR_ALARM_LO false v
  else if a = R.CLKPWR_ALARM_HI then s.watchPairWrite r R.CLKPWR_ALARM_LO true v
  else if R.CLKPWR_WAKECFG ≤ a then s.watchmanWrite r a v
  else (s.writeByCodes a v).written r

/-- The blocks with work, by their bits of CLKPWR_GATE (R420). -/
def State.busyClocks (s : State) : Nat :=
  let busy := (List.range 4).foldl (fun m k => if (s.ham k).pass.isSome then m ||| 2 ^ k else m) 0
  let busy := [0, 1].foldl (fun m e => if s.bit (R.MILLER_ENCe_CTRL e) F.MILLER_ENCe_CTRL_EN then m ||| 2 ^ (4 + e) else m) busy
  let busy := [0, 1, 2, 3].foldl (fun m n => if (s.camPort n).work.isEmpty then m else m ||| 2 ^ (6 + n / 2)) busy
  [0, 1, 2, 3].foldl (fun m n => if 2 ≤ s.axState n ∧ s.axState n ≤ 5 then m ||| 256 else m) busy

/-- The blocks that have had work since the reset, noted as time passes (R420). -/
def State.noteClocks (s : State) : State :=
  { s with pwr := { s.pwr with clocked := s.pwr.clocked ||| s.busyClocks } }

/-- CLKPWR_GATE as it reads (R420, R430): the clock of a block with work runs, that of a block without work since the
reset does not; when the clock of a block stops whose work has ended is not stated, so its bit is free. -/
def State.gateWord (s : State) : Word :=
  BitVec.ofNat 32 (s.busyClocks ||| (s.pwr.clocked &&& Config.free s.freeCtr % 512))

end Sys2Proof.Machine
end

