-- ==== Sys2Proof/Machine/Shepherd.lean ====
section
/-! DEFINITION. Shepherd's commands: retirement and re-admission on request (R297 to R299), entering and clearing safe stop
(R305 to R307), and its registers (R309). -/

namespace Sys2Proof.Machine

/-- A write of FAULT_HC_RETIRE (R299): a channel that is Idle, Printing or Warming retires with RCAUSE 0x4; for another
one an entry records the request. -/
def State.hcRetireWrite (s : State) (v : Word) : State :=
  (bitList 24 v.toNat).foldl (fun s h =>
    if s.hcActive h then s.retireHc h 4
    else s.logFault { level := 1, kind := 5, unit := h, src := 7, cause := 4 }) s

/-- HC_RETIRE_REQUEST (R299). -/
def execHcRetireRequest (r : Requester) (v : Word) (s : State) : Host.Outcome State Fault Refusal :=
  .next ((s.hcRetireWrite v).written r)

/-- A write of FAULT_HC_READMIT (R298). -/
def State.hcReadmitWrite (s : State) (v : Word) : State := (bitList 24 v.toNat).foldl State.readmitHc s

/-- HC_READMIT_REQUEST (R298). -/
def execHcReadmitRequest (r : Requester) (v : Word) (s : State) : Host.Outcome State Fault Refusal :=
  .next ((s.hcReadmitWrite v).written r)

/-- A write of FAULT_NOZ_RETIRE (R299): the named nozzle retires with RSRC 0x3. A number that no nozzle has names
none. -/
def State.nozRetireWrite (s : State) (v : Word) : State :=
  let g := getField F.FAULT_NOZ_RETIRE_NOZ v
  if g < 101376 then s.retireNozzle g .software else s

/-- NOZZLE_RETIRE_REQUEST (R299). -/
def execNozzleRetireRequest (r : Requester) (v : Word) (s : State) : Host.Outcome State Fault Refusal :=
  .next ((s.nozRetireWrite v).written r)

/-- A trigger of R305 is still present (R307): the fault of ENC0, more Granary errors within the window than ERRMAX, a PLL
without lock, undervoltage or overtemperature. -/
def State.triggerPresent (s : State) : Bool :=
  let w := ms (s.fld R.GRANARY_ERR_THR F.GRANARY_ERR_THR_WINDOW)
  let m := s.fld R.GRANARY_ERR_THR F.GRANARY_ERR_THR_ERRMAX
  let pll := fun p => !s.bit R.CLKPWR_STAT (lockField p)
  s.bit (R.ENCn_STAT 0) F.ENCn_STAT_FAULT ||
    [0, 1].any (fun c => (s.chan c).above && decide (m < (recent s.now w (s.chan c).errStamps).length)) ||
    (decide (s.power = 2 ∨ s.power = 3) &&
      (pll 0 || pll 2 || (pll 1 && !s.bit R.GRANARY_SR F.GRANARY_SR_IN_SR && decide (s.chState 0 ≠ 6)))) ||
    s.pwr.uv || s.pwr.ot

/-- Safe stop ends (R307). -/
def State.endSafeStop (s : State) : State :=
  let c := s.fld R.FAULT_STAT F.FAULT_STAT_SSCAUSE
  let s := (s.setBit R.FAULT_STAT F.FAULT_STAT_SAFE false).setFld R.FAULT_STAT F.FAULT_STAT_SSCAUSE 0
  s.logFault { level := 3, kind := 7, unit := 0, src := 0x0B, cause := c }

/-- A write of FAULT_CTRL (R305, R307, R309). -/
def State.faultCtrlWrite (s : State) (r : Requester) (v : Word) : State :=
  let stop := getField F.FAULT_CTRL_SAFESTOP v = 1
  let clear := getField F.FAULT_CTRL_CLEAR v = 1
  if stop then
    let s := ((s.writeByCodes R.FAULT_CTRL v).written r).safeStop 3
    if clear then s.setBit R.FAULT_EVT F.FAULT_EVT_CLEARREF true else s
  else if clear && s.bit R.FAULT_STAT F.FAULT_STAT_SAFE then
    if s.triggerPresent then (s.setBit R.FAULT_EVT F.FAULT_EVT_CLEARREF true).refuse r 4
    else ((s.writeByCodes R.FAULT_CTRL v).written r).endSafeStop
  else (s.writeByCodes R.FAULT_CTRL v).written r

/-- SAFE_STOP_REQUEST (R305). -/
def execSafeStopRequest (r : Requester) (v : Word) (s : State) : Host.Outcome State Fault Refusal :=
  .next (s.faultCtrlWrite r (putField F.FAULT_CTRL_SAFESTOP v 1))

/-- SAFE_STOP_CLEAR (R307). -/
def execSafeStopClear (r : Requester) (v : Word) (s : State) : Host.Outcome State Fault Refusal :=
  .next (s.faultCtrlWrite r (putField F.FAULT_CTRL_CLEAR v 1))

/-- Word `w` of the entry with sequence number FAULT_LOG_RD: what stands at its index (R302, R304). -/
def State.logWord (s : State) (w : Nat) : Word :=
  match s.log.find? (fun e => e.seq % 4096 == s.regN R.FAULT_LOG_RD % 4096) with
  | some e => BitVec.ofNat 32 (leAt (logBytes e) (4 * w) 4)
  | none => 0

end Sys2Proof.Machine
end

