-- ==== Sys2Proof/Machine/Security.lean ====
section
/-! DEFINITION. Identity and update as the hardware and the boot ROM carry them out: signatures (R431), scheduled
activation (R443, R444), the copies (R445, R446), trial, confirmation and fallback (R447 to R450), revocation (R452). -/

namespace Sys2Proof.Machine

/-- PTP_SYNC (R383): the port is SLAVE with an offset below 1 µs, or the unit is the grandmaster. -/
def State.ptpSync (s : State) : Bool :=
  decide (s.eth.ptpState = 6) || (decide (s.eth.ptpState = 9) && decide (s.eth.ptpOffset.natAbs < 1000))

/-- The value of an object that has no register (R407, R408, R453): its default where none was written. -/
def dictDefault (k : Nat) : Nat :=
  if k = 0x110002 then 0xC0A8640A else if k = 0x110003 then 0xFFFFFF00 else if k = 0x120005 then 248
  else if k = 0x130002 then 60 else if k = 0x150005 then 60 else if k = 0x210001 then 1200
  else if k = 0x250002 then 2 else if k = 0x250003 then 3 else if k = 0x250004 then 4 else if k = 0x250005 then 256
  else if k = 0x250006 then 128 else if k = 0x250007 then 100 else if k = 0x250008 then 32 else if k = 0x250009 then 24
  else 0

/-- An object without a register, by index · 256 + subindex. -/
def State.dictVal (s : State) (k : Nat) : Nat := sget dictDefault s.eth.dict k

/-- That object set. -/
def State.setDict (s : State) (k v : Nat) : State :=
  { s with eth := { s.eth with dict := sset dictDefault s.eth.dict k v } }

/-! ## Signatures -/

/-- The digest in SEC_DIGEST0 to SEC_DIGEST7 as bytes (R455). -/
def State.digest (s : State) : List Byte := (List.range 8).flatMap (fun w => (leBytes 4 (s.regN (R.SEC_DIGESTw w))).reverse)

/-- A write of SEC_SIGN_CTRL (R431): only CC0 signs; without VBAT_AO the request is reported by ERR. -/
def State.signWrite (s : State) (r : Requester) (v : Word) : State :=
  if r ≠ .core 0 then s.refuse r 2
  else if getField F.SEC_SIGN_CTRL_GO v = 0 ∨ s.sec.signing.isSome then s.written r
  else if !s.pwr.vbat then (s.setBit R.SEC_SIGN_CTRL F.SEC_SIGN_CTRL_ERR true).written r
  else
    let s := { s with sec := { s.sec with signing := some s.digest } }
    ((s.setBit R.SEC_SIGN_CTRL F.SEC_SIGN_CTRL_BUSY true).setBit R.SEC_SIGN_CTRL F.SEC_SIGN_CTRL_ERR false).written r

/-- SIGN (R431). -/
def execSign (r : Requester) (v : Word) (s : State) : Host.Outcome State Fault Refusal := .next (s.signWrite r v)

/-- A signature as 64 bytes: r and s of 32 bytes each (R431). -/
def padSig (l : List Byte) : List Byte := (l ++ List.replicate 64 0).take 64

/-- The unit key's signature of a digest with the draw that made it (R431). -/
def State.unitSign (s : State) (digest : List Byte) : List Byte × State :=
  (padSig (Config.unitSign digest s.freeCtr), s.drawn)

/-- SIGN_COMPLETE (R431): the signature stands in SEC_SIG0 to SEC_SIG15, or ERR shows that the key could not be
unwrapped. -/
def execSignComplete (s : State) : Host.Outcome State Fault Refusal :=
  .next <|
    match s.sec.signing with
    | none => s
    | some d =>
      let s := { s with sec := { s.sec with signing := none } }
      let s := s.setBit R.SEC_SIGN_CTRL F.SEC_SIGN_CTRL_BUSY false
      if !s.pwr.vbat then s.setBit R.SEC_SIGN_CTRL F.SEC_SIGN_CTRL_ERR true
      else
        let (sig, s) := s.unitSign d
        (List.range 16).foldl (fun s w =>
          s.setReg (R.SEC_SIGw w) (BitVec.ofNat 32 (leNat (slice sig (4 * w) 4).reverse))) s

/-- A plain write of the SEC block (R431, R447, R455). -/
def State.digestWrite (s : State) (r : Requester) (a : Nat) (v : Word) : State :=
  if r ≠ .core 0 then s.refuse r 2 else (s.writeByCodes a v).written r

/-! ## Activation -/

/-- The state is one in which a reset for an update would disturb a job (R444, R450). -/
def State.updateBlocked (s : State) : Bool :=
  s.power == 3 || s.pages.any (fun e => e.2.state == 2 || e.2.state == 3) || !s.ptpSync

/-- A write of ACTIVATE with its status (R443). -/
def State.activateWrite (s : State) (v : Nat) : Nat × State :=
  if v = 0xFFFFFFFFFFFFFFFF then
    if s.act = 1 then
      let s := ((s.setAct 0).journal 0 0).setBootState 0 0
      (0, { s with flash := { s.flash with activate := v } })
    else (0, s)
  else if s.flash.stage ≠ 2 then (6, s)
  else if v ≠ 0 ∧ !s.ptpSync then (7, s)
  else if v ≠ 0 ∧ v < s.ptp + 1000000000 then (5, s)
  else
    let s := ((s.setAct 1).journal 1 0).setBootState 1 (s.dictVal 0x150005)
    (0, { s with flash := { s.flash with activate := v } })

/-- ACTIVATION_TIME (R444). -/
def execActivationTime (s : State) : Host.Outcome State Fault Refusal :=
  .next <|
    let t := s.flash.activate
    if s.act ≠ 1 ∨ t = 0 ∨ t = 0xFFFFFFFFFFFFFFFF ∨ s.ptp < t then s
    else
      let s := { s with flash := { s.flash with activate := 0xFFFFFFFFFFFFFFFF } }
      if s.updateBlocked then
        let s := ((s.setAct 2).journal 0 0).setBootState 0 0
        (s.setBit R.SEC_EVT F.SEC_EVT_MISSED true).secLog 3 5 0
      else s.softReset 2

/-! ## Copies -/

/-- The trial window in the boot word, 60 s where it was lost (R447, R449). -/
def State.trialWindow (s : State) : Nat := if s.retWord 0 / 65536 = 0 then 60 else s.retWord 0 / 65536

/-- The firmware of a new image starts: the trial begins (R445, R447, R449). A failed check falls back instead (R448). -/
def State.activated (s : State) : State :=
  if s.imageOk s.flash.active then
    let win := s.trialWindow
    let s := ((s.setStage 0).setAct 4).journal 4 0
    let s := s.setBootState 2 win
    { s with
      flash := { s.flash with activate := 0xFFFFFFFFFFFFFFFF }
      sec := { s.sec with copying := false, trialEnd := some (s.now + ms (1000 * win)) } }
  else (s.setStage 3).beginFallback 3

/-- The copy of Previous to Active is complete: the fallback is performed (R448, R450). -/
def State.fellBack (s : State) (cause : Nat) : State :=
  if s.imageOk s.flash.active then
    let s := ((s.setAct 6).journal 0 0).setBootState 0 0
    let s := { s with sec := { s.sec with copying := false } }
    (s.setBit R.SEC_EVT F.SEC_EVT_FELLBACK true).secLog 4 1 cause
  else s.tryStaging

/-- COPY_BLOCK (R445, R446): the next block of the copy that the journal records is erased, programmed and read back,
and a record follows. After the last block of a copy the next copy or the check of Active follows. -/
def execCopyBlock (s : State) : Host.Outcome State Fault Refusal :=
  .next <|
    if !s.sec.copying || s.power != 4 || !s.pwr.porn || !s.pwr.rstn then s
    else
      let f := s.flash
      let step := f.jStep
      let toPrevious := step = 1 ∨ (step = 2 ∧ f.jBlock + 1 < imageBlocks f.active)
      if toPrevious then
        let b := if step = 1 then 0 else f.jBlock + 1
        State.journal { s with flash := { f with previous := copied f.previous f.active b } } 2 b
      else if step = 2 ∨ step = 3 then
        let b := if step = 2 then 0 else f.jBlock + 1
        let s := State.journal { s with flash := { f with active := copied f.active f.staging b } } 3 b
        if imageBlocks f.staging ≤ b + 1 then s.activated else s
      else
        let b := if step = 6 then 0 else f.jBlock + 1
        let s := State.journal { s with flash := { f with active := copied f.active f.previous b } } 5 b
        if imageBlocks f.previous ≤ b + 1 then s.fellBack (s.retWord 1 % 16) else s

/-! ## Trial and fallback -/

/-- A write of SEC_CONFIRM (R447): only CC0 confirms; another value, or a write outside the trial, is ignored, as is one
before the start-up is complete without a start fault, which the firmware does not make. -/
def State.confirmWrite (s : State) (r : Requester) (v : Word) : State :=
  if r ≠ .core 0 then s.refuse r 2
  else if v ≠ 0x434F4E46#32 ∨ s.sec.trialEnd.isNone ∨ s.power = 4 ∨
      s.fld R.CLKPWR_BOOTSTAT F.CLKPWR_BOOTSTAT_FAULT ≠ 0 then s.written r
  else
    let s := { s with sec := { s.sec with trialEnd := none } }
    let s := ((s.setAct 5).journal 0 0).setBootState 0 0
    let f := s.flash
    let s := if hdrAdvSec f.active then { s with flash := { f with secver := max f.secver (hdrSecver f.active) } } else s
    let s := s.setFld R.SEC_SECVER F.SEC_SECVER_FUSED s.flash.secver
    ((s.setBit R.SEC_EVT F.SEC_EVT_CONFIRMED true).secLog 9 5 0).written r

/-- CONFIRM (R447). -/
def execConfirm (r : Requester) (v : Word) (s : State) : Host.Outcome State Fault Refusal := .next (s.confirmWrite r v)

/-- TRIAL_EXPIRY (R447, R448): Watchman asserts a reset equal to RSTn, and the boot ROM finds the trial failed. -/
def execTrialExpiry (s : State) : Host.Outcome State Fault Refusal :=
  .next <|
    match s.sec.trialEnd with
    | some t => if t ≤ s.now ∧ !s.inReset then (s.warmReset 3).start 1 else s
    | none => s

/-- SEC_TRIAL.REMAIN: whole seconds left in the trial window, 0 outside a trial (R455). -/
def State.trialWord (s : State) : Word :=
  match s.sec.trialEnd with
  | some t => BitVec.ofNat 32 (min 65535 ((t - s.now) / 800000000))
  | none => 0

/-- A write of 1 to FALLBACK with its status (R450). -/
def State.fallbackWrite (s : State) : Nat × State :=
  let p := s.flash.previous
  if s.sec.trialEnd.isSome ∨ s.updateBlocked then (6, s)
  else if s.flash.revoked.testBit (hdrKeySlot p) ∨ hdrSecver p < s.flash.secver then (7, s)
  else
    let s := (s.journal 6 0).setBootState 3 0
    let s := s.watchWrite (R.CLKPWR_RETw 1) (4 + 256 * (hdrVersion s.flash.active % 2 ^ 24))
    (0, s.softReset 2)

/-! ## Revocation -/

/-- A write of a slot number to REVOKE with its status (R452). A number that names no slot is out of range. -/
def State.revokeWrite (s : State) (k : Nat) : Nat × State :=
  if 2 < k then (5, s)
  else if s.act = 3 ∨ s.act = 4 then (6, s)
  else
    let others := [0, 1, 2].any (fun j => j != k && s.slotSigns j)
    let signs := fun l : List Byte => !l.isEmpty && hdrKeySlot l == k
    if (s.slotSigns k && !others) || signs s.flash.active || signs s.flash.previous then (7, s)
    else
      let s := { s with flash := { s.flash with revoked := s.flash.revoked ||| 2 ^ k } }
      let s := s.setFld R.SEC_KEYSLOT ⟨4 * k, 4, .ro⟩ (s.slotBits k)
      (0, s.secLog 8 5 0)

end Sys2Proof.Machine
end

