-- ==== Sys2Proof/Machine/Bus.lean ====
section
/-! DEFINITION. Accesses of the address map: what a register write does in each block, what a register read returns and
changes, accesses of memory, and the four access commands (R5 to R8, R28 to R30, R475). -/

namespace Sys2Proof.Machine

/-! ## Writes by block -/

/-- The state that a command leaves; the state before it where it stops. -/
def nextOr (s : State) : Host.Outcome State Fault Refusal → State
  | .next t => t
  | _ => s

/-- A unit number below `n`, as the commands name units. -/
def unitOf {n : Nat} [NeZero n] (i : Nat) : Fin n := Fin.ofNat n i

/-- A write of the LINK block (R36, R62, R67, R69, R73). -/
def State.linkWrite (s : State) (r : Requester) (a : Nat) (v : Word) : State :=
  (if a = R.LINK_CTRL then s.linkCtrlWrite v
   else if a = R.LINK_RETIRE then s.linkRetireWrite v
   else if a = R.LINK_READMIT then s.linkReadmitWrite v
   else if a = R.LINK_PM_CTRL then s.linkPmWrite v
   else s.writeByCodes a v).written r

/-- A write of the DMA block (R84, R85, R105, R109). -/
def State.dmaWrite (s : State) (r : Requester) (a : Nat) (v : Word) : State :=
  if a = R.DMA_CTRL then (s.dmaCtrlWrite v).written r
  else if a < 0x100010100 then (s.writeByCodes a v).written r
  else
    let n := (a - 0x100010100) / 0x40
    let o := (a - 0x100010100) % 0x40
    if o = 0 then (s.dmaChCtrlWrite n v).written r
    else if o = 0xC then (s.ringHiWrite n v).written r
    else if o = 0x14 then nextOr s (execDoorbell r (unitOf n) s)
    else if o = 0x3C then (s.abortWrite n (getField F.DMA_CHn_ABORT_INDEX v)).written r
    else (s.writeByCodes a v).written r

/-- A write of the GRANARY block (R117, R129, R130, R133, R135). -/
def State.granaryWrite (s : State) (r : Requester) (a : Nat) (v : Word) : State :=
  if a = R.GRANARY_CTRL then s.granaryCtrlWrite r v
  else if a = R.GRANARY_SR then (s.granarySrWrite v).written r
  else if a = R.GRANARY_INIT_GO then s.initGoWrite r v
  else if a = R.GRANARY_DLY_DATA then s.delayAccess r (some v)
  else if a = R.GRANARY_TIMING ∧ s.bit R.GRANARY_CTRL F.GRANARY_CTRL_EN then s.written r
  else (s.writeByCodes a v).written r

/-- A write of the MILLER block (R153, R154, R159): configuration writes of an encoder are ignored while EN is 1. -/
def State.millerWrite (s : State) (r : Requester) (a : Nat) (v : Word) : State :=
  if a = R.MILLER_CTRL then (s.millerCtrlWrite v).written r
  else if a < R.MILLER_ENCe_CTRL 0 then (s.writeByCodes a v).written r
  else
    let e := (a - R.MILLER_ENCe_CTRL 0) / 0x40
    let o := (a - R.MILLER_ENCe_CTRL 0) % 0x40
    if o = 0 then s.encCtrlWrite r e v
    else if o < 0x10 ∧ s.bit (R.MILLER_ENCe_CTRL e) F.MILLER_ENCe_CTRL_EN then s.written r
    else (s.writeByCodes a v).written r

/-- A write of WEAVER_LVLBUF (R167, R197): a DEPTH outside 12 to 761, or one that breaks the bound of R167. -/
def State.depthWrite (s : State) (r : Requester) (k : Nat) (v : Word) : State :=
  let d := getField F.WEAVER_LVLBUF_DEPTH v
  if d < 12 ∨ 761 < d then s.refuse r 5
  else
    let t := s.setFld (R.WEAVER_LVLBUF k) F.WEAVER_LVLBUF_DEPTH d
    if t.depthHolds k t.lead (fun _ _ => none) then t.written r else (s.setDepthEvt [k]).refuse r 5

/-- A write of the block of hamlet `k` (R168, R197, R199, R291, R308). -/
def State.hamletWrite (s : State) (r : Requester) (k a : Nat) (v : Word) : State :=
  if a = R.HAM_LEAD k then s.leadWrite r v
  else if a < R.WEAVER_CFG k then (s.writeByCodes a v).written r
  else if a = R.WEAVER_EVT k ∨ a = R.WEAVER_EVT_EN k then (s.writeByCodes a v).written r
  else if a = R.WEAVER_OVERLAP k then s.overlapWrite r v
  else if R.WEAVER_CNT_TWIN k ≤ a ∧ a ≤ R.WEAVER_CNT_CLAMP k then (s.writeByCodes a v).written r
  else if s.anyPrinting then s.refuse r 4
  else if a = R.WEAVER_LVLBUF k then s.depthWrite r k v
  else ((s.writeByCodes a v).refreshLimits).written r

/-- A write of the block of head channel `h` (R202, R217, R236, R237, R285). -/
def State.headWrite (s : State) (r : Requester) (h a : Nat) (v : Word) : State :=
  if a = R.HC_CTRL h then s.hcCtrlWrite r h v
  else if a = R.HC_SCAN_CFG h then s.scanCfgWrite r h v
  else if a = R.HC_EVT h ∨ a = R.HC_EVT_EN h ∨ isCounter a then (s.writeByCodes a v).written r
  else if a = R.BR_ROWU h then s.rowRegWrite r h 0 v
  else if a = R.BR_ROWD h then s.rowRegWrite r h 1 v
  else if R.HC_PROF0 h ≤ a ∧ a ≤ R.HC_PROF4 h ∧ s.bit (R.HC_CTRL h) F.HC_CTRL_EN then s.written r
  else if s.hcState h = 2 ∨ s.hcState h = 3 then s.refuse r 4
  else if a = R.HC_COMBLINE h then ((s.combLineSet h v).refreshLimits).written r
  else ((s.writeByCodes a v).refreshLimits).written r

/-- The port or a port of pipeline `p` is armed. -/
def State.camArmed (s : State) (n : Nat) : Bool := s.bit (R.CAMn_CTRL n) F.CAMn_CTRL_ARM
def State.pipeArmed (s : State) (p : Nat) : Bool := s.camArmed (2 * p) || s.camArmed (2 * p + 1)

/-- A write of the registers of camera port `n`, at offset `o` of them (R314, R319, R337). -/
def State.portWrite (s : State) (r : Requester) (n o a : Nat) (v : Word) : State :=
  if o = 0 then (s.camCtrlWrite n v).written r
  else if o = 8 then (if s.camArmed n then s else s.writeByCodes a v).written r
  else if o = 0x10 ∨ o = 0x14 then
    if s.camArmed n then s.refuse r 4 else (s.exposureWrite n a v).written r
  else if o = 0x30 then (s.serialCfgWrite n v).written r
  else if o = 0x34 then nextOr s (execSerialDataAccess r (unitOf n) (some v) s)
  else (s.writeByCodes a v).written r

/-- A write of the CAM block (R318, R323, R335, R337). -/
def State.camWrite (s : State) (r : Requester) (a : Nat) (v : Word) : State :=
  if a = R.CAM_READMIT then nextOr s (execCameraPortReadmit r v s)
  else if a = R.CAM_NOZ_RETIRE then nextOr s (execCamNozzleRetire r v s)
  else if a = R.CAM_TAB_DATA then nextOr s (execCamTableAccess r (some v) s)
  else if a < R.CAMn_CTRL 0 then (s.writeByCodes a v).written r
  else if a < R.Pp_CTRL 0 then s.portWrite r ((a - R.CAMn_CTRL 0) / 0x80) ((a - R.CAMn_CTRL 0) % 0x80) a v
  else
    let p := (a - R.Pp_CTRL 0) / 0x80
    if s.pipeArmed p ∧ (a = R.Pp_CTRL p ∨ a = R.Pp_REGION p ∨ a = R.Pp_CMPTHR p) then s.refuse r 4
    else if s.pipeArmed p ∧ (a = R.Pp_RES_LO p ∨ a = R.Pp_RES_HI p) then s.written r
    else (s.writeByCodes a v).written r

/-- A write of a word of a pair whose low word takes effect with the write of the high word that follows (R260). -/
def State.pairWrite (s : State) (lo : Nat) (high : Bool) (v : Word) : State :=
  if high then
    let s := match s.halfWrites.find? (fun e => e.1 == lo) with
      | some e => s.setReg lo e.2
      | none => s
    { s.setReg (lo + 4) v with halfWrites := s.halfWrites.filter (fun e => e.1 != lo) }
  else { s with halfWrites := (lo, v) :: s.halfWrites.filter (fun e => e.1 != lo) }

/-- A write of the registers of encoder path `n`, at offset `o` of them (R243, R247, R260): VEL follows SCALE at
once (R248). -/
def State.pathWrite (s : State) (r : Requester) (n o a : Nat) (v : Word) : State :=
  if o = 0 then (s.pathCtrlWrite n v).written r
  else if (o = 4 ∨ o = 8) ∧ s.encOn n then s.written r
  else if o = 0xC ∧ getField F.ENCn_IDXCFG_REARM v = 1 then nextOr s (execIndexRearm r (unitOf n) v s)
  else if a = R.ENCn_SCALE n then ((s.writeByCodes a v).setSpeed n (sext 32 (s.regN (R.ENCn_SPEED n)))).written r
  else if o = 0x20 then (s.pairWrite a false v).written r
  else if o = 0x24 then (s.pairWrite (a - 4) true v).written r
  else (s.writeByCodes a v).written r

/-- A write of the POS block below Bellringer (R259, R260). -/
def State.posWrite (s : State) (r : Requester) (a : Nat) (v : Word) : State :=
  if a = R.POS_TAB_DATA_HI then nextOr s (execTableEntryStore r v s)
  else if a < R.ENCn_CTRL 0 ∨ R.POS_TAB_ADDR ≤ a then (s.writeByCodes a v).written r
  else if a < R.SSIm_CFG 0 then s.pathWrite r ((a - R.ENCn_CTRL 0) / 0x80) ((a - R.ENCn_CTRL 0) % 0x80) a v
  else if a < R.CMPj_CTRL 0 then (s.writeByCodes a v).written r
  else
    let j := (a - R.CMPj_CTRL 0) / 0x40
    let o := (a - R.CMPj_CTRL 0) % 0x40
    if o = 0 then (s.cmpCtrlWrite j v).written r
    else if o = 8 ∨ o = 0x10 then (s.pairWrite a false v).written r
    else if o = 0xC ∨ o = 0x14 then (s.pairWrite (a - 4) true v).written r
    else (s.writeByCodes a v).written r

/-- A command of MOT_AXn_CMD by its code (R377). -/
def State.motCommand (s : State) (r : Requester) (n : Fin 4) (code : Nat) : State :=
  if code = 1 then nextOr s (execMoveToTarget r n s)
  else if code = 2 then nextOr s (execStopAtDmax r n s)
  else if code = 3 then nextOr s (execQuickStop r n s)
  else if code = 4 then nextOr s (execHomeAxis r n s)
  else if code = 5 then nextOr s (execEngageGearing r n s)
  else if code = 6 then nextOr s (execDisengageGearing r n s)
  else if code = 7 then nextOr s (execSetPosition r n s)
  else s.written r

/-- A write of the MOTION block (R377): commands, the low word of GSCHED, and the other registers. -/
def State.motWrite (s : State) (r : Requester) (a : Nat) (v : Word) : State :=
  if R.MOT_AXn_CTRL 0 ≤ a ∧ (a - R.MOT_AXn_CTRL 0) % 0x80 = 4 then
    s.motCommand r (unitOf ((a - R.MOT_AXn_CTRL 0) / 0x80)) (getField F.MOT_AXn_CMD_CMD v)
  else if a = R.MOT_AX2_GSCHED_LO then (s.pairWrite a false v).written r
  else (s.motSet a v).written r

/-- A write of the SEC block (R30, R431, R447, R455): none from the link host. -/
def State.secWrite (s : State) (r : Requester) (a : Nat) (v : Word) : State :=
  match r with
  | .host _ => s.refuse r 2
  | _ =>
    if a = R.SEC_CONFIRM then s.confirmWrite r v
    else if a = R.SEC_SIGN_CTRL then s.signWrite r v
    else if R.SEC_DIGESTw 0 ≤ a ∧ a < R.SEC_SIGw 0 then s.digestWrite r a v
    else (s.writeByCodes a v).written r

/-- A write of the FAULT block (R298, R299, R305, R307, R309). -/
def State.faultWrite (s : State) (r : Requester) (a : Nat) (v : Word) : State :=
  if a = R.FAULT_CTRL then s.faultCtrlWrite r v
  else if a = R.FAULT_HC_RETIRE then (s.hcRetireWrite v).written r
  else if a = R.FAULT_HC_READMIT then (s.hcReadmitWrite v).written r
  else if a = R.FAULT_NOZ_RETIRE then (s.nozRetireWrite v).written r
  else (s.writeByCodes a v).written r

/-- A write of the register at address `a`, which the register map has, by its block (R28). -/
def State.regWrite (s : State) (r : Requester) (a : Nat) (v : Word) : State :=
  let o := a - 0x100000000
  if o < 0x10000 then s.linkWrite r a v
  else if o < 0x20000 then s.dmaWrite r a v
  else if o < 0x30000 then s.granaryWrite r a v
  else if o < 0x40000 then s.millerWrite r a v
  else if o < 0x140000 then s.hamletWrite r ((o - 0x100000) / 0x10000) a v
  else if o < 0x198000 then s.headWrite r ((o - 0x180000) / 0x1000) a v
  else if o < 0x210000 then s.camWrite r a v
  else if o < 0x308000 then s.posWrite r a v
  else if o < 0x310000 then s.brWrite r a v
  else if o < 0x320000 then s.motWrite r a v
  else if o < 0x330000 then
    if R.CAL_HCh_TRIM 0 ≤ a ∧ (a - R.CAL_HCh_TRIM 0) % 0x20 = 0 then
      (s.trimWrite ((a - R.CAL_HCh_TRIM 0) / 0x20) v).written r
    else (s.writeByCodes a v).written r
  else if o < 0x410000 then s.clkWrite r a v
  else if o < 0x420000 then s.secWrite r a v
  else s.faultWrite r a v

/-! ## Reads -/

/-- WEAVER_LVLBUF as it reads: DEPTH beside the slots whose lines some row has still to take (R197). -/
def State.levelWord (s : State) (k : Nat) : Word :=
  let rows := s.enabledRows.filter (fun x => x.1 / 6 == k)
  let used := ((s.ham k).valid.filter (fun l => rows.any (fun x => !lineLt l (s.row x.1 x.2).nextTake))).length
  putField F.WEAVER_LVLBUF_USED (s.reg (R.WEAVER_LVLBUF k)) used

/-- WEAVER_RAMPSTAT as it reads (R189, R190, R197). -/
def State.rampWord (s : State) (k : Nat) : Word :=
  let x := s.ham k
  let n := fun b : Bool => if b then 1 else 0
  BitVec.ofNat 32 (n x.toneOpen + 2 * n x.gainOpen + 4 * n (s.regN (R.WEAVER_MASKLINE k) != 0xFFFFFFFF) +
    256 * s.weaver.readmit.length)

/-- POS_INSTATE as it reads: the switch levels after POL, the filtered mark levels, and the filtered Z levels (R260). -/
def State.instateWord (s : State) : Word :=
  let bits := fun f : Nat → Bool => (List.range 4).foldl (fun m i => if f i then m ||| 2 ^ i else m) 0
  BitVec.ofNat 32 (s.homeLevels % 256 + 256 * bits (fun i => (s.mark i).level) + 4096 * bits (fun i => (s.encSt i).z))

/-- What the register at address `a` shows without the effects of a read: registers that show a unit's state are
computed from it, and the others hold their word. -/
def State.shown (s : State) (a : Nat) : Word :=
  let o := a - 0x100000000
  let w64 := fun (v : Int) (high : Bool) => BitVec.ofNat 32 (wrap 64 v / (if high then 2 ^ 32 else 1))
  if o < 0x10000 then
    if R.LINK_STREAMs_CREDIT 0 ≤ a then s.streamCredit ((a - R.LINK_STREAMs_CREDIT 0) / 4) else s.readByCodes a
  else if o < 0x20000 then
    if a = R.DMA_STAT then BitVec.ofNat 32 ((List.range 32).map (fun n => outstanding (s.ch n))).sum
    else if a < 0x100010100 then s.readByCodes a
    else
      let n := (a - 0x100010100) / 0x40
      let c := (a - 0x100010100) % 0x40
      if c = 0x1C then putField F.DMA_CHn_STAT_OUTSTANDING (s.reg a) (outstanding (s.ch n))
      else if c = 0x20 ∨ c = 0x24 then w64 (s.curAddr n false) (c = 0x24)
      else if c = 0x28 ∨ c = 0x2C then w64 (s.curAddr n true) (c = 0x2C)
      else if c = 0x30 then BitVec.ofNat 32 (dmaRemain (s.ch n))
      else s.readByCodes a
  else if o < 0x30000 then
    if R.GRANARY_ERRLOG0 ≤ a ∧ a ≤ R.GRANARY_ERRLOG3 then s.errlogWord ((a - R.GRANARY_ERRLOG0) / 4)
    else if a = R.GRANARY_CHc_QUEUE 0 then s.queueWord 0
    else if a = R.GRANARY_CHc_QUEUE 1 then s.queueWord 1
    else if a = R.GRANARY_DLY_DATA then
      BitVec.ofNat 32 (s.delayWord (s.fld R.GRANARY_DLY_ADDR F.GRANARY_DLY_ADDR_INDEX))
    else s.readByCodes a
  else if o < 0x40000 then
    if R.MILLER_ENCe_CTRL 0 ≤ a then
      let e := (a - R.MILLER_ENCe_CTRL 0) / 0x40
      let c := (a - R.MILLER_ENCe_CTRL 0) % 0x40
      if c = 0x10 then s.encStat e
      else if 0x14 ≤ c ∧ c ≤ 0x1C then s.encResult e ((c - 0x14) / 4)
      else s.readByCodes a
    else s.readByCodes a
  else if o < 0x140000 then
    let k := (o - 0x100000) / 0x10000
    if a = R.HAM_STAT k then putField F.HAM_STAT_LEADNOW (s.reg a) (wrap 16 (s.leadNow k))
    else if a = R.HAM_PREPLINE k then BitVec.ofNat 32 (prepLine (s.ham k))
    else if a = R.WEAVER_LVLBUF k then s.levelWord k
    else if a = R.WEAVER_RAMPSTAT k then s.rampWord k
    else s.readByCodes a
  else if o < 0x198000 then
    let h := (o - 0x180000) / 0x1000
    if a = R.HC_TEMP h then
      putField F.HC_TEMP_AGE (s.reg a) (min 255 ((s.now - (s.hc h).freshAt.getD s.now) / us 1000))
    else s.readByCodes a
  else if o < 0x210000 then
    if a = R.CAM_TAB_DATA then
      BitVec.ofNat 32 (s.camTab (s.fld R.CAM_TAB_ADDR F.CAM_TAB_ADDR_TAB) (s.fld R.CAM_TAB_ADDR F.CAM_TAB_ADDR_UNIT)
        (s.fld R.CAM_TAB_ADDR F.CAM_TAB_ADDR_INDEX))
    else if R.CAMn_CTRL 0 ≤ a ∧ a < R.Pp_CTRL 0 ∧ (a - R.CAMn_CTRL 0) % 0x80 = 0x34 then
      serialWord (s.camPort ((a - R.CAMn_CTRL 0) / 0x80))
    else if a = R.Pp_STAT 0 ∨ a = R.Pp_STAT 1 then
      putField F.Pp_STAT_BUSY (s.readByCodes a)
        (if s.now < (s.pipe ((a - R.Pp_CTRL 0) / 0x80)).busyUntil then 1 else 0)
    else s.readByCodes a
  else if o < 0x308000 then
    if a = R.POS_INSTATE then s.instateWord
    else if a = R.POS_TAB_DATA_LO then BitVec.ofNat 32 s.tableEntry
    else if a = R.POS_TAB_DATA_HI then BitVec.ofNat 32 (s.tableEntry / 2 ^ 32)
    else if R.MARKi_CFG 0 ≤ a ∧ a < R.CMPj_CTRL 0 ∧ 4 ≤ (a - R.MARKi_CFG 0) % 0x20 ∧ (a - R.MARKi_CFG 0) % 0x20 ≤ 0x10 then
      BitVec.ofNat 32 (s.markWord ((a - R.MARKi_CFG 0) / 0x20) ((a - R.MARKi_CFG 0) % 0x20 / 4 - 1))
    else s.readByCodes a
  else if o < 0x310000 then
    if a = R.BR_PHI_LO ∨ a = R.BR_PHI_HI then w64 (Int.fdiv s.phiNow 65536) (a = R.BR_PHI_HI)
    else if a = R.BR_PHIMAX_LO ∨ a = R.BR_PHIMAX_HI then w64 (Int.fdiv s.phimaxNow 65536) (a = R.BR_PHIMAX_HI)
    else s.readByCodes a
  else if o < 0x400000 then s.readByCodes a
  else if o < 0x410000 then
    if a = R.CLKPWR_RTC_LO ∨ a = R.CLKPWR_RTC_HI then w64 s.rtc (a = R.CLKPWR_RTC_HI)
    else if a = R.CLKPWR_GATE then s.gateWord
    else s.readByCodes a
  else if o < 0x420000 then (if a = R.SEC_TRIAL then s.trialWord else s.readByCodes a)
  else if R.FAULT_LOG_Ww 0 ≤ a then s.logWord ((a - R.FAULT_LOG_Ww 0) / 4)
  else s.readByCodes a

/-- The register at `a` is the low word of a pair that a read latches (R8, R109, R260, R284, R302, R377, R430): the
compare-table entry, and TS and POS of a log entry, among them. -/
def pairLow (a : Nat) : Bool :=
  let o := a - 0x100000000
  if a < 0x100000000 then false
  else if 0x10100 ≤ o ∧ o < 0x10900 then [8, 0x20, 0x28, 0x34].contains ((o - 0x10100) % 0x40)
  else if 0x300100 ≤ o ∧ o < 0x300300 then [0x20, 0x28, 0x30].contains ((o - 0x300100) % 0x80)
  else if 0x300300 ≤ o ∧ o < 0x300380 then [0xC, 0x14].contains ((o - 0x300300) % 0x40)
  else if 0x300400 ≤ o ∧ o < 0x300480 then [4, 0xC].contains ((o - 0x300400) % 0x20)
  else if 0x300500 ≤ o ∧ o < 0x300700 then [8, 0x10].contains ((o - 0x300500) % 0x40)
  else [R.BR_ORG_LO, R.BR_PHI_LO, R.BR_PHIMAX_LO, R.MOT_AX2_GSCHED_LO, R.CLKPWR_RTC_LO, R.CLKPWR_ALARM_LO,
    R.POS_TAB_DATA_LO, R.FAULT_LOG_Ww 1, R.FAULT_LOG_Ww 3].contains a

/-- What a read of the register at `a` returns: the latched word where `a` is the high word of a pair (R8). -/
def State.readWord (s : State) (a : Nat) : Word :=
  if pairLow (a - 4) then sget (fun _ => 0) s.highLatch (a - 4) else s.shown a

/-- The high word that a read of the low word at `a` latches (R8). -/
def State.latchHigh (s : State) (a : Nat) : State :=
  { s with highLatch := sset (fun _ => 0) s.highLatch a (s.shown (a + 4)) }

/-- A read of the register at `a`, which the register map has: its answer and what it changes. -/
def State.regRead (s : State) (r : Requester) (a : Nat) : State :=
  let w := s.readWord a
  let plain := (s.clearRC a).okResp r (leBytes 4 w.toNat)
  if pairLow a then (s.latchHigh a).okResp r (leBytes 4 w.toNat)
  else if a = R.GRANARY_ERRLOG3 then s.popErrlog r
  else if a = R.GRANARY_DLY_DATA then s.delayAccess r none
  else if a = R.GRANARY_CHc_QUEUE 0 ∨ a = R.GRANARY_CHc_QUEUE 1 then
    (s.setFld a F.GRANARY_CHc_QUEUE_MAXBYP 0).okResp r (leBytes 4 w.toNat)
  else if a = R.MILLER_ENCe_RES2 0 then s.popResult r 0
  else if a = R.MILLER_ENCe_RES2 1 then s.popResult r 1
  else if a = R.CAM_TAB_DATA then nextOr s (execCamTableAccess r none s)
  else if R.CAMn_CTRL 0 ≤ a ∧ a < R.Pp_CTRL 0 ∧ (a - R.CAMn_CTRL 0) % 0x80 = 0x34 then
    nextOr s (execSerialDataAccess r (unitOf ((a - R.CAMn_CTRL 0) / 0x80)) none s)
  else if R.MARKi_CFG 0 ≤ a ∧ a < R.CMPj_CTRL 0 ∧ (a - R.MARKi_CFG 0) % 0x20 = 0x10 then
    nextOr s (execMarkFifoPop r (unitOf ((a - R.MARKi_CFG 0) / 0x20)) s)
  else if a = R.CLKPWR_GATE then plain.drawn
  else plain

/-! ## The access commands -/

/-- An access of memory that Granary takes, of any length (R29, R118, R134). -/
def State.dramAccess (s : State) (r : Requester) (addr n : Nat) (data : Option (List Byte)) : State :=
  if s.dramAsleep then
    (s.errResp r).logFault { level := 3, kind := 5, unit := reqCode r, src := 0x0C, cause := 4 }
  else
    let (id, s) := s.dramSubmit (reqCode r) addr n data
    match data with
    | none => s
    | some _ =>
      let port := match r with
        | .host p => p.val
        | _ => 0
      { s with granary := { s.granary with
          writes := ⟨id, reqCode r, port, addr, blockCount addr n, false⟩ :: s.granary.writes } }

/-- A write of `data` at chip address `addr` (R5, R29, R30, R475). -/
def State.busWrite (s : State) (r : Requester) (addr : Nat) (data : List Byte) : State :=
  if data.isEmpty then s.refuse r 3
  else
    match s.rangeRegion addr data.length with
    | none => s.refuse r 1
    | some .regs =>
      if data.length ≠ 4 ∨ addr % 4 ≠ 0 then s.refuse r 3
      else if (regAt addr).isNone then s.refuse r 1
      else s.regWrite r addr (BitVec.ofNat 32 (leNat data))
    | some .dram => s.dramAccess r addr data.length (some data)
    | some _ =>
      match s.writeRefusal (reqCode r) addr data.length with
      | some c => s.refuse r c
      | none => (s.sramWrite addr data 0).written r

/-- A read of `n` bytes at chip address `addr` (R5, R29). -/
def State.busRead (s : State) (r : Requester) (addr n : Nat) : State :=
  if n = 0 then s.refuse r 3
  else
    match s.rangeRegion addr n with
    | none => s.refuse r 1
    | some .regs =>
      if n ≠ 4 ∨ addr % 4 ≠ 0 then s.refuse r 3
      else if (regAt addr).isNone then s.refuse r 1
      else s.regRead r addr
    | some .dram => s.dramAccess r addr n none
    | some _ => s.okResp r (s.sramRead addr n)

/-- REGISTER_WRITE (R475). -/
def execRegisterWrite (r : Requester) (addr : Nat) (data : List Byte) (s : State) : Host.Outcome State Fault Refusal :=
  .next (s.busWrite r addr data)

/-- The fields of access code RC of the register at `a`, as a mask. -/
def rcMask (a : Nat) : Word :=
  match regAt a with
  | some (row, _) => maskOf .rc row.fields
  | none => 0

/-- RC_REGISTER_READ (R6): the read clears RC fields; what hardware counts in the same cycle, laid out as the register's
RC fields are, is counted after the clear. Registers whose read takes an entry from a FIFO count nothing. -/
def execRcRegisterRead (r : Requester) (addr len event : Nat) (s : State) : Host.Outcome State Fault Refusal :=
  .next <|
    let t := s.busRead r addr len
    let pops := addr = R.GRANARY_ERRLOG3 ∨ addr = R.MILLER_ENCe_RES2 0 ∨ addr = R.MILLER_ENCe_RES2 1 ∨
      (R.MARKi_CFG 0 ≤ addr ∧ addr < R.CMPj_CTRL 0)
    if len ≠ 4 ∨ addr % 4 ≠ 0 ∨ pops ∨ rcMask addr = 0 then t
    else t.setReg addr (t.reg addr ||| (BitVec.ofNat 32 event &&& rcMask addr))

/-- W1C_EVENT_CLEAR (R6): a 1 clears its bit, and a bit that hardware sets in the same cycle stays set. -/
def execW1cEventClear (r : Requester) (addr : Nat) (v hw : Word) (s : State) : Host.Outcome State Fault Refusal :=
  .next <|
    let t := s.busWrite r addr (leBytes 4 v.toNat)
    match regAt addr with
    | some (row, _) =>
      if addr % 4 ≠ 0 then t else t.setReg addr (t.reg addr ||| (hw &&& maskOf .w1c row.fields))
    | none => t

/-- WIDE_PAIR_LOW_READ (R8): the read of the low word of a pair latches its high word. -/
def execWidePairLowRead (r : Requester) (addr : Nat) (s : State) : Host.Outcome State Fault Refusal :=
  .next (if pairLow addr then s.busRead r addr 4 else s)

end Sys2Proof.Machine
end

