-- ==== Sys2Proof/Machine/LinkMemory.lean ====
section
/-! DEFINITION. The memory packets of the link host: writes, read requests and completions (R45, R46, R49, R50). -/

namespace Sys2Proof.Machine

/-- A packet that accesses memory. -/
def isMemory (k : Packet) : Bool := k.cls == 2 || k.cls == 3

/-- The entry of a refused access of port `p`; for a write the host gets event 0x10 with the address (R49). -/
def State.linkRefused (s : State) (p addr : Nat) (write : Bool) : State :=
  let s := s.logFault { level := 3, kind := 5, unit := 8 + p, src := 1, cause := 0x21 }
  if write then s.sendEvent p 0x10 (refusedPayload addr) else s

/-- A chip address lies in installed DRAM that does not sleep. -/
def State.dramTakes (s : State) (addr n : Nat) : Bool := s.rangeRegion addr n == some .dram && !s.dramAsleep

/-- The oldest accepted memory packet of port `p` is taken where it has class `cls`; its buffer space is freed. -/
def State.takeMemory (s : State) (p cls : Nat) : Option (Packet × State) :=
  match takeFirst isMemory (s.port p).accepted with
  | none => none
  | some (k, rest) =>
    if k.cls = cls then
      some (k, (s.setPort p { s.port p with accepted := rest }).freeCredit p (cls + 6) (packetUnits k.payload.length))
    else none

/-- MEMORY_WRITE_PACKET (R49, R50). -/
def execMemoryWritePacket (p : Fin 2) (s : State) : Host.Outcome State Fault Refusal :=
  .next <|
    match s.takeMemory p 2 with
    | none => s
    | some (k, s) =>
      let data := k.payload.take k.dlen
      let t := s.busWrite (.host p) k.addr data
      if s.dramTakes k.addr data.length then t
      else
        match t.resp with
        | some ⟨_, false, _⟩ => t.linkRefused p k.addr true
        | _ => t

/-- MEMORY_READ_REQUEST (R49, R50). -/
def execMemoryReadRequest (p : Fin 2) (s : State) : Host.Outcome State Fault Refusal :=
  .next <|
    match s.takeMemory p 3 with
    | none => s
    | some (k, s) =>
      let add := fun (s : State) rd data failed =>
        s.setPort p { s.port p with reads := (s.port p).reads ++ [⟨k.target, k.addr, k.dlen, rd, data, failed⟩] }
      if s.dramTakes k.addr k.dlen then add (s.dramAccess (.host p) k.addr k.dlen none) (some s.granary.nextId) [] false
      else
        let t := s.busRead (.host p) k.addr k.dlen
        match t.resp with
        | some ⟨_, true, d⟩ => add t none d false
        | _ => add (t.linkRefused p k.addr false) none [] true

/-- Every part of a read has been answered. -/
def State.readDone (s : State) (x : LinkRead) : Bool :=
  match x.rd with
  | some id => (s.answersOf id).length == blockCount x.addr x.dlen
  | none => true

/-- The completion of a read (R45, R49): done with its data, or refused without data. -/
def completion (x : LinkRead) (ok : Bool) (data : List Byte) : Packet :=
  if ok then ⟨4, x.tag, 0, 0, 0, 0, x.dlen, padPayload data⟩ else ⟨4, x.tag, 0, 0, 0, 1, 0, padPayload []⟩

/-- MEMORY_READ_COMPLETION (R49, R125): the oldest finished read of port `p` is answered. -/
def execMemoryReadCompletion (p : Fin 2) (s : State) : Host.Outcome State Fault Refusal :=
  .next <|
    match takeFirst s.readDone (s.port p).reads with
    | none => s
    | some (x, rest) =>
      let s := s.setPort p { s.port p with reads := rest }
      match x.rd with
      | none => s.queuePacket p (completion x (!x.failed) x.data)
      | some id =>
        let l := s.answersOf id
        let s := s.dropAnswers (some id)
        if l.all (·.ok) then s.queuePacket p (completion x true (assemble x.dlen l))
        else
          (s.logFault { level := 3, kind := 5, unit := 8 + p.val, src := 1, cause := 0x21 }).queuePacket p
            (completion x false [])

end Sys2Proof.Machine
end

