-- ==== Sys2Proof/Machine/Startup.lean ====
section
/-! DEFINITION. The end of the start-up timeline (R427, R428): what the firmware sets, the settings store (R408, R451), and
the default masks (R175, R178, R203). -/

namespace Sys2Proof.Machine

/-! ## Default masks -/

/-- The lane slots of hamlet `k` that have a head (R179). -/
def laneSlots (k : Nat) : List Nat := (List.range 8).filter (fun j => decide (1 ≤ 6 * k + j ∧ 6 * k + j ≤ 24))

/-- The base of mask bank `b` of hamlet `k` (R163). -/
def maskBankBase (k b : Nat) : Nat := lineBase k + 0xA3000 + 0x5000 * (b % 2)

/-- The default share of joint position `j` at overlap `v` (R175). -/
def defaultShare (v j : Nat) : Nat := (64 * (2 * j + 1) + v) / (2 * v)

/-- The default stitch masks of a bank of hamlet `k` for overlap `v` (R175, R179). -/
def State.loadStitch (s : State) (k v b : Nat) : State :=
  let base := maskBankBase k b
  let s := s.setBytes (base + 0x3000) ((List.range 4096).map (fun i => BitVec.ofNat 8 (Config.dither (i / 64) (i % 64) % 64)))
  ((laneSlots k).filter (fun j => (laneSlots k).contains (j + 1))).foldl (fun s q =>
    s.setBytes (base + 0x4000 + 0x80 * q) ((List.range (min 128 v)).map (fun j => BitVec.ofNat 8 (defaultShare v j)))) s

/-- The default stitch masks of every hamlet, in both banks, for the overlap of WEAVER_OVERLAP (R175, R199). -/
def State.defaultStitch (s : State) : State :=
  (List.range 4).foldl (fun s k =>
    [0, 1].foldl (fun s b => s.loadStitch k (s.fld (R.WEAVER_OVERLAP k) F.WEAVER_OVERLAP_V) b) s) s

/-- The default row mask and ROWACT words of a two-row head in a bank (R178); a head with one row gets its own at enable
(R203). -/
def State.loadRows (s : State) (k b : Nat) : State :=
  let base := maskBankBase k b
  (laneSlots k).foldl (fun s j =>
    let plane := (List.range 512).map (fun i => if i / 8 % 2 = 0 then 0x00#8 else 0xFF#8)
    let s := s.setBytes (base + 0x600 * j) (plane ++ plane ++ plane)
    s.setBytes (base + 0x4380 + 0x10 * j) (List.replicate 8 0x55#8 ++ List.replicate 8 0xAA#8)) s

/-- The default row masks of every hamlet, in both banks (R178). -/
def State.defaultRows (s : State) : State :=
  (List.range 4).foldl (fun s k => [0, 1].foldl (fun s b => s.loadRows k b) s) s

/-! ## The settings store -/

/-- The register at address `a` holds no setting that SAVE keeps: Granary, which board data configure; DMA rings and
channel control; line numbers of changes under way; access ports; Watchman, the security block and the power request. -/
def notSaved (a : Nat) : Bool :=
  let o := a - 0x100000000
  decide (0x20000 ≤ o ∧ o < 0x30000) ||
    (decide (0x10100 ≤ o ∧ o < 0x10900) && o % 0x40 != 4 && o % 0x40 != 0x18) ||
    (List.range 4).any (fun k => [R.WEAVER_MASKLINE k, R.WEAVER_TONE_L k, R.WEAVER_GAIN_L k].contains a) ||
    (List.range 24).any (fun h => a == R.HC_COMBLINE h) || (List.range 4).any (fun n => a == R.CAMn_SER_DATA n) ||
    [R.CAM_TAB_DATA, R.POS_TAB_DATA_LO, R.POS_TAB_DATA_HI, R.MOT_AX2_GSCHED_LO, R.MOT_AX2_GSCHED_HI, R.CLKPWR_CTRL,
      R.FAULT_LOG_RD].contains a || decide (0x400100 ≤ o ∧ o < 0x420000)

/-- The RW fields of the register at `a`, RUN left out. -/
def settingMask (a : Nat) : Word :=
  match regAt a with
  | some (r, _) => maskOf .rw r.fields &&& (if a = R.BR_CTRL then 0xFFFFFFFD#32 else 0xFFFFFFFF#32)
  | none => 0

/-- The settings in force that differ from their defaults, with LINK_CTRL, whose default is not its reset value (R427). -/
def State.settings (s : State) : List (Nat × Word) :=
  (R.LINK_CTRL, s.reg R.LINK_CTRL) ::
    (s.regs.filter (fun e => e.1 != R.LINK_CTRL && !notSaved e.1 &&
      (e.2 &&& settingMask e.1) != (resetWord e.1 &&& settingMask e.1))).map (fun e => (e.1, e.2 &&& settingMask e.1))

/-- The settings format of the running image (R440, R451). -/
def State.setFormat (s : State) : Nat := hdrSetFmt s.flash.active

/-- A set becomes the one of its format; the sets of the two most recent formats are kept (R451). -/
def State.putSet (s : State) (objects : List (Nat × Nat)) (regs : List (Nat × Word)) : State :=
  let f := s.setFormat
  { s with flash := { s.flash with
      saved := ((f, objects, regs) :: s.flash.saved.filter (fun e => e.1 != f)).take 2 } }

/-- SAVE: every RW and RWS setting of the Basic and Expert ranges (R408, R451). -/
def State.saveSettings (s : State) : State := s.putSet s.eth.dict s.settings

/-- The register at `a` enables a unit, so the start writes it after the registers that configure the unit. -/
def enablesUnit (a : Nat) : Bool :=
  let o := a - 0x100000000
  a == R.MILLER_ENCe_CTRL 0 || a == R.MILLER_ENCe_CTRL 1 || a == R.BR_CTRL || a == R.CAL_CTRL ||
    (List.range 4).any (fun n => [R.ENCn_CTRL n, R.CAMn_CTRL n, R.MOT_AXn_CTRL n, R.MARKi_CFG n].contains a) ||
    (List.range 8).any (fun j => a == R.CMPj_CTRL j) || a == R.SSIm_CFG 0 || a == R.SSIm_CFG 1 ||
    decide (0x180000 ≤ o ∧ o < 0x198000 ∧ o % 0x1000 = 0)

/-- The firmware writes the saved word of a register. -/
def State.restore (s : State) (e : Nat × Word) : State := s.regWrite (.core 0) e.1 e.2

/-- High words that were saved as their default are written too, so that the low words before them take effect. -/
def State.flushHalves (s : State) : State :=
  (s.halfWrites.filter (fun e => !decide (0x100400100 ≤ e.1))).foldl (fun s e => s.restore (e.1 + 4, s.reg (e.1 + 4))) s

/-- IPADDR, IPMASK and GATEWAY as the objects hold them come into force (R390). -/
def State.takeAddress (s : State) : State :=
  { s with eth := { s.eth with ip := s.dictVal 0x110002, mask := s.dictVal 0x110003, gateway := s.dictVal 0x110004 } }

/-- The head profile of channel `h` is copied from the board data (R200). -/
def State.copyProfile (s : State) (h : Nat) : State :=
  if s.headFitted h then
    (List.range 10).foldl (fun s w => s.restore (R.HC_PROF0 h + 4 * w, s.headProfile h w)) s
  else s

/-- A saved channel is enabled where its profile is valid; else CFGERR shows the cause (R201, R236). -/
def State.enableSaved (s : State) (h : Nat) (v : Word) : State :=
  let s := s.writeByCodes (R.HC_CTRL h) (putField F.HC_CTRL_EN (if h < 22 then putField F.HC_CTRL_SCAN v 0 else v) 0)
  if getField F.HC_CTRL_EN v = 0 ∨ !s.headFitted h then s
  else
    let scan := if s.bit (R.HC_CTRL h) F.HC_CTRL_SCAN then s.scanErr h else 0
    let bad := if scan ≠ 0 then scan else s.profErr h
    if bad ≠ 0 then s.setFld (R.HC_STAT h) F.HC_STAT_CFGERR bad
    else (s.setBit (R.HC_CTRL h) F.HC_CTRL_EN true).hcEnabled h

/-- The set of the running format is loaded, or the defaults are written as a set and SETDEF tells it (R427, R451). -/
def State.loadSettings (s : State) : State × List (Nat × Word) :=
  match s.flash.saved.find? (fun e => e.1 == s.setFormat) with
  | some (_, objects, regs) => ({ s with eth := { s.eth with dict := objects } }, regs)
  | none =>
    let regs := [(R.LINK_CTRL, 1#32)]
    ((s.putSet [] regs).setBit R.CLKPWR_BOOTSTAT F.CLKPWR_BOOTSTAT_SETDEF true, regs)

/-- The settings step (R427): settings, trims, masks, head profiles; the saved head channels are enabled unless a start
fault stops the timeline before. -/
def State.applySettings (s : State) (enable : Bool) : State :=
  let (s, regs) := s.loadSettings
  let hcCtrl := fun a : Nat => (List.range 24).any (fun h => a == R.HC_CTRL h)
  let s := (regs.filter (fun e => !enablesUnit e.1)).foldl State.restore s
  let s := s.flushHalves.takeAddress.defaultStitch.defaultRows
  let s := allHc.foldl State.copyProfile s
  let s := (s.dmaCtrlWrite (putField F.DMA_CTRL_EN (s.reg R.DMA_CTRL) 1)).millerCtrlWrite 0xFF#32
  let s := (regs.filter (fun e => enablesUnit e.1 && !hcCtrl e.1)).foldl State.restore s
  if enable then
    allHc.foldl (fun s h =>
      match regs.find? (fun e => e.1 == R.HC_CTRL h) with
      | some e => s.enableSaved h e.2
      | none => s) s
  else s

/-! ## Granary at a start -/

/-- The firmware writes the words of the delay table in record order through GRANARY_DLY_ADDR and GRANARY_DLY_DATA
(R130). -/
def State.loadDelays (s : State) : State :=
  let l := s.boardRec 0
  (List.range (ddrWords l)).foldl (fun s i => s.delayAccess (.core 0) (some (BitVec.ofNat 32 (recWord l i))))
    (s.regWrite (.core 0) R.GRANARY_DLY_ADDR 0)

/-- The delay table is loaded, Granary is enabled and ready, and the fill has written the installed DRAM (R117, R129,
R130, R427). With `ready` false the channels are still initialising. -/
def State.coldGranary (s : State) (ready : Bool) : State :=
  let s := s.loadDelays.granaryCtrlWrite (.core 0) (putField F.GRANARY_CTRL_EN (ddrCtrl (s.boardRec 0)) 1)
  if !ready then s
  else
    let s := if s.chanUsed 1 then (s.channelReady 0).channelReady 1 else s.channelReady 0
    let n := s.dramBytes
    let s := s.setReg R.GRANARY_INIT_BASE_HI 0x80#32
    let s := s.setReg R.GRANARY_INIT_LEN (BitVec.ofNat 32 (n / 65536))
    (s.zeroDram 0 (n / 64) []).setBit R.GRANARY_EVT F.GRANARY_EVT_INITDONE true

/-- After a warm reset Granary leaves self-refresh with its configuration and contents (R427). -/
def State.warmGranary (s : State) (ready : Bool) : State :=
  let s := (s.setBit R.GRANARY_SR F.GRANARY_SR_REQ false).setBit R.GRANARY_SR F.GRANARY_SR_IN_SR false
  let s := s.setChStates 6
  if ready then s.finishSrExit else s

/-! ## The end of the timeline -/

/-- The firmware runs: the boot ROM has loaded an image, and no pin holds the chip in reset. -/
def State.starting (s : State) : Bool :=
  s.pwr.porn && s.pwr.rstn && s.power == 4 && !s.sec.copying && !s.bit R.SEC_STAT F.SEC_STAT_NOIMAGE &&
    s.fld R.CLKPWR_BOOTSTAT F.CLKPWR_BOOTSTAT_FAULT == 0

/-- BOOTSTAT and the PLL locks at a start whose PLLs have locked (R419, R427, R430); the DDR PLL stays off before
GRANARY_CTRL.EN. -/
def State.bootFlags (s : State) (ddr : Bool) : State :=
  let s := [0, 2, 3].foldl (fun s p => s.setBit R.CLKPWR_STAT (lockField p) true) s
  let s := s.setBit R.CLKPWR_STAT (lockField 1) ddr
  let s := s.setFld R.CLKPWR_BOOTSTAT F.CLKPWR_BOOTSTAT_RSTCAUSE s.pwr.cause
  let s := s.setBit R.CLKPWR_BOOTSTAT F.CLKPWR_BOOTSTAT_VLOST s.pwr.vlost
  { s with pwr := { s.pwr with vlost := false } }

/-- The unit certificate is compared with its hash in OTP (R432, R454). -/
def State.checkCert (s : State) : State :=
  if Config.certBad s.flash.board then (s.setBit R.SEC_STAT F.SEC_STAT_CERTBAD true).secLog 5 1 0 else s

/-- A start fault ends the timeline in Standby (R428, R429). -/
def State.startFault (s : State) (fault : Nat) : State :=
  let s := s.setFld R.CLKPWR_BOOTSTAT F.CLKPWR_BOOTSTAT_FAULT fault
  ((s.setBit R.CLKPWR_EVT F.CLKPWR_EVT_STARTFAULT true).pwrLog 1 (0x10 + fault) 0).setPower 1

/-- The start fault of a start (R428): the one that is reported, or that the records of the board data show (R132, R201);
the delay table is read at a cold start alone (R427). -/
def State.startCause (s : State) (fault : Nat) : Nat :=
  if fault = 3 then 3
  else if fault = 1 ∨ (!s.bit R.GRANARY_CTRL F.GRANARY_CTRL_EN ∧ !s.ddrRecordOk) then 1
  else if fault = 4 then 4
  else if !s.headRecordOk then 2
  else fault

/-- START_UP_COMPLETE (R427, R428): Ready, or Standby on a start fault. A PLL that fails to lock only sets FAULT. -/
def execStartUpComplete (fault : Fin 5) (s : State) : Host.Outcome State Fault Refusal :=
  .next <|
    if !s.starting then s
    else
      let f := s.startCause fault
      if f = 3 then s.setFld R.CLKPWR_BOOTSTAT F.CLKPWR_BOOTSTAT_FAULT 3
      else
        let s := (s.bootFlags (f ≠ 1)).checkCert
        let s := if f = 1 then s
          else if s.bit R.GRANARY_CTRL F.GRANARY_CTRL_EN then s.warmGranary (f ≠ 4)
          else s.coldGranary (f ≠ 4)
        let s := s.applySettings (f = 0)
        if f = 0 then s.setPower 2 else s.startFault f

/-! ## The RTC from PTP time -/

/-- RTC_SYNC (R412): the firmware writes the RTC once PTP_SYNC is 1, and again every 60 s. -/
def execRtcSync (s : State) : Host.Outcome State Fault Refusal :=
  .next <|
    let due := match s.pwr.rtcSync with
      | none => true
      | some t => decide (t + ms 60000 ≤ s.now)
    if !s.inReset && s.power != 4 && s.ptpSync && s.pwr.vbat && due then
      let s := s.watchWrite R.CLKPWR_RTC_LO (s.ptp * 64 / 1953125)
      { s with pwr := { s.pwr with rtcSync := some s.now } }
    else s

/-- SETTINGS_SAVE, the object's effect (R408, R451). -/
def State.saveWrite (s : State) : Nat × State := (0, s.saveSettings)

end Sys2Proof.Machine
end

