-- ==== Sys2Proof/Machine/Tables.lean ====
section
/-! DEFINITION. The tables that the update path writes (R165, R188 to R193, R216, R217): their values as DOMAIN objects,
the rules that refuse a change, and what a change does when it is named at a printed line or acts at once. -/

namespace Sys2Proof.Machine

/-! ## Tables as values -/

/-- The bytes of a table; none where its length is not fixed. -/
def valueSize : Config.Table → Option Nat
  | .tone _ => some 202752
  | .mask _ => some 0x5000
  | .gain _ => some 25344
  | .readmit => none
  | .threshold _ => some 196608
  | .comb _ => some 1120
  | .board _ => none
  | .scan _ => none

/-- The bank of hamlet `k` in force now, and the other one (R163, R180). -/
def State.maskNow (s : State) (k : Nat) : Nat :=
  lineBase k + 0xA3000 + 0x5000 * s.fld (R.WEAVER_MASKSEL k) F.WEAVER_MASKSEL_BANK
def State.maskOther (s : State) (k : Nat) : Nat :=
  lineBase k + 0xA3000 + 0x5000 * (1 - s.fld (R.WEAVER_MASKSEL k) F.WEAVER_MASKSEL_BANK)

/-- The register addresses of comb bank `b` of channel `h` in the order of a comb image (R216): segments, select entries,
samples. -/
def combRegs (h b : Nat) : List Nat :=
  (List.range 16).map (R.HC_SEGb_s h b) ++ (List.range 8).map (R.HC_SELb_j h b) ++ (List.range 256).map (R.HC_WAVb_j h b)

/-- The 16 bytes of nine tone points (R171). -/
def packPoints (p : List Nat) : List Byte := leBytes 16 ((p.zipIdx.map (fun e => e.1 % 4096 * 2 ^ (12 * e.2))).sum)

/-- Tone record `i` of hamlet `k` as it is in force on the line last fired (R9, R188). -/
def State.toneNow (s : State) (k i : Nat) : List Byte :=
  packPoints ((List.range 9).map (fun p => (s.toneAt k s.lastFired (6 * k * s.pitch + i) p).toNat))

/-- The value of a table as a read of its object returns it: what is in force on the line last fired (R9). -/
def State.tabValue (s : State) : Config.Table → List Byte
  | .tone k => (List.range 12672).flatMap (s.toneNow (k % 4))
  | .mask k => s.bytes (s.maskNow (k % 4)) 0x5000
  | .gain k => (List.range 25344).map (fun i => BitVec.ofInt 8 (s.gainAt (k % 4) s.lastFired (25344 * (k % 4) + i)))
  | .readmit => s.weaver.readmit.flatMap (fun e => leBytes 4 e.1)
  | .threshold a => s.bytes (compBase + 0xC6000 + 0x30000 * (a % 4)) 196608
  | .comb h =>
    (combRegs (h % 24) (s.fld (R.HC_COMBSEL (h % 24)) F.HC_COMBSEL_BANK)).flatMap (fun a => leBytes 4 (s.regN a))
  | .board r => s.boardRec r
  | .scan i =>
    (List.range (s.fld (R.HC_SCAN_CFG (22 + i % 2)) F.HC_SCAN_CFG_SCANLEN)).flatMap (fun n =>
      s.bytes (lineBase 3 + 0xAD000 + 3200 * (s.fld (R.WEAVER_LVLBUF 3) F.WEAVER_LVLBUF_DEPTH + n) + 528 * (4 + i % 2)) 528)

/-! ## Masks -/

/-- Bytes `a` to `a + n` of the other bank of hamlet `k` become `l`. -/
def State.putMask (s : State) (k a : Nat) (l : List Byte) : State := s.setBytes (s.maskOther k + a) (l.take (0x5000 - a))

/-- The mask values staged for hamlets, put over the banks in force in staging order: every hamlet's other bank is
written whole, with one dither pattern and equal copies of the lane slots that two hamlets hold (R179, R180, R193). -/
def State.writeMasks (s : State) (l : List (Nat × List Byte)) : State :=
  let s := (List.range 4).foldl (fun s k => s.putMask k 0 (s.bytes (s.maskNow k) 0x5000)) s
  l.foldl (fun s e =>
    let k := e.1
    let v := e.2
    let slot := fun (s : State) (k' j' j : Nat) =>
      ((s.putMask k' (0x600 * j') (slice v (0x600 * j) 0x600)).putMask k' (0x4380 + 0x10 * j') (slice v (0x4380 + 0x10 * j) 0x10)).putMask
        k' (0x4400 + j') (slice v (0x4400 + j) 1)
    let s := s.putMask k 0 v
    let s := (List.range 4).foldl (fun s k' => s.putMask k' 0x3000 (slice v 0x3000 4096)) s
    let s := if k < 3 then (slot (slot s (k + 1) 0 6) (k + 1) 1 7).putMask (k + 1) 0x4000 (slice v 0x4300 0x80) else s
    if 0 < k then (slot (slot s (k - 1) 6 0) (k - 1) 7 1).putMask (k - 1) 0x4300 (slice v 0x4000 0x80) else s) s

/-- A mask bank of hamlet `k` assigns a dot to a row whose ROWACT bit for that line is 0, or to row D of a head of one
row that is enabled (R177, R203). -/
def State.maskBad (s : State) (k : Nat) (v : List Byte) : Bool :=
  let bit := fun i n => ((v.getD (i + n / 8) 0)).getLsbD (n % 8)
  (laneSlots k).any (fun j =>
    let h := 6 * k + j - 1
    let two := s.twoRows h || s.hcState h == 0
    (List.range 64).any (fun y =>
      let u := bit (0x4380 + 0x10 * j) y
      let d := bit (0x4380 + 0x10 * j + 8) y && two
      (List.range 192).any (fun n =>
        let b := bit (0x600 * j + 0x200 * (n / 64) + 8 * y) (n % 64)
        (b && !d) || (!b && !u))))

/-! ## Combs -/

/-- A comb image breaks a rule of R216 on channel `h`. -/
def State.combBad (s : State) (h : Nat) (v : List Byte) : Bool :=
  let w := words32 v
  let at_ := fun i => w.getD i 0
  let segs := ((List.range 16).map (fun i => at_ i % 4096)).takeWhile (· != 0)
  let sel := fun e => at_ (16 + e / 2) / 65536 ^ (e % 2) % 65536
  let f := s.fld
  segs.any (fun d => decide (d < f (R.HC_PROF2 h) F.HC_PROF2_SEGMIN)) ||
    decide (f (R.HC_PROF0 h) F.HC_PROF0_SEGMAX < segs.length) ||
    decide (min 512 (f (R.HC_PROF4 h) F.HC_PROF4_COMBMAX) < segs.sum) ||
    (List.range 512).any (fun i =>
      decide (f (R.HC_PROF4 h) F.HC_PROF4_CODEMAX < at_ (24 + i / 2) / 65536 ^ (i % 2) % 16384)) ||
    sel 0 != 0 || (List.range 16).any (fun e => decide (2 ^ segs.length ≤ sel e))

/-- A comb image stored in bank `b` of channel `h`. -/
def State.putComb (s : State) (h b : Nat) (v : List Byte) : State :=
  ((combRegs h b).zip (words32 v)).foldl (fun s e =>
    s.setReg e.1 (writePlain (match regAt e.1 with | some (r, _) => r | none => ⟨0, [], [], 0⟩) (s.reg e.1) (BitVec.ofNat 32 e.2))) s

/-! ## Ramps -/

/-- The number of steps of a ramped value from its start to its target (R188). -/
def rampSteps (start target : Int) (step : Nat) : Nat := ((target - start).natAbs + step - 1) / step

/-- The tone points of the 16 bytes of a half of a record (R171). -/
def tonePoints (l : List Byte) : List Nat := (List.range 9).map (fun p => leNat l / 2 ^ (12 * p) % 4096)

/-- The copies of tone record `i` of hamlet `k`: its own, and that of the hamlet that shares its overlap column (R193). -/
def State.toneCopies (s : State) (k i : Nat) : List (Nat × Nat) :=
  let w := 6 * s.pitch
  (k, i) :: ((if k < 3 ∧ w ≤ i ∧ i < w + s.weaver.overlap then [(k + 1, i - w)] else []) ++
    (if 0 < k ∧ i < s.weaver.overlap then [(k - 1, w + i)] else []))

/-- The records of a hamlet's tone value, with their numbers. -/
def toneRecords (v : List Byte) : List (Nat × List Byte) := (List.range 12672).map (fun i => (i, slice v (16 * i) 16))

/-- The end line of a ramp of at most `n` steps that begins at line `l` (R188): one interval before it where nothing moves. -/
def State.rampEnd (s : State) (k l n : Nat) : Nat :=
  let m := max 1 (s.rampInterval k l)
  if n = 0 then lineSub l m else lineAdd l (m * (n - 1))

/-- A change of tone records (hamlet, record, target) named at line `l`, or acting at once (R188, R189, R193). -/
def State.writeTone (s : State) (recs : List (Nat × Nat × List Byte)) (l : Option Nat) : State :=
  let s := (List.range 4).foldl (fun s k => (List.range 12672).foldl (fun s i =>
    s.setBytes (toneAddr k i) (s.bytes (toneAddr k i + 16) 16)) s) s
  let steps := (recs.map (fun e =>
    ((tonePoints (s.bytes (toneAddr e.1 e.2.1) 16)).zip (tonePoints e.2.2)).foldl (fun m p => max m (rampSteps p.1 p.2 16)) 0)).foldl max 0
  let s := recs.foldl (fun s e => (s.toneCopies e.1 e.2.1).foldl (fun s c =>
    let s := s.setBytes (toneAddr c.1 c.2 + 16) (e.2.2.take 16)
    if l.isNone then s.setBytes (toneAddr c.1 c.2) (e.2.2.take 16) else s) s) s
  match l with
  | none => s
  | some l => (List.range 4).foldl (fun s k =>
      let s := (s.setReg (R.WEAVER_TONE_L k) (BitVec.ofNat 32 l)).setReg (R.WEAVER_TONE_E k) (BitVec.ofNat 32 (s.rampEnd k l steps))
      s.setHam k { s.ham k with toneOpen := true }) s

/-- A change of gain targets (nozzle, value) and kernel words (hamlet, word) named at line `l`, or acting at once (R185,
R188, R189). -/
def State.writeGain (s : State) (gains : List (Nat × Byte)) (kernels : List (Nat × Word)) (l : Option Nat) : State :=
  let s := (List.range 101376).foldl (fun s g => s.setByte (nozAddr g + 1) (s.byte (nozAddr g + 2))) s
  let s := (List.range 4).foldl (fun s k => s.setReg (R.WEAVER_KERNEL_START k) (s.reg (R.WEAVER_KERNEL k))) s
  let a := (gains.map (fun e => rampSteps (sext 8 (s.byte (nozAddr e.1 + 1)).toNat) (sext 8 e.2.toNat) 1)).foldl max 0
  let b := (kernels.map (fun e => ((List.range 4).map (fun t =>
    rampSteps (getField ⟨8 * t, 8, .rw⟩ (s.reg (R.WEAVER_KERNEL_START e.1))) (getField ⟨8 * t, 8, .rw⟩ e.2) 1)).foldl max 0)).foldl max 0
  let s := gains.foldl (fun s e =>
    let s := s.setByte (nozAddr e.1 + 2) e.2
    if l.isNone then s.setByte (nozAddr e.1 + 1) e.2 else s) s
  let s := kernels.foldl (fun s e =>
    let s := s.setReg (R.WEAVER_KERNEL e.1) e.2
    if l.isNone then s.setReg (R.WEAVER_KERNEL_START e.1) e.2 else s) s
  match l with
  | none => s
  | some l => (List.range 4).foldl (fun s k =>
      let s := (s.setReg (R.WEAVER_GAIN_L k) (BitVec.ofNat 32 l)).setReg (R.WEAVER_GAIN_E k) (BitVec.ofNat 32 (s.rampEnd k l (max a b)))
      s.setHam k { s.ham k with gainOpen := true }) s

/-! ## A group's tables -/

/-- Nozzles that a table names for re-admission (R190). -/
def readmitList (v : List Byte) : List Nat := (words32 v).filter (fun g => decide (g < 101376))

/-- Re-admissions named at line `l` join the table of R190, or are performed at once. -/
def State.writeReadmit (s : State) (v : List Byte) (l : Option Nat) : State :=
  match l with
  | some l => { s with weaver := { s.weaver with
      readmit := s.weaver.readmit.filter (fun e => !(readmitList v).contains e.1) ++ (readmitList v).map (fun g => (g, l)) } }
  | none => (readmitList v).foldl State.readmitNozzle s

/-- A scan image named at line `l` waits for it, or its line has come (R21, R233). -/
def State.writeScan (s : State) (i : Nat) (v : List Byte) (l : Option Nat) : State :=
  let h := 22 + i % 2
  match l with
  | some l =>
    let x := s.hc h
    s.setHc h { x with scan := { x.scan with images := x.scan.images ++ [(l, v)] } }
  | none => s.scanImageDue h v

/-- A comb named at line `l` goes into the bank not in force and waits for the line, or is in force at once (R217). -/
def State.writeComb (s : State) (h : Nat) (v : List Byte) (l : Option Nat) : State :=
  let b := 1 - s.fld (R.HC_COMBSEL h) F.HC_COMBSEL_BANK
  let s := s.putComb h b v
  match l with
  | some l => s.combLineSet h (BitVec.ofNat 32 l)
  | none =>
    let s := s.setFld (R.HC_COMBSEL h) F.HC_COMBSEL_BANK b
    let s := if s.hcActive h then s.setHc h { s.hc h with tables := (s.hc h).tables.filter (· != b) ++ [b] } else s
    s.refreshLimit h

/-- The mask banks written by `writeMasks` apply from line `l`, or at once (R180). -/
def State.switchMasks (s : State) (l : Option Nat) : State :=
  let s := (List.range 4).foldl (fun s k =>
    match l with
    | some l => s.setReg (R.WEAVER_MASKLINE k) (BitVec.ofNat 32 l)
    | none => s.setFld (R.WEAVER_MASKSEL k) F.WEAVER_MASKSEL_BANK (1 - s.fld (R.WEAVER_MASKSEL k) F.WEAVER_MASKSEL_BANK)) s
  s.refreshLimits

/-- The tables of a group in staging order, each with its table. -/
def tablesOf (items : List Staged) : List (Config.Table × List Byte) :=
  items.filterMap (fun i => i.table.map (fun t => (t, i.value)))

/-- The kernel words that a group's field values make of the kernel registers, one for each hamlet that they change. -/
def State.kernelWords (s : State) (fields : List (Config.FieldObject × Nat)) : List (Nat × Word) :=
  (List.range 4).filterMap (fun k =>
    let l := fields.filter (fun e => e.1.addr == R.WEAVER_KERNEL k)
    if l.isEmpty then none
    else some (k, l.foldl (fun w e => putField ⟨e.1.lo, e.1.width, .rw⟩ w e.2) (s.reg (R.WEAVER_KERNEL k))))

/-- The tables and kernel words of a group are written for line `l`, or at once; threshold arrays named at a line are
written when it comes (`landArrays`). -/
def State.writeTables (s : State) (tabs : List (Config.Table × List Byte)) (kernels : List (Nat × Word)) (l : Option Nat) :
    State :=
  let tones := tabs.filterMap (fun e => match e.1 with | .tone k => some (k % 4, e.2) | _ => none)
  let masks := tabs.filterMap (fun e => match e.1 with | .mask k => some (k % 4, e.2) | _ => none)
  let gains := tabs.filterMap (fun e => match e.1 with | .gain k => some (k % 4, e.2) | _ => none)
  let s := if tones.isEmpty then s
    else s.writeTone (tones.flatMap (fun e => (toneRecords e.2).map (fun r => (e.1, r.1, r.2)))) l
  let s := if gains.isEmpty ∧ kernels.isEmpty then s
    else s.writeGain (gains.flatMap (fun e => (e.2.zip (List.range 25344)).map (fun b => (25344 * e.1 + b.2, b.1)))) kernels l
  let s := if masks.isEmpty then s else (s.writeMasks masks).switchMasks l
  tabs.foldl (fun s e =>
    match e.1 with
    | .threshold a => if l.isSome then s else s.setBytes (compBase + 0xC6000 + 0x30000 * (a % 4)) (e.2.take 0x30000)
    | .comb h => s.writeComb (h % 24) e.2 l
    | .readmit => s.writeReadmit e.2 l
    | .scan i => s.writeScan i e.2 l
    | _ => s) s

/-! ## Rules that refuse a table -/

/-- A bit of WEAVER_EVT set in the hamlets for which `f` holds. -/
def State.weaverEvt (s : State) (b : Field) (f : Nat → Bool) : State :=
  ((List.range 4).filter f).foldl (fun s k => s.setBit (R.WEAVER_EVT k) b true) s

/-- Threshold array `a` is in force or pending in a hamlet (R173). -/
def State.arrayUsed (s : State) (a : Nat) : Bool :=
  (List.range 4).any (fun k =>
    s.fld (R.WEAVER_CFG k) F.WEAVER_CFG_SCREEN == a ||
      (queueOf s.pend).any (fun p => p.addr == R.WEAVER_CFG k && p.lo == F.WEAVER_CFG_SCREEN.lo && p.value == a))

/-- The tone ramp, or the ramp of gains and kernel, may not be replaced yet in some hamlet (R189). -/
def State.toneBusy (s : State) : Bool := (List.range 4).any (fun k => (s.ham k).toneOpen)
def State.gainBusy (s : State) : Bool := (List.range 4).any (fun k => (s.ham k).gainOpen)

/-- The status of a table in a group, with the event that a refusal sets: 0 where no rule refuses it (R173, R177, R180,
R189, R190, R216, R217). `readmits` is the number of re-admissions of the group up to this table. -/
def State.checkTable (s : State) (t : Config.Table) (v : List Byte) (readmits : Nat) : Nat × State :=
  match t with
  | .tone _ =>
    if s.toneBusy then (7, s.weaverEvt F.WEAVER_EVT_RAMPBUSY (fun k => (s.ham k).toneOpen)) else (0, s)
  | .gain _ =>
    if s.gainBusy then (7, s.weaverEvt F.WEAVER_EVT_RAMPBUSY (fun k => (s.ham k).gainOpen)) else (0, s)
  | .mask k =>
    let busy := fun k => s.regN (R.WEAVER_MASKLINE k) != 0xFFFFFFFF
    if (List.range 4).any busy then (7, s.weaverEvt F.WEAVER_EVT_MASKBUSY busy)
    else if s.maskBad (k % 4) v then (7, s) else (0, s)
  | .threshold a => if s.arrayUsed (a % 4) then (7, s) else (0, s)
  | .comb h =>
    let h := h % 24
    if s.regN (R.HC_COMBLINE h) ≠ 0xFFFFFFFF ∨ s.combBad h v then
      (7, s.setBit (R.HC_EVT h) F.HC_EVT_TABLEREF true)
    else (0, s)
  | .readmit =>
    let others := s.weaver.readmit.filter (fun e => !(readmitList v).contains e.1)
    if 64 < others.length + readmits then
      (7, s.weaverEvt F.WEAVER_EVT_READMITFULL (fun k => (readmitList v).any (fun g => g / 25344 == k)))
    else (0, s)
  | .board _ => (0, s)
  | .scan _ => (0, s)

end Sys2Proof.Machine
end

