-- ==== Sys2Proof/Machine/Objects.lean ====
section
/-! DEFINITION. The object dictionary (R388 to R391, R403, R406 to R408, R453): which objects there are, with type, access
and level; the value that a read returns; what a write does. -/

namespace Sys2Proof.Machine

/-! ## The objects -/

/-- An object: its type code (R388), its access (0 RO, 1 RW, 2 RWS, 3 WO), and the level that its range or table gives
it (1 Basic, 2 Expert, 3 Service). -/
structure ObjInfo where
  type : Nat
  acc : Nat
  level : Nat
deriving DecidableEq, Repr

/-- The key of an object: index · 256 + subindex. -/
def objKey (index sub : Nat) : Nat := 256 * index + sub

/-- Rows of the object tables that do not repeat: index and subindex, type, access, level (R407, R408, R453, R399). -/
def objRows : List (Nat × Nat × Nat × Nat) :=
  [(0x100001, 11, 0, 1), (0x100002, 11, 0, 1), (0x100003, 11, 0, 1), (0x100004, 12, 0, 1), (0x100005, 4, 0, 1),
   (0x101001, 13, 0, 1),
   (0x110001, 12, 0, 1), (0x110002, 4, 1, 1), (0x110003, 4, 1, 1), (0x110004, 4, 1, 1), (0x110005, 2, 0, 1),
   (0x110006, 2, 0, 1),
   (0x120001, 2, 1, 1), (0x120002, 1, 0, 1), (0x120003, 2, 0, 1), (0x120004, 8, 0, 1), (0x120005, 2, 1, 1),
   (0x130001, 2, 0, 1), (0x130002, 3, 1, 1), (0x130003, 4, 0, 1)] ++
  [(0x140001, 13, 0, 1), (0x140002, 12, 0, 1), (0x141001, 12, 1, 2), (0x141002, 12, 1, 2), (0x142001, 2, 0, 1),
   (0x142002, 2, 0, 1), (0x142003, 2, 0, 1), (0x142004, 3, 0, 1), (0x143001, 2, 3, 3), (0x150001, 13, 3, 2),
   (0x150002, 2, 0, 1), (0x150003, 5, 1, 2), (0x150004, 2, 0, 1), (0x150005, 3, 1, 2), (0x150006, 4, 0, 1),
   (0x150007, 4, 0, 1), (0x150008, 4, 0, 1), (0x150009, 1, 3, 2), (0x15000A, 4, 0, 1)] ++
  [(0x200001, 1, 1, 1), (0x200002, 4, 1, 1), (0x200003, 1, 3, 1), (0x200004, 1, 3, 1), (0x200005, 2, 1, 1),
   (0x200006, 1, 3, 1),
   (0x210001, 3, 1, 1), (0x210002, 4, 1, 1), (0x210003, 2, 1, 1), (0x210004, 4, 1, 1), (0x210005, 8, 0, 1),
   (0x210006, 9, 0, 1),
   (0x220001, 2, 2, 1), (0x220002, 8, 2, 1), (0x220003, 3, 2, 1), (0x220004, 3, 2, 1),
   (0x230001, 2, 1, 1), (0x230002, 1, 2, 1), (0x230003, 3, 2, 1)] ++
  [(0x250001, 2, 2, 1), (0x250002, 2, 1, 1), (0x250003, 2, 1, 1), (0x250004, 2, 1, 1), (0x250005, 3, 1, 1),
   (0x250006, 2, 1, 1), (0x250007, 3, 1, 1), (0x250008, 3, 1, 1), (0x250009, 2, 1, 1), (0x25000A, 1, 1, 1),
   (0x280001, 4, 0, 1), (0x280002, 4, 1, 1), (0x280003, 12, 0, 1),
   (0x700001, 4, 0, 1), (0x700002, 4, 0, 1)]

/-- The subindices of the indices that repeat per head channel, camera and axis (R408), and of page contexts (R403). -/
def headRows : List (Nat × Nat × Nat) :=
  [(1, 1, 1), (2, 2, 0), (3, 7, 0), (4, 3, 2), (5, 7, 2), (6, 3, 2), (7, 7, 2), (8, 1, 3), (9, 1, 3)]
def cameraRows : List (Nat × Nat × Nat) := [(1, 1, 1), (2, 4, 2), (3, 3, 2), (4, 3, 2), (5, 4, 0)]
def axisRows : List (Nat × Nat × Nat) := [(1, 8, 1), (2, 2, 3), (3, 8, 0), (4, 2, 0)]
def pageRows : List (Nat × Nat × Nat) :=
  [(1, 2, 0), (2, 4, 1), (3, 2, 1), (4, 9, 1), (5, 2, 1), (6, 5, 1), (7, 4, 1), (8, 2, 1), (9, 3, 1), (0xA, 3, 1),
   (0xB, 3, 1), (0xC, 2, 3), (0xD, 4, 0), (0xE, 4, 0), (0xF, 4, 0), (0x10, 4, 0), (0x11, 4, 0), (0x12, 4, 0)]

/-- The rows of the index that repeats and covers `index`. -/
def rowsOfIndex (index : Nat) : Option (List (Nat × Nat × Nat)) :=
  if 0x2400 ≤ index ∧ index < 0x2418 then some headRows
  else if 0x2600 ≤ index ∧ index < 0x2604 then some cameraRows
  else if 0x2700 ≤ index ∧ index < 0x2704 then some axisRows
  else if 0x6000 ≤ index ∧ index < 0x6100 then some pageRows
  else if 0x7100 ≤ index ∧ index < 0x710A then some [(1, 12, 0)]
  else none

/-- The level of the range that holds an index (R406). -/
def rangeLevel (index : Nat) : Nat :=
  if 0x3000 ≤ index ∧ index < 0x5000 then 2 else if 0x5000 ≤ index ∧ index < 0x6000 then 3 else 1

/-- The highest subindex of an index (R389); none where the index has no object. -/
def topSub (index : Nat) : Option Nat :=
  if 0x3000 ≤ index ∧ index < 0x6000 then Config.topSub index
  else
    match rowsOfIndex index with
    | some l => some (l.foldl (fun m e => max m e.1) 0)
    | none =>
      let l := objRows.filter (fun e => e.1 / 256 == index)
      if l.isEmpty then none else some (l.foldl (fun m e => max m (e.1 % 256)) 0)

/-- The object at an index and subindex (R389, R406). -/
def objInfo (index sub : Nat) : Option ObjInfo :=
  if sub = 0 then (topSub index).map (fun _ => ⟨2, 0, rangeLevel index⟩)
  else if 0x3000 ≤ index ∧ index < 0x6000 then
    match Config.tableObject index sub with
    | some (.board _) => some ⟨13, 1, rangeLevel index⟩
    | some _ => some ⟨13, 2, rangeLevel index⟩
    | none => (Config.fieldObject index sub).map (fun o => ⟨o.type, o.acc % 4, rangeLevel index⟩)
  else
    match rowsOfIndex index with
    | some l => (l.find? (fun e => e.1 == sub)).map (fun e => ⟨e.2.1, e.2.2, 1⟩)
    | none => (objRows.find? (fun e => e.1 == objKey index sub)).map (fun e => ⟨e.2.1, e.2.2.1, e.2.2.2⟩)

/-- The bytes of a value of a type; none for STR, OCTETS and DOMAIN (R388). -/
def typeSize (t : Nat) : Option Nat :=
  if t = 1 ∨ t = 2 ∨ t = 6 then some 1 else if t = 3 ∨ t = 7 then some 2 else if t = 4 ∨ t = 8 ∨ t = 10 then some 4
  else if t = 5 ∨ t = 9 then some 8 else none

/-- A type is signed. -/
def typeSigned (t : Nat) : Bool := decide (6 ≤ t ∧ t ≤ 9)

/-- A whole register as an object's field. -/
def wholeObj (a t acc : Nat) : Config.FieldObject := ⟨a, 0, 32, t, acc⟩

/-- A register field as an object's field. -/
def fieldObj (a : Nat) (f : Field) (t acc : Nat) : Config.FieldObject := ⟨a, f.lo, f.width, t, acc⟩

/-- The register field that an object reads and writes (R389, R408, R453); none for an object of another kind. -/
def objField (index sub : Nat) : Option Config.FieldObject :=
  let k := objKey index sub
  if sub = 0 then none
  else if 0x3000 ≤ index ∧ index < 0x6000 then
    (if (Config.tableObject index sub).isSome then none else Config.fieldObject index sub)
  else if 0x2400 ≤ index ∧ index < 0x2418 then
    let h := index - 0x2400
    match sub with
    | 1 => some (fieldObj (R.HC_CTRL h) F.HC_CTRL_EN 1 1)
    | 2 => some (fieldObj (R.HC_STAT h) F.HC_STAT_STATE 2 0)
    | 3 => some (fieldObj (R.HC_TEMP h) F.HC_TEMP_TEMP 7 0)
    | 4 => some (fieldObj (R.BR_ROWU h) F.BR_ROWU_DELAY 3 2)
    | 5 => some (fieldObj (R.BR_ROWU h) F.BR_ROWU_PHASE 7 2)
    | 6 => some (fieldObj (R.BR_ROWD h) F.BR_ROWD_DELAY 3 2)
    | 7 => some (fieldObj (R.BR_ROWD h) F.BR_ROWD_PHASE 7 2)
    | 8 => some ⟨R.FAULT_HC_RETIRE, h, 1, 1, 3⟩
    | 9 => some ⟨R.FAULT_HC_READMIT, h, 1, 1, 3⟩
    | _ => none
  else if 0x2600 ≤ index ∧ index < 0x2604 then
    let n := index - 0x2600
    match sub with
    | 1 => some (fieldObj (R.CAMn_CTRL n) F.CAMn_CTRL_ARM 1 1)
    | 2 => some (fieldObj (R.CAMn_EXP n) F.CAMn_EXP_EXPW 4 2)
    | 3 => some (fieldObj (R.CAMn_GAIN n) F.CAMn_GAIN_GAIN 3 2)
    | 4 => some (fieldObj (R.CAMn_GAIN n) F.CAMn_GAIN_EXPSET 3 2)
    | 5 => some (wholeObj (R.CAMn_FSEQ n) 4 0)
    | _ => none
  else if 0x2700 ≤ index ∧ index < 0x2704 then
    let n := index - 0x2700
    match sub with
    | 1 => some (wholeObj (R.MOT_AXn_TGT n) 8 1)
    | 2 => some (fieldObj (R.MOT_AXn_CMD n) F.MOT_AXn_CMD_CMD 2 3)
    | 3 => some (wholeObj (R.MOT_AXn_POS n) 8 0)
    | 4 => some (fieldObj (R.MOT_AXn_STAT n) F.MOT_AXn_STAT_STATE 2 0)
    | _ => none
  else if k = 0x142001 then some ⟨R.SEC_KEYSLOT, 0, 4, 2, 0⟩
  else if k = 0x142002 then some ⟨R.SEC_KEYSLOT, 4, 4, 2, 0⟩
  else if k = 0x142003 then some ⟨R.SEC_KEYSLOT, 8, 4, 2, 0⟩
  else if k = 0x142004 then some (fieldObj R.SEC_SECVER F.SEC_SECVER_FUSED 3 0)
  else if k = 0x150002 then some (fieldObj R.SEC_STAT F.SEC_STAT_STAGE 2 0)
  else if k = 0x150004 then some (fieldObj R.SEC_STAT F.SEC_STAT_ACT 2 0)
  else if k = 0x15000A then some (wholeObj (R.CLKPWR_RETw 1) 4 0)
  else if k = 0x200001 then some (fieldObj R.BR_CTRL F.BR_CTRL_RUN 1 1)
  else if k = 0x200002 then some (wholeObj R.BR_LINESTART 4 1)
  else if k = 0x200003 then some (fieldObj R.FAULT_CTRL F.FAULT_CTRL_SAFESTOP 1 3)
  else if k = 0x200004 then some (fieldObj R.FAULT_CTRL F.FAULT_CTRL_CLEAR 1 3)
  else if k = 0x210002 then some (wholeObj (R.ENCn_SCALE 0) 4 1)
  else if k = 0x210003 then some (fieldObj (R.ENCn_CTRL 0) F.ENCn_CTRL_MULT 2 1)
  else if k = 0x210004 then some (fieldObj (R.ENCn_REVCNT 0) F.ENCn_REVCNT_REVCNT 4 1)
  else if k = 0x210005 then some (wholeObj (R.ENCn_VEL 0) 8 0)
  else if k = 0x210006 then some ⟨R.ENCn_POS_LO 0, 0, 64, 9, 0⟩
  else if k = 0x220001 then some (fieldObj R.BR_PAGE_CFG F.BR_PAGE_CFG_MARKSEL 2 2)
  else if k = 0x220002 then some (wholeObj R.BR_MARKOFF 8 2)
  else if k = 0x220003 then some (fieldObj R.BR_PAGE_CFG F.BR_PAGE_CFG_MINGAP 3 2)
  else if k = 0x220004 then some (fieldObj (R.HAM_LEAD 0) F.HAM_LEAD_LEAD 3 2)
  else if k = 0x230001 then some (fieldObj (R.WEAVER_OVERLAP 0) F.WEAVER_OVERLAP_V 2 1)
  else if k = 0x230002 then some (fieldObj R.BR_CTRL F.BR_CTRL_STRETCHONLY 1 2)
  else if k = 0x230003 then some (fieldObj R.BR_OVS F.BR_OVS_CLAMP 3 2)
  else if k = 0x250001 then some (fieldObj R.CAM_LAD_CFG F.CAM_LAD_CFG_N 2 2)
  else if k = 0x280001 then some (wholeObj R.FAULT_LOG_WR 4 0)
  else if k = 0x280002 then some (wholeObj R.FAULT_LOG_RD 4 1)
  else none

/-! ## Values -/

/-- The field of an object in its register word. -/
def fieldOf (o : Config.FieldObject) : Field := ⟨o.lo, o.width, .rw⟩

/-- The raw value of a field object, from the words that its registers give. -/
def fieldRaw (o : Config.FieldObject) (word : Nat → Word) : Nat :=
  if 32 < o.width then ((word o.addr).toNat + 2 ^ 32 * (word (o.addr + 4)).toNat) / 2 ^ o.lo % 2 ^ o.width
  else getField (fieldOf o) (word o.addr)

/-- A raw value of a field of `w` bits as the `n` bytes of a type. -/
def encodeRaw (t w n v : Nat) : List Byte := leBytes n (if typeSigned t then wrap (8 * n) (sext w v) else v)

/-- MULT as object 0x2100:03 counts it (R408). -/
def multOut (v : Nat) : Nat := if v = 3 then 4 else v
def multIn (v : Nat) : Option Nat := if v = 1 ∨ v = 2 then some v else if v = 4 then some 3 else none

/-- The image slot of a VER object, and its version: 0 where the slot is empty or invalid (R453). -/
def State.slotVersion (s : State) (l : List Byte) : Nat := if s.imageOk l then hdrVersion l else 0

/-- An event record as 40 bytes (R401). -/
def recordBytes (e : EventRec) : List Byte :=
  leBytes 4 e.eseq ++ leBytes 1 e.cls ++ leBytes 1 e.code ++ leBytes 2 e.unit ++ (e.payload ++ List.replicate 32 0).take 32

/-- The ASCII bytes of a text. -/
def ascii (t : String) : List Byte := t.toList.map (fun c => BitVec.ofNat 8 c.toNat)

/-- A field of page context `n` by its subindex, with the size of its type (R403). -/
def State.pageField (s : State) (n sub : Nat) : Nat × Nat :=
  let c := s.page n
  let flag := fun b : Bool => if b then 1 else 0
  match sub with
  | 1 => (1, c.state)
  | 2 => (4, c.length)
  | 3 => (1, c.trigger)
  | 4 => (8, wrap 64 c.trigPos)
  | 5 => (1, c.stream)
  | 6 => (8, c.addr)
  | 7 => (4, c.size)
  | 8 => (1, c.fmt)
  | 9 => (2, c.paramVer)
  | 10 => (2, c.maskVer)
  | 11 => (2, c.compVer)
  | 13 => (4, c.seq)
  | 14 => (4, c.lfirst)
  | 15 => (4, c.llast)
  | 16 => (4, flag c.stretched + 2 * flag c.defective + 256 * c.firstCause)
  | 17 => (4, c.causes)
  | _ => (4, c.stretchSum)

/-- The value of an object that is neither a register field nor a table (R399, R403, R406 to R408, R453). -/
def State.plainValue (s : State) (index sub : Nat) : List Byte :=
  let k := objKey index sub
  if 0x6000 ≤ index ∧ index < 0x6100 then
    let (n, v) := s.pageField (index - 0x6000) sub
    leBytes n v
  else if 0x7100 ≤ index ∧ index < 0x710A then
    match s.lastEvents.find? (fun e => e.1 == index - 0x7100) with
    | some e => recordBytes e.2
    | none => List.replicate 40 0
  else if k = 0x100001 then ascii "Torvuk Semiconductor"
  else if k = 0x100002 then ascii "XB7240"
  else if k = 0x100003 then ascii "C"
  else if k = 0x100004 then (Config.serial ++ List.replicate 8 0).take 8
  else if k = 0x100005 then leBytes 4 (hdrVersion s.flash.active)
  else if k = 0x110001 then (leBytes 6 Config.mac.toNat).reverse
  else if k = 0x110005 then leBytes 1 s.eth.link0
  else if k = 0x110006 then leBytes 1 s.eth.link1
  else if k = 0x120002 then leBytes 1 (if s.ptpSync then 1 else 0)
  else if k = 0x120003 then leBytes 1 s.eth.ptpState
  else if k = 0x120004 then leBytes 4 (wrap 32 s.eth.ptpOffset)
  else if k = 0x130001 then leBytes 1 s.sec.sessions.length
  else if k = 0x130003 then leBytes 4 s.eth.tagFail
  else if k = 0x140002 then (Config.unitKey ++ List.replicate 64 0).take 64
  else if k = 0x141001 then s.flash.owner0
  else if k = 0x141002 then s.flash.owner1
  else if k = 0x150003 then leBytes 8 s.flash.activate
  else if k = 0x150006 then leBytes 4 (s.slotVersion s.flash.active)
  else if k = 0x150007 then leBytes 4 (s.slotVersion s.flash.previous)
  else if k = 0x150008 then leBytes 4 (s.slotVersion s.flash.staging)
  else if k = 0x200005 then leBytes 1 s.power
  else if k = 0x280003 then (List.range 8).flatMap (fun w => leBytes 4 (s.logWord w).toNat)
  else if k = 0x700001 then leBytes 4 (s.regN R.BR_SNAPLINE)
  else if k = 0x700002 then leBytes 4 s.eth.lastApplied
  else
    match (objInfo index sub).bind (fun i => typeSize i.type) with
    | some n => leBytes n (s.dictVal k)
    | none => []

/-- The value bytes of an object, its registers read by `word` (R389). -/
def State.objValue (s : State) (index sub : Nat) (word : Nat → Word) : List Byte :=
  if sub = 0 then leBytes 1 ((topSub index).getD 0)
  else
    match objField index sub with
    | some o =>
      let v := fieldRaw o word
      let v := if objKey index sub = 0x210003 then multOut v else v
      encodeRaw o.type o.width ((typeSize o.type).getD 4) v
    | none => s.plainValue index sub

/-- The register words by which objects read the boost kernels: the weights in force on line `l` (R9, R188); other registers
by `word`. -/
def State.kernelRead (s : State) (l : Nat) (word : Nat → Word) (a : Nat) : Word :=
  match (List.range 4).find? (fun k => a == R.WEAVER_KERNEL k) with
  | some k => BitVec.ofNat 32 (([1, 2, 3, 4].map (fun t => s.kernelAt k l t % 256 * 256 ^ (t - 1))).sum)
  | none => word a

/-- The value of a DOMAIN object (R393, R406, R407, R453). -/
def State.domainValue (s : State) (index sub : Nat) : List Byte :=
  let k := objKey index sub
  if k = 0x101001 then Config.directoryBytes
  else if k = 0x140001 then (Config.unitCert s.flash.board).take 1024
  else
    match Config.tableObject index sub with
    | some t => s.tabValue t
    | none => []

/-! ## Levels and access -/

/-- A level may read an object (R391); 0 is no session. -/
def mayRead (level : Nat) (i : ObjInfo) : Bool := decide (i.level ≤ 2 ∨ 3 ≤ level)

/-- Both owner anchors are empty (R433). -/
def State.noOwner (s : State) : Bool := s.flash.owner0.isEmpty && s.flash.owner1.isEmpty

/-- A level may write an object (R391). -/
def State.mayWrite (s : State) (level k : Nat) (i : ObjInfo) : Bool :=
  decide (i.level = 1 ∨ i.level ≤ level) || (decide (k = 0x141001 ∨ k = 0x141002) && s.noOwner)

/-- The status of a read of one object: 0 where the read may be made. DOMAIN values move in segments only. -/
def readStatus (level index sub : Nat) : Nat :=
  match objInfo index sub with
  | none => 1
  | some i => if !mayRead level i then 3 else if i.acc = 3 then 2 else if i.type = 13 then 4 else 0

/-- The status of an item as a write of its object by a level, its value's type and length included (R385, R388,
R391). -/
def State.writeStatus (s : State) (level : Nat) (index sub type : Nat) (value : List Byte) : Nat :=
  match objInfo index sub with
  | none => 1
  | some i =>
    let k := objKey index sub
    if !s.mayWrite level k i then 3
    else if i.acc = 0 then 2
    else if type ≠ i.type ∨ i.type = 13 then 4
    else if (match typeSize i.type with
      | some n => value.length != n
      | none => if k = 0x141001 ∨ k = 0x141002 then value.length != 32 else decide (255 < value.length)) then 4
    else if i.type = 1 ∧ 1 < leNat value then 5
    else 0

/-- The raw value that an item gives a field: none where it lies outside the field's range (R389). -/
def rawOf (o : Config.FieldObject) (value : List Byte) : Option Nat :=
  let n := leNat value
  let b := 8 * value.length
  if typeSigned o.type then
    let i := sext b n
    if -(2 ^ (o.width - 1)) ≤ i ∧ i < 2 ^ (o.width - 1) then some (wrap o.width i) else none
  else if n < 2 ^ o.width then some n else none

/-! ## Ranges of register fields -/

/-- The fields whose table gives a range narrower than their width and no effect outside it: register, lowest bit, least
and greatest value. -/
def fieldRanges : List (Nat × Nat × Nat × Nat) :=
  [(R.LINK_LANE_THR, 16, 1, 65535), (R.LINK_TIMERS, 0, 1, 255), (R.LINK_TIMERS, 8, 1, 15), (R.LINK_TIMERS, 12, 10, 255),
   (R.LINK_REPLAY_MAX, 0, 1, 15), (R.DMA_ERR_THR, 16, 1, 65535), (R.GRANARY_ERR_THR, 16, 1, 65535),
   (R.GRANARY_INIT_BASE_HI, 0, 0x80, 0x87), (R.GRANARY_INIT_LEN, 0, 1, 0x80000), (R.GRANARY_DLY_ADDR, 0, 0, 595)] ++
  [(R.BR_LOOP, 0, 50, 2000), (R.BR_LOOP, 12, 50, 2000), (R.BR_LOOP, 24, 64, 255), (R.BR_LOCK, 16, 1, 255),
   (R.BR_LOCK, 24, 1, 255), (R.BR_VMIN, 0, 100, 100000), (R.BR_OVS, 0, 0, 1000), (R.CAM_LAD_CFG, 8, 2, 255),
   (R.CAM_LAD_CFG, 16, 1, 255), (R.CAM_LAD_CFG, 24, 1, 3), (R.CAL_SCHED, 0, 1, 65535), (R.CAL_SCHED, 16, 1, 255),
   (R.CAL_SCHED, 24, 1, 255), (R.CAL_SLOT, 0, 10, 255), (R.CAL_SLOT, 8, 5, 255), (R.CAL_SLOT, 16, 1, 65535),
   (R.CAL_TSCFG, 0, 1, 255), (R.CAL_TSCFG, 8, 1, 255), (R.CAL_TSCFG, 16, 1, 65535), (R.MOT_PWM, 0, 8, 255),
   (R.MOT_AX2_GCFG, 0, 0, 5), (R.CLKPWR_DROOP, 0, 650, 750), (R.CLKPWR_SAGTIME, 0, 1, 255),
   (R.CLKPWR_SAGTIME, 16, 10, 65535), (R.CLKPWR_OT, 0, 90, 125)] ++
  (List.range 4).flatMap (fun n =>
    [(R.WEAVER_LVLBUF n, 0, 12, 761), (R.WEAVER_OVERLAP n, 0, 0, 128), (R.HAM_LEAD n, 0, 8, 757),
     (R.HAM_ERR_THR n, 16, 1, 65535), (R.ENCn_IDXCFG n, 12, 1, 4095), (R.ENCn_IDXCFG n, 24, 1, 15),
     (R.ENCn_SPDCFG n, 0, 1, 255), (R.ENCn_SPDCFG n, 8, 1, 15), (R.ENCn_DIRCFG n, 0, 1, 255),
     (R.ENCn_DIRCFG n, 8, 1, 255), (R.ENCn_ERR_THR n, 16, 1, 65535), (R.CAMn_GEOM n, 0, 1, 16384),
     (R.CAMn_GEOM n, 16, 1, 16384), (R.CAMn_TIMEOUT n, 0, 1, 65535), (R.CAMn_EXP n, 0, 1, 16777215),
     (R.CAMn_SER_CFG n, 8, 108, 10417), (R.CAMn_ERR_THR n, 16, 1, 65535)]) ++
  [0, 1].flatMap (fun n =>
    [(R.SSIm_CFG n, 4, 8, 48), (R.SSIm_CFG n, 16, 39, 3999), (R.SSIm_TIMING n, 0, 10, 65535),
     (R.SSIm_TIMING n, 16, 1, 255), (R.Pp_RES_HI n, 16, 4, 15), (R.Pp_REGION n, 0, 8, 255), (R.Pp_REGION n, 8, 8, 255)]) ++
  (List.range 8).flatMap (fun n => [(R.CMPj_CTRL n, 1, 0, 5), (R.CMPj_CTRL n, 8, 1, 65535)]) ++
  allHc.flatMap (fun n =>
    [(R.HC_DUTY n, 16, 16, 256), (R.HC_SHARE n, 8, 1, 64), (R.HC_SPIT n, 0, 1, 65535), (R.HC_SPIT n, 16, 0, 2112),
     (R.HC_ERR_THR n, 16, 1, 65535), (R.HC_SCAN_CFG n, 4, 1, 64), (R.HC_SCAN_CFG n, 16, 1, 749)])

/-- A raw value lies within the range of a field (R389); a code of a head channel is at most its CODEMAX. -/
def State.inRange (s : State) (o : Config.FieldObject) (v : Nat) : Bool :=
  (match fieldRanges.find? (fun e => e.1 == o.addr && e.2.1 == o.lo) with
  | some e => decide (e.2.2.1 ≤ v ∧ v ≤ e.2.2.2)
  | none => true) &&
  (match allHc.find? (fun h => (o.addr == R.HC_CODES h && o.lo == 16) || o.addr == R.CAL_HCh_PTS h) with
  | some h => decide (v ≤ s.fld (R.HC_PROF4 h) F.HC_PROF4_CODEMAX)
  | none => true)

/-! ## Writes of register fields -/

/-- CC0 reads the registers of a field object, with the effects that a read has (R6, R8). -/
def State.readObjRegs (s : State) (o : Config.FieldObject) : State :=
  let t := s.busRead (.core 0) o.addr 4
  if 32 < o.width then t.busRead (.core 0) (o.addr + 4) 4 else t

/-- The word that writes value `v` into field `o` and leaves the other RW fields as they are. -/
def State.fieldWord (s : State) (o : Config.FieldObject) (v : Nat) : Word :=
  let m := match regAt o.addr with
    | some (r, _) => maskOf .rw r.fields
    | none => 0
  putField (fieldOf o) (s.reg o.addr &&& m) v

/-- The status that a write of a field answers, from the state before and after it: a refused write is out of range by
the field table (0x05) or refused by a rule (0x07), or by the power state (0x06, R417); a write that the present state
ignores is answered 0x06. -/
def writeOutcome (s t : State) (o : Config.FieldObject) (v : Nat) : Nat :=
  let ok := match t.resp with
    | some r => r.ok
    | none => true
  if ok then
    if o.acc = 1 ∧ o.width ≤ 32 ∧ getField (fieldOf o) (s.reg o.addr) ≠ v ∧ t.reg o.addr = s.reg o.addr ∧
        t.halfWrites = s.halfWrites ∧ t.pwr.wpend = s.pwr.wpend then 6 else 0
  else
    let cause := match t.log with
      | e :: _ => e.cause
      | [] => 0
    let isHc := (List.range 24).any (fun h => o.addr == R.HC_CTRL h)
    let outside := s.power ≠ 2 ∧ s.power ≠ 3
    if outside ∧ v = 1 ∧ ((isHc ∧ o.lo = 0) ∨ (o.addr = R.BR_CTRL ∧ o.lo = 1)) then 6
    else if cause = 5 ∧ !isHc ∧ o.addr ≠ R.BR_CTRL ∧
        !((List.range 4).any (fun k => o.addr == R.WEAVER_LVLBUF k) ∧ 12 ≤ v ∧ v ≤ 761) then 5
    else 7

/-- A field is written by CC0 with a status (R389). -/
def State.writeField (s : State) (o : Config.FieldObject) (v : Nat) : Nat × State :=
  if 32 < o.width then
    let t := s.busWrite (.core 0) o.addr (leBytes 4 v)
    let t := t.busWrite (.core 0) (o.addr + 4) (leBytes 4 (v / 2 ^ 32))
    (writeOutcome s t o v, t)
  else
    let t := s.busWrite (.core 0) o.addr (leBytes 4 (s.fieldWord o v).toNat)
    (writeOutcome s t o v, t)

/-! ## Writes of the other objects -/

/-- BR_NUM and BR_DEN follow from DPI_DW and ENC_NM in lowest terms (R408). -/
def State.deriveRatio (s : State) : State :=
  let n := s.dictVal 0x210001 * s.regN (R.ENCn_SCALE 0)
  let g := Nat.gcd n 25400000
  { s with eth := { s.eth with ratio := some (n / g, 25400000 / g) } }

/-- An owner anchor written; 32 zero bytes empty it (R433). -/
def State.writeOwner (s : State) (k : Nat) (v : List Byte) : State :=
  let v := if v.all (· == 0) then [] else v
  { s with flash := if k = 0x141001 then { s.flash with owner0 := v } else { s.flash with owner1 := v } }

/-- A write of an RW field of page context `n` (R403): the context becomes Loaded and its results are cleared. -/
def State.writePage (s : State) (n sub : Nat) (v : Nat) : Nat × State :=
  let c := s.page n
  let bad := match sub with
    | 2 => decide (v < 1)
    | 3 => decide (2 < v)
    | 5 => decide (7 < v)
    | 6 => decide (v % 64 ≠ 0)
    | 8 => decide (2 < v)
    | _ => false
  if c.state = 2 ∨ c.state = 3 then (6, s)
  else if bad then (5, s)
  else
    let d := match sub with
      | 2 => { c with length := v }
      | 3 => { c with trigger := v }
      | 4 => { c with trigPos := sext 64 v }
      | 5 => { c with stream := v }
      | 6 => { c with addr := v }
      | 7 => { c with size := v }
      | 8 => { c with fmt := v }
      | 9 => { c with paramVer := v }
      | 10 => { c with maskVer := v }
      | _ => { c with compVer := v }
    (0, s.setPage n { d with
      state := 1, seq := 0, lfirst := 0xFFFFFFFF, llast := 0xFFFFFFFF, judged := 0, stretched := false, defective := false
      firstCause := 0, causes := 0, stretchSum := 0, serial := 0, cand := none, unfit := 0 })

/-- The range of an object without a register (R407, R408, R453). -/
def dictRange (k v : Nat) : Bool :=
  if k = 0x130002 then decide (10 ≤ v ∧ v ≤ 3600)
  else if k = 0x150005 then decide (10 ≤ v ∧ v ≤ 600)
  else if k = 0x210001 then decide (300 ≤ v ∧ v ≤ 2400)
  else true

/-- A write of an object that is neither RWS nor a page's ARM, with its status; the item has passed `writeStatus`. -/
def State.writeObject (s : State) (index sub : Nat) (value : List Byte) : Nat × State :=
  let k := objKey index sub
  let v := leNat value
  if 0x6000 ≤ index ∧ index < 0x6100 then s.writePage (index - 0x6000) sub v
  else if k = 0x141001 ∨ k = 0x141002 then (0, s.writeOwner k value)
  else if k = 0x143001 then s.revokeWrite v
  else if k = 0x150003 then s.activateWrite v
  else if k = 0x150009 then (if v = 1 then s.fallbackWrite else (0, s))
  else if k = 0x200005 then (if 2 < v then (5, s) else s.requestState v)
  else if k = 0x200006 then (if v = 1 then s.saveWrite else (0, s))
  else if k = 0x210003 then
    match multIn v, objField index sub with
    | some m, some o => s.writeField o m
    | _, _ => (5, s)
  else if k = 0x230001 then
    if 128 < v then (5, s)
    else if s.bit R.BR_CTRL F.BR_CTRL_RUN then (6, s)
    else
      let (st, t) := s.writeField (fieldObj (R.WEAVER_OVERLAP 0) F.WEAVER_OVERLAP_V 2 1) v
      (st, if st = 0 then t.defaultStitch else t)
  else
    match objField index sub with
    | some o =>
      match rawOf o value with
      | none => (5, s)
      | some raw =>
        if !s.inRange o raw then (5, s)
        else if o.acc = 3 ∧ o.width = 1 ∧ raw = 0 then (0, s)
        else
          let (st, t) := s.writeField o raw
          (st, if k = 0x210002 ∧ st = 0 then t.deriveRatio else t)
    | none =>
      if !dictRange k v then (5, s)
      else if k = 0x210001 then
        if s.bit R.BR_CTRL F.BR_CTRL_EN then (6, s) else (0, (s.setDict k v).deriveRatio)
      else (0, s.setDict k v)

/-- The state object that a response with status 0x06 names (R385): the power state, RUN or the page's STATE where a rule
names it, else as the directory has it. -/
def busyNames (index sub : Nat) : Nat :=
  let k := objKey index sub
  if k = 0x200001 ∨ (0x2400 ≤ index ∧ index < 0x2418 ∧ sub = 1) then 0x200005
  else if k = 0x230001 then 0x200001
  else if 0x6000 ≤ index ∧ index < 0x6100 then objKey index 1
  else Config.busyObject k % 2 ^ 24

/-- The body of a response with status 0x06: INDEX and SUB of the state object. -/
def busyBody (index sub : Nat) : List Byte :=
  let k := busyNames index sub
  leBytes 2 (k / 256) ++ leBytes 1 (k % 256) ++ [0]

end Sys2Proof.Machine
end

