-- ==== Sys2Proof/Machine/Pages.lean ====
section
/-! DEFINITION. Arming and disarming page contexts (R403 to R405). -/

namespace Sys2Proof.Machine

/-- The 64-byte page index at a DRAM address; its bytes are free where they cannot be read, for the XB7240 does not check
that page data are present (R404). -/
def State.pageIndex (s : State) (a : Nat) : List Byte × State :=
  let (l, s) := s.memRead 0x21 a 64
  match allRead l with
  | some l => (l, s)
  | none => ((List.range 64).map (fun i => BitVec.ofNat 8 (Config.free (s.freeCtr + i))), s.drawnN 64)

/-- A stream of `len` bytes at `src` in pieces of at most 32 KiB (R164). -/
def streamPieces (serial src len : Nat) : List (Nat × Nat × Nat) :=
  (List.range ((len + 32767) / 32768)).map (fun i => (serial, src + 32768 * i, min 32768 (len - 32768 * i)))

/-- Offset and length of decoder `d`'s stream in a page index. -/
def indexEntry (l : List Byte) (d : Nat) : Nat × Nat := (leAt l (8 * d) 4, leAt l (8 * d + 4) 4)

/-- The streams of a page index are queued for the rings of DMA channels 8 to 15 (R404). -/
def State.feedPage (s : State) (serial a : Nat) (l : List Byte) : State :=
  (List.range 8).foldl (fun s d =>
    let (off, len) := indexEntry l d
    let x := s.ch (8 + d)
    State.feedRing 4096 (8 + d) (s.setCh (8 + d) { x with backlog := x.backlog ++ streamPieces serial (a + off) len })) s

/-- ARM written 1 (R404, R405): the status, and the state after it. -/
def State.armPage (s : State) (n : Nat) : Nat × State :=
  let c := s.page n
  if c.state ≠ 1 then (6, s)
  else
    let (l, s) := s.pageIndex c.addr
    if (List.range 8).any (fun d => decide (c.size < (indexEntry l d).1 + (indexEntry l d).2)) then (5, s)
    else
      let ser := s.br.serial + 1
      let s := s.setPage n { c with state := 2, seq := s.br.seq, serial := ser }
      let s := { s with br := { s.br with serial := ser, seq := s.br.seq + 1 } }
      (0, (s.feedPage ser c.addr l).pageArmed n)

/-- ARM written 2 (R405): only an Armed context whose L_first is not fixed returns to Loaded; data that CC1 has not handed
over stay where they are. -/
def State.disarmPage (s : State) (n : Nat) : Nat × State :=
  let c := s.page n
  if c.state ≠ 2 ∨ c.lfirst ≠ 0xFFFFFFFF then (6, s)
  else
    let s := s.setPage n { c with state := 1, cand := none }
    let s := (List.range 8).foldl (fun s d =>
      s.setCh (8 + d) { s.ch (8 + d) with backlog := (s.ch (8 + d)).backlog.filter (fun e => e.1 != c.serial) }) s
    (0, if s.running then State.advancePages 256 s.prepBegun s else s)

/-- A write of ARM (R403): 1 arms, 2 disarms, another value is out of range. -/
def State.writeArm (s : State) (n v : Nat) : Nat × State :=
  if v = 1 then s.armPage n else if v = 2 then s.disarmPage n else (5, s)

end Sys2Proof.Machine
end

