-- ==== Sys2Proof/Machine/Groups.lean ====
section
/-! DEFINITION. Commit groups (R394 to R398): staging, arming with its checks and its conversion to a printed line,
landing, and what ends a group. A plain write of an RWS object, and a group of the firmware's own, run as groups whose
handles lie beyond the eight of clients (R390). -/

namespace Sys2Proof.Machine

/-! ## Groups -/

/-- Commit group `k`. -/
def State.group (s : State) (k : Nat) : Option Group := (s.eth.groups.find? (fun e => e.1 == k)).map (·.2)

/-- Commit group `k` set. -/
def State.setGroup (s : State) (k : Nat) (g : Group) : State :=
  { s with eth := { s.eth with groups := sins (sdel s.eth.groups k) k g } }

/-- Commit group `k` of a client: any other client has no such group (R394). -/
def State.ownGroup (s : State) (o : Owner) (k : Nat) : Option Group :=
  if k < 1 ∨ 8 < k then none else (s.group k).filter (fun g => g.owner == o)

/-- A group as it is opened. -/
def Group.new (o : Owner) : Group := ⟨o, 1, [], 0xFFFFFFFF, 0xFFFFFFFF, none, 0, 0, 0, 0⟩

/-- GROUP_OPEN (R394): the handle, none where eight groups exist. -/
def State.openGroup (s : State) (o : Owner) : Option Nat × State :=
  match ((List.range 8).map (· + 1)).find? (fun k => (s.group k).isNone) with
  | some k => (some k, (s.setGroup k (Group.new o)).notify 2 1 k)
  | none => (none, s)

/-- The handle of the next group that belongs to no client's eight: above every handle in use. -/
def State.innerHandle (s : State) : Nat := s.eth.groups.foldl (fun m e => max m (e.1 + 1)) 256

/-! ## Staging -/

/-- The status of staging an item (R391, R395): only RWS objects can be staged. -/
def State.stageStatus (s : State) (level index sub type : Nat) (value : List Byte) : Nat :=
  match objInfo index sub with
  | none => 1
  | some i =>
    if !s.mayWrite level (objKey index sub) i then 3
    else if i.acc ≠ 2 then 2
    else
      let st := s.writeStatus level index sub type value
      if st ≠ 0 then st
      else
        match objField index sub with
        | some o =>
          match rawOf o value with
          | some v => if s.inRange o v then 0 else 5
          | none => 5
        | none => 4

/-- Bytes of the staging area that DOMAIN values of clients' groups hold (R395). -/
def State.stagedBytes (s : State) : Nat :=
  ((s.eth.groups.filter (fun e => e.1 ≤ 8)).flatMap (fun e =>
    (e.2.items.filter (·.table.isSome)).map (fun i => i.value.length))).sum

/-- Two staged writes of one object. -/
def sameObject (i j : Staged) : Bool := i.index == j.index && i.sub == j.sub

/-- The staging area of the compensation SRAM holds the DOMAIN values of clients' groups (R165), end to end in the order of the
groups (DESIGN CHOICE: the spec gives the area no layout). -/
def State.showStaged (s : State) : State :=
  s.setBytes (compBase + 0x186000) (((s.eth.groups.filter (fun e => e.1 ≤ 8)).flatMap (fun e =>
    (e.2.items.filter (·.table.isSome)).flatMap (·.value))).take 0x7A000)

/-- A write joins the Open group `k`, in place of an earlier one of its object (R395): 0x08 where the group is full, 0x0C
where the staging area is. -/
def State.stageItem (s : State) (k : Nat) (g : Group) (i : Staged) : Nat × State :=
  let old := g.items.filter (sameObject i)
  let freed := ((old.filter (·.table.isSome)).map (fun j => j.value.length)).sum
  if g.state ≠ 1 then (8, s)
  else if old.isEmpty ∧ 256 ≤ g.items.length then (8, s)
  else if i.table.isSome ∧ 499712 < s.stagedBytes - freed + i.value.length then (0xC, s)
  else
    let items := if old.isEmpty then g.items ++ [i] else g.items.map (fun j => if sameObject i j then i else j)
    (0, (s.setGroup k { g with items := items }).showStaged)

/-! ## What a group writes -/

/-- A staged write of a register field, with its raw value. -/
def fieldItem (i : Staged) : Option (Config.FieldObject × Nat) :=
  (objField i.index i.sub).bind (fun o => (rawOf o i.value).map (fun v => (o, v)))

/-- The register fields of a group in staging order. -/
def fieldsOf (items : List Staged) : List (Config.FieldObject × Nat) := items.filterMap fieldItem

/-- A field of a boost kernel: it moves by the ramp of the gains (R185, R188), not through a queue. -/
def kernelField (o : Config.FieldObject) : Bool := (List.range 4).any (fun k => o.addr == R.WEAVER_KERNEL k)

/-- The value of a field as pending values for a line: HAM_LEAD in all four copies (R291), a pair as two words. -/
def pendOf (o : Config.FieldObject) (v line group : Nat) : List PendVal :=
  if (List.range 4).any (fun k => o.addr == R.HAM_LEAD k) then
    (List.range 4).map (fun k => ⟨R.HAM_LEAD k, o.lo, o.width, line, v, group⟩)
  else if 32 < o.width then
    [⟨o.addr, o.lo, 32 - o.lo, line, v, group⟩, ⟨o.addr + 4, 0, o.width + o.lo - 32, line, v / 2 ^ (32 - o.lo), group⟩]
  else [⟨o.addr, o.lo, o.width, line, v, group⟩]

/-! ## Checks of an arming -/

/-- The row whose BR_ROWU or BR_ROWD a field lies in. -/
def rowOfField (o : Config.FieldObject) : Option (Nat × Nat) :=
  (allHc.flatMap (fun h => [(h, 0), (h, 1)])).find? (fun x => rowReg x.1 x.2 == o.addr)

/-- The line delay that a group stages for a row. -/
def stagedDelay (fields : List (Config.FieldObject × Nat)) (h r : Nat) : Option Nat :=
  (fields.find? (fun e => e.1.addr == rowReg h r && e.1.lo == 0)).map (·.2)

/-- A field is a line delay; a row phase. -/
def isDelay (o : Config.FieldObject) : Bool := (rowOfField o).isSome && o.lo == F.BR_ROWU_DELAY.lo
def isPhase (o : Config.FieldObject) : Bool := (rowOfField o).isSome && o.lo == F.BR_ROWU_PHASE.lo

/-- A field is HAM_LEAD, or the depth of a level buffer. -/
def isLead (o : Config.FieldObject) : Bool := (List.range 4).any (fun k => o.addr == R.HAM_LEAD k)
def isDepth (o : Config.FieldObject) : Bool := (List.range 4).any (fun k => o.addr == R.WEAVER_LVLBUF k) && o.lo == 0

/-- The hamlets in which a group's lead, line delays and depths would break R167. -/
def State.groupDepth (s : State) (fields : List (Config.FieldObject × Nat)) (atOnce : Bool) : List Nat :=
  let t := (fields.filter (fun e => isDepth e.1)).foldl (fun s e => s.setFld e.1.addr F.WEAVER_LVLBUF_DEPTH e.2) s
  let new := (fields.filter (fun e => isLead e.1)).map (·.2)
  let leads := if atOnce then (if new.isEmpty then [s.lead] else new) else s.leads ++ new
  t.depthBroken leads (stagedDelay fields)

/-- A group moves the offset of row `r` of channel `h` by more than 32 units (R274): by a phase and a stretch factor other
than those in force for its line. -/
def State.movesOffset (s : State) (fields : List (Config.FieldObject × Nat)) (h r l : Nat) (phase stretch : Option Nat) :
    Bool :=
  let d := (stagedDelay fields h r).getD (s.fldFor (rowReg h r) F.BR_ROWU_DELAY l)
  let p := s.fldFor (rowReg h r) F.BR_ROWU_PHASE l
  let f := s.fldFor R.BR_STRETCH F.BR_STRETCH_S l
  decide (32 < (offsetOf d (sext 16 (phase.getD p)) (sext 16 (stretch.getD f)) - offsetOf d (sext 16 p) (sext 16 f)).natAbs)

/-- Settings of Bellringer that no group changes while RUN is 1 (R274). -/
def brFixed (o : Config.FieldObject) : Bool :=
  [R.BR_NUM, R.BR_DEN, R.BR_ORG_LO, R.BR_ORG_HI, R.BR_LINESTART].contains o.addr || (o.addr == R.BR_CTRL && o.lo == 0)

/-- A refusal by R274: BR_EVT.CFGREF. -/
def State.cfgRef (s : State) : Nat × State := (7, s.setBit R.BR_EVT F.BR_EVT_CFGREF true)

/-- The status of a field of a group named at line `l`, with the events that a refusal sets (R167, R189, R274, R398); no
line is given where the group acts at once. What names a line takes effect with RUN = 1, also where it is armed before
(R274). -/
def State.checkField (s : State) (fields : List (Config.FieldObject × Nat)) (l : Option Nat) (o : Config.FieldObject)
    (v : Nat) : Nat × State :=
  let run := s.running || l.isSome
  let at_ := l.getD (s.regN R.BR_LINE)
  let phaseMoves : Bool := match rowOfField o with
    | some (h, r) => isPhase o && s.movesOffset fields h r at_ (some v) none
    | none => false
  if kernelField o then
    (if s.gainBusy then (7, s.weaverEvt F.WEAVER_EVT_RAMPBUSY (fun k => (s.ham k).gainOpen)) else (0, s))
  else if run ∧ (brFixed o ∨ (isDelay o ∧ s.anyPageArmed)) then s.cfgRef
  else if run ∧ phaseMoves then s.cfgRef
  else if run ∧ o.addr = R.BR_STRETCH ∧ allHc.any (fun h => !s.scanPaced h && (s.rowsOf h).any (fun r =>
      s.movesOffset fields h r at_ none (some v))) then s.cfgRef
  else if (isDelay o ∨ isLead o ∨ isDepth o) ∧ !(s.groupDepth fields l.isNone).isEmpty then
    let s := s.setDepthEvt (s.groupDepth fields l.isNone)
    if run ∧ isDelay o then s.cfgRef else (7, s)
  else
    match l with
    | some l =>
      if 4 ≤ ((queueOf s.pend).filter (fun p => p.addr == o.addr && p.lo == o.lo && p.line != l)).length then (0xC, s)
      else (0, s)
    | none => (0, s)

/-- The checks of a group's writes in staging order: the first refused one with its status (R396). `done` are the
re-admissions met so far. -/
def State.checkItems (s : State) (fields : List (Config.FieldObject × Nat)) (l : Option Nat) :
    List Staged → List Nat → Option (Staged × Nat) × State
  | [], _ => (none, s)
  | i :: t, done =>
    match i.table with
    | some tab =>
      let done := match tab with
        | .readmit => (done ++ readmitList i.value).eraseDups
        | _ => done
      let (st, s') := s.checkTable tab i.value done.length
      if st ≠ 0 then (some (i, st), s') else s.checkItems fields l t done
    | none =>
      match fieldItem i with
      | some (o, v) =>
        let (st, s') := s.checkField fields l o v
        if st ≠ 0 then (some (i, st), s') else s.checkItems fields l t done
      | none => s.checkItems fields l t done

/-- Bytes that the update path moves for a group (R189): a ramped table's targets are copied to its starts first. -/
def updateBytes (items : List Staged) : Nat :=
  (items.map (fun i => match i.table with
    | some (.tone _) | some (.gain _) => 2 * i.value.length
    | some _ => i.value.length
    | none => 0)).sum

/-- The update path cannot finish a group before the first screening pass of line `l`, one lead before the line's datum
fire (R23, R189): 32 bytes move in one core clock. -/
def State.tooLong (s : State) (items : List Staged) (l : Nat) : Bool :=
  let cycles := (updateBytes items + 31) / 32
  let need : Int := (s.coreTicks cycles : Nat)
  let left := s.datumPos (lineSub l s.lead) * 65536 - s.phiNow
  cycles != 0 && decide (0 < s.br.v) && decide (left * 800000000 < need * s.br.v)

/-! ## Arming -/

/-- What KIND and VALUE name (R273, R383, R396): a status, the printed line, or the trigger to wait for with RUN = 0. -/
def State.groupLine (s : State) (kind value : Nat) : Nat × Option Nat × Option (Nat × Nat) :=
  if kind = 0 then
    (if value % 2 ^ 32 = 0xFFFFFFFF then (5, none, none) else (0, some (value % 2 ^ 32), none))
  else if kind = 1 then
    (if s.running then (0, some (s.lineAtPos (sext 64 value)), none) else (0, none, some (1, value)))
  else if kind = 2 then
    if !s.ptpSync then (7, none, none)
    else if s.running then
      match s.lineAtTime value with
      | some l => (0, some l, none)
      | none => (7, none, none)
    else (0, none, some (2, value))
  else (5, none, none)

/-- The checks of a group: the status, with the refused write where one is refused (R23, R396). -/
def State.checkGroup (s : State) (items : List Staged) (l : Option Nat) : Nat × Option Staged × State :=
  let late := match l with
    | some l => s.running && (lineLe l s.prepBegun || s.tooLong items l)
    | none => false
  if late then (9, items.head?, s)
  else
    match s.checkItems (fieldsOf items) l items [] with
    | (some (i, st), s) => (st, some i, s)
    | (none, s) => (0, none, s)

/-- The writes of a group enter the queues and tables for line `l` (R168, R202, R398). -/
def State.enterGroup (s : State) (k : Nat) (items : List Staged) (l : Nat) : State :=
  let fields := fieldsOf items
  let s := s.writeTables (tablesOf items) (s.kernelWords fields) (some l)
  let new := (fields.filter (fun e => !kernelField e.1)).flatMap (fun e => pendOf e.1 e.2 l k)
  ({ s with pend := new.foldl (fun q p => insertPend p q) s.pend }).refreshLimits

/-- The writes of a group act at once (R273, R390). -/
def State.landGroup (s : State) (items : List Staged) : State :=
  let fields := fieldsOf items
  let s := s.writeTables (tablesOf items) (s.kernelWords fields) none
  let new := (fields.filter (fun e => !kernelField e.1)).flatMap (fun e => pendOf e.1 e.2 0 0)
  (new.foldl State.landPend s).refreshLimits.refreshDatum

/-- GROUP_ARM of the Open group `k` (R394, R396): the status, and the group Armed, or Open with the refused write noted. -/
def State.armGroup (s : State) (k : Nat) (g : Group) (kind value : Nat) : Nat × State :=
  let fail := fun (s : State) (st : Nat) (i : Option Staged) =>
    (st, s.setGroup k { g with
      failIndex := (i.map (·.index)).getD 0, failSub := (i.map (·.sub)).getD 0, failStatus := st })
  match s.groupLine kind value with
  | (0, line, wait) =>
    match s.checkGroup g.items line with
    | (0, _, s) =>
      let l := line.getD 0xFFFFFFFF
      let g := { g with
        state := 2, line := l, shown := if s.running then l else 0xFFFFFFFF, wait := wait
        failIndex := 0, failSub := 0, failStatus := 0 }
      let s := match line with
        | some l => s.enterGroup k g.items l
        | none => s
      (0, (s.setGroup k g).notify 2 2 k)
    | (st, i, s) => fail s st i
  | (st, _, _) => fail s st g.items.head?

/-- Writes armed as a group of their own, for a line or at once, with their status. -/
def State.armInner (s : State) (items : List Staged) (l : Option Nat) : Nat × State :=
  match s.checkGroup items l, l with
  | (0, _, s), some l =>
    let k := s.innerHandle
    let s := s.enterGroup k items l
    (0, (s.setGroup k { Group.new ⟨0, 0, 0⟩ with state := 2, items := items, line := l, shown := l }).notify 2 2 k)
  | (0, _, s), none => (0, s.landGroup items)
  | (st, _, s), _ => (st, s)

/-- The lowest printed line that R23 still allows; none with RUN = 0, where a write acts at once (R390). -/
def State.lowestLine (s : State) : Option Nat := if s.running then some (lineAdd s.prepBegun 1) else none

/-! ## Landing and the end -/

/-- Some row, or the datum row, has fired line `l`. -/
def State.anyFired (s : State) (l : Nat) : Bool :=
  s.running && (s.datum :: s.serviceRows).any (fun x => lineLt l (s.regN (rowNextReg x.1 x.2)))

/-- Group `k`, which waited with RUN = 0, comes due while the grid runs: it takes the lowest line that R23 allows, or is refused
as at its arming and is Open again (R23, R274, R396). -/
def State.landRunning (s : State) (k : Nat) (g : Group) : State :=
  let l := lineAdd s.prepBegun 1
  match s.checkGroup g.items (some l) with
  | (0, _, s) => (s.enterGroup k g.items l).setGroup k { g with line := l, shown := l, wait := none }
  | (st, i, s) =>
    (s.setGroup k { g with
      state := 1, wait := none, failIndex := (i.map (·.index)).getD 0, failSub := (i.map (·.sub)).getD 0
      failStatus := st }).notify 2 1 k

/-- GROUP_LANDING (R273, R394): the first row has applied the group; a group that waits with RUN = 0 acts when its position
or time comes, from the lowest line that R23 allows if the grid has started meanwhile. -/
def execGroupLanding (k : Nat) (s : State) : Host.Outcome State Fault Refusal :=
  .next <|
    match s.group k with
    | none => s
    | some g =>
      if g.state ≠ 2 then s
      else
        match g.wait with
        | none =>
          if s.anyFired g.line then
            ((s.landArrays (fun h => h == g)).setGroup k { g with state := 3 }).notify 2 3 k
          else s
        | some (kind, v) =>
          let due := if kind = 1 then decide (sext 64 v ≤ s.enc0Pos) else decide (v ≤ s.ptp)
          if !due then s
          else if s.running then s.landRunning k g
          else ((s.landGroup g.items).setGroup k { g with state := 3, wait := none }).notify 2 3 k

/-- GROUP_APPLIED (R394, R399): every row in service has fired the group's line. -/
def execGroupApplied (k : Nat) (s : State) : Host.Outcome State Fault Refusal :=
  .next <|
    match s.group k with
    | none => s
    | some g =>
      if g.state = 3 ∧ (g.line = 0xFFFFFFFF ∨ (s.running ∧ s.allFired g.line)) then
        let s := if g.line = 0xFFFFFFFF then s else { s with eth := { s.eth with lastApplied := g.line } }
        let s := (s.setGroup k { g with state := 4, items := [], at_ := s.now }).notify 2 4 k
        if 8 < k then s.freeGroup k else s
      else s

/-- GROUP_EXPIRY (R394). -/
def execGroupExpiry (k : Nat) (s : State) : Host.Outcome State Fault Refusal :=
  .next <|
    match s.group k with
    | none => s
    | some g => if g.state = 4 ∧ g.at_ + ms 10000 ≤ s.now then s.freeGroup k else s

/-- GROUP_DISCARD of group `k` (R394, R397). -/
def State.discardGroup (s : State) (k : Nat) (g : Group) : Nat × State :=
  if g.state = 3 ∨ (g.state = 2 ∧ g.wait.isNone ∧ s.running ∧ lineLe g.line s.prepBegun) then (9, s)
  else (0, (s.freeGroup k).refreshLimits)

/-- The answer to GROUP_ARM and GROUP_STATUS (R387, R396). -/
def State.groupBody (s : State) (k : Nat) : List Byte :=
  match s.group k with
  | none => []
  | some g =>
    leBytes 1 k ++ leBytes 1 g.state ++ [0, 0] ++ leBytes 4 g.shown ++ leBytes 2 g.failIndex ++ leBytes 1 g.failSub ++
      leBytes 1 g.failStatus

end Sys2Proof.Machine
end

