-- ==== Sys2Proof/Machine/Session.lean ====
section
/-! DEFINITION. Loquetu frames and who may send them (R384 to R386, R391, R392, R435, R436), and the handshake with
attestation (R433, R434, R437). -/

namespace Sys2Proof.Machine

/-- What the firmware answers to a request: STATUS, body, and the state after it. -/
structure Answer where
  status : Nat
  body : List Byte
  after : State

/-! ## Frames -/

/-- The header of a frame that the XB7240 sends (R384). -/
def frameHeader (op sid tid len status flags : Nat) : List Byte :=
  [0x4C, 0x51, 1] ++ leBytes 1 (op ||| 0x80) ++ leBytes 4 sid ++ leBytes 2 tid ++ leBytes 2 len ++ leBytes 1 status ++
    leBytes 1 flags ++ [0, 0]

/-- A frame without a tag. -/
def plainFrame (op sid tid status : Nat) (body : List Byte) : List Byte :=
  frameHeader op sid tid body.length status 0 ++ body

/-- A frame of a session: SSEQ, the encrypted body and the tag (R435). -/
def sealedFrame (x : Session) (op tid status : Nat) (body : List Byte) : List Byte :=
  let hd := frameHeader op x.sid tid (8 + body.length) status 1
  let ss := leBytes 8 (x.sent + 1)
  let (c, t) := Config.gcmSeal x.keyOut ([0, 0, 0, 2] ++ ss.reverse) (hd ++ ss) body
  hd ++ ss ++ c ++ t

/-- Nothing has been sent yet by the command at hand. -/
def State.quiet (s : State) : State := { s with eth := { s.eth with sent := [] } }

/-- A datagram of the internal port. -/
def State.sendUdp (s : State) (ip port : Nat) (data : List Byte) : State :=
  { s with eth := { s.eth with sent := s.eth.sent ++ [.datagram ip port data] } }

/-- Zero bytes up to the next 4-byte boundary. -/
def pad4 (l : List Byte) : List Byte := l ++ List.replicate ((4 - l.length % 4) % 4) 0

/-! ## Sessions -/

/-- The session of a request: its SID with the client's address and port (R392). -/
def State.sessionOf (s : State) (q : Request) : Option Session :=
  s.sec.sessions.find? (fun x => x.sid == q.sid.toNat && x.ip == q.ip.toNat && x.port == q.port.toNat)

/-- A session set, if it still exists. -/
def State.putSession (s : State) (x : Session) : State :=
  { s with sec := { s.sec with sessions := s.sec.sessions.map (fun y => if y.sid = x.sid then x else y) } }

/-- A write transfer is discarded; one of an image leaves Staging Rejected (R393, R442). -/
def State.dropXfer (s : State) (id : Nat) : State :=
  let staging := s.eth.xfers.any (fun x => x.id == id && x.index == 0x1500 && x.sub == 1)
  let s := { s with eth := { s.eth with xfers := s.eth.xfers.filter (fun x => x.id != id) } }
  if staging ∧ s.flash.stage = 1 then (s.setStage 3).setBit R.SEC_EVT F.SEC_EVT_STAGED true else s

/-- A session ends (R394, R434): its Open groups are freed, and its transfers discarded. -/
def State.endSession (s : State) (sid : Nat) : State :=
  let s := { s with sec := { s.sec with sessions := s.sec.sessions.filter (fun x => x.sid != sid) } }
  let s := (s.eth.groups.filter (fun e => e.2.state == 1 && e.2.owner.sid == sid && sid != 0)).foldl
    (fun s e => s.freeGroup e.1) s
  let s := (s.eth.xfers.filter (fun x => x.owner.sid == sid && sid != 0)).foldl (fun s x => s.dropXfer x.id) s
  s.notify 8 0 sid

/-- Who owns what a request makes (R394): the session, or without one the client's address and port. -/
def ownerOf (q : Request) : Owner := if q.sid = 0 then ⟨0, q.ip.toNat, q.port.toNat⟩ else ⟨q.sid.toNat, 0, 0⟩

/-- The key-holding logic runs and the certificate is sound: sessions and attestation are served (R431, R432). -/
def State.keysServed (s : State) : Bool := s.pwr.vbat && !s.bit R.SEC_STAT F.SEC_STAT_CERTBAD

/-- Ethernet and CC0 run: not in Dormant, Starting or a reset (R413), and not while the I/O PLL is unlocked (R421). -/
def State.served (s : State) : Bool :=
  s.power != 0 && s.power != 4 && !s.inReset && s.bit R.CLKPWR_STAT F.CLKPWR_STAT_IOLOCK

/-- SSEQ `n` is accepted by a session (R436). -/
def freshSeq (x : Session) (n : Nat) : Bool := decide (x.high < n + 64) && !x.seen.contains n && n != 0

/-- A frame is let in, or dropped as a tag failure (R385, R392, R436); an accepted one is noted by its session. A session
whose SSEQ would pass 2^48 ends. -/
def State.letIn (s : State) (q : Request) : Bool × State :=
  match s.sessionOf q with
  | none => (true, s)
  | some x =>
    let fail := { s with eth := { s.eth with tagFail := (s.eth.tagFail + 1) % 2 ^ 32 } }
    match q.sseq with
    | none => (false, fail)
    | some n =>
      if 2 ^ 48 < n.toNat then (false, s.endSession x.sid)
      else if !freshSeq x n.toNat then (false, fail)
      else
        let high := max x.high n.toNat
        (true, s.putSession { x with
          high := high, seen := (n.toNat :: x.seen).filter (fun m => decide (high < m + 64)), lastFrame := s.now })

/-- Whether an operation is served: without a session all but the end of a handshake, in a session all but a new one,
and before CLIENT_AUTH only the handshake and ATTEST (R392, R434). -/
def State.opServed (s : State) (q : Request) (op : Nat) : Bool :=
  if q.sid = 0 then op != 0x41 && op != 0x42
  else
    match s.sessionOf q with
    | some x => s.keysServed && op != 0x40 && (x.level != 0 || op == 0x41 || op == 0x42 || op == 0x43)
    | none => false

/-- The access level of a request (R391). -/
def State.levelOf (s : State) (q : Request) : Nat := ((s.sessionOf q).map (·.level)).getD 0

/-- The response kept for a request's client and TID (R386). -/
def State.keptFor (s : State) (q : Request) : Option (List Byte) :=
  ((s.eth.kept.find? (fun e => e.1 == (q.ip.toNat, q.port.toNat))).bind
    (fun e => e.2.find? (fun k => k.tid == q.tid.toNat))).map (·.data)

/-- A response is sent and kept as the newest of its client's last 32 (R386). -/
def State.sendKept (s : State) (q : Request) (data : List Byte) : State :=
  let c := (q.ip.toNat, q.port.toNat)
  let old := ((s.eth.kept.find? (fun e => e.1 == c)).map (·.2)).getD []
  let s := s.sendUdp q.ip.toNat q.port.toNat data
  { s with eth := { s.eth with
      kept := (c, (⟨q.tid.toNat, data⟩ :: old).take 32) :: s.eth.kept.filter (fun e => e.1 != c) } }

/-- The response to a request (R385, R392, R435): tagged in a session. -/
def State.respond (s : State) (q : Request) (op : Nat) (x : Option Session) (status : Nat) (body : List Byte) : State :=
  match x with
  | none => s.sendKept q (plainFrame op q.sid.toNat q.tid.toNat status body)
  | some x =>
    if 2 ^ 48 ≤ x.sent then s.endSession x.sid
    else
      (match s.sessionOf q with
      | some y => s.putSession { y with sent := y.sent + 1 }
      | none => s).sendKept q (sealedFrame x op q.tid.toNat status body)

/-- A request is served (R385, R386, R391, R392): dropped, answered from the kept responses, or performed by `f`, which
is none where the body is not one of the operation's. Where the operation resets the chip or puts it into Dormant, the
answer leaves first and is not kept. -/
def State.serve (s : State) (q : Request) (op : Nat) (f : Option (Nat → State → Answer)) : State :=
  if !s.served then s
  else
    match s.letIn q with
    | (false, s) => s
    | (true, s) =>
      match s.keptFor q, f with
      | some d, _ => s.sendUdp q.ip.toNat q.port.toNat d
      | none, none => s
      | none, some f =>
        if !s.opServed q op then s.respond q op none 0x0B []
        else
          let a := f (s.levelOf q) s
          let t := a.after.respond q op (if op = 0x41 ∧ a.status ≠ 0 then none else s.sessionOf q) a.status a.body
          if a.after.served then t else { a.after with eth := { a.after.eth with sent := t.eth.sent } }

/-! ## Handshake -/

/-- A handshake or session is refused (R454, R455): an entry, a session event, and SESSREF. -/
def State.refuseSession (s : State) : State :=
  ((s.setBit R.SEC_EVT F.SEC_EVT_SESSREF true).logFault
    { level := 3, kind := 5, unit := 0, src := 0x0F, cause := 7 }).notify 8 3 0

/-- HELLO (R434, R435): a SID, the unit's nonce and ephemeral key, its certificate and USIG. -/
def opHello (q : Request) (level : Nat) (cnonce ceph : List Byte) (_ : Nat) (s : State) : Answer :=
  if !s.keysServed then ⟨0x0B, [], s.refuseSession⟩
  else if level ≠ 2 ∧ level ≠ 3 then ⟨5, [], s⟩
  else if 4 ≤ s.sec.sessions.length then ⟨0x0C, [], s.refuseSession⟩
  else
    let sid := s.sec.nextSid
    let k := s.freeCtr
    let unonce := (Config.unonce k ++ List.replicate 32 0).take 32
    let ueph := (Config.ephemeral k ++ List.replicate 64 0).take 64
    let cert := (Config.unitCert s.flash.board).take 1024
    let head := leBytes 4 sid ++ unonce ++ ueph ++ leBytes 2 cert.length ++ [0, 0]
    let h1 := Config.sha256 (leBytes 1 level ++ [0, 0, 0] ++ cnonce ++ ceph ++ head)
    let keys := Config.sessionKeys ceph k (cnonce ++ unonce) (ascii "Loquetu v1")
    let (sig, s) := s.drawn.unitSign h1
    let x : Session := {
      sid := sid, ip := q.ip.toNat, port := q.port.toNat, asked := level, level := 0, born := s.now, lastFrame := s.now
      h1 := h1, keyIn := keys.take 16, keyOut := (keys.drop 16).take 16, high := 0, seen := [], sent := 0 }
    let s := { s with sec := { s.sec with sessions := s.sec.sessions ++ [x], nextSid := sid % 0xFFFFFFFF + 1 } }
    ⟨0, head ++ pad4 cert ++ sig, s.notify 8 1 sid⟩

/-- The level that an anchor key grants (R433); none where it is no anchor. -/
def State.anchorLevel (s : State) (anchor : List Byte) : Option Nat :=
  let h := Config.sha256 anchor
  let is := fun (l : List Byte) => !l.isEmpty && l == h
  if is Config.serviceAnchor ∨ [0, 1, 2].any (fun k => (s.slotBits k &&& 0xD) == 5 && is (Config.keyHash k)) then some 3
  else if is s.flash.owner0 ∨ is s.flash.owner1 then some 2
  else none

/-- The certificate's dates hold, or are not checked (R433). -/
def State.datesOk (s : State) (cert : List Byte) : Bool :=
  !s.ptpSync || decide ((Config.certValidity cert).1 ≤ s.ptp ∧ s.ptp ≤ (Config.certValidity cert).2)

/-- The level that CLIENT_AUTH grants a session (R433, R434); none where a condition fails. -/
def State.authLevel (s : State) (x : Session) (anchor cert csig : List Byte) : Option Nat :=
  match s.anchorLevel anchor, Config.certKey cert with
  | some level, some key =>
    if Config.certSigned anchor cert ∧ Config.certUsage cert ∧ s.datesOk cert ∧ x.asked ≤ level ∧
        Config.ecdsaVerify key (Config.sha256 (x.h1 ++ cert)) csig then some level
    else none
  | _, _ => none

/-- CLIENT_AUTH (R433, R434): on a failure the SID is freed. -/
def opClientAuth (q : Request) (anchor cert csig : List Byte) (_ : Nat) (s : State) : Answer :=
  match s.sessionOf q with
  | none => ⟨0x0B, [], s⟩
  | some x =>
    match s.authLevel x anchor cert csig with
    | some level =>
      let s := s.putSession { x with level := level }
      let s := if s.ptpSync then s else s.secLog 6 5 0
      ⟨0, leBytes 1 level ++ [0, 0, 0], s.notify 8 2 x.sid⟩
    | none => ⟨3, [], (s.endSession x.sid).refuseSession⟩

/-- CLOSE (R434). -/
def opClose (q : Request) (_ : Nat) (s : State) : Answer := ⟨0, [], s.endSession q.sid.toNat⟩

/-- ATTEST (R437). -/
def opAttest (nonce : List Byte) (_ : Nat) (s : State) : Answer :=
  if !s.keysServed then ⟨7, [], s⟩
  else
    let a := s.flash.active
    let stepping : Nat := 2
    let r := nonce ++ (Config.serial ++ List.replicate 8 0).take 8 ++ leBytes 4 0x7240 ++ leBytes 1 stepping ++
      [0, 0, 0] ++ leBytes 4 (hdrVersion a) ++ leBytes 2 (hdrSecver a) ++ leBytes 1 (hdrKeySlot a) ++ [0] ++
      (slice a 32 32 ++ List.replicate 32 0).take 32 ++ leBytes 4 (s.regN R.SEC_KEYSLOT) ++
      leBytes 4 (s.regN R.SEC_SECVER) ++ leBytes 4 (s.regN R.SEC_STAT) ++ leBytes 8 s.ptp ++
      leBytes 1 (if s.ptpSync then 1 else 0) ++ [0, 0, 0]
    let (sig, s) := s.unitSign (Config.sha256 r)
    ⟨0, r ++ sig, s⟩

/-- HELLO (R434). -/
def execHello (q : Request) (level : Byte) (cnonce ceph : List Byte) (s : State) : Host.Outcome State Fault Refusal :=
  .next (s.quiet.serve q 0x40 (if cnonce.length = 32 ∧ ceph.length = 64 then some (opHello q level.toNat cnonce ceph) else none))

/-- CLIENT_AUTH (R434). -/
def execClientAuth (q : Request) (anchor cert csig : List Byte) (s : State) : Host.Outcome State Fault Refusal :=
  .next (s.quiet.serve q 0x41 (if anchor.length = 64 ∧ csig.length = 64 then some (opClientAuth q anchor cert csig) else none))

/-- CLOSE (R434). -/
def execClose (q : Request) (s : State) : Host.Outcome State Fault Refusal := .next (s.quiet.serve q 0x42 (some (opClose q)))

/-- ATTEST (R437). -/
def execAttest (q : Request) (nonce : List Byte) (s : State) : Host.Outcome State Fault Refusal :=
  .next (s.quiet.serve q 0x43 (if nonce.length = 32 then some (opAttest nonce) else none))

/-- AUTH_TIMEOUT (R434): CLIENT_AUTH has not succeeded within 5 s of HELLO. -/
def execAuthTimeout (sid : Nat) (s : State) : Host.Outcome State Fault Refusal :=
  .next <|
    match s.sec.sessions.find? (fun x => x.sid == sid) with
    | some x => if x.level = 0 ∧ x.born + ms 5000 ≤ s.now then s.endSession sid else s
    | none => s

/-- SESSION_IDLE_TIMEOUT (R392): no valid frame for SESS_IDLE. -/
def execSessionIdleTimeout (sid : Nat) (s : State) : Host.Outcome State Fault Refusal :=
  .next <|
    match s.sec.sessions.find? (fun x => x.sid == sid) with
    | some x => if x.lastFrame + ms (1000 * s.dictVal 0x130002) ≤ s.now then s.endSession sid else s
    | none => s

end Sys2Proof.Machine
end

