-- ==== Sys2Proof/Machine/Loquetu.lean ====
section
/-! DEFINITION. The operations of the Loquetu protocol (R387): reads and writes of objects (R388 to R391), segmented
transfers (R393, R442), commit groups (R394 to R397), snapshots (R399), events (R400, R401). -/

namespace Sys2Proof.Machine

/-! ## Reads and writes -/

/-- An item as bytes (R388). -/
def itemBytes (index sub type : Nat) (value : List Byte) : List Byte :=
  pad4 (leBytes 2 index ++ leBytes 1 sub ++ leBytes 1 type ++ leBytes 2 value.length ++ value)

/-- The type code of an object. -/
def objType (index sub : Nat) : Nat := ((objInfo index sub).map (·.type)).getD 0

/-- READ (R387, R389): a register field is read by CC0, a pair of words at one time (R8). -/
def opRead (index sub : Nat) (level : Nat) (s : State) : Answer :=
  let st := readStatus level index sub
  if st ≠ 0 then ⟨st, [], s⟩
  else
    let high := fun a => (objField index sub).any (fun o => a == o.addr + 4)
    let value := s.objValue index sub (s.kernelRead s.lastFired (fun a => if high a then s.shown a else s.readWord a))
    ⟨0, itemBytes index sub (objType index sub) value, match objField index sub with
      | some o => s.readObjRegs o
      | none => s⟩

/-- The body of an answer to a write: the state object where the status is 0x06 (R385). -/
def writeBody (index sub status : Nat) : List Byte := if status = 6 then busyBody index sub else []

/-- A write of an object whose item has passed `writeStatus` (R389, R390, R403). -/
def State.writeItem (s : State) (index sub : Nat) (value : List Byte) : Nat × State :=
  if 0x6000 ≤ index ∧ index < 0x6100 ∧ sub = 0x0C then s.writeArm (index - 0x6000) (leNat value)
  else if ((objInfo index sub).map (·.acc)).getD 0 = 2 then
    match (objField index sub).bind (fun o => (rawOf o value).map (fun v => (o, v))) with
    | some (o, v) => if s.inRange o v then s.armInner [⟨index, sub, none, value⟩] s.lowestLine else (5, s)
    | none => (5, s)
  else s.writeObject index sub value

/-- WRITE (R387, R390, R391). -/
def opWrite (index sub type : Nat) (value : List Byte) (level : Nat) (s : State) : Answer :=
  let st := s.writeStatus level index sub type value
  if st ≠ 0 then ⟨st, [], s⟩
  else
    let (st, t) := s.writeItem index sub value
    ⟨st, writeBody index sub st, t⟩

/-! ## Segmented transfers -/

/-- SEG_READ (R393). -/
def opSegRead (index sub offset maxlen : Nat) (level : Nat) (s : State) : Answer :=
  match objInfo index sub with
  | none => ⟨1, [], s⟩
  | some i =>
    if !mayRead level i then ⟨3, [], s⟩
    else if i.acc = 3 then ⟨2, [], s⟩
    else if i.type ≠ 13 then ⟨4, [], s⟩
    else
      let v := s.domainValue index sub
      ⟨0, leBytes 4 v.length ++ leBytes 4 offset ++ pad4 (slice v offset (min maxlen 1024)), s⟩

/-- The object is the Staging slot (R442). -/
def isStaging (index sub : Nat) : Bool := index == 0x1500 && sub == 1

/-- TOTAL suits a DOMAIN object (R388, R393): at most 16 MiB, and the size of a table that has one. -/
def totalOk (index sub total : Nat) : Bool :=
  decide (total ≤ 2 ^ 24) &&
    (match Config.tableObject index sub with
    | some .readmit => total % 4 == 0
    | some t => (match valueSize t with
      | some n => total == n
      | none => true)
    | none => true)

/-- The status of SEG_WRITE_INIT (R391, R393, R394, R442). -/
def State.initStatus (s : State) (o : Owner) (level index sub handle total : Nat) : Nat :=
  match objInfo index sub with
  | none => 1
  | some i =>
    if !s.mayWrite level (objKey index sub) i then 3
    else if i.acc = 0 then 2
    else if i.type ≠ 13 then 4
    else if handle ≠ 0 ∧ i.acc ≠ 2 then 2
    else if handle ≠ 0 ∧ !(s.ownGroup o handle).any (fun g => g.state == 1) then 8
    else if !totalOk index sub total then 5
    else if isStaging index sub ∧
        (s.eth.xfers.any (fun x => isStaging x.index x.sub) ∨ s.act = 1 ∨ s.act = 3 ∨ s.act = 4) then 6
    else if 4 ≤ s.eth.xfers.length then 0x0C
    else 0

/-- The number of a new transfer: one that no open transfer has. -/
def State.xferId (s : State) : Nat :=
  ((List.range 5).map (fun i => (s.eth.nextXfer + i) % 65536)).find? (fun k => !s.eth.xfers.any (fun x => x.id == k)) |>.getD 0

/-- SEG_WRITE_INIT (R393). -/
def opSegWriteInit (q : Request) (index sub handle total crc : Nat) (level : Nat) (s : State) : Answer :=
  let st := s.initStatus (ownerOf q) level index sub handle total
  if st ≠ 0 then ⟨st, writeBody index sub st, s⟩
  else
    let id := s.xferId
    ⟨0, leBytes 2 id ++ [0, 0], { s with eth := { s.eth with
      nextXfer := (id + 1) % 65536, xfers := s.eth.xfers ++ [⟨id, ownerOf q, index, sub, handle, total, crc, [], s.now⟩] } }⟩

/-- A whole DOMAIN value is written, or staged into its group (R390, R393, R395). -/
def State.writeDomain (s : State) (x : Xfer) (value : List Byte) : Nat × State :=
  let i : Staged := ⟨x.index, x.sub, Config.tableObject x.index x.sub, value⟩
  if x.handle ≠ 0 then
    match s.ownGroup x.owner x.handle with
    | some g => s.stageItem x.handle g i
    | none => (8, s)
  else if ((objInfo x.index x.sub).map (·.acc)).getD 0 = 2 then s.armInner [i] s.lowestLine
  else
    let k := match i.table with
      | some (.board r) => r
      | _ => objKey x.index x.sub
    (0, { s with flash := { s.flash with board := (k, value) :: s.flash.board.filter (fun e => e.1 != k) } })

/-- The last byte of an image has come (R442): Verified, or Rejected. -/
def State.endStaging (s : State) (crcOk : Bool) : Nat × State :=
  if crcOk ∧ bodyOk s.flash.staging then (0, ((s.setStage 2).setBit R.SEC_EVT F.SEC_EVT_STAGED true).notify 9 0 0)
  else (0x0A, ((s.setStage 3).setBit R.SEC_EVT F.SEC_EVT_STAGED true).secLog 2 5 0)

/-- The first segment of an image: 256 bytes or more, a header that passes, and a TOTAL that it announces (R442). -/
def State.firstOk (s : State) (x : Xfer) (data : List Byte) : Bool :=
  decide (256 ≤ data.length) && s.headerOk (data.take 256) && decide (x.total = 256 + hdrBodyLen data)

/-- A transfer takes a segment; its last one ends it (R393). -/
def State.takeSegment (s : State) (x : Xfer) (data : List Byte) : Nat × State :=
  let all := x.data ++ data
  let staging := isStaging x.index x.sub
  let s := { s with eth := { s.eth with
    xfers := s.eth.xfers.map (fun y => if y.id = x.id then { x with data := all, at_ := s.now } else y) } }
  let s := if staging then { s with flash := { s.flash with staging := all } } else s
  if all.length < x.total then (0, s)
  else
    let s := { s with eth := { s.eth with xfers := s.eth.xfers.filter (fun y => y.id != x.id) } }
    if staging then s.endStaging (decide (crc32c all = x.crc))
    else if crc32c all = x.crc then s.writeDomain x all
    else (0x0A, s)

/-- SEG_WRITE (R393, R442). -/
def opSegWrite (q : Request) (xfer offset : Nat) (data : List Byte) (_ : Nat) (s : State) : Answer :=
  let body := fun n : Nat => leBytes 2 xfer ++ [0, 0] ++ leBytes 4 n
  match s.eth.xfers.find? (fun x => x.id == xfer && x.owner == ownerOf q) with
  | none => ⟨0x0A, body 0, s⟩
  | some x =>
    let done := x.data.length
    let left := x.total - done
    if offset ≠ done ∨ data.length < 4 ∨ 1024 < data.length ∨ (left + 3) / 4 * 4 < data.length then ⟨0x0A, body done, s⟩
    else
      let d := data.take left
      let staging := isStaging x.index x.sub
      if staging ∧ done = 0 then
        if s.firstOk x d then
          let (st, t) := (s.setStage 1).takeSegment x d
          ⟨st, body d.length, t⟩
        else ⟨7, body 0, ({ s with eth := { s.eth with xfers := s.eth.xfers.filter (fun y => y.id != x.id) } }).secLog 1 5 0⟩
      else if staging ∧ !Config.flashReady s.freeCtr then ⟨6, body done, s.drawn⟩
      else
        let (st, t) := (if staging then s.drawn else s).takeSegment x d
        ⟨st, body (done + d.length), t⟩

/-- SEG_ABORT (R387). -/
def opSegAbort (q : Request) (xfer : Nat) (_ : Nat) (s : State) : Answer :=
  if s.eth.xfers.any (fun x => x.id == xfer && x.owner == ownerOf q) then ⟨0, [], s.dropXfer xfer⟩ else ⟨0x0A, [], s⟩

/-! ## Commit groups -/

/-- GROUP_OPEN (R394): a ninth group is a full table. -/
def opGroupOpen (q : Request) (_ : Nat) (s : State) : Answer :=
  match s.openGroup (ownerOf q) with
  | (some k, s) => ⟨0, leBytes 1 k ++ [0, 0, 0], s⟩
  | (none, s) => ⟨0x0C, [], s⟩

/-- GROUP_STAGE (R391, R394, R395). -/
def opGroupStage (q : Request) (handle index sub type : Nat) (value : List Byte) (level : Nat) (s : State) : Answer :=
  match s.ownGroup (ownerOf q) handle with
  | none => ⟨8, [], s⟩
  | some g =>
    if g.state ≠ 1 then ⟨8, [], s⟩
    else
      let st := s.stageStatus level index sub type value
      if st ≠ 0 then ⟨st, [], s⟩
      else
        let (st, t) := s.stageItem handle g ⟨index, sub, none, value⟩
        ⟨st, [], t⟩

/-- GROUP_ARM (R394, R396): only an Open group is armed. -/
def opGroupArm (q : Request) (handle kind value : Nat) (_ : Nat) (s : State) : Answer :=
  match s.ownGroup (ownerOf q) handle with
  | none => ⟨8, [], s⟩
  | some g =>
    if g.state ≠ 1 then ⟨8, s.groupBody handle, s⟩
    else
      let (st, t) := s.armGroup handle g kind value
      ⟨st, t.groupBody handle, t⟩

/-- GROUP_DISCARD (R394, R397). -/
def opGroupDiscard (q : Request) (handle : Nat) (_ : Nat) (s : State) : Answer :=
  match s.ownGroup (ownerOf q) handle with
  | none => ⟨8, [], s⟩
  | some g =>
    let (st, t) := s.discardGroup handle g
    ⟨st, [], t⟩

/-- GROUP_STATUS (R394). -/
def opGroupStatus (q : Request) (handle : Nat) (_ : Nat) (s : State) : Answer :=
  match s.ownGroup (ownerOf q) handle with
  | none => ⟨8, [], s⟩
  | some _ => ⟨0, s.groupBody handle, s⟩

/-! ## Snapshots -/

/-- The word of a register in a snapshot (R399): of a register that commit groups change, the one in force on the
snapshot line; RC fields are not cleared. -/
def State.snapWord (s : State) (rws : Bool) (a : Nat) : Word :=
  let l := s.regN R.BR_SNAPLINE
  if rws ∧ l ≠ 0xFFFFFFFF then s.regOn a l else s.shown a

/-- The status that refuses an object of a snapshot; 0 where none does (R399). -/
def snapStatus (index sub : Nat) : Nat :=
  match objInfo index sub with
  | none => 1
  | some i =>
    if i.type = 13 then 4 else if i.level = 3 then 3 else if i.acc = 3 then 2 else 0

/-- SNAPSHOT (R399): refused whole with the status of the first object that may not stand in one. -/
def opSnapshot (objects : List (Nat × Nat)) (_ : Nat) (s : State) : Answer :=
  match (objects.map (fun e => snapStatus e.1 e.2)).find? (· != 0) with
  | some st => ⟨st, [], s⟩
  | none =>
    let body := leBytes 4 (s.regN R.BR_SNAPLINE) ++ objects.flatMap (fun e =>
      let rws := ((objInfo e.1 e.2).map (·.acc)).getD 0 == 2
      itemBytes e.1 e.2 (objType e.1 e.2) (s.objValue e.1 e.2
        (s.kernelRead (if s.regN R.BR_SNAPLINE = 0xFFFFFFFF then s.lastFired else s.regN R.BR_SNAPLINE) (s.snapWord rws))))
    if 64 < objects.length ∨ 1400 < body.length then ⟨5, [], s⟩ else ⟨0, body, s⟩

/-! ## Events -/

/-- Subscriber `i`. -/
def State.sub (s : State) (i : Nat) : Option Subscriber := (s.subs.find? (fun e => e.1 == i)).map (·.2)

/-- Subscriber `i` set. -/
def State.setSub (s : State) (i : Nat) (b : Subscriber) : State := { s with subs := sins (sdel s.subs i) i b }

/-- SUBSCRIBE (R400). -/
def opSubscribe (q : Request) (classes port : Nat) (_ : Nat) (s : State) : Answer :=
  match (List.range 8).find? (fun i => (s.sub i).isNone) with
  | none => ⟨0x0C, [], s⟩
  | some i => ⟨0, leBytes 1 i ++ [0, 0, 0], s.setSub i
      { ip := q.ip.toNat, port := q.port.toNat, sid := q.sid.toNat, classes := classes, evPort := port, queue := []
        nextSeq := 0, lost := 0, lastAck := s.now, lastSend := s.now, unsent := 0 }⟩

/-- UNSUBSCRIBE (R387): an unknown number is out of range. -/
def opUnsubscribe (i : Nat) (_ : Nat) (s : State) : Answer :=
  match s.sub i with
  | none => ⟨5, [], s⟩
  | some _ => ⟨0, [], { s with subs := sdel s.subs i }⟩

/-- EVENT_ACK (R401): every record up to ESEQ is acknowledged. -/
def opEventAck (i eseq : Nat) (_ : Nat) (s : State) : Answer :=
  match s.sub i with
  | none => ⟨5, [], s⟩
  | some b =>
    let queue := b.queue.filter (fun r => !lineLe r.eseq eseq)
    ⟨0, [], s.setSub i { b with queue := queue, lastAck := s.now, unsent := min b.unsent queue.length }⟩

/-- An event frame to subscriber `i` with records (R401), tagged where its session exists (R392). -/
def State.sendEvents (s : State) (i : Nat) (b : Subscriber) (records : List EventRec) : State :=
  let body := leBytes 1 i ++ leBytes 1 records.length ++ leBytes 2 b.lost ++ records.flatMap recordBytes
  match s.sec.sessions.find? (fun x => x.sid == b.sid && b.sid != 0) with
  | none => s.sendUdp b.ip b.evPort (plainFrame 0x32 0 0 0 body)
  | some x =>
    if 2 ^ 48 ≤ x.sent then s.endSession x.sid
    else (s.putSession { x with sent := x.sent + 1 }).sendUdp b.ip b.evPort (sealedFrame x 0x32 0 0 body)

/-- EVENT_FRAME_SEND (R401): up to 32 records that were never sent. -/
def execEventFrameSend (subscriber : Fin 8) (s : State) : Host.Outcome State Fault Refusal :=
  .next <|
    let s := s.quiet
    match s.sub subscriber with
    | none => s
    | some b =>
      if b.unsent = 0 ∨ !s.served then s
      else
        let records := (b.queue.drop (b.queue.length - b.unsent)).take 32
        (s.setSub subscriber { b with lost := 0, lastSend := s.now, unsent := b.unsent - records.length }).sendEvents
          subscriber b records

/-- EVENT_RESEND_TIMER (R401): every unacknowledged record is sent again, at most 32 to a frame. -/
def execEventResendTimer (subscriber : Fin 8) (s : State) : Host.Outcome State Fault Refusal :=
  .next <|
    let s := s.quiet
    match s.sub subscriber with
    | none => s
    | some b =>
      if b.queue.isEmpty ∨ s.now < b.lastSend + ms 10 ∨ !s.served then s
      else
        let s := s.setSub subscriber { b with lost := 0, lastSend := s.now, unsent := 0 }
        let s := s.sendEvents subscriber b (b.queue.take 32)
        if 32 < b.queue.length then s.sendEvents subscriber { b with lost := 0 } (b.queue.drop 32) else s

/-- SUBSCRIBER_TIMEOUT (R401): records wait, and nothing was acknowledged for 1 s. -/
def execSubscriberTimeout (subscriber : Fin 8) (s : State) : Host.Outcome State Fault Refusal :=
  .next <|
    match s.sub subscriber with
    | none => s
    | some b =>
      if b.queue.isEmpty ∨ s.now < b.lastAck + ms 1000 then s
      else State.logFault { s with subs := sdel s.subs subscriber.val }
        { level := 3, kind := 5, unit := 0, src := 0x0B, cause := Config.logCause 0x0B 2 }

/-! ## The commands -/

/-- READ (R387). -/
def execRead (q : Request) (index : BitVec 16) (sub : BitVec 8) (s : State) : Host.Outcome State Fault Refusal :=
  .next (s.quiet.serve q 0x01 (some (opRead index.toNat sub.toNat)))

/-- The write of an object by a request. -/
def State.serveWrite (s : State) (q : Request) (index sub type : Nat) (value : List Byte) : State :=
  s.quiet.serve q 0x02 (some (opWrite index sub type value))

/-- WRITE (R390). -/
def execWrite (q : Request) (item : Item) (s : State) : Host.Outcome State Fault Refusal :=
  .next (s.serveWrite q item.index.toNat item.sub.toNat item.type.toNat item.value)

/-- SEG_READ (R393). -/
def execSegRead (q : Request) (index : BitVec 16) (sub : BitVec 8) (offset : BitVec 32) (maxlen : BitVec 16) (s : State) :
    Host.Outcome State Fault Refusal :=
  .next (s.quiet.serve q 0x03 (some (opSegRead index.toNat sub.toNat offset.toNat maxlen.toNat)))

/-- SEG_WRITE_INIT (R393). -/
def execSegWriteInit (q : Request) (index : BitVec 16) (sub handle : BitVec 8) (total crc : BitVec 32) (s : State) :
    Host.Outcome State Fault Refusal :=
  .next (s.quiet.serve q 0x04 (some (opSegWriteInit q index.toNat sub.toNat handle.toNat total.toNat crc.toNat)))

/-- SEG_WRITE (R393). -/
def execSegWrite (q : Request) (xfer : BitVec 16) (offset : BitVec 32) (data : List Byte) (s : State) :
    Host.Outcome State Fault Refusal :=
  .next (s.quiet.serve q 0x05 (some (opSegWrite q xfer.toNat offset.toNat data)))

/-- SEG_ABORT (R387). -/
def execSegAbort (q : Request) (xfer : BitVec 16) (s : State) : Host.Outcome State Fault Refusal :=
  .next (s.quiet.serve q 0x06 (some (opSegAbort q xfer.toNat)))

/-- SEG_TRANSFER_TIMEOUT (R393). -/
def execSegTransferTimeout (xfer : Nat) (s : State) : Host.Outcome State Fault Refusal :=
  .next (if s.eth.xfers.any (fun x => x.id == xfer && decide (x.at_ + ms 1000 ≤ s.now)) then s.dropXfer xfer else s)

/-- GROUP_OPEN (R394). -/
def execGroupOpen (q : Request) (s : State) : Host.Outcome State Fault Refusal :=
  .next (s.quiet.serve q 0x10 (some (opGroupOpen q)))

/-- GROUP_STAGE (R395). -/
def execGroupStage (q : Request) (handle : BitVec 8) (item : Item) (s : State) : Host.Outcome State Fault Refusal :=
  .next (s.quiet.serve q 0x11
    (some (opGroupStage q handle.toNat item.index.toNat item.sub.toNat item.type.toNat item.value)))

/-- GROUP_ARM (R396). -/
def execGroupArm (q : Request) (handle kind : BitVec 8) (value : BitVec 64) (s : State) :
    Host.Outcome State Fault Refusal :=
  .next (s.quiet.serve q 0x12 (some (opGroupArm q handle.toNat kind.toNat value.toNat)))

/-- GROUP_DISCARD (R397). -/
def execGroupDiscard (q : Request) (handle : BitVec 8) (s : State) : Host.Outcome State Fault Refusal :=
  .next (s.quiet.serve q 0x13 (some (opGroupDiscard q handle.toNat)))

/-- GROUP_STATUS (R394). -/
def execGroupStatus (q : Request) (handle : BitVec 8) (s : State) : Host.Outcome State Fault Refusal :=
  .next (s.quiet.serve q 0x14 (some (opGroupStatus q handle.toNat)))

/-- SNAPSHOT (R399). -/
def execSnapshot (q : Request) (objects : List (BitVec 16 × BitVec 8)) (s : State) : Host.Outcome State Fault Refusal :=
  .next (s.quiet.serve q 0x20 (some (opSnapshot (objects.map (fun e => (e.1.toNat, e.2.toNat))))))

/-- SUBSCRIBE (R400). -/
def execSubscribe (q : Request) (classes : BitVec 32) (port : BitVec 16) (s : State) : Host.Outcome State Fault Refusal :=
  .next (s.quiet.serve q 0x30 (some (opSubscribe q classes.toNat port.toNat)))

/-- UNSUBSCRIBE (R387). -/
def execUnsubscribe (q : Request) (subscriber : BitVec 8) (s : State) : Host.Outcome State Fault Refusal :=
  .next (s.quiet.serve q 0x31 (some (opUnsubscribe subscriber.toNat)))

/-- EVENT_ACK (R401). -/
def execEventAck (q : Request) (subscriber : BitVec 8) (eseq : BitVec 32) (s : State) : Host.Outcome State Fault Refusal :=
  .next (s.quiet.serve q 0x33 (some (opEventAck subscriber.toNat eseq.toNat)))

/-- PAGE_ARM (R405). -/
def execPageArm (q : Request) (n : BitVec 8) (s : State) : Host.Outcome State Fault Refusal :=
  .next (s.serveWrite q (0x6000 + n.toNat) 0x0C 2 [1])

/-- PAGE_DISARM (R405). -/
def execPageDisarm (q : Request) (n : BitVec 8) (s : State) : Host.Outcome State Fault Refusal :=
  .next (s.serveWrite q (0x6000 + n.toNat) 0x0C 2 [2])

/-- SETTINGS_SAVE (R408). -/
def execSettingsSave (q : Request) (s : State) : Host.Outcome State Fault Refusal :=
  .next (s.serveWrite q 0x2000 6 1 [1])

/-- ACTIVATE (R443). -/
def execActivate (q : Request) (time : BitVec 64) (s : State) : Host.Outcome State Fault Refusal :=
  .next (s.serveWrite q 0x1500 3 5 (leBytes 8 time.toNat))

/-- FALLBACK_REQUEST (R450). -/
def execFallbackRequest (q : Request) (s : State) : Host.Outcome State Fault Refusal :=
  .next (s.serveWrite q 0x1500 9 1 [1])

/-- REVOKE (R452). -/
def execRevoke (q : Request) (slot : Byte) (s : State) : Host.Outcome State Fault Refusal :=
  .next (s.serveWrite q 0x1430 1 2 [slot])

end Sys2Proof.Machine
end

