-- ==== Sys2Proof/Machine/Ethernet.lean ====
section
/-! DEFINITION. The Ethernet ports, the switch and the internal port (R378 to R380), the PTP clock (R381 to R383), and
Loquetu requests that arrive as datagrams (R384, R385, R387). -/

namespace Sys2Proof.Machine

/-! ## Request bodies -/

/-- A reserved part of a body is 0 (R385). -/
def zeros (l : List Byte) (i n : Nat) : Bool := (slice l i n).all (· == 0)

/-- An item in a body from byte `i`: index, subindex, type and value, where the body ends with it (R388). -/
def parseItem (l : List Byte) (i : Nat) : Option (Nat × Nat × Nat × List Byte) :=
  let n := leAt l (i + 4) 2
  if l.length < i + 6 ∨ l.length ≠ i + (n + 9) / 4 * 4 ∨ !zeros l (i + 6 + n) 4 then none
  else some (leAt l i 2, leAt l (i + 2) 1, leAt l (i + 3) 1, slice l (i + 6) n)

/-- The handle at the head of a body, three reserved bytes behind it. -/
def parseHandle (l : List Byte) : Option Nat := if zeros l 1 3 then some (leAt l 0 1) else none

/-- The operation that OP and a body spell (R387, R434); none where the body is not one of the operation's. -/
def parseOp (q : Request) (op : Nat) (l : List Byte) : Option (Nat → State → Answer) :=
  let n := l.length
  let u := leAt l
  match op with
  | 0x01 => if n = 4 ∧ zeros l 3 1 then some (opRead (u 0 2) (u 2 1)) else none
  | 0x02 => (parseItem l 0).map (fun i => opWrite i.1 i.2.1 i.2.2.1 i.2.2.2)
  | 0x03 => if n = 12 ∧ zeros l 3 1 ∧ zeros l 10 2 then some (opSegRead (u 0 2) (u 2 1) (u 4 4) (u 8 2)) else none
  | 0x04 => if n = 12 then some (opSegWriteInit q (u 0 2) (u 2 1) (u 3 1) (u 4 4) (u 8 4)) else none
  | 0x05 => if 12 ≤ n ∧ n ≤ 1032 ∧ zeros l 2 2 then some (opSegWrite q (u 0 2) (u 4 4) (l.drop 8)) else none
  | 0x06 => if n = 4 ∧ zeros l 2 2 then some (opSegAbort q (u 0 2)) else none
  | 0x10 => if n = 0 then some (opGroupOpen q) else none
  | 0x11 => (parseHandle l).bind (fun h =>
      (parseItem l 4).map (fun i => opGroupStage q h i.1 i.2.1 i.2.2.1 i.2.2.2))
  | 0x12 => if n = 12 ∧ zeros l 2 2 then some (opGroupArm q (u 0 1) (u 1 1) (u 4 8)) else none
  | 0x13 => if n = 4 then (parseHandle l).map (fun h => opGroupDiscard q h) else none
  | 0x14 => if n = 4 then (parseHandle l).map (fun h => opGroupStatus q h) else none
  | 0x20 =>
    let k := u 0 2
    if n = 4 + 4 * k ∧ zeros l 2 2 ∧ (List.range k).all (fun i => zeros l (7 + 4 * i) 1) then
      some (opSnapshot ((List.range k).map (fun i => (u (4 + 4 * i) 2, u (6 + 4 * i) 1))))
    else none
  | 0x30 => if n = 8 ∧ zeros l 6 2 then some (opSubscribe q (u 0 4) (u 4 2)) else none
  | 0x31 => if n = 4 then (parseHandle l).map opUnsubscribe else none
  | 0x33 => if n = 8 then (parseHandle l).map (fun h => opEventAck h (u 4 4)) else none
  | 0x40 => if n = 100 ∧ zeros l 1 3 then some (opHello q (u 0 1) (slice l 4 32) (slice l 36 64)) else none
  | 0x41 =>
    let k := u 64 2
    if zeros l 66 2 ∧ n = 68 + (k + 3) / 4 * 4 + 64 then
      some (opClientAuth q (slice l 0 64) (slice l 68 k) (slice l (n - 64) 64))
    else none
  | 0x42 => if n = 0 then some (opClose q) else none
  | 0x43 => if n = 32 then some (opAttest l) else none
  | _ => none

/-- The operations that there are (R387, R434). -/
def knownOps : List Nat :=
  [0x01, 0x02, 0x03, 0x04, 0x05, 0x06, 0x10, 0x11, 0x12, 0x13, 0x14, 0x20, 0x30, 0x31, 0x33, 0x40, 0x41, 0x42, 0x43]

/-- The frame of a datagram is well formed (R384, R385): MAGIC, VER, LEN, reserved fields and OP. -/
def frameOk (d : List Byte) : Bool :=
  let len := leAt d 10 2
  let tag := leAt d 13 1
  decide (leAt d 0 2 = 0x514C ∧ leAt d 2 1 = 1 ∧ len ≤ 1400 ∧ len % 4 = 0 ∧ tag ≤ 1 ∧
    d.length = 16 + len + 16 * tag) && zeros d 14 2 && knownOps.contains (leAt d 3 1)

/-- A datagram that reaches UDP port 49960 (R385, R435). -/
def State.loquetu (s : State) (ip port : BitVec 32) (d : List Byte) : State :=
  if !frameOk d then s
  else
    let op := leAt d 3 1
    let len := leAt d 10 2
    let tagged := leAt d 13 1 = 1
    let q : Request := {
      ip := ip, port := port.setWidth 16, sid := BitVec.ofNat 32 (leAt d 4 4), tid := BitVec.ofNat 16 (leAt d 8 2)
      sseq := if tagged then some (BitVec.ofNat 64 (leAt d 16 8)) else none }
    if !tagged then s.serve q op (parseOp q op (slice d 16 len))
    else
      match s.sessionOf q with
      | none => s.serve q op (parseOp q op [])
      | some x =>
        let ss := slice d 16 8
        match Config.gcmOpen x.keyIn ([0, 0, 0, 1] ++ ss.reverse) (d.take 24) (slice d 24 (len - 8)) (slice d (16 + len) 16) with
        | none => { s with eth := { s.eth with tagFail := (s.eth.tagFail + 1) % 2 ^ 32 } }
        | some l => s.serve q op (parseOp q op l)

/-! ## The switch -/

/-- A port of ETH0 and ETH1 has a link. -/
def State.ethUp (s : State) (p : Nat) : Bool := (if p = 0 then s.eth.link0 else s.eth.link1) != 0

/-- Something leaves an Ethernet port that has a link, or enters the internal port, 2. -/
def State.ethSend (s : State) (p : Nat) (o : EthOut) : State :=
  if p = 2 ∨ s.ethUp p then { s with eth := { s.eth with sent := s.eth.sent ++ [o] } } else s

/-- A source address is learned; entries older than 300 s are gone, and of 1,025 the oldest (R378). -/
def State.learn (s : State) (mac p : Nat) : State :=
  let t := s.eth.table.filter (fun e => e.1 != mac && decide (s.now < e.2.2 + ms 300000))
  { s with eth := { s.eth with table := ((mac, p, s.now) :: t).take 1024 } }

/-- What the internal port does with a frame (R380). -/
def State.internalPort (s : State) (p : Nat) (f : EthFrame) : State :=
  match f.content with
  | .arpRequest sender target => if target.toNat = s.eth.ip then s.ethSend p (.arpReply p sender.toNat) else s
  | .ipv4 src dst fragment content =>
    if fragment ∨ dst.toNat ≠ s.eth.ip then s
    else
      match content with
      | .echoRequest data => s.ethSend p (.echoReply p src.toNat data)
      | .udp sp dp data => if dp.toNat = 49960 then s.loquetu src (sp.setWidth 32) data else s
      | .other => s
  | .ptp | .other => s

/-- ETHERNET_FRAME (R378, R380): forwarded by the switch, and taken by the internal port. A PTP message is
PTP_EVENT_MESSAGE's. -/
def execEthernetFrame (p : Fin 2) (f : EthFrame) (s : State) : Host.Outcome State Fault Refusal :=
  .next <|
    let s := s.quiet
    let other := 1 - p.val
    let group := f.dst.getLsbD 40
    let ptp : Bool := match f.content with
      | .ptp => true
      | .ipv4 _ _ _ (.udp _ dp _) => dp == 319 || dp == 320
      | _ => false
    if !s.served ∨ !s.ethUp p ∨ 1522 < f.len then s
    else
      let known := (s.eth.table.find? (fun e => e.1 == f.dst.toNat && decide (s.now < e.2.2 + ms 300000))).map (·.2.1)
      let s := s.learn f.src.toNat p
      if ptp ∧ group then s
      else if f.dst = Config.mac then s.internalPort p f
      else if group then (s.ethSend other (.forward other f)).internalPort p f
      else if known = some p.val then s
      else s.ethSend other (.forward other f)

/-! ## PTP -/

/-- A PTP message as the transparent clock passes it on: the residence time joins the correctionField of Sync, Delay_Req
and Follow_Up (R381). -/
def correctPtp (m : PtpMsg) (residence : Nat) : PtpMsg :=
  { m with kind := match m.kind with
    | .sync t o c => .sync t o (c + residence)
    | .followUp o c => .followUp o (c + residence)
    | .delayReq c => .delayReq (c + residence)
    | k => k }

/-- The clock is slave of a master: uncalibrated, or slave. -/
def State.ptpSlave (s : State) : Bool := s.eth.ptpState == 8 || s.eth.ptpState == 9

/-- A Sync with its origin and corrections: the time from master to slave is known, and a Delay_Req leaves (R381). -/
def State.ptpSynced (s : State) (p : Nat) (arrival origin corr : Int) : State :=
  State.ethSend { s with eth := { s.eth with
    syncDelay := some (arrival - origin - corr), sync := none, reqAt := some s.ptp } } p (.delayReq p)

/-- What the ordinary clock does with a message (R381, R382); `at_` is its hardware timestamp. -/
def State.ptpTake (s : State) (p : Nat) (m : PtpMsg) (at_ : Int) : State :=
  if m.domain ≠ s.dictVal 0x120001 then s
  else
    match m.kind with
    | .announce better =>
      let st := if better then (if s.ptpSlave then s.eth.ptpState else 8) else 6
      { s with eth := { s.eth with ptpState := st } }
    | .sync twoStep origin corr =>
      if !s.ptpSlave then s
      else if twoStep then { s with eth := { s.eth with sync := some (m.seq, (at_ % 2 ^ 64).toNat, corr) } }
      else s.ptpSynced p at_ origin corr
    | .followUp origin corr =>
      match s.eth.sync with
      | some (seq, arrival, c) => if s.ptpSlave ∧ seq = m.seq then s.ptpSynced p arrival origin (c + corr) else s
      | none => s
    | .delayReq _ => if s.eth.ptpState = 6 then s.ethSend p (.delayResp p m.seq (at_ % 2 ^ 64).toNat) else s
    | .delayResp receive corr ours =>
      match s.eth.syncDelay, s.eth.reqAt with
      | some down, some left =>
        if !ours ∨ !s.ptpSlave then s
        else
          let up : Int := receive - left - corr
          let offset := quot (down - up) 2 s.freeCtr
          let base := (((s.eth.ptpBase : Int) + Config.ptpServo s.freeCtr offset) % 2 ^ 64).toNat
          State.drawn { s with eth := { s.eth with
            ptpState := 9, ptpOffset := offset, ptpBase := base, reqAt := none, syncDelay := none } }
      | _, _ => s
    | .other => s

/-- PTP_EVENT_MESSAGE (R381, R382): forwarded by the transparent clock, and used by the ordinary clock. -/
def execPtpEventMessage (p : Fin 2) (m : PtpMsg) (residence : Nat) (err : Int) (s : State) :
    Host.Outcome State Fault Refusal :=
  .next <|
    let s := s.quiet
    if !s.served ∨ !s.ethUp p then s
    else
      let s := s.ethSend (1 - p.val) (.ptp (1 - p.val) (correctPtp m residence))
      s.ptpTake p m (s.ptp + clampInt (-8) 8 err)

/-- ETHERNET_PHY_LINK_CHANGE (R378): LINK0 and LINK1 (R407) follow the PHYs. -/
def execEthernetPhyLinkChange (p : Fin 2) (speed : Fin 4) (s : State) : Host.Outcome State Fault Refusal :=
  .next { s with eth := if p.val = 0 then { s.eth with link0 := speed } else { s.eth with link1 := speed } }

end Sys2Proof.Machine
end

