-- ==== Sys2Proof/Machine/Policy.lean ====
section
/-! DEFINITION. What CC2 makes of the result records: nozzles retired and re-admitted by ladders (R335), and column
proposals (R335, R336). -/

namespace Sys2Proof.Machine

/-! ## Ladders -/

/-- CC2 reads record `i` of pipeline `p`, none where it is no ladder record or cannot be read; and the index after it. -/
def State.passRecord (s : State) (p i : Nat) : (Option (List Byte) × Nat) × State :=
  (((allRead (s.memRead 0x22 (s.resAddr p i) 32).1).filter (fun l => leAt l 0 1 == 2), (i + 1) % s.resSize p),
    (s.memRead 0x22 (s.resAddr p i) 32).2)

/-- CC2 takes records of pipeline `p`, at most `n`, from the one with index `i` up to and with the next ladder record. A
record that cannot be read is passed. The record found, and the index after it. -/
def State.takeFrom (s : State) (p n i : Nat) : (Option (List Byte) × Nat) × State :=
  (List.range n).foldl (fun x _ => if x.1.1.isSome then x else x.2.passRecord p x.1.2) ((none, i), s)

/-- The next ladder record of pipeline `p` among at most `n` records; RES_RD passes the records taken. -/
def State.takeRecord (s : State) (p n : Nat) : Option (List Byte) × State :=
  let ((l, i), s) := s.takeFrom p n (s.fld (R.Pp_RES_RD p) F.Pp_RES_RD_INDEX)
  (l, s.setFld (R.Pp_RES_RD p) F.Pp_RES_RD_INDEX i)

/-- The first line of the next page that can still be armed: the nearest L_first whose preparation has not begun
(R335). -/
def State.nextPageLine (s : State) : Option Nat :=
  let l := (s.pages.filter (fun e => e.2.state == 2 && e.2.lfirst != 0xFFFFFFFF && lineLt s.prepBegun e.2.lfirst)).map
    (fun e => e.2.lfirst)
  l.foldl (fun m v => match m with
    | some w => some (if lineLt v w then v else w)
    | none => some v) none

/-- A nozzle that passed PASSN ladders is re-admitted at the next page's first line (R335); it stays due where there is no
such page, or the group is refused. -/
def State.readmitAtPage (s : State) (g : Nat) (v : NozVerdict) : NozVerdict × State :=
  if !s.nozRetired g ∨ s.weaver.readmit.any (fun e => e.1 == g) then (v, s)
  else if !s.running then (v, s)
  else
    match s.nextPageLine with
    | none => (v, s)
    | some l =>
      match s.armInner [⟨0, 0, some .readmit, leBytes 4 g⟩] (some l) with
      | (0, s) => ({ v with passes := 0 }, s)
      | (_, s) => (v, s)

/-- A ladder record is judged (R335): byte 1 has PRESENT [2], RET [3] and CHOUT [4]. A nozzle is judged once a ladder. -/
def State.judgeRecord (s : State) (l : List Byte) : State :=
  let b := leAt l 1 1
  let g := leAt l 4 4 % 2 ^ 17
  let l0 := leAt l 8 4
  let good := b.testBit 2 && decide ((sext 16 (leAt l 14 2)).natAbs ≤ s.dictVal 0x250009)
  let v := sget (fun _ => {}) s.cam.verdicts g
  if b.testBit 4 ∨ v.l0 = some l0 ∨ 101376 ≤ g then s
  else
    let put := fun (s : State) (v : NozVerdict) =>
      { s with cam := { s.cam with verdicts := sset (fun _ => {}) s.cam.verdicts g v } }
    if b.testBit 3 then
      let v := { v with l0 := some l0, fails := 0, passes := if good then v.passes + 1 else 0 }
      if max 1 (s.dictVal 0x250003) ≤ v.passes then
        let (v, s) := s.readmitAtPage g v
        put s v
      else put s v
    else
      let v := { v with l0 := some l0, passes := 0, fails := if good then 0 else v.fails + 1 }
      if max 1 (s.dictVal 0x250002) ≤ v.fails then
        nextOr s (execCamNozzleRetire (.core 2) (BitVec.ofNat 32 g) (put s { v with fails := 0 }))
      else put s v

/-- LADDER_VERDICT (R335). -/
def execLadderVerdict (p : Fin 2) (s : State) : Host.Outcome State Fault Refusal :=
  .next <|
    let n := modSub (s.resSize p) (s.fld (R.Pp_RES_WR p) F.Pp_RES_WR_INDEX) (s.fld (R.Pp_RES_RD p) F.Pp_RES_RD_INDEX)
    match s.takeRecord p n with
    | (some l, s) => s.judgeRecord l
    | (none, s) => s

/-! ## Column proposals -/

/-- A printed column is to be changed (R335): measured on enough pages and pixels, with an error of DEAD or more. -/
def State.columnDue (s : State) (m : ColMeasure) : Bool :=
  decide (s.dictVal 0x250004 ≤ m.pages ∧ s.dictVal 0x250005 ≤ m.n ∧ 0 < m.ref ∧
    s.dictVal 0x250007 * m.ref ≤ 10000 * (m.meas - m.ref).natAbs)

/-- A tone point scaled by 1 + KP · (1 / r − 1), the change limited to MAXSTEP (R335). -/
def State.scaledPoint (s : State) (m : ColMeasure) (p k : Nat) : Nat :=
  let change := quot ((p : Int) * s.dictVal 0x250006 * (m.ref - m.meas)) (256 * m.meas) k
  let step : Int := s.dictVal 0x250008
  (clampInt 0 4095 (p + clampInt (-step) step change)).toNat

/-- The target record of a column scaled point by point (R171, R335). -/
def State.scaledRecord (s : State) (m : ColMeasure) (l : List Byte) (k : Nat) : List Byte :=
  let n := leNat l
  leBytes 16 ((List.range 9).foldl (fun a j => a + s.scaledPoint m (n / 2 ^ (12 * j) % 4096) (k + j) * 2 ^ (12 * j))
    (n / 2 ^ 108 * 2 ^ 108))

/-- The tone table of hamlet `k` with the columns of a proposal changed. -/
def State.proposedTone (s : State) (cols : List (Nat × ColMeasure)) (k : Nat) : List Byte :=
  (List.range 12672).flatMap (fun i =>
    let l := s.bytes (toneAddr k i + 16) 16
    match cols.find? (fun c => c.1 == 6 * k * s.pitch + i) with
    | some c => s.scaledRecord c.2 l (s.freeCtr + 9 * c.1)
    | none => l)

/-- The heads that print a column (R18). -/
def State.headsOf (s : State) (X : Nat) : List Nat :=
  let (h, o) := s.coverOf X
  if o.isSome then [h - 1, h] else [h]

/-- COLUMN_PROPOSAL (R335, R336): armed for the lowest line that R23 allows, while PROPEN is 1, no ramp of the tone curves
is open and no head of its columns is derated. -/
def execColumnProposal (s : State) : Host.Outcome State Fault Refusal :=
  .next <|
    let cols := s.cam.measures.filter (fun e => s.columnDue e.2)
    if s.dictVal 0x25000A = 0 ∨ cols.isEmpty ∨ s.toneBusy ∨
        cols.any (fun c => (s.headsOf c.1).any (fun h => s.bit (R.HC_STAT h) F.HC_STAT_DERATED)) then s
    else
      let items := (List.range 4).map (fun k => (⟨0, 0, some (.tone k), s.proposedTone cols k⟩ : Staged))
      match (s.drawnN (9 * s.barColumns)).armInner items s.lowestLine with
      | (0, s) => { s with cam := { s.cam with proposed := true, measures := [] } }
      | (_, s) => s

end Sys2Proof.Machine
end

