-- ==== Sys2Proof/Machine/Dispatch.lean ====
section
/-! DEFINITION. The meaning of each command: one arm per constructor, one direct call per arm. -/

namespace Sys2Proof.Machine

/-- What a command does to everything but the queue. -/
def exec (i : Instr) (s : State) : Host.Outcome State Fault Refusal :=
  match i with
  | .registerWrite r addr data => Sys2Proof.Machine.execRegisterWrite r addr data s
  | .rcRegisterRead r addr len event => Sys2Proof.Machine.execRcRegisterRead r addr len event s
  | .w1cEventClear r addr v hw => Sys2Proof.Machine.execW1cEventClear r addr v hw s
  | .widePairLowRead r addr => Sys2Proof.Machine.execWidePairLowRead r addr s
  | .linkEnable r v => Sys2Proof.Machine.execLinkEnable r v s
  | .linkDisable r v => Sys2Proof.Machine.execLinkDisable r v s
  | .symbolLock n inverted => Sys2Proof.Machine.execSymbolLock n inverted s
  | .portUp p skews => Sys2Proof.Machine.execPortUp p skews s
  | .laneMarkerSetReceived n ln gen txm rxm mode chk => Sys2Proof.Machine.execLaneMarkerSetReceived n ln gen txm rxm mode chk s
  | .skipSetReceived n insert => Sys2Proof.Machine.execSkipSetReceived n insert s
  | .eieSetReceived p => Sys2Proof.Machine.execEieSetReceived p s
  | .packetReceived p lanes => Sys2Proof.Machine.execPacketReceived p lanes s
  | .streamDataPacket p => Sys2Proof.Machine.execStreamDataPacket p s
  | .memoryWritePacket p => Sys2Proof.Machine.execMemoryWritePacket p s
  | .memoryReadRequest p => Sys2Proof.Machine.execMemoryReadRequest p s
  | .memoryReadCompletion p => Sys2Proof.Machine.execMemoryReadCompletion p s
  | .creditPacketReceived p => Sys2Proof.Machine.execCreditPacketReceived p s
  | .creditUpdateSend p => Sys2Proof.Machine.execCreditUpdateSend p s
  | .ackTimerExpiry p => Sys2Proof.Machine.execAckTimerExpiry p s
  | .nakTransmit p => Sys2Proof.Machine.execNakTransmit p s
  | .nakTimeout p => Sys2Proof.Machine.execNakTimeout p s
  | .nakReceived p => Sys2Proof.Machine.execNakReceived p s
  | .replayTimeout p => Sys2Proof.Machine.execReplayTimeout p s
  | .laneRetirement n rd syms => Sys2Proof.Machine.execLaneRetirement n rd syms s
  | .symbolLockLoss n => Sys2Proof.Machine.execSymbolLockLoss n s
  | .deskewOverflow n => Sys2Proof.Machine.execDeskewOverflow n s
  | .linkRetire r v => Sys2Proof.Machine.execLinkRetire r v s
  | .linkReadmit r v => Sys2Proof.Machine.execLinkReadmit r v s
  | .laneQualificationComplete n skew => Sys2Proof.Machine.execLaneQualificationComplete n skew s
  | .readmitAbandon n rd syms => Sys2Proof.Machine.execReadmitAbandon n rd syms s
  | .linkPowerRequest r v => Sys2Proof.Machine.execLinkPowerRequest r v s
  | .idleTimerExpiry p => Sys2Proof.Machine.execIdleTimerExpiry p s
  | .standbyExit p => Sys2Proof.Machine.execStandbyExit p s
  | .linkDormantRequest p => Sys2Proof.Machine.execLinkDormantRequest p s
  | .linkDormantAnswer p => Sys2Proof.Machine.execLinkDormantAnswer p s
  | .signalDetectWake p => Sys2Proof.Machine.execSignalDetectWake p s
  | .streamBindWrite r v => Sys2Proof.Machine.execStreamBindWrite r v s
  | .channelEnable r n v => Sys2Proof.Machine.execChannelEnable r n v s
  | .channelDisable r n v => Sys2Proof.Machine.execChannelDisable r n v s
  | .channelPause r n v => Sys2Proof.Machine.execChannelPause r n v s
  | .channelUnpause r n v => Sys2Proof.Machine.execChannelUnpause r n v s
  | .channelResume r n v => Sys2Proof.Machine.execChannelResume r n v s
  | .channelSkip r n v => Sys2Proof.Machine.execChannelSkip r n v s
  | .doorbell r n => Sys2Proof.Machine.execDoorbell r n s
  | .ringReset r n v => Sys2Proof.Machine.execRingReset r n v s
  | .abortRequest r n v => Sys2Proof.Machine.execAbortRequest r n v s
  | .abortComplete n => Sys2Proof.Machine.execAbortComplete n s
  | .descriptorFetch n => Sys2Proof.Machine.execDescriptorFetch n s
  | .invalidDescriptorHalt n => Sys2Proof.Machine.execInvalidDescriptorHalt n s
  | .burstGrant => Sys2Proof.Machine.execBurstGrant s
  | .paceTimeout n => Sys2Proof.Machine.execPaceTimeout n s
  | .burstComplete n => Sys2Proof.Machine.execBurstComplete n s
  | .writeArrival n => Sys2Proof.Machine.execWriteArrival n s
  | .burstFailure n => Sys2Proof.Machine.execBurstFailure n s
  | .lateWriteFailure n => Sys2Proof.Machine.execLateWriteFailure n s
  | .drainComplete n => Sys2Proof.Machine.execDrainComplete n s
  | .captureFrameStart p => Sys2Proof.Machine.execCaptureFrameStart p s
  | .granaryInit r v => Sys2Proof.Machine.execGranaryInit r v s
  | .granaryReady c => Sys2Proof.Machine.execGranaryReady c s
  | .delayRamAccess r w => Sys2Proof.Machine.execDelayRamAccess r w s
  | .dramRequest r addr len data => Sys2Proof.Machine.execDramRequest r addr len data s
  | .commandSlot c seen => Sys2Proof.Machine.execCommandSlot c seen s
  | .dramReadComplete c seen => Sys2Proof.Machine.execDramReadComplete c seen s
  | .dramWriteArrival c => Sys2Proof.Machine.execDramWriteArrival c s
  | .alertN c => Sys2Proof.Machine.execAlertN c s
  | .refreshTimer c rank => Sys2Proof.Machine.execRefreshTimer c rank s
  | .zqcsTimer => Sys2Proof.Machine.execZqcsTimer s
  | .dieTempSample t => Sys2Proof.Machine.execDieTempSample t s
  | .initFill r v => Sys2Proof.Machine.execInitFill r v s
  | .initFillDone => Sys2Proof.Machine.execInitFillDone s
  | .selfRefreshRequest r v => Sys2Proof.Machine.execSelfRefreshRequest r v s
  | .selfRefreshEntered => Sys2Proof.Machine.execSelfRefreshEntered s
  | .selfRefreshExit r v => Sys2Proof.Machine.execSelfRefreshExit r v s
  | .granaryErrlogPop r => Sys2Proof.Machine.execGranaryErrlogPop r s
  | .decoderBlock d parity => Sys2Proof.Machine.execDecoderBlock d parity s
  | .endOfPageBlock d parity => Sys2Proof.Machine.execEndOfPageBlock d parity s
  | .huntResync d => Sys2Proof.Machine.execHuntResync d s
  | .decoderEnable r d v => Sys2Proof.Machine.execDecoderEnable r d v s
  | .decoderDisable r d v => Sys2Proof.Machine.execDecoderDisable r d v s
  | .encoderEnable r e v => Sys2Proof.Machine.execEncoderEnable r e v s
  | .encoderDisable r e v => Sys2Proof.Machine.execEncoderDisable r e v s
  | .encoderFlush r e v => Sys2Proof.Machine.execEncoderFlush r e v s
  | .encoderLine e => Sys2Proof.Machine.execEncoderLine e s
  | .millerResultPop r e => Sys2Proof.Machine.execMillerResultPop r e s
  | .slotOpen k bad => Sys2Proof.Machine.execSlotOpen k bad s
  | .screeningPassStart k bad => Sys2Proof.Machine.execScreeningPassStart k bad s
  | .screeningPassEnd k parity => Sys2Proof.Machine.execScreeningPassEnd k parity s
  | .recompute k => Sys2Proof.Machine.execRecompute k s
  | .recomputeFailure k => Sys2Proof.Machine.execRecomputeFailure k s
  | .takeDeadline h r => Sys2Proof.Machine.execTakeDeadline h r s
  | .maskBankFlip k => Sys2Proof.Machine.execMaskBankFlip k s
  | .nozzleRetirement g src => Sys2Proof.Machine.execNozzleRetirement g src s
  | .nozzleReadmitEffect => Sys2Proof.Machine.execNozzleReadmitEffect s
  | .overlapWrite r k v => Sys2Proof.Machine.execOverlapWrite r k v s
  | .hcEnable r h v => Sys2Proof.Machine.execHcEnable r h v s
  | .hcDisable r h v => Sys2Proof.Machine.execHcDisable r h v s
  | .codeFrameForm h row parity bad badHist => Sys2Proof.Machine.execCodeFrameForm h row parity bad badHist s
  | .frameShiftStart h => Sys2Proof.Machine.execFrameShiftStart h s
  | .latchPulse h => Sys2Proof.Machine.execLatchPulse h s
  | .tableFrameSend h => Sys2Proof.Machine.execTableFrameSend h s
  | .fireTime h row => Sys2Proof.Machine.execFireTime h row s
  | .combRunEnd h row => Sys2Proof.Machine.execCombRunEnd h row s
  | .lateFireEvent h row => Sys2Proof.Machine.execLateFireEvent h row s
  | .frameErrorReshift h => Sys2Proof.Machine.execFrameErrorReshift h s
  | .combBankFlip h => Sys2Proof.Machine.execCombBankFlip h s
  | .tempStaleTimeout h => Sys2Proof.Machine.execTempStaleTimeout h s
  | .warmupComplete h => Sys2Proof.Machine.execWarmupComplete h s
  | .scanArm r ix v => Sys2Proof.Machine.execScanArm r ix v s
  | .sosEdge ix rising wide => Sys2Proof.Machine.execSosEdge ix rising wide s
  | .encoderCount n a b => Sys2Proof.Machine.execEncoderCount n a b s
  | .index n z => Sys2Proof.Machine.execIndex n z s
  | .indexCorrectionCount => Sys2Proof.Machine.execIndexCorrectionCount s
  | .indexRearm r n v => Sys2Proof.Machine.execIndexRearm r n v s
  | .speedWindowUpdate n => Sys2Proof.Machine.execSpeedWindowUpdate n s
  | .standstillTimeout n => Sys2Proof.Machine.execStandstillTimeout n s
  | .lossOfSignal n rx => Sys2Proof.Machine.execLossOfSignal n rx s
  | .ssiFrameStart m => Sys2Proof.Machine.execSsiFrameStart m s
  | .ssiFrameReceived m idle bits high => Sys2Proof.Machine.execSsiFrameReceived m idle bits high s
  | .markEdge ix level => Sys2Proof.Machine.execMarkEdge ix level s
  | .markFifoPop r ix => Sys2Proof.Machine.execMarkFifoPop r ix s
  | .homeEdge k level => Sys2Proof.Machine.execHomeEdge k level s
  | .comparePulseEnd j => Sys2Proof.Machine.execComparePulseEnd j s
  | .tableEntryStore r v => Sys2Proof.Machine.execTableEntryStore r v s
  | .compareRestart r j v => Sys2Proof.Machine.execCompareRestart r j v s
  | .loopEnable r v => Sys2Proof.Machine.execLoopEnable r v s
  | .loopDisable r v => Sys2Proof.Machine.execLoopDisable r v s
  | .loopUpdate => Sys2Proof.Machine.execLoopUpdate s
  | .runStart r v => Sys2Proof.Machine.execRunStart r v s
  | .runStop r v => Sys2Proof.Machine.execRunStop r v s
  | .rowFire h row => Sys2Proof.Machine.execRowFire h row s
  | .markTake => Sys2Proof.Machine.execMarkTake s
  | .hcRetireRequest r v => Sys2Proof.Machine.execHcRetireRequest r v s
  | .hcReadmitRequest r v => Sys2Proof.Machine.execHcReadmitRequest r v s
  | .nozzleRetireRequest r v => Sys2Proof.Machine.execNozzleRetireRequest r v s
  | .safeStopRequest r v => Sys2Proof.Machine.execSafeStopRequest r v s
  | .safeStopClear r v => Sys2Proof.Machine.execSafeStopClear r v s
  | .cameraArm r n v => Sys2Proof.Machine.execCameraArm r n v s
  | .cameraDisarm r n v => Sys2Proof.Machine.execCameraDisarm r n v s
  | .softwareTrigger r n v => Sys2Proof.Machine.execSoftwareTrigger r n v s
  | .triggerPulseEnd n => Sys2Proof.Machine.execTriggerPulseEnd n s
  | .cameraLine n tapA tapB fv pos ts => Sys2Proof.Machine.execCameraLine n tapA tapB fv pos ts s
  | .lineTimeout n => Sys2Proof.Machine.execLineTimeout n s
  | .pclkStop n => Sys2Proof.Machine.execPclkStop n s
  | .cameraPortReadmit r v => Sys2Proof.Machine.execCameraPortReadmit r v s
  | .serialByteReceived n b => Sys2Proof.Machine.execSerialByteReceived n b s
  | .serialDataAccess r n v => Sys2Proof.Machine.execSerialDataAccess r n v s
  | .serialByteSent n => Sys2Proof.Machine.execSerialByteSent n s
  | .pipelineLine p => Sys2Proof.Machine.execPipelineLine p s
  | .camNozzleRetire r v => Sys2Proof.Machine.execCamNozzleRetire r v s
  | .camTableAccess r v => Sys2Proof.Machine.execCamTableAccess r v s
  | .ladderVerdict p => Sys2Proof.Machine.execLadderVerdict p s
  | .columnProposal => Sys2Proof.Machine.execColumnProposal s
  | .adcConversion code => Sys2Proof.Machine.execAdcConversion code s
  | .adcZero z => Sys2Proof.Machine.execAdcZero z s
  | .pathCalibration => Sys2Proof.Machine.execPathCalibration s
  | .calibrationCycle => Sys2Proof.Machine.execCalibrationCycle s
  | .calibrationSlot ending => Sys2Proof.Machine.execCalibrationSlot ending s
  | .trimStep h => Sys2Proof.Machine.execTrimStep h s
  | .trimTargetWrite r h v => Sys2Proof.Machine.execTrimTargetWrite r h v s
  | .motionUpdate => Sys2Proof.Machine.execMotionUpdate s
  | .currentSample n a b => Sys2Proof.Machine.execCurrentSample n a b s
  | .bridgeFault n => Sys2Proof.Machine.execBridgeFault n s
  | .axisEnable r n v => Sys2Proof.Machine.execAxisEnable r n v s
  | .axisDisable r n v => Sys2Proof.Machine.execAxisDisable r n v s
  | .axisLink r v => Sys2Proof.Machine.execAxisLink r v s
  | .moveToTarget r n => Sys2Proof.Machine.execMoveToTarget r n s
  | .stopAtDmax r n => Sys2Proof.Machine.execStopAtDmax r n s
  | .quickStop r n => Sys2Proof.Machine.execQuickStop r n s
  | .homeAxis r n => Sys2Proof.Machine.execHomeAxis r n s
  | .engageGearing r n => Sys2Proof.Machine.execEngageGearing r n s
  | .disengageGearing r n => Sys2Proof.Machine.execDisengageGearing r n s
  | .setPosition r n => Sys2Proof.Machine.execSetPosition r n s
  | .ratioChangeArm r v => Sys2Proof.Machine.execRatioChangeArm r v s
  | .ethernetFrame p f => Sys2Proof.Machine.execEthernetFrame p f s
  | .ptpEventMessage p m residence err => Sys2Proof.Machine.execPtpEventMessage p m residence err s
  | .read q index sub => Sys2Proof.Machine.execRead q index sub s
  | .write q item => Sys2Proof.Machine.execWrite q item s
  | .segRead q index sub offset maxlen => Sys2Proof.Machine.execSegRead q index sub offset maxlen s
  | .segWriteInit q index sub handle total crc => Sys2Proof.Machine.execSegWriteInit q index sub handle total crc s
  | .segWrite q xfer offset data => Sys2Proof.Machine.execSegWrite q xfer offset data s
  | .segAbort q xfer => Sys2Proof.Machine.execSegAbort q xfer s
  | .segTransferTimeout xfer => Sys2Proof.Machine.execSegTransferTimeout xfer s
  | .groupOpen q => Sys2Proof.Machine.execGroupOpen q s
  | .groupStage q handle item => Sys2Proof.Machine.execGroupStage q handle item s
  | .groupArm q handle kind value => Sys2Proof.Machine.execGroupArm q handle kind value s
  | .groupDiscard q handle => Sys2Proof.Machine.execGroupDiscard q handle s
  | .groupStatus q handle => Sys2Proof.Machine.execGroupStatus q handle s
  | .groupLanding handle => Sys2Proof.Machine.execGroupLanding handle s
  | .groupApplied handle => Sys2Proof.Machine.execGroupApplied handle s
  | .groupExpiry handle => Sys2Proof.Machine.execGroupExpiry handle s
  | .snapshot q objects => Sys2Proof.Machine.execSnapshot q objects s
  | .subscribe q classes port => Sys2Proof.Machine.execSubscribe q classes port s
  | .unsubscribe q subscriber => Sys2Proof.Machine.execUnsubscribe q subscriber s
  | .eventAck q subscriber eseq => Sys2Proof.Machine.execEventAck q subscriber eseq s
  | .eventFrameSend subscriber => Sys2Proof.Machine.execEventFrameSend subscriber s
  | .eventResendTimer subscriber => Sys2Proof.Machine.execEventResendTimer subscriber s
  | .subscriberTimeout subscriber => Sys2Proof.Machine.execSubscriberTimeout subscriber s
  | .pageArm q n => Sys2Proof.Machine.execPageArm q n s
  | .pageDisarm q n => Sys2Proof.Machine.execPageDisarm q n s
  | .settingsSave q => Sys2Proof.Machine.execSettingsSave q s
  | .hello q level cnonce ceph => Sys2Proof.Machine.execHello q level cnonce ceph s
  | .clientAuth q anchor cert csig => Sys2Proof.Machine.execClientAuth q anchor cert csig s
  | .close q => Sys2Proof.Machine.execClose q s
  | .attest q nonce => Sys2Proof.Machine.execAttest q nonce s
  | .authTimeout sid => Sys2Proof.Machine.execAuthTimeout sid s
  | .sessionIdleTimeout sid => Sys2Proof.Machine.execSessionIdleTimeout sid s
  | .standbyRequest r v => Sys2Proof.Machine.execStandbyRequest r v s
  | .readyRequest r v => Sys2Proof.Machine.execReadyRequest r v s
  | .powerDormantRequest r v => Sys2Proof.Machine.execPowerDormantRequest r v s
  | .wakeInput k rising => Sys2Proof.Machine.execWakeInput k rising s
  | .rtcAlarm => Sys2Proof.Machine.execRtcAlarm s
  | .watchmanWriteLand => Sys2Proof.Machine.execWatchmanWriteLand s
  | .rtcSync => Sys2Proof.Machine.execRtcSync s
  | .vbatLoss => Sys2Proof.Machine.execVbatLoss s
  | .porn level => Sys2Proof.Machine.execPorn level s
  | .rstn level => Sys2Proof.Machine.execRstn level s
  | .softwareWarmReset r v => Sys2Proof.Machine.execSoftwareWarmReset r v s
  | .startUpComplete fault => Sys2Proof.Machine.execStartUpComplete fault s
  | .pllLockLoss p => Sys2Proof.Machine.execPllLockLoss p s
  | .pllRelock p => Sys2Proof.Machine.execPllRelock p s
  | .droopStretch => Sys2Proof.Machine.execDroopStretch s
  | .sagFallback => Sys2Proof.Machine.execSagFallback s
  | .sagRecover => Sys2Proof.Machine.execSagRecover s
  | .undervoltage => Sys2Proof.Machine.execUndervoltage s
  | .sign r v => Sys2Proof.Machine.execSign r v s
  | .signComplete => Sys2Proof.Machine.execSignComplete s
  | .activate q time => Sys2Proof.Machine.execActivate q time s
  | .activationTime => Sys2Proof.Machine.execActivationTime s
  | .copyBlock => Sys2Proof.Machine.execCopyBlock s
  | .confirm r v => Sys2Proof.Machine.execConfirm r v s
  | .trialExpiry => Sys2Proof.Machine.execTrialExpiry s
  | .fallbackRequest q => Sys2Proof.Machine.execFallbackRequest q s
  | .revoke q slot => Sys2Proof.Machine.execRevoke q slot s
  | .frameValidEdge n rising => Sys2Proof.Machine.execFrameValidEdge n rising s
  | .vbatReturn => Sys2Proof.Machine.execVbatReturn s
  | .droopCleared => Sys2Proof.Machine.execDroopCleared s
  | .ethernetPhyLinkChange p speed => Sys2Proof.Machine.execEthernetPhyLinkChange p speed s
  | .scanKeepwetTick ix => Sys2Proof.Machine.execScanKeepwetTick ix s

end Sys2Proof.Machine
end

