-- ==== Sys2Proof/Machine/Step.lean ====
section
/-! DEFINITION. One step of the block: the command at the front of the queue, or a tick of the clock. -/

namespace Sys2Proof.Machine

/-- The tick on an empty queue (log entry 2): 1.25 ns pass, and a wake that waited for PWR_EN to have been low for 10 ms
starts the chip (R418). -/
def State.tick (s : State) : State :=
  let s := { s.noteClocks with now := s.now + 1 }
  match s.pwr.offAt with
  | some t => if s.pwr.wakeDue ∧ s.power = 0 ∧ t + ms 10 ≤ s.now then s.wakeUp else s
  | none => s

/-- One step: the command at the front of the queue acts on the rest; an empty queue lets time pass. -/
def step (s : State) : Host.Outcome State Fault Refusal :=
  match s.pending with
  | [] => .next s.tick
  | c :: t => exec c { s with pending := t }

/-- The state with the command that a table word spells put at the front of the queue; no row of the table gives bits, so
no word spells one and the state stays. -/
def State.withFetchWord (s : State) (nbits w : Nat) : State :=
  match Sys2Proof.decodeTableWord nbits w with
  | some c => { s with pending := c :: s.pending }
  | none => s

end Sys2Proof.Machine
end

