-- ==== Sys2Proof/WellFormed.lean ====
section
/-! DEFINITION. The commands that can be sent: operands within the bounds that the spec gives their place. A command outside
them has a meaning all the same; nothing on the wire or on a pin spells it. -/

namespace Sys2Proof

/-- A number names a nozzle of the bar (R166). -/
def nozzleOk (g : Nat) : Bool := decide (g < 101376)

/-- The operands of a command lie within their bounds. -/
def Instr.wellFormed (i : Instr) : Bool :=
  match i with
  | .registerWrite _ addr data => decide (addr < 2 ^ 40 ∧ data ≠ [])
  | .rcRegisterRead _ addr len _ => decide (addr < 2 ^ 40 ∧ 0 < len)
  | .w1cEventClear _ addr _ _ => decide (addr < 2 ^ 40)
  | .widePairLowRead _ addr => decide (addr < 2 ^ 40)
  | .linkEnable _ v => v.getLsbD 0
  | .linkDisable _ v => !v.getLsbD 0
  | .symbolLock _ _ => true
  | .portUp _ skews => decide (skews.length ≤ 8)
  | .laneMarkerSetReceived _ _ _ _ _ _ _ => true
  | .skipSetReceived _ _ => true
  | .eieSetReceived _ => true
  | .packetReceived _ _ => true
  | .streamDataPacket _ => true
  | .memoryWritePacket _ => true
  | .memoryReadRequest _ => true
  | .memoryReadCompletion _ => true
  | .creditPacketReceived _ => true
  | .creditUpdateSend _ => true
  | .ackTimerExpiry _ => true
  | .nakTransmit _ => true
  | .nakTimeout _ => true
  | .nakReceived _ => true
  | .replayTimeout _ => true
  | .laneRetirement _ _ _ => true
  | .symbolLockLoss _ => true
  | .deskewOverflow _ => true
  | .linkRetire _ _ => true
  | .linkReadmit _ _ => true
  | .laneQualificationComplete _ _ => true
  | .readmitAbandon _ _ _ => true
  | .linkPowerRequest _ _ => true
  | .idleTimerExpiry _ => true
  | .standbyExit _ => true
  | .linkDormantRequest _ => true
  | .linkDormantAnswer _ => true
  | .signalDetectWake _ => true
  | .streamBindWrite _ _ => true
  | .channelEnable _ _ _ => true
  | .channelDisable _ _ _ => true
  | .channelPause _ _ _ => true
  | .channelUnpause _ _ _ => true
  | .channelResume _ _ _ => true
  | .channelSkip _ _ _ => true
  | .doorbell _ _ => true
  | .ringReset _ _ _ => true
  | .abortRequest _ _ _ => true
  | .abortComplete _ => true
  | .descriptorFetch _ => true
  | .invalidDescriptorHalt _ => true
  | .burstGrant => true
  | .paceTimeout _ => true
  | .burstComplete _ => true
  | .writeArrival _ => true
  | .burstFailure _ => true
  | .lateWriteFailure _ => true
  | .drainComplete _ => true
  | .captureFrameStart _ => true
  | .granaryInit _ _ => true
  | .granaryReady _ => true
  | .delayRamAccess _ _ => true
  | .dramRequest _ addr len data => decide (addr < 2 ^ 40 ∧ 0 < len) && data.all (fun d => d.length == len)
  | .commandSlot _ seen => seen.all (fun b => b.length == 8 && b.all (fun l => l.length == 9))
  | .dramReadComplete _ seen => seen.all (fun b => b.length == 8 && b.all (fun l => l.length == 9))
  | .dramWriteArrival _ => true
  | .alertN _ => true
  | .refreshTimer _ _ => true
  | .zqcsTimer => true
  | .dieTempSample _ => true
  | .initFill _ _ => true
  | .initFillDone => true
  | .selfRefreshRequest _ _ => true
  | .selfRefreshEntered => true
  | .selfRefreshExit _ _ => true
  | .granaryErrlogPop _ => true
  | .decoderBlock _ _ => true
  | .endOfPageBlock _ _ => true
  | .huntResync _ => true
  | .decoderEnable _ _ _ => true
  | .decoderDisable _ _ _ => true
  | .encoderEnable _ _ _ => true
  | .encoderDisable _ _ _ => true
  | .encoderFlush _ _ _ => true
  | .encoderLine _ => true
  | .millerResultPop _ _ => true
  | .slotOpen _ bad => bad.all nozzleOk
  | .screeningPassStart _ bad => bad.all nozzleOk
  | .screeningPassEnd _ _ => true
  | .recompute _ => true
  | .recomputeFailure _ => true
  | .takeDeadline _ _ => true
  | .maskBankFlip _ => true
  | .nozzleRetirement _ _ => true
  | .nozzleReadmitEffect => true
  | .overlapWrite _ _ _ => true
  | .hcEnable _ _ _ => true
  | .hcDisable _ _ _ => true
  | .codeFrameForm _ _ parity bad _ => bad.all nozzleOk && parity != some .decoded
  | .frameShiftStart _ => true
  | .latchPulse _ => true
  | .tableFrameSend _ => true
  | .fireTime _ _ => true
  | .combRunEnd _ _ => true
  | .lateFireEvent _ _ => true
  | .frameErrorReshift _ => true
  | .combBankFlip _ => true
  | .tempStaleTimeout _ => true
  | .warmupComplete _ => true
  | .scanArm _ _ _ => true
  | .sosEdge _ _ _ => true
  | .encoderCount _ _ _ => true
  | .index _ _ => true
  | .indexCorrectionCount => true
  | .indexRearm _ _ _ => true
  | .speedWindowUpdate _ => true
  | .standstillTimeout _ => true
  | .lossOfSignal _ _ => true
  | .ssiFrameStart _ => true
  | .ssiFrameReceived _ _ bits _ => decide (bits.length ≤ 48)
  | .markEdge _ _ => true
  | .markFifoPop _ _ => true
  | .homeEdge _ _ => true
  | .comparePulseEnd _ => true
  | .tableEntryStore _ _ => true
  | .compareRestart _ _ _ => true
  | .loopEnable _ v => v.getLsbD 0
  | .loopDisable _ v => !v.getLsbD 0
  | .loopUpdate => true
  | .runStart _ v => v.getLsbD 1
  | .runStop _ v => !v.getLsbD 1
  | .rowFire _ _ => true
  | .markTake => true
  | .hcRetireRequest _ _ => true
  | .hcReadmitRequest _ _ => true
  | .nozzleRetireRequest _ _ => true
  | .safeStopRequest _ _ => true
  | .safeStopClear _ _ => true
  | .cameraArm _ _ _ => true
  | .cameraDisarm _ _ _ => true
  | .softwareTrigger _ _ _ => true
  | .triggerPulseEnd _ => true
  | .cameraLine _ tapA tapB _ pos ts => decide (tapA.length ≤ 16384 ∧ tapB.length ≤ 16384 ∧ -(2 ^ 63) ≤ pos ∧ pos < 2 ^ 63 ∧ ts < 2 ^ 64)
  | .lineTimeout _ => true
  | .pclkStop _ => true
  | .cameraPortReadmit _ _ => true
  | .serialByteReceived _ _ => true
  | .serialDataAccess _ _ _ => true
  | .serialByteSent _ => true
  | .pipelineLine _ => true
  | .camNozzleRetire _ _ => true
  | .camTableAccess _ _ => true
  | .ladderVerdict _ => true
  | .columnProposal => true
  | .adcConversion _ => true
  | .adcZero _ => true
  | .pathCalibration => true
  | .calibrationCycle => true
  | .calibrationSlot _ => true
  | .trimStep _ => true
  | .trimTargetWrite _ _ _ => true
  | .motionUpdate => true
  | .currentSample _ _ _ => true
  | .bridgeFault _ => true
  | .axisEnable _ _ _ => true
  | .axisDisable _ _ _ => true
  | .axisLink _ _ => true
  | .moveToTarget _ _ => true
  | .stopAtDmax _ _ => true
  | .quickStop _ _ => true
  | .homeAxis _ _ => true
  | .engageGearing _ _ => true
  | .disengageGearing _ _ => true
  | .setPosition _ _ => true
  | .ratioChangeArm _ _ => true
  | .ethernetFrame _ _ => true
  | .ptpEventMessage _ _ _ err => decide (-8 ≤ err ∧ err ≤ 8)
  | .read _ _ _ => true
  | .write _ item => decide (item.value.length ≤ 1394)
  | .segRead _ _ _ _ _ => true
  | .segWriteInit _ _ _ _ _ _ => true
  | .segWrite _ _ _ data => decide (data.length ≤ 1392 ∧ data.length % 4 = 0)
  | .segAbort _ _ => true
  | .segTransferTimeout _ => true
  | .groupOpen _ => true
  | .groupStage _ _ item => decide (item.value.length ≤ 1390)
  | .groupArm _ _ _ _ => true
  | .groupDiscard _ _ => true
  | .groupStatus _ _ => true
  | .groupLanding _ => true
  | .groupApplied _ => true
  | .groupExpiry _ => true
  | .snapshot _ objects => decide (objects.length ≤ 349)
  | .subscribe _ _ _ => true
  | .unsubscribe _ _ => true
  | .eventAck _ _ _ => true
  | .eventFrameSend _ => true
  | .eventResendTimer _ => true
  | .subscriberTimeout _ => true
  | .pageArm _ _ => true
  | .pageDisarm _ _ => true
  | .settingsSave _ => true
  | .hello _ _ cnonce ceph => decide (cnonce.length = 32 ∧ ceph.length = 64)
  | .clientAuth _ anchor cert csig => decide (anchor.length = 64 ∧ cert.length ≤ 1268 ∧ csig.length = 64)
  | .close _ => true
  | .attest _ nonce => decide (nonce.length = 32)
  | .authTimeout _ => true
  | .sessionIdleTimeout _ => true
  | .standbyRequest _ _ => true
  | .readyRequest _ _ => true
  | .powerDormantRequest _ _ => true
  | .wakeInput _ _ => true
  | .rtcAlarm => true
  | .watchmanWriteLand => true
  | .rtcSync => true
  | .vbatLoss => true
  | .porn _ => true
  | .rstn _ => true
  | .softwareWarmReset _ _ => true
  | .startUpComplete _ => true
  | .pllLockLoss _ => true
  | .pllRelock _ => true
  | .droopStretch => true
  | .sagFallback => true
  | .sagRecover => true
  | .undervoltage => true
  | .sign _ _ => true
  | .signComplete => true
  | .activate _ _ => true
  | .activationTime => true
  | .copyBlock => true
  | .confirm _ _ => true
  | .trialExpiry => true
  | .fallbackRequest _ => true
  | .revoke _ _ => true
  | .frameValidEdge _ _ => true
  | .vbatReturn => true
  | .droopCleared => true
  | .ethernetPhyLinkChange _ _ => true
  | .scanKeepwetTick _ => true

end Sys2Proof
end

