-- ==== Sys2Proof/Safety.lean ====
section
/-! DEFINITION. What a run of commands is held to: the good form of a state, and the parts of the state and the registers
that a change may touch. -/

namespace Sys2Proof.Machine

/-- A part of the state: a field other than the register table, the queue and memory, or a part of memory: `mem` any byte,
`sram` the shared, line and compensation SRAM, `dram` the DRAM, `rings` the descriptor rings (R75), `records` the result
rings (R333), `refs` the reference ring (R329); of the line SRAM (R163) `decoded` the decoded lines, `tones` the tone
records, `masks` the mask banks, `slots` the level-buffer slots; of the compensation SRAM (R165) `nozRet`, `nozGain` and
`nozWet` the RET byte, the gain bytes and the KEEPWET bytes of the nozzle records, `thresholds` the threshold arrays, `staging`
the staging area. -/
inductive Part where
  | now | highLatch | halfWrites | resp | freeCtr | log | link | dma | granary | dramValid | miller
  | pend | landed | weaver | hcs | pos | br | cam | cal | axes | mot | eth | pages | subs
  | lastEvents | pwr | flash | sec | mem | sram | dram | rings | records | refs | decoded | tones
  | masks | slots | nozRet | nozGain | nozWet | thresholds | staging
deriving DecidableEq, Repr

/-- A row of a register table by its name: every register of the row where it repeats. `any` stands for every register;
`hamletSettings`, `headSettings` and `pipeSettings` for the settings of the hamlets, head channels and pipelines that move
into force with their pass or row (R168, R202, R323), `datumSettings` for those that move with the datum row (R274),
`watchman` for the registers of Watchman (R409). -/
inductive Reg where
  | any | hamletSettings | headSettings | pipeSettings | datumSettings | watchman
  | LINK_CTRL | LINK_STAT | LINK_EVT | LINK_EVT_EN | LINK_LANE_THR | LINK_LANE_QUAL | LINK_READMIT
  | LINK_RETIRE | LINK_TIMERS | LINK_PM_CTRL | LINK_STREAM_BIND | LINK_REPLAY_MAX | LINK_Pp_CRCERR
  | LINK_Pp_NAKTX | LINK_Pp_NAKRX | LINK_Pp_DUP | LINK_Pp_SEQERR | LINK_Pp_SEQ | LINK_LANEn_STAT
  | LINK_LANEn_CODEERR | LINK_LANEn_DISPERR | LINK_LANEn_LOCKLOSS | LINK_STREAMs_CREDIT | DMA_CTRL
  | DMA_STAT | DMA_DONE_EVT | DMA_DONE_EN | DMA_HALT_EVT | DMA_HALT_EN | DMA_ERR_THR | DMA_LATE_EVT
  | DMA_CHn_CTRL | DMA_CHn_CFG | DMA_CHn_RING_LO | DMA_CHn_RING_HI | DMA_CHn_HEAD
  | DMA_CHn_DOORBELL | DMA_CHn_PACE | DMA_CHn_STAT | DMA_CHn_CUR_SRC_LO | DMA_CHn_CUR_SRC_HI
  | DMA_CHn_CUR_DST_LO | DMA_CHn_CUR_DST_HI | DMA_CHn_REMAIN | DMA_CHn_ERRADDR_LO
  | DMA_CHn_ERRADDR_HI | DMA_CHn_ABORT | GRANARY_CTRL | GRANARY_STAT | GRANARY_EVT | GRANARY_EVT_EN
  | GRANARY_ERR_THR | GRANARY_REF | GRANARY_SR | GRANARY_TIMING | GRANARY_INIT_BASE_LO
  | GRANARY_INIT_BASE_HI | GRANARY_INIT_LEN | GRANARY_INIT_GO | GRANARY_ERRLOG0 | GRANARY_ERRLOG1
  | GRANARY_ERRLOG2 | GRANARY_ERRLOG3 | GRANARY_CHc_RDERR | GRANARY_CHc_CAPAR | GRANARY_CHc_RMWERR
  | GRANARY_CHc_QUEUE | GRANARY_DLY_ADDR | GRANARY_DLY_DATA | MILLER_CTRL | MILLER_EVT
  | MILLER_EVT_EN | MILLER_DECd_STAT | MILLER_DECd_LINE | MILLER_DECd_ERRCNT | MILLER_DECd_ERRLINE
  | MILLER_DECd_BLOCKS | MILLER_DECd_HUNT | MILLER_ENCe_CTRL | MILLER_ENCe_CFG | MILLER_ENCe_GEOM
  | MILLER_ENCe_LINE0 | MILLER_ENCe_STAT | MILLER_ENCe_RES0 | MILLER_ENCe_RES1 | MILLER_ENCe_RES2
  | MILLER_ENCe_BYTESIN | MILLER_ENCe_BYTESOUT | WEAVER_CFG | WEAVER_RAMP | WEAVER_KERNEL
  | WEAVER_KERNEL_START | WEAVER_VER0 | WEAVER_VER1 | WEAVER_MASKSEL | WEAVER_MASKLINE
  | WEAVER_LVLBUF | WEAVER_SCREENED | WEAVER_RAMPSTAT | WEAVER_TONE_L | WEAVER_TONE_E
  | WEAVER_GAIN_L | WEAVER_GAIN_E | WEAVER_EVT | WEAVER_EVT_EN | WEAVER_CNT_TWIN
  | WEAVER_CNT_PARTNER | WEAVER_CNT_BOOST | WEAVER_CNT_LOST | WEAVER_CNT_CLAMP | WEAVER_OVERLAP
  | HC_CTRL | HC_STAT | HC_EVT | HC_EVT_EN | HC_PROF0 | HC_PROF1 | HC_PROF2 | HC_PROF3 | HC_PROF4
  | HC_MAP_LO | HC_MAP_HI | HC_DMAP_LO | HC_DMAP_HI | HC_CODES | HC_DUTY | HC_SHARE | HC_SPIT
  | HC_WARM | HC_COMBSEL | HC_COMBLINE | HC_ERR_THR | HC_TEMP | HC_SCAN_CFG | HC_SCAN_DLY
  | HC_SCAN_PER | HC_SCAN_ROWD | HC_SCAN_PTR | HC_CNT_THINN | HC_CNT_THINH | HC_CNT_SPIT
  | HC_CNT_LATE | HC_CNT_RESHIFT | HC_CNT_COLLIDE | HC_CNT_GUARD | HC_CNT_SOSOVR | HC_SEGb_s
  | HC_SELb_j | HC_WAVb_j | POS_EVT0 | POS_EVT0_EN | POS_EVT1 | POS_EVT1_EN | POS_HOME_CFG
  | POS_INSTATE | ENCn_CTRL | ENCn_REVCNT | ENCn_IDXPOS | ENCn_IDXCFG | ENCn_SPDCFG | ENCn_DIRCFG
  | ENCn_SCALE | ENCn_ERR_THR | ENCn_PRESET_LO | ENCn_PRESET_HI | ENCn_POS_LO | ENCn_POS_HI
  | ENCn_MAX_LO | ENCn_MAX_HI | ENCn_REV | ENCn_SPEED | ENCn_VEL | ENCn_STAT | ENCn_IDXERR
  | ENCn_QERR | ENCn_IDXCNT | SSIm_CFG | SSIm_TIMING | SSIm_MAXJUMP | SSIm_POS_LO | SSIm_POS_HI
  | SSIm_TS_LO | SSIm_TS_HI | SSIm_STAT | SSIm_ERRCNT | MARKi_CFG | MARKi_LAT0 | MARKi_LAT1
  | MARKi_LAT2 | MARKi_LAT3 | MARKi_STAT | CMPj_CTRL | CMPj_STAT | CMPj_OFF_LO | CMPj_OFF_HI
  | CMPj_PER_LO | CMPj_PER_HI | CMPj_LATE | POS_TAB_ADDR | POS_TAB_DATA_LO | POS_TAB_DATA_HI
  | BR_CTRL | BR_STAT | BR_EVT | BR_EVT_EN | BR_NUM | BR_DEN | BR_ORG_LO | BR_ORG_HI | BR_LOOP
  | BR_LOCK | BR_VMIN | BR_OVS | BR_STRETCH | BR_PAGE_CFG | BR_MARKOFF | BR_LINESTART | BR_PHI_LO
  | BR_PHI_HI | BR_PHIMAX_LO | BR_PHIMAX_HI | BR_RATE | BR_FMAX | BR_LINE | BR_SNAPLINE | BR_ERR
  | BR_STRETCHSUM | BR_CNT_STRETCH | BR_CNT_OVSBLANK | BR_CNT_UNLOCK | BR_CNT_SNAP | BR_CNT_MARKREJ
  | BR_ROWU | BR_ROWD | BR_HLIMIT | BR_ROWU_NEXT | BR_ROWD_NEXT | HAM_LEAD | HAM_STAT | HAM_LEADDEF
  | HAM_PREPLINE | HAM_EVT | HAM_EVT_EN | HAM_ERR_THR | HAM_CNT_LATE | HAM_CNT_BLANK | HAM_CNT_SKIP
  | HAM_CNT_RECOMP | HAM_CNT_PARITY | HAM_CNT_LOST | FAULT_CTRL | FAULT_STAT | FAULT_EVT
  | FAULT_EVT_EN | FAULT_HC_RETIRE | FAULT_HC_READMIT | FAULT_NOZ_RETIRE | FAULT_LOG_WR
  | FAULT_LOG_RD | FAULT_LOG_LOST | FAULT_LOG_Ww | CAM_EVT | CAM_EVT_EN | CAM_READMIT
  | CAM_NOZ_RETIRE | CAM_TAB_ADDR | CAM_TAB_DATA | CAM_LAD_CFG | CAM_LAD_NOM | CAM_LAD_NEXT
  | CAM_REF_LO | CAM_REF_HI | CAM_REF_LINES | CAMn_CTRL | CAMn_STAT | CAMn_GEOM | CAMn_TIMEOUT
  | CAMn_EXP | CAMn_GAIN | CAMn_EXP_NOW | CAMn_GAIN_NOW | CAMn_FSEQ | CAMn_X0 | CAMn_PITCH
  | CAMn_YDIST | CAMn_SER_CFG | CAMn_SER_DATA | CAMn_ERR_THR | CAMn_CNT_FRAMES | CAMn_CNT_DROP
  | Pp_CTRL | Pp_STAT | Pp_RES_LO | Pp_RES_HI | Pp_RES_WR | Pp_RES_RD | Pp_REGION | Pp_CMPTHR
  | Pp_CNT_RESLOST | CAL_CTRL | CAL_STAT | CAL_EVT | CAL_EVT_EN | CAL_SCHED | CAL_SLOT | CAL_HCMASK
  | CAL_TSLIN | CAL_TSCFG | CAL_ADC | CAL_CNT_SLOTS | CAL_CNT_CUT | CAL_CNT_IMPLAUS | CAL_HCh_TRIM
  | CAL_HCh_NOW | CAL_HCh_PTS | CAL_HCh_TGT | CAL_HCh_MEAS | CAL_HCh_PATH | CAL_HCh_STAT
  | CAL_HCh_LASTLINE | MOT_PWM | MOT_EVT | MOT_EVT_EN | MOT_AXn_CTRL | MOT_AXn_CMD | MOT_AXn_STAT
  | MOT_AXn_POS | MOT_AXn_VEL | MOT_AXn_TGT | MOT_AXn_VMAX | MOT_AXn_AMAX | MOT_AXn_DMAX
  | MOT_AXn_QDEC | MOT_AXn_TRAP | MOT_AXn_VBREAK | MOT_AXn_ACC1 | MOT_AXn_DEC1 | MOT_AXn_CUR
  | MOT_AXn_CURPI | MOT_AXn_USTEP0 | MOT_AXn_USTEP1 | MOT_AXn_SW | MOT_AXn_HOME | MOT_AXn_HOMEPOS
  | MOT_AXn_HMAXDIST | MOT_AXn_SOFTLO | MOT_AXn_SOFTHI | MOT_AXn_SSPOS | MOT_AXn_LINKOFS
  | MOT_AX2_GCFG | MOT_AX2_GRATIO | MOT_AX2_GNEXT | MOT_AX2_GSCHED_LO | MOT_AX2_GSCHED_HI
  | MOT_AX2_GBLEND | CLKPWR_CTRL | CLKPWR_STAT | CLKPWR_EVT | CLKPWR_EVT_EN | CLKPWR_DROOP
  | CLKPWR_SAGTIME | CLKPWR_OT | CLKPWR_TEMP | CLKPWR_GATE | CLKPWR_BOOTSTAT | CLKPWR_SAGCNT
  | CLKPWR_WAKECFG | CLKPWR_WAKESRC | CLKPWR_RTC_LO | CLKPWR_RTC_HI | CLKPWR_ALARM_LO
  | CLKPWR_ALARM_HI | CLKPWR_RETw | SEC_STAT | SEC_EVT | SEC_EVT_EN | SEC_CONFIRM | SEC_KEYSLOT
  | SEC_SECVER | SEC_JOURNAL | SEC_TRIAL | SEC_SIGN_CTRL | SEC_DIGESTw | SEC_SIGw | SEC_PUBKEYw
deriving DecidableEq, Repr

/-- The register at address `a` is one of the row. -/
def Reg.has (r : Reg) (a : Nat) : Prop :=
  match r with
  | .any => True
  | .hamletSettings => ∃ k, R.WEAVER_CFG k ≤ a ∧ a < R.WEAVER_CFG k + 0xFF00
  | .headSettings => ∃ h, R.HC_CTRL h ≤ a ∧ a < R.BR_ROWU h
  | .pipeSettings => ∃ p, R.Pp_CTRL p ≤ a ∧ a < R.Pp_CTRL p + 0x80
  | .datumSettings => datumSetting a = true
  | .watchman => 0x100400100 ≤ a ∧ a < 0x100400140
  | .LINK_CTRL => a = R.LINK_CTRL
  | .LINK_STAT => a = R.LINK_STAT
  | .LINK_EVT => a = R.LINK_EVT
  | .LINK_EVT_EN => a = R.LINK_EVT_EN
  | .LINK_LANE_THR => a = R.LINK_LANE_THR
  | .LINK_LANE_QUAL => a = R.LINK_LANE_QUAL
  | .LINK_READMIT => a = R.LINK_READMIT
  | .LINK_RETIRE => a = R.LINK_RETIRE
  | .LINK_TIMERS => a = R.LINK_TIMERS
  | .LINK_PM_CTRL => a = R.LINK_PM_CTRL
  | .LINK_STREAM_BIND => a = R.LINK_STREAM_BIND
  | .LINK_REPLAY_MAX => a = R.LINK_REPLAY_MAX
  | .LINK_Pp_CRCERR => ∃ i, a = R.LINK_Pp_CRCERR i
  | .LINK_Pp_NAKTX => ∃ i, a = R.LINK_Pp_NAKTX i
  | .LINK_Pp_NAKRX => ∃ i, a = R.LINK_Pp_NAKRX i
  | .LINK_Pp_DUP => ∃ i, a = R.LINK_Pp_DUP i
  | .LINK_Pp_SEQERR => ∃ i, a = R.LINK_Pp_SEQERR i
  | .LINK_Pp_SEQ => ∃ i, a = R.LINK_Pp_SEQ i
  | .LINK_LANEn_STAT => ∃ i, a = R.LINK_LANEn_STAT i
  | .LINK_LANEn_CODEERR => ∃ i, a = R.LINK_LANEn_CODEERR i
  | .LINK_LANEn_DISPERR => ∃ i, a = R.LINK_LANEn_DISPERR i
  | .LINK_LANEn_LOCKLOSS => ∃ i, a = R.LINK_LANEn_LOCKLOSS i
  | .LINK_STREAMs_CREDIT => ∃ i, a = R.LINK_STREAMs_CREDIT i
  | .DMA_CTRL => a = R.DMA_CTRL
  | .DMA_STAT => a = R.DMA_STAT
  | .DMA_DONE_EVT => a = R.DMA_DONE_EVT
  | .DMA_DONE_EN => a = R.DMA_DONE_EN
  | .DMA_HALT_EVT => a = R.DMA_HALT_EVT
  | .DMA_HALT_EN => a = R.DMA_HALT_EN
  | .DMA_ERR_THR => a = R.DMA_ERR_THR
  | .DMA_LATE_EVT => a = R.DMA_LATE_EVT
  | .DMA_CHn_CTRL => ∃ i, a = R.DMA_CHn_CTRL i
  | .DMA_CHn_CFG => ∃ i, a = R.DMA_CHn_CFG i
  | .DMA_CHn_RING_LO => ∃ i, a = R.DMA_CHn_RING_LO i
  | .DMA_CHn_RING_HI => ∃ i, a = R.DMA_CHn_RING_HI i
  | .DMA_CHn_HEAD => ∃ i, a = R.DMA_CHn_HEAD i
  | .DMA_CHn_DOORBELL => ∃ i, a = R.DMA_CHn_DOORBELL i
  | .DMA_CHn_PACE => ∃ i, a = R.DMA_CHn_PACE i
  | .DMA_CHn_STAT => ∃ i, a = R.DMA_CHn_STAT i
  | .DMA_CHn_CUR_SRC_LO => ∃ i, a = R.DMA_CHn_CUR_SRC_LO i
  | .DMA_CHn_CUR_SRC_HI => ∃ i, a = R.DMA_CHn_CUR_SRC_HI i
  | .DMA_CHn_CUR_DST_LO => ∃ i, a = R.DMA_CHn_CUR_DST_LO i
  | .DMA_CHn_CUR_DST_HI => ∃ i, a = R.DMA_CHn_CUR_DST_HI i
  | .DMA_CHn_REMAIN => ∃ i, a = R.DMA_CHn_REMAIN i
  | .DMA_CHn_ERRADDR_LO => ∃ i, a = R.DMA_CHn_ERRADDR_LO i
  | .DMA_CHn_ERRADDR_HI => ∃ i, a = R.DMA_CHn_ERRADDR_HI i
  | .DMA_CHn_ABORT => ∃ i, a = R.DMA_CHn_ABORT i
  | .GRANARY_CTRL => a = R.GRANARY_CTRL
  | .GRANARY_STAT => a = R.GRANARY_STAT
  | .GRANARY_EVT => a = R.GRANARY_EVT
  | .GRANARY_EVT_EN => a = R.GRANARY_EVT_EN
  | .GRANARY_ERR_THR => a = R.GRANARY_ERR_THR
  | .GRANARY_REF => a = R.GRANARY_REF
  | .GRANARY_SR => a = R.GRANARY_SR
  | .GRANARY_TIMING => a = R.GRANARY_TIMING
  | .GRANARY_INIT_BASE_LO => a = R.GRANARY_INIT_BASE_LO
  | .GRANARY_INIT_BASE_HI => a = R.GRANARY_INIT_BASE_HI
  | .GRANARY_INIT_LEN => a = R.GRANARY_INIT_LEN
  | .GRANARY_INIT_GO => a = R.GRANARY_INIT_GO
  | .GRANARY_ERRLOG0 => a = R.GRANARY_ERRLOG0
  | .GRANARY_ERRLOG1 => a = R.GRANARY_ERRLOG1
  | .GRANARY_ERRLOG2 => a = R.GRANARY_ERRLOG2
  | .GRANARY_ERRLOG3 => a = R.GRANARY_ERRLOG3
  | .GRANARY_CHc_RDERR => ∃ i, a = R.GRANARY_CHc_RDERR i
  | .GRANARY_CHc_CAPAR => ∃ i, a = R.GRANARY_CHc_CAPAR i
  | .GRANARY_CHc_RMWERR => ∃ i, a = R.GRANARY_CHc_RMWERR i
  | .GRANARY_CHc_QUEUE => ∃ i, a = R.GRANARY_CHc_QUEUE i
  | .GRANARY_DLY_ADDR => a = R.GRANARY_DLY_ADDR
  | .GRANARY_DLY_DATA => a = R.GRANARY_DLY_DATA
  | .MILLER_CTRL => a = R.MILLER_CTRL
  | .MILLER_EVT => a = R.MILLER_EVT
  | .MILLER_EVT_EN => a = R.MILLER_EVT_EN
  | .MILLER_DECd_STAT => ∃ i, a = R.MILLER_DECd_STAT i
  | .MILLER_DECd_LINE => ∃ i, a = R.MILLER_DECd_LINE i
  | .MILLER_DECd_ERRCNT => ∃ i, a = R.MILLER_DECd_ERRCNT i
  | .MILLER_DECd_ERRLINE => ∃ i, a = R.MILLER_DECd_ERRLINE i
  | .MILLER_DECd_BLOCKS => ∃ i, a = R.MILLER_DECd_BLOCKS i
  | .MILLER_DECd_HUNT => ∃ i, a = R.MILLER_DECd_HUNT i
  | .MILLER_ENCe_CTRL => ∃ i, a = R.MILLER_ENCe_CTRL i
  | .MILLER_ENCe_CFG => ∃ i, a = R.MILLER_ENCe_CFG i
  | .MILLER_ENCe_GEOM => ∃ i, a = R.MILLER_ENCe_GEOM i
  | .MILLER_ENCe_LINE0 => ∃ i, a = R.MILLER_ENCe_LINE0 i
  | .MILLER_ENCe_STAT => ∃ i, a = R.MILLER_ENCe_STAT i
  | .MILLER_ENCe_RES0 => ∃ i, a = R.MILLER_ENCe_RES0 i
  | .MILLER_ENCe_RES1 => ∃ i, a = R.MILLER_ENCe_RES1 i
  | .MILLER_ENCe_RES2 => ∃ i, a = R.MILLER_ENCe_RES2 i
  | .MILLER_ENCe_BYTESIN => ∃ i, a = R.MILLER_ENCe_BYTESIN i
  | .MILLER_ENCe_BYTESOUT => ∃ i, a = R.MILLER_ENCe_BYTESOUT i
  | .WEAVER_CFG => ∃ i, a = R.WEAVER_CFG i
  | .WEAVER_RAMP => ∃ i, a = R.WEAVER_RAMP i
  | .WEAVER_KERNEL => ∃ i, a = R.WEAVER_KERNEL i
  | .WEAVER_KERNEL_START => ∃ i, a = R.WEAVER_KERNEL_START i
  | .WEAVER_VER0 => ∃ i, a = R.WEAVER_VER0 i
  | .WEAVER_VER1 => ∃ i, a = R.WEAVER_VER1 i
  | .WEAVER_MASKSEL => ∃ i, a = R.WEAVER_MASKSEL i
  | .WEAVER_MASKLINE => ∃ i, a = R.WEAVER_MASKLINE i
  | .WEAVER_LVLBUF => ∃ i, a = R.WEAVER_LVLBUF i
  | .WEAVER_SCREENED => ∃ i, a = R.WEAVER_SCREENED i
  | .WEAVER_RAMPSTAT => ∃ i, a = R.WEAVER_RAMPSTAT i
  | .WEAVER_TONE_L => ∃ i, a = R.WEAVER_TONE_L i
  | .WEAVER_TONE_E => ∃ i, a = R.WEAVER_TONE_E i
  | .WEAVER_GAIN_L => ∃ i, a = R.WEAVER_GAIN_L i
  | .WEAVER_GAIN_E => ∃ i, a = R.WEAVER_GAIN_E i
  | .WEAVER_EVT => ∃ i, a = R.WEAVER_EVT i
  | .WEAVER_EVT_EN => ∃ i, a = R.WEAVER_EVT_EN i
  | .WEAVER_CNT_TWIN => ∃ i, a = R.WEAVER_CNT_TWIN i
  | .WEAVER_CNT_PARTNER => ∃ i, a = R.WEAVER_CNT_PARTNER i
  | .WEAVER_CNT_BOOST => ∃ i, a = R.WEAVER_CNT_BOOST i
  | .WEAVER_CNT_LOST => ∃ i, a = R.WEAVER_CNT_LOST i
  | .WEAVER_CNT_CLAMP => ∃ i, a = R.WEAVER_CNT_CLAMP i
  | .WEAVER_OVERLAP => ∃ i, a = R.WEAVER_OVERLAP i
  | .HC_CTRL => ∃ i, a = R.HC_CTRL i
  | .HC_STAT => ∃ i, a = R.HC_STAT i
  | .HC_EVT => ∃ i, a = R.HC_EVT i
  | .HC_EVT_EN => ∃ i, a = R.HC_EVT_EN i
  | .HC_PROF0 => ∃ i, a = R.HC_PROF0 i
  | .HC_PROF1 => ∃ i, a = R.HC_PROF1 i
  | .HC_PROF2 => ∃ i, a = R.HC_PROF2 i
  | .HC_PROF3 => ∃ i, a = R.HC_PROF3 i
  | .HC_PROF4 => ∃ i, a = R.HC_PROF4 i
  | .HC_MAP_LO => ∃ i, a = R.HC_MAP_LO i
  | .HC_MAP_HI => ∃ i, a = R.HC_MAP_HI i
  | .HC_DMAP_LO => ∃ i, a = R.HC_DMAP_LO i
  | .HC_DMAP_HI => ∃ i, a = R.HC_DMAP_HI i
  | .HC_CODES => ∃ i, a = R.HC_CODES i
  | .HC_DUTY => ∃ i, a = R.HC_DUTY i
  | .HC_SHARE => ∃ i, a = R.HC_SHARE i
  | .HC_SPIT => ∃ i, a = R.HC_SPIT i
  | .HC_WARM => ∃ i, a = R.HC_WARM i
  | .HC_COMBSEL => ∃ i, a = R.HC_COMBSEL i
  | .HC_COMBLINE => ∃ i, a = R.HC_COMBLINE i
  | .HC_ERR_THR => ∃ i, a = R.HC_ERR_THR i
  | .HC_TEMP => ∃ i, a = R.HC_TEMP i
  | .HC_SCAN_CFG => ∃ i, a = R.HC_SCAN_CFG i
  | .HC_SCAN_DLY => ∃ i, a = R.HC_SCAN_DLY i
  | .HC_SCAN_PER => ∃ i, a = R.HC_SCAN_PER i
  | .HC_SCAN_ROWD => ∃ i, a = R.HC_SCAN_ROWD i
  | .HC_SCAN_PTR => ∃ i, a = R.HC_SCAN_PTR i
  | .HC_CNT_THINN => ∃ i, a = R.HC_CNT_THINN i
  | .HC_CNT_THINH => ∃ i, a = R.HC_CNT_THINH i
  | .HC_CNT_SPIT => ∃ i, a = R.HC_CNT_SPIT i
  | .HC_CNT_LATE => ∃ i, a = R.HC_CNT_LATE i
  | .HC_CNT_RESHIFT => ∃ i, a = R.HC_CNT_RESHIFT i
  | .HC_CNT_COLLIDE => ∃ i, a = R.HC_CNT_COLLIDE i
  | .HC_CNT_GUARD => ∃ i, a = R.HC_CNT_GUARD i
  | .HC_CNT_SOSOVR => ∃ i, a = R.HC_CNT_SOSOVR i
  | .HC_SEGb_s => ∃ i j k, a = R.HC_SEGb_s i j k
  | .HC_SELb_j => ∃ i j k, a = R.HC_SELb_j i j k
  | .HC_WAVb_j => ∃ i j k, a = R.HC_WAVb_j i j k
  | .POS_EVT0 => a = R.POS_EVT0
  | .POS_EVT0_EN => a = R.POS_EVT0_EN
  | .POS_EVT1 => a = R.POS_EVT1
  | .POS_EVT1_EN => a = R.POS_EVT1_EN
  | .POS_HOME_CFG => a = R.POS_HOME_CFG
  | .POS_INSTATE => a = R.POS_INSTATE
  | .ENCn_CTRL => ∃ i, a = R.ENCn_CTRL i
  | .ENCn_REVCNT => ∃ i, a = R.ENCn_REVCNT i
  | .ENCn_IDXPOS => ∃ i, a = R.ENCn_IDXPOS i
  | .ENCn_IDXCFG => ∃ i, a = R.ENCn_IDXCFG i
  | .ENCn_SPDCFG => ∃ i, a = R.ENCn_SPDCFG i
  | .ENCn_DIRCFG => ∃ i, a = R.ENCn_DIRCFG i
  | .ENCn_SCALE => ∃ i, a = R.ENCn_SCALE i
  | .ENCn_ERR_THR => ∃ i, a = R.ENCn_ERR_THR i
  | .ENCn_PRESET_LO => ∃ i, a = R.ENCn_PRESET_LO i
  | .ENCn_PRESET_HI => ∃ i, a = R.ENCn_PRESET_HI i
  | .ENCn_POS_LO => ∃ i, a = R.ENCn_POS_LO i
  | .ENCn_POS_HI => ∃ i, a = R.ENCn_POS_HI i
  | .ENCn_MAX_LO => ∃ i, a = R.ENCn_MAX_LO i
  | .ENCn_MAX_HI => ∃ i, a = R.ENCn_MAX_HI i
  | .ENCn_REV => ∃ i, a = R.ENCn_REV i
  | .ENCn_SPEED => ∃ i, a = R.ENCn_SPEED i
  | .ENCn_VEL => ∃ i, a = R.ENCn_VEL i
  | .ENCn_STAT => ∃ i, a = R.ENCn_STAT i
  | .ENCn_IDXERR => ∃ i, a = R.ENCn_IDXERR i
  | .ENCn_QERR => ∃ i, a = R.ENCn_QERR i
  | .ENCn_IDXCNT => ∃ i, a = R.ENCn_IDXCNT i
  | .SSIm_CFG => ∃ i, a = R.SSIm_CFG i
  | .SSIm_TIMING => ∃ i, a = R.SSIm_TIMING i
  | .SSIm_MAXJUMP => ∃ i, a = R.SSIm_MAXJUMP i
  | .SSIm_POS_LO => ∃ i, a = R.SSIm_POS_LO i
  | .SSIm_POS_HI => ∃ i, a = R.SSIm_POS_HI i
  | .SSIm_TS_LO => ∃ i, a = R.SSIm_TS_LO i
  | .SSIm_TS_HI => ∃ i, a = R.SSIm_TS_HI i
  | .SSIm_STAT => ∃ i, a = R.SSIm_STAT i
  | .SSIm_ERRCNT => ∃ i, a = R.SSIm_ERRCNT i
  | .MARKi_CFG => ∃ i, a = R.MARKi_CFG i
  | .MARKi_LAT0 => ∃ i, a = R.MARKi_LAT0 i
  | .MARKi_LAT1 => ∃ i, a = R.MARKi_LAT1 i
  | .MARKi_LAT2 => ∃ i, a = R.MARKi_LAT2 i
  | .MARKi_LAT3 => ∃ i, a = R.MARKi_LAT3 i
  | .MARKi_STAT => ∃ i, a = R.MARKi_STAT i
  | .CMPj_CTRL => ∃ i, a = R.CMPj_CTRL i
  | .CMPj_STAT => ∃ i, a = R.CMPj_STAT i
  | .CMPj_OFF_LO => ∃ i, a = R.CMPj_OFF_LO i
  | .CMPj_OFF_HI => ∃ i, a = R.CMPj_OFF_HI i
  | .CMPj_PER_LO => ∃ i, a = R.CMPj_PER_LO i
  | .CMPj_PER_HI => ∃ i, a = R.CMPj_PER_HI i
  | .CMPj_LATE => ∃ i, a = R.CMPj_LATE i
  | .POS_TAB_ADDR => a = R.POS_TAB_ADDR
  | .POS_TAB_DATA_LO => a = R.POS_TAB_DATA_LO
  | .POS_TAB_DATA_HI => a = R.POS_TAB_DATA_HI
  | .BR_CTRL => a = R.BR_CTRL
  | .BR_STAT => a = R.BR_STAT
  | .BR_EVT => a = R.BR_EVT
  | .BR_EVT_EN => a = R.BR_EVT_EN
  | .BR_NUM => a = R.BR_NUM
  | .BR_DEN => a = R.BR_DEN
  | .BR_ORG_LO => a = R.BR_ORG_LO
  | .BR_ORG_HI => a = R.BR_ORG_HI
  | .BR_LOOP => a = R.BR_LOOP
  | .BR_LOCK => a = R.BR_LOCK
  | .BR_VMIN => a = R.BR_VMIN
  | .BR_OVS => a = R.BR_OVS
  | .BR_STRETCH => a = R.BR_STRETCH
  | .BR_PAGE_CFG => a = R.BR_PAGE_CFG
  | .BR_MARKOFF => a = R.BR_MARKOFF
  | .BR_LINESTART => a = R.BR_LINESTART
  | .BR_PHI_LO => a = R.BR_PHI_LO
  | .BR_PHI_HI => a = R.BR_PHI_HI
  | .BR_PHIMAX_LO => a = R.BR_PHIMAX_LO
  | .BR_PHIMAX_HI => a = R.BR_PHIMAX_HI
  | .BR_RATE => a = R.BR_RATE
  | .BR_FMAX => a = R.BR_FMAX
  | .BR_LINE => a = R.BR_LINE
  | .BR_SNAPLINE => a = R.BR_SNAPLINE
  | .BR_ERR => a = R.BR_ERR
  | .BR_STRETCHSUM => a = R.BR_STRETCHSUM
  | .BR_CNT_STRETCH => a = R.BR_CNT_STRETCH
  | .BR_CNT_OVSBLANK => a = R.BR_CNT_OVSBLANK
  | .BR_CNT_UNLOCK => a = R.BR_CNT_UNLOCK
  | .BR_CNT_SNAP => a = R.BR_CNT_SNAP
  | .BR_CNT_MARKREJ => a = R.BR_CNT_MARKREJ
  | .BR_ROWU => ∃ i, a = R.BR_ROWU i
  | .BR_ROWD => ∃ i, a = R.BR_ROWD i
  | .BR_HLIMIT => ∃ i, a = R.BR_HLIMIT i
  | .BR_ROWU_NEXT => ∃ i, a = R.BR_ROWU_NEXT i
  | .BR_ROWD_NEXT => ∃ i, a = R.BR_ROWD_NEXT i
  | .HAM_LEAD => ∃ i, a = R.HAM_LEAD i
  | .HAM_STAT => ∃ i, a = R.HAM_STAT i
  | .HAM_LEADDEF => ∃ i, a = R.HAM_LEADDEF i
  | .HAM_PREPLINE => ∃ i, a = R.HAM_PREPLINE i
  | .HAM_EVT => ∃ i, a = R.HAM_EVT i
  | .HAM_EVT_EN => ∃ i, a = R.HAM_EVT_EN i
  | .HAM_ERR_THR => ∃ i, a = R.HAM_ERR_THR i
  | .HAM_CNT_LATE => ∃ i, a = R.HAM_CNT_LATE i
  | .HAM_CNT_BLANK => ∃ i, a = R.HAM_CNT_BLANK i
  | .HAM_CNT_SKIP => ∃ i, a = R.HAM_CNT_SKIP i
  | .HAM_CNT_RECOMP => ∃ i, a = R.HAM_CNT_RECOMP i
  | .HAM_CNT_PARITY => ∃ i, a = R.HAM_CNT_PARITY i
  | .HAM_CNT_LOST => ∃ i, a = R.HAM_CNT_LOST i
  | .FAULT_CTRL => a = R.FAULT_CTRL
  | .FAULT_STAT => a = R.FAULT_STAT
  | .FAULT_EVT => a = R.FAULT_EVT
  | .FAULT_EVT_EN => a = R.FAULT_EVT_EN
  | .FAULT_HC_RETIRE => a = R.FAULT_HC_RETIRE
  | .FAULT_HC_READMIT => a = R.FAULT_HC_READMIT
  | .FAULT_NOZ_RETIRE => a = R.FAULT_NOZ_RETIRE
  | .FAULT_LOG_WR => a = R.FAULT_LOG_WR
  | .FAULT_LOG_RD => a = R.FAULT_LOG_RD
  | .FAULT_LOG_LOST => a = R.FAULT_LOG_LOST
  | .FAULT_LOG_Ww => ∃ i, a = R.FAULT_LOG_Ww i
  | .CAM_EVT => a = R.CAM_EVT
  | .CAM_EVT_EN => a = R.CAM_EVT_EN
  | .CAM_READMIT => a = R.CAM_READMIT
  | .CAM_NOZ_RETIRE => a = R.CAM_NOZ_RETIRE
  | .CAM_TAB_ADDR => a = R.CAM_TAB_ADDR
  | .CAM_TAB_DATA => a = R.CAM_TAB_DATA
  | .CAM_LAD_CFG => a = R.CAM_LAD_CFG
  | .CAM_LAD_NOM => a = R.CAM_LAD_NOM
  | .CAM_LAD_NEXT => a = R.CAM_LAD_NEXT
  | .CAM_REF_LO => a = R.CAM_REF_LO
  | .CAM_REF_HI => a = R.CAM_REF_HI
  | .CAM_REF_LINES => a = R.CAM_REF_LINES
  | .CAMn_CTRL => ∃ i, a = R.CAMn_CTRL i
  | .CAMn_STAT => ∃ i, a = R.CAMn_STAT i
  | .CAMn_GEOM => ∃ i, a = R.CAMn_GEOM i
  | .CAMn_TIMEOUT => ∃ i, a = R.CAMn_TIMEOUT i
  | .CAMn_EXP => ∃ i, a = R.CAMn_EXP i
  | .CAMn_GAIN => ∃ i, a = R.CAMn_GAIN i
  | .CAMn_EXP_NOW => ∃ i, a = R.CAMn_EXP_NOW i
  | .CAMn_GAIN_NOW => ∃ i, a = R.CAMn_GAIN_NOW i
  | .CAMn_FSEQ => ∃ i, a = R.CAMn_FSEQ i
  | .CAMn_X0 => ∃ i, a = R.CAMn_X0 i
  | .CAMn_PITCH => ∃ i, a = R.CAMn_PITCH i
  | .CAMn_YDIST => ∃ i, a = R.CAMn_YDIST i
  | .CAMn_SER_CFG => ∃ i, a = R.CAMn_SER_CFG i
  | .CAMn_SER_DATA => ∃ i, a = R.CAMn_SER_DATA i
  | .CAMn_ERR_THR => ∃ i, a = R.CAMn_ERR_THR i
  | .CAMn_CNT_FRAMES => ∃ i, a = R.CAMn_CNT_FRAMES i
  | .CAMn_CNT_DROP => ∃ i, a = R.CAMn_CNT_DROP i
  | .Pp_CTRL => ∃ i, a = R.Pp_CTRL i
  | .Pp_STAT => ∃ i, a = R.Pp_STAT i
  | .Pp_RES_LO => ∃ i, a = R.Pp_RES_LO i
  | .Pp_RES_HI => ∃ i, a = R.Pp_RES_HI i
  | .Pp_RES_WR => ∃ i, a = R.Pp_RES_WR i
  | .Pp_RES_RD => ∃ i, a = R.Pp_RES_RD i
  | .Pp_REGION => ∃ i, a = R.Pp_REGION i
  | .Pp_CMPTHR => ∃ i, a = R.Pp_CMPTHR i
  | .Pp_CNT_RESLOST => ∃ i, a = R.Pp_CNT_RESLOST i
  | .CAL_CTRL => a = R.CAL_CTRL
  | .CAL_STAT => a = R.CAL_STAT
  | .CAL_EVT => a = R.CAL_EVT
  | .CAL_EVT_EN => a = R.CAL_EVT_EN
  | .CAL_SCHED => a = R.CAL_SCHED
  | .CAL_SLOT => a = R.CAL_SLOT
  | .CAL_HCMASK => a = R.CAL_HCMASK
  | .CAL_TSLIN => a = R.CAL_TSLIN
  | .CAL_TSCFG => a = R.CAL_TSCFG
  | .CAL_ADC => a = R.CAL_ADC
  | .CAL_CNT_SLOTS => a = R.CAL_CNT_SLOTS
  | .CAL_CNT_CUT => a = R.CAL_CNT_CUT
  | .CAL_CNT_IMPLAUS => a = R.CAL_CNT_IMPLAUS
  | .CAL_HCh_TRIM => ∃ i, a = R.CAL_HCh_TRIM i
  | .CAL_HCh_NOW => ∃ i, a = R.CAL_HCh_NOW i
  | .CAL_HCh_PTS => ∃ i, a = R.CAL_HCh_PTS i
  | .CAL_HCh_TGT => ∃ i, a = R.CAL_HCh_TGT i
  | .CAL_HCh_MEAS => ∃ i, a = R.CAL_HCh_MEAS i
  | .CAL_HCh_PATH => ∃ i, a = R.CAL_HCh_PATH i
  | .CAL_HCh_STAT => ∃ i, a = R.CAL_HCh_STAT i
  | .CAL_HCh_LASTLINE => ∃ i, a = R.CAL_HCh_LASTLINE i
  | .MOT_PWM => a = R.MOT_PWM
  | .MOT_EVT => a = R.MOT_EVT
  | .MOT_EVT_EN => a = R.MOT_EVT_EN
  | .MOT_AXn_CTRL => ∃ i, a = R.MOT_AXn_CTRL i
  | .MOT_AXn_CMD => ∃ i, a = R.MOT_AXn_CMD i
  | .MOT_AXn_STAT => ∃ i, a = R.MOT_AXn_STAT i
  | .MOT_AXn_POS => ∃ i, a = R.MOT_AXn_POS i
  | .MOT_AXn_VEL => ∃ i, a = R.MOT_AXn_VEL i
  | .MOT_AXn_TGT => ∃ i, a = R.MOT_AXn_TGT i
  | .MOT_AXn_VMAX => ∃ i, a = R.MOT_AXn_VMAX i
  | .MOT_AXn_AMAX => ∃ i, a = R.MOT_AXn_AMAX i
  | .MOT_AXn_DMAX => ∃ i, a = R.MOT_AXn_DMAX i
  | .MOT_AXn_QDEC => ∃ i, a = R.MOT_AXn_QDEC i
  | .MOT_AXn_TRAP => ∃ i, a = R.MOT_AXn_TRAP i
  | .MOT_AXn_VBREAK => ∃ i, a = R.MOT_AXn_VBREAK i
  | .MOT_AXn_ACC1 => ∃ i, a = R.MOT_AXn_ACC1 i
  | .MOT_AXn_DEC1 => ∃ i, a = R.MOT_AXn_DEC1 i
  | .MOT_AXn_CUR => ∃ i, a = R.MOT_AXn_CUR i
  | .MOT_AXn_CURPI => ∃ i, a = R.MOT_AXn_CURPI i
  | .MOT_AXn_USTEP0 => ∃ i, a = R.MOT_AXn_USTEP0 i
  | .MOT_AXn_USTEP1 => ∃ i, a = R.MOT_AXn_USTEP1 i
  | .MOT_AXn_SW => ∃ i, a = R.MOT_AXn_SW i
  | .MOT_AXn_HOME => ∃ i, a = R.MOT_AXn_HOME i
  | .MOT_AXn_HOMEPOS => ∃ i, a = R.MOT_AXn_HOMEPOS i
  | .MOT_AXn_HMAXDIST => ∃ i, a = R.MOT_AXn_HMAXDIST i
  | .MOT_AXn_SOFTLO => ∃ i, a = R.MOT_AXn_SOFTLO i
  | .MOT_AXn_SOFTHI => ∃ i, a = R.MOT_AXn_SOFTHI i
  | .MOT_AXn_SSPOS => ∃ i, a = R.MOT_AXn_SSPOS i
  | .MOT_AXn_LINKOFS => ∃ i, a = R.MOT_AXn_LINKOFS i
  | .MOT_AX2_GCFG => a = R.MOT_AX2_GCFG
  | .MOT_AX2_GRATIO => a = R.MOT_AX2_GRATIO
  | .MOT_AX2_GNEXT => a = R.MOT_AX2_GNEXT
  | .MOT_AX2_GSCHED_LO => a = R.MOT_AX2_GSCHED_LO
  | .MOT_AX2_GSCHED_HI => a = R.MOT_AX2_GSCHED_HI
  | .MOT_AX2_GBLEND => a = R.MOT_AX2_GBLEND
  | .CLKPWR_CTRL => a = R.CLKPWR_CTRL
  | .CLKPWR_STAT => a = R.CLKPWR_STAT
  | .CLKPWR_EVT => a = R.CLKPWR_EVT
  | .CLKPWR_EVT_EN => a = R.CLKPWR_EVT_EN
  | .CLKPWR_DROOP => a = R.CLKPWR_DROOP
  | .CLKPWR_SAGTIME => a = R.CLKPWR_SAGTIME
  | .CLKPWR_OT => a = R.CLKPWR_OT
  | .CLKPWR_TEMP => a = R.CLKPWR_TEMP
  | .CLKPWR_GATE => a = R.CLKPWR_GATE
  | .CLKPWR_BOOTSTAT => a = R.CLKPWR_BOOTSTAT
  | .CLKPWR_SAGCNT => a = R.CLKPWR_SAGCNT
  | .CLKPWR_WAKECFG => a = R.CLKPWR_WAKECFG
  | .CLKPWR_WAKESRC => a = R.CLKPWR_WAKESRC
  | .CLKPWR_RTC_LO => a = R.CLKPWR_RTC_LO
  | .CLKPWR_RTC_HI => a = R.CLKPWR_RTC_HI
  | .CLKPWR_ALARM_LO => a = R.CLKPWR_ALARM_LO
  | .CLKPWR_ALARM_HI => a = R.CLKPWR_ALARM_HI
  | .CLKPWR_RETw => ∃ i, a = R.CLKPWR_RETw i
  | .SEC_STAT => a = R.SEC_STAT
  | .SEC_EVT => a = R.SEC_EVT
  | .SEC_EVT_EN => a = R.SEC_EVT_EN
  | .SEC_CONFIRM => a = R.SEC_CONFIRM
  | .SEC_KEYSLOT => a = R.SEC_KEYSLOT
  | .SEC_SECVER => a = R.SEC_SECVER
  | .SEC_JOURNAL => a = R.SEC_JOURNAL
  | .SEC_TRIAL => a = R.SEC_TRIAL
  | .SEC_SIGN_CTRL => a = R.SEC_SIGN_CTRL
  | .SEC_DIGESTw => ∃ i, a = R.SEC_DIGESTw i
  | .SEC_SIGw => ∃ i, a = R.SEC_SIGw i
  | .SEC_PUBKEYw => ∃ i, a = R.SEC_PUBKEYw i

/-- Two states agree in a field. -/
def Part.same (p : Part) (s t : State) : Prop :=
  match p with
  | .now => t.now = s.now
  | .highLatch => t.highLatch = s.highLatch
  | .halfWrites => t.halfWrites = s.halfWrites
  | .resp => t.resp = s.resp
  | .freeCtr => t.freeCtr = s.freeCtr
  | .log => t.log = s.log
  | .link => t.link = s.link
  | .dma => t.dma = s.dma
  | .granary => t.granary = s.granary
  | .dramValid => t.dramValid = s.dramValid
  | .miller => t.miller = s.miller
  | .pend => t.pend = s.pend
  | .landed => t.landed = s.landed
  | .weaver => t.weaver = s.weaver
  | .hcs => t.hcs = s.hcs
  | .pos => t.pos = s.pos
  | .br => t.br = s.br
  | .cam => t.cam = s.cam
  | .cal => t.cal = s.cal
  | .axes => t.axes = s.axes
  | .mot => t.mot = s.mot
  | .eth => t.eth = s.eth
  | .pages => t.pages = s.pages
  | .subs => t.subs = s.subs
  | .lastEvents => t.lastEvents = s.lastEvents
  | .pwr => t.pwr = s.pwr
  | .flash => t.flash = s.flash
  | .sec => t.sec = s.sec
  | .mem | .sram | .dram | .rings | .records | .refs | .decoded
  | .tones | .masks | .slots | .nozRet | .nozGain | .nozWet | .thresholds | .staging => True

/-- A part of memory. -/
def Part.isBytes : Part → Bool
  | .mem | .sram | .dram | .rings | .records | .refs | .decoded
  | .tones | .masks | .slots | .nozRet | .nozGain | .nozWet | .thresholds | .staging => true
  | _ => false

/-- A row of `r` has the register at address `a`. -/
def Reg.touches (r : List Reg) (a : Nat) : Prop := ∃ x ∈ r, x.has a

/-- The byte at chip address `a` is in the part, in a state of which only registers of the rows `r` may have changed. The
rings lie where registers of state `s` say, or anywhere once those registers may have changed. -/
def Part.stores (p : Part) (r : List Reg) (s : State) (a : Nat) : Prop :=
  match p with
  | .mem => True
  | .sram => a < 0x2200000
  | .dram => dramBase ≤ a
  | .rings => (∃ n, Reg.touches r (R.DMA_CHn_RING_LO n) ∨ Reg.touches r (R.DMA_CHn_RING_HI n)) ∨
      ∃ n, s.ringBase n ≤ a ∧ a < s.ringBase n + 32 * s.ringSize n
  | .records => (∃ n, Reg.touches r (R.Pp_RES_LO n) ∨ Reg.touches r (R.Pp_RES_HI n)) ∨
      ∃ n, s.resBase n ≤ a ∧ a < s.resBase n + 32 * s.resSize n
  | .refs => Reg.touches r R.CAM_REF_LO ∨ Reg.touches r R.CAM_REF_HI ∨ Reg.touches r R.CAM_REF_LINES ∨
      (s.refBase ≤ a ∧ a < s.refBase + 25344 * s.refLines)
  | .decoded => ∃ k, lineBase k + 0x10000 ≤ a ∧ a < lineBase k + 0x40000
  | .tones => ∃ k, lineBase k + 0x40000 ≤ a ∧ a < lineBase k + 0xA3000
  | .masks => ∃ k, lineBase k + 0xA3000 ≤ a ∧ a < lineBase k + 0xAD000
  | .slots => ∃ k, lineBase k + 0xAD000 ≤ a ∧ a < lineBase k + 0x300000
  | .nozRet => ∃ g, a = nozAddr g
  | .nozGain => ∃ g, a = nozAddr g + 1 ∨ a = nozAddr g + 2
  | .nozWet => ∃ g, a = nozAddr g + 4 ∨ a = nozAddr g + 5
  | .thresholds => compBase + 0xC6000 ≤ a ∧ a < compBase + 0x186000
  | .staging => compBase + 0x186000 ≤ a ∧ a < compBase + 0x200000
  | _ => False

/-- Every row of `q` is in `r`, where `any` stands for all. -/
def Reg.sub (q r : List Reg) : Bool := r.contains .any || q.all (fun x => r.contains x)

/-- The parts `v` and the rows `q` are among the parts `w` and the rows `r`. -/
def within (v : List Part) (q : List Reg) (w : List Part) (r : List Reg) : Bool :=
  v.all (fun x => w.contains x || (x.isBytes && w.contains .mem)) && Reg.sub q r

/-- The good form of a state: memory and the register table are canonical, and the fault log holds at most its 4,096
entries (R302). -/
structure State.Good (s : State) : Prop where
  mem : Memory.wf s.mem = true
  regs : Regs.wf s.regs = true
  log : s.log.length ≤ 4096

/-- From `s` to `t` nothing changes but the parts `w` and registers of the rows `r`: the queue stays, the good form stays,
every field that is not in `w` stays, every register of no row in `r` reads as before, and every byte of memory that is in
no part of `w` reads as before. -/
structure Keeps (w : List Part) (r : List Reg) (s t : State) : Prop where
  queue : t.pending = s.pending
  good : s.Good → t.Good
  parts : ∀ p : Part, p ∉ w → p.same s t
  regs : ∀ a, (∀ x ∈ r, ¬ x.has a) → t.reg a = s.reg a
  bytes : ∀ a, (∀ p ∈ w, ¬ p.stores r s a) → t.byte a = s.byte a

/-- SRC, KIND, UNIT and CAUSE of the newest entry of the fault log; none while it is empty. -/
def State.newest (s : State) : Option (Nat × Nat × Nat × Nat) := s.log.head?.map (fun n => (n.src, n.kind, n.unit, n.cause))

/-- The state in which DMA judges the next grant: channels that hold a descriptor run, and pacing is up to date (R84, R88). -/
def State.offering (s : State) : State := s.runHolders.updatePacing

/-- The errors of the symbols received on the lanes of port `p` leave every lane below ERRMAX (R62). -/
abbrev State.lanesBelowMax (s : State) (p : Nat) (lanes : List (Bool × List (BitVec 10))) : Prop :=
  s.fld R.LINK_LANE_THR F.LINK_LANE_THR_ERRMAX = 0 ∨
    ∀ n ∈ s.rxLanes p, (s.lane n).errStamps.length + (readSyms (lanes.getD n (false, [])).1 (lanes.getD n (false, [])).2).2.1 +
      (readSyms (lanes.getD n (false, [])).1 (lanes.getD n (false, [])).2).2.2 < s.fld R.LINK_LANE_THR F.LINK_LANE_THR_ERRMAX

/-- Command `c` in state `s` answers a next state that meets `P`. -/
def Answers (c : Instr) (s : State) (P : State → Prop) : Prop := ∃ t, exec c s = .next t ∧ P t

/-- The request that a command brings, with its operation (R387, R434). -/
def requestOf : Instr → Option (Request × Nat)
  | .read q _ _ => some (q, 0x01)
  | .write q _ | .pageArm q _ | .pageDisarm q _ | .settingsSave q | .activate q _ | .fallbackRequest q | .revoke q _ =>
    some (q, 0x02)
  | .segRead q _ _ _ _ => some (q, 0x03)
  | .segWriteInit q _ _ _ _ _ => some (q, 0x04)
  | .segWrite q _ _ _ => some (q, 0x05)
  | .segAbort q _ => some (q, 0x06)
  | .groupOpen q => some (q, 0x10)
  | .groupStage q _ _ => some (q, 0x11)
  | .groupArm q _ _ _ => some (q, 0x12)
  | .groupDiscard q _ => some (q, 0x13)
  | .groupStatus q _ => some (q, 0x14)
  | .snapshot q _ => some (q, 0x20)
  | .subscribe q _ _ => some (q, 0x30)
  | .unsubscribe q _ => some (q, 0x31)
  | .eventAck q _ _ => some (q, 0x33)
  | .hello q _ _ _ => some (q, 0x40)
  | .clientAuth q _ _ _ => some (q, 0x41)
  | .close q => some (q, 0x42)
  | .attest q _ => some (q, 0x43)
  | _ => none

/-- The state once the frame of a request has been let in or dropped (R385, R392, R436). -/
def State.heard (s : State) (q : Request) : State := (s.quiet.letIn q).2

/-- The level of a request that was let in (R391). -/
def State.level (s : State) (q : Request) : Nat := (s.heard q).levelOf q

/-- A request with operation `op` is performed: it is let in, repeats no other, and its operation is served; its session,
if it has one, may still send (R385, R386, R392, R435). -/
def State.accepts (s : State) (q : Request) (op : Nat) : Bool :=
  s.served && (s.quiet.letIn q).1 && ((s.heard q).keptFor q).isNone && (s.heard q).opServed q op &&
    ((s.heard q).sessionOf q).all (fun x => decide (x.sent < 2 ^ 48))

/-- The response to a request: tagged in a session (R385, R435). -/
def State.response (s : State) (q : Request) (op status : Nat) (body : List Byte) : List Byte :=
  match (s.heard q).sessionOf q with
  | none => plainFrame op q.sid.toNat q.tid.toNat status body
  | some x => sealedFrame x op q.tid.toNat status body

/-- From `s` to `t` a request was answered: its response alone left, and it is kept for a repetition (R386). -/
abbrev State.replies (s t : State) (q : Request) (op status : Nat) (body : List Byte) : Prop :=
  t.eth.sent = [.datagram q.ip.toNat q.port.toNat (s.response q op status body)] ∧
    t.keptFor q = some (s.response q op status body)

end Sys2Proof.Machine
end

