-- ==== Sys2Proof/Certificates/Slice0/Obligations.lean ====
section
/-! DEFINITION. The statements for the provers. `Answers c s P` says that command `c` answers a next state that meets `P`,
and `Keeps` names everything that a command may change. -/

open Sys2Proof Sys2Proof.Machine

/-- A step runs the command at the front of the queue on the state with the rest of the queue (R5, R15). Clauses
beyond the rules are the model's choices of log entry 1. -/
def Obligations.StepRunsFrontCommand : Prop :=
  (∀ (c : Instr) (q : List Instr) (s : State), step { s with pending := c :: q } = exec c { s with pending := q })

/-- With an empty queue a step lets one 1.25 ns step of time pass; a due wake starts the chip (R25, R418). Clauses
beyond the rules are the model's choices of log entry 2. -/
def Obligations.EmptyQueueLetsTimePass : Prop :=
  (∀ s : State, s.pending = [] → s.pwr.wakeDue = false → step s = .next { s.noteClocks with now := s.now + 1 }) ∧
  (∀ (s : State) (o : Nat), s.pending = [] → s.pwr.wakeDue = true → s.power = 0 → s.pwr.offAt = some o → o + 8000000
      ≤ s.now + 1 → ∃ t, step s = .next t ∧ t.pwr.pwrEn = true ∧ t.pwr.wakeDue = false ∧ t.power = 4)

/-- The state after reset is in good form, has an empty queue and holds every register at its reset value (R7, R302,
R418). Clauses beyond the rules are the model's choices of log entries 3, 7. -/
def Obligations.ResetStateIsGood : Prop :=
  (State.reset.Good ∧ State.reset.pending = [] ∧ State.reset.log = [] ∧ (∀ a, State.reset.reg a = resetWord a) ∧ (∀
      a, State.reset.byte a = 0))

/-- Every step keeps the good form: canonical memory and register table, at most 4,096 log entries (R5, R27, R302). -/
def Obligations.EveryStepKeepsGood : Prop :=
  (∀ s t, s.Good → step s = .next t → t.Good)

/-- Every command answers a next state and leaves the waiting commands as they are (R5, R29, R30, R475). Clauses
beyond the rules are the model's choices of log entry 4. -/
def Obligations.EveryCommandAnswersNext : Prop :=
  (∀ c s, ∃ t, exec c s = .next t ∧ t.pending = s.pending)

/-- Every field of every register is written and read as its access code says; reserved bits read 0 (R6, R7). -/
def Obligations.AccessCodesOfEveryField : Prop :=
  (∀ a row ix, regAt a = some (row, ix) → ∀ (s : State) (v : Word), (∀ f ∈ row.fields, (f.acc = .rw → (s.writeByCodes
      a v).fld a f = getField f v) ∧ (f.acc = .ro ∨ f.acc = .rc ∨ f.acc = .wo → (s.writeByCodes a v).fld a f = s.fld
      a f) ∧ (f.acc = .w1c → ∀ i < f.width, ((s.writeByCodes a v).fld a f).testBit i = ((s.fld a f).testBit i &&
      !(getField f v).testBit i)) ∧ (f.acc ≠ .wo → getField f (s.readByCodes a) = s.fld a f) ∧ (f.acc = .wo →
      getField f (s.readByCodes a) = 0) ∧ (f.acc = .rc → (s.clearRC a).fld a f = 0)) ∧ (∀ i < 32, (∀ f ∈ row.fields,
      i < f.lo ∨ f.lo + f.width ≤ i) → (s.readByCodes a).toNat.testBit i = false))

/-- Registers are 32 bits wide, little-endian and aligned; another access is an error and makes an entry (R5). -/
def Obligations.RegisterWidthAndAlignment : Prop :=
  (∀ a, (regAt a).isSome = true → a % 4 = 0) ∧
  (∀ (r : Requester) (v : Word) (s : State) (data : List Byte), data.length = 4 → v = BitVec.ofNat 32 (leNat data) →
    Answers (.registerWrite r R.LINK_EVT_EN data) s fun t => t.reg R.LINK_EVT_EN = v &&& 0x003FFFFF ∧ t.resp = some
        ⟨reqCode r, true, []⟩ ∧ Keeps [.resp] [.LINK_EVT_EN] s t) ∧
  (∀ (r : Requester) (s : State),
    Answers (.rcRegisterRead r R.LINK_EVT_EN 4 0) s fun t => t.resp = some ⟨reqCode r, true, leBytes 4 (s.reg
        R.LINK_EVT_EN &&& 0x003FFFFF).toNat⟩ ∧ Keeps [.resp] [.LINK_EVT_EN] s t) ∧
  (∀ (r : Requester) (a : Nat) (data : List Byte) (s : State), s.rangeRegion a data.length = some .regs → data ≠ [] →
      (data.length ≠ 4 ∨ a % 4 ≠ 0) →
    Answers (.registerWrite r a data) s fun t => t.resp = some ⟨reqCode r, false, []⟩ ∧ t.newest = some (0x0C, 5,
        reqCode r, 3) ∧ Keeps [.resp, .log, .subs, .lastEvents] [.FAULT_EVT, .FAULT_LOG_WR, .FAULT_LOG_LOST] s t) ∧
  (∀ (r : Requester) (a n ev : Nat) (s : State), s.rangeRegion a n = some .regs → 0 < n → (n ≠ 4 ∨ a % 4 ≠ 0) →
    Answers (.rcRegisterRead r a n ev) s fun t => t.resp = some ⟨reqCode r, false, []⟩ ∧ t.newest = some (0x0C, 5,
        reqCode r, 3) ∧ Keeps [.resp, .log, .subs, .lastEvents] [.FAULT_EVT, .FAULT_LOG_WR, .FAULT_LOG_LOST] s t)

/-- An access to a reserved address, above a line SRAM or above the installed DRAM is refused and logged (R29). -/
def Obligations.ReservedAddressesRefused : Prop :=
  (∀ (s : State) (a : Nat), s.region a = none ↔ (0x200000 ≤ a ∧ a < 0x1000000) ∨ (0x1000000 ≤ a ∧ a < 0x2000000 ∧
      0x300000 ≤ a % 0x400000) ∨ (0x2200000 ≤ a ∧ a < 0x100000000) ∨ (0x200000000 ≤ a ∧ a < dramBase) ∨ dramBase +
      s.dramBytes ≤ a) ∧
  (∀ (r : Requester) (a : Nat) (data : List Byte) (s : State), data ≠ [] → (s.region a = none ∨ (s.region a = some
      .regs ∧ data.length = 4 ∧ a % 4 = 0 ∧ regAt a = none)) →
    Answers (.registerWrite r a data) s fun t => t.resp = some ⟨reqCode r, false, []⟩ ∧ t.newest = some (0x0C, 5,
        reqCode r, 1) ∧ Keeps [.resp, .log, .subs, .lastEvents] [.FAULT_EVT, .FAULT_LOG_WR, .FAULT_LOG_LOST] s t) ∧
  (∀ (r : Requester) (a n ev : Nat) (s : State), 0 < n → (s.region a = none ∨ (s.region a = some .regs ∧ n = 4 ∧ a %
      4 = 0 ∧ regAt a = none)) →
    Answers (.rcRegisterRead r a n ev) s fun t => t.resp = some ⟨reqCode r, false, []⟩ ∧ t.newest = some (0x0C, 5,
        reqCode r, 1) ∧ Keeps [.resp, .log, .subs, .lastEvents] [.FAULT_EVT, .FAULT_LOG_WR, .FAULT_LOG_LOST] s t)

/-- Writes of SEC by the link host, and of line and compensation SRAM while printing, are refused (R30, R164, R475).
-/
def Obligations.ProtectedWritesRefused : Prop :=
  (∀ (p : Fin 2) (a : Nat) (data : List Byte) (s : State), (0x100410000 ≤ a ∧ a < 0x100420000) → data.length = 4 →
      (regAt a).isSome = true →
    Answers (.registerWrite (.host p) a data) s fun t => t.resp = some ⟨0x24, false, []⟩ ∧ t.newest = some (0x0C, 5,
        0x24, 2) ∧ Keeps [.resp, .log, .subs, .lastEvents] [.FAULT_EVT, .FAULT_LOG_WR, .FAULT_LOG_LOST] s t) ∧
  (∀ (r : Requester) (a : Nat) (data : List Byte) (s : State) (k : Nat), data ≠ [] → s.anyPrinting = true →
      (s.rangeRegion a data.length = some .comp ∨ (s.rangeRegion a data.length = some (.line k) ∧ ¬ (8 ≤ reqCode r ∧
      reqCode r < 16))) →
    Answers (.registerWrite r a data) s fun t => t.resp = some ⟨reqCode r, false, []⟩ ∧ t.newest = some (0x0C, 5,
        reqCode r, 2) ∧ Keeps [.resp, .log, .subs, .lastEvents] [.FAULT_EVT, .FAULT_LOG_WR, .FAULT_LOG_LOST] s t) ∧
  (∀ (r : Requester) (a : Nat) (data : List Byte) (s : State) (k : Nat), data ≠ [] → s.anyPrinting = false →
      (s.rangeRegion a data.length = some .comp ∨ (s.rangeRegion a data.length = some (.line k) ∧ apertureAt a =
      none)) →
    Answers (.registerWrite r a data) s fun t => t.resp = some ⟨reqCode r, true, []⟩ ∧ t.bytes a data.length = data ∧
        (∀ b, (b < a ∨ a + data.length ≤ b) → t.byte b = s.byte b) ∧ Keeps [.resp, .mem] [] s t)

/-- Event registers clear by writing 1, and counters clear by reading, keeping what hardware adds meanwhile (R6, R73,
R402). -/
def Obligations.EventAndCounterRegisters : Prop :=
  (∀ (r : Requester) (a e : Nat) (v hw : Word) (s : State) (row : RegRow) (ix : List Nat), (a, e) ∈ eventPairs → a ≠
      R.SEC_EVT → regAt a = some (row, ix) →
    Answers (.w1cEventClear r a v hw) s fun t => t.reg a = (s.reg a &&& ~~~(v &&& maskOf .w1c row.fields)) ||| (hw
        &&& maskOf .w1c row.fields) ∧ t.resp = some ⟨reqCode r, true, []⟩ ∧ (∀ b, b ≠ a → t.reg b = s.reg b) ∧ (∀ p :
        Part, p ≠ .resp → p.same s t) ∧ t.pending = s.pending) ∧
  (∀ (r : Requester) (a ev i : Nat) (s : State), (a = R.LINK_Pp_CRCERR i ∨ a = R.LINK_Pp_NAKTX i ∨ a =
      R.LINK_Pp_NAKRX i ∨ a = R.LINK_Pp_DUP i ∨ a = R.LINK_Pp_SEQERR i ∨ a = R.LINK_LANEn_CODEERR i ∨ a =
      R.LINK_LANEn_DISPERR i) →
    Answers (.rcRegisterRead r a 4 ev) s fun t => t.resp = some ⟨reqCode r, true, leBytes 4 (s.reg a).toNat⟩ ∧ t.reg
        a = BitVec.ofNat 32 ev ∧ (∀ b, b ≠ a → t.reg b = s.reg b) ∧ (∀ p : Part, p ≠ .resp → p.same s t) ∧ t.pending
        = s.pending)

/-- The read of a low word of a 64-bit pair latches the high word, and reads of the high word return the latch (R8,
R109, R260, R284, R377, R430). Clauses beyond the rules are the model's choices of log entry 11. -/
def Obligations.WidePairsLatch : Prop :=
  (∀ (r : Requester) (a : Nat) (s : State), pairLow a = true →
    Answers (.widePairLowRead r a) s fun t => t.resp = some ⟨reqCode r, true, leBytes 4 (s.shown a).toNat⟩ ∧
        t.readWord (a + 4) = s.shown (a + 4) ∧ Keeps [.highLatch, .resp, .freeCtr, .log, .granary, .miller, .pos,
        .cam, .subs, .lastEvents] [.any] s t) ∧
  (∀ (r : Requester) (a : Nat) (s : State), pairLow a = true → (¬ (R.MARKi_CFG 0 ≤ a + 4 ∧ a + 4 < R.CMPj_CTRL 0 ∧ (a
      + 4 - R.MARKi_CFG 0) % 0x20 = 0x10)) →
    Answers (.rcRegisterRead r (a + 4) 4 0) s fun t => t.resp = some ⟨reqCode r, true, leBytes 4 (s.readWord (a +
        4)).toNat⟩ ∧ t.highLatch = s.highLatch ∧ Keeps [.highLatch, .resp, .freeCtr, .log, .granary, .miller, .pos,
        .cam, .subs, .lastEvents] [.any] s t) ∧
  (∀ a, pairLow a = true → State.reset.readWord (a + 4) = 0)

/-- With MERGE 1 a repetition of the newest entry within 1 ms increments its REPEAT and writes no entry (R303). -/
def Obligations.RepeatedFaultsMerge : Prop :=
  (∀ (s : State) (e : FaultInfo) n rest, s.log = n :: rest → s.bit R.FAULT_CTRL F.FAULT_CTRL_MERGE = true → n.src =
      e.src → n.unit = e.unit → n.cause = e.cause → n.kind = e.kind → n.ts ≤ s.ptp → s.ptp ≤ n.ts + 1000000 →
      (s.logFault e).log = { n with rep := min (n.rep + 1) 255 } :: rest ∧ (s.logFault e).reg R.FAULT_LOG_WR = s.reg
      R.FAULT_LOG_WR)

/-- A fault that is not merged writes the next entry of the ring with the time, position and line of the instant
(R302, R303, R304, R309). -/
def Obligations.FaultEntriesAreWritten : Prop :=
  (∀ (s : State) (e : FaultInfo), (∀ n ∈ s.log.head?, mergesWith s e n = false) → (∃ n, (s.logFault e).log = (n ::
      s.log).take 4096 ∧ n.seq = s.regN R.FAULT_LOG_WR ∧ n.ts = s.ptp ∧ n.pos = s.enc0Pos ∧ n.line = e.line.getD
      (s.regN R.BR_LINE) ∧ n.level = e.level % 4 ∧ n.kind = e.kind % 8 ∧ n.unit = e.unit ∧ n.src = e.src ∧ n.cause =
      e.cause % 256 ∧ n.rep = 0 ∧ n.detail = e.detail % 65536) ∧ (s.logFault e).reg R.FAULT_LOG_WR = s.reg
      R.FAULT_LOG_WR + 1 ∧ (4096 ≤ (s.reg R.FAULT_LOG_WR - s.reg R.FAULT_LOG_RD).toInt → (s.logFault e).bit
      R.FAULT_EVT F.FAULT_EVT_LOGOVF = true ∧ (s.logFault e).fld R.FAULT_LOG_LOST F.FAULT_LOG_LOST_COUNT = min (s.fld
      R.FAULT_LOG_LOST F.FAULT_LOG_LOST_COUNT + 1) (2 ^ F.FAULT_LOG_LOST_COUNT.width - 1)) ∧ ((s.reg R.FAULT_LOG_WR -
      s.reg R.FAULT_LOG_RD).toInt < 4096 → (s.logFault e).reg R.FAULT_LOG_LOST = s.reg R.FAULT_LOG_LOST) ∧ (e.kind =
      1 → (s.logFault e).bit R.FAULT_EVT F.FAULT_EVT_PERM = true) ∧ (e.kind = 2 → (s.logFault e).bit R.FAULT_EVT
      F.FAULT_EVT_RETIRE = true) ∧ (e.kind = 3 → (s.logFault e).bit R.FAULT_EVT F.FAULT_EVT_READMIT = true))

/-- Link enable, disable, symbol lock, port up, lane-marker and skip sets do what the rules say (R36, R40, R42, R44,
R57, R58). Clauses beyond the rules are the model's choices of log entries 15, 17, 19, 107, 108. -/
def Obligations.LinkBringUp : Prop :=
  (∀ (r : Requester) (v : Word) (s : State), s.bit R.LINK_CTRL F.LINK_CTRL_EN = false →
    Answers (.linkEnable r v) s fun t => t.link.mode = getField F.LINK_CTRL_MODE v ∧ t.link.rate = getField
        F.LINK_CTRL_RATE v ∧ t.bit R.LINK_CTRL F.LINK_CTRL_EN = true ∧ t.portUp 0 = false ∧ t.portUp 1 = false ∧ (∀ p
        : Fin 2, portLanes t.link.mode p ≠ [] → (t.port p).starting = true ∧ t.regN (R.LINK_Pp_SEQ p) = 0 ∧ (t.port
        p).txNext = 0 ∧ (t.port p).limit = [512, 512, 512, 512, 512, 512, 512, 512, 256, 64]) ∧ t.resp = some
        ⟨reqCode r, true, []⟩ ∧ Keeps [.resp, .log, .link, .subs, .lastEvents] [.LINK_CTRL, .LINK_STAT, .LINK_EVT,
        .LINK_Pp_SEQ, .LINK_LANEn_STAT, .FAULT_EVT, .FAULT_LOG_WR, .FAULT_LOG_LOST] s t) ∧
  (∀ (r : Requester) (v : Word) (s : State), s.bit R.LINK_CTRL F.LINK_CTRL_EN = true →
    Answers (.linkDisable r v) s fun t => t.bit R.LINK_CTRL F.LINK_CTRL_EN = false ∧ t.portUp 0 = false ∧ t.portUp 1
        = false ∧ (∀ p : Fin 2, s.portUp p = true ∨ (s.port p).starting = true → (t.port p).unacked = [] ∧ (t.port
        p).waiting = [] ∧ t.bit R.LINK_EVT (if p = 0 then F.LINK_EVT_P0DOWN else F.LINK_EVT_P1DOWN) = true) ∧ t.resp
        = some ⟨reqCode r, true, []⟩ ∧ Keeps [.resp, .log, .link, .subs, .lastEvents] [.LINK_CTRL, .LINK_STAT,
        .LINK_EVT, .LINK_Pp_SEQ, .LINK_LANEn_STAT, .FAULT_EVT, .FAULT_LOG_WR, .FAULT_LOG_LOST] s t) ∧
  (∀ (n : Fin 8) (inverted : Bool) (s : State), ((s.port (portOfLane s.link.mode n)).starting = true ∨ s.bit
      (R.LINK_LANEn_STAT n) F.LINK_LANEn_STAT_QUALIFYING = true) →
    Answers (.symbolLock n inverted) s fun t => t.bit (R.LINK_LANEn_STAT n) F.LINK_LANEn_STAT_LOCK = true ∧ (t.lane
        n).inverted = inverted ∧ Keeps [.link] [.LINK_LANEn_STAT] s t) ∧
  (∀ (p : Fin 2) (skews : List Nat) (s : State) (good : List (Nat × Nat)), (s.port p).starting = true → good =
      ((portLanes s.link.mode p).zip skews).filter (fun e => s.admits e.1 e.2) → good ≠ [] →
    Answers (.portUp p skews) s fun t => t.portUp p = true ∧ (t.port p).starting = false ∧ (t.port p).rxm = laneMask
        (good.map (·.1)) ∧ Keeps [.link] [.LINK_STAT, .LINK_LANEn_STAT] s t) ∧
  (∀ (n : Fin 8) (ln gen txm rxm mode chk : Byte) (s : State) (p : Nat), p = portOfLane s.link.mode n → chk = ln ^^^
      gen ^^^ txm ^^^ rxm ^^^ mode → (s.port p).rx ≠ .dormant → ((s.port p).starting = true ∨ (s.portUp p = true ∧ 0
      < modSub 256 gen.toNat (s.port p).hostGen ∧ modSub 256 gen.toNat (s.port p).hostGen < 128)) →
    Answers (.laneMarkerSetReceived n ln gen txm rxm mode chk) s fun t => (t.port p).hostGen = gen.toNat ∧ (t.port
        p).hostTxm = txm.toNat ∧ (t.port p).hostRxm = rxm.toNat ∧ Keeps [.log, .link, .subs, .lastEvents]
        [.LINK_STAT, .LINK_EVT, .LINK_LANEn_STAT, .LINK_LANEn_CODEERR, .LINK_LANEn_DISPERR, .FAULT_EVT,
        .FAULT_LOG_WR, .FAULT_LOG_LOST] s t) ∧
  (∀ (n : Fin 8) (insert : Bool) (s : State),
    Answers (.skipSetReceived n insert) s fun t => (t.lane n).elastic = (s.lane n).elastic + (if insert then 1 else
        -1) ∧ Keeps [.link] [] s t)

/-- Packets and ordered sets received on a port that is up are judged, accepted and handed on (R43, R45, R47, R48,
R52, R58, R60, R63). Clauses beyond the rules are the model's choices of log entries 105, 109. -/
def Obligations.LinkPackets : Prop :=
  (∀ (p : Fin 2) (s : State), s.portUp p = true →
    Answers (.eieSetReceived p) s fun t => ((t.port p).rx = (if (s.port p).dormantDue = true ∨ s.fld R.LINK_STAT
        (pwrField p) = 2 then .dormant else .standby)) ∧ Keeps [.link] [] s t) ∧
  (∀ (p : Fin 2) (lanes : List (Bool × List (BitVec 10))) (bytes : List Byte) (s : State) (k : Packet), s.portUp p =
      true → (s.port p).starting = false → (s.port p).rx = .active → s.stripingGood p = true → s.lanesBelowMax p
      lanes → s.packetOn p lanes = some (bytes.map some, .eop) → packetValid bytes = true → k = parsePacket bytes →
      (k.cls = 1 ∧ s.streamOnPort (k.target % 8) p = true ∨ k.cls = 2 ∨ k.cls = 3 ∨ k.cls = 5 ∧ (k.target = 0x20 ∨
      k.target = 0x21 ∨ k.target = 0x22)) → (leAt bytes 4 2).testBit 12 = false → (leAt bytes 4 2).testBit 13 = false
      → k.seq = s.fld (R.LINK_Pp_SEQ p) F.LINK_Pp_SEQ_RXNEXT → overCredit (s.port p) k = false →
    Answers (.packetReceived p lanes) s fun t => (t.port p).accepted = (s.port p).accepted ++ [k] ∧ t.fld
        (R.LINK_Pp_SEQ p) F.LINK_Pp_SEQ_RXNEXT = (k.seq + 1) % 4096 ∧ (t.port p).ackPending = (s.port p).ackPending +
        1 ∧ (t.port p).nakPending = false ∧ Keeps [.log, .link, .subs, .lastEvents] [.LINK_STAT, .LINK_EVT,
        .LINK_Pp_CRCERR, .LINK_Pp_DUP, .LINK_Pp_SEQERR, .LINK_Pp_SEQ, .LINK_LANEn_STAT, .LINK_LANEn_CODEERR,
        .LINK_LANEn_DISPERR, .FAULT_EVT, .FAULT_LOG_WR, .FAULT_LOG_LOST] s t) ∧
  (∀ (p : Fin 2) (lanes : List (Bool × List (BitVec 10))) (l : List (Option Byte)) (e : PacketEnd) (s : State),
      s.portUp p = true → (s.port p).starting = false → (s.port p).rx = .active → s.stripingGood p = true →
      s.lanesBelowMax p lanes → s.packetOn p lanes = some (l, e) → e ≠ .ebp → (e = .eop → l.all (·.isSome) = true →
      packetValid (l.map (·.getD 0)) = false) → leAt (l.map (·.getD 0)) 0 1 / 16 ≠ 6 → (l.length < 4 ∨ modSub 4096
      (leAt (l.map (·.getD 0)) 2 2 % 4096) (s.fld (R.LINK_Pp_SEQ p) F.LINK_Pp_SEQ_RXNEXT) ≤ 1023) →
    Answers (.packetReceived p lanes) s fun t => t.fld (R.LINK_Pp_CRCERR p) F.LINK_Pp_CRCERR_COUNT = min (s.fld
        (R.LINK_Pp_CRCERR p) F.LINK_Pp_CRCERR_COUNT + 1) 0xFFFFFFFF ∧ (t.port p).nakPending = ((s.port p).nakPending
        || !(s.port p).nakOut) ∧ (t.port p).accepted = (s.port p).accepted ∧ t.regN (R.LINK_Pp_SEQ p) = s.regN
        (R.LINK_Pp_SEQ p) ∧ Keeps [.log, .link, .subs, .lastEvents] [.LINK_STAT, .LINK_EVT, .LINK_Pp_CRCERR,
        .LINK_Pp_DUP, .LINK_Pp_SEQERR, .LINK_Pp_SEQ, .LINK_LANEn_STAT, .LINK_LANEn_CODEERR, .LINK_LANEn_DISPERR,
        .FAULT_EVT, .FAULT_LOG_WR, .FAULT_LOG_LOST] s t) ∧
  (∀ (p : Fin 2) (lanes : List (Bool × List (BitVec 10))) (l : List (Option Byte)) (e : PacketEnd) (s : State),
      s.portUp p = true → (s.port p).starting = false → (s.port p).rx = .active → s.stripingGood p = true →
      s.lanesBelowMax p lanes → s.packetOn p lanes = some (l, e) → e ≠ .ebp → (e = .eop → l.all (·.isSome) = true →
      packetValid (l.map (·.getD 0)) = false) → leAt (l.map (·.getD 0)) 0 1 / 16 = 6 →
    Answers (.packetReceived p lanes) s fun t => t.fld (R.LINK_Pp_CRCERR p) F.LINK_Pp_CRCERR_COUNT = min (s.fld
        (R.LINK_Pp_CRCERR p) F.LINK_Pp_CRCERR_COUNT + 1) 0xFFFFFFFF ∧ t.port p = s.port p ∧ Keeps [.log, .link,
        .subs, .lastEvents] [.LINK_STAT, .LINK_EVT, .LINK_Pp_CRCERR, .LINK_Pp_DUP, .LINK_Pp_SEQERR, .LINK_Pp_SEQ,
        .LINK_LANEn_STAT, .LINK_LANEn_CODEERR, .LINK_LANEn_DISPERR, .FAULT_EVT, .FAULT_LOG_WR, .FAULT_LOG_LOST] s t) ∧
  (∀ (p : Fin 2) (lanes : List (Bool × List (BitVec 10))) (l : List (Option Byte)) (e : PacketEnd) (s : State),
      s.portUp p = true → (s.port p).starting = false → (s.port p).rx = .active → s.stripingGood p = true →
      s.lanesBelowMax p lanes → s.packetOn p lanes = some (l, e) → e = .ebp →
    Answers (.packetReceived p lanes) s fun t => t.port p = s.port p ∧ t.regN (R.LINK_Pp_SEQ p) = s.regN
        (R.LINK_Pp_SEQ p) ∧ t.regN (R.LINK_Pp_CRCERR p) = s.regN (R.LINK_Pp_CRCERR p) ∧ Keeps [.log, .link, .subs,
        .lastEvents] [.LINK_STAT, .LINK_EVT, .LINK_Pp_CRCERR, .LINK_Pp_DUP, .LINK_Pp_SEQERR, .LINK_Pp_SEQ,
        .LINK_LANEn_STAT, .LINK_LANEn_CODEERR, .LINK_LANEn_DISPERR, .FAULT_EVT, .FAULT_LOG_WR, .FAULT_LOG_LOST] s t) ∧
  (∀ (p : Fin 2) (lanes : List (Bool × List (BitVec 10))) (s : State), s.stripingGood p = false → s.lanesBelowMax p
      lanes →
    Answers (.packetReceived p lanes) s fun t => t.port p = s.port p ∧ t.regN (R.LINK_Pp_SEQ p) = s.regN
        (R.LINK_Pp_SEQ p) ∧ t.regN (R.LINK_Pp_CRCERR p) = s.regN (R.LINK_Pp_CRCERR p) ∧ Keeps [.log, .link, .subs,
        .lastEvents] [.LINK_STAT, .LINK_EVT, .LINK_Pp_CRCERR, .LINK_Pp_DUP, .LINK_Pp_SEQERR, .LINK_Pp_SEQ,
        .LINK_LANEn_STAT, .LINK_LANEn_CODEERR, .LINK_LANEn_DISPERR, .FAULT_EVT, .FAULT_LOG_WR, .FAULT_LOG_LOST] s t) ∧
  (∀ (p : Fin 2) (s : State) (k : Packet) (rest : List Packet), takeFirst (fun k => k.cls = 1) (s.port p).accepted =
      some (k, rest) →
    Answers (.streamDataPacket p) s fun t => (t.port p).accepted = rest ∧ t.fifo (k.target % 8) = s.fifo (k.target %
        8) ++ [⟨k.payload.take (k.payload.length - k.pad), packetUnits k.payload.length, p⟩] ∧ Keeps [.link, .dma] []
        s t) ∧
  (∀ (p : Fin 2) (s : State) (k : Packet) (rest : List Packet), takeFirst (fun k => k.cls = 6) (s.port p).accepted =
      some (k, rest) → (s.port p).hostLimits = none →
    Answers (.creditPacketReceived p) s fun t => (t.port p).accepted = rest ∧ (t.port p).hostLimits = some
        (creditWord k.payload 10, creditWord k.payload 11) ∧ Keeps [.link] [.LINK_STAT, .LINK_LANEn_STAT] s t)

/-- What the line code and the striping send is read back, and a packet's bytes read as the packet (R38, R43, R45,
R47). Clauses beyond the rules are the model's choices of log entries 101, 102. -/
def Obligations.LinkLineCode : Prop :=
  ((∀ (rd : Bool) (l : List Sym), readSyms rd (lineSyms rd l) = (l.map some, 0, 0)) ∧ (∀ (n : Nat) (k : Packet) (ack
      : Nat), 0 < n → findPacket (destripe ((List.range n).map (fun j => (stripe n j (packetSyms k ack)).map some)))
      = some ((packetBytes k ack).map some, .eop)) ∧ (∀ (k : Packet) (ack : Nat), k.cls < 16 → k.target < 256 → k.seq
      < 4096 → k.addr < 2 ^ 40 → k.pad < 16 → (k.cls = 1 → k.addr = 0) → (k.cls ≠ 1 → k.pad = 0) → k.status < 256 →
      k.dlen < 65536 → k.payload.length < 65536 → parsePacket (packetBytes k ack) = k))

/-- Credit updates, acknowledgements, NAKs and replays of a port (R53, R54, R55, R58, R59). Clauses beyond the rules
are the model's choices of log entries 20, 22, 110. -/
def Obligations.LinkAcknowledges : Prop :=
  (∀ (p : Fin 2) (s : State), s.maySpeak p = true → creditDue s.now (s.port p) = true →
    Answers (.creditUpdateSend p) s fun t => (t.port p).lastCredit = some ⟨(s.fld (R.LINK_Pp_SEQ p)
        F.LINK_Pp_SEQ_RXNEXT + 4095) % 4096, false, (s.port p).limit⟩ ∧ (t.port p).sentLimit = (s.port p).limit ∧
        (t.port p).ackPending = 0 ∧ (t.port p).bringUp = (s.port p).bringUp - 1 ∧ Keeps [.link] [.LINK_STAT,
        .LINK_LANEn_STAT] s t) ∧
  (∀ (p : Fin 2) (s : State), s.maySpeak p = true → s.ackDue p = true →
    Answers (.ackTimerExpiry p) s fun t => (t.port p).lastCredit = some ⟨(s.fld (R.LINK_Pp_SEQ p)
        F.LINK_Pp_SEQ_RXNEXT + 4095) % 4096, false, (s.port p).limit⟩ ∧ (t.port p).ackPending = 0 ∧ Keeps [.link]
        [.LINK_STAT, .LINK_LANEn_STAT] s t) ∧
  (∀ (p : Fin 2) (s : State), s.maySpeak p = true → (s.port p).nakPending = true → (s.port p).nakCount + 1 < max 1
      (s.fld R.LINK_REPLAY_MAX F.LINK_REPLAY_MAX_COUNT) →
    Answers (.nakTransmit p) s fun t => (t.port p).lastCredit = some ⟨(s.fld (R.LINK_Pp_SEQ p) F.LINK_Pp_SEQ_RXNEXT +
        4095) % 4096, true, (s.port p).limit⟩ ∧ (t.port p).nakPending = false ∧ (t.port p).nakOut = true ∧ (t.port
        p).nakCount = (s.port p).nakCount + 1 ∧ t.fld (R.LINK_Pp_NAKTX p) F.LINK_Pp_NAKTX_COUNT = min (s.fld
        (R.LINK_Pp_NAKTX p) F.LINK_Pp_NAKTX_COUNT + 1) 0xFFFFFFFF ∧ Keeps [.log, .link, .subs, .lastEvents]
        [.LINK_STAT, .LINK_EVT, .LINK_Pp_NAKTX, .LINK_LANEn_STAT, .FAULT_EVT, .FAULT_LOG_WR, .FAULT_LOG_LOST] s t) ∧
  (∀ (p : Fin 2) (s : State), s.maySpeak p = true → (s.port p).nakOut = true → (s.port p).nakSince + 80 * s.fld
      R.LINK_TIMERS F.LINK_TIMERS_NAK_TO ≤ s.now → (s.port p).nakCount + 1 < max 1 (s.fld R.LINK_REPLAY_MAX
      F.LINK_REPLAY_MAX_COUNT) →
    Answers (.nakTimeout p) s fun t => (t.port p).lastCredit = some ⟨(s.fld (R.LINK_Pp_SEQ p) F.LINK_Pp_SEQ_RXNEXT +
        4095) % 4096, true, (s.port p).limit⟩ ∧ (t.port p).nakOut = true ∧ (t.port p).nakCount = (s.port p).nakCount
        + 1 ∧ Keeps [.log, .link, .subs, .lastEvents] [.LINK_STAT, .LINK_EVT, .LINK_Pp_NAKTX, .LINK_LANEn_STAT,
        .FAULT_EVT, .FAULT_LOG_WR, .FAULT_LOG_LOST] s t) ∧
  (∀ (p : Fin 2) (s : State) (ack : Nat), (s.port p).nakIn = some ack → s.maySpeak p = true →
    Answers (.nakReceived p) s fun t => (t.port p).nakIn = none ∧ (t.port p).lastReplay = ((s.port p).unacked.filter
        (fun k => decide (2048 ≤ modSub 4096 ack k.seq))).map (·.seq) ∧ (t.port p).lastReplay <+: (t.port
        p).unacked.map (·.seq) ∧ t.fld (R.LINK_Pp_NAKRX p) F.LINK_Pp_NAKRX_COUNT = min (s.fld (R.LINK_Pp_NAKRX p)
        F.LINK_Pp_NAKRX_COUNT + 1) 0xFFFFFFFF ∧ Keeps [.link] [.LINK_STAT, .LINK_Pp_NAKRX, .LINK_Pp_SEQ,
        .LINK_LANEn_STAT] s t) ∧
  (∀ (p : Fin 2) (s : State), s.maySpeak p = true → (s.port p).unacked ≠ [] → 3 * (s.port p).ackedAt + 4000 * s.fld
      R.LINK_TIMERS F.LINK_TIMERS_REPLAY_TO ≤ 3 * s.now →
    Answers (.replayTimeout p) s fun t => (t.port p).lastReplay = (s.port p).unacked.map (·.seq) ∧ (t.port p).unacked
        = (s.port p).unacked ∧ Keeps [.link] [.LINK_STAT, .LINK_LANEn_STAT] s t)

/-- Lane retirement, its causes, re-admission and its end (R15, R44, R62, R63, R67, R68, R69). Clauses beyond the
rules are the model's choices of log entries 18, 102, 103. -/
def Obligations.LinkLanes : Prop :=
  (∀ (n : Fin 8) (rd : Bool) (syms : List (BitVec 10)) (s : State), (s.port (portOfLane s.link.mode n)).rx = .active
      → s.bit (R.LINK_LANEn_STAT n) F.LINK_LANEn_STAT_RETIRED = false → (portLanes s.link.mode (portOfLane
      s.link.mode n)).contains n.val = true → 0 < s.fld R.LINK_LANE_THR F.LINK_LANE_THR_ERRMAX → s.fld
      R.LINK_LANE_THR F.LINK_LANE_THR_ERRMAX ≤ (readSyms rd syms).2.1 + (readSyms rd syms).2.2 →
    Answers (.laneRetirement n rd syms) s fun t => t.bit (R.LINK_LANEn_STAT n) F.LINK_LANEn_STAT_RETIRED = true ∧
        t.bit (R.LINK_LANEn_STAT n) F.LINK_LANEn_STAT_ACTIVE = false ∧ (t.fld R.LINK_EVT
        F.LINK_EVT_LANE_RETIRED).testBit n = true ∧ Keeps [.log, .link, .subs, .lastEvents] [.LINK_STAT, .LINK_EVT,
        .LINK_LANEn_STAT, .LINK_LANEn_CODEERR, .LINK_LANEn_DISPERR, .FAULT_EVT, .FAULT_LOG_WR, .FAULT_LOG_LOST] s t) ∧
  (∀ (n : Fin 8) (s : State), (s.port (portOfLane s.link.mode n)).rx = .active → s.bit (R.LINK_LANEn_STAT n)
      F.LINK_LANEn_STAT_RETIRED = false → (portLanes s.link.mode (portOfLane s.link.mode n)).contains n.val = true →
    Answers (.symbolLockLoss n) s fun t => t.bit (R.LINK_LANEn_STAT n) F.LINK_LANEn_STAT_LOCK = false ∧ t.bit
        (R.LINK_LANEn_STAT n) F.LINK_LANEn_STAT_RETIRED = true ∧ t.bit (R.LINK_LANEn_STAT n) F.LINK_LANEn_STAT_ACTIVE
        = false ∧ (t.fld R.LINK_EVT F.LINK_EVT_LANE_RETIRED).testBit n = true ∧ t.fld (R.LINK_LANEn_LOCKLOSS n)
        F.LINK_LANEn_LOCKLOSS_COUNT = min (s.fld (R.LINK_LANEn_LOCKLOSS n) F.LINK_LANEn_LOCKLOSS_COUNT + 1) 65535 ∧
        Keeps [.log, .link, .subs, .lastEvents] [.LINK_STAT, .LINK_EVT, .LINK_LANEn_STAT, .LINK_LANEn_LOCKLOSS,
        .FAULT_EVT, .FAULT_LOG_WR, .FAULT_LOG_LOST] s t) ∧
  (∀ (n : Fin 8) (s : State), s.bit (R.LINK_LANEn_STAT n) F.LINK_LANEn_STAT_RETIRED = false → (portLanes s.link.mode
      (portOfLane s.link.mode n)).contains n.val = true →
    Answers (.deskewOverflow n) s fun t => t.bit (R.LINK_LANEn_STAT n) F.LINK_LANEn_STAT_ALIGNED = false ∧ t.bit
        (R.LINK_LANEn_STAT n) F.LINK_LANEn_STAT_RETIRED = true ∧ t.bit (R.LINK_LANEn_STAT n) F.LINK_LANEn_STAT_ACTIVE
        = false ∧ (t.fld R.LINK_EVT F.LINK_EVT_LANE_RETIRED).testBit n = true ∧ Keeps [.log, .link, .subs,
        .lastEvents] [.LINK_STAT, .LINK_EVT, .LINK_LANEn_STAT, .FAULT_EVT, .FAULT_LOG_WR, .FAULT_LOG_LOST] s t) ∧
  (∀ (r : Requester) (v : Word) (s : State), s.link.mode ≤ 2 →
    Answers (.linkRetire r v) s fun t => (∀ n : Fin 8, (getField F.LINK_RETIRE_LANES v).testBit n = true → t.bit
        (R.LINK_LANEn_STAT n) F.LINK_LANEn_STAT_RETIRED = true) ∧ t.resp = some ⟨reqCode r, true, []⟩ ∧ Keeps [.resp,
        .log, .link, .subs, .lastEvents] [.LINK_STAT, .LINK_EVT, .LINK_LANEn_STAT, .FAULT_EVT, .FAULT_LOG_WR,
        .FAULT_LOG_LOST] s t) ∧
  (∀ (r : Requester) (v : Word) (s : State),
    Answers (.linkReadmit r v) s fun t => (∀ n : Fin 8, (getField F.LINK_READMIT_LANES v).testBit n = true → s.bit
        (R.LINK_LANEn_STAT n) F.LINK_LANEn_STAT_RETIRED = true → t.bit (R.LINK_LANEn_STAT n)
        F.LINK_LANEn_STAT_QUALIFYING = true ∧ t.bit (R.LINK_LANEn_STAT n) F.LINK_LANEn_STAT_LOCK = false ∧ t.fld
        (R.LINK_LANEn_STAT n) F.LINK_LANEn_STAT_PWR = 0) ∧ (∀ n : Fin 8, s.bit (R.LINK_LANEn_STAT n)
        F.LINK_LANEn_STAT_RETIRED = false → t.reg (R.LINK_LANEn_STAT n) = s.reg (R.LINK_LANEn_STAT n)) ∧ t.resp =
        some ⟨reqCode r, true, []⟩ ∧ Keeps [.resp, .link] [.LINK_LANEn_STAT] s t) ∧
  (∀ (n : Fin 8) (skew : Nat) (s : State), s.bit (R.LINK_LANEn_STAT n) F.LINK_LANEn_STAT_QUALIFYING = true → s.bit
      (R.LINK_LANEn_STAT n) F.LINK_LANEn_STAT_LOCK = true → s.qualified n = true → skew ≤ 64 →
    Answers (.laneQualificationComplete n skew) s fun t => t.bit (R.LINK_LANEn_STAT n) F.LINK_LANEn_STAT_QUALIFYING =
        false ∧ t.bit (R.LINK_LANEn_STAT n) F.LINK_LANEn_STAT_RETIRED = false ∧ t.bit (R.LINK_LANEn_STAT n)
        F.LINK_LANEn_STAT_ALIGNED = true ∧ t.fld (R.LINK_LANEn_STAT n) F.LINK_LANEn_STAT_SKEW = skew ∧ (t.fld
        R.LINK_EVT F.LINK_EVT_LANE_READMITTED).testBit n = true ∧ t.newest = some (1, 3, n.val, 8 + n.val) ∧ Keeps
        [.log, .link, .subs, .lastEvents] [.LINK_STAT, .LINK_EVT, .LINK_LANEn_STAT, .FAULT_EVT, .FAULT_LOG_WR,
        .FAULT_LOG_LOST] s t) ∧
  (∀ (n : Fin 8) (rd : Bool) (syms : List (BitVec 10)) (s : State), s.bit (R.LINK_LANEn_STAT n)
      F.LINK_LANEn_STAT_QUALIFYING = true → (s.port (portOfLane s.link.mode n)).rx = .active → 0 < (readSyms rd
      syms).2.1 + (readSyms rd syms).2.2 → (s.lane n).restarts < 4 →
    Answers (.readmitAbandon n rd syms) s fun t => t.bit (R.LINK_LANEn_STAT n) F.LINK_LANEn_STAT_QUALIFYING = true ∧
        (t.lane n).restarts = (s.lane n).restarts + 1 ∧ (t.lane n).qualSince = s.now ∧ t.fld (R.LINK_LANEn_CODEERR n)
        F.LINK_LANEn_CODEERR_COUNT = min (s.fld (R.LINK_LANEn_CODEERR n) F.LINK_LANEn_CODEERR_COUNT + (readSyms rd
        syms).2.1) 0xFFFFFFFF ∧ t.fld (R.LINK_LANEn_DISPERR n) F.LINK_LANEn_DISPERR_COUNT = min (s.fld
        (R.LINK_LANEn_DISPERR n) F.LINK_LANEn_DISPERR_COUNT + (readSyms rd syms).2.2) 0xFFFFFFFF ∧ Keeps [.log,
        .link, .subs, .lastEvents] [.LINK_EVT, .LINK_LANEn_STAT, .LINK_LANEn_CODEERR, .LINK_LANEn_DISPERR,
        .FAULT_EVT, .FAULT_LOG_WR, .FAULT_LOG_LOST] s t) ∧
  (∀ (n : Fin 8) (rd : Bool) (syms : List (BitVec 10)) (s : State), s.bit (R.LINK_LANEn_STAT n)
      F.LINK_LANEn_STAT_QUALIFYING = true → (s.port (portOfLane s.link.mode n)).rx = .active → 0 < (readSyms rd
      syms).2.1 + (readSyms rd syms).2.2 → 4 ≤ (s.lane n).restarts →
    Answers (.readmitAbandon n rd syms) s fun t => t.bit (R.LINK_LANEn_STAT n) F.LINK_LANEn_STAT_QUALIFYING = false ∧
        t.bit (R.LINK_LANEn_STAT n) F.LINK_LANEn_STAT_RETIRED = s.bit (R.LINK_LANEn_STAT n) F.LINK_LANEn_STAT_RETIRED
        ∧ t.bit R.LINK_EVT F.LINK_EVT_READMIT_FAIL = true ∧ t.fld (R.LINK_LANEn_CODEERR n) F.LINK_LANEn_CODEERR_COUNT
        = min (s.fld (R.LINK_LANEn_CODEERR n) F.LINK_LANEn_CODEERR_COUNT + (readSyms rd syms).2.1) 0xFFFFFFFF ∧ t.fld
        (R.LINK_LANEn_DISPERR n) F.LINK_LANEn_DISPERR_COUNT = min (s.fld (R.LINK_LANEn_DISPERR n)
        F.LINK_LANEn_DISPERR_COUNT + (readSyms rd syms).2.2) 0xFFFFFFFF ∧ Keeps [.log, .link, .subs, .lastEvents]
        [.LINK_EVT, .LINK_LANEn_STAT, .LINK_LANEn_CODEERR, .LINK_LANEn_DISPERR, .FAULT_EVT, .FAULT_LOG_WR,
        .FAULT_LOG_LOST] s t)

/-- Lane power states, Dormant, stream binding and the memory packets of a port (R45, R49, R50, R61, R69, R70, R71,
R72). Clauses beyond the rules are the model's choices of log entry 106. -/
def Obligations.LinkPowerAndMemory : Prop :=
  (∀ (r : Requester) (v : Word) (s : State), s.portUp 0 = true → s.portUp 1 = false → s.txActive 0 = true → getField
      F.LINK_PM_CTRL_P0_REQ v = 1 →
    Answers (.linkPowerRequest r v) s fun t => t.fld R.LINK_STAT F.LINK_STAT_P0PWR = 1 ∧ (t.port 0).lastSet = some
        .electricalIdle ∧ t.fld R.LINK_PM_CTRL F.LINK_PM_CTRL_IDLE_US = getField F.LINK_PM_CTRL_IDLE_US v ∧ t.resp =
        some ⟨reqCode r, true, []⟩ ∧ Keeps [.resp, .link] [.LINK_STAT, .LINK_EVT, .LINK_PM_CTRL, .LINK_LANEn_STAT] s
        t) ∧
  (∀ (p : Fin 2) (s : State), s.maySpeak p = true → s.txActive p = true → (s.port p).waiting = [] → s.fld
      R.LINK_PM_CTRL F.LINK_PM_CTRL_IDLE_US ≠ 0 → (s.port p).idleSince + 800 * s.fld R.LINK_PM_CTRL
      F.LINK_PM_CTRL_IDLE_US ≤ s.now →
    Answers (.idleTimerExpiry p) s fun t => t.fld R.LINK_STAT (pwrField p) = 1 ∧ (t.port p).lastSet = some
        .electricalIdle ∧ Keeps [.link] [.LINK_STAT, .LINK_LANEn_STAT] s t) ∧
  (∀ (p : Fin 2) (s : State), s.portUp p = true → s.fld R.LINK_STAT (pwrField p) = 1 → (s.port p).dormantDue = false →
    Answers (.standbyExit p) s fun t => t.fld R.LINK_STAT (pwrField p) = 0 ∧ Keeps [.link] [.LINK_STAT,
        .LINK_LANEn_STAT] s t) ∧
  (∀ (p : Fin 2) (s : State) (k : Packet) (rest : List Packet), (takeFirst (fun k => decide (k.cls = 5 ∧ k.target =
      0x20)) (s.port p).accepted = some (k, rest)) → s.anyPageArmed = true →
    Answers (.linkDormantRequest p) s fun t => (t.port p).accepted = rest ∧ t.bit R.LINK_EVT
        F.LINK_EVT_DORMANT_REFUSED = true ∧ Keeps [.link] [.LINK_STAT, .LINK_EVT, .LINK_LANEn_STAT] s t) ∧
  (∀ (p : Fin 2) (s : State) (k : Packet) (rest : List Packet), (takeFirst (fun k => decide (k.cls = 5 ∧ k.target =
      0x20)) (s.port p).accepted = some (k, rest)) → s.anyPageArmed = false → s.maySpeak p = true → (s.port
      p).waiting = [] → (s.port p).dormantDue = false → maySend (s.port p) ⟨5, 0x21, 0, 0, 0, 0, 0, List.replicate 16
      0⟩ = true →
    Answers (.linkDormantRequest p) s fun t => (t.port p).accepted = rest ∧ (t.port p).dormantDue = true ∧ (t.port
        p).unacked = (s.port p).unacked ++ [⟨5, 0x21, (s.port p).txNext, 0, 0, 0, 0, List.replicate 16 0⟩] ∧ Keeps
        [.link] [.LINK_STAT, .LINK_EVT, .LINK_LANEn_STAT] s t) ∧
  (∀ (p : Fin 2) (s : State) (k : Packet) (rest : List Packet), (takeFirst (fun k => decide (k.cls = 5 ∧ (k.target =
      0x21 ∨ k.target = 0x22))) (s.port p).accepted = some (k, rest)) → (s.port p).dormantAsked = true → k.target =
      0x22 →
    Answers (.linkDormantAnswer p) s fun t => (t.port p).accepted = rest ∧ (t.port p).dormantAsked = false ∧ t.bit
        R.LINK_EVT F.LINK_EVT_DORMANT_REFUSED = true ∧ Keeps [.link] [.LINK_STAT, .LINK_EVT, .LINK_LANEn_STAT] s t) ∧
  (∀ (p : Fin 2) (s : State) (k : Packet) (rest : List Packet), (takeFirst (fun k => decide (k.cls = 5 ∧ (k.target =
      0x21 ∨ k.target = 0x22))) (s.port p).accepted = some (k, rest)) → (s.port p).dormantAsked = true → k.target =
      0x21 → (s.port p).unacked = [] → (s.port p).waiting = [] →
    Answers (.linkDormantAnswer p) s fun t => (t.port p).dormantAsked = false ∧ t.fld R.LINK_STAT (pwrField p) = 2 ∧
        Keeps [.link] [.LINK_STAT, .LINK_EVT, .LINK_LANEn_STAT] s t) ∧
  (∀ (p : Fin 2) (s : State), s.portUp p = true → (s.port p).rx = .dormant →
    Answers (.signalDetectWake p) s fun t => (t.port p).starting = true ∧ (t.port p).rx = .active ∧ (t.port
        p).unacked = (s.port p).unacked ∧ (t.port p).limit = (s.port p).limit ∧ t.fld R.LINK_STAT (pwrField p) = 0 ∧
        Keeps [.link] [.LINK_STAT, .LINK_LANEn_STAT] s t) ∧
  (∀ (r : Requester) (v : Word) (s : State),
    Answers (.streamBindWrite r v) s fun t => t.fld R.LINK_STREAM_BIND F.LINK_STREAM_BIND_PORT = getField
        F.LINK_STREAM_BIND_PORT v ∧ t.resp = some ⟨reqCode r, true, []⟩ ∧ Keeps [.resp] [.LINK_STREAM_BIND] s t) ∧
  (∀ (p : Fin 2) (s : State) (k : Packet) (rest : List Packet), takeFirst isMemory (s.port p).accepted = some (k,
      rest) → k.cls = 2 → s.rangeRegion k.addr (k.payload.take k.dlen).length = some .shared → k.payload.take k.dlen
      ≠ [] →
    Answers (.memoryWritePacket p) s fun t => t.bytes k.addr (k.payload.take k.dlen).length = k.payload.take k.dlen ∧
        (∀ a, (a < k.addr ∨ k.addr + (k.payload.take k.dlen).length ≤ a) → t.byte a = s.byte a) ∧ (t.port p).accepted
        = rest ∧ Keeps [.highLatch, .halfWrites, .resp, .freeCtr, .log, .link, .dma, .granary, .dramValid, .miller,
        .pend, .landed, .weaver, .hcs, .pos, .br, .cam, .cal, .axes, .mot, .eth, .pages, .subs, .lastEvents, .pwr,
        .flash, .sec, .mem] [.any] s t) ∧
  (∀ (p : Fin 2) (s : State) (k : Packet) (rest : List Packet), takeFirst isMemory (s.port p).accepted = some (k,
      rest) → k.cls = 3 → s.rangeRegion k.addr k.dlen = some .shared → 0 < k.dlen →
    Answers (.memoryReadRequest p) s fun t => (t.port p).accepted = rest ∧ (t.port p).reads = (s.port p).reads ++
        [⟨k.target, k.addr, k.dlen, none, s.bytes k.addr k.dlen, false⟩] ∧ Keeps [.highLatch, .resp, .freeCtr, .log,
        .link, .granary, .miller, .pos, .cam, .subs, .lastEvents] [.any] s t) ∧
  (∀ (p : Fin 2) (s : State) (x : LinkRead) (rest : List LinkRead), takeFirst s.readDone (s.port p).reads = some (x,
      rest) →
    Answers (.memoryReadCompletion p) s fun t => (t.port p).reads = rest ∧ Keeps [.log, .link, .granary, .subs,
        .lastEvents] [.LINK_STAT, .LINK_LANEn_STAT, .FAULT_EVT, .FAULT_LOG_WR, .FAULT_LOG_LOST] s t)

/-- Enable, disable, pause, resume, skip, doorbell and ring reset of a DMA channel (R82, R84, R85, R101, R102, R103,
R107, R109). Clauses beyond the rules are the model's choices of log entries 25, 97, 112. -/
def Obligations.DmaChannelControl : Prop :=
  (∀ (r : Requester) (n : Fin 32) (v : Word) (s : State), s.dmaState n = 0 → s.bit (R.DMA_CHn_CTRL n)
      F.DMA_CHn_CTRL_EN = false → s.bit R.DMA_CTRL F.DMA_CTRL_EN = true → s.enableCause n = 0 → getField
      F.DMA_CHn_CTRL_PAUSE v = 0 →
    Answers (.channelEnable r n v) s fun t => t.bit (R.DMA_CHn_CTRL n) F.DMA_CHn_CTRL_EN = true ∧ t.dmaState n = 1 ∧
        t.resp = some ⟨reqCode r, true, []⟩ ∧ Keeps [.resp, .log, .link, .dma, .subs, .lastEvents] [.LINK_STAT,
        .LINK_LANEn_STAT, .DMA_HALT_EVT, .DMA_CHn_CTRL, .DMA_CHn_STAT, .FAULT_EVT, .FAULT_LOG_WR, .FAULT_LOG_LOST] s
        t) ∧
  (∀ (r : Requester) (n : Fin 32) (v : Word) (s : State), s.bit (R.DMA_CHn_CTRL n) F.DMA_CHn_CTRL_EN = true →
      (s.dmaState n = 1 ∨ s.dmaState n = 2 ∨ s.dmaState n = 4 ∨ s.dmaState n = 5) →
    Answers (.channelDisable r n v) s fun t => t.bit (R.DMA_CHn_CTRL n) F.DMA_CHn_CTRL_EN = false ∧ t.dmaState n =
        (if s.dmaState n ≤ 2 then 3 else 0) ∧ t.resp = some ⟨reqCode r, true, []⟩ ∧ Keeps [.resp, .log, .link, .dma,
        .subs, .lastEvents] [.LINK_STAT, .LINK_LANEn_STAT, .DMA_HALT_EVT, .DMA_CHn_CTRL, .DMA_CHn_STAT, .FAULT_EVT,
        .FAULT_LOG_WR, .FAULT_LOG_LOST] s t) ∧
  (∀ (r : Requester) (n : Fin 32) (v : Word) (s : State), s.bit (R.DMA_CHn_CTRL n) F.DMA_CHn_CTRL_EN = true →
      (s.dmaState n = 1 ∨ s.dmaState n = 2) → getField F.DMA_CHn_CTRL_EN v = 1 →
    Answers (.channelPause r n v) s fun t => t.bit (R.DMA_CHn_CTRL n) F.DMA_CHn_CTRL_PAUSE = true ∧ t.dmaState n = 3
        ∧ t.resp = some ⟨reqCode r, true, []⟩ ∧ Keeps [.resp, .log, .link, .dma, .subs, .lastEvents] [.LINK_STAT,
        .LINK_LANEn_STAT, .DMA_HALT_EVT, .DMA_CHn_CTRL, .DMA_CHn_STAT, .FAULT_EVT, .FAULT_LOG_WR, .FAULT_LOG_LOST] s
        t) ∧
  (∀ (r : Requester) (n : Fin 32) (v : Word) (s : State), s.bit (R.DMA_CHn_CTRL n) F.DMA_CHn_CTRL_EN = true → s.bit
      R.DMA_CTRL F.DMA_CTRL_EN = true → s.dmaState n = 4 → getField F.DMA_CHn_CTRL_EN v = 1 →
    Answers (.channelUnpause r n v) s fun t => t.bit (R.DMA_CHn_CTRL n) F.DMA_CHn_CTRL_PAUSE = false ∧ t.dmaState n =
        (if (s.ch n).held.isEmpty then 1 else 2) ∧ t.resp = some ⟨reqCode r, true, []⟩ ∧ Keeps [.resp, .log, .link,
        .dma, .subs, .lastEvents] [.LINK_STAT, .LINK_LANEn_STAT, .DMA_HALT_EVT, .DMA_CHn_CTRL, .DMA_CHn_STAT,
        .FAULT_EVT, .FAULT_LOG_WR, .FAULT_LOG_LOST] s t) ∧
  (∀ (r : Requester) (n : Fin 32) (v : Word) (s : State), s.bit (R.DMA_CHn_CTRL n) F.DMA_CHn_CTRL_EN = true → s.bit
      R.DMA_CTRL F.DMA_CTRL_EN = true → s.dmaState n = 5 → (s.fld (R.DMA_CHn_STAT n) F.DMA_CHn_STAT_HALT_CAUSE ≠ 5 ∧
      s.fld (R.DMA_CHn_STAT n) F.DMA_CHn_STAT_HALT_CAUSE ≠ 6) → (getField F.DMA_CHn_CTRL_EN v = 1 ∧ getField
      F.DMA_CHn_CTRL_PAUSE v = 0 ∧ getField F.DMA_CHn_CTRL_SKIP v = 0) →
    Answers (.channelResume r n v) s fun t => t.dmaState n = (if (s.ch n).held.isEmpty then 1 else 2) ∧ t.fld
        (R.DMA_CHn_STAT n) F.DMA_CHn_STAT_HALT_CAUSE = 0 ∧ t.fld (R.DMA_CHn_STAT n) F.DMA_CHn_STAT_RETRYCNT = 0 ∧
        (t.ch n).held = (s.ch n).held ∧ t.newest = some (2, 3, n.val, 0x12) ∧ t.resp = some ⟨reqCode r, true, []⟩ ∧
        Keeps [.resp, .log, .link, .dma, .subs, .lastEvents] [.LINK_STAT, .LINK_LANEn_STAT, .DMA_HALT_EVT,
        .DMA_CHn_CTRL, .DMA_CHn_STAT, .FAULT_EVT, .FAULT_LOG_WR, .FAULT_LOG_LOST] s t) ∧
  (∀ (r : Requester) (n : Fin 32) (v : Word) (s : State) (d : Desc) (rest : List Desc), s.bit (R.DMA_CHn_CTRL n)
      F.DMA_CHn_CTRL_EN = true → s.bit R.DMA_CTRL F.DMA_CTRL_EN = true → s.dmaState n = 5 → s.fld (R.DMA_CHn_STAT n)
      F.DMA_CHn_STAT_HALT_CAUSE ∈ [1, 2, 3, 4] → (getField F.DMA_CHn_CTRL_EN v = 1 ∧ getField F.DMA_CHn_CTRL_PAUSE v
      = 0 ∧ getField F.DMA_CHn_CTRL_RESUME v = 0) → (s.ch n).held = d :: rest →
    Answers (.channelSkip r n v) s fun t => (t.ch n).held = d :: rest ∧ ((t.ch n).backStatus = some (if s.fld
        (R.DMA_CHn_STAT n) F.DMA_CHn_STAT_HALT_CAUSE = 3 ∨ d.valid = false then 4 else 2)) ∧ t.dmaState n = 2 ∧ t.fld
        (R.DMA_CHn_STAT n) F.DMA_CHn_STAT_HALT_CAUSE = 0 ∧ t.newest = some (2, 3, n.val, 0x13) ∧ t.resp = some
        ⟨reqCode r, true, []⟩ ∧ Keeps [.resp, .log, .link, .dma, .subs, .lastEvents] [.LINK_STAT, .LINK_LANEn_STAT,
        .DMA_HALT_EVT, .DMA_CHn_CTRL, .DMA_CHn_STAT, .FAULT_EVT, .FAULT_LOG_WR, .FAULT_LOG_LOST] s t) ∧
  (∀ (r : Requester) (n : Fin 32) (s : State),
    Answers (.doorbell r n) s fun t => (t.ch n).look = true ∧ (t.ch n).held = (s.ch n).held ∧ t.resp = some ⟨reqCode
        r, true, []⟩ ∧ Keeps [.resp, .dma] [] s t) ∧
  (∀ (r : Requester) (n : Fin 32) (v : Word) (s : State), s.dmaState n = 0 →
    Answers (.ringReset r n v) s fun t => t.fld (R.DMA_CHn_RING_HI n) F.DMA_CHn_RING_HI_SIZE_LOG2 = getField
        F.DMA_CHn_RING_HI_SIZE_LOG2 v ∧ t.fld (R.DMA_CHn_RING_HI n) F.DMA_CHn_RING_HI_BASE_HI = getField
        F.DMA_CHn_RING_HI_BASE_HI v ∧ t.regN (R.DMA_CHn_HEAD n) = 0 ∧ (t.ch n).held = [] ∧ (t.ch n).bursts =
        lateBursts (s.ch n).bursts ∧ t.resp = some ⟨reqCode r, true, []⟩ ∧ Keeps [.resp, .dma] [.DMA_CHn_RING_HI,
        .DMA_CHn_HEAD] s t) ∧
  (∀ (r : Requester) (n : Fin 32) (v : Word) (s : State), s.dmaState n ≠ 0 →
    Answers (.ringReset r n v) s fun t => Keeps [.resp] [] s t)

/-- Fetch of descriptors, halt on an invalid one, abort and its completion, and the frame start of a capture channel
(R77, R80, R82, R104, R105, R106, R317). Clauses beyond the rules are the model's choices of log entries 23, 25, 95,
96, 98, 118. -/
def Obligations.DmaDescriptors : Prop :=
  (∀ (n : Fin 32) (s : State) (b : Burst) (l : List Byte), (s.ch n).bursts.find? (fun b => b.idx == fetchIdx &&
      !b.retry && (s.burstData b).isSome) = some b → s.burstData b = some l → (leAt l 0 1).testBit 0 = true →
      s.ringSize n ≤ 4096 →
    Answers (.descriptorFetch n) s fun t => (t.ch n).held = (s.ch n).held ++ [parseDesc n b.off l] ∧ (t.ch n).bursts
        = (s.ch n).bursts.filter (fun c => c != b) ∧ t.dmaFetch n = (b.off + 1) % s.ringSize n ∧ t.dmaState n = (if
        s.dmaState n = 1 then 2 else s.dmaState n) ∧ t.mem = s.mem ∧ Keeps [.dma, .granary] [.DMA_CHn_HEAD,
        .DMA_CHn_STAT] s t) ∧
  (∀ (n : Fin 32) (s : State) (b : Burst) (l : List Byte), (s.ch n).bursts.find? (fun b => b.idx == fetchIdx &&
      !b.retry && (s.burstData b).isSome) = some b → s.burstData b = some l → (leAt l 0 1).testBit 0 = false →
    Answers (.descriptorFetch n) s fun t => (t.ch n).look = false ∧ (t.ch n).held = (s.ch n).held ∧ (t.ch n).bursts =
        (s.ch n).bursts.filter (fun c => c != b) ∧ t.dmaFetch n = s.dmaFetch n ∧ t.dmaState n = s.dmaState n ∧ Keeps
        [.dma, .granary] [.DMA_CHn_HEAD, .DMA_CHn_STAT] s t) ∧
  (∀ (n : Fin 32) (s : State) (d : Desc) (rest : List Desc), (s.ch n).held = d :: rest → d.valid = false →
      (s.dmaState n = 2 ∨ s.dmaState n = 3) → outstanding (s.ch n) = 0 → (s.ch n).haltDue = 0 → (s.ch n).backStatus =
      none →
    Answers (.invalidDescriptorHalt n) s fun t => t.dmaState n = 5 ∧ t.fld (R.DMA_CHn_STAT n)
        F.DMA_CHn_STAT_HALT_CAUSE = 3 ∧ (t.fld R.DMA_HALT_EVT F.DMA_HALT_EVT_CH).testBit n = true ∧ t.newest = some
        (2, 2, n.val, 3) ∧ Keeps [.log, .link, .dma, .subs, .lastEvents] [.LINK_STAT, .LINK_LANEn_STAT,
        .DMA_HALT_EVT, .DMA_CHn_STAT, .FAULT_EVT, .FAULT_LOG_WR, .FAULT_LOG_LOST] s t) ∧
  (∀ (r : Requester) (n : Fin 32) (v : Word) (s : State) (i : Nat), i = getField F.DMA_CHn_ABORT_INDEX v → s.dmaState
      n ≠ 0 → i < s.ringSize n → beingReturned (s.ch n) i = false → ((s.ch n).held.any (fun d => d.idx == i) = true ∨
      (s.rangeRegion (s.descAddr n i) 32 = some .shared ∧ (leAt (s.sramRead (s.descAddr n i) 32) 0 1).testBit 0 =
      true)) → (s.ch n).abort = none →
    Answers (.abortRequest r n v) s fun t => t.fld (R.DMA_CHn_STAT n) F.DMA_CHn_STAT_ABORT_RES = 1 ∧ (t.ch n).abort =
        some i ∧ t.dmaState n = (if s.dmaHead n = i then 6 else s.dmaState n) ∧ t.resp = some ⟨reqCode r, true, []⟩ ∧
        Keeps [.resp, .freeCtr, .log, .link, .dma, .granary, .dramValid, .pend, .landed, .weaver, .hcs, .cal, .axes,
        .eth, .pages, .subs, .lastEvents, .dram, .tones, .nozGain] [.LINK_STAT, .LINK_LANEn_STAT, .DMA_HALT_EVT,
        .DMA_CHn_STAT, .GRANARY_STAT, .GRANARY_EVT, .GRANARY_SR, .GRANARY_CHc_RDERR, .GRANARY_CHc_CAPAR,
        .GRANARY_CHc_RMWERR, .GRANARY_CHc_QUEUE, .WEAVER_KERNEL, .WEAVER_MASKLINE, .HC_STAT, .HC_EVT, .HC_COMBLINE,
        .HC_SCAN_PTR, .BR_CTRL, .BR_STAT, .BR_EVT, .BR_FMAX, .BR_SNAPLINE, .FAULT_STAT, .FAULT_EVT, .FAULT_LOG_WR,
        .FAULT_LOG_LOST, .CAL_HCh_NOW, .CAL_HCh_STAT, .CLKPWR_STAT, .CLKPWR_EVT] s t) ∧
  (∀ (r : Requester) (n : Fin 32) (v : Word) (s : State) (i : Nat), i = getField F.DMA_CHn_ABORT_INDEX v →
      (s.dmaState n = 0 ∨ s.ringSize n ≤ i ∨ beingReturned (s.ch n) i = true ∨ ((s.ch n).held.any (fun d => d.idx ==
      i) = false ∧ s.rangeRegion (s.descAddr n i) 32 = some .shared ∧ (leAt (s.sramRead (s.descAddr n i) 32) 0
      1).testBit 0 = false)) →
    Answers (.abortRequest r n v) s fun t => t.fld (R.DMA_CHn_STAT n) F.DMA_CHn_STAT_ABORT_RES = 2 ∧ t.dmaState n =
        s.dmaState n ∧ Keeps [.resp] [.DMA_CHn_STAT] s t) ∧
  (∀ (n : Fin 32) (s : State), s.dmaState n = 6 → (s.ch n).held = [] → outstanding (s.ch n) = 0 →
    Answers (.abortComplete n) s fun t => t.dmaState n = 0 ∧ (t.ch n).abort = none ∧ (t.ch n).bursts = lateBursts
        (s.ch n).bursts ∧ t.bit (R.DMA_CHn_CTRL n) F.DMA_CHn_CTRL_EN = false ∧ t.dmaFetch n = t.dmaHead n ∧ Keeps
        [.dma] [.DMA_CHn_CTRL, .DMA_CHn_HEAD, .DMA_CHn_STAT] s t) ∧
  (∀ (p : Fin 4) (s : State) (l : List CamItem), (s.camPort p).fifo = .frameStart :: l → outstanding (s.ch (16 + p))
      = 0 → headComplete (s.ch (16 + p)) = false → (s.ch (16 + p)).held.any (fun d => decide (d.issued ≠ 0)) = false →
    Answers (.captureFrameStart p) s fun t => (t.camPort p).fifo = l ∧ (t.ch (16 + p)).frameUsed = 0 ∧ Keeps [.dma,
        .cam] [] s t) ∧
  (∀ (p : Fin 4) (s : State) (l : List CamItem), (s.camPort p).fifo = .frameStart :: l → outstanding (s.ch (16 + p))
      = 0 → headComplete (s.ch (16 + p)) = false → (s.ch (16 + p)).held.any (fun d => decide (d.issued ≠ 0)) = true →
    Answers (.captureFrameStart p) s fun t => (t.camPort p).fifo = (s.camPort p).fifo ∧ (t.ch (16 + p)).backStatus =
        some 3 ∧ Keeps [.dma, .cam] [] s t)

/-- Grant, completion, arrival, failure and draining of DMA bursts (R81, R84, R86, R87, R88, R89, R92, R94, R96, R97,
R98, R102). Clauses beyond the rules are the model's choices of log entries 24, 94, 95, 113, 117, 118. -/
def Obligations.DmaBursts : Prop :=
  (∀ (s : State) (lvl n k : Nat) (d : Desc), s.offering.grantee = some (lvl, n) → s.offering.wants n = some (.data d
      k) → fixedSrc n = false → s.offering.rangeRegion (d.src + d.issued) k = some .shared →
    Answers (.burstGrant) s fun t => (t.ch n).bursts = (s.offering.ch n).bursts ++ [⟨d.idx, d.issued, k, d.src +
        d.issued, d.dst + d.issued, some (s.sramRead (d.src + d.issued) k), none, none, false, 0, false⟩] ∧ (t.ch
        n).held = markIssued d.idx k (s.offering.ch n).held ∧ t.dma.last = s.dma.last.set lvl n ∧ Keeps [.log, .link,
        .dma, .granary, .miller, .cam, .subs, .lastEvents] [.DMA_CHn_STAT, .GRANARY_STAT, .GRANARY_SR, .FAULT_EVT,
        .FAULT_LOG_WR, .FAULT_LOG_LOST, .CAMn_STAT] s t) ∧
  (∀ (s : State) (lvl n : Nat), s.offering.grantee = some (lvl, n) → s.offering.wants n = some .fetch →
      s.offering.rangeRegion (s.offering.descAddr n (s.offering.dmaFetch n)) 32 = some .shared →
    Answers (.burstGrant) s fun t => (t.ch n).bursts = (s.offering.ch n).bursts ++ [⟨fetchIdx, s.offering.dmaFetch n,
        32, s.offering.descAddr n (s.offering.dmaFetch n), 0, some (s.sramRead (s.offering.descAddr n
        (s.offering.dmaFetch n)) 32), none, none, false, 0, false⟩] ∧ (t.ch n).held = (s.offering.ch n).held ∧
        t.dma.last = s.dma.last.set lvl n ∧ Keeps [.log, .link, .dma, .granary, .miller, .cam, .subs, .lastEvents]
        [.DMA_CHn_STAT, .GRANARY_STAT, .GRANARY_SR, .FAULT_EVT, .FAULT_LOG_WR, .FAULT_LOG_LOST, .CAMn_STAT] s t) ∧
  (∀ (s : State) (lvl n k : Nat) (d : Desc) (rest : List Desc), s.offering.grantee = some (lvl, n) → s.offering.wants
      n = some (.writeBack k) → (s.offering.ch n).held = d :: rest → s.offering.rangeRegion (s.offering.descAddr n
      d.idx) 32 = some .shared →
    Answers (.burstGrant) s fun t => (t.ch n).bursts = (s.offering.ch n).bursts ++ [⟨backIdx, k, 8, 0,
        s.offering.descAddr n d.idx, some (returnWords d k), none, none, false, 0, false⟩] ∧ (t.ch n).held = d ::
        rest ∧ t.dma.last = s.dma.last.set lvl n ∧ Keeps [.log, .link, .dma, .granary, .miller, .cam, .subs,
        .lastEvents] [.DMA_CHn_STAT, .GRANARY_STAT, .GRANARY_SR, .FAULT_EVT, .FAULT_LOG_WR, .FAULT_LOG_LOST,
        .CAMn_STAT] s t) ∧
  (∀ (n : Fin 32) (s : State), s.paceMode n = 1 → s.fld (R.DMA_CHn_PACE n) F.DMA_CHn_PACE_PACE_TO ≠ 0 → 0 < s.srcFill
      n → s.srcFill n < s.paceHigh n → (s.ch n).paceOn = false → (s.ch n).paceSince + 800 * s.fld (R.DMA_CHn_PACE n)
      F.DMA_CHn_PACE_PACE_TO ≤ s.now →
    Answers (.paceTimeout n) s fun t => (t.ch n).paceTimeout = true ∧ (t.ch n).held = (s.ch n).held ∧ (t.ch n).bursts
        = (s.ch n).bursts ∧ Keeps [.dma] [] s t) ∧
  (∀ (n : Fin 32) (s : State) (b : Burst) (d : List Byte), (s.ch n).bursts.find? (s.canComplete n) = some b → b.idx ≠
      backIdx → b.data = some d → s.sinkOf n b = .sram →
    Answers (.burstComplete n) s fun t => t.bytes b.dst (d.take b.len).length = d.take b.len ∧ (∀ a, (a < b.dst ∨
        b.dst + (d.take b.len).length ≤ a) → t.byte a = s.byte a) ∧ (t.ch n).bursts = (s.ch n).bursts.filter (fun c
        => c != b) ∧ (t.ch n).held = markDone b.idx b.off b.len (s.ch n).held ∧ Keeps [.freeCtr, .log, .link, .dma,
        .granary, .miller, .subs, .lastEvents, .sram, .rings] [.LINK_STAT, .LINK_LANEn_STAT, .DMA_DONE_EVT,
        .DMA_CHn_HEAD, .DMA_CHn_STAT, .GRANARY_STAT, .GRANARY_SR, .FAULT_EVT, .FAULT_LOG_WR, .FAULT_LOG_LOST] s t) ∧
  (∀ (n : Fin 32) (s : State) (b : Burst) (l : List Byte) (d : Desc) (rest : List Desc), (s.ch n).bursts.find?
      (s.canComplete n) = some b → b.idx = backIdx → b.data = some l → l.length = 8 → b.wr = none → s.rangeRegion
      b.dst 32 = some .shared → (s.ch n).held = d :: rest → (s.ch n).abort = none → (s.ch n).backlog = [] →
      s.ringSize n ≤ 4096 →
    Answers (.burstComplete n) s fun t => t.bytes (b.dst + 24) 4 = l.take 4 ∧ t.bytes b.dst 4 = l.drop 4 ∧ (∀ a, (a <
        b.dst ∨ (b.dst + 4 ≤ a ∧ a < b.dst + 24) ∨ b.dst + 28 ≤ a) → t.byte a = s.byte a) ∧ (t.ch n).held = rest ∧
        t.dmaHead n = (d.idx + 1) % s.ringSize n ∧ t.dmaState n = (if s.dmaState n = 2 ∧ rest = [] then 1 else
        s.dmaState n) ∧ Keeps [.freeCtr, .log, .link, .dma, .granary, .miller, .subs, .lastEvents, .sram, .rings]
        [.LINK_STAT, .LINK_LANEn_STAT, .DMA_DONE_EVT, .DMA_CHn_HEAD, .DMA_CHn_STAT, .GRANARY_STAT, .GRANARY_SR,
        .FAULT_EVT, .FAULT_LOG_WR, .FAULT_LOG_LOST] s t) ∧
  (∀ (n : Fin 32) (s : State) (b : Burst), (s.ch n).bursts.find? s.hasArrived = some b →
    Answers (.writeArrival n) s fun t => b ∉ (t.ch n).bursts ∧ Keeps [.dma, .granary] [] s t) ∧
  (∀ (n : Fin 32) (s : State) (b : Burst) (a : Nat), (s.ch n).bursts.find? (fun b => (s.burstFailed n b).isSome) =
      some b → s.burstFailed n b = some a → s.sinkOf n b = .sram → b.idx ≠ fetchIdx → s.dmaState n ≠ 6 → (∀ c ∈ (s.ch
      n).bursts, c ≠ b → c.retry = false ∧ (c.okd = true ∨ c.fails = 0)) → b.fails + 1 ≤ s.fld (R.DMA_CHn_CFG n)
      F.DMA_CHn_CFG_RETRY → (recent s.now (ms (s.fld R.DMA_ERR_THR F.DMA_ERR_THR_WINDOW)) (s.ch n).stamps).length <
      s.fld R.DMA_ERR_THR F.DMA_ERR_THR_ERRMAX →
    Answers (.burstFailure n) s fun t =>
        { b with fails := b.fails + 1, retry := true, okd := false, data := s.burstData b } ∈ (t.ch n).bursts ∧
        t.regN (R.DMA_CHn_ERRADDR_LO n) = a % 2 ^ 32 ∧ t.fld (R.DMA_CHn_STAT n) F.DMA_CHn_STAT_RETRYCNT = min
        (b.fails + 1) 15 ∧ t.dmaState n = s.dmaState n ∧ t.newest = some (2, 0, n.val, 0x10) ∧ Keeps [.freeCtr, .log,
        .link, .dma, .granary, .miller, .weaver, .cam, .subs, .lastEvents, .records] [.LINK_STAT, .LINK_LANEn_STAT,
        .DMA_HALT_EVT, .DMA_CHn_STAT, .DMA_CHn_ERRADDR_LO, .DMA_CHn_ERRADDR_HI, .GRANARY_STAT, .GRANARY_SR,
        .FAULT_EVT, .FAULT_LOG_WR, .FAULT_LOG_LOST, .CAM_EVT, .CAMn_STAT, .CAMn_CNT_DROP, .Pp_RES_WR,
        .Pp_CNT_RESLOST] s t) ∧
  (∀ (n : Fin 32) (s : State) (b : Burst), (s.ch n).bursts.find? (fun b => s.writeAnswered b && !s.hasArrived b &&
      !(s.ch n).held.any (fun d => d.idx == b.idx && d.barrier)) = some b → b.fails + 1 ≤ s.fld (R.DMA_CHn_CFG n)
      F.DMA_CHn_CFG_RETRY → (recent s.now (ms (s.fld R.DMA_ERR_THR F.DMA_ERR_THR_WINDOW)) (s.ch n).stamps).length <
      s.fld R.DMA_ERR_THR F.DMA_ERR_THR_ERRMAX →
    Answers (.lateWriteFailure n) s fun t => (t.fld R.DMA_LATE_EVT F.DMA_LATE_EVT_CH).testBit n = true ∧
        { b with idx := lateIdx, fails := b.fails + 1, retry := true, okd := false, data := s.burstData b } ∈ (t.ch
        n).bursts ∧ t.newest = some (2, 0, n.val, 0x11) ∧ Keeps [.freeCtr, .log, .link, .dma, .granary, .miller,
        .weaver, .cam, .subs, .lastEvents, .records] [.LINK_STAT, .LINK_LANEn_STAT, .DMA_HALT_EVT, .DMA_LATE_EVT,
        .DMA_CHn_STAT, .DMA_CHn_ERRADDR_LO, .DMA_CHn_ERRADDR_HI, .GRANARY_STAT, .GRANARY_SR, .FAULT_EVT,
        .FAULT_LOG_WR, .FAULT_LOG_LOST, .CAM_EVT, .CAMn_STAT, .CAMn_CNT_DROP, .Pp_RES_WR, .Pp_CNT_RESLOST] s t) ∧
  (∀ (n : Fin 32) (s : State), s.dmaState n = 3 → outstanding (s.ch n) = 0 → (s.ch n).haltDue = 0 → (s.ch
      n).bursts.any (·.retry) = false → s.dueStatus n = none →
    Answers (.drainComplete n) s fun t => t.dmaState n = (if s.bit (R.DMA_CHn_CTRL n) F.DMA_CHn_CTRL_EN then 4 else
        0) ∧ (t.ch n).held = (s.ch n).held ∧ Keeps [.log, .link, .dma, .subs, .lastEvents] [.LINK_STAT,
        .LINK_LANEn_STAT, .DMA_HALT_EVT, .DMA_CHn_STAT, .FAULT_EVT, .FAULT_LOG_WR, .FAULT_LOG_LOST] s t) ∧
  (∀ (n : Fin 32) (s : State), outstanding (s.ch n) = 0 → (0 < (s.ch n).haltDue ∧ (s.ch n).haltDue < 16) →
    Answers (.drainComplete n) s fun t => t.dmaState n = 5 ∧ t.fld (R.DMA_CHn_STAT n) F.DMA_CHn_STAT_HALT_CAUSE =
        (s.ch n).haltDue ∧ (t.ch n).haltDue = 0 ∧ (t.fld R.DMA_HALT_EVT F.DMA_HALT_EVT_CH).testBit n = true ∧
        t.newest = some (2, 2, n.val, (s.ch n).haltDue) ∧ Keeps [.log, .link, .dma, .subs, .lastEvents] [.LINK_STAT,
        .LINK_LANEn_STAT, .DMA_HALT_EVT, .DMA_CHn_STAT, .FAULT_EVT, .FAULT_LOG_WR, .FAULT_LOG_LOST] s t)

/-- DRAM requests enter their queue, are issued, and complete as reads and writes (R26, R29, R113, R114, R115, R117,
R118, R119, R123, R124, R134). Clauses beyond the rules are the model's choices of log entries 26, 79, 115. -/
def Obligations.GranaryRequests : Prop :=
  (∀ (r : Requester) (a n c : Nat) (s : State), (dramBase ≤ a ∧ a + n ≤ dramBase + s.dramBytes) → (0 < n ∧ a % 64 + n
      ≤ 64) → s.bit R.GRANARY_SR F.GRANARY_SR_IN_SR = false → c = (s.place (a - a % 64)).ch → s.chState c < 4 →
      ((s.chan c).held = [] ∧ (s.chan c).queue.length < 128) →
    Answers (.dramRequest r a n none) s fun t => (t.chan c).queue = (s.chan c).queue ++ [⟨s.granary.nextId, 0,
        reqCode r, a - a % 64, a % 64, n, none, 0, 0, 0⟩] ∧ t.granary.nextId = s.granary.nextId + 1 ∧ Keeps [.resp,
        .log, .granary, .subs, .lastEvents] [.GRANARY_STAT, .GRANARY_SR, .FAULT_EVT, .FAULT_LOG_WR, .FAULT_LOG_LOST]
        s t) ∧
  (∀ (r : Requester) (a n : Nat) (s : State), (dramBase ≤ a ∧ a + n ≤ dramBase + s.dramBytes) → (0 < n ∧ a % 64 + n ≤
      64) → s.dramAsleep = true →
    Answers (.dramRequest r a n none) s fun t => t.resp = some ⟨reqCode r, false, []⟩ ∧ t.newest = some (0x0C, 5,
        reqCode r, 4) ∧ Keeps [.resp, .log, .subs, .lastEvents] [.FAULT_EVT, .FAULT_LOG_WR, .FAULT_LOG_LOST] s t) ∧
  (∀ (c : Fin 2) (s : State) (i : Nat) (q : DramReq), (s.chState c = 2 ∨ s.chState c = 4) → s.bit R.CLKPWR_STAT
      F.CLKPWR_STAT_DDRLOCK = true → ((s.chan c).held = [] ∧ s.granary.fill = none) → ((s.chan c).forced = false ∧
      (s.chan c).zqOwed = 0) → i = s.chooseReq c (s.chan c).queue → (s.chan c).queue[i]? = some q → q.data = none →
    Answers (.commandSlot c none) s fun t => (t.chan c).flight = (s.chan c).flight ++ [{ q with since := s.now }] ∧
        (t.chan c).queue.length + 1 = (s.chan c).queue.length ∧ ((s.place q.addr).bank, (s.place q.addr).row) ∈
        (t.chan c).rows ∧ Keeps [.resp, .freeCtr, .log, .link, .dma, .granary, .pend, .landed, .weaver, .hcs, .cal,
        .axes, .eth, .pages, .subs, .lastEvents, .tones, .nozGain] [.LINK_STAT, .LINK_LANEn_STAT, .DMA_HALT_EVT,
        .DMA_CHn_STAT, .GRANARY_STAT, .GRANARY_EVT, .GRANARY_CHc_RDERR, .GRANARY_CHc_RMWERR, .GRANARY_CHc_QUEUE,
        .WEAVER_KERNEL, .WEAVER_MASKLINE, .HC_STAT, .HC_EVT, .HC_COMBLINE, .HC_SCAN_PTR, .BR_CTRL, .BR_STAT, .BR_EVT,
        .BR_FMAX, .BR_SNAPLINE, .FAULT_STAT, .FAULT_EVT, .FAULT_LOG_WR, .FAULT_LOG_LOST, .CAL_HCh_NOW, .CAL_HCh_STAT,
        .CLKPWR_STAT, .CLKPWR_EVT] s t) ∧
  (∀ (c : Fin 2) (seen : Option (List (List Byte))) (s : State), ((s.chState c ≠ 2 ∧ s.chState c ≠ 4) ∨ s.bit
      R.CLKPWR_STAT F.CLKPWR_STAT_DDRLOCK = false) →
    Answers (.commandSlot c seen) s fun t => t = s ∧ Keeps [.resp, .freeCtr, .log, .link, .dma, .granary, .pend,
        .landed, .weaver, .hcs, .cal, .axes, .eth, .pages, .subs, .lastEvents, .tones, .nozGain] [.LINK_STAT,
        .LINK_LANEn_STAT, .DMA_HALT_EVT, .DMA_CHn_STAT, .GRANARY_STAT, .GRANARY_EVT, .GRANARY_CHc_RDERR,
        .GRANARY_CHc_RMWERR, .GRANARY_CHc_QUEUE, .WEAVER_KERNEL, .WEAVER_MASKLINE, .HC_STAT, .HC_EVT, .HC_COMBLINE,
        .HC_SCAN_PTR, .BR_CTRL, .BR_STAT, .BR_EVT, .BR_FMAX, .BR_SNAPLINE, .FAULT_STAT, .FAULT_EVT, .FAULT_LOG_WR,
        .FAULT_LOG_LOST, .CAL_HCh_NOW, .CAL_HCh_STAT, .CLKPWR_STAT, .CLKPWR_EVT] s t) ∧
  (∀ (c : Fin 2) (seen : Option (List (List Byte))) (s : State) (q : DramReq) (rest : List DramReq) (d : List Byte),
      takeFirst (fun q => q.data.isNone) (s.chan c).flight = some (q, rest) → s.clocksPassed q = true → ((s.chan
      c).flight.takeWhile (fun f => f.data.isSome)).any (fun f => f.addr == q.addr) = false → s.checkedBurst q.addr
      seen = some d → q.req < 0x20 → s.burstWaits q.req q.id = true → s.granary.sync ≠ some q.id →
    Answers (.dramReadComplete c seen) s fun t => (t.chan c).flight = rest ∧ t.granary.answers = s.granary.answers ++
        [⟨q.id, q.part, false, true, slice d q.off q.len, q.addr + q.off⟩] ∧ Keeps [.resp, .freeCtr, .log, .link,
        .dma, .granary, .pend, .landed, .weaver, .hcs, .cal, .axes, .eth, .pages, .subs, .lastEvents, .tones,
        .nozGain] [.LINK_STAT, .LINK_LANEn_STAT, .DMA_HALT_EVT, .DMA_CHn_STAT, .GRANARY_EVT, .GRANARY_CHc_RDERR,
        .GRANARY_CHc_RMWERR, .WEAVER_KERNEL, .WEAVER_MASKLINE, .HC_STAT, .HC_EVT, .HC_COMBLINE, .HC_SCAN_PTR,
        .BR_CTRL, .BR_STAT, .BR_EVT, .BR_FMAX, .BR_SNAPLINE, .FAULT_STAT, .FAULT_EVT, .FAULT_LOG_WR, .FAULT_LOG_LOST,
        .CAL_HCh_NOW, .CAL_HCh_STAT, .CLKPWR_STAT, .CLKPWR_EVT] s t) ∧
  (∀ (c : Fin 2) (seen : Option (List (List Byte))) (s : State) (q : DramReq) (rest : List DramReq), takeFirst (fun q
      => q.data.isNone) (s.chan c).flight = some (q, rest) → s.clocksPassed q = true → ((s.chan c).flight.takeWhile
      (fun f => f.data.isSome)).any (fun f => f.addr == q.addr) = false → s.checkedBurst q.addr seen = none →
    Answers (.dramReadComplete c seen) s fun t => (t.fld R.GRANARY_EVT F.GRANARY_EVT_RDERR).testBit c = true ∧ t.fld
        (R.GRANARY_CHc_RDERR c) F.GRANARY_CHc_RDERR_COUNT = min (s.fld (R.GRANARY_CHc_RDERR c)
        F.GRANARY_CHc_RDERR_COUNT + 1) (2 ^ F.GRANARY_CHc_RDERR_COUNT.width - 1) ∧ Keeps [.resp, .freeCtr, .log,
        .link, .dma, .granary, .pend, .landed, .weaver, .hcs, .cal, .axes, .eth, .pages, .subs, .lastEvents, .tones,
        .nozGain] [.LINK_STAT, .LINK_LANEn_STAT, .DMA_HALT_EVT, .DMA_CHn_STAT, .GRANARY_EVT, .GRANARY_CHc_RDERR,
        .GRANARY_CHc_RMWERR, .WEAVER_KERNEL, .WEAVER_MASKLINE, .HC_STAT, .HC_EVT, .HC_COMBLINE, .HC_SCAN_PTR,
        .BR_CTRL, .BR_STAT, .BR_EVT, .BR_FMAX, .BR_SNAPLINE, .FAULT_STAT, .FAULT_EVT, .FAULT_LOG_WR, .FAULT_LOG_LOST,
        .CAL_HCh_NOW, .CAL_HCh_STAT, .CLKPWR_STAT, .CLKPWR_EVT] s t) ∧
  (∀ (c : Fin 2) (s : State) (q : DramReq) (rest : List DramReq) (d : List Byte), takeFirst (fun q => q.data.isSome)
      (s.chan c).flight = some (q, rest) → s.clocksPassed q = true → q.data = some d → d.length = 64 → (dramBase ≤
      q.addr ∧ q.addr % 64 = 0) →
    Answers (.dramWriteArrival c) s fun t => (t.chan c).flight = rest ∧ t.bytes q.addr 64 = d ∧ (∀ a, (a < q.addr ∨
        q.addr + 64 ≤ a) → t.byte a = s.byte a) ∧ (q.crc = s.burstCrc q.addr d → t.blockValid q.addr = true) ∧ Keeps
        [.resp, .log, .link, .granary, .dramValid, .subs, .lastEvents, .dram] [.LINK_STAT, .LINK_LANEn_STAT,
        .FAULT_EVT, .FAULT_LOG_WR, .FAULT_LOG_LOST] s t)

/-- Power-up, delay RAM, refresh, ALERT, die temperature, the initialisation fill and self-refresh (R117, R121, R122,
R123, R128, R129, R130, R131, R133, R135, R425). Clauses beyond the rules are the model's choices of log entries 27,
28, 29, 114, 116, 122. -/
def Obligations.GranaryUpkeep : Prop :=
  (∀ (r : Requester) (v : Word) (s : State), s.bit R.GRANARY_CTRL F.GRANARY_CTRL_EN = false → getField
      F.GRANARY_CTRL_DENSITY v ≠ 3 → (¬ (getField F.GRANARY_CTRL_DENSITY v = 2 ∧ getField F.GRANARY_CTRL_RANKS v =
      1)) →
    Answers (.granaryInit r v) s fun t => t.bit R.GRANARY_CTRL F.GRANARY_CTRL_EN = true ∧ t.fld R.GRANARY_CTRL
        F.GRANARY_CTRL_DENSITY = getField F.GRANARY_CTRL_DENSITY v ∧ t.chState 0 = 1 ∧ (getField
        F.GRANARY_CTRL_CHMODE v = 0 → t.chState 1 = 1) ∧ t.resp = some ⟨reqCode r, true, []⟩ ∧ Keeps [.resp, .log,
        .granary, .subs, .lastEvents] [.GRANARY_CTRL, .GRANARY_STAT, .FAULT_EVT, .FAULT_LOG_WR, .FAULT_LOG_LOST] s t)
        ∧
  (∀ (c : Fin 2) (s : State), s.chState c = 1 → s.ddrCke c = true → s.bit R.CLKPWR_STAT F.CLKPWR_STAT_DDRLOCK = true →
    Answers (.granaryReady c) s fun t => t.chState c = (if s.bit R.GRANARY_SR F.GRANARY_SR_REQ then 4 else 2) ∧
        (t.chan c).rows = [] ∧ (s.bit R.GRANARY_SR F.GRANARY_SR_REQ = false → (t.chan c).queue = (s.chan c).queue ++
        (s.chan c).held.take (128 - (s.chan c).queue.length)) ∧ Keeps [.granary] [.GRANARY_STAT] s t) ∧
  (∀ (r : Requester) (w : Word) (s : State), s.bit R.GRANARY_CTRL F.GRANARY_CTRL_EN = false → s.fld
      R.GRANARY_DLY_ADDR F.GRANARY_DLY_ADDR_INDEX ≤ 595 →
    Answers (.delayRamAccess r (some w)) s fun t => t.delayWord (s.fld R.GRANARY_DLY_ADDR F.GRANARY_DLY_ADDR_INDEX) =
        w.toNat ∧ t.fld R.GRANARY_DLY_ADDR F.GRANARY_DLY_ADDR_INDEX = s.fld R.GRANARY_DLY_ADDR
        F.GRANARY_DLY_ADDR_INDEX + 1 ∧ t.resp = some ⟨reqCode r, true, []⟩ ∧ Keeps [.resp, .granary]
        [.GRANARY_DLY_ADDR] s t) ∧
  (∀ (r : Requester) (s : State),
    Answers (.delayRamAccess r none) s fun t => t.resp = some ⟨reqCode r, true, leBytes 4 (s.delayWord (s.fld
        R.GRANARY_DLY_ADDR F.GRANARY_DLY_ADDR_INDEX))⟩ ∧ t.granary = s.granary ∧ Keeps [.resp, .granary]
        [.GRANARY_DLY_ADDR] s t) ∧
  (∀ (c rank : Fin 2) (s : State), (s.chState c = 2 ∨ s.chState c = 4) → (rank.val = 0 ∨ s.bit R.GRANARY_CTRL
      F.GRANARY_CTRL_RANKS = true) → (if rank.val = 0 then (s.chan c).refAt0 else (s.chan c).refAt1) ≤ s.now →
      (s.chan c).queue ≠ [] →
    Answers (.refreshTimer c rank) s fun t => (t.chan c).owed0 = (s.chan c).owed0 + (if rank.val = 0 then 1 else 0) ∧
        (t.chan c).owed1 = (s.chan c).owed1 + (if rank.val = 1 then 1 else 0) ∧ (t.chan c).rows = (s.chan c).rows ∧
        Keeps [.granary] [.GRANARY_STAT, .GRANARY_EVT] s t) ∧
  (∀ (c rank : Fin 2) (s : State), (s.chState c = 2 ∨ s.chState c = 4) → (rank.val = 0 ∨ s.bit R.GRANARY_CTRL
      F.GRANARY_CTRL_RANKS = true) → (if rank.val = 0 then (s.chan c).refAt0 else (s.chan c).refAt1) ≤ s.now →
      (s.chan c).queue = [] →
    Answers (.refreshTimer c rank) s fun t => (t.chan c).owed0 = (s.chan c).owed0 ∧ (t.chan c).owed1 = (s.chan
        c).owed1 ∧ (t.chan c).rows = (if s.bit R.GRANARY_STAT F.GRANARY_STAT_BANDPEND && (s.chan c).band !=
        s.granary.bandTarget then [] else (s.chan c).rows.filter (fun e => e.1 / 16 != rank.val)) ∧ (rank.val, s.now)
        ∈ (t.chan c).refreshed ∧ Keeps [.granary] [.GRANARY_STAT, .GRANARY_EVT] s t) ∧
  (∀ (s : State), s.fld R.GRANARY_REF F.GRANARY_REF_ZQINT ≠ 0 →
    Answers (.zqcsTimer) s fun t => (∀ c : Fin 2, s.chState c = 2 → (t.chan c).zqOwed = (s.chan c).zqOwed + 1) ∧
        Keeps [.granary] [] s t) ∧
  (∀ (c : Fin 2) (s : State),
    Answers (.alertN c) s fun t => (t.chan c).flight = (s.chan c).flight.filter (fun q => !decide (s.now ≤ q.since +
        ddr64 (s.fld R.GRANARY_CTRL F.GRANARY_CTRL_RATE))) ∧ (t.chan c).rows = [] ∧ (t.fld R.GRANARY_EVT
        F.GRANARY_EVT_CAPAR).testBit c = true ∧ t.fld (R.GRANARY_CHc_CAPAR c) F.GRANARY_CHc_CAPAR_COUNT = min (s.fld
        (R.GRANARY_CHc_CAPAR c) F.GRANARY_CHc_CAPAR_COUNT + 1) (2 ^ F.GRANARY_CHc_CAPAR_COUNT.width - 1) ∧ Keeps
        [.resp, .freeCtr, .log, .link, .dma, .granary, .pend, .landed, .weaver, .hcs, .cal, .axes, .eth, .pages,
        .subs, .lastEvents, .tones, .nozGain] [.LINK_STAT, .LINK_LANEn_STAT, .DMA_HALT_EVT, .DMA_CHn_STAT,
        .GRANARY_EVT, .GRANARY_CHc_RDERR, .GRANARY_CHc_CAPAR, .GRANARY_CHc_RMWERR, .WEAVER_KERNEL, .WEAVER_MASKLINE,
        .HC_STAT, .HC_EVT, .HC_COMBLINE, .HC_SCAN_PTR, .BR_CTRL, .BR_STAT, .BR_EVT, .BR_FMAX, .BR_SNAPLINE,
        .FAULT_STAT, .FAULT_EVT, .FAULT_LOG_WR, .FAULT_LOG_LOST, .CAL_HCh_NOW, .CAL_HCh_STAT, .CLKPWR_STAT,
        .CLKPWR_EVT] s t) ∧
  (∀ (x : Int) (s : State), x < 16 * sext 8 (s.fld R.CLKPWR_OT F.CLKPWR_OT_OTTRIP) →
    Answers (.dieTempSample x) s fun t => t.fld R.CLKPWR_TEMP F.CLKPWR_TEMP_TEMP = wrap 16 x ∧ Keeps [.freeCtr, .log,
        .link, .dma, .granary, .pend, .landed, .weaver, .hcs, .cal, .axes, .eth, .pages, .subs, .lastEvents, .pwr,
        .tones, .nozGain] [.LINK_STAT, .LINK_LANEn_STAT, .DMA_HALT_EVT, .DMA_CHn_STAT, .GRANARY_STAT, .WEAVER_KERNEL,
        .WEAVER_MASKLINE, .HC_STAT, .HC_EVT, .HC_COMBLINE, .HC_SCAN_PTR, .BR_CTRL, .BR_STAT, .BR_EVT, .BR_FMAX,
        .BR_SNAPLINE, .FAULT_STAT, .FAULT_EVT, .FAULT_LOG_WR, .FAULT_LOG_LOST, .CAL_HCh_NOW, .CAL_HCh_STAT,
        .CLKPWR_STAT, .CLKPWR_EVT, .CLKPWR_TEMP] s t) ∧
  (∀ (x : Int) (s : State), 16 * sext 8 (s.fld R.CLKPWR_OT F.CLKPWR_OT_OTTRIP) ≤ x → s.pwr.ot = false →
    Answers (.dieTempSample x) s fun t => t.bit R.CLKPWR_EVT F.CLKPWR_EVT_OT = true ∧ t.pwr.ot = true ∧ t.bit
        R.FAULT_STAT F.FAULT_STAT_SAFE = true ∧ Keeps [.freeCtr, .log, .link, .dma, .granary, .pend, .landed,
        .weaver, .hcs, .cal, .axes, .eth, .pages, .subs, .lastEvents, .pwr, .tones, .nozGain] [.LINK_STAT,
        .LINK_LANEn_STAT, .DMA_HALT_EVT, .DMA_CHn_STAT, .GRANARY_STAT, .WEAVER_KERNEL, .WEAVER_MASKLINE, .HC_STAT,
        .HC_EVT, .HC_COMBLINE, .HC_SCAN_PTR, .BR_CTRL, .BR_STAT, .BR_EVT, .BR_FMAX, .BR_SNAPLINE, .FAULT_STAT,
        .FAULT_EVT, .FAULT_LOG_WR, .FAULT_LOG_LOST, .CAL_HCh_NOW, .CAL_HCh_STAT, .CLKPWR_STAT, .CLKPWR_EVT,
        .CLKPWR_TEMP] s t) ∧
  (∀ (r : Requester) (v : Word) (s : State) (base n : Nat), getField F.GRANARY_INIT_GO_GO v = 1 → s.bit
      R.GRANARY_STAT F.GRANARY_STAT_INITBUSY = false → s.anyPrinting = false → base = s.fld R.GRANARY_INIT_BASE_HI
      F.GRANARY_INIT_BASE_HI_BASE_HI * 2 ^ 32 + s.fld R.GRANARY_INIT_BASE_LO F.GRANARY_INIT_BASE_LO_BASE_LO * 65536 →
      n = s.fld R.GRANARY_INIT_LEN F.GRANARY_INIT_LEN_UNITS * 65536 → (dramBase ≤ base ∧ 0 < n ∧ base + n ≤ dramBase
      + s.dramBytes) → s.dramAsleep = false →
    Answers (.initFill r v) s fun t => t.bit R.GRANARY_STAT F.GRANARY_STAT_INITBUSY = true ∧ t.granary.fill = some
        ((base - dramBase) / 64, (base + n - dramBase) / 64) ∧ t.mem = s.mem ∧ t.resp = some ⟨reqCode r, true, []⟩ ∧
        Keeps [.resp, .log, .granary, .subs, .lastEvents] [.GRANARY_STAT, .GRANARY_EVT, .GRANARY_SR, .FAULT_EVT,
        .FAULT_LOG_WR, .FAULT_LOG_LOST] s t) ∧
  (∀ (s : State) (lo hi : Nat), s.granary.fill = some (lo, hi) → (s.fillWaits 0 = false ∧ s.fillWaits 1 = false) →
    Answers (.initFillDone) s fun t => (∀ a, dramBase + 64 * s.granary.fillNext ≤ a → a < dramBase + 64 * hi → t.byte
        a = 0) ∧ (∀ b ∈ s.granary.fillRedo, ∀ i < 64, t.byte (dramBase + 64 * b + i) = 0) ∧ (∀ a, ¬ (dramBase + 64 *
        s.granary.fillNext ≤ a ∧ a < dramBase + 64 * hi) → (∀ b ∈ s.granary.fillRedo, ¬ (dramBase + 64 * b ≤ a ∧ a <
        dramBase + 64 * b + 64)) → t.byte a = s.byte a) ∧ t.bit R.GRANARY_STAT F.GRANARY_STAT_INITBUSY = false ∧
        t.bit R.GRANARY_EVT F.GRANARY_EVT_INITDONE = true ∧ t.granary.fill = none ∧ Keeps [.granary, .dramValid,
        .dram] [.GRANARY_STAT, .GRANARY_EVT] s t) ∧
  (∀ (r : Requester) (v : Word) (s : State), s.chState 0 = 2 →
    Answers (.selfRefreshRequest r v) s fun t => t.chState 0 = 4 ∧ t.bit R.GRANARY_SR F.GRANARY_SR_REQ = true ∧
        t.resp = some ⟨reqCode r, true, []⟩ ∧ Keeps [.resp, .granary] [.GRANARY_STAT, .GRANARY_SR] s t) ∧
  (∀ (s : State), s.srReady = true → s.power ≠ 5 → ((s.chan 0).held = [] ∧ (s.chan 1).held = []) →
    Answers (.selfRefreshEntered) s fun t => t.bit R.GRANARY_SR F.GRANARY_SR_IN_SR = true ∧ t.chState 0 = 5 ∧ t.bit
        R.CLKPWR_STAT F.CLKPWR_STAT_DDRLOCK = false ∧ (t.chan 0).rows = [] ∧ (t.chan 1).rows = [] ∧ Keeps
        [.highLatch, .halfWrites, .resp, .freeCtr, .log, .link, .dma, .granary, .dramValid, .miller, .pend, .landed,
        .weaver, .hcs, .pos, .br, .cam, .cal, .axes, .mot, .eth, .pages, .subs, .lastEvents, .pwr, .sec, .mem] [.any]
        s t) ∧
  (∀ (r : Requester) (v : Word) (s : State), s.bit R.GRANARY_SR F.GRANARY_SR_IN_SR = true → s.chState 0 = 5 →
    Answers (.selfRefreshExit r v) s fun t => t.bit R.GRANARY_SR F.GRANARY_SR_REQ = false ∧ t.bit R.GRANARY_SR
        F.GRANARY_SR_IN_SR = false ∧ t.chState 0 = 6 ∧ t.resp = some ⟨reqCode r, true, []⟩ ∧ Keeps [.resp, .granary]
        [.GRANARY_STAT, .GRANARY_SR] s t) ∧
  (∀ (r : Requester) (s : State) (e : DramErr) (rest : List DramErr), s.granary.errFifo = e :: rest →
    Answers (.granaryErrlogPop r) s fun t => t.granary.errFifo = rest ∧ t.resp = some ⟨reqCode r, true, leBytes 4
        ((e.col + 4096 * e.band) % 2 ^ 32)⟩ ∧ Keeps [.resp, .granary] [] s t)

/-- Decoders: a whole valid block is stored and counted, pages end, a hunt resynchronises, enables and disables
(R148, R149, R150, R151, R152, R153). Clauses beyond the rules are the model's choices of log entry 30. -/
def Obligations.MillerDecoders : Prop :=
  (∀ (d : Fin 8) (parity : Bool) (s : State) (b : List Byte) (rest : List (Nat × List Byte)) (hd : BlockHeader) (o :
      List Byte), s.blocksRun = true → (s.dec d).block ≠ [] → takePieces (28 + (parseHeader (s.dec d).block).paylen -
      (s.dec d).block.length) (s.dec d).input = (b, rest) → ((s.dec d).block ++ b).length = 28 + (parseHeader (s.dec
      d).block).paylen → hd = parseHeader ((s.dec d).block ++ b) → hd.page = (s.dec d).page → s.blockAccepted (d / 2)
      (s.dec d).page (s.dec d).serial hd = true → blockOriginal hd (slice ((s.dec d).block ++ b) 24 hd.paylen)
      ((s.dec d).parity || parity) = some o → leAt ((s.dec d).block ++ b) (24 + hd.paylen) 4 = crc32c o → ((s.ham (d
      / 2)).held.any (ofBlock (s.dec d).serial hd.line0 hd.lines) = true ∨ (s.freeArea (d / 2) (lineBytes hd.fmt
      hd.width * hd.lines) (s.ham (d / 2)).held).isSome = true) →
    Answers (.decoderBlock d parity) s fun t => t.regN (R.MILLER_DECd_LINE d) = (hd.line0 + hd.lines) % 2 ^ 32 ∧
        t.fld (R.MILLER_DECd_BLOCKS d) F.MILLER_DECd_BLOCKS_COUNT = min (s.fld (R.MILLER_DECd_BLOCKS d)
        F.MILLER_DECd_BLOCKS_COUNT + 1) (2 ^ F.MILLER_DECd_BLOCKS_COUNT.width - 1) ∧ (t.dec d).block = [] ∧ (t.dec
        d).input = rest ∧ (t.dec d).pos = hd.line0 + hd.lines ∧ t.decState d = (if s.decEnabled d then 1 else 0) ∧
        ((s.dec d).serial, hd.line0, hd.line0 + hd.lines) ∈ (t.ham (d / 2)).made ∧ Keeps [.log, .miller, .weaver,
        .subs, .lastEvents, .decoded] [.MILLER_EVT, .MILLER_DECd_STAT, .MILLER_DECd_LINE, .MILLER_DECd_ERRCNT,
        .MILLER_DECd_ERRLINE, .MILLER_DECd_BLOCKS, .MILLER_DECd_HUNT, .HAM_STAT, .HAM_EVT, .FAULT_EVT, .FAULT_LOG_WR,
        .FAULT_LOG_LOST] s t) ∧
  (∀ (d : Fin 8) (parity : Bool) (s : State) (b : List Byte) (rest : List (Nat × List Byte)), (s.dec d).block = [] →
      (s.decState d ≠ 0 ∧ s.decState d ≠ 5) → s.blocksRun = true → s.awaitsRecompute d = false → (s.dec d).serving =
      true → takePieces 28 (s.dec d).input = (b, rest) → (b.length = 28 ∧ headerSound b = true ∧ headerFields b =
      true) → (parity = false ∧ (s.dec d).parity = false) → ((parseHeader b).type = 3 ∧ (parseHeader b).page = (s.dec
      d).page ∧ leAt b 24 4 = 0) → s.nextInOrder (s.dec d).serial = none →
    Answers (.endOfPageBlock d parity) s fun t => (t.dec d).serving = false ∧ (t.dec d).input = rest ∧ t.decState d =
        6 ∧ Keeps [.log, .miller, .weaver, .subs, .lastEvents] [.MILLER_EVT, .MILLER_DECd_STAT, .MILLER_DECd_ERRCNT,
        .MILLER_DECd_ERRLINE, .HAM_EVT, .FAULT_EVT, .FAULT_LOG_WR, .FAULT_LOG_LOST] s t) ∧
  (∀ (d : Fin 8) (parity : Bool) (s : State) (b : List Byte) (rest : List (Nat × List Byte)), (s.dec d).block = [] →
      (s.decState d ≠ 0 ∧ s.decState d ≠ 5) → s.blocksRun = true → s.awaitsRecompute d = false → (s.dec d).serving =
      true → takePieces 28 (s.dec d).input = (b, rest) → (b.length = 28 ∧ headerSound b = true ∧ headerFields b =
      true) → (parity = true ∨ (s.dec d).parity = true) → (parseHeader b).type = 3 →
    Answers (.endOfPageBlock d parity) s fun t => (t.dec d).serving = true ∧ (t.dec d).input = rest ∧ t.fld
        (R.MILLER_DECd_ERRCNT d) F.MILLER_DECd_ERRCNT_STREAM = min (s.fld (R.MILLER_DECd_ERRCNT d)
        F.MILLER_DECd_ERRCNT_STREAM + 1) (2 ^ F.MILLER_DECd_ERRCNT_STREAM.width - 1) ∧ Keeps [.log, .miller, .weaver,
        .subs, .lastEvents] [.MILLER_EVT, .MILLER_DECd_STAT, .MILLER_DECd_ERRCNT, .MILLER_DECd_ERRLINE, .HAM_EVT,
        .FAULT_EVT, .FAULT_LOG_WR, .FAULT_LOG_LOST] s t) ∧
  (∀ (d : Fin 8) (s : State) (l : List Byte) (k : Nat), s.decState d = 5 → s.blocksRun = true → l = (takePieces
      (inputBytes (s.dec d).input) (s.dec d).input).1 → s.huntSkip d l.length l = (k, true) →
    Answers (.huntResync d) s fun t => (t.dec d).input = (takePieces k (s.dec d).input).2 ∧ t.fld (R.MILLER_DECd_HUNT
        d) F.MILLER_DECd_HUNT_COUNT = min (s.fld (R.MILLER_DECd_HUNT d) F.MILLER_DECd_HUNT_COUNT + k) (2 ^
        F.MILLER_DECd_HUNT_COUNT.width - 1) ∧ t.decState d = (if s.decEnabled d then 1 else 0) ∧ Keeps [.miller]
        [.MILLER_DECd_STAT, .MILLER_DECd_HUNT] s t) ∧
  (∀ (r : Requester) (d : Fin 8) (v : Word) (s : State),
    Answers (.decoderEnable r d v) s fun t => t.decEnabled d = true ∧ t.decState d = (if s.decState d = 0 then 1 else
        s.decState d) ∧ t.resp = some ⟨reqCode r, true, []⟩ ∧ Keeps [.resp] [.MILLER_CTRL, .MILLER_DECd_STAT] s t) ∧
  (∀ (r : Requester) (d : Fin 8) (v : Word) (s : State), (s.dec d).block = [] →
    Answers (.decoderDisable r d v) s fun t => t.decEnabled d = false ∧ t.decState d = 0 ∧ t.resp = some ⟨reqCode r,
        true, []⟩ ∧ Keeps [.resp] [.MILLER_CTRL, .MILLER_DECd_STAT] s t)

/-- Encoders: enable, disable, a line taken, a flushed block, and the read of a result (R154, R155, R156, R159).
Clauses beyond the rules are the model's choices of log entry 12. -/
def Obligations.MillerEncoders : Prop :=
  (∀ (r : Requester) (e : Fin 2) (v : Word) (s : State), s.bit (R.MILLER_ENCe_CTRL e) F.MILLER_ENCe_CTRL_EN = false →
      (1 ≤ s.encWidth e ∧ s.encWidth e ≤ 16384) → getField F.MILLER_ENCe_CTRL_FLUSH v = 0 →
    Answers (.encoderEnable r e v) s fun t => t.bit (R.MILLER_ENCe_CTRL e) F.MILLER_ENCe_CTRL_EN = true ∧ t.enc e =
        s.enc e ∧ t.resp = some ⟨reqCode r, true, []⟩ ∧ Keeps [.resp, .log, .dma, .miller, .subs, .lastEvents]
        [.MILLER_EVT, .MILLER_ENCe_CTRL, .MILLER_ENCe_LINE0, .MILLER_ENCe_BYTESOUT, .FAULT_EVT, .FAULT_LOG_WR,
        .FAULT_LOG_LOST] s t) ∧
  (∀ (r : Requester) (e : Fin 2) (v : Word) (s : State), s.bit (R.MILLER_ENCe_CTRL e) F.MILLER_ENCe_CTRL_EN = false →
      (s.encWidth e = 0 ∨ 16384 < s.encWidth e) →
    Answers (.encoderEnable r e v) s fun t => t.resp = some ⟨reqCode r, false, []⟩ ∧ t.newest = some (0x0C, 5,
        reqCode r, 5) ∧ Keeps [.resp, .log, .subs, .lastEvents] [.FAULT_EVT, .FAULT_LOG_WR, .FAULT_LOG_LOST] s t) ∧
  (∀ (r : Requester) (e : Fin 2) (v : Word) (s : State), s.bit (R.MILLER_ENCe_CTRL e) F.MILLER_ENCe_CTRL_EN = true →
      (s.enc e).lines = [] → (s.enc e).part.length + (s.enc e).input.length < max 1 (s.encLineBytes e) →
    Answers (.encoderDisable r e v) s fun t => t.bit (R.MILLER_ENCe_CTRL e) F.MILLER_ENCe_CTRL_EN = false ∧ (t.enc
        e).part = [] ∧ (t.enc e).input = [] ∧ (t.enc e).closing = false ∧ (t.enc e).output = (s.enc e).output ∧
        t.resp = some ⟨reqCode r, true, []⟩ ∧ Keeps [.resp, .log, .dma, .miller, .subs, .lastEvents] [.MILLER_EVT,
        .MILLER_ENCe_CTRL, .MILLER_ENCe_LINE0, .MILLER_ENCe_BYTESOUT, .FAULT_EVT, .FAULT_LOG_WR, .FAULT_LOG_LOST] s
        t) ∧
  (∀ (r : Requester) (e : Fin 2) (v : Word) (s : State), s.bit (R.MILLER_ENCe_CTRL e) F.MILLER_ENCe_CTRL_EN = true →
      getField F.MILLER_ENCe_CTRL_EN v = 1 → ((s.enc e).lines ≠ [] ∧ (s.enc e).part = [] ∧ (s.enc e).input = [] ∧
      (s.enc e).flushLeft = none) → s.encReady e = true →
    Answers (.encoderFlush r e v) s fun t => (t.enc e).lines = [] ∧ (t.enc e).results.length = (s.enc
        e).results.length + 1 ∧ t.regN (R.MILLER_ENCe_LINE0 e) = (s.regN (R.MILLER_ENCe_LINE0 e) + (s.enc
        e).lines.length) % 2 ^ 32 ∧ (t.fld R.MILLER_EVT F.MILLER_EVT_ENC_RES).testBit e = true ∧ t.resp = some
        ⟨reqCode r, true, []⟩ ∧ Keeps [.resp, .log, .dma, .miller, .subs, .lastEvents] [.MILLER_EVT,
        .MILLER_ENCe_CTRL, .MILLER_ENCe_LINE0, .MILLER_ENCe_BYTESOUT, .FAULT_EVT, .FAULT_LOG_WR, .FAULT_LOG_LOST] s
        t) ∧
  (∀ (e : Fin 2) (s : State), (s.encWorks e = true ∧ s.blocksRun = true) → s.encFull e = false → (s.enc e).flushLeft
      = none → (0 < s.encLineBytes e ∧ s.encLineBytes e ≤ (s.enc e).part.length + (s.enc e).input.length) → (s.fld
      (R.MILLER_ENCe_GEOM e) F.MILLER_ENCe_GEOM_LINESMAX = 0 ∨ (s.enc e).lines.length + 1 < s.fld (R.MILLER_ENCe_GEOM
      e) F.MILLER_ENCe_GEOM_LINESMAX) →
    Answers (.encoderLine e) s fun t => (t.enc e).lines = (s.enc e).lines ++ [(s.enc e).part ++ (s.enc e).input.take
        (s.encLineBytes e - (s.enc e).part.length)] ∧ (t.enc e).part = [] ∧ (t.enc e).input = (s.enc e).input.drop
        (s.encLineBytes e - (s.enc e).part.length) ∧ t.fld (R.MILLER_ENCe_BYTESIN e) F.MILLER_ENCe_BYTESIN_COUNT =
        min (s.fld (R.MILLER_ENCe_BYTESIN e) F.MILLER_ENCe_BYTESIN_COUNT + s.encLineBytes e) (2 ^
        F.MILLER_ENCe_BYTESIN_COUNT.width - 1) ∧ Keeps [.dma, .miller] [.MILLER_EVT, .MILLER_ENCe_LINE0,
        .MILLER_ENCe_BYTESIN, .MILLER_ENCe_BYTESOUT] s t) ∧
  (∀ (e : Fin 2) (s : State), (s.encWorks e = true ∧ s.blocksRun = true) → s.encFull e = false → (s.enc e).flushLeft
      = none → (s.enc e).part.length + (s.enc e).input.length < s.encLineBytes e → (s.fld (R.MILLER_ENCe_GEOM e)
      F.MILLER_ENCe_GEOM_LINESMAX = 0 ∨ (s.enc e).lines.length < s.fld (R.MILLER_ENCe_GEOM e)
      F.MILLER_ENCe_GEOM_LINESMAX) →
    Answers (.encoderLine e) s fun t => (t.enc e).part = (s.enc e).part ++ (s.enc e).input ∧ (t.enc e).input = [] ∧
        (t.enc e).lines = (s.enc e).lines ∧ Keeps [.dma, .miller] [.MILLER_EVT, .MILLER_ENCe_LINE0,
        .MILLER_ENCe_BYTESIN, .MILLER_ENCe_BYTESOUT] s t) ∧
  (∀ (r : Requester) (e : Fin 2) (s : State) (x : EncResult) (rest : List EncResult), (s.enc e).results = x :: rest →
    Answers (.millerResultPop r e) s fun t => (t.enc e).results = rest ∧ t.resp = some ⟨reqCode r, true, leBytes 4
        (x.paylen % 2 ^ 32)⟩ ∧ Keeps [.resp, .miller] [] s t)

/-- Slots open, lines are skipped or Lost, passes start and end with a valid slot or run again (R160, R287, R288,
R290, R167, R196, R198). Clauses beyond the rules are the model's choices of log entries 54, 55, 80, 125. -/
def Obligations.ScreeningPasses : Prop :=
  (∀ (k : Fin 4) (bad : List Nat) (s : State), s.mayPrepare k = true → (s.ham k).redo = [] → s.slotOpened k s.lead
      (s.ham k).next = true → s.mustSkip k (s.ham k).next = false → s.lineLost k (s.ham k).next = false →
      s.inputsReady k (s.ham k).next = true →
    Answers (.slotOpen k bad) s fun t => (t.ham k).pass.map (fun p => (p.line, p.first)) = some ((s.ham k).next,
        true) ∧ t.bit (R.HAM_STAT k) F.HAM_STAT_CATCHUP = (!s.slotAtRun k s.lead (s.ham k).next && s.afterSlot k
        s.lead (s.ham k).next) ∧ Keeps [.freeCtr, .log, .pend, .landed, .weaver, .pages, .subs, .lastEvents, .nozRet,
        .thresholds] [.hamletSettings, .WEAVER_EVT, .HAM_STAT, .HAM_EVT, .HAM_CNT_LATE, .HAM_CNT_SKIP, .HAM_CNT_LOST,
        .FAULT_EVT, .FAULT_LOG_WR, .FAULT_LOG_LOST] s t) ∧
  (∀ (k : Fin 4) (bad : List Nat) (s : State), s.mayPrepare k = true → (s.ham k).redo = [] → s.slotOpened k s.lead
      (s.ham k).next = true → s.mustSkip k (s.ham k).next = true → s.slotOpened k s.lead (lineAdd (s.ham k).next 1) =
      false →
    Answers (.slotOpen k bad) s fun t => (t.ham k).next = lineAdd (s.ham k).next 1 ∧ (t.ham k).pass = none ∧ t.fld
        (R.HAM_CNT_SKIP k) F.HAM_CNT_SKIP_COUNT = min (s.fld (R.HAM_CNT_SKIP k) F.HAM_CNT_SKIP_COUNT + 1) (2 ^
        F.HAM_CNT_SKIP_COUNT.width - 1) ∧ t.bit (R.HAM_EVT k) F.HAM_EVT_SKIP = true ∧ Keeps [.weaver] [.HAM_CNT_SKIP,
        .HAM_EVT] s t) ∧
  (∀ (k : Fin 4) (bad : List Nat) (s : State), s.mayPrepare k = true → (s.ham k).redo = [] → s.slotOpened k s.lead
      (s.ham k).next = true → s.mustSkip k (s.ham k).next = false → s.lineLost k (s.ham k).next = true → s.slotOpened
      k s.lead (lineAdd (s.ham k).next 1) = false →
    Answers (.slotOpen k bad) s fun t => (t.ham k).next = lineAdd (s.ham k).next 1 ∧ (s.ham k).next ∈ (t.ham k).lost
        ∧ (t.ham k).pass = none ∧ t.fld (R.HAM_CNT_LOST k) F.HAM_CNT_LOST_COUNT = min (s.fld (R.HAM_CNT_LOST k)
        F.HAM_CNT_LOST_COUNT + 1) (2 ^ F.HAM_CNT_LOST_COUNT.width - 1) ∧ t.bit (R.HAM_EVT k) F.HAM_EVT_LOST = true ∧
        t.newest = some (5, 1, k.val, 5) ∧ Keeps [.freeCtr, .log, .pend, .landed, .weaver, .pages, .subs,
        .lastEvents, .nozRet, .thresholds] [.hamletSettings, .WEAVER_EVT, .HAM_STAT, .HAM_EVT, .HAM_CNT_LATE,
        .HAM_CNT_SKIP, .HAM_CNT_LOST, .FAULT_EVT, .FAULT_LOG_WR, .FAULT_LOG_LOST] s t) ∧
  (∀ (k : Fin 4) (bad : List Nat) (s : State) (l : Nat) (rest : List Nat), s.mayPrepare k = true → (s.ham k).redo = l
      :: rest → s.lineLost k l = false → s.inputsReady k l = true →
    Answers (.screeningPassStart k bad) s fun t => (t.ham k).pass.map (fun p => (p.line, p.first)) = some (l, false)
        ∧ (t.ham k).next = (s.ham k).next ∧ Keeps [.freeCtr, .log, .pend, .landed, .weaver, .pages, .subs,
        .lastEvents, .nozRet, .thresholds] [.hamletSettings, .WEAVER_EVT, .HAM_STAT, .HAM_EVT, .HAM_CNT_LATE,
        .HAM_CNT_SKIP, .HAM_CNT_LOST, .FAULT_EVT, .FAULT_LOG_WR, .FAULT_LOG_LOST] s t) ∧
  (∀ (k : Fin 4) (bad : List Nat) (s : State), s.mayPrepare k = true → (s.ham k).redo = [] → s.slotOpened k s.lead
      (s.ham k).next = true → s.mustSkip k (s.ham k).next = false → s.pageOfLine (s.ham k).next = none →
    Answers (.screeningPassStart k bad) s fun t => (t.ham k).pass.map (fun p => (p.line, p.boost, p.lost, p.clamp)) =
        some ((s.ham k).next, 0, 0, 0) ∧ Keeps [.freeCtr, .log, .pend, .landed, .weaver, .pages, .subs, .lastEvents,
        .nozRet, .thresholds] [.hamletSettings, .WEAVER_EVT, .HAM_STAT, .HAM_EVT, .HAM_CNT_LATE, .HAM_CNT_SKIP,
        .HAM_CNT_LOST, .FAULT_EVT, .FAULT_LOG_WR, .FAULT_LOG_LOST] s t) ∧
  (∀ (k : Fin 4) (s : State) (x : PassOut), (s.ham k).pass = some x → x.doneAt ≤ s.now → x.slot.length = 3200 →
      s.refLines = 0 → (s.ham k).lastPrep = none →
    Answers (.screeningPassEnd k none) s fun t => (t.ham k).pass = none ∧ (t.ham k).redo = (s.ham k).redo.filter (·
        != x.line) ∧ x.line ∈ (t.ham k).valid ∧ (t.ham k).next = (if x.first then lineAdd x.line 1 else (s.ham
        k).next) ∧ t.fld (R.WEAVER_CNT_BOOST k) F.WEAVER_CNT_BOOST_COUNT = min (s.fld (R.WEAVER_CNT_BOOST k)
        F.WEAVER_CNT_BOOST_COUNT + x.boost) (2 ^ F.WEAVER_CNT_BOOST_COUNT.width - 1) ∧ t.fld (R.WEAVER_CNT_LOST k)
        F.WEAVER_CNT_LOST_COUNT = min (s.fld (R.WEAVER_CNT_LOST k) F.WEAVER_CNT_LOST_COUNT + x.lost) (2 ^
        F.WEAVER_CNT_LOST_COUNT.width - 1) ∧ t.fld (R.WEAVER_CNT_CLAMP k) F.WEAVER_CNT_CLAMP_COUNT = min (s.fld
        (R.WEAVER_CNT_CLAMP k) F.WEAVER_CNT_CLAMP_COUNT + x.clamp) (2 ^ F.WEAVER_CNT_CLAMP_COUNT.width - 1) ∧ t.reg
        (R.WEAVER_SCREENED k) = BitVec.ofNat 32 x.line ∧ t.bit (R.HAM_STAT k) F.HAM_STAT_CATCHUP = false ∧ (∀ i, i <
        3200 → t.byte (s.slotAddr k x.line + i) = x.slot.getD i 0) ∧ Keeps [.log, .granary, .miller, .weaver, .cam,
        .subs, .lastEvents, .refs, .slots] [.GRANARY_STAT, .GRANARY_SR, .WEAVER_SCREENED, .WEAVER_EVT,
        .WEAVER_CNT_TWIN, .WEAVER_CNT_PARTNER, .WEAVER_CNT_BOOST, .WEAVER_CNT_LOST, .WEAVER_CNT_CLAMP, .HAM_STAT,
        .HAM_EVT, .HAM_CNT_PARITY, .FAULT_EVT, .FAULT_LOG_WR, .FAULT_LOG_LOST] s t) ∧
  (∀ (k : Fin 4) (s : State) (x : PassOut), (s.ham k).pass = some x → x.doneAt ≤ s.now → (s.refLines ≠ 0 ∧ x.line % 2
      = 0) →
    Answers (.screeningPassEnd k none) s fun t => (t.ham k).refRow = some (x.line, x.refs) ∧ (t.ham k).pass = none ∧
        Keeps [.log, .granary, .miller, .weaver, .cam, .subs, .lastEvents, .refs, .slots] [.GRANARY_STAT,
        .GRANARY_SR, .WEAVER_SCREENED, .WEAVER_EVT, .WEAVER_CNT_TWIN, .WEAVER_CNT_PARTNER, .WEAVER_CNT_BOOST,
        .WEAVER_CNT_LOST, .WEAVER_CNT_CLAMP, .HAM_STAT, .HAM_EVT, .HAM_CNT_PARITY, .FAULT_EVT, .FAULT_LOG_WR,
        .FAULT_LOG_LOST] s t) ∧
  (∀ (k : Fin 4) (c : ParityWord) (s : State) (x : PassOut), (s.ham k).pass = some x → x.doneAt ≤ s.now →
    Answers (.screeningPassEnd k (some c)) s fun t => (t.ham k).pass = none ∧ x.line ∈ (t.ham k).redo ∧ x.line ∉
        (t.ham k).valid ∧ t.fld (R.HAM_CNT_PARITY k) F.HAM_CNT_PARITY_COUNT = min (s.fld (R.HAM_CNT_PARITY k)
        F.HAM_CNT_PARITY_COUNT + 1) (2 ^ F.HAM_CNT_PARITY_COUNT.width - 1) ∧ Keeps [.log, .granary, .miller, .weaver,
        .cam, .subs, .lastEvents, .refs, .slots] [.GRANARY_STAT, .GRANARY_SR, .WEAVER_SCREENED, .WEAVER_EVT,
        .WEAVER_CNT_TWIN, .WEAVER_CNT_PARTNER, .WEAVER_CNT_BOOST, .WEAVER_CNT_LOST, .WEAVER_CNT_CLAMP, .HAM_STAT,
        .HAM_EVT, .HAM_CNT_PARITY, .FAULT_EVT, .FAULT_LOG_WR, .FAULT_LOG_LOST] s t)

/-- A recompute fetches its block again, a failed one loses its lines, a missed take deadline prints blank (R293,
R294, R288, R289, R222). Clauses beyond the rules are the model's choices of log entry 32. -/
def Obligations.Recomputes : Prop :=
  (∀ (k : Fin 4) (s : State) (j : RecompJob) (d : Nat), (s.ham k).jobs.find? (fun j => j.given.isNone && !j.failed) =
      some j → s.recomputeDecoder k j.dec = some d →
    Answers (.recompute k) s fun t => { j with given := some d } ∈ (t.ham k).jobs ∧ (t.dec d).recompute = some [] ∧
        (t.ch (8 + d)).recomp.map (fun x => (x.src, x.len)) = some (j.entry.addr, 28 + j.entry.paylen) ∧ t.fld
        (R.HAM_CNT_RECOMP k) F.HAM_CNT_RECOMP_COUNT = min (s.fld (R.HAM_CNT_RECOMP k) F.HAM_CNT_RECOMP_COUNT + 1) (2
        ^ F.HAM_CNT_RECOMP_COUNT.width - 1) ∧ t.bit (R.HAM_EVT k) F.HAM_EVT_RECOMP = true ∧ t.bit (R.HAM_STAT k)
        F.HAM_STAT_RECOMP = true ∧ Keeps [.dma, .miller, .weaver] [.HAM_STAT, .HAM_EVT, .HAM_CNT_RECOMP] s t) ∧
  (∀ (k : Fin 4) (s : State) (j : RecompJob), (s.ham k).jobs.find? (fun j => j.failed) = some j →
    Answers (.recomputeFailure k) s fun t => j ∉ (t.ham k).jobs ∧ (j.entry.serial, j.entry.line0, j.entry.line0 +
        j.entry.lines) ∈ (t.ham k).lostDec ∧ t.newest = some (5, 1, k.val, 4) ∧ Keeps [.log, .weaver, .subs,
        .lastEvents] [.HAM_STAT, .FAULT_EVT, .FAULT_LOG_WR, .FAULT_LOG_LOST] s t) ∧
  (∀ (h : Fin 24) (r : Fin 2) (s : State) (l : Nat), (s.running = true ∧ s.scanPaced h = false ∧ s.hcState h ≠ 0 ∧
      r.val ∈ s.rowsOf h) → l = (s.row h r).nextTake → s.blankLine l = false → s.rowMode h l = 2 → s.rowacts h r l =
      true → (l ∉ (s.ham (h / 6)).valid ∧ l ∉ (s.ham (h / 6)).lost) →
    Answers (.takeDeadline h r) s fun t => (t.row h r).nextTake = lineAdd l 1 ∧ t.fld (R.HAM_CNT_BLANK (h / 6))
        F.HAM_CNT_BLANK_COUNT = min (s.fld (R.HAM_CNT_BLANK (h / 6)) F.HAM_CNT_BLANK_COUNT + 1) (2 ^
        F.HAM_CNT_BLANK_COUNT.width - 1) ∧ t.bit (R.HAM_EVT (h / 6)) F.HAM_EVT_BLANK = true ∧ t.bit (R.HC_EVT h)
        F.HC_EVT_LATE = true ∧ t.newest = some (7, 0, h.val, 0x10) ∧ (∀ n ∈ s.pageOfLine l, (t.page n).defective =
        true) ∧ Keeps [.freeCtr, .log, .pend, .landed, .hcs, .pages, .subs, .lastEvents] [.headSettings, .HC_EVT,
        .HC_CNT_LATE, .HAM_EVT, .HAM_CNT_BLANK, .FAULT_EVT, .FAULT_LOG_WR, .FAULT_LOG_LOST] s t) ∧
  (∀ (h : Fin 24) (r : Fin 2) (s : State), (s.running = true ∧ s.scanPaced h = false ∧ s.hcState h ≠ 0 ∧ r.val ∈
      s.rowsOf h) → s.rowMode h (s.row h r).nextTake = 0 →
    Answers (.takeDeadline h r) s fun t => (t.row h r).nextTake = lineAdd (s.row h r).nextTake 1 ∧ Keeps [.pend,
        .landed, .hcs] [.headSettings] s t)

/-- Nozzle retirement and re-admission, mask bank switch, and the write of the overlap (R190, R180, R199, R166, R297,
R475). -/
def Obligations.NozzlesAndMasks : Prop :=
  (∀ (g : Fin 101376) (src : RetireSource) (s : State),
    Answers (.nozzleRetirement g src) s fun t => (t.byte (nozAddr g)).toNat = (s.byte (nozAddr g)).toNat / 16 * 16 +
        2 * retireCode src + 1 ∧ t.nozRetired g = true ∧ g.val ∉ t.weaver.readmit.map (·.1) ∧ t.newest = some (6, 2,
        g.val, retireCode src) ∧ (∀ a, a ≠ nozAddr g → t.byte a = s.byte a) ∧ Keeps [.log, .weaver, .subs,
        .lastEvents, .nozRet] [.FAULT_EVT, .FAULT_LOG_WR, .FAULT_LOG_LOST] s t) ∧
  (∀ (s : State) (g l : Nat), g < 101376 → s.weaver.readmit.find? (fun e => s.allStarted e.2) = some (g, l) →
    Answers (.nozzleReadmitEffect) s fun t => (t.byte (nozAddr g)).toNat = (s.byte (nozAddr g)).toNat / 2 * 2 ∧
        t.nozRetired g = false ∧ g ∉ t.weaver.readmit.map (·.1) ∧ t.newest = some (6, 3, g, (s.byte (nozAddr
        g)).toNat / 2 % 8) ∧ (∀ a, a ≠ nozAddr g → t.byte a = s.byte a) ∧ Keeps [.log, .weaver, .subs, .lastEvents,
        .nozRet] [.FAULT_EVT, .FAULT_LOG_WR, .FAULT_LOG_LOST] s t) ∧
  (∀ (k : Fin 4) (s : State), s.regN (R.WEAVER_MASKLINE k) ≠ 0xFFFFFFFF → s.allStarted (s.regN (R.WEAVER_MASKLINE k))
      = true →
    Answers (.maskBankFlip k) s fun t => t.fld (R.WEAVER_MASKSEL k) F.WEAVER_MASKSEL_BANK = 1 - s.fld
        (R.WEAVER_MASKSEL k) F.WEAVER_MASKSEL_BANK ∧ t.reg (R.WEAVER_MASKLINE k) = 0xFFFFFFFF ∧ Keeps []
        [.WEAVER_MASKSEL, .WEAVER_MASKLINE, .BR_FMAX, .BR_HLIMIT] s t) ∧
  (∀ (r : Requester) (k : Fin 4) (v : Word) (s : State), (s.bit R.BR_CTRL F.BR_CTRL_RUN = false ∧ s.anyPrinting =
      false) → getField F.WEAVER_OVERLAP_V v ≤ 128 →
    Answers (.overlapWrite r k v) s fun t => (∀ i : Fin 4, t.fld (R.WEAVER_OVERLAP i) F.WEAVER_OVERLAP_V = getField
        F.WEAVER_OVERLAP_V v) ∧ t.resp = some ⟨reqCode r, true, []⟩ ∧ Keeps [.resp, .log, .subs, .lastEvents]
        [.WEAVER_OVERLAP, .FAULT_EVT, .FAULT_LOG_WR, .FAULT_LOG_LOST] s t) ∧
  (∀ (r : Requester) (k : Fin 4) (v : Word) (s : State), (s.bit R.BR_CTRL F.BR_CTRL_RUN = true ∨ s.anyPrinting =
      true) →
    Answers (.overlapWrite r k v) s fun t => t.resp = some ⟨reqCode r, false, []⟩ ∧ t.newest = some (0x0C, 5, reqCode
        r, 4) ∧ Keeps [.resp, .log, .subs, .lastEvents] [.FAULT_EVT, .FAULT_LOG_WR, .FAULT_LOG_LOST] s t) ∧
  (∀ (r : Requester) (k : Fin 4) (v : Word) (s : State), (s.bit R.BR_CTRL F.BR_CTRL_RUN = false ∧ s.anyPrinting =
      false) → 128 < getField F.WEAVER_OVERLAP_V v →
    Answers (.overlapWrite r k v) s fun t => t.resp = some ⟨reqCode r, false, []⟩ ∧ t.newest = some (0x0C, 5, reqCode
        r, 5) ∧ Keeps [.resp, .log, .subs, .lastEvents] [.FAULT_EVT, .FAULT_LOG_WR, .FAULT_LOG_LOST] s t)

/-- Enabling a head channel checks its profile and makes it Idle; disabling drops its frames and disables it (R201,
R203, R218, R231, R237, R475). Clauses beyond the rules are the model's choices of log entries 35, 111. -/
def Obligations.HeadChannelEnables : Prop :=
  (∀ (r : Requester) (h : Fin 24) (v : Word) (s : State), (h.val < 22 ∨ getField F.HC_CTRL_SCAN v = getField
      F.HC_CTRL_SCAN (s.reg (R.HC_CTRL h)) ∨ s.scanErr h = 0) → (s.hcState h = 0 ∧ s.bit (R.HC_CTRL h) F.HC_CTRL_EN =
      false) → (s.power = 2 ∨ s.power = 3) → s.profErr h = 0 →
    Answers (.hcEnable r h v) s fun t => t.bit (R.HC_CTRL h) F.HC_CTRL_EN = true ∧ t.hcState h = 1 ∧ (t.hc h).tables
        = [0, 1] ∧ (t.hc h).formed = [] ∧ (t.hc h).shifting = none ∧ t.fld (R.HC_STAT h) F.HC_STAT_CFGERR = 0 ∧
        t.resp = some ⟨reqCode r, true, []⟩ ∧ Keeps [.resp, .freeCtr, .log, .landed, .hcs, .cal, .pages, .subs,
        .lastEvents, .masks, .slots, .nozRet] [.HC_CTRL, .HC_STAT, .HC_SCAN_PTR, .BR_STAT, .BR_EVT, .BR_FMAX,
        .BR_SNAPLINE, .BR_HLIMIT, .FAULT_STAT, .FAULT_EVT, .FAULT_LOG_WR, .FAULT_LOG_LOST, .CAL_HCh_NOW,
        .CAL_HCh_STAT] s t) ∧
  (∀ (r : Requester) (h : Fin 24) (v : Word) (s : State), (h.val < 22 ∨ getField F.HC_CTRL_SCAN v = getField
      F.HC_CTRL_SCAN (s.reg (R.HC_CTRL h)) ∨ s.scanErr h = 0) → (s.hcState h = 0 ∧ s.bit (R.HC_CTRL h) F.HC_CTRL_EN =
      false) → (s.power = 2 ∨ s.power = 3) → s.profErr h ≠ 0 →
    Answers (.hcEnable r h v) s fun t => t.fld (R.HC_STAT h) F.HC_STAT_CFGERR = s.profErr h ∧ t.reg (R.HC_CTRL h) =
        s.reg (R.HC_CTRL h) ∧ t.resp = some ⟨reqCode r, false, []⟩ ∧ t.newest = some (0x0C, 5, reqCode r, 5) ∧ Keeps
        [.resp, .log, .subs, .lastEvents] [.HC_STAT, .FAULT_EVT, .FAULT_LOG_WR, .FAULT_LOG_LOST] s t) ∧
  (∀ (r : Requester) (h : Fin 24) (v : Word) (s : State), (22 ≤ h.val ∧ getField F.HC_CTRL_SCAN v = 1 ∧ s.bit
      (R.HC_CTRL h) F.HC_CTRL_SCAN = false ∧ s.scanErr h ≠ 0) → (s.hcState h = 0 ∧ s.bit (R.HC_CTRL h) F.HC_CTRL_EN =
      false) → (s.power = 2 ∨ s.power = 3) →
    Answers (.hcEnable r h v) s fun t => t.fld (R.HC_STAT h) F.HC_STAT_CFGERR = s.scanErr h ∧ t.reg (R.HC_CTRL h) =
        s.reg (R.HC_CTRL h) ∧ t.resp = some ⟨reqCode r, false, []⟩ ∧ t.newest = some (0x0C, 5, reqCode r, 5) ∧ Keeps
        [.resp, .freeCtr, .log, .landed, .hcs, .cal, .pages, .subs, .lastEvents, .masks, .slots, .nozRet] [.HC_CTRL,
        .HC_STAT, .HC_SCAN_PTR, .BR_STAT, .BR_EVT, .BR_FMAX, .BR_SNAPLINE, .BR_HLIMIT, .FAULT_STAT, .FAULT_EVT,
        .FAULT_LOG_WR, .FAULT_LOG_LOST, .CAL_HCh_NOW, .CAL_HCh_STAT] s t) ∧
  (∀ (r : Requester) (h : Fin 24) (v : Word) (s : State), s.bit (R.HC_CTRL h) F.HC_CTRL_EN = true → (getField
      F.HC_CTRL_SCAN v = getField F.HC_CTRL_SCAN (s.reg (R.HC_CTRL h)) ∧ getField F.HC_CTRL_DMODE v = getField
      F.HC_CTRL_DMODE (s.reg (R.HC_CTRL h))) → (s.combRuns h 0 = false ∧ s.combRuns h 1 = false) →
    Answers (.hcDisable r h v) s fun t => t.bit (R.HC_CTRL h) F.HC_CTRL_EN = false ∧ t.hcState h = 0 ∧ (t.hc
        h).formed = [] ∧ (t.hc h).shifting = none ∧ (t.hc h).tables = [] ∧ (t.row h 0).latched = none ∧ (t.row h
        1).latched = none ∧ t.resp = some ⟨reqCode r, true, []⟩ ∧ Keeps [.resp, .freeCtr, .log, .landed, .hcs, .cal,
        .pages, .subs, .lastEvents, .masks, .slots, .nozRet] [.HC_CTRL, .HC_STAT, .HC_SCAN_PTR, .BR_STAT, .BR_EVT,
        .BR_FMAX, .BR_SNAPLINE, .BR_HLIMIT, .FAULT_STAT, .FAULT_EVT, .FAULT_LOG_WR, .FAULT_LOG_LOST, .CAL_HCh_NOW,
        .CAL_HCh_STAT] s t) ∧
  (∀ (r : Requester) (h : Fin 24) (v : Word) (s : State), s.bit (R.HC_CTRL h) F.HC_CTRL_EN = true → (getField
      F.HC_CTRL_SCAN v = getField F.HC_CTRL_SCAN (s.reg (R.HC_CTRL h)) ∧ getField F.HC_CTRL_DMODE v = getField
      F.HC_CTRL_DMODE (s.reg (R.HC_CTRL h))) → (s.combRuns h 0 = true ∨ s.combRuns h 1 = true) →
    Answers (.hcDisable r h v) s fun t => t.bit (R.HC_CTRL h) F.HC_CTRL_EN = false ∧ t.hcState h = s.hcState h ∧
        (t.hc h).formed = [] ∧ (t.hc h).shifting = none ∧ (t.hc h).tables = [] ∧ Keeps [.resp, .freeCtr, .log,
        .landed, .hcs, .cal, .pages, .subs, .lastEvents, .masks, .slots, .nozRet] [.HC_CTRL, .HC_STAT, .HC_SCAN_PTR,
        .BR_STAT, .BR_EVT, .BR_FMAX, .BR_SNAPLINE, .BR_HLIMIT, .FAULT_STAT, .FAULT_EVT, .FAULT_LOG_WR,
        .FAULT_LOG_LOST, .CAL_HCh_NOW, .CAL_HCh_STAT] s t)

/-- Code frames are formed, shifted and latched, table frames sent, late frames abandoned, errors shifted again
(R204, R195, R229, R280, R211, R213, R215, R218, R222, R224, R226). Clauses beyond the rules are the model's choices
of log entry 38. -/
def Obligations.HeadChannelFrames : Prop :=
  (∀ (h : Fin 24) (r : Fin 2) (s : State) (l : Nat), (s.mayTake h r = true ∧ s.scanPaced h = false) → l = (s.row h
      r).nextTake → (s.blankLine l = false ∧ l ∈ (s.ham (h / 6)).valid) → (s.rowMode h l = 2 ∧ s.rowacts h r l =
      true) →
    Answers (.codeFrameForm h r none [] []) s fun t => (t.hc h).formed.map (fun f => (f.row, f.line, f.warm,
        f.levels)) = [(r.val, l, false, (s.takePass h r l []).map (·.level))] ∧ (t.row h r).nextTake = lineAdd l 1 ∧
        Keeps [.freeCtr, .log, .pend, .landed, .weaver, .hcs, .cal, .pages, .subs, .lastEvents, .slots, .nozRet]
        [.headSettings, .WEAVER_EVT, .WEAVER_CNT_TWIN, .WEAVER_CNT_PARTNER, .WEAVER_CNT_BOOST, .WEAVER_CNT_LOST,
        .WEAVER_CNT_CLAMP, .HC_STAT, .HC_EVT, .HC_SCAN_PTR, .BR_STAT, .BR_EVT, .BR_FMAX, .BR_SNAPLINE, .HAM_EVT,
        .HAM_CNT_PARITY, .FAULT_STAT, .FAULT_EVT, .FAULT_LOG_WR, .FAULT_LOG_LOST, .CAL_HCh_NOW, .CAL_HCh_STAT] s t) ∧
  (∀ (h : Fin 24) (r : Fin 2) (s : State) (l : Nat), (s.mayTake h r = true ∧ s.scanPaced h = false) → l = (s.row h
      r).nextTake → (s.blankLine l = false ∧ l ∈ (s.ham (h / 6)).valid) → s.rowMode h l = 0 →
    Answers (.codeFrameForm h r none [] []) s fun t => (t.hc h).formed = [] ∧ (t.row h r).nextTake = lineAdd l 1 ∧
        Keeps [.freeCtr, .log, .pend, .landed, .weaver, .hcs, .cal, .pages, .subs, .lastEvents, .slots, .nozRet]
        [.headSettings, .WEAVER_EVT, .WEAVER_CNT_TWIN, .WEAVER_CNT_PARTNER, .WEAVER_CNT_BOOST, .WEAVER_CNT_LOST,
        .WEAVER_CNT_CLAMP, .HC_STAT, .HC_EVT, .HC_SCAN_PTR, .BR_STAT, .BR_EVT, .BR_FMAX, .BR_SNAPLINE, .HAM_EVT,
        .HAM_CNT_PARITY, .FAULT_STAT, .FAULT_EVT, .FAULT_LOG_WR, .FAULT_LOG_LOST, .CAL_HCh_NOW, .CAL_HCh_STAT] s t) ∧
  (∀ (h : Fin 24) (r : Fin 2) (p : Option ParityWord) (a b : List Nat) (s : State) (l : Nat), (s.mayTake h r = true ∧
      s.scanPaced h = false) → l = (s.row h r).nextTake → s.blankLine l = false → (s.rowMode h l = 1 ∧ s.rowacts h r
      l = true) →
    Answers (.codeFrameForm h r p a b) s fun t => (t.hc h).formed.map (fun f => (f.row, f.line, f.warm, f.eject)) =
        [(r.val, l, true, [])] ∧ (t.row h r).nextTake = lineAdd l 1 ∧ Keeps [.pend, .landed, .hcs] [.headSettings] s
        t) ∧
  (∀ (h : Fin 24) (r : Fin 2) (p : Option ParityWord) (a b : List Nat) (s : State) (l : Nat), (s.mayTake h r = true ∧
      s.scanPaced h = false) → l = (s.row h r).nextTake → s.blankLine l = true →
    Answers (.codeFrameForm h r p a b) s fun t => (t.hc h).formed = [] ∧ (t.row h r).nextTake = lineAdd l 1 ∧ Keeps
        [.pend, .landed, .hcs] [.headSettings] s t) ∧
  (∀ (h : Fin 24) (r : Fin 2) (p : Option ParityWord) (a b : List Nat) (s : State) (l : Nat), (s.mayTake h r = false
      ∨ (s.scanPaced h = false ∧ s.blankLine l = false ∧ s.rowMode h l ≠ 1 ∧ l ∉ (s.ham (h / 6)).valid)) → l = (s.row
      h r).nextTake →
    Answers (.codeFrameForm h r p a b) s fun t => Keeps [] [] s t) ∧
  (∀ (h : Fin 24) (r : Fin 2) (p : ParityWord) (a b : List Nat) (s : State) (l : Nat), (s.mayTake h r = true ∧
      s.scanPaced h = false) → l = (s.row h r).nextTake → (s.blankLine l = false ∧ l ∈ (s.ham (h / 6)).valid) →
      s.rowMode h l ≠ 1 →
    Answers (.codeFrameForm h r (some p) a b) s fun t => l ∈ (t.ham (h / 6)).redo ∧ l ∉ (t.ham (h / 6)).valid ∧
        (t.row h r).nextTake = l ∧ Keeps [.freeCtr, .log, .pend, .landed, .weaver, .hcs, .cal, .pages, .subs,
        .lastEvents, .slots, .nozRet] [.headSettings, .WEAVER_EVT, .WEAVER_CNT_TWIN, .WEAVER_CNT_PARTNER,
        .WEAVER_CNT_BOOST, .WEAVER_CNT_LOST, .WEAVER_CNT_CLAMP, .HC_STAT, .HC_EVT, .HC_SCAN_PTR, .BR_STAT, .BR_EVT,
        .BR_FMAX, .BR_SNAPLINE, .HAM_EVT, .HAM_CNT_PARITY, .FAULT_STAT, .FAULT_EVT, .FAULT_LOG_WR, .FAULT_LOG_LOST,
        .CAL_HCh_NOW, .CAL_HCh_STAT] s t) ∧
  (∀ (h : Fin 24) (r : Fin 2) (a b : List Nat) (s : State), (s.mayTake h r = true ∧ s.scanPaced h = true) →
    Answers (.codeFrameForm h r none a b) s fun t => (t.row h r).nextTake = (s.row h r).nextTake + 1 ∧ Keeps
        [.freeCtr, .log, .pend, .landed, .weaver, .hcs, .cal, .pages, .subs, .lastEvents, .slots, .nozRet]
        [.headSettings, .WEAVER_EVT, .WEAVER_CNT_TWIN, .WEAVER_CNT_PARTNER, .WEAVER_CNT_BOOST, .WEAVER_CNT_LOST,
        .WEAVER_CNT_CLAMP, .HC_STAT, .HC_EVT, .HC_SCAN_PTR, .BR_STAT, .BR_EVT, .BR_FMAX, .BR_SNAPLINE, .HAM_EVT,
        .HAM_CNT_PARITY, .FAULT_STAT, .FAULT_EVT, .FAULT_LOG_WR, .FAULT_LOG_LOST, .CAL_HCh_NOW, .CAL_HCh_STAT] s t) ∧
  (∀ (h : Fin 24) (s : State) (x : Frame) (rest : List Frame), (s.hc h).formed = x :: rest → (s.shiftFree h = true ∧
      x.bank ∉ (s.hc h).tables) → ((s.hc h).tablesFirst = false ∨ (s.hc h).tables = []) → (x.warm = true ∨ x.derated
      = s.bit (R.HC_STAT h) F.HC_STAT_DERATED) →
    Answers (.frameShiftStart h) s fun t => (t.hc h).formed = rest ∧ (t.hc h).shifting = some x ∧ (t.hc h).shiftStart
        = s.now ∧ t.fld (R.HC_CNT_THINN h) F.HC_CNT_THINN_COUNT = min (s.fld (R.HC_CNT_THINN h) F.HC_CNT_THINN_COUNT
        + x.thinN) (2 ^ F.HC_CNT_THINN_COUNT.width - 1) ∧ t.fld (R.HC_CNT_THINH h) F.HC_CNT_THINH_COUNT = min (s.fld
        (R.HC_CNT_THINH h) F.HC_CNT_THINH_COUNT + x.thinH) (2 ^ F.HC_CNT_THINH_COUNT.width - 1) ∧ (x.thinH ≠ 0 →
        t.bit (R.HC_EVT h) F.HC_EVT_THIN = true) ∧ Keeps [.hcs] [.HC_EVT, .HC_CNT_THINN, .HC_CNT_THINH] s t) ∧
  (∀ (h : Fin 24) (s : State) (x : Frame) (rest : List Frame), (s.hc h).formed = x :: rest → (s.shiftFree h = true ∧
      x.bank ∉ (s.hc h).tables) → ((s.hc h).tablesFirst = false ∨ (s.hc h).tables = []) → (x.warm = false ∧ x.derated
      ≠ s.bit (R.HC_STAT h) F.HC_STAT_DERATED) →
    Answers (.frameShiftStart h) s fun t => (t.hc h).shifting.map (fun f => (f.row, f.line, f.levels, f.derated)) =
        some (x.row, x.line, x.levels, !x.derated) ∧ (t.hc h).formed = rest ∧ (t.hc h).shiftStart = s.now ∧ Keeps
        [.hcs] [.HC_EVT, .HC_CNT_THINN, .HC_CNT_THINH] s t) ∧
  (∀ (h : Fin 24) (s : State) (b : Nat) (rest : List Nat), ((s.hc h).formed = [] ∧ (s.hc h).tables = b :: rest) →
      s.shiftFree h = true → ((s.hc h).tablesFirst = true ∨ s.tableFits h = true) →
    Answers (.tableFrameSend h) s fun t => (t.hc h).shifting = some (tableFrame b (if b ∈ (s.hc h).tableErr then 1
        else 0)) ∧ (t.hc h).shiftStart = s.now ∧ (t.hc h).tables = rest.filter (· != b) ∧ Keeps [.hcs] [] s t) ∧
  (∀ (h : Fin 24) (s : State) (x : Frame) (rest : List Frame), ((s.hc h).formed = x :: rest ∧ x.bank ∈ (s.hc
      h).tables) → s.shiftFree h = true →
    Answers (.tableFrameSend h) s fun t => (t.hc h).shifting = some (tableFrame x.bank (if x.bank ∈ (s.hc h).tableErr
        then 1 else 0)) ∧ x.bank ∉ (t.hc h).tables ∧ (t.hc h).formed = x :: rest ∧ Keeps [.hcs] [] s t) ∧
  (∀ (h : Fin 24) (s : State), (s.shiftFree h = false ∨ ((s.hc h).tablesFirst = false ∧ s.tableFits h = false ∧ ∀ x ∈
      (s.hc h).formed.head?, x.bank ∉ (s.hc h).tables)) →
    Answers (.tableFrameSend h) s fun t => t = s ∧ Keeps [.hcs] [] s t) ∧
  (∀ (h : Fin 24) (s : State) (x : Frame), ((s.hc h).shifting = some x ∧ x.table = false ∧ x.bank < 2) → (s.hc
      h).shiftStart + s.frameTicks h + 2 ≤ s.now → (s.combRuns h x.row = false ∧ (s.row h x.row).latched = none) →
      (s.dueOf h x.row x.line).all (fun u => decide (s.now + s.latw h + s.lfsu h ≤ u)) = true →
    Answers (.latchPulse h) s fun t => (t.row h x.row).latched = some x ∧ (t.hc h).shifting = none ∧ (t.hc
        h).latchEnd = s.now + s.latw h ∧ t.fld (R.HC_STAT h) (if x.row = 0 then F.HC_STAT_BANKU else F.HC_STAT_BANKD)
        = x.bank ∧ Keeps [.log, .hcs, .subs, .lastEvents] [.HC_STAT, .HC_EVT, .HC_CNT_LATE, .FAULT_EVT,
        .FAULT_LOG_WR, .FAULT_LOG_LOST] s t) ∧
  (∀ (h : Fin 24) (s : State) (x : Frame), ((s.hc h).shifting = some x ∧ x.table = false) → (s.hc h).shiftStart +
      s.frameTicks h + 2 ≤ s.now → (s.combRuns h x.row = false ∧ (s.row h x.row).latched = none) → (s.dueOf h x.row
      x.line).any (fun u => decide (u < s.now + s.latw h + s.lfsu h)) = true →
    Answers (.latchPulse h) s fun t => (t.hc h).shifting = none ∧ (t.row h x.row).latched = none ∧ t.bit (R.HC_EVT h)
        F.HC_EVT_LATE = true ∧ t.newest = some (7, 0, h.val, 0x10) ∧ Keeps [.log, .hcs, .subs, .lastEvents]
        [.HC_STAT, .HC_EVT, .HC_CNT_LATE, .FAULT_EVT, .FAULT_LOG_WR, .FAULT_LOG_LOST] s t) ∧
  (∀ (h : Fin 24) (s : State) (x : Frame), ((s.hc h).shifting = some x ∧ x.table = true) → (s.hc h).shiftStart +
      s.tableTicks h + 2 ≤ s.now →
    Answers (.latchPulse h) s fun t => (t.hc h).shifting = none ∧ x.bank ∈ (t.hc h).sentBanks ∧ (t.hc h).latchEnd =
        s.now + s.latw h ∧ Keeps [.hcs] [] s t) ∧
  (∀ (h : Fin 24) (r : Fin 2) (s : State) (x : Frame) (n : Nat), ((s.hc h).shifting.toList ++ (s.hc h).formed).find?
      (fun f => !f.table && f.row == r.val) = some x → s.latchTicks h r = some n → s.firesAfter h r x.line (n +
      s.lfsu h) = false →
    Answers (.lateFireEvent h r) s fun t => ((t.hc h).shifting.toList ++ (t.hc h).formed).find? (fun f => !f.table &&
        f.row == r.val) = none ∧ t.bit (R.HC_EVT h) F.HC_EVT_LATE = true ∧ t.fld (R.HC_CNT_LATE h)
        F.HC_CNT_LATE_COUNT = min (s.fld (R.HC_CNT_LATE h) F.HC_CNT_LATE_COUNT + 1) (2 ^ F.HC_CNT_LATE_COUNT.width -
        1) ∧ t.newest = some (7, 0, h.val, 0x10) ∧ Keeps [.log, .hcs, .subs, .lastEvents] [.HC_EVT, .HC_CNT_LATE,
        .FAULT_EVT, .FAULT_LOG_WR, .FAULT_LOG_LOST] s t) ∧
  (∀ (h : Fin 24) (s : State) (x : Frame), ((s.hc h).shifting = some x ∧ x.errors = 0 ∧ x.table = false) → ((s.hc
      h).stamps = [] ∧ s.fld (R.HC_ERR_THR h) F.HC_ERR_THR_ERRMAX ≠ 0) →
    Answers (.frameErrorReshift h) s fun t => (t.hc h).shifting = some { x with errors := 1 } ∧ (t.hc h).shiftStart =
        s.now ∧ t.bit (R.HC_EVT h) F.HC_EVT_RESHIFT = true ∧ t.fld (R.HC_CNT_RESHIFT h) F.HC_CNT_RESHIFT_COUNT = min
        (s.fld (R.HC_CNT_RESHIFT h) F.HC_CNT_RESHIFT_COUNT + 1) (2 ^ F.HC_CNT_RESHIFT_COUNT.width - 1) ∧ t.newest =
        some (7, 0, h.val, 0x11) ∧ Keeps [.freeCtr, .log, .landed, .hcs, .cal, .pages, .subs, .lastEvents] [.HC_STAT,
        .HC_EVT, .HC_SCAN_PTR, .HC_CNT_RESHIFT, .BR_STAT, .BR_EVT, .BR_FMAX, .BR_SNAPLINE, .FAULT_STAT, .FAULT_EVT,
        .FAULT_LOG_WR, .FAULT_LOG_LOST, .CAL_HCh_NOW, .CAL_HCh_STAT] s t) ∧
  (∀ (h : Fin 24) (s : State) (x : Frame), ((s.hc h).shifting = some x ∧ x.errors = 0 ∧ x.table = true) → ((s.hc
      h).stamps = [] ∧ s.fld (R.HC_ERR_THR h) F.HC_ERR_THR_ERRMAX ≠ 0) →
    Answers (.frameErrorReshift h) s fun t => (t.hc h).shifting = none ∧ (t.hc h).tables = x.bank :: (s.hc h).tables
        ∧ x.bank ∈ (t.hc h).tableErr ∧ t.bit (R.HC_EVT h) F.HC_EVT_RESHIFT = true ∧ t.newest = some (7, 0, h.val,
        0x11) ∧ Keeps [.freeCtr, .log, .landed, .hcs, .cal, .pages, .subs, .lastEvents] [.HC_STAT, .HC_EVT,
        .HC_SCAN_PTR, .HC_CNT_RESHIFT, .BR_STAT, .BR_EVT, .BR_FMAX, .BR_SNAPLINE, .FAULT_STAT, .FAULT_EVT,
        .FAULT_LOG_WR, .FAULT_LOG_LOST, .CAL_HCh_NOW, .CAL_HCh_STAT] s t) ∧
  (∀ (h : Fin 24) (s : State) (x : Frame), ((s.hc h).shifting = some x ∧ x.errors ≠ 0) →
    Answers (.frameErrorReshift h) s fun t => t.hcState h = 4 ∧ t.fld (R.HC_STAT h) F.HC_STAT_RCAUSE = 1 ∧ (t.hc
        h).shifting = none ∧ (t.hc h).formed = [] ∧ t.newest = some (7, 2, h.val, 1) ∧ Keeps [.freeCtr, .log,
        .landed, .hcs, .cal, .pages, .subs, .lastEvents] [.HC_STAT, .HC_EVT, .HC_SCAN_PTR, .HC_CNT_RESHIFT, .BR_STAT,
        .BR_EVT, .BR_FMAX, .BR_SNAPLINE, .FAULT_STAT, .FAULT_EVT, .FAULT_LOG_WR, .FAULT_LOG_LOST, .CAL_HCh_NOW,
        .CAL_HCh_STAT] s t)

/-- Fire times start comb runs or move, runs end, banks switch, a warm-up completes, a temperature goes stale (R207,
R208, R214, R217, R220, R221, R222, R223, R229, R231). Clauses beyond the rules are the model's choices of log
entries 36, 40, 41. -/
def Obligations.HeadChannelFiring : Prop :=
  (∀ (h : Fin 24) (r : Fin 2) (s : State) (l u : Nat) (rest : List (Nat × Nat)) (x : Frame), ((s.row h r).due = (l,
      u) :: rest ∧ u ≤ s.now) → lineDist l (s.row h r).nextTake < 0 → ((s.row h r).latched = some x ∧ x.line = l ∧
      x.warm = false) → (s.row h r).latchedAt + s.lfsu h ≤ u → (s.row h r).lastFire.all (fun y => decide (y +
      s.strobeTicks h ≤ u)) = true → (s.row h (1 - r.val)).runEnd.all (fun y => !s.twoRows h || decide (y ≤ u)) =
      true → s.scanPaced h = false →
    Answers (.fireTime h r) s fun t => (t.row h r).latched = none ∧ (t.row h r).lastFire = some u ∧ (t.row h r).due =
        rest ∧ (t.row h r).runEnd = some (u + 8 * s.combLen h x.bank) ∧ (∀ c ∈ x.eject, t.keepwet (nozId h (c + 2112
        * r)) = 0) ∧ t.fld (R.HC_CNT_SPIT h) F.HC_CNT_SPIT_COUNT = min (s.fld (R.HC_CNT_SPIT h) F.HC_CNT_SPIT_COUNT +
        x.spits) (2 ^ F.HC_CNT_SPIT_COUNT.width - 1) ∧ Keeps [.freeCtr, .log, .pend, .landed, .hcs, .cal, .pages,
        .subs, .lastEvents, .slots, .nozWet] [.headSettings, .HC_EVT, .HC_SCAN_PTR, .HC_CNT_SPIT, .HC_CNT_LATE,
        .HC_CNT_COLLIDE, .HC_CNT_GUARD, .HAM_EVT, .HAM_CNT_BLANK, .FAULT_EVT, .FAULT_LOG_WR, .FAULT_LOG_LOST,
        .CAL_EVT, .CAL_CNT_CUT] s t) ∧
  (∀ (h : Fin 24) (r : Fin 2) (s : State) (l u y : Nat) (rest : List (Nat × Nat)) (x : Frame), ((s.row h r).due = (l,
      u) :: rest ∧ u ≤ s.now) → lineDist l (s.row h r).nextTake < 0 → ((s.row h r).latched = some x ∧ x.line = l) →
      ((s.row h r).lastFire = some y ∧ u < y + s.strobeTicks h) →
    Answers (.fireTime h r) s fun t => (t.row h r).due = (l, y + s.strobeTicks h) :: rest ∧ (t.row h r).latched =
        some x ∧ t.fld (R.HC_CNT_GUARD h) F.HC_CNT_GUARD_COUNT = min (s.fld (R.HC_CNT_GUARD h) F.HC_CNT_GUARD_COUNT +
        1) (2 ^ F.HC_CNT_GUARD_COUNT.width - 1) ∧ t.bit (R.HC_EVT h) F.HC_EVT_GUARD = true ∧ t.newest = some (7, 5,
        h.val, 0x1A) ∧ Keeps [.freeCtr, .log, .pend, .landed, .hcs, .cal, .pages, .subs, .lastEvents, .slots,
        .nozWet] [.headSettings, .HC_EVT, .HC_SCAN_PTR, .HC_CNT_SPIT, .HC_CNT_LATE, .HC_CNT_COLLIDE, .HC_CNT_GUARD,
        .HAM_EVT, .HAM_CNT_BLANK, .FAULT_EVT, .FAULT_LOG_WR, .FAULT_LOG_LOST, .CAL_EVT, .CAL_CNT_CUT] s t) ∧
  (∀ (h : Fin 24) (r : Fin 2) (s : State) (l u y : Nat) (rest : List (Nat × Nat)) (x : Frame), ((s.row h r).due = (l,
      u) :: rest ∧ u ≤ s.now) → lineDist l (s.row h r).nextTake < 0 → ((s.row h r).latched = some x ∧ x.line = l) →
      (s.row h r).lastFire.all (fun z => decide (z + s.strobeTicks h ≤ u)) = true → ((s.row h (1 - r.val)).runEnd =
      some y ∧ u < y ∧ s.twoRows h = true) →
    Answers (.fireTime h r) s fun t => (t.row h r).due = (l, y + 8) :: rest ∧ (t.row h r).latched = some x ∧ t.fld
        (R.HC_CNT_COLLIDE h) F.HC_CNT_COLLIDE_COUNT = min (s.fld (R.HC_CNT_COLLIDE h) F.HC_CNT_COLLIDE_COUNT + 1) (2
        ^ F.HC_CNT_COLLIDE_COUNT.width - 1) ∧ t.bit (R.HC_EVT h) F.HC_EVT_COLLIDE = true ∧ t.newest = some (7, 5,
        h.val, 0x19) ∧ Keeps [.freeCtr, .log, .pend, .landed, .hcs, .cal, .pages, .subs, .lastEvents, .slots,
        .nozWet] [.headSettings, .HC_EVT, .HC_SCAN_PTR, .HC_CNT_SPIT, .HC_CNT_LATE, .HC_CNT_COLLIDE, .HC_CNT_GUARD,
        .HAM_EVT, .HAM_CNT_BLANK, .FAULT_EVT, .FAULT_LOG_WR, .FAULT_LOG_LOST, .CAL_EVT, .CAL_CNT_CUT] s t) ∧
  (∀ (h : Fin 24) (r : Fin 2) (s : State) (y : Nat), ((s.row h r).runEnd = some y ∧ y ≤ s.now) → (s.bit (R.HC_CTRL h)
      F.HC_CTRL_EN = false ∧ s.combRuns h (1 - r.val) = false) →
    Answers (.combRunEnd h r) s fun t => (t.row h r).runEnd = none ∧ t.hcState h = 0 ∧ Keeps [.freeCtr, .landed,
        .hcs, .cal, .pages, .subs, .lastEvents] [.HC_STAT, .BR_STAT, .BR_EVT, .BR_FMAX, .BR_SNAPLINE, .FAULT_STAT,
        .CAL_HCh_NOW, .CAL_HCh_STAT] s t) ∧
  (∀ (h : Fin 24) (r : Fin 2) (s : State) (y : Nat), ((s.row h r).runEnd = some y ∧ y ≤ s.now) → s.bit (R.HC_CTRL h)
      F.HC_CTRL_EN = true →
    Answers (.combRunEnd h r) s fun t => (t.row h r).runEnd = none ∧ Keeps [.hcs] [] s t) ∧
  (∀ (h : Fin 24) (s : State) (l : Nat), (l = s.regN (R.HC_COMBLINE h) ∧ l ≠ 0xFFFFFFFF) → (s.scanPaced h = false ∧
      (s.rowsOf h).all (fun r => lineLt l (s.regN (rowNextReg h r))) = true) →
    Answers (.combBankFlip h) s fun t => t.fld (R.HC_COMBSEL h) F.HC_COMBSEL_BANK = 1 - s.fld (R.HC_COMBSEL h)
        F.HC_COMBSEL_BANK ∧ t.reg (R.HC_COMBLINE h) = 0xFFFFFFFF ∧ t.bit (R.HC_STAT h) F.HC_STAT_COMBPEND = false ∧
        Keeps [.hcs] [.HC_STAT, .HC_COMBSEL, .HC_COMBLINE, .BR_FMAX, .BR_HLIMIT] s t) ∧
  (∀ (h : Fin 24) (s : State) (l : Nat), ((s.hc h).lr = some l ∧ s.hcState h = 3) → (s.rowsOf h).all (fun r => lineLt
      l (s.regN (rowNextReg h r))) = true →
    Answers (.warmupComplete h) s fun t => t.hcState h = 2 ∧ t.bit (R.HC_EVT h) F.HC_EVT_READMITTED = true ∧ t.newest
        = some (7, 3, h.val, 0x13) ∧ Keeps [.freeCtr, .log, .landed, .cal, .pages, .subs, .lastEvents] [.HC_STAT,
        .HC_EVT, .BR_STAT, .BR_EVT, .BR_FMAX, .BR_SNAPLINE, .FAULT_STAT, .FAULT_EVT, .FAULT_LOG_WR, .FAULT_LOG_LOST,
        .CAL_HCh_NOW, .CAL_HCh_STAT] s t) ∧
  (∀ (h : Fin 24) (s : State), max ((s.hc h).freshAt.getD 0) (s.hc h).enabledAt + 80000000 ≤ s.now → (s.hcState h ≠ 0
      ∧ s.bit (R.HC_STAT h) F.HC_STAT_STALE = false) →
    Answers (.tempStaleTimeout h) s fun t => t.bit (R.HC_STAT h) F.HC_STAT_STALE = true ∧ t.bit (R.HC_STAT h)
        F.HC_STAT_DERATED = true ∧ t.bit (R.HC_EVT h) F.HC_EVT_TSTALE = true ∧ Keeps [] [.HC_STAT, .HC_EVT] s t)

/-- Scan-paced channels: arming checks the scan, an SOS edge starts a group, waits or is dropped, KEEPWET counts
(R232, R233, R234, R235, R236, R475). Clauses beyond the rules are the model's choices of log entries 37, 128. -/
def Obligations.ScanPacedChannels : Prop :=
  (∀ (r : Requester) (i : Fin 2) (v : Word) (s : State), (s.hcState (22 + i) ≠ 2 ∧ s.hcState (22 + i) ≠ 3) →
      (s.writeByCodes (R.HC_SCAN_CFG (22 + i)) (putField F.HC_SCAN_CFG_ARM v 1)).scanErr (22 + i) = 0 →
    Answers (.scanArm r i v) s fun t => t.bit (R.HC_SCAN_CFG (22 + i)) F.HC_SCAN_CFG_ARM = true ∧ t.fld
        (R.HC_SCAN_CFG (22 + i)) F.HC_SCAN_CFG_G = getField F.HC_SCAN_CFG_G v ∧ t.resp = some ⟨reqCode r, true, []⟩ ∧
        Keeps [.resp] [.HC_SCAN_CFG] s t) ∧
  (∀ (r : Requester) (i : Fin 2) (v : Word) (s : State), (s.hcState (22 + i) ≠ 2 ∧ s.hcState (22 + i) ≠ 3) →
      (s.writeByCodes (R.HC_SCAN_CFG (22 + i)) (putField F.HC_SCAN_CFG_ARM v 1)).scanErr (22 + i) ≠ 0 →
    Answers (.scanArm r i v) s fun t => t.reg (R.HC_SCAN_CFG (22 + i)) = s.reg (R.HC_SCAN_CFG (22 + i)) ∧ t.fld
        (R.HC_STAT (22 + i)) F.HC_STAT_CFGERR = (s.writeByCodes (R.HC_SCAN_CFG (22 + i)) (putField F.HC_SCAN_CFG_ARM
        v 1)).scanErr (22 + i) ∧ t.resp = some ⟨reqCode r, false, []⟩ ∧ t.newest = some (0x0C, 5, reqCode r, 5) ∧
        Keeps [.resp, .log, .subs, .lastEvents] [.HC_STAT, .HC_SCAN_CFG, .FAULT_EVT, .FAULT_LOG_WR, .FAULT_LOG_LOST]
        s t) ∧
  (∀ (i : Fin 2) (b : Bool) (s : State), (s.scanPaced (22 + i) = true ∧ s.hcFires (22 + i) = true) → (s.bit
      (R.HC_SCAN_CFG (22 + i)) F.HC_SCAN_CFG_ARM = true ∧ s.bit (R.HC_SCAN_CFG (22 + i)) F.HC_SCAN_CFG_EDGE = !b) →
      (s.hc (22 + i)).scan.left = 0 →
    Answers (.sosEdge i b true) s fun t => (t.row (22 + i) 0).due = [((s.hc (22 + i)).scan.line, s.now + s.fld
        (R.HC_SCAN_DLY (22 + i)) F.HC_SCAN_DLY_DLY)] ∧ (s.twoRows (22 + i) = true → (t.row (22 + i) 1).due = [((s.hc
        (22 + i)).scan.line, s.now + s.fld (R.HC_SCAN_DLY (22 + i)) F.HC_SCAN_DLY_DLY + s.fld (R.HC_SCAN_ROWD (22 +
        i)) F.HC_SCAN_ROWD_ROWD)]) ∧ (t.hc (22 + i)).scan.left = s.fld (R.HC_SCAN_CFG (22 + i)) F.HC_SCAN_CFG_G ∧
        Keeps [.hcs, .slots] [.HC_EVT, .HC_SCAN_PTR, .HC_CNT_SOSOVR] s t) ∧
  (∀ (i : Fin 2) (b : Bool) (s : State), ((s.hc (22 + i)).scan.left = 0 ∧ (s.hc (22 + i)).scan.image = none) →
    Answers (.sosEdge i b true) s fun t => Keeps [.hcs] [.HC_CNT_SOSOVR, .HC_EVT, .HC_SCAN_PTR] s t) ∧
  (∀ (i : Fin 2) (b : Bool) (s : State), (s.scanPaced (22 + i) = true ∧ s.hcFires (22 + i) = true) → (s.bit
      (R.HC_SCAN_CFG (22 + i)) F.HC_SCAN_CFG_ARM = true ∧ s.bit (R.HC_SCAN_CFG (22 + i)) F.HC_SCAN_CFG_EDGE = !b) →
      (s.hc (22 + i)).scan.left ≠ 0 → (s.bit (R.HC_SCAN_CFG (22 + i)) F.HC_SCAN_CFG_QUEUE = true ∧ (s.hc (22 +
      i)).scan.heldEdge = none) →
    Answers (.sosEdge i b true) s fun t => (t.hc (22 + i)).scan.heldEdge = some s.now ∧ t.fld (R.HC_SCAN_PTR (22 +
        i)) F.HC_SCAN_PTR_PEND = 1 ∧ Keeps [.hcs] [.HC_SCAN_PTR] s t) ∧
  (∀ (i : Fin 2) (b : Bool) (s : State), (s.scanPaced (22 + i) = true ∧ s.hcFires (22 + i) = true) → (s.bit
      (R.HC_SCAN_CFG (22 + i)) F.HC_SCAN_CFG_ARM = true ∧ s.bit (R.HC_SCAN_CFG (22 + i)) F.HC_SCAN_CFG_EDGE = !b) →
      (s.hc (22 + i)).scan.left ≠ 0 → (s.bit (R.HC_SCAN_CFG (22 + i)) F.HC_SCAN_CFG_QUEUE = false ∨ (s.hc (22 +
      i)).scan.heldEdge ≠ none) →
    Answers (.sosEdge i b true) s fun t => t.fld (R.HC_CNT_SOSOVR (22 + i)) F.HC_CNT_SOSOVR_COUNT = min (s.fld
        (R.HC_CNT_SOSOVR (22 + i)) F.HC_CNT_SOSOVR_COUNT + 1) (2 ^ F.HC_CNT_SOSOVR_COUNT.width - 1) ∧ t.bit (R.HC_EVT
        (22 + i)) F.HC_EVT_SOSOVR = true ∧ Keeps [] [.HC_CNT_SOSOVR, .HC_EVT] s t) ∧
  (∀ (i : Fin 2) (b c : Bool) (s : State), (c = false ∨ s.scanPaced (22 + i) = false ∨ s.hcFires (22 + i) = false ∨
      s.bit (R.HC_SCAN_CFG (22 + i)) F.HC_SCAN_CFG_ARM = false ∨ s.bit (R.HC_SCAN_CFG (22 + i)) F.HC_SCAN_CFG_EDGE =
      b) →
    Answers (.sosEdge i b c) s fun t => Keeps [] [] s t) ∧
  (∀ (i : Fin 2) (s : State), (s.scanPaced (22 + i) = true ∧ s.hcState (22 + i) ≠ 0) →
    Answers (.scanKeepwetTick i) s fun t => (∀ c, c < 2112 → t.keepwet (nozId (22 + i) c) = min 0xFFFF (s.keepwet
        (nozId (22 + i) c) + 1)) ∧ Keeps [.nozWet] [] s t)

/-- A count moves POS and REV by one in its direction; an illegal transition counts in QERR and moves nothing (R240,
R241, R243, R249, R250, R251). Clauses beyond the rules are the model's choices of log entry 42. -/
def Obligations.EncoderCounts : Prop :=
  (∀ (n : Fin 4) (a b : Bool) (s : State) (back : Bool) (d : Int), (s.encOn n = true ∧ s.fld (R.ENCn_CTRL n)
      F.ENCn_CTRL_MODE = 0) → quadCount (s.fld (R.ENCn_CTRL n) F.ENCn_CTRL_MULT) (if s.bit (R.ENCn_CTRL n)
      F.ENCn_CTRL_SWAP then (s.encSt n).b else (s.encSt n).a) (if s.bit (R.ENCn_CTRL n) F.ENCn_CTRL_SWAP then
      (s.encSt n).a else (s.encSt n).b) (if s.bit (R.ENCn_CTRL n) F.ENCn_CTRL_SWAP then b else a) (if s.bit
      (R.ENCn_CTRL n) F.ENCn_CTRL_SWAP then a else b) = some back → ((s.encSt n).a = a ∨ (s.encSt n).b = b) → d = (if
      back != s.bit (R.ENCn_CTRL n) F.ENCn_CTRL_INV then -1 else 1) →
    Answers (.encoderCount n a b) s fun t => t.wide (R.ENCn_POS_LO n) = wrap 64 (s.srcPos n + d) ∧ (t.revAt n : Int)
        = (if s.revcnt n < 2 then (s.revAt n : Int) else (s.revAt n + d) % s.revcnt n) ∧ (t.encSt n).a = a ∧ (t.encSt
        n).b = b ∧ t.bit (R.ENCn_STAT n) F.ENCn_STAT_STILL = false ∧ Keeps [.freeCtr, .log, .dma, .granary, .miller,
        .pos, .br, .cam, .pages, .subs, .lastEvents, .records] [.GRANARY_STAT, .GRANARY_SR, .POS_EVT0, .POS_EVT1,
        .ENCn_POS_LO, .ENCn_POS_HI, .ENCn_MAX_LO, .ENCn_MAX_HI, .ENCn_REV, .ENCn_SPEED, .ENCn_VEL, .ENCn_STAT,
        .CMPj_STAT, .CMPj_OFF_LO, .CMPj_OFF_HI, .BR_STAT, .BR_RATE, .FAULT_EVT, .FAULT_LOG_WR, .FAULT_LOG_LOST,
        .CAM_EVT, .CAMn_STAT, .CAMn_EXP_NOW, .CAMn_GAIN_NOW, .CAMn_FSEQ, .CAMn_CNT_FRAMES, .CAMn_CNT_DROP,
        .Pp_RES_WR, .Pp_CNT_RESLOST] s t) ∧
  (∀ (n : Fin 4) (a b : Bool) (s : State) (d : Int), (s.encOn n = true ∧ s.fld (R.ENCn_CTRL n) F.ENCn_CTRL_MODE = 1)
      → (if s.bit (R.ENCn_CTRL n) F.ENCn_CTRL_SWAP then (s.encSt n).b else (s.encSt n).a) = false → (if s.bit
      (R.ENCn_CTRL n) F.ENCn_CTRL_SWAP then b else a) = true → d = (if (!(if s.bit (R.ENCn_CTRL n) F.ENCn_CTRL_SWAP
      then a else b)) != s.bit (R.ENCn_CTRL n) F.ENCn_CTRL_INV then -1 else 1) →
    Answers (.encoderCount n a b) s fun t => t.wide (R.ENCn_POS_LO n) = wrap 64 (s.srcPos n + d) ∧ (t.revAt n : Int)
        = (if s.revcnt n < 2 then (s.revAt n : Int) else (s.revAt n + d) % s.revcnt n) ∧ Keeps [.freeCtr, .log, .dma,
        .granary, .miller, .pos, .br, .cam, .pages, .subs, .lastEvents, .records] [.GRANARY_STAT, .GRANARY_SR,
        .POS_EVT0, .POS_EVT1, .ENCn_POS_LO, .ENCn_POS_HI, .ENCn_MAX_LO, .ENCn_MAX_HI, .ENCn_REV, .ENCn_SPEED,
        .ENCn_VEL, .ENCn_STAT, .CMPj_STAT, .CMPj_OFF_LO, .CMPj_OFF_HI, .BR_STAT, .BR_RATE, .FAULT_EVT, .FAULT_LOG_WR,
        .FAULT_LOG_LOST, .CAM_EVT, .CAMn_STAT, .CAMn_EXP_NOW, .CAMn_GAIN_NOW, .CAMn_FSEQ, .CAMn_CNT_FRAMES,
        .CAMn_CNT_DROP, .Pp_RES_WR, .Pp_CNT_RESLOST] s t) ∧
  (∀ (n : Fin 4) (a b : Bool) (s : State) (d : Int), (s.encOn n = true ∧ s.fld (R.ENCn_CTRL n) F.ENCn_CTRL_MODE = 2)
      → ((if s.bit (R.ENCn_CTRL n) F.ENCn_CTRL_SWAP then (s.encSt n).b else (s.encSt n).a) = false ∧ (s.encSt n).edge
      = none) → (if s.bit (R.ENCn_CTRL n) F.ENCn_CTRL_SWAP then b else a) = true → d = (if (s.bit (R.ENCn_CTRL n)
      F.ENCn_CTRL_TWDIR && !(if s.bit (R.ENCn_CTRL n) F.ENCn_CTRL_SWAP then a else b)) != s.bit (R.ENCn_CTRL n)
      F.ENCn_CTRL_INV then -1 else 1) →
    Answers (.encoderCount n a b) s fun t => t.wide (R.ENCn_POS_LO n) = wrap 64 (s.srcPos n + d) ∧ (t.encSt n).edge =
        some s.now ∧ Keeps [.freeCtr, .log, .dma, .granary, .miller, .pos, .br, .cam, .pages, .subs, .lastEvents,
        .records] [.GRANARY_STAT, .GRANARY_SR, .POS_EVT0, .POS_EVT1, .ENCn_POS_LO, .ENCn_POS_HI, .ENCn_MAX_LO,
        .ENCn_MAX_HI, .ENCn_REV, .ENCn_SPEED, .ENCn_VEL, .ENCn_STAT, .CMPj_STAT, .CMPj_OFF_LO, .CMPj_OFF_HI,
        .BR_STAT, .BR_RATE, .FAULT_EVT, .FAULT_LOG_WR, .FAULT_LOG_LOST, .CAM_EVT, .CAMn_STAT, .CAMn_EXP_NOW,
        .CAMn_GAIN_NOW, .CAMn_FSEQ, .CAMn_CNT_FRAMES, .CAMn_CNT_DROP, .Pp_RES_WR, .Pp_CNT_RESLOST] s t) ∧
  (∀ (n : Fin 4) (a b : Bool) (s : State), (s.encOn n = true ∧ s.fld (R.ENCn_CTRL n) F.ENCn_CTRL_MODE = 0) →
      ((s.encSt n).a ≠ a ∧ (s.encSt n).b ≠ b) →
    Answers (.encoderCount n a b) s fun t => t.fld (R.ENCn_QERR n) F.ENCn_QERR_COUNT = min (s.fld (R.ENCn_QERR n)
        F.ENCn_QERR_COUNT + 1) (2 ^ F.ENCn_QERR_COUNT.width - 1) ∧ t.wide (R.ENCn_POS_LO n) = s.wide (R.ENCn_POS_LO
        n) ∧ t.revAt n = s.revAt n ∧ Keeps [.freeCtr, .log, .link, .dma, .granary, .miller, .pend, .landed, .weaver,
        .hcs, .pos, .br, .cam, .cal, .axes, .eth, .pages, .subs, .lastEvents, .records, .tones, .nozGain]
        ([.LINK_STAT, .LINK_LANEn_STAT, .DMA_HALT_EVT, .DMA_CHn_STAT, .GRANARY_STAT, .GRANARY_SR, .WEAVER_KERNEL,
        .WEAVER_MASKLINE, .HC_STAT, .HC_EVT, .HC_COMBLINE, .HC_SCAN_PTR, .POS_EVT0, .POS_EVT1, .ENCn_POS_LO,
        .ENCn_POS_HI, .ENCn_MAX_LO, .ENCn_MAX_HI, .ENCn_REV, .ENCn_SPEED, .ENCn_VEL, .ENCn_STAT, .ENCn_IDXERR,
        .ENCn_QERR, .ENCn_IDXCNT, .CMPj_STAT, .CMPj_OFF_LO, .CMPj_OFF_HI, .BR_CTRL, .BR_STAT] ++ [.BR_EVT, .BR_RATE,
        .BR_FMAX, .BR_SNAPLINE, .FAULT_STAT, .FAULT_EVT, .FAULT_LOG_WR, .FAULT_LOG_LOST, .CAM_EVT, .CAMn_STAT,
        .CAMn_EXP_NOW, .CAMn_GAIN_NOW, .CAMn_FSEQ, .CAMn_CNT_FRAMES, .CAMn_CNT_DROP, .Pp_RES_WR, .Pp_CNT_RESLOST,
        .CAL_HCh_NOW, .CAL_HCh_STAT, .CLKPWR_STAT, .CLKPWR_EVT]) s t) ∧
  (∀ (n : Fin 4) (a b : Bool) (s : State), s.encOn n = false →
    Answers (.encoderCount n a b) s fun t => (t.encSt n).a = a ∧ (t.encSt n).b = b ∧ Keeps [.pos] [] s t)

/-- The first index sets REF, later ones are judged by their error; corrections move POS by single counts; rearming
(R245, R246, R247). Clauses beyond the rules are the model's choices of log entry 43. -/
def Obligations.IndexPulses : Prop :=
  (∀ (n : Fin 4) (z : Bool) (s : State), ((s.encSt n).z ≠ z ∧ s.encOn n = true ∧ s.bit (R.ENCn_CTRL n)
      F.ENCn_CTRL_ZEN = true ∧ s.fld (R.ENCn_CTRL n) F.ENCn_CTRL_MODE ≠ 2) → z ≠ s.bit (R.ENCn_CTRL n)
      F.ENCn_CTRL_ZPOL → (s.bit (R.ENCn_CTRL n) F.ENCn_CTRL_ZGATE = false ∨ ((s.encSt n).a = true ∧ (s.encSt n).b =
      true)) → (s.judges n = true ∧ s.bit (R.ENCn_STAT n) F.ENCn_STAT_REF = false) →
    Answers (.index n z) s fun t => t.bit (R.ENCn_STAT n) F.ENCn_STAT_REF = true ∧ t.revAt n = s.idxpos n ∧ t.fld
        (R.ENCn_IDXCNT n) F.ENCn_IDXCNT_COUNT = min (s.fld (R.ENCn_IDXCNT n) F.ENCn_IDXCNT_COUNT + 1) (2 ^
        F.ENCn_IDXCNT_COUNT.width - 1) ∧ Keeps [.freeCtr, .log, .dma, .granary, .miller, .pos, .br, .cam, .subs,
        .lastEvents, .records] [.GRANARY_STAT, .GRANARY_SR, .POS_EVT0, .POS_EVT1, .POS_INSTATE, .ENCn_POS_LO,
        .ENCn_POS_HI, .ENCn_MAX_LO, .ENCn_MAX_HI, .ENCn_REV, .ENCn_STAT, .ENCn_IDXERR, .ENCn_IDXCNT, .CMPj_STAT,
        .CMPj_OFF_LO, .CMPj_OFF_HI, .FAULT_EVT, .FAULT_LOG_WR, .FAULT_LOG_LOST, .CAM_EVT, .CAMn_STAT, .CAMn_EXP_NOW,
        .CAMn_GAIN_NOW, .CAMn_FSEQ, .CAMn_CNT_FRAMES, .CAMn_CNT_DROP, .Pp_RES_WR, .Pp_CNT_RESLOST] s t) ∧
  (∀ (n : Fin 4) (z : Bool) (s : State) (e : Int), ((s.encSt n).z ≠ z ∧ s.encOn n = true ∧ s.bit (R.ENCn_CTRL n)
      F.ENCn_CTRL_ZEN = true ∧ s.fld (R.ENCn_CTRL n) F.ENCn_CTRL_MODE ≠ 2) → z ≠ s.bit (R.ENCn_CTRL n)
      F.ENCn_CTRL_ZPOL → (s.bit (R.ENCn_CTRL n) F.ENCn_CTRL_ZGATE = false ∨ ((s.encSt n).a = true ∧ (s.encSt n).b =
      true)) → (s.judges n = true ∧ s.bit (R.ENCn_STAT n) F.ENCn_STAT_REF = true) → (e = indexError (s.revcnt n)
      (s.revAt n) (s.idxpos n) ∧ s.idxTol n < e.natAbs) →
    Answers (.index n z) s fun t => t.fld (R.ENCn_IDXERR n) F.ENCn_IDXERR_E = wrap 24 e ∧ t.bit (R.ENCn_IDXERR n)
        F.ENCn_IDXERR_OUT = true ∧ t.fld (R.ENCn_STAT n) F.ENCn_STAT_MISS = min (s.fld (R.ENCn_STAT n)
        F.ENCn_STAT_MISS + 1) 15 ∧ (t.fld R.POS_EVT0 F.POS_EVT0_IDXMISS).testBit n = true ∧ t.wide (R.ENCn_POS_LO n)
        = s.wide (R.ENCn_POS_LO n) ∧ t.revAt n = s.revAt n ∧ Keeps [.freeCtr, .log, .dma, .granary, .miller, .pos,
        .br, .cam, .subs, .lastEvents, .records] [.GRANARY_STAT, .GRANARY_SR, .POS_EVT0, .POS_EVT1, .POS_INSTATE,
        .ENCn_POS_LO, .ENCn_POS_HI, .ENCn_MAX_LO, .ENCn_MAX_HI, .ENCn_REV, .ENCn_STAT, .ENCn_IDXERR, .ENCn_IDXCNT,
        .CMPj_STAT, .CMPj_OFF_LO, .CMPj_OFF_HI, .FAULT_EVT, .FAULT_LOG_WR, .FAULT_LOG_LOST, .CAM_EVT, .CAMn_STAT,
        .CAMn_EXP_NOW, .CAMn_GAIN_NOW, .CAMn_FSEQ, .CAMn_CNT_FRAMES, .CAMn_CNT_DROP, .Pp_RES_WR, .Pp_CNT_RESLOST] s
        t) ∧
  (∀ (n : Fin 4) (z : Bool) (s : State) (e : Int), ((s.encSt n).z ≠ z ∧ s.encOn n = true ∧ s.bit (R.ENCn_CTRL n)
      F.ENCn_CTRL_ZEN = true ∧ s.fld (R.ENCn_CTRL n) F.ENCn_CTRL_MODE ≠ 2) → z ≠ s.bit (R.ENCn_CTRL n)
      F.ENCn_CTRL_ZPOL → (s.bit (R.ENCn_CTRL n) F.ENCn_CTRL_ZGATE = false ∨ ((s.encSt n).a = true ∧ (s.encSt n).b =
      true)) → (s.judges n = true ∧ s.bit (R.ENCn_STAT n) F.ENCn_STAT_REF = true) → (e = indexError (s.revcnt n)
      (s.revAt n) (s.idxpos n) ∧ e.natAbs ≤ s.idxTol n ∧ e ≠ 0) → (n.val ≠ 0 ∨ s.running = false) →
    Answers (.index n z) s fun t => t.fld (R.ENCn_IDXCNT n) F.ENCn_IDXCNT_COUNT = min (s.fld (R.ENCn_IDXCNT n)
        F.ENCn_IDXCNT_COUNT + 1) (2 ^ F.ENCn_IDXCNT_COUNT.width - 1) ∧ t.fld (R.ENCn_STAT n) F.ENCn_STAT_MISS = 0 ∧
        t.revAt n = s.idxpos n ∧ t.wide (R.ENCn_POS_LO n) = wrap 64 (s.srcPos n - e) ∧ Keeps [.freeCtr, .log, .dma,
        .granary, .miller, .pos, .br, .cam, .subs, .lastEvents, .records] [.GRANARY_STAT, .GRANARY_SR, .POS_EVT0,
        .POS_EVT1, .POS_INSTATE, .ENCn_POS_LO, .ENCn_POS_HI, .ENCn_MAX_LO, .ENCn_MAX_HI, .ENCn_REV, .ENCn_STAT,
        .ENCn_IDXERR, .ENCn_IDXCNT, .CMPj_STAT, .CMPj_OFF_LO, .CMPj_OFF_HI, .FAULT_EVT, .FAULT_LOG_WR,
        .FAULT_LOG_LOST, .CAM_EVT, .CAMn_STAT, .CAMn_EXP_NOW, .CAMn_GAIN_NOW, .CAMn_FSEQ, .CAMn_CNT_FRAMES,
        .CAMn_CNT_DROP, .Pp_RES_WR, .Pp_CNT_RESLOST] s t) ∧
  (∀ (n : Fin 4) (z : Bool) (s : State) (e : Int), ((s.encSt n).z ≠ z ∧ s.encOn n = true ∧ s.bit (R.ENCn_CTRL n)
      F.ENCn_CTRL_ZEN = true ∧ s.fld (R.ENCn_CTRL n) F.ENCn_CTRL_MODE ≠ 2) → z ≠ s.bit (R.ENCn_CTRL n)
      F.ENCn_CTRL_ZPOL → (s.bit (R.ENCn_CTRL n) F.ENCn_CTRL_ZGATE = false ∨ ((s.encSt n).a = true ∧ (s.encSt n).b =
      true)) → (s.judges n = true ∧ s.bit (R.ENCn_STAT n) F.ENCn_STAT_REF = true) → (e = indexError (s.revcnt n)
      (s.revAt n) (s.idxpos n) ∧ e.natAbs ≤ s.idxTol n ∧ e ≠ 0) → (n.val = 0 ∧ s.running = true) →
    Answers (.index n z) s fun t => t.fld (R.ENCn_STAT 0) F.ENCn_STAT_CORR = wrap 16 (-e) ∧ t.revAt 0 = s.idxpos 0 ∧
        t.wide (R.ENCn_POS_LO 0) = s.wide (R.ENCn_POS_LO 0) ∧ Keeps [.freeCtr, .log, .dma, .granary, .miller, .pos,
        .br, .cam, .subs, .lastEvents, .records] [.GRANARY_STAT, .GRANARY_SR, .POS_EVT0, .POS_EVT1, .POS_INSTATE,
        .ENCn_POS_LO, .ENCn_POS_HI, .ENCn_MAX_LO, .ENCn_MAX_HI, .ENCn_REV, .ENCn_STAT, .ENCn_IDXERR, .ENCn_IDXCNT,
        .CMPj_STAT, .CMPj_OFF_LO, .CMPj_OFF_HI, .FAULT_EVT, .FAULT_LOG_WR, .FAULT_LOG_LOST, .CAM_EVT, .CAMn_STAT,
        .CAMn_EXP_NOW, .CAMn_GAIN_NOW, .CAMn_FSEQ, .CAMn_CNT_FRAMES, .CAMn_CNT_DROP, .Pp_RES_WR, .Pp_CNT_RESLOST] s
        t) ∧
  (∀ (n : Fin 4) (z : Bool) (s : State), ((s.encSt n).z = z ∨ s.encOn n = false ∨ s.bit (R.ENCn_CTRL n)
      F.ENCn_CTRL_ZEN = false ∨ z = s.bit (R.ENCn_CTRL n) F.ENCn_CTRL_ZPOL) →
    Answers (.index n z) s fun t => (t.encSt n).z = z ∧ (t.fld R.POS_INSTATE F.POS_INSTATE_Z).testBit n = z ∧ Keeps
        [.pos] [.POS_INSTATE] s t) ∧
  (∀ (s : State) (d : Int), s.corr 0 ≠ 0 → (s.running = false ∨ (s.encSt 0).corrDue = true) → d = (if s.corr 0 < 0
      then -1 else 1) →
    Answers (.indexCorrectionCount) s fun t => t.wide (R.ENCn_POS_LO 0) = wrap 64 (s.srcPos 0 + d) ∧ t.corr 0 =
        s.corr 0 - d ∧ Keeps [.freeCtr, .log, .dma, .granary, .miller, .pos, .br, .cam, .subs, .lastEvents, .records]
        [.GRANARY_STAT, .GRANARY_SR, .POS_EVT1, .ENCn_POS_LO, .ENCn_POS_HI, .ENCn_MAX_LO, .ENCn_MAX_HI, .ENCn_STAT,
        .CMPj_STAT, .CMPj_OFF_LO, .CMPj_OFF_HI, .FAULT_EVT, .FAULT_LOG_WR, .FAULT_LOG_LOST, .CAM_EVT, .CAMn_STAT,
        .CAMn_EXP_NOW, .CAMn_GAIN_NOW, .CAMn_FSEQ, .CAMn_CNT_FRAMES, .CAMn_CNT_DROP, .Pp_RES_WR, .Pp_CNT_RESLOST] s
        t) ∧
  (∀ (r : Requester) (n : Fin 4) (v : Word) (s : State), getField F.ENCn_IDXCFG_REARM v = 1 →
    Answers (.indexRearm r n v) s fun t => t.bit (R.ENCn_STAT n) F.ENCn_STAT_IDXLOST = false ∧ t.bit (R.ENCn_STAT n)
        F.ENCn_STAT_REF = false ∧ t.fld (R.ENCn_IDXCFG n) F.ENCn_IDXCFG_TOL = getField F.ENCn_IDXCFG_TOL v ∧ t.resp =
        some ⟨reqCode r, true, []⟩ ∧ Keeps [.resp] [.ENCn_IDXCFG, .ENCn_STAT] s t)

/-- The window regime shows the speed over its counts, standstill shows 0, a lost signal is a permanent fault (R248,
R249, R251, R302). Clauses beyond the rules are the model's choices of log entry 44. -/
def Obligations.SpeedAndSignals : Prop :=
  (∀ (n : Fin 4) (s : State) (w : List (Nat × Bool)) (x y : Nat × Bool), s.encOn n = true → (s.windowCounts n = w ∧
      w.head? = some x ∧ w.getLast? = some y) → (s.fld (R.ENCn_SPDCFG n) F.ENCn_SPDCFG_XHI ≤ w.length ∧ 2 ≤ w.length
      ∧ w.all (fun c => c.2 == x.2) = true) →
    Answers (.speedWindowUpdate n) s fun t => t.bit (R.ENCn_STAT n) F.ENCn_STAT_WINMODE = true ∧ t.bit (R.ENCn_STAT
        n) F.ENCn_STAT_VALID = true ∧ t.reg (R.ENCn_SPEED n) = BitVec.ofInt 32 (clampInt (-(2 ^ 31)) (2 ^ 31 - 1)
        (speedOf x.2 (w.length - 1) (x.1 - y.1) s.freeCtr)) ∧ Keeps [.freeCtr, .log, .br, .pages, .subs, .lastEvents]
        [.ENCn_SPEED, .ENCn_VEL, .ENCn_STAT, .BR_STAT, .BR_RATE, .FAULT_EVT, .FAULT_LOG_WR, .FAULT_LOG_LOST] s t) ∧
  (∀ (n : Fin 4) (s : State), s.encOn n = false →
    Answers (.speedWindowUpdate n) s fun t => Keeps [] [] s t) ∧
  (∀ (n : Fin 4) (s : State), (s.encOn n = true ∧ s.bit (R.ENCn_STAT n) F.ENCn_STAT_STILL = false) → (s.encSt
      n).since + 800000 * s.fld (R.ENCn_DIRCFG n) F.ENCn_DIRCFG_STILL ≤ s.now →
    Answers (.standstillTimeout n) s fun t => t.bit (R.ENCn_STAT n) F.ENCn_STAT_VALID = false ∧ t.bit (R.ENCn_STAT n)
        F.ENCn_STAT_STILL = true ∧ t.reg (R.ENCn_SPEED n) = 0 ∧ (t.fld R.POS_EVT0 F.POS_EVT0_STILL).testBit n = true
        ∧ (t.encSt n).counts = [] ∧ Keeps [.freeCtr, .log, .pos, .br, .pages, .subs, .lastEvents] [.POS_EVT0,
        .ENCn_SPEED, .ENCn_VEL, .ENCn_STAT, .BR_STAT, .BR_RATE, .FAULT_EVT, .FAULT_LOG_WR, .FAULT_LOG_LOST] s t) ∧
  (∀ (n : Fin 4) (rx : Fin 3) (s : State), (s.encOn n = true ∧ s.rxUsed n rx = true ∧ n.val ≠ 0) →
    Answers (.lossOfSignal n rx) s fun t => t.bit (R.ENCn_STAT n) F.ENCn_STAT_FAULT = true ∧ (t.fld R.POS_EVT0
        F.POS_EVT0_LOS).testBit n = true ∧ t.newest = some (8, 1, n.val, 12 + n.val) ∧ Keeps [.log, .subs,
        .lastEvents] [.POS_EVT0, .ENCn_STAT, .FAULT_EVT, .FAULT_LOG_WR, .FAULT_LOG_LOST] s t) ∧
  (∀ (n : Fin 4) (rx : Fin 3) (s : State), (s.encOn n = true ∧ s.rxUsed n rx = true ∧ n.val = 0) →
    Answers (.lossOfSignal n rx) s fun t => t.bit (R.ENCn_STAT n) F.ENCn_STAT_FAULT = true ∧ (t.fld R.POS_EVT0
        F.POS_EVT0_LOS).testBit n = true ∧ t.bit R.FAULT_STAT F.FAULT_STAT_SAFE = true ∧ Keeps [.freeCtr, .log,
        .link, .dma, .pend, .landed, .weaver, .hcs, .br, .cal, .axes, .eth, .pages, .subs, .lastEvents, .tones,
        .nozGain] [.LINK_STAT, .LINK_LANEn_STAT, .DMA_HALT_EVT, .DMA_CHn_STAT, .WEAVER_KERNEL, .WEAVER_MASKLINE,
        .HC_STAT, .HC_EVT, .HC_COMBLINE, .HC_SCAN_PTR, .POS_EVT0, .ENCn_STAT, .BR_CTRL, .BR_STAT, .BR_EVT, .BR_RATE,
        .BR_FMAX, .BR_SNAPLINE, .FAULT_STAT, .FAULT_EVT, .FAULT_LOG_WR, .FAULT_LOG_LOST, .CAL_HCh_NOW, .CAL_HCh_STAT,
        .CLKPWR_STAT, .CLKPWR_EVT] s t)

/-- SSI frames are accepted or rejected with LASTERR; marks latch, are blanked or overflow; homes set their event
(R252, R253, R254, R255, R260, R8). Clauses beyond the rules are the model's choices of log entries 45, 46. -/
def Obligations.SsiAndMarks : Prop :=
  (∀ (m : Fin 2) (s : State), s.bit (R.SSIm_CFG m) F.SSIm_CFG_EN = true →
    Answers (.ssiFrameStart m) s fun t => (t.ssi m).start = some s.ptp ∧ (t.ssi m).rejected = (s.ssi m).rejected ∧
        Keeps [.pos] [] s t) ∧
  (∀ (m : Fin 2) (idle high : Bool) (bits : List Bool) (s : State) (ts : Nat) (d : Int), (s.ssi m).start = some ts →
      d = leastStep (s.fld (R.SSIm_CFG m) F.SSIm_CFG_POSBITS) (bitsNat (if s.bit (R.SSIm_CFG m) F.SSIm_CFG_GRAY then
      grayBits (bits.take (s.fld (R.SSIm_CFG m) F.SSIm_CFG_POSBITS)) else bits.take (s.fld (R.SSIm_CFG m)
      F.SSIm_CFG_POSBITS))) s.freeCtr (s.srcPos (4 + m.val)) → s.ssiError m idle bits high d = 0 →
    Answers (.ssiFrameReceived m idle bits high) s fun t => t.wide (R.SSIm_POS_LO m) = wrap 64 (s.srcPos (4 + m.val)
        + d) ∧ t.wide (R.SSIm_TS_LO m) = ts % 2 ^ 64 ∧ t.bit (R.SSIm_STAT m) F.SSIm_STAT_VALID = true ∧ t.fld
        (R.SSIm_STAT m) F.SSIm_STAT_LASTERR = 0 ∧ (t.ssi m).start = none ∧ (t.ssi m).rejected = 0 ∧ Keeps [.freeCtr,
        .log, .dma, .granary, .miller, .pos, .cam, .subs, .lastEvents, .records] [.GRANARY_STAT, .GRANARY_SR,
        .POS_EVT1, .SSIm_POS_LO, .SSIm_POS_HI, .SSIm_TS_LO, .SSIm_TS_HI, .SSIm_STAT, .SSIm_ERRCNT, .CMPj_STAT,
        .CMPj_OFF_LO, .CMPj_OFF_HI, .FAULT_EVT, .FAULT_LOG_WR, .FAULT_LOG_LOST, .CAM_EVT, .CAMn_STAT, .CAMn_EXP_NOW,
        .CAMn_GAIN_NOW, .CAMn_FSEQ, .CAMn_CNT_FRAMES, .CAMn_CNT_DROP, .Pp_RES_WR, .Pp_CNT_RESLOST] s t) ∧
  (∀ (m : Fin 2) (idle high : Bool) (bits : List Bool) (s : State) (ts : Nat) (d : Int), (s.ssi m).start = some ts →
      d = leastStep (s.fld (R.SSIm_CFG m) F.SSIm_CFG_POSBITS) (bitsNat (if s.bit (R.SSIm_CFG m) F.SSIm_CFG_GRAY then
      grayBits (bits.take (s.fld (R.SSIm_CFG m) F.SSIm_CFG_POSBITS)) else bits.take (s.fld (R.SSIm_CFG m)
      F.SSIm_CFG_POSBITS))) s.freeCtr (s.srcPos (4 + m.val)) → s.ssiError m idle bits high d ≠ 0 →
    Answers (.ssiFrameReceived m idle bits high) s fun t => t.fld (R.SSIm_STAT m) F.SSIm_STAT_LASTERR = s.ssiError m
        idle bits high d ∧ t.fld (R.SSIm_ERRCNT m) F.SSIm_ERRCNT_COUNT = min (s.fld (R.SSIm_ERRCNT m)
        F.SSIm_ERRCNT_COUNT + 1) (2 ^ F.SSIm_ERRCNT_COUNT.width - 1) ∧ (t.ssi m).start = none ∧ (t.ssi m).rejected =
        (s.ssi m).rejected + 1 ∧ ((s.ssi m).rejected = 2 → t.bit (R.SSIm_STAT m) F.SSIm_STAT_VALID = false ∧ (t.fld
        R.POS_EVT1 F.POS_EVT1_SSIERR).testBit m = true) ∧ Keeps [.freeCtr, .pos] [.SSIm_ERRCNT, .SSIm_STAT,
        .POS_EVT1] s t) ∧
  (∀ (i : Fin 4) (level : Bool) (s : State), ((s.mark i).level ≠ level ∧ s.bit (R.MARKi_CFG i) F.MARKi_CFG_EN = true
      ∧ level ≠ s.bit (R.MARKi_CFG i) F.MARKi_CFG_EDGE) → ((s.mark i).blank = 0 ∧ (s.mark i).fifo.length < 16) →
    Answers (.markEdge i level) s fun t => (t.mark i).fifo = (s.mark i).fifo ++ [(s.posAt (s.fld (R.MARKi_CFG i)
        F.MARKi_CFG_SRC) (s.now - 8 * s.fld (R.MARKi_CFG i) F.MARKi_CFG_FILT), (s.eth.ptpBase + ((s.now - 8 * s.fld
        (R.MARKi_CFG i) F.MARKi_CFG_FILT) * 5 + 2) / 4) % 2 ^ 64)] ∧ (t.mark i).blank = s.fld (R.MARKi_CFG i)
        F.MARKi_CFG_BLANK ∧ t.now = s.now ∧ t.fld (R.MARKi_STAT i) F.MARKi_STAT_LEVEL = (s.mark i).fifo.length + 1 ∧
        (t.fld R.POS_EVT0 F.POS_EVT0_MARK).testBit i = true ∧ Keeps [.now, .pos] [.POS_EVT0, .POS_EVT1, .POS_INSTATE,
        .MARKi_STAT] s t) ∧
  (∀ (i : Fin 4) (level : Bool) (s : State), ((s.mark i).level ≠ level ∧ s.bit (R.MARKi_CFG i) F.MARKi_CFG_EN = true
      ∧ level ≠ s.bit (R.MARKi_CFG i) F.MARKi_CFG_EDGE) → (s.mark i).blank ≠ 0 →
    Answers (.markEdge i level) s fun t => (t.mark i).fifo = (s.mark i).fifo ∧ t.now = s.now ∧ t.fld (R.MARKi_STAT i)
        F.MARKi_STAT_BLANKED = min 65535 (s.fld (R.MARKi_STAT i) F.MARKi_STAT_BLANKED + 1) ∧ Keeps [.now, .pos]
        [.POS_EVT0, .POS_EVT1, .POS_INSTATE, .MARKi_STAT] s t) ∧
  (∀ (i : Fin 4) (level : Bool) (s : State), ((s.mark i).level ≠ level ∧ s.bit (R.MARKi_CFG i) F.MARKi_CFG_EN = true
      ∧ level ≠ s.bit (R.MARKi_CFG i) F.MARKi_CFG_EDGE) → ((s.mark i).blank = 0 ∧ 16 ≤ (s.mark i).fifo.length) →
    Answers (.markEdge i level) s fun t => (t.mark i).fifo = (s.mark i).fifo ∧ t.now = s.now ∧ t.bit (R.MARKi_STAT i)
        F.MARKi_STAT_OVF = true ∧ (t.fld R.POS_EVT1 F.POS_EVT1_MARKOVF).testBit i = true ∧ Keeps [.now, .pos]
        [.POS_EVT0, .POS_EVT1, .POS_INSTATE, .MARKi_STAT] s t) ∧
  (∀ (r : Requester) (i : Fin 4) (s : State),
    Answers (.markFifoPop r i) s fun t => (t.mark i).fifo = (s.mark i).fifo.drop 1 ∧ t.bit (R.MARKi_STAT i)
        F.MARKi_STAT_OVF = false ∧ t.resp = some ⟨reqCode r, true, leBytes 4 (sget (fun _ => (0 : Word)) s.highLatch
        (R.MARKi_LAT2 i)).toNat⟩ ∧ Keeps [.resp, .pos] [.MARKi_STAT] s t) ∧
  (∀ (k : Fin 8) (level : Bool) (s : State), s.pos.home.testBit k ≠ level →
    Answers (.homeEdge k level) s fun t => t.pos.home.testBit k = level ∧ (t.fld R.POS_EVT0 F.POS_EVT0_HOME).testBit
        k = true ∧ Keeps [.pos] [.POS_EVT0] s t)

/-- Compare pulses end, entries that wait fire late, table entries are stored whole, RESTART sets the pointer to 0
(R256, R257, R259, R260). Clauses beyond the rules are the model's choices of log entry 47. -/
def Obligations.CompareOutputs : Prop :=
  (∀ (j : Fin 8) (s : State) (u : Nat), ((s.cmp j).pulse = some u ∧ u ≤ s.now) → ((s.cmp j).reach = none ∧ (s.cmp
      j).stopping = false) →
    Answers (.comparePulseEnd j) s fun t => (t.cmp j).pulse = none ∧ t.bit (R.CMPj_STAT j) F.CMPj_STAT_LEVEL = false
        ∧ Keeps [.pos] [.CMPj_STAT] s t) ∧
  (∀ (j : Fin 8) (s : State) (u : Nat), ((s.cmp j).pulse = some u ∧ u ≤ s.now) → (s.cmp j).stopping = true →
    Answers (.comparePulseEnd j) s fun t => (t.cmp j).pulse = none ∧ t.bit (R.CMPj_STAT j) F.CMPj_STAT_LEVEL = false
        ∧ t.fld (R.CMPj_STAT j) F.CMPj_STAT_STATE = 2 ∧ (t.fld R.POS_EVT1 F.POS_EVT1_CMPSTOP).testBit j = true ∧
        Keeps [.pos] [.CMPj_STAT, .POS_EVT1] s t) ∧
  (∀ (j : Fin 8) (s : State) (e : Nat) (p : Int), ((s.cmp j).pulse = none ∧ (s.cmp j).free ≤ s.now ∧ (s.cmp
      j).stopping = false) → ((s.cmp j).reach = some p ∧ s.fld (R.CMPj_STAT j) F.CMPj_STAT_STATE = 1) → (e =
      s.cmpEntry j ∧ s.cmpTarget j e ≤ p) →
    Answers (.comparePulseEnd j) s fun t => t.fld (R.CMPj_LATE j) F.CMPj_LATE_COUNT = min (s.fld (R.CMPj_LATE j)
        F.CMPj_LATE_COUNT + 1) (2 ^ F.CMPj_LATE_COUNT.width - 1) ∧ (t.cmp j).pulse = (if e / 2 ^ 48 % 4 = 0 then some
        (s.now + 8 * s.fld (R.CMPj_CTRL j) F.CMPj_CTRL_WIDTH) else none) ∧ t.bit (R.CMPj_STAT j) F.CMPj_STAT_LEVEL =
        (if e / 2 ^ 48 % 4 = 3 then !s.bit (R.CMPj_STAT j) F.CMPj_STAT_LEVEL else e / 2 ^ 48 % 4 != 2) ∧ t.cmpPtr j =
        (if e / 2 ^ 50 % 2 = 1 then 0 else (s.cmpPtr j + 1) % 1024) ∧ (e / 2 ^ 52 % 2 = 1 → (t.fld R.POS_EVT1
        F.POS_EVT1_CMP).testBit j = true) ∧ (e / 2 ^ 51 % 2 = 1 ∧ e / 2 ^ 48 % 4 ≠ 0 → t.fld (R.CMPj_STAT j)
        F.CMPj_STAT_STATE = 2) ∧ Keeps [.freeCtr, .log, .dma, .granary, .miller, .pos, .cam, .subs, .lastEvents,
        .records] [.GRANARY_STAT, .GRANARY_SR, .POS_EVT1, .CMPj_STAT, .CMPj_OFF_LO, .CMPj_OFF_HI, .CMPj_LATE,
        .FAULT_EVT, .FAULT_LOG_WR, .FAULT_LOG_LOST, .CAM_EVT, .CAMn_STAT, .CAMn_EXP_NOW, .CAMn_GAIN_NOW, .CAMn_FSEQ,
        .CAMn_CNT_FRAMES, .CAMn_CNT_DROP, .Pp_RES_WR, .Pp_CNT_RESLOST] s t) ∧
  (∀ (j : Fin 8) (s : State), ((s.cmp j).pulse = none ∧ (s.cmp j).reach = none ∨ s.now < (s.cmp j).pulse.getD 0) →
    Answers (.comparePulseEnd j) s fun t => Keeps [] [] s t) ∧
  (∀ (r : Requester) (v : Word) (s : State),
    Answers (.tableEntryStore r v) s fun t => sget (fun _ => 0) t.pos.table (1024 * s.fld R.POS_TAB_ADDR
        F.POS_TAB_ADDR_CMP + s.fld R.POS_TAB_ADDR F.POS_TAB_ADDR_ENTRY) = (s.regN R.POS_TAB_DATA_LO + 2 ^ 32 *
        v.toNat) % 2 ^ 53 ∧ t.fld R.POS_TAB_ADDR F.POS_TAB_ADDR_ENTRY = (s.fld R.POS_TAB_ADDR F.POS_TAB_ADDR_ENTRY +
        1) % 1024 ∧ t.resp = some ⟨reqCode r, true, []⟩ ∧ Keeps [.resp, .pos] [.POS_TAB_ADDR] s t) ∧
  (∀ (r : Requester) (j : Fin 8) (v : Word) (s : State), getField F.CMPj_CTRL_RESTART v = 1 →
    Answers (.compareRestart r j v) s fun t => t.fld (R.CMPj_STAT j) F.CMPj_STAT_PTR = 0 ∧ (getField F.CMPj_CTRL_EN v
        = 1 ∧ s.bit (R.CMPj_CTRL j) F.CMPj_CTRL_EN = false → t.fld (R.CMPj_STAT j) F.CMPj_STAT_STATE = 1) ∧ t.resp =
        some ⟨reqCode r, true, []⟩ ∧ Keeps [.resp, .pos] [.CMPj_CTRL, .CMPj_STAT] s t)

/-- Loop enable and disable, their refusals, and the update: it steps, locks, unlocks or snaps (R261, R263, R264,
R266, R274, R475). Clauses beyond the rules are the model's choices of log entries 49, 53. -/
def Obligations.LoopControl : Prop :=
  (∀ (r : Requester) (v : Word) (s : State), (getField F.BR_CTRL_EN v = 1 ∧ getField F.BR_CTRL_RUN v = 0) → (s.bit
      R.BR_CTRL F.BR_CTRL_EN = false ∧ s.bit R.BR_CTRL F.BR_CTRL_RUN = false) → s.applyRatio.ratioOk = true →
      (s.enc0Valid = false ∧ s.bit (R.ENCn_STAT 0) F.ENCn_STAT_FAULT = false) →
    Answers (.loopEnable r v) s fun t => t.bit R.BR_CTRL F.BR_CTRL_EN = true ∧ t.loopState = 1 ∧ t.br.phi =
        s.applyRatio.wOf s.enc0Pos ∧ t.resp = some ⟨reqCode r, true, []⟩ ∧ Keeps [.resp, .freeCtr, .log, .landed,
        .weaver, .hcs, .br, .cam, .cal, .eth, .pages, .subs, .lastEvents] [.HC_STAT, .BR_CTRL, .BR_STAT, .BR_EVT,
        .BR_NUM, .BR_DEN, .BR_RATE, .BR_FMAX, .BR_LINE, .BR_SNAPLINE, .BR_HLIMIT, .BR_ROWU_NEXT, .BR_ROWD_NEXT,
        .FAULT_STAT, .FAULT_EVT, .FAULT_LOG_WR, .FAULT_LOG_LOST, .CAM_EVT, .CAM_LAD_NEXT, .Pp_STAT, .CAL_HCh_NOW,
        .CAL_HCh_STAT, .CLKPWR_STAT, .CLKPWR_EVT] s t) ∧
  (∀ (r : Requester) (v : Word) (s : State), getField F.BR_CTRL_EN v = 1 → (s.bit R.BR_CTRL F.BR_CTRL_EN = false ∧
      s.bit R.BR_CTRL F.BR_CTRL_RUN = false) → s.applyRatio.ratioOk = false →
    Answers (.loopEnable r v) s fun t => t.bit R.BR_EVT F.BR_EVT_CFGREF = true ∧ t.resp = some ⟨reqCode r, false, []⟩
        ∧ t.newest = some (0x0C, 5, reqCode r, 5) ∧ Keeps [.resp, .log, .subs, .lastEvents] [.BR_EVT, .FAULT_EVT,
        .FAULT_LOG_WR, .FAULT_LOG_LOST] s t) ∧
  (∀ (r : Requester) (v : Word) (s : State), (getField F.BR_CTRL_EN v = 0 ∧ getField F.BR_CTRL_RUN v = 0) → (s.bit
      R.BR_CTRL F.BR_CTRL_EN = true ∧ s.bit R.BR_CTRL F.BR_CTRL_RUN = false) →
    Answers (.loopDisable r v) s fun t => t.bit R.BR_CTRL F.BR_CTRL_EN = false ∧ t.loopState = 0 ∧ t.br.phi =
        s.phiNow ∧ t.resp = some ⟨reqCode r, true, []⟩ ∧ Keeps [.resp, .freeCtr, .log, .landed, .weaver, .hcs, .br,
        .cam, .cal, .eth, .pages, .subs, .lastEvents] [.HC_STAT, .BR_CTRL, .BR_STAT, .BR_EVT, .BR_NUM, .BR_DEN,
        .BR_RATE, .BR_FMAX, .BR_LINE, .BR_SNAPLINE, .BR_HLIMIT, .BR_ROWU_NEXT, .BR_ROWD_NEXT, .FAULT_STAT,
        .FAULT_EVT, .FAULT_LOG_WR, .FAULT_LOG_LOST, .CAM_EVT, .CAM_LAD_NEXT, .Pp_STAT, .CAL_HCh_NOW, .CAL_HCh_STAT,
        .CLKPWR_STAT, .CLKPWR_EVT] s t) ∧
  (∀ (r : Requester) (v : Word) (s : State), getField F.BR_CTRL_EN v = 0 → (s.bit R.BR_CTRL F.BR_CTRL_EN = true ∧
      s.bit R.BR_CTRL F.BR_CTRL_RUN = true) →
    Answers (.loopDisable r v) s fun t => t.bit R.BR_EVT F.BR_EVT_CFGREF = true ∧ t.resp = some ⟨reqCode r, false,
        []⟩ ∧ t.newest = some (0x0C, 5, reqCode r, 4) ∧ Keeps [.resp, .log, .subs, .lastEvents] [.BR_EVT, .FAULT_EVT,
        .FAULT_LOG_WR, .FAULT_LOG_LOST] s t) ∧
  (∀ (s : State) (e : Int), (2 ≤ s.loopState ∧ s.br.updAt + 800 ≤ s.now) → (s.enc0Valid = true ∧ s.bit (R.ENCn_STAT
      0) F.ENCn_STAT_FAULT = false ∧ s.bit (R.ENCn_STAT 0) F.ENCn_STAT_STILL = false ∧ s.fastFor 8 = true) → e =
      s.wNum s.enc0Pos (if s.enc0Back then -32 else 32) - s.phiNow * s.regN R.BR_DEN → e.natAbs ≤ 64 * s.fld
      R.BR_LOCK F.BR_LOCK_SNAPTOL * 65536 * s.regN R.BR_DEN →
    Answers (.loopUpdate) s fun t => t.br.updAt = s.now ∧ t.br.phi0 = s.phiNow ∧ t.br.phimax = s.phimaxNow ∧
        (s.loopState = 2 ∧ e.natAbs ≤ s.fld R.BR_LOCK F.BR_LOCK_LOCKTOL * 65536 * s.regN R.BR_DEN ∧ s.fld R.BR_LOCK
        F.BR_LOCK_LOCKN ≤ s.br.lockRun + 1 → t.loopState = 3 ∧ t.bit R.BR_EVT F.BR_EVT_LOCKED = true) ∧ (s.loopState
        = 3 ∧ s.fld R.BR_LOCK F.BR_LOCK_UNLOCKTOL * 65536 * s.regN R.BR_DEN < e.natAbs → t.loopState = 2 ∧ t.bit
        R.BR_EVT F.BR_EVT_UNLOCK = true ∧ t.fld R.BR_CNT_UNLOCK F.BR_CNT_UNLOCK_COUNT = min (s.fld R.BR_CNT_UNLOCK
        F.BR_CNT_UNLOCK_COUNT + 1) (2 ^ F.BR_CNT_UNLOCK_COUNT.width - 1)) ∧ Keeps [.freeCtr, .log, .br, .pages,
        .subs, .lastEvents] [.BR_STAT, .BR_EVT, .BR_RATE, .BR_ERR, .BR_CNT_UNLOCK, .BR_CNT_SNAP, .FAULT_EVT,
        .FAULT_LOG_WR, .FAULT_LOG_LOST] s t) ∧
  (∀ (s : State) (e : Int), (2 ≤ s.loopState ∧ s.br.updAt + 800 ≤ s.now) → (s.enc0Valid = true ∧ s.bit (R.ENCn_STAT
      0) F.ENCn_STAT_FAULT = false ∧ s.bit (R.ENCn_STAT 0) F.ENCn_STAT_STILL = false ∧ s.fastFor 8 = true) → e =
      s.wNum s.enc0Pos (if s.enc0Back then -32 else 32) - s.phiNow * s.regN R.BR_DEN → 64 * s.fld R.BR_LOCK
      F.BR_LOCK_SNAPTOL * 65536 * s.regN R.BR_DEN < e.natAbs →
    Answers (.loopUpdate) s fun t => t.loopState = 2 ∧ t.bit R.BR_EVT F.BR_EVT_SNAP = true ∧ t.fld R.BR_CNT_SNAP
        F.BR_CNT_SNAP_COUNT = min (s.fld R.BR_CNT_SNAP F.BR_CNT_SNAP_COUNT + 1) (2 ^ F.BR_CNT_SNAP_COUNT.width - 1) ∧
        t.newest = some (9, 0, s.datumRow.1, 3) ∧ t.br.lockRun = 0 ∧ t.br.updAt = s.now ∧ Keeps [.freeCtr, .log, .br,
        .pages, .subs, .lastEvents] [.BR_STAT, .BR_EVT, .BR_RATE, .BR_ERR, .BR_CNT_UNLOCK, .BR_CNT_SNAP, .FAULT_EVT,
        .FAULT_LOG_WR, .FAULT_LOG_LOST] s t)

/-- RUN starts the grid at BR_LINESTART with every row and hamlet before it; it stops to Ready; refusals (R199, R271,
R274, R287, R414, R475). Clauses beyond the rules are the model's choices of log entries 52, 53. -/
def Obligations.GridRuns : Prop :=
  (∀ (r : Requester) (v : Word) (s : State), (getField F.BR_CTRL_RUN v = 1 ∧ getField F.BR_CTRL_EN v = 1) → (s.bit
      R.BR_CTRL F.BR_CTRL_EN = true ∧ s.bit R.BR_CTRL F.BR_CTRL_RUN = false) → (s.power = 2 ∨ s.power = 3) →
    Answers (.runStart r v) s fun t => t.power = 3 ∧ t.bit R.BR_CTRL F.BR_CTRL_RUN = true ∧ t.running = true ∧ t.regN
        R.BR_LINE = 0xFFFFFFFF ∧ t.regN R.BR_SNAPLINE = 0xFFFFFFFF ∧ t.br.grid.map (fun g => (g.line, g.pos)) =
        [(s.regN R.BR_LINESTART, s.startPos)] ∧ t.br.firstLine = s.regN R.BR_LINESTART ∧ (∀ h : Fin 24, ∀ i : Fin 2,
        s.scanPaced h = false → t.regN (rowNextReg h i) = s.regN R.BR_LINESTART ∧ (t.row h i).nextTake = s.regN
        R.BR_LINESTART) ∧ (∀ k : Fin 4, (t.ham k).next = s.regN R.BR_LINESTART ∧ (t.ham k).valid = [] ∧ (t.ham
        k).pass = none) ∧ t.weaver.overlap = s.fld (R.WEAVER_OVERLAP 0) F.WEAVER_OVERLAP_V ∧ t.resp = some ⟨reqCode
        r, true, []⟩ ∧ Keeps [.resp, .freeCtr, .log, .landed, .weaver, .hcs, .br, .cam, .cal, .eth, .pages, .subs,
        .lastEvents] [.HC_STAT, .BR_CTRL, .BR_STAT, .BR_EVT, .BR_NUM, .BR_DEN, .BR_RATE, .BR_FMAX, .BR_LINE,
        .BR_SNAPLINE, .BR_HLIMIT, .BR_ROWU_NEXT, .BR_ROWD_NEXT, .FAULT_STAT, .FAULT_EVT, .FAULT_LOG_WR,
        .FAULT_LOG_LOST, .CAM_EVT, .CAM_LAD_NEXT, .Pp_STAT, .CAL_HCh_NOW, .CAL_HCh_STAT, .CLKPWR_STAT, .CLKPWR_EVT] s
        t) ∧
  (∀ (r : Requester) (v : Word) (s : State), (getField F.BR_CTRL_RUN v = 1 ∧ getField F.BR_CTRL_EN v = 1) → (s.bit
      R.BR_CTRL F.BR_CTRL_EN = true ∧ s.bit R.BR_CTRL F.BR_CTRL_RUN = false) → (s.power ≠ 2 ∧ s.power ≠ 3) →
    Answers (.runStart r v) s fun t => t.bit R.BR_EVT F.BR_EVT_CFGREF = true ∧ t.resp = some ⟨reqCode r, false, []⟩ ∧
        t.newest = some (0x0C, 5, reqCode r, 4) ∧ Keeps [.resp, .log, .subs, .lastEvents] [.BR_EVT, .FAULT_EVT,
        .FAULT_LOG_WR, .FAULT_LOG_LOST] s t) ∧
  (∀ (r : Requester) (v : Word) (s : State), (getField F.BR_CTRL_RUN v = 0 ∧ s.bit R.BR_CTRL F.BR_CTRL_RUN = true) →
      (getField F.BR_CTRL_EN v = getField F.BR_CTRL_EN (s.reg R.BR_CTRL) ∧ getField F.BR_CTRL_STRETCHONLY v =
      getField F.BR_CTRL_STRETCHONLY (s.reg R.BR_CTRL)) → s.pagesOpen = false →
    Answers (.runStop r v) s fun t => t.bit R.BR_CTRL F.BR_CTRL_RUN = false ∧ t.running = false ∧ t.power = (if
        s.power = 3 then 2 else s.power) ∧ (∀ h : Fin 24, s.scanPaced h = false → t.hcState h = (if s.hcState h = 2
        then 1 else s.hcState h) ∧ (t.hc h).formed = [] ∧ (t.hc h).shifting = (s.hc h).shifting.filter (·.table)) ∧
        t.resp = some ⟨reqCode r, true, []⟩ ∧ Keeps [.resp, .freeCtr, .log, .landed, .weaver, .hcs, .br, .cam, .cal,
        .eth, .pages, .subs, .lastEvents] [.HC_STAT, .BR_CTRL, .BR_STAT, .BR_EVT, .BR_NUM, .BR_DEN, .BR_RATE,
        .BR_FMAX, .BR_LINE, .BR_SNAPLINE, .BR_HLIMIT, .BR_ROWU_NEXT, .BR_ROWD_NEXT, .FAULT_STAT, .FAULT_EVT,
        .FAULT_LOG_WR, .FAULT_LOG_LOST, .CAM_EVT, .CAM_LAD_NEXT, .Pp_STAT, .CAL_HCh_NOW, .CAL_HCh_STAT, .CLKPWR_STAT,
        .CLKPWR_EVT] s t) ∧
  (∀ (r : Requester) (v : Word) (s : State), (getField F.BR_CTRL_RUN v = 0 ∧ s.bit R.BR_CTRL F.BR_CTRL_RUN = true) →
      s.pagesOpen = true →
    Answers (.runStop r v) s fun t => t.bit R.BR_EVT F.BR_EVT_CFGREF = true ∧ t.resp = some ⟨reqCode r, false, []⟩ ∧
        t.newest = some (0x0C, 5, reqCode r, 4) ∧ Keeps [.resp, .log, .subs, .lastEvents] [.BR_EVT, .FAULT_EVT,
        .FAULT_LOG_WR, .FAULT_LOG_LOST] s t)

/-- A row fires its next line once phimax reaches it and not backward; the datum row places lines; marks start pages
(R207, R268, R269, R270, R273, R275, R276). Clauses beyond the rules are the model's choices of log entries 50, 126.
-/
def Obligations.RowsAndMarks : Prop :=
  (∀ (h : Fin 24) (i : Fin 2) (s : State) (l : Nat), l = s.regN (rowNextReg h i) → (s.running = true ∧ s.scanPaced h
      = false ∧ i.val ∈ s.rowsOf h) → (s.firePos h i l * 65536 ≤ s.phimaxNow ∧ s.enc0Back = false) →
    Answers (.rowFire h i) s fun t => t.regN (rowNextReg h i) = lineAdd l 1 ∧ (s.hcFires h = true ∧ s.blankLine l =
        false → (t.row h i).due = (s.row h i).due ++ [(l, s.now)]) ∧ (s.hcFires h = true → t.hcState h = (if
        s.hcState h = 1 then 2 else s.hcState h)) ∧ (s.datum = (h.val, i.val) → t.br.datumFires.head? = some (l,
        s.now)) ∧ (s.datum = (h.val, i.val) ∧ s.br.grid.any (fun g => g.line == lineAdd l 1) = false →
        t.br.grid.head?.map (·.line) = some (lineAdd l 1)) ∧ Keeps [.freeCtr, .log, .pend, .landed, .hcs, .pos, .br,
        .cam, .cal, .mot, .pages, .subs, .lastEvents, .slots, .nozWet] ([.datumSettings, .HC_STAT, .ENCn_SPEED,
        .ENCn_VEL, .CMPj_CTRL, .CMPj_STAT, .BR_STAT, .BR_EVT, .BR_STRETCH, .BR_FMAX, .BR_LINE, .BR_SNAPLINE,
        .BR_STRETCHSUM, .BR_CNT_STRETCH, .BR_CNT_OVSBLANK, .BR_ROWU, .BR_ROWD, .BR_HLIMIT, .BR_ROWU_NEXT,
        .BR_ROWD_NEXT, .HAM_LEAD, .HAM_LEADDEF, .FAULT_STAT, .FAULT_EVT, .FAULT_LOG_WR, .FAULT_LOG_LOST, .CAM_EVT,
        .CAM_LAD_NEXT, .Pp_STAT, .CAL_HCh_NOW] ++ [.CAL_HCh_STAT]) s t) ∧
  (∀ (h : Fin 24) (i : Fin 2) (s : State), (s.running = true ∧ s.scanPaced h = false ∧ i.val ∈ s.rowsOf h) →
      (s.firePos h i (s.regN (rowNextReg h i)) * 65536 ≤ s.phimaxNow ∧ s.enc0Back = true) →
    Answers (.rowFire h i) s fun t => t.bit R.BR_STAT F.BR_STAT_DIRINH = true ∧ Keeps [] [.BR_STAT] s t) ∧
  (∀ (h : Fin 24) (i : Fin 2) (s : State), (s.running = false ∨ s.scanPaced h = true ∨ i.val ∉ s.rowsOf h ∨
      s.phimaxNow < s.firePos h i (s.regN (rowNextReg h i)) * 65536) →
    Answers (.rowFire h i) s fun t => Keeps [] [] s t) ∧
  (∀ (s : State) (e : Int × Nat) (rest : List (Int × Nat)) (n l : Nat), (s.mark (s.fld R.BR_PAGE_CFG
      F.BR_PAGE_CFG_MARKSEL)).fifo = e :: rest → (s.nextPage = some n ∧ (s.page n).trigger = 0 ∧ s.running = true) →
      l = s.lineAtDot (s.dotOf e.1 + sext 32 (s.regN R.BR_MARKOFF)) → (lineLe l s.pageLimit = false ∧ lineLe l
      s.prepBegun = false) →
    Answers (.markTake) s fun t => (t.mark (s.fld R.BR_PAGE_CFG F.BR_PAGE_CFG_MARKSEL)).fifo = rest ∧ (t.page
        n).lfirst = l ∧ (t.page n).llast = lineAdd l ((s.page n).length - 1) ∧ Keeps [.freeCtr, .pos, .br, .pages,
        .subs, .lastEvents] [.MARKi_STAT, .BR_EVT, .BR_CNT_MARKREJ, .CAM_LAD_NEXT] s t) ∧
  (∀ (s : State) (e : Int × Nat) (rest : List (Int × Nat)), (s.mark (s.fld R.BR_PAGE_CFG F.BR_PAGE_CFG_MARKSEL)).fifo
      = e :: rest → s.nextPage.any (fun n => s.running && (s.page n).trigger == 0 && !lineLe (s.lineAtDot (s.dotOf
      e.1 + sext 32 (s.regN R.BR_MARKOFF))) s.pageLimit) = false →
    Answers (.markTake) s fun t => (t.mark (s.fld R.BR_PAGE_CFG F.BR_PAGE_CFG_MARKSEL)).fifo = rest ∧ t.bit R.BR_EVT
        F.BR_EVT_MARKREJ = true ∧ t.fld R.BR_CNT_MARKREJ F.BR_CNT_MARKREJ_COUNT = min (s.fld R.BR_CNT_MARKREJ
        F.BR_CNT_MARKREJ_COUNT + 1) (2 ^ F.BR_CNT_MARKREJ_COUNT.width - 1) ∧ Keeps [.pos] [.MARKi_STAT, .BR_EVT,
        .BR_CNT_MARKREJ] s t) ∧
  (∀ (s : State), (s.mark (s.fld R.BR_PAGE_CFG F.BR_PAGE_CFG_MARKSEL)).fifo = [] →
    Answers (.markTake) s fun t => Keeps [] [] s t)

/-- Requests of retirement and re-admission act on every channel that they name, and on no other (R228, R298, R299,
R279). Clauses beyond the rules are the model's choices of log entry 39. -/
def Obligations.RetireAndReadmitRequests : Prop :=
  (∀ (r : Requester) (v : Word) (s : State),
    Answers (.hcRetireRequest r v) s fun t => (∀ h : Fin 24, v.toNat.testBit h = true ∧ s.hcActive h = true →
        t.hcState h = 4 ∧ t.fld (R.HC_STAT h) F.HC_STAT_RCAUSE = 4 ∧ (t.hc h).formed = [] ∧ (t.hc h).shifting = none)
        ∧ (∀ h : Fin 24, v.toNat.testBit h = false ∨ s.hcActive h = false → t.hcState h = s.hcState h ∧ t.hc h = s.hc
        h) ∧ t.resp = some ⟨reqCode r, true, []⟩ ∧ Keeps [.resp, .freeCtr, .log, .landed, .hcs, .cal, .pages, .subs,
        .lastEvents] [.HC_STAT, .HC_EVT, .HC_SCAN_PTR, .BR_STAT, .BR_EVT, .BR_FMAX, .BR_SNAPLINE, .FAULT_STAT,
        .FAULT_EVT, .FAULT_LOG_WR, .FAULT_LOG_LOST, .CAL_HCh_NOW, .CAL_HCh_STAT] s t) ∧
  (∀ (r : Requester) (v : Word) (s : State),
    Answers (.hcReadmitRequest r v) s fun t => (∀ h : Fin 24, v.toNat.testBit h = true ∧ s.hcState h = 4 ∧ s.rate16 ≤
        s.fld (R.BR_HLIMIT h) F.BR_HLIMIT_LIMIT * 16 → t.hcState h = 3 ∧ (t.hc h).lr.isSome = true ∧ (t.hc h).tables
        = [0, 1]) ∧ (∀ h : Fin 24, v.toNat.testBit h = false ∨ s.hcState h ≠ 4 ∨ s.fld (R.BR_HLIMIT h)
        F.BR_HLIMIT_LIMIT * 16 < s.rate16 → t.hcState h = s.hcState h ∧ t.hc h = s.hc h) ∧ t.resp = some ⟨reqCode r,
        true, []⟩ ∧ Keeps [.resp, .freeCtr, .log, .landed, .hcs, .cal, .pages, .subs, .lastEvents] [.HC_STAT,
        .BR_STAT, .BR_EVT, .BR_FMAX, .BR_SNAPLINE, .FAULT_STAT, .FAULT_EVT, .FAULT_LOG_WR, .FAULT_LOG_LOST,
        .CAL_HCh_NOW, .CAL_HCh_STAT] s t) ∧
  (∀ (r : Requester) (v : Word) (s : State), getField F.FAULT_NOZ_RETIRE_NOZ v < 101376 →
    Answers (.nozzleRetireRequest r v) s fun t => t.nozRetired (getField F.FAULT_NOZ_RETIRE_NOZ v) = true ∧ (t.byte
        (nozAddr (getField F.FAULT_NOZ_RETIRE_NOZ v))).toNat % 16 = 7 ∧ t.newest = some (6, 2, getField
        F.FAULT_NOZ_RETIRE_NOZ v, 3) ∧ t.resp = some ⟨reqCode r, true, []⟩ ∧ (∀ a, a ≠ nozAddr (getField
        F.FAULT_NOZ_RETIRE_NOZ v) → t.byte a = s.byte a) ∧ Keeps [.resp, .log, .weaver, .subs, .lastEvents, .nozRet]
        [.FAULT_EVT, .FAULT_LOG_WR, .FAULT_LOG_LOST] s t) ∧
  (∀ (r : Requester) (v : Word) (s : State), 101376 ≤ getField F.FAULT_NOZ_RETIRE_NOZ v →
    Answers (.nozzleRetireRequest r v) s fun t => t.resp = some ⟨reqCode r, true, []⟩ ∧ Keeps [.resp] [] s t)

/-- A safe stop retires the channels, stops grid, DMA, pages and axes; clearing it needs every trigger gone (R305,
R306, R307, R374, R405). Clauses beyond the rules are the model's choices of log entries 57, 58. -/
def Obligations.SafeStops : Prop :=
  (∀ (r : Requester) (v : Word) (s : State), s.bit R.FAULT_STAT F.FAULT_STAT_SAFE = false →
    Answers (.safeStopRequest r v) s fun t => t.bit R.FAULT_STAT F.FAULT_STAT_SAFE = true ∧ t.fld R.FAULT_STAT
        F.FAULT_STAT_SSCAUSE = 3 ∧ t.bit R.FAULT_EVT F.FAULT_EVT_SAFESTOP = true ∧ (∀ h : Fin 24, s.hcActive h = true
        → t.hcState h = 4 ∧ t.fld (R.HC_STAT h) F.HC_STAT_RCAUSE = 5) ∧ t.bit R.BR_CTRL F.BR_CTRL_RUN = false ∧
        t.running = false ∧ (∀ n : Fin 32, (1 ≤ s.dmaState n ∧ s.dmaState n ≤ 4) ∧ outstanding (s.ch n) = 0 →
        t.dmaState n = 5) ∧ (∀ n, (s.page n).state = 2 ∨ (s.page n).state = 3 → (t.page n).state = 5 ∧ (t.page
        n).defective = true) ∧ (∀ n : Fin 4, s.axState n ≠ 0 ∧ s.axState n ≠ 6 ∧ s.fld (R.MOT_AXn_CTRL n)
        F.MOT_AXn_CTRL_SSACT ≠ 3 → (t.ax n).safe = true) ∧ Keeps [.resp, .freeCtr, .log, .link, .dma, .pend, .landed,
        .weaver, .hcs, .cal, .axes, .eth, .pages, .subs, .lastEvents, .tones, .nozGain] [.LINK_STAT,
        .LINK_LANEn_STAT, .DMA_HALT_EVT, .DMA_CHn_STAT, .WEAVER_KERNEL, .WEAVER_MASKLINE, .HC_STAT, .HC_EVT,
        .HC_COMBLINE, .HC_SCAN_PTR, .BR_CTRL, .BR_STAT, .BR_EVT, .BR_FMAX, .BR_SNAPLINE, .FAULT_CTRL, .FAULT_STAT,
        .FAULT_EVT, .FAULT_LOG_WR, .FAULT_LOG_LOST, .CAL_HCh_NOW, .CAL_HCh_STAT, .CLKPWR_STAT, .CLKPWR_EVT] s t) ∧
  (∀ (r : Requester) (v : Word) (s : State), s.bit R.FAULT_STAT F.FAULT_STAT_SAFE = true →
    Answers (.safeStopRequest r v) s fun t => t.newest = some (0x0B, 5, 0, 3) ∧ t.resp = some ⟨reqCode r, true, []⟩ ∧
        Keeps [.resp, .log, .subs, .lastEvents] [.FAULT_CTRL, .FAULT_EVT, .FAULT_LOG_WR, .FAULT_LOG_LOST] s t) ∧
  (∀ (r : Requester) (v : Word) (s : State), getField F.FAULT_CTRL_SAFESTOP v = 0 → (s.bit R.FAULT_STAT
      F.FAULT_STAT_SAFE = true ∧ s.triggerPresent = false) →
    Answers (.safeStopClear r v) s fun t => t.bit R.FAULT_STAT F.FAULT_STAT_SAFE = false ∧ t.fld R.FAULT_STAT
        F.FAULT_STAT_SSCAUSE = 0 ∧ t.newest = some (0x0B, 7, 0, s.fld R.FAULT_STAT F.FAULT_STAT_SSCAUSE) ∧ t.resp =
        some ⟨reqCode r, true, []⟩ ∧ Keeps [.resp, .log, .subs, .lastEvents] [.FAULT_CTRL, .FAULT_STAT, .FAULT_EVT,
        .FAULT_LOG_WR, .FAULT_LOG_LOST] s t) ∧
  (∀ (r : Requester) (v : Word) (s : State), getField F.FAULT_CTRL_SAFESTOP v = 0 → (s.bit R.FAULT_STAT
      F.FAULT_STAT_SAFE = true ∧ s.triggerPresent = true) →
    Answers (.safeStopClear r v) s fun t => t.bit R.FAULT_EVT F.FAULT_EVT_CLEARREF = true ∧ t.newest = some (0x0C, 5,
        reqCode r, 4) ∧ t.resp = some ⟨reqCode r, false, []⟩ ∧ Keeps [.resp, .log, .subs, .lastEvents] [.FAULT_EVT,
        .FAULT_LOG_WR, .FAULT_LOG_LOST] s t) ∧
  (∀ (r : Requester) (v : Word) (s : State), getField F.FAULT_CTRL_SAFESTOP v = 0 → s.bit R.FAULT_STAT
      F.FAULT_STAT_SAFE = false →
    Answers (.safeStopClear r v) s fun t => t.resp = some ⟨reqCode r, true, []⟩ ∧ Keeps [.resp] [.FAULT_CTRL] s t)

/-- Arming, disarming, triggers, pulse ends, time-outs, clock loss, re-admission and frame edges of a camera port
(R312, R314, R316, R318, R319, R337). Clauses beyond the rules are the model's choices of log entry 60. -/
def Obligations.CameraPorts : Prop :=
  (∀ (r : Requester) (n : Fin 4) (v : Word) (s : State), (getField F.CAMn_CTRL_ARM v = 1 ∧ getField
      F.CAMn_CTRL_SWTRIG v = 0) → s.bit (R.CAMn_CTRL n) F.CAMn_CTRL_ARM = false →
    Answers (.cameraArm r n v) s fun t => t.bit (R.CAMn_CTRL n) F.CAMn_CTRL_ARM = true ∧ t.reg (R.CAMn_FSEQ n) = 0 ∧
        (t.camPort n).count = 0 ∧ t.camState n = (if s.camState n = 2 then 2 else 1) ∧ t.resp = some ⟨reqCode r,
        true, []⟩ ∧ Keeps [.resp, .cam] [.CAMn_CTRL, .CAMn_STAT, .CAMn_FSEQ] s t) ∧
  (∀ (r : Requester) (n : Fin 4) (v : Word) (s : State), (getField F.CAMn_CTRL_ARM v = 0 ∧ getField
      F.CAMn_CTRL_SWTRIG v = 0) → s.bit (R.CAMn_CTRL n) F.CAMn_CTRL_ARM = true →
    Answers (.cameraDisarm r n v) s fun t => t.bit (R.CAMn_CTRL n) F.CAMn_CTRL_ARM = false ∧ (t.camPort n).trig = []
        ∧ (t.camPort n).pulse = none ∧ t.camState n = (if s.camState n = 2 then 2 else 0) ∧ t.resp = some ⟨reqCode r,
        true, []⟩ ∧ Keeps [.resp, .freeCtr, .log, .dma, .granary, .miller, .cam, .subs, .lastEvents, .records]
        [.GRANARY_STAT, .GRANARY_SR, .FAULT_EVT, .FAULT_LOG_WR, .FAULT_LOG_LOST, .CAM_EVT, .CAMn_CTRL, .CAMn_STAT,
        .CAMn_EXP_NOW, .CAMn_GAIN_NOW, .CAMn_FSEQ, .CAMn_CNT_FRAMES, .CAMn_CNT_DROP, .Pp_RES_WR, .Pp_CNT_RESLOST] s
        t) ∧
  (∀ (r : Requester) (n : Fin 4) (v : Word) (s : State), (getField F.CAMn_CTRL_SWTRIG v = 1 ∧ getField
      F.CAMn_CTRL_ARM v = 1) → (s.bit (R.CAMn_CTRL n) F.CAMn_CTRL_ARM = true ∧ s.camState n = 1 ∧ s.fld (R.CAMn_CTRL
      n) F.CAMn_CTRL_TRIGSRC = 9) → ((s.camPort n).trig.length < 16 ∧ (s.camPort n).pulse = none) →
    Answers (.softwareTrigger r n v) s fun t => (t.camPort n).trig.map (fun x => (x.pos, x.ts, x.at_)) = (s.camPort
        n).trig.map (fun x => (x.pos, x.ts, x.at_)) ++ [(s.enc0Pos, s.ptp, s.now)] ∧ (t.camPort n).count = (s.camPort
        n).count + 1 ∧ (t.camPort n).pulse.isSome = true ∧ t.resp = some ⟨reqCode r, true, []⟩ ∧ Keeps [.resp,
        .freeCtr, .log, .dma, .granary, .miller, .cam, .subs, .lastEvents, .records] [.GRANARY_STAT, .GRANARY_SR,
        .FAULT_EVT, .FAULT_LOG_WR, .FAULT_LOG_LOST, .CAM_EVT, .CAMn_CTRL, .CAMn_STAT, .CAMn_EXP_NOW, .CAMn_GAIN_NOW,
        .CAMn_FSEQ, .CAMn_CNT_FRAMES, .CAMn_CNT_DROP, .Pp_RES_WR, .Pp_CNT_RESLOST] s t) ∧
  (∀ (r : Requester) (n : Fin 4) (v : Word) (s : State), (getField F.CAMn_CTRL_SWTRIG v = 1 ∧ getField
      F.CAMn_CTRL_ARM v = 1) → (s.bit (R.CAMn_CTRL n) F.CAMn_CTRL_ARM = true ∧ s.camState n = 1 ∧ s.fld (R.CAMn_CTRL
      n) F.CAMn_CTRL_TRIGSRC = 9 ∧ s.bit (R.CAMn_CTRL n) F.CAMn_CTRL_FRAMEMODE = true) → (16 ≤ (s.camPort
      n).trig.length ∨ (s.camPort n).pulse ≠ none) → ((s.camPort n).frames = [] ∧ (s.camPort n).stamps = [] ∧ s.fld
      (R.CAMn_ERR_THR n) F.CAMn_ERR_THR_ERRMAX ≠ 0) →
    Answers (.softwareTrigger r n v) s fun t => (t.camPort n).trig = (s.camPort n).trig ∧ t.camState n = 1 ∧ t.fld
        (R.CAMn_CNT_DROP n) F.CAMn_CNT_DROP_COUNT = min (s.fld (R.CAMn_CNT_DROP n) F.CAMn_CNT_DROP_COUNT + 1) (2 ^
        F.CAMn_CNT_DROP_COUNT.width - 1) ∧ (t.fld R.CAM_EVT F.CAM_EVT_DROP).testBit n = true ∧ t.newest = some (0x0A,
        0, n.val, 4) ∧ Keeps [.resp, .freeCtr, .log, .dma, .granary, .miller, .cam, .subs, .lastEvents, .records]
        [.GRANARY_STAT, .GRANARY_SR, .FAULT_EVT, .FAULT_LOG_WR, .FAULT_LOG_LOST, .CAM_EVT, .CAMn_CTRL, .CAMn_STAT,
        .CAMn_EXP_NOW, .CAMn_GAIN_NOW, .CAMn_FSEQ, .CAMn_CNT_FRAMES, .CAMn_CNT_DROP, .Pp_RES_WR, .Pp_CNT_RESLOST] s
        t) ∧
  (∀ (n : Fin 4) (s : State) (u : Nat), ((s.camPort n).pulse = some u ∧ u ≤ s.now) →
    Answers (.triggerPulseEnd n) s fun t => (t.camPort n).pulse = none ∧ (t.camPort n).trig = (s.camPort n).trig ∧
        Keeps [.cam] [] s t) ∧
  (∀ (n : Fin 4) (s : State) (u : CamTrig) (rest : List CamTrig), ((s.camPort n).trig = u :: rest ∧ u.at_ + 800 *
      s.fld (R.CAMn_TIMEOUT n) F.CAMn_TIMEOUT_LINETO ≤ s.now) → ((s.camPort n).readmit = false ∧ s.bit (R.CAMn_CTRL
      n) F.CAMn_CTRL_FRAMEMODE = true) → ((s.camPort n).frames = [] ∧ (s.camPort n).stamps = [] ∧ s.fld
      (R.CAMn_ERR_THR n) F.CAMn_ERR_THR_ERRMAX ≠ 0) →
    Answers (.lineTimeout n) s fun t => (t.camPort n).trig = rest ∧ t.fld (R.CAMn_STAT n) F.CAMn_STAT_LASTCAUSE = 3 ∧
        t.fld (R.CAMn_CNT_DROP n) F.CAMn_CNT_DROP_COUNT = min (s.fld (R.CAMn_CNT_DROP n) F.CAMn_CNT_DROP_COUNT + 1)
        (2 ^ F.CAMn_CNT_DROP_COUNT.width - 1) ∧ t.newest = some (0x0A, 0, n.val, 3) ∧ Keeps [.freeCtr, .log, .dma,
        .granary, .miller, .cam, .subs, .lastEvents, .records] [.GRANARY_STAT, .GRANARY_SR, .FAULT_EVT,
        .FAULT_LOG_WR, .FAULT_LOG_LOST, .CAM_EVT, .CAMn_STAT, .CAMn_CNT_DROP, .Pp_RES_WR, .Pp_CNT_RESLOST] s t) ∧
  (∀ (n : Fin 4) (s : State), (s.camPort n).trig.head?.all (fun u => decide (s.now < u.at_ + 800 * s.fld
      (R.CAMn_TIMEOUT n) F.CAMn_TIMEOUT_LINETO)) = true →
    Answers (.lineTimeout n) s fun t => Keeps [] [] s t) ∧
  (∀ (n : Fin 4) (s : State), (s.camState n = 1 ∧ (s.camPort n).trig ≠ []) →
    Answers (.pclkStop n) s fun t => t.camState n = 2 ∧ t.fld (R.CAMn_STAT n) F.CAMn_STAT_LASTCAUSE = 8 ∧ (t.camPort
        n).trig = [] ∧ (t.fld R.CAM_EVT F.CAM_EVT_RETIRED).testBit n = true ∧ t.newest = some (0x0A, 2, n.val, 8) ∧
        Keeps [.log, .dma, .cam, .subs, .lastEvents] [.FAULT_EVT, .FAULT_LOG_WR, .FAULT_LOG_LOST, .CAM_EVT,
        .CAMn_STAT] s t) ∧
  (∀ (r : Requester) (v : Word) (s : State),
    Answers (.cameraPortReadmit r v) s fun t => (∀ n : Fin 4, (getField F.CAM_READMIT_PORT v).testBit n = true ∧
        s.camState n = 2 → (t.camPort n).readmit = true ∧ t.camState n = (if s.bit (R.CAMn_CTRL n) F.CAMn_CTRL_ARM
        then 1 else 0)) ∧ (∀ n : Fin 4, (getField F.CAM_READMIT_PORT v).testBit n = false ∨ s.camState n ≠ 2 →
        t.camPort n = s.camPort n ∧ t.camState n = s.camState n) ∧ t.resp = some ⟨reqCode r, true, []⟩ ∧ Keeps
        [.resp, .cam] [.CAMn_STAT] s t) ∧
  (∀ (n : Fin 4) (s : State), (s.camState n = 1 ∧ s.bit (R.CAMn_CTRL n) F.CAMn_CTRL_FRAMEMODE = true) → (s.camPort
      n).frames = [] →
    Answers (.frameValidEdge n true) s fun t => (t.camPort n).frames.map (fun x => (x.info.fseq, x.info.ts, x.lines,
        x.dropped)) = [(s.regN (R.CAMn_FSEQ n), s.ptp, 0, none)] ∧ t.reg (R.CAMn_FSEQ n) = s.reg (R.CAMn_FSEQ n) + 1
        ∧ t.fld (R.CAMn_CNT_FRAMES n) F.CAMn_CNT_FRAMES_COUNT = min (s.fld (R.CAMn_CNT_FRAMES n)
        F.CAMn_CNT_FRAMES_COUNT + 1) (2 ^ F.CAMn_CNT_FRAMES_COUNT.width - 1) ∧ (t.camPort n).readmit = false ∧ Keeps
        [.freeCtr, .log, .dma, .granary, .miller, .cam, .subs, .lastEvents, .records] [.GRANARY_STAT, .GRANARY_SR,
        .FAULT_EVT, .FAULT_LOG_WR, .FAULT_LOG_LOST, .CAM_EVT, .CAMn_STAT, .CAMn_EXP_NOW, .CAMn_GAIN_NOW, .CAMn_FSEQ,
        .CAMn_CNT_FRAMES, .CAMn_CNT_DROP, .Pp_RES_WR, .Pp_CNT_RESLOST] s t) ∧
  (∀ (n : Fin 4) (s : State) (x : CamFrame), (s.camState n = 1 ∧ s.bit (R.CAMn_CTRL n) F.CAMn_CTRL_FRAMEMODE = true)
      → ((s.camPort n).frames = [x] ∧ x.dropped = none ∧ x.lines = s.frameLines n ∧ (s.camPort n).work = []) → (s.fld
      (R.Pp_RES_WR (n.val / 2)) F.Pp_RES_WR_INDEX + 1) % s.resSize (n.val / 2) ≠ s.fld (R.Pp_RES_RD (n.val / 2))
      F.Pp_RES_RD_INDEX % s.resSize (n.val / 2) →
    Answers (.frameValidEdge n false) s fun t => (t.camPort n).frames = [] ∧ (t.camPort n).work = [] ∧ t.fld
        (R.Pp_RES_WR (n.val / 2)) F.Pp_RES_WR_INDEX = (s.fld (R.Pp_RES_WR (n.val / 2)) F.Pp_RES_WR_INDEX + 1) %
        s.resSize (n.val / 2) ∧ Keeps [.freeCtr, .log, .dma, .granary, .miller, .cam, .subs, .lastEvents, .records]
        [.GRANARY_STAT, .GRANARY_SR, .FAULT_EVT, .FAULT_LOG_WR, .FAULT_LOG_LOST, .CAM_EVT, .CAMn_STAT, .CAMn_EXP_NOW,
        .CAMn_GAIN_NOW, .CAMn_FSEQ, .CAMn_CNT_FRAMES, .CAMn_CNT_DROP, .Pp_RES_WR, .Pp_CNT_RESLOST] s t) ∧
  (∀ (n : Fin 4) (s : State) (x : CamFrame), (s.camState n = 1 ∧ s.bit (R.CAMn_CTRL n) F.CAMn_CTRL_FRAMEMODE = true)
      → ((s.camPort n).frames = [x] ∧ x.dropped = none ∧ x.lines ≠ s.frameLines n) → ((s.camPort n).stamps = [] ∧
      s.fld (R.CAMn_ERR_THR n) F.CAMn_ERR_THR_ERRMAX ≠ 0) →
    Answers (.frameValidEdge n false) s fun t => (t.camPort n).frames.map (fun x => (x.info, x.dropped)) = [(x.info,
        some 2)] ∧ t.newest = some (0x0A, 0, n.val, 2) ∧ Keeps [.freeCtr, .log, .dma, .granary, .miller, .cam, .subs,
        .lastEvents, .records] [.GRANARY_STAT, .GRANARY_SR, .FAULT_EVT, .FAULT_LOG_WR, .FAULT_LOG_LOST, .CAM_EVT,
        .CAMn_STAT, .CAMn_EXP_NOW, .CAMn_GAIN_NOW, .CAMn_FSEQ, .CAMn_CNT_FRAMES, .CAMn_CNT_DROP, .Pp_RES_WR,
        .Pp_CNT_RESLOST] s t)

/-- A sound line joins its frame and the line FIFO; a wrong one drops the frame; a pipeline takes a line (R310, R311,
R313, R316, R321, R322). Clauses beyond the rules are the model's choices of log entry 59. -/
def Obligations.CameraLines : Prop :=
  (∀ (n : Fin 4) (a b : List (BitVec 12)) (pos : Int) (ts : Nat) (s : State) (x : CamFrame), (s.camState n = 1 ∧
      s.fld (R.CAMn_CTRL n) F.CAMn_CTRL_TRIGSRC = 0 ∧ s.bit (R.CAMn_CTRL n) F.CAMn_CTRL_FRAMEMODE = true) →
      ((s.camPort n).readmit = false ∧ (s.camPort n).frames = [x] ∧ x.dropped = none) → (s.linePixels n a b).length =
      s.linePx n → fifoBytesHeld (s.camPort n) + 2 * s.linePx n ≤ 65536 →
    Answers (.cameraLine n a b true pos ts) s fun t => (t.camPort n).frames =
        [{ x with lines := x.lines + 1, marked := true }] ∧ CamWork.line (s.linePixels n a b) pos x.info ∈ (t.camPort
        n).work ∧ (t.camPort n).count = (s.camPort n).count + 1 ∧ Keeps [.freeCtr, .log, .dma, .granary, .miller,
        .cam, .subs, .lastEvents, .records] [.GRANARY_STAT, .GRANARY_SR, .FAULT_EVT, .FAULT_LOG_WR, .FAULT_LOG_LOST,
        .CAM_EVT, .CAMn_STAT, .CAMn_EXP_NOW, .CAMn_GAIN_NOW, .CAMn_FSEQ, .CAMn_CNT_FRAMES, .CAMn_CNT_DROP,
        .Pp_RES_WR, .Pp_CNT_RESLOST] s t) ∧
  (∀ (n : Fin 4) (a b : List (BitVec 12)) (pos : Int) (ts : Nat) (s : State) (x : CamFrame) (u : CamTrig) (rest :
      List CamTrig), (s.camState n = 1 ∧ s.fld (R.CAMn_CTRL n) F.CAMn_CTRL_TRIGSRC ≠ 0 ∧ s.bit (R.CAMn_CTRL n)
      F.CAMn_CTRL_FRAMEMODE = true) → ((s.camPort n).readmit = false ∧ (s.camPort n).frames = [x] ∧ x.dropped = none
      ∧ (s.camPort n).trig = u :: rest) → (s.linePixels n a b).length = s.linePx n → fifoBytesHeld (s.camPort n) + 2
      * s.linePx n ≤ 65536 →
    Answers (.cameraLine n a b true pos ts) s fun t => (t.camPort n).frames =
        [{ x with lines := x.lines + 1, marked := true }] ∧ (t.camPort n).trig = rest ∧ CamWork.line (s.linePixels n
        a b) u.pos x.info ∈ (t.camPort n).work ∧ Keeps [.freeCtr, .log, .dma, .granary, .miller, .cam, .subs,
        .lastEvents, .records] [.GRANARY_STAT, .GRANARY_SR, .FAULT_EVT, .FAULT_LOG_WR, .FAULT_LOG_LOST, .CAM_EVT,
        .CAMn_STAT, .CAMn_EXP_NOW, .CAMn_GAIN_NOW, .CAMn_FSEQ, .CAMn_CNT_FRAMES, .CAMn_CNT_DROP, .Pp_RES_WR,
        .Pp_CNT_RESLOST] s t) ∧
  (∀ (n : Fin 4) (a b : List (BitVec 12)) (pos : Int) (ts : Nat) (s : State) (x : CamFrame), (s.camState n = 1 ∧
      s.fld (R.CAMn_CTRL n) F.CAMn_CTRL_TRIGSRC = 0 ∧ s.bit (R.CAMn_CTRL n) F.CAMn_CTRL_FRAMEMODE = true) →
      ((s.camPort n).readmit = false ∧ (s.camPort n).frames = [x] ∧ x.dropped = none) → (s.linePixels n a b).length ≠
      s.linePx n → ((s.camPort n).stamps = [] ∧ s.fld (R.CAMn_ERR_THR n) F.CAMn_ERR_THR_ERRMAX ≠ 0) →
    Answers (.cameraLine n a b true pos ts) s fun t => (t.camPort n).frames.map (fun x => (x.info, x.dropped)) =
        [(x.info, some 2)] ∧ t.fld (R.CAMn_STAT n) F.CAMn_STAT_LASTCAUSE = 2 ∧ (t.fld R.CAM_EVT
        F.CAM_EVT_DROP).testBit n = true ∧ t.newest = some (0x0A, 0, n.val, 2) ∧ Keeps [.freeCtr, .log, .dma,
        .granary, .miller, .cam, .subs, .lastEvents, .records] [.GRANARY_STAT, .GRANARY_SR, .FAULT_EVT,
        .FAULT_LOG_WR, .FAULT_LOG_LOST, .CAM_EVT, .CAMn_STAT, .CAMn_EXP_NOW, .CAMn_GAIN_NOW, .CAMn_FSEQ,
        .CAMn_CNT_FRAMES, .CAMn_CNT_DROP, .Pp_RES_WR, .Pp_CNT_RESLOST] s t) ∧
  (∀ (n : Fin 4) (a b : List (BitVec 12)) (fv : Bool) (pos : Int) (ts : Nat) (s : State), (s.camState n = 1 ∧ s.fld
      (R.CAMn_CTRL n) F.CAMn_CTRL_TRIGSRC ≠ 0 ∧ (s.camPort n).trig = []) → ((s.camPort n).readmit = false ∧
      (s.camPort n).frames = []) → ((s.camPort n).stamps = [] ∧ s.fld (R.CAMn_ERR_THR n) F.CAMn_ERR_THR_ERRMAX ≠ 0) →
    Answers (.cameraLine n a b fv pos ts) s fun t => t.fld (R.CAMn_STAT n) F.CAMn_STAT_LASTCAUSE = 6 ∧ (t.fld
        R.CAM_EVT F.CAM_EVT_DROP).testBit n = true ∧ t.newest = some (0x0A, 0, n.val, 6) ∧ Keeps [.freeCtr, .log,
        .dma, .granary, .miller, .cam, .subs, .lastEvents, .records] [.GRANARY_STAT, .GRANARY_SR, .FAULT_EVT,
        .FAULT_LOG_WR, .FAULT_LOG_LOST, .CAM_EVT, .CAMn_STAT, .CAMn_EXP_NOW, .CAMn_GAIN_NOW, .CAMn_FSEQ,
        .CAMn_CNT_FRAMES, .CAMn_CNT_DROP, .Pp_RES_WR, .Pp_CNT_RESLOST] s t) ∧
  (∀ (n : Fin 4) (a b : List (BitVec 12)) (fv : Bool) (pos : Int) (ts : Nat) (s : State) (x : CamFrame), (s.camState
      n = 1 ∧ s.fld (R.CAMn_CTRL n) F.CAMn_CTRL_TRIGSRC = 0 ∧ s.bit (R.CAMn_CTRL n) F.CAMn_CTRL_FRAMEMODE = false) →
      ((s.camPort n).count % max 1 (s.frameLines n) ≠ 0 ∧ x.lines + 1 ≠ s.frameLines n) → ((s.camPort n).readmit =
      false ∧ (s.camPort n).frames = [x] ∧ x.dropped = none) → (s.linePixels n a b).length = s.linePx n →
      fifoBytesHeld (s.camPort n) + 2 * s.linePx n ≤ 65536 →
    Answers (.cameraLine n a b fv pos ts) s fun t => (t.camPort n).frames =
        [{ x with lines := x.lines + 1, marked := true }] ∧ CamWork.line (s.linePixels n a b) pos x.info ∈ (t.camPort
        n).work ∧ (t.camPort n).count = (s.camPort n).count + 1 ∧ Keeps [.freeCtr, .log, .dma, .granary, .miller,
        .cam, .subs, .lastEvents, .records] [.GRANARY_STAT, .GRANARY_SR, .FAULT_EVT, .FAULT_LOG_WR, .FAULT_LOG_LOST,
        .CAM_EVT, .CAMn_STAT, .CAMn_EXP_NOW, .CAMn_GAIN_NOW, .CAMn_FSEQ, .CAMn_CNT_FRAMES, .CAMn_CNT_DROP,
        .Pp_RES_WR, .Pp_CNT_RESLOST] s t) ∧
  (∀ (n : Fin 4) (a b : List (BitVec 12)) (fv : Bool) (pos : Int) (ts : Nat) (s : State), s.camState n ≠ 1 →
    Answers (.cameraLine n a b fv pos ts) s fun t => Keeps [] [] s t) ∧
  (∀ (p : Fin 2) (s : State) (n : Nat) (px : List Nat) (pos : Int) (x : FrameInfo), (s.pipeFree p = true ∧ s.nextPort
      p = some n) → (s.camPort n).work = [.line px pos x] →
    Answers (.pipelineLine p) s fun t => (s.pend.all (fun v => v.addr != R.Pp_STAT p) = true → t.fld (R.Pp_STAT p)
        F.Pp_STAT_LASTPORT = n % 2) ∧ (t.camPort n).work = [] ∧ (t.camPort n).acc.map (·.lines) = some (((s.camPort
        n).acc.getD {}).lines + 1) ∧ Keeps [.resp, .freeCtr, .log, .link, .dma, .granary, .dramValid, .miller, .pend,
        .landed, .weaver, .hcs, .cam, .cal, .axes, .eth, .pages, .subs, .lastEvents, .dram, .records, .tones,
        .nozGain] ([.pipeSettings, .LINK_STAT, .LINK_LANEn_STAT, .DMA_HALT_EVT, .DMA_CHn_STAT, .GRANARY_STAT,
        .GRANARY_EVT, .GRANARY_SR, .GRANARY_CHc_RDERR, .GRANARY_CHc_CAPAR, .GRANARY_CHc_RMWERR, .GRANARY_CHc_QUEUE,
        .WEAVER_KERNEL, .WEAVER_MASKLINE, .HC_STAT, .HC_EVT, .HC_COMBLINE, .HC_SCAN_PTR, .BR_CTRL, .BR_STAT, .BR_EVT,
        .BR_FMAX, .BR_SNAPLINE, .FAULT_STAT, .FAULT_EVT, .FAULT_LOG_WR, .FAULT_LOG_LOST, .CAM_EVT, .CAMn_STAT,
        .Pp_STAT] ++ [.Pp_RES_WR, .Pp_CNT_RESLOST, .CAL_HCh_NOW, .CAL_HCh_STAT, .CLKPWR_STAT, .CLKPWR_EVT]) s t) ∧
  (∀ (p : Fin 2) (s : State), (s.pipeFree p = false ∨ s.nextPort p = none) →
    Answers (.pipelineLine p) s fun t => Keeps [] [] s t)

/-- Serial bytes, camera tables, nozzles retired on request or by ladder verdicts, and tone proposals (R315, R335,
R336, R337, R171, R188). Clauses beyond the rules are the model's choices of log entries 61, 62. -/
def Obligations.CameraPolicy : Prop :=
  (∀ (n : Fin 4) (b : Byte) (s : State), s.bit (R.CAMn_SER_CFG n) F.CAMn_SER_CFG_EN = true →
    Answers (.serialByteReceived n b) s fun t => (t.camPort n).rx = (if (s.camPort n).rx.length < 16 then (s.camPort
        n).rx ++ [b] else (s.camPort n).rx) ∧ (t.camPort n).rxOvf = ((s.camPort n).rxOvf || decide (16 ≤ (s.camPort
        n).rx.length)) ∧ Keeps [.cam] [] s t) ∧
  (∀ (r : Requester) (n : Fin 4) (v : Word) (s : State),
    Answers (.serialDataAccess r n (some v)) s fun t => (t.camPort n).tx = (if (s.camPort n).tx.length < 16 then
        (s.camPort n).tx ++ leBytes 1 v.toNat else (s.camPort n).tx) ∧ t.resp = some ⟨reqCode r, true, []⟩ ∧ Keeps
        [.resp, .cam] [] s t) ∧
  (∀ (r : Requester) (n : Fin 4) (s : State),
    Answers (.serialDataAccess r n none) s fun t => (t.camPort n).rx = (s.camPort n).rx.drop 1 ∧ (t.camPort n).rxOvf
        = false ∧ t.resp = some ⟨reqCode r, true, leBytes 4 (serialWord (s.camPort n)).toNat⟩ ∧ Keeps [.resp, .cam]
        [] s t) ∧
  (∀ (n : Fin 4) (s : State), (s.bit (R.CAMn_SER_CFG n) F.CAMn_SER_CFG_EN = true ∧ (s.camPort n).tx ≠ []) →
      (s.camPort n).txFrom + 80 * s.fld (R.CAMn_SER_CFG n) F.CAMn_SER_CFG_DIV ≤ s.now →
    Answers (.serialByteSent n) s fun t => (t.camPort n).tx = (s.camPort n).tx.drop 1 ∧ (t.camPort n).txFrom = s.now
        ∧ Keeps [.cam] [] s t) ∧
  (∀ (n : Fin 4) (s : State), (s.bit (R.CAMn_SER_CFG n) F.CAMn_SER_CFG_EN = false ∨ (s.camPort n).tx = [] ∨ s.now <
      (s.camPort n).txFrom + 80 * s.fld (R.CAMn_SER_CFG n) F.CAMn_SER_CFG_DIV) →
    Answers (.serialByteSent n) s fun t => Keeps [] [] s t) ∧
  (∀ (r : Requester) (v : Word) (s : State) (a u i : Nat), (a = s.fld R.CAM_TAB_ADDR F.CAM_TAB_ADDR_TAB ∧ u = s.fld
      R.CAM_TAB_ADDR F.CAM_TAB_ADDR_UNIT ∧ i = s.fld R.CAM_TAB_ADDR F.CAM_TAB_ADDR_INDEX) → (i < tabSize a ∧ (a < 3 ∨
      u < 2)) → (tabPorts a u).any (fun n => s.bit (R.CAMn_CTRL n) F.CAMn_CTRL_ARM) = false →
    Answers (.camTableAccess r (some v)) s fun t => t.camTab a u i = getField F.CAM_TAB_DATA_VALUE v ∧ t.fld
        R.CAM_TAB_ADDR F.CAM_TAB_ADDR_INDEX = (i + 1) % 2 ^ 14 ∧ t.resp = some ⟨reqCode r, true, []⟩ ∧ Keeps [.resp,
        .freeCtr, .log, .cam, .subs, .lastEvents] [.FAULT_EVT, .FAULT_LOG_WR, .FAULT_LOG_LOST, .CAM_TAB_ADDR] s t) ∧
  (∀ (r : Requester) (v : Word) (s : State) (a u i : Nat), (a = s.fld R.CAM_TAB_ADDR F.CAM_TAB_ADDR_TAB ∧ u = s.fld
      R.CAM_TAB_ADDR F.CAM_TAB_ADDR_UNIT ∧ i = s.fld R.CAM_TAB_ADDR F.CAM_TAB_ADDR_INDEX) → (tabSize a ≤ i ∨ (3 ≤ a ∧
      2 ≤ u)) → (tabPorts a u).any (fun n => s.bit (R.CAMn_CTRL n) F.CAMn_CTRL_ARM) = false →
    Answers (.camTableAccess r (some v)) s fun t => t.fld R.CAM_TAB_ADDR F.CAM_TAB_ADDR_INDEX = (i + 1) % 2 ^ 14 ∧
        t.resp = some ⟨reqCode r, true, []⟩ ∧ Keeps [.resp] [.CAM_TAB_ADDR] s t) ∧
  (∀ (r : Requester) (v : Word) (s : State), (tabPorts (s.fld R.CAM_TAB_ADDR F.CAM_TAB_ADDR_TAB) (s.fld
      R.CAM_TAB_ADDR F.CAM_TAB_ADDR_UNIT)).any (fun n => s.bit (R.CAMn_CTRL n) F.CAMn_CTRL_ARM) = true →
    Answers (.camTableAccess r (some v)) s fun t => t.resp = some ⟨reqCode r, false, []⟩ ∧ t.newest = some (0x0C, 5,
        reqCode r, 4) ∧ Keeps [.resp, .log, .subs, .lastEvents] [.FAULT_EVT, .FAULT_LOG_WR, .FAULT_LOG_LOST] s t) ∧
  (∀ (r : Requester) (s : State) (a u i : Nat), (a = s.fld R.CAM_TAB_ADDR F.CAM_TAB_ADDR_TAB ∧ u = s.fld
      R.CAM_TAB_ADDR F.CAM_TAB_ADDR_UNIT ∧ i = s.fld R.CAM_TAB_ADDR F.CAM_TAB_ADDR_INDEX) → (i < tabSize a ∧ (a < 3 ∨
      u < 2)) →
    Answers (.camTableAccess r none) s fun t => t.fld R.CAM_TAB_ADDR F.CAM_TAB_ADDR_INDEX = (i + 1) % 2 ^ 14 ∧ t.resp
        = some ⟨reqCode r, true, leBytes 4 (s.camTab a u i)⟩ ∧ Keeps [.resp] [.CAM_TAB_ADDR] s t) ∧
  (∀ (r : Requester) (s : State) (a u i : Nat), (a = s.fld R.CAM_TAB_ADDR F.CAM_TAB_ADDR_TAB ∧ u = s.fld
      R.CAM_TAB_ADDR F.CAM_TAB_ADDR_UNIT ∧ i = s.fld R.CAM_TAB_ADDR F.CAM_TAB_ADDR_INDEX) → (tabSize a ≤ i ∨ (3 ≤ a ∧
      2 ≤ u)) →
    Answers (.camTableAccess r none) s fun t => t.fld R.CAM_TAB_ADDR F.CAM_TAB_ADDR_INDEX = (i + 1) % 2 ^ 14 ∧ t.resp
        = some ⟨reqCode r, true, leBytes 4 (Config.free s.freeCtr % 65536)⟩ ∧ Keeps [.resp, .freeCtr] [.CAM_TAB_ADDR]
        s t) ∧
  (∀ (r : Requester) (v : Word) (s : State), getField F.CAM_NOZ_RETIRE_NOZ v < 101376 →
    Answers (.camNozzleRetire r v) s fun t => t.nozRetired (getField F.CAM_NOZ_RETIRE_NOZ v) = true ∧ t.newest = some
        (6, 2, getField F.CAM_NOZ_RETIRE_NOZ v, 1) ∧ t.resp = some ⟨reqCode r, true, []⟩ ∧ (∀ a, a ≠ nozAddr
        (getField F.CAM_NOZ_RETIRE_NOZ v) → t.byte a = s.byte a) ∧ Keeps [.resp, .log, .weaver, .subs, .lastEvents,
        .nozRet] [.FAULT_EVT, .FAULT_LOG_WR, .FAULT_LOG_LOST] s t) ∧
  (∀ (r : Requester) (v : Word) (s : State), 101376 ≤ getField F.CAM_NOZ_RETIRE_NOZ v →
    Answers (.camNozzleRetire r v) s fun t => t.resp = some ⟨reqCode r, true, []⟩ ∧ Keeps [.resp] [] s t) ∧
  (∀ (p : Fin 2) (s : State) (k : Nat) (l : List Byte) (g : Nat), k = modSub (s.resSize p) (s.fld (R.Pp_RES_WR p)
      F.Pp_RES_WR_INDEX) (s.fld (R.Pp_RES_RD p) F.Pp_RES_RD_INDEX) → (s.takeRecord p k).1 = some l → (g = leAt l 4 4
      % 2 ^ 17 ∧ g < 101376) → ((leAt l 1 1).testBit 2 = false ∧ (leAt l 1 1).testBit 3 = false ∧ (leAt l 1
      1).testBit 4 = false) → (sget (fun _ => {}) s.cam.verdicts g).l0 ≠ some (leAt l 8 4) → max 1 (s.dictVal
      0x250002) ≤ (sget (fun _ => {}) s.cam.verdicts g).fails + 1 →
    Answers (.ladderVerdict p) s fun t => t.nozRetired g = true ∧ (sget (fun _ => {}) t.cam.verdicts g).fails = 0 ∧
        t.newest = some (6, 2, g, 1) ∧ Keeps [.resp, .freeCtr, .log, .link, .dma, .granary, .dramValid, .pend,
        .landed, .weaver, .hcs, .cal, .axes, .eth, .pages, .subs, .lastEvents, .dram, .tones, .nozGain] [.LINK_STAT,
        .LINK_LANEn_STAT, .DMA_HALT_EVT, .DMA_CHn_STAT, .GRANARY_STAT, .GRANARY_EVT, .GRANARY_SR, .GRANARY_CHc_RDERR,
        .GRANARY_CHc_CAPAR, .GRANARY_CHc_RMWERR, .GRANARY_CHc_QUEUE, .WEAVER_KERNEL, .WEAVER_MASKLINE, .HC_STAT,
        .HC_EVT, .HC_COMBLINE, .HC_SCAN_PTR, .BR_CTRL, .BR_STAT, .BR_EVT, .BR_FMAX, .BR_SNAPLINE, .FAULT_STAT,
        .FAULT_EVT, .FAULT_LOG_WR, .FAULT_LOG_LOST, .Pp_RES_RD, .CAL_HCh_NOW, .CAL_HCh_STAT, .CLKPWR_STAT,
        .CLKPWR_EVT] s (s.takeRecord p k).2 ∧ Keeps [.resp, .log, .weaver, .cam, .subs, .lastEvents, .nozRet]
        [.FAULT_EVT, .FAULT_LOG_WR, .FAULT_LOG_LOST] (s.takeRecord p k).2 t) ∧
  (∀ (p : Fin 2) (s : State) (k : Nat) (l : List Byte) (g : Nat), k = modSub (s.resSize p) (s.fld (R.Pp_RES_WR p)
      F.Pp_RES_WR_INDEX) (s.fld (R.Pp_RES_RD p) F.Pp_RES_RD_INDEX) → (s.takeRecord p k).1 = some l → (g = leAt l 4 4
      % 2 ^ 17 ∧ g < 101376) → ((leAt l 1 1).testBit 2 = false ∧ (leAt l 1 1).testBit 3 = false ∧ (leAt l 1
      1).testBit 4 = false) → (sget (fun _ => {}) s.cam.verdicts g).l0 ≠ some (leAt l 8 4) → (sget (fun _ => {})
      s.cam.verdicts g).fails + 1 < max 1 (s.dictVal 0x250002) →
    Answers (.ladderVerdict p) s fun t => sget (fun _ => {}) t.cam.verdicts g = ⟨some (leAt l 8 4), (sget (fun _ =>
        {}) s.cam.verdicts g).fails + 1, 0⟩ ∧ Keeps [.resp, .freeCtr, .log, .link, .dma, .granary, .dramValid, .pend,
        .landed, .weaver, .hcs, .cal, .axes, .eth, .pages, .subs, .lastEvents, .dram, .tones, .nozGain] [.LINK_STAT,
        .LINK_LANEn_STAT, .DMA_HALT_EVT, .DMA_CHn_STAT, .GRANARY_STAT, .GRANARY_EVT, .GRANARY_SR, .GRANARY_CHc_RDERR,
        .GRANARY_CHc_CAPAR, .GRANARY_CHc_RMWERR, .GRANARY_CHc_QUEUE, .WEAVER_KERNEL, .WEAVER_MASKLINE, .HC_STAT,
        .HC_EVT, .HC_COMBLINE, .HC_SCAN_PTR, .BR_CTRL, .BR_STAT, .BR_EVT, .BR_FMAX, .BR_SNAPLINE, .FAULT_STAT,
        .FAULT_EVT, .FAULT_LOG_WR, .FAULT_LOG_LOST, .Pp_RES_RD, .CAL_HCh_NOW, .CAL_HCh_STAT, .CLKPWR_STAT,
        .CLKPWR_EVT] s (s.takeRecord p k).2 ∧ Keeps [.cam] [] (s.takeRecord p k).2 t) ∧
  (∀ (s : State) (l : Nat), (s.dictVal 0x25000A ≠ 0 ∧ s.cam.measures.any (fun e => s.columnDue e.2) = true ∧
      s.toneBusy = false) → s.cam.measures.all (fun e => !s.columnDue e.2 || (s.headsOf e.1).all (fun h => !s.bit
      (R.HC_STAT h) F.HC_STAT_DERATED)) = true → (s.running = true ∧ l = lineAdd s.prepBegun 1 ∧ lineLe l s.prepBegun
      = false) → (s.br.v ≤ 0 ∨ 67584 * s.br.v ≤ (s.datumPos (lineSub l s.lead) * 65536 - s.phiNow) * 800000000) →
    Answers (.columnProposal) s fun t => t.cam.proposed = true ∧ t.cam.measures = [] ∧ (t.group s.innerHandle).map
        (fun g => (g.state, g.line)) = some (2, l) ∧ (∀ k : Fin 4, t.regN (R.WEAVER_TONE_L k) = l ∧ (t.ham
        k).toneOpen = true) ∧ Keeps [.freeCtr, .log, .pend, .weaver, .hcs, .pos, .cam, .mot, .eth, .subs,
        .lastEvents, .tones, .masks, .slots, .nozRet, .nozGain, .thresholds] [.any] s t) ∧
  (∀ (s : State), (s.dictVal 0x25000A ≠ 0 ∧ s.cam.measures.any (fun e => s.columnDue e.2) = true ∧ s.toneBusy =
      false) → s.cam.measures.all (fun e => !s.columnDue e.2 || (s.headsOf e.1).all (fun h => !s.bit (R.HC_STAT h)
      F.HC_STAT_DERATED)) = true → s.running = false →
    Answers (.columnProposal) s fun t => t.cam.proposed = true ∧ t.cam.measures = [] ∧ Keeps [.freeCtr, .log, .pend,
        .weaver, .hcs, .pos, .cam, .mot, .eth, .subs, .lastEvents, .tones, .masks, .slots, .nozRet, .nozGain,
        .thresholds] [.any] s t) ∧
  (∀ (s : State), (s.dictVal 0x25000A = 0 ∨ s.cam.measures.any (fun e => s.columnDue e.2) = false ∨ s.toneBusy = true
      ∨ s.cam.measures.any (fun e => s.columnDue e.2 && (s.headsOf e.1).any (fun h => s.bit (R.HC_STAT h)
      F.HC_STAT_DERATED)) = true) →
    Answers (.columnProposal) s fun t => Keeps [] [] s t)

/-- A conversion goes to the slot first, then to the path, then to the scan; the zero moves the ADC's offset trim
(R338, R339, R340, R341, R342). Clauses beyond the rules are the model's choices of log entries 63, 64. -/
def Obligations.SenseAdc : Prop :=
  (∀ (v : BitVec 16) (s : State) (x : CalSlot), periodOver s.cal.convAt 640 s.now = true → (s.cal.slot = some x ∧
      x.value = none ∧ x.since + 8 * s.fld R.CAL_SLOT F.CAL_SLOT_SETTLE + 640 ≤ s.now) →
    Answers (.adcConversion v) s fun t => t.cal.slot = some { x with value := some v.toNat } ∧ t.cal.convAt = some
        s.now ∧ Keeps [.cal] [] s t) ∧
  (∀ (v : BitVec 16) (s : State) (q n m : Nat), (periodOver s.cal.convAt 640 s.now = true ∧ s.slotDue = none ∧
      s.cal.path = some (q, n, m)) → n + 1 < max 1 (s.fld R.CAL_TSCFG F.CAL_TSCFG_PCALN) →
    Answers (.adcConversion v) s fun t => t.cal.path = some (q, n + 1, m + v.toNat) ∧ Keeps [.cal] [] s t) ∧
  (∀ (v : BitVec 16) (s : State) (h n m : Nat), (periodOver s.cal.convAt 640 s.now = true ∧ s.slotDue = none ∧
      s.cal.path = some (2 * h, n, m) ∧ s.cal.paths = []) → max 1 (s.fld R.CAL_TSCFG F.CAL_TSCFG_PCALN) = n + 1 →
    Answers (.adcConversion v) s fun t => t.fld (R.CAL_HCh_PATH h) F.CAL_HCh_PATH_TSOFS = fitS 16 (quot ((m + v.toNat
        : Nat) : Int) ((n + 1 : Nat) : Int) s.freeCtr) (s.freeCtr + 1) ∧ t.bit (R.CAL_HCh_STAT h)
        F.CAL_HCh_STAT_TSCAL = false ∧ t.cal.path = none ∧ Keeps [.freeCtr, .cal] [.CAL_HCh_PATH, .CAL_HCh_STAT] s t)
        ∧
  (∀ (v : BitVec 16) (s : State) (h n m : Nat), (periodOver s.cal.convAt 640 s.now = true ∧ s.slotDue = none ∧
      s.cal.path = some (2 * h + 1, n, m) ∧ s.cal.paths = []) → max 1 (s.fld R.CAL_TSCFG F.CAL_TSCFG_PCALN) = n + 1 →
    Answers (.adcConversion v) s fun t => t.fld (R.CAL_HCh_PATH h) F.CAL_HCh_PATH_VSOFS = fitS 16 (quot ((m + v.toNat
        : Nat) : Int) ((n + 1 : Nat) : Int) s.freeCtr) (s.freeCtr + 1) ∧ t.bit (R.CAL_HCh_STAT h)
        F.CAL_HCh_STAT_VSCAL = false ∧ t.cal.path = none ∧ Keeps [.freeCtr, .cal] [.CAL_HCh_PATH, .CAL_HCh_STAT] s t)
        ∧
  (∀ (v : BitVec 16) (s : State) (h n m : Nat), (periodOver s.cal.convAt 640 s.now = true ∧ s.slotDue = none ∧
      s.cal.path = none ∧ s.nextTs = some h) → (((s.cal.ts.find? (fun e => e.1 == h)).map (·.2)).getD (0, 0) = (n, m)
      ∧ n + 1 < max 1 (s.fld R.CAL_TSCFG F.CAL_TSCFG_TAVG)) →
    Answers (.adcConversion v) s fun t => t.cal.ts.find? (fun e => e.1 == h) = some (h, n + 1, m + v.toNat) ∧
        t.cal.lastTs = h ∧ Keeps [.cal] [] s t) ∧
  (∀ (v : BitVec 16) (s : State) (h n m : Nat), (periodOver s.cal.convAt 640 s.now = true ∧ s.slotDue = none ∧
      s.cal.path = none ∧ s.nextTs = some h) → (((s.cal.ts.find? (fun e => e.1 == h)).map (·.2)).getD (0, 0) = (n, m)
      ∧ max 1 (s.fld R.CAL_TSCFG F.CAL_TSCFG_TAVG) = n + 1) →
    Answers (.adcConversion v) s fun t => t.fld (R.HC_TEMP h) F.HC_TEMP_TEMP = wrap 16 (clampInt (-32768) 32767
        (Int.fdiv ((quot ((m + v.toNat : Nat) : Int) ((n + 1 : Nat) : Int) s.freeCtr - sext 16 (s.fld (R.CAL_HCh_PATH
        h) F.CAL_HCh_PATH_TSOFS) - (s.fld R.CAL_TSLIN F.CAL_TSLIN_TSOFF : Nat)) * sext 16 (s.fld R.CAL_TSLIN
        F.CAL_TSLIN_TSSLOPE)) 65536)) ∧ t.fld (R.HC_TEMP h) F.HC_TEMP_STALE = 0 ∧ t.fld (R.HC_TEMP h) F.HC_TEMP_AGE =
        0 ∧ t.cal.ts.find? (fun e => e.1 == h) = none ∧ t.cal.lastTs = h ∧ Keeps [.freeCtr, .log, .landed, .hcs,
        .cal, .pages, .subs, .lastEvents] [.HC_STAT, .HC_EVT, .HC_TEMP, .HC_SCAN_PTR, .BR_STAT, .BR_EVT, .BR_FMAX,
        .BR_SNAPLINE, .FAULT_STAT, .FAULT_EVT, .FAULT_LOG_WR, .FAULT_LOG_LOST, .CAL_HCh_NOW, .CAL_HCh_PATH,
        .CAL_HCh_STAT] s t) ∧
  (∀ (v : BitVec 16) (s : State), (periodOver s.cal.convAt 640 s.now = true ∧ s.slotDue = none ∧ s.cal.path = none ∧
      s.nextTs = none) →
    Answers (.adcConversion v) s fun t => t.cal.convAt = some s.now ∧ Keeps [.cal] [] s t) ∧
  (∀ (v : BitVec 16) (s : State), periodOver s.cal.convAt 640 s.now = false →
    Answers (.adcConversion v) s fun t => Keeps [] [] s t) ∧
  (∀ (z : BitVec 16) (s : State), periodOver s.cal.zeroAt 800000 s.now = false →
    Answers (.adcZero z) s fun t => Keeps [] [] s t) ∧
  (∀ (z : BitVec 16) (s : State) (l : List Int), periodOver s.cal.zeroAt 800000 s.now = true → l = (sext 16 z.toNat
      :: s.cal.zeros).take 16 →
    Answers (.adcZero z) s fun t => t.cal.zeros = l ∧ t.cal.zeroAt = some (periodStart s.cal.zeroAt 800000 s.now) ∧
        (l.length < 16 ∨ (-16 ≤ l.sum ∧ l.sum ≤ 16) → t.fld R.CAL_ADC F.CAL_ADC_OFSTRIM = s.fld R.CAL_ADC
        F.CAL_ADC_OFSTRIM) ∧ (l.length = 16 ∧ 16 < l.sum ∧ sext 8 (s.fld R.CAL_ADC F.CAL_ADC_OFSTRIM) ≠ -128 → t.fld
        R.CAL_ADC F.CAL_ADC_OFSTRIM = wrap 8 (sext 8 (s.fld R.CAL_ADC F.CAL_ADC_OFSTRIM) - 1)) ∧ (l.length = 16 ∧
        l.sum < -16 ∧ sext 8 (s.fld R.CAL_ADC F.CAL_ADC_OFSTRIM) ≠ 127 → t.fld R.CAL_ADC F.CAL_ADC_OFSTRIM = wrap 8
        (sext 8 (s.fld R.CAL_ADC F.CAL_ADC_OFSTRIM) + 1)) ∧ (l.length = 16 ∧ (16 < l.sum ∧ sext 8 (s.fld R.CAL_ADC
        F.CAL_ADC_OFSTRIM) = -128 ∨ l.sum < -16 ∧ sext 8 (s.fld R.CAL_ADC F.CAL_ADC_OFSTRIM) = 127) → t.fld R.CAL_ADC
        F.CAL_ADC_OFSTRIM = s.fld R.CAL_ADC F.CAL_ADC_OFSTRIM ∧ t.bit R.CAL_EVT F.CAL_EVT_ADCRANGE = true) ∧ Keeps
        [.freeCtr, .cal] [.CAL_EVT, .CAL_ADC] s t) ∧
  (∀ (s : State) (h : Nat) (l : List Nat), (s.cal.path = none ∧ allHc.filter (fun h => s.bit (R.HC_CTRL h)
      F.HC_CTRL_EN) = h :: l) → periodOver s.cal.pathAt (800000 * (1000 * s.fld R.CAL_TSCFG F.CAL_TSCFG_PCALPER))
      s.now = true →
    Answers (.pathCalibration) s fun t => t.cal.path = some (2 * h, 0, 0) ∧ t.cal.paths = (2 * h + 1) :: l.flatMap
        (fun h => [2 * h, 2 * h + 1]) ∧ t.bit (R.CAL_HCh_STAT h) F.CAL_HCh_STAT_TSCAL = true ∧ t.fld (R.HC_TEMP h)
        F.HC_TEMP_STALE = 1 ∧ t.fld (R.HC_TEMP h) F.HC_TEMP_TEMP = s.fld (R.HC_TEMP h) F.HC_TEMP_TEMP ∧
        t.cal.ts.find? (fun e => e.1 == h) = none ∧ Keeps [.cal] [.HC_TEMP, .CAL_HCh_STAT] s t) ∧
  (∀ (s : State), (s.cal.path = none ∧ allHc.filter (fun h => s.bit (R.HC_CTRL h) F.HC_CTRL_EN) = []) → periodOver
      s.cal.pathAt (800000 * (1000 * s.fld R.CAL_TSCFG F.CAL_TSCFG_PCALPER)) s.now = true →
    Answers (.pathCalibration) s fun t => t.cal.path = none ∧ t.cal.paths = [] ∧ Keeps [.cal] [] s t) ∧
  (∀ (s : State), (s.cal.path ≠ none ∨ periodOver s.cal.pathAt (800000 * (1000 * s.fld R.CAL_TSCFG
      F.CAL_TSCFG_PCALPER)) s.now = false) →
    Answers (.pathCalibration) s fun t => Keeps [] [] s t)

/-- Cycles, slots, the trims that their points give, and the steps of the trims in force (R295, R343, R345, R347,
R348, R349). Clauses beyond the rules are the model's choices of log entry 64. -/
def Obligations.CalibrationAndTrims : Prop :=
  (∀ (s : State) (h : Nat) (l : List Nat), (s.bit R.CAL_CTRL F.CAL_CTRL_EN = true ∧ s.bit R.CAL_STAT F.CAL_STAT_BUSY
      = false ∧ periodOver s.cal.cycleAt (800000 * s.fld R.CAL_SCHED F.CAL_SCHED_PERIOD) s.now = true) → (bitList 24
      (s.fld R.CAL_HCMASK F.CAL_HCMASK_HC)).dropWhile (fun h => s.hcState h == 0) = h :: l →
    Answers (.calibrationCycle) s fun t => t.bit R.CAL_STAT F.CAL_STAT_BUSY = true ∧ t.fld R.CAL_STAT
        F.CAL_STAT_CURHC = h % 32 ∧ t.bit (R.CAL_HCh_STAT h) F.CAL_HCh_STAT_BUSY = true ∧ t.cal.left = h :: l ∧
        t.cal.lo = [] ∧ t.cal.hi = [] ∧ Keeps [.cal] [.CAL_STAT, .CAL_HCh_STAT] s t) ∧
  (∀ (s : State), (s.bit R.CAL_CTRL F.CAL_CTRL_EN = true ∧ s.bit R.CAL_STAT F.CAL_STAT_BUSY = false ∧ periodOver
      s.cal.cycleAt (800000 * s.fld R.CAL_SCHED F.CAL_SCHED_PERIOD) s.now = true) → (bitList 24 (s.fld R.CAL_HCMASK
      F.CAL_HCMASK_HC)).dropWhile (fun h => s.hcState h == 0) = [] →
    Answers (.calibrationCycle) s fun t => t.bit R.CAL_STAT F.CAL_STAT_BUSY = false ∧ t.bit R.CAL_EVT F.CAL_EVT_CYCLE
        = true ∧ t.cal.left = [] ∧ Keeps [.cal] [.CAL_STAT, .CAL_EVT] s t) ∧
  (∀ (s : State), (s.bit R.CAL_CTRL F.CAL_CTRL_EN = true ∧ s.bit R.CAL_STAT F.CAL_STAT_BUSY = true ∧ periodOver
      s.cal.cycleAt (800000 * s.fld R.CAL_SCHED F.CAL_SCHED_PERIOD) s.now = true) → (s.fld R.CAL_STAT F.CAL_STAT_LAG
      < 3 ∨ s.cal.lagged = true) →
    Answers (.calibrationCycle) s fun t => t.fld R.CAL_STAT F.CAL_STAT_LAG = min (s.fld R.CAL_STAT F.CAL_STAT_LAG +
        1) (2 ^ F.CAL_STAT_LAG.width - 1) ∧ Keeps [.cal] [.CAL_STAT] s t) ∧
  (∀ (s : State), (s.bit R.CAL_CTRL F.CAL_CTRL_EN = true ∧ s.bit R.CAL_STAT F.CAL_STAT_BUSY = true ∧ periodOver
      s.cal.cycleAt (800000 * s.fld R.CAL_SCHED F.CAL_SCHED_PERIOD) s.now = true) → (s.fld R.CAL_STAT F.CAL_STAT_LAG
      = 3 ∧ s.cal.lagged = false) →
    Answers (.calibrationCycle) s fun t => t.fld R.CAL_STAT F.CAL_STAT_LAG = 4 ∧ t.cal.lagged = true ∧ t.newest =
        some (5, 0, s.fld R.CAL_STAT F.CAL_STAT_CURHC / 6, 8) ∧ Keeps [.log, .cal, .subs, .lastEvents] [.FAULT_EVT,
        .FAULT_LOG_WR, .FAULT_LOG_LOST, .CAL_STAT, .CAL_EVT, .CAL_HCh_STAT] s t) ∧
  (∀ (s : State), (s.bit R.CAL_CTRL F.CAL_CTRL_EN = false ∨ periodOver s.cal.cycleAt (800000 * s.fld R.CAL_SCHED
      F.CAL_SCHED_PERIOD) s.now = false) →
    Answers (.calibrationCycle) s fun t => Keeps [] [] s t) ∧
  (∀ (s : State) (h : Nat) (l : List Nat), (s.cal.slot = none ∧ s.cal.left = h :: l ∧ s.bit R.CAL_CTRL F.CAL_CTRL_EN
      = true ∧ s.hcState h ≠ 0) →
    Answers (.calibrationSlot false) s fun t => t.cal.slot = (if s.grantsSlot h then some ⟨h, decide (s.cal.hi.length
        < s.cal.lo.length), none, s.now⟩ else none) ∧ Keeps [.cal] [] s t) ∧
  (∀ (s : State) (h k : Nat) (l l' : List Nat), (s.cal.slot = none ∧ s.cal.left = h :: l ∧ s.bit R.CAL_CTRL
      F.CAL_CTRL_EN = true ∧ s.hcState h = 0) → l.dropWhile (fun h => s.hcState h == 0) = k :: l' →
    Answers (.calibrationSlot false) s fun t => t.cal.left = k :: l' ∧ t.fld R.CAL_STAT F.CAL_STAT_CURHC = k % 32 ∧
        t.bit (R.CAL_HCh_STAT h) F.CAL_HCh_STAT_BUSY = false ∧ t.bit (R.CAL_HCh_STAT k) F.CAL_HCh_STAT_BUSY = true ∧
        Keeps [.cal] [.CAL_STAT, .CAL_HCh_STAT] s t) ∧
  (∀ (s : State) (h v u : Nat) (b : Bool), (s.cal.slot = some ⟨h, b, some v, u⟩ ∧ u + s.slotTicks ≤ s.now) →
      ((s.cal.lo.length + (if b then 0 else 1) < s.fld R.CAL_SCHED F.CAL_SCHED_NPT) ∨ (s.cal.hi.length + (if b then 1
      else 0) < s.fld R.CAL_SCHED F.CAL_SCHED_NPT)) →
    Answers (.calibrationSlot true) s fun t => t.cal.slot = none ∧ t.cal.lo = s.cal.lo ++ (if b then [] else [v]) ∧
        t.cal.hi = s.cal.hi ++ (if b then [v] else []) ∧ t.fld R.CAL_CNT_SLOTS F.CAL_CNT_SLOTS_COUNT = min (s.fld
        R.CAL_CNT_SLOTS F.CAL_CNT_SLOTS_COUNT + 1) (2 ^ F.CAL_CNT_SLOTS_COUNT.width - 1) ∧ Keeps [.cal]
        [.CAL_CNT_SLOTS] s t) ∧
  (∀ (s : State), s.cal.slot.all (fun x => decide (s.now < x.since + s.slotTicks)) = true →
    Answers (.calibrationSlot true) s fun t => Keeps [] [] s t) ∧
  (∀ (s : State) (h u : Nat) (b : Bool), (s.cal.slot = some ⟨h, b, none, u⟩ ∧ u + s.slotTicks ≤ s.now) →
    Answers (.calibrationSlot true) s fun t => t.cal.slot = none ∧ t.cal.lo = s.cal.lo ∧ t.cal.hi = s.cal.hi ∧ Keeps
        [.cal] [] s t) ∧
  (∀ (s : State) (h : Fin 24) (v u n : Nat) (x y : Int), (s.cal.slot = some ⟨h.val, true, some v, u⟩ ∧ u +
      s.slotTicks ≤ s.now ∧ n = max 1 (s.fld R.CAL_SCHED F.CAL_SCHED_NPT) ∧ s.cal.lo.length = n ∧ s.cal.hi.length + 1
      = n) → trimChange s.cal.lo (s.cal.hi ++ [v]) (sext 16 (s.fld (R.CAL_HCh_PATH h) F.CAL_HCh_PATH_VSOFS)) ((s.fld
      (R.CAL_HCh_TGT h) F.CAL_HCh_TGT_TGTLO : Nat) : Int) ((s.fld (R.CAL_HCh_TGT h) F.CAL_HCh_TGT_TGTHI : Nat) : Int)
      ((s.fld (R.CAL_HCh_PTS h) F.CAL_HCh_PTS_CODELO : Nat) : Int) ((s.fld (R.CAL_HCh_PTS h) F.CAL_HCh_PTS_CODEHI :
      Nat) : Int) = some (x, y) →
    Answers (.calibrationSlot true) s fun t => t.fld (R.CAL_HCh_TRIM h) F.CAL_HCh_TRIM_GAIN = (if s.bit R.CAL_CTRL
        F.CAL_CTRL_TRIMEN then (trimTarget (s.fld (R.CAL_HCh_TRIM h) F.CAL_HCh_TRIM_GAIN) x ((s.fld R.CAL_SCHED
        F.CAL_SCHED_MAXSTEP : Nat) : Int)).1 else s.fld (R.CAL_HCh_TRIM h) F.CAL_HCh_TRIM_GAIN) ∧ t.fld
        (R.CAL_HCh_TRIM h) F.CAL_HCh_TRIM_OFS = (if s.bit R.CAL_CTRL F.CAL_CTRL_TRIMEN then (trimTarget (s.fld
        (R.CAL_HCh_TRIM h) F.CAL_HCh_TRIM_OFS) y ((s.fld R.CAL_SCHED F.CAL_SCHED_MAXSTEP : Nat) : Int)).1 else s.fld
        (R.CAL_HCh_TRIM h) F.CAL_HCh_TRIM_OFS) ∧ t.bit (R.CAL_HCh_STAT h) F.CAL_HCh_STAT_IMPLAUS = false ∧ t.bit
        (R.CAL_HCh_STAT h) F.CAL_HCh_STAT_RANGE = ((trimTarget (s.fld (R.CAL_HCh_TRIM h) F.CAL_HCh_TRIM_GAIN) x
        ((s.fld R.CAL_SCHED F.CAL_SCHED_MAXSTEP : Nat) : Int)).2 || (trimTarget (s.fld (R.CAL_HCh_TRIM h)
        F.CAL_HCh_TRIM_OFS) y ((s.fld R.CAL_SCHED F.CAL_SCHED_MAXSTEP : Nat) : Int)).2) ∧ Keeps [.freeCtr, .cal]
        [.CAL_STAT, .CAL_EVT, .CAL_CNT_SLOTS, .CAL_CNT_IMPLAUS, .CAL_HCh_TRIM, .CAL_HCh_NOW, .CAL_HCh_MEAS,
        .CAL_HCh_STAT] s t) ∧
  (∀ (s : State) (h : Fin 24) (v u n : Nat), (s.cal.slot = some ⟨h.val, true, some v, u⟩ ∧ u + s.slotTicks ≤ s.now ∧
      n = max 1 (s.fld R.CAL_SCHED F.CAL_SCHED_NPT) ∧ s.cal.lo.length = n ∧ s.cal.hi.length + 1 = n) → trimChange
      s.cal.lo (s.cal.hi ++ [v]) (sext 16 (s.fld (R.CAL_HCh_PATH h) F.CAL_HCh_PATH_VSOFS)) ((s.fld (R.CAL_HCh_TGT h)
      F.CAL_HCh_TGT_TGTLO : Nat) : Int) ((s.fld (R.CAL_HCh_TGT h) F.CAL_HCh_TGT_TGTHI : Nat) : Int) ((s.fld
      (R.CAL_HCh_PTS h) F.CAL_HCh_PTS_CODELO : Nat) : Int) ((s.fld (R.CAL_HCh_PTS h) F.CAL_HCh_PTS_CODEHI : Nat) :
      Int) = none →
    Answers (.calibrationSlot true) s fun t => t.reg (R.CAL_HCh_TRIM h) = s.reg (R.CAL_HCh_TRIM h) ∧ t.reg
        (R.CAL_HCh_NOW h) = s.reg (R.CAL_HCh_NOW h) ∧ t.bit (R.CAL_HCh_STAT h) F.CAL_HCh_STAT_IMPLAUS = true ∧ t.bit
        R.CAL_EVT F.CAL_EVT_IMPLAUS = true ∧ t.fld R.CAL_CNT_IMPLAUS F.CAL_CNT_IMPLAUS_COUNT = min (s.fld
        R.CAL_CNT_IMPLAUS F.CAL_CNT_IMPLAUS_COUNT + 1) (2 ^ F.CAL_CNT_IMPLAUS_COUNT.width - 1) ∧ Keeps [.freeCtr,
        .cal] [.CAL_STAT, .CAL_EVT, .CAL_CNT_SLOTS, .CAL_CNT_IMPLAUS, .CAL_HCh_TRIM, .CAL_HCh_NOW, .CAL_HCh_MEAS,
        .CAL_HCh_STAT] s t) ∧
  (∀ (h : Fin 24) (s : State) (l : Nat) (u : TrimSt), u = sget (fun _ => ({} : TrimSt)) s.cal.trims h → (s.hcState h
      = 2 ∨ s.hcState h = 3) → (u.due = some l ∨ u.due = none ∧ l = lineSub (s.regN (rowNextReg h (s.refRowOf h))) 1
      ∧ u.first.all (fun f => l != s.regN (R.CAL_HCh_LASTLINE h) && lineDist l f % ((max 1 (s.fld R.CAL_SLOT
      F.CAL_SLOT_STEPLINES) : Nat) : Int) == 0) = true) → (s.reg (R.CAL_HCh_NOW h) ≠ s.reg (R.CAL_HCh_TRIM h) ∧
      s.trimFree h = true) →
    Answers (.trimStep h) s fun t => t.fld (R.CAL_HCh_NOW h) F.CAL_HCh_TRIM_OFS = towards (s.fld (R.CAL_HCh_NOW h)
        F.CAL_HCh_TRIM_OFS) (s.fld (R.CAL_HCh_TRIM h) F.CAL_HCh_TRIM_OFS) ∧ t.fld (R.CAL_HCh_NOW h)
        F.CAL_HCh_TRIM_GAIN = towards (s.fld (R.CAL_HCh_NOW h) F.CAL_HCh_TRIM_GAIN) (s.fld (R.CAL_HCh_TRIM h)
        F.CAL_HCh_TRIM_GAIN) ∧ t.reg (R.CAL_HCh_LASTLINE h) = BitVec.ofNat 32 l ∧ sget (fun _ => ({} : TrimSt))
        t.cal.trims h = ⟨some (u.first.getD l), none⟩ ∧ Keeps [.cal] [.CAL_HCh_NOW, .CAL_HCh_STAT, .CAL_HCh_LASTLINE]
        s t) ∧
  (∀ (h : Fin 24) (s : State) (l : Nat) (u : TrimSt), u = sget (fun _ => ({} : TrimSt)) s.cal.trims h → (s.hcState h
      = 2 ∨ s.hcState h = 3) → (u.due = some l ∨ u.due = none ∧ l = lineSub (s.regN (rowNextReg h (s.refRowOf h))) 1
      ∧ u.first.all (fun f => l != s.regN (R.CAL_HCh_LASTLINE h) && lineDist l f % ((max 1 (s.fld R.CAL_SLOT
      F.CAL_SLOT_STEPLINES) : Nat) : Int) == 0) = true) → (s.reg (R.CAL_HCh_NOW h) ≠ s.reg (R.CAL_HCh_TRIM h) ∧
      s.trimFree h = false) →
    Answers (.trimStep h) s fun t => sget (fun _ => ({} : TrimSt)) t.cal.trims h = { u with due := some l } ∧ Keeps
        [.cal] [] s t) ∧
  (∀ (h : Fin 24) (s : State) (l : Nat) (u : TrimSt), (u = sget (fun _ => ({} : TrimSt)) s.cal.trims h ∧ l = lineSub
      (s.regN (rowNextReg h (s.refRowOf h))) 1) → ((s.hcState h ≠ 2 ∧ s.hcState h ≠ 3) ∨ s.reg (R.CAL_HCh_NOW h) =
      s.reg (R.CAL_HCh_TRIM h) ∨ u.due = none ∧ u.first.all (fun f => l != s.regN (R.CAL_HCh_LASTLINE h) && lineDist
      l f % ((max 1 (s.fld R.CAL_SLOT F.CAL_SLOT_STEPLINES) : Nat) : Int) == 0) = false) →
    Answers (.trimStep h) s fun t => Keeps [] [] s t) ∧
  (∀ (r : Requester) (h : Fin 24) (v : Word) (s : State),
    Answers (.trimTargetWrite r h v) s fun t => t.fld (R.CAL_HCh_TRIM h) F.CAL_HCh_TRIM_OFS = getField
        F.CAL_HCh_TRIM_OFS v ∧ t.fld (R.CAL_HCh_TRIM h) F.CAL_HCh_TRIM_GAIN = getField F.CAL_HCh_TRIM_GAIN v ∧ (t.reg
        (R.CAL_HCh_NOW h) = (if s.hcState h = 2 ∨ s.hcState h = 3 then s.reg (R.CAL_HCh_NOW h) else t.reg
        (R.CAL_HCh_TRIM h))) ∧ t.resp = some ⟨reqCode r, true, []⟩ ∧ Keeps [.resp, .cal] [.CAL_HCh_TRIM,
        .CAL_HCh_NOW, .CAL_HCh_STAT] s t)

/-- An update moves the axes along their plans; a fault or an overcurrent stops the axis; EN and LINK change its
state (R352, R354, R358, R359, R360, R363, R372, R373, R375). Clauses beyond the rules are the model's choices of log
entries 65, 68. -/
def Obligations.MotionUpdates : Prop :=
  (∀ (s : State) (n : Fin 4) (g : Seg) (l : List Seg), (s.motNominal ≤ s.now ∧ s.mot.due = []) → (s.linked = false ∧
      s.axState n = 2 ∧ (s.ax n).safe = false ∧ (s.ax n).replan = false) → (s.bit (R.MOT_AXn_SW n)
      F.MOT_AXn_SW_LNEGEN = false ∧ s.bit (R.MOT_AXn_SW n) F.MOT_AXn_SW_LPOSEN = false) → ((s.ax n).plan = g :: l ∧
      (s.ax n).t + 65536 < g.dur) →
    Answers (.motionUpdate) s fun t => ((t.ax n).x, (t.ax n).v) = evalSeg g ((s.ax n).t + 65536) ∧ (t.ax n).t = (s.ax
        n).t + 65536 ∧ (t.ax n).plan = g :: l ∧ t.axState n = 2 ∧ t.bit (R.MOT_AXn_STAT n) F.MOT_AXn_STAT_STILL =
        ((t.ax n).v == 0) ∧ ((t.ax n).v ≠ 0 → t.bit (R.MOT_AXn_STAT n) F.MOT_AXn_STAT_DIR = decide ((t.ax n).v < 0))
        ∧ Keeps [.halfWrites, .freeCtr, .log, .axes, .mot, .subs, .lastEvents] [.any] s t) ∧
  (∀ (s : State) (n : Fin 4) (g : Seg) (y : Int), (s.motNominal ≤ s.now ∧ s.mot.due = []) → (s.linked = false ∧
      s.axState n = 2 ∧ (s.ax n).safe = false ∧ (s.ax n).replan = false) → (s.bit (R.MOT_AXn_SW n)
      F.MOT_AXn_SW_LNEGEN = false ∧ s.bit (R.MOT_AXn_SW n) F.MOT_AXn_SW_LPOSEN = false) → ((s.ax n).plan = [g] ∧
      g.dur ≤ (s.ax n).t + 65536 ∧ g.v1 = 0 ∧ (s.ax n).after = .rest ∧ (s.ax n).goal = some y) →
    Answers (.motionUpdate) s fun t => (t.ax n).x = y * unitP ∧ (t.ax n).v = 0 ∧ (t.ax n).plan = [] ∧ (t.ax n).goal =
        none ∧ t.axState n = 1 ∧ (t.regN R.MOT_EVT).testBit (8 * n.val) = true ∧ t.bit (R.MOT_AXn_STAT n)
        F.MOT_AXn_STAT_STILL = true ∧ Keeps [.halfWrites, .freeCtr, .log, .axes, .mot, .subs, .lastEvents] [.any] s
        t) ∧
  (∀ (s : State) (n : Fin 4) (g : Seg) (y : Int), (s.motNominal ≤ s.now ∧ s.mot.due = []) → (s.linked = false ∧
      s.axState n = 2 ∧ (s.ax n).safe = false ∧ (s.ax n).replan = false) → (s.bit (R.MOT_AXn_SW n)
      F.MOT_AXn_SW_LNEGEN = false ∧ s.bit (R.MOT_AXn_SW n) F.MOT_AXn_SW_LPOSEN = false) → ((s.ax n).plan = [g] ∧
      g.dur ≤ (s.ax n).t + 65536 ∧ g.v1 = 0 ∧ (s.ax n).after = .reverse ∧ (s.ax n).goal = some y) →
    Answers (.motionUpdate) s fun t => (t.ax n).x = g.x + segDist g.v0 g.v1 g.dur ∧ (t.ax n).v = 0 ∧ (t.ax n).goal =
        some y ∧ (t.ax n).after = .rest ∧ t.axState n = 2 ∧ (t.regN R.MOT_EVT).testBit (8 * n.val + 4) = true ∧ Keeps
        [.halfWrites, .freeCtr, .log, .axes, .mot, .subs, .lastEvents] [.any] s t) ∧
  (∀ (s : State) (n : Fin 4), (s.motNominal ≤ s.now ∧ s.mot.due = []) → (s.linked = false ∧ (s.axState n = 0 ∨
      s.axState n = 6) ∧ (s.ax n).safe = false) →
    Answers (.motionUpdate) s fun t => (t.ax n).x = (s.ax n).x ∧ (t.ax n).v = (s.ax n).v ∧ t.axState n = s.axState n
        ∧ Keeps [.halfWrites, .freeCtr, .log, .axes, .mot, .subs, .lastEvents] [.any] s t) ∧
  (∀ (s : State), (s.motNominal ≤ s.now ∧ s.mot.due = []) → (s.linked = true ∧ s.axState 1 ≠ 0 ∧ s.axState 1 ≠ 6) →
      ((s.axState 0 = 1 ∨ s.axState 0 = 2 ∨ s.axState 0 = 3) ∧ (s.ax 0).after = .rest) →
    Answers (.motionUpdate) s fun t => (t.ax 1).x = (t.ax 0).x + sext 32 (s.regN (R.MOT_AXn_LINKOFS 1)) * unitP ∧
        (t.ax 1).v = (t.ax 0).v ∧ Keeps [.halfWrites, .freeCtr, .log, .axes, .mot, .subs, .lastEvents] [.any] s t) ∧
  (∀ (s : State), s.motNominal ≤ s.now →
    Answers (.motionUpdate) s fun t => t.mot.last = some s.motNominal ∧ t.mot.due = [] ∧ ((s.now - s.motNominal) /
        20000 = 0 → t.mot.lagged = false) ∧ (4 ≤ (s.now - s.motNominal) / 20000 → t.mot.lagged = true) ∧ Keeps
        [.halfWrites, .freeCtr, .log, .axes, .mot, .subs, .lastEvents] [.any] s t) ∧
  (∀ (s : State), (4 ≤ (s.now - s.motNominal) / 20000 ∧ s.mot.lagged = false ∧ s.mot.due = [] ∧ (∀ n : Fin 4,
      s.axState n = 0 ∧ (s.ax n).safe = false)) →
    Answers (.motionUpdate) s fun t => t.newest.map (fun e => (e.1, e.2.1, e.2.2.2)) = some (0x0D, 5, 9) ∧ Keeps
        [.halfWrites, .freeCtr, .log, .axes, .mot, .subs, .lastEvents] [.any] s t) ∧
  (∀ (s : State), s.now < s.motNominal →
    Answers (.motionUpdate) s fun t => Keeps [] [] s t) ∧
  (∀ (n : Fin 4) (s : State), (s.axState n ≠ 0 ∧ s.axState n ≠ 6) →
    Answers (.bridgeFault n) s fun t => t.axState n = 6 ∧ t.fld (R.MOT_AXn_STAT n) F.MOT_AXn_STAT_CAUSE = 1 ∧ t.axRef
        n = false ∧ (t.ax n).off = true ∧ (t.ax n).v = 0 ∧ (t.ax n).plan = [] ∧ (t.regN R.MOT_EVT).testBit (8 * n.val
        + 3) = true ∧ (s.linked = true ∧ n.val < 2 ∧ s.axState (1 - n.val) ≠ 0 ∧ s.axState (1 - n.val) ≠ 6 ∧ (s.ax (1
        - n.val)).v = 0 → t.axState (1 - n.val) = 6 ∧ t.fld (R.MOT_AXn_STAT (1 - n.val)) F.MOT_AXn_STAT_CAUSE = 7) ∧
        (s.linked = true ∧ n.val < 2 ∧ s.axState (1 - n.val) ≠ 0 ∧ s.axState (1 - n.val) ≠ 6 ∧ (s.ax (1 - n.val)).v ≠
        0 → t.axState (1 - n.val) = 3 ∧ (t.ax (1 - n.val)).after = .fault 7 ∧ (t.ax (1 - n.val)).plan = transition 2
        (s.ax (1 - n.val)).x (s.ax (1 - n.val)).v 0 (s.regN (R.MOT_AXn_QDEC (1 - n.val)))) ∧ (s.linked = false ∨ 2 ≤
        n.val → t.newest = some (0x0D, 1, n.val, 1)) ∧ Keeps [.freeCtr, .log, .axes, .subs, .lastEvents] [.FAULT_EVT,
        .FAULT_LOG_WR, .FAULT_LOG_LOST, .MOT_EVT, .MOT_AXn_STAT] s t) ∧
  (∀ (n : Fin 4) (a b : BitVec 12) (s : State), (s.fld (R.MOT_AXn_CURPI n) F.MOT_AXn_CURPI_IMAX = 0 ∨ max a.toNat
      b.toNat ≤ 16 * s.fld (R.MOT_AXn_CURPI n) F.MOT_AXn_CURPI_IMAX) →
    Answers (.currentSample n a b) s fun t => (t.ax n).phA.sample = (a.toNat : Int) ∧ (t.ax n).phB.sample = (b.toNat
        : Int) ∧ Keeps [.axes] [] s t) ∧
  (∀ (n : Fin 4) (a b : BitVec 12) (s : State), (s.fld (R.MOT_AXn_CURPI n) F.MOT_AXn_CURPI_IMAX ≠ 0 ∧ 16 * s.fld
      (R.MOT_AXn_CURPI n) F.MOT_AXn_CURPI_IMAX < max a.toNat b.toNat) → (s.axState n ≠ 0 ∧ s.axState n ≠ 6) →
    Answers (.currentSample n a b) s fun t => t.axState n = 6 ∧ t.fld (R.MOT_AXn_STAT n) F.MOT_AXn_STAT_CAUSE = 2 ∧
        t.axRef n = false ∧ (t.ax n).off = true ∧ (t.ax n).v = 0 ∧ (t.ax n).plan = [] ∧ (s.linked = false ∨ 2 ≤ n.val
        → t.newest = some (0x0D, 1, n.val, 2)) ∧ Keeps [.freeCtr, .log, .axes, .subs, .lastEvents] [.FAULT_EVT,
        .FAULT_LOG_WR, .FAULT_LOG_LOST, .MOT_EVT, .MOT_AXn_STAT] s t) ∧
  (∀ (n : Fin 4) (a b : BitVec 12) (s : State), ((s.axState n = 0 ∨ s.axState n = 6) ∧ (s.linked = false ∨ 2 ≤
      n.val)) →
    Answers (.currentSample n a b) s fun t => (t.ax n).phA.sample = (a.toNat : Int) ∧ (t.ax n).phB.sample = (b.toNat
        : Int) ∧ Keeps [.axes] [] s t) ∧
  (∀ (r : Requester) (n : Fin 4) (v : Word) (s : State), (getField F.MOT_AXn_CTRL_EN v = 1 ∧ s.fld (R.MOT_AXn_CTRL n)
      F.MOT_AXn_CTRL_EN = 0) →
    Answers (.axisEnable r n v) s fun t => t.axState n = 1 ∧ t.axRef n = false ∧ t.ax n = { x := (s.ax n).x } ∧ t.fld
        (R.MOT_AXn_CTRL n) F.MOT_AXn_CTRL_EN = 1 ∧ t.resp = some ⟨reqCode r, true, []⟩ ∧ Keeps [.resp, .axes]
        [.MOT_AXn_CTRL, .MOT_AXn_STAT, .MOT_AXn_LINKOFS] s t) ∧
  (∀ (r : Requester) (n : Fin 4) (v : Word) (s : State), (getField F.MOT_AXn_CTRL_EN v = 0 ∧ s.axState n ≠ 0) →
    Answers (.axisDisable r n v) s fun t => t.axState n = 0 ∧ t.ax n = { x := (s.ax n).x, off := true } ∧ t.fld
        (R.MOT_AXn_CTRL n) F.MOT_AXn_CTRL_EN = 0 ∧ t.resp = some ⟨reqCode r, true, []⟩ ∧ Keeps [.resp, .axes]
        [.MOT_AXn_CTRL, .MOT_AXn_STAT, .MOT_AXn_LINKOFS] s t) ∧
  (∀ (r : Requester) (v : Word) (s : State), (getField F.MOT_AXn_CTRL_LINK v = 1 ∧ s.linked = false ∧ s.liftStill =
      true) →
    Answers (.axisLink r v) s fun t => t.linked = true ∧ t.reg (R.MOT_AXn_LINKOFS 1) = s.reg (R.MOT_AXn_POS 1) -
        s.reg (R.MOT_AXn_POS 0) ∧ t.resp = some ⟨reqCode r, true, []⟩ ∧ Keeps [.resp, .axes] [.MOT_AXn_CTRL,
        .MOT_AXn_STAT, .MOT_AXn_LINKOFS] s t) ∧
  (∀ (r : Requester) (v : Word) (s : State), s.liftStill = false →
    Answers (.axisLink r v) s fun t => t.linked = s.linked ∧ t.reg (R.MOT_AXn_LINKOFS 1) = s.reg (R.MOT_AXn_LINKOFS
        1) ∧ t.resp = some ⟨reqCode r, true, []⟩ ∧ Keeps [.resp, .axes] [.MOT_AXn_CTRL, .MOT_AXn_STAT,
        .MOT_AXn_LINKOFS] s t)

/-- What the commands of an axis do: moves, stops, homing, gearing, positions, and where they are refused (R359,
R360, R366, R367, R368, R369, R370, R372, R373, R377). Clauses beyond the rules are the model's choices of log
entries 66, 67. -/
def Obligations.AxisCommands : Prop :=
  (∀ (r : Requester) (n : Fin 4) (s : State), (s.noCommands n = true ∨ s.badSpeeds n = true ∨ s.badTarget n (sext 32
      (s.regN (R.MOT_AXn_TGT n))) = true) →
    Answers (.moveToTarget r n) s fun t => t.newest = some (0x0D, 5, n.val, 6) ∧ (t.regN R.MOT_EVT).testBit (8 *
        n.val + 5) = true ∧ t.ax n = s.ax n ∧ t.axState n = s.axState n ∧ t.resp = some ⟨reqCode r, true, []⟩ ∧ Keeps
        [.resp, .freeCtr, .log, .subs, .lastEvents] [.FAULT_EVT, .FAULT_LOG_WR, .FAULT_LOG_LOST, .MOT_EVT,
        .MOT_AXn_STAT] s t) ∧
  (∀ (r : Requester) (n : Fin 4) (s : State) (g : Int), (g = sext 32 (s.regN (R.MOT_AXn_TGT n)) ∧ s.noCommands n =
      false ∧ s.badSpeeds n = false ∧ s.badTarget n g = false ∧ s.axBusy n = false) →
    Answers (.moveToTarget r n) s fun t => t.axState n = 2 ∧ (t.ax n).goal = some g ∧ t.resp = some ⟨reqCode r, true,
        []⟩ ∧ ((s.ax n).v = 0 ∧ (s.ax n).plan = [] → (t.ax n).plan = s.movePlan n (s.ax n).x 0 (g * unitP) ∧ (t.ax
        n).replan = false) ∧ (inTransition (s.ax n) = true → (t.ax n).replan = true ∧ (t.ax n).plan = (s.ax n).plan)
        ∧ (inTransition (s.ax n) = false ∧ 0 < (s.ax n).v ∧ g * unitP < planEnd (s.ax n).x (s.stopPlan n (s.ax n).x
        (s.ax n).v) → (t.ax n).plan = s.stopPlan n (s.ax n).x (s.ax n).v ∧ (t.ax n).after = .reverse) ∧ Keeps [.resp,
        .axes] [.MOT_AXn_STAT] s t) ∧
  (∀ (r : Requester) (n : Fin 4) (s : State), (s.noCommands n = false ∧ s.badSpeeds n = false ∧ s.badTarget n (sext
      32 (s.regN (R.MOT_AXn_TGT n))) = false ∧ s.axBusy n = true) →
    Answers (.moveToTarget r n) s fun t => t.resp = some ⟨reqCode r, true, []⟩ ∧ Keeps [.resp] [] s t) ∧
  (∀ (r : Requester) (n : Fin 4) (s : State), (s.noCommands n = false ∧ s.axBusy n = false) →
    Answers (.stopAtDmax r n) s fun t => t.axState n = 3 ∧ (t.ax n).goal = none ∧ t.resp = some ⟨reqCode r, true, []⟩
        ∧ (inTransition (s.ax n) = false ∧ (s.ax n).home = 0 → (t.ax n).plan = s.stopPlan n (s.ax n).x (s.ax n).v) ∧
        Keeps [.resp, .freeCtr, .log, .axes, .subs, .lastEvents] [.FAULT_EVT, .FAULT_LOG_WR, .FAULT_LOG_LOST,
        .MOT_EVT, .MOT_AXn_STAT] s t) ∧
  (∀ (r : Requester) (s : State), s.linked = true →
    Answers (.stopAtDmax r 1) s fun t => t.newest = some (0x0D, 5, 1, 6) ∧ (t.regN R.MOT_EVT).testBit 13 = true ∧
        t.ax 1 = s.ax 1 ∧ t.axState 1 = s.axState 1 ∧ t.resp = some ⟨reqCode r, true, []⟩ ∧ Keeps [.resp, .freeCtr,
        .log, .subs, .lastEvents] [.FAULT_EVT, .FAULT_LOG_WR, .FAULT_LOG_LOST, .MOT_EVT, .MOT_AXn_STAT] s t) ∧
  (∀ (r : Requester) (n : Fin 4) (s : State), ((n.val ≠ 1 ∨ s.linked = false) ∧ (s.noCommands n = true ∨ s.axBusy n =
      true)) →
    Answers (.stopAtDmax r n) s fun t => t.resp = some ⟨reqCode r, true, []⟩ ∧ Keeps [.resp] [] s t) ∧
  (∀ (r : Requester) (n : Fin 4) (s : State), s.noCommands n = false →
    Answers (.quickStop r n) s fun t => (t.ax n).plan = transition 2 (s.ax n).x (s.ax n).v 0 (s.regN (R.MOT_AXn_QDEC
        n)) ∧ (t.ax n).goal = none ∧ (t.ax n).replan = false ∧ (t.axState n = (if s.axState n = 4 then 4 else 3) ∧
        (s.axState n = 4 → (t.ax n).home = 7)) ∧ (s.linked = true ∧ n.val = 0 ∧ s.axState 1 ≠ 0 ∧ s.axState 1 ≠ 6 →
        (t.ax 1).plan = transition 2 (s.ax 1).x (s.ax 1).v 0 (s.regN (R.MOT_AXn_QDEC 1)) ∧ (t.ax 1).goal = none) ∧
        t.resp = some ⟨reqCode r, true, []⟩ ∧ Keeps [.resp, .freeCtr, .log, .axes, .subs, .lastEvents] [.FAULT_EVT,
        .FAULT_LOG_WR, .FAULT_LOG_LOST, .MOT_EVT, .MOT_AXn_STAT] s t) ∧
  (∀ (r : Requester) (s : State), s.linked = true →
    Answers (.quickStop r 1) s fun t => t.newest = some (0x0D, 5, 1, 6) ∧ (t.regN R.MOT_EVT).testBit 13 = true ∧ t.ax
        1 = s.ax 1 ∧ t.axState 1 = s.axState 1 ∧ t.resp = some ⟨reqCode r, true, []⟩ ∧ Keeps [.resp, .freeCtr, .log,
        .subs, .lastEvents] [.FAULT_EVT, .FAULT_LOG_WR, .FAULT_LOG_LOST, .MOT_EVT, .MOT_AXn_STAT] s t) ∧
  (∀ (r : Requester) (n : Fin 4) (s : State), ((n.val ≠ 1 ∨ s.linked = false) ∧ s.noCommands n = true) →
    Answers (.quickStop r n) s fun t => t.resp = some ⟨reqCode r, true, []⟩ ∧ Keeps [.resp] [] s t) ∧
  (∀ (r : Requester) (n : Fin 4) (s : State), (s.axState n = 1 ∧ (s.linked = false ∨ 2 ≤ n.val) ∧ s.badSpeeds n =
      false) → (0 < s.fld (R.MOT_AXn_HOME n) F.MOT_AXn_HOME_HFAST ∧ s.fld (R.MOT_AXn_HOME n) F.MOT_AXn_HOME_HFAST ≤
      20000) → (0 < s.fld (R.MOT_AXn_HOME n) F.MOT_AXn_HOME_HSLOW ∧ s.fld (R.MOT_AXn_HOME n) F.MOT_AXn_HOME_HSLOW ≤
      20000) →
    Answers (.homeAxis r n) s fun t => t.axState n = 4 ∧ (t.ax n).home = 1 ∧ (t.ax n).homeFrom = (s.ax n).x ∧ (t.ax
        n).goal = none ∧ (t.ax n).replan = false ∧ t.resp = some ⟨reqCode r, true, []⟩ ∧ Keeps [.resp, .axes]
        [.MOT_AXn_STAT] s t) ∧
  (∀ (r : Requester) (n : Fin 4) (s : State), (s.noCommands n = true ∨ s.linked = true ∧ n.val < 2 ∨ s.badSpeeds n =
      true ∨ s.fld (R.MOT_AXn_HOME n) F.MOT_AXn_HOME_HFAST = 0 ∨ 20000 < s.fld (R.MOT_AXn_HOME n)
      F.MOT_AXn_HOME_HFAST ∨ s.fld (R.MOT_AXn_HOME n) F.MOT_AXn_HOME_HSLOW = 0 ∨ 20000 < s.fld (R.MOT_AXn_HOME n)
      F.MOT_AXn_HOME_HSLOW) →
    Answers (.homeAxis r n) s fun t => t.newest = some (0x0D, 5, n.val, 6) ∧ (t.regN R.MOT_EVT).testBit (8 * n.val +
        5) = true ∧ t.ax n = s.ax n ∧ t.axState n = s.axState n ∧ t.resp = some ⟨reqCode r, true, []⟩ ∧ Keeps [.resp,
        .freeCtr, .log, .subs, .lastEvents] [.FAULT_EVT, .FAULT_LOG_WR, .FAULT_LOG_LOST, .MOT_EVT, .MOT_AXn_STAT] s
        t) ∧
  (∀ (r : Requester) (n : Fin 4) (s : State), (s.axState n ≠ 0 ∧ s.axState n ≠ 6 ∧ s.axState n ≠ 1 ∧ (s.linked =
      false ∨ 2 ≤ n.val) ∧ s.badSpeeds n = false) → (0 < s.fld (R.MOT_AXn_HOME n) F.MOT_AXn_HOME_HFAST ∧ s.fld
      (R.MOT_AXn_HOME n) F.MOT_AXn_HOME_HFAST ≤ 20000) → (0 < s.fld (R.MOT_AXn_HOME n) F.MOT_AXn_HOME_HSLOW ∧ s.fld
      (R.MOT_AXn_HOME n) F.MOT_AXn_HOME_HSLOW ≤ 20000) →
    Answers (.homeAxis r n) s fun t => t.resp = some ⟨reqCode r, true, []⟩ ∧ Keeps [.resp] [] s t) ∧
  (∀ (r : Requester) (n : Fin 4) (s : State), (n.val ≠ 2 ∨ s.fld (R.MOT_AXn_CTRL 2) F.MOT_AXn_CTRL_MODE ≠ 2 ∨
      (s.axState 2 ≠ 1 ∧ s.axState 2 ≠ 2)) →
    Answers (.engageGearing r n) s fun t => t.resp = some ⟨reqCode r, true, []⟩ ∧ Keeps [.resp] [] s t) ∧
  (∀ (r : Requester) (s : State), (s.fld (R.MOT_AXn_CTRL 2) F.MOT_AXn_CTRL_MODE = 2 ∧ (s.axState 2 = 1 ∨ s.axState 2
      = 2)) →
    Answers (.engageGearing r 2) s fun t => t.axState 2 = 5 ∧ (t.ax 2).plan = [] ∧ (t.ax 2).goal = none ∧ (t.ax
        2).gear =
        { m0 := s.masterPos, gofs := s.axPos 2, ratio := sext 32 (s.regN R.MOT_AX2_GRATIO), blends := [], lastM := s.masterPos } ∧ t.resp = some ⟨reqCode r, true, []⟩ ∧ Keeps [.resp, .axes] [.MOT_AXn_STAT] s t) ∧
  (∀ (r : Requester) (s : State), (s.axState 2 = 5 ∧ (s.ax 2).home = 0) →
    Answers (.disengageGearing r 2) s fun t => t.axState 2 = 3 ∧ (t.ax 2).goal = none ∧ (t.ax 2).plan = s.stopPlan 2
        (s.ax 2).x (s.ax 2).v ∧ t.resp = some ⟨reqCode r, true, []⟩ ∧ Keeps [.resp, .axes] [.MOT_AXn_STAT] s t) ∧
  (∀ (r : Requester) (n : Fin 4) (s : State), (n.val ≠ 2 ∨ s.axState 2 ≠ 5) →
    Answers (.disengageGearing r n) s fun t => t.resp = some ⟨reqCode r, true, []⟩ ∧ Keeps [.resp] [] s t) ∧
  (∀ (r : Requester) (s : State), s.linked = true →
    Answers (.setPosition r 1) s fun t => t.newest = some (0x0D, 5, 1, 6) ∧ (t.regN R.MOT_EVT).testBit 13 = true ∧
        t.ax 1 = s.ax 1 ∧ t.axState 1 = s.axState 1 ∧ t.resp = some ⟨reqCode r, true, []⟩ ∧ Keeps [.resp, .freeCtr,
        .log, .subs, .lastEvents] [.FAULT_EVT, .FAULT_LOG_WR, .FAULT_LOG_LOST, .MOT_EVT, .MOT_AXn_STAT] s t) ∧
  (∀ (r : Requester) (n : Fin 4) (s : State), (n.val ≠ 1 ∨ s.linked = false) → (s.axRef n = true ∧ (s.ax n).v = 0 ∧
      (s.ax n).plan = [] ∧ s.axState n ≠ 0 ∧ s.axState n ≠ 6) →
    Answers (.setPosition r n) s fun t => t.reg (R.MOT_AXn_POS n) = s.reg (R.MOT_AXn_TGT n) ∧ (t.ax n).x = sext 32
        (s.regN (R.MOT_AXn_TGT n)) * unitP ∧ t.resp = some ⟨reqCode r, true, []⟩ ∧ Keeps [.resp, .freeCtr, .log,
        .axes, .subs, .lastEvents] [.FAULT_EVT, .FAULT_LOG_WR, .FAULT_LOG_LOST, .MOT_EVT, .MOT_AXn_STAT,
        .MOT_AXn_POS] s t) ∧
  (∀ (r : Requester) (n : Fin 4) (s : State), (n.val ≠ 1 ∨ s.linked = false) → (s.axRef n = false ∨ (s.ax n).v ≠ 0 ∨
      (s.ax n).plan ≠ [] ∨ s.axState n = 0 ∨ s.axState n = 6) →
    Answers (.setPosition r n) s fun t => t.resp = some ⟨reqCode r, true, []⟩ ∧ Keeps [.resp] [] s t) ∧
  (∀ (r : Requester) (v : Word) (s : State) (m y : Int), (s.axState 2 = 5 ∧ m = (s.ax 2).gear.lastM ∧
      s.halfWrites.find? (fun e => e.1 == R.MOT_AX2_GSCHED_LO) = none) → y = sext 64 ((s.setReg R.MOT_AX2_GSCHED_HI
      v).wide R.MOT_AX2_GSCHED_LO) → (s.ax 2).gear.blends = [] →
    Answers (.ratioChangeArm r v) s fun t => t.reg R.MOT_AX2_GSCHED_HI = v ∧ (t.ax 2).gear =
        { (s.ax 2).gear with blends := [⟨max m y, s.fld R.MOT_AX2_GBLEND F.MOT_AX2_GBLEND_BLEND, (s.ax 2).gear.ratio, sext 32 (s.regN R.MOT_AX2_GNEXT), none⟩] } ∧ t.resp = some ⟨reqCode r, true, []⟩ ∧ Keeps [.halfWrites, .resp, .axes] [.MOT_AX2_GSCHED_LO, .MOT_AX2_GSCHED_HI] s t) ∧
  (∀ (r : Requester) (v w : Word) (s : State), (s.axState 2 ≠ 5 ∧ s.halfWrites.find? (fun e => e.1 ==
      R.MOT_AX2_GSCHED_LO) = some (R.MOT_AX2_GSCHED_LO, w)) →
    Answers (.ratioChangeArm r v) s fun t => t.reg R.MOT_AX2_GSCHED_HI = v ∧ t.reg R.MOT_AX2_GSCHED_LO = w ∧ t.ax 2 =
        s.ax 2 ∧ t.halfWrites.find? (fun e => e.1 == R.MOT_AX2_GSCHED_LO) = none ∧ t.resp = some ⟨reqCode r, true,
        []⟩ ∧ Keeps [.halfWrites, .resp, .axes] [.MOT_AX2_GSCHED_LO, .MOT_AX2_GSCHED_HI] s t)

/-- Which requests are dropped, repeated, refused for want of a session, or performed (R385, R386, R391, R392, R413,
R435, R436). Clauses beyond the rules are the model's choices of log entries 89, 90. -/
def Obligations.RequestsLetIn : Prop :=
  (∀ (c : Instr) (q : Request) (op : Nat) (s : State), (requestOf c = some (q, op) ∧ s.served = false) →
    Answers (c) s fun t => t.eth = { s.eth with sent := [] } ∧ Keeps [.eth] [] s t) ∧
  (∀ (c : Instr) (q : Request) (op : Nat) (s : State) (x : Session), (requestOf c = some (q, op) ∧ s.served = true ∧
      s.sessionOf q = some x) → (q.sseq.all (fun n => decide (n.toNat ≤ 2 ^ 48 ∧ freshSeq x n.toNat = false)) = true)
      →
    Answers (c) s fun t => t.eth = { s.eth with sent := [], tagFail := (s.eth.tagFail + 1) % 2 ^ 32 } ∧ Keeps [.eth]
        [] s t) ∧
  (∀ (c : Instr) (q : Request) (op : Nat) (s : State) (d : List Byte), (requestOf c = some (q, op) ∧ s.served = true
      ∧ (s.quiet.letIn q).1 = true ∧ (s.heard q).keptFor q = some d) →
    Answers (c) s fun t => t.eth = { s.eth with sent := [.datagram q.ip.toNat q.port.toNat d] } ∧ Keeps [.eth, .sec]
        [] s t) ∧
  (∀ (c : Instr) (q : Request) (op : Nat) (s : State), (requestOf c = some (q, op) ∧ c.wellFormed = true ∧ s.served =
      true ∧ (s.quiet.letIn q).1 = true ∧ (s.heard q).keptFor q = none) → (s.heard q).opServed q op = false →
    Answers (c) s fun t => t.eth.sent = [.datagram q.ip.toNat q.port.toNat (plainFrame op q.sid.toNat q.tid.toNat
        0x0B [])] ∧ Keeps [.eth, .sec] [] s t)

/-- What reading, writing, arming, saving and taking a snapshot of objects does and answers (R387, R388, R389, R390,
R391, R393, R399, R403, R404, R405, R408, R433). Clauses beyond the rules are the model's choices of log entries 82,
83. -/
def Obligations.ObjectAccess : Prop :=
  (∀ (q : Request) (index : BitVec 16) (sub : BitVec 8) (s : State), (s.accepts q 0x01 = true ∧ readStatus (s.level
      q) index.toNat sub.toNat ≠ 0) →
    Answers (.read q index sub) s fun t => s.replies t q 0x01 (readStatus (s.level q) index.toNat sub.toNat) [] ∧
        Keeps [.eth, .sec] [] s t) ∧
  (∀ (q : Request) (index : BitVec 16) (sub : BitVec 8) (s : State), (s.accepts q 0x01 = true ∧ readStatus (s.level
      q) index.toNat sub.toNat = 0 ∧ objField index.toNat sub.toNat = none) →
    Answers (.read q index sub) s fun t => s.replies t q 0x01 0 (itemBytes index.toNat sub.toNat (objType index.toNat
        sub.toNat) ((s.heard q).objValue index.toNat sub.toNat (fun _ => 0))) ∧ Keeps [.eth, .sec] [] s t) ∧
  (∀ (q : Request) (index : BitVec 16) (sub : BitVec 8) (s : State) (o : Config.FieldObject), (s.accepts q 0x01 =
      true ∧ readStatus (s.level q) index.toNat sub.toNat = 0 ∧ objField index.toNat sub.toNat = some o) →
    Answers (.read q index sub) s fun t => t.eth.sent = [.datagram q.ip.toNat q.port.toNat (s.response q 0x01 0
        (itemBytes index.toNat sub.toNat (objType index.toNat sub.toNat) ((s.heard q).objValue index.toNat sub.toNat
        ((s.heard q).kernelRead s.lastFired (fun a => if a = o.addr + 4 then (s.heard q).shown a else (s.heard
        q).readWord a)))))] ∧ Keeps [.highLatch, .resp, .freeCtr, .log, .granary, .miller, .pend, .weaver, .hcs,
        .pos, .cam, .eth, .subs, .lastEvents, .flash, .sec, .tones, .nozGain] [.any] s t) ∧
  (∀ (q : Request) (index : BitVec 16) (sub : BitVec 8) (offset : BitVec 32) (maxlen : BitVec 16) (s : State),
      (s.accepts q 0x03 = true ∧ (objInfo index.toNat sub.toNat).any (fun o => mayRead (s.level q) o && o.acc != 3 &&
      o.type == 13) = true) →
    Answers (.segRead q index sub offset maxlen) s fun t => s.replies t q 0x03 0 (leBytes 4 ((s.heard q).domainValue
        index.toNat sub.toNat).length ++ leBytes 4 offset.toNat ++ pad4 (slice ((s.heard q).domainValue index.toNat
        sub.toNat) offset.toNat (min maxlen.toNat 1024))) ∧ Keeps [.eth, .sec] [] s t) ∧
  (∀ (q : Request) (index : BitVec 16) (sub : BitVec 8) (offset : BitVec 32) (maxlen : BitVec 16) (s : State),
      (s.accepts q 0x03 = true ∧ (objInfo index.toNat sub.toNat).any (fun o => mayRead (s.level q) o && o.acc != 3 &&
      o.type == 13) = false) →
    Answers (.segRead q index sub offset maxlen) s fun t => s.replies t q 0x03 (((objInfo index.toNat sub.toNat).map
        (fun o => if mayRead (s.level q) o = false then 3 else if o.acc = 3 then 2 else 4)).getD 1) [] ∧ Keeps [.eth,
        .sec] [] s t) ∧
  (∀ (q : Request) (item : Item) (s : State), (s.accepts q 0x02 = true ∧ (s.heard q).writeStatus (s.level q)
      item.index.toNat item.sub.toNat item.type.toNat item.value ≠ 0) →
    Answers (.write q item) s fun t => s.replies t q 0x02 ((s.heard q).writeStatus (s.level q) item.index.toNat
        item.sub.toNat item.type.toNat item.value) [] ∧ Keeps [.eth, .sec] [] s t) ∧
  (∀ (q : Request) (item : Item) (s : State) (k : Nat), (s.accepts q 0x02 = true ∧ (s.heard q).writeStatus (s.level
      q) item.index.toNat item.sub.toNat item.type.toNat item.value = 0) → (k = objKey item.index.toNat
      item.sub.toNat ∧ k ∈ [0x110002, 0x110003, 0x110004, 0x120001, 0x120005, 0x130002, 0x150005, 0x250002, 0x250003,
      0x250004, 0x250005, 0x250006, 0x250007, 0x250008, 0x250009, 0x25000A]) → dictRange k (leNat item.value) = true →
    Answers (.write q item) s fun t => t.dictVal k = leNat item.value ∧ s.replies t q 0x02 0 [] ∧ Keeps [.eth, .sec]
        [] s t) ∧
  (∀ (q : Request) (n : Fin 256) (value : List Byte) (s : State), (s.accepts q 0x02 = true ∧ value.length = 4 ∧
      (s.page n).state ≠ 2 ∧ (s.page n).state ≠ 3) →
    Answers (.write q ⟨BitVec.ofNat 16 (0x6000 + n.val), 2, 4, value⟩) s fun t => (leNat value ≠ 0 → (t.page
        n).length = leNat value ∧ (t.page n).state = 1 ∧ (t.page n).lfirst = 0xFFFFFFFF ∧ s.replies t q 0x02 0 []) ∧
        (leNat value = 0 → t.page n = s.page n ∧ s.replies t q 0x02 5 []) ∧ Keeps [.eth, .sec, .pages] [] s t) ∧
  (∀ (q : Request) (value : List Byte) (s : State), (s.accepts q 0x02 = true ∧ value.length = 32 ∧ (2 ≤ s.level q ∨
      s.noOwner = true)) →
    Answers (.write q ⟨0x1410, 1, 12, value⟩) s fun t => t.flash.owner0 = (if value.all (· == 0) then [] else value)
        ∧ t.flash.owner1 = s.flash.owner1 ∧ s.replies t q 0x02 0 [] ∧ Keeps [.eth, .sec, .flash] [] s t) ∧
  (∀ (q : Request) (n : BitVec 8) (s : State) (l : List Byte), (s.accepts q 0x02 = true ∧ (s.page n.toNat).state = 1
      ∧ l = ((s.heard q).pageIndex (s.page n.toNat).addr).1) → (List.range 8).any (fun d => decide ((s.page
      n.toNat).size < (indexEntry l d).1 + (indexEntry l d).2)) = false →
    Answers (.pageArm q n) s fun t => (t.page n.toNat).state = 2 ∧ (t.page n.toNat).seq = s.br.seq ∧ t.br.seq =
        s.br.seq + 1 ∧ (s.running = false → (t.page n.toNat).lfirst = (s.page n.toNat).lfirst) ∧ t.eth.sent =
        [.datagram q.ip.toNat q.port.toNat (s.response q 0x02 0 [])] ∧ Keeps [.highLatch, .halfWrites, .resp,
        .freeCtr, .log, .link, .dma, .granary, .dramValid, .miller, .pend, .landed, .weaver, .hcs, .pos, .br, .cam,
        .cal, .axes, .mot, .eth, .pages, .subs, .lastEvents, .pwr, .flash, .sec, .mem] [.any] s t) ∧
  (∀ (q : Request) (n : BitVec 8) (s : State), (s.accepts q 0x02 = true ∧ (s.page n.toNat).state ≠ 1) →
    Answers (.pageArm q n) s fun t => s.replies t q 0x02 6 (busyBody (0x6000 + n.toNat) 0x0C) ∧ Keeps [.eth, .sec] []
        s t) ∧
  (∀ (q : Request) (n : BitVec 8) (s : State) (l : List Byte), (s.accepts q 0x02 = true ∧ (s.page n.toNat).state = 1
      ∧ l = ((s.heard q).pageIndex (s.page n.toNat).addr).1) → (List.range 8).any (fun d => decide ((s.page
      n.toNat).size < (indexEntry l d).1 + (indexEntry l d).2)) = true →
    Answers (.pageArm q n) s fun t => s.replies t q 0x02 5 [] ∧ Keeps [.eth, .sec] [] ((s.heard q).pageIndex (s.page
        n.toNat).addr).2 t ∧ Keeps [.highLatch, .halfWrites, .resp, .freeCtr, .log, .link, .dma, .granary,
        .dramValid, .miller, .pend, .landed, .weaver, .hcs, .pos, .br, .cam, .cal, .axes, .mot, .eth, .pages, .subs,
        .lastEvents, .pwr, .flash, .sec, .mem] [.any] s t) ∧
  (∀ (q : Request) (n : BitVec 8) (s : State), (s.accepts q 0x02 = true ∧ (s.page n.toNat).state = 2 ∧ (s.page
      n.toNat).lfirst = 0xFFFFFFFF) →
    Answers (.pageDisarm q n) s fun t => (t.page n.toNat).state = 1 ∧ t.eth.sent = [.datagram q.ip.toNat q.port.toNat
        (s.response q 0x02 0 [])] ∧ Keeps [.highLatch, .halfWrites, .resp, .freeCtr, .log, .link, .dma, .granary,
        .dramValid, .miller, .pend, .landed, .weaver, .hcs, .pos, .br, .cam, .cal, .axes, .mot, .eth, .pages, .subs,
        .lastEvents, .pwr, .flash, .sec, .mem] [.any] s t) ∧
  (∀ (q : Request) (n : BitVec 8) (s : State), (s.accepts q 0x02 = true ∧ ((s.page n.toNat).state ≠ 2 ∨ (s.page
      n.toNat).lfirst ≠ 0xFFFFFFFF)) →
    Answers (.pageDisarm q n) s fun t => s.replies t q 0x02 6 (busyBody (0x6000 + n.toNat) 0x0C) ∧ Keeps [.eth, .sec]
        [] s t) ∧
  (∀ (q : Request) (s : State), s.accepts q 0x02 = true →
    Answers (.settingsSave q) s fun t => t.flash.saved.head? = some (s.setFormat, s.eth.dict, (s.heard q).settings) ∧
        s.replies t q 0x02 0 [] ∧ Keeps [.eth, .sec, .flash] [] s t) ∧
  (∀ (q : Request) (objects : List (BitVec 16 × BitVec 8)) (s : State) (l : List Byte), (s.accepts q 0x20 = true ∧
      objects.all (fun e => snapStatus e.1.toNat e.2.toNat == 0) = true) → l = leBytes 4 (s.regN R.BR_SNAPLINE) ++
      objects.flatMap (fun e => itemBytes e.1.toNat e.2.toNat (objType e.1.toNat e.2.toNat) ((s.heard q).objValue
      e.1.toNat e.2.toNat ((s.heard q).kernelRead (if s.regN R.BR_SNAPLINE = 0xFFFFFFFF then s.lastFired else s.regN
      R.BR_SNAPLINE) ((s.heard q).snapWord (((objInfo e.1.toNat e.2.toNat).map (·.acc)).getD 0 == 2))))) →
    Answers (.snapshot q objects) s fun t => (objects.length ≤ 64 ∧ l.length ≤ 1400 → s.replies t q 0x20 0 l) ∧ (64 <
        objects.length ∨ 1400 < l.length → s.replies t q 0x20 5 []) ∧ Keeps [.eth, .sec] [] s t) ∧
  (∀ (q : Request) (objects : List (BitVec 16 × BitVec 8)) (s : State) (st : Nat), (s.accepts q 0x20 = true ∧
      (objects.map (fun e => snapStatus e.1.toNat e.2.toNat)).find? (· != 0) = some st) →
    Answers (.snapshot q objects) s fun t => s.replies t q 0x20 st [] ∧ Keeps [.eth, .sec] [] s t)

/-- Segmented transfers and commit groups: opening, staging, arming, landing, ending, and where they are refused
(R387, R393, R394, R395, R396, R397, R399, R442). Clauses beyond the rules are the model's choices of log entries 84,
85, 86, 90. -/
def Obligations.TransfersAndGroups : Prop :=
  (∀ (q : Request) (index : BitVec 16) (sub : BitVec 8) (handle : BitVec 8) (total crc : BitVec 32) (s : State) (st :
      Nat), s.accepts q 0x04 = true →
    Answers (.segWriteInit q index sub handle total crc) s fun t => ((s.heard q).initStatus (ownerOf q) (s.level q)
        index.toNat sub.toNat handle.toNat total.toNat = 0 → t.eth.xfers = s.eth.xfers ++ [⟨s.xferId, ownerOf q,
        index.toNat, sub.toNat, handle.toNat, total.toNat, crc.toNat, [], s.now⟩] ∧ s.replies t q 0x04 0 (leBytes 2
        s.xferId ++ [0, 0])) ∧ ((s.heard q).initStatus (ownerOf q) (s.level q) index.toNat sub.toNat handle.toNat
        total.toNat = st ∧ st ≠ 0 → t.eth.xfers = s.eth.xfers ∧ s.replies t q 0x04 st (writeBody index.toNat
        sub.toNat st)) ∧ Keeps [.eth, .sec] [] s t) ∧
  (∀ (q : Request) (xfer : BitVec 16) (offset : BitVec 32) (data : List Byte) (s : State) (x : Xfer), (s.accepts q
      0x05 = true ∧ s.eth.xfers.find? (fun x => x.id == xfer.toNat && x.owner == ownerOf q) = some x) → (offset.toNat
      = x.data.length ∧ isStaging x.index x.sub = false ∧ 4 ≤ data.length ∧ data.length ≤ 1024 ∧ x.data.length +
      data.length < x.total) →
    Answers (.segWrite q xfer offset data) s fun t => (t.eth.xfers.find? (fun x => x.id == xfer.toNat && x.owner ==
        ownerOf q)).map (·.data) = some (x.data ++ data) ∧ s.replies t q 0x05 0 (leBytes 2 xfer.toNat ++ [0, 0] ++
        leBytes 4 (x.data.length + data.length)) ∧ Keeps [.eth, .sec] [] s t) ∧
  (∀ (q : Request) (xfer : BitVec 16) (offset : BitVec 32) (data : List Byte) (s : State) (x : Xfer), (s.accepts q
      0x05 = true ∧ s.eth.xfers.find? (fun x => x.id == xfer.toNat && x.owner == ownerOf q) = some x) → (offset.toNat
      = x.data.length ∧ isStaging x.index x.sub = false ∧ 4 ≤ data.length ∧ data.length ≤ 1024) → (x.data.length <
      x.total ∧ data.length = (x.total - x.data.length + 3) / 4 * 4 ∧ crc32c (x.data ++ data.take (x.total -
      x.data.length)) ≠ x.crc) →
    Answers (.segWrite q xfer offset data) s fun t => t.eth.xfers = s.eth.xfers.filter (fun y => y.id != x.id) ∧
        s.replies t q 0x05 0x0A (leBytes 2 xfer.toNat ++ [0, 0] ++ leBytes 4 x.total) ∧ Keeps [.eth, .sec] [] s t) ∧
  (∀ (q : Request) (xfer : BitVec 16) (offset : BitVec 32) (data : List Byte) (s : State) (x : Xfer), (s.accepts q
      0x05 = true ∧ s.eth.xfers.find? (fun x => x.id == xfer.toNat && x.owner == ownerOf q) = some x) → offset.toNat
      ≠ x.data.length →
    Answers (.segWrite q xfer offset data) s fun t => s.replies t q 0x05 0x0A (leBytes 2 xfer.toNat ++ [0, 0] ++
        leBytes 4 x.data.length) ∧ Keeps [.eth, .sec] [] s t) ∧
  (∀ (q : Request) (xfer : BitVec 16) (offset : BitVec 32) (data : List Byte) (s : State), (s.accepts q 0x05 = true ∧
      s.eth.xfers.find? (fun x => x.id == xfer.toNat && x.owner == ownerOf q) = none) →
    Answers (.segWrite q xfer offset data) s fun t => s.replies t q 0x05 0x0A (leBytes 2 xfer.toNat ++ [0, 0] ++
        leBytes 4 0) ∧ Keeps [.eth, .sec] [] s t) ∧
  (∀ (q : Request) (xfer : BitVec 16) (data : List Byte) (s : State) (x : Xfer), (s.accepts q 0x05 = true ∧
      s.eth.xfers.find? (fun x => x.id == xfer.toNat && x.owner == ownerOf q) = some x) → (isStaging x.index x.sub =
      true ∧ x.data = [] ∧ 4 ≤ data.length ∧ data.length ≤ 1024 ∧ data.length ≤ x.total) → (s.heard q).firstOk x data
      = false →
    Answers (.segWrite q xfer 0 data) s fun t => t.eth.xfers = s.eth.xfers.filter (fun y => y.id != x.id) ∧
        t.flash.stage = s.flash.stage ∧ t.newest = some (0x0F, 5, 0, 1) ∧ s.replies t q 0x05 7 (leBytes 2 xfer.toNat
        ++ [0, 0] ++ leBytes 4 0) ∧ Keeps [.freeCtr, .eth, .sec, .log, .subs, .lastEvents] [.FAULT_EVT,
        .FAULT_LOG_WR, .FAULT_LOG_LOST] s t) ∧
  (∀ (q : Request) (xfer : BitVec 16) (s : State), (s.accepts q 0x06 = true ∧ s.eth.xfers.any (fun x => x.id ==
      xfer.toNat && x.owner == ownerOf q) = true) →
    Answers (.segAbort q xfer) s fun t => t.eth.xfers = s.eth.xfers.filter (fun x => x.id != xfer.toNat) ∧ s.replies
        t q 0x06 0 [] ∧ Keeps [.eth, .sec, .flash] [.SEC_STAT, .SEC_EVT] s t) ∧
  (∀ (q : Request) (xfer : BitVec 16) (s : State), (s.accepts q 0x06 = true ∧ s.eth.xfers.any (fun x => x.id ==
      xfer.toNat && x.owner == ownerOf q) = false) →
    Answers (.segAbort q xfer) s fun t => s.replies t q 0x06 0x0A [] ∧ Keeps [.eth, .sec] [] s t) ∧
  (∀ (i : Nat) (s : State), s.eth.xfers.any (fun x => x.id == i && decide (x.at_ + ms 1000 ≤ s.now)) = true →
    Answers (.segTransferTimeout i) s fun t => t.eth.xfers = s.eth.xfers.filter (fun x => x.id != i) ∧ Keeps [.eth,
        .flash] [.SEC_STAT, .SEC_EVT] s t) ∧
  (∀ (i : Nat) (s : State), s.eth.xfers.any (fun x => x.id == i && decide (x.at_ + ms 1000 ≤ s.now)) = false →
    Answers (.segTransferTimeout i) s fun t => Keeps [] [] s t) ∧
  (∀ (q : Request) (s : State) (k : Nat), (s.accepts q 0x10 = true ∧ [1, 2, 3, 4, 5, 6, 7, 8].find? (fun k =>
      (s.group k).isNone) = some k) →
    Answers (.groupOpen q) s fun t => t.group k = some (Group.new (ownerOf q)) ∧ s.replies t q 0x10 0 (leBytes 1 k ++
        [0, 0, 0]) ∧ Keeps [.freeCtr, .eth, .sec, .subs, .lastEvents] [] s t) ∧
  (∀ (q : Request) (s : State), (s.accepts q 0x10 = true ∧ [1, 2, 3, 4, 5, 6, 7, 8].all (fun k => (s.group k).isSome)
      = true) →
    Answers (.groupOpen q) s fun t => s.replies t q 0x10 0x0C [] ∧ Keeps [.eth, .sec] [] s t) ∧
  (∀ (q : Request) (handle : BitVec 8) (item : Item) (s : State) (g : Group) (i : Staged), (s.accepts q 0x11 = true ∧
      s.ownGroup (ownerOf q) handle.toNat = some g ∧ g.state = 1) → (s.heard q).stageStatus (s.level q)
      item.index.toNat item.sub.toNat item.type.toNat item.value = 0 → i = ⟨item.index.toNat, item.sub.toNat, none,
      item.value⟩ →
    Answers (.groupStage q handle item) s fun t => (g.items.any (sameObject i) = true → (t.group handle.toNat).map
        (·.items) = some (g.items.map (fun j => if sameObject i j then i else j)) ∧ s.replies t q 0x11 0 []) ∧
        (g.items.any (sameObject i) = false ∧ g.items.length < 256 → (t.group handle.toNat).map (·.items) = some
        (g.items ++ [i]) ∧ s.replies t q 0x11 0 []) ∧ (g.items.any (sameObject i) = false ∧ 256 ≤ g.items.length →
        t.group handle.toNat = s.group handle.toNat ∧ s.replies t q 0x11 8 []) ∧ Keeps [.eth, .sec] [] s t) ∧
  (∀ (q : Request) (handle : BitVec 8) (item : Item) (s : State) (g : Group), (s.accepts q 0x11 = true ∧ s.ownGroup
      (ownerOf q) handle.toNat = some g ∧ g.state = 1) → (s.heard q).stageStatus (s.level q) item.index.toNat
      item.sub.toNat item.type.toNat item.value ≠ 0 →
    Answers (.groupStage q handle item) s fun t => s.replies t q 0x11 ((s.heard q).stageStatus (s.level q)
        item.index.toNat item.sub.toNat item.type.toNat item.value) [] ∧ Keeps [.eth, .sec] [] s t) ∧
  (∀ (q : Request) (handle : BitVec 8) (item : Item) (s : State), (s.accepts q 0x11 = true ∧ (s.ownGroup (ownerOf q)
      handle.toNat).any (fun g => g.state == 1) = false) →
    Answers (.groupStage q handle item) s fun t => s.replies t q 0x11 8 [] ∧ Keeps [.eth, .sec] [] s t) ∧
  (∀ (q : Request) (handle : BitVec 8) (value : BitVec 64) (s : State) (g : Group) (l : Nat), (s.accepts q 0x12 =
      true ∧ s.ownGroup (ownerOf q) handle.toNat = some g ∧ g.state = 1) → (l = value.toNat % 2 ^ 32 ∧ l ≠ 0xFFFFFFFF
      ∧ ((s.heard q).checkGroup g.items (some l)).1 = 0) →
    Answers (.groupArm q handle 0 value) s fun t => (t.group handle.toNat).map (fun g => (g.state, g.line, g.shown,
        g.failStatus)) = some (2, l, if s.running then l else 0xFFFFFFFF, 0) ∧ t.eth.sent = [.datagram q.ip.toNat
        q.port.toNat (s.response q 0x12 0 (t.groupBody handle.toNat))] ∧ Keeps [.freeCtr, .log, .pend, .weaver, .hcs,
        .eth, .subs, .lastEvents, .flash, .sec, .tones, .masks, .slots, .nozRet, .nozGain, .thresholds] [.any] s t) ∧
  (∀ (q : Request) (handle : BitVec 8) (value : BitVec 64) (s : State) (g : Group) (l : Nat), (s.accepts q 0x12 =
      true ∧ s.ownGroup (ownerOf q) handle.toNat = some g ∧ g.state = 1) → (l = value.toNat % 2 ^ 32 ∧ l ≠ 0xFFFFFFFF
      ∧ s.running = true ∧ lineLe l s.prepBegun = true) →
    Answers (.groupArm q handle 0 value) s fun t => (t.group handle.toNat).map (fun g => (g.state, g.items,
        g.failStatus)) = some (1, g.items, 9) ∧ s.replies t q 0x12 9 (t.groupBody handle.toNat) ∧ Keeps [.eth, .sec]
        [] s t) ∧
  (∀ (q : Request) (handle kind : BitVec 8) (value : BitVec 64) (s : State), (s.accepts q 0x12 = true ∧ s.ownGroup
      (ownerOf q) handle.toNat = none) →
    Answers (.groupArm q handle kind value) s fun t => s.replies t q 0x12 8 [] ∧ Keeps [.eth, .sec] [] s t) ∧
  (∀ (q : Request) (handle : BitVec 8) (s : State) (g : Group), (s.accepts q 0x13 = true ∧ s.ownGroup (ownerOf q)
      handle.toNat = some g) → (g.state ≠ 3 ∧ (g.state ≠ 2 ∨ g.wait ≠ none ∨ s.running = false ∨ lineLe g.line
      s.prepBegun = false)) →
    Answers (.groupDiscard q handle) s fun t => t.group handle.toNat = none ∧ s.replies t q 0x13 0 [] ∧ Keeps
        [.freeCtr, .pend, .weaver, .hcs, .eth, .subs, .lastEvents, .flash, .sec, .tones, .nozGain] [.WEAVER_KERNEL,
        .WEAVER_MASKLINE, .HC_STAT, .HC_COMBLINE, .BR_FMAX, .BR_HLIMIT, .SEC_STAT, .SEC_EVT] s t) ∧
  (∀ (q : Request) (handle : BitVec 8) (s : State) (g : Group), (s.accepts q 0x13 = true ∧ s.ownGroup (ownerOf q)
      handle.toNat = some g) → (g.state = 3 ∨ (g.state = 2 ∧ g.wait = none ∧ s.running = true ∧ lineLe g.line
      s.prepBegun = true)) →
    Answers (.groupDiscard q handle) s fun t => s.replies t q 0x13 9 [] ∧ Keeps [.eth, .sec] [] s t) ∧
  (∀ (q : Request) (handle : BitVec 8) (s : State), s.accepts q 0x14 = true →
    Answers (.groupStatus q handle) s fun t => s.replies t q 0x14 (if (s.ownGroup (ownerOf q) handle.toNat).isSome
        then 0 else 8) (if (s.ownGroup (ownerOf q) handle.toNat).isSome then s.groupBody handle.toNat else []) ∧
        Keeps [.eth, .sec] [] s t) ∧
  (∀ (k : Nat) (s : State) (g : Group), (s.group k = some g ∧ g.state = 2 ∧ g.wait = none) →
    Answers (.groupLanding k) s fun t => t.group k = (if s.anyFired g.line then some { g with state := 3 } else some
        g) ∧ Keeps [.freeCtr, .eth, .subs, .lastEvents] [] s t) ∧
  (∀ (k : Nat) (s : State) (g : Group), (s.group k = some g ∧ g.state = 3 ∧ g.line ≠ 0xFFFFFFFF ∧ s.running = true ∧
      s.allFired g.line = true) →
    Answers (.groupApplied k) s fun t => (k ≤ 8 → t.group k = some { g with state := 4, items := [], at_ := s.now })
        ∧ (8 < k → t.group k = none) ∧ t.eth.lastApplied = g.line ∧ Keeps [.freeCtr, .pend, .weaver, .hcs, .eth,
        .subs, .lastEvents, .tones, .nozGain] [.WEAVER_KERNEL, .WEAVER_MASKLINE, .HC_STAT, .HC_COMBLINE] s t) ∧
  (∀ (k : Nat) (s : State) (g : Group), (s.group k = some g ∧ g.state = 4 ∧ g.at_ + ms 10000 ≤ s.now) →
    Answers (.groupExpiry k) s fun t => t.group k = none ∧ Keeps [.freeCtr, .pend, .weaver, .hcs, .eth, .subs,
        .lastEvents, .tones, .nozGain] [.WEAVER_KERNEL, .WEAVER_MASKLINE, .HC_STAT, .HC_COMBLINE] s t) ∧
  (∀ (k : Nat) (s : State), (s.group k).all (fun g => g.state != 4 || decide (s.now < g.at_ + ms 10000)) = true →
    Answers (.groupExpiry k) s fun t => Keeps [] [] s t)

/-- Subscribers: made, ended and acknowledged; event frames, their resending, and the timeout (R387, R400, R401).
Clauses beyond the rules are the model's choices of log entries 10, 90. -/
def Obligations.Subscriptions : Prop :=
  (∀ (q : Request) (classes : BitVec 32) (port : BitVec 16) (s : State) (i : Nat), (s.accepts q 0x30 = true ∧
      (List.range 8).find? (fun i => (s.sub i).isNone) = some i) →
    Answers (.subscribe q classes port) s fun t => t.sub i = some
        { ip := q.ip.toNat, port := q.port.toNat, sid := q.sid.toNat, classes := classes.toNat, evPort := port.toNat, queue := [], nextSeq := 0, lost := 0, lastAck := s.now, lastSend := s.now, unsent := 0 } ∧ s.replies t q 0x30 0 (leBytes 1 i ++ [0, 0, 0]) ∧ Keeps [.eth, .sec, .subs] [] s t) ∧
  (∀ (q : Request) (classes : BitVec 32) (port : BitVec 16) (s : State), (s.accepts q 0x30 = true ∧ (List.range
      8).all (fun i => (s.sub i).isSome) = true) →
    Answers (.subscribe q classes port) s fun t => s.replies t q 0x30 0x0C [] ∧ Keeps [.eth, .sec] [] s t) ∧
  (∀ (q : Request) (i : BitVec 8) (s : State), s.accepts q 0x31 = true →
    Answers (.unsubscribe q i) s fun t => s.replies t q 0x31 (if (s.sub i.toNat).isSome then 0 else 5) [] ∧ t.sub
        i.toNat = none ∧ Keeps [.eth, .sec, .subs] [] s t) ∧
  (∀ (q : Request) (i : BitVec 8) (eseq : BitVec 32) (s : State) (b : Subscriber), (s.accepts q 0x33 = true ∧ s.sub
      i.toNat = some b) →
    Answers (.eventAck q i eseq) s fun t => (t.sub i.toNat).map (fun b => (b.queue, b.lastAck)) = some
        (b.queue.filter (fun r => !lineLe r.eseq eseq.toNat), s.now) ∧ s.replies t q 0x33 0 [] ∧ Keeps [.eth, .sec,
        .subs] [] s t) ∧
  (∀ (q : Request) (i : BitVec 8) (eseq : BitVec 32) (s : State), (s.accepts q 0x33 = true ∧ s.sub i.toNat = none) →
    Answers (.eventAck q i eseq) s fun t => s.replies t q 0x33 5 [] ∧ Keeps [.eth, .sec] [] s t) ∧
  (∀ (i : Fin 8) (s : State) (b : Subscriber) (l : List EventRec), (s.sub i = some b ∧ b.unsent ≠ 0 ∧ s.served = true
      ∧ b.sid = 0) → l = (b.queue.drop (b.queue.length - b.unsent)).take 32 →
    Answers (.eventFrameSend i) s fun t => t.eth.sent = [.datagram b.ip b.evPort (plainFrame 0x32 0 0 0 (leBytes 1
        i.val ++ leBytes 1 l.length ++ leBytes 2 b.lost ++ l.flatMap recordBytes))] ∧ t.sub i = some
        { b with lost := 0, lastSend := s.now, unsent := b.unsent - l.length } ∧ Keeps [.eth, .subs] [] s t) ∧
  (∀ (i : Fin 8) (s : State) (b : Subscriber) (x : Session) (l : List EventRec), (s.sub i = some b ∧ b.unsent ≠ 0 ∧
      s.served = true ∧ b.sid ≠ 0) → (s.sec.sessions.find? (fun x => x.sid == b.sid) = some x ∧ x.sent < 2 ^ 48) → l
      = (b.queue.drop (b.queue.length - b.unsent)).take 32 →
    Answers (.eventFrameSend i) s fun t => t.eth.sent = [.datagram b.ip b.evPort (sealedFrame x 0x32 0 0 (leBytes 1
        i.val ++ leBytes 1 l.length ++ leBytes 2 b.lost ++ l.flatMap recordBytes))] ∧ (t.sec.sessions.find? (fun x =>
        x.sid == b.sid)).map (·.sent) = some (x.sent + 1) ∧ Keeps [.eth, .sec, .subs] [] s t) ∧
  (∀ (i : Fin 8) (s : State), ((s.sub i).all (fun b => b.unsent == 0) = true ∨ s.served = false) →
    Answers (.eventFrameSend i) s fun t => t.eth = { s.eth with sent := [] } ∧ Keeps [.eth] [] s t) ∧
  (∀ (i : Fin 8) (s : State) (b : Subscriber), (s.sub i = some b ∧ b.queue ≠ [] ∧ b.lastSend + ms 10 ≤ s.now ∧
      s.served = true ∧ b.sid = 0) →
    Answers (.eventResendTimer i) s fun t => t.eth.sent = .datagram b.ip b.evPort (plainFrame 0x32 0 0 0 (leBytes 1
        i.val ++ leBytes 1 (b.queue.take 32).length ++ leBytes 2 b.lost ++ (b.queue.take 32).flatMap recordBytes)) ::
        (if 32 < b.queue.length then [.datagram b.ip b.evPort (plainFrame 0x32 0 0 0 (leBytes 1 i.val ++ leBytes 1
        (b.queue.drop 32).length ++ [0, 0] ++ (b.queue.drop 32).flatMap recordBytes))] else []) ∧ t.sub i = some
        { b with lost := 0, lastSend := s.now, unsent := 0 } ∧ Keeps [.eth, .subs] [] s t) ∧
  (∀ (i : Fin 8) (s : State), ((s.sub i).all (fun b => b.queue.isEmpty || decide (s.now < b.lastSend + ms 10)) = true
      ∨ s.served = false) →
    Answers (.eventResendTimer i) s fun t => t.eth = { s.eth with sent := [] } ∧ Keeps [.eth] [] s t) ∧
  (∀ (i : Fin 8) (s : State) (b : Subscriber), (s.sub i = some b ∧ b.queue ≠ [] ∧ b.lastAck + ms 1000 ≤ s.now) →
    Answers (.subscriberTimeout i) s fun t => t.sub i = none ∧ t.newest = some (0x0B, 5, 0, Config.logCause 0x0B 2 %
        256) ∧ Keeps [.log, .subs, .lastEvents] [.FAULT_EVT, .FAULT_LOG_WR, .FAULT_LOG_LOST] s t) ∧
  (∀ (i : Fin 8) (s : State), (s.sub i).all (fun b => b.queue.isEmpty || decide (s.now < b.lastAck + ms 1000)) = true
      →
    Answers (.subscriberTimeout i) s fun t => Keeps [] [] s t)

/-- The handshake of a session, its end and timeouts, attestation, and what the Ethernet ports forward and answer
(R378, R380, R381, R382, R392, R433, R434, R437). Clauses beyond the rules are the model's choices of log entries 89,
91. -/
def Obligations.SessionsAndNetwork : Prop :=
  (∀ (q : Request) (level : Byte) (cnonce ceph : List Byte) (s : State), (s.accepts q 0x40 = true ∧ cnonce.length =
      32 ∧ ceph.length = 64) → s.sessionOf q = none → (s.keysServed = false ∨ (level.toNat = 2 ∨ level.toNat = 3) ∧ 4
      ≤ s.sec.sessions.length) →
    Answers (.hello q level cnonce ceph) s fun t => s.replies t q 0x40 (if s.keysServed then 0x0C else 0x0B) [] ∧
        t.newest = some (0x0F, 5, 0, 7) ∧ t.bit R.SEC_EVT F.SEC_EVT_SESSREF = true ∧ t.sec.sessions = s.sec.sessions
        ∧ Keeps [.freeCtr, .log, .pend, .weaver, .hcs, .eth, .subs, .lastEvents, .flash, .sec, .tones, .nozGain]
        [.WEAVER_KERNEL, .WEAVER_MASKLINE, .HC_STAT, .HC_COMBLINE, .FAULT_EVT, .FAULT_LOG_WR, .FAULT_LOG_LOST,
        .SEC_STAT, .SEC_EVT] s t) ∧
  (∀ (q : Request) (level : Byte) (cnonce ceph : List Byte) (s : State), (s.accepts q 0x40 = true ∧ cnonce.length =
      32 ∧ ceph.length = 64 ∧ s.keysServed = true) → (level.toNat ≠ 2 ∧ level.toNat ≠ 3) →
    Answers (.hello q level cnonce ceph) s fun t => s.replies t q 0x40 5 [] ∧ Keeps [.eth, .sec] [] s t) ∧
  (∀ (q : Request) (level : Byte) (cnonce ceph : List Byte) (s : State), (s.accepts q 0x40 = true ∧ cnonce.length =
      32 ∧ ceph.length = 64 ∧ s.keysServed = true) → ((level.toNat = 2 ∨ level.toNat = 3) ∧ s.sec.sessions.length < 4
      ∧ s.sessionOf q = none) →
    Answers (.hello q level cnonce ceph) s fun t => t.sec.sessions.dropLast = s.sec.sessions ∧
        t.sec.sessions.getLast?.map (fun x => (x.sid, x.ip, x.port, x.asked, x.level, x.born)) = some (s.sec.nextSid,
        q.ip.toNat, q.port.toNat, level.toNat, 0, s.now) ∧ t.eth.sent.length = 1 ∧ Keeps [.freeCtr, .eth, .sec,
        .subs, .lastEvents] [] s t) ∧
  (∀ (q : Request) (anchor cert csig : List Byte) (s : State) (x : Session) (l : Nat), (s.accepts q 0x41 = true ∧
      anchor.length = 64 ∧ csig.length = 64) → (s.heard q).sessionOf q = some x →
    Answers (.clientAuth q anchor cert csig) s fun t => ((s.heard q).authLevel x anchor cert csig = some l →
        t.levelOf q = l ∧ s.replies t q 0x41 0 (leBytes 1 l ++ [0, 0, 0])) ∧ ((s.heard q).authLevel x anchor cert
        csig = none → t.sessionOf q = none ∧ t.eth.sent = [.datagram q.ip.toNat q.port.toNat (plainFrame 0x41
        q.sid.toNat q.tid.toNat 3 [])] ∧ t.newest = some (0x0F, 5, 0, 7)) ∧ Keeps [.freeCtr, .log, .pend, .weaver,
        .hcs, .eth, .subs, .lastEvents, .flash, .sec, .tones, .nozGain] [.WEAVER_KERNEL, .WEAVER_MASKLINE, .HC_STAT,
        .HC_COMBLINE, .FAULT_EVT, .FAULT_LOG_WR, .FAULT_LOG_LOST, .SEC_STAT, .SEC_EVT] s t) ∧
  (∀ (q : Request) (s : State) (x : Session), (s.accepts q 0x42 = true ∧ s.sessionOf q = some x) →
    Answers (.close q) s fun t => t.sessionOf q = none ∧ t.eth.xfers.any (fun y => y.owner.sid == q.sid.toNat) =
        false ∧ s.replies t q 0x42 0 [] ∧ Keeps [.freeCtr, .pend, .weaver, .hcs, .eth, .subs, .lastEvents, .flash,
        .sec, .tones, .nozGain] [.WEAVER_KERNEL, .WEAVER_MASKLINE, .HC_STAT, .HC_COMBLINE, .SEC_STAT, .SEC_EVT] s t) ∧
  (∀ (q : Request) (nonce : List Byte) (s : State), (s.accepts q 0x43 = true ∧ nonce.length = 32 ∧ s.keysServed =
      true) →
    Answers (.attest q nonce) s fun t => (opAttest nonce 0 (s.heard q)).body.take 32 = nonce ∧ s.replies t q 0x43 0
        (opAttest nonce 0 (s.heard q)).body ∧ Keeps [.freeCtr, .eth, .sec] [] s t) ∧
  (∀ (q : Request) (nonce : List Byte) (s : State), (s.accepts q 0x43 = true ∧ nonce.length = 32 ∧ s.keysServed =
      false) →
    Answers (.attest q nonce) s fun t => s.replies t q 0x43 7 [] ∧ Keeps [.eth, .sec] [] s t) ∧
  (∀ (i : Nat) (s : State) (x : Session), s.sec.sessions.find? (fun x => x.sid == i) = some x →
    Answers (.authTimeout i) s fun t => (x.level = 0 ∧ x.born + ms 5000 ≤ s.now → t.sec.sessions =
        s.sec.sessions.filter (fun x => x.sid != i)) ∧ (x.level ≠ 0 ∨ s.now < x.born + ms 5000 → t = s) ∧ Keeps
        [.freeCtr, .pend, .weaver, .hcs, .eth, .subs, .lastEvents, .flash, .sec, .tones, .nozGain] [.WEAVER_KERNEL,
        .WEAVER_MASKLINE, .HC_STAT, .HC_COMBLINE, .SEC_STAT, .SEC_EVT] s t) ∧
  (∀ (i : Nat) (s : State) (x : Session), s.sec.sessions.find? (fun x => x.sid == i) = some x →
    Answers (.sessionIdleTimeout i) s fun t => (x.lastFrame + ms (1000 * s.dictVal 0x130002) ≤ s.now → t.sec.sessions
        = s.sec.sessions.filter (fun x => x.sid != i)) ∧ (s.now < x.lastFrame + ms (1000 * s.dictVal 0x130002) → t =
        s) ∧ Keeps [.freeCtr, .pend, .weaver, .hcs, .eth, .subs, .lastEvents, .flash, .sec, .tones, .nozGain]
        [.WEAVER_KERNEL, .WEAVER_MASKLINE, .HC_STAT, .HC_COMBLINE, .SEC_STAT, .SEC_EVT] s t) ∧
  (∀ (p : Fin 2) (speed : Fin 4) (s : State),
    Answers (.ethernetPhyLinkChange p speed) s fun t => (if p.val = 0 then t.eth.link0 else t.eth.link1) = speed.val
        ∧ (if p.val = 0 then t.eth.link1 else t.eth.link0) = (if p.val = 0 then s.eth.link1 else s.eth.link0) ∧ Keeps
        [.eth] [] s t) ∧
  (∀ (p : Fin 2) (f : EthFrame) (s : State), (s.served = false ∨ s.ethUp p = false ∨ 1522 < f.len) →
    Answers (.ethernetFrame p f) s fun t => t.eth = { s.eth with sent := [] } ∧ Keeps [.eth] [] s t) ∧
  (∀ (p : Fin 2) (f : EthFrame) (s : State), (s.served = true ∧ s.ethUp p = true ∧ f.len ≤ 1522 ∧ f.content = .other
      ∧ s.ethUp (1 - p.val) = true) → s.eth.table.find? (fun e => e.1 == f.dst.toNat && decide (s.now < e.2.2 + ms
      300000)) = none →
    Answers (.ethernetFrame p f) s fun t => (f.dst ≠ Config.mac → t.eth.sent = [.forward (1 - p.val) f]) ∧
        t.eth.table.head? = some (f.src.toNat, p.val, s.now) ∧ Keeps [.eth] [] s t) ∧
  (∀ (p : Fin 2) (src : BitVec 48) (n : Nat) (a : BitVec 32) (s : State), (s.served = true ∧ s.ethUp p = true ∧ n ≤
      1522 ∧ s.eth.ip < 2 ^ 32) →
    Answers (.ethernetFrame p ⟨Config.mac, src, n, .arpRequest a (BitVec.ofNat 32 s.eth.ip)⟩) s fun t => t.eth.sent =
        [.arpReply p.val a.toNat] ∧ Keeps [.eth] [] s t) ∧
  (∀ (p : Fin 2) (src : BitVec 48) (n : Nat) (a : BitVec 32) (l : List Byte) (s : State), (s.served = true ∧ s.ethUp
      p = true ∧ n ≤ 1522 ∧ s.eth.ip < 2 ^ 32) →
    Answers (.ethernetFrame p ⟨Config.mac, src, n, .ipv4 a (BitVec.ofNat 32 s.eth.ip) false (.echoRequest l)⟩) s fun
        t => t.eth.sent = [.echoReply p.val a.toNat l] ∧ Keeps [.eth] [] s t) ∧
  (∀ (p : Fin 2) (src : BitVec 48) (n : Nat) (a : BitVec 32) (sp : BitVec 16) (l : List Byte) (s : State), (s.served
      = true ∧ s.ethUp p = true ∧ n ≤ 1522 ∧ s.eth.ip < 2 ^ 32) →
    Answers (.ethernetFrame p ⟨Config.mac, src, n, .ipv4 a (BitVec.ofNat 32 s.eth.ip) false (.udp sp 49960 l)⟩) s fun
        t => t = (s.quiet.learn src.toNat p).loquetu a (sp.setWidth 32) l ∧ (frameOk l = false → t.eth.sent = []) ∧
        Keeps [.highLatch, .halfWrites, .resp, .freeCtr, .log, .link, .dma, .granary, .dramValid, .miller, .pend,
        .landed, .weaver, .hcs, .pos, .br, .cam, .cal, .axes, .mot, .eth, .pages, .subs, .lastEvents, .pwr, .flash,
        .sec, .mem] [.any] s t) ∧
  (∀ (p : Fin 2) (m : PtpMsg) (residence : Nat) (err : Int) (s : State), (s.served = false ∨ s.ethUp p = false) →
    Answers (.ptpEventMessage p m residence err) s fun t => t.eth = { s.eth with sent := [] } ∧ Keeps [.eth] [] s t) ∧
  (∀ (p : Fin 2) (m : PtpMsg) (residence : Nat) (err : Int) (s : State), (s.served = true ∧ s.ethUp p = true ∧
      s.ethUp (1 - p.val) = true ∧ m.domain ≠ s.dictVal 0x120001) →
    Answers (.ptpEventMessage p m residence err) s fun t => t.eth =
        { s.eth with sent := [.ptp (1 - p.val) (correctPtp m residence)] } ∧ Keeps [.eth] [] s t) ∧
  (∀ (p : Fin 2) (d i : Nat) (o : Nat) (c : Int) (residence : Nat) (err : Int) (s : State), (s.served = true ∧
      s.ethUp p = true ∧ s.ethUp (1 - p.val) = true ∧ d = s.dictVal 0x120001 ∧ s.ptpSlave = true) →
    Answers (.ptpEventMessage p ⟨d, i, .sync false o c⟩ residence err) s fun t => t.eth.syncDelay = some ((s.ptp :
        Int) + clampInt (-8) 8 err - o - c) ∧ t.eth.reqAt = some s.ptp ∧ t.eth.sent = [.ptp (1 - p.val) ⟨d, i, .sync
        false o (c + residence)⟩, .delayReq p.val] ∧ Keeps [.eth] [] s t) ∧
  (∀ (p : Fin 2) (d i : Nat) (residence : Nat) (err : Int) (s : State), (s.served = true ∧ s.ethUp p = true ∧ d =
      s.dictVal 0x120001 ∧ s.ptpSlave = false) →
    Answers (.ptpEventMessage p ⟨d, i, .announce true⟩ residence err) s fun t => t.eth.ptpState = 8 ∧ Keeps [.eth] []
        s t)

/-- Requests for Standby, Ready and Dormant, wakes, and what Watchman holds, takes and loses (R409, R410, R412, R414,
R415, R418, R428, R431, R461). Clauses beyond the rules are the model's choices of log entries 70, 71. -/
def Obligations.PowerStates : Prop :=
  (∀ (r : Requester) (v : Word) (s : State), (getField F.CLKPWR_CTRL_SWRST v = 0 ∧ s.power ≠ 1 ∧ s.noStandby = true) →
    Answers (.standbyRequest r v) s fun t => t.power = s.power ∧ t.bit R.CLKPWR_EVT F.CLKPWR_EVT_REQREF = true ∧
        t.resp = some ⟨reqCode r, true, []⟩ ∧ Keeps [.resp] [.CLKPWR_CTRL, .CLKPWR_EVT] s t) ∧
  (∀ (r : Requester) (v : Word) (s : State), (getField F.CLKPWR_CTRL_SWRST v = 0 ∧ s.power = 2 ∧ s.noStandby = false
      ∧ s.pwr.dormantDue = false) →
    Answers (.standbyRequest r v) s fun t => (s.bit R.GRANARY_CTRL F.GRANARY_CTRL_EN = false → t.power = 1 ∧ ∀ h :
        Fin 24, s.bit (R.HC_CTRL h) F.HC_CTRL_EN = true → t.bit (R.HC_CTRL h) F.HC_CTRL_EN = false ∧ t.hcState h = 0
        ∧ t.pwr.hcRec.testBit h = true) ∧ (s.bit R.GRANARY_CTRL F.GRANARY_CTRL_EN = true ∧ s.bit R.GRANARY_SR
        F.GRANARY_SR_IN_SR = false → t.power = 5) ∧ Keeps [.highLatch, .halfWrites, .resp, .freeCtr, .log, .link,
        .dma, .granary, .dramValid, .miller, .pend, .landed, .weaver, .hcs, .pos, .br, .cam, .cal, .axes, .mot, .eth,
        .pages, .subs, .lastEvents, .pwr, .flash, .sec, .mem] [.any] s t) ∧
  (∀ (r : Requester) (v : Word) (s : State), (getField F.CLKPWR_CTRL_SWRST v = 0 ∧ (s.power ≠ 1 ∨ s.fld
      R.CLKPWR_BOOTSTAT F.CLKPWR_BOOTSTAT_FAULT ≠ 0)) →
    Answers (.readyRequest r v) s fun t => t.resp = some ⟨reqCode r, true, []⟩ ∧ Keeps [.resp] [.CLKPWR_CTRL] s t) ∧
  (∀ (r : Requester) (v : Word) (s : State), (getField F.CLKPWR_CTRL_SWRST v = 0 ∧ s.power = 1 ∧ s.fld
      R.CLKPWR_BOOTSTAT F.CLKPWR_BOOTSTAT_FAULT = 0) →
    Answers (.readyRequest r v) s fun t => (s.bit R.GRANARY_SR F.GRANARY_SR_IN_SR = false → t.power = 2 ∧ t.pwr.hcRec
        = 0 ∧ ∀ h : Fin 24, s.pwr.hcRec.testBit h = true → t.bit (R.HC_CTRL h) F.HC_CTRL_EN = true) ∧ (s.bit
        R.GRANARY_SR F.GRANARY_SR_IN_SR = true → t.power = 6 ∧ t.pwr.hcRec = s.pwr.hcRec) ∧ Keeps [.highLatch,
        .halfWrites, .resp, .freeCtr, .log, .link, .dma, .granary, .dramValid, .miller, .pend, .landed, .weaver,
        .hcs, .pos, .br, .cam, .cal, .axes, .mot, .eth, .pages, .subs, .lastEvents, .pwr, .flash, .sec, .mem] [.any]
        s t) ∧
  (∀ (r : Requester) (v : Word) (s : State), (getField F.CLKPWR_CTRL_SWRST v = 0 ∧ s.power ≠ 0 ∧ s.noStandby = true) →
    Answers (.powerDormantRequest r v) s fun t => t.power = s.power ∧ t.bit R.CLKPWR_EVT F.CLKPWR_EVT_REQREF = true ∧
        t.resp = some ⟨reqCode r, true, []⟩ ∧ Keeps [.resp] [.CLKPWR_CTRL, .CLKPWR_EVT] s t) ∧
  (∀ (r : Requester) (v : Word) (s : State), (getField F.CLKPWR_CTRL_SWRST v = 0 ∧ s.power = 1 ∧ s.noStandby = false)
      →
    Answers (.powerDormantRequest r v) s fun t => t.power = 0 ∧ t.pwr.pwrEn = false ∧ t.pwr.offAt = some s.now ∧
        t.pwr.wakeDue = false ∧ t.flash = s.flash ∧ Keeps [.highLatch, .halfWrites, .resp, .freeCtr, .log, .link,
        .dma, .granary, .dramValid, .miller, .pend, .landed, .weaver, .hcs, .pos, .br, .cam, .cal, .axes, .mot, .eth,
        .pages, .subs, .lastEvents, .pwr, .flash, .sec, .mem] [.any] s t) ∧
  (∀ (k : Fin 4) (rising : Bool) (s : State), ((s.fld R.CLKPWR_WAKECFG F.CLKPWR_WAKECFG_WEN).testBit k = true ∧
      (s.fld R.CLKPWR_WAKECFG F.CLKPWR_WAKECFG_WPOL).testBit k = !rising ∧ s.pwr.vbat = true) →
    Answers (.wakeInput k rising) s fun t => (s.power = 0 ∧ s.pwr.offAt.all (fun u => decide (u + ms 10 ≤ s.now)) =
        true → t.power = 4 ∧ t.pwr.pwrEn = true ∧ t.pwr.cause = 5 ∧ t.reg R.CLKPWR_WAKESRC = BitVec.ofNat 32 (2 ^
        k.val)) ∧ (s.power = 0 ∧ s.pwr.offAt.any (fun u => decide (s.now < u + ms 10)) = true → t.power = 0 ∧
        t.pwr.wakeDue = true ∧ t.pwr.pwrEn = s.pwr.pwrEn) ∧ (s.power ≠ 0 ∧ (s.power ≠ 5 ∨ s.pwr.dormantDue = false) →
        t.power = s.power ∧ t.bit R.CLKPWR_EVT F.CLKPWR_EVT_WAKE = true) ∧ Keeps [.highLatch, .halfWrites, .resp,
        .log, .link, .dma, .granary, .dramValid, .miller, .pend, .landed, .weaver, .hcs, .pos, .br, .cam, .cal,
        .axes, .mot, .eth, .pages, .subs, .lastEvents, .pwr, .flash, .sec, .mem] [.any] s t) ∧
  (∀ (k : Fin 4) (rising : Bool) (s : State), ((s.fld R.CLKPWR_WAKECFG F.CLKPWR_WAKECFG_WEN).testBit k = false ∨
      (s.fld R.CLKPWR_WAKECFG F.CLKPWR_WAKECFG_WPOL).testBit k = rising ∨ s.pwr.vbat = false) →
    Answers (.wakeInput k rising) s fun t => Keeps [] [] s t) ∧
  (∀ (s : State), (s.bit R.CLKPWR_WAKECFG F.CLKPWR_WAKECFG_ALRMEN = true ∧ s.wide R.CLKPWR_ALARM_LO ≤ s.rtc ∧
      s.pwr.vbat = true) →
    Answers (.rtcAlarm) s fun t => (s.power = 0 ∧ s.pwr.offAt.all (fun u => decide (u + ms 10 ≤ s.now)) = true →
        t.power = 4 ∧ t.pwr.pwrEn = true ∧ t.pwr.cause = 5 ∧ t.reg R.CLKPWR_WAKESRC = 16) ∧ (s.power = 0 ∧
        s.pwr.offAt.any (fun u => decide (s.now < u + ms 10)) = true → t.power = 0 ∧ t.pwr.wakeDue = true ∧
        t.pwr.pwrEn = s.pwr.pwrEn) ∧ (s.power ≠ 0 ∧ (s.power ≠ 5 ∨ s.pwr.dormantDue = false) → t.power = s.power ∧
        t.bit R.CLKPWR_EVT F.CLKPWR_EVT_WAKE = true) ∧ Keeps [.highLatch, .halfWrites, .resp, .log, .link, .dma,
        .granary, .dramValid, .miller, .pend, .landed, .weaver, .hcs, .pos, .br, .cam, .cal, .axes, .mot, .eth,
        .pages, .subs, .lastEvents, .pwr, .flash, .sec, .mem] [.any] s t) ∧
  (∀ (s : State), (s.bit R.CLKPWR_WAKECFG F.CLKPWR_WAKECFG_ALRMEN = false ∨ s.rtc < s.wide R.CLKPWR_ALARM_LO ∨
      s.pwr.vbat = false) →
    Answers (.rtcAlarm) s fun t => Keeps [] [] s t) ∧
  (∀ (s : State) (a v : Nat) (l : List (Nat × Nat)), s.pwr.wpend = (a, v) :: l →
    Answers (.watchmanWriteLand) s fun t => t.pwr.wpend = l ∧ t.bit R.CLKPWR_STAT F.CLKPWR_STAT_WBUSY = !l.isEmpty ∧
        (a = R.CLKPWR_RTC_LO → t.pwr.rtcBase = v % 2 ^ 64 ∧ t.pwr.rtcAt = s.now) ∧ (a = R.CLKPWR_RETw 0 ∨ a =
        R.CLKPWR_RETw 1 ∨ a = R.CLKPWR_WAKECFG → t.reg a = BitVec.ofNat 32 v) ∧ Keeps [.pwr] [.any] s t) ∧
  (∀ (s : State), s.pwr.wpend = [] →
    Answers (.watchmanWriteLand) s fun t => Keeps [] [] s t) ∧
  (∀ (s : State), (s.inReset = false ∧ s.power ≠ 4 ∧ s.ptpSync = true ∧ s.pwr.vbat = true) → s.pwr.rtcSync.all (fun u
      => decide (u + ms 60000 ≤ s.now)) = true →
    Answers (.rtcSync) s fun t => t.pwr.wpend = s.pwr.wpend ++ [(R.CLKPWR_RTC_LO, s.ptp * 64 / 1953125)] ∧ t.bit
        R.CLKPWR_STAT F.CLKPWR_STAT_WBUSY = true ∧ t.pwr.rtcSync = some s.now ∧ Keeps [.pwr] [.CLKPWR_STAT] s t) ∧
  (∀ (s : State), (s.inReset = true ∨ s.power = 4 ∨ s.ptpSync = false ∨ s.pwr.vbat = false ∨ s.pwr.rtcSync.any (fun u
      => decide (s.now < u + ms 60000)) = true) →
    Answers (.rtcSync) s fun t => Keeps [] [] s t) ∧
  (∀ (s : State),
    Answers (.vbatLoss) s fun t => t.pwr.vbat = false ∧ t.pwr.vlost = true ∧ t.pwr.wpend = [] ∧ t.rtc = 0 ∧
        t.sec.sessions = [] ∧ t.reg (R.CLKPWR_RETw 0) = 0 ∧ t.reg (R.CLKPWR_RETw 1) = 0 ∧ t.reg R.CLKPWR_WAKECFG = 0
        ∧ t.reg R.CLKPWR_WAKESRC = 0 ∧ Keeps [.halfWrites, .pwr, .sec] [.watchman, .CLKPWR_STAT] s t) ∧
  (∀ (s : State), s.pwr.vbat = false →
    Answers (.vbatReturn) s fun t => t.pwr.vbat = true ∧ t.pwr.pwrEn = true ∧ (s.power = 0 → t.power = 4 ∧
        t.pwr.cause = 5) ∧ (s.power ≠ 0 → t.power = s.power) ∧ Keeps [.highLatch, .halfWrites, .resp, .log, .link,
        .dma, .granary, .dramValid, .miller, .pend, .landed, .weaver, .hcs, .pos, .br, .cam, .cal, .axes, .mot, .eth,
        .pages, .subs, .lastEvents, .pwr, .flash, .sec, .mem] [.any] s t) ∧
  (∀ (s : State), s.pwr.vbat = true →
    Answers (.vbatReturn) s fun t => Keeps [] [] s t)

/-- PORn and RSTn, the software warm reset, and the end of the start-up timeline (R382, R412, R426, R427, R428,
R429). Clauses beyond the rules are the model's choices of log entries 72, 73, 75, 120. -/
def Obligations.ResetsAndStart : Prop :=
  (∀ (s : State),
    Answers (.porn false) s fun t => t.pwr.porn = false ∧ t.log = [] ∧ t.mem = [] ∧ t.flash = s.flash ∧ t.now = s.now
        ∧ (∀ a, (a < R.CLKPWR_WAKECFG ∨ R.CLKPWR_WAKECFG + 64 ≤ a) → a ≠ R.CLKPWR_STAT → t.reg a = resetWord a) ∧ (∀
        a, (R.CLKPWR_WAKECFG ≤ a ∧ a < R.CLKPWR_WAKECFG + 64) → t.reg a = s.reg a) ∧ Keeps [.highLatch, .halfWrites,
        .resp, .log, .link, .dma, .granary, .dramValid, .miller, .pend, .landed, .weaver, .hcs, .pos, .br, .cam,
        .cal, .axes, .mot, .eth, .pages, .subs, .lastEvents, .pwr, .flash, .sec, .mem] [.any] s t) ∧
  (∀ (s : State), s.pwr.porn = false →
    Answers (.porn true) s fun t => t.pwr.porn = true ∧ t.power = s.power ∧ (s.pwr.rstn = true → t.sec.trialEnd =
        none ∧ t.fld R.SEC_SECVER F.SEC_SECVER_FUSED = s.flash.secver % 2 ^ F.SEC_SECVER_FUSED.width) ∧ (s.pwr.rstn =
        false → t.regs = s.regs) ∧ Keeps [.highLatch, .halfWrites, .resp, .log, .link, .dma, .granary, .dramValid,
        .miller, .pend, .landed, .weaver, .hcs, .pos, .br, .cam, .cal, .axes, .mot, .eth, .pages, .subs, .lastEvents,
        .pwr, .flash, .sec, .mem] [.any] s t) ∧
  (∀ (s : State), (s.pwr.porn = true ∧ (s.power ≠ 4 ∨ s.pwr.cause ≠ 1)) →
    Answers (.porn true) s fun t => Keeps [] [] s t) ∧
  (∀ (s : State),
    Answers (.rstn false) s fun t => t.pwr.rstn = false ∧ t.flash = s.flash ∧ (s.pwr.porn = true → t.log = s.log ∧
        t.reg R.FAULT_LOG_WR = s.reg R.FAULT_LOG_WR ∧ t.reg R.GRANARY_CTRL = s.reg R.GRANARY_CTRL ∧ t.pwr.cause = 3)
        ∧ (s.pwr.porn = false → t.regs = s.regs ∧ t.log = s.log) ∧ (s.pwr.porn = true → ∀ a, dramBase ≤ a → t.byte a
        = s.byte a) ∧ (s.pwr.porn = true → ∀ a, a < dramBase → t.byte a = 0) ∧ Keeps [.highLatch, .halfWrites, .resp,
        .log, .link, .dma, .granary, .dramValid, .miller, .pend, .landed, .weaver, .hcs, .pos, .br, .cam, .cal,
        .axes, .mot, .eth, .pages, .subs, .lastEvents, .pwr, .flash, .sec, .mem] [.any] s t) ∧
  (∀ (s : State), s.pwr.rstn = false →
    Answers (.rstn true) s fun t => t.pwr.rstn = true ∧ t.power = s.power ∧ (s.pwr.porn = true → t.sec.trialEnd =
        none ∧ t.fld R.SEC_SECVER F.SEC_SECVER_FUSED = s.flash.secver % 2 ^ F.SEC_SECVER_FUSED.width) ∧ (s.pwr.porn =
        false → t.regs = s.regs) ∧ Keeps [.highLatch, .halfWrites, .resp, .log, .link, .dma, .granary, .dramValid,
        .miller, .pend, .landed, .weaver, .hcs, .pos, .br, .cam, .cal, .axes, .mot, .eth, .pages, .subs, .lastEvents,
        .pwr, .flash, .sec, .mem] [.any] s t) ∧
  (∀ (s : State), s.pwr.rstn = true →
    Answers (.rstn true) s fun t => Keeps [] [] s t) ∧
  (∀ (r : Requester) (v : Word) (s : State), s.inReset = false →
    Answers (.softwareWarmReset r v) s fun t => t.power = 4 ∧ t.pwr.cause = 4 ∧ t.reg R.FAULT_LOG_RD = s.reg
        R.FAULT_LOG_RD ∧ t.bit R.BR_CTRL F.BR_CTRL_RUN = false ∧ (∀ a, dramBase ≤ a → t.byte a = s.byte a) ∧ (∀ a, a
        < dramBase → t.byte a = 0) ∧ Keeps [.highLatch, .halfWrites, .resp, .freeCtr, .log, .link, .dma, .granary,
        .dramValid, .miller, .pend, .landed, .weaver, .hcs, .pos, .br, .cam, .cal, .axes, .mot, .eth, .pages, .subs,
        .lastEvents, .pwr, .flash, .sec, .mem] [.any] s t) ∧
  (∀ (r : Requester) (v : Word) (s : State), s.inReset = true →
    Answers (.softwareWarmReset r v) s fun t => t.resp = some ⟨reqCode r, true, []⟩ ∧ Keeps [.resp] [.CLKPWR_CTRL] s
        t) ∧
  (∀ (fault : Fin 5) (s : State), (s.starting = true ∧ s.startCause fault.val = 0) →
    Answers (.startUpComplete fault) s fun t => t.power = 2 ∧ Keeps [.highLatch, .halfWrites, .resp, .freeCtr, .log,
        .link, .dma, .granary, .dramValid, .miller, .pend, .landed, .weaver, .hcs, .pos, .br, .cam, .cal, .axes,
        .mot, .eth, .pages, .subs, .lastEvents, .pwr, .flash, .sec, .mem] [.any] s t) ∧
  (∀ (s : State) (fault : Fin 5) (f : Nat), (s.starting = true ∧ s.startCause fault.val = f ∧ f ≠ 0 ∧ f ≠ 3) →
    Answers (.startUpComplete fault) s fun t => t.power = 1 ∧ t.fld R.CLKPWR_BOOTSTAT F.CLKPWR_BOOTSTAT_FAULT = f ∧
        t.bit R.CLKPWR_EVT F.CLKPWR_EVT_STARTFAULT = true ∧ t.newest = some (0x0E, 1, 0, 0x10 + f) ∧ Keeps
        [.highLatch, .halfWrites, .resp, .freeCtr, .log, .link, .dma, .granary, .dramValid, .miller, .pend, .landed,
        .weaver, .hcs, .pos, .br, .cam, .cal, .axes, .mot, .eth, .pages, .subs, .lastEvents, .pwr, .flash, .sec,
        .mem] [.any] s t) ∧
  (∀ (s : State), s.starting = true →
    Answers (.startUpComplete 3) s fun t => t.power = 4 ∧ t.fld R.CLKPWR_BOOTSTAT F.CLKPWR_BOOTSTAT_FAULT = 3 ∧ Keeps
        [] [.CLKPWR_BOOTSTAT] s t) ∧
  (∀ (s : State) (fault : Fin 5), s.starting = false →
    Answers (.startUpComplete fault) s fun t => Keeps [] [] s t)

/-- Lost and found PLL locks, the supply sag with its fallback and recovery, and undervoltage (R26, R133, R305, R415,
R421, R422, R423, R424, R425, R429). Clauses beyond the rules are the model's choices of log entries 74, 131. -/
def Obligations.SupplyAndClocks : Prop :=
  (∀ (p : Fin 4) (s : State), ((s.power ≠ 2 ∧ s.power ≠ 3 ∧ p.val ≠ 3) ∨ s.power = 0) →
    Answers (.pllLockLoss p) s fun t => t.bit R.CLKPWR_STAT (lockField p) = false ∧ Keeps [] [.CLKPWR_STAT] s t) ∧
  (∀ (s : State), s.power ≠ 0 →
    Answers (.pllLockLoss 3) s fun t => t.bit R.CLKPWR_STAT (lockField 3) = false ∧ t.newest = some (0x0E, 5, 0, 5) ∧
        Keeps [.log, .subs, .lastEvents] [.CLKPWR_STAT, .FAULT_EVT, .FAULT_LOG_WR, .FAULT_LOG_LOST] s t) ∧
  (∀ (p : Fin 4) (s : State), ((s.power = 2 ∨ s.power = 3) ∧ p.val ≠ 3) →
    Answers (.pllLockLoss p) s fun t => t.bit R.CLKPWR_STAT (lockField p) = false ∧ t.bit R.CLKPWR_EVT
        F.CLKPWR_EVT_PLLLOSS = true ∧ t.bit R.FAULT_STAT F.FAULT_STAT_SAFE = true ∧ (s.bit R.FAULT_STAT
        F.FAULT_STAT_SAFE = false → t.fld R.FAULT_STAT F.FAULT_STAT_SSCAUSE = 4) ∧ Keeps [.freeCtr, .log, .link,
        .dma, .pend, .landed, .weaver, .hcs, .cal, .axes, .eth, .pages, .subs, .lastEvents, .tones, .nozGain]
        [.LINK_STAT, .LINK_LANEn_STAT, .DMA_HALT_EVT, .DMA_CHn_STAT, .WEAVER_KERNEL, .WEAVER_MASKLINE, .HC_STAT,
        .HC_EVT, .HC_COMBLINE, .HC_SCAN_PTR, .BR_CTRL, .BR_STAT, .BR_EVT, .BR_FMAX, .BR_SNAPLINE, .FAULT_STAT,
        .FAULT_EVT, .FAULT_LOG_WR, .FAULT_LOG_LOST, .CAL_HCh_NOW, .CAL_HCh_STAT, .CLKPWR_STAT, .CLKPWR_EVT] s t) ∧
  (∀ (p : Fin 4) (s : State), (p.val ≠ 1 ∧ s.power ≠ 0 ∧ s.pwr.porn = true) →
    Answers (.pllRelock p) s fun t => t.bit R.CLKPWR_STAT (lockField p) = true ∧ Keeps [] [.CLKPWR_STAT] s t) ∧
  (∀ (p : Fin 4) (s : State), (s.power = 0 ∨ s.pwr.porn = false ∨ (p.val = 1 ∧ s.bit R.GRANARY_SR F.GRANARY_SR_IN_SR
      = true)) →
    Answers (.pllRelock p) s fun t => Keeps [] [] s t) ∧
  (∀ (s : State), (s.bit R.GRANARY_SR F.GRANARY_SR_IN_SR = false ∧ s.power ≠ 0 ∧ s.pwr.porn = true) →
    Answers (.pllRelock 1) s fun t => t.bit R.CLKPWR_STAT (lockField 1) = true ∧ (s.power = 6 → t.power = 2 ∧
        t.pwr.hcRec = 0) ∧ Keeps [.freeCtr, .log, .link, .dma, .granary, .landed, .hcs, .cal, .pages, .subs,
        .lastEvents, .pwr, .masks, .slots, .nozRet] [.LINK_STAT, .LINK_LANEn_STAT, .DMA_HALT_EVT, .DMA_CHn_CTRL,
        .DMA_CHn_STAT, .GRANARY_STAT, .GRANARY_EVT, .HC_CTRL, .HC_STAT, .BR_STAT, .BR_EVT, .BR_FMAX, .BR_SNAPLINE,
        .BR_HLIMIT, .FAULT_STAT, .FAULT_EVT, .FAULT_LOG_WR, .FAULT_LOG_LOST, .CAL_HCh_NOW, .CAL_HCh_STAT,
        .CLKPWR_STAT, .CLKPWR_EVT] s t) ∧
  (∀ (s : State),
    Answers (.droopStretch) s fun t => t.pwr.lowSince = some (s.pwr.lowSince.getD s.now) ∧ t.pwr.highSince = none ∧
        t.bit R.CLKPWR_STAT F.CLKPWR_STAT_STRETCH = !s.bit R.CLKPWR_STAT F.CLKPWR_STAT_CORE600 ∧ Keeps [.pwr]
        [.CLKPWR_STAT] s t) ∧
  (∀ (s : State),
    Answers (.droopCleared) s fun t => t.pwr.lowSince = none ∧ t.pwr.highSince = some s.now ∧ t.pwr.uv = false ∧
        t.bit R.CLKPWR_STAT F.CLKPWR_STAT_STRETCH = false ∧ Keeps [.pwr] [.CLKPWR_STAT] s t) ∧
  (∀ (s : State) (u : Nat), (s.pwr.lowSince = some u ∧ u + us (s.fld R.CLKPWR_SAGTIME F.CLKPWR_SAGTIME_FBDELAY) ≤
      s.now ∧ s.bit R.CLKPWR_STAT F.CLKPWR_STAT_CORE600 = false) →
    Answers (.sagFallback) s fun t => t.bit R.CLKPWR_STAT F.CLKPWR_STAT_CORE600 = true ∧ t.bit R.CLKPWR_STAT
        F.CLKPWR_STAT_STRETCH = false ∧ t.bit R.CLKPWR_EVT F.CLKPWR_EVT_SAG = true ∧ t.fld R.CLKPWR_SAGCNT
        F.CLKPWR_SAGCNT_COUNT = min (s.fld R.CLKPWR_SAGCNT F.CLKPWR_SAGCNT_COUNT + 1) (2 ^
        F.CLKPWR_SAGCNT_COUNT.width - 1) ∧ t.newest = some (0x0E, 5, 0, 1) ∧ Keeps [.log, .subs, .lastEvents]
        [.FAULT_EVT, .FAULT_LOG_WR, .FAULT_LOG_LOST, .CLKPWR_STAT, .CLKPWR_EVT, .CLKPWR_SAGCNT] s t) ∧
  (∀ (s : State), (s.pwr.lowSince.all (fun u => decide (s.now < u + us (s.fld R.CLKPWR_SAGTIME
      F.CLKPWR_SAGTIME_FBDELAY))) = true ∨ s.bit R.CLKPWR_STAT F.CLKPWR_STAT_CORE600 = true) →
    Answers (.sagFallback) s fun t => Keeps [] [] s t) ∧
  (∀ (s : State) (u : Nat), (s.pwr.highSince = some u ∧ u + us (s.fld R.CLKPWR_SAGTIME F.CLKPWR_SAGTIME_RECOVER) ≤
      s.now ∧ s.bit R.CLKPWR_STAT F.CLKPWR_STAT_CORE600 = true) →
    Answers (.sagRecover) s fun t => t.bit R.CLKPWR_STAT F.CLKPWR_STAT_CORE600 = false ∧ t.bit R.CLKPWR_EVT
        F.CLKPWR_EVT_SAGEND = true ∧ t.newest = some (0x0E, 5, 0, 2) ∧ Keeps [.log, .subs, .lastEvents] [.FAULT_EVT,
        .FAULT_LOG_WR, .FAULT_LOG_LOST, .CLKPWR_STAT, .CLKPWR_EVT] s t) ∧
  (∀ (s : State), (s.pwr.highSince.all (fun u => decide (s.now < u + us (s.fld R.CLKPWR_SAGTIME
      F.CLKPWR_SAGTIME_RECOVER))) = true ∨ s.bit R.CLKPWR_STAT F.CLKPWR_STAT_CORE600 = false) →
    Answers (.sagRecover) s fun t => Keeps [] [] s t) ∧
  (∀ (s : State),
    Answers (.undervoltage) s fun t => t.pwr.uv = true ∧ t.bit R.CLKPWR_EVT F.CLKPWR_EVT_UV = true ∧ t.bit
        R.FAULT_STAT F.FAULT_STAT_SAFE = true ∧ (s.bit R.FAULT_STAT F.FAULT_STAT_SAFE = false → t.fld R.FAULT_STAT
        F.FAULT_STAT_SSCAUSE = 4) ∧ Keeps [.freeCtr, .log, .link, .dma, .pend, .landed, .weaver, .hcs, .cal, .axes,
        .eth, .pages, .subs, .lastEvents, .pwr, .tones, .nozGain] [.LINK_STAT, .LINK_LANEn_STAT, .DMA_HALT_EVT,
        .DMA_CHn_STAT, .WEAVER_KERNEL, .WEAVER_MASKLINE, .HC_STAT, .HC_EVT, .HC_COMBLINE, .HC_SCAN_PTR, .BR_CTRL,
        .BR_STAT, .BR_EVT, .BR_FMAX, .BR_SNAPLINE, .FAULT_STAT, .FAULT_EVT, .FAULT_LOG_WR, .FAULT_LOG_LOST,
        .CAL_HCh_NOW, .CAL_HCh_STAT, .CLKPWR_STAT, .CLKPWR_EVT] s t)

/-- Signing by CC0, revoking a key slot, and confirming a trial (R431, R438, R441, R447, R449, R452, R455). Clauses
beyond the rules are the model's choices of log entry 78. -/
def Obligations.SignatureRevocationConfirmation : Prop :=
  (∀ (r : Requester) (v : Word) (s : State), r ≠ .core 0 →
    Answers (.sign r v) s fun t => t.resp = some ⟨reqCode r, false, []⟩ ∧ t.newest = some (0x0C, 5, reqCode r, 2) ∧
        Keeps [.resp, .log, .subs, .lastEvents] [.FAULT_EVT, .FAULT_LOG_WR, .FAULT_LOG_LOST] s t) ∧
  (∀ (v : Word) (s : State), (getField F.SEC_SIGN_CTRL_GO v = 1 ∧ s.sec.signing = none) →
    Answers (.sign (.core 0) v) s fun t => t.resp = some ⟨reqCode (.core 0), true, []⟩ ∧ (s.pwr.vbat = true →
        t.sec.signing = some s.digest ∧ t.bit R.SEC_SIGN_CTRL F.SEC_SIGN_CTRL_BUSY = true ∧ t.bit R.SEC_SIGN_CTRL
        F.SEC_SIGN_CTRL_ERR = false) ∧ (s.pwr.vbat = false → t.sec = s.sec ∧ t.bit R.SEC_SIGN_CTRL
        F.SEC_SIGN_CTRL_ERR = true) ∧ Keeps [.resp, .sec] [.SEC_SIGN_CTRL] s t) ∧
  (∀ (v : Word) (s : State), (getField F.SEC_SIGN_CTRL_GO v = 0 ∨ s.sec.signing ≠ none) →
    Answers (.sign (.core 0) v) s fun t => t.resp = some ⟨reqCode (.core 0), true, []⟩ ∧ Keeps [.resp] [] s t) ∧
  (∀ (s : State) (d : List Byte), s.sec.signing = some d →
    Answers (.signComplete) s fun t => t.sec.signing = none ∧ t.bit R.SEC_SIGN_CTRL F.SEC_SIGN_CTRL_BUSY = false ∧
        (s.pwr.vbat = true → ∀ w : Fin 16, t.reg (R.SEC_SIGw w) = BitVec.ofNat 32 (leNat (slice (padSig
        (Config.unitSign d s.freeCtr)) (4 * w.val) 4).reverse)) ∧ (s.pwr.vbat = false → t.bit R.SEC_SIGN_CTRL
        F.SEC_SIGN_CTRL_ERR = true ∧ t.freeCtr = s.freeCtr) ∧ Keeps [.freeCtr, .sec] [.SEC_SIGN_CTRL, .SEC_SIGw] s t)
        ∧
  (∀ (s : State), s.sec.signing = none →
    Answers (.signComplete) s fun t => Keeps [] [] s t) ∧
  (∀ (q : Request) (k : Byte) (s : State), (s.accepts q 0x02 = true ∧ s.level q < 3) →
    Answers (.revoke q k) s fun t => s.replies t q 0x02 3 [] ∧ Keeps [.eth, .sec] [] s t) ∧
  (∀ (q : Request) (k : Byte) (s : State), (s.accepts q 0x02 = true ∧ 3 ≤ s.level q ∧ k.toNat ≤ 2 ∧ s.act ≠ 3 ∧ s.act
      ≠ 4) →
    Answers (.revoke q k) s fun t => ((s.slotSigns k.toNat = true ∧ [0, 1, 2].all (fun j => j == k.toNat ||
        !s.slotSigns j) = true) ∨ (s.flash.active ≠ [] ∧ hdrKeySlot s.flash.active = k.toNat) ∨ (s.flash.previous ≠
        [] ∧ hdrKeySlot s.flash.previous = k.toNat) → s.replies t q 0x02 7 [] ∧ t.flash = s.flash) ∧ ((s.slotSigns
        k.toNat = false ∨ [0, 1, 2].any (fun j => j != k.toNat && s.slotSigns j) = true) ∧ (s.flash.active = [] ∨
        hdrKeySlot s.flash.active ≠ k.toNat) ∧ (s.flash.previous = [] ∨ hdrKeySlot s.flash.previous ≠ k.toNat) →
        s.replies t q 0x02 0 [] ∧ t.flash.revoked = s.flash.revoked ||| 2 ^ k.toNat ∧ t.newest = some (0x0F, 5, 0, 8)
        ∧ (t.regN R.SEC_KEYSLOT).testBit (4 * k.toNat + 3) = true) ∧ Keeps [.freeCtr, .log, .eth, .subs, .lastEvents,
        .flash, .sec] [.FAULT_EVT, .FAULT_LOG_WR, .FAULT_LOG_LOST, .SEC_KEYSLOT] s t) ∧
  (∀ (q : Request) (k : Byte) (s : State), (s.accepts q 0x02 = true ∧ 3 ≤ s.level q ∧ (2 < k.toNat ∨ s.act = 3 ∨
      s.act = 4)) →
    Answers (.revoke q k) s fun t => s.replies t q 0x02 (if 2 < k.toNat then 5 else 6) (if 2 < k.toNat then [] else
        busyBody 0x1430 1) ∧ Keeps [.eth, .sec] [] s t) ∧
  (∀ (r : Requester) (v : Word) (s : State), r ≠ .core 0 →
    Answers (.confirm r v) s fun t => t.resp = some ⟨reqCode r, false, []⟩ ∧ t.newest = some (0x0C, 5, reqCode r, 2)
        ∧ Keeps [.resp, .log, .subs, .lastEvents] [.FAULT_EVT, .FAULT_LOG_WR, .FAULT_LOG_LOST] s t) ∧
  (∀ (v : Word) (s : State), (v ≠ 0x434F4E46 ∨ s.sec.trialEnd = none ∨ s.power = 4 ∨ s.fld R.CLKPWR_BOOTSTAT
      F.CLKPWR_BOOTSTAT_FAULT ≠ 0) →
    Answers (.confirm (.core 0) v) s fun t => t.resp = some ⟨reqCode (.core 0), true, []⟩ ∧ Keeps [.resp] [] s t) ∧
  (∀ (s : State) (u : Nat), (s.sec.trialEnd = some u ∧ s.power ≠ 4 ∧ s.fld R.CLKPWR_BOOTSTAT F.CLKPWR_BOOTSTAT_FAULT
      = 0) →
    Answers (.confirm (.core 0) 0x434F4E46) s fun t => t.sec.trialEnd = none ∧ t.act = 5 ∧ t.flash.jStep = 0 ∧ t.fld
        R.SEC_STAT F.SEC_STAT_BOOTSTATE = 0 ∧ t.bit R.SEC_EVT F.SEC_EVT_CONFIRMED = true ∧ t.flash.secver = (if
        hdrAdvSec s.flash.active then max s.flash.secver (hdrSecver s.flash.active) else s.flash.secver) ∧
        t.pwr.wpend = s.pwr.wpend ++ [(R.CLKPWR_RETw 0, 0)] ∧ t.newest = some (0x0F, 5, 0, 9) ∧ t.resp = some
        ⟨reqCode (.core 0), true, []⟩ ∧ Keeps [.resp, .freeCtr, .log, .subs, .lastEvents, .pwr, .flash, .sec]
        [.FAULT_EVT, .FAULT_LOG_WR, .FAULT_LOG_LOST, .CLKPWR_STAT, .SEC_STAT, .SEC_EVT, .SEC_SECVER, .SEC_JOURNAL] s
        t)

/-- Scheduling an update, its activation time, the copy block by block, the end of a trial, and a requested fallback
(R426, R443, R444, R445, R446, R447, R448, R449, R450). Clauses beyond the rules are the model's choices of log entry
77. -/
def Obligations.FirmwareUpdate : Prop :=
  (∀ (q : Request) (v : BitVec 64) (s : State), (s.accepts q 0x02 = true ∧ s.level q < 2) →
    Answers (.activate q v) s fun t => s.replies t q 0x02 3 [] ∧ Keeps [.eth, .sec] [] s t) ∧
  (∀ (q : Request) (v : BitVec 64) (s : State), (s.accepts q 0x02 = true ∧ 2 ≤ s.level q ∧ v.toNat ≠
      0xFFFFFFFFFFFFFFFF) → (s.flash.stage ≠ 2 ∨ (v.toNat ≠ 0 ∧ (s.ptpSync = false ∨ v.toNat < s.ptp + 1000000000))) →
    Answers (.activate q v) s fun t => s.replies t q 0x02 (if s.flash.stage ≠ 2 then 6 else if s.ptpSync = false then
        7 else 5) (if s.flash.stage ≠ 2 then busyBody 0x1500 3 else []) ∧ Keeps [.eth, .sec] [] s t) ∧
  (∀ (q : Request) (v : BitVec 64) (s : State), (s.accepts q 0x02 = true ∧ 2 ≤ s.level q ∧ v.toNat ≠
      0xFFFFFFFFFFFFFFFF) → (s.flash.stage = 2 ∧ (v.toNat = 0 ∨ (s.ptpSync = true ∧ s.ptp + 1000000000 ≤ v.toNat))) →
    Answers (.activate q v) s fun t => t.act = 1 ∧ t.flash.jStep = 1 ∧ t.flash.activate = v.toNat ∧ t.fld R.SEC_STAT
        F.SEC_STAT_BOOTSTATE = 1 ∧ t.pwr.wpend = s.pwr.wpend ++ [(R.CLKPWR_RETw 0, 1 + 65536 * s.dictVal 0x150005)] ∧
        s.replies t q 0x02 0 [] ∧ Keeps [.eth, .sec, .flash, .pwr] [.SEC_STAT, .SEC_JOURNAL, .CLKPWR_STAT] s t) ∧
  (∀ (q : Request) (s : State), (s.accepts q 0x02 = true ∧ 2 ≤ s.level q) →
    Answers (.activate q 0xFFFFFFFFFFFFFFFF) s fun t => t.act = (if s.act = 1 then 0 else s.act) ∧ s.replies t q 0x02
        0 [] ∧ (s.act = 1 → t.flash.jStep = 0 ∧ t.flash.activate = 0xFFFFFFFFFFFFFFFF) ∧ Keeps [.eth, .sec, .flash,
        .pwr] [.SEC_STAT, .SEC_JOURNAL, .CLKPWR_STAT] s t) ∧
  (∀ (s : State), (s.act ≠ 1 ∨ s.flash.activate = 0 ∨ s.flash.activate = 0xFFFFFFFFFFFFFFFF ∨ s.ptp <
      s.flash.activate) →
    Answers (.activationTime) s fun t => Keeps [] [] s t) ∧
  (∀ (s : State), (s.act = 1 ∧ s.flash.activate ≠ 0 ∧ s.flash.activate ≠ 0xFFFFFFFFFFFFFFFF ∧ s.flash.activate ≤
      s.ptp) →
    Answers (.activationTime) s fun t => t.flash.activate = 0xFFFFFFFFFFFFFFFF ∧ (s.updateBlocked = true → t.act = 2
        ∧ t.flash.jStep = 0 ∧ t.bit R.SEC_EVT F.SEC_EVT_MISSED = true ∧ t.newest = some (0x0F, 5, 0, 3) ∧ t.power =
        s.power) ∧ (s.updateBlocked = false ∧ s.inReset = false → t.power = 4 ∧ t.pwr.cause = 4) ∧ Keeps [.highLatch,
        .halfWrites, .resp, .freeCtr, .log, .link, .dma, .granary, .dramValid, .miller, .pend, .landed, .weaver,
        .hcs, .pos, .br, .cam, .cal, .axes, .mot, .eth, .pages, .subs, .lastEvents, .pwr, .flash, .sec, .mem] [.any]
        s t) ∧
  (∀ (s : State), (s.sec.copying = false ∨ s.power ≠ 4 ∨ s.pwr.porn = false ∨ s.pwr.rstn = false) →
    Answers (.copyBlock) s fun t => Keeps [] [] s t) ∧
  (∀ (s : State) (b : Nat), (s.sec.copying = true ∧ s.power = 4 ∧ s.pwr.porn = true ∧ s.pwr.rstn = true) →
      ((s.flash.jStep = 1 ∧ b = 0) ∨ (s.flash.jStep = 2 ∧ b = s.flash.jBlock + 1 ∧ b < imageBlocks s.flash.active)) →
    Answers (.copyBlock) s fun t => t.flash.previous = copied s.flash.previous s.flash.active b ∧ t.flash.active =
        s.flash.active ∧ t.flash.jStep = 2 ∧ t.flash.jBlock = b ∧ Keeps [.freeCtr, .log, .subs, .lastEvents, .pwr,
        .flash, .sec] [.FAULT_EVT, .FAULT_LOG_WR, .FAULT_LOG_LOST, .CLKPWR_STAT, .SEC_STAT, .SEC_EVT, .SEC_JOURNAL] s
        t) ∧
  (∀ (s : State) (b : Nat), (s.sec.copying = true ∧ s.power = 4 ∧ s.pwr.porn = true ∧ s.pwr.rstn = true) →
      ((s.flash.jStep = 2 ∧ imageBlocks s.flash.active ≤ s.flash.jBlock + 1 ∧ b = 0) ∨ (s.flash.jStep = 3 ∧ b =
      s.flash.jBlock + 1)) →
    Answers (.copyBlock) s fun t => t.flash.active = copied s.flash.active s.flash.staging b ∧ t.flash.previous =
        s.flash.previous ∧ (b + 1 < imageBlocks s.flash.staging → t.flash.jStep = 3 ∧ t.flash.jBlock = b ∧
        t.sec.copying = true) ∧ (imageBlocks s.flash.staging ≤ b + 1 ∧ s.imageOk (copied s.flash.active
        s.flash.staging b) = true → t.act = 4 ∧ t.flash.stage = 0 ∧ t.flash.jStep = 4 ∧ t.sec.copying = false ∧
        t.sec.trialEnd = some (s.now + ms (1000 * s.trialWindow))) ∧ Keeps [.freeCtr, .log, .subs, .lastEvents, .pwr,
        .flash, .sec] [.FAULT_EVT, .FAULT_LOG_WR, .FAULT_LOG_LOST, .CLKPWR_STAT, .SEC_STAT, .SEC_EVT, .SEC_JOURNAL] s
        t) ∧
  (∀ (s : State) (b : Nat), (s.sec.copying = true ∧ s.power = 4 ∧ s.pwr.porn = true ∧ s.pwr.rstn = true) →
      ((s.flash.jStep = 6 ∧ b = 0) ∨ (s.flash.jStep = 5 ∧ b = s.flash.jBlock + 1)) →
    Answers (.copyBlock) s fun t => t.flash.active = copied s.flash.active s.flash.previous b ∧ t.flash.previous =
        s.flash.previous ∧ (b + 1 < imageBlocks s.flash.previous → t.flash.jStep = 5 ∧ t.flash.jBlock = b ∧
        t.sec.copying = true) ∧ (imageBlocks s.flash.previous ≤ b + 1 ∧ s.imageOk (copied s.flash.active
        s.flash.previous b) = true → t.act = 6 ∧ t.flash.jStep = 0 ∧ t.sec.copying = false ∧ t.bit R.SEC_EVT
        F.SEC_EVT_FELLBACK = true ∧ t.newest = some (0x0F, 1, 0, 4)) ∧ Keeps [.freeCtr, .log, .subs, .lastEvents,
        .pwr, .flash, .sec] [.FAULT_EVT, .FAULT_LOG_WR, .FAULT_LOG_LOST, .CLKPWR_STAT, .SEC_STAT, .SEC_EVT,
        .SEC_JOURNAL] s t) ∧
  (∀ (s : State) (u : Nat), (s.sec.trialEnd = some u ∧ u ≤ s.now ∧ s.inReset = false) →
    Answers (.trialExpiry) s fun t => t.power = 4 ∧ t.pwr.cause = 3 ∧ t.sec.trialEnd = none ∧ Keeps [.highLatch,
        .halfWrites, .resp, .log, .link, .dma, .granary, .dramValid, .miller, .pend, .landed, .weaver, .hcs, .pos,
        .br, .cam, .cal, .axes, .mot, .eth, .pages, .subs, .lastEvents, .pwr, .flash, .sec, .mem] [.any] s t) ∧
  (∀ (s : State), (s.sec.trialEnd.all (fun u => decide (s.now < u)) = true ∨ s.inReset = true) →
    Answers (.trialExpiry) s fun t => Keeps [] [] s t) ∧
  (∀ (q : Request) (s : State), (s.accepts q 0x02 = true ∧ s.level q < 2) →
    Answers (.fallbackRequest q) s fun t => s.replies t q 0x02 3 [] ∧ Keeps [.eth, .sec] [] s t) ∧
  (∀ (q : Request) (s : State), (s.accepts q 0x02 = true ∧ 2 ≤ s.level q) → (s.sec.trialEnd ≠ none ∨ s.updateBlocked
      = true ∨ s.flash.revoked.testBit (hdrKeySlot s.flash.previous) = true ∨ hdrSecver s.flash.previous <
      s.flash.secver) →
    Answers (.fallbackRequest q) s fun t => s.replies t q 0x02 (if s.sec.trialEnd.isSome || s.updateBlocked then 6
        else 7) (if s.sec.trialEnd.isSome || s.updateBlocked then busyBody 0x1500 9 else []) ∧ Keeps [.eth, .sec] []
        s t) ∧
  (∀ (q : Request) (s : State), (s.accepts q 0x02 = true ∧ 2 ≤ s.level q) → (s.sec.trialEnd = none ∧ s.updateBlocked
      = false ∧ s.flash.revoked.testBit (hdrKeySlot s.flash.previous) = false ∧ s.flash.secver ≤ hdrSecver
      s.flash.previous) →
    Answers (.fallbackRequest q) s fun t => t.power = 4 ∧ t.pwr.cause = 4 ∧ t.eth.sent = [.datagram q.ip.toNat
        q.port.toNat (s.response q 0x02 0 [])] ∧ Keeps [.highLatch, .halfWrites, .resp, .freeCtr, .log, .link, .dma,
        .granary, .dramValid, .miller, .pend, .landed, .weaver, .hcs, .pos, .br, .cam, .cal, .axes, .mot, .eth,
        .pages, .subs, .lastEvents, .pwr, .flash, .sec, .mem] [.any] s t)
end

