-- ==== Sys2Proof/Laws/Sparse.lean ====
section
/-! SUPPORT. Laws of the sparse tables: reading after writing, and that every operation keeps the canonical form. -/

set_option Elab.async false

namespace Sys2Proof.Laws

open Sys2Proof.Machine

variable {α : Type} {d : Nat → α} {m : List (Nat × α)} {k j : Nat} {v : α}

theorem sget_sdel_same : sget d (sdel m k) k = d k := by
  induction m with
  | nil => rfl
  | cons e t ih =>
    obtain ⟨k', v'⟩ := e
    by_cases h : k' = k <;> simp [sdel, sget, h, ih]

theorem sget_sdel_other (h : j ≠ k) : sget d (sdel m k) j = sget d m j := by
  induction m with
  | nil => rfl
  | cons e t ih =>
    obtain ⟨k', v'⟩ := e
    by_cases hk : k' = k
    · subst hk; simp [sdel, sget, ih, Ne.symm h]
    · simp [sdel, sget, hk, ih]

theorem sget_sins_same : sget d (sins (sdel m k) k v) k = v := by
  induction m with
  | nil => simp [sdel, sins, sget]
  | cons e t ih =>
    obtain ⟨k', v'⟩ := e
    by_cases hk : k' = k
    · simp [sdel, hk, ih]
    · by_cases hl : k < k' <;> simp [sdel, sins, sget, hk, hl, ih]

theorem sget_sins_other (h : j ≠ k) : sget d (sins m k v) j = sget d m j := by
  induction m with
  | nil => simp [sins, sget, Ne.symm h]
  | cons e t ih =>
    obtain ⟨k', v'⟩ := e
    by_cases hl : k < k'
    · simp [sins, sget, hl, Ne.symm h]
    · simp [sins, sget, hl, ih]

/-- What a table reads at a key just written is the value written. -/
@[simp] theorem sget_sset_same [DecidableEq α] : sget d (sset d m k v) k = v := by
  by_cases h : v = d k
  · simp [sset, h, sget_sdel_same]
  · simp [sset, h, sget_sins_same]

/-- A write leaves every other key as it was. -/
theorem sget_sset_other [DecidableEq α] (h : j ≠ k) : sget d (sset d m k v) j = sget d m j := by
  by_cases hv : v = d k
  · simp [sset, hv, sget_sdel_other h]
  · simp [sset, hv, sget_sins_other h, sget_sdel_other h]

theorem sdel_sub {e : Nat × α} (h : e ∈ sdel m k) : e ∈ m ∧ e.1 ≠ k := by
  induction m with
  | nil => cases h
  | cons x t ih =>
    obtain ⟨k', v'⟩ := x
    by_cases hk : k' = k
    · simp only [sdel, hk, if_true] at h
      exact ⟨List.mem_cons_of_mem _ (ih h).1, (ih h).2⟩
    · simp only [sdel, hk, if_false, List.mem_cons] at h
      rcases h with rfl | h
      · exact ⟨List.mem_cons_self, hk⟩
      · exact ⟨List.mem_cons_of_mem _ (ih h).1, (ih h).2⟩

theorem sins_sub {e : Nat × α} (h : e ∈ sins m k v) : e = (k, v) ∨ e ∈ m := by
  induction m with
  | nil => simpa [sins] using h
  | cons x t ih =>
    obtain ⟨k', v'⟩ := x
    by_cases hl : k < k'
    · simpa only [sins, hl, if_true, List.mem_cons] using h
    · simp only [sins, hl, if_false, List.mem_cons] at h ⊢
      rcases h with h | h
      · exact .inr (.inl h)
      · exact (ih h).imp_right .inr

theorem swf_cons [DecidableEq α] :
    swf d ((k, v) :: m) = true ↔ v ≠ d k ∧ (∀ e ∈ m, k < e.1) ∧ swf d m = true := by
  simp [swf, and_assoc]

theorem sget_filter {p : Nat × α → Bool} (h : ∀ e : Nat × α, e.1 = k → p e = true) :
    sget d (m.filter p) k = sget d m k := by
  induction m with
  | nil => rfl
  | cons e t ih =>
    by_cases he : e.1 = k
    · rw [List.filter_cons_of_pos (h e he)]; simp [sget, he]
    · by_cases hp : p e = true
      · rw [List.filter_cons_of_pos hp]; simp [sget, he, ih]
      · rw [List.filter_cons_of_neg hp]; simp [sget, he, ih]

theorem swf_filter [DecidableEq α] (p : Nat × α → Bool) (h : swf d m = true) : swf d (m.filter p) = true := by
  induction m with
  | nil => rfl
  | cons e t ih =>
    obtain ⟨k', v'⟩ := e
    obtain ⟨h1, h2, h3⟩ := swf_cons.mp h
    by_cases hp : p (k', v') = true
    · rw [List.filter_cons_of_pos hp]
      exact swf_cons.mpr ⟨h1, fun e he => h2 e (List.mem_filter.mp he).1, ih h3⟩
    · rw [List.filter_cons_of_neg hp]; exact ih h3

theorem swf_sdel [DecidableEq α] (h : swf d m = true) : swf d (sdel m k) = true := by
  induction m with
  | nil => rfl
  | cons e t ih =>
    obtain ⟨k', v'⟩ := e
    obtain ⟨h1, h2, h3⟩ := swf_cons.mp h
    by_cases hk : k' = k
    · simpa [sdel, hk] using ih h3
    · simp only [sdel, hk, if_false]
      exact swf_cons.mpr ⟨h1, fun e he => h2 e (sdel_sub he).1, ih h3⟩

theorem swf_sins [DecidableEq α] (h : swf d m = true) (hv : v ≠ d k) (hk : ∀ e ∈ m, e.1 ≠ k) :
    swf d (sins m k v) = true := by
  induction m with
  | nil => simp [sins, swf, hv]
  | cons e t ih =>
    obtain ⟨k', v'⟩ := e
    obtain ⟨h1, h2, h3⟩ := swf_cons.mp h
    by_cases hl : k < k'
    · simp only [sins, hl, if_true]
      refine swf_cons.mpr ⟨hv, fun e he => ?_, h⟩
      rcases List.mem_cons.mp he with rfl | he
      · exact hl
      · exact Nat.lt_trans hl (h2 e he)
    · simp only [sins, hl, if_false]
      refine swf_cons.mpr ⟨h1, fun e he => ?_, ih h3 (fun e he => hk e (List.mem_cons_of_mem _ he))⟩
      rcases sins_sub he with rfl | he
      · have := hk (k', v') List.mem_cons_self
        exact Nat.lt_of_le_of_ne (Nat.le_of_not_lt hl) this
      · exact h2 e he

/-- Every write keeps the canonical form. -/
theorem swf_sset [DecidableEq α] (h : swf d m = true) : swf d (sset d m k v) = true := by
  by_cases hv : v = d k
  · simpa [sset, hv] using swf_sdel h
  · simp only [sset, hv, if_false]
    exact swf_sins (swf_sdel h) hv (fun e he => (sdel_sub he).2)

theorem sget_absent (h : ∀ e ∈ m, e.1 ≠ k) : sget d m k = d k := by
  induction m with
  | nil => rfl
  | cons e t ih =>
    rw [sget, if_neg (h e List.mem_cons_self), ih fun x hx => h x (List.mem_cons_of_mem _ hx)]

theorem sget_append_left {l : List (Nat × α)} (h : ∀ e ∈ l, e.1 ≠ k) : sget d (l ++ m) k = sget d m k := by
  induction l with
  | nil => rfl
  | cons e t ih =>
    rw [List.cons_append, sget, if_neg (h e List.mem_cons_self), ih fun x hx => h x (List.mem_cons_of_mem _ hx)]

theorem sget_append_right {l : List (Nat × α)} (h : ∀ e ∈ l, e.1 ≠ k) : sget d (m ++ l) k = sget d m k := by
  induction m with
  | nil => exact sget_absent h
  | cons e t ih => rw [List.cons_append, sget, sget, ih]

theorem swf_append [DecidableEq α] {l : List (Nat × α)} (h : swf d m = true) (hl : swf d l = true)
    (hml : ∀ e ∈ m, ∀ e' ∈ l, e.1 < e'.1) : swf d (m ++ l) = true := by
  induction m with
  | nil => exact hl
  | cons e t ih =>
    obtain ⟨k', v'⟩ := e
    obtain ⟨h1, h2, h3⟩ := swf_cons.mp h
    refine swf_cons.mpr ⟨h1, fun x hx => ?_, ih h3 fun e he => hml e (List.mem_cons_of_mem _ he)⟩
    rcases List.mem_append.mp hx with hx | hx
    · exact h2 x hx
    · exact hml (k', v') List.mem_cons_self x hx

end Sys2Proof.Laws
end

