-- ==== Sys2Proof/Laws/Keeps.lean ====
section
/-! SUPPORT. Laws of `Keeps`: what the primitive updates of a state keep, and how the facts compose. -/

set_option Elab.async false

namespace Sys2Proof.Laws

open Sys2Proof.Machine

variable {w v : List Part} {r q : List Reg} {s0 s t : State}

theorem keeps_refl : Keeps w r s s :=
  ⟨rfl, id, fun p _ => by cases p <;> first | rfl | trivial, fun _ _ => rfl, fun _ _ => rfl⟩

/-- The fact of `h` about another state. -/
abbrev As (_ : Keeps w r s t) (u : State) : Prop := Keeps w r s u

theorem part_same_trans {p : Part} {u : State} (h : p.same s t) (k : p.same t u) : p.same s u := by
  cases p <;> first | exact Eq.trans k h | trivial

/-- The registers that say where the rings lie are as before where no row of `r` has one. -/
theorem stores_back {p : Part} {a : Nat} (hr : ∀ a, (∀ x ∈ r, ¬ x.has a) → t.reg a = s.reg a) (h : p.stores r t a) :
    p.stores r s a := by
  have key : ∀ a, ¬ Reg.touches r a → t.reg a = s.reg a := fun a ha => hr a fun x hx hh => ha ⟨x, hx, hh⟩
  cases p with
  | rings =>
    rcases h with h | ⟨n, h⟩
    · exact .inl h
    · by_cases hc : Reg.touches r (R.DMA_CHn_RING_LO n) ∨ Reg.touches r (R.DMA_CHn_RING_HI n)
      · exact .inl ⟨n, hc⟩
      · rw [not_or] at hc
        simp only [State.ringBase, State.ringSize, State.fld, key _ hc.1, key _ hc.2] at h
        exact .inr ⟨n, h⟩
  | records =>
    rcases h with h | ⟨n, h⟩
    · exact .inl h
    · by_cases hc : Reg.touches r (R.Pp_RES_LO n) ∨ Reg.touches r (R.Pp_RES_HI n)
      · exact .inl ⟨n, hc⟩
      · rw [not_or] at hc
        simp only [State.resBase, State.resSize, State.fld, key _ hc.1, key _ hc.2] at h
        exact .inr ⟨n, h⟩
  | refs =>
    by_cases h1 : Reg.touches r R.CAM_REF_LO
    · exact .inl h1
    by_cases h2 : Reg.touches r R.CAM_REF_HI
    · exact .inr (.inl h2)
    by_cases h3 : Reg.touches r R.CAM_REF_LINES
    · exact .inr (.inr (.inl h3))
    rcases h with h | h | h | h
    · exact absurd h h1
    · exact absurd h h2
    · exact absurd h h3
    · simp only [State.refBase, State.refLines, State.fld, key _ h1, key _ h2, key _ h3] at h
      exact .inr (.inr (.inr h))
  | _ => exact h

theorem keeps_trans {u : State} (h : Keeps w r s t) (k : Keeps w r t u) : Keeps w r s u :=
  ⟨k.queue.trans h.queue, k.good ∘ h.good, fun p hp => part_same_trans (h.parts p hp) (k.parts p hp),
    fun a ha => (k.regs a ha).trans (h.regs a ha),
    fun a ha => (k.bytes a fun p hp hs => ha p hp (stores_back h.regs hs)).trans (h.bytes a ha)⟩

theorem sub_cases (h : Reg.sub q r = true) : .any ∈ r ∨ ∀ x ∈ q, x ∈ r := by
  rw [Reg.sub, Bool.or_eq_true] at h
  exact h.imp List.contains_iff_mem.mp fun h x hx => List.contains_iff_mem.mp (List.all_eq_true.mp h x hx)

theorem touches_mono {a : Nat} (hs : Reg.sub q r = true) (h : Reg.touches q a) : Reg.touches r a := by
  obtain ⟨x, hx, hh⟩ := h
  exact (sub_cases hs).elim (fun hr => ⟨.any, hr, trivial⟩) (fun hr => ⟨x, hr x hx, hh⟩)

theorem stores_mono {p : Part} {a : Nat} (hs : Reg.sub q r = true) (h : p.stores q s a) : p.stores r s a := by
  cases p with
  | rings => exact h.imp (fun ⟨n, h⟩ => ⟨n, h.imp (touches_mono hs) (touches_mono hs)⟩) id
  | records => exact h.imp (fun ⟨n, h⟩ => ⟨n, h.imp (touches_mono hs) (touches_mono hs)⟩) id
  | refs => exact h.imp (touches_mono hs) (Or.imp (touches_mono hs) (Or.imp (touches_mono hs) id))
  | _ => exact h

theorem same_of_isBytes {p : Part} (h : p.isBytes = true) : p.same s t := by
  cases p <;> first | trivial | cases h

/-- Within larger lists a change keeps at least as much. -/
theorem keeps_mono (hw : within v q w r = true) (h : Keeps v q s t) : Keeps w r s t := by
  rw [within, Bool.and_eq_true, List.all_eq_true] at hw
  have hv : ∀ p ∈ v, p ∈ w ∨ p.isBytes = true ∧ .mem ∈ w := fun p hp => by
    have := hw.1 p hp
    rw [Bool.or_eq_true, Bool.and_eq_true] at this
    exact this.imp List.contains_iff_mem.mp (And.imp_right List.contains_iff_mem.mp)
  refine ⟨h.queue, h.good, fun p hp => ?_, fun a ha => ?_, fun a ha => ?_⟩
  · by_cases hpv : p ∈ v
    · exact (hv p hpv).elim (fun h => absurd h hp) (fun h => same_of_isBytes h.1)
    · exact h.parts p hpv
  · exact (sub_cases hw.2).elim (fun hr => absurd trivial (ha .any hr)) (fun hr => h.regs a fun x hx => ha x (hr x hx))
  · refine h.bytes a fun p hp hs => ?_
    exact (hv p hp).elim (fun h => ha p h (stores_mono hw.2 hs)) (fun h => ha .mem h.2 trivial)

theorem reg_sub_trans {a b c : List Reg} (h : Reg.sub a b = true) (k : Reg.sub b c = true) : Reg.sub a c = true := by
  rw [Reg.sub, Bool.or_eq_true] at *
  rcases k with k | k
  · exact .inl k
  rcases h with h | h
  · exact .inl (List.all_eq_true.mp k .any (List.contains_iff_mem.mp h))
  · exact .inr (List.all_eq_true.mpr fun x hx =>
      List.all_eq_true.mp k x (List.contains_iff_mem.mp (List.all_eq_true.mp h x hx)))

theorem within_trans {a c : List Part} {b d : List Reg} (h : within a b c d = true) (k : within c d w r = true) :
    within a b w r = true := by
  simp only [within, Bool.and_eq_true, List.all_eq_true, Bool.or_eq_true, List.contains_iff_mem] at *
  refine ⟨fun x hx => ?_, reg_sub_trans h.2 k.2⟩
  rcases h.1 x hx with h | h
  · exact k.1 x h
  · exact .inr ⟨h.1, (k.1 .mem h.2).elim id And.right⟩

/-- A further change within smaller lists. -/
theorem keeps_step (h : Keeps w r s0 s) (k : Keeps v q s t) (hw : within v q w r = true := by decide +kernel) :
    Keeps w r s0 t :=
  keeps_trans h (keeps_mono hw k)

theorem keeps_ite {c : Prop} [Decidable c] (h : Keeps w r s0 s) (k : Keeps w r s0 t) :
    Keeps w r s0 (if c then s else t) := by split <;> assumption

theorem keeps_ite_neg {c : Prop} [Decidable c] (h : Keeps w r s0 s) (k : ¬ c → Keeps w r s0 t) :
    Keeps w r s0 (if c then s else t) := by
  split
  · exact h
  · exact k ‹_›

theorem keeps_ite_fst {α : Type} {c : Prop} [Decidable c] {a b : State × α} (h : Keeps w r s0 a.1)
    (k : Keeps w r s0 b.1) : Keeps w r s0 (if c then a else b).1 := by split <;> assumption

theorem keeps_ite_snd {α : Type} {c : Prop} [Decidable c] {a b : α × State} (h : Keeps w r s0 a.2)
    (k : Keeps w r s0 b.2) : Keeps w r s0 (if c then a else b).2 := by split <;> assumption

theorem keeps_ite_snd2 {α β : Type} {c : Prop} [Decidable c] {a b : α × β × State} (h : Keeps w r s0 a.2.2)
    (k : Keeps w r s0 b.2.2) : Keeps w r s0 (if c then a else b).2.2 := by split <;> assumption

theorem keeps_ite_after {c : Prop} [Decidable c] {a b : Answer} (h : Keeps w r s0 a.after)
    (k : Keeps w r s0 b.after) : Keeps w r s0 (if c then a else b).after := by split <;> assumption

theorem keeps_foldl {β : Type} {f : State → β → State} {l : List β} (h : Keeps w r s0 s)
    (hf : ∀ s x, Keeps w r s0 s → Keeps w r s0 (f s x)) : Keeps w r s0 (l.foldl f s) := by
  induction l generalizing s with
  | nil => exact h
  | cons x t ih => exact ih (hf s x h)

theorem keeps_foldl_mem {β : Type} {f : State → β → State} {l : List β} (h : Keeps w r s0 s)
    (hf : ∀ s, ∀ x ∈ l, Keeps w r s0 s → Keeps w r s0 (f s x)) : Keeps w r s0 (l.foldl f s) := by
  induction l generalizing s with
  | nil => exact h
  | cons x t ih => exact ih (hf s x List.mem_cons_self h) (fun s y hy => hf s y (List.mem_cons_of_mem _ hy))

theorem keeps_foldl_snd {α β : Type} {f : α × State → β → α × State} {l : List β} {p : α × State}
    (h : Keeps w r s0 p.2) (hf : ∀ p x, Keeps w r s0 p.2 → Keeps w r s0 (f p x).2) :
    Keeps w r s0 (l.foldl f p).2 := by
  induction l generalizing p with
  | nil => exact h
  | cons x t ih => exact ih (hf p x h)

theorem keeps_foldl_fst {α β : Type} {f : State × α → β → State × α} {l : List β} {p : State × α}
    (h : Keeps w r s0 p.1) (hf : ∀ p x, Keeps w r s0 p.1 → Keeps w r s0 (f p x).1) :
    Keeps w r s0 (l.foldl f p).1 := by
  induction l generalizing p with
  | nil => exact h
  | cons x t ih => exact ih (hf p x h)

theorem keeps_of_2 {α : Type} {a : α} {p : α × State} (e : p = (a, t)) (h : Keeps w r s0 p.2) : Keeps w r s0 t := by
  subst e; exact h

theorem keeps_of_1 {α : Type} {a : α} {p : State × α} (e : p = (t, a)) (h : Keeps w r s0 p.1) : Keeps w r s0 t := by
  subst e; exact h

theorem keeps_of_2_2 {α β : Type} {a : α} {b : β} {p : α × β × State} (e : p = (a, b, t)) (h : Keeps w r s0 p.2.2) :
    Keeps w r s0 t := by subst e; exact h

/-- Where every register and byte may change, the facts about them are void. -/
theorem keeps_mk (hq : t.pending = s.pending) (hg : s.Good → t.Good) (hp : ∀ p, p ∉ w → p.same s t)
    (hr : Reg.any ∈ r := by decide) (hw : Part.mem ∈ w := by decide) : Keeps w r s t :=
  ⟨hq, hg, hp, fun _ ha => absurd trivial (ha .any hr), fun _ ha => absurd trivial (ha .mem hw)⟩

/-- Several fields at once. -/
theorem keeps_upd (h : Keeps w r s0 s) (hq : t.pending = s.pending := by rfl) (hm : t.mem = s.mem := by rfl)
    (hr : t.regs = s.regs := by rfl) (hl : t.log = s.log := by rfl)
    (hp : ∀ p, p ∉ w → p.same s t := by intro p hp; cases p <;> first | rfl | trivial | exact absurd (by decide) hp) :
    Keeps w r s0 t :=
  ⟨hq.trans h.queue, fun g => ⟨hm ▸ (h.good g).mem, hr ▸ (h.good g).regs, hl ▸ (h.good g).log⟩,
    fun p hw => part_same_trans (h.parts p hw) (hp p hw),
    fun a ha => (congrArg (fun m => sget resetWord m a) hr).trans (h.regs a ha),
    fun a ha => (congrArg (fun m => sget memDefault m a) hm).trans (h.bytes a ha)⟩

/-! ## Fields -/

theorem keeps_now (h : Keeps w r s0 s) (v : _) (hw : w.contains .now = true := by decide) :
    Keeps w r s0 { s with now := v } :=
  ⟨h.queue, fun g => ⟨(h.good g).mem, (h.good g).regs, (h.good g).log⟩,
    fun p hp => by cases p <;> first | exact h.parts _ hp | exact absurd (List.contains_iff_mem.mp hw) hp, h.regs,
    h.bytes⟩

theorem keeps_highLatch (h : Keeps w r s0 s) (v : _) (hw : w.contains .highLatch = true := by decide) :
    Keeps w r s0 { s with highLatch := v } :=
  ⟨h.queue, fun g => ⟨(h.good g).mem, (h.good g).regs, (h.good g).log⟩,
    fun p hp => by cases p <;> first | exact h.parts _ hp | exact absurd (List.contains_iff_mem.mp hw) hp, h.regs,
    h.bytes⟩

theorem keeps_halfWrites (h : Keeps w r s0 s) (v : _) (hw : w.contains .halfWrites = true := by decide) :
    Keeps w r s0 { s with halfWrites := v } :=
  ⟨h.queue, fun g => ⟨(h.good g).mem, (h.good g).regs, (h.good g).log⟩,
    fun p hp => by cases p <;> first | exact h.parts _ hp | exact absurd (List.contains_iff_mem.mp hw) hp, h.regs,
    h.bytes⟩

theorem keeps_resp (h : Keeps w r s0 s) (v : _) (hw : w.contains .resp = true := by decide) :
    Keeps w r s0 { s with resp := v } :=
  ⟨h.queue, fun g => ⟨(h.good g).mem, (h.good g).regs, (h.good g).log⟩,
    fun p hp => by cases p <;> first | exact h.parts _ hp | exact absurd (List.contains_iff_mem.mp hw) hp, h.regs,
    h.bytes⟩

theorem keeps_freeCtr (h : Keeps w r s0 s) (v : _) (hw : w.contains .freeCtr = true := by decide) :
    Keeps w r s0 { s with freeCtr := v } :=
  ⟨h.queue, fun g => ⟨(h.good g).mem, (h.good g).regs, (h.good g).log⟩,
    fun p hp => by cases p <;> first | exact h.parts _ hp | exact absurd (List.contains_iff_mem.mp hw) hp, h.regs,
    h.bytes⟩

theorem keeps_link (h : Keeps w r s0 s) (v : _) (hw : w.contains .link = true := by decide) :
    Keeps w r s0 { s with link := v } :=
  ⟨h.queue, fun g => ⟨(h.good g).mem, (h.good g).regs, (h.good g).log⟩,
    fun p hp => by cases p <;> first | exact h.parts _ hp | exact absurd (List.contains_iff_mem.mp hw) hp, h.regs,
    h.bytes⟩

theorem keeps_dma (h : Keeps w r s0 s) (v : _) (hw : w.contains .dma = true := by decide) :
    Keeps w r s0 { s with dma := v } :=
  ⟨h.queue, fun g => ⟨(h.good g).mem, (h.good g).regs, (h.good g).log⟩,
    fun p hp => by cases p <;> first | exact h.parts _ hp | exact absurd (List.contains_iff_mem.mp hw) hp, h.regs,
    h.bytes⟩

theorem keeps_granary (h : Keeps w r s0 s) (v : _) (hw : w.contains .granary = true := by decide) :
    Keeps w r s0 { s with granary := v } :=
  ⟨h.queue, fun g => ⟨(h.good g).mem, (h.good g).regs, (h.good g).log⟩,
    fun p hp => by cases p <;> first | exact h.parts _ hp | exact absurd (List.contains_iff_mem.mp hw) hp, h.regs,
    h.bytes⟩

theorem keeps_dramValid (h : Keeps w r s0 s) (v : _) (hw : w.contains .dramValid = true := by decide) :
    Keeps w r s0 { s with dramValid := v } :=
  ⟨h.queue, fun g => ⟨(h.good g).mem, (h.good g).regs, (h.good g).log⟩,
    fun p hp => by cases p <;> first | exact h.parts _ hp | exact absurd (List.contains_iff_mem.mp hw) hp, h.regs,
    h.bytes⟩

theorem keeps_miller (h : Keeps w r s0 s) (v : _) (hw : w.contains .miller = true := by decide) :
    Keeps w r s0 { s with miller := v } :=
  ⟨h.queue, fun g => ⟨(h.good g).mem, (h.good g).regs, (h.good g).log⟩,
    fun p hp => by cases p <;> first | exact h.parts _ hp | exact absurd (List.contains_iff_mem.mp hw) hp, h.regs,
    h.bytes⟩

theorem keeps_pend (h : Keeps w r s0 s) (v : _) (hw : w.contains .pend = true := by decide) :
    Keeps w r s0 { s with pend := v } :=
  ⟨h.queue, fun g => ⟨(h.good g).mem, (h.good g).regs, (h.good g).log⟩,
    fun p hp => by cases p <;> first | exact h.parts _ hp | exact absurd (List.contains_iff_mem.mp hw) hp, h.regs,
    h.bytes⟩

theorem keeps_landed (h : Keeps w r s0 s) (v : _) (hw : w.contains .landed = true := by decide) :
    Keeps w r s0 { s with landed := v } :=
  ⟨h.queue, fun g => ⟨(h.good g).mem, (h.good g).regs, (h.good g).log⟩,
    fun p hp => by cases p <;> first | exact h.parts _ hp | exact absurd (List.contains_iff_mem.mp hw) hp, h.regs,
    h.bytes⟩

theorem keeps_weaver (h : Keeps w r s0 s) (v : _) (hw : w.contains .weaver = true := by decide) :
    Keeps w r s0 { s with weaver := v } :=
  ⟨h.queue, fun g => ⟨(h.good g).mem, (h.good g).regs, (h.good g).log⟩,
    fun p hp => by cases p <;> first | exact h.parts _ hp | exact absurd (List.contains_iff_mem.mp hw) hp, h.regs,
    h.bytes⟩

theorem keeps_hcs (h : Keeps w r s0 s) (v : _) (hw : w.contains .hcs = true := by decide) :
    Keeps w r s0 { s with hcs := v } :=
  ⟨h.queue, fun g => ⟨(h.good g).mem, (h.good g).regs, (h.good g).log⟩,
    fun p hp => by cases p <;> first | exact h.parts _ hp | exact absurd (List.contains_iff_mem.mp hw) hp, h.regs,
    h.bytes⟩

theorem keeps_pos (h : Keeps w r s0 s) (v : _) (hw : w.contains .pos = true := by decide) :
    Keeps w r s0 { s with pos := v } :=
  ⟨h.queue, fun g => ⟨(h.good g).mem, (h.good g).regs, (h.good g).log⟩,
    fun p hp => by cases p <;> first | exact h.parts _ hp | exact absurd (List.contains_iff_mem.mp hw) hp, h.regs,
    h.bytes⟩

theorem keeps_br (h : Keeps w r s0 s) (v : _) (hw : w.contains .br = true := by decide) :
    Keeps w r s0 { s with br := v } :=
  ⟨h.queue, fun g => ⟨(h.good g).mem, (h.good g).regs, (h.good g).log⟩,
    fun p hp => by cases p <;> first | exact h.parts _ hp | exact absurd (List.contains_iff_mem.mp hw) hp, h.regs,
    h.bytes⟩

theorem keeps_cam (h : Keeps w r s0 s) (v : _) (hw : w.contains .cam = true := by decide) :
    Keeps w r s0 { s with cam := v } :=
  ⟨h.queue, fun g => ⟨(h.good g).mem, (h.good g).regs, (h.good g).log⟩,
    fun p hp => by cases p <;> first | exact h.parts _ hp | exact absurd (List.contains_iff_mem.mp hw) hp, h.regs,
    h.bytes⟩

theorem keeps_cal (h : Keeps w r s0 s) (v : _) (hw : w.contains .cal = true := by decide) :
    Keeps w r s0 { s with cal := v } :=
  ⟨h.queue, fun g => ⟨(h.good g).mem, (h.good g).regs, (h.good g).log⟩,
    fun p hp => by cases p <;> first | exact h.parts _ hp | exact absurd (List.contains_iff_mem.mp hw) hp, h.regs,
    h.bytes⟩

theorem keeps_axes (h : Keeps w r s0 s) (v : _) (hw : w.contains .axes = true := by decide) :
    Keeps w r s0 { s with axes := v } :=
  ⟨h.queue, fun g => ⟨(h.good g).mem, (h.good g).regs, (h.good g).log⟩,
    fun p hp => by cases p <;> first | exact h.parts _ hp | exact absurd (List.contains_iff_mem.mp hw) hp, h.regs,
    h.bytes⟩

theorem keeps_mot (h : Keeps w r s0 s) (v : _) (hw : w.contains .mot = true := by decide) :
    Keeps w r s0 { s with mot := v } :=
  ⟨h.queue, fun g => ⟨(h.good g).mem, (h.good g).regs, (h.good g).log⟩,
    fun p hp => by cases p <;> first | exact h.parts _ hp | exact absurd (List.contains_iff_mem.mp hw) hp, h.regs,
    h.bytes⟩

theorem keeps_eth (h : Keeps w r s0 s) (v : _) (hw : w.contains .eth = true := by decide) :
    Keeps w r s0 { s with eth := v } :=
  ⟨h.queue, fun g => ⟨(h.good g).mem, (h.good g).regs, (h.good g).log⟩,
    fun p hp => by cases p <;> first | exact h.parts _ hp | exact absurd (List.contains_iff_mem.mp hw) hp, h.regs,
    h.bytes⟩

theorem keeps_pages (h : Keeps w r s0 s) (v : _) (hw : w.contains .pages = true := by decide) :
    Keeps w r s0 { s with pages := v } :=
  ⟨h.queue, fun g => ⟨(h.good g).mem, (h.good g).regs, (h.good g).log⟩,
    fun p hp => by cases p <;> first | exact h.parts _ hp | exact absurd (List.contains_iff_mem.mp hw) hp, h.regs,
    h.bytes⟩

theorem keeps_subs (h : Keeps w r s0 s) (v : _) (hw : w.contains .subs = true := by decide) :
    Keeps w r s0 { s with subs := v } :=
  ⟨h.queue, fun g => ⟨(h.good g).mem, (h.good g).regs, (h.good g).log⟩,
    fun p hp => by cases p <;> first | exact h.parts _ hp | exact absurd (List.contains_iff_mem.mp hw) hp, h.regs,
    h.bytes⟩

theorem keeps_lastEvents (h : Keeps w r s0 s) (v : _) (hw : w.contains .lastEvents = true := by decide) :
    Keeps w r s0 { s with lastEvents := v } :=
  ⟨h.queue, fun g => ⟨(h.good g).mem, (h.good g).regs, (h.good g).log⟩,
    fun p hp => by cases p <;> first | exact h.parts _ hp | exact absurd (List.contains_iff_mem.mp hw) hp, h.regs,
    h.bytes⟩

theorem keeps_pwr (h : Keeps w r s0 s) (v : _) (hw : w.contains .pwr = true := by decide) :
    Keeps w r s0 { s with pwr := v } :=
  ⟨h.queue, fun g => ⟨(h.good g).mem, (h.good g).regs, (h.good g).log⟩,
    fun p hp => by cases p <;> first | exact h.parts _ hp | exact absurd (List.contains_iff_mem.mp hw) hp, h.regs,
    h.bytes⟩

theorem keeps_flash (h : Keeps w r s0 s) (v : _) (hw : w.contains .flash = true := by decide) :
    Keeps w r s0 { s with flash := v } :=
  ⟨h.queue, fun g => ⟨(h.good g).mem, (h.good g).regs, (h.good g).log⟩,
    fun p hp => by cases p <;> first | exact h.parts _ hp | exact absurd (List.contains_iff_mem.mp hw) hp, h.regs,
    h.bytes⟩

theorem keeps_sec (h : Keeps w r s0 s) (v : _) (hw : w.contains .sec = true := by decide) :
    Keeps w r s0 { s with sec := v } :=
  ⟨h.queue, fun g => ⟨(h.good g).mem, (h.good g).regs, (h.good g).log⟩,
    fun p hp => by cases p <;> first | exact h.parts _ hp | exact absurd (List.contains_iff_mem.mp hw) hp, h.regs,
    h.bytes⟩

/-- A byte of a part of `w`. -/
def Stored (w : List Part) (r : List Reg) (s : State) (a : Nat) : Prop := ∃ p ∈ w, p.stores r s a

theorem keeps_mem (h : Keeps w r s0 s) {m : List Host.Cell} (hm : Memory.wf s.mem = true → Memory.wf m = true)
    (hb : ∀ a, ¬ Stored w r s0 a → sget memDefault m a = s.byte a) : Keeps w r s0 { s with mem := m } :=
  ⟨h.queue, fun g => ⟨hm (h.good g).mem, (h.good g).regs, (h.good g).log⟩,
    fun p hp => by cases p <;> exact h.parts _ hp, h.regs,
    fun a ha => (hb a fun ⟨p, hp, hs⟩ => ha p hp hs).trans (h.bytes a ha)⟩

theorem keeps_log (h : Keeps w r s0 s) {l : List LogEntry} (hl : s.log.length ≤ 4096 → l.length ≤ 4096)
    (hw : w.contains .log = true := by decide) : Keeps w r s0 { s with log := l } :=
  ⟨h.queue, fun g => ⟨(h.good g).mem, (h.good g).regs, hl (h.good g).log⟩,
    fun p hp => by cases p <;> first | exact h.parts _ hp | exact absurd (List.contains_iff_mem.mp hw) hp, h.regs,
    h.bytes⟩

/-! ## Registers and memory -/

/-- Address `a` is that of a register of a row in `r`. -/
def Covers (r : List Reg) (a : Nat) : Prop := ∃ x ∈ r, x.has a

theorem covers {a : Nat} (x : Reg) (h : x.has a) (hx : Reg.sub [x] r = true := by decide) : Covers r a := by
  rw [Reg.sub, Bool.or_eq_true] at hx
  rcases hx with hx | hx
  · exact ⟨.any, List.contains_iff_mem.mp hx, trivial⟩
  · exact ⟨x, List.contains_iff_mem.mp (List.all_eq_true.mp hx x List.mem_cons_self), h⟩

theorem covers_ite {c : Prop} [Decidable c] {a b : Nat} (h : Covers r a) (k : Covers r b) :
    Covers r (if c then a else b) := by split <;> assumption

theorem covers_one {a : Nat} (h : Covers r a) : ∀ x, a ≤ x → x < a + 1 → Covers r x := fun x h1 h2 =>
  (Nat.le_antisymm (Nat.le_of_lt_succ h2) h1 : x = a) ▸ h

theorem covers_row {h u : Nat} (a : Covers r (R.BR_ROWU h)) (b : Covers r (R.BR_ROWD h)) : Covers r (rowReg h u) :=
  covers_ite a b

theorem covers_rowNext {h u : Nat} (a : Covers r (R.BR_ROWU_NEXT h)) (b : Covers r (R.BR_ROWD_NEXT h)) :
    Covers r (rowNextReg h u) := covers_ite a b

theorem keeps_setReg {a : Nat} {x : Word} (h : Keeps w r s0 s) (hc : Covers r a) : Keeps w r s0 (s.setReg a x) := by
  refine ⟨h.queue, fun g => ⟨(h.good g).mem, swf_sset (h.good g).regs, (h.good g).log⟩,
    fun p hp => by cases p <;> exact h.parts _ hp, fun b hb => ?_, h.bytes⟩
  obtain ⟨y, hy, ha⟩ := hc
  rw [← h.regs b hb]
  exact sget_sset_other (fun e => hb y hy (e ▸ ha))

theorem memCells_ge {a : Nat} {l : List Byte} : ∀ e ∈ memCells a l, a ≤ e.1 ∧ e.1 < a + l.length := by
  induction l generalizing a with
  | nil => intro e h; cases h
  | cons b t ih =>
    intro e h
    rw [List.length_cons]
    rw [memCells] at h
    split at h
    · have := ih e h; omega
    · rcases List.mem_cons.mp h with rfl | h
      · exact ⟨Nat.le_refl _, by dsimp only; omega⟩
      · have := ih e h; omega

theorem memCells_wf {a : Nat} {l : List Byte} : swf memDefault (memCells a l) = true := by
  induction l generalizing a with
  | nil => rfl
  | cons b t ih =>
    rw [memCells]
    split
    · exact ih
    · rename_i h
      exact swf_cons.mpr ⟨h, fun e he => (memCells_ge e he).1, ih⟩

theorem memSet_wf {m : List Host.Cell} {a : Nat} {l : List Byte} (h : Memory.wf m = true) :
    Memory.wf (memSet m a l) = true := by
  refine swf_append (swf_filter _ h) (swf_append memCells_wf (swf_filter _ h) fun e he x hx => ?_) fun e he x hx => ?_
  · have := memCells_ge e he
    have := of_decide_eq_true (List.mem_filter.mp hx).2
    omega
  · have := of_decide_eq_true (List.mem_filter.mp he).2
    rcases List.mem_append.mp hx with hx | hx
    · have := memCells_ge x hx; omega
    · have := of_decide_eq_true (List.mem_filter.mp hx).2; omega

theorem bytes_length {a n : Nat} : (s.bytes a n).length = n := by simp [State.bytes]

theorem leBytes_length {n v : Nat} : (leBytes n v).length = n := by
  induction n generalizing v with
  | zero => rfl
  | succ n ih => rw [leBytes, List.length_cons, ih]

/-- A change of memory that is known byte by byte lies in the part that has those bytes. -/
theorem keeps_narrow {p : Part} (k : Keeps (.mem :: w) r s t) (hb : ∀ x, ¬ p.stores r s x → t.byte x = s.byte x) :
    Keeps (p :: w) r s t := by
  refine ⟨k.queue, k.good, fun x hx => ?_, k.regs, fun a ha => hb a (ha p List.mem_cons_self)⟩
  rw [List.mem_cons, not_or] at hx
  by_cases hm : x = .mem
  · subst hm; trivial
  · exact k.parts x fun h => (List.mem_cons.mp h).elim hm hx.2

theorem memSet_other {m : List Host.Cell} {a x : Nat} {l : List Byte} (h : x < a ∨ a + l.length ≤ x) :
    sget memDefault (memSet m a l) x = sget memDefault m x := by
  have hc : ∀ e ∈ memCells a l, e.1 ≠ x := fun e he => by have := memCells_ge e he; omega
  have low : ∀ e ∈ m.filter (fun e => decide (e.1 < a)), e.1 < a := fun e he => of_decide_eq_true (List.mem_filter.mp he).2
  have high : ∀ e ∈ m.filter (fun e => decide (a + l.length ≤ e.1)), a + l.length ≤ e.1 := fun e he =>
    of_decide_eq_true (List.mem_filter.mp he).2
  unfold memSet
  by_cases hx : x < a
  · rw [sget_append_right, sget_filter fun e he => decide_eq_true (he ▸ hx)]
    intro e he
    rcases List.mem_append.mp he with he | he
    · exact hc e he
    · have := high e he; omega
  · rw [sget_append_left fun e he => by have := low e he; omega, sget_append_left hc,
      sget_filter fun e he => decide_eq_true (by omega)]

theorem memCells_same {a i : Nat} {l : List Byte} (h : i < l.length) :
    sget memDefault (memCells a l) (a + i) = l[i] := by
  induction l generalizing a i with
  | nil => cases h
  | cons b t ih =>
    rw [memCells]
    cases i with
    | zero =>
      split
      · rename_i hb
        rw [sget_absent fun e he => by have := memCells_ge e he; omega]
        exact hb.symm
      · exact if_pos rfl
    | succ i =>
      have := ih (a := a + 1) (Nat.lt_of_succ_lt_succ h)
      rw [show a + 1 + i = a + (i + 1) by omega] at this
      split
      · exact this
      · rw [sget, if_neg (by omega)]; exact this

theorem memSet_same {m : List Host.Cell} {a i : Nat} {l : List Byte} (h : i < l.length) :
    sget memDefault (memSet m a l) (a + i) = l[i] := by
  unfold memSet
  rw [sget_append_left, sget_append_right, memCells_same h]
  · intro e he
    have := of_decide_eq_true (List.mem_filter.mp he).2
    omega
  · intro e he
    have := of_decide_eq_true (List.mem_filter.mp he).2
    omega

/-- A change that touches no part of memory keeps every byte. -/
theorem keeps_bytes (h : Keeps w r s t) (a : Nat) (hw : w.all (fun p => !p.isBytes) = true := by decide) :
    t.byte a = s.byte a :=
  h.bytes a fun p hp hs => by
    have := List.all_eq_true.mp hw p hp
    cases p <;> first | exact hs | cases this

theorem setByte_keeps (p : Part) {a : Nat} {b : Byte} (hp : p.stores [] s a) : Keeps [p] [] s (s.setByte a b) :=
  keeps_mem keeps_refl swf_sset fun _ hx => sget_sset_other fun e =>
    hx ⟨p, List.mem_singleton.mpr rfl, e ▸ hp⟩

theorem setBytes_keeps (p : Part) {a : Nat} {l : List Byte} (hp : ∀ x, a ≤ x → x < a + l.length → p.stores [] s x) :
    Keeps [p] [] s (s.setBytes a l) :=
  keeps_mem keeps_refl memSet_wf fun x hx => memSet_other (by
    by_cases h : a ≤ x ∧ x < a + l.length
    · exact absurd ⟨p, List.mem_singleton.mpr rfl, hp x h.1 h.2⟩ hx
    · omega)

theorem setFld_keeps {a : Nat} {f : Field} {v : Nat} (h : Keeps w r s0 s) (hc : Covers r a) :
    Keeps w r s0 (s.setFld a f v) := keeps_setReg h hc

theorem setBit_keeps {a : Nat} {f : Field} {v : Bool} (h : Keeps w r s0 s) (hc : Covers r a) :
    Keeps w r s0 (s.setBit a f v) := keeps_setReg h hc

theorem orFld_keeps {a : Nat} {f : Field} {i : Nat} (h : Keeps w r s0 s) (hc : Covers r a) :
    Keeps w r s0 (s.orFld a f i) := keeps_setReg h hc

theorem clrFldBit_keeps {a : Nat} {f : Field} {i : Nat} (h : Keeps w r s0 s) (hc : Covers r a) :
    Keeps w r s0 (s.clrFldBit a f i) := keeps_setReg h hc

theorem count_keeps {a : Nat} {f : Field} {i : Nat} (h : Keeps w r s0 s) (hc : Covers r a) :
    Keeps w r s0 (s.count a f i) := keeps_setReg h hc

theorem writeByCodes_keeps {a : Nat} {x : Word} (h : Keeps w r s0 s) (hc : Covers r a) :
    Keeps w r s0 (s.writeByCodes a x) := by
  unfold State.writeByCodes
  split
  · exact keeps_setReg h hc
  · exact h

theorem clearRC_keeps {a : Nat} (h : Keeps w r s0 s) (hc : Covers r a) : Keeps w r s0 (s.clearRC a) := by
  unfold State.clearRC
  split
  · exact keeps_setReg h hc
  · exact h

theorem setWide_keeps {a x : Nat} (h : Keeps w r s0 s) (hc : Covers r a) (hc' : Covers r (a + 4)) :
    Keeps w r s0 (s.setWide a x) := keeps_setReg (keeps_setReg h hc) hc'

/-! ## Reading after writing -/

@[simp] theorem reg_setReg_same {a : Nat} {x : Word} : (s.setReg a x).reg a = x := sget_sset_same

theorem reg_setReg_other {a b : Nat} {x : Word} (h : b ≠ a) : (s.setReg a x).reg b = s.reg b := sget_sset_other h

@[simp] theorem byte_setByte_same {a : Nat} {x : Byte} : (s.setByte a x).byte a = x := sget_sset_same

theorem byte_setByte_other {a b : Nat} {x : Byte} (h : b ≠ a) : (s.setByte a x).byte b = s.byte b := sget_sset_other h

end Sys2Proof.Laws
end

