-- ==== Sys2Proof/Laws/KeepsOps.lean ====
section
/-! SUPPORT. What each operation of Machine/Ops.lean may change (`Keeps`): the parts of the state and the rows of registers. -/

set_option Elab.async false

namespace Sys2Proof.Laws

open Sys2Proof.Machine

theorem drawnN_keeps {s : State} {n : Nat} :
    Keeps [.freeCtr] [] s (State.drawnN s n) := by
  unfold State.drawnN
  have h0 : Keeps [.freeCtr] [] s s := keeps_refl
  exact keeps_freeCtr h0 _

theorem sourceFills_keeps {s : State} {n : Nat} {wasEmpty : Bool} :
    Keeps [.dma] [] s (State.sourceFills s n wasEmpty) := by
  unfold State.sourceFills
  have h0 : Keeps [.dma] [] s s := keeps_refl
  refine keeps_ite ?_ ?_
  · exact keeps_dma h0 _
  · exact h0

theorem drawn_keeps {s : State} :
    Keeps [.freeCtr] [] s (State.drawn s) := by
  unfold State.drawn
  have h0 : Keeps [.freeCtr] [] s s := keeps_refl
  exact keeps_freeCtr h0 _

theorem setNum_keeps (p : Part) {s : State} {a n v : Nat} (hp : ∀ x, a ≤ x → x < a + n → p.stores [] s x) :
    Keeps [p] [] s (s.setNum a n v) :=
  setBytes_keeps p fun x h1 h2 => hp x h1 (by rwa [leBytes_length] at h2)

end Sys2Proof.Laws
end

