-- ==== Sys2Proof/Laws/KeepsOperands.lean ====
section
/-! SUPPORT. What each operation of Machine/Operands.lean may change (`Keeps`): the parts of the state and the rows of registers. -/

set_option Elab.async false

namespace Sys2Proof.Laws

open Sys2Proof.Machine

theorem errResp_keeps {s : State} {a1 : Requester} :
    Keeps [.resp] [] s (State.errResp s a1) := by
  unfold State.errResp
  have h0 : Keeps [.resp] [] s s := keeps_refl
  exact keeps_resp h0 _

theorem okResp_keeps {s : State} {a1 : Requester} {data : List Byte} :
    Keeps [.resp] [] s (State.okResp s a1 data) := by
  unfold State.okResp
  have h0 : Keeps [.resp] [] s s := keeps_refl
  exact keeps_resp h0 _

end Sys2Proof.Laws
end

