-- ==== Sys2Proof/Laws/KeepsFlags.lean ====
section
/-! SUPPORT. What each operation of Machine/Flags.lean may change (`Keeps`): the parts of the state and the rows of registers. -/

set_option Elab.async false

namespace Sys2Proof.Laws

open Sys2Proof.Machine

theorem written_keeps {s : State} {a1 : Requester} :
    Keeps [.resp] [] s (State.written s a1) := by
  unfold State.written
  have h0 : Keeps [.resp] [] s s := keeps_refl
  exact keeps_step h0 okResp_keeps

theorem kindEvents_keeps {s : State} {kind : Nat} :
    Keeps [] [.FAULT_EVT] s (State.kindEvents s kind) := by
  unfold State.kindEvents
  have h0 : Keeps [] [.FAULT_EVT] s s := keeps_refl
  refine keeps_ite ?_ ?_
  · exact setBit_keeps h0 (covers .FAULT_EVT rfl)
  · refine keeps_ite ?_ ?_
    · exact setBit_keeps h0 (covers .FAULT_EVT rfl)
    · refine keeps_ite ?_ ?_
      · exact setBit_keeps h0 (covers .FAULT_EVT rfl)
      · exact h0

theorem pushRecord_keeps {s : State} {cls : Nat} {what : Nat} {unit : Nat} {payload : List Byte} :
    Keeps [.subs, .lastEvents] [] s (State.pushRecord s cls what unit payload) := by
  unfold State.pushRecord
  have h0 : Keeps [.subs, .lastEvents] [] s s := keeps_refl
  extract_lets -useContext +onlyGivenNames x1
  exact keeps_upd h0

theorem notify_keeps {s : State} {cls : Nat} {what : Nat} {unit : Nat} :
    Keeps [.freeCtr, .subs, .lastEvents] [] s (State.notify s cls what unit) := by
  unfold State.notify
  have h0 : Keeps [.freeCtr, .subs, .lastEvents] [] s s := keeps_refl
  exact keeps_step (keeps_step h0 pushRecord_keeps) drawn_keeps

theorem writeEntry_keeps {s : State} {e : FaultInfo} :
    Keeps [.log, .subs, .lastEvents] [.FAULT_EVT, .FAULT_LOG_WR, .FAULT_LOG_LOST] s (State.writeEntry s e) := by
  unfold State.writeEntry
  extract_lets x1 x2 x3 x4 x5 x6
  have h4 : Keeps [.log, .subs, .lastEvents] [.FAULT_EVT, .FAULT_LOG_WR, .FAULT_LOG_LOST] s x4 :=
    keeps_log keeps_refl (fun _ => by simp only [List.length_take]; omega)
  clear_value x4
  have h5 : Keeps _ _ _ x5 := keeps_setReg h4 (covers .FAULT_LOG_WR rfl)
  clear_value x5
  have h6 : Keeps _ _ _ x6 := keeps_step h5 pushRecord_keeps
  clear_value x6
  split
  · exact setBit_keeps (count_keeps h6 (covers .FAULT_LOG_LOST rfl)) (covers .FAULT_EVT rfl)
  · exact h6

theorem logFault_keeps {s : State} {e : FaultInfo} :
    Keeps [.log, .subs, .lastEvents] [.FAULT_EVT, .FAULT_LOG_WR, .FAULT_LOG_LOST] s (State.logFault s e) := by
  unfold State.logFault
  extract_lets x1
  have h1 : Keeps [.log, .subs, .lastEvents] [.FAULT_EVT, .FAULT_LOG_WR, .FAULT_LOG_LOST] s x1 := by
    unfold x1
    split
    · rename_i n t hl
      split
      · exact keeps_log keeps_refl (fun h => by rw [hl] at h; exact h)
      · exact writeEntry_keeps
    · exact writeEntry_keeps
  clear_value x1
  exact keeps_step h1 kindEvents_keeps

theorem refuse_keeps {s : State} {a1 : Requester} {cause : Nat} :
    Keeps [.resp, .log, .subs, .lastEvents] [.FAULT_EVT, .FAULT_LOG_WR, .FAULT_LOG_LOST] s (State.refuse s a1 cause)
    := by
  unfold State.refuse
  have h0 : Keeps [.resp, .log, .subs, .lastEvents] [.FAULT_EVT, .FAULT_LOG_WR, .FAULT_LOG_LOST] s s := keeps_refl
  exact keeps_step (keeps_step h0 errResp_keeps) logFault_keeps

end Sys2Proof.Laws
end

