-- ==== Sys2Proof/Laws/KeepsLink.lean ====
section
/-! SUPPORT. What each operation of Machine/Link.lean may change (`Keeps`): the parts of the state and the rows of registers. -/

set_option Elab.async false

namespace Sys2Proof.Laws

open Sys2Proof.Machine

theorem execStreamBindWrite_keeps {a1 : Requester} {v : Word} {s : State} :
    ∃ t, execStreamBindWrite a1 v s = .next t ∧ Keeps [.resp] [.LINK_STREAM_BIND] s t := by
  unfold execStreamBindWrite
  have h0 : Keeps [.resp] [.LINK_STREAM_BIND] s s := keeps_refl
  exact ⟨_, rfl, (keeps_step (writeByCodes_keeps h0 (covers .LINK_STREAM_BIND rfl)) written_keeps)⟩

theorem lanePower_keeps {s : State} {lanes : List Nat} {v : Nat} :
    Keeps [] [.LINK_LANEn_STAT] s (State.lanePower s lanes v) := by
  unfold State.lanePower
  have h0 : Keeps [] [.LINK_LANEn_STAT] s s := keeps_refl
  exact keeps_foldl h0 (fun _ _ h1 => (setFld_keeps h1 (covers .LINK_LANEn_STAT ⟨_, rfl⟩)))

theorem setPort_keeps {s : State} {p : Nat} {a1 : PortSt} :
    Keeps [.link] [] s (State.setPort s p a1) := by
  unfold State.setPort
  have h0 : Keeps [.link] [] s s := keeps_refl
  exact keeps_link h0 _

theorem setFifo_keeps {s : State} {a1 : Nat} {l : List FifoPacket} :
    Keeps [.link] [] s (State.setFifo s a1 l) := by
  unfold State.setFifo
  have h0 : Keeps [.link] [] s s := keeps_refl
  exact keeps_link h0 _

theorem nextGen_keeps {s : State} :
    Keeps [] [.LINK_STAT] s (State.nextGen s) := by
  unfold State.nextGen
  have h0 : Keeps [] [.LINK_STAT] s s := keeps_refl
  exact setFld_keeps h0 (covers .LINK_STAT rfl)

theorem setLane_keeps {s : State} {n : Nat} {a1 : LaneSt} :
    Keeps [.link] [] s (State.setLane s n a1) := by
  unfold State.setLane
  have h0 : Keeps [.link] [] s s := keeps_refl
  exact keeps_link h0 _

theorem sendSyms_keeps {s : State} {p : Nat} {len : Nat} {whole : Bool} {f : Nat → List Sym} :
    Keeps [.link] [] s (State.sendSyms s p len whole f) := by
  unfold State.sendSyms
  have h0 : Keeps [.link] [] s s := keeps_refl
  extract_lets -useContext +onlyGivenNames x1 x3 x5 x7 x9
  have h10 : As h0 x9 := keeps_foldl h0 (fun _ _ h11 => (keeps_step h11 setLane_keeps))
  clear_value x9
  exact keeps_step h10 setPort_keeps

theorem freeCredit_keeps {s : State} {p : Nat} {b : Nat} {u : Nat} :
    Keeps [.link] [] s (State.freeCredit s p b u) := by
  unfold State.freeCredit
  have h0 : Keeps [.link] [] s s := keeps_refl
  extract_lets -useContext +onlyGivenNames x1
  exact keeps_step h0 setPort_keeps

theorem refreshRxMask_keeps {s : State} {p : Nat} :
    Keeps [] [.LINK_STAT, .LINK_LANEn_STAT] s (State.refreshRxMask s p) := by
  unfold State.refreshRxMask
  have h0 : Keeps [] [.LINK_STAT, .LINK_LANEn_STAT] s s := keeps_refl
  extract_lets -useContext +onlyGivenNames x1 x3 x5 x7 x9
  have h10 : As h0 x9 := setFld_keeps h0 (covers .LINK_STAT rfl)
  clear_value x9
  exact keeps_foldl h10 (fun _ _ h11 => (setBit_keeps h11 (covers .LINK_LANEn_STAT ⟨_, rfl⟩)))

theorem execEieSetReceived_keeps {p : Fin 2} {s : State} :
    ∃ t, execEieSetReceived p s = .next t ∧ Keeps [.link] [] s t := by
  unfold execEieSetReceived
  have h0 : Keeps [.link] [] s s := keeps_refl
  exact ⟨_, rfl, (keeps_ite (by
        extract_lets -useContext +onlyGivenNames x1 x3
        exact keeps_step h0 setPort_keeps) h0)⟩

theorem wantNak_keeps {s : State} {p : Nat} :
    Keeps [.link] [] s (State.wantNak s p) := by
  unfold State.wantNak
  have h0 : Keeps [.link] [] s s := keeps_refl
  extract_lets -useContext +onlyGivenNames x1
  exact keeps_step h0 setPort_keeps

theorem acceptPacket_keeps {s : State} {p : Nat} {k : Packet} :
    Keeps [.link] [.LINK_Pp_SEQ] s (State.acceptPacket s p k) := by
  unfold State.acceptPacket
  have h0 : Keeps [.link] [.LINK_Pp_SEQ] s s := keeps_refl
  extract_lets -useContext +onlyGivenNames x1 x3 x5 x7 x9
  have h10 : As h0 x9 := keeps_step h0 setPort_keeps
  clear_value x9
  exact setFld_keeps h10 (covers .LINK_Pp_SEQ ⟨_, rfl⟩)

theorem execStreamDataPacket_keeps {p : Fin 2} {s : State} :
    ∃ t, execStreamDataPacket p s = .next t ∧ Keeps [.link, .dma] [] s t := by
  unfold execStreamDataPacket
  have h0 : Keeps [.link, .dma] [] s s := keeps_refl
  exact ⟨_, rfl, (by
        split
        · exact h0
        · extract_lets -useContext +onlyGivenNames x1 x3 x5
          have h4 : As h0 x3 := keeps_step h0 setPort_keeps
          clear_value x3
          exact keeps_step (keeps_step h4 sourceFills_keeps) setFifo_keeps)⟩

theorem takeAck_keeps {s : State} {p : Nat} {ack : Nat} :
    Keeps [.link] [.LINK_Pp_SEQ] s (State.takeAck s p ack) := by
  unfold State.takeAck
  have h0 : Keeps [.link] [.LINK_Pp_SEQ] s s := keeps_refl
  extract_lets -useContext +onlyGivenNames x1 x3
  refine keeps_ite ?_ ?_
  · exact setFld_keeps (keeps_step h0 setPort_keeps) (covers .LINK_Pp_SEQ ⟨_, rfl⟩)
  · exact h0

theorem drainStream_keeps {s : State} {a1 : Nat} {n : Nat} :
    Keeps [.link] [] s (State.drainStream s a1 n).2 := by
  unfold State.drainStream
  have h0 : Keeps [.link] [] s s := keeps_refl
  split
  · exact keeps_foldl (keeps_step h0 setFifo_keeps) (fun _ _ h2 => (keeps_step h2 freeCredit_keeps))

theorem execSymbolLock_keeps {n : Fin 8} {inverted : Bool} {s : State} :
    ∃ t, execSymbolLock n inverted s = .next t ∧ Keeps [.link] [.LINK_LANEn_STAT] s t := by
  unfold execSymbolLock
  have h0 : Keeps [.link] [.LINK_LANEn_STAT] s s := keeps_refl
  exact ⟨_, rfl, (keeps_ite (keeps_step (setBit_keeps h0 (covers .LINK_LANEn_STAT ⟨_, rfl⟩)) setLane_keeps) h0)⟩

theorem linkReadmitWrite_keeps {s : State} {v : Word} :
    Keeps [.link] [.LINK_LANEn_STAT] s (State.linkReadmitWrite s v) := by
  unfold State.linkReadmitWrite
  have h0 : Keeps [.link] [.LINK_LANEn_STAT] s s := keeps_refl
  exact keeps_foldl h0 (fun _ _ h1 => (keeps_ite (by
        extract_lets -useContext +onlyGivenNames x2 x4 x6 x8 x10 x12 x14
        have h5 : As h0 x4 := setBit_keeps h1 (covers .LINK_LANEn_STAT ⟨_, rfl⟩)
        clear_value x4
        have h7 : As h0 x6 := setBit_keeps h5 (covers .LINK_LANEn_STAT ⟨_, rfl⟩)
        clear_value x6
        have h9 : As h0 x8 := setFld_keeps h7 (covers .LINK_LANEn_STAT ⟨_, rfl⟩)
        clear_value x8
        have h15 : As h0 x14 := keeps_step h9 setLane_keeps
        clear_value x14
        exact keeps_step h15 setPort_keeps) h1))

theorem execSkipSetReceived_keeps {n : Fin 8} {insert : Bool} {s : State} :
    ∃ t, execSkipSetReceived n insert s = .next t ∧ Keeps [.link] [] s t := by
  unfold execSkipSetReceived
  have h0 : Keeps [.link] [] s s := keeps_refl
  exact ⟨_, rfl, (keeps_step h0 setLane_keeps)⟩

theorem sendSet_keeps {s : State} {p : Nat} {times : Nat} {o : OrderedSet} :
    Keeps [.link] [] s (State.sendSet s p times o) := by
  unfold State.sendSet
  have h0 : Keeps [.link] [] s s := keeps_refl
  extract_lets -useContext +onlyGivenNames x1 x3
  have h4 : As h0 x3 := keeps_step h0 setPort_keeps
  clear_value x3
  exact keeps_step h4 sendSyms_keeps

theorem enterStandby_keeps {s : State} {p : Nat} :
    Keeps [.link] [.LINK_STAT, .LINK_LANEn_STAT] s (State.enterStandby s p) := by
  unfold State.enterStandby
  have h0 : Keeps [.link] [.LINK_STAT, .LINK_LANEn_STAT] s s := keeps_refl
  extract_lets -useContext +onlyGivenNames x1
  have h2 : As h0 x1 := keeps_step h0 sendSet_keeps
  clear_value x1
  exact keeps_step (setFld_keeps h2 (covers .LINK_STAT rfl)) lanePower_keeps

theorem judgeSeq_keeps {s : State} {p : Nat} {valid : Bool} {k : Packet} :
    Keeps [.log, .link, .subs, .lastEvents] [.LINK_EVT, .LINK_Pp_DUP, .LINK_Pp_SEQERR, .LINK_Pp_SEQ, .FAULT_EVT,
    .FAULT_LOG_WR, .FAULT_LOG_LOST] s (State.judgeSeq s p valid k) := by
  unfold State.judgeSeq
  have h0 : Keeps [.log, .link, .subs, .lastEvents] [.LINK_EVT, .LINK_Pp_DUP, .LINK_Pp_SEQERR, .LINK_Pp_SEQ,
      .FAULT_EVT, .FAULT_LOG_WR, .FAULT_LOG_LOST] s s := keeps_refl
  extract_lets -useContext +onlyGivenNames x1
  refine keeps_ite ?_ ?_
  · refine keeps_ite ?_ ?_
    · exact keeps_step h0 wantNak_keeps
    · refine keeps_ite ?_ ?_
      · exact keeps_step (setBit_keeps (keeps_step h0 wantNak_keeps) (covers .LINK_EVT rfl)) logFault_keeps
      · exact keeps_step h0 acceptPacket_keeps
  · refine keeps_ite ?_ ?_
    · exact keeps_step h0 wantNak_keeps
    · refine keeps_ite ?_ ?_
      · extract_lets -useContext +onlyGivenNames x3 x5
        have h4 : As h0 x3 := count_keeps h0 (covers .LINK_Pp_DUP ⟨_, rfl⟩)
        clear_value x3
        exact keeps_step h4 setPort_keeps
      · exact keeps_step (count_keeps h0 (covers .LINK_Pp_SEQERR ⟨_, rfl⟩)) wantNak_keeps

theorem exitStandby_keeps {s : State} {p : Nat} :
    Keeps [.link] [.LINK_STAT, .LINK_LANEn_STAT] s (State.exitStandby s p) := by
  unfold State.exitStandby
  have h0 : Keeps [.link] [.LINK_STAT, .LINK_LANEn_STAT] s s := keeps_refl
  exact keeps_step (keeps_step (setFld_keeps h0 (covers .LINK_STAT rfl)) lanePower_keeps) sendSet_keeps

theorem execLinkReadmit_keeps {a1 : Requester} {v : Word} {s : State} :
    ∃ t, execLinkReadmit a1 v s = .next t ∧ Keeps [.resp, .link] [.LINK_LANEn_STAT] s t := by
  unfold execLinkReadmit
  have h0 : Keeps [.resp, .link] [.LINK_LANEn_STAT] s s := keeps_refl
  exact ⟨_, rfl, (keeps_step (keeps_step h0 linkReadmitWrite_keeps) written_keeps)⟩

theorem portDown_keeps {s : State} {p : Nat} {kind : Nat} :
    Keeps [.log, .link, .subs, .lastEvents] [.LINK_STAT, .LINK_EVT, .FAULT_EVT, .FAULT_LOG_WR, .FAULT_LOG_LOST] s
    (State.portDown s p kind) := by
  unfold State.portDown
  have h0 : Keeps [.log, .link, .subs, .lastEvents] [.LINK_STAT, .LINK_EVT, .FAULT_EVT, .FAULT_LOG_WR,
      .FAULT_LOG_LOST] s s := keeps_refl
  refine keeps_ite ?_ ?_
  · extract_lets -useContext +onlyGivenNames x1 x3 x5 x7
    have h4 : As h0 x3 := keeps_step h0 setPort_keeps
    clear_value x3
    have h6 : As h0 x5 := setBit_keeps h4 (covers .LINK_STAT rfl)
    clear_value x5
    have h8 : As h0 x7 := setBit_keeps h6 (covers .LINK_EVT rfl)
    clear_value x7
    exact keeps_step h8 logFault_keeps
  · exact h0

theorem badPacket_keeps {s : State} {p : Nat} {bytes : List Byte} :
    Keeps [.log, .link, .subs, .lastEvents] [.LINK_EVT, .LINK_Pp_CRCERR, .LINK_Pp_DUP, .LINK_Pp_SEQERR, .LINK_Pp_SEQ,
    .FAULT_EVT, .FAULT_LOG_WR, .FAULT_LOG_LOST] s (State.badPacket s p bytes) := by
  unfold State.badPacket
  have h0 : Keeps [.log, .link, .subs, .lastEvents] [.LINK_EVT, .LINK_Pp_CRCERR, .LINK_Pp_DUP, .LINK_Pp_SEQERR,
      .LINK_Pp_SEQ, .FAULT_EVT, .FAULT_LOG_WR, .FAULT_LOG_LOST] s s := keeps_refl
  extract_lets -useContext +onlyGivenNames x1
  have h2 : As h0 x1 := keeps_step (count_keeps h0 (covers .LINK_Pp_CRCERR ⟨_, rfl⟩)) logFault_keeps
  clear_value x1
  refine keeps_ite ?_ ?_
  · exact h2
  · exact keeps_step h2 judgeSeq_keeps

theorem transmit_keeps {s : State} {p : Nat} {nak : Bool} {l : List Packet} :
    Keeps [.link] [.LINK_STAT, .LINK_LANEn_STAT] s (State.transmit s p nak l) := by
  unfold State.transmit
  have h0 : Keeps [.link] [.LINK_STAT, .LINK_LANEn_STAT] s s := keeps_refl
  refine keeps_ite ?_ ?_
  · exact h0
  · extract_lets -useContext +onlyGivenNames x1 x3 x5 x7
    have h2 : As h0 x1 := keeps_ite (keeps_step h0 exitStandby_keeps) h0
    clear_value x1
    have h8 : As h0 x7 := keeps_step h2 sendSyms_keeps
    clear_value x7
    exact keeps_step h8 setPort_keeps

theorem settleDormant_keeps {s : State} {p : Nat} :
    Keeps [.link] [.LINK_STAT, .LINK_LANEn_STAT] s (State.settleDormant s p) := by
  unfold State.settleDormant
  have h0 : Keeps [.link] [.LINK_STAT, .LINK_LANEn_STAT] s s := keeps_refl
  extract_lets -useContext +onlyGivenNames x1
  refine keeps_ite ?_ ?_
  · extract_lets -useContext +onlyGivenNames x3
    have h4 : As h0 x3 := keeps_step (keeps_step h0 setPort_keeps) sendSet_keeps
    clear_value x3
    exact keeps_step (setFld_keeps h4 (covers .LINK_STAT rfl)) lanePower_keeps
  · exact h0

theorem pump_keeps {s : State} {p : Nat} :
    Keeps [.link] [.LINK_STAT, .LINK_LANEn_STAT] s (State.pump s p) := by
  unfold State.pump
  have h0 : Keeps [.link] [.LINK_STAT, .LINK_LANEn_STAT] s s := keeps_refl
  refine keeps_ite ?_ ?_
  · extract_lets -useContext +onlyGivenNames x1 x3 x5
    exact keeps_step (keeps_step (keeps_step h0 setPort_keeps) transmit_keeps) settleDormant_keeps
  · exact h0

theorem execIdleTimerExpiry_keeps {p : Fin 2} {s : State} :
    ∃ t, execIdleTimerExpiry p s = .next t ∧ Keeps [.link] [.LINK_STAT, .LINK_LANEn_STAT] s t := by
  unfold execIdleTimerExpiry
  have h0 : Keeps [.link] [.LINK_STAT, .LINK_LANEn_STAT] s s := keeps_refl
  exact ⟨_, rfl, (by
        extract_lets -useContext +onlyGivenNames x1
        refine keeps_ite ?_ ?_
        · exact keeps_step h0 enterStandby_keeps
        · exact h0)⟩

theorem qualError_keeps {s : State} {n : Nat} :
    Keeps [.log, .link, .subs, .lastEvents] [.LINK_EVT, .LINK_LANEn_STAT, .FAULT_EVT, .FAULT_LOG_WR, .FAULT_LOG_LOST]
    s (State.qualError s n) := by
  unfold State.qualError
  have h0 : Keeps [.log, .link, .subs, .lastEvents] [.LINK_EVT, .LINK_LANEn_STAT, .FAULT_EVT, .FAULT_LOG_WR,
      .FAULT_LOG_LOST] s s := keeps_refl
  extract_lets -useContext +onlyGivenNames x1
  refine keeps_ite ?_ ?_
  · refine keeps_ite ?_ ?_
    · exact keeps_step h0 setLane_keeps
    · extract_lets -useContext +onlyGivenNames x3 x5 x7
      have h4 : As h0 x3 := setFld_keeps (setBit_keeps h0 (covers .LINK_LANEn_STAT ⟨_, rfl⟩)) (covers
          .LINK_LANEn_STAT ⟨_, rfl⟩)
      clear_value x3
      have h8 : As h0 x7 := setBit_keeps (keeps_step h4 setLane_keeps) (covers .LINK_EVT rfl)
      clear_value x7
      exact keeps_step h8 logFault_keeps
  · exact h0

theorem execPortUp_keeps {p : Fin 2} {skews : List Nat} {s : State} :
    ∃ t, execPortUp p skews s = .next t ∧ Keeps [.link] [.LINK_STAT, .LINK_LANEn_STAT] s t := by
  unfold execPortUp
  have h0 : Keeps [.link] [.LINK_STAT, .LINK_LANEn_STAT] s s := keeps_refl
  exact ⟨_, rfl, (by
        extract_lets -useContext +onlyGivenNames x1 x3
        refine keeps_ite ?_ ?_
        · extract_lets -useContext +onlyGivenNames x5 x7 x9 x11 x13 x16 x18 x20 x22
          have h14 : As h0 x13 := keeps_foldl h0 (fun _ _ h15 => (setFld_keeps (setBit_keeps h15 (covers
              .LINK_LANEn_STAT ⟨_, rfl⟩)) (covers .LINK_LANEn_STAT ⟨_, rfl⟩)))
          clear_value x13
          have h17 : As h0 x16 := keeps_step h14 setPort_keeps
          clear_value x16
          have h21 : As h0 x20 := setFld_keeps h17 (covers .LINK_STAT rfl)
          clear_value x20
          have h23 : As h0 x22 := keeps_step (keeps_step h21 sendSet_keeps) refreshRxMask_keeps
          clear_value x22
          exact keeps_step (setBit_keeps h23 (covers .LINK_STAT rfl)) pump_keeps
        · exact h0)⟩

theorem replay_keeps {s : State} {p : Nat} :
    Keeps [.link] [.LINK_STAT, .LINK_LANEn_STAT] s (State.replay s p) := by
  unfold State.replay
  have h0 : Keeps [.link] [.LINK_STAT, .LINK_LANEn_STAT] s s := keeps_refl
  extract_lets -useContext +onlyGivenNames x1
  exact keeps_step (keeps_step h0 setPort_keeps) transmit_keeps

theorem laneErrors_keeps {s : State} {n : Nat} {code : Nat} {disp : Nat} :
    Keeps [.log, .link, .subs, .lastEvents] [.LINK_EVT, .LINK_LANEn_STAT, .LINK_LANEn_CODEERR, .LINK_LANEn_DISPERR,
    .FAULT_EVT, .FAULT_LOG_WR, .FAULT_LOG_LOST] s (State.laneErrors s n code disp) := by
  unfold State.laneErrors
  have h0 : Keeps [.log, .link, .subs, .lastEvents] [.LINK_EVT, .LINK_LANEn_STAT, .LINK_LANEn_CODEERR,
      .LINK_LANEn_DISPERR, .FAULT_EVT, .FAULT_LOG_WR, .FAULT_LOG_LOST] s s := keeps_refl
  refine keeps_ite ?_ ?_
  · extract_lets -useContext +onlyGivenNames x1 x3 x5 x7 x9
    have h6 : As h0 x5 := count_keeps h0 (covers .LINK_LANEn_CODEERR ⟨_, rfl⟩)
    clear_value x5
    have h8 : As h0 x7 := count_keeps h6 (covers .LINK_LANEn_DISPERR ⟨_, rfl⟩)
    clear_value x7
    have h10 : As h0 x9 := keeps_step h8 setLane_keeps
    clear_value x9
    refine keeps_ite ?_ ?_
    · exact keeps_step h10 qualError_keeps
    · exact h10
  · exact h0

theorem queuePacket_keeps {s : State} {p : Nat} {k : Packet} :
    Keeps [.link] [.LINK_STAT, .LINK_LANEn_STAT] s (State.queuePacket s p k) := by
  unfold State.queuePacket
  have h0 : Keeps [.link] [.LINK_STAT, .LINK_LANEn_STAT] s s := keeps_refl
  refine keeps_ite ?_ ?_
  · exact keeps_step (keeps_step h0 setPort_keeps) pump_keeps
  · exact h0

theorem sendLaneMarker_keeps {s : State} {p : Nat} :
    Keeps [.link] [.LINK_STAT, .LINK_LANEn_STAT] s (State.sendLaneMarker s p) := by
  unfold State.sendLaneMarker
  have h0 : Keeps [.link] [.LINK_STAT, .LINK_LANEn_STAT] s s := keeps_refl
  extract_lets -useContext +onlyGivenNames x1
  refine keeps_ite ?_ ?_
  · exact keeps_step h0 sendSet_keeps
  · refine keeps_ite ?_ ?_
    · exact keeps_step h0 exitStandby_keeps
    · exact h0

theorem execLinkDormantAnswer_keeps {p : Fin 2} {s : State} :
    ∃ t, execLinkDormantAnswer p s = .next t ∧ Keeps [.link] [.LINK_STAT, .LINK_EVT, .LINK_LANEn_STAT] s t := by
  unfold execLinkDormantAnswer
  have h0 : Keeps [.link] [.LINK_STAT, .LINK_EVT, .LINK_LANEn_STAT] s s := keeps_refl
  exact ⟨_, rfl, (by
        split
        · exact h0
        · extract_lets -useContext +onlyGivenNames x1 x3
          have h4 : As h0 x3 := keeps_step h0 setPort_keeps
          clear_value x3
          refine keeps_ite ?_ ?_
          · exact h4
          · refine keeps_ite ?_ ?_
            · exact keeps_step (keeps_step h4 setPort_keeps) settleDormant_keeps
            · exact setBit_keeps (keeps_step h4 setPort_keeps) (covers .LINK_EVT rfl))⟩

theorem execReplayTimeout_keeps {p : Fin 2} {s : State} :
    ∃ t, execReplayTimeout p s = .next t ∧ Keeps [.link] [.LINK_STAT, .LINK_LANEn_STAT] s t := by
  unfold execReplayTimeout
  have h0 : Keeps [.link] [.LINK_STAT, .LINK_LANEn_STAT] s s := keeps_refl
  exact ⟨_, rfl, (keeps_ite (keeps_step h0 replay_keeps) h0)⟩

theorem leaveStandby_keeps {s : State} {p : Nat} :
    Keeps [.link] [.LINK_STAT, .LINK_LANEn_STAT] s (State.leaveStandby s p) := by
  unfold State.leaveStandby
  have h0 : Keeps [.link] [.LINK_STAT, .LINK_LANEn_STAT] s s := keeps_refl
  exact keeps_step (keeps_step h0 exitStandby_keeps) pump_keeps

theorem execNakReceived_keeps {p : Fin 2} {s : State} :
    ∃ t, execNakReceived p s = .next t ∧ Keeps [.link] [.LINK_STAT, .LINK_Pp_NAKRX, .LINK_Pp_SEQ, .LINK_LANEn_STAT] s
    t := by
  unfold execNakReceived
  have h0 : Keeps [.link] [.LINK_STAT, .LINK_Pp_NAKRX, .LINK_Pp_SEQ, .LINK_LANEn_STAT] s s := keeps_refl
  exact ⟨_, rfl, (by
        split
        · exact h0
        · extract_lets -useContext +onlyGivenNames x1 x3 x5
          have h4 : As h0 x3 := keeps_step h0 setPort_keeps
          clear_value x3
          have h6 : As h0 x5 := keeps_step (count_keeps h4 (covers .LINK_Pp_NAKRX ⟨_, rfl⟩)) takeAck_keeps
          clear_value x5
          refine keeps_ite ?_ ?_
          · exact keeps_step (keeps_step (keeps_step h6 replay_keeps) pump_keeps) settleDormant_keeps
          · exact h6)⟩

theorem sendCredit_keeps {s : State} {p : Nat} {nak : Bool} :
    Keeps [.link] [.LINK_STAT, .LINK_LANEn_STAT] s (State.sendCredit s p nak) := by
  unfold State.sendCredit
  have h0 : Keeps [.link] [.LINK_STAT, .LINK_LANEn_STAT] s s := keeps_refl
  extract_lets -useContext +onlyGivenNames x1 x3
  have h4 : As h0 x3 := keeps_step h0 setPort_keeps
  clear_value x3
  exact keeps_step h4 transmit_keeps

theorem sendEvent_keeps {s : State} {p : Nat} {code : Nat} {payload : List Byte} :
    Keeps [.link] [.LINK_STAT, .LINK_LANEn_STAT] s (State.sendEvent s p code payload) := by
  unfold State.sendEvent
  have h0 : Keeps [.link] [.LINK_STAT, .LINK_LANEn_STAT] s s := keeps_refl
  exact keeps_step h0 queuePacket_keeps

theorem takeHeaderAck_keeps {s : State} {p : Nat} {bytes : List Byte} :
    Keeps [.link] [.LINK_STAT, .LINK_Pp_SEQ, .LINK_LANEn_STAT] s (State.takeHeaderAck s p bytes) := by
  unfold State.takeHeaderAck
  have h0 : Keeps [.link] [.LINK_STAT, .LINK_Pp_SEQ, .LINK_LANEn_STAT] s s := keeps_refl
  extract_lets -useContext +onlyGivenNames x1 x3
  have h4 : As h0 x3 := keeps_ite (keeps_step h0 takeAck_keeps) h0
  clear_value x3
  refine keeps_ite ?_ ?_
  · exact keeps_step h4 setPort_keeps
  · refine keeps_ite ?_ ?_
    · exact keeps_step (keeps_step h4 pump_keeps) settleDormant_keeps
    · exact h4

theorem execCreditUpdateSend_keeps {p : Fin 2} {s : State} :
    ∃ t, execCreditUpdateSend p s = .next t ∧ Keeps [.link] [.LINK_STAT, .LINK_LANEn_STAT] s t := by
  unfold execCreditUpdateSend
  have h0 : Keeps [.link] [.LINK_STAT, .LINK_LANEn_STAT] s s := keeps_refl
  exact ⟨_, rfl, (by
        extract_lets -useContext +onlyGivenNames x1
        refine keeps_ite ?_ ?_
        · exact keeps_step (keeps_step h0 setPort_keeps) sendCredit_keeps
        · exact h0)⟩

theorem execCreditPacketReceived_keeps {p : Fin 2} {s : State} :
    ∃ t, execCreditPacketReceived p s = .next t ∧ Keeps [.link] [.LINK_STAT, .LINK_LANEn_STAT] s t := by
  unfold execCreditPacketReceived
  have h0 : Keeps [.link] [.LINK_STAT, .LINK_LANEn_STAT] s s := keeps_refl
  exact ⟨_, rfl, (by
        split
        · exact h0
        · extract_lets -useContext +onlyGivenNames x1 x3 x5 x7
          exact keeps_step (keeps_step h0 setPort_keeps) pump_keeps)⟩

theorem startPort_keeps {s : State} {p : Nat} :
    Keeps [.link] [.LINK_STAT, .LINK_Pp_SEQ, .LINK_LANEn_STAT] s (State.startPort s p) := by
  unfold State.startPort
  have h0 : Keeps [.link] [.LINK_STAT, .LINK_Pp_SEQ, .LINK_LANEn_STAT] s s := keeps_refl
  extract_lets -useContext +onlyGivenNames x1
  refine keeps_ite ?_ ?_
  · exact h0
  · extract_lets -useContext +onlyGivenNames x3 x5 x7 x9 x12 x14 x16
    have h8 : As h0 x7 := keeps_step h0 setPort_keeps
    clear_value x7
    have h10 : As h0 x9 := keeps_foldl h8 (fun _ _ h11 => (keeps_step (keeps_setReg h11 (covers .LINK_LANEn_STAT ⟨_,
        rfl⟩)) setLane_keeps))
    clear_value x9
    have h13 : As h0 x12 := keeps_setReg h10 (covers .LINK_Pp_SEQ ⟨_, rfl⟩)
    clear_value x12
    have h15 : As h0 x14 := setFld_keeps h13 (covers .LINK_STAT rfl)
    clear_value x14
    have h17 : As h0 x16 := setFld_keeps (setBit_keeps h15 (covers .LINK_STAT rfl)) (covers .LINK_STAT rfl)
    clear_value x16
    exact keeps_step h17 sendLaneMarker_keeps

theorem execLaneQualificationComplete_keeps {n : Fin 8} {skew : Nat} {s : State} :
    ∃ t, execLaneQualificationComplete n skew s = .next t ∧ Keeps [.log, .link, .subs, .lastEvents] [.LINK_STAT,
    .LINK_EVT, .LINK_LANEn_STAT, .FAULT_EVT, .FAULT_LOG_WR, .FAULT_LOG_LOST] s t := by
  unfold execLaneQualificationComplete
  have h0 : Keeps [.log, .link, .subs, .lastEvents] [.LINK_STAT, .LINK_EVT, .LINK_LANEn_STAT, .FAULT_EVT,
      .FAULT_LOG_WR, .FAULT_LOG_LOST] s s := keeps_refl
  exact ⟨_, rfl, (by
        extract_lets -useContext +onlyGivenNames x1 x3
        refine keeps_ite ?_ ?_
        · extract_lets -useContext +onlyGivenNames x5 x7 x9 x11 x13 x15
          have h6 : As h0 x5 := setBit_keeps (setBit_keeps h0 (covers .LINK_LANEn_STAT ⟨_, rfl⟩)) (covers
              .LINK_LANEn_STAT ⟨_, rfl⟩)
          clear_value x5
          have h8 : As h0 x7 := setFld_keeps (setBit_keeps h6 (covers .LINK_LANEn_STAT ⟨_, rfl⟩)) (covers
              .LINK_LANEn_STAT ⟨_, rfl⟩)
          clear_value x7
          have h12 : As h0 x11 := keeps_step h8 setPort_keeps
          clear_value x11
          have h14 : As h0 x13 := keeps_step (keeps_step (keeps_step h12 nextGen_keeps) sendLaneMarker_keeps)
              refreshRxMask_keeps
          clear_value x13
          have h16 : As h0 x15 := orFld_keeps h14 (covers .LINK_EVT rfl)
          clear_value x15
          exact keeps_step h16 logFault_keeps
        · exact h0)⟩

theorem retireLane_keeps {s : State} {k : Nat} :
    Keeps [.log, .link, .subs, .lastEvents] [.LINK_STAT, .LINK_EVT, .LINK_LANEn_STAT, .FAULT_EVT, .FAULT_LOG_WR,
    .FAULT_LOG_LOST] s (State.retireLane s k) := by
  unfold State.retireLane
  have h0 : Keeps [.log, .link, .subs, .lastEvents] [.LINK_STAT, .LINK_EVT, .LINK_LANEn_STAT, .FAULT_EVT,
      .FAULT_LOG_WR, .FAULT_LOG_LOST] s s := keeps_refl
  extract_lets -useContext +onlyGivenNames x1 x3
  refine keeps_ite ?_ ?_
  · exact h0
  · extract_lets -useContext +onlyGivenNames x5 x7 x9 x11 x13 x15 x17 x19 x21 x23
    have h8 : As h0 x7 := setBit_keeps h0 (covers .LINK_LANEn_STAT ⟨_, rfl⟩)
    clear_value x7
    have h10 : As h0 x9 := setBit_keeps h8 (covers .LINK_LANEn_STAT ⟨_, rfl⟩)
    clear_value x9
    have h12 : As h0 x11 := setFld_keeps h10 (covers .LINK_LANEn_STAT ⟨_, rfl⟩)
    clear_value x11
    have h16 : As h0 x15 := keeps_step h12 setLane_keeps
    clear_value x15
    have h18 : As h0 x17 := keeps_step h16 setPort_keeps
    clear_value x17
    have h20 : As h0 x19 := keeps_step (keeps_step (keeps_step h18 nextGen_keeps) sendLaneMarker_keeps)
        refreshRxMask_keeps
    clear_value x19
    have h22 : As h0 x21 := orFld_keeps h20 (covers .LINK_EVT rfl)
    clear_value x21
    have h24 : As h0 x23 := keeps_step h22 logFault_keeps
    clear_value x23
    refine keeps_ite ?_ ?_
    · exact keeps_step h24 portDown_keeps
    · exact h24

theorem execSymbolLockLoss_keeps {n : Fin 8} {s : State} :
    ∃ t, execSymbolLockLoss n s = .next t ∧ Keeps [.log, .link, .subs, .lastEvents] [.LINK_STAT, .LINK_EVT,
    .LINK_LANEn_STAT, .LINK_LANEn_LOCKLOSS, .FAULT_EVT, .FAULT_LOG_WR, .FAULT_LOG_LOST] s t := by
  unfold execSymbolLockLoss
  have h0 : Keeps [.log, .link, .subs, .lastEvents] [.LINK_STAT, .LINK_EVT, .LINK_LANEn_STAT, .LINK_LANEn_LOCKLOSS,
      .FAULT_EVT, .FAULT_LOG_WR, .FAULT_LOG_LOST] s s := keeps_refl
  exact ⟨_, rfl, (keeps_ite h0 (by
        extract_lets -useContext +onlyGivenNames x1
        have h2 : As h0 x1 := count_keeps h0 (covers .LINK_LANEn_LOCKLOSS ⟨_, rfl⟩)
        clear_value x1
        exact keeps_step (keeps_step (setBit_keeps h2 (covers .LINK_LANEn_STAT ⟨_, rfl⟩)) qualError_keeps)
            retireLane_keeps))⟩

theorem execReadmitAbandon_keeps {n : Fin 8} {rd : Bool} {syms : List (BitVec 10)} {s : State} :
    ∃ t, execReadmitAbandon n rd syms s = .next t ∧ Keeps [.log, .link, .subs, .lastEvents] [.LINK_EVT,
    .LINK_LANEn_STAT, .LINK_LANEn_CODEERR, .LINK_LANEn_DISPERR, .FAULT_EVT, .FAULT_LOG_WR, .FAULT_LOG_LOST] s t := by
  unfold execReadmitAbandon
  have h0 : Keeps [.log, .link, .subs, .lastEvents] [.LINK_EVT, .LINK_LANEn_STAT, .LINK_LANEn_CODEERR,
      .LINK_LANEn_DISPERR, .FAULT_EVT, .FAULT_LOG_WR, .FAULT_LOG_LOST] s s := keeps_refl
  exact ⟨_, rfl, (keeps_ite (keeps_step h0 laneErrors_keeps) h0)⟩

theorem execLinkDormantRequest_keeps {p : Fin 2} {s : State} :
    ∃ t, execLinkDormantRequest p s = .next t ∧ Keeps [.link] [.LINK_STAT, .LINK_EVT, .LINK_LANEn_STAT] s t := by
  unfold execLinkDormantRequest
  have h0 : Keeps [.link] [.LINK_STAT, .LINK_EVT, .LINK_LANEn_STAT] s s := keeps_refl
  exact ⟨_, rfl, (by
        split
        · exact h0
        · extract_lets -useContext +onlyGivenNames x1 x3
          have h4 : As h0 x3 := keeps_step h0 setPort_keeps
          clear_value x3
          refine keeps_ite ?_ ?_
          · exact keeps_step (setBit_keeps h4 (covers .LINK_EVT rfl)) sendEvent_keeps
          · extract_lets -useContext +onlyGivenNames x5
            have h6 : As h0 x5 := keeps_step h4 sendEvent_keeps
            clear_value x5
            exact keeps_step (keeps_step h6 setPort_keeps) settleDormant_keeps)⟩

theorem realign_keeps {s : State} {p : Nat} :
    Keeps [.link] [.LINK_STAT, .LINK_LANEn_STAT] s (State.realign s p) := by
  unfold State.realign
  have h0 : Keeps [.link] [.LINK_STAT, .LINK_LANEn_STAT] s s := keeps_refl
  extract_lets -useContext +onlyGivenNames x1 x3 x6 x8
  have h4 : As h0 x3 := keeps_foldl h0 (fun _ _ h5 => (keeps_step (setBit_keeps (setBit_keeps h5 (covers
      .LINK_LANEn_STAT ⟨_, rfl⟩)) (covers .LINK_LANEn_STAT ⟨_, rfl⟩)) setLane_keeps))
  clear_value x3
  have h9 : As h0 x8 := keeps_step h4 setPort_keeps
  clear_value x8
  exact keeps_step (keeps_step (setFld_keeps h9 (covers .LINK_STAT rfl)) lanePower_keeps) sendLaneMarker_keeps

theorem judgeLane_keeps {s : State} {n : Nat} :
    Keeps [.log, .link, .subs, .lastEvents] [.LINK_STAT, .LINK_EVT, .LINK_LANEn_STAT, .FAULT_EVT, .FAULT_LOG_WR,
    .FAULT_LOG_LOST] s (State.judgeLane s n) := by
  unfold State.judgeLane
  have h0 : Keeps [.log, .link, .subs, .lastEvents] [.LINK_STAT, .LINK_EVT, .LINK_LANEn_STAT, .FAULT_EVT,
      .FAULT_LOG_WR, .FAULT_LOG_LOST] s s := keeps_refl
  extract_lets -useContext +onlyGivenNames x1
  refine keeps_ite ?_ ?_
  · exact keeps_step h0 retireLane_keeps
  · exact h0

theorem execSignalDetectWake_keeps {p : Fin 2} {s : State} :
    ∃ t, execSignalDetectWake p s = .next t ∧ Keeps [.link] [.LINK_STAT, .LINK_LANEn_STAT] s t := by
  unfold execSignalDetectWake
  have h0 : Keeps [.link] [.LINK_STAT, .LINK_LANEn_STAT] s s := keeps_refl
  exact ⟨_, rfl, (keeps_ite (keeps_step h0 realign_keeps) h0)⟩

theorem execStandbyExit_keeps {p : Fin 2} {s : State} :
    ∃ t, execStandbyExit p s = .next t ∧ Keeps [.link] [.LINK_STAT, .LINK_LANEn_STAT] s t := by
  unfold execStandbyExit
  have h0 : Keeps [.link] [.LINK_STAT, .LINK_LANEn_STAT] s s := keeps_refl
  exact ⟨_, rfl, (keeps_ite (keeps_step h0 leaveStandby_keeps) h0)⟩

theorem execAckTimerExpiry_keeps {p : Fin 2} {s : State} :
    ∃ t, execAckTimerExpiry p s = .next t ∧ Keeps [.link] [.LINK_STAT, .LINK_LANEn_STAT] s t := by
  unfold execAckTimerExpiry
  have h0 : Keeps [.link] [.LINK_STAT, .LINK_LANEn_STAT] s s := keeps_refl
  exact ⟨_, rfl, (keeps_ite (keeps_step h0 sendCredit_keeps) h0)⟩

theorem followHostRxm_keeps {s : State} {p : Nat} :
    Keeps [.link] [.LINK_STAT, .LINK_LANEn_STAT] s (State.followHostRxm s p) := by
  unfold State.followHostRxm
  have h0 : Keeps [.link] [.LINK_STAT, .LINK_LANEn_STAT] s s := keeps_refl
  extract_lets -useContext +onlyGivenNames x1 x3 x5 x7 x9
  refine keeps_ite ?_ ?_
  · exact h0
  · exact keeps_step (keeps_step (setFld_keeps h0 (covers .LINK_STAT rfl)) nextGen_keeps) sendLaneMarker_keeps

theorem execDeskewOverflow_keeps {n : Fin 8} {s : State} :
    ∃ t, execDeskewOverflow n s = .next t ∧ Keeps [.log, .link, .subs, .lastEvents] [.LINK_STAT, .LINK_EVT,
    .LINK_LANEn_STAT, .FAULT_EVT, .FAULT_LOG_WR, .FAULT_LOG_LOST] s t := by
  unfold execDeskewOverflow
  have h0 : Keeps [.log, .link, .subs, .lastEvents] [.LINK_STAT, .LINK_EVT, .LINK_LANEn_STAT, .FAULT_EVT,
      .FAULT_LOG_WR, .FAULT_LOG_LOST] s s := keeps_refl
  exact ⟨_, rfl, (keeps_step (setBit_keeps h0 (covers .LINK_LANEn_STAT ⟨_, rfl⟩)) retireLane_keeps)⟩

theorem linkRetireWrite_keeps {s : State} {v : Word} :
    Keeps [.log, .link, .subs, .lastEvents] [.LINK_STAT, .LINK_EVT, .LINK_LANEn_STAT, .FAULT_EVT, .FAULT_LOG_WR,
    .FAULT_LOG_LOST] s (State.linkRetireWrite s v) := by
  unfold State.linkRetireWrite
  have h0 : Keeps [.log, .link, .subs, .lastEvents] [.LINK_STAT, .LINK_EVT, .LINK_LANEn_STAT, .FAULT_EVT,
      .FAULT_LOG_WR, .FAULT_LOG_LOST] s s := keeps_refl
  exact keeps_foldl h0 (fun _ _ h1 => (keeps_step h1 retireLane_keeps))

theorem sendNak_keeps {s : State} {p : Nat} :
    Keeps [.log, .link, .subs, .lastEvents] [.LINK_STAT, .LINK_EVT, .LINK_Pp_NAKTX, .LINK_LANEn_STAT, .FAULT_EVT,
    .FAULT_LOG_WR, .FAULT_LOG_LOST] s (State.sendNak s p) := by
  unfold State.sendNak
  have h0 : Keeps [.log, .link, .subs, .lastEvents] [.LINK_STAT, .LINK_EVT, .LINK_Pp_NAKTX, .LINK_LANEn_STAT,
      .FAULT_EVT, .FAULT_LOG_WR, .FAULT_LOG_LOST] s s := keeps_refl
  extract_lets -useContext +onlyGivenNames x1 x3 x5 x8 x10 x12 x14
  have h6 : As h0 x5 := keeps_ite (keeps_foldl h0 (fun _ _ h7 => (keeps_step h7 setLane_keeps))) h0
  clear_value x5
  have h9 : As h0 x8 := keeps_step h6 sendCredit_keeps
  clear_value x8
  have h13 : As h0 x12 := keeps_step h9 setPort_keeps
  clear_value x12
  have h15 : As h0 x14 := count_keeps h13 (covers .LINK_Pp_NAKTX ⟨_, rfl⟩)
  clear_value x14
  refine keeps_ite ?_ ?_
  · extract_lets -useContext +onlyGivenNames x16 x18 x20
    have h17 : As h0 x16 := setBit_keeps h15 (covers .LINK_EVT rfl)
    clear_value x16
    have h21 : As h0 x20 := keeps_step h17 setPort_keeps
    clear_value x20
    split
    · exact keeps_step h21 retireLane_keeps
    · exact keeps_step h21 portDown_keeps
  · exact h15

theorem linkCtrlWrite_keeps {s : State} {v : Word} :
    Keeps [.log, .link, .subs, .lastEvents] [.LINK_CTRL, .LINK_STAT, .LINK_EVT, .LINK_Pp_SEQ, .LINK_LANEn_STAT,
    .FAULT_EVT, .FAULT_LOG_WR, .FAULT_LOG_LOST] s (State.linkCtrlWrite s v) := by
  unfold State.linkCtrlWrite
  have h0 : Keeps [.log, .link, .subs, .lastEvents] [.LINK_CTRL, .LINK_STAT, .LINK_EVT, .LINK_Pp_SEQ,
      .LINK_LANEn_STAT, .FAULT_EVT, .FAULT_LOG_WR, .FAULT_LOG_LOST] s s := keeps_refl
  extract_lets -useContext +onlyGivenNames x1 x3 x5
  have h4 : As h0 x3 := writeByCodes_keeps h0 (covers .LINK_CTRL rfl)
  clear_value x3
  refine keeps_ite ?_ ?_
  · extract_lets -useContext +onlyGivenNames x7 x9
    have h10 : As h0 x9 := keeps_link h4 _
    exact keeps_step (keeps_step (keeps_setReg h10 (covers .LINK_STAT rfl)) startPort_keeps) startPort_keeps
  · refine keeps_ite ?_ ?_
    · exact keeps_step (keeps_step h4 portDown_keeps) portDown_keeps
    · exact h4

theorem judgeSyms_keeps {s : State} {n : Nat} {l : Bool × List (BitVec 10)} :
    Keeps [.log, .link, .subs, .lastEvents] [.LINK_STAT, .LINK_EVT, .LINK_LANEn_STAT, .LINK_LANEn_CODEERR,
    .LINK_LANEn_DISPERR, .FAULT_EVT, .FAULT_LOG_WR, .FAULT_LOG_LOST] s (State.judgeSyms s n l) := by
  unfold State.judgeSyms
  have h0 : Keeps [.log, .link, .subs, .lastEvents] [.LINK_STAT, .LINK_EVT, .LINK_LANEn_STAT, .LINK_LANEn_CODEERR,
      .LINK_LANEn_DISPERR, .FAULT_EVT, .FAULT_LOG_WR, .FAULT_LOG_LOST] s s := keeps_refl
  exact keeps_step (keeps_step h0 laneErrors_keeps) judgeLane_keeps

theorem takePacket_keeps {s : State} {p : Nat} {a1 : Option (List (Option Byte) × PacketEnd)} :
    Keeps [.log, .link, .subs, .lastEvents] [.LINK_STAT, .LINK_EVT, .LINK_Pp_CRCERR, .LINK_Pp_DUP, .LINK_Pp_SEQERR,
    .LINK_Pp_SEQ, .LINK_LANEn_STAT, .FAULT_EVT, .FAULT_LOG_WR, .FAULT_LOG_LOST] s (State.takePacket s p a1) := by
  unfold State.takePacket
  have h0 : Keeps [.log, .link, .subs, .lastEvents] [.LINK_STAT, .LINK_EVT, .LINK_Pp_CRCERR, .LINK_Pp_DUP,
      .LINK_Pp_SEQERR, .LINK_Pp_SEQ, .LINK_LANEn_STAT, .FAULT_EVT, .FAULT_LOG_WR, .FAULT_LOG_LOST] s s := keeps_refl
  split
  · exact h0
  · extract_lets -useContext +onlyGivenNames x2
    refine keeps_ite ?_ ?_
    · exact h0
    · refine keeps_ite ?_ ?_
      · extract_lets -useContext +onlyGivenNames x4 x6
        have h5 : As h0 x4 := keeps_step h0 takeHeaderAck_keeps
        clear_value x4
        refine keeps_ite ?_ ?_
        · exact keeps_step h5 setPort_keeps
        · exact keeps_step h5 judgeSeq_keeps
      · exact keeps_step h0 badPacket_keeps

theorem execLinkRetire_keeps {a1 : Requester} {v : Word} {s : State} :
    ∃ t, execLinkRetire a1 v s = .next t ∧ Keeps [.resp, .log, .link, .subs, .lastEvents] [.LINK_STAT, .LINK_EVT,
    .LINK_LANEn_STAT, .FAULT_EVT, .FAULT_LOG_WR, .FAULT_LOG_LOST] s t := by
  unfold execLinkRetire
  have h0 : Keeps [.resp, .log, .link, .subs, .lastEvents] [.LINK_STAT, .LINK_EVT, .LINK_LANEn_STAT, .FAULT_EVT,
      .FAULT_LOG_WR, .FAULT_LOG_LOST] s s := keeps_refl
  exact ⟨_, rfl, (keeps_step (keeps_step h0 linkRetireWrite_keeps) written_keeps)⟩

theorem requestPower_keeps {s : State} {p : Nat} {req : Nat} :
    Keeps [.link] [.LINK_STAT, .LINK_EVT, .LINK_LANEn_STAT] s (State.requestPower s p req) := by
  unfold State.requestPower
  have h0 : Keeps [.link] [.LINK_STAT, .LINK_EVT, .LINK_LANEn_STAT] s s := keeps_refl
  extract_lets -useContext +onlyGivenNames x1
  refine keeps_ite ?_ ?_
  · exact h0
  · refine keeps_ite ?_ ?_
    · refine keeps_ite ?_ ?_
      · exact keeps_step h0 leaveStandby_keeps
      · refine keeps_ite ?_ ?_
        · exact keeps_step h0 realign_keeps
        · exact h0
    · refine keeps_ite ?_ ?_
      · refine keeps_ite ?_ ?_
        · exact keeps_step h0 enterStandby_keeps
        · exact h0
      · refine keeps_ite ?_ ?_
        · refine keeps_ite ?_ ?_
          · exact h0
          · refine keeps_ite ?_ ?_
            · exact setBit_keeps h0 (covers .LINK_EVT rfl)
            · exact keeps_step (keeps_step h0 setPort_keeps) sendEvent_keeps
        · exact h0

theorem execLinkEnable_keeps {a1 : Requester} {v : Word} {s : State} :
    ∃ t, execLinkEnable a1 v s = .next t ∧ Keeps [.resp, .log, .link, .subs, .lastEvents] [.LINK_CTRL, .LINK_STAT,
    .LINK_EVT, .LINK_Pp_SEQ, .LINK_LANEn_STAT, .FAULT_EVT, .FAULT_LOG_WR, .FAULT_LOG_LOST] s t := by
  unfold execLinkEnable
  have h0 : Keeps [.resp, .log, .link, .subs, .lastEvents] [.LINK_CTRL, .LINK_STAT, .LINK_EVT, .LINK_Pp_SEQ,
      .LINK_LANEn_STAT, .FAULT_EVT, .FAULT_LOG_WR, .FAULT_LOG_LOST] s s := keeps_refl
  exact ⟨_, rfl, (keeps_step (keeps_step h0 linkCtrlWrite_keeps) written_keeps)⟩

theorem execPacketReceived_keeps {p : Fin 2} {lanes : List (Bool × List (BitVec 10))} {s : State} :
    ∃ t, execPacketReceived p lanes s = .next t ∧ Keeps [.log, .link, .subs, .lastEvents] [.LINK_STAT, .LINK_EVT,
    .LINK_Pp_CRCERR, .LINK_Pp_DUP, .LINK_Pp_SEQERR, .LINK_Pp_SEQ, .LINK_LANEn_STAT, .LINK_LANEn_CODEERR,
    .LINK_LANEn_DISPERR, .FAULT_EVT, .FAULT_LOG_WR, .FAULT_LOG_LOST] s t := by
  unfold execPacketReceived
  have h0 : Keeps [.log, .link, .subs, .lastEvents] [.LINK_STAT, .LINK_EVT, .LINK_Pp_CRCERR, .LINK_Pp_DUP,
      .LINK_Pp_SEQERR, .LINK_Pp_SEQ, .LINK_LANEn_STAT, .LINK_LANEn_CODEERR, .LINK_LANEn_DISPERR, .FAULT_EVT,
      .FAULT_LOG_WR, .FAULT_LOG_LOST] s s := keeps_refl
  exact ⟨_, rfl, (keeps_ite h0 (by
        extract_lets -useContext +onlyGivenNames x1 x3 x5
        have h6 : As h0 x5 := keeps_foldl h0 (fun _ _ h7 => (keeps_step h7 judgeSyms_keeps))
        clear_value x5
        refine keeps_ite ?_ ?_
        · exact keeps_step h6 takePacket_keeps
        · exact h6))⟩

theorem execLaneMarkerSetReceived_keeps {n : Fin 8} {ln : Byte} {gen : Byte} {txm : Byte} {rxm : Byte} {mode : Byte}
    {chk : Byte} {s : State} :
    ∃ t, execLaneMarkerSetReceived n ln gen txm rxm mode chk s = .next t ∧ Keeps [.log, .link, .subs, .lastEvents]
    [.LINK_STAT, .LINK_EVT, .LINK_LANEn_STAT, .LINK_LANEn_CODEERR, .LINK_LANEn_DISPERR, .FAULT_EVT, .FAULT_LOG_WR,
    .FAULT_LOG_LOST] s t := by
  unfold execLaneMarkerSetReceived
  have h0 : Keeps [.log, .link, .subs, .lastEvents] [.LINK_STAT, .LINK_EVT, .LINK_LANEn_STAT, .LINK_LANEn_CODEERR,
      .LINK_LANEn_DISPERR, .FAULT_EVT, .FAULT_LOG_WR, .FAULT_LOG_LOST] s s := keeps_refl
  exact ⟨_, rfl, (by
        extract_lets -useContext +onlyGivenNames x1 x3
        refine keeps_ite ?_ ?_
        · exact h0
        · refine keeps_ite ?_ ?_
          · exact keeps_step (keeps_step h0 laneErrors_keeps) judgeLane_keeps
          · refine keeps_ite ?_ ?_
            · extract_lets -useContext +onlyGivenNames x5 x7 x9
              have h10 : As h0 x9 := keeps_step h0 setLane_keeps
              clear_value x9
              exact keeps_step h10 setPort_keeps
            · refine keeps_ite ?_ ?_
              · extract_lets -useContext +onlyGivenNames x11 x13
                have h14 : As h0 x13 := keeps_step h0 setPort_keeps
                clear_value x13
                refine keeps_ite ?_ ?_
                · extract_lets -useContext +onlyGivenNames x15 x17
                  have h18 : As h0 x17 := keeps_step h14 setPort_keeps
                  clear_value x17
                  exact keeps_step (keeps_step h18 refreshRxMask_keeps) followHostRxm_keeps
                · exact h14
              · exact h0)⟩

theorem execLinkDisable_keeps {a1 : Requester} {v : Word} {s : State} :
    ∃ t, execLinkDisable a1 v s = .next t ∧ Keeps [.resp, .log, .link, .subs, .lastEvents] [.LINK_CTRL, .LINK_STAT,
    .LINK_EVT, .LINK_Pp_SEQ, .LINK_LANEn_STAT, .FAULT_EVT, .FAULT_LOG_WR, .FAULT_LOG_LOST] s t := by
  unfold execLinkDisable
  have h0 : Keeps [.resp, .log, .link, .subs, .lastEvents] [.LINK_CTRL, .LINK_STAT, .LINK_EVT, .LINK_Pp_SEQ,
      .LINK_LANEn_STAT, .FAULT_EVT, .FAULT_LOG_WR, .FAULT_LOG_LOST] s s := keeps_refl
  exact ⟨_, rfl, (keeps_step (keeps_step h0 linkCtrlWrite_keeps) written_keeps)⟩

theorem linkPmWrite_keeps {s : State} {v : Word} :
    Keeps [.link] [.LINK_STAT, .LINK_EVT, .LINK_PM_CTRL, .LINK_LANEn_STAT] s (State.linkPmWrite s v) := by
  unfold State.linkPmWrite
  have h0 : Keeps [.link] [.LINK_STAT, .LINK_EVT, .LINK_PM_CTRL, .LINK_LANEn_STAT] s s := keeps_refl
  extract_lets -useContext +onlyGivenNames x1
  have h2 : As h0 x1 := writeByCodes_keeps h0 (covers .LINK_PM_CTRL rfl)
  clear_value x1
  exact keeps_step (keeps_step h2 requestPower_keeps) requestPower_keeps

theorem execNakTimeout_keeps {p : Fin 2} {s : State} :
    ∃ t, execNakTimeout p s = .next t ∧ Keeps [.log, .link, .subs, .lastEvents] [.LINK_STAT, .LINK_EVT,
    .LINK_Pp_NAKTX, .LINK_LANEn_STAT, .FAULT_EVT, .FAULT_LOG_WR, .FAULT_LOG_LOST] s t := by
  unfold execNakTimeout
  have h0 : Keeps [.log, .link, .subs, .lastEvents] [.LINK_STAT, .LINK_EVT, .LINK_Pp_NAKTX, .LINK_LANEn_STAT,
      .FAULT_EVT, .FAULT_LOG_WR, .FAULT_LOG_LOST] s s := keeps_refl
  exact ⟨_, rfl, (keeps_ite (keeps_step h0 sendNak_keeps) h0)⟩

theorem execNakTransmit_keeps {p : Fin 2} {s : State} :
    ∃ t, execNakTransmit p s = .next t ∧ Keeps [.log, .link, .subs, .lastEvents] [.LINK_STAT, .LINK_EVT,
    .LINK_Pp_NAKTX, .LINK_LANEn_STAT, .FAULT_EVT, .FAULT_LOG_WR, .FAULT_LOG_LOST] s t := by
  unfold execNakTransmit
  have h0 : Keeps [.log, .link, .subs, .lastEvents] [.LINK_STAT, .LINK_EVT, .LINK_Pp_NAKTX, .LINK_LANEn_STAT,
      .FAULT_EVT, .FAULT_LOG_WR, .FAULT_LOG_LOST] s s := keeps_refl
  exact ⟨_, rfl, (keeps_ite (keeps_step h0 sendNak_keeps) h0)⟩

theorem execLaneRetirement_keeps {n : Fin 8} {rd : Bool} {syms : List (BitVec 10)} {s : State} :
    ∃ t, execLaneRetirement n rd syms s = .next t ∧ Keeps [.log, .link, .subs, .lastEvents] [.LINK_STAT, .LINK_EVT,
    .LINK_LANEn_STAT, .LINK_LANEn_CODEERR, .LINK_LANEn_DISPERR, .FAULT_EVT, .FAULT_LOG_WR, .FAULT_LOG_LOST] s t := by
  unfold execLaneRetirement
  have h0 : Keeps [.log, .link, .subs, .lastEvents] [.LINK_STAT, .LINK_EVT, .LINK_LANEn_STAT, .LINK_LANEn_CODEERR,
      .LINK_LANEn_DISPERR, .FAULT_EVT, .FAULT_LOG_WR, .FAULT_LOG_LOST] s s := keeps_refl
  exact ⟨_, rfl, (keeps_step h0 judgeSyms_keeps)⟩

theorem execLinkPowerRequest_keeps {a1 : Requester} {v : Word} {s : State} :
    ∃ t, execLinkPowerRequest a1 v s = .next t ∧ Keeps [.resp, .link] [.LINK_STAT, .LINK_EVT, .LINK_PM_CTRL,
    .LINK_LANEn_STAT] s t := by
  unfold execLinkPowerRequest
  have h0 : Keeps [.resp, .link] [.LINK_STAT, .LINK_EVT, .LINK_PM_CTRL, .LINK_LANEn_STAT] s s := keeps_refl
  exact ⟨_, rfl, (keeps_step (keeps_step h0 linkPmWrite_keeps) written_keeps)⟩

end Sys2Proof.Laws
end

