-- ==== Sys2Proof/Laws/KeepsRows.lean ====
section
/-! SUPPORT. What each operation of Machine/Rows.lean may change (`Keeps`): the parts of the state and the rows of registers. -/

set_option Elab.async false

namespace Sys2Proof.Laws

open Sys2Proof.Machine

theorem thresholds_in {s : State} {a : Nat} {l : List Byte} (h : l.length ≤ 0x30000) :
    ∀ x, compBase + 0xC6000 + 0x30000 * (a % 4) ≤ x → x < compBase + 0xC6000 + 0x30000 * (a % 4) + l.length →
      Part.thresholds.stores [] s x := fun x h1 h2 => by
  simp only [Part.stores]
  omega

theorem staging_in {s : State} {l : List Byte} (h : l.length ≤ 0x7A000) :
    ∀ x, compBase + 0x186000 ≤ x → x < compBase + 0x186000 + l.length → Part.staging.stores [] s x := fun x h1 h2 => by
  simp only [Part.stores]
  omega

theorem noteLanded_keeps {s : State} {p : PendVal} :
    Keeps [.landed] [] s (State.noteLanded s p) := by
  unfold State.noteLanded
  have h0 : Keeps [.landed] [] s s := keeps_refl
  exact keeps_landed h0 _

theorem refreshFmax_keeps {s : State} :
    Keeps [] [.BR_FMAX] s (State.refreshFmax s) := by
  unfold State.refreshFmax
  have h0 : Keeps [] [.BR_FMAX] s s := keeps_refl
  extract_lets -useContext +onlyGivenNames x1
  exact setFld_keeps h0 (covers .BR_FMAX rfl)

theorem refreshDatum_keeps {s : State} :
    Keeps [] [.BR_STAT, .BR_EVT] s (State.refreshDatum s) := by
  unfold State.refreshDatum
  have h0 : Keeps [] [.BR_STAT, .BR_EVT] s s := keeps_refl
  split
  · exact h0
  · refine keeps_ite ?_ ?_
    · exact h0
    · exact setBit_keeps (setFld_keeps (setFld_keeps h0 (covers .BR_STAT rfl)) (covers .BR_STAT rfl)) (covers .BR_EVT
          rfl)

theorem setHam_keeps {s : State} {k : Nat} {a1 : HamletSt} :
    Keeps [.weaver] [] s (State.setHam s k a1) := by
  unfold State.setHam
  have h0 : Keeps [.weaver] [] s s := keeps_refl
  exact keeps_weaver h0 _

theorem landArrays_keeps {s : State} {f : Group → Bool} :
    Keeps [.thresholds] [] s (State.landArrays s f) := by
  unfold State.landArrays
  have h0 : Keeps [.thresholds] [] s s := keeps_refl
  exact keeps_foldl h0 (fun _ _ h1 => (keeps_foldl h1 (fun _ _ h2 => (by
        split
        · exact keeps_step h2 (setBytes_keeps .thresholds (thresholds_in (List.length_take_le _ _)))
        · exact h2))))

theorem setPage_keeps {s : State} {n : Nat} {a1 : PageCtx} :
    Keeps [.pages] [] s (State.setPage s n a1) := by
  unfold State.setPage
  have h0 : Keeps [.pages] [] s s := keeps_refl
  exact keeps_pages h0 _

theorem trimAtOnce_keeps {s : State} {a1 : Nat} :
    Keeps [.cal] [.CAL_HCh_NOW, .CAL_HCh_STAT] s (State.trimAtOnce s a1) := by
  unfold State.trimAtOnce
  have h0 : Keeps [.cal] [.CAL_HCh_NOW, .CAL_HCh_STAT] s s := keeps_refl
  extract_lets -useContext +onlyGivenNames x2
  have h3 : As h0 x2 := setBit_keeps (keeps_setReg h0 (covers .CAL_HCh_NOW ⟨_, rfl⟩)) (covers .CAL_HCh_STAT ⟨_, rfl⟩)
  clear_value x2
  exact keeps_cal h3 _

theorem landField_keeps {w : List Part} {r : List Reg} {s0 s : State} {p : PendVal} (h : Keeps w r s0 s)
    (hc : Covers r p.addr) (hw : w.contains .landed = true) : Keeps w r s0 (State.landField s p) :=
  setFld_keeps (keeps_landed h _ hw) hc

theorem landFields_keeps {w : List Part} {r : List Reg} {s0 s : State} {l : List PendVal} (h : Keeps w r s0 s)
    (hc : ∀ p ∈ l, Covers r p.addr) (hw : w.contains .landed = true) : Keeps w r s0 (l.foldl State.landField s) := by
  induction l generalizing s with
  | nil => exact h
  | cons p t ih =>
    exact ih (landField_keeps h (hc p List.mem_cons_self) hw) (fun q hq => hc q (List.mem_cons_of_mem _ hq))

theorem settlePend_keeps {w : List Part} {r : List Reg} {s0 s : State} {lo hi l : Nat} (h : Keeps w r s0 s)
    (hc : ∀ x, lo ≤ x → x < hi → Covers r x) (hw : w.contains .landed = true := by decide)
    (hp : w.contains .pend = true := by decide) : Keeps w r s0 (s.settlePend lo hi l) := by
  unfold State.settlePend
  extract_lets x1 x2
  have h2 : Keeps w r s0 x2 := by
    refine landFields_keeps h (fun p hp => ?_) hw
    have := (List.mem_filter.mp hp).2
    simp only [x1, Bool.and_eq_true, decide_eq_true_eq] at this
    exact hc _ this.1.1 this.1.2
  clear_value x2
  exact keeps_pend h2 _ hp

theorem showSnap_keeps {s : State} :
    Keeps [.landed] [.BR_SNAPLINE] s (State.showSnap s) := by
  unfold State.showSnap
  have h0 : Keeps [.landed] [.BR_SNAPLINE] s s := keeps_refl
  split
  · refine keeps_ite ?_ ?_
    · exact h0
    · extract_lets -useContext +onlyGivenNames x1 x3
      have h2 : As h0 x1 := keeps_setReg h0 (covers .BR_SNAPLINE rfl)
      clear_value x1
      exact keeps_landed h2 _
  · exact h0

theorem setHc_keeps {s : State} {a1 : Nat} {a2 : HcSt} :
    Keeps [.hcs] [] s (State.setHc s a1 a2) := by
  unfold State.setHc
  have h0 : Keeps [.hcs] [] s s := keeps_refl
  exact keeps_hcs h0 _

theorem endPages_keeps {s : State} :
    Keeps [.freeCtr, .pages, .subs, .lastEvents] [.BR_EVT] s (State.endPages s) := by
  unfold State.endPages
  have h0 : Keeps [.freeCtr, .pages, .subs, .lastEvents] [.BR_EVT] s s := keeps_refl
  exact keeps_foldl h0 (fun _ _ h1 => (keeps_step (setBit_keeps (keeps_step h1 setPage_keeps) (covers .BR_EVT rfl))
      notify_keeps))

theorem serviceChanged_keeps {s : State} :
    Keeps [.freeCtr, .landed, .pages, .subs, .lastEvents] [.BR_EVT, .BR_SNAPLINE] s (State.serviceChanged s) := by
  unfold State.serviceChanged
  have h0 : Keeps [.freeCtr, .landed, .pages, .subs, .lastEvents] [.BR_EVT, .BR_SNAPLINE] s s := keeps_refl
  refine keeps_ite ?_ ?_
  · exact keeps_step (keeps_step h0 endPages_keeps) showSnap_keeps
  · exact h0

theorem setRow_keeps {s : State} {a1 : Nat} {a2 : Nat} {a3 : RowSt} :
    Keeps [.hcs] [] s (State.setRow s a1 a2 a3) := by
  unfold State.setRow
  have h0 : Keeps [.hcs] [] s s := keeps_refl
  exact keeps_step h0 setHc_keeps

theorem flagPage_keeps {s : State} {n : Nat} {cause : Nat} :
    Keeps [.freeCtr, .pages, .subs, .lastEvents] [] s (State.flagPage s n cause) := by
  unfold State.flagPage
  have h0 : Keeps [.freeCtr, .pages, .subs, .lastEvents] [] s s := keeps_refl
  extract_lets -useContext +onlyGivenNames x1 x3
  have h4 : As h0 x3 := keeps_step h0 setPage_keeps
  clear_value x3
  refine keeps_ite ?_ ?_
  · exact h4
  · exact keeps_step h4 notify_keeps

theorem setPower_keeps {s : State} {v : Nat} :
    Keeps [.freeCtr, .subs, .lastEvents] [.CLKPWR_STAT, .CLKPWR_EVT] s (State.setPower s v) := by
  unfold State.setPower
  have h0 : Keeps [.freeCtr, .subs, .lastEvents] [.CLKPWR_STAT, .CLKPWR_EVT] s s := keeps_refl
  exact keeps_step (setBit_keeps (setFld_keeps h0 (covers .CLKPWR_STAT rfl)) (covers .CLKPWR_EVT rfl)) notify_keeps

theorem setHcState_keeps {s : State} {a1 : Nat} {v : Nat} :
    Keeps [.freeCtr, .landed, .cal, .pages, .subs, .lastEvents] [.HC_STAT, .BR_STAT, .BR_EVT, .BR_FMAX, .BR_SNAPLINE,
    .FAULT_STAT, .CAL_HCh_NOW, .CAL_HCh_STAT] s (State.setHcState s a1 v) := by
  unfold State.setHcState
  have h0 : Keeps [.freeCtr, .landed, .cal, .pages, .subs, .lastEvents] [.HC_STAT, .BR_STAT, .BR_EVT, .BR_FMAX,
      .BR_SNAPLINE, .FAULT_STAT, .CAL_HCh_NOW, .CAL_HCh_STAT] s s := keeps_refl
  extract_lets -useContext +onlyGivenNames x2 x4 x6 x8 x10
  have h3 : As h0 x2 := keeps_ite h0 (keeps_step h0 trimAtOnce_keeps)
  clear_value x2
  have h5 : As h0 x4 := setFld_keeps h3 (covers .HC_STAT ⟨_, rfl⟩)
  clear_value x4
  have h11 : As h0 x10 := setFld_keeps h5 (covers .FAULT_STAT rfl)
  clear_value x10
  exact keeps_step (keeps_step (keeps_step (keeps_step h11 notify_keeps) refreshDatum_keeps) refreshFmax_keeps)
      serviceChanged_keeps

theorem flagLine_keeps {s : State} {l : Nat} {cause : Nat} :
    Keeps [.freeCtr, .pages, .subs, .lastEvents] [] s (State.flagLine s l cause) := by
  unfold State.flagLine
  have h0 : Keeps [.freeCtr, .pages, .subs, .lastEvents] [] s s := keeps_refl
  split
  · exact keeps_step h0 flagPage_keeps
  · exact h0

theorem tones_in {s : State} {k i : Nat} {l : List Byte} (h : l.length ≤ 16) :
    ∀ x, toneAddr k i + 16 ≤ x → x < toneAddr k i + 16 + l.length → Part.tones.stores [] s x := fun x h1 h2 => by
  unfold toneAddr at *
  exact ⟨k, by omega, by omega⟩

theorem tones_in0 {s : State} {k i : Nat} {l : List Byte} (h : l.length ≤ 32) :
    ∀ x, toneAddr k i ≤ x → x < toneAddr k i + l.length → Part.tones.stores [] s x := fun x h1 h2 => by
  unfold toneAddr at *
  exact ⟨k, by omega, by omega⟩

theorem nozWet_in {s : State} {g : Nat} : ∀ x, nozAddr g + 4 ≤ x → x < nozAddr g + 4 + 2 → Part.nozWet.stores [] s x :=
  fun x h1 h2 => ⟨g, by omega⟩

end Sys2Proof.Laws
end

