-- ==== Sys2Proof/Laws/KeepsSafeStop.lean ====
section
/-! SUPPORT. What each operation of Machine/SafeStop.lean may change (`Keeps`): the parts of the state and the rows of registers. -/

set_option Elab.async false

namespace Sys2Proof.Laws

open Sys2Proof.Machine

theorem setDmaState_keeps {s : State} {n : Nat} {v : Nat} :
    Keeps [] [.DMA_CHn_STAT] s (State.setDmaState s n v) := by
  unfold State.setDmaState
  have h0 : Keeps [] [.DMA_CHn_STAT] s s := keeps_refl
  exact setFld_keeps h0 (covers .DMA_CHn_STAT ⟨_, rfl⟩)

theorem setCh_keeps {s : State} {n : Nat} {a1 : DmaChan} :
    Keeps [.dma] [] s (State.setCh s n a1) := by
  unfold State.setCh
  have h0 : Keeps [.dma] [] s s := keeps_refl
  exact keeps_dma h0 _

theorem undoGain_keeps {s : State} : Keeps [.weaver, .nozGain] [.WEAVER_KERNEL] s (State.undoGain s) := by
  unfold State.undoGain
  have h0 : Keeps [.weaver, .nozGain] [.WEAVER_KERNEL] s s := keeps_refl
  extract_lets -useContext +onlyGivenNames x1
  have h2 : As h0 x1 := keeps_foldl h0 (fun _ _ h3 => keeps_step h3 (setByte_keeps .nozGain ⟨_, .inr rfl⟩))
  clear_value x1
  exact keeps_foldl h2 (fun _ _ h4 => (keeps_step (keeps_setReg h4 (covers .WEAVER_KERNEL ⟨_, rfl⟩)) setHam_keeps))

theorem setAx_keeps {s : State} {n : Nat} {a1 : AxisSt} :
    Keeps [.axes] [] s (State.setAx s n a1) := by
  unfold State.setAx
  have h0 : Keeps [.axes] [] s s := keeps_refl
  exact keeps_axes h0 _

theorem undoComb_keeps {s : State} {a1 : Nat} :
    Keeps [.hcs] [.HC_STAT, .HC_COMBLINE] s (State.undoComb s a1) := by
  unfold State.undoComb
  have h0 : Keeps [.hcs] [.HC_STAT, .HC_COMBLINE] s s := keeps_refl
  extract_lets -useContext +onlyGivenNames x2 x4
  have h5 : As h0 x4 := setBit_keeps (keeps_setReg h0 (covers .HC_COMBLINE ⟨_, rfl⟩)) (covers .HC_STAT ⟨_, rfl⟩)
  clear_value x4
  exact keeps_step h5 setHc_keeps

theorem dropFrames_keeps {s : State} {a1 : Nat} :
    Keeps [.hcs] [] s (State.dropFrames s a1) := by
  unfold State.dropFrames
  have h0 : Keeps [.hcs] [] s s := keeps_refl
  extract_lets -useContext +onlyGivenNames x2 x4 x6
  exact keeps_step h0 setHc_keeps

theorem undoTone_keeps {s : State} :
    Keeps [.weaver, .tones] [] s (State.undoTone s) := by
  unfold State.undoTone
  have h0 : Keeps [.weaver, .tones] [] s s := keeps_refl
  exact keeps_foldl h0 (fun _ _ h1 => (by
        extract_lets -useContext +onlyGivenNames x2
        have h3 : As h0 x2 := keeps_foldl h1 (fun _ _ h4 => (keeps_step h4 (setBytes_keeps .tones (tones_in
            (Nat.le_of_eq bytes_length)))))
        clear_value x2
        exact keeps_step h3 setHam_keeps))

theorem abortPages_keeps {s : State} :
    Keeps [.freeCtr, .pages, .subs, .lastEvents] [] s (State.abortPages s) := by
  unfold State.abortPages
  have h0 : Keeps [.freeCtr, .pages, .subs, .lastEvents] [] s s := keeps_refl
  exact keeps_foldl h0 (fun _ _ h1 => (by
        extract_lets -useContext +onlyGivenNames x2
        have h3 : As h0 x2 := keeps_step h1 flagPage_keeps
        clear_value x2
        exact keeps_step h3 setPage_keeps))

theorem dmaIdleOrRun_keeps {s : State} {n : Nat} :
    Keeps [] [.DMA_CHn_STAT] s (State.dmaIdleOrRun s n) := by
  unfold State.dmaIdleOrRun
  have h0 : Keeps [] [.DMA_CHn_STAT] s s := keeps_refl
  exact keeps_step h0 setDmaState_keeps

theorem stopDrive_keeps {s : State} {a1 : Nat} :
    Keeps [.hcs] [.HC_SCAN_PTR] s (State.stopDrive s a1) := by
  unfold State.stopDrive
  have h0 : Keeps [.hcs] [.HC_SCAN_PTR] s s := keeps_refl
  extract_lets -useContext +onlyGivenNames x2 x4 x6 x8
  have h3 : As h0 x2 := keeps_step h0 dropFrames_keeps
  clear_value x2
  have h9 : As h0 x8 := keeps_step h3 setHc_keeps
  clear_value x8
  refine keeps_ite ?_ ?_
  · exact setFld_keeps h9 (covers .HC_SCAN_PTR ⟨_, rfl⟩)
  · exact h9

theorem axSafeStop_keeps {s : State} {n : Nat} :
    Keeps [.axes] [] s (State.axSafeStop s n) := by
  unfold State.axSafeStop
  have h0 : Keeps [.axes] [] s s := keeps_refl
  refine keeps_ite ?_ ?_
  · exact h0
  · exact keeps_step h0 setAx_keeps

theorem undoItem_keeps {s : State} {line : Nat} {i : Staged} :
    Keeps [.weaver, .hcs, .tones, .nozGain] [.WEAVER_KERNEL, .WEAVER_MASKLINE, .HC_STAT, .HC_COMBLINE] s
    (State.undoItem s line i) := by
  unfold State.undoItem
  have h0 : Keeps [.weaver, .hcs, .tones, .nozGain] [.WEAVER_KERNEL, .WEAVER_MASKLINE, .HC_STAT, .HC_COMBLINE] s s :=
      keeps_refl
  split
  · exact keeps_step h0 undoTone_keeps
  · exact keeps_step h0 undoGain_keeps
  · exact keeps_foldl h0 (fun _ _ h1 => (keeps_setReg h1 (covers .WEAVER_MASKLINE ⟨_, rfl⟩)))
  · exact keeps_step h0 undoComb_keeps
  · extract_lets -useContext +onlyGivenNames x2
    exact keeps_step h0 setHc_keeps
  · exact keeps_weaver h0 _
  · split
    · refine keeps_ite ?_ ?_
      · exact keeps_step h0 undoGain_keeps
      · exact h0
    · exact h0

theorem retireHc_keeps {s : State} {a1 : Nat} {cause : Nat} :
    Keeps [.freeCtr, .log, .landed, .hcs, .cal, .pages, .subs, .lastEvents] [.HC_STAT, .HC_EVT, .HC_SCAN_PTR,
    .BR_STAT, .BR_EVT, .BR_FMAX, .BR_SNAPLINE, .FAULT_STAT, .FAULT_EVT, .FAULT_LOG_WR, .FAULT_LOG_LOST, .CAL_HCh_NOW,
    .CAL_HCh_STAT] s (State.retireHc s a1 cause) := by
  unfold State.retireHc
  have h0 : Keeps [.freeCtr, .log, .landed, .hcs, .cal, .pages, .subs, .lastEvents] [.HC_STAT, .HC_EVT, .HC_SCAN_PTR,
      .BR_STAT, .BR_EVT, .BR_FMAX, .BR_SNAPLINE, .FAULT_STAT, .FAULT_EVT, .FAULT_LOG_WR, .FAULT_LOG_LOST,
      .CAL_HCh_NOW, .CAL_HCh_STAT] s s := keeps_refl
  extract_lets -useContext +onlyGivenNames x2 x4 x6 x8
  have h3 : As h0 x2 := keeps_step h0 stopDrive_keeps
  clear_value x2
  have h5 : As h0 x4 := setFld_keeps h3 (covers .HC_STAT ⟨_, rfl⟩)
  clear_value x4
  have h7 : As h0 x6 := setBit_keeps h5 (covers .HC_EVT ⟨_, rfl⟩)
  clear_value x6
  have h9 : As h0 x8 := keeps_step h7 setHcState_keeps
  clear_value x8
  exact keeps_step h9 logFault_keeps

theorem undoGroup_keeps {s : State} {k : Nat} {g : Group} :
    Keeps [.pend, .weaver, .hcs, .tones, .nozGain] [.WEAVER_KERNEL, .WEAVER_MASKLINE, .HC_STAT, .HC_COMBLINE] s
    (State.undoGroup s k g) := by
  unfold State.undoGroup
  have h0 : Keeps [.pend, .weaver, .hcs, .tones, .nozGain] [.WEAVER_KERNEL, .WEAVER_MASKLINE, .HC_STAT, .HC_COMBLINE]
      s s := keeps_refl
  extract_lets -useContext +onlyGivenNames x1
  have h2 : As h0 x1 := keeps_ite (keeps_foldl h0 (fun _ _ h3 => (keeps_step h3 undoItem_keeps))) h0
  clear_value x1
  refine keeps_ite ?_ ?_
  · exact keeps_pend h2 _
  · exact keeps_pend h2 _

theorem freeGroup_keeps {s : State} {k : Nat} :
    Keeps [.freeCtr, .pend, .weaver, .hcs, .eth, .subs, .lastEvents, .tones, .nozGain] [.WEAVER_KERNEL,
    .WEAVER_MASKLINE, .HC_STAT, .HC_COMBLINE] s (State.freeGroup s k) := by
  unfold State.freeGroup
  have h0 : Keeps [.freeCtr, .pend, .weaver, .hcs, .eth, .subs, .lastEvents, .tones, .nozGain] [.WEAVER_KERNEL,
      .WEAVER_MASKLINE, .HC_STAT, .HC_COMBLINE] s s := keeps_refl
  extract_lets -useContext +onlyGivenNames x1
  have h2 : As h0 x1 := by
    unfold x1
    split
    · exact keeps_step h0 undoGroup_keeps
    · exact h0
  clear_value x1
  exact keeps_step (keeps_eth h2 _) notify_keeps

theorem stopGroups_keeps {s : State} :
    Keeps [.freeCtr, .log, .pend, .weaver, .hcs, .eth, .subs, .lastEvents, .tones, .nozGain] [.WEAVER_KERNEL,
    .WEAVER_MASKLINE, .HC_STAT, .HC_COMBLINE, .FAULT_EVT, .FAULT_LOG_WR, .FAULT_LOG_LOST] s (State.stopGroups s) := by
  unfold State.stopGroups
  have h0 : Keeps [.freeCtr, .log, .pend, .weaver, .hcs, .eth, .subs, .lastEvents, .tones, .nozGain] [.WEAVER_KERNEL,
      .WEAVER_MASKLINE, .HC_STAT, .HC_COMBLINE, .FAULT_EVT, .FAULT_LOG_WR, .FAULT_LOG_LOST] s s := keeps_refl
  exact keeps_foldl h0 (fun _ _ h1 => (keeps_step (keeps_step h1 freeGroup_keeps) logFault_keeps))

theorem stopGrid_keeps {s : State} :
    Keeps [.freeCtr, .landed, .hcs, .cal, .pages, .subs, .lastEvents] [.HC_STAT, .BR_CTRL, .BR_STAT, .BR_EVT,
    .BR_FMAX, .BR_SNAPLINE, .FAULT_STAT, .CAL_HCh_NOW, .CAL_HCh_STAT, .CLKPWR_STAT, .CLKPWR_EVT] s (State.stopGrid s)
    := by
  unfold State.stopGrid
  have h0 : Keeps [.freeCtr, .landed, .hcs, .cal, .pages, .subs, .lastEvents] [.HC_STAT, .BR_CTRL, .BR_STAT, .BR_EVT,
      .BR_FMAX, .BR_SNAPLINE, .FAULT_STAT, .CAL_HCh_NOW, .CAL_HCh_STAT, .CLKPWR_STAT, .CLKPWR_EVT] s s := keeps_refl
  extract_lets -useContext +onlyGivenNames x1 x3 x5
  have h2 : As h0 x1 := keeps_ite (keeps_step h0 setPower_keeps) h0
  clear_value x1
  have h4 : As h0 x3 := setBit_keeps (setBit_keeps h2 (covers .BR_CTRL rfl)) (covers .BR_STAT rfl)
  clear_value x3
  have h6 : As h0 x5 := setBit_keeps (setBit_keeps h4 (covers .BR_STAT rfl)) (covers .BR_STAT rfl)
  clear_value x5
  exact keeps_foldl h6 (fun _ _ h7 => (keeps_ite h7 (by
        extract_lets -useContext +onlyGivenNames x8
        have h9 : As h0 x8 := keeps_step h7 dropFrames_keeps
        clear_value x8
        refine keeps_ite ?_ ?_
        · exact keeps_step (keeps_step h9 setHc_keeps) setHcState_keeps
        · exact h9)))

theorem askResend_keeps {s : State} {n : Nat} {cause : Nat} :
    Keeps [.link] [.LINK_STAT, .LINK_LANEn_STAT] s (State.askResend s n cause) := by
  unfold State.askResend
  have h0 : Keeps [.link] [.LINK_STAT, .LINK_LANEn_STAT] s s := keeps_refl
  split
  · refine keeps_ite ?_ ?_
    · exact keeps_step h0 sendEvent_keeps
    · exact h0
  · exact h0

theorem dmaHalt_keeps {s : State} {n : Nat} {cause : Nat} :
    Keeps [.log, .link, .dma, .subs, .lastEvents] [.LINK_STAT, .LINK_LANEn_STAT, .DMA_HALT_EVT, .DMA_CHn_STAT,
    .FAULT_EVT, .FAULT_LOG_WR, .FAULT_LOG_LOST] s (State.dmaHalt s n cause) := by
  unfold State.dmaHalt
  have h0 : Keeps [.log, .link, .dma, .subs, .lastEvents] [.LINK_STAT, .LINK_LANEn_STAT, .DMA_HALT_EVT,
      .DMA_CHn_STAT, .FAULT_EVT, .FAULT_LOG_WR, .FAULT_LOG_LOST] s s := keeps_refl
  extract_lets -useContext +onlyGivenNames x1 x3
  split
  · extract_lets -useContext +onlyGivenNames x5 x7 x9 x11
    have h6 : As h0 x5 := keeps_step h0 setCh_keeps
    clear_value x5
    have h8 : As h0 x7 := setFld_keeps (keeps_step h6 setDmaState_keeps) (covers .DMA_CHn_STAT ⟨_, rfl⟩)
    clear_value x7
    have h10 : As h0 x9 := orFld_keeps h8 (covers .DMA_HALT_EVT rfl)
    clear_value x9
    have h12 : As h0 x11 := keeps_step h10 logFault_keeps
    clear_value x11
    exact keeps_step (keeps_step h12 sendEvent_keeps) askResend_keeps

theorem haltWhenAnswered_keeps {s : State} {n : Nat} {cause : Nat} :
    Keeps [.log, .link, .dma, .subs, .lastEvents] [.LINK_STAT, .LINK_LANEn_STAT, .DMA_HALT_EVT, .DMA_CHn_STAT,
    .FAULT_EVT, .FAULT_LOG_WR, .FAULT_LOG_LOST] s (State.haltWhenAnswered s n cause) := by
  unfold State.haltWhenAnswered
  have h0 : Keeps [.log, .link, .dma, .subs, .lastEvents] [.LINK_STAT, .LINK_LANEn_STAT, .DMA_HALT_EVT,
      .DMA_CHn_STAT, .FAULT_EVT, .FAULT_LOG_WR, .FAULT_LOG_LOST] s s := keeps_refl
  extract_lets -useContext +onlyGivenNames x1 x3
  refine keeps_ite ?_ ?_
  · exact h0
  · refine keeps_ite ?_ ?_
    · exact keeps_step h0 dmaHalt_keeps
    · exact keeps_step h0 setCh_keeps

theorem dmaSafeStop_keeps {s : State} {n : Nat} :
    Keeps [.log, .link, .dma, .subs, .lastEvents] [.LINK_STAT, .LINK_LANEn_STAT, .DMA_HALT_EVT, .DMA_CHn_STAT,
    .FAULT_EVT, .FAULT_LOG_WR, .FAULT_LOG_LOST] s (State.dmaSafeStop s n) := by
  unfold State.dmaSafeStop
  have h0 : Keeps [.log, .link, .dma, .subs, .lastEvents] [.LINK_STAT, .LINK_LANEn_STAT, .DMA_HALT_EVT,
      .DMA_CHn_STAT, .FAULT_EVT, .FAULT_LOG_WR, .FAULT_LOG_LOST] s s := keeps_refl
  extract_lets -useContext +onlyGivenNames x1
  refine keeps_ite ?_ ?_
  · exact keeps_step h0 haltWhenAnswered_keeps
  · exact h0

theorem safeStop_keeps {s : State} {cause : Nat} :
    Keeps [.freeCtr, .log, .link, .dma, .pend, .landed, .weaver, .hcs, .cal, .axes, .eth, .pages, .subs, .lastEvents,
    .tones, .nozGain] [.LINK_STAT, .LINK_LANEn_STAT, .DMA_HALT_EVT, .DMA_CHn_STAT, .WEAVER_KERNEL, .WEAVER_MASKLINE,
    .HC_STAT, .HC_EVT, .HC_COMBLINE, .HC_SCAN_PTR, .BR_CTRL, .BR_STAT, .BR_EVT, .BR_FMAX, .BR_SNAPLINE, .FAULT_STAT,
    .FAULT_EVT, .FAULT_LOG_WR, .FAULT_LOG_LOST, .CAL_HCh_NOW, .CAL_HCh_STAT, .CLKPWR_STAT, .CLKPWR_EVT] s
    (State.safeStop s cause) := by
  unfold State.safeStop
  have h0 : Keeps [.freeCtr, .log, .link, .dma, .pend, .landed, .weaver, .hcs, .cal, .axes, .eth, .pages, .subs,
      .lastEvents, .tones, .nozGain] [.LINK_STAT, .LINK_LANEn_STAT, .DMA_HALT_EVT, .DMA_CHn_STAT, .WEAVER_KERNEL,
      .WEAVER_MASKLINE, .HC_STAT, .HC_EVT, .HC_COMBLINE, .HC_SCAN_PTR, .BR_CTRL, .BR_STAT, .BR_EVT, .BR_FMAX,
      .BR_SNAPLINE, .FAULT_STAT, .FAULT_EVT, .FAULT_LOG_WR, .FAULT_LOG_LOST, .CAL_HCh_NOW, .CAL_HCh_STAT,
      .CLKPWR_STAT, .CLKPWR_EVT] s s := keeps_refl
  refine keeps_ite ?_ ?_
  · exact keeps_step h0 logFault_keeps
  · extract_lets -useContext +onlyGivenNames x1 x3 x5 x8 x10 x13 x15 x18
    have h2 : As h0 x1 := setFld_keeps (setBit_keeps h0 (covers .FAULT_STAT rfl)) (covers .FAULT_STAT rfl)
    clear_value x1
    have h4 : As h0 x3 := keeps_step h2 logFault_keeps
    clear_value x3
    have h6 : As h0 x5 := keeps_foldl h4 (fun _ _ h7 => (keeps_ite (keeps_step h7 retireHc_keeps) h7))
    clear_value x5
    have h9 : As h0 x8 := keeps_step h6 stopGrid_keeps
    clear_value x8
    have h11 : As h0 x10 := keeps_foldl h9 (fun _ _ h12 => (keeps_step h12 dmaSafeStop_keeps))
    clear_value x10
    have h14 : As h0 x13 := keeps_step (keeps_step h11 abortPages_keeps) stopGroups_keeps
    clear_value x13
    have h16 : As h0 x15 := keeps_foldl h14 (fun _ _ h17 => (keeps_step h17 axSafeStop_keeps))
    clear_value x15
    have h19 : As h0 x18 := keeps_foldl h16 (fun _ _ h20 => (keeps_step h20 sendEvent_keeps))
    clear_value x18
    exact setBit_keeps h19 (covers .FAULT_EVT rfl)

end Sys2Proof.Laws
end

