-- ==== Sys2Proof/Laws/KeepsGranary.lean ====
section
/-! SUPPORT. What each operation of Machine/Granary.lean may change (`Keeps`): the parts of the state and the rows of registers. -/

set_option Elab.async false

namespace Sys2Proof.Laws

open Sys2Proof.Machine

theorem zeroDram_keeps {s : State} {lo hi : Nat} {redo : List Nat} :
    Keeps [.dramValid, .dram] [] s (s.zeroDram lo hi redo) := by
  unfold State.zeroDram
  refine keeps_upd (keeps_mem keeps_refl (swf_filter _) fun a ha => sget_filter fun e he => ?_)
  have hd : ¬ dramBase ≤ a := fun h => ha ⟨.dram, by decide, h⟩
  rw [he, Bool.and_eq_true, Bool.not_eq_true', Bool.not_eq_true', decide_eq_false_iff_not, List.any_eq_false]
  exact ⟨by omega, fun b _ => by rw [decide_eq_true_eq]; omega⟩

theorem dramEntry_keeps {s : State} {c : Nat} {type : Nat} {req : Nat} {addr : Nat} :
    Keeps [.granary] [.GRANARY_EVT] s (State.dramEntry s c type req addr) := by
  unfold State.dramEntry
  have h0 : Keeps [.granary] [.GRANARY_EVT] s s := keeps_refl
  extract_lets -useContext +onlyGivenNames x1 x3
  refine keeps_ite ?_ ?_
  · exact keeps_granary h0 _
  · exact setBit_keeps (keeps_granary h0 _) (covers .GRANARY_EVT rfl)

theorem sampleBand_keeps {s : State} {a1 : Int} :
    Keeps [.granary] [.GRANARY_STAT] s (State.sampleBand s a1) := by
  unfold State.sampleBand
  have h0 : Keeps [.granary] [.GRANARY_STAT] s s := keeps_refl
  refine keeps_ite ?_ ?_
  · exact h0
  · extract_lets -useContext +onlyGivenNames x2 x4 x6 x8
    have h7 : As h0 x6 := keeps_granary h0 _
    exact setBit_keeps h7 (covers .GRANARY_STAT rfl)

theorem advanceDelay_keeps {s : State} :
    Keeps [] [.GRANARY_DLY_ADDR] s (State.advanceDelay s) := by
  unfold State.advanceDelay
  have h0 : Keeps [] [.GRANARY_DLY_ADDR] s s := keeps_refl
  exact setFld_keeps h0 (covers .GRANARY_DLY_ADDR rfl)

theorem answer_keeps {s : State} {d : DramDone} :
    Keeps [.granary] [] s (State.answer s d) := by
  unfold State.answer
  have h0 : Keeps [.granary] [] s s := keeps_refl
  exact keeps_granary h0 _

theorem fillBlock_keeps {s : State} {addr : Nat} {ok : Bool} :
    Keeps [.granary] [] s (State.fillBlock s addr ok) := by
  unfold State.fillBlock
  have h0 : Keeps [.granary] [] s s := keeps_refl
  refine keeps_ite ?_ ?_
  · exact h0
  · exact keeps_granary h0 _

theorem setChan_keeps {s : State} {c : Nat} {a1 : DramChan} :
    Keeps [.granary] [] s (State.setChan s c a1) := by
  unfold State.setChan
  have h0 : Keeps [.granary] [] s s := keeps_refl
  exact keeps_granary h0 _

theorem execInitFillDone_keeps {s : State} :
    ∃ t, execInitFillDone s = .next t ∧ Keeps [.granary, .dramValid, .dram] [.GRANARY_STAT, .GRANARY_EVT] s t := by
  unfold execInitFillDone
  have h0 : Keeps [.granary, .dramValid, .dram] [.GRANARY_STAT, .GRANARY_EVT] s s := keeps_refl
  exact ⟨_, rfl, (by
        split
        · exact h0
        · refine keeps_ite ?_ ?_
          · exact h0
          · extract_lets -useContext +onlyGivenNames x1 x3 x5 x7 x9
            have h6 : As h0 x5 := keeps_step h0 zeroDram_keeps
            clear_value x5
            have h10 : As h0 x9 := keeps_granary h6 _
            exact setBit_keeps (setBit_keeps h10 (covers .GRANARY_STAT rfl)) (covers .GRANARY_EVT rfl))⟩

theorem dropAnswers_keeps {s : State} {id : Option Nat} :
    Keeps [.granary] [] s (State.dropAnswers s id) := by
  unfold State.dropAnswers
  have h0 : Keeps [.granary] [] s s := keeps_refl
  split
  · exact h0
  · exact keeps_granary h0 _

theorem putBlock_keeps {s : State} {addr : Nat} {beats : List (List Byte)} :
    Keeps [.dramValid, .dram] [] s (State.putBlock s addr beats) := by
  unfold State.putBlock
  have h0 : Keeps [.dramValid, .dram] [] s s := keeps_refl
  extract_lets -useContext +onlyGivenNames x1 x3
  refine keeps_ite ?_ ?_
  · extract_lets -useContext +onlyGivenNames x5
    have h6 : As h0 x5 := keeps_step h0 (setBytes_keeps .dram fun _ h _ => Nat.le_trans (Nat.le_add_right _ _) h)
    clear_value x5
    exact keeps_dramValid h6 _
  · exact keeps_step h0 (setBytes_keeps .dram fun _ h _ => Nat.le_trans (Nat.le_add_right _ _) h)

theorem setChState_keeps {s : State} {c : Nat} {v : Nat} :
    Keeps [] [.GRANARY_STAT] s (State.setChState s c v) := by
  unfold State.setChState
  have h0 : Keeps [] [.GRANARY_STAT] s s := keeps_refl
  exact setFld_keeps h0 (covers .GRANARY_STAT rfl)

theorem popErrlog_keeps {s : State} {a1 : Requester} :
    Keeps [.resp, .granary] [] s (State.popErrlog s a1) := by
  unfold State.popErrlog
  have h0 : Keeps [.resp, .granary] [] s s := keeps_refl
  extract_lets -useContext +onlyGivenNames x2
  exact keeps_step (keeps_granary h0 _) okResp_keeps

theorem enqueue_keeps {s : State} {q : DramReq} :
    Keeps [.granary] [] s (State.enqueue s q) := by
  unfold State.enqueue
  have h0 : Keeps [.granary] [] s s := keeps_refl
  extract_lets -useContext +onlyGivenNames x1 x3 x5
  refine keeps_ite ?_ ?_
  · exact keeps_step h0 setChan_keeps
  · exact keeps_step h0 setChan_keeps

theorem delayAccess_keeps {s : State} {a1 : Requester} {a2 : Option Word} :
    Keeps [.resp, .granary] [.GRANARY_DLY_ADDR] s (State.delayAccess s a1 a2) := by
  unfold State.delayAccess
  have h0 : Keeps [.resp, .granary] [.GRANARY_DLY_ADDR] s s := keeps_refl
  extract_lets -useContext +onlyGivenNames x3
  split
  · extract_lets -useContext +onlyGivenNames x5 x7
    have h8 : As h0 x7 := keeps_ite h0 (keeps_granary h0 _)
    clear_value x7
    exact keeps_step (keeps_step h8 advanceDelay_keeps) written_keeps
  · exact keeps_step (keeps_step h0 advanceDelay_keeps) okResp_keeps

theorem execZqcsTimer_keeps {s : State} :
    ∃ t, execZqcsTimer s = .next t ∧ Keeps [.granary] [] s t := by
  unfold execZqcsTimer
  have h0 : Keeps [.granary] [] s s := keeps_refl
  exact ⟨_, rfl, (keeps_ite h0 (keeps_foldl h0 (fun _ _ h1 => (keeps_ite (keeps_step h1 setChan_keeps) h1))))⟩

theorem startSrExit_keeps {s : State} :
    Keeps [] [.GRANARY_STAT, .GRANARY_SR] s (State.startSrExit s) := by
  unfold State.startSrExit
  have h0 : Keeps [] [.GRANARY_STAT, .GRANARY_SR] s s := keeps_refl
  extract_lets -useContext +onlyGivenNames x1 x3 x5
  have h2 : As h0 x1 := setBit_keeps h0 (covers .GRANARY_SR rfl)
  clear_value x1
  have h4 : As h0 x3 := setBit_keeps h2 (covers .GRANARY_SR rfl)
  clear_value x3
  have h6 : As h0 x5 := keeps_ite (keeps_step h4 setChState_keeps) h4
  clear_value x5
  refine keeps_ite ?_ ?_
  · exact keeps_step h6 setChState_keeps
  · exact h6

theorem withdraw_keeps {s : State} {id : Nat} :
    Keeps [.granary] [] s (State.withdraw s id) := by
  unfold State.withdraw
  have h0 : Keeps [.granary] [] s s := keeps_refl
  exact keeps_foldl h0 (fun _ _ h1 => (by
        extract_lets -useContext +onlyGivenNames x2 x4
        exact keeps_step h1 setChan_keeps))

theorem execDelayRamAccess_keeps {a1 : Requester} {a2 : Option Word} {s : State} :
    ∃ t, execDelayRamAccess a1 a2 s = .next t ∧ Keeps [.resp, .granary] [.GRANARY_DLY_ADDR] s t := by
  unfold execDelayRamAccess
  have h0 : Keeps [.resp, .granary] [.GRANARY_DLY_ADDR] s s := keeps_refl
  exact ⟨_, rfl, (keeps_step h0 delayAccess_keeps)⟩

theorem fillEnter_keeps {s : State} {c : Nat} :
    Keeps [.granary] [] s (State.fillEnter s c) := by
  unfold State.fillEnter
  have h0 : Keeps [.granary] [] s s := keeps_refl
  extract_lets -useContext +onlyGivenNames x1
  split
  · exact h0
  · extract_lets -useContext +onlyGivenNames x3 x5
    refine keeps_ite ?_ ?_
    · extract_lets -useContext +onlyGivenNames x7
      have h8 : As h0 x7 := keeps_granary h0 _
      exact keeps_step h8 enqueue_keeps
    · exact h0

theorem admitHeld_keeps {s : State} {c : Nat} :
    Keeps [.granary] [] s (State.admitHeld s c) := by
  unfold State.admitHeld
  have h0 : Keeps [.granary] [] s s := keeps_refl
  extract_lets -useContext +onlyGivenNames x1
  refine keeps_ite ?_ ?_
  · exact h0
  · extract_lets -useContext +onlyGivenNames x3
    exact keeps_step h0 setChan_keeps

theorem setChStates_keeps {s : State} {v : Nat} :
    Keeps [] [.GRANARY_STAT] s (State.setChStates s v) := by
  unfold State.setChStates
  have h0 : Keeps [] [.GRANARY_STAT] s s := keeps_refl
  extract_lets -useContext +onlyGivenNames x1
  have h2 : As h0 x1 := keeps_ite (keeps_step h0 setChState_keeps) h0
  clear_value x1
  refine keeps_ite ?_ ?_
  · exact keeps_step h2 setChState_keeps
  · exact h2

theorem applyBand_keeps {s : State} {c : Nat} :
    Keeps [.granary] [.GRANARY_STAT, .GRANARY_EVT] s (State.applyBand s c) := by
  unfold State.applyBand
  have h0 : Keeps [.granary] [.GRANARY_STAT, .GRANARY_EVT] s s := keeps_refl
  refine keeps_ite ?_ ?_
  · extract_lets -useContext +onlyGivenNames x1 x3 x5 x7
    have h6 : As h0 x5 := keeps_step h0 setChan_keeps
    clear_value x5
    refine keeps_ite ?_ ?_
    · extract_lets -useContext +onlyGivenNames x9
      have h10 : As h0 x9 := setFld_keeps h6 (covers .GRANARY_STAT rfl)
      clear_value x9
      exact setBit_keeps (setBit_keeps h10 (covers .GRANARY_STAT rfl)) (covers .GRANARY_EVT rfl)
    · exact h6
  · exact h0

theorem sendBurst_keeps {s : State} {c : Nat} {q : DramReq} {block : List Byte} :
    Keeps [.granary] [] s (State.sendBurst s c q block) := by
  unfold State.sendBurst
  have h0 : Keeps [.granary] [] s s := keeps_refl
  exact keeps_step h0 setChan_keeps

theorem startSrEntry_keeps {s : State} :
    Keeps [] [.GRANARY_STAT, .GRANARY_SR] s (State.startSrEntry s) := by
  unfold State.startSrEntry
  have h0 : Keeps [] [.GRANARY_STAT, .GRANARY_SR] s s := keeps_refl
  extract_lets -useContext +onlyGivenNames x1 x3
  have h2 : As h0 x1 := setBit_keeps h0 (covers .GRANARY_SR rfl)
  clear_value x1
  have h4 : As h0 x3 := keeps_ite (keeps_step h2 setChState_keeps) h2
  clear_value x3
  refine keeps_ite ?_ ?_
  · exact keeps_step h4 setChState_keeps
  · exact h4

theorem dramSubmit_keeps {s : State} {req : Nat} {addr : Nat} {n : Nat} {data : Option (List Byte)} :
    Keeps [.granary] [.GRANARY_STAT, .GRANARY_SR] s (State.dramSubmit s req addr n data).2 := by
  unfold State.dramSubmit
  have h0 : Keeps [.granary] [.GRANARY_STAT, .GRANARY_SR] s s := keeps_refl
  extract_lets -useContext +onlyGivenNames x1 x3 x5 x7 x9
  have h6 : As h0 x5 := keeps_granary h0 _
  have h8 : As h0 x7 := keeps_ite (keeps_step h6 startSrExit_keeps) h6
  clear_value x7
  exact keeps_foldl h8 (fun _ _ h11 => (by
        extract_lets -useContext +onlyGivenNames x12
        exact keeps_step h11 enqueue_keeps))

theorem channelReady_keeps {s : State} {c : Nat} :
    Keeps [.granary] [.GRANARY_STAT] s (State.channelReady s c) := by
  unfold State.channelReady
  have h0 : Keeps [.granary] [.GRANARY_STAT] s s := keeps_refl
  extract_lets -useContext +onlyGivenNames x1 x3 x5 x7 x9 x11
  have h6 : As h0 x5 := keeps_step h0 setChan_keeps
  clear_value x5
  have h12 : As h0 x11 := keeps_step h6 setChan_keeps
  clear_value x11
  refine keeps_ite ?_ ?_
  · exact keeps_step h12 setChState_keeps
  · exact keeps_step (keeps_step h12 setChState_keeps) admitHeld_keeps

theorem execGranaryErrlogPop_keeps {a1 : Requester} {s : State} :
    ∃ t, execGranaryErrlogPop a1 s = .next t ∧ Keeps [.resp, .granary] [] s t := by
  unfold execGranaryErrlogPop
  have h0 : Keeps [.resp, .granary] [] s s := keeps_refl
  exact ⟨_, rfl, (keeps_step h0 popErrlog_keeps)⟩

theorem enterSelfRefresh_keeps {s : State} :
    Keeps [.granary] [.GRANARY_STAT, .GRANARY_EVT, .GRANARY_SR, .CLKPWR_STAT] s (State.enterSelfRefresh s) := by
  unfold State.enterSelfRefresh
  have h0 : Keeps [.granary] [.GRANARY_STAT, .GRANARY_EVT, .GRANARY_SR, .CLKPWR_STAT] s s := keeps_refl
  extract_lets -useContext +onlyGivenNames x1 x8 x10
  have h2 : As h0 x1 := keeps_foldl h0 (fun _ _ h3 => (by
        extract_lets -useContext +onlyGivenNames x4 x6
        have h7 : As h0 x6 := keeps_step h3 setChan_keeps
        clear_value x6
        refine keeps_ite ?_ ?_
        · exact keeps_step h7 applyBand_keeps
        · exact h7))
  clear_value x1
  have h9 : As h0 x8 := setBit_keeps (keeps_step h2 setChStates_keeps) (covers .GRANARY_SR rfl)
  clear_value x8
  have h11 : As h0 x10 := setBit_keeps h9 (covers .CLKPWR_STAT rfl)
  clear_value x10
  refine keeps_ite ?_ ?_
  · exact h11
  · refine keeps_ite ?_ ?_
    · exact keeps_step h11 startSrExit_keeps
    · exact h11

theorem granarySrWrite_keeps {s : State} {v : Word} :
    Keeps [.granary] [.GRANARY_STAT, .GRANARY_SR] s (State.granarySrWrite s v) := by
  unfold State.granarySrWrite
  have h0 : Keeps [.granary] [.GRANARY_STAT, .GRANARY_SR] s s := keeps_refl
  extract_lets -useContext +onlyGivenNames x1
  have h2 : As h0 x1 := writeByCodes_keeps h0 (covers .GRANARY_SR rfl)
  clear_value x1
  refine keeps_ite ?_ ?_
  · exact keeps_step h2 startSrEntry_keeps
  · refine keeps_ite ?_ ?_
    · exact keeps_step h2 startSrExit_keeps
    · extract_lets -useContext +onlyGivenNames x3
      have h4 : As h0 x3 := keeps_ite (keeps_step (keeps_step h2 setChState_keeps) admitHeld_keeps) h2
      clear_value x3
      refine keeps_ite ?_ ?_
      · exact keeps_step (keeps_step h4 setChState_keeps) admitHeld_keeps
      · exact h4

theorem execGranaryReady_keeps {c : Fin 2} {s : State} :
    ∃ t, execGranaryReady c s = .next t ∧ Keeps [.granary] [.GRANARY_STAT] s t := by
  unfold execGranaryReady
  have h0 : Keeps [.granary] [.GRANARY_STAT] s s := keeps_refl
  exact ⟨_, rfl, (keeps_ite (keeps_step h0 channelReady_keeps) h0)⟩

theorem finishSrExit_keeps {s : State} :
    Keeps [.granary] [.GRANARY_STAT, .GRANARY_EVT] s (State.finishSrExit s) := by
  unfold State.finishSrExit
  have h0 : Keeps [.granary] [.GRANARY_STAT, .GRANARY_EVT] s s := keeps_refl
  exact keeps_foldl h0 (fun _ _ h1 => (keeps_ite (keeps_step (keeps_step h1 applyBand_keeps) channelReady_keeps) h1))

theorem execSelfRefreshExit_keeps {a1 : Requester} {v : Word} {s : State} :
    ∃ t, execSelfRefreshExit a1 v s = .next t ∧ Keeps [.resp, .granary] [.GRANARY_STAT, .GRANARY_SR] s t := by
  unfold execSelfRefreshExit
  have h0 : Keeps [.resp, .granary] [.GRANARY_STAT, .GRANARY_SR] s s := keeps_refl
  exact ⟨_, rfl, (keeps_step (keeps_step h0 granarySrWrite_keeps) written_keeps)⟩

theorem granaryCtrlWrite_keeps {s : State} {a1 : Requester} {v : Word} :
    Keeps [.resp, .log, .granary, .subs, .lastEvents] [.GRANARY_CTRL, .GRANARY_STAT, .FAULT_EVT, .FAULT_LOG_WR,
    .FAULT_LOG_LOST] s (State.granaryCtrlWrite s a1 v) := by
  unfold State.granaryCtrlWrite
  have h0 : Keeps [.resp, .log, .granary, .subs, .lastEvents] [.GRANARY_CTRL, .GRANARY_STAT, .FAULT_EVT,
      .FAULT_LOG_WR, .FAULT_LOG_LOST] s s := keeps_refl
  extract_lets -useContext +onlyGivenNames x2 x4 x6
  refine keeps_ite ?_ ?_
  · exact keeps_step h0 refuse_keeps
  · refine keeps_ite ?_ ?_
    · exact keeps_step h0 refuse_keeps
    · extract_lets -useContext +onlyGivenNames x8 x10
      have h11 : As h0 x10 := keeps_step (writeByCodes_keeps h0 (covers .GRANARY_CTRL rfl)) written_keeps
      clear_value x10
      refine keeps_ite ?_ ?_
      · exact keeps_foldl (keeps_step h11 setChStates_keeps) (fun _ _ h12 => (keeps_step h12 setChan_keeps))
      · refine keeps_ite ?_ ?_
        · exact keeps_foldl h11 (fun _ _ h13 => (keeps_step (keeps_step h13 setChState_keeps) setChan_keeps))
        · exact h11

theorem refreshRank_keeps {s : State} {c : Nat} {k : Nat} :
    Keeps [.granary] [.GRANARY_STAT, .GRANARY_EVT] s (State.refreshRank s c k) := by
  unfold State.refreshRank
  have h0 : Keeps [.granary] [.GRANARY_STAT, .GRANARY_EVT] s s := keeps_refl
  extract_lets -useContext +onlyGivenNames x1 x3 x5
  have h6 : As h0 x5 := keeps_step h0 setChan_keeps
  clear_value x5
  exact keeps_step h6 applyBand_keeps

theorem initGoWrite_keeps {s : State} {a1 : Requester} {v : Word} :
    Keeps [.resp, .log, .granary, .subs, .lastEvents] [.GRANARY_STAT, .GRANARY_EVT, .GRANARY_SR, .FAULT_EVT,
    .FAULT_LOG_WR, .FAULT_LOG_LOST] s (State.initGoWrite s a1 v) := by
  unfold State.initGoWrite
  have h0 : Keeps [.resp, .log, .granary, .subs, .lastEvents] [.GRANARY_STAT, .GRANARY_EVT, .GRANARY_SR, .FAULT_EVT,
      .FAULT_LOG_WR, .FAULT_LOG_LOST] s s := keeps_refl
  extract_lets -useContext +onlyGivenNames x2 x4
  refine keeps_ite ?_ ?_
  · exact keeps_step h0 written_keeps
  · refine keeps_ite ?_ ?_
    · exact keeps_step h0 written_keeps
    · refine keeps_ite ?_ ?_
      · exact keeps_step h0 refuse_keeps
      · refine keeps_ite ?_ ?_
        · exact keeps_step (keeps_step h0 dramEntry_keeps) refuse_keeps
        · refine keeps_ite ?_ ?_
          · exact keeps_step h0 refuse_keeps
          · extract_lets -useContext +onlyGivenNames x6 x8 x10 x12
            have h11 : As h0 x10 := keeps_granary h0 _
            have h13 : As h0 x12 := keeps_ite (keeps_step h11 startSrExit_keeps) h11
            clear_value x12
            exact keeps_step (setBit_keeps h13 (covers .GRANARY_STAT rfl)) written_keeps

theorem execRefreshTimer_keeps {c : Fin 2} {rank : Fin 2} {s : State} :
    ∃ t, execRefreshTimer c rank s = .next t ∧ Keeps [.granary] [.GRANARY_STAT, .GRANARY_EVT] s t := by
  unfold execRefreshTimer
  have h0 : Keeps [.granary] [.GRANARY_STAT, .GRANARY_EVT] s s := keeps_refl
  exact ⟨_, rfl, (by
        extract_lets -useContext +onlyGivenNames x1 x3 x5
        refine keeps_ite ?_ ?_
        · exact h0
        · extract_lets -useContext +onlyGivenNames x7 x9 x11 x13 x15
          have h16 : As h0 x15 := keeps_step h0 setChan_keeps
          clear_value x15
          refine keeps_ite ?_ ?_
          · exact keeps_step h16 refreshRank_keeps
          · exact h16)⟩

theorem wakeNow_keeps {s : State} :
    Keeps [.granary] [.GRANARY_STAT, .GRANARY_EVT, .CLKPWR_STAT] s (State.wakeNow s) := by
  unfold State.wakeNow
  have h0 : Keeps [.granary] [.GRANARY_STAT, .GRANARY_EVT, .CLKPWR_STAT] s s := keeps_refl
  refine keeps_ite ?_ ?_
  · exact keeps_step (setBit_keeps h0 (covers .CLKPWR_STAT rfl)) finishSrExit_keeps
  · exact h0

theorem execGranaryInit_keeps {a1 : Requester} {v : Word} {s : State} :
    ∃ t, execGranaryInit a1 v s = .next t ∧ Keeps [.resp, .log, .granary, .subs, .lastEvents] [.GRANARY_CTRL,
    .GRANARY_STAT, .FAULT_EVT, .FAULT_LOG_WR, .FAULT_LOG_LOST] s t := by
  unfold execGranaryInit
  have h0 : Keeps [.resp, .log, .granary, .subs, .lastEvents] [.GRANARY_CTRL, .GRANARY_STAT, .FAULT_EVT,
      .FAULT_LOG_WR, .FAULT_LOG_LOST] s s := keeps_refl
  exact ⟨_, rfl, (keeps_step h0 granaryCtrlWrite_keeps)⟩

theorem execDramRequest_keeps {a1 : Requester} {addr : Nat} {len : Nat} {data : Option (List Byte)} {s : State} :
    ∃ t, execDramRequest a1 addr len data s = .next t ∧ Keeps [.resp, .log, .granary, .subs, .lastEvents]
    [.GRANARY_STAT, .GRANARY_SR, .FAULT_EVT, .FAULT_LOG_WR, .FAULT_LOG_LOST] s t := by
  unfold execDramRequest
  have h0 : Keeps [.resp, .log, .granary, .subs, .lastEvents] [.GRANARY_STAT, .GRANARY_SR, .FAULT_EVT, .FAULT_LOG_WR,
      .FAULT_LOG_LOST] s s := keeps_refl
  exact ⟨_, rfl, (by
        extract_lets -useContext +onlyGivenNames x2
        refine keeps_ite ?_ ?_
        · exact keeps_step h0 refuse_keeps
        · refine keeps_ite ?_ ?_
          · exact keeps_step (keeps_step h0 errResp_keeps) logFault_keeps
          · split
            · rename State => t4
              have h6 : As h0 t4 := keeps_of_2 (by assumption) (keeps_step h0 dramSubmit_keeps)
              refine keeps_ite ?_ ?_
              · extract_lets -useContext +onlyGivenNames x7
                exact keeps_granary h6 _
              · exact h6)⟩

theorem execSelfRefreshRequest_keeps {a1 : Requester} {v : Word} {s : State} :
    ∃ t, execSelfRefreshRequest a1 v s = .next t ∧ Keeps [.resp, .granary] [.GRANARY_STAT, .GRANARY_SR] s t := by
  unfold execSelfRefreshRequest
  have h0 : Keeps [.resp, .granary] [.GRANARY_STAT, .GRANARY_SR] s s := keeps_refl
  exact ⟨_, rfl, (keeps_step (keeps_step h0 granarySrWrite_keeps) written_keeps)⟩

theorem execInitFill_keeps {a1 : Requester} {v : Word} {s : State} :
    ∃ t, execInitFill a1 v s = .next t ∧ Keeps [.resp, .log, .granary, .subs, .lastEvents] [.GRANARY_STAT,
    .GRANARY_EVT, .GRANARY_SR, .FAULT_EVT, .FAULT_LOG_WR, .FAULT_LOG_LOST] s t := by
  unfold execInitFill
  have h0 : Keeps [.resp, .log, .granary, .subs, .lastEvents] [.GRANARY_STAT, .GRANARY_EVT, .GRANARY_SR, .FAULT_EVT,
      .FAULT_LOG_WR, .FAULT_LOG_LOST] s s := keeps_refl
  exact ⟨_, rfl, (keeps_step h0 initGoWrite_keeps)⟩

theorem writePartDone_keeps {s : State} {id : Nat} {ok : Bool} :
    Keeps [.resp, .log, .link, .granary, .subs, .lastEvents] [.LINK_STAT, .LINK_LANEn_STAT, .FAULT_EVT,
    .FAULT_LOG_WR, .FAULT_LOG_LOST] s (State.writePartDone s id ok) := by
  unfold State.writePartDone
  have h0 : Keeps [.resp, .log, .link, .granary, .subs, .lastEvents] [.LINK_STAT, .LINK_LANEn_STAT, .FAULT_EVT,
      .FAULT_LOG_WR, .FAULT_LOG_LOST] s s := keeps_refl
  split
  · exact h0
  · extract_lets -useContext +onlyGivenNames x1 x3
    refine keeps_ite ?_ ?_
    · extract_lets -useContext +onlyGivenNames x5 x7
      have h8 : As h0 x7 := keeps_granary h0 _
      refine keeps_ite ?_ ?_
      · refine keeps_ite ?_ ?_
        · exact keeps_step (keeps_step h8 sendEvent_keeps) logFault_keeps
        · exact h8
      · exact keeps_resp h8 _
    · exact keeps_granary h0 _

theorem finishReq_keeps {s : State} {q : DramReq} {ok : Bool} {data : List Byte} :
    Keeps [.resp, .log, .link, .granary, .subs, .lastEvents] [.LINK_STAT, .LINK_LANEn_STAT, .FAULT_EVT,
    .FAULT_LOG_WR, .FAULT_LOG_LOST] s (State.finishReq s q ok data) := by
  unfold State.finishReq
  have h0 : Keeps [.resp, .log, .link, .granary, .subs, .lastEvents] [.LINK_STAT, .LINK_LANEn_STAT, .FAULT_EVT,
      .FAULT_LOG_WR, .FAULT_LOG_LOST] s s := keeps_refl
  extract_lets -useContext +onlyGivenNames x1
  refine keeps_ite ?_ ?_
  · exact keeps_step h0 answer_keeps
  · refine keeps_ite ?_ ?_
    · refine keeps_ite ?_ ?_
      · exact keeps_step h0 answer_keeps
      · exact h0
    · refine keeps_ite ?_ ?_
      · exact keeps_step h0 fillBlock_keeps
      · refine keeps_ite ?_ ?_
        · exact keeps_step h0 writePartDone_keeps
        · refine keeps_ite ?_ ?_
          · exact keeps_step h0 answer_keeps
          · exact keeps_resp h0 _

theorem failWrite_keeps {s : State} {c : Nat} {q : DramReq} :
    Keeps [.resp, .log, .link, .granary, .subs, .lastEvents] [.LINK_STAT, .LINK_LANEn_STAT, .FAULT_EVT,
    .FAULT_LOG_WR, .FAULT_LOG_LOST] s (State.failWrite s c q) := by
  unfold State.failWrite
  have h0 : Keeps [.resp, .log, .link, .granary, .subs, .lastEvents] [.LINK_STAT, .LINK_LANEn_STAT, .FAULT_EVT,
      .FAULT_LOG_WR, .FAULT_LOG_LOST] s s := keeps_refl
  extract_lets -useContext +onlyGivenNames x1
  split
  · extract_lets -useContext +onlyGivenNames x3
    split
    · extract_lets -useContext +onlyGivenNames x5 x7
      have h6 : As h0 x5 := keeps_step h0 setChan_keeps
      clear_value x5
      have h8 : As h0 x7 := keeps_step h6 finishReq_keeps
      clear_value x7
      exact keeps_step (keeps_foldl h8 (fun _ _ h9 => (keeps_step h9 finishReq_keeps))) admitHeld_keeps

theorem writeFinish_keeps {s : State} {c : Nat} {f : DramReq → Bool} :
    Keeps [.resp, .log, .link, .granary, .dramValid, .subs, .lastEvents, .dram] [.LINK_STAT, .LINK_LANEn_STAT,
    .FAULT_EVT, .FAULT_LOG_WR, .FAULT_LOG_LOST] s (State.writeFinish s c f) := by
  unfold State.writeFinish
  have h0 : Keeps [.resp, .log, .link, .granary, .dramValid, .subs, .lastEvents, .dram] [.LINK_STAT,
      .LINK_LANEn_STAT, .FAULT_EVT, .FAULT_LOG_WR, .FAULT_LOG_LOST] s s := keeps_refl
  extract_lets -useContext +onlyGivenNames x1
  split
  · exact h0
  · refine keeps_ite ?_ ?_
    · exact h0
    · extract_lets -useContext +onlyGivenNames x3
      have h4 : As h0 x3 := keeps_step h0 setChan_keeps
      clear_value x3
      exact keeps_step (keeps_step h4 putBlock_keeps) finishReq_keeps

theorem execDramWriteArrival_keeps {c : Fin 2} {s : State} :
    ∃ t, execDramWriteArrival c s = .next t ∧ Keeps [.resp, .log, .link, .granary, .dramValid, .subs, .lastEvents,
    .dram] [.LINK_STAT, .LINK_LANEn_STAT, .FAULT_EVT, .FAULT_LOG_WR, .FAULT_LOG_LOST] s t := by
  unfold execDramWriteArrival
  have h0 : Keeps [.resp, .log, .link, .granary, .dramValid, .subs, .lastEvents, .dram] [.LINK_STAT,
      .LINK_LANEn_STAT, .FAULT_EVT, .FAULT_LOG_WR, .FAULT_LOG_LOST] s s := keeps_refl
  exact ⟨_, rfl, (keeps_step h0 writeFinish_keeps)⟩

theorem dramError_keeps {s : State} {c : Nat} {type : Nat} {req : Nat} {addr : Nat} :
    Keeps [.freeCtr, .log, .link, .dma, .granary, .pend, .landed, .weaver, .hcs, .cal, .axes, .eth, .pages, .subs,
    .lastEvents, .tones, .nozGain] [.LINK_STAT, .LINK_LANEn_STAT, .DMA_HALT_EVT, .DMA_CHn_STAT, .GRANARY_EVT,
    .GRANARY_CHc_RDERR, .GRANARY_CHc_RMWERR, .WEAVER_KERNEL, .WEAVER_MASKLINE, .HC_STAT, .HC_EVT, .HC_COMBLINE,
    .HC_SCAN_PTR, .BR_CTRL, .BR_STAT, .BR_EVT, .BR_FMAX, .BR_SNAPLINE, .FAULT_STAT, .FAULT_EVT, .FAULT_LOG_WR,
    .FAULT_LOG_LOST, .CAL_HCh_NOW, .CAL_HCh_STAT, .CLKPWR_STAT, .CLKPWR_EVT] s (State.dramError s c type req addr) :=
    by
  unfold State.dramError
  have h0 : Keeps [.freeCtr, .log, .link, .dma, .granary, .pend, .landed, .weaver, .hcs, .cal, .axes, .eth, .pages,
      .subs, .lastEvents, .tones, .nozGain] [.LINK_STAT, .LINK_LANEn_STAT, .DMA_HALT_EVT, .DMA_CHn_STAT,
      .GRANARY_EVT, .GRANARY_CHc_RDERR, .GRANARY_CHc_RMWERR, .WEAVER_KERNEL, .WEAVER_MASKLINE, .HC_STAT, .HC_EVT,
      .HC_COMBLINE, .HC_SCAN_PTR, .BR_CTRL, .BR_STAT, .BR_EVT, .BR_FMAX, .BR_SNAPLINE, .FAULT_STAT, .FAULT_EVT,
      .FAULT_LOG_WR, .FAULT_LOG_LOST, .CAL_HCh_NOW, .CAL_HCh_STAT, .CLKPWR_STAT, .CLKPWR_EVT] s s := keeps_refl
  extract_lets -useContext +onlyGivenNames x1 x3 x5 x7 x9 x11 x13 x15 x17 x19
  have h2 : As h0 x1 := keeps_ite (orFld_keeps (count_keeps h0 (covers .GRANARY_CHc_RDERR ⟨_, rfl⟩)) (covers
      .GRANARY_EVT rfl)) (keeps_ite (setBit_keeps (count_keeps h0 (covers .GRANARY_CHc_RMWERR ⟨_, rfl⟩)) (covers
      .GRANARY_EVT rfl)) h0)
  clear_value x1
  have h4 : As h0 x3 := keeps_step h2 logFault_keeps
  clear_value x3
  have h6 : As h0 x5 := keeps_step h4 dramEntry_keeps
  clear_value x5
  have h20 : As h0 x19 := keeps_step h6 setChan_keeps
  clear_value x19
  refine keeps_ite ?_ ?_
  · extract_lets -useContext +onlyGivenNames x21
    have h22 : As h0 x21 := setBit_keeps h20 (covers .GRANARY_EVT rfl)
    clear_value x21
    exact keeps_step (keeps_step h22 logFault_keeps) safeStop_keeps
  · exact h20

theorem readFinish_keeps {s : State} {c : Nat} {f : DramReq → Bool} {seen : Option (List (List Byte))} :
    Keeps [.resp, .freeCtr, .log, .link, .dma, .granary, .pend, .landed, .weaver, .hcs, .cal, .axes, .eth, .pages,
    .subs, .lastEvents, .tones, .nozGain] [.LINK_STAT, .LINK_LANEn_STAT, .DMA_HALT_EVT, .DMA_CHn_STAT, .GRANARY_EVT,
    .GRANARY_CHc_RDERR, .GRANARY_CHc_RMWERR, .WEAVER_KERNEL, .WEAVER_MASKLINE, .HC_STAT, .HC_EVT, .HC_COMBLINE,
    .HC_SCAN_PTR, .BR_CTRL, .BR_STAT, .BR_EVT, .BR_FMAX, .BR_SNAPLINE, .FAULT_STAT, .FAULT_EVT, .FAULT_LOG_WR,
    .FAULT_LOG_LOST, .CAL_HCh_NOW, .CAL_HCh_STAT, .CLKPWR_STAT, .CLKPWR_EVT] s (State.readFinish s c f seen) := by
  unfold State.readFinish
  have h0 : Keeps [.resp, .freeCtr, .log, .link, .dma, .granary, .pend, .landed, .weaver, .hcs, .cal, .axes, .eth,
      .pages, .subs, .lastEvents, .tones, .nozGain] [.LINK_STAT, .LINK_LANEn_STAT, .DMA_HALT_EVT, .DMA_CHn_STAT,
      .GRANARY_EVT, .GRANARY_CHc_RDERR, .GRANARY_CHc_RMWERR, .WEAVER_KERNEL, .WEAVER_MASKLINE, .HC_STAT, .HC_EVT,
      .HC_COMBLINE, .HC_SCAN_PTR, .BR_CTRL, .BR_STAT, .BR_EVT, .BR_FMAX, .BR_SNAPLINE, .FAULT_STAT, .FAULT_EVT,
      .FAULT_LOG_WR, .FAULT_LOG_LOST, .CAL_HCh_NOW, .CAL_HCh_STAT, .CLKPWR_STAT, .CLKPWR_EVT] s s := keeps_refl
  extract_lets -useContext +onlyGivenNames x1
  split
  · exact h0
  · refine keeps_ite ?_ ?_
    · exact h0
    · extract_lets -useContext +onlyGivenNames x3
      have h4 : As h0 x3 := keeps_step h0 setChan_keeps
      clear_value x3
      split
      · exact keeps_step h4 finishReq_keeps
      · exact keeps_step (keeps_step h4 dramError_keeps) finishReq_keeps

theorem execDramReadComplete_keeps {c : Fin 2} {seen : Option (List (List Byte))} {s : State} :
    ∃ t, execDramReadComplete c seen s = .next t ∧ Keeps [.resp, .freeCtr, .log, .link, .dma, .granary, .pend,
    .landed, .weaver, .hcs, .cal, .axes, .eth, .pages, .subs, .lastEvents, .tones, .nozGain] [.LINK_STAT,
    .LINK_LANEn_STAT, .DMA_HALT_EVT, .DMA_CHn_STAT, .GRANARY_EVT, .GRANARY_CHc_RDERR, .GRANARY_CHc_RMWERR,
    .WEAVER_KERNEL, .WEAVER_MASKLINE, .HC_STAT, .HC_EVT, .HC_COMBLINE, .HC_SCAN_PTR, .BR_CTRL, .BR_STAT, .BR_EVT,
    .BR_FMAX, .BR_SNAPLINE, .FAULT_STAT, .FAULT_EVT, .FAULT_LOG_WR, .FAULT_LOG_LOST, .CAL_HCh_NOW, .CAL_HCh_STAT,
    .CLKPWR_STAT, .CLKPWR_EVT] s t := by
  unfold execDramReadComplete
  have h0 : Keeps [.resp, .freeCtr, .log, .link, .dma, .granary, .pend, .landed, .weaver, .hcs, .cal, .axes, .eth,
      .pages, .subs, .lastEvents, .tones, .nozGain] [.LINK_STAT, .LINK_LANEn_STAT, .DMA_HALT_EVT, .DMA_CHn_STAT,
      .GRANARY_EVT, .GRANARY_CHc_RDERR, .GRANARY_CHc_RMWERR, .WEAVER_KERNEL, .WEAVER_MASKLINE, .HC_STAT, .HC_EVT,
      .HC_COMBLINE, .HC_SCAN_PTR, .BR_CTRL, .BR_STAT, .BR_EVT, .BR_FMAX, .BR_SNAPLINE, .FAULT_STAT, .FAULT_EVT,
      .FAULT_LOG_WR, .FAULT_LOG_LOST, .CAL_HCh_NOW, .CAL_HCh_STAT, .CLKPWR_STAT, .CLKPWR_EVT] s s := keeps_refl
  exact ⟨_, rfl, (keeps_step h0 readFinish_keeps)⟩

theorem commandError_keeps {s : State} {c : Nat} :
    Keeps [.resp, .freeCtr, .log, .link, .dma, .granary, .pend, .landed, .weaver, .hcs, .cal, .axes, .eth, .pages,
    .subs, .lastEvents, .tones, .nozGain] [.LINK_STAT, .LINK_LANEn_STAT, .DMA_HALT_EVT, .DMA_CHn_STAT, .GRANARY_EVT,
    .GRANARY_CHc_RDERR, .GRANARY_CHc_CAPAR, .GRANARY_CHc_RMWERR, .WEAVER_KERNEL, .WEAVER_MASKLINE, .HC_STAT, .HC_EVT,
    .HC_COMBLINE, .HC_SCAN_PTR, .BR_CTRL, .BR_STAT, .BR_EVT, .BR_FMAX, .BR_SNAPLINE, .FAULT_STAT, .FAULT_EVT,
    .FAULT_LOG_WR, .FAULT_LOG_LOST, .CAL_HCh_NOW, .CAL_HCh_STAT, .CLKPWR_STAT, .CLKPWR_EVT] s (State.commandError s
    c) := by
  unfold State.commandError
  have h0 : Keeps [.resp, .freeCtr, .log, .link, .dma, .granary, .pend, .landed, .weaver, .hcs, .cal, .axes, .eth,
      .pages, .subs, .lastEvents, .tones, .nozGain] [.LINK_STAT, .LINK_LANEn_STAT, .DMA_HALT_EVT, .DMA_CHn_STAT,
      .GRANARY_EVT, .GRANARY_CHc_RDERR, .GRANARY_CHc_CAPAR, .GRANARY_CHc_RMWERR, .WEAVER_KERNEL, .WEAVER_MASKLINE,
      .HC_STAT, .HC_EVT, .HC_COMBLINE, .HC_SCAN_PTR, .BR_CTRL, .BR_STAT, .BR_EVT, .BR_FMAX, .BR_SNAPLINE,
      .FAULT_STAT, .FAULT_EVT, .FAULT_LOG_WR, .FAULT_LOG_LOST, .CAL_HCh_NOW, .CAL_HCh_STAT, .CLKPWR_STAT,
      .CLKPWR_EVT] s s := keeps_refl
  extract_lets -useContext +onlyGivenNames x1 x3 x5 x7 x9 x11 x13
  have h10 : As h0 x9 := keeps_step h0 setChan_keeps
  clear_value x9
  have h12 : As h0 x11 := count_keeps h10 (covers .GRANARY_CHc_CAPAR ⟨_, rfl⟩)
  clear_value x11
  have h14 : As h0 x13 := orFld_keeps h12 (covers .GRANARY_EVT rfl)
  clear_value x13
  exact keeps_foldl h14 (fun _ _ h15 => (by
        split
        · exact keeps_step (keeps_step h15 dramError_keeps) finishReq_keeps
        · exact keeps_step (keeps_step h15 dramError_keeps) failWrite_keeps))

theorem issue_keeps {s : State} {c : Nat} {q : DramReq} {seen : Option (List (List Byte))} :
    Keeps [.resp, .freeCtr, .log, .link, .dma, .granary, .pend, .landed, .weaver, .hcs, .cal, .axes, .eth, .pages,
    .subs, .lastEvents, .tones, .nozGain] [.LINK_STAT, .LINK_LANEn_STAT, .DMA_HALT_EVT, .DMA_CHn_STAT, .GRANARY_EVT,
    .GRANARY_CHc_RDERR, .GRANARY_CHc_RMWERR, .WEAVER_KERNEL, .WEAVER_MASKLINE, .HC_STAT, .HC_EVT, .HC_COMBLINE,
    .HC_SCAN_PTR, .BR_CTRL, .BR_STAT, .BR_EVT, .BR_FMAX, .BR_SNAPLINE, .FAULT_STAT, .FAULT_EVT, .FAULT_LOG_WR,
    .FAULT_LOG_LOST, .CAL_HCh_NOW, .CAL_HCh_STAT, .CLKPWR_STAT, .CLKPWR_EVT] s (State.issue s c q seen) := by
  unfold State.issue
  have h0 : Keeps [.resp, .freeCtr, .log, .link, .dma, .granary, .pend, .landed, .weaver, .hcs, .cal, .axes, .eth,
      .pages, .subs, .lastEvents, .tones, .nozGain] [.LINK_STAT, .LINK_LANEn_STAT, .DMA_HALT_EVT, .DMA_CHn_STAT,
      .GRANARY_EVT, .GRANARY_CHc_RDERR, .GRANARY_CHc_RMWERR, .WEAVER_KERNEL, .WEAVER_MASKLINE, .HC_STAT, .HC_EVT,
      .HC_COMBLINE, .HC_SCAN_PTR, .BR_CTRL, .BR_STAT, .BR_EVT, .BR_FMAX, .BR_SNAPLINE, .FAULT_STAT, .FAULT_EVT,
      .FAULT_LOG_WR, .FAULT_LOG_LOST, .CAL_HCh_NOW, .CAL_HCh_STAT, .CLKPWR_STAT, .CLKPWR_EVT] s s := keeps_refl
  extract_lets -useContext +onlyGivenNames x1 x3 x5
  have h6 : As h0 x5 := keeps_step h0 setChan_keeps
  clear_value x5
  split
  · exact keeps_step h6 setChan_keeps
  · refine keeps_ite ?_ ?_
    · exact keeps_step h6 sendBurst_keeps
    · split
      · exact keeps_step h6 sendBurst_keeps
      · split
        · exact keeps_step h6 sendBurst_keeps
        · exact keeps_step (keeps_step h6 dramError_keeps) failWrite_keeps

theorem execAlertN_keeps {c : Fin 2} {s : State} :
    ∃ t, execAlertN c s = .next t ∧ Keeps [.resp, .freeCtr, .log, .link, .dma, .granary, .pend, .landed, .weaver,
    .hcs, .cal, .axes, .eth, .pages, .subs, .lastEvents, .tones, .nozGain] [.LINK_STAT, .LINK_LANEn_STAT,
    .DMA_HALT_EVT, .DMA_CHn_STAT, .GRANARY_EVT, .GRANARY_CHc_RDERR, .GRANARY_CHc_CAPAR, .GRANARY_CHc_RMWERR,
    .WEAVER_KERNEL, .WEAVER_MASKLINE, .HC_STAT, .HC_EVT, .HC_COMBLINE, .HC_SCAN_PTR, .BR_CTRL, .BR_STAT, .BR_EVT,
    .BR_FMAX, .BR_SNAPLINE, .FAULT_STAT, .FAULT_EVT, .FAULT_LOG_WR, .FAULT_LOG_LOST, .CAL_HCh_NOW, .CAL_HCh_STAT,
    .CLKPWR_STAT, .CLKPWR_EVT] s t := by
  unfold execAlertN
  have h0 : Keeps [.resp, .freeCtr, .log, .link, .dma, .granary, .pend, .landed, .weaver, .hcs, .cal, .axes, .eth,
      .pages, .subs, .lastEvents, .tones, .nozGain] [.LINK_STAT, .LINK_LANEn_STAT, .DMA_HALT_EVT, .DMA_CHn_STAT,
      .GRANARY_EVT, .GRANARY_CHc_RDERR, .GRANARY_CHc_CAPAR, .GRANARY_CHc_RMWERR, .WEAVER_KERNEL, .WEAVER_MASKLINE,
      .HC_STAT, .HC_EVT, .HC_COMBLINE, .HC_SCAN_PTR, .BR_CTRL, .BR_STAT, .BR_EVT, .BR_FMAX, .BR_SNAPLINE,
      .FAULT_STAT, .FAULT_EVT, .FAULT_LOG_WR, .FAULT_LOG_LOST, .CAL_HCh_NOW, .CAL_HCh_STAT, .CLKPWR_STAT,
      .CLKPWR_EVT] s s := keeps_refl
  exact ⟨_, rfl, (keeps_step h0 commandError_keeps)⟩

theorem slot_keeps {s : State} {c : Nat} {seen : Option (List (List Byte))} :
    Keeps [.resp, .freeCtr, .log, .link, .dma, .granary, .pend, .landed, .weaver, .hcs, .cal, .axes, .eth, .pages,
    .subs, .lastEvents, .tones, .nozGain] [.LINK_STAT, .LINK_LANEn_STAT, .DMA_HALT_EVT, .DMA_CHn_STAT, .GRANARY_STAT,
    .GRANARY_EVT, .GRANARY_CHc_RDERR, .GRANARY_CHc_RMWERR, .GRANARY_CHc_QUEUE, .WEAVER_KERNEL, .WEAVER_MASKLINE,
    .HC_STAT, .HC_EVT, .HC_COMBLINE, .HC_SCAN_PTR, .BR_CTRL, .BR_STAT, .BR_EVT, .BR_FMAX, .BR_SNAPLINE, .FAULT_STAT,
    .FAULT_EVT, .FAULT_LOG_WR, .FAULT_LOG_LOST, .CAL_HCh_NOW, .CAL_HCh_STAT, .CLKPWR_STAT, .CLKPWR_EVT] s (State.slot
    s c seen) := by
  unfold State.slot
  have h0 : Keeps [.resp, .freeCtr, .log, .link, .dma, .granary, .pend, .landed, .weaver, .hcs, .cal, .axes, .eth,
      .pages, .subs, .lastEvents, .tones, .nozGain] [.LINK_STAT, .LINK_LANEn_STAT, .DMA_HALT_EVT, .DMA_CHn_STAT,
      .GRANARY_STAT, .GRANARY_EVT, .GRANARY_CHc_RDERR, .GRANARY_CHc_RMWERR, .GRANARY_CHc_QUEUE, .WEAVER_KERNEL,
      .WEAVER_MASKLINE, .HC_STAT, .HC_EVT, .HC_COMBLINE, .HC_SCAN_PTR, .BR_CTRL, .BR_STAT, .BR_EVT, .BR_FMAX,
      .BR_SNAPLINE, .FAULT_STAT, .FAULT_EVT, .FAULT_LOG_WR, .FAULT_LOG_LOST, .CAL_HCh_NOW, .CAL_HCh_STAT,
      .CLKPWR_STAT, .CLKPWR_EVT] s s := keeps_refl
  refine keeps_ite ?_ ?_
  · exact h0
  · extract_lets -useContext +onlyGivenNames x1 x3
    have h2 : As h0 x1 := keeps_step (keeps_step h0 admitHeld_keeps) fillEnter_keeps
    clear_value x1
    refine keeps_ite ?_ ?_
    · exact keeps_step h2 refreshRank_keeps
    · refine keeps_ite ?_ ?_
      · exact keeps_step h2 setChan_keeps
      · extract_lets -useContext +onlyGivenNames x5
        split
        · exact h2
        · extract_lets -useContext +onlyGivenNames x7 x9 x11 x13
          have h12 : As h0 x11 := keeps_step h2 setChan_keeps
          clear_value x11
          have h14 : As h0 x13 := setFld_keeps h12 (covers .GRANARY_CHc_QUEUE ⟨_, rfl⟩)
          clear_value x13
          exact keeps_step (keeps_step h14 issue_keeps) admitHeld_keeps

theorem execCommandSlot_keeps {c : Fin 2} {seen : Option (List (List Byte))} {s : State} :
    ∃ t, execCommandSlot c seen s = .next t ∧ Keeps [.resp, .freeCtr, .log, .link, .dma, .granary, .pend, .landed,
    .weaver, .hcs, .cal, .axes, .eth, .pages, .subs, .lastEvents, .tones, .nozGain] [.LINK_STAT, .LINK_LANEn_STAT,
    .DMA_HALT_EVT, .DMA_CHn_STAT, .GRANARY_STAT, .GRANARY_EVT, .GRANARY_CHc_RDERR, .GRANARY_CHc_RMWERR,
    .GRANARY_CHc_QUEUE, .WEAVER_KERNEL, .WEAVER_MASKLINE, .HC_STAT, .HC_EVT, .HC_COMBLINE, .HC_SCAN_PTR, .BR_CTRL,
    .BR_STAT, .BR_EVT, .BR_FMAX, .BR_SNAPLINE, .FAULT_STAT, .FAULT_EVT, .FAULT_LOG_WR, .FAULT_LOG_LOST, .CAL_HCh_NOW,
    .CAL_HCh_STAT, .CLKPWR_STAT, .CLKPWR_EVT] s t := by
  unfold execCommandSlot
  have h0 : Keeps [.resp, .freeCtr, .log, .link, .dma, .granary, .pend, .landed, .weaver, .hcs, .cal, .axes, .eth,
      .pages, .subs, .lastEvents, .tones, .nozGain] [.LINK_STAT, .LINK_LANEn_STAT, .DMA_HALT_EVT, .DMA_CHn_STAT,
      .GRANARY_STAT, .GRANARY_EVT, .GRANARY_CHc_RDERR, .GRANARY_CHc_RMWERR, .GRANARY_CHc_QUEUE, .WEAVER_KERNEL,
      .WEAVER_MASKLINE, .HC_STAT, .HC_EVT, .HC_COMBLINE, .HC_SCAN_PTR, .BR_CTRL, .BR_STAT, .BR_EVT, .BR_FMAX,
      .BR_SNAPLINE, .FAULT_STAT, .FAULT_EVT, .FAULT_LOG_WR, .FAULT_LOG_LOST, .CAL_HCh_NOW, .CAL_HCh_STAT,
      .CLKPWR_STAT, .CLKPWR_EVT] s s := keeps_refl
  exact ⟨_, rfl, (keeps_step h0 slot_keeps)⟩

theorem turn_keeps {s : State} {c : Nat} :
    Keeps [.resp, .freeCtr, .log, .link, .dma, .granary, .dramValid, .pend, .landed, .weaver, .hcs, .cal, .axes,
    .eth, .pages, .subs, .lastEvents, .dram, .tones, .nozGain] [.LINK_STAT, .LINK_LANEn_STAT, .DMA_HALT_EVT,
    .DMA_CHn_STAT, .GRANARY_STAT, .GRANARY_EVT, .GRANARY_CHc_RDERR, .GRANARY_CHc_CAPAR, .GRANARY_CHc_RMWERR,
    .GRANARY_CHc_QUEUE, .WEAVER_KERNEL, .WEAVER_MASKLINE, .HC_STAT, .HC_EVT, .HC_COMBLINE, .HC_SCAN_PTR, .BR_CTRL,
    .BR_STAT, .BR_EVT, .BR_FMAX, .BR_SNAPLINE, .FAULT_STAT, .FAULT_EVT, .FAULT_LOG_WR, .FAULT_LOG_LOST, .CAL_HCh_NOW,
    .CAL_HCh_STAT, .CLKPWR_STAT, .CLKPWR_EVT] s (State.turn s c) := by
  unfold State.turn
  have h0 : Keeps [.resp, .freeCtr, .log, .link, .dma, .granary, .dramValid, .pend, .landed, .weaver, .hcs, .cal,
      .axes, .eth, .pages, .subs, .lastEvents, .dram, .tones, .nozGain] [.LINK_STAT, .LINK_LANEn_STAT, .DMA_HALT_EVT,
      .DMA_CHn_STAT, .GRANARY_STAT, .GRANARY_EVT, .GRANARY_CHc_RDERR, .GRANARY_CHc_CAPAR, .GRANARY_CHc_RMWERR,
      .GRANARY_CHc_QUEUE, .WEAVER_KERNEL, .WEAVER_MASKLINE, .HC_STAT, .HC_EVT, .HC_COMBLINE, .HC_SCAN_PTR, .BR_CTRL,
      .BR_STAT, .BR_EVT, .BR_FMAX, .BR_SNAPLINE, .FAULT_STAT, .FAULT_EVT, .FAULT_LOG_WR, .FAULT_LOG_LOST,
      .CAL_HCh_NOW, .CAL_HCh_STAT, .CLKPWR_STAT, .CLKPWR_EVT] s s := keeps_refl
  extract_lets -useContext +onlyGivenNames x1 x3 x5
  have h4 : As h0 x3 := keeps_step (keeps_step (keeps_step h0 drawn_keeps) slot_keeps) drawn_keeps
  clear_value x3
  have h6 : As h0 x5 := keeps_ite (keeps_step h4 commandError_keeps) h4
  clear_value x5
  exact keeps_step (keeps_step h6 readFinish_keeps) writeFinish_keeps

theorem serveAccess_keeps {a1 : Nat} {a2 : Nat} {a3 : Nat} {a4 : State} :
    Keeps [.resp, .freeCtr, .log, .link, .dma, .granary, .dramValid, .pend, .landed, .weaver, .hcs, .cal, .axes,
    .eth, .pages, .subs, .lastEvents, .dram, .tones, .nozGain] [.LINK_STAT, .LINK_LANEn_STAT, .DMA_HALT_EVT,
    .DMA_CHn_STAT, .GRANARY_STAT, .GRANARY_EVT, .GRANARY_CHc_RDERR, .GRANARY_CHc_CAPAR, .GRANARY_CHc_RMWERR,
    .GRANARY_CHc_QUEUE, .WEAVER_KERNEL, .WEAVER_MASKLINE, .HC_STAT, .HC_EVT, .HC_COMBLINE, .HC_SCAN_PTR, .BR_CTRL,
    .BR_STAT, .BR_EVT, .BR_FMAX, .BR_SNAPLINE, .FAULT_STAT, .FAULT_EVT, .FAULT_LOG_WR, .FAULT_LOG_LOST, .CAL_HCh_NOW,
    .CAL_HCh_STAT, .CLKPWR_STAT, .CLKPWR_EVT] a4 (State.serveAccess a1 a2 a3 a4) := by
  induction a1 generalizing a2 a3 a4 with
  | zero => unfold State.serveAccess; exact keeps_refl
  | succ a1 ih =>
    unfold State.serveAccess
    have h0 : Keeps [.resp, .freeCtr, .log, .link, .dma, .granary, .dramValid, .pend, .landed, .weaver, .hcs, .cal,
        .axes, .eth, .pages, .subs, .lastEvents, .dram, .tones, .nozGain] [.LINK_STAT, .LINK_LANEn_STAT,
        .DMA_HALT_EVT, .DMA_CHn_STAT, .GRANARY_STAT, .GRANARY_EVT, .GRANARY_CHc_RDERR, .GRANARY_CHc_CAPAR,
        .GRANARY_CHc_RMWERR, .GRANARY_CHc_QUEUE, .WEAVER_KERNEL, .WEAVER_MASKLINE, .HC_STAT, .HC_EVT, .HC_COMBLINE,
        .HC_SCAN_PTR, .BR_CTRL, .BR_STAT, .BR_EVT, .BR_FMAX, .BR_SNAPLINE, .FAULT_STAT, .FAULT_EVT, .FAULT_LOG_WR,
        .FAULT_LOG_LOST, .CAL_HCh_NOW, .CAL_HCh_STAT, .CLKPWR_STAT, .CLKPWR_EVT] a4 a4 := keeps_refl
    refine keeps_ite ?_ ?_
    · exact h0
    · exact keeps_step (keeps_step (keeps_step h0 turn_keeps) turn_keeps) ih

theorem dramServe_keeps {s : State} {req : Nat} {addr : Nat} {n : Nat} {data : Option (List Byte)} :
    Keeps [.resp, .freeCtr, .log, .link, .dma, .granary, .dramValid, .pend, .landed, .weaver, .hcs, .cal, .axes,
    .eth, .pages, .subs, .lastEvents, .dram, .tones, .nozGain] [.LINK_STAT, .LINK_LANEn_STAT, .DMA_HALT_EVT,
    .DMA_CHn_STAT, .GRANARY_STAT, .GRANARY_EVT, .GRANARY_SR, .GRANARY_CHc_RDERR, .GRANARY_CHc_CAPAR,
    .GRANARY_CHc_RMWERR, .GRANARY_CHc_QUEUE, .WEAVER_KERNEL, .WEAVER_MASKLINE, .HC_STAT, .HC_EVT, .HC_COMBLINE,
    .HC_SCAN_PTR, .BR_CTRL, .BR_STAT, .BR_EVT, .BR_FMAX, .BR_SNAPLINE, .FAULT_STAT, .FAULT_EVT, .FAULT_LOG_WR,
    .FAULT_LOG_LOST, .CAL_HCh_NOW, .CAL_HCh_STAT, .CLKPWR_STAT, .CLKPWR_EVT] s (State.dramServe s req addr n data).2
    := by
  unfold State.dramServe
  have h0 : Keeps [.resp, .freeCtr, .log, .link, .dma, .granary, .dramValid, .pend, .landed, .weaver, .hcs, .cal,
      .axes, .eth, .pages, .subs, .lastEvents, .dram, .tones, .nozGain] [.LINK_STAT, .LINK_LANEn_STAT, .DMA_HALT_EVT,
      .DMA_CHn_STAT, .GRANARY_STAT, .GRANARY_EVT, .GRANARY_SR, .GRANARY_CHc_RDERR, .GRANARY_CHc_CAPAR,
      .GRANARY_CHc_RMWERR, .GRANARY_CHc_QUEUE, .WEAVER_KERNEL, .WEAVER_MASKLINE, .HC_STAT, .HC_EVT, .HC_COMBLINE,
      .HC_SCAN_PTR, .BR_CTRL, .BR_STAT, .BR_EVT, .BR_FMAX, .BR_SNAPLINE, .FAULT_STAT, .FAULT_EVT, .FAULT_LOG_WR,
      .FAULT_LOG_LOST, .CAL_HCh_NOW, .CAL_HCh_STAT, .CLKPWR_STAT, .CLKPWR_EVT] s s := keeps_refl
  split
  · rename State => t1
    have h3 : As h0 t1 := keeps_of_2 (by assumption) (keeps_step h0 dramSubmit_keeps)
    extract_lets -useContext +onlyGivenNames x4 x6 x8 x10 x12 x14
    have h7 : As h0 x6 := keeps_granary h3 _
    have h13 : As h0 x12 := keeps_step (keeps_step h7 wakeNow_keeps) serveAccess_keeps
    clear_value x12
    exact (by
          extract_lets -useContext +onlyGivenNames x16
          have h17 : As h0 x16 := keeps_step (keeps_step h13 dropAnswers_keeps) withdraw_keeps
          clear_value x16
          exact keeps_granary h17 _)

end Sys2Proof.Laws
end

