-- ==== Sys2Proof/Laws/KeepsAddressMap.lean ====
section
/-! SUPPORT. What each operation of Machine/AddressMap.lean may change (`Keeps`): the parts of the state and the rows of registers. -/

set_option Elab.async false

namespace Sys2Proof.Laws

open Sys2Proof.Machine

theorem setCamPort_keeps {s : State} {n : Nat} {a1 : CamPort} :
    Keeps [.cam] [] s (State.setCamPort s n a1) := by
  unfold State.setCamPort
  have h0 : Keeps [.cam] [] s s := keeps_refl
  exact keeps_cam h0 _

theorem setEnc_keeps {s : State} {e : Nat} {a1 : EncoderSt} :
    Keeps [.miller] [] s (State.setEnc s e a1) := by
  unfold State.setEnc
  have h0 : Keeps [.miller] [] s s := keeps_refl
  exact keeps_miller h0 _

theorem setDec_keeps {s : State} {d : Nat} {a1 : DecoderSt} :
    Keeps [.miller] [] s (State.setDec s d a1) := by
  unfold State.setDec
  have h0 : Keeps [.miller] [] s s := keeps_refl
  exact keeps_miller h0 _

theorem sramWrite_keeps {s : State} {a : Nat} {l : List Byte} {src : Nat} :
    Keeps [.miller, .mem] [] s (State.sramWrite s a l src) := by
  unfold State.sramWrite
  split
  · exact keeps_step keeps_refl setDec_keeps
  · exact keeps_step keeps_refl (setBytes_keeps .mem fun _ _ _ => trivial)

theorem accessRefused_keeps {s : State} {req : Nat} {cause : Nat} :
    Keeps [.log, .subs, .lastEvents] [.FAULT_EVT, .FAULT_LOG_WR, .FAULT_LOG_LOST] s (State.accessRefused s req cause)
    := by
  unfold State.accessRefused
  have h0 : Keeps [.log, .subs, .lastEvents] [.FAULT_EVT, .FAULT_LOG_WR, .FAULT_LOG_LOST] s s := keeps_refl
  exact keeps_step h0 logFault_keeps

theorem memPost_keeps {s : State} {req : Nat} {a : Nat} {l : List Byte} :
    Keeps [.log, .granary, .miller, .subs, .lastEvents, .mem] [.GRANARY_STAT, .GRANARY_SR, .FAULT_EVT, .FAULT_LOG_WR,
    .FAULT_LOG_LOST] s (State.memPost s req a l) := by
  unfold State.memPost
  have h0 : Keeps [.log, .granary, .miller, .subs, .lastEvents, .mem] [.GRANARY_STAT, .GRANARY_SR, .FAULT_EVT,
      .FAULT_LOG_WR, .FAULT_LOG_LOST] s s := keeps_refl
  split
  · refine keeps_ite ?_ ?_
    · exact keeps_step h0 accessRefused_keeps
    · exact keeps_step h0 dramSubmit_keeps
  · exact h0
  · exact keeps_step h0 sramWrite_keeps
  · exact keeps_step h0 accessRefused_keeps

theorem memRead_keeps {s : State} {req : Nat} {a : Nat} {n : Nat} :
    Keeps [.resp, .freeCtr, .log, .link, .dma, .granary, .dramValid, .pend, .landed, .weaver, .hcs, .cal, .axes,
    .eth, .pages, .subs, .lastEvents, .dram, .tones, .nozGain] [.LINK_STAT, .LINK_LANEn_STAT, .DMA_HALT_EVT,
    .DMA_CHn_STAT, .GRANARY_STAT, .GRANARY_EVT, .GRANARY_SR, .GRANARY_CHc_RDERR, .GRANARY_CHc_CAPAR,
    .GRANARY_CHc_RMWERR, .GRANARY_CHc_QUEUE, .WEAVER_KERNEL, .WEAVER_MASKLINE, .HC_STAT, .HC_EVT, .HC_COMBLINE,
    .HC_SCAN_PTR, .BR_CTRL, .BR_STAT, .BR_EVT, .BR_FMAX, .BR_SNAPLINE, .FAULT_STAT, .FAULT_EVT, .FAULT_LOG_WR,
    .FAULT_LOG_LOST, .CAL_HCh_NOW, .CAL_HCh_STAT, .CLKPWR_STAT, .CLKPWR_EVT] s (State.memRead s req a n).2 := by
  unfold State.memRead
  have h0 : Keeps [.resp, .freeCtr, .log, .link, .dma, .granary, .dramValid, .pend, .landed, .weaver, .hcs, .cal,
      .axes, .eth, .pages, .subs, .lastEvents, .dram, .tones, .nozGain] [.LINK_STAT, .LINK_LANEn_STAT, .DMA_HALT_EVT,
      .DMA_CHn_STAT, .GRANARY_STAT, .GRANARY_EVT, .GRANARY_SR, .GRANARY_CHc_RDERR, .GRANARY_CHc_CAPAR,
      .GRANARY_CHc_RMWERR, .GRANARY_CHc_QUEUE, .WEAVER_KERNEL, .WEAVER_MASKLINE, .HC_STAT, .HC_EVT, .HC_COMBLINE,
      .HC_SCAN_PTR, .BR_CTRL, .BR_STAT, .BR_EVT, .BR_FMAX, .BR_SNAPLINE, .FAULT_STAT, .FAULT_EVT, .FAULT_LOG_WR,
      .FAULT_LOG_LOST, .CAL_HCh_NOW, .CAL_HCh_STAT, .CLKPWR_STAT, .CLKPWR_EVT] s s := keeps_refl
  split
  · refine keeps_ite_snd ?_ ?_
    · exact keeps_step h0 accessRefused_keeps
    · split
      · rename State => t1
        have h3 : As h0 t1 := keeps_of_2 (by assumption) (keeps_step h0 dramServe_keeps)
        exact h3
  · exact h0
  · exact h0
  · exact keeps_step h0 accessRefused_keeps

theorem region_sram {s : State} {a : Nat} {g : Region} (h : s.region a = some g) (hr : g ≠ .regs) (hd : g ≠ .dram) :
    a < 0x2200000 := by
  unfold State.region at h
  split at h
  · omega
  split at h
  · rename_i hc; rw [Bool.and_eq_true, decide_eq_true_eq, decide_eq_true_eq] at hc; omega
  split at h
  · rename_i hc; rw [Bool.and_eq_true, decide_eq_true_eq, decide_eq_true_eq] at hc; omega
  split at h
  · cases h; exact absurd rfl hr
  split at h
  · cases h; exact absurd rfl hd
  · cases h

theorem writeRefusal_region {s : State} {req a n : Nat} (h : s.writeRefusal req a n = none) :
    s.region (a + (n - 1)) = s.region a := by
  unfold State.writeRefusal State.rangeRegion at h
  split at h
  · cases h
  all_goals
    rename_i hg
    split at hg
    · rename_i g hr
      split at hg
      · rename_i he; rw [he, hr]
      · cases hg
    · cases hg

theorem rangeRegion_region {s : State} {a n : Nat} {g : Region} (h : s.rangeRegion a n = some g) :
    s.region a = some g ∧ s.region (a + (n - 1)) = some g := by
  unfold State.rangeRegion at h
  split at h
  · rename_i g' hr
    split at h
    · rename_i he; cases h; exact ⟨hr, he⟩
    · cases h
  · cases h

/-- A posted write of memory changes only the bytes written. -/
theorem memPost_byte {s : State} {req a x : Nat} {l : List Byte} (hx : x < a ∨ a + l.length ≤ x) :
    (s.memPost req a l).byte x = s.byte x := by
  unfold State.memPost
  split
  · split
    · exact keeps_bytes accessRefused_keeps x
    · exact keeps_bytes dramSubmit_keeps x
  · rfl
  · unfold State.sramWrite
    split
    · rfl
    · exact memSet_other hx
  · exact keeps_bytes accessRefused_keeps x

/-- A posted write of memory, of bytes that are all in part `p`. -/
theorem memPost_within (p : Part) {s : State} {req a : Nat} {l : List Byte}
    (hp : ∀ x, a ≤ x → x < a + l.length → p.stores [] s x) :
    Keeps (p :: [.log, .granary, .miller, .subs, .lastEvents]) [.GRANARY_STAT, .GRANARY_SR, .FAULT_EVT, .FAULT_LOG_WR,
      .FAULT_LOG_LOST] s (s.memPost req a l) :=
  keeps_narrow (keeps_step keeps_refl memPost_keeps) fun x hx => memPost_byte (by
    by_cases h : a ≤ x ∧ x < a + l.length
    · exact absurd (stores_mono rfl (hp x h.1 h.2)) hx
    · omega)

end Sys2Proof.Laws
end

