-- ==== Sys2Proof/Laws/KeepsCamPort.lean ====
section
/-! SUPPORT. What each operation of Machine/CamPort.lean may change (`Keeps`): the parts of the state and the rows of registers. -/

set_option Elab.async false

namespace Sys2Proof.Laws

open Sys2Proof.Machine

theorem records_in {s : State} {p i : Nat} {l : List Byte} (h : l.length ≤ 32) :
    ∀ x, s.resAddr p i ≤ x → x < s.resAddr p i + l.length → Part.records.stores [] s x := fun x h1 h2 => by
  have hi : i % s.resSize p < s.resSize p := Nat.mod_lt _ (Nat.two_pow_pos _)
  unfold State.resAddr at h1 h2
  exact .inr ⟨p, by omega, by omega⟩

theorem showPort_keeps {s : State} {n : Nat} :
    Keeps [] [.CAMn_STAT] s (State.showPort s n) := by
  unfold State.showPort
  have h0 : Keeps [] [.CAMn_STAT] s s := keeps_refl
  extract_lets -useContext +onlyGivenNames x1 x3 x5 x7
  have h6 : As h0 x5 := setBit_keeps h0 (covers .CAMn_STAT ⟨_, rfl⟩)
  clear_value x5
  have h8 : As h0 x7 := setFld_keeps h6 (covers .CAMn_STAT ⟨_, rfl⟩)
  clear_value x7
  exact setFld_keeps h8 (covers .CAMn_STAT ⟨_, rfl⟩)

theorem camRetire_keeps {s : State} {n : Nat} {cause : Nat} :
    Keeps [.log, .dma, .cam, .subs, .lastEvents] [.FAULT_EVT, .FAULT_LOG_WR, .FAULT_LOG_LOST, .CAM_EVT, .CAMn_STAT] s
    (State.camRetire s n cause) := by
  unfold State.camRetire
  have h0 : Keeps [.log, .dma, .cam, .subs, .lastEvents] [.FAULT_EVT, .FAULT_LOG_WR, .FAULT_LOG_LOST, .CAM_EVT,
      .CAMn_STAT] s s := keeps_refl
  extract_lets -useContext +onlyGivenNames x1 x3 x5 x7 x9 x11 x13 x15
  have h8 : As h0 x7 := keeps_step (keeps_step (keeps_step h0 sourceFills_keeps) setCamPort_keeps) showPort_keeps
  clear_value x7
  have h10 : As h0 x9 := setFld_keeps h8 (covers .CAMn_STAT ⟨_, rfl⟩)
  clear_value x9
  have h12 : As h0 x11 := setFld_keeps h10 (covers .CAMn_STAT ⟨_, rfl⟩)
  clear_value x11
  have h14 : As h0 x13 := setBit_keeps h12 (covers .CAMn_STAT ⟨_, rfl⟩)
  clear_value x13
  have h16 : As h0 x15 := orFld_keeps h14 (covers .CAM_EVT rfl)
  clear_value x15
  exact keeps_step h16 logFault_keeps

theorem countDrop_keeps {s : State} {n : Nat} {cause : Nat} :
    Keeps [.log, .dma, .cam, .subs, .lastEvents] [.FAULT_EVT, .FAULT_LOG_WR, .FAULT_LOG_LOST, .CAM_EVT, .CAMn_STAT,
    .CAMn_CNT_DROP] s (State.countDrop s n cause) := by
  unfold State.countDrop
  have h0 : Keeps [.log, .dma, .cam, .subs, .lastEvents] [.FAULT_EVT, .FAULT_LOG_WR, .FAULT_LOG_LOST, .CAM_EVT,
      .CAMn_STAT, .CAMn_CNT_DROP] s s := keeps_refl
  extract_lets -useContext +onlyGivenNames x1 x3 x5 x7 x9 x11 x13 x15
  have h2 : As h0 x1 := setFld_keeps h0 (covers .CAMn_STAT ⟨_, rfl⟩)
  clear_value x1
  have h4 : As h0 x3 := orFld_keeps h2 (covers .CAM_EVT rfl)
  clear_value x3
  have h6 : As h0 x5 := count_keeps h4 (covers .CAMn_CNT_DROP ⟨_, rfl⟩)
  clear_value x5
  have h8 : As h0 x7 := keeps_step h6 logFault_keeps
  clear_value x7
  have h16 : As h0 x15 := keeps_step h8 setCamPort_keeps
  clear_value x15
  refine keeps_ite ?_ ?_
  · exact keeps_step h16 camRetire_keeps
  · exact h16

theorem writeRecord_keeps {s : State} {n : Nat} {bytes : List Byte} :
    Keeps [.log, .granary, .miller, .subs, .lastEvents, .records] [.GRANARY_STAT, .GRANARY_SR, .FAULT_EVT,
    .FAULT_LOG_WR, .FAULT_LOG_LOST, .CAM_EVT, .Pp_RES_WR, .Pp_CNT_RESLOST] s (State.writeRecord s n bytes) := by
  unfold State.writeRecord
  have h0 : Keeps [.log, .granary, .miller, .subs, .lastEvents, .records] [.GRANARY_STAT, .GRANARY_SR, .FAULT_EVT,
      .FAULT_LOG_WR, .FAULT_LOG_LOST, .CAM_EVT, .Pp_RES_WR, .Pp_CNT_RESLOST] s s := keeps_refl
  extract_lets -useContext +onlyGivenNames x1 x3 x5
  refine keeps_ite ?_ ?_
  · exact keeps_step (orFld_keeps (count_keeps h0 (covers .Pp_CNT_RESLOST ⟨_, rfl⟩)) (covers .CAM_EVT rfl))
        logFault_keeps
  · exact setFld_keeps (keeps_step h0 (memPost_within .records (records_in (List.length_take_le _ _)))) (covers
        .Pp_RES_WR ⟨_, rfl⟩)

theorem drainEnds_keeps {a1 : Nat} {a2 : Nat} {a3 : State} :
    Keeps [.freeCtr, .log, .granary, .miller, .cam, .subs, .lastEvents, .records] [.GRANARY_STAT, .GRANARY_SR,
    .FAULT_EVT, .FAULT_LOG_WR, .FAULT_LOG_LOST, .CAM_EVT, .Pp_RES_WR, .Pp_CNT_RESLOST] a3 (State.drainEnds a1 a2 a3)
    := by
  induction a1 generalizing a2 a3 with
  | zero => unfold State.drainEnds; exact keeps_refl
  | succ a1 ih =>
    unfold State.drainEnds
    have h0 : Keeps [.freeCtr, .log, .granary, .miller, .cam, .subs, .lastEvents, .records] [.GRANARY_STAT,
        .GRANARY_SR, .FAULT_EVT, .FAULT_LOG_WR, .FAULT_LOG_LOST, .CAM_EVT, .Pp_RES_WR, .Pp_CNT_RESLOST] a3 a3 :=
        keeps_refl
    extract_lets -useContext +onlyGivenNames x4
    split
    · extract_lets -useContext +onlyGivenNames x6 x8
      have h9 : As h0 x8 := keeps_step h0 setCamPort_keeps
      clear_value x8
      exact keeps_step (keeps_step (keeps_step h9 writeRecord_keeps) drawnN_keeps) ih
    · exact h0

theorem endFrames_keeps {s : State} {n : Nat} :
    Keeps [.freeCtr, .log, .granary, .miller, .cam, .subs, .lastEvents, .records] [.GRANARY_STAT, .GRANARY_SR,
    .FAULT_EVT, .FAULT_LOG_WR, .FAULT_LOG_LOST, .CAM_EVT, .Pp_RES_WR, .Pp_CNT_RESLOST] s (State.endFrames s n) := by
  unfold State.endFrames
  have h0 : Keeps [.freeCtr, .log, .granary, .miller, .cam, .subs, .lastEvents, .records] [.GRANARY_STAT,
      .GRANARY_SR, .FAULT_EVT, .FAULT_LOG_WR, .FAULT_LOG_LOST, .CAM_EVT, .Pp_RES_WR, .Pp_CNT_RESLOST] s s :=
      keeps_refl
  exact keeps_step h0 drainEnds_keeps

theorem settlePort_keeps {s : State} {n : Nat} :
    Keeps [.freeCtr, .log, .dma, .granary, .miller, .cam, .subs, .lastEvents, .records] [.GRANARY_STAT, .GRANARY_SR,
    .FAULT_EVT, .FAULT_LOG_WR, .FAULT_LOG_LOST, .CAM_EVT, .CAMn_STAT, .Pp_RES_WR, .Pp_CNT_RESLOST] s
    (State.settlePort s n) := by
  unfold State.settlePort
  have h0 : Keeps [.freeCtr, .log, .dma, .granary, .miller, .cam, .subs, .lastEvents, .records] [.GRANARY_STAT,
      .GRANARY_SR, .FAULT_EVT, .FAULT_LOG_WR, .FAULT_LOG_LOST, .CAM_EVT, .CAMn_STAT, .Pp_RES_WR, .Pp_CNT_RESLOST] s s
      := keeps_refl
  extract_lets -useContext +onlyGivenNames x1 x3 x5 x7
  have h8 : As h0 x7 := keeps_step h0 sourceFills_keeps
  clear_value x7
  exact keeps_step (keeps_step (keeps_step h8 setCamPort_keeps) endFrames_keeps) showPort_keeps

theorem camFrameStart_keeps {s : State} {n : Nat} {ts : Nat} :
    Keeps [.freeCtr, .log, .dma, .granary, .miller, .cam, .subs, .lastEvents, .records] [.GRANARY_STAT, .GRANARY_SR,
    .FAULT_EVT, .FAULT_LOG_WR, .FAULT_LOG_LOST, .CAM_EVT, .CAMn_STAT, .CAMn_EXP_NOW, .CAMn_GAIN_NOW, .CAMn_FSEQ,
    .CAMn_CNT_FRAMES, .Pp_RES_WR, .Pp_CNT_RESLOST] s (State.camFrameStart s n ts) := by
  unfold State.camFrameStart
  have h0 : Keeps [.freeCtr, .log, .dma, .granary, .miller, .cam, .subs, .lastEvents, .records] [.GRANARY_STAT,
      .GRANARY_SR, .FAULT_EVT, .FAULT_LOG_WR, .FAULT_LOG_LOST, .CAM_EVT, .CAMn_STAT, .CAMn_EXP_NOW, .CAMn_GAIN_NOW,
      .CAMn_FSEQ, .CAMn_CNT_FRAMES, .Pp_RES_WR, .Pp_CNT_RESLOST] s s := keeps_refl
  extract_lets -useContext +onlyGivenNames x1 x3 x5 x7 x9 x11 x13
  have h4 : As h0 x3 := by
    unfold x3
    split
    · exact keeps_setReg (keeps_setReg h0 (covers .CAMn_EXP_NOW ⟨_, rfl⟩)) (covers .CAMn_GAIN_NOW ⟨_, rfl⟩)
    · exact h0
  clear_value x3
  have h10 : As h0 x9 := keeps_setReg h4 (covers .CAMn_FSEQ ⟨_, rfl⟩)
  clear_value x9
  have h12 : As h0 x11 := count_keeps h10 (covers .CAMn_CNT_FRAMES ⟨_, rfl⟩)
  clear_value x11
  have h14 : As h0 x13 := keeps_ite (keeps_step (orFld_keeps h12 (covers .CAM_EVT rfl)) logFault_keeps) h12
  clear_value x13
  exact keeps_step (keeps_step h14 setCamPort_keeps) settlePort_keeps

theorem camDrop_keeps {s : State} {n : Nat} {k : Option Nat} {cause : Nat} :
    Keeps [.freeCtr, .log, .dma, .granary, .miller, .cam, .subs, .lastEvents, .records] [.GRANARY_STAT, .GRANARY_SR,
    .FAULT_EVT, .FAULT_LOG_WR, .FAULT_LOG_LOST, .CAM_EVT, .CAMn_STAT, .CAMn_CNT_DROP, .Pp_RES_WR, .Pp_CNT_RESLOST] s
    (State.camDrop s n k cause) := by
  unfold State.camDrop
  have h0 : Keeps [.freeCtr, .log, .dma, .granary, .miller, .cam, .subs, .lastEvents, .records] [.GRANARY_STAT,
      .GRANARY_SR, .FAULT_EVT, .FAULT_LOG_WR, .FAULT_LOG_LOST, .CAM_EVT, .CAMn_STAT, .CAMn_CNT_DROP, .Pp_RES_WR,
      .Pp_CNT_RESLOST] s s := keeps_refl
  extract_lets -useContext +onlyGivenNames x1
  split
  · exact keeps_step h0 countDrop_keeps
  · refine keeps_ite ?_ ?_
    · exact keeps_step (keeps_step (keeps_step h0 setCamPort_keeps) settlePort_keeps) countDrop_keeps
    · exact h0

theorem camTrigger_keeps {s : State} {n : Nat} :
    Keeps [.freeCtr, .log, .dma, .granary, .miller, .cam, .subs, .lastEvents, .records] [.GRANARY_STAT, .GRANARY_SR,
    .FAULT_EVT, .FAULT_LOG_WR, .FAULT_LOG_LOST, .CAM_EVT, .CAMn_STAT, .CAMn_EXP_NOW, .CAMn_GAIN_NOW, .CAMn_FSEQ,
    .CAMn_CNT_FRAMES, .CAMn_CNT_DROP, .Pp_RES_WR, .Pp_CNT_RESLOST] s (State.camTrigger s n) := by
  unfold State.camTrigger
  have h0 : Keeps [.freeCtr, .log, .dma, .granary, .miller, .cam, .subs, .lastEvents, .records] [.GRANARY_STAT,
      .GRANARY_SR, .FAULT_EVT, .FAULT_LOG_WR, .FAULT_LOG_LOST, .CAM_EVT, .CAMn_STAT, .CAMn_EXP_NOW, .CAMn_GAIN_NOW,
      .CAMn_FSEQ, .CAMn_CNT_FRAMES, .CAMn_CNT_DROP, .Pp_RES_WR, .Pp_CNT_RESLOST] s s := keeps_refl
  extract_lets -useContext +onlyGivenNames x1 x3 x5
  have h6 : As h0 x5 := keeps_step h0 setCamPort_keeps
  clear_value x5
  refine keeps_ite ?_ ?_
  · exact h6
  · extract_lets -useContext +onlyGivenNames x7 x9 x11
    have h10 : As h0 x9 := keeps_ite (keeps_step h6 camFrameStart_keeps) h6
    clear_value x9
    refine keeps_ite ?_ ?_
    · exact keeps_step h10 camDrop_keeps
    · exact keeps_step (keeps_step h10 setCamPort_keeps) showPort_keeps

theorem cmpTriggers_keeps {s : State} {j : Nat} :
    Keeps [.freeCtr, .log, .dma, .granary, .miller, .cam, .subs, .lastEvents, .records] [.GRANARY_STAT, .GRANARY_SR,
    .FAULT_EVT, .FAULT_LOG_WR, .FAULT_LOG_LOST, .CAM_EVT, .CAMn_STAT, .CAMn_EXP_NOW, .CAMn_GAIN_NOW, .CAMn_FSEQ,
    .CAMn_CNT_FRAMES, .CAMn_CNT_DROP, .Pp_RES_WR, .Pp_CNT_RESLOST] s (State.cmpTriggers s j) := by
  unfold State.cmpTriggers
  have h0 : Keeps [.freeCtr, .log, .dma, .granary, .miller, .cam, .subs, .lastEvents, .records] [.GRANARY_STAT,
      .GRANARY_SR, .FAULT_EVT, .FAULT_LOG_WR, .FAULT_LOG_LOST, .CAM_EVT, .CAMn_STAT, .CAMn_EXP_NOW, .CAMn_GAIN_NOW,
      .CAMn_FSEQ, .CAMn_CNT_FRAMES, .CAMn_CNT_DROP, .Pp_RES_WR, .Pp_CNT_RESLOST] s s := keeps_refl
  exact keeps_foldl h0 (fun _ _ h1 => (keeps_ite (keeps_step h1 camTrigger_keeps) h1))

end Sys2Proof.Laws
end

