-- ==== Sys2Proof/Laws/KeepsDma.lean ====
section
/-! SUPPORT. What each operation of Machine/Dma.lean may change (`Keeps`): the parts of the state and the rows of registers. -/

set_option Elab.async false

namespace Sys2Proof.Laws

open Sys2Proof.Machine

theorem ring_entry {s : State} {r : List Reg} {n i : Nat} :
    ∀ x, s.descAddr n i ≤ x → x < s.descAddr n i + 32 → Part.rings.stores r s x := fun x h1 h2 => by
  have hi : i % s.ringSize n < s.ringSize n := Nat.mod_lt _ (Nat.two_pow_pos _)
  unfold State.descAddr at h1 h2
  exact .inr ⟨n, by omega, by omega⟩

theorem pageDesc_length {n src len k : Nat} : (pageDesc n src len k).length = 32 := by
  simp only [pageDesc, List.length_append, leBytes_length]

theorem sram_in {s : State} {n : Nat} {b : Burst} {d : List Byte} (h : s.sinkOf n b = .sram) :
    ∀ x, b.dst ≤ x → x < b.dst + (d.take b.len).length → Part.sram.stores [] s x := fun x h1 h2 => by
  rw [List.length_take] at h2
  unfold State.sinkOf at h
  split at h
  · cases h
  split at h
  · cases h
  split at h
  · cases h
  rename_i hw
  have hr := writeRefusal_region hw
  split at h
  · split at h <;> cases h
  · cases h
  · rename_i g hd hg he
    rw [he] at hr
    have := region_sram hr hg hd
    show x < 0x2200000
    omega
  · cases h

theorem back_in {s : State} {b : Burst} (h : s.rangeRegion b.dst 32 = some .shared) {c : Nat} {l : List Byte}
    (hc : c + l.length ≤ 32) : ∀ x, b.dst + c ≤ x → x < b.dst + c + l.length → Part.sram.stores [] s x := fun x h1 h2 => by
  have := region_sram (rangeRegion_region h).2 (by decide) (by decide)
  show x < 0x2200000
  omega

theorem back_lo (l : List Byte) : 0 + ((l.drop 4).take 4).length ≤ 32 := by
  have := List.length_take_le 4 (l.drop 4); omega

theorem back_hi (l : List Byte) : 24 + (l.take 4).length ≤ 32 := by
  have := List.length_take_le 4 l; omega

theorem back_shared {s : State} {b : Burst} (h : ¬ (b.wr.isSome || s.rangeRegion b.dst 32 != some .shared) = true) :
    s.rangeRegion b.dst 32 = some .shared := by
  rw [Bool.or_eq_true, not_or] at h
  simpa using h.2

theorem updatePacing_keeps {s : State} :
    Keeps [.dma] [] s (State.updatePacing s) := by
  unfold State.updatePacing
  have h0 : Keeps [.dma] [] s s := keeps_refl
  exact keeps_foldl h0 (fun _ _ h1 => (keeps_ite (keeps_step h1 setCh_keeps) h1))

theorem skipHalted_keeps {s : State} {n : Nat} {c : Nat} :
    Keeps [.dma] [] s (State.skipHalted s n c) := by
  unfold State.skipHalted
  have h0 : Keeps [.dma] [] s s := keeps_refl
  extract_lets -useContext +onlyGivenNames x1
  split
  · exact keeps_step h0 setCh_keeps
  · exact h0

theorem ringHiWrite_keeps {s : State} {n : Nat} {v : Word} :
    Keeps [.dma] [.DMA_CHn_RING_HI, .DMA_CHn_HEAD] s (State.ringHiWrite s n v) := by
  unfold State.ringHiWrite
  have h0 : Keeps [.dma] [.DMA_CHn_RING_HI, .DMA_CHn_HEAD] s s := keeps_refl
  refine keeps_ite ?_ ?_
  · extract_lets -useContext +onlyGivenNames x1
    have h2 : As h0 x1 := writeByCodes_keeps h0 (covers .DMA_CHn_RING_HI ⟨_, rfl⟩)
    clear_value x1
    exact keeps_step (keeps_setReg h2 (covers .DMA_CHn_HEAD ⟨_, rfl⟩)) setCh_keeps
  · exact h0

theorem abortDue_keeps {s : State} {n : Nat} :
    Keeps [.dma] [.DMA_CHn_STAT] s (State.abortDue s n) := by
  unfold State.abortDue
  have h0 : Keeps [.dma] [.DMA_CHn_STAT] s s := keeps_refl
  extract_lets -useContext +onlyGivenNames x1
  refine keeps_ite ?_ ?_
  · extract_lets -useContext +onlyGivenNames x3 x5
    have h6 : As h0 x5 := keeps_step h0 setCh_keeps
    clear_value x5
    exact keeps_step (setFld_keeps h6 (covers .DMA_CHn_STAT ⟨_, rfl⟩)) setDmaState_keeps
  · exact h0

theorem showRetry_keeps {s : State} {n : Nat} :
    Keeps [] [.DMA_CHn_STAT] s (State.showRetry s n) := by
  unfold State.showRetry
  have h0 : Keeps [] [.DMA_CHn_STAT] s s := keeps_refl
  exact setFld_keeps h0 (covers .DMA_CHn_STAT ⟨_, rfl⟩)

theorem runHolders_keeps {s : State} :
    Keeps [] [.DMA_CHn_STAT] s (State.runHolders s) := by
  unfold State.runHolders
  have h0 : Keeps [] [.DMA_CHn_STAT] s s := keeps_refl
  exact keeps_foldl h0 (fun _ _ h1 => (keeps_ite (keeps_step h1 setDmaState_keeps) h1))

theorem execRingReset_keeps {a1 : Requester} {n : Fin 32} {v : Word} {s : State} :
    ∃ t, execRingReset a1 n v s = .next t ∧ Keeps [.resp, .dma] [.DMA_CHn_RING_HI, .DMA_CHn_HEAD] s t := by
  unfold execRingReset
  have h0 : Keeps [.resp, .dma] [.DMA_CHn_RING_HI, .DMA_CHn_HEAD] s s := keeps_refl
  exact ⟨_, rfl, (keeps_step (keeps_step h0 ringHiWrite_keeps) written_keeps)⟩

theorem execDoorbell_keeps {a1 : Requester} {n : Fin 32} {s : State} :
    ∃ t, execDoorbell a1 n s = .next t ∧ Keeps [.resp, .dma] [] s t := by
  unfold execDoorbell
  have h0 : Keeps [.resp, .dma] [] s s := keeps_refl
  exact ⟨_, rfl, (keeps_step (keeps_step h0 setCh_keeps) written_keeps)⟩

theorem burstDone_keeps {s : State} {n : Nat} {b : Burst} :
    Keeps [.dma] [.DMA_CHn_STAT] s (State.burstDone s n b) := by
  unfold State.burstDone
  have h0 : Keeps [.dma] [.DMA_CHn_STAT] s s := keeps_refl
  extract_lets -useContext +onlyGivenNames x1
  have h2 : As h0 x1 := keeps_step h0 showRetry_keeps
  clear_value x1
  refine keeps_ite ?_ ?_
  · exact h2
  · extract_lets -useContext +onlyGivenNames x3
    exact keeps_step h2 setCh_keeps

theorem recompFailed_keeps {s : State} {n : Nat} :
    Keeps [.dma, .miller, .weaver] [] s (State.recompFailed s n) := by
  unfold State.recompFailed
  have h0 : Keeps [.dma, .miller, .weaver] [] s s := keeps_refl
  extract_lets -useContext +onlyGivenNames x1 x3 x5 x7 x9
  have h4 : As h0 x3 := keeps_step h0 setCh_keeps
  clear_value x3
  have h8 : As h0 x7 := keeps_step h4 setDec_keeps
  clear_value x7
  exact keeps_step h8 setHam_keeps

theorem dropBurst_keeps {s : State} {n : Nat} {b : Burst} :
    Keeps [.dma] [] s (State.dropBurst s n b) := by
  unfold State.dropBurst
  have h0 : Keeps [.dma] [] s s := keeps_refl
  exact keeps_step h0 setCh_keeps

theorem stopPacing_keeps {s : State} {n : Nat} :
    Keeps [.dma] [] s (State.stopPacing s n) := by
  unfold State.stopPacing
  have h0 : Keeps [.dma] [] s s := keeps_refl
  refine keeps_ite ?_ ?_
  · exact keeps_step h0 setCh_keeps
  · exact h0

theorem addBurst_keeps {s : State} {n : Nat} {b : Burst} :
    Keeps [.dma] [] s (State.addBurst s n b) := by
  unfold State.addBurst
  have h0 : Keeps [.dma] [] s s := keeps_refl
  exact keeps_step h0 setCh_keeps

theorem execPaceTimeout_keeps {n : Fin 32} {s : State} :
    ∃ t, execPaceTimeout n s = .next t ∧ Keeps [.dma] [] s t := by
  unfold execPaceTimeout
  have h0 : Keeps [.dma] [] s s := keeps_refl
  exact ⟨_, rfl, (by
        extract_lets -useContext +onlyGivenNames x1
        refine keeps_ite ?_ ?_
        · exact keeps_step h0 setCh_keeps
        · exact h0)⟩

theorem setErrAddr_keeps {s : State} {n : Nat} {a : Nat} :
    Keeps [] [.DMA_CHn_ERRADDR_LO, .DMA_CHn_ERRADDR_HI] s (State.setErrAddr s n a) := by
  unfold State.setErrAddr
  have h0 : Keeps [] [.DMA_CHn_ERRADDR_LO, .DMA_CHn_ERRADDR_HI] s s := keeps_refl
  exact setFld_keeps (keeps_setReg h0 (covers .DMA_CHn_ERRADDR_LO ⟨_, rfl⟩)) (covers .DMA_CHn_ERRADDR_HI ⟨_, rfl⟩)

theorem execCaptureFrameStart_keeps {p : Fin 4} {s : State} :
    ∃ t, execCaptureFrameStart p s = .next t ∧ Keeps [.dma, .cam] [] s t := by
  unfold execCaptureFrameStart
  have h0 : Keeps [.dma, .cam] [] s s := keeps_refl
  exact ⟨_, rfl, (by
        extract_lets -useContext +onlyGivenNames x1 x3 x5
        split
        · refine keeps_ite ?_ ?_
          · exact h0
          · refine keeps_ite ?_ ?_
            · exact h0
            · refine keeps_ite ?_ ?_
              · exact keeps_step h0 setCh_keeps
              · exact keeps_step (keeps_step h0 setCamPort_keeps) setCh_keeps
        · exact h0)⟩

theorem putBurst_keeps {s : State} {n : Nat} {old : Burst} {new : Burst} :
    Keeps [.dma] [] s (State.putBurst s n old new) := by
  unfold State.putBurst
  have h0 : Keeps [.dma] [] s s := keeps_refl
  exact keeps_step h0 setCh_keeps

theorem abortRes_keeps {s : State} {n : Nat} {v : Nat} :
    Keeps [] [.DMA_CHn_STAT] s (State.abortRes s n v) := by
  unfold State.abortRes
  have h0 : Keeps [] [.DMA_CHn_STAT] s s := keeps_refl
  exact setFld_keeps h0 (covers .DMA_CHn_STAT ⟨_, rfl⟩)

theorem execAbortComplete_keeps {n : Fin 32} {s : State} :
    ∃ t, execAbortComplete n s = .next t ∧ Keeps [.dma] [.DMA_CHn_CTRL, .DMA_CHn_HEAD, .DMA_CHn_STAT] s t := by
  unfold execAbortComplete
  have h0 : Keeps [.dma] [.DMA_CHn_CTRL, .DMA_CHn_HEAD, .DMA_CHn_STAT] s s := keeps_refl
  exact ⟨_, rfl, (by
        extract_lets -useContext +onlyGivenNames x1
        refine keeps_ite ?_ ?_
        · extract_lets -useContext +onlyGivenNames x3 x5
          have h4 : As h0 x3 := keeps_step h0 setCh_keeps
          clear_value x3
          have h6 : As h0 x5 := setFld_keeps h4 (covers .DMA_CHn_HEAD ⟨_, rfl⟩)
          clear_value x5
          exact keeps_step (setBit_keeps h6 (covers .DMA_CHn_CTRL ⟨_, rfl⟩)) setDmaState_keeps
        · exact h0)⟩

theorem abortAt_keeps {s : State} {n : Nat} {i : Nat} {d : Option Desc} :
    Keeps [.dma] [.DMA_CHn_STAT] s (State.abortAt s n i d) := by
  unfold State.abortAt
  have h0 : Keeps [.dma] [.DMA_CHn_STAT] s s := keeps_refl
  extract_lets -useContext +onlyGivenNames x1 x3 x5 x7 x9
  have h2 : As h0 x1 := keeps_step h0 abortRes_keeps
  clear_value x1
  exact keeps_step (keeps_step h2 setCh_keeps) abortDue_keeps

theorem noteFailure_keeps {s : State} {n : Nat} :
    Keeps [.dma] [] s (State.noteFailure s n).2 := by
  unfold State.noteFailure
  have h0 : Keeps [.dma] [] s s := keeps_refl
  extract_lets -useContext +onlyGivenNames x1 x3
  exact keeps_step h0 setCh_keeps

theorem dmaDrain_keeps {s : State} {n : Nat} :
    Keeps [] [.DMA_CHn_STAT] s (State.dmaDrain s n) := by
  unfold State.dmaDrain
  have h0 : Keeps [] [.DMA_CHn_STAT] s s := keeps_refl
  extract_lets -useContext +onlyGivenNames x1
  refine keeps_ite ?_ ?_
  · exact keeps_step h0 setDmaState_keeps
  · exact h0

theorem takeSrc_keeps {s : State} {n : Nat} {k : Nat} :
    Keeps [.link, .miller, .cam] [.CAMn_STAT] s (State.takeSrc s n k).2 := by
  unfold State.takeSrc
  have h0 : Keeps [.link, .miller, .cam] [.CAMn_STAT] s s := keeps_refl
  refine keeps_ite_snd ?_ ?_
  · exact keeps_step h0 drainStream_keeps
  · refine keeps_ite_snd ?_ ?_
    · extract_lets -useContext +onlyGivenNames x1
      split
      · exact keeps_step (keeps_step h0 setCamPort_keeps) showPort_keeps
    · extract_lets -useContext +onlyGivenNames x3
      exact keeps_step h0 setEnc_keeps

theorem execWriteArrival_keeps {n : Fin 32} {s : State} :
    ∃ t, execWriteArrival n s = .next t ∧ Keeps [.dma, .granary] [] s t := by
  unfold execWriteArrival
  have h0 : Keeps [.dma, .granary] [] s s := keeps_refl
  exact ⟨_, rfl, (by
        split
        · exact keeps_step (keeps_step h0 dropBurst_keeps) dropAnswers_keeps
        · exact h0)⟩

theorem execDescriptorFetch_keeps {n : Fin 32} {s : State} :
    ∃ t, execDescriptorFetch n s = .next t ∧ Keeps [.dma, .granary] [.DMA_CHn_HEAD, .DMA_CHn_STAT] s t := by
  unfold execDescriptorFetch
  have h0 : Keeps [.dma, .granary] [.DMA_CHn_HEAD, .DMA_CHn_STAT] s s := keeps_refl
  exact ⟨_, rfl, (by
        split
        · exact h0
        · extract_lets -useContext +onlyGivenNames x1 x3 x5
          have h4 : As h0 x3 := keeps_step (keeps_step (keeps_step h0 dropBurst_keeps) dropAnswers_keeps)
              showRetry_keeps
          clear_value x3
          refine keeps_ite ?_ ?_
          · extract_lets -useContext +onlyGivenNames x7 x9
            have h8 : As h0 x7 := keeps_step h4 setCh_keeps
            clear_value x7
            have h10 : As h0 x9 := setFld_keeps h8 (covers .DMA_CHn_HEAD ⟨_, rfl⟩)
            clear_value x9
            refine keeps_ite ?_ ?_
            · exact keeps_step h10 setDmaState_keeps
            · exact h10
          · exact keeps_step h4 setCh_keeps)⟩

theorem dmaPauseChange_keeps {s : State} {n : Nat} :
    Keeps [] [.DMA_CHn_STAT] s (State.dmaPauseChange s n) := by
  unfold State.dmaPauseChange
  have h0 : Keeps [] [.DMA_CHn_STAT] s s := keeps_refl
  refine keeps_ite ?_ ?_
  · exact keeps_step h0 dmaDrain_keeps
  · refine keeps_ite ?_ ?_
    · exact keeps_step h0 dmaIdleOrRun_keeps
    · exact h0

theorem dmaCtrlWrite_keeps {s : State} {v : Word} :
    Keeps [] [.DMA_CTRL, .DMA_CHn_STAT] s (State.dmaCtrlWrite s v) := by
  unfold State.dmaCtrlWrite
  have h0 : Keeps [] [.DMA_CTRL, .DMA_CHn_STAT] s s := keeps_refl
  exact keeps_foldl (writeByCodes_keeps h0 (covers .DMA_CTRL rfl)) (fun _ _ h1 => (keeps_step h1
      dmaPauseChange_keeps))

theorem leaveHalted_keeps {s : State} {n : Nat} {cause : Nat} :
    Keeps [.log, .dma, .subs, .lastEvents] [.DMA_CHn_STAT, .FAULT_EVT, .FAULT_LOG_WR, .FAULT_LOG_LOST] s
    (State.leaveHalted s n cause) := by
  unfold State.leaveHalted
  have h0 : Keeps [.log, .dma, .subs, .lastEvents] [.DMA_CHn_STAT, .FAULT_EVT, .FAULT_LOG_WR, .FAULT_LOG_LOST] s s :=
      keeps_refl
  extract_lets -useContext +onlyGivenNames x1 x3 x5 x7
  have h4 : As h0 x3 := keeps_step h0 setCh_keeps
  clear_value x3
  have h6 : As h0 x5 := setFld_keeps (setFld_keeps h4 (covers .DMA_CHn_STAT ⟨_, rfl⟩)) (covers .DMA_CHn_STAT ⟨_, rfl⟩)
  clear_value x5
  have h8 : As h0 x7 := keeps_step h6 logFault_keeps
  clear_value x7
  refine keeps_ite ?_ ?_
  · exact keeps_step h8 setDmaState_keeps
  · exact keeps_step h8 dmaIdleOrRun_keeps

theorem issueRead_keeps {s : State} {n : Nat} {b : Burst} :
    Keeps [.log, .link, .dma, .granary, .miller, .cam, .subs, .lastEvents] [.GRANARY_STAT, .GRANARY_SR, .FAULT_EVT,
    .FAULT_LOG_WR, .FAULT_LOG_LOST, .CAMn_STAT] s (State.issueRead s n b) := by
  unfold State.issueRead
  have h0 : Keeps [.log, .link, .dma, .granary, .miller, .cam, .subs, .lastEvents] [.GRANARY_STAT, .GRANARY_SR,
      .FAULT_EVT, .FAULT_LOG_WR, .FAULT_LOG_LOST, .CAMn_STAT] s s := keeps_refl
  refine keeps_ite ?_ ?_
  · split
    · rename State => t1
      have h3 : As h0 t1 := keeps_of_2 (by assumption) (keeps_step h0 takeSrc_keeps)
      exact keeps_step h3 addBurst_keeps
  · split
    · refine keeps_ite ?_ ?_
      · exact keeps_step (keeps_step h0 accessRefused_keeps) addBurst_keeps
      · split
        · rename State => t4
          have h6 : As h0 t4 := keeps_of_2 (by assumption) (keeps_step h0 dramSubmit_keeps)
          exact keeps_step h6 addBurst_keeps
    · exact keeps_step (keeps_step h0 accessRefused_keeps) addBurst_keeps
    · exact keeps_step h0 addBurst_keeps
    · exact keeps_step (keeps_step h0 accessRefused_keeps) addBurst_keeps

theorem resumeSkip_keeps {s : State} {n : Nat} {resume : Bool} {skip : Bool} :
    Keeps [.log, .dma, .subs, .lastEvents] [.DMA_CHn_STAT, .FAULT_EVT, .FAULT_LOG_WR, .FAULT_LOG_LOST] s
    (State.resumeSkip s n resume skip) := by
  unfold State.resumeSkip
  have h0 : Keeps [.log, .dma, .subs, .lastEvents] [.DMA_CHn_STAT, .FAULT_EVT, .FAULT_LOG_WR, .FAULT_LOG_LOST] s s :=
      keeps_refl
  extract_lets -useContext +onlyGivenNames x1
  refine keeps_ite ?_ ?_
  · exact h0
  · refine keeps_ite ?_ ?_
    · exact keeps_step h0 leaveHalted_keeps
    · refine keeps_ite ?_ ?_
      · refine keeps_ite ?_ ?_
        · exact keeps_step h0 leaveHalted_keeps
        · exact keeps_step (keeps_step h0 skipHalted_keeps) leaveHalted_keeps
      · exact h0

theorem issueBack_keeps {s : State} {n : Nat} {b : Burst} :
    Keeps [.log, .dma, .granary, .subs, .lastEvents] [.GRANARY_STAT, .GRANARY_SR, .FAULT_EVT, .FAULT_LOG_WR,
    .FAULT_LOG_LOST] s (State.issueBack s n b) := by
  unfold State.issueBack
  have h0 : Keeps [.log, .dma, .granary, .subs, .lastEvents] [.GRANARY_STAT, .GRANARY_SR, .FAULT_EVT, .FAULT_LOG_WR,
      .FAULT_LOG_LOST] s s := keeps_refl
  split
  · refine keeps_ite ?_ ?_
    · exact keeps_step (keeps_step h0 accessRefused_keeps) addBurst_keeps
    · extract_lets -useContext +onlyGivenNames x1
      split
      · rename State => t3
        have h5 : As h0 t3 := keeps_of_2 (by assumption) (keeps_step h0 dramSubmit_keeps)
        split
        · rename State => t6
          have h8 : As h0 t6 := keeps_of_2 (by assumption) (keeps_step h5 dramSubmit_keeps)
          exact keeps_step h8 addBurst_keeps
  · exact keeps_step h0 addBurst_keeps

theorem feedOne_keeps {s : State} {n : Nat} :
    ∀ t, State.feedOne s n = some t → Keeps [.freeCtr, .log, .dma, .granary, .miller, .subs, .lastEvents, .rings] [.GRANARY_STAT, .GRANARY_SR, .FAULT_EVT, .FAULT_LOG_WR,
      .FAULT_LOG_LOST] s t := by
  unfold State.feedOne
  extract_lets -useContext +onlyGivenNames x1 x2
  split
  · split
    · extract_lets -useContext +onlyGivenNames a d u
      have hd : d.length = 32 := pageDesc_length
      have hr : ∀ x, a ≤ x → x < a + 32 → Part.rings.stores [.GRANARY_STAT, .GRANARY_SR, .FAULT_EVT, .FAULT_LOG_WR,
          .FAULT_LOG_LOST] s x := fun x h1 h2 => ring_entry (i := x1.tail) x h1 h2
      clear_value d a
      have h : Keeps (.rings :: [.log, .granary, .miller, .subs, .lastEvents]) [.GRANARY_STAT, .GRANARY_SR, .FAULT_EVT, .FAULT_LOG_WR,
      .FAULT_LOG_LOST] s u :=
        keeps_narrow (keeps_step (keeps_step keeps_refl memPost_keeps) memPost_keeps) fun x hx => by
          have ho : x < a ∨ a + 32 ≤ x := by
            by_cases h : a ≤ x ∧ x < a + 32
            · exact absurd (hr x h.1 h.2) hx
            · omega
          refine (memPost_byte ?_).trans (memPost_byte ?_)
          · have := List.length_take_le 4 d; omega
          · rw [List.length_drop]; omega
      clear_value u
      intro t ht
      cases ht
      exact keeps_step (keeps_step (keeps_step keeps_refl h) setCh_keeps) drawn_keeps
    · intro _ ht
      cases ht
  · intro _ ht
    cases ht

theorem feedRing_keeps {a1 : Nat} {a2 : Nat} {a3 : State} :
    Keeps [.freeCtr, .log, .dma, .granary, .miller, .subs, .lastEvents, .rings] [.GRANARY_STAT, .GRANARY_SR,
    .FAULT_EVT, .FAULT_LOG_WR, .FAULT_LOG_LOST] a3 (State.feedRing a1 a2 a3) := by
  induction a1 generalizing a2 a3 with
  | zero => unfold State.feedRing; exact keeps_refl
  | succ a1 ih =>
    unfold State.feedRing
    have h0 : Keeps [.freeCtr, .log, .dma, .granary, .miller, .subs, .lastEvents, .rings] [.GRANARY_STAT,
        .GRANARY_SR, .FAULT_EVT, .FAULT_LOG_WR, .FAULT_LOG_LOST] a3 a3 := keeps_refl
    split
    · rename_i t4 e5
      have h6 := keeps_step h0 (feedOne_keeps _ e5)
      exact keeps_step h6 ih
    · exact h0

theorem grantTo_keeps {s : State} {n : Nat} {a1 : GrantKind} :
    Keeps [.log, .link, .dma, .granary, .miller, .cam, .subs, .lastEvents] [.GRANARY_STAT, .GRANARY_SR, .FAULT_EVT,
    .FAULT_LOG_WR, .FAULT_LOG_LOST, .CAMn_STAT] s (State.grantTo s n a1) := by
  unfold State.grantTo
  have h0 : Keeps [.log, .link, .dma, .granary, .miller, .cam, .subs, .lastEvents] [.GRANARY_STAT, .GRANARY_SR,
      .FAULT_EVT, .FAULT_LOG_WR, .FAULT_LOG_LOST, .CAMn_STAT] s s := keeps_refl
  split
  · extract_lets -useContext +onlyGivenNames x2 x4 x6
    have h5 : As h0 x4 := keeps_step h0 setCh_keeps
    clear_value x4
    refine keeps_ite ?_ ?_
    · exact keeps_step h5 issueBack_keeps
    · refine keeps_ite ?_ ?_
      · exact keeps_step h5 addBurst_keeps
      · exact keeps_step h5 issueRead_keeps
  · split
    · exact keeps_step h0 issueBack_keeps
    · exact h0
  · exact keeps_step h0 issueRead_keeps
  · extract_lets -useContext +onlyGivenNames x8 x10
    have h11 : As h0 x10 := keeps_step h0 setCh_keeps
    clear_value x10
    exact keeps_step h11 issueRead_keeps
  · extract_lets -useContext +onlyGivenNames x12 x14 x16
    have h15 : As h0 x14 := keeps_step h0 setCh_keeps
    clear_value x14
    exact keeps_step h15 issueRead_keeps

theorem returned_keeps {s : State} {n : Nat} {d : Desc} {rest : List Desc} {status : Nat} :
    Keeps [.freeCtr, .log, .link, .dma, .granary, .miller, .subs, .lastEvents, .rings] [.LINK_STAT, .LINK_LANEn_STAT,
    .DMA_DONE_EVT, .DMA_CHn_HEAD, .DMA_CHn_STAT, .GRANARY_STAT, .GRANARY_SR, .FAULT_EVT, .FAULT_LOG_WR,
    .FAULT_LOG_LOST] s (State.returned s n d rest status) := by
  unfold State.returned
  have h0 : Keeps [.freeCtr, .log, .link, .dma, .granary, .miller, .subs, .lastEvents, .rings] [.LINK_STAT,
      .LINK_LANEn_STAT, .DMA_DONE_EVT, .DMA_CHn_HEAD, .DMA_CHn_STAT, .GRANARY_STAT, .GRANARY_SR, .FAULT_EVT,
      .FAULT_LOG_WR, .FAULT_LOG_LOST] s s := keeps_refl
  extract_lets -useContext +onlyGivenNames x1 x3 x5 x7 x9 x11
  have h4 : As h0 x3 := keeps_step h0 setCh_keeps
  clear_value x3
  have h6 : As h0 x5 := setFld_keeps h4 (covers .DMA_CHn_HEAD ⟨_, rfl⟩)
  clear_value x5
  have h8 : As h0 x7 := keeps_ite (keeps_step h6 setDmaState_keeps) h6
  clear_value x7
  have h10 : As h0 x9 := keeps_ite (orFld_keeps h8 (covers .DMA_DONE_EVT rfl)) h8
  clear_value x9
  have h12 : As h0 x11 := keeps_ite (keeps_step h10 sendEvent_keeps) h10
  clear_value x11
  exact keeps_step (keeps_step h12 abortDue_keeps) feedRing_keeps

theorem execBurstGrant_keeps {s : State} :
    ∃ t, execBurstGrant s = .next t ∧ Keeps [.log, .link, .dma, .granary, .miller, .cam, .subs, .lastEvents]
    [.DMA_CHn_STAT, .GRANARY_STAT, .GRANARY_SR, .FAULT_EVT, .FAULT_LOG_WR, .FAULT_LOG_LOST, .CAMn_STAT] s t := by
  unfold execBurstGrant
  have h0 : Keeps [.log, .link, .dma, .granary, .miller, .cam, .subs, .lastEvents] [.DMA_CHn_STAT, .GRANARY_STAT,
      .GRANARY_SR, .FAULT_EVT, .FAULT_LOG_WR, .FAULT_LOG_LOST, .CAMn_STAT] s s := keeps_refl
  exact ⟨_, rfl, (by
        extract_lets -useContext +onlyGivenNames x1
        have h2 : As h0 x1 := keeps_step (keeps_step h0 runHolders_keeps) updatePacing_keeps
        clear_value x1
        split
        · exact h2
        · split
          · exact h2
          · extract_lets -useContext +onlyGivenNames x3 x5
            have h6 : As h0 x5 := keeps_dma h2 _
            exact keeps_step (keeps_step h6 grantTo_keeps) stopPacing_keeps)⟩

theorem execDrainComplete_keeps {n : Fin 32} {s : State} :
    ∃ t, execDrainComplete n s = .next t ∧ Keeps [.log, .link, .dma, .subs, .lastEvents] [.LINK_STAT,
    .LINK_LANEn_STAT, .DMA_HALT_EVT, .DMA_CHn_STAT, .FAULT_EVT, .FAULT_LOG_WR, .FAULT_LOG_LOST] s t := by
  unfold execDrainComplete
  have h0 : Keeps [.log, .link, .dma, .subs, .lastEvents] [.LINK_STAT, .LINK_LANEn_STAT, .DMA_HALT_EVT,
      .DMA_CHn_STAT, .FAULT_EVT, .FAULT_LOG_WR, .FAULT_LOG_LOST] s s := keeps_refl
  exact ⟨_, rfl, (by
        extract_lets -useContext +onlyGivenNames x1
        refine keeps_ite ?_ ?_
        · exact h0
        · refine keeps_ite ?_ ?_
          · exact keeps_step h0 dmaHalt_keeps
          · refine keeps_ite ?_ ?_
            · exact keeps_step h0 setDmaState_keeps
            · exact h0)⟩

theorem execInvalidDescriptorHalt_keeps {n : Fin 32} {s : State} :
    ∃ t, execInvalidDescriptorHalt n s = .next t ∧ Keeps [.log, .link, .dma, .subs, .lastEvents] [.LINK_STAT,
    .LINK_LANEn_STAT, .DMA_HALT_EVT, .DMA_CHn_STAT, .FAULT_EVT, .FAULT_LOG_WR, .FAULT_LOG_LOST] s t := by
  unfold execInvalidDescriptorHalt
  have h0 : Keeps [.log, .link, .dma, .subs, .lastEvents] [.LINK_STAT, .LINK_LANEn_STAT, .DMA_HALT_EVT,
      .DMA_CHn_STAT, .FAULT_EVT, .FAULT_LOG_WR, .FAULT_LOG_LOST] s s := keeps_refl
  exact ⟨_, rfl, (by
        split
        · refine keeps_ite ?_ ?_
          · exact keeps_step h0 haltWhenAnswered_keeps
          · exact h0
        · exact h0)⟩

theorem dmaEnChange_keeps {s : State} {n : Nat} {en : Bool} :
    Keeps [.log, .link, .dma, .subs, .lastEvents] [.LINK_STAT, .LINK_LANEn_STAT, .DMA_HALT_EVT, .DMA_CHn_STAT,
    .FAULT_EVT, .FAULT_LOG_WR, .FAULT_LOG_LOST] s (State.dmaEnChange s n en) := by
  unfold State.dmaEnChange
  have h0 : Keeps [.log, .link, .dma, .subs, .lastEvents] [.LINK_STAT, .LINK_LANEn_STAT, .DMA_HALT_EVT,
      .DMA_CHn_STAT, .FAULT_EVT, .FAULT_LOG_WR, .FAULT_LOG_LOST] s s := keeps_refl
  extract_lets -useContext +onlyGivenNames x1
  refine keeps_ite ?_ ?_
  · refine keeps_ite ?_ ?_
    · extract_lets -useContext +onlyGivenNames x3
      refine keeps_ite ?_ ?_
      · exact keeps_step (keeps_step h0 setCh_keeps) setDmaState_keeps
      · exact keeps_step h0 dmaHalt_keeps
    · exact h0
  · refine keeps_ite ?_ ?_
    · exact keeps_step h0 setDmaState_keeps
    · refine keeps_ite ?_ ?_
      · exact setFld_keeps (keeps_step h0 setDmaState_keeps) (covers .DMA_CHn_STAT ⟨_, rfl⟩)
      · exact keeps_step h0 dmaDrain_keeps

theorem finishBack_keeps {s : State} {n : Nat} {b : Burst} :
    Keeps [.freeCtr, .log, .link, .dma, .granary, .miller, .subs, .lastEvents, .sram, .rings] [.LINK_STAT,
    .LINK_LANEn_STAT, .DMA_DONE_EVT, .DMA_CHn_HEAD, .DMA_CHn_STAT, .GRANARY_STAT, .GRANARY_SR, .FAULT_EVT,
    .FAULT_LOG_WR, .FAULT_LOG_LOST] s (State.finishBack s n b) := by
  unfold State.finishBack
  have h0 : Keeps [.freeCtr, .log, .link, .dma, .granary, .miller, .subs, .lastEvents, .sram, .rings] [.LINK_STAT,
      .LINK_LANEn_STAT, .DMA_DONE_EVT, .DMA_CHn_HEAD, .DMA_CHn_STAT, .GRANARY_STAT, .GRANARY_SR, .FAULT_EVT,
      .FAULT_LOG_WR, .FAULT_LOG_LOST] s s := keeps_refl
  extract_lets -useContext +onlyGivenNames x1 x3 x5
  have h4 : As h0 x3 := keeps_ite_neg h0 fun hc => keeps_step (keeps_step h0 (setBytes_keeps .sram (back_in
      (back_shared hc) (back_hi _)))) (setBytes_keeps .sram (back_in (c := 0) (back_shared hc) (back_lo _)))
  clear_value x3
  have h6 : As h0 x5 := keeps_step (keeps_step (keeps_step h4 dropBurst_keeps) dropAnswers_keeps) dropAnswers_keeps
  clear_value x5
  split
  · exact keeps_step (keeps_step h6 returned_keeps) showRetry_keeps
  · exact h6

theorem dropFrame_keeps {s : State} {n : Nat} :
    Keeps [.freeCtr, .log, .dma, .granary, .miller, .cam, .subs, .lastEvents, .records] [.GRANARY_STAT, .GRANARY_SR,
    .FAULT_EVT, .FAULT_LOG_WR, .FAULT_LOG_LOST, .CAM_EVT, .CAMn_STAT, .CAMn_CNT_DROP, .Pp_RES_WR, .Pp_CNT_RESLOST] s
    (State.dropFrame s n) := by
  unfold State.dropFrame
  have h0 : Keeps [.freeCtr, .log, .dma, .granary, .miller, .cam, .subs, .lastEvents, .records] [.GRANARY_STAT,
      .GRANARY_SR, .FAULT_EVT, .FAULT_LOG_WR, .FAULT_LOG_LOST, .CAM_EVT, .CAMn_STAT, .CAMn_CNT_DROP, .Pp_RES_WR,
      .Pp_CNT_RESLOST] s s := keeps_refl
  extract_lets -useContext +onlyGivenNames x1 x3 x5 x7 x9 x11 x13 x15
  have h8 : As h0 x7 := keeps_step h0 setCamPort_keeps
  clear_value x7
  have h16 : As h0 x15 := keeps_step h8 setCh_keeps
  clear_value x15
  exact keeps_step h16 camDrop_keeps

theorem exhausted_keeps {s : State} {n : Nat} {b : Burst} :
    Keeps [.freeCtr, .log, .link, .dma, .granary, .miller, .cam, .subs, .lastEvents, .records] [.LINK_STAT,
    .LINK_LANEn_STAT, .DMA_HALT_EVT, .DMA_CHn_STAT, .GRANARY_STAT, .GRANARY_SR, .FAULT_EVT, .FAULT_LOG_WR,
    .FAULT_LOG_LOST, .CAM_EVT, .CAMn_STAT, .CAMn_CNT_DROP, .Pp_RES_WR, .Pp_CNT_RESLOST] s (State.exhausted s n b) :=
    by
  unfold State.exhausted
  have h0 : Keeps [.freeCtr, .log, .link, .dma, .granary, .miller, .cam, .subs, .lastEvents, .records] [.LINK_STAT,
      .LINK_LANEn_STAT, .DMA_HALT_EVT, .DMA_CHn_STAT, .GRANARY_STAT, .GRANARY_SR, .FAULT_EVT, .FAULT_LOG_WR,
      .FAULT_LOG_LOST, .CAM_EVT, .CAMn_STAT, .CAMn_CNT_DROP, .Pp_RES_WR, .Pp_CNT_RESLOST] s s := keeps_refl
  refine keeps_ite ?_ ?_
  · exact keeps_step h0 haltWhenAnswered_keeps
  · refine keeps_ite ?_ ?_
    · extract_lets -useContext +onlyGivenNames x1
      have h2 : As h0 x1 := keeps_ite (keeps_step h0 dropFrame_keeps) h0
      clear_value x1
      exact keeps_step h2 setCh_keeps
    · exact keeps_step h0 haltWhenAnswered_keeps

theorem dmaChCtrlWrite_keeps {s : State} {n : Nat} {v : Word} :
    Keeps [.log, .link, .dma, .subs, .lastEvents] [.LINK_STAT, .LINK_LANEn_STAT, .DMA_HALT_EVT, .DMA_CHn_CTRL,
    .DMA_CHn_STAT, .FAULT_EVT, .FAULT_LOG_WR, .FAULT_LOG_LOST] s (State.dmaChCtrlWrite s n v) := by
  unfold State.dmaChCtrlWrite
  have h0 : Keeps [.log, .link, .dma, .subs, .lastEvents] [.LINK_STAT, .LINK_LANEn_STAT, .DMA_HALT_EVT,
      .DMA_CHn_CTRL, .DMA_CHn_STAT, .FAULT_EVT, .FAULT_LOG_WR, .FAULT_LOG_LOST] s s := keeps_refl
  extract_lets -useContext +onlyGivenNames x1 x3 x5
  have h2 : As h0 x1 := writeByCodes_keeps h0 (covers .DMA_CHn_CTRL ⟨_, rfl⟩)
  clear_value x1
  have h4 : As h0 x3 := keeps_step h2 dmaEnChange_keeps
  clear_value x3
  have h6 : As h0 x5 := keeps_step h4 dmaPauseChange_keeps
  clear_value x5
  exact keeps_step h6 resumeSkip_keeps

theorem execChannelEnable_keeps {a1 : Requester} {n : Fin 32} {v : Word} {s : State} :
    ∃ t, execChannelEnable a1 n v s = .next t ∧ Keeps [.resp, .log, .link, .dma, .subs, .lastEvents] [.LINK_STAT,
    .LINK_LANEn_STAT, .DMA_HALT_EVT, .DMA_CHn_CTRL, .DMA_CHn_STAT, .FAULT_EVT, .FAULT_LOG_WR, .FAULT_LOG_LOST] s t :=
    by
  unfold execChannelEnable
  have h0 : Keeps [.resp, .log, .link, .dma, .subs, .lastEvents] [.LINK_STAT, .LINK_LANEn_STAT, .DMA_HALT_EVT,
      .DMA_CHn_CTRL, .DMA_CHn_STAT, .FAULT_EVT, .FAULT_LOG_WR, .FAULT_LOG_LOST] s s := keeps_refl
  exact ⟨_, rfl, (keeps_step (keeps_step h0 dmaChCtrlWrite_keeps) written_keeps)⟩

theorem execChannelSkip_keeps {a1 : Requester} {n : Fin 32} {v : Word} {s : State} :
    ∃ t, execChannelSkip a1 n v s = .next t ∧ Keeps [.resp, .log, .link, .dma, .subs, .lastEvents] [.LINK_STAT,
    .LINK_LANEn_STAT, .DMA_HALT_EVT, .DMA_CHn_CTRL, .DMA_CHn_STAT, .FAULT_EVT, .FAULT_LOG_WR, .FAULT_LOG_LOST] s t :=
    by
  unfold execChannelSkip
  have h0 : Keeps [.resp, .log, .link, .dma, .subs, .lastEvents] [.LINK_STAT, .LINK_LANEn_STAT, .DMA_HALT_EVT,
      .DMA_CHn_CTRL, .DMA_CHn_STAT, .FAULT_EVT, .FAULT_LOG_WR, .FAULT_LOG_LOST] s s := keeps_refl
  exact ⟨_, rfl, (keeps_step (keeps_step h0 dmaChCtrlWrite_keeps) written_keeps)⟩

theorem writeBurst_keeps {s : State} {n : Nat} {b : Burst} {d : List Byte} :
    Keeps [.freeCtr, .log, .link, .dma, .granary, .miller, .subs, .lastEvents, .sram, .rings] [.LINK_STAT,
    .LINK_LANEn_STAT, .DMA_DONE_EVT, .DMA_CHn_HEAD, .DMA_CHn_STAT, .GRANARY_STAT, .GRANARY_SR, .FAULT_EVT,
    .FAULT_LOG_WR, .FAULT_LOG_LOST] s (State.writeBurst s n b d) := by
  unfold State.writeBurst
  have h0 : Keeps [.freeCtr, .log, .link, .dma, .granary, .miller, .subs, .lastEvents, .sram, .rings] [.LINK_STAT,
      .LINK_LANEn_STAT, .DMA_DONE_EVT, .DMA_CHn_HEAD, .DMA_CHn_STAT, .GRANARY_STAT, .GRANARY_SR, .FAULT_EVT,
      .FAULT_LOG_WR, .FAULT_LOG_LOST] s s := keeps_refl
  refine keeps_ite ?_ ?_
  · exact keeps_step h0 finishBack_keeps
  · split
    · extract_lets -useContext +onlyGivenNames x1 x3
      have h4 : As h0 x3 := keeps_ite (keeps_step h0 setDec_keeps) (keeps_step h0 setDec_keeps)
      clear_value x3
      exact keeps_step (keeps_step (keeps_step h4 dropBurst_keeps) dropAnswers_keeps) burstDone_keeps
    · extract_lets -useContext +onlyGivenNames x5 x7
      have h8 : As h0 x7 := keeps_step h0 setEnc_keeps
      clear_value x7
      exact keeps_step (keeps_step (keeps_step h8 dropBurst_keeps) dropAnswers_keeps) burstDone_keeps
    · extract_lets -useContext +onlyGivenNames x9
      have h10 : As h0 x9 := keeps_step h0 (setBytes_keeps .sram (sram_in (by assumption)))
      clear_value x9
      exact keeps_step (keeps_step (keeps_step h10 dropBurst_keeps) dropAnswers_keeps) burstDone_keeps
    · split
      · refine keeps_ite ?_ ?_
        · exact keeps_step (keeps_step h0 putBurst_keeps) burstDone_keeps
        · exact h0
      · split
        · rename State => t11
          have h13 : As h0 t11 := keeps_of_2 (by assumption) (keeps_step h0 dramSubmit_keeps)
          extract_lets -useContext +onlyGivenNames x14 x16 x18
          have h15 : As h0 x14 := keeps_step h13 dropAnswers_keeps
          clear_value x14
          have h19 : As h0 x18 := keeps_step h15 putBurst_keeps
          clear_value x18
          refine keeps_ite ?_ ?_
          · exact keeps_step (keeps_step h19 putBurst_keeps) burstDone_keeps
          · exact h19
    · exact h0

theorem execChannelDisable_keeps {a1 : Requester} {n : Fin 32} {v : Word} {s : State} :
    ∃ t, execChannelDisable a1 n v s = .next t ∧ Keeps [.resp, .log, .link, .dma, .subs, .lastEvents] [.LINK_STAT,
    .LINK_LANEn_STAT, .DMA_HALT_EVT, .DMA_CHn_CTRL, .DMA_CHn_STAT, .FAULT_EVT, .FAULT_LOG_WR, .FAULT_LOG_LOST] s t :=
    by
  unfold execChannelDisable
  have h0 : Keeps [.resp, .log, .link, .dma, .subs, .lastEvents] [.LINK_STAT, .LINK_LANEn_STAT, .DMA_HALT_EVT,
      .DMA_CHn_CTRL, .DMA_CHn_STAT, .FAULT_EVT, .FAULT_LOG_WR, .FAULT_LOG_LOST] s s := keeps_refl
  exact ⟨_, rfl, (keeps_step (keeps_step h0 dmaChCtrlWrite_keeps) written_keeps)⟩

theorem failBurst_keeps {s : State} {n : Nat} {b : Burst} {addr : Nat} {cause : Nat} :
    Keeps [.freeCtr, .log, .link, .dma, .granary, .miller, .weaver, .cam, .subs, .lastEvents, .records] [.LINK_STAT,
    .LINK_LANEn_STAT, .DMA_HALT_EVT, .DMA_CHn_STAT, .DMA_CHn_ERRADDR_LO, .DMA_CHn_ERRADDR_HI, .GRANARY_STAT,
    .GRANARY_SR, .FAULT_EVT, .FAULT_LOG_WR, .FAULT_LOG_LOST, .CAM_EVT, .CAMn_STAT, .CAMn_CNT_DROP, .Pp_RES_WR,
    .Pp_CNT_RESLOST] s (State.failBurst s n b addr cause) := by
  unfold State.failBurst
  have h0 : Keeps [.freeCtr, .log, .link, .dma, .granary, .miller, .weaver, .cam, .subs, .lastEvents, .records]
      [.LINK_STAT, .LINK_LANEn_STAT, .DMA_HALT_EVT, .DMA_CHn_STAT, .DMA_CHn_ERRADDR_LO, .DMA_CHn_ERRADDR_HI,
      .GRANARY_STAT, .GRANARY_SR, .FAULT_EVT, .FAULT_LOG_WR, .FAULT_LOG_LOST, .CAM_EVT, .CAMn_STAT, .CAMn_CNT_DROP,
      .Pp_RES_WR, .Pp_CNT_RESLOST] s s := keeps_refl
  extract_lets -useContext +onlyGivenNames x1 x3 x5 x7 x9 x11 x13 x15 x17 x19 x21
  have h10 : As h0 x9 := keeps_step (keeps_step h0 dropAnswers_keeps) dropAnswers_keeps
  clear_value x9
  have h12 : As h0 x11 := keeps_step h10 setErrAddr_keeps
  clear_value x11
  have h14 : As h0 x13 := keeps_step h12 putBurst_keeps
  clear_value x13
  have h18 : As h0 x17 := keeps_step h14 setCh_keeps
  clear_value x17
  have h20 : As h0 x19 := keeps_step h18 showRetry_keeps
  clear_value x19
  have h22 : As h0 x21 := keeps_step h20 logFault_keeps
  clear_value x21
  split
  · rename State => t23
    have h25 : As h0 t23 := keeps_of_2 (by assumption) (keeps_step h22 noteFailure_keeps)
    extract_lets -useContext +onlyGivenNames x26 x28
    have h29 : As h0 x28 := keeps_ite (keeps_ite (keeps_step h25 recompFailed_keeps) h25) (keeps_ite (keeps_step h25
        exhausted_keeps) h25)
    clear_value x28
    refine keeps_ite ?_ ?_
    · exact keeps_step h29 haltWhenAnswered_keeps
    · exact h29

theorem execChannelPause_keeps {a1 : Requester} {n : Fin 32} {v : Word} {s : State} :
    ∃ t, execChannelPause a1 n v s = .next t ∧ Keeps [.resp, .log, .link, .dma, .subs, .lastEvents] [.LINK_STAT,
    .LINK_LANEn_STAT, .DMA_HALT_EVT, .DMA_CHn_CTRL, .DMA_CHn_STAT, .FAULT_EVT, .FAULT_LOG_WR, .FAULT_LOG_LOST] s t :=
    by
  unfold execChannelPause
  have h0 : Keeps [.resp, .log, .link, .dma, .subs, .lastEvents] [.LINK_STAT, .LINK_LANEn_STAT, .DMA_HALT_EVT,
      .DMA_CHn_CTRL, .DMA_CHn_STAT, .FAULT_EVT, .FAULT_LOG_WR, .FAULT_LOG_LOST] s s := keeps_refl
  exact ⟨_, rfl, (keeps_step (keeps_step h0 dmaChCtrlWrite_keeps) written_keeps)⟩

theorem execBurstComplete_keeps {n : Fin 32} {s : State} :
    ∃ t, execBurstComplete n s = .next t ∧ Keeps [.freeCtr, .log, .link, .dma, .granary, .miller, .subs, .lastEvents,
    .sram, .rings] [.LINK_STAT, .LINK_LANEn_STAT, .DMA_DONE_EVT, .DMA_CHn_HEAD, .DMA_CHn_STAT, .GRANARY_STAT,
    .GRANARY_SR, .FAULT_EVT, .FAULT_LOG_WR, .FAULT_LOG_LOST] s t := by
  unfold execBurstComplete
  have h0 : Keeps [.freeCtr, .log, .link, .dma, .granary, .miller, .subs, .lastEvents, .sram, .rings] [.LINK_STAT,
      .LINK_LANEn_STAT, .DMA_DONE_EVT, .DMA_CHn_HEAD, .DMA_CHn_STAT, .GRANARY_STAT, .GRANARY_SR, .FAULT_EVT,
      .FAULT_LOG_WR, .FAULT_LOG_LOST] s s := keeps_refl
  exact ⟨_, rfl, (by
        split
        · exact keeps_step h0 writeBurst_keeps
        · exact h0)⟩

theorem execChannelResume_keeps {a1 : Requester} {n : Fin 32} {v : Word} {s : State} :
    ∃ t, execChannelResume a1 n v s = .next t ∧ Keeps [.resp, .log, .link, .dma, .subs, .lastEvents] [.LINK_STAT,
    .LINK_LANEn_STAT, .DMA_HALT_EVT, .DMA_CHn_CTRL, .DMA_CHn_STAT, .FAULT_EVT, .FAULT_LOG_WR, .FAULT_LOG_LOST] s t :=
    by
  unfold execChannelResume
  have h0 : Keeps [.resp, .log, .link, .dma, .subs, .lastEvents] [.LINK_STAT, .LINK_LANEn_STAT, .DMA_HALT_EVT,
      .DMA_CHn_CTRL, .DMA_CHn_STAT, .FAULT_EVT, .FAULT_LOG_WR, .FAULT_LOG_LOST] s s := keeps_refl
  exact ⟨_, rfl, (keeps_step (keeps_step h0 dmaChCtrlWrite_keeps) written_keeps)⟩

theorem execChannelUnpause_keeps {a1 : Requester} {n : Fin 32} {v : Word} {s : State} :
    ∃ t, execChannelUnpause a1 n v s = .next t ∧ Keeps [.resp, .log, .link, .dma, .subs, .lastEvents] [.LINK_STAT,
    .LINK_LANEn_STAT, .DMA_HALT_EVT, .DMA_CHn_CTRL, .DMA_CHn_STAT, .FAULT_EVT, .FAULT_LOG_WR, .FAULT_LOG_LOST] s t :=
    by
  unfold execChannelUnpause
  have h0 : Keeps [.resp, .log, .link, .dma, .subs, .lastEvents] [.LINK_STAT, .LINK_LANEn_STAT, .DMA_HALT_EVT,
      .DMA_CHn_CTRL, .DMA_CHn_STAT, .FAULT_EVT, .FAULT_LOG_WR, .FAULT_LOG_LOST] s s := keeps_refl
  exact ⟨_, rfl, (keeps_step (keeps_step h0 dmaChCtrlWrite_keeps) written_keeps)⟩

theorem execLateWriteFailure_keeps {n : Fin 32} {s : State} :
    ∃ t, execLateWriteFailure n s = .next t ∧ Keeps [.freeCtr, .log, .link, .dma, .granary, .miller, .weaver, .cam,
    .subs, .lastEvents, .records] [.LINK_STAT, .LINK_LANEn_STAT, .DMA_HALT_EVT, .DMA_LATE_EVT, .DMA_CHn_STAT,
    .DMA_CHn_ERRADDR_LO, .DMA_CHn_ERRADDR_HI, .GRANARY_STAT, .GRANARY_SR, .FAULT_EVT, .FAULT_LOG_WR, .FAULT_LOG_LOST,
    .CAM_EVT, .CAMn_STAT, .CAMn_CNT_DROP, .Pp_RES_WR, .Pp_CNT_RESLOST] s t := by
  unfold execLateWriteFailure
  have h0 : Keeps [.freeCtr, .log, .link, .dma, .granary, .miller, .weaver, .cam, .subs, .lastEvents, .records]
      [.LINK_STAT, .LINK_LANEn_STAT, .DMA_HALT_EVT, .DMA_LATE_EVT, .DMA_CHn_STAT, .DMA_CHn_ERRADDR_LO,
      .DMA_CHn_ERRADDR_HI, .GRANARY_STAT, .GRANARY_SR, .FAULT_EVT, .FAULT_LOG_WR, .FAULT_LOG_LOST, .CAM_EVT,
      .CAMn_STAT, .CAMn_CNT_DROP, .Pp_RES_WR, .Pp_CNT_RESLOST] s s := keeps_refl
  exact ⟨_, rfl, (by
        split
        · extract_lets -useContext +onlyGivenNames x1
          exact keeps_step (orFld_keeps h0 (covers .DMA_LATE_EVT rfl)) failBurst_keeps
        · exact h0)⟩

theorem execBurstFailure_keeps {n : Fin 32} {s : State} :
    ∃ t, execBurstFailure n s = .next t ∧ Keeps [.freeCtr, .log, .link, .dma, .granary, .miller, .weaver, .cam,
    .subs, .lastEvents, .records] [.LINK_STAT, .LINK_LANEn_STAT, .DMA_HALT_EVT, .DMA_CHn_STAT, .DMA_CHn_ERRADDR_LO,
    .DMA_CHn_ERRADDR_HI, .GRANARY_STAT, .GRANARY_SR, .FAULT_EVT, .FAULT_LOG_WR, .FAULT_LOG_LOST, .CAM_EVT,
    .CAMn_STAT, .CAMn_CNT_DROP, .Pp_RES_WR, .Pp_CNT_RESLOST] s t := by
  unfold execBurstFailure
  have h0 : Keeps [.freeCtr, .log, .link, .dma, .granary, .miller, .weaver, .cam, .subs, .lastEvents, .records]
      [.LINK_STAT, .LINK_LANEn_STAT, .DMA_HALT_EVT, .DMA_CHn_STAT, .DMA_CHn_ERRADDR_LO, .DMA_CHn_ERRADDR_HI,
      .GRANARY_STAT, .GRANARY_SR, .FAULT_EVT, .FAULT_LOG_WR, .FAULT_LOG_LOST, .CAM_EVT, .CAMn_STAT, .CAMn_CNT_DROP,
      .Pp_RES_WR, .Pp_CNT_RESLOST] s s := keeps_refl
  exact ⟨_, rfl, (by
        split
        · extract_lets -useContext +onlyGivenNames x1
          have h2 : As h0 x1 := by
            unfold x1
            split
            · refine keeps_ite ?_ ?_
              · exact keeps_step h0 accessRefused_keeps
              · exact h0
            · exact h0
          clear_value x1
          exact keeps_step h2 failBurst_keeps
        · exact h0)⟩

theorem abortWrite_keeps {s : State} {n : Nat} {i : Nat} :
    Keeps [.resp, .freeCtr, .log, .link, .dma, .granary, .dramValid, .pend, .landed, .weaver, .hcs, .cal, .axes,
    .eth, .pages, .subs, .lastEvents, .dram, .tones, .nozGain] [.LINK_STAT, .LINK_LANEn_STAT, .DMA_HALT_EVT,
    .DMA_CHn_STAT, .GRANARY_STAT, .GRANARY_EVT, .GRANARY_SR, .GRANARY_CHc_RDERR, .GRANARY_CHc_CAPAR,
    .GRANARY_CHc_RMWERR, .GRANARY_CHc_QUEUE, .WEAVER_KERNEL, .WEAVER_MASKLINE, .HC_STAT, .HC_EVT, .HC_COMBLINE,
    .HC_SCAN_PTR, .BR_CTRL, .BR_STAT, .BR_EVT, .BR_FMAX, .BR_SNAPLINE, .FAULT_STAT, .FAULT_EVT, .FAULT_LOG_WR,
    .FAULT_LOG_LOST, .CAL_HCh_NOW, .CAL_HCh_STAT, .CLKPWR_STAT, .CLKPWR_EVT] s (State.abortWrite s n i) := by
  unfold State.abortWrite
  have h0 : Keeps [.resp, .freeCtr, .log, .link, .dma, .granary, .dramValid, .pend, .landed, .weaver, .hcs, .cal,
      .axes, .eth, .pages, .subs, .lastEvents, .dram, .tones, .nozGain] [.LINK_STAT, .LINK_LANEn_STAT, .DMA_HALT_EVT,
      .DMA_CHn_STAT, .GRANARY_STAT, .GRANARY_EVT, .GRANARY_SR, .GRANARY_CHc_RDERR, .GRANARY_CHc_CAPAR,
      .GRANARY_CHc_RMWERR, .GRANARY_CHc_QUEUE, .WEAVER_KERNEL, .WEAVER_MASKLINE, .HC_STAT, .HC_EVT, .HC_COMBLINE,
      .HC_SCAN_PTR, .BR_CTRL, .BR_STAT, .BR_EVT, .BR_FMAX, .BR_SNAPLINE, .FAULT_STAT, .FAULT_EVT, .FAULT_LOG_WR,
      .FAULT_LOG_LOST, .CAL_HCh_NOW, .CAL_HCh_STAT, .CLKPWR_STAT, .CLKPWR_EVT] s s := keeps_refl
  extract_lets -useContext +onlyGivenNames x1
  refine keeps_ite ?_ ?_
  · exact keeps_step h0 abortRes_keeps
  · refine keeps_ite ?_ ?_
    · exact keeps_step h0 abortAt_keeps
    · split
      · rename State => t3
        have h5 : As h0 t3 := keeps_of_2 (by assumption) (keeps_step h0 memRead_keeps)
        split
        · refine keeps_ite ?_ ?_
          · exact keeps_step h5 abortAt_keeps
          · exact keeps_step h5 abortRes_keeps
        · exact keeps_step h5 abortRes_keeps

theorem execAbortRequest_keeps {a1 : Requester} {n : Fin 32} {v : Word} {s : State} :
    ∃ t, execAbortRequest a1 n v s = .next t ∧ Keeps [.resp, .freeCtr, .log, .link, .dma, .granary, .dramValid,
    .pend, .landed, .weaver, .hcs, .cal, .axes, .eth, .pages, .subs, .lastEvents, .dram, .tones, .nozGain]
    [.LINK_STAT, .LINK_LANEn_STAT, .DMA_HALT_EVT, .DMA_CHn_STAT, .GRANARY_STAT, .GRANARY_EVT, .GRANARY_SR,
    .GRANARY_CHc_RDERR, .GRANARY_CHc_CAPAR, .GRANARY_CHc_RMWERR, .GRANARY_CHc_QUEUE, .WEAVER_KERNEL,
    .WEAVER_MASKLINE, .HC_STAT, .HC_EVT, .HC_COMBLINE, .HC_SCAN_PTR, .BR_CTRL, .BR_STAT, .BR_EVT, .BR_FMAX,
    .BR_SNAPLINE, .FAULT_STAT, .FAULT_EVT, .FAULT_LOG_WR, .FAULT_LOG_LOST, .CAL_HCh_NOW, .CAL_HCh_STAT, .CLKPWR_STAT,
    .CLKPWR_EVT] s t := by
  unfold execAbortRequest
  have h0 : Keeps [.resp, .freeCtr, .log, .link, .dma, .granary, .dramValid, .pend, .landed, .weaver, .hcs, .cal,
      .axes, .eth, .pages, .subs, .lastEvents, .dram, .tones, .nozGain] [.LINK_STAT, .LINK_LANEn_STAT, .DMA_HALT_EVT,
      .DMA_CHn_STAT, .GRANARY_STAT, .GRANARY_EVT, .GRANARY_SR, .GRANARY_CHc_RDERR, .GRANARY_CHc_CAPAR,
      .GRANARY_CHc_RMWERR, .GRANARY_CHc_QUEUE, .WEAVER_KERNEL, .WEAVER_MASKLINE, .HC_STAT, .HC_EVT, .HC_COMBLINE,
      .HC_SCAN_PTR, .BR_CTRL, .BR_STAT, .BR_EVT, .BR_FMAX, .BR_SNAPLINE, .FAULT_STAT, .FAULT_EVT, .FAULT_LOG_WR,
      .FAULT_LOG_LOST, .CAL_HCh_NOW, .CAL_HCh_STAT, .CLKPWR_STAT, .CLKPWR_EVT] s s := keeps_refl
  exact ⟨_, rfl, (keeps_step (keeps_step h0 abortWrite_keeps) written_keeps)⟩

end Sys2Proof.Laws
end

