-- ==== Sys2Proof/Laws/KeepsMiller.lean ====
section
/-! SUPPORT. What each operation of Machine/Miller.lean may change (`Keeps`): the parts of the state and the rows of registers. -/

set_option Elab.async false

namespace Sys2Proof.Laws

open Sys2Proof.Machine

theorem decoded_in {s : State} {k i : Nat} {x : DecLine} : Part.decoded.stores [] s (heldAddr k x i) :=
  ⟨k, by unfold heldAddr; omega, by unfold heldAddr decodedArea; omega⟩

theorem popResult_keeps {s : State} {a1 : Requester} {e : Nat} :
    Keeps [.resp, .miller] [] s (State.popResult s a1 e) := by
  unfold State.popResult
  have h0 : Keeps [.resp, .miller] [] s s := keeps_refl
  extract_lets -useContext +onlyGivenNames x2
  exact keeps_step (keeps_step h0 setEnc_keeps) okResp_keeps

theorem endEncBlock_keeps {s : State} {e : Nat} {flushed : Bool} :
    Keeps [.dma, .miller] [.MILLER_EVT, .MILLER_ENCe_LINE0, .MILLER_ENCe_BYTESOUT] s (State.endEncBlock s e flushed)
    := by
  unfold State.endEncBlock
  have h0 : Keeps [.dma, .miller] [.MILLER_EVT, .MILLER_ENCe_LINE0, .MILLER_ENCe_BYTESOUT] s s := keeps_refl
  extract_lets -useContext +onlyGivenNames x1 x3 x5 x7 x9 x11 x13 x15 x17 x19 x21 x23 x25 x27
  have h22 : As h0 x21 := keeps_step (keeps_step h0 sourceFills_keeps) setEnc_keeps
  clear_value x21
  have h24 : As h0 x23 := keeps_setReg h22 (covers .MILLER_ENCe_LINE0 ⟨_, rfl⟩)
  clear_value x23
  have h26 : As h0 x25 := count_keeps h24 (covers .MILLER_ENCe_BYTESOUT ⟨_, rfl⟩)
  clear_value x25
  have h28 : As h0 x27 := orFld_keeps h26 (covers .MILLER_EVT rfl)
  clear_value x27
  refine keeps_ite ?_ ?_
  · exact orFld_keeps h28 (covers .MILLER_EVT rfl)
  · exact h28

theorem encTakeLine_keeps {s : State} {e : Nat} :
    Keeps [.miller] [.MILLER_ENCe_BYTESIN] s (State.encTakeLine s e) := by
  unfold State.encTakeLine
  have h0 : Keeps [.miller] [.MILLER_ENCe_BYTESIN] s s := keeps_refl
  extract_lets -useContext +onlyGivenNames x1 x3
  refine keeps_ite ?_ ?_
  · exact h0
  · extract_lets -useContext +onlyGivenNames x5 x7
    refine keeps_ite ?_ ?_
    · exact keeps_step h0 setEnc_keeps
    · extract_lets -useContext +onlyGivenNames x9
      have h10 : As h0 x9 := keeps_step h0 setEnc_keeps
      clear_value x9
      exact count_keeps h10 (covers .MILLER_ENCe_BYTESIN ⟨_, rfl⟩)

theorem wantRecompute_keeps {s : State} {d : Nat} {e : DirEntry} {need : Option Nat} :
    Keeps [.weaver] [] s (State.wantRecompute s d e need) := by
  unfold State.wantRecompute
  have h0 : Keeps [.weaver] [] s s := keeps_refl
  extract_lets -useContext +onlyGivenNames x1 x3 x5 x7 x9
  refine keeps_ite ?_ ?_
  · exact h0
  · exact keeps_step h0 setHam_keeps

theorem noteParity_keeps {s : State} {d : Nat} {parity : Bool} :
    Keeps [.miller] [] s (State.noteParity s d parity) := by
  unfold State.noteParity
  have h0 : Keeps [.miller] [] s s := keeps_refl
  exact keeps_step h0 setDec_keeps

theorem addDir_keeps {s : State} {d : Nat} {e : DirEntry} :
    Keeps [.miller] [] s (State.addDir s d e) := by
  unfold State.addDir
  have h0 : Keeps [.miller] [] s s := keeps_refl
  exact keeps_step h0 setDec_keeps

theorem setDecState_keeps {s : State} {d : Nat} {v : Nat} :
    Keeps [] [.MILLER_DECd_STAT] s (State.setDecState s d v) := by
  unfold State.setDecState
  have h0 : Keeps [] [.MILLER_DECd_STAT] s s := keeps_refl
  exact setFld_keeps h0 (covers .MILLER_DECd_STAT ⟨_, rfl⟩)

theorem putLine_keeps {s : State} {k : Nat} {a1 : DecLine} {l : List Byte} :
    Keeps [.decoded] [] s (State.putLine s k a1 l) := by
  unfold State.putLine
  have h0 : Keeps [.decoded] [] s s := keeps_refl
  exact keeps_foldl h0 (fun _ _ h2 => (keeps_step h2 (setByte_keeps .decoded decoded_in)))

theorem millerCtrlWrite_keeps {s : State} {v : Word} :
    Keeps [] [.MILLER_CTRL, .MILLER_DECd_STAT] s (State.millerCtrlWrite s v) := by
  unfold State.millerCtrlWrite
  have h0 : Keeps [] [.MILLER_CTRL, .MILLER_DECd_STAT] s s := keeps_refl
  extract_lets -useContext +onlyGivenNames x1
  have h2 : As h0 x1 := writeByCodes_keeps h0 (covers .MILLER_CTRL rfl)
  clear_value x1
  exact keeps_foldl h2 (fun _ _ h3 => (keeps_ite (keeps_ite (keeps_step h3 setDecState_keeps) h3) (keeps_ite
      (keeps_step h3 setDecState_keeps) h3)))

theorem execMillerResultPop_keeps {a1 : Requester} {e : Fin 2} {s : State} :
    ∃ t, execMillerResultPop a1 e s = .next t ∧ Keeps [.resp, .miller] [] s t := by
  unfold execMillerResultPop
  have h0 : Keeps [.resp, .miller] [] s s := keeps_refl
  exact ⟨_, rfl, (keeps_step h0 popResult_keeps)⟩

theorem execDecoderEnable_keeps {a1 : Requester} {d : Fin 8} {v : Word} {s : State} :
    ∃ t, execDecoderEnable a1 d v s = .next t ∧ Keeps [.resp] [.MILLER_CTRL, .MILLER_DECd_STAT] s t := by
  unfold execDecoderEnable
  have h0 : Keeps [.resp] [.MILLER_CTRL, .MILLER_DECd_STAT] s s := keeps_refl
  exact ⟨_, rfl, (keeps_step (keeps_step h0 millerCtrlWrite_keeps) written_keeps)⟩

theorem madeValid_keeps {s : State} {d : Nat} {a1 : BlockHeader} :
    Keeps [] [.MILLER_DECd_LINE, .MILLER_DECd_BLOCKS] s (State.madeValid s d a1) := by
  unfold State.madeValid
  have h0 : Keeps [] [.MILLER_DECd_LINE, .MILLER_DECd_BLOCKS] s s := keeps_refl
  extract_lets -useContext +onlyGivenNames x2
  have h3 : As h0 x2 := keeps_setReg h0 (covers .MILLER_DECd_LINE ⟨_, rfl⟩)
  clear_value x2
  exact count_keeps h3 (covers .MILLER_DECd_BLOCKS ⟨_, rfl⟩)

theorem endDecPage_keeps {s : State} {d : Nat} :
    Keeps [.miller] [] s (State.endDecPage s d) := by
  unfold State.endDecPage
  have h0 : Keeps [.miller] [] s s := keeps_refl
  exact keeps_step h0 setDec_keeps

theorem execDecoderDisable_keeps {a1 : Requester} {d : Fin 8} {v : Word} {s : State} :
    ∃ t, execDecoderDisable a1 d v s = .next t ∧ Keeps [.resp] [.MILLER_CTRL, .MILLER_DECd_STAT] s t := by
  unfold execDecoderDisable
  have h0 : Keeps [.resp] [.MILLER_CTRL, .MILLER_DECd_STAT] s s := keeps_refl
  exact ⟨_, rfl, (keeps_step (keeps_step h0 millerCtrlWrite_keeps) written_keeps)⟩

theorem loseBlock_keeps {s : State} {k : Nat} {e : DirEntry} :
    Keeps [.weaver] [] s (State.loseBlock s k e) := by
  unfold State.loseBlock
  have h0 : Keeps [.weaver] [] s s := keeps_refl
  exact keeps_step h0 setHam_keeps

theorem encSettle_keeps {s : State} {e : Nat} :
    Keeps [.dma, .miller] [.MILLER_EVT, .MILLER_ENCe_LINE0, .MILLER_ENCe_BYTESOUT] s (State.encSettle s e) := by
  unfold State.encSettle
  have h0 : Keeps [.dma, .miller] [.MILLER_EVT, .MILLER_ENCe_LINE0, .MILLER_ENCe_BYTESOUT] s s := keeps_refl
  extract_lets -useContext +onlyGivenNames x1
  refine keeps_ite ?_ ?_
  · refine keeps_ite ?_ ?_
    · exact keeps_step h0 setEnc_keeps
    · refine keeps_ite ?_ ?_
      · extract_lets -useContext +onlyGivenNames x3 x5
        have h4 : As h0 x3 := keeps_step h0 endEncBlock_keeps
        clear_value x3
        exact keeps_step h4 setEnc_keeps
      · exact h0
  · exact h0

theorem storeLines_keeps {s : State} {k d ser : Nat} {h : BlockHeader} {orig : List Byte} :
    ∀ t, State.storeLines s k d ser h orig = some t → Keeps [.weaver, .decoded] [] s t := by
  unfold State.storeLines
  have h0 : Keeps [.weaver, .decoded] [] s s := keeps_refl
  extract_lets -useContext +onlyGivenNames n mine x
  split
  · extract_lets -useContext +onlyGivenNames u
    intro t ht
    cases ht
    exact keeps_step (keeps_foldl h0 (fun _ _ h => keeps_step h putLine_keeps)) setHam_keeps
  · intro t ht
    obtain ⟨keep, -, rfl⟩ := Option.map_eq_some_iff.mp ht
    exact keeps_foldl (keeps_step h0 setHam_keeps) (fun _ _ h => keeps_step (keeps_step h putLine_keeps) setHam_keeps)

theorem encFlush_keeps {s : State} {e : Nat} {partialLine : Bool} :
    Keeps [.dma, .miller] [.MILLER_EVT, .MILLER_ENCe_LINE0, .MILLER_ENCe_BYTESOUT] s (State.encFlush s e partialLine)
    := by
  unfold State.encFlush
  have h0 : Keeps [.dma, .miller] [.MILLER_EVT, .MILLER_ENCe_LINE0, .MILLER_ENCe_BYTESOUT] s s := keeps_refl
  extract_lets -useContext +onlyGivenNames x1 x3 x5 x7
  refine keeps_ite ?_ ?_
  · exact h0
  · exact keeps_step (keeps_step h0 setEnc_keeps) encSettle_keeps

theorem blockDone_keeps {s : State} {d : Nat} :
    Keeps [.miller] [.MILLER_DECd_STAT] s (State.blockDone s d) := by
  unfold State.blockDone
  have h0 : Keeps [.miller] [.MILLER_DECd_STAT] s s := keeps_refl
  extract_lets -useContext +onlyGivenNames x1 x3
  have h4 : As h0 x3 := keeps_step h0 setDec_keeps
  clear_value x3
  exact keeps_step h4 setDecState_keeps

theorem execHuntResync_keeps {d : Fin 8} {s : State} :
    ∃ t, execHuntResync d s = .next t ∧ Keeps [.miller] [.MILLER_DECd_STAT, .MILLER_DECd_HUNT] s t := by
  unfold execHuntResync
  have h0 : Keeps [.miller] [.MILLER_DECd_STAT, .MILLER_DECd_HUNT] s s := keeps_refl
  exact ⟨_, rfl, (keeps_ite h0 (by
        extract_lets -useContext +onlyGivenNames x1 x3
        split
        · extract_lets -useContext +onlyGivenNames x5 x7
          have h6 : As h0 x5 := count_keeps h0 (covers .MILLER_DECd_HUNT ⟨_, rfl⟩)
          clear_value x5
          have h8 : As h0 x7 := keeps_step h6 setDec_keeps
          clear_value x7
          refine keeps_ite ?_ ?_
          · extract_lets -useContext +onlyGivenNames x9 x11 x13 x15
            have h16 : As h0 x15 := keeps_step h8 setDec_keeps
            clear_value x15
            exact keeps_step h16 setDecState_keeps
          · exact h8))⟩

theorem encStep_keeps {s : State} {e : Nat} :
    Keeps [.dma, .miller] [.MILLER_EVT, .MILLER_ENCe_LINE0, .MILLER_ENCe_BYTESIN, .MILLER_ENCe_BYTESOUT] s
    (State.encStep s e) := by
  unfold State.encStep
  have h0 : Keeps [.dma, .miller] [.MILLER_EVT, .MILLER_ENCe_LINE0, .MILLER_ENCe_BYTESIN, .MILLER_ENCe_BYTESOUT] s s
      := keeps_refl
  extract_lets -useContext +onlyGivenNames x1 x5
  have h2 : ∀ y3, As h0 y3 → As h0 (x1 y3) := fun y3 h4 => (keeps_ite (keeps_step h4 endEncBlock_keeps) h4)
  clear_value x1
  have h6 : As h0 x5 := h2 _ h0
  clear_value x5
  refine keeps_ite ?_ ?_
  · exact h6
  · extract_lets -useContext +onlyGivenNames x7 x9 x11
    have h8 : As h0 x7 := keeps_step h6 encTakeLine_keeps
    clear_value x7
    have h12 : As h0 x11 := keeps_ite (h2 _ h8) h8
    clear_value x11
    exact keeps_step h12 encSettle_keeps

theorem servePage_keeps {s : State} {d : Nat} :
    Keeps [.miller] [.MILLER_DECd_STAT] s (State.servePage s d) := by
  unfold State.servePage
  have h0 : Keeps [.miller] [.MILLER_DECd_STAT] s s := keeps_refl
  refine keeps_ite ?_ ?_
  · exact h0
  · split
    · extract_lets -useContext +onlyGivenNames x1 x3
      have h4 : As h0 x3 := keeps_step h0 setDec_keeps
      clear_value x3
      exact keeps_step (setFld_keeps h4 (covers .MILLER_DECd_STAT ⟨_, rfl⟩)) setDecState_keeps
    · exact keeps_step h0 setDecState_keeps

theorem execEncoderLine_keeps {e : Fin 2} {s : State} :
    ∃ t, execEncoderLine e s = .next t ∧ Keeps [.dma, .miller] [.MILLER_EVT, .MILLER_ENCe_LINE0,
    .MILLER_ENCe_BYTESIN, .MILLER_ENCe_BYTESOUT] s t := by
  unfold execEncoderLine
  have h0 : Keeps [.dma, .miller] [.MILLER_EVT, .MILLER_ENCe_LINE0, .MILLER_ENCe_BYTESIN, .MILLER_ENCe_BYTESOUT] s s
      := keeps_refl
  exact ⟨_, rfl, (keeps_ite (keeps_step h0 encStep_keeps) h0)⟩

theorem hamletFault_keeps {s : State} {k : Nat} {src : Nat} {unit : Nat} {cause : Nat} :
    Keeps [.log, .weaver, .subs, .lastEvents] [.HAM_EVT, .FAULT_EVT, .FAULT_LOG_WR, .FAULT_LOG_LOST] s
    (State.hamletFault s k src unit cause) := by
  unfold State.hamletFault
  have h0 : Keeps [.log, .weaver, .subs, .lastEvents] [.HAM_EVT, .FAULT_EVT, .FAULT_LOG_WR, .FAULT_LOG_LOST] s s :=
      keeps_refl
  extract_lets -useContext +onlyGivenNames x1 x3 x5 x7 x9
  have h2 : As h0 x1 := keeps_step h0 logFault_keeps
  clear_value x1
  have h10 : As h0 x9 := keeps_step h2 setHam_keeps
  clear_value x9
  refine keeps_ite ?_ ?_
  · extract_lets -useContext +onlyGivenNames x11
    have h12 : As h0 x11 := setBit_keeps (setBit_keeps h10 (covers .HAM_EVT ⟨_, rfl⟩)) (covers .FAULT_EVT rfl)
    clear_value x11
    exact keeps_step h12 logFault_keeps
  · exact h10

theorem encCtrlWrite_keeps {s : State} {a1 : Requester} {e : Nat} {v : Word} :
    Keeps [.resp, .log, .dma, .miller, .subs, .lastEvents] [.MILLER_EVT, .MILLER_ENCe_CTRL, .MILLER_ENCe_LINE0,
    .MILLER_ENCe_BYTESOUT, .FAULT_EVT, .FAULT_LOG_WR, .FAULT_LOG_LOST] s (State.encCtrlWrite s a1 e v) := by
  unfold State.encCtrlWrite
  have h0 : Keeps [.resp, .log, .dma, .miller, .subs, .lastEvents] [.MILLER_EVT, .MILLER_ENCe_CTRL,
      .MILLER_ENCe_LINE0, .MILLER_ENCe_BYTESOUT, .FAULT_EVT, .FAULT_LOG_WR, .FAULT_LOG_LOST] s s := keeps_refl
  extract_lets -useContext +onlyGivenNames x2 x4 x6 x8
  refine keeps_ite ?_ ?_
  · exact keeps_step h0 refuse_keeps
  · extract_lets -useContext +onlyGivenNames x10
    have h11 : As h0 x10 := keeps_step (writeByCodes_keeps h0 (covers .MILLER_ENCe_CTRL ⟨_, rfl⟩)) written_keeps
    clear_value x10
    refine keeps_ite ?_ ?_
    · extract_lets -useContext +onlyGivenNames x12 x14 x16 x18 x20 x22
      have h15 : As h0 x14 := keeps_step h11 setEnc_keeps
      clear_value x14
      have h23 : As h0 x22 := keeps_step h15 setEnc_keeps
      clear_value x22
      exact keeps_step h23 encFlush_keeps
    · refine keeps_ite ?_ ?_
      · exact keeps_step h11 encFlush_keeps
      · exact h11

theorem execEncoderFlush_keeps {a1 : Requester} {e : Fin 2} {v : Word} {s : State} :
    ∃ t, execEncoderFlush a1 e v s = .next t ∧ Keeps [.resp, .log, .dma, .miller, .subs, .lastEvents] [.MILLER_EVT,
    .MILLER_ENCe_CTRL, .MILLER_ENCe_LINE0, .MILLER_ENCe_BYTESOUT, .FAULT_EVT, .FAULT_LOG_WR, .FAULT_LOG_LOST] s t :=
    by
  unfold execEncoderFlush
  have h0 : Keeps [.resp, .log, .dma, .miller, .subs, .lastEvents] [.MILLER_EVT, .MILLER_ENCe_CTRL,
      .MILLER_ENCe_LINE0, .MILLER_ENCe_BYTESOUT, .FAULT_EVT, .FAULT_LOG_WR, .FAULT_LOG_LOST] s s := keeps_refl
  exact ⟨_, rfl, (keeps_step h0 encCtrlWrite_keeps)⟩

theorem decError_keeps {s : State} {d : Nat} {kind : Nat} {line0 : Option Nat} :
    Keeps [.log, .weaver, .subs, .lastEvents] [.MILLER_EVT, .MILLER_DECd_ERRCNT, .MILLER_DECd_ERRLINE, .HAM_EVT,
    .FAULT_EVT, .FAULT_LOG_WR, .FAULT_LOG_LOST] s (State.decError s d kind line0) := by
  unfold State.decError
  have h0 : Keeps [.log, .weaver, .subs, .lastEvents] [.MILLER_EVT, .MILLER_DECd_ERRCNT, .MILLER_DECd_ERRLINE,
      .HAM_EVT, .FAULT_EVT, .FAULT_LOG_WR, .FAULT_LOG_LOST] s s := keeps_refl
  extract_lets -useContext +onlyGivenNames x1 x3 x5
  have h2 : As h0 x1 := count_keeps h0 (covers .MILLER_DECd_ERRCNT ⟨_, rfl⟩)
  clear_value x1
  have h4 : As h0 x3 := orFld_keeps h2 (covers .MILLER_EVT rfl)
  clear_value x3
  have h6 : As h0 x5 := keeps_setReg h4 (covers .MILLER_DECd_ERRLINE ⟨_, rfl⟩)
  clear_value x5
  exact keeps_step h6 hamletFault_keeps

theorem endPageBlock_keeps {s : State} {d : Nat} {b : List Byte} :
    Keeps [.log, .miller, .weaver, .subs, .lastEvents] [.MILLER_EVT, .MILLER_DECd_STAT, .MILLER_DECd_ERRCNT,
    .MILLER_DECd_ERRLINE, .HAM_EVT, .FAULT_EVT, .FAULT_LOG_WR, .FAULT_LOG_LOST] s (State.endPageBlock s d b) := by
  unfold State.endPageBlock
  have h0 : Keeps [.log, .miller, .weaver, .subs, .lastEvents] [.MILLER_EVT, .MILLER_DECd_STAT, .MILLER_DECd_ERRCNT,
      .MILLER_DECd_ERRLINE, .HAM_EVT, .FAULT_EVT, .FAULT_LOG_WR, .FAULT_LOG_LOST] s s := keeps_refl
  extract_lets -useContext +onlyGivenNames x1 x3 x5
  have h6 : ∀ y7, As h0 y7 → As h0 (x5 y7) := fun y7 h8 => (keeps_ite h8 (keeps_step h8 decError_keeps))
  clear_value x5
  refine keeps_ite ?_ ?_
  · exact keeps_step (keeps_step (h6 _ h0) endDecPage_keeps) servePage_keeps
  · split
    · refine keeps_ite ?_ ?_
      · exact keeps_step (keeps_step (h6 _ (keeps_step (keeps_step (keeps_step h0 decError_keeps) endDecPage_keeps)
            servePage_keeps)) endDecPage_keeps) servePage_keeps
      · exact keeps_step h0 decError_keeps
    · exact keeps_step h0 decError_keeps

theorem execEncoderDisable_keeps {a1 : Requester} {e : Fin 2} {v : Word} {s : State} :
    ∃ t, execEncoderDisable a1 e v s = .next t ∧ Keeps [.resp, .log, .dma, .miller, .subs, .lastEvents] [.MILLER_EVT,
    .MILLER_ENCe_CTRL, .MILLER_ENCe_LINE0, .MILLER_ENCe_BYTESOUT, .FAULT_EVT, .FAULT_LOG_WR, .FAULT_LOG_LOST] s t :=
    by
  unfold execEncoderDisable
  have h0 : Keeps [.resp, .log, .dma, .miller, .subs, .lastEvents] [.MILLER_EVT, .MILLER_ENCe_CTRL,
      .MILLER_ENCe_LINE0, .MILLER_ENCe_BYTESOUT, .FAULT_EVT, .FAULT_LOG_WR, .FAULT_LOG_LOST] s s := keeps_refl
  exact ⟨_, rfl, (keeps_step h0 encCtrlWrite_keeps)⟩

theorem execEncoderEnable_keeps {a1 : Requester} {e : Fin 2} {v : Word} {s : State} :
    ∃ t, execEncoderEnable a1 e v s = .next t ∧ Keeps [.resp, .log, .dma, .miller, .subs, .lastEvents] [.MILLER_EVT,
    .MILLER_ENCe_CTRL, .MILLER_ENCe_LINE0, .MILLER_ENCe_BYTESOUT, .FAULT_EVT, .FAULT_LOG_WR, .FAULT_LOG_LOST] s t :=
    by
  unfold execEncoderEnable
  have h0 : Keeps [.resp, .log, .dma, .miller, .subs, .lastEvents] [.MILLER_EVT, .MILLER_ENCe_CTRL,
      .MILLER_ENCe_LINE0, .MILLER_ENCe_BYTESOUT, .FAULT_EVT, .FAULT_LOG_WR, .FAULT_LOG_LOST] s s := keeps_refl
  exact ⟨_, rfl, (keeps_step h0 encCtrlWrite_keeps)⟩

theorem execEndOfPageBlock_keeps {d : Fin 8} {parity : Bool} {s : State} :
    ∃ t, execEndOfPageBlock d parity s = .next t ∧ Keeps [.log, .miller, .weaver, .subs, .lastEvents] [.MILLER_EVT,
    .MILLER_DECd_STAT, .MILLER_DECd_ERRCNT, .MILLER_DECd_ERRLINE, .HAM_EVT, .FAULT_EVT, .FAULT_LOG_WR,
    .FAULT_LOG_LOST] s t := by
  unfold execEndOfPageBlock
  have h0 : Keeps [.log, .miller, .weaver, .subs, .lastEvents] [.MILLER_EVT, .MILLER_DECd_STAT, .MILLER_DECd_ERRCNT,
      .MILLER_DECd_ERRLINE, .HAM_EVT, .FAULT_EVT, .FAULT_LOG_WR, .FAULT_LOG_LOST] s s := keeps_refl
  exact ⟨_, rfl, (keeps_ite h0 (by
        extract_lets -useContext +onlyGivenNames x1 x3
        have h2 : As h0 x1 := keeps_step h0 servePage_keeps
        clear_value x1
        split
        · refine keeps_ite ?_ ?_
          · exact h2
          · extract_lets -useContext +onlyGivenNames x5
            have h6 : As h0 x5 := keeps_step h2 setDec_keeps
            clear_value x5
            refine keeps_ite ?_ ?_
            · exact keeps_step h6 decError_keeps
            · exact keeps_step h6 endPageBlock_keeps))⟩

theorem finishBlock_keeps {s : State} {d : Nat} :
    Keeps [.log, .miller, .weaver, .subs, .lastEvents, .decoded] [.MILLER_EVT, .MILLER_DECd_STAT, .MILLER_DECd_LINE,
    .MILLER_DECd_ERRCNT, .MILLER_DECd_ERRLINE, .MILLER_DECd_BLOCKS, .HAM_EVT, .FAULT_EVT, .FAULT_LOG_WR,
    .FAULT_LOG_LOST] s (State.finishBlock s d) := by
  unfold State.finishBlock
  have h0 : Keeps [.log, .miller, .weaver, .subs, .lastEvents, .decoded] [.MILLER_EVT, .MILLER_DECd_STAT,
      .MILLER_DECd_LINE, .MILLER_DECd_ERRCNT, .MILLER_DECd_ERRLINE, .MILLER_DECd_BLOCKS, .HAM_EVT, .FAULT_EVT,
      .FAULT_LOG_WR, .FAULT_LOG_LOST] s s := keeps_refl
  extract_lets -useContext +onlyGivenNames x1 x3 x5
  refine keeps_ite ?_ ?_
  · exact keeps_step (keeps_step h0 decError_keeps) blockDone_keeps
  · extract_lets -useContext +onlyGivenNames x7 x9
    have h10 : ∀ y11, As h0 y11 → As h0 (x9 y11) := fun y11 h12 => (keeps_step h12 setDec_keeps)
    clear_value x9
    split
    · exact keeps_step (h10 _ (keeps_step (keeps_step (keeps_step h0 addDir_keeps) decError_keeps)
          wantRecompute_keeps)) blockDone_keeps
    · split
      · exact keeps_step h0 setDecState_keeps
      · rename_i t13 e14
        have h15 := keeps_step h0 (storeLines_keeps _ e14)
        exact keeps_step (h10 _ (keeps_step (keeps_step h15 addDir_keeps) madeValid_keeps)) blockDone_keeps

theorem continueBlock_keeps {s : State} {d : Nat} :
    Keeps [.log, .miller, .weaver, .subs, .lastEvents, .decoded] [.MILLER_EVT, .MILLER_DECd_STAT, .MILLER_DECd_LINE,
    .MILLER_DECd_ERRCNT, .MILLER_DECd_ERRLINE, .MILLER_DECd_BLOCKS, .HAM_EVT, .FAULT_EVT, .FAULT_LOG_WR,
    .FAULT_LOG_LOST] s (State.continueBlock s d) := by
  unfold State.continueBlock
  have h0 : Keeps [.log, .miller, .weaver, .subs, .lastEvents, .decoded] [.MILLER_EVT, .MILLER_DECd_STAT,
      .MILLER_DECd_LINE, .MILLER_DECd_ERRCNT, .MILLER_DECd_ERRLINE, .MILLER_DECd_BLOCKS, .HAM_EVT, .FAULT_EVT,
      .FAULT_LOG_WR, .FAULT_LOG_LOST] s s := keeps_refl
  extract_lets -useContext +onlyGivenNames x1
  refine keeps_ite ?_ ?_
  · exact h0
  · extract_lets -useContext +onlyGivenNames x3
    split
    · extract_lets -useContext +onlyGivenNames x5 x7
      have h6 : As h0 x5 := keeps_step h0 setDec_keeps
      clear_value x5
      refine keeps_ite ?_ ?_
      · exact keeps_step h6 finishBlock_keeps
      · refine keeps_ite ?_ ?_
        · exact keeps_step h6 setDecState_keeps
        · exact h6

theorem finishRecompute_keeps {s : State} {d : Nat} {j : RecompJob} {block : List Byte} {parity : Bool} :
    Keeps [.log, .miller, .weaver, .subs, .lastEvents, .decoded] [.MILLER_EVT, .MILLER_DECd_LINE,
    .MILLER_DECd_ERRCNT, .MILLER_DECd_ERRLINE, .MILLER_DECd_BLOCKS, .HAM_STAT, .HAM_EVT, .FAULT_EVT, .FAULT_LOG_WR,
    .FAULT_LOG_LOST] s (State.finishRecompute s d j block parity) := by
  unfold State.finishRecompute
  have h0 : Keeps [.log, .miller, .weaver, .subs, .lastEvents, .decoded] [.MILLER_EVT, .MILLER_DECd_LINE,
      .MILLER_DECd_ERRCNT, .MILLER_DECd_ERRLINE, .MILLER_DECd_BLOCKS, .HAM_STAT, .HAM_EVT, .FAULT_EVT, .FAULT_LOG_WR,
      .FAULT_LOG_LOST] s s := keeps_refl
  extract_lets -useContext +onlyGivenNames x1 x3 x5 x9 x13 x17
  have h6 : ∀ y7, As h0 y7 → As h0 (x5 y7) := fun y7 h8 => (keeps_step h8 setDec_keeps)
  clear_value x5
  have h10 : ∀ y11, As h0 y11 → As h0 (x9 y11) := fun y11 h12 => (keeps_step h12 setHam_keeps)
  clear_value x9
  have h14 : ∀ y15, As h0 y15 → As h0 (x13 y15) := fun y15 h16 => (keeps_step h16 setHam_keeps)
  clear_value x13
  refine keeps_ite ?_ ?_
  · exact h14 _ (h6 _ (keeps_step h0 decError_keeps))
  · split
    · exact h14 _ (h6 _ (keeps_step h0 decError_keeps))
    · split
      · exact h0
      · rename_i t19 e20
        have h21 := keeps_step h0 (storeLines_keeps _ e20)
        extract_lets -useContext +onlyGivenNames x22
        have h23 : As h0 x22 := h10 _ (h6 _ (keeps_step h21 madeValid_keeps))
        clear_value x22
        refine keeps_ite ?_ ?_
        · exact setBit_keeps h23 (covers .HAM_STAT ⟨_, rfl⟩)
        · exact h23

theorem beginBlock_keeps {s : State} {d : Nat} :
    Keeps [.log, .miller, .weaver, .subs, .lastEvents] [.MILLER_EVT, .MILLER_DECd_STAT, .MILLER_DECd_ERRCNT,
    .MILLER_DECd_ERRLINE, .MILLER_DECd_HUNT, .HAM_EVT, .FAULT_EVT, .FAULT_LOG_WR, .FAULT_LOG_LOST] s
    (State.beginBlock s d) := by
  unfold State.beginBlock
  have h0 : Keeps [.log, .miller, .weaver, .subs, .lastEvents] [.MILLER_EVT, .MILLER_DECd_STAT, .MILLER_DECd_ERRCNT,
      .MILLER_DECd_ERRLINE, .MILLER_DECd_HUNT, .HAM_EVT, .FAULT_EVT, .FAULT_LOG_WR, .FAULT_LOG_LOST] s s := keeps_refl
  extract_lets -useContext +onlyGivenNames x1 x3 x5
  refine keeps_ite ?_ ?_
  · exact keeps_step h0 setDecState_keeps
  · refine keeps_ite ?_ ?_
    · extract_lets -useContext +onlyGivenNames x7 x9
      have h8 : As h0 x7 := keeps_step h0 setDec_keeps
      clear_value x7
      have h10 : As h0 x9 := count_keeps h8 (covers .MILLER_DECd_HUNT ⟨_, rfl⟩)
      clear_value x9
      exact keeps_step (keeps_step h10 decError_keeps) setDecState_keeps
    · refine keeps_ite ?_ ?_
      · exact h0
      · extract_lets -useContext +onlyGivenNames x11 x13 x15 x17
        have h14 : As h0 x13 := keeps_ite (keeps_step (keeps_step (keeps_step h0 decError_keeps) endDecPage_keeps)
            servePage_keeps) h0
        clear_value x13
        have h18 : As h0 x17 := keeps_step h14 setDec_keeps
        clear_value x17
        exact keeps_step (setFld_keeps h18 (covers .MILLER_DECd_STAT ⟨_, rfl⟩)) setDecState_keeps

theorem execDecoderBlock_keeps {d : Fin 8} {parity : Bool} {s : State} :
    ∃ t, execDecoderBlock d parity s = .next t ∧ Keeps [.log, .miller, .weaver, .subs, .lastEvents, .decoded]
    [.MILLER_EVT, .MILLER_DECd_STAT, .MILLER_DECd_LINE, .MILLER_DECd_ERRCNT, .MILLER_DECd_ERRLINE,
    .MILLER_DECd_BLOCKS, .MILLER_DECd_HUNT, .HAM_STAT, .HAM_EVT, .FAULT_EVT, .FAULT_LOG_WR, .FAULT_LOG_LOST] s t := by
  unfold execDecoderBlock
  have h0 : Keeps [.log, .miller, .weaver, .subs, .lastEvents, .decoded] [.MILLER_EVT, .MILLER_DECd_STAT,
      .MILLER_DECd_LINE, .MILLER_DECd_ERRCNT, .MILLER_DECd_ERRLINE, .MILLER_DECd_BLOCKS, .MILLER_DECd_HUNT,
      .HAM_STAT, .HAM_EVT, .FAULT_EVT, .FAULT_LOG_WR, .FAULT_LOG_LOST] s s := keeps_refl
  exact ⟨_, rfl, (keeps_ite h0 (keeps_ite (keeps_step (keeps_step h0 noteParity_keeps) continueBlock_keeps) (by
        split
        · exact keeps_step h0 finishRecompute_keeps
        · refine keeps_ite ?_ ?_
          · exact h0
          · extract_lets -useContext +onlyGivenNames x1
            have h2 : As h0 x1 := keeps_step h0 servePage_keeps
            clear_value x1
            refine keeps_ite ?_ ?_
            · exact keeps_step (keeps_step (keeps_step h2 beginBlock_keeps) noteParity_keeps) continueBlock_keeps
            · exact h2)))⟩

end Sys2Proof.Laws
end

