-- ==== Sys2Proof/Laws/KeepsWeaver.lean ====
section
/-! SUPPORT. What each operation of Machine/Weaver.lean may change (`Keeps`): the parts of the state and the rows of registers. -/

set_option Elab.async false

namespace Sys2Proof.Laws

open Sys2Proof.Machine

theorem slot_bound {s : State} {k l : Nat} : ∃ i, i < 761 ∧ s.slotAddr k l = lineBase k + 0xAD000 + 3200 * i :=
  ⟨_, by
    have h (d : Nat) : l % max 1 (min 761 d) < 761 :=
      Nat.lt_of_lt_of_le (Nat.mod_lt _ (by omega)) (by omega)
    exact h _, rfl⟩

theorem slots_in {s u : State} {k l : Nat} {b : List Byte} (h : b.length ≤ 3200) :
    ∀ x, u.slotAddr k l ≤ x → x < u.slotAddr k l + b.length → Part.slots.stores [] s x := fun x h1 h2 => by
  obtain ⟨i, hi, e⟩ := slot_bound (s := u) (k := k) (l := l)
  exact ⟨k, by omega, by omega⟩

theorem slots_valid_in {s u : State} {k l : Nat} : Part.slots.stores [] s (u.slotAddr k l + 3172) := by
  obtain ⟨i, hi, e⟩ := slot_bound (s := u) (k := k) (l := l)
  exact ⟨k, by omega, by omega⟩

theorem weaverCounts_keeps {s : State} {k : Nat} {twin : Nat} {partner : Nat} {boost : Nat} {lost : Nat} {clamp :
    Nat} :
    Keeps [] [.WEAVER_EVT, .WEAVER_CNT_TWIN, .WEAVER_CNT_PARTNER, .WEAVER_CNT_BOOST, .WEAVER_CNT_LOST,
    .WEAVER_CNT_CLAMP] s (State.weaverCounts s k twin partner boost lost clamp) := by
  unfold State.weaverCounts
  have h0 : Keeps [] [.WEAVER_EVT, .WEAVER_CNT_TWIN, .WEAVER_CNT_PARTNER, .WEAVER_CNT_BOOST, .WEAVER_CNT_LOST,
      .WEAVER_CNT_CLAMP] s s := keeps_refl
  extract_lets -useContext +onlyGivenNames x1 x3 x5 x7 x9 x11
  have h2 : As h0 x1 := count_keeps h0 (covers .WEAVER_CNT_TWIN ⟨_, rfl⟩)
  clear_value x1
  have h4 : As h0 x3 := count_keeps h2 (covers .WEAVER_CNT_PARTNER ⟨_, rfl⟩)
  clear_value x3
  have h6 : As h0 x5 := count_keeps h4 (covers .WEAVER_CNT_BOOST ⟨_, rfl⟩)
  clear_value x5
  have h8 : As h0 x7 := count_keeps h6 (covers .WEAVER_CNT_LOST ⟨_, rfl⟩)
  clear_value x7
  have h10 : As h0 x9 := count_keeps h8 (covers .WEAVER_CNT_CLAMP ⟨_, rfl⟩)
  clear_value x9
  have h12 : As h0 x11 := keeps_ite (setBit_keeps h10 (covers .WEAVER_EVT ⟨_, rfl⟩)) h10
  clear_value x11
  refine keeps_ite ?_ ?_
  · exact setBit_keeps h12 (covers .WEAVER_EVT ⟨_, rfl⟩)
  · exact h12

theorem overlapWrite_keeps {s : State} {a1 : Requester} {v : Word} :
    Keeps [.resp, .log, .subs, .lastEvents] [.WEAVER_OVERLAP, .FAULT_EVT, .FAULT_LOG_WR, .FAULT_LOG_LOST] s
    (State.overlapWrite s a1 v) := by
  unfold State.overlapWrite
  have h0 : Keeps [.resp, .log, .subs, .lastEvents] [.WEAVER_OVERLAP, .FAULT_EVT, .FAULT_LOG_WR, .FAULT_LOG_LOST] s s
      := keeps_refl
  refine keeps_ite ?_ ?_
  · exact keeps_step h0 refuse_keeps
  · refine keeps_ite ?_ ?_
    · exact keeps_step h0 refuse_keeps
    · exact keeps_step (keeps_foldl h0 (fun _ _ h2 => (writeByCodes_keeps h2 (covers .WEAVER_OVERLAP ⟨_, rfl⟩))))
          written_keeps

theorem readmitNozzle_keeps {s : State} {g : Nat} :
    Keeps [.log, .weaver, .subs, .lastEvents, .nozRet] [.FAULT_EVT, .FAULT_LOG_WR, .FAULT_LOG_LOST] s
    (State.readmitNozzle s g) := by
  unfold State.readmitNozzle
  have h0 : Keeps [.log, .weaver, .subs, .lastEvents, .nozRet] [.FAULT_EVT, .FAULT_LOG_WR, .FAULT_LOG_LOST] s s :=
      keeps_refl
  extract_lets -useContext +onlyGivenNames x1 x3 x5 x7
  have h4 : As h0 x3 := keeps_step h0 (setByte_keeps .nozRet ⟨_, rfl⟩)
  clear_value x3
  have h8 : As h0 x7 := keeps_weaver h4 _
  exact keeps_step h8 logFault_keeps

theorem lostFromDirectory_keeps {s : State} {k : Nat} {ser : Nat} {y : Nat} :
    Keeps [.log, .weaver, .subs, .lastEvents] [.FAULT_EVT, .FAULT_LOG_WR, .FAULT_LOG_LOST] s (State.lostFromDirectory
    s k ser y) := by
  unfold State.lostFromDirectory
  have h0 : Keeps [.log, .weaver, .subs, .lastEvents] [.FAULT_EVT, .FAULT_LOG_WR, .FAULT_LOG_LOST] s s := keeps_refl
  refine keeps_ite ?_ ?_
  · exact h0
  · extract_lets -useContext +onlyGivenNames x1
    exact keeps_step (keeps_step h0 setHam_keeps) logFault_keeps

theorem execOverlapWrite_keeps {a1 : Requester} {a2 : Fin 4} {v : Word} {s : State} :
    ∃ t, execOverlapWrite a1 a2 v s = .next t ∧ Keeps [.resp, .log, .subs, .lastEvents] [.WEAVER_OVERLAP, .FAULT_EVT,
    .FAULT_LOG_WR, .FAULT_LOG_LOST] s t := by
  unfold execOverlapWrite
  have h0 : Keeps [.resp, .log, .subs, .lastEvents] [.WEAVER_OVERLAP, .FAULT_EVT, .FAULT_LOG_WR, .FAULT_LOG_LOST] s s
      := keeps_refl
  exact ⟨_, rfl, (keeps_step h0 overlapWrite_keeps)⟩

theorem recomputeLine_keeps {s : State} {k : Nat} {l : Nat} {ser : Nat} {y : Nat} :
    Keeps [.log, .weaver, .subs, .lastEvents] [.FAULT_EVT, .FAULT_LOG_WR, .FAULT_LOG_LOST] s (State.recomputeLine s k
    l ser y) := by
  unfold State.recomputeLine
  have h0 : Keeps [.log, .weaver, .subs, .lastEvents] [.FAULT_EVT, .FAULT_LOG_WR, .FAULT_LOG_LOST] s s := keeps_refl
  split
  · exact keeps_step h0 wantRecompute_keeps
  · exact keeps_step h0 lostFromDirectory_keeps

theorem retireNozzle_keeps {s : State} {g : Nat} {src : RetireSource} :
    Keeps [.log, .weaver, .subs, .lastEvents, .nozRet] [.FAULT_EVT, .FAULT_LOG_WR, .FAULT_LOG_LOST] s
    (State.retireNozzle s g src) := by
  unfold State.retireNozzle
  have h0 : Keeps [.log, .weaver, .subs, .lastEvents, .nozRet] [.FAULT_EVT, .FAULT_LOG_WR, .FAULT_LOG_LOST] s s :=
      keeps_refl
  extract_lets -useContext +onlyGivenNames x1 x3 x5 x7
  have h4 : As h0 x3 := keeps_step h0 (setByte_keeps .nozRet ⟨_, rfl⟩)
  clear_value x3
  have h8 : As h0 x7 := keeps_weaver h4 _
  exact keeps_step h8 logFault_keeps

theorem badNozzles_keeps {s : State} {bad : List Nat} :
    Keeps [.log, .weaver, .subs, .lastEvents, .nozRet] [.FAULT_EVT, .FAULT_LOG_WR, .FAULT_LOG_LOST] s
    (State.badNozzles s bad) := by
  unfold State.badNozzles
  have h0 : Keeps [.log, .weaver, .subs, .lastEvents, .nozRet] [.FAULT_EVT, .FAULT_LOG_WR, .FAULT_LOG_LOST] s s :=
      keeps_refl
  exact keeps_foldl h0 (fun _ _ h1 => (keeps_ite (keeps_step h1 retireNozzle_keeps) (by
        extract_lets -useContext +onlyGivenNames x2 x4
        have h5 : As h0 x4 := keeps_weaver h1 _
        exact keeps_step h5 logFault_keeps)))

theorem execNozzleReadmitEffect_keeps {s : State} :
    ∃ t, execNozzleReadmitEffect s = .next t ∧ Keeps [.log, .weaver, .subs, .lastEvents, .nozRet] [.FAULT_EVT,
    .FAULT_LOG_WR, .FAULT_LOG_LOST] s t := by
  unfold execNozzleReadmitEffect
  have h0 : Keeps [.log, .weaver, .subs, .lastEvents, .nozRet] [.FAULT_EVT, .FAULT_LOG_WR, .FAULT_LOG_LOST] s s :=
      keeps_refl
  exact ⟨_, rfl, (by
        split
        · exact keeps_step h0 readmitNozzle_keeps
        · exact h0)⟩

theorem parityFault_keeps {s : State} {k : Nat} {cause : Nat} {l : Nat} :
    Keeps [.log, .weaver, .subs, .lastEvents, .slots] [.HAM_EVT, .HAM_CNT_PARITY, .FAULT_EVT, .FAULT_LOG_WR,
    .FAULT_LOG_LOST] s (State.parityFault s k cause l) := by
  unfold State.parityFault
  have h0 : Keeps [.log, .weaver, .subs, .lastEvents, .slots] [.HAM_EVT, .HAM_CNT_PARITY, .FAULT_EVT, .FAULT_LOG_WR,
      .FAULT_LOG_LOST] s s := keeps_refl
  extract_lets -useContext +onlyGivenNames x1 x3 x5 x7 x9 x11
  have h2 : As h0 x1 := keeps_step (count_keeps h0 (covers .HAM_CNT_PARITY ⟨_, rfl⟩)) hamletFault_keeps
  clear_value x1
  have h4 : As h0 x3 := keeps_step h2 (setByte_keeps .slots slots_valid_in)
  clear_value x3
  have h8 : As h0 x7 := keeps_step h4 setHam_keeps
  clear_value x7
  have h12 : As h0 x11 := keeps_foldl h8 (fun _ _ h13 => (keeps_step h13 recomputeLine_keeps))
  clear_value x11
  refine keeps_ite ?_ ?_
  · exact h12
  · exact keeps_foldl h12 (fun _ _ h14 => (keeps_step h14 recomputeLine_keeps))

theorem execNozzleRetirement_keeps {g : Fin 101376} {src : RetireSource} {s : State} :
    ∃ t, execNozzleRetirement g src s = .next t ∧ Keeps [.log, .weaver, .subs, .lastEvents, .nozRet] [.FAULT_EVT,
    .FAULT_LOG_WR, .FAULT_LOG_LOST] s t := by
  unfold execNozzleRetirement
  have h0 : Keeps [.log, .weaver, .subs, .lastEvents, .nozRet] [.FAULT_EVT, .FAULT_LOG_WR, .FAULT_LOG_LOST] s s :=
      keeps_refl
  exact ⟨_, rfl, (keeps_step h0 retireNozzle_keeps)⟩

end Sys2Proof.Laws
end

