-- ==== Sys2Proof/Laws/KeepsHeadChannel.lean ====
section
/-! SUPPORT. What each operation of Machine/HeadChannel.lean may change (`Keeps`): the parts of the state and the rows of registers. -/

set_option Elab.async false

namespace Sys2Proof.Laws

open Sys2Proof.Machine

theorem moveFire_keeps {w : List Part} {q : List Reg} {s0 s : State} {h r l t : Nat} {rest : List (Nat × Nat)}
    {cnt bit : Nat} {f e : Field} (k : Keeps w q s0 s) (hc : Covers q cnt)
    (hw : within [.hcs, .log, .subs, .lastEvents] [.HC_EVT, .FAULT_EVT, .FAULT_LOG_WR, .FAULT_LOG_LOST] w q = true := by
      decide +kernel) : Keeps w q s0 (s.moveFire h r l t rest cnt bit f e) := by
  unfold State.moveFire
  have hr := hw
  rw [within, Bool.and_eq_true] at hr
  exact keeps_step
    (setBit_keeps (count_keeps (keeps_step k setRow_keeps (within_trans (by decide) hw)) hc)
      (covers .HC_EVT ⟨_, rfl⟩ (reg_sub_trans (by decide) hr.2)))
    logFault_keeps (within_trans (by decide) hw)

theorem scan_in {s : State} {b d n h : Nat} {l : List Byte} (hn : n ∈ List.range (min b (761 - d))) (hl : l.length ≤ 528) :
    ∀ x, lineBase 3 + 0xAD000 + 3200 * (d + n) + 528 * (h % 6) ≤ x →
      x < lineBase 3 + 0xAD000 + 3200 * (d + n) + 528 * (h % 6) + l.length → Part.slots.stores [] s x := fun x h1 h2 => by
  have := List.mem_range.mp hn
  have := Nat.mod_lt h (show 0 < 6 by decide)
  exact ⟨3, by omega, by omega⟩

theorem putScan_keeps {s : State} {a1 : Nat} {v : List Byte} :
    Keeps [.hcs, .slots] [] s (State.putScan s a1 v) := by
  unfold State.putScan
  have h0 : Keeps [.hcs, .slots] [] s s := keeps_refl
  extract_lets -useContext +onlyGivenNames x2 x4
  have h5 : As h0 x4 := keeps_foldl_mem h0 (fun _ _ hx h6 => keeps_step h6 (setBytes_keeps .slots (scan_in hx
      (List.length_take_le _ _))))
  clear_value x4
  exact keeps_step h5 setHc_keeps

theorem absentNozzles_keeps {s : State} {a1 : Nat} :
    Keeps [.masks, .nozRet] [] s (State.absentNozzles s a1) := by
  unfold State.absentNozzles
  have h0 : Keeps [.masks, .nozRet] [] s s := keeps_refl
  extract_lets -useContext +onlyGivenNames x2 x4 x6
  have h7 : As h0 x6 := keeps_foldl h0 (fun _ _ h8 => (by
        extract_lets -useContext +onlyGivenNames x9
        exact keeps_step h8 (setByte_keeps .nozRet ⟨_, rfl⟩)))
  clear_value x6
  refine keeps_ite h7 (keeps_foldl h7 (fun _ k h11 => keeps_foldl_mem h11 (fun _ b hb h12 => ?_)))
  have hb1 : b ≤ 1 := by simp only [List.mem_cons, List.not_mem_nil, or_false] at hb; omega
  have hj : laneSlot k a1 < 8 := Nat.mod_lt _ (by decide)
  extract_lets -useContext +onlyGivenNames x13 x15 x17 x19
  have h18 : As h0 x17 := keeps_step h12 (setBytes_keeps .masks fun x h1 h2 => by
    rw [List.length_replicate] at h2
    exact ⟨k, by omega, by omega⟩)
  clear_value x17
  have h20 : As h0 x19 := keeps_step h18 (setBytes_keeps .masks fun x h1 h2 => by
    rw [List.length_append, List.length_replicate, List.length_replicate] at h2
    exact ⟨k, by omega, by omega⟩)
  clear_value x19
  exact keeps_step h20 (setByte_keeps .masks ⟨k, by omega, by omega⟩)

theorem tableAgain_keeps {s : State} {a1 : Nat} {b : Nat} :
    Keeps [.hcs] [] s (State.tableAgain s a1 b) := by
  unfold State.tableAgain
  have h0 : Keeps [.hcs] [] s s := keeps_refl
  extract_lets -useContext +onlyGivenNames x2
  exact keeps_step h0 setHc_keeps

theorem scanImageDue_keeps {s : State} {a1 : Nat} {v : List Byte} :
    Keeps [.hcs, .slots] [] s (State.scanImageDue s a1 v) := by
  unfold State.scanImageDue
  have h0 : Keeps [.hcs, .slots] [] s s := keeps_refl
  extract_lets -useContext +onlyGivenNames x2 x4
  refine keeps_ite ?_ ?_
  · exact keeps_step h0 setHc_keeps
  · exact keeps_step h0 putScan_keeps

theorem uncount_keeps {s : State} {a1 : Nat} {f : Frame} :
    Keeps [.hcs] [] s (State.uncount s a1 f) := by
  unfold State.uncount
  have h0 : Keeps [.hcs] [] s s := keeps_refl
  refine keeps_ite ?_ ?_
  · exact h0
  · exact keeps_step h0 setHc_keeps

theorem forget_keeps {s : State} {a1 : Nat} {f : Frame} :
    Keeps [.hcs] [] s (State.forget s a1 f) := by
  unfold State.forget
  have h0 : Keeps [.hcs] [] s s := keeps_refl
  exact keeps_step h0 setHc_keeps

theorem cutSlot_keeps {s : State} {a1 : Nat} :
    Keeps [.cal] [.CAL_EVT, .CAL_CNT_CUT] s (State.cutSlot s a1) := by
  unfold State.cutSlot
  have h0 : Keeps [.cal] [.CAL_EVT, .CAL_CNT_CUT] s s := keeps_refl
  split
  · refine keeps_ite ?_ ?_
    · extract_lets -useContext +onlyGivenNames x2 x4
      have h5 : As h0 x4 := keeps_cal h0 _
      exact setBit_keeps (count_keeps h5 (covers .CAL_CNT_CUT rfl)) (covers .CAL_EVT rfl)
    · exact h0
  · exact h0

theorem zoneShown_keeps {s : State} {a1 : Nat} :
    Keeps [] [.HC_STAT] s (State.zoneShown s a1) := by
  unfold State.zoneShown
  have h0 : Keeps [] [.HC_STAT] s s := keeps_refl
  extract_lets -useContext +onlyGivenNames x2 x4 x6
  have h7 : As h0 x6 := setFld_keeps h0 (covers .HC_STAT ⟨_, rfl⟩)
  clear_value x6
  exact setBit_keeps h7 (covers .HC_STAT ⟨_, rfl⟩)

theorem execTableFrameSend_keeps {a1 : Fin 24} {s : State} :
    ∃ t, execTableFrameSend a1 s = .next t ∧ Keeps [.hcs] [] s t := by
  unfold execTableFrameSend
  have h0 : Keeps [.hcs] [] s s := keeps_refl
  exact ⟨_, rfl, (by
        split
        · exact h0
        · extract_lets -useContext +onlyGivenNames x2
          refine keeps_ite ?_ ?_
          · exact h0
          · exact keeps_step h0 setHc_keeps)⟩

theorem execTempStaleTimeout_keeps {a1 : Fin 24} {s : State} :
    ∃ t, execTempStaleTimeout a1 s = .next t ∧ Keeps [] [.HC_STAT, .HC_EVT] s t := by
  unfold execTempStaleTimeout
  have h0 : Keeps [] [.HC_STAT, .HC_EVT] s s := keeps_refl
  exact ⟨_, rfl, (by
        extract_lets -useContext +onlyGivenNames x2
        refine keeps_ite ?_ ?_
        · exact h0
        · extract_lets -useContext +onlyGivenNames x4
          have h5 : As h0 x4 := setBit_keeps (setBit_keeps h0 (covers .HC_STAT ⟨_, rfl⟩)) (covers .HC_EVT ⟨_, rfl⟩)
          clear_value x4
          exact keeps_step h5 zoneShown_keeps)⟩

theorem noteEvent_keeps {s : State} {a1 : Nat} {row : Nat} {l : Nat} {cols : List Nat} :
    Keeps [.hcs] [] s (State.noteEvent s a1 row l cols) := by
  unfold State.noteEvent
  have h0 : Keeps [.hcs] [] s s := keeps_refl
  extract_lets -useContext +onlyGivenNames x2
  exact keeps_step h0 setHc_keeps

theorem keepwetRow_keeps {s : State} {a1 : Nat} {a2 : Nat} :
    Keeps [.nozWet] [] s (State.keepwetRow s a1 a2) := by
  unfold State.keepwetRow
  have h0 : Keeps [.nozWet] [] s s := keeps_refl
  exact keeps_foldl h0 (fun _ _ h3 => (by
        extract_lets -useContext +onlyGivenNames x4
        exact keeps_step h3 (setNum_keeps .nozWet nozWet_in)))

theorem landScans_keeps {s : State} {l : Nat} :
    Keeps [.hcs, .slots] [] s (State.landScans s l) := by
  unfold State.landScans
  have h0 : Keeps [.hcs, .slots] [] s s := keeps_refl
  exact keeps_foldl h0 (fun _ _ h1 => (by
        extract_lets -useContext +onlyGivenNames x2 x4
        refine keeps_ite ?_ ?_
        · exact h1
        · exact keeps_foldl (keeps_step h1 setHc_keeps) (fun _ _ h6 => (keeps_step h6 scanImageDue_keeps))))

theorem holdFrame_keeps {s : State} {a1 : Nat} {f : Frame} :
    Keeps [.hcs] [] s (State.holdFrame s a1 f) := by
  unfold State.holdFrame
  have h0 : Keeps [.hcs] [] s s := keeps_refl
  extract_lets -useContext +onlyGivenNames x2
  have h3 : As h0 x2 := keeps_step h0 noteEvent_keeps
  clear_value x2
  exact keeps_step h3 setHc_keeps

theorem passCounts_keeps {s : State} {a1 : Nat} {l : Nat} {cols : List RowCol} :
    Keeps [] [.WEAVER_EVT, .WEAVER_CNT_TWIN, .WEAVER_CNT_PARTNER, .WEAVER_CNT_BOOST, .WEAVER_CNT_LOST,
    .WEAVER_CNT_CLAMP] s (State.passCounts s a1 l cols) := by
  unfold State.passCounts
  have h0 : Keeps [] [.WEAVER_EVT, .WEAVER_CNT_TWIN, .WEAVER_CNT_PARTNER, .WEAVER_CNT_BOOST, .WEAVER_CNT_LOST,
      .WEAVER_CNT_CLAMP] s s := keeps_refl
  extract_lets -useContext +onlyGivenNames x2 x4
  have h5 : As h0 x4 := keeps_step h0 weaverCounts_keeps
  clear_value x4
  refine keeps_ite ?_ ?_
  · exact setBit_keeps h5 (covers .WEAVER_EVT ⟨_, rfl⟩)
  · exact h5

theorem refreshLimit_keeps {s : State} {a1 : Nat} :
    Keeps [] [.BR_FMAX, .BR_HLIMIT] s (State.refreshLimit s a1) := by
  unfold State.refreshLimit
  have h0 : Keeps [] [.BR_FMAX, .BR_HLIMIT] s s := keeps_refl
  split
  · extract_lets -useContext +onlyGivenNames x2 x4
    have h5 : As h0 x4 := setFld_keeps h0 (covers .BR_HLIMIT ⟨_, rfl⟩)
    clear_value x4
    exact keeps_step (setFld_keeps (setFld_keeps h5 (covers .BR_HLIMIT ⟨_, rfl⟩)) (covers .BR_HLIMIT ⟨_, rfl⟩))
        refreshFmax_keeps

theorem refreshLimits_keeps {s : State} :
    Keeps [] [.BR_FMAX, .BR_HLIMIT] s (State.refreshLimits s) := by
  unfold State.refreshLimits
  have h0 : Keeps [] [.BR_FMAX, .BR_HLIMIT] s s := keeps_refl
  exact keeps_foldl h0 (fun _ _ h1 => (keeps_step h1 refreshLimit_keeps))

theorem fireRow_keeps {s : State} {a1 : Nat} {a2 : Nat} {a3 : Nat} {f : Frame} :
    Keeps [.hcs, .cal, .nozWet] [.HC_CNT_SPIT, .CAL_EVT, .CAL_CNT_CUT] s (State.fireRow s a1 a2 a3 f) := by
  unfold State.fireRow
  have h0 : Keeps [.hcs, .cal, .nozWet] [.HC_CNT_SPIT, .CAL_EVT, .CAL_CNT_CUT] s s := keeps_refl
  extract_lets -useContext +onlyGivenNames x4 x6 x8
  have h5 : As h0 x4 := keeps_step h0 cutSlot_keeps
  clear_value x4
  have h9 : As h0 x8 := keeps_step h5 setRow_keeps
  clear_value x8
  refine keeps_ite ?_ ?_
  · exact h9
  · extract_lets -useContext +onlyGivenNames x10
    have h11 : As h0 x10 := keeps_foldl h9 (fun _ _ h12 => (keeps_step h12 (setNum_keeps .nozWet nozWet_in)))
    clear_value x10
    exact count_keeps h11 (covers .HC_CNT_SPIT ⟨_, rfl⟩)

theorem tookLine_keeps {s : State} {a1 : Nat} {a2 : Nat} :
    Keeps [.pend, .landed, .hcs] [.headSettings] s (State.tookLine s a1 a2) := by
  unfold State.tookLine
  have h0 : Keeps [.pend, .landed, .hcs] [.headSettings] s s := keeps_refl
  extract_lets -useContext +onlyGivenNames x3 x5 x7 x9
  have h10 : As h0 x9 := keeps_step h0 setRow_keeps
  clear_value x9
  refine keeps_ite ?_ ?_
  · exact settlePend_keeps h10 (fun _ a b => covers .headSettings ⟨_, a, b⟩)
  · extract_lets -useContext +onlyGivenNames x11 x13
    exact settlePend_keeps h10 (fun _ a b => covers .headSettings ⟨_, a, b⟩)

theorem reformLine_keeps {s : State} {a1 : Nat} {n : Nat} :
    Keeps [.hcs] [] s (State.reformLine s a1 n) := by
  unfold State.reformLine
  have h0 : Keeps [.hcs] [] s s := keeps_refl
  exact keeps_foldl h0 (fun _ _ h2 => (by
        extract_lets -useContext +onlyGivenNames x3 x5
        split
        · exact h2
        · extract_lets -useContext +onlyGivenNames x7 x9 x11
          have h8 : As h0 x7 := keeps_step h2 forget_keeps
          clear_value x7
          have h12 : As h0 x11 := keeps_step h8 setHc_keeps
          clear_value x11
          exact keeps_step h12 setRow_keeps))

theorem execMaskBankFlip_keeps {k : Fin 4} {s : State} :
    ∃ t, execMaskBankFlip k s = .next t ∧ Keeps [] [.WEAVER_MASKSEL, .WEAVER_MASKLINE, .BR_FMAX, .BR_HLIMIT] s t := by
  unfold execMaskBankFlip
  have h0 : Keeps [] [.WEAVER_MASKSEL, .WEAVER_MASKLINE, .BR_FMAX, .BR_HLIMIT] s s := keeps_refl
  exact ⟨_, rfl, (by
        extract_lets -useContext +onlyGivenNames x1
        refine keeps_ite ?_ ?_
        · extract_lets -useContext +onlyGivenNames x3
          have h4 : As h0 x3 := setFld_keeps h0 (covers .WEAVER_MASKSEL ⟨_, rfl⟩)
          clear_value x3
          exact keeps_step (keeps_setReg h4 (covers .WEAVER_MASKLINE ⟨_, rfl⟩)) refreshLimits_keeps
        · exact h0)⟩

theorem execScanKeepwetTick_keeps {i : Fin 2} {s : State} :
    ∃ t, execScanKeepwetTick i s = .next t ∧ Keeps [.nozWet] [] s t := by
  unfold execScanKeepwetTick
  have h0 : Keeps [.nozWet] [] s s := keeps_refl
  exact ⟨_, rfl, (by
        extract_lets -useContext +onlyGivenNames x1
        refine keeps_ite ?_ ?_
        · exact keeps_foldl h0 (fun _ _ h3 => (keeps_step h3 keepwetRow_keeps))
        · exact h0)⟩

theorem combLineSet_keeps {s : State} {a1 : Nat} {v : Word} :
    Keeps [.hcs] [.HC_STAT, .HC_COMBLINE, .BR_FMAX, .BR_HLIMIT] s (State.combLineSet s a1 v) := by
  unfold State.combLineSet
  have h0 : Keeps [.hcs] [.HC_STAT, .HC_COMBLINE, .BR_FMAX, .BR_HLIMIT] s s := keeps_refl
  extract_lets -useContext +onlyGivenNames x2 x4 x6 x8 x10 x12
  have h3 : As h0 x2 := keeps_setReg h0 (covers .HC_COMBLINE ⟨_, rfl⟩)
  clear_value x2
  have h7 : As h0 x6 := setBit_keeps h3 (covers .HC_STAT ⟨_, rfl⟩)
  clear_value x6
  have h13 : As h0 x12 := keeps_ite (keeps_step h7 setHc_keeps) h7
  clear_value x12
  exact keeps_step h13 refreshLimit_keeps

theorem atShift_keeps {s : State} {a1 : Nat} {f : Frame} :
    Keeps [.hcs] [] s (State.atShift s a1 f).1 := by
  unfold State.atShift
  have h0 : Keeps [.hcs] [] s s := keeps_refl
  refine keeps_ite_fst ?_ ?_
  · exact h0
  · extract_lets -useContext +onlyGivenNames x2 x4
    have h3 : As h0 x2 := keeps_step h0 forget_keeps
    clear_value x2
    exact keeps_step h3 noteEvent_keeps

theorem scanStart_keeps {s : State} {a1 : Nat} {n : Nat} {a2 : Nat} :
    Keeps [.hcs] [] s (State.scanStart s a1 n a2) := by
  unfold State.scanStart
  have h0 : Keeps [.hcs] [] s s := keeps_refl
  extract_lets -useContext +onlyGivenNames x3 x5 x7 x9
  have h6 : As h0 x5 := keeps_step h0 setRow_keeps
  clear_value x5
  have h10 : As h0 x9 := keeps_ite (keeps_step h6 setRow_keeps) h6
  clear_value x9
  exact keeps_step h10 setHc_keeps

theorem execFrameShiftStart_keeps {a1 : Fin 24} {s : State} :
    ∃ t, execFrameShiftStart a1 s = .next t ∧ Keeps [.hcs] [.HC_EVT, .HC_CNT_THINN, .HC_CNT_THINH] s t := by
  unfold execFrameShiftStart
  have h0 : Keeps [.hcs] [.HC_EVT, .HC_CNT_THINN, .HC_CNT_THINH] s s := keeps_refl
  exact ⟨_, rfl, (by
        split
        · exact h0
        · refine keeps_ite ?_ ?_
          · exact h0
          · extract_lets -useContext +onlyGivenNames x2 x4
            have h5 : As h0 x4 := keeps_step h0 setHc_keeps
            clear_value x4
            split
            · rename State => t6
              have h8 : As h0 t6 := keeps_of_1 (by assumption) (keeps_step h5 atShift_keeps)
              extract_lets -useContext +onlyGivenNames x9 x11 x13
              have h10 : As h0 x9 := count_keeps h8 (covers .HC_CNT_THINN ⟨_, rfl⟩)
              clear_value x9
              have h12 : As h0 x11 := count_keeps h10 (covers .HC_CNT_THINH ⟨_, rfl⟩)
              clear_value x11
              have h14 : As h0 x13 := keeps_ite h12 (setBit_keeps h12 (covers .HC_EVT ⟨_, rfl⟩))
              clear_value x13
              exact keeps_step h14 setHc_keeps)⟩

theorem startScanGroup_keeps {s : State} {a1 : Nat} {e : Nat} {a2 : Nat} :
    Keeps [.hcs, .slots] [] s (State.startScanGroup s a1 e a2) := by
  unfold State.startScanGroup
  have h0 : Keeps [.hcs, .slots] [] s s := keeps_refl
  extract_lets -useContext +onlyGivenNames x3 x5 x7 x9 x11
  have h6 : As h0 x5 := by
    unfold x5
    split
    · refine keeps_ite ?_ ?_
      · exact keeps_step (keeps_step h0 putScan_keeps) reformLine_keeps
      · exact h0
    · exact h0
  clear_value x5
  have h12 : As h0 x11 := keeps_step h6 setHc_keeps
  clear_value x11
  exact keeps_step h12 scanStart_keeps

theorem execWarmupComplete_keeps {a1 : Fin 24} {s : State} :
    ∃ t, execWarmupComplete a1 s = .next t ∧ Keeps [.freeCtr, .log, .landed, .cal, .pages, .subs, .lastEvents]
    [.HC_STAT, .HC_EVT, .BR_STAT, .BR_EVT, .BR_FMAX, .BR_SNAPLINE, .FAULT_STAT, .FAULT_EVT, .FAULT_LOG_WR,
    .FAULT_LOG_LOST, .CAL_HCh_NOW, .CAL_HCh_STAT] s t := by
  unfold execWarmupComplete
  have h0 : Keeps [.freeCtr, .log, .landed, .cal, .pages, .subs, .lastEvents] [.HC_STAT, .HC_EVT, .BR_STAT, .BR_EVT,
      .BR_FMAX, .BR_SNAPLINE, .FAULT_STAT, .FAULT_EVT, .FAULT_LOG_WR, .FAULT_LOG_LOST, .CAL_HCh_NOW, .CAL_HCh_STAT] s
      s := keeps_refl
  exact ⟨_, rfl, (by
        split
        · exact h0
        · refine keeps_ite ?_ ?_
          · extract_lets -useContext +onlyGivenNames x2
            have h3 : As h0 x2 := setBit_keeps (keeps_step h0 setHcState_keeps) (covers .HC_EVT ⟨_, rfl⟩)
            clear_value x2
            exact keeps_step h3 logFault_keeps
          · exact h0)⟩

theorem execCombRunEnd_keeps {a1 : Fin 24} {row : Fin 2} {s : State} :
    ∃ t, execCombRunEnd a1 row s = .next t ∧ Keeps [.freeCtr, .landed, .hcs, .cal, .pages, .subs, .lastEvents]
    [.HC_STAT, .BR_STAT, .BR_EVT, .BR_FMAX, .BR_SNAPLINE, .FAULT_STAT, .CAL_HCh_NOW, .CAL_HCh_STAT] s t := by
  unfold execCombRunEnd
  have h0 : Keeps [.freeCtr, .landed, .hcs, .cal, .pages, .subs, .lastEvents] [.HC_STAT, .BR_STAT, .BR_EVT, .BR_FMAX,
      .BR_SNAPLINE, .FAULT_STAT, .CAL_HCh_NOW, .CAL_HCh_STAT] s s := keeps_refl
  exact ⟨_, rfl, (by
        split
        · exact h0
        · refine keeps_ite ?_ ?_
          · exact h0
          · extract_lets -useContext +onlyGivenNames x2 x4
            have h5 : As h0 x4 := keeps_step h0 setRow_keeps
            clear_value x4
            refine keeps_ite ?_ ?_
            · exact keeps_step h5 setHcState_keeps
            · exact h5)⟩

theorem lateEvent_keeps {s : State} {a1 : Nat} {a2 : Nat} {l : Nat} :
    Keeps [.log, .subs, .lastEvents] [.HC_EVT, .HC_CNT_LATE, .FAULT_EVT, .FAULT_LOG_WR, .FAULT_LOG_LOST] s
    (State.lateEvent s a1 a2 l) := by
  unfold State.lateEvent
  have h0 : Keeps [.log, .subs, .lastEvents] [.HC_EVT, .HC_CNT_LATE, .FAULT_EVT, .FAULT_LOG_WR, .FAULT_LOG_LOST] s s
      := keeps_refl
  extract_lets -useContext +onlyGivenNames x3
  have h4 : As h0 x3 := count_keeps (setBit_keeps h0 (covers .HC_EVT ⟨_, rfl⟩)) (covers .HC_CNT_LATE ⟨_, rfl⟩)
  clear_value x3
  exact keeps_step h4 logFault_keeps

theorem sosAccepted_keeps {s : State} {a1 : Nat} :
    Keeps [.hcs, .slots] [.HC_EVT, .HC_SCAN_PTR, .HC_CNT_SOSOVR] s (State.sosAccepted s a1) := by
  unfold State.sosAccepted
  have h0 : Keeps [.hcs, .slots] [.HC_EVT, .HC_SCAN_PTR, .HC_CNT_SOSOVR] s s := keeps_refl
  extract_lets -useContext +onlyGivenNames x2
  refine keeps_ite ?_ ?_
  · exact keeps_step h0 startScanGroup_keeps
  · refine keeps_ite ?_ ?_
    · exact setFld_keeps (keeps_step h0 setHc_keeps) (covers .HC_SCAN_PTR ⟨_, rfl⟩)
    · exact setBit_keeps (count_keeps h0 (covers .HC_CNT_SOSOVR ⟨_, rfl⟩)) (covers .HC_EVT ⟨_, rfl⟩)

theorem abandonFrame_keeps {s : State} {a1 : Nat} {a2 : Nat} :
    Keeps [.log, .hcs, .subs, .lastEvents] [.HC_EVT, .HC_CNT_LATE, .FAULT_EVT, .FAULT_LOG_WR, .FAULT_LOG_LOST] s
    (State.abandonFrame s a1 a2) := by
  unfold State.abandonFrame
  have h0 : Keeps [.log, .hcs, .subs, .lastEvents] [.HC_EVT, .HC_CNT_LATE, .FAULT_EVT, .FAULT_LOG_WR,
      .FAULT_LOG_LOST] s s := keeps_refl
  extract_lets -useContext +onlyGivenNames x3 x5
  split
  · exact h0
  · extract_lets -useContext +onlyGivenNames x7 x9 x11
    have h8 : As h0 x7 := keeps_step h0 uncount_keeps
    clear_value x7
    have h12 : As h0 x11 := keeps_step h8 setHc_keeps
    clear_value x11
    exact keeps_step h12 lateEvent_keeps

theorem execLateFireEvent_keeps {a1 : Fin 24} {row : Fin 2} {s : State} :
    ∃ t, execLateFireEvent a1 row s = .next t ∧ Keeps [.log, .hcs, .subs, .lastEvents] [.HC_EVT, .HC_CNT_LATE,
    .FAULT_EVT, .FAULT_LOG_WR, .FAULT_LOG_LOST] s t := by
  unfold execLateFireEvent
  have h0 : Keeps [.log, .hcs, .subs, .lastEvents] [.HC_EVT, .HC_CNT_LATE, .FAULT_EVT, .FAULT_LOG_WR,
      .FAULT_LOG_LOST] s s := keeps_refl
  exact ⟨_, rfl, (by
        extract_lets -useContext +onlyGivenNames x2
        split
        · refine keeps_ite ?_ ?_
          · exact h0
          · exact keeps_step h0 abandonFrame_keeps
        · exact h0)⟩

theorem scanCfgWrite_keeps {s : State} {a1 : Requester} {a2 : Nat} {v : Word} :
    Keeps [.resp, .log, .subs, .lastEvents] [.HC_STAT, .HC_SCAN_CFG, .FAULT_EVT, .FAULT_LOG_WR, .FAULT_LOG_LOST] s
    (State.scanCfgWrite s a1 a2 v) := by
  unfold State.scanCfgWrite
  have h0 : Keeps [.resp, .log, .subs, .lastEvents] [.HC_STAT, .HC_SCAN_CFG, .FAULT_EVT, .FAULT_LOG_WR,
      .FAULT_LOG_LOST] s s := keeps_refl
  extract_lets -useContext +onlyGivenNames x3 x5 x7 x9
  have h6 : As h0 x5 := writeByCodes_keeps h0 (covers .HC_SCAN_CFG ⟨_, rfl⟩)
  clear_value x5
  refine keeps_ite ?_ ?_
  · exact keeps_step h0 refuse_keeps
  · refine keeps_ite ?_ ?_
    · exact keeps_step (setFld_keeps h0 (covers .HC_STAT ⟨_, rfl⟩)) refuse_keeps
    · exact keeps_step h6 written_keeps

theorem execCombBankFlip_keeps {a1 : Fin 24} {s : State} :
    ∃ t, execCombBankFlip a1 s = .next t ∧ Keeps [.hcs] [.HC_STAT, .HC_COMBSEL, .HC_COMBLINE, .BR_FMAX, .BR_HLIMIT] s
    t := by
  unfold execCombBankFlip
  have h0 : Keeps [.hcs] [.HC_STAT, .HC_COMBSEL, .HC_COMBLINE, .BR_FMAX, .BR_HLIMIT] s s := keeps_refl
  exact ⟨_, rfl, (by
        extract_lets -useContext +onlyGivenNames x2 x4
        refine keeps_ite ?_ ?_
        · extract_lets -useContext +onlyGivenNames x6
          have h7 : As h0 x6 := setFld_keeps h0 (covers .HC_COMBSEL ⟨_, rfl⟩)
          clear_value x6
          exact keeps_step h7 combLineSet_keeps
        · exact h0)⟩

theorem readmitRefused_keeps {s : State} {a1 : Nat} :
    Keeps [.freeCtr, .log, .subs, .lastEvents] [.FAULT_EVT, .FAULT_LOG_WR, .FAULT_LOG_LOST] s (State.readmitRefused s
    a1) := by
  unfold State.readmitRefused
  have h0 : Keeps [.freeCtr, .log, .subs, .lastEvents] [.FAULT_EVT, .FAULT_LOG_WR, .FAULT_LOG_LOST] s s := keeps_refl
  exact keeps_step (keeps_step h0 logFault_keeps) drawn_keeps

theorem hcError_keeps {s : State} {a1 : Nat} :
    Keeps [.freeCtr, .log, .landed, .hcs, .cal, .pages, .subs, .lastEvents] [.HC_STAT, .HC_EVT, .HC_SCAN_PTR,
    .BR_STAT, .BR_EVT, .BR_FMAX, .BR_SNAPLINE, .FAULT_STAT, .FAULT_EVT, .FAULT_LOG_WR, .FAULT_LOG_LOST, .CAL_HCh_NOW,
    .CAL_HCh_STAT] s (State.hcError s a1) := by
  unfold State.hcError
  have h0 : Keeps [.freeCtr, .log, .landed, .hcs, .cal, .pages, .subs, .lastEvents] [.HC_STAT, .HC_EVT, .HC_SCAN_PTR,
      .BR_STAT, .BR_EVT, .BR_FMAX, .BR_SNAPLINE, .FAULT_STAT, .FAULT_EVT, .FAULT_LOG_WR, .FAULT_LOG_LOST,
      .CAL_HCh_NOW, .CAL_HCh_STAT] s s := keeps_refl
  extract_lets -useContext +onlyGivenNames x2 x4 x6 x8
  have h9 : As h0 x8 := keeps_step h0 setHc_keeps
  clear_value x8
  refine keeps_ite ?_ ?_
  · exact keeps_step h9 retireHc_keeps
  · exact h9

theorem execScanArm_keeps {a1 : Requester} {i : Fin 2} {v : Word} {s : State} :
    ∃ t, execScanArm a1 i v s = .next t ∧ Keeps [.resp, .log, .subs, .lastEvents] [.HC_STAT, .HC_SCAN_CFG,
    .FAULT_EVT, .FAULT_LOG_WR, .FAULT_LOG_LOST] s t := by
  unfold execScanArm
  have h0 : Keeps [.resp, .log, .subs, .lastEvents] [.HC_STAT, .HC_SCAN_CFG, .FAULT_EVT, .FAULT_LOG_WR,
      .FAULT_LOG_LOST] s s := keeps_refl
  exact ⟨_, rfl, (keeps_step h0 scanCfgWrite_keeps)⟩

theorem missTake_keeps {s : State} {a1 : Nat} {a2 : Nat} :
    Keeps [.freeCtr, .log, .pend, .landed, .hcs, .pages, .subs, .lastEvents] [.headSettings, .HC_EVT, .HC_CNT_LATE,
    .HAM_EVT, .HAM_CNT_BLANK, .FAULT_EVT, .FAULT_LOG_WR, .FAULT_LOG_LOST] s (State.missTake s a1 a2) := by
  unfold State.missTake
  have h0 : Keeps [.freeCtr, .log, .pend, .landed, .hcs, .pages, .subs, .lastEvents] [.headSettings, .HC_EVT,
      .HC_CNT_LATE, .HAM_EVT, .HAM_CNT_BLANK, .FAULT_EVT, .FAULT_LOG_WR, .FAULT_LOG_LOST] s s := keeps_refl
  extract_lets -useContext +onlyGivenNames x3 x5 x7 x9 x11 x13
  have h14 : As h0 x13 := keeps_step h0 tookLine_keeps
  clear_value x13
  refine keeps_ite ?_ ?_
  · exact h14
  · extract_lets -useContext +onlyGivenNames x15
    have h16 : As h0 x15 := keeps_step (keeps_step h14 noteEvent_keeps) lateEvent_keeps
    clear_value x15
    refine keeps_ite ?_ ?_
    · extract_lets -useContext +onlyGivenNames x17 x19
      have h18 : As h0 x17 := count_keeps h16 (covers .HAM_CNT_BLANK ⟨_, rfl⟩)
      clear_value x17
      have h20 : As h0 x19 := setBit_keeps h18 (covers .HAM_EVT ⟨_, rfl⟩)
      clear_value x19
      refine keeps_ite ?_ ?_
      · exact h20
      · exact keeps_step h20 flagLine_keeps
    · exact h16

theorem hcEnabled_keeps {s : State} {a1 : Nat} :
    Keeps [.freeCtr, .landed, .hcs, .cal, .pages, .subs, .lastEvents, .masks, .slots, .nozRet] [.HC_STAT, .BR_STAT,
    .BR_EVT, .BR_FMAX, .BR_SNAPLINE, .BR_HLIMIT, .FAULT_STAT, .CAL_HCh_NOW, .CAL_HCh_STAT] s (State.hcEnabled s a1)
    := by
  unfold State.hcEnabled
  have h0 : Keeps [.freeCtr, .landed, .hcs, .cal, .pages, .subs, .lastEvents, .masks, .slots, .nozRet] [.HC_STAT,
      .BR_STAT, .BR_EVT, .BR_FMAX, .BR_SNAPLINE, .BR_HLIMIT, .FAULT_STAT, .CAL_HCh_NOW, .CAL_HCh_STAT] s s :=
      keeps_refl
  extract_lets -useContext +onlyGivenNames x2 x4 x6 x8 x10 x12 x14
  have h3 : As h0 x2 := keeps_step (setFld_keeps h0 (covers .HC_STAT ⟨_, rfl⟩)) absentNozzles_keeps
  clear_value x2
  have h5 : As h0 x4 := by
    unfold x4
    split
    · exact keeps_step h3 putScan_keeps
    · exact h3
  clear_value x4
  have h15 : As h0 x14 := keeps_step h5 setHc_keeps
  clear_value x14
  exact keeps_step (keeps_step h15 setHcState_keeps) refreshLimit_keeps

theorem execLatchPulse_keeps {a1 : Fin 24} {s : State} :
    ∃ t, execLatchPulse a1 s = .next t ∧ Keeps [.log, .hcs, .subs, .lastEvents] [.HC_STAT, .HC_EVT, .HC_CNT_LATE,
    .FAULT_EVT, .FAULT_LOG_WR, .FAULT_LOG_LOST] s t := by
  unfold execLatchPulse
  have h0 : Keeps [.log, .hcs, .subs, .lastEvents] [.HC_STAT, .HC_EVT, .HC_CNT_LATE, .FAULT_EVT, .FAULT_LOG_WR,
      .FAULT_LOG_LOST] s s := keeps_refl
  exact ⟨_, rfl, (by
        extract_lets -useContext +onlyGivenNames x2
        split
        · exact h0
        · extract_lets -useContext +onlyGivenNames x4
          refine keeps_ite ?_ ?_
          · refine keeps_ite ?_ ?_
            · exact h0
            · exact keeps_step h0 setHc_keeps
          · refine keeps_ite ?_ ?_
            · exact h0
            · refine keeps_ite ?_ ?_
              · exact keeps_step h0 abandonFrame_keeps
              · extract_lets -useContext +onlyGivenNames x6 x8 x10
                have h7 : As h0 x6 := keeps_step h0 setHc_keeps
                clear_value x6
                have h11 : As h0 x10 := keeps_step h7 setRow_keeps
                clear_value x10
                exact setFld_keeps h11 (covers .HC_STAT ⟨_, rfl⟩))⟩

theorem hcDisabled_keeps {s : State} {a1 : Nat} :
    Keeps [.freeCtr, .landed, .hcs, .cal, .pages, .subs, .lastEvents] [.HC_STAT, .HC_SCAN_PTR, .BR_STAT, .BR_EVT,
    .BR_FMAX, .BR_SNAPLINE, .FAULT_STAT, .CAL_HCh_NOW, .CAL_HCh_STAT] s (State.hcDisabled s a1) := by
  unfold State.hcDisabled
  have h0 : Keeps [.freeCtr, .landed, .hcs, .cal, .pages, .subs, .lastEvents] [.HC_STAT, .HC_SCAN_PTR, .BR_STAT,
      .BR_EVT, .BR_FMAX, .BR_SNAPLINE, .FAULT_STAT, .CAL_HCh_NOW, .CAL_HCh_STAT] s s := keeps_refl
  extract_lets -useContext +onlyGivenNames x2
  have h3 : As h0 x2 := keeps_step h0 stopDrive_keeps
  clear_value x2
  refine keeps_ite ?_ ?_
  · exact h3
  · exact keeps_step h3 setHcState_keeps

theorem scanAdvance_keeps {s : State} {a1 : Nat} :
    Keeps [.hcs, .slots] [.HC_SCAN_PTR] s (State.scanAdvance s a1) := by
  unfold State.scanAdvance
  have h0 : Keeps [.hcs, .slots] [.HC_SCAN_PTR] s s := keeps_refl
  extract_lets -useContext +onlyGivenNames x2 x4 x6 x8 x10 x12
  have h11 : As h0 x10 := keeps_step h0 setHc_keeps
  clear_value x10
  have h13 : As h0 x12 := setFld_keeps h11 (covers .HC_SCAN_PTR ⟨_, rfl⟩)
  clear_value x12
  refine keeps_ite ?_ ?_
  · extract_lets -useContext +onlyGivenNames x14 x16 x18
    have h19 : As h0 x18 := keeps_step h13 setHc_keeps
    clear_value x18
    exact keeps_step h19 scanStart_keeps
  · split
    · extract_lets -useContext +onlyGivenNames x20 x22 x24 x26
      have h21 : As h0 x20 := setFld_keeps h13 (covers .HC_SCAN_PTR ⟨_, rfl⟩)
      clear_value x20
      have h27 : As h0 x26 := keeps_step h21 setHc_keeps
      clear_value x26
      exact keeps_step h27 startScanGroup_keeps
    · exact keeps_step h13 setHc_keeps

theorem execSosEdge_keeps {i : Fin 2} {rising : Bool} {wide : Bool} {s : State} :
    ∃ t, execSosEdge i rising wide s = .next t ∧ Keeps [.hcs, .slots] [.HC_EVT, .HC_SCAN_PTR, .HC_CNT_SOSOVR] s t :=
    by
  unfold execSosEdge
  have h0 : Keeps [.hcs, .slots] [.HC_EVT, .HC_SCAN_PTR, .HC_CNT_SOSOVR] s s := keeps_refl
  exact ⟨_, rfl, (by
        extract_lets -useContext +onlyGivenNames x1 x3
        refine keeps_ite ?_ ?_
        · exact keeps_step h0 sosAccepted_keeps
        · exact h0)⟩

theorem readmitHc_keeps {s : State} {a1 : Nat} :
    Keeps [.freeCtr, .log, .landed, .hcs, .cal, .pages, .subs, .lastEvents] [.HC_STAT, .BR_STAT, .BR_EVT, .BR_FMAX,
    .BR_SNAPLINE, .FAULT_STAT, .FAULT_EVT, .FAULT_LOG_WR, .FAULT_LOG_LOST, .CAL_HCh_NOW, .CAL_HCh_STAT] s
    (State.readmitHc s a1) := by
  unfold State.readmitHc
  have h0 : Keeps [.freeCtr, .log, .landed, .hcs, .cal, .pages, .subs, .lastEvents] [.HC_STAT, .BR_STAT, .BR_EVT,
      .BR_FMAX, .BR_SNAPLINE, .FAULT_STAT, .FAULT_EVT, .FAULT_LOG_WR, .FAULT_LOG_LOST, .CAL_HCh_NOW, .CAL_HCh_STAT] s
      s := keeps_refl
  refine keeps_ite ?_ ?_
  · exact keeps_step h0 readmitRefused_keeps
  · extract_lets -useContext +onlyGivenNames x2 x4 x6 x8 x10
    have h11 : As h0 x10 := keeps_step h0 setHc_keeps
    clear_value x10
    exact keeps_step h11 setHcState_keeps

theorem hcCtrlWrite_keeps {s : State} {a1 : Requester} {a2 : Nat} {v : Word} :
    Keeps [.resp, .freeCtr, .log, .landed, .hcs, .cal, .pages, .subs, .lastEvents, .masks, .slots, .nozRet]
    [.HC_CTRL, .HC_STAT, .HC_SCAN_PTR, .BR_STAT, .BR_EVT, .BR_FMAX, .BR_SNAPLINE, .BR_HLIMIT, .FAULT_STAT,
    .FAULT_EVT, .FAULT_LOG_WR, .FAULT_LOG_LOST, .CAL_HCh_NOW, .CAL_HCh_STAT] s (State.hcCtrlWrite s a1 a2 v) := by
  unfold State.hcCtrlWrite
  have h0 : Keeps [.resp, .freeCtr, .log, .landed, .hcs, .cal, .pages, .subs, .lastEvents, .masks, .slots, .nozRet]
      [.HC_CTRL, .HC_STAT, .HC_SCAN_PTR, .BR_STAT, .BR_EVT, .BR_FMAX, .BR_SNAPLINE, .BR_HLIMIT, .FAULT_STAT,
      .FAULT_EVT, .FAULT_LOG_WR, .FAULT_LOG_LOST, .CAL_HCh_NOW, .CAL_HCh_STAT] s s := keeps_refl
  extract_lets -useContext +onlyGivenNames x3 x5 x7 x9 x11 x13
  refine keeps_ite ?_ ?_
  · exact keeps_step h0 refuse_keeps
  · refine keeps_ite ?_ ?_
    · exact keeps_step h0 refuse_keeps
    · extract_lets -useContext +onlyGivenNames x15 x17 x19 x21
      refine keeps_ite ?_ ?_
      · exact keeps_step (setFld_keeps h0 (covers .HC_STAT ⟨_, rfl⟩)) refuse_keeps
      · extract_lets -useContext +onlyGivenNames x23 x25 x27
        have h24 : As h0 x23 := keeps_step (writeByCodes_keeps h0 (covers .HC_CTRL ⟨_, rfl⟩)) written_keeps
        clear_value x23
        have h28 : As h0 x27 := keeps_ite (keeps_step h24 setHc_keeps) h24
        clear_value x27
        refine keeps_ite ?_ ?_
        · exact keeps_step h28 hcEnabled_keeps
        · refine keeps_ite ?_ ?_
          · exact keeps_step h28 hcDisabled_keeps
          · exact h28

theorem duePassed_keeps {s : State} {a1 : Nat} {a2 : Nat} :
    Keeps [.hcs, .slots] [.HC_SCAN_PTR] s (State.duePassed s a1 a2) := by
  unfold State.duePassed
  have h0 : Keeps [.hcs, .slots] [.HC_SCAN_PTR] s s := keeps_refl
  extract_lets -useContext +onlyGivenNames x3 x5
  have h6 : As h0 x5 := keeps_step h0 setRow_keeps
  clear_value x5
  refine keeps_ite ?_ ?_
  · exact keeps_step h6 scanAdvance_keeps
  · exact h6

theorem abandonLatched_keeps {s : State} {a1 : Nat} {a2 : Nat} {f : Frame} :
    Keeps [.log, .hcs, .subs, .lastEvents] [.HC_EVT, .HC_CNT_LATE, .FAULT_EVT, .FAULT_LOG_WR, .FAULT_LOG_LOST] s
    (State.abandonLatched s a1 a2 f) := by
  unfold State.abandonLatched
  have h0 : Keeps [.log, .hcs, .subs, .lastEvents] [.HC_EVT, .HC_CNT_LATE, .FAULT_EVT, .FAULT_LOG_WR,
      .FAULT_LOG_LOST] s s := keeps_refl
  extract_lets -useContext +onlyGivenNames x3
  have h4 : As h0 x3 := keeps_step h0 uncount_keeps
  clear_value x3
  exact keeps_step (keeps_step h4 setRow_keeps) lateEvent_keeps

theorem histFault_keeps {s : State} {a1 : Nat} {a2 : Nat} {l : Nat} :
    Keeps [.freeCtr, .log, .landed, .hcs, .cal, .pages, .subs, .lastEvents] [.HC_STAT, .HC_EVT, .HC_SCAN_PTR,
    .BR_STAT, .BR_EVT, .BR_FMAX, .BR_SNAPLINE, .FAULT_STAT, .FAULT_EVT, .FAULT_LOG_WR, .FAULT_LOG_LOST, .CAL_HCh_NOW,
    .CAL_HCh_STAT] s (State.histFault s a1 a2 l) := by
  unfold State.histFault
  have h0 : Keeps [.freeCtr, .log, .landed, .hcs, .cal, .pages, .subs, .lastEvents] [.HC_STAT, .HC_EVT, .HC_SCAN_PTR,
      .BR_STAT, .BR_EVT, .BR_FMAX, .BR_SNAPLINE, .FAULT_STAT, .FAULT_EVT, .FAULT_LOG_WR, .FAULT_LOG_LOST,
      .CAL_HCh_NOW, .CAL_HCh_STAT] s s := keeps_refl
  extract_lets -useContext +onlyGivenNames x3
  have h4 : As h0 x3 := keeps_step h0 logFault_keeps
  clear_value x3
  exact keeps_step (keeps_step h4 drawn_keeps) hcError_keeps

theorem execHcEnable_keeps {a1 : Requester} {a2 : Fin 24} {v : Word} {s : State} :
    ∃ t, execHcEnable a1 a2 v s = .next t ∧ Keeps [.resp, .freeCtr, .log, .landed, .hcs, .cal, .pages, .subs,
    .lastEvents, .masks, .slots, .nozRet] [.HC_CTRL, .HC_STAT, .HC_SCAN_PTR, .BR_STAT, .BR_EVT, .BR_FMAX,
    .BR_SNAPLINE, .BR_HLIMIT, .FAULT_STAT, .FAULT_EVT, .FAULT_LOG_WR, .FAULT_LOG_LOST, .CAL_HCh_NOW, .CAL_HCh_STAT] s
    t := by
  unfold execHcEnable
  have h0 : Keeps [.resp, .freeCtr, .log, .landed, .hcs, .cal, .pages, .subs, .lastEvents, .masks, .slots, .nozRet]
      [.HC_CTRL, .HC_STAT, .HC_SCAN_PTR, .BR_STAT, .BR_EVT, .BR_FMAX, .BR_SNAPLINE, .BR_HLIMIT, .FAULT_STAT,
      .FAULT_EVT, .FAULT_LOG_WR, .FAULT_LOG_LOST, .CAL_HCh_NOW, .CAL_HCh_STAT] s s := keeps_refl
  exact ⟨_, rfl, (keeps_step h0 hcCtrlWrite_keeps)⟩

theorem execFrameErrorReshift_keeps {a1 : Fin 24} {s : State} :
    ∃ t, execFrameErrorReshift a1 s = .next t ∧ Keeps [.freeCtr, .log, .landed, .hcs, .cal, .pages, .subs,
    .lastEvents] [.HC_STAT, .HC_EVT, .HC_SCAN_PTR, .HC_CNT_RESHIFT, .BR_STAT, .BR_EVT, .BR_FMAX, .BR_SNAPLINE,
    .FAULT_STAT, .FAULT_EVT, .FAULT_LOG_WR, .FAULT_LOG_LOST, .CAL_HCh_NOW, .CAL_HCh_STAT] s t := by
  unfold execFrameErrorReshift
  have h0 : Keeps [.freeCtr, .log, .landed, .hcs, .cal, .pages, .subs, .lastEvents] [.HC_STAT, .HC_EVT, .HC_SCAN_PTR,
      .HC_CNT_RESHIFT, .BR_STAT, .BR_EVT, .BR_FMAX, .BR_SNAPLINE, .FAULT_STAT, .FAULT_EVT, .FAULT_LOG_WR,
      .FAULT_LOG_LOST, .CAL_HCh_NOW, .CAL_HCh_STAT] s s := keeps_refl
  exact ⟨_, rfl, (by
        split
        · exact h0
        · refine keeps_ite ?_ ?_
          · exact keeps_step h0 retireHc_keeps
          · extract_lets -useContext +onlyGivenNames x2 x4 x6 x8
            have h5 : As h0 x4 := keeps_ite (keeps_step h0 tableAgain_keeps) (keeps_step h0 setHc_keeps)
            clear_value x4
            have h7 : As h0 x6 := setBit_keeps (count_keeps h5 (covers .HC_CNT_RESHIFT ⟨_, rfl⟩)) (covers .HC_EVT ⟨_,
                rfl⟩)
            clear_value x6
            have h9 : As h0 x8 := keeps_step h7 logFault_keeps
            clear_value x8
            exact keeps_step h9 hcError_keeps)⟩

theorem missTo_keeps {s : State} {a1 : Nat} {a2 : Nat} {l : Nat} :
    Keeps [.freeCtr, .log, .pend, .landed, .hcs, .pages, .subs, .lastEvents] [.headSettings, .HC_EVT, .HC_CNT_LATE,
    .HAM_EVT, .HAM_CNT_BLANK, .FAULT_EVT, .FAULT_LOG_WR, .FAULT_LOG_LOST] s (State.missTo s a1 a2 l) := by
  unfold State.missTo
  have h0 : Keeps [.freeCtr, .log, .pend, .landed, .hcs, .pages, .subs, .lastEvents] [.headSettings, .HC_EVT,
      .HC_CNT_LATE, .HAM_EVT, .HAM_CNT_BLANK, .FAULT_EVT, .FAULT_LOG_WR, .FAULT_LOG_LOST] s s := keeps_refl
  extract_lets -useContext +onlyGivenNames x3
  exact keeps_foldl h0 (fun _ _ h5 => (keeps_step h5 missTake_keeps))

theorem headReading_keeps {s : State} {a1 : Nat} {a2 : Int} :
    Keeps [.freeCtr, .log, .landed, .hcs, .cal, .pages, .subs, .lastEvents] [.HC_STAT, .HC_EVT, .HC_TEMP,
    .HC_SCAN_PTR, .BR_STAT, .BR_EVT, .BR_FMAX, .BR_SNAPLINE, .FAULT_STAT, .FAULT_EVT, .FAULT_LOG_WR, .FAULT_LOG_LOST,
    .CAL_HCh_NOW, .CAL_HCh_STAT] s (State.headReading s a1 a2) := by
  unfold State.headReading
  have h0 : Keeps [.freeCtr, .log, .landed, .hcs, .cal, .pages, .subs, .lastEvents] [.HC_STAT, .HC_EVT, .HC_TEMP,
      .HC_SCAN_PTR, .BR_STAT, .BR_EVT, .BR_FMAX, .BR_SNAPLINE, .FAULT_STAT, .FAULT_EVT, .FAULT_LOG_WR,
      .FAULT_LOG_LOST, .CAL_HCh_NOW, .CAL_HCh_STAT] s s := keeps_refl
  extract_lets -useContext +onlyGivenNames x3 x5 x7 x9 x11 x13 x15 x17 x19 x21 x23 x25
  have h6 : As h0 x5 := setFld_keeps (setFld_keeps (setFld_keeps h0 (covers .HC_TEMP ⟨_, rfl⟩)) (covers .HC_TEMP ⟨_,
      rfl⟩)) (covers .HC_TEMP ⟨_, rfl⟩)
  clear_value x5
  have h18 : As h0 x17 := keeps_step h6 setHc_keeps
  clear_value x17
  have h20 : As h0 x19 := keeps_ite (setBit_keeps h18 (covers .HC_EVT ⟨_, rfl⟩)) h18
  clear_value x19
  have h22 : As h0 x21 := keeps_ite (setBit_keeps h20 (covers .HC_EVT ⟨_, rfl⟩)) h20
  clear_value x21
  have h24 : As h0 x23 := keeps_ite (setBit_keeps h22 (covers .HC_EVT ⟨_, rfl⟩)) h22
  clear_value x23
  have h26 : As h0 x25 := keeps_step (setFld_keeps h24 (covers .HC_STAT ⟨_, rfl⟩)) zoneShown_keeps
  clear_value x25
  refine keeps_ite ?_ ?_
  · exact keeps_step h26 retireHc_keeps
  · refine keeps_ite ?_ ?_
    · extract_lets -useContext +onlyGivenNames x27
      have h28 : As h0 x27 := keeps_step h26 setHcState_keeps
      clear_value x27
      refine keeps_ite ?_ ?_
      · exact keeps_step h28 readmitHc_keeps
      · exact h28
    · exact h26

theorem execHcDisable_keeps {a1 : Requester} {a2 : Fin 24} {v : Word} {s : State} :
    ∃ t, execHcDisable a1 a2 v s = .next t ∧ Keeps [.resp, .freeCtr, .log, .landed, .hcs, .cal, .pages, .subs,
    .lastEvents, .masks, .slots, .nozRet] [.HC_CTRL, .HC_STAT, .HC_SCAN_PTR, .BR_STAT, .BR_EVT, .BR_FMAX,
    .BR_SNAPLINE, .BR_HLIMIT, .FAULT_STAT, .FAULT_EVT, .FAULT_LOG_WR, .FAULT_LOG_LOST, .CAL_HCh_NOW, .CAL_HCh_STAT] s
    t := by
  unfold execHcDisable
  have h0 : Keeps [.resp, .freeCtr, .log, .landed, .hcs, .cal, .pages, .subs, .lastEvents, .masks, .slots, .nozRet]
      [.HC_CTRL, .HC_STAT, .HC_SCAN_PTR, .BR_STAT, .BR_EVT, .BR_FMAX, .BR_SNAPLINE, .BR_HLIMIT, .FAULT_STAT,
      .FAULT_EVT, .FAULT_LOG_WR, .FAULT_LOG_LOST, .CAL_HCh_NOW, .CAL_HCh_STAT] s s := keeps_refl
  exact ⟨_, rfl, (keeps_step h0 hcCtrlWrite_keeps)⟩

theorem takeImage_keeps {s : State} {a1 : Nat} {a2 : Nat} {l : Nat} {bad : List Nat} {badHist : List Nat} :
    Keeps [.freeCtr, .log, .pend, .landed, .weaver, .hcs, .cal, .pages, .subs, .lastEvents, .nozRet] [.headSettings,
    .WEAVER_EVT, .WEAVER_CNT_TWIN, .WEAVER_CNT_PARTNER, .WEAVER_CNT_BOOST, .WEAVER_CNT_LOST, .WEAVER_CNT_CLAMP,
    .HC_STAT, .HC_EVT, .HC_SCAN_PTR, .BR_STAT, .BR_EVT, .BR_FMAX, .BR_SNAPLINE, .FAULT_STAT, .FAULT_EVT,
    .FAULT_LOG_WR, .FAULT_LOG_LOST, .CAL_HCh_NOW, .CAL_HCh_STAT] s (State.takeImage s a1 a2 l bad badHist) := by
  unfold State.takeImage
  have h0 : Keeps [.freeCtr, .log, .pend, .landed, .weaver, .hcs, .cal, .pages, .subs, .lastEvents, .nozRet]
      [.headSettings, .WEAVER_EVT, .WEAVER_CNT_TWIN, .WEAVER_CNT_PARTNER, .WEAVER_CNT_BOOST, .WEAVER_CNT_LOST,
      .WEAVER_CNT_CLAMP, .HC_STAT, .HC_EVT, .HC_SCAN_PTR, .BR_STAT, .BR_EVT, .BR_FMAX, .BR_SNAPLINE, .FAULT_STAT,
      .FAULT_EVT, .FAULT_LOG_WR, .FAULT_LOG_LOST, .CAL_HCh_NOW, .CAL_HCh_STAT] s s := keeps_refl
  extract_lets -useContext +onlyGivenNames x3 x5 x7 x9 x11 x13 x15
  have h4 : As h0 x3 := keeps_step h0 badNozzles_keeps
  clear_value x3
  have h8 : As h0 x7 := keeps_step h4 passCounts_keeps
  clear_value x7
  have h14 : As h0 x13 := keeps_ite (keeps_step h8 holdFrame_keeps) h8
  clear_value x13
  have h16 : As h0 x15 := keeps_step h14 tookLine_keeps
  clear_value x15
  refine keeps_ite ?_ ?_
  · exact keeps_step h16 histFault_keeps
  · exact h16

theorem execFireTime_keeps {a1 : Fin 24} {row : Fin 2} {s : State} :
    ∃ t, execFireTime a1 row s = .next t ∧ Keeps [.freeCtr, .log, .pend, .landed, .hcs, .cal, .pages, .subs,
    .lastEvents, .slots, .nozWet] [.headSettings, .HC_EVT, .HC_SCAN_PTR, .HC_CNT_SPIT, .HC_CNT_LATE, .HC_CNT_COLLIDE,
    .HC_CNT_GUARD, .HAM_EVT, .HAM_CNT_BLANK, .FAULT_EVT, .FAULT_LOG_WR, .FAULT_LOG_LOST, .CAL_EVT, .CAL_CNT_CUT] s t
    := by
  unfold execFireTime
  have h0 : Keeps [.freeCtr, .log, .pend, .landed, .hcs, .cal, .pages, .subs, .lastEvents, .slots, .nozWet]
      [.headSettings, .HC_EVT, .HC_SCAN_PTR, .HC_CNT_SPIT, .HC_CNT_LATE, .HC_CNT_COLLIDE, .HC_CNT_GUARD, .HAM_EVT,
      .HAM_CNT_BLANK, .FAULT_EVT, .FAULT_LOG_WR, .FAULT_LOG_LOST, .CAL_EVT, .CAL_CNT_CUT] s s := keeps_refl
  exact ⟨_, rfl, (by
        split
        · exact h0
        · refine keeps_ite ?_ ?_
          · exact h0
          · extract_lets -useContext +onlyGivenNames x2 x4 x6 x8 x10 x12 x14
            have h3 : As h0 x2 := keeps_step h0 missTo_keeps
            clear_value x2
            clear_value x10
            clear_value x12
            clear_value x14
            split
            · exact moveFire_keeps h3 (covers .HC_CNT_GUARD ⟨_, rfl⟩)
            · exact moveFire_keeps h3 (covers .HC_CNT_COLLIDE ⟨_, rfl⟩)
            · extract_lets -useContext +onlyGivenNames x16
              have h17 : As h0 x16 := by
                unfold x16
                clear_value x8
                split
                · refine keeps_ite ?_ ?_
                  · exact keeps_step h3 abandonLatched_keeps
                  · exact keeps_step h3 fireRow_keeps
                · refine keeps_ite ?_ ?_
                  · exact keeps_step h3 abandonFrame_keeps
                  · exact h3
              clear_value x16
              exact keeps_step h17 duePassed_keeps)⟩

theorem execCodeFrameForm_keeps {a1 : Fin 24} {row : Fin 2} {parity : Option ParityWord} {bad : List Nat} {badHist :
    List Nat} {s : State} :
    ∃ t, execCodeFrameForm a1 row parity bad badHist s = .next t ∧ Keeps [.freeCtr, .log, .pend, .landed, .weaver,
    .hcs, .cal, .pages, .subs, .lastEvents, .slots, .nozRet] [.headSettings, .WEAVER_EVT, .WEAVER_CNT_TWIN,
    .WEAVER_CNT_PARTNER, .WEAVER_CNT_BOOST, .WEAVER_CNT_LOST, .WEAVER_CNT_CLAMP, .HC_STAT, .HC_EVT, .HC_SCAN_PTR,
    .BR_STAT, .BR_EVT, .BR_FMAX, .BR_SNAPLINE, .HAM_EVT, .HAM_CNT_PARITY, .FAULT_STAT, .FAULT_EVT, .FAULT_LOG_WR,
    .FAULT_LOG_LOST, .CAL_HCh_NOW, .CAL_HCh_STAT] s t := by
  unfold execCodeFrameForm
  have h0 : Keeps [.freeCtr, .log, .pend, .landed, .weaver, .hcs, .cal, .pages, .subs, .lastEvents, .slots, .nozRet]
      [.headSettings, .WEAVER_EVT, .WEAVER_CNT_TWIN, .WEAVER_CNT_PARTNER, .WEAVER_CNT_BOOST, .WEAVER_CNT_LOST,
      .WEAVER_CNT_CLAMP, .HC_STAT, .HC_EVT, .HC_SCAN_PTR, .BR_STAT, .BR_EVT, .BR_FMAX, .BR_SNAPLINE, .HAM_EVT,
      .HAM_CNT_PARITY, .FAULT_STAT, .FAULT_EVT, .FAULT_LOG_WR, .FAULT_LOG_LOST, .CAL_HCh_NOW, .CAL_HCh_STAT] s s :=
      keeps_refl
  exact ⟨_, rfl, (by
        extract_lets -useContext +onlyGivenNames x2
        refine keeps_ite ?_ ?_
        · exact h0
        · refine keeps_ite ?_ ?_
          · split
            · exact keeps_step (count_keeps h0 (covers .HAM_CNT_PARITY ⟨_, rfl⟩)) hamletFault_keeps
            · exact keeps_step h0 takeImage_keeps
          · refine keeps_ite ?_ ?_
            · exact keeps_step h0 tookLine_keeps
            · refine keeps_ite ?_ ?_
              · exact keeps_step (keeps_ite (keeps_step h0 holdFrame_keeps) h0) tookLine_keeps
              · refine keeps_ite ?_ ?_
                · exact h0
                · split
                  · exact keeps_step h0 parityFault_keeps
                  · exact keeps_step h0 takeImage_keeps)⟩

end Sys2Proof.Laws
end

