-- ==== Sys2Proof/Laws/KeepsCamera.lean ====
section
/-! SUPPORT. What each operation of Machine/Camera.lean may change (`Keeps`): the parts of the state and the rows of registers. -/

set_option Elab.async false

namespace Sys2Proof.Laws

open Sys2Proof.Machine

theorem execTriggerPulseEnd_keeps {n : Fin 4} {s : State} :
    ∃ t, execTriggerPulseEnd n s = .next t ∧ Keeps [.cam] [] s t := by
  unfold execTriggerPulseEnd
  have h0 : Keeps [.cam] [] s s := keeps_refl
  exact ⟨_, rfl, (by
        split
        · refine keeps_ite ?_ ?_
          · exact keeps_step h0 setCamPort_keeps
          · exact h0
        · exact h0)⟩

theorem execCameraPortReadmit_keeps {a1 : Requester} {v : Word} {s : State} :
    ∃ t, execCameraPortReadmit a1 v s = .next t ∧ Keeps [.resp, .cam] [.CAMn_STAT] s t := by
  unfold execCameraPortReadmit
  have h0 : Keeps [.resp, .cam] [.CAMn_STAT] s s := keeps_refl
  exact ⟨_, rfl, (keeps_step (keeps_foldl h0 (fun _ _ h2 => (by
        extract_lets -useContext +onlyGivenNames x3
        exact setFld_keeps (keeps_step h2 setCamPort_keeps) (covers .CAMn_STAT ⟨_, rfl⟩)))) written_keeps)⟩

theorem serialCfgWrite_keeps {s : State} {n : Nat} {v : Word} :
    Keeps [.cam] [.CAMn_SER_CFG] s (State.serialCfgWrite s n v) := by
  unfold State.serialCfgWrite
  have h0 : Keeps [.cam] [.CAMn_SER_CFG] s s := keeps_refl
  extract_lets -useContext +onlyGivenNames x1 x3
  have h4 : As h0 x3 := writeByCodes_keeps h0 (covers .CAMn_SER_CFG ⟨_, rfl⟩)
  clear_value x3
  refine keeps_ite ?_ ?_
  · exact h4
  · exact keeps_step h4 setCamPort_keeps

theorem setPipe_keeps {s : State} {p : Nat} {a1 : PipeSt} :
    Keeps [.cam] [.Pp_STAT] s (State.setPipe s p a1) := by
  unfold State.setPipe
  have h0 : Keeps [.cam] [.Pp_STAT] s s := keeps_refl
  exact setFld_keeps (keeps_cam h0 _) (covers .Pp_STAT ⟨_, rfl⟩)

theorem execSerialByteSent_keeps {n : Fin 4} {s : State} :
    ∃ t, execSerialByteSent n s = .next t ∧ Keeps [.cam] [] s t := by
  unfold execSerialByteSent
  have h0 : Keeps [.cam] [] s s := keeps_refl
  exact ⟨_, rfl, (by
        extract_lets -useContext +onlyGivenNames x1
        refine keeps_ite ?_ ?_
        · exact keeps_step h0 setCamPort_keeps
        · exact h0)⟩

theorem execSerialDataAccess_keeps {a1 : Requester} {n : Fin 4} {v : Option Word} {s : State} :
    ∃ t, execSerialDataAccess a1 n v s = .next t ∧ Keeps [.resp, .cam] [] s t := by
  unfold execSerialDataAccess
  have h0 : Keeps [.resp, .cam] [] s s := keeps_refl
  exact ⟨_, rfl, (by
        extract_lets -useContext +onlyGivenNames x2
        split
        · exact keeps_step (keeps_ite h0 (keeps_step h0 setCamPort_keeps)) written_keeps
        · exact keeps_step (keeps_step h0 setCamPort_keeps) okResp_keeps)⟩

theorem exposureWrite_keeps {s : State} {n : Nat} {a : Nat} {v : Word} :
    Keeps [.cam] [.any] s (State.exposureWrite s n a v) := by
  unfold State.exposureWrite
  have h0 : Keeps [.cam] [.any] s s := keeps_refl
  extract_lets -useContext +onlyGivenNames x1 x3
  have h2 : As h0 x1 := writeByCodes_keeps h0 (covers .any trivial)
  clear_value x1
  exact keeps_step h2 setCamPort_keeps

theorem execSerialByteReceived_keeps {n : Fin 4} {b : Byte} {s : State} :
    ∃ t, execSerialByteReceived n b s = .next t ∧ Keeps [.cam] [] s t := by
  unfold execSerialByteReceived
  have h0 : Keeps [.cam] [] s s := keeps_refl
  exact ⟨_, rfl, (by
        extract_lets -useContext +onlyGivenNames x1
        refine keeps_ite ?_ ?_
        · exact h0
        · refine keeps_ite ?_ ?_
          · exact keeps_step h0 setCamPort_keeps
          · exact keeps_step h0 setCamPort_keeps)⟩

theorem exposureCommit_keeps {s : State} {n : Nat} :
    Keeps [.cam] [] s (State.exposureCommit s n) := by
  unfold State.exposureCommit
  have h0 : Keeps [.cam] [] s s := keeps_refl
  extract_lets -useContext +onlyGivenNames x1
  exact keeps_step h0 setCamPort_keeps

theorem trimMap_keeps {s : State} {p : Nat} :
    Keeps [.cam] [.Pp_STAT] s (State.trimMap s p) := by
  unfold State.trimMap
  have h0 : Keeps [.cam] [.Pp_STAT] s s := keeps_refl
  extract_lets -useContext +onlyGivenNames x1 x3 x5 x7
  exact keeps_step h0 setPipe_keeps

theorem execCamNozzleRetire_keeps {a1 : Requester} {v : Word} {s : State} :
    ∃ t, execCamNozzleRetire a1 v s = .next t ∧ Keeps [.resp, .log, .weaver, .subs, .lastEvents, .nozRet]
    [.FAULT_EVT, .FAULT_LOG_WR, .FAULT_LOG_LOST] s t := by
  unfold execCamNozzleRetire
  have h0 : Keeps [.resp, .log, .weaver, .subs, .lastEvents, .nozRet] [.FAULT_EVT, .FAULT_LOG_WR, .FAULT_LOG_LOST] s
      s := keeps_refl
  exact ⟨_, rfl, (by
        extract_lets -useContext +onlyGivenNames x2
        exact keeps_step (keeps_ite (keeps_step h0 retireNozzle_keeps) h0) written_keeps)⟩

theorem execPclkStop_keeps {n : Fin 4} {s : State} :
    ∃ t, execPclkStop n s = .next t ∧ Keeps [.log, .dma, .cam, .subs, .lastEvents] [.FAULT_EVT, .FAULT_LOG_WR,
    .FAULT_LOG_LOST, .CAM_EVT, .CAMn_STAT] s t := by
  unfold execPclkStop
  have h0 : Keeps [.log, .dma, .cam, .subs, .lastEvents] [.FAULT_EVT, .FAULT_LOG_WR, .FAULT_LOG_LOST, .CAM_EVT,
      .CAMn_STAT] s s := keeps_refl
  exact ⟨_, rfl, (keeps_ite (keeps_step h0 camRetire_keeps) h0)⟩

theorem execCamTableAccess_keeps {a1 : Requester} {v : Option Word} {s : State} :
    ∃ t, execCamTableAccess a1 v s = .next t ∧ Keeps [.resp, .freeCtr, .log, .cam, .subs, .lastEvents] [.FAULT_EVT,
    .FAULT_LOG_WR, .FAULT_LOG_LOST, .CAM_TAB_ADDR] s t := by
  unfold execCamTableAccess
  have h0 : Keeps [.resp, .freeCtr, .log, .cam, .subs, .lastEvents] [.FAULT_EVT, .FAULT_LOG_WR, .FAULT_LOG_LOST,
      .CAM_TAB_ADDR] s s := keeps_refl
  exact ⟨_, rfl, (by
        extract_lets -useContext +onlyGivenNames x2 x4 x6 x8 x10 x12
        have h13 : ∀ y14, As h0 y14 → As h0 (x12 y14) := fun y14 h15 => (setFld_keeps h15 (covers .CAM_TAB_ADDR rfl))
        clear_value x12
        split
        · refine keeps_ite ?_ ?_
          · exact keeps_step h0 refuse_keeps
          · extract_lets -useContext +onlyGivenNames x16
            exact keeps_step (h13 _ (keeps_ite (keeps_cam h0 _) h0)) written_keeps
        · refine keeps_ite ?_ ?_
          · exact keeps_step (h13 _ h0) okResp_keeps
          · exact keeps_step (keeps_step (h13 _ h0) drawn_keeps) okResp_keeps)⟩

theorem pushMap_keeps {s : State} {l : Nat} {pos : Int} {pitch : Nat} :
    Keeps [.log, .cam, .subs, .lastEvents] [.FAULT_EVT, .FAULT_LOG_WR, .FAULT_LOG_LOST, .CAM_EVT, .Pp_STAT] s
    (State.pushMap s l pos pitch) := by
  unfold State.pushMap
  have h0 : Keeps [.log, .cam, .subs, .lastEvents] [.FAULT_EVT, .FAULT_LOG_WR, .FAULT_LOG_LOST, .CAM_EVT, .Pp_STAT] s
      s := keeps_refl
  extract_lets -useContext +onlyGivenNames x1 x3
  exact keeps_foldl h0 (fun _ _ h5 => (by
        extract_lets -useContext +onlyGivenNames x6
        refine keeps_ite ?_ ?_
        · exact keeps_step (orFld_keeps (keeps_step h5 setPipe_keeps) (covers .CAM_EVT rfl)) logFault_keeps
        · exact keeps_step h5 setPipe_keeps))

theorem closeBand_keeps {s : State} {n : Nat} {a : BandAcc} :
    Keeps [.freeCtr, .log, .granary, .miller, .cam, .subs, .lastEvents, .records] [.GRANARY_STAT, .GRANARY_SR,
    .FAULT_EVT, .FAULT_LOG_WR, .FAULT_LOG_LOST, .CAM_EVT, .Pp_RES_WR, .Pp_CNT_RESLOST] s (State.closeBand s n a) := by
  unfold State.closeBand
  have h0 : Keeps [.freeCtr, .log, .granary, .miller, .cam, .subs, .lastEvents, .records] [.GRANARY_STAT,
      .GRANARY_SR, .FAULT_EVT, .FAULT_LOG_WR, .FAULT_LOG_LOST, .CAM_EVT, .Pp_RES_WR, .Pp_CNT_RESLOST] s s :=
      keeps_refl
  extract_lets -useContext +onlyGivenNames x1 x3 x5
  have h4 : As h0 x3 := keeps_step h0 setCamPort_keeps
  clear_value x3
  have h6 : As h0 x5 := keeps_foldl h4 (fun _ _ h7 => (keeps_step (keeps_step h7 writeRecord_keeps) drawnN_keeps))
  clear_value x5
  refine keeps_ite ?_ ?_
  · exact keeps_step (orFld_keeps h6 (covers .CAM_EVT rfl)) notify_keeps
  · exact h6

theorem ladderStage_keeps {s : State} {n : Nat} {l : Nat} {frac : Nat} {e : MapEntry} {den : List Nat} :
    Keeps [.freeCtr, .log, .granary, .miller, .cam, .subs, .lastEvents, .records] [.GRANARY_STAT, .GRANARY_SR,
    .FAULT_EVT, .FAULT_LOG_WR, .FAULT_LOG_LOST, .CAM_EVT, .Pp_RES_WR, .Pp_CNT_RESLOST] s (State.ladderStage s n l
    frac e den) := by
  unfold State.ladderStage
  have h0 : Keeps [.freeCtr, .log, .granary, .miller, .cam, .subs, .lastEvents, .records] [.GRANARY_STAT,
      .GRANARY_SR, .FAULT_EVT, .FAULT_LOG_WR, .FAULT_LOG_LOST, .CAM_EVT, .Pp_RES_WR, .Pp_CNT_RESLOST] s s :=
      keeps_refl
  extract_lets -useContext +onlyGivenNames x1 x3 x5 x7
  have h6 : As h0 x5 := by
    unfold x5
    split
    · refine keeps_ite ?_ ?_
      · exact h0
      · exact keeps_step h0 closeBand_keeps
    · exact h0
  clear_value x5
  clear_value x3
  split
  · refine keeps_ite ?_ ?_
    · exact h6
    · extract_lets -useContext +onlyGivenNames x9 x11 x13 x15 x17 x19
      have h12 : As h0 x11 := keeps_ite (keeps_step (keeps_step h6 setCamPort_keeps) drawnN_keeps) h6
      clear_value x11
      exact keeps_step h12 setCamPort_keeps
  · refine keeps_ite ?_ ?_
    · exact keeps_step h6 setCamPort_keeps
    · exact h6

theorem closeRegions_keeps {s : State} {n : Nat} {a : PageAcc} :
    Keeps [.freeCtr, .log, .granary, .miller, .subs, .lastEvents, .records] [.GRANARY_STAT, .GRANARY_SR, .FAULT_EVT,
    .FAULT_LOG_WR, .FAULT_LOG_LOST, .CAM_EVT, .Pp_RES_WR, .Pp_CNT_RESLOST] s (State.closeRegions s n a).1 := by
  unfold State.closeRegions
  have h0 : Keeps [.freeCtr, .log, .granary, .miller, .subs, .lastEvents, .records] [.GRANARY_STAT, .GRANARY_SR,
      .FAULT_EVT, .FAULT_LOG_WR, .FAULT_LOG_LOST, .CAM_EVT, .Pp_RES_WR, .Pp_CNT_RESLOST] s s := keeps_refl
  extract_lets -useContext +onlyGivenNames x1
  exact keeps_foldl_fst h0 (fun _ _ h3 => (by
        split
        · split
          · extract_lets -useContext +onlyGivenNames x7 x9 x11
            exact keeps_step (keeps_step h3 writeRecord_keeps) drawn_keeps))

theorem closePage_keeps {s : State} {n : Nat} {a : PageAcc} :
    Keeps [.freeCtr, .log, .granary, .miller, .cam, .subs, .lastEvents, .records] [.GRANARY_STAT, .GRANARY_SR,
    .FAULT_EVT, .FAULT_LOG_WR, .FAULT_LOG_LOST, .CAM_EVT, .Pp_RES_WR, .Pp_CNT_RESLOST] s (State.closePage s n a) := by
  unfold State.closePage
  have h0 : Keeps [.freeCtr, .log, .granary, .miller, .cam, .subs, .lastEvents, .records] [.GRANARY_STAT,
      .GRANARY_SR, .FAULT_EVT, .FAULT_LOG_WR, .FAULT_LOG_LOST, .CAM_EVT, .Pp_RES_WR, .Pp_CNT_RESLOST] s s :=
      keeps_refl
  extract_lets -useContext +onlyGivenNames x1 x3
  have h4 : As h0 x3 := keeps_step h0 setCamPort_keeps
  clear_value x3
  split
  · rename State => t5
    have h7 : As h0 t5 := keeps_of_1 (by assumption) (keeps_step h4 closeRegions_keeps)
    extract_lets -useContext +onlyGivenNames x8 x11 x13 x15 x17
    have h9 : As h0 x8 := keeps_foldl h7 (fun _ _ h10 => (keeps_step (keeps_step h10 writeRecord_keeps) drawnN_keeps))
    clear_value x8
    have h12 : As h0 x11 := keeps_step h9 writeRecord_keeps
    clear_value x11
    have h14 : As h0 x13 := keeps_step (orFld_keeps h12 (covers .CAM_EVT rfl)) notify_keeps
    clear_value x13
    exact keeps_cam h14 _

theorem execFrameValidEdge_keeps {n : Fin 4} {rising : Bool} {s : State} :
    ∃ t, execFrameValidEdge n rising s = .next t ∧ Keeps [.freeCtr, .log, .dma, .granary, .miller, .cam, .subs,
    .lastEvents, .records] [.GRANARY_STAT, .GRANARY_SR, .FAULT_EVT, .FAULT_LOG_WR, .FAULT_LOG_LOST, .CAM_EVT,
    .CAMn_STAT, .CAMn_EXP_NOW, .CAMn_GAIN_NOW, .CAMn_FSEQ, .CAMn_CNT_FRAMES, .CAMn_CNT_DROP, .Pp_RES_WR,
    .Pp_CNT_RESLOST] s t := by
  unfold execFrameValidEdge
  have h0 : Keeps [.freeCtr, .log, .dma, .granary, .miller, .cam, .subs, .lastEvents, .records] [.GRANARY_STAT,
      .GRANARY_SR, .FAULT_EVT, .FAULT_LOG_WR, .FAULT_LOG_LOST, .CAM_EVT, .CAMn_STAT, .CAMn_EXP_NOW, .CAMn_GAIN_NOW,
      .CAMn_FSEQ, .CAMn_CNT_FRAMES, .CAMn_CNT_DROP, .Pp_RES_WR, .Pp_CNT_RESLOST] s s := keeps_refl
  exact ⟨_, rfl, (keeps_ite h0 (keeps_ite (keeps_step h0 camFrameStart_keeps) (by
        extract_lets -useContext +onlyGivenNames x1
        split
        · refine keeps_ite ?_ ?_
          · exact h0
          · refine keeps_ite ?_ ?_
            · exact keeps_step h0 camDrop_keeps
            · exact keeps_step (keeps_step h0 setCamPort_keeps) settlePort_keeps
        · exact h0)))⟩

theorem storeLine_keeps {s : State} {n : Nat} {f : CamFrame} {px : List Nat} {pos : Int} :
    Keeps [.freeCtr, .log, .dma, .granary, .miller, .cam, .subs, .lastEvents, .records] [.GRANARY_STAT, .GRANARY_SR,
    .FAULT_EVT, .FAULT_LOG_WR, .FAULT_LOG_LOST, .CAM_EVT, .CAMn_STAT, .CAMn_CNT_DROP, .Pp_RES_WR, .Pp_CNT_RESLOST] s
    (State.storeLine s n f px pos) := by
  unfold State.storeLine
  have h0 : Keeps [.freeCtr, .log, .dma, .granary, .miller, .cam, .subs, .lastEvents, .records] [.GRANARY_STAT,
      .GRANARY_SR, .FAULT_EVT, .FAULT_LOG_WR, .FAULT_LOG_LOST, .CAM_EVT, .CAMn_STAT, .CAMn_CNT_DROP, .Pp_RES_WR,
      .Pp_CNT_RESLOST] s s := keeps_refl
  extract_lets -useContext +onlyGivenNames x1
  refine keeps_ite ?_ ?_
  · exact keeps_step h0 camDrop_keeps
  · extract_lets -useContext +onlyGivenNames x3 x5 x7
    split
    · exact keeps_step (keeps_step (keeps_step h0 sourceFills_keeps) setCamPort_keeps) settlePort_keeps

theorem execLineTimeout_keeps {n : Fin 4} {s : State} :
    ∃ t, execLineTimeout n s = .next t ∧ Keeps [.freeCtr, .log, .dma, .granary, .miller, .cam, .subs, .lastEvents,
    .records] [.GRANARY_STAT, .GRANARY_SR, .FAULT_EVT, .FAULT_LOG_WR, .FAULT_LOG_LOST, .CAM_EVT, .CAMn_STAT,
    .CAMn_CNT_DROP, .Pp_RES_WR, .Pp_CNT_RESLOST] s t := by
  unfold execLineTimeout
  have h0 : Keeps [.freeCtr, .log, .dma, .granary, .miller, .cam, .subs, .lastEvents, .records] [.GRANARY_STAT,
      .GRANARY_SR, .FAULT_EVT, .FAULT_LOG_WR, .FAULT_LOG_LOST, .CAM_EVT, .CAMn_STAT, .CAMn_CNT_DROP, .Pp_RES_WR,
      .Pp_CNT_RESLOST] s s := keeps_refl
  exact ⟨_, rfl, (by
        extract_lets -useContext +onlyGivenNames x1
        split
        · refine keeps_ite ?_ ?_
          · exact h0
          · extract_lets -useContext +onlyGivenNames x3 x5
            have h6 : As h0 x5 := keeps_step (keeps_step h0 setCamPort_keeps) showPort_keeps
            clear_value x5
            refine keeps_ite ?_ ?_
            · exact h6
            · exact keeps_step h6 camDrop_keeps
        · exact h0)⟩

theorem judgeLine_keeps {s : State} {n : Nat} {k : Option Nat} {outside : Bool} {px : List Nat} {pos : Int} :
    Keeps [.freeCtr, .log, .dma, .granary, .miller, .cam, .subs, .lastEvents, .records] [.GRANARY_STAT, .GRANARY_SR,
    .FAULT_EVT, .FAULT_LOG_WR, .FAULT_LOG_LOST, .CAM_EVT, .CAMn_STAT, .CAMn_CNT_DROP, .Pp_RES_WR, .Pp_CNT_RESLOST] s
    (State.judgeLine s n k outside px pos) := by
  unfold State.judgeLine
  have h0 : Keeps [.freeCtr, .log, .dma, .granary, .miller, .cam, .subs, .lastEvents, .records] [.GRANARY_STAT,
      .GRANARY_SR, .FAULT_EVT, .FAULT_LOG_WR, .FAULT_LOG_LOST, .CAM_EVT, .CAMn_STAT, .CAMn_CNT_DROP, .Pp_RES_WR,
      .Pp_CNT_RESLOST] s s := keeps_refl
  extract_lets -useContext +onlyGivenNames x1
  refine keeps_ite ?_ ?_
  · exact keeps_step h0 showPort_keeps
  · refine keeps_ite ?_ ?_
    · exact keeps_step h0 camDrop_keeps
    · split
      · exact keeps_step h0 showPort_keeps
      · refine keeps_ite ?_ ?_
        · exact keeps_step (keeps_step h0 camDrop_keeps) showPort_keeps
        · split
          · exact keeps_step h0 storeLine_keeps
          · exact keeps_step h0 showPort_keeps

theorem camCtrlWrite_keeps {s : State} {n : Nat} {v : Word} :
    Keeps [.freeCtr, .log, .dma, .granary, .miller, .cam, .subs, .lastEvents, .records] [.GRANARY_STAT, .GRANARY_SR,
    .FAULT_EVT, .FAULT_LOG_WR, .FAULT_LOG_LOST, .CAM_EVT, .CAMn_CTRL, .CAMn_STAT, .CAMn_EXP_NOW, .CAMn_GAIN_NOW,
    .CAMn_FSEQ, .CAMn_CNT_FRAMES, .CAMn_CNT_DROP, .Pp_RES_WR, .Pp_CNT_RESLOST] s (State.camCtrlWrite s n v) := by
  unfold State.camCtrlWrite
  have h0 : Keeps [.freeCtr, .log, .dma, .granary, .miller, .cam, .subs, .lastEvents, .records] [.GRANARY_STAT,
      .GRANARY_SR, .FAULT_EVT, .FAULT_LOG_WR, .FAULT_LOG_LOST, .CAM_EVT, .CAMn_CTRL, .CAMn_STAT, .CAMn_EXP_NOW,
      .CAMn_GAIN_NOW, .CAMn_FSEQ, .CAMn_CNT_FRAMES, .CAMn_CNT_DROP, .Pp_RES_WR, .Pp_CNT_RESLOST] s s := keeps_refl
  extract_lets -useContext +onlyGivenNames x1 x3 x5 x7 x9 x11 x13 x15 x17
  have h8 : As h0 x7 := keeps_ite (setBit_keeps h0 (covers .CAMn_CTRL ⟨_, rfl⟩)) (writeByCodes_keeps h0 (covers
      .CAMn_CTRL ⟨_, rfl⟩))
  clear_value x7
  have h12 : As h0 x11 := keeps_step h8 setCamPort_keeps
  clear_value x11
  have h14 : As h0 x13 := keeps_setReg h12 (covers .CAMn_FSEQ ⟨_, rfl⟩)
  clear_value x13
  have h16 : As h0 x15 := keeps_step (keeps_step h8 setCamPort_keeps) settlePort_keeps
  clear_value x15
  have h18 : As h0 x17 := keeps_ite (keeps_ite h14 (setFld_keeps h14 (covers .CAMn_STAT ⟨_, rfl⟩))) (keeps_ite
      (keeps_ite h16 (setFld_keeps h16 (covers .CAMn_STAT ⟨_, rfl⟩))) h8)
  clear_value x17
  refine keeps_ite ?_ ?_
  · exact keeps_step h18 camTrigger_keeps
  · exact h18

theorem execSoftwareTrigger_keeps {a1 : Requester} {n : Fin 4} {v : Word} {s : State} :
    ∃ t, execSoftwareTrigger a1 n v s = .next t ∧ Keeps [.resp, .freeCtr, .log, .dma, .granary, .miller, .cam, .subs,
    .lastEvents, .records] [.GRANARY_STAT, .GRANARY_SR, .FAULT_EVT, .FAULT_LOG_WR, .FAULT_LOG_LOST, .CAM_EVT,
    .CAMn_CTRL, .CAMn_STAT, .CAMn_EXP_NOW, .CAMn_GAIN_NOW, .CAMn_FSEQ, .CAMn_CNT_FRAMES, .CAMn_CNT_DROP, .Pp_RES_WR,
    .Pp_CNT_RESLOST] s t := by
  unfold execSoftwareTrigger
  have h0 : Keeps [.resp, .freeCtr, .log, .dma, .granary, .miller, .cam, .subs, .lastEvents, .records]
      [.GRANARY_STAT, .GRANARY_SR, .FAULT_EVT, .FAULT_LOG_WR, .FAULT_LOG_LOST, .CAM_EVT, .CAMn_CTRL, .CAMn_STAT,
      .CAMn_EXP_NOW, .CAMn_GAIN_NOW, .CAMn_FSEQ, .CAMn_CNT_FRAMES, .CAMn_CNT_DROP, .Pp_RES_WR, .Pp_CNT_RESLOST] s s
      := keeps_refl
  exact ⟨_, rfl, (keeps_ite (keeps_step (keeps_step h0 camCtrlWrite_keeps) written_keeps) h0)⟩

theorem execCameraLine_keeps {n : Fin 4} {tapA : List (BitVec 12)} {tapB : List (BitVec 12)} {fv : Bool} {pos : Int}
    {ts : Nat} {s : State} :
    ∃ t, execCameraLine n tapA tapB fv pos ts s = .next t ∧ Keeps [.freeCtr, .log, .dma, .granary, .miller, .cam,
    .subs, .lastEvents, .records] [.GRANARY_STAT, .GRANARY_SR, .FAULT_EVT, .FAULT_LOG_WR, .FAULT_LOG_LOST, .CAM_EVT,
    .CAMn_STAT, .CAMn_EXP_NOW, .CAMn_GAIN_NOW, .CAMn_FSEQ, .CAMn_CNT_FRAMES, .CAMn_CNT_DROP, .Pp_RES_WR,
    .Pp_CNT_RESLOST] s t := by
  unfold execCameraLine
  have h0 : Keeps [.freeCtr, .log, .dma, .granary, .miller, .cam, .subs, .lastEvents, .records] [.GRANARY_STAT,
      .GRANARY_SR, .FAULT_EVT, .FAULT_LOG_WR, .FAULT_LOG_LOST, .CAM_EVT, .CAMn_STAT, .CAMn_EXP_NOW, .CAMn_GAIN_NOW,
      .CAMn_FSEQ, .CAMn_CNT_FRAMES, .CAMn_CNT_DROP, .Pp_RES_WR, .Pp_CNT_RESLOST] s s := keeps_refl
  exact ⟨_, rfl, (keeps_ite h0 (by
        extract_lets -useContext +onlyGivenNames x1 x3 x5 x7
        refine keeps_ite ?_ ?_
        · extract_lets -useContext +onlyGivenNames x9 x11 x13
          have h12 : As h0 x11 := keeps_step h0 setCamPort_keeps
          clear_value x11
          have h14 : As h0 x13 := keeps_ite (keeps_step h12 camFrameStart_keeps) h12
          clear_value x13
          exact keeps_step h14 judgeLine_keeps
        · extract_lets -useContext +onlyGivenNames x15
          split
          · refine keeps_ite ?_ ?_
            · exact h0
            · exact keeps_step h0 camDrop_keeps
          · extract_lets -useContext +onlyGivenNames x17
            have h18 : As h0 x17 := keeps_step h0 setCamPort_keeps
            clear_value x17
            exact keeps_step h18 judgeLine_keeps))⟩

theorem execCameraDisarm_keeps {a1 : Requester} {n : Fin 4} {v : Word} {s : State} :
    ∃ t, execCameraDisarm a1 n v s = .next t ∧ Keeps [.resp, .freeCtr, .log, .dma, .granary, .miller, .cam, .subs,
    .lastEvents, .records] [.GRANARY_STAT, .GRANARY_SR, .FAULT_EVT, .FAULT_LOG_WR, .FAULT_LOG_LOST, .CAM_EVT,
    .CAMn_CTRL, .CAMn_STAT, .CAMn_EXP_NOW, .CAMn_GAIN_NOW, .CAMn_FSEQ, .CAMn_CNT_FRAMES, .CAMn_CNT_DROP, .Pp_RES_WR,
    .Pp_CNT_RESLOST] s t := by
  unfold execCameraDisarm
  have h0 : Keeps [.resp, .freeCtr, .log, .dma, .granary, .miller, .cam, .subs, .lastEvents, .records]
      [.GRANARY_STAT, .GRANARY_SR, .FAULT_EVT, .FAULT_LOG_WR, .FAULT_LOG_LOST, .CAM_EVT, .CAMn_CTRL, .CAMn_STAT,
      .CAMn_EXP_NOW, .CAMn_GAIN_NOW, .CAMn_FSEQ, .CAMn_CNT_FRAMES, .CAMn_CNT_DROP, .Pp_RES_WR, .Pp_CNT_RESLOST] s s
      := keeps_refl
  exact ⟨_, rfl, (keeps_ite (keeps_step (keeps_step h0 camCtrlWrite_keeps) written_keeps) h0)⟩

theorem execCameraArm_keeps {a1 : Requester} {n : Fin 4} {v : Word} {s : State} :
    ∃ t, execCameraArm a1 n v s = .next t ∧ Keeps [.resp, .freeCtr, .log, .dma, .granary, .miller, .cam, .subs,
    .lastEvents, .records] [.GRANARY_STAT, .GRANARY_SR, .FAULT_EVT, .FAULT_LOG_WR, .FAULT_LOG_LOST, .CAM_EVT,
    .CAMn_CTRL, .CAMn_STAT, .CAMn_EXP_NOW, .CAMn_GAIN_NOW, .CAMn_FSEQ, .CAMn_CNT_FRAMES, .CAMn_CNT_DROP, .Pp_RES_WR,
    .Pp_CNT_RESLOST] s t := by
  unfold execCameraArm
  have h0 : Keeps [.resp, .freeCtr, .log, .dma, .granary, .miller, .cam, .subs, .lastEvents, .records]
      [.GRANARY_STAT, .GRANARY_SR, .FAULT_EVT, .FAULT_LOG_WR, .FAULT_LOG_LOST, .CAM_EVT, .CAMn_CTRL, .CAMn_STAT,
      .CAMn_EXP_NOW, .CAMn_GAIN_NOW, .CAMn_FSEQ, .CAMn_CNT_FRAMES, .CAMn_CNT_DROP, .Pp_RES_WR, .Pp_CNT_RESLOST] s s
      := keeps_refl
  exact ⟨_, rfl, (keeps_ite (keeps_step (keeps_step h0 camCtrlWrite_keeps) written_keeps) h0)⟩

theorem refLine_keeps {s : State} {n : Nat} {j : Nat} :
    Keeps [.resp, .freeCtr, .log, .link, .dma, .granary, .dramValid, .pend, .landed, .weaver, .hcs, .cal, .axes,
    .eth, .pages, .subs, .lastEvents, .dram, .tones, .nozGain] [.LINK_STAT, .LINK_LANEn_STAT, .DMA_HALT_EVT,
    .DMA_CHn_STAT, .GRANARY_STAT, .GRANARY_EVT, .GRANARY_SR, .GRANARY_CHc_RDERR, .GRANARY_CHc_CAPAR,
    .GRANARY_CHc_RMWERR, .GRANARY_CHc_QUEUE, .WEAVER_KERNEL, .WEAVER_MASKLINE, .HC_STAT, .HC_EVT, .HC_COMBLINE,
    .HC_SCAN_PTR, .BR_CTRL, .BR_STAT, .BR_EVT, .BR_FMAX, .BR_SNAPLINE, .FAULT_STAT, .FAULT_EVT, .FAULT_LOG_WR,
    .FAULT_LOG_LOST, .CAL_HCh_NOW, .CAL_HCh_STAT, .CLKPWR_STAT, .CLKPWR_EVT] s (State.refLine s n j).2 := by
  unfold State.refLine
  have h0 : Keeps [.resp, .freeCtr, .log, .link, .dma, .granary, .dramValid, .pend, .landed, .weaver, .hcs, .cal,
      .axes, .eth, .pages, .subs, .lastEvents, .dram, .tones, .nozGain] [.LINK_STAT, .LINK_LANEn_STAT, .DMA_HALT_EVT,
      .DMA_CHn_STAT, .GRANARY_STAT, .GRANARY_EVT, .GRANARY_SR, .GRANARY_CHc_RDERR, .GRANARY_CHc_CAPAR,
      .GRANARY_CHc_RMWERR, .GRANARY_CHc_QUEUE, .WEAVER_KERNEL, .WEAVER_MASKLINE, .HC_STAT, .HC_EVT, .HC_COMBLINE,
      .HC_SCAN_PTR, .BR_CTRL, .BR_STAT, .BR_EVT, .BR_FMAX, .BR_SNAPLINE, .FAULT_STAT, .FAULT_EVT, .FAULT_LOG_WR,
      .FAULT_LOG_LOST, .CAL_HCh_NOW, .CAL_HCh_STAT, .CLKPWR_STAT, .CLKPWR_EVT] s s := keeps_refl
  refine keeps_ite_snd ?_ ?_
  · exact keeps_step h0 memRead_keeps
  · exact h0

theorem compareStage_keeps {s : State} {n : Nat} {l : Nat} {e : MapEntry} {den : List Nat} :
    Keeps [.resp, .freeCtr, .log, .link, .dma, .granary, .dramValid, .miller, .pend, .landed, .weaver, .hcs, .cam,
    .cal, .axes, .eth, .pages, .subs, .lastEvents, .dram, .records, .tones, .nozGain] ([.LINK_STAT, .LINK_LANEn_STAT,
    .DMA_HALT_EVT, .DMA_CHn_STAT, .GRANARY_STAT, .GRANARY_EVT, .GRANARY_SR, .GRANARY_CHc_RDERR, .GRANARY_CHc_CAPAR,
    .GRANARY_CHc_RMWERR, .GRANARY_CHc_QUEUE, .WEAVER_KERNEL, .WEAVER_MASKLINE, .HC_STAT, .HC_EVT, .HC_COMBLINE,
    .HC_SCAN_PTR, .BR_CTRL, .BR_STAT, .BR_EVT, .BR_FMAX, .BR_SNAPLINE, .FAULT_STAT, .FAULT_EVT, .FAULT_LOG_WR,
    .FAULT_LOG_LOST, .CAM_EVT, .Pp_RES_WR, .Pp_CNT_RESLOST, .CAL_HCh_NOW] ++ [.CAL_HCh_STAT, .CLKPWR_STAT,
    .CLKPWR_EVT]) s (State.compareStage s n l e den) := by
  unfold State.compareStage
  have h0 : Keeps [.resp, .freeCtr, .log, .link, .dma, .granary, .dramValid, .miller, .pend, .landed, .weaver, .hcs,
      .cam, .cal, .axes, .eth, .pages, .subs, .lastEvents, .dram, .records, .tones, .nozGain] ([.LINK_STAT,
      .LINK_LANEn_STAT, .DMA_HALT_EVT, .DMA_CHn_STAT, .GRANARY_STAT, .GRANARY_EVT, .GRANARY_SR, .GRANARY_CHc_RDERR,
      .GRANARY_CHc_CAPAR, .GRANARY_CHc_RMWERR, .GRANARY_CHc_QUEUE, .WEAVER_KERNEL, .WEAVER_MASKLINE, .HC_STAT,
      .HC_EVT, .HC_COMBLINE, .HC_SCAN_PTR, .BR_CTRL, .BR_STAT, .BR_EVT, .BR_FMAX, .BR_SNAPLINE, .FAULT_STAT,
      .FAULT_EVT, .FAULT_LOG_WR, .FAULT_LOG_LOST, .CAM_EVT, .Pp_RES_WR, .Pp_CNT_RESLOST, .CAL_HCh_NOW] ++
      [.CAL_HCh_STAT, .CLKPWR_STAT, .CLKPWR_EVT]) s s := keeps_refl
  extract_lets -useContext +onlyGivenNames x1 x3
  have h4 : As h0 x3 := by
    unfold x3
    split
    · refine keeps_ite ?_ ?_
      · exact h0
      · exact keeps_step h0 closePage_keeps
    · exact h0
  clear_value x3
  clear_value x1
  split
  · exact h4
  · refine keeps_ite ?_ ?_
    · exact h4
    · extract_lets -useContext +onlyGivenNames x5 x7 x9 x11 x13
      split
      · rename State => t15
        have h17 : As h0 t15 := keeps_of_2 (by assumption) (keeps_step h4 refLine_keeps)
        extract_lets -useContext +onlyGivenNames x18 x20
        split
        · rename State => t22
          have h24 : As h0 t22 := keeps_of_1 (by assumption) (keeps_ite_fst (keeps_step h17 closeRegions_keeps) h17)
          exact keeps_step h24 setCamPort_keeps

theorem pipelineLine_keeps {s : State} {n : Nat} {px : List Nat} {pos : Int} {f : FrameInfo} :
    Keeps [.resp, .freeCtr, .log, .link, .dma, .granary, .dramValid, .miller, .pend, .landed, .weaver, .hcs, .cam,
    .cal, .axes, .eth, .pages, .subs, .lastEvents, .dram, .records, .tones, .nozGain] ([.pipeSettings, .LINK_STAT,
    .LINK_LANEn_STAT, .DMA_HALT_EVT, .DMA_CHn_STAT, .GRANARY_STAT, .GRANARY_EVT, .GRANARY_SR, .GRANARY_CHc_RDERR,
    .GRANARY_CHc_CAPAR, .GRANARY_CHc_RMWERR, .GRANARY_CHc_QUEUE, .WEAVER_KERNEL, .WEAVER_MASKLINE, .HC_STAT, .HC_EVT,
    .HC_COMBLINE, .HC_SCAN_PTR, .BR_CTRL, .BR_STAT, .BR_EVT, .BR_FMAX, .BR_SNAPLINE, .FAULT_STAT, .FAULT_EVT,
    .FAULT_LOG_WR, .FAULT_LOG_LOST, .CAM_EVT, .Pp_STAT, .Pp_RES_WR] ++ [.Pp_CNT_RESLOST, .CAL_HCh_NOW, .CAL_HCh_STAT,
    .CLKPWR_STAT, .CLKPWR_EVT]) s (State.pipelineLine s n px pos f) := by
  unfold State.pipelineLine
  have h0 : Keeps [.resp, .freeCtr, .log, .link, .dma, .granary, .dramValid, .miller, .pend, .landed, .weaver, .hcs,
      .cam, .cal, .axes, .eth, .pages, .subs, .lastEvents, .dram, .records, .tones, .nozGain] ([.pipeSettings,
      .LINK_STAT, .LINK_LANEn_STAT, .DMA_HALT_EVT, .DMA_CHn_STAT, .GRANARY_STAT, .GRANARY_EVT, .GRANARY_SR,
      .GRANARY_CHc_RDERR, .GRANARY_CHc_CAPAR, .GRANARY_CHc_RMWERR, .GRANARY_CHc_QUEUE, .WEAVER_KERNEL,
      .WEAVER_MASKLINE, .HC_STAT, .HC_EVT, .HC_COMBLINE, .HC_SCAN_PTR, .BR_CTRL, .BR_STAT, .BR_EVT, .BR_FMAX,
      .BR_SNAPLINE, .FAULT_STAT, .FAULT_EVT, .FAULT_LOG_WR, .FAULT_LOG_LOST, .CAM_EVT, .Pp_STAT, .Pp_RES_WR] ++
      [.Pp_CNT_RESLOST, .CAL_HCh_NOW, .CAL_HCh_STAT, .CLKPWR_STAT, .CLKPWR_EVT]) s s := keeps_refl
  extract_lets -useContext +onlyGivenNames x1 x3 x5 x7 x9 x11 x13 x15 x17 x19
  have h10 : As h0 x9 := by
    unfold x9
    clear_value x5
    split
    · exact settlePend_keeps h0 (fun _ a b => covers .pipeSettings ⟨_, a, b⟩)
    · exact h0
  clear_value x9
  have h18 : As h0 x17 := keeps_step h10 setCamPort_keeps
  clear_value x17
  have h20 : As h0 x19 := by
    unfold x19
    clear_value x5
    split
    · extract_lets -useContext +onlyGivenNames x21
      have h22 : As h0 x21 := keeps_ite (keeps_step h18 ladderStage_keeps) h18
      clear_value x21
      refine keeps_ite ?_ ?_
      · exact keeps_step h22 compareStage_keeps
      · exact h22
    · exact h18
  clear_value x19
  exact keeps_step h20 trimMap_keeps

theorem execPipelineLine_keeps {p : Fin 2} {s : State} :
    ∃ t, execPipelineLine p s = .next t ∧ Keeps [.resp, .freeCtr, .log, .link, .dma, .granary, .dramValid, .miller,
    .pend, .landed, .weaver, .hcs, .cam, .cal, .axes, .eth, .pages, .subs, .lastEvents, .dram, .records, .tones,
    .nozGain] ([.pipeSettings, .LINK_STAT, .LINK_LANEn_STAT, .DMA_HALT_EVT, .DMA_CHn_STAT, .GRANARY_STAT,
    .GRANARY_EVT, .GRANARY_SR, .GRANARY_CHc_RDERR, .GRANARY_CHc_CAPAR, .GRANARY_CHc_RMWERR, .GRANARY_CHc_QUEUE,
    .WEAVER_KERNEL, .WEAVER_MASKLINE, .HC_STAT, .HC_EVT, .HC_COMBLINE, .HC_SCAN_PTR, .BR_CTRL, .BR_STAT, .BR_EVT,
    .BR_FMAX, .BR_SNAPLINE, .FAULT_STAT, .FAULT_EVT, .FAULT_LOG_WR, .FAULT_LOG_LOST, .CAM_EVT, .CAMn_STAT, .Pp_STAT]
    ++ [.Pp_RES_WR, .Pp_CNT_RESLOST, .CAL_HCh_NOW, .CAL_HCh_STAT, .CLKPWR_STAT, .CLKPWR_EVT]) s t := by
  unfold execPipelineLine
  have h0 : Keeps [.resp, .freeCtr, .log, .link, .dma, .granary, .dramValid, .miller, .pend, .landed, .weaver, .hcs,
      .cam, .cal, .axes, .eth, .pages, .subs, .lastEvents, .dram, .records, .tones, .nozGain] ([.pipeSettings,
      .LINK_STAT, .LINK_LANEn_STAT, .DMA_HALT_EVT, .DMA_CHn_STAT, .GRANARY_STAT, .GRANARY_EVT, .GRANARY_SR,
      .GRANARY_CHc_RDERR, .GRANARY_CHc_CAPAR, .GRANARY_CHc_RMWERR, .GRANARY_CHc_QUEUE, .WEAVER_KERNEL,
      .WEAVER_MASKLINE, .HC_STAT, .HC_EVT, .HC_COMBLINE, .HC_SCAN_PTR, .BR_CTRL, .BR_STAT, .BR_EVT, .BR_FMAX,
      .BR_SNAPLINE, .FAULT_STAT, .FAULT_EVT, .FAULT_LOG_WR, .FAULT_LOG_LOST, .CAM_EVT, .CAMn_STAT, .Pp_STAT] ++
      [.Pp_RES_WR, .Pp_CNT_RESLOST, .CAL_HCh_NOW, .CAL_HCh_STAT, .CLKPWR_STAT, .CLKPWR_EVT]) s s := keeps_refl
  exact ⟨_, rfl, (by
        split
        · exact h0
        · split
          · extract_lets -useContext +onlyGivenNames x1 x3 x5 x7
            have h4 : As h0 x3 := setFld_keeps (keeps_step h0 setCamPort_keeps) (covers .Pp_STAT ⟨_, rfl⟩)
            clear_value x3
            have h8 : As h0 x7 := keeps_step h4 setPipe_keeps
            clear_value x7
            exact keeps_step (keeps_step (keeps_step h8 pipelineLine_keeps) endFrames_keeps) showPort_keeps
          · exact h0)⟩

end Sys2Proof.Laws
end

