-- ==== Sys2Proof/Laws/KeepsLoop.lean ====
section
/-! SUPPORT. What each operation of Machine/Loop.lean may change (`Keeps`): the parts of the state and the rows of registers. -/

set_option Elab.async false

namespace Sys2Proof.Laws

open Sys2Proof.Machine

theorem setPhi_keeps {s : State} {p : Int} :
    Keeps [.br] [] s (State.setPhi s p) := by
  unfold State.setPhi
  have h0 : Keeps [.br] [] s s := keeps_refl
  exact keeps_br h0 _

theorem phiToW_keeps {s : State} :
    Keeps [.freeCtr, .br] [] s (State.phiToW s) := by
  unfold State.phiToW
  have h0 : Keeps [.freeCtr, .br] [] s s := keeps_refl
  exact keeps_step (keeps_step h0 setPhi_keeps) drawn_keeps

theorem setLoopState_keeps {s : State} {v : Nat} :
    Keeps [] [.BR_STAT] s (State.setLoopState s v) := by
  unfold State.setLoopState
  have h0 : Keeps [] [.BR_STAT] s s := keeps_refl
  exact setFld_keeps h0 (covers .BR_STAT rfl)

theorem showRate_keeps {s : State} :
    Keeps [] [.BR_RATE] s (State.showRate s) := by
  unfold State.showRate
  have h0 : Keeps [] [.BR_RATE] s s := keeps_refl
  split
  · exact keeps_setReg h0 (covers .BR_RATE rfl)

theorem loopMoved_keeps {s : State} :
    Keeps [.freeCtr, .br] [] s (State.loopMoved s) := by
  unfold State.loopMoved
  have h0 : Keeps [.freeCtr, .br] [] s s := keeps_refl
  refine keeps_ite ?_ ?_
  · exact keeps_step h0 phiToW_keeps
  · exact h0

theorem stepLoop_keeps {s : State} {e : Int} {den : Nat} {bw : Nat} :
    Keeps [.freeCtr, .br] [] s (State.stepLoop s e den bw) := by
  unfold State.stepLoop
  have h0 : Keeps [.freeCtr, .br] [] s s := keeps_refl
  extract_lets -useContext +onlyGivenNames x1 x3 x5 x7 x9 x11 x13 x15
  exact keeps_upd h0

theorem flagUnlock_keeps {s : State} :
    Keeps [.freeCtr, .pages, .subs, .lastEvents] [] s (State.flagUnlock s) := by
  unfold State.flagUnlock
  have h0 : Keeps [.freeCtr, .pages, .subs, .lastEvents] [] s s := keeps_refl
  split
  · exact keeps_step h0 flagPage_keeps
  · exact h0

theorem brLog_keeps {s : State} {kind : Nat} {bit : Nat} :
    Keeps [.log, .subs, .lastEvents] [.FAULT_EVT, .FAULT_LOG_WR, .FAULT_LOG_LOST] s (State.brLog s kind bit) := by
  unfold State.brLog
  have h0 : Keeps [.log, .subs, .lastEvents] [.FAULT_EVT, .FAULT_LOG_WR, .FAULT_LOG_LOST] s s := keeps_refl
  exact keeps_step h0 logFault_keeps

theorem judgeLock_keeps {s : State} {e : Int} {den : Nat} :
    Keeps [.freeCtr, .log, .br, .pages, .subs, .lastEvents] [.BR_STAT, .BR_EVT, .BR_CNT_UNLOCK, .FAULT_EVT,
    .FAULT_LOG_WR, .FAULT_LOG_LOST] s (State.judgeLock s e den) := by
  unfold State.judgeLock
  have h0 : Keeps [.freeCtr, .log, .br, .pages, .subs, .lastEvents] [.BR_STAT, .BR_EVT, .BR_CNT_UNLOCK, .FAULT_EVT,
      .FAULT_LOG_WR, .FAULT_LOG_LOST] s s := keeps_refl
  extract_lets -useContext +onlyGivenNames x1
  refine keeps_ite ?_ ?_
  · extract_lets -useContext +onlyGivenNames x3 x5 x7
    have h8 : As h0 x7 := keeps_br h0 _
    refine keeps_ite ?_ ?_
    · exact setBit_keeps (keeps_step h8 setLoopState_keeps) (covers .BR_EVT rfl)
    · exact h8
  · refine keeps_ite ?_ ?_
    · extract_lets -useContext +onlyGivenNames x9 x11 x13
      have h12 : As h0 x11 := keeps_br h0 _
      have h14 : As h0 x13 := setBit_keeps (keeps_step h12 setLoopState_keeps) (covers .BR_EVT rfl)
      clear_value x13
      exact keeps_step (keeps_step (count_keeps h14 (covers .BR_CNT_UNLOCK rfl)) brLog_keeps) flagUnlock_keeps
    · exact h0

theorem leaveLock_keeps {s : State} :
    Keeps [.freeCtr, .log, .pages, .subs, .lastEvents] [.FAULT_EVT, .FAULT_LOG_WR, .FAULT_LOG_LOST] s
    (State.leaveLock s) := by
  unfold State.leaveLock
  have h0 : Keeps [.freeCtr, .log, .pages, .subs, .lastEvents] [.FAULT_EVT, .FAULT_LOG_WR, .FAULT_LOG_LOST] s s :=
      keeps_refl
  refine keeps_ite ?_ ?_
  · exact keeps_step (keeps_step h0 brLog_keeps) flagUnlock_keeps
  · exact h0

theorem judgeLoop_keeps {s : State} :
    Keeps [.freeCtr, .log, .br, .pages, .subs, .lastEvents] [.BR_STAT, .BR_RATE, .FAULT_EVT, .FAULT_LOG_WR,
    .FAULT_LOG_LOST] s (State.judgeLoop s) := by
  unfold State.judgeLoop
  have h0 : Keeps [.freeCtr, .log, .br, .pages, .subs, .lastEvents] [.BR_STAT, .BR_RATE, .FAULT_EVT, .FAULT_LOG_WR,
      .FAULT_LOG_LOST] s s := keeps_refl
  extract_lets -useContext +onlyGivenNames x1 x3 x5 x7 x9
  have h4 : As h0 x3 := keeps_step h0 setLoopState_keeps
  clear_value x3
  have h8 : As h0 x7 := keeps_br h4 _
  have h10 : As h0 x9 := keeps_ite h0 (keeps_ite (keeps_step (keeps_step (keeps_step h0 leaveLock_keeps)
      setPhi_keeps) setLoopState_keeps) (keeps_ite (keeps_ite (keeps_step (keeps_step h8 drawn_keeps) phiToW_keeps)
      h0) (keeps_ite (keeps_step (keeps_step (keeps_step h0 leaveLock_keeps) setLoopState_keeps) phiToW_keeps) h0)))
  clear_value x9
  exact keeps_step (keeps_step h10 showRate_keeps) drawn_keeps

theorem snapLoop_keeps {s : State} {wc : Int} :
    Keeps [.freeCtr, .log, .br, .pages, .subs, .lastEvents] [.BR_STAT, .BR_EVT, .BR_CNT_SNAP, .FAULT_EVT,
    .FAULT_LOG_WR, .FAULT_LOG_LOST] s (State.snapLoop s wc) := by
  unfold State.snapLoop
  have h0 : Keeps [.freeCtr, .log, .br, .pages, .subs, .lastEvents] [.BR_STAT, .BR_EVT, .BR_CNT_SNAP, .FAULT_EVT,
      .FAULT_LOG_WR, .FAULT_LOG_LOST] s s := keeps_refl
  extract_lets -useContext +onlyGivenNames x1 x3 x5 x7
  have h4 : As h0 x3 := keeps_br h0 _
  have h6 : As h0 x5 := setBit_keeps (keeps_step (keeps_step h4 drawn_keeps) setLoopState_keeps) (covers .BR_EVT rfl)
  clear_value x5
  have h8 : As h0 x7 := keeps_step (count_keeps h6 (covers .BR_CNT_SNAP rfl)) brLog_keeps
  clear_value x7
  exact keeps_step (keeps_step h8 flagUnlock_keeps) setPhi_keeps

theorem execLoopUpdate_keeps {s : State} :
    ∃ t, execLoopUpdate s = .next t ∧ Keeps [.freeCtr, .log, .br, .pages, .subs, .lastEvents] [.BR_STAT, .BR_EVT,
    .BR_RATE, .BR_ERR, .BR_CNT_UNLOCK, .BR_CNT_SNAP, .FAULT_EVT, .FAULT_LOG_WR, .FAULT_LOG_LOST] s t := by
  unfold execLoopUpdate
  have h0 : Keeps [.freeCtr, .log, .br, .pages, .subs, .lastEvents] [.BR_STAT, .BR_EVT, .BR_RATE, .BR_ERR,
      .BR_CNT_UNLOCK, .BR_CNT_SNAP, .FAULT_EVT, .FAULT_LOG_WR, .FAULT_LOG_LOST] s s := keeps_refl
  exact ⟨_, rfl, (by
        extract_lets -useContext +onlyGivenNames x1
        have h2 : As h0 x1 := keeps_step h0 judgeLoop_keeps
        clear_value x1
        refine keeps_ite ?_ ?_
        · exact h2
        · extract_lets -useContext +onlyGivenNames x3 x5 x7 x9 x11 x13 x15
          have h10 : As h0 x9 := keeps_setReg h2 (covers .BR_ERR rfl)
          clear_value x9
          have h12 : As h0 x11 := keeps_step h10 drawn_keeps
          clear_value x11
          have h16 : As h0 x15 := keeps_ite (keeps_step (keeps_step h12 drawn_keeps) snapLoop_keeps) (keeps_step
              (keeps_step h12 stepLoop_keeps) judgeLock_keeps)
          clear_value x15
          exact keeps_step (keeps_step h16 showRate_keeps) drawn_keeps)⟩

end Sys2Proof.Laws
end

