-- ==== Sys2Proof/Laws/KeepsPosition.lean ====
section
/-! SUPPORT. What each operation of Machine/Position.lean may change (`Keeps`): the parts of the state and the rows of registers. -/

set_option Elab.async false

namespace Sys2Proof.Laws

open Sys2Proof.Machine

theorem execTableEntryStore_keeps {a1 : Requester} {v : Word} {s : State} :
    ∃ t, execTableEntryStore a1 v s = .next t ∧ Keeps [.resp, .pos] [.POS_TAB_ADDR] s t := by
  unfold execTableEntryStore
  have h0 : Keeps [.resp, .pos] [.POS_TAB_ADDR] s s := keeps_refl
  exact ⟨_, rfl, (by
        extract_lets -useContext +onlyGivenNames x2 x4 x6 x8 x10
        have h11 : As h0 x10 := keeps_pos h0 _
        exact keeps_step (setFld_keeps h11 (covers .POS_TAB_ADDR rfl)) written_keeps)⟩

theorem setCorr_keeps {s : State} {n : Nat} {c : Int} :
    Keeps [] [.ENCn_STAT] s (State.setCorr s n c) := by
  unfold State.setCorr
  have h0 : Keeps [] [.ENCn_STAT] s s := keeps_refl
  exact setFld_keeps h0 (covers .ENCn_STAT ⟨_, rfl⟩)

theorem setMark_keeps {s : State} {i : Nat} {a1 : MarkSt} :
    Keeps [.pos] [] s (State.setMark s i a1) := by
  unfold State.setMark
  have h0 : Keeps [.pos] [] s s := keeps_refl
  exact keeps_pos h0 _

theorem passCmp_keeps {s : State} {j : Nat} {e : Nat} :
    Keeps [] [.CMPj_STAT, .CMPj_OFF_LO, .CMPj_OFF_HI] s (State.passCmp s j e) := by
  unfold State.passCmp
  have h0 : Keeps [] [.CMPj_STAT, .CMPj_OFF_LO, .CMPj_OFF_HI] s s := keeps_refl
  refine keeps_ite ?_ ?_
  · exact setWide_keeps (setFld_keeps h0 (covers .CMPj_STAT ⟨_, rfl⟩)) (covers .CMPj_OFF_LO ⟨_, rfl⟩) (covers
        .CMPj_OFF_HI ⟨_, Nat.add_right_comm _ _ _⟩)
  · exact setFld_keeps h0 (covers .CMPj_STAT ⟨_, rfl⟩)

theorem setLevel_keeps {s : State} {j : Nat} {v : Bool} :
    Keeps [] [.CMPj_STAT] s (State.setLevel s j v) := by
  unfold State.setLevel
  have h0 : Keeps [] [.CMPj_STAT] s s := keeps_refl
  exact setBit_keeps h0 (covers .CMPj_STAT ⟨_, rfl⟩)

theorem execIndexRearm_keeps {a1 : Requester} {n : Fin 4} {v : Word} {s : State} :
    ∃ t, execIndexRearm a1 n v s = .next t ∧ Keeps [.resp] [.ENCn_IDXCFG, .ENCn_STAT] s t := by
  unfold execIndexRearm
  have h0 : Keeps [.resp] [.ENCn_IDXCFG, .ENCn_STAT] s s := keeps_refl
  exact ⟨_, rfl, (keeps_ite h0 (by
        extract_lets -useContext +onlyGivenNames x2
        have h3 : As h0 x2 := writeByCodes_keeps h0 (covers .ENCn_IDXCFG ⟨_, rfl⟩)
        clear_value x2
        exact keeps_step (setBit_keeps (setBit_keeps h3 (covers .ENCn_STAT ⟨_, rfl⟩)) (covers .ENCn_STAT ⟨_, rfl⟩))
            written_keeps))⟩

theorem setSsi_keeps {s : State} {m : Nat} {a1 : SsiSt} :
    Keeps [.pos] [] s (State.setSsi s m a1) := by
  unfold State.setSsi
  have h0 : Keeps [.pos] [] s s := keeps_refl
  exact keeps_pos h0 _

theorem setSpeed_keeps {s : State} {n : Nat} {v : Int} :
    Keeps [.freeCtr] [.ENCn_SPEED, .ENCn_VEL] s (State.setSpeed s n v) := by
  unfold State.setSpeed
  have h0 : Keeps [.freeCtr] [.ENCn_SPEED, .ENCn_VEL] s s := keeps_refl
  extract_lets -useContext +onlyGivenNames x1 x3
  have h4 : As h0 x3 := keeps_setReg h0 (covers .ENCn_SPEED ⟨_, rfl⟩)
  clear_value x3
  exact keeps_step (keeps_setReg h4 (covers .ENCn_VEL ⟨_, rfl⟩)) drawn_keeps

theorem execSsiFrameStart_keeps {m : Fin 2} {s : State} :
    ∃ t, execSsiFrameStart m s = .next t ∧ Keeps [.pos] [] s t := by
  unfold execSsiFrameStart
  have h0 : Keeps [.pos] [] s s := keeps_refl
  exact ⟨_, rfl, (keeps_ite (keeps_step h0 setSsi_keeps) h0)⟩

theorem execHomeEdge_keeps {k : Fin 8} {level : Bool} {s : State} :
    ∃ t, execHomeEdge k level s = .next t ∧ Keeps [.pos] [.POS_EVT0] s t := by
  unfold execHomeEdge
  have h0 : Keeps [.pos] [.POS_EVT0] s s := keeps_refl
  exact ⟨_, rfl, (keeps_ite h0 (by
        extract_lets -useContext +onlyGivenNames x1 x3
        have h4 : As h0 x3 := keeps_pos h0 _
        exact orFld_keeps h4 (covers .POS_EVT0 rfl)))⟩

theorem showMark_keeps {s : State} {i : Nat} :
    Keeps [] [.MARKi_STAT] s (State.showMark s i) := by
  unfold State.showMark
  have h0 : Keeps [] [.MARKi_STAT] s s := keeps_refl
  exact setFld_keeps h0 (covers .MARKi_STAT ⟨_, rfl⟩)

theorem setEncSt_keeps {s : State} {n : Nat} {a1 : EncSt} :
    Keeps [.pos] [] s (State.setEncSt s n a1) := by
  unfold State.setEncSt
  have h0 : Keeps [.pos] [] s s := keeps_refl
  exact keeps_pos h0 _

theorem setCmp_keeps {s : State} {j : Nat} {a1 : CmpSt} :
    Keeps [.pos] [] s (State.setCmp s j a1) := by
  unfold State.setCmp
  have h0 : Keeps [.pos] [] s s := keeps_refl
  exact keeps_pos h0 _

theorem countDir_keeps {s : State} {n : Nat} {back : Bool} :
    Keeps [.pos] [.POS_EVT0, .ENCn_STAT, .BR_STAT] s (State.countDir s n back) := by
  unfold State.countDir
  have h0 : Keeps [.pos] [.POS_EVT0, .ENCn_STAT, .BR_STAT] s s := keeps_refl
  extract_lets -useContext +onlyGivenNames x1 x3
  refine keeps_ite ?_ ?_
  · exact keeps_step h0 setEncSt_keeps
  · refine keeps_ite ?_ ?_
    · exact keeps_step h0 setEncSt_keeps
    · extract_lets -useContext +onlyGivenNames x5 x7
      have h6 : As h0 x5 := keeps_step h0 setEncSt_keeps
      clear_value x5
      have h8 : As h0 x7 := orFld_keeps (setBit_keeps h6 (covers .ENCn_STAT ⟨_, rfl⟩)) (covers .POS_EVT0 rfl)
      clear_value x7
      refine keeps_ite ?_ ?_
      · exact setBit_keeps h8 (covers .BR_STAT rfl)
      · exact h8

theorem holdCmp_keeps {s : State} {j : Nat} {p : Int} :
    Keeps [.pos] [] s (State.holdCmp s j p) := by
  unfold State.holdCmp
  have h0 : Keeps [.pos] [] s s := keeps_refl
  exact keeps_step h0 setCmp_keeps

theorem popMark_keeps {s : State} {i : Nat} :
    Keeps [.pos] [.MARKi_STAT] s (State.popMark s i) := by
  unfold State.popMark
  have h0 : Keeps [.pos] [.MARKi_STAT] s s := keeps_refl
  exact keeps_step (keeps_step h0 setMark_keeps) showMark_keeps

theorem countBlank_keeps {s : State} {n : Nat} {back : Bool} :
    Keeps [.pos] [] s (State.countBlank s n back) := by
  unfold State.countBlank
  have h0 : Keeps [.pos] [] s s := keeps_refl
  refine keeps_ite ?_ ?_
  · exact h0
  · exact keeps_foldl h0 (fun _ _ h1 => (keeps_ite (keeps_step h1 setMark_keeps) h1))

theorem showPeriod_keeps {s : State} {n : Nat} :
    Keeps [.freeCtr] [.ENCn_SPEED, .ENCn_VEL, .ENCn_STAT] s (State.showPeriod s n) := by
  unfold State.showPeriod
  have h0 : Keeps [.freeCtr] [.ENCn_SPEED, .ENCn_VEL, .ENCn_STAT] s s := keeps_refl
  split
  · exact setBit_keeps (keeps_step h0 setSpeed_keeps) (covers .ENCn_STAT ⟨_, rfl⟩)
  · exact setBit_keeps (keeps_step h0 setSpeed_keeps) (covers .ENCn_STAT ⟨_, rfl⟩)

theorem countSpeed_keeps {s : State} {n : Nat} {a1 : Nat} {back : Bool} :
    Keeps [.freeCtr, .pos] [.ENCn_SPEED, .ENCn_VEL, .ENCn_STAT] s (State.countSpeed s n a1 back) := by
  unfold State.countSpeed
  have h0 : Keeps [.freeCtr, .pos] [.ENCn_SPEED, .ENCn_VEL, .ENCn_STAT] s s := keeps_refl
  extract_lets -useContext +onlyGivenNames x2 x4 x6 x8 x10
  have h9 : As h0 x8 := keeps_step h0 setEncSt_keeps
  clear_value x8
  have h11 : As h0 x10 := setBit_keeps h9 (covers .ENCn_STAT ⟨_, rfl⟩)
  clear_value x10
  refine keeps_ite ?_ ?_
  · exact keeps_step h11 showPeriod_keeps
  · exact h11

theorem stepPos_keeps {s : State} {n : Nat} {d : Int} :
    Keeps [.freeCtr, .pos, .br] [.ENCn_POS_LO, .ENCn_POS_HI, .ENCn_MAX_LO, .ENCn_MAX_HI] s (State.stepPos s n d) := by
  unfold State.stepPos
  have h0 : Keeps [.freeCtr, .pos, .br] [.ENCn_POS_LO, .ENCn_POS_HI, .ENCn_MAX_LO, .ENCn_MAX_HI] s s := keeps_refl
  extract_lets -useContext +onlyGivenNames x1 x3 x5 x7 x9
  have h6 : As h0 x5 := keeps_step h0 setEncSt_keeps
  clear_value x5
  have h8 : As h0 x7 := setWide_keeps h6 (covers .ENCn_POS_LO ⟨_, rfl⟩) (covers .ENCn_POS_HI ⟨_, Nat.add_right_comm _
      _ _⟩)
  clear_value x7
  have h10 : As h0 x9 := keeps_ite (setWide_keeps h8 (covers .ENCn_MAX_LO ⟨_, rfl⟩) (covers .ENCn_MAX_HI ⟨_,
      Nat.add_right_comm _ _ _⟩)) h8
  clear_value x9
  refine keeps_ite ?_ ?_
  · exact keeps_step h10 loopMoved_keeps
  · exact h10

theorem stopCmp_keeps {s : State} {j : Nat} :
    Keeps [.pos] [.POS_EVT1, .CMPj_STAT] s (State.stopCmp s j) := by
  unfold State.stopCmp
  have h0 : Keeps [.pos] [.POS_EVT1, .CMPj_STAT] s s := keeps_refl
  extract_lets -useContext +onlyGivenNames x1
  refine keeps_ite ?_ ?_
  · exact orFld_keeps (setFld_keeps (keeps_step h0 setCmp_keeps) (covers .CMPj_STAT ⟨_, rfl⟩)) (covers .POS_EVT1 rfl)
  · exact h0

theorem execMarkEdge_keeps {i : Fin 4} {level : Bool} {s : State} :
    ∃ t, execMarkEdge i level s = .next t ∧ Keeps [.now, .pos] [.POS_EVT0, .POS_EVT1, .POS_INSTATE, .MARKi_STAT] s t
    := by
  unfold execMarkEdge
  have h0 : Keeps [.now, .pos] [.POS_EVT0, .POS_EVT1, .POS_INSTATE, .MARKi_STAT] s s := keeps_refl
  exact ⟨_, rfl, (by
        extract_lets -useContext +onlyGivenNames x1 x3 x5 x7 x9
        have h8 : As h0 x7 := setFld_keeps h0 (covers .POS_INSTATE rfl)
        clear_value x7
        have h10 : As h0 x9 := keeps_step h8 setMark_keeps
        clear_value x9
        refine keeps_ite ?_ ?_
        · exact h10
        · refine keeps_ite ?_ ?_
          · exact setFld_keeps h10 (covers .MARKi_STAT ⟨_, rfl⟩)
          · extract_lets -useContext +onlyGivenNames x11 x13
            refine keeps_ite ?_ ?_
            · exact orFld_keeps (setBit_keeps (keeps_step h10 setMark_keeps) (covers .MARKi_STAT ⟨_, rfl⟩)) (covers
                  .POS_EVT1 rfl)
            · extract_lets -useContext +onlyGivenNames x15 x17
              exact orFld_keeps (keeps_step (keeps_step h10 setMark_keeps) showMark_keeps) (covers .POS_EVT0 rfl))⟩

theorem corrBoundary_keeps {s : State} :
    Keeps [.pos] [] s (State.corrBoundary s) := by
  unfold State.corrBoundary
  have h0 : Keeps [.pos] [] s s := keeps_refl
  refine keeps_ite ?_ ?_
  · exact h0
  · extract_lets -useContext +onlyGivenNames x1
    split
    · exact keeps_step h0 setEncSt_keeps
    · exact keeps_step h0 setEncSt_keeps

theorem cmpCtrlWrite_keeps {s : State} {j : Nat} {v : Word} :
    Keeps [.pos] [.CMPj_CTRL, .CMPj_STAT] s (State.cmpCtrlWrite s j v) := by
  unfold State.cmpCtrlWrite
  have h0 : Keeps [.pos] [.CMPj_CTRL, .CMPj_STAT] s s := keeps_refl
  extract_lets -useContext +onlyGivenNames x1 x3 x5 x7 x9
  have h4 : As h0 x3 := writeByCodes_keeps h0 (covers .CMPj_CTRL ⟨_, rfl⟩)
  clear_value x3
  have h10 : As h0 x9 := keeps_ite (keeps_step (setFld_keeps h4 (covers .CMPj_STAT ⟨_, rfl⟩)) setCmp_keeps) h4
  clear_value x9
  refine keeps_ite ?_ ?_
  · exact setFld_keeps h10 (covers .CMPj_STAT ⟨_, rfl⟩)
  · refine keeps_ite ?_ ?_
    · exact setFld_keeps (keeps_step (keeps_step h10 setCmp_keeps) setLevel_keeps) (covers .CMPj_STAT ⟨_, rfl⟩)
    · exact h10

theorem execMarkFifoPop_keeps {a1 : Requester} {i : Fin 4} {s : State} :
    ∃ t, execMarkFifoPop a1 i s = .next t ∧ Keeps [.resp, .pos] [.MARKi_STAT] s t := by
  unfold execMarkFifoPop
  have h0 : Keeps [.resp, .pos] [.MARKi_STAT] s s := keeps_refl
  exact ⟨_, rfl, (by
        extract_lets -useContext +onlyGivenNames x2
        exact keeps_step (setBit_keeps (keeps_step h0 popMark_keeps) (covers .MARKi_STAT ⟨_, rfl⟩)) okResp_keeps)⟩

theorem correct_keeps {s : State} {n : Nat} {c : Int} :
    Keeps [.freeCtr, .pos, .br] [.ENCn_POS_LO, .ENCn_POS_HI, .ENCn_MAX_LO, .ENCn_MAX_HI, .ENCn_STAT] s (State.correct
    s n c) := by
  unfold State.correct
  have h0 : Keeps [.freeCtr, .pos, .br] [.ENCn_POS_LO, .ENCn_POS_HI, .ENCn_MAX_LO, .ENCn_MAX_HI, .ENCn_STAT] s s :=
      keeps_refl
  refine keeps_ite ?_ ?_
  · exact keeps_step (keeps_step h0 setCorr_keeps) setEncSt_keeps
  · extract_lets -useContext +onlyGivenNames x1
    have h2 : As h0 x1 := keeps_step h0 setCorr_keeps
    clear_value x1
    refine keeps_ite ?_ ?_
    · exact h2
    · exact keeps_step h2 stepPos_keeps

theorem posLog_keeps {s : State} {kind : Nat} {unit : Nat} {cause : Nat} {detail : Nat} :
    Keeps [.log, .subs, .lastEvents] [.FAULT_EVT, .FAULT_LOG_WR, .FAULT_LOG_LOST] s (State.posLog s kind unit cause
    detail) := by
  unfold State.posLog
  have h0 : Keeps [.log, .subs, .lastEvents] [.FAULT_EVT, .FAULT_LOG_WR, .FAULT_LOG_LOST] s s := keeps_refl
  exact keeps_step h0 logFault_keeps

theorem execCompareRestart_keeps {a1 : Requester} {j : Fin 8} {v : Word} {s : State} :
    ∃ t, execCompareRestart a1 j v s = .next t ∧ Keeps [.resp, .pos] [.CMPj_CTRL, .CMPj_STAT] s t := by
  unfold execCompareRestart
  have h0 : Keeps [.resp, .pos] [.CMPj_CTRL, .CMPj_STAT] s s := keeps_refl
  exact ⟨_, rfl, (keeps_ite (keeps_step (keeps_step h0 cmpCtrlWrite_keeps) written_keeps) h0)⟩

theorem indexMiss_keeps {s : State} {n : Nat} :
    Keeps [.log, .subs, .lastEvents] [.POS_EVT0, .ENCn_STAT, .FAULT_EVT, .FAULT_LOG_WR, .FAULT_LOG_LOST] s
    (State.indexMiss s n) := by
  unfold State.indexMiss
  have h0 : Keeps [.log, .subs, .lastEvents] [.POS_EVT0, .ENCn_STAT, .FAULT_EVT, .FAULT_LOG_WR, .FAULT_LOG_LOST] s s
      := keeps_refl
  extract_lets -useContext +onlyGivenNames x1 x3 x5
  have h2 : As h0 x1 := orFld_keeps h0 (covers .POS_EVT0 rfl)
  clear_value x1
  have h6 : As h0 x5 := setFld_keeps h2 (covers .ENCn_STAT ⟨_, rfl⟩)
  clear_value x5
  refine keeps_ite ?_ ?_
  · exact keeps_step (orFld_keeps (setBit_keeps h6 (covers .ENCn_STAT ⟨_, rfl⟩)) (covers .POS_EVT0 rfl)) posLog_keeps
  · exact h6

theorem judgeIndex_keeps {s : State} {n : Nat} :
    Keeps [.freeCtr, .log, .pos, .br, .subs, .lastEvents] [.POS_EVT0, .ENCn_POS_LO, .ENCn_POS_HI, .ENCn_MAX_LO,
    .ENCn_MAX_HI, .ENCn_REV, .ENCn_STAT, .ENCn_IDXERR, .ENCn_IDXCNT, .FAULT_EVT, .FAULT_LOG_WR, .FAULT_LOG_LOST] s
    (State.judgeIndex s n) := by
  unfold State.judgeIndex
  have h0 : Keeps [.freeCtr, .log, .pos, .br, .subs, .lastEvents] [.POS_EVT0, .ENCn_POS_LO, .ENCn_POS_HI,
      .ENCn_MAX_LO, .ENCn_MAX_HI, .ENCn_REV, .ENCn_STAT, .ENCn_IDXERR, .ENCn_IDXCNT, .FAULT_EVT, .FAULT_LOG_WR,
      .FAULT_LOG_LOST] s s := keeps_refl
  refine keeps_ite ?_ ?_
  · exact h0
  · extract_lets -useContext +onlyGivenNames x1 x3 x7 x9 x11 x15
    have h4 : ∀ y5, As h0 y5 → As h0 (x3 y5) := fun y5 h6 => (setFld_keeps h6 (covers .ENCn_REV ⟨_, rfl⟩))
    clear_value x3
    have h10 : As h0 x9 := keeps_step h0 setEncSt_keeps
    clear_value x9
    have h12 : ∀ y13, As h0 y13 → As h0 (x11 y13) := fun y13 h14 => (count_keeps h14 (covers .ENCn_IDXCNT ⟨_, rfl⟩))
    clear_value x11
    have h16 : ∀ y17, As h0 y17 → ∀ y19, As h0 (x15 y17 y19) := fun y17 h18 y19 => (setBit_keeps (setFld_keeps h18
        (covers .ENCn_IDXERR ⟨_, rfl⟩)) (covers .ENCn_IDXERR ⟨_, rfl⟩))
    clear_value x15
    refine keeps_ite ?_ ?_
    · exact keeps_step (h12 _ (setBit_keeps (h4 _ h10) (covers .ENCn_STAT ⟨_, rfl⟩))) correct_keeps
    · refine keeps_ite ?_ ?_
      · exact keeps_step (h16 _ h10 _) indexMiss_keeps
      · extract_lets -useContext +onlyGivenNames x20
        have h21 : As h0 x20 := setFld_keeps (h12 _ (h16 _ h10 _)) (covers .ENCn_STAT ⟨_, rfl⟩)
        clear_value x20
        refine keeps_ite ?_ ?_
        · exact keeps_step h21 correct_keeps
        · exact keeps_step (keeps_step (h4 _ h21) posLog_keeps) correct_keeps

theorem execSpeedWindowUpdate_keeps {n : Fin 4} {s : State} :
    ∃ t, execSpeedWindowUpdate n s = .next t ∧ Keeps [.freeCtr, .log, .br, .pages, .subs, .lastEvents] [.ENCn_SPEED,
    .ENCn_VEL, .ENCn_STAT, .BR_STAT, .BR_RATE, .FAULT_EVT, .FAULT_LOG_WR, .FAULT_LOG_LOST] s t := by
  unfold execSpeedWindowUpdate
  have h0 : Keeps [.freeCtr, .log, .br, .pages, .subs, .lastEvents] [.ENCn_SPEED, .ENCn_VEL, .ENCn_STAT, .BR_STAT,
      .BR_RATE, .FAULT_EVT, .FAULT_LOG_WR, .FAULT_LOG_LOST] s s := keeps_refl
  exact ⟨_, rfl, (keeps_ite h0 (by
        extract_lets -useContext +onlyGivenNames x1 x3 x5 x7 x9
        have h8 : As h0 x7 := setBit_keeps h0 (covers .ENCn_STAT ⟨_, rfl⟩)
        clear_value x7
        have h10 : As h0 x9 := by
          unfold x9
          clear_value x3
          split
          · refine keeps_ite ?_ ?_
            · exact setBit_keeps (keeps_step h8 setSpeed_keeps) (covers .ENCn_STAT ⟨_, rfl⟩)
            · exact keeps_step h8 showPeriod_keeps
          · refine keeps_ite ?_ ?_
            · exact h8
            · exact keeps_step h8 showPeriod_keeps
        clear_value x9
        refine keeps_ite ?_ ?_
        · exact keeps_step h10 judgeLoop_keeps
        · exact h10))⟩

theorem pathCtrlWrite_keeps {s : State} {n : Nat} {v : Word} :
    Keeps [.freeCtr, .log, .pos, .br, .pages, .subs, .lastEvents] [.ENCn_CTRL, .ENCn_POS_LO, .ENCn_POS_HI,
    .ENCn_MAX_LO, .ENCn_MAX_HI, .ENCn_REV, .ENCn_SPEED, .ENCn_VEL, .ENCn_STAT, .BR_STAT, .BR_RATE, .FAULT_EVT,
    .FAULT_LOG_WR, .FAULT_LOG_LOST] s (State.pathCtrlWrite s n v) := by
  unfold State.pathCtrlWrite
  have h0 : Keeps [.freeCtr, .log, .pos, .br, .pages, .subs, .lastEvents] [.ENCn_CTRL, .ENCn_POS_LO, .ENCn_POS_HI,
      .ENCn_MAX_LO, .ENCn_MAX_HI, .ENCn_REV, .ENCn_SPEED, .ENCn_VEL, .ENCn_STAT, .BR_STAT, .BR_RATE, .FAULT_EVT,
      .FAULT_LOG_WR, .FAULT_LOG_LOST] s s := keeps_refl
  extract_lets -useContext +onlyGivenNames x1 x3
  refine keeps_ite ?_ ?_
  · exact setBit_keeps h0 (covers .ENCn_CTRL ⟨_, rfl⟩)
  · extract_lets -useContext +onlyGivenNames x5
    have h6 : As h0 x5 := writeByCodes_keeps h0 (covers .ENCn_CTRL ⟨_, rfl⟩)
    clear_value x5
    refine keeps_ite ?_ ?_
    · exact h6
    · extract_lets -useContext +onlyGivenNames x7 x9 x11 x13 x15 x18 x20 x22
      have h12 : As h0 x11 := setWide_keeps (setWide_keeps (keeps_setReg h6 (covers .ENCn_REV ⟨_, rfl⟩)) (covers
          .ENCn_POS_LO ⟨_, rfl⟩) (covers .ENCn_POS_HI ⟨_, Nat.add_right_comm _ _ _⟩)) (covers .ENCn_MAX_LO ⟨_, rfl⟩)
          (covers .ENCn_MAX_HI ⟨_, Nat.add_right_comm _ _ _⟩)
      clear_value x11
      have h16 : As h0 x15 := keeps_foldl h12 (fun _ _ h17 => (setBit_keeps h17 (covers .ENCn_STAT ⟨_, rfl⟩)))
      clear_value x15
      have h21 : As h0 x20 := keeps_step (keeps_step h16 setCorr_keeps) setEncSt_keeps
      clear_value x20
      have h23 : As h0 x22 := keeps_step h21 setSpeed_keeps
      clear_value x22
      refine keeps_ite ?_ ?_
      · exact keeps_step (keeps_step h23 loopMoved_keeps) judgeLoop_keeps
      · exact h23

theorem execStandstillTimeout_keeps {n : Fin 4} {s : State} :
    ∃ t, execStandstillTimeout n s = .next t ∧ Keeps [.freeCtr, .log, .pos, .br, .pages, .subs, .lastEvents]
    [.POS_EVT0, .ENCn_SPEED, .ENCn_VEL, .ENCn_STAT, .BR_STAT, .BR_RATE, .FAULT_EVT, .FAULT_LOG_WR, .FAULT_LOG_LOST] s
    t := by
  unfold execStandstillTimeout
  have h0 : Keeps [.freeCtr, .log, .pos, .br, .pages, .subs, .lastEvents] [.POS_EVT0, .ENCn_SPEED, .ENCn_VEL,
      .ENCn_STAT, .BR_STAT, .BR_RATE, .FAULT_EVT, .FAULT_LOG_WR, .FAULT_LOG_LOST] s s := keeps_refl
  exact ⟨_, rfl, (by
        extract_lets -useContext +onlyGivenNames x1 x3
        refine keeps_ite ?_ ?_
        · exact h0
        · extract_lets -useContext +onlyGivenNames x5 x7 x9
          have h6 : As h0 x5 := keeps_step h0 setEncSt_keeps
          clear_value x5
          have h8 : As h0 x7 := setBit_keeps (keeps_step h6 setSpeed_keeps) (covers .ENCn_STAT ⟨_, rfl⟩)
          clear_value x7
          have h10 : As h0 x9 := orFld_keeps (setBit_keeps h8 (covers .ENCn_STAT ⟨_, rfl⟩)) (covers .POS_EVT0 rfl)
          clear_value x9
          refine keeps_ite ?_ ?_
          · exact keeps_step h10 judgeLoop_keeps
          · exact h10)⟩

theorem stepRev_keeps {s : State} {n : Nat} {d : Int} :
    Keeps [.log, .pos, .subs, .lastEvents] [.POS_EVT0, .ENCn_REV, .ENCn_STAT, .FAULT_EVT, .FAULT_LOG_WR,
    .FAULT_LOG_LOST] s (State.stepRev s n d) := by
  unfold State.stepRev
  have h0 : Keeps [.log, .pos, .subs, .lastEvents] [.POS_EVT0, .ENCn_REV, .ENCn_STAT, .FAULT_EVT, .FAULT_LOG_WR,
      .FAULT_LOG_LOST] s s := keeps_refl
  extract_lets -useContext +onlyGivenNames x1
  refine keeps_ite ?_ ?_
  · exact h0
  · extract_lets -useContext +onlyGivenNames x3 x5 x7 x9 x11 x13 x15
    have h10 : As h0 x9 := setFld_keeps h0 (covers .ENCn_REV ⟨_, rfl⟩)
    clear_value x9
    have h16 : As h0 x15 := keeps_step h10 setEncSt_keeps
    clear_value x15
    refine keeps_ite ?_ ?_
    · exact keeps_step h16 indexMiss_keeps
    · exact h16

theorem encCount_keeps {s : State} {n : Nat} {a1 : Nat} {back : Bool} :
    Keeps [.freeCtr, .log, .pos, .br, .pages, .subs, .lastEvents] [.POS_EVT0, .ENCn_POS_LO, .ENCn_POS_HI,
    .ENCn_MAX_LO, .ENCn_MAX_HI, .ENCn_REV, .ENCn_SPEED, .ENCn_VEL, .ENCn_STAT, .BR_STAT, .BR_RATE, .FAULT_EVT,
    .FAULT_LOG_WR, .FAULT_LOG_LOST] s (State.encCount s n a1 back) := by
  unfold State.encCount
  have h0 : Keeps [.freeCtr, .log, .pos, .br, .pages, .subs, .lastEvents] [.POS_EVT0, .ENCn_POS_LO, .ENCn_POS_HI,
      .ENCn_MAX_LO, .ENCn_MAX_HI, .ENCn_REV, .ENCn_SPEED, .ENCn_VEL, .ENCn_STAT, .BR_STAT, .BR_RATE, .FAULT_EVT,
      .FAULT_LOG_WR, .FAULT_LOG_LOST] s s := keeps_refl
  extract_lets -useContext +onlyGivenNames x2 x4 x6
  have h5 : As h0 x4 := keeps_step (keeps_step (keeps_step h0 countSpeed_keeps) countDir_keeps) countBlank_keeps
  clear_value x4
  have h7 : As h0 x6 := keeps_step (keeps_step h5 stepRev_keeps) stepPos_keeps
  clear_value x6
  refine keeps_ite ?_ ?_
  · exact keeps_step h7 judgeLoop_keeps
  · exact h7

theorem toothEdge_keeps {s : State} {n : Nat} {back : Bool} :
    Keeps [.freeCtr, .log, .pos, .br, .pages, .subs, .lastEvents] [.POS_EVT0, .ENCn_POS_LO, .ENCn_POS_HI,
    .ENCn_MAX_LO, .ENCn_MAX_HI, .ENCn_REV, .ENCn_SPEED, .ENCn_VEL, .ENCn_STAT, .ENCn_IDXERR, .ENCn_IDXCNT, .BR_STAT,
    .BR_RATE, .FAULT_EVT, .FAULT_LOG_WR, .FAULT_LOG_LOST] s (State.toothEdge s n back) := by
  unfold State.toothEdge
  have h0 : Keeps [.freeCtr, .log, .pos, .br, .pages, .subs, .lastEvents] [.POS_EVT0, .ENCn_POS_LO, .ENCn_POS_HI,
      .ENCn_MAX_LO, .ENCn_MAX_HI, .ENCn_REV, .ENCn_SPEED, .ENCn_VEL, .ENCn_STAT, .ENCn_IDXERR, .ENCn_IDXCNT,
      .BR_STAT, .BR_RATE, .FAULT_EVT, .FAULT_LOG_WR, .FAULT_LOG_LOST] s s := keeps_refl
  extract_lets -useContext +onlyGivenNames x1 x3 x5 x7
  split
  · exact keeps_step (keeps_step h0 setEncSt_keeps) encCount_keeps
  · extract_lets -useContext +onlyGivenNames x9 x11
    refine keeps_ite ?_ ?_
    · extract_lets -useContext +onlyGivenNames x13
      have h14 : As h0 x13 := keeps_step (keeps_step h0 setEncSt_keeps) encCount_keeps
      clear_value x13
      exact keeps_step (keeps_step h14 encCount_keeps) judgeIndex_keeps
    · refine keeps_ite ?_ ?_
      · exact keeps_step (keeps_step h0 setEncSt_keeps) judgeIndex_keeps
      · exact keeps_step (keeps_step h0 setEncSt_keeps) encCount_keeps

theorem driveCmp_keeps {s : State} {j : Nat} {e : Nat} :
    Keeps [.freeCtr, .log, .dma, .granary, .miller, .pos, .cam, .subs, .lastEvents, .records] [.GRANARY_STAT,
    .GRANARY_SR, .POS_EVT1, .CMPj_STAT, .FAULT_EVT, .FAULT_LOG_WR, .FAULT_LOG_LOST, .CAM_EVT, .CAMn_STAT,
    .CAMn_EXP_NOW, .CAMn_GAIN_NOW, .CAMn_FSEQ, .CAMn_CNT_FRAMES, .CAMn_CNT_DROP, .Pp_RES_WR, .Pp_CNT_RESLOST] s
    (State.driveCmp s j e) := by
  unfold State.driveCmp
  have h0 : Keeps [.freeCtr, .log, .dma, .granary, .miller, .pos, .cam, .subs, .lastEvents, .records] [.GRANARY_STAT,
      .GRANARY_SR, .POS_EVT1, .CMPj_STAT, .FAULT_EVT, .FAULT_LOG_WR, .FAULT_LOG_LOST, .CAM_EVT, .CAMn_STAT,
      .CAMn_EXP_NOW, .CAMn_GAIN_NOW, .CAMn_FSEQ, .CAMn_CNT_FRAMES, .CAMn_CNT_DROP, .Pp_RES_WR, .Pp_CNT_RESLOST] s s
      := keeps_refl
  extract_lets -useContext +onlyGivenNames x1 x3 x5 x7 x9 x11
  have h10 : As h0 x9 := keeps_step h0 setCmp_keeps
  clear_value x9
  have h12 : As h0 x11 := keeps_step h10 setLevel_keeps
  clear_value x11
  exact keeps_step (keeps_ite (orFld_keeps h12 (covers .POS_EVT1 rfl)) h12) cmpTriggers_keeps

theorem fireCmp_keeps {s : State} {j : Nat} :
    Keeps [.freeCtr, .log, .dma, .granary, .miller, .pos, .cam, .subs, .lastEvents, .records] [.GRANARY_STAT,
    .GRANARY_SR, .POS_EVT1, .CMPj_STAT, .CMPj_OFF_LO, .CMPj_OFF_HI, .FAULT_EVT, .FAULT_LOG_WR, .FAULT_LOG_LOST,
    .CAM_EVT, .CAMn_STAT, .CAMn_EXP_NOW, .CAMn_GAIN_NOW, .CAMn_FSEQ, .CAMn_CNT_FRAMES, .CAMn_CNT_DROP, .Pp_RES_WR,
    .Pp_CNT_RESLOST] s (State.fireCmp s j) := by
  unfold State.fireCmp
  have h0 : Keeps [.freeCtr, .log, .dma, .granary, .miller, .pos, .cam, .subs, .lastEvents, .records] [.GRANARY_STAT,
      .GRANARY_SR, .POS_EVT1, .CMPj_STAT, .CMPj_OFF_LO, .CMPj_OFF_HI, .FAULT_EVT, .FAULT_LOG_WR, .FAULT_LOG_LOST,
      .CAM_EVT, .CAMn_STAT, .CAMn_EXP_NOW, .CAMn_GAIN_NOW, .CAMn_FSEQ, .CAMn_CNT_FRAMES, .CAMn_CNT_DROP, .Pp_RES_WR,
      .Pp_CNT_RESLOST] s s := keeps_refl
  extract_lets -useContext +onlyGivenNames x1 x3
  have h4 : As h0 x3 := keeps_step (keeps_step h0 driveCmp_keeps) passCmp_keeps
  clear_value x3
  exact keeps_step (keeps_step h4 setCmp_keeps) stopCmp_keeps

theorem reachCmp_keeps {s : State} {j : Nat} {p : Int} :
    Keeps [.freeCtr, .log, .dma, .granary, .miller, .pos, .cam, .subs, .lastEvents, .records] [.GRANARY_STAT,
    .GRANARY_SR, .POS_EVT1, .CMPj_STAT, .CMPj_OFF_LO, .CMPj_OFF_HI, .FAULT_EVT, .FAULT_LOG_WR, .FAULT_LOG_LOST,
    .CAM_EVT, .CAMn_STAT, .CAMn_EXP_NOW, .CAMn_GAIN_NOW, .CAMn_FSEQ, .CAMn_CNT_FRAMES, .CAMn_CNT_DROP, .Pp_RES_WR,
    .Pp_CNT_RESLOST] s (State.reachCmp s j p) := by
  unfold State.reachCmp
  have h0 : Keeps [.freeCtr, .log, .dma, .granary, .miller, .pos, .cam, .subs, .lastEvents, .records] [.GRANARY_STAT,
      .GRANARY_SR, .POS_EVT1, .CMPj_STAT, .CMPj_OFF_LO, .CMPj_OFF_HI, .FAULT_EVT, .FAULT_LOG_WR, .FAULT_LOG_LOST,
      .CAM_EVT, .CAMn_STAT, .CAMn_EXP_NOW, .CAMn_GAIN_NOW, .CAMn_FSEQ, .CAMn_CNT_FRAMES, .CAMn_CNT_DROP, .Pp_RES_WR,
      .Pp_CNT_RESLOST] s s := keeps_refl
  split
  · exact keeps_step h0 setCmp_keeps
  · refine keeps_ite ?_ ?_
    · exact keeps_step (keeps_step h0 fireCmp_keeps) holdCmp_keeps
    · exact h0

theorem encFault_keeps {s : State} {n : Nat} :
    Keeps [.freeCtr, .log, .link, .dma, .pend, .landed, .weaver, .hcs, .br, .cal, .axes, .eth, .pages, .subs,
    .lastEvents, .tones, .nozGain] [.LINK_STAT, .LINK_LANEn_STAT, .DMA_HALT_EVT, .DMA_CHn_STAT, .WEAVER_KERNEL,
    .WEAVER_MASKLINE, .HC_STAT, .HC_EVT, .HC_COMBLINE, .HC_SCAN_PTR, .POS_EVT0, .ENCn_STAT, .BR_CTRL, .BR_STAT,
    .BR_EVT, .BR_RATE, .BR_FMAX, .BR_SNAPLINE, .FAULT_STAT, .FAULT_EVT, .FAULT_LOG_WR, .FAULT_LOG_LOST, .CAL_HCh_NOW,
    .CAL_HCh_STAT, .CLKPWR_STAT, .CLKPWR_EVT] s (State.encFault s n) := by
  unfold State.encFault
  have h0 : Keeps [.freeCtr, .log, .link, .dma, .pend, .landed, .weaver, .hcs, .br, .cal, .axes, .eth, .pages, .subs,
      .lastEvents, .tones, .nozGain] [.LINK_STAT, .LINK_LANEn_STAT, .DMA_HALT_EVT, .DMA_CHn_STAT, .WEAVER_KERNEL,
      .WEAVER_MASKLINE, .HC_STAT, .HC_EVT, .HC_COMBLINE, .HC_SCAN_PTR, .POS_EVT0, .ENCn_STAT, .BR_CTRL, .BR_STAT,
      .BR_EVT, .BR_RATE, .BR_FMAX, .BR_SNAPLINE, .FAULT_STAT, .FAULT_EVT, .FAULT_LOG_WR, .FAULT_LOG_LOST,
      .CAL_HCh_NOW, .CAL_HCh_STAT, .CLKPWR_STAT, .CLKPWR_EVT] s s := keeps_refl
  extract_lets -useContext +onlyGivenNames x1 x3
  have h2 : As h0 x1 := orFld_keeps (setBit_keeps h0 (covers .ENCn_STAT ⟨_, rfl⟩)) (covers .POS_EVT0 rfl)
  clear_value x1
  have h4 : As h0 x3 := keeps_step h2 posLog_keeps
  clear_value x3
  refine keeps_ite ?_ ?_
  · exact keeps_step (keeps_step h4 judgeLoop_keeps) safeStop_keeps
  · exact h4

theorem execComparePulseEnd_keeps {j : Fin 8} {s : State} :
    ∃ t, execComparePulseEnd j s = .next t ∧ Keeps [.freeCtr, .log, .dma, .granary, .miller, .pos, .cam, .subs,
    .lastEvents, .records] [.GRANARY_STAT, .GRANARY_SR, .POS_EVT1, .CMPj_STAT, .CMPj_OFF_LO, .CMPj_OFF_HI,
    .CMPj_LATE, .FAULT_EVT, .FAULT_LOG_WR, .FAULT_LOG_LOST, .CAM_EVT, .CAMn_STAT, .CAMn_EXP_NOW, .CAMn_GAIN_NOW,
    .CAMn_FSEQ, .CAMn_CNT_FRAMES, .CAMn_CNT_DROP, .Pp_RES_WR, .Pp_CNT_RESLOST] s t := by
  unfold execComparePulseEnd
  have h0 : Keeps [.freeCtr, .log, .dma, .granary, .miller, .pos, .cam, .subs, .lastEvents, .records] [.GRANARY_STAT,
      .GRANARY_SR, .POS_EVT1, .CMPj_STAT, .CMPj_OFF_LO, .CMPj_OFF_HI, .CMPj_LATE, .FAULT_EVT, .FAULT_LOG_WR,
      .FAULT_LOG_LOST, .CAM_EVT, .CAMn_STAT, .CAMn_EXP_NOW, .CAMn_GAIN_NOW, .CAMn_FSEQ, .CAMn_CNT_FRAMES,
      .CAMn_CNT_DROP, .Pp_RES_WR, .Pp_CNT_RESLOST] s s := keeps_refl
  exact ⟨_, rfl, (by
        extract_lets -useContext +onlyGivenNames x1 x3 x5
        have h4 : As h0 x3 := by
          unfold x3
          split
          · refine keeps_ite ?_ ?_
            · exact keeps_step (keeps_step (keeps_step h0 setCmp_keeps) setLevel_keeps) stopCmp_keeps
            · exact h0
          · exact h0
        clear_value x3
        split
        · refine keeps_ite ?_ ?_
          · exact h4
          · refine keeps_ite ?_ ?_
            · exact keeps_step (keeps_step (count_keeps h4 (covers .CMPj_LATE ⟨_, rfl⟩)) fireCmp_keeps) holdCmp_keeps
            · exact keeps_step h4 setCmp_keeps
        · exact h4)⟩

theorem comparePos_keeps {s : State} {n : Nat} {old : Int} :
    Keeps [.freeCtr, .log, .dma, .granary, .miller, .pos, .cam, .subs, .lastEvents, .records] [.GRANARY_STAT,
    .GRANARY_SR, .POS_EVT1, .CMPj_STAT, .CMPj_OFF_LO, .CMPj_OFF_HI, .FAULT_EVT, .FAULT_LOG_WR, .FAULT_LOG_LOST,
    .CAM_EVT, .CAMn_STAT, .CAMn_EXP_NOW, .CAMn_GAIN_NOW, .CAMn_FSEQ, .CAMn_CNT_FRAMES, .CAMn_CNT_DROP, .Pp_RES_WR,
    .Pp_CNT_RESLOST] s (State.comparePos s n old) := by
  unfold State.comparePos
  have h0 : Keeps [.freeCtr, .log, .dma, .granary, .miller, .pos, .cam, .subs, .lastEvents, .records] [.GRANARY_STAT,
      .GRANARY_SR, .POS_EVT1, .CMPj_STAT, .CMPj_OFF_LO, .CMPj_OFF_HI, .FAULT_EVT, .FAULT_LOG_WR, .FAULT_LOG_LOST,
      .CAM_EVT, .CAMn_STAT, .CAMn_EXP_NOW, .CAMn_GAIN_NOW, .CAMn_FSEQ, .CAMn_CNT_FRAMES, .CAMn_CNT_DROP, .Pp_RES_WR,
      .Pp_CNT_RESLOST] s s := keeps_refl
  extract_lets -useContext +onlyGivenNames x1
  refine keeps_ite ?_ ?_
  · exact h0
  · exact keeps_foldl h0 (fun _ _ h3 => (keeps_ite (keeps_step h3 reachCmp_keeps) h3))

theorem compareNow_keeps {s : State} {n : Nat} :
    Keeps [.freeCtr, .log, .dma, .granary, .miller, .pos, .cam, .subs, .lastEvents, .records] [.GRANARY_STAT,
    .GRANARY_SR, .POS_EVT1, .CMPj_STAT, .CMPj_OFF_LO, .CMPj_OFF_HI, .FAULT_EVT, .FAULT_LOG_WR, .FAULT_LOG_LOST,
    .CAM_EVT, .CAMn_STAT, .CAMn_EXP_NOW, .CAMn_GAIN_NOW, .CAMn_FSEQ, .CAMn_CNT_FRAMES, .CAMn_CNT_DROP, .Pp_RES_WR,
    .Pp_CNT_RESLOST] s (State.compareNow s n) := by
  unfold State.compareNow
  have h0 : Keeps [.freeCtr, .log, .dma, .granary, .miller, .pos, .cam, .subs, .lastEvents, .records] [.GRANARY_STAT,
      .GRANARY_SR, .POS_EVT1, .CMPj_STAT, .CMPj_OFF_LO, .CMPj_OFF_HI, .FAULT_EVT, .FAULT_LOG_WR, .FAULT_LOG_LOST,
      .CAM_EVT, .CAMn_STAT, .CAMn_EXP_NOW, .CAMn_GAIN_NOW, .CAMn_FSEQ, .CAMn_CNT_FRAMES, .CAMn_CNT_DROP, .Pp_RES_WR,
      .Pp_CNT_RESLOST] s s := keeps_refl
  split
  · exact keeps_step (keeps_step h0 setEncSt_keeps) comparePos_keeps
  · exact h0

theorem execIndex_keeps {n : Fin 4} {z : Bool} {s : State} :
    ∃ t, execIndex n z s = .next t ∧ Keeps [.freeCtr, .log, .dma, .granary, .miller, .pos, .br, .cam, .subs,
    .lastEvents, .records] [.GRANARY_STAT, .GRANARY_SR, .POS_EVT0, .POS_EVT1, .POS_INSTATE, .ENCn_POS_LO,
    .ENCn_POS_HI, .ENCn_MAX_LO, .ENCn_MAX_HI, .ENCn_REV, .ENCn_STAT, .ENCn_IDXERR, .ENCn_IDXCNT, .CMPj_STAT,
    .CMPj_OFF_LO, .CMPj_OFF_HI, .FAULT_EVT, .FAULT_LOG_WR, .FAULT_LOG_LOST, .CAM_EVT, .CAMn_STAT, .CAMn_EXP_NOW,
    .CAMn_GAIN_NOW, .CAMn_FSEQ, .CAMn_CNT_FRAMES, .CAMn_CNT_DROP, .Pp_RES_WR, .Pp_CNT_RESLOST] s t := by
  unfold execIndex
  have h0 : Keeps [.freeCtr, .log, .dma, .granary, .miller, .pos, .br, .cam, .subs, .lastEvents, .records]
      [.GRANARY_STAT, .GRANARY_SR, .POS_EVT0, .POS_EVT1, .POS_INSTATE, .ENCn_POS_LO, .ENCn_POS_HI, .ENCn_MAX_LO,
      .ENCn_MAX_HI, .ENCn_REV, .ENCn_STAT, .ENCn_IDXERR, .ENCn_IDXCNT, .CMPj_STAT, .CMPj_OFF_LO, .CMPj_OFF_HI,
      .FAULT_EVT, .FAULT_LOG_WR, .FAULT_LOG_LOST, .CAM_EVT, .CAMn_STAT, .CAMn_EXP_NOW, .CAMn_GAIN_NOW, .CAMn_FSEQ,
      .CAMn_CNT_FRAMES, .CAMn_CNT_DROP, .Pp_RES_WR, .Pp_CNT_RESLOST] s s := keeps_refl
  exact ⟨_, rfl, (by
        extract_lets -useContext +onlyGivenNames x1 x3 x5 x7 x9 x11
        have h6 : As h0 x5 := keeps_step h0 setEncSt_keeps
        clear_value x5
        have h10 : As h0 x9 := setFld_keeps h6 (covers .POS_INSTATE rfl)
        clear_value x9
        have h12 : As h0 x11 := keeps_ite h10 (keeps_step h10 judgeIndex_keeps)
        clear_value x11
        exact keeps_step h12 compareNow_keeps)⟩

theorem execSsiFrameReceived_keeps {m : Fin 2} {idle : Bool} {bits : List Bool} {high : Bool} {s : State} :
    ∃ t, execSsiFrameReceived m idle bits high s = .next t ∧ Keeps [.freeCtr, .log, .dma, .granary, .miller, .pos,
    .cam, .subs, .lastEvents, .records] [.GRANARY_STAT, .GRANARY_SR, .POS_EVT1, .SSIm_POS_LO, .SSIm_POS_HI,
    .SSIm_TS_LO, .SSIm_TS_HI, .SSIm_STAT, .SSIm_ERRCNT, .CMPj_STAT, .CMPj_OFF_LO, .CMPj_OFF_HI, .FAULT_EVT,
    .FAULT_LOG_WR, .FAULT_LOG_LOST, .CAM_EVT, .CAMn_STAT, .CAMn_EXP_NOW, .CAMn_GAIN_NOW, .CAMn_FSEQ,
    .CAMn_CNT_FRAMES, .CAMn_CNT_DROP, .Pp_RES_WR, .Pp_CNT_RESLOST] s t := by
  unfold execSsiFrameReceived
  have h0 : Keeps [.freeCtr, .log, .dma, .granary, .miller, .pos, .cam, .subs, .lastEvents, .records] [.GRANARY_STAT,
      .GRANARY_SR, .POS_EVT1, .SSIm_POS_LO, .SSIm_POS_HI, .SSIm_TS_LO, .SSIm_TS_HI, .SSIm_STAT, .SSIm_ERRCNT,
      .CMPj_STAT, .CMPj_OFF_LO, .CMPj_OFF_HI, .FAULT_EVT, .FAULT_LOG_WR, .FAULT_LOG_LOST, .CAM_EVT, .CAMn_STAT,
      .CAMn_EXP_NOW, .CAMn_GAIN_NOW, .CAMn_FSEQ, .CAMn_CNT_FRAMES, .CAMn_CNT_DROP, .Pp_RES_WR, .Pp_CNT_RESLOST] s s
      := keeps_refl
  exact ⟨_, rfl, (by
        extract_lets -useContext +onlyGivenNames x1
        split
        · exact h0
        · extract_lets -useContext +onlyGivenNames x3 x5 x7 x9 x11 x13 x15 x17
          have h18 : As h0 x17 := keeps_step h0 drawn_keeps
          clear_value x17
          refine keeps_ite ?_ ?_
          · extract_lets -useContext +onlyGivenNames x19 x21
            have h20 : As h0 x19 := keeps_step h18 setSsi_keeps
            clear_value x19
            have h22 : As h0 x21 := setFld_keeps (count_keeps h20 (covers .SSIm_ERRCNT ⟨_, rfl⟩)) (covers .SSIm_STAT
                ⟨_, rfl⟩)
            clear_value x21
            refine keeps_ite ?_ ?_
            · exact orFld_keeps (setBit_keeps h22 (covers .SSIm_STAT ⟨_, rfl⟩)) (covers .POS_EVT1 rfl)
            · exact h22
          · extract_lets -useContext +onlyGivenNames x23 x25 x27
            have h24 : As h0 x23 := keeps_step h18 setSsi_keeps
            clear_value x23
            have h26 : As h0 x25 := setWide_keeps (setWide_keeps h24 (covers .SSIm_POS_LO ⟨_, rfl⟩) (covers
                .SSIm_POS_HI ⟨_, Nat.add_right_comm _ _ _⟩)) (covers .SSIm_TS_LO ⟨_, rfl⟩) (covers .SSIm_TS_HI ⟨_,
                Nat.add_right_comm _ _ _⟩)
            clear_value x25
            have h28 : As h0 x27 := setFld_keeps (setBit_keeps h26 (covers .SSIm_STAT ⟨_, rfl⟩)) (covers .SSIm_STAT
                ⟨_, rfl⟩)
            clear_value x27
            exact keeps_step h28 comparePos_keeps)⟩

theorem execLossOfSignal_keeps {n : Fin 4} {rx : Fin 3} {s : State} :
    ∃ t, execLossOfSignal n rx s = .next t ∧ Keeps [.freeCtr, .log, .link, .dma, .pend, .landed, .weaver, .hcs, .br,
    .cal, .axes, .eth, .pages, .subs, .lastEvents, .tones, .nozGain] [.LINK_STAT, .LINK_LANEn_STAT, .DMA_HALT_EVT,
    .DMA_CHn_STAT, .WEAVER_KERNEL, .WEAVER_MASKLINE, .HC_STAT, .HC_EVT, .HC_COMBLINE, .HC_SCAN_PTR, .POS_EVT0,
    .ENCn_STAT, .BR_CTRL, .BR_STAT, .BR_EVT, .BR_RATE, .BR_FMAX, .BR_SNAPLINE, .FAULT_STAT, .FAULT_EVT,
    .FAULT_LOG_WR, .FAULT_LOG_LOST, .CAL_HCh_NOW, .CAL_HCh_STAT, .CLKPWR_STAT, .CLKPWR_EVT] s t := by
  unfold execLossOfSignal
  have h0 : Keeps [.freeCtr, .log, .link, .dma, .pend, .landed, .weaver, .hcs, .br, .cal, .axes, .eth, .pages, .subs,
      .lastEvents, .tones, .nozGain] [.LINK_STAT, .LINK_LANEn_STAT, .DMA_HALT_EVT, .DMA_CHn_STAT, .WEAVER_KERNEL,
      .WEAVER_MASKLINE, .HC_STAT, .HC_EVT, .HC_COMBLINE, .HC_SCAN_PTR, .POS_EVT0, .ENCn_STAT, .BR_CTRL, .BR_STAT,
      .BR_EVT, .BR_RATE, .BR_FMAX, .BR_SNAPLINE, .FAULT_STAT, .FAULT_EVT, .FAULT_LOG_WR, .FAULT_LOG_LOST,
      .CAL_HCh_NOW, .CAL_HCh_STAT, .CLKPWR_STAT, .CLKPWR_EVT] s s := keeps_refl
  exact ⟨_, rfl, (keeps_ite (keeps_step h0 encFault_keeps) h0)⟩

theorem illegal_keeps {s : State} {n : Nat} :
    Keeps [.freeCtr, .log, .link, .dma, .pend, .landed, .weaver, .hcs, .pos, .br, .cal, .axes, .eth, .pages, .subs,
    .lastEvents, .tones, .nozGain] [.LINK_STAT, .LINK_LANEn_STAT, .DMA_HALT_EVT, .DMA_CHn_STAT, .WEAVER_KERNEL,
    .WEAVER_MASKLINE, .HC_STAT, .HC_EVT, .HC_COMBLINE, .HC_SCAN_PTR, .POS_EVT0, .ENCn_STAT, .ENCn_QERR, .BR_CTRL,
    .BR_STAT, .BR_EVT, .BR_RATE, .BR_FMAX, .BR_SNAPLINE, .FAULT_STAT, .FAULT_EVT, .FAULT_LOG_WR, .FAULT_LOG_LOST,
    .CAL_HCh_NOW, .CAL_HCh_STAT, .CLKPWR_STAT, .CLKPWR_EVT] s (State.illegal s n) := by
  unfold State.illegal
  have h0 : Keeps [.freeCtr, .log, .link, .dma, .pend, .landed, .weaver, .hcs, .pos, .br, .cal, .axes, .eth, .pages,
      .subs, .lastEvents, .tones, .nozGain] [.LINK_STAT, .LINK_LANEn_STAT, .DMA_HALT_EVT, .DMA_CHn_STAT,
      .WEAVER_KERNEL, .WEAVER_MASKLINE, .HC_STAT, .HC_EVT, .HC_COMBLINE, .HC_SCAN_PTR, .POS_EVT0, .ENCn_STAT,
      .ENCn_QERR, .BR_CTRL, .BR_STAT, .BR_EVT, .BR_RATE, .BR_FMAX, .BR_SNAPLINE, .FAULT_STAT, .FAULT_EVT,
      .FAULT_LOG_WR, .FAULT_LOG_LOST, .CAL_HCh_NOW, .CAL_HCh_STAT, .CLKPWR_STAT, .CLKPWR_EVT] s s := keeps_refl
  extract_lets -useContext +onlyGivenNames x1 x3 x5 x7 x9 x11 x13 x15 x17
  have h2 : As h0 x1 := keeps_step (count_keeps h0 (covers .ENCn_QERR ⟨_, rfl⟩)) posLog_keeps
  clear_value x1
  have h18 : As h0 x17 := keeps_step h2 setEncSt_keeps
  clear_value x17
  refine keeps_ite ?_ ?_
  · exact keeps_step h18 encFault_keeps
  · exact h18

theorem execIndexCorrectionCount_keeps {s : State} :
    ∃ t, execIndexCorrectionCount s = .next t ∧ Keeps [.freeCtr, .log, .dma, .granary, .miller, .pos, .br, .cam,
    .subs, .lastEvents, .records] [.GRANARY_STAT, .GRANARY_SR, .POS_EVT1, .ENCn_POS_LO, .ENCn_POS_HI, .ENCn_MAX_LO,
    .ENCn_MAX_HI, .ENCn_STAT, .CMPj_STAT, .CMPj_OFF_LO, .CMPj_OFF_HI, .FAULT_EVT, .FAULT_LOG_WR, .FAULT_LOG_LOST,
    .CAM_EVT, .CAMn_STAT, .CAMn_EXP_NOW, .CAMn_GAIN_NOW, .CAMn_FSEQ, .CAMn_CNT_FRAMES, .CAMn_CNT_DROP, .Pp_RES_WR,
    .Pp_CNT_RESLOST] s t := by
  unfold execIndexCorrectionCount
  have h0 : Keeps [.freeCtr, .log, .dma, .granary, .miller, .pos, .br, .cam, .subs, .lastEvents, .records]
      [.GRANARY_STAT, .GRANARY_SR, .POS_EVT1, .ENCn_POS_LO, .ENCn_POS_HI, .ENCn_MAX_LO, .ENCn_MAX_HI, .ENCn_STAT,
      .CMPj_STAT, .CMPj_OFF_LO, .CMPj_OFF_HI, .FAULT_EVT, .FAULT_LOG_WR, .FAULT_LOG_LOST, .CAM_EVT, .CAMn_STAT,
      .CAMn_EXP_NOW, .CAMn_GAIN_NOW, .CAMn_FSEQ, .CAMn_CNT_FRAMES, .CAMn_CNT_DROP, .Pp_RES_WR, .Pp_CNT_RESLOST] s s
      := keeps_refl
  exact ⟨_, rfl, (by
        extract_lets -useContext +onlyGivenNames x1 x3
        refine keeps_ite ?_ ?_
        · exact h0
        · extract_lets -useContext +onlyGivenNames x5 x7
          have h8 : As h0 x7 := keeps_step (keeps_step h0 setEncSt_keeps) setCorr_keeps
          clear_value x7
          exact keeps_step (keeps_step h8 stepPos_keeps) compareNow_keeps)⟩

theorem encEdge_keeps {s : State} {n : Nat} {a1 : EncSt} {a : Bool} {b : Bool} :
    Keeps [.freeCtr, .log, .link, .dma, .pend, .landed, .weaver, .hcs, .pos, .br, .cal, .axes, .eth, .pages, .subs,
    .lastEvents, .tones, .nozGain] ([.LINK_STAT, .LINK_LANEn_STAT, .DMA_HALT_EVT, .DMA_CHn_STAT, .WEAVER_KERNEL,
    .WEAVER_MASKLINE, .HC_STAT, .HC_EVT, .HC_COMBLINE, .HC_SCAN_PTR, .POS_EVT0, .ENCn_POS_LO, .ENCn_POS_HI,
    .ENCn_MAX_LO, .ENCn_MAX_HI, .ENCn_REV, .ENCn_SPEED, .ENCn_VEL, .ENCn_STAT, .ENCn_IDXERR, .ENCn_QERR,
    .ENCn_IDXCNT, .BR_CTRL, .BR_STAT, .BR_EVT, .BR_RATE, .BR_FMAX, .BR_SNAPLINE, .FAULT_STAT, .FAULT_EVT] ++
    [.FAULT_LOG_WR, .FAULT_LOG_LOST, .CAL_HCh_NOW, .CAL_HCh_STAT, .CLKPWR_STAT, .CLKPWR_EVT]) s (State.encEdge s n a1
    a b) := by
  unfold State.encEdge
  have h0 : Keeps [.freeCtr, .log, .link, .dma, .pend, .landed, .weaver, .hcs, .pos, .br, .cal, .axes, .eth, .pages,
      .subs, .lastEvents, .tones, .nozGain] ([.LINK_STAT, .LINK_LANEn_STAT, .DMA_HALT_EVT, .DMA_CHn_STAT,
      .WEAVER_KERNEL, .WEAVER_MASKLINE, .HC_STAT, .HC_EVT, .HC_COMBLINE, .HC_SCAN_PTR, .POS_EVT0, .ENCn_POS_LO,
      .ENCn_POS_HI, .ENCn_MAX_LO, .ENCn_MAX_HI, .ENCn_REV, .ENCn_SPEED, .ENCn_VEL, .ENCn_STAT, .ENCn_IDXERR,
      .ENCn_QERR, .ENCn_IDXCNT, .BR_CTRL, .BR_STAT, .BR_EVT, .BR_RATE, .BR_FMAX, .BR_SNAPLINE, .FAULT_STAT,
      .FAULT_EVT] ++ [.FAULT_LOG_WR, .FAULT_LOG_LOST, .CAL_HCh_NOW, .CAL_HCh_STAT, .CLKPWR_STAT, .CLKPWR_EVT]) s s :=
      keeps_refl
  extract_lets -useContext +onlyGivenNames x2 x4 x6 x8 x10 x12 x14 x16
  refine keeps_ite ?_ ?_
  · refine keeps_ite ?_ ?_
    · exact keeps_step h0 illegal_keeps
    · split
      · exact keeps_step h0 encCount_keeps
      · exact h0
  · refine keeps_ite ?_ ?_
    · refine keeps_ite ?_ ?_
      · exact keeps_step h0 encCount_keeps
      · exact h0
    · refine keeps_ite ?_ ?_
      · refine keeps_ite ?_ ?_
        · exact keeps_step h0 toothEdge_keeps
        · exact h0
      · exact h0

theorem execEncoderCount_keeps {n : Fin 4} {a : Bool} {b : Bool} {s : State} :
    ∃ t, execEncoderCount n a b s = .next t ∧ Keeps [.freeCtr, .log, .link, .dma, .granary, .miller, .pend, .landed,
    .weaver, .hcs, .pos, .br, .cam, .cal, .axes, .eth, .pages, .subs, .lastEvents, .records, .tones, .nozGain]
    ([.LINK_STAT, .LINK_LANEn_STAT, .DMA_HALT_EVT, .DMA_CHn_STAT, .GRANARY_STAT, .GRANARY_SR, .WEAVER_KERNEL,
    .WEAVER_MASKLINE, .HC_STAT, .HC_EVT, .HC_COMBLINE, .HC_SCAN_PTR, .POS_EVT0, .POS_EVT1, .ENCn_POS_LO,
    .ENCn_POS_HI, .ENCn_MAX_LO, .ENCn_MAX_HI, .ENCn_REV, .ENCn_SPEED, .ENCn_VEL, .ENCn_STAT, .ENCn_IDXERR,
    .ENCn_QERR, .ENCn_IDXCNT, .CMPj_STAT, .CMPj_OFF_LO, .CMPj_OFF_HI, .BR_CTRL, .BR_STAT] ++ [.BR_EVT, .BR_RATE,
    .BR_FMAX, .BR_SNAPLINE, .FAULT_STAT, .FAULT_EVT, .FAULT_LOG_WR, .FAULT_LOG_LOST, .CAM_EVT, .CAMn_STAT,
    .CAMn_EXP_NOW, .CAMn_GAIN_NOW, .CAMn_FSEQ, .CAMn_CNT_FRAMES, .CAMn_CNT_DROP, .Pp_RES_WR, .Pp_CNT_RESLOST,
    .CAL_HCh_NOW, .CAL_HCh_STAT, .CLKPWR_STAT, .CLKPWR_EVT]) s t := by
  unfold execEncoderCount
  have h0 : Keeps [.freeCtr, .log, .link, .dma, .granary, .miller, .pend, .landed, .weaver, .hcs, .pos, .br, .cam,
      .cal, .axes, .eth, .pages, .subs, .lastEvents, .records, .tones, .nozGain] ([.LINK_STAT, .LINK_LANEn_STAT,
      .DMA_HALT_EVT, .DMA_CHn_STAT, .GRANARY_STAT, .GRANARY_SR, .WEAVER_KERNEL, .WEAVER_MASKLINE, .HC_STAT, .HC_EVT,
      .HC_COMBLINE, .HC_SCAN_PTR, .POS_EVT0, .POS_EVT1, .ENCn_POS_LO, .ENCn_POS_HI, .ENCn_MAX_LO, .ENCn_MAX_HI,
      .ENCn_REV, .ENCn_SPEED, .ENCn_VEL, .ENCn_STAT, .ENCn_IDXERR, .ENCn_QERR, .ENCn_IDXCNT, .CMPj_STAT,
      .CMPj_OFF_LO, .CMPj_OFF_HI, .BR_CTRL, .BR_STAT] ++ [.BR_EVT, .BR_RATE, .BR_FMAX, .BR_SNAPLINE, .FAULT_STAT,
      .FAULT_EVT, .FAULT_LOG_WR, .FAULT_LOG_LOST, .CAM_EVT, .CAMn_STAT, .CAMn_EXP_NOW, .CAMn_GAIN_NOW, .CAMn_FSEQ,
      .CAMn_CNT_FRAMES, .CAMn_CNT_DROP, .Pp_RES_WR, .Pp_CNT_RESLOST, .CAL_HCh_NOW, .CAL_HCh_STAT, .CLKPWR_STAT,
      .CLKPWR_EVT]) s s := keeps_refl
  exact ⟨_, rfl, (by
        extract_lets -useContext +onlyGivenNames x1 x3
        have h4 : As h0 x3 := keeps_step h0 setEncSt_keeps
        clear_value x3
        refine keeps_ite ?_ ?_
        · exact h4
        · extract_lets -useContext +onlyGivenNames x5
          have h6 : As h0 x5 := keeps_step h4 encEdge_keeps
          clear_value x5
          refine keeps_ite ?_ ?_
          · exact h6
          · exact keeps_step h6 compareNow_keeps)⟩

end Sys2Proof.Laws
end

