-- ==== Sys2Proof/Laws/KeepsBellringer.lean ====
section
/-! SUPPORT. What each operation of Machine/Bellringer.lean may change (`Keeps`): the parts of the state and the rows of registers. -/

set_option Elab.async false

namespace Sys2Proof.Laws

open Sys2Proof.Machine

theorem noteBand_keeps {s : State} {a1 : Nat} {a2 : Nat} {l : Nat} :
    Keeps [.cam] [] s (State.noteBand s a1 a2 l) := by
  unfold State.noteBand
  have h0 : Keeps [.cam] [] s s := keeps_refl
  split
  · refine keeps_ite ?_ ?_
    · extract_lets -useContext +onlyGivenNames x3 x5 x7 x9
      exact keeps_cam h0 _
    · exact h0
  · exact h0

theorem settleReadmit_keeps {s : State} :
    Keeps [.hcs] [] s (State.settleReadmit s) := by
  unfold State.settleReadmit
  have h0 : Keeps [.hcs] [] s s := keeps_refl
  exact keeps_foldl h0 (fun _ _ h1 => (by
        split
        · refine keeps_ite ?_ ?_
          · exact keeps_step h1 setHc_keeps
          · exact h1
        · exact h1))

theorem dropLine_keeps {s : State} {l : Nat} :
    Keeps [.hcs] [] s (State.dropLine s l) := by
  unfold State.dropLine
  have h0 : Keeps [.hcs] [] s s := keeps_refl
  exact keeps_foldl h0 (fun _ _ h1 => (keeps_ite h1 (by
        extract_lets -useContext +onlyGivenNames x2 x4 x6 x8 x11
        have h9 : As h0 x8 := keeps_foldl h1 (fun _ _ h10 => (keeps_step h10 forget_keeps))
        clear_value x8
        exact keeps_step h9 setHc_keeps)))

theorem startPages_keeps {s : State} :
    Keeps [.br, .pages] [] s (State.startPages s) := by
  unfold State.startPages
  have h0 : Keeps [.br, .pages] [] s s := keeps_refl
  split
  · rename State => t1
    have h3 : As h0 t1 := keeps_of_1 (by assumption) (keeps_foldl_fst h0 (fun _ _ h4 => (by
          split
          · extract_lets -useContext +onlyGivenNames x8
            exact keeps_step h4 setPage_keeps)))
    exact keeps_br h3 _

theorem applyRatio_keeps {s : State} :
    Keeps [.eth] [.BR_NUM, .BR_DEN] s (State.applyRatio s) := by
  unfold State.applyRatio
  have h0 : Keeps [.eth] [.BR_NUM, .BR_DEN] s s := keeps_refl
  split
  · extract_lets -useContext +onlyGivenNames x1
    have h2 : As h0 x1 := keeps_setReg (keeps_setReg h0 (covers .BR_NUM rfl)) (covers .BR_DEN rfl)
    clear_value x1
    exact keeps_eth h2 _
  · exact h0

theorem showLadder_keeps {s : State} :
    Keeps [] [.CAM_LAD_NEXT] s (State.showLadder s) := by
  unfold State.showLadder
  have h0 : Keeps [] [.CAM_LAD_NEXT] s s := keeps_refl
  extract_lets -useContext +onlyGivenNames x1 x3
  exact keeps_setReg h0 (covers .CAM_LAD_NEXT rfl)

theorem fillGrid_keeps {s : State} {l : Nat} :
    Keeps [.br] [] s (State.fillGrid s l) := by
  unfold State.fillGrid
  have h0 : Keeps [.br] [] s s := keeps_refl
  split
  · exact h0
  · extract_lets -useContext +onlyGivenNames x1
    exact keeps_br h0 _

theorem noteUnfit_keeps {s : State} {a1 : Nat} {l : Nat} :
    Keeps [.pages] [] s (State.noteUnfit s a1 l) := by
  unfold State.noteUnfit
  have h0 : Keeps [.pages] [] s s := keeps_refl
  refine keeps_ite ?_ ?_
  · exact h0
  · split
    · refine keeps_ite ?_ ?_
      · exact h0
      · exact keeps_step h0 setPage_keeps
    · exact h0

theorem pruneGrid_keeps {s : State} :
    Keeps [.br] [] s (State.pruneGrid s) := by
  unfold State.pruneGrid
  have h0 : Keeps [.br] [] s s := keeps_refl
  extract_lets -useContext +onlyGivenNames x1 x3
  exact keeps_br h0 _

theorem startHamlets_keeps {s : State} {first : Nat} :
    Keeps [.weaver] [] s (State.startHamlets s first) := by
  unfold State.startHamlets
  have h0 : Keeps [.weaver] [] s s := keeps_refl
  exact keeps_foldl h0 (fun _ _ h1 => (keeps_step h1 setHam_keeps))

theorem designate_keeps {s : State} {llast : Nat} :
    Keeps [.br] [.CAM_LAD_NEXT] s (State.designate s llast) := by
  unfold State.designate
  have h0 : Keeps [.br] [.CAM_LAD_NEXT] s s := keeps_refl
  extract_lets -useContext +onlyGivenNames x1 x3 x5 x7
  have h8 : As h0 x7 := keeps_br h0 _
  refine keeps_ite ?_ ?_
  · exact h8
  · extract_lets -useContext +onlyGivenNames x9 x11 x13
    exact keeps_step (keeps_br h8 _) showLadder_keeps

theorem noteLead_keeps {s : State} {a1 : Nat} {a2 : Nat} :
    Keeps [] [.HAM_LEADDEF] s (State.noteLead s a1 a2) := by
  unfold State.noteLead
  have h0 : Keeps [] [.HAM_LEADDEF] s s := keeps_refl
  extract_lets -useContext +onlyGivenNames x3
  refine keeps_ite ?_ ?_
  · extract_lets -useContext +onlyGivenNames x5 x7
    refine keeps_ite ?_ ?_
    · exact setFld_keeps h0 (covers .HAM_LEADDEF ⟨_, rfl⟩)
    · exact h0
  · exact h0

theorem setDepthEvt_keeps {s : State} {l : List Nat} :
    Keeps [] [.WEAVER_EVT] s (State.setDepthEvt s l) := by
  unfold State.setDepthEvt
  have h0 : Keeps [] [.WEAVER_EVT] s s := keeps_refl
  exact keeps_foldl h0 (fun _ _ h1 => (setBit_keeps h1 (covers .WEAVER_EVT ⟨_, rfl⟩)))

theorem rejectMark_keeps {s : State} :
    Keeps [] [.BR_EVT, .BR_CNT_MARKREJ] s (State.rejectMark s) := by
  unfold State.rejectMark
  have h0 : Keeps [] [.BR_EVT, .BR_CNT_MARKREJ] s s := keeps_refl
  exact count_keeps (setBit_keeps h0 (covers .BR_EVT rfl)) (covers .BR_CNT_MARKREJ rfl)

theorem settleLead_keeps {s : State} {l : Nat} :
    Keeps [.pend, .landed] [.HAM_LEAD] s (State.settleLead s l) := by
  unfold State.settleLead
  have h0 : Keeps [.pend, .landed] [.HAM_LEAD] s s := keeps_refl
  exact keeps_foldl h0 (fun _ _ h1 => (settlePend_keeps h1 (covers_one (covers .HAM_LEAD ⟨_, rfl⟩))))

theorem judgePageLine_keeps {s : State} {n : Nat} {l : Nat} :
    Keeps [.freeCtr, .pages, .subs, .lastEvents] [.BR_STRETCHSUM] s (State.judgePageLine s n l) := by
  unfold State.judgePageLine
  have h0 : Keeps [.freeCtr, .pages, .subs, .lastEvents] [.BR_STRETCHSUM] s s := keeps_refl
  split
  · exact h0
  · extract_lets -useContext +onlyGivenNames x1
    have h2 : As h0 x1 := keeps_ite (keeps_step h0 flagPage_keeps) h0
    clear_value x1
    refine keeps_ite ?_ ?_
    · exact h2
    · extract_lets -useContext +onlyGivenNames x3 x5
      exact keeps_setReg (keeps_step h2 setPage_keeps) (covers .BR_STRETCHSUM rfl)

theorem fixPage_keeps {s : State} {n : Nat} {lc : Nat} {prep : Nat} :
    Keeps [.freeCtr, .br, .pages, .subs, .lastEvents] [.BR_EVT, .CAM_LAD_NEXT] s (State.fixPage s n lc prep) := by
  unfold State.fixPage
  have h0 : Keeps [.freeCtr, .br, .pages, .subs, .lastEvents] [.BR_EVT, .CAM_LAD_NEXT] s s := keeps_refl
  extract_lets -useContext +onlyGivenNames x1 x3 x5 x7 x9 x11 x13 x15
  have h10 : As h0 x9 := keeps_step h0 setPage_keeps
  clear_value x9
  have h14 : As h0 x13 := keeps_br h10 _
  have h16 : As h0 x15 := keeps_ite (keeps_step (setBit_keeps h14 (covers .BR_EVT rfl)) flagPage_keeps) h14
  clear_value x15
  exact keeps_step h16 designate_keeps

theorem startRows_keeps {s : State} {first : Nat} :
    Keeps [.hcs] [.BR_ROWU_NEXT, .BR_ROWD_NEXT] s (State.startRows s first) := by
  unfold State.startRows
  have h0 : Keeps [.hcs] [.BR_ROWU_NEXT, .BR_ROWD_NEXT] s s := keeps_refl
  exact keeps_foldl h0 (fun _ _ h1 => (keeps_ite h1 (keeps_foldl (keeps_step h1 setHc_keeps) (fun _ _ h2 =>
      (keeps_step (keeps_setReg h2 (covers_rowNext (covers .BR_ROWU_NEXT ⟨_, rfl⟩) (covers .BR_ROWD_NEXT ⟨_, rfl⟩)))
      setRow_keeps)))))

theorem judgePage_keeps {s : State} {l : Nat} {n : Nat} :
    Keeps [.freeCtr, .pages, .subs, .lastEvents] [.BR_EVT, .BR_STRETCHSUM] s (State.judgePage s l n) := by
  unfold State.judgePage
  have h0 : Keeps [.freeCtr, .pages, .subs, .lastEvents] [.BR_EVT, .BR_STRETCHSUM] s s := keeps_refl
  extract_lets -useContext +onlyGivenNames x1
  refine keeps_ite ?_ ?_
  · exact h0
  · extract_lets -useContext +onlyGivenNames x3 x5 x7 x9
    have h6 : As h0 x5 := setBit_keeps (keeps_setReg h0 (covers .BR_STRETCHSUM rfl)) (covers .BR_EVT rfl)
    clear_value x5
    have h8 : As h0 x7 := keeps_ite (keeps_step (keeps_step h6 setPage_keeps) notify_keeps) h0
    clear_value x7
    have h10 : As h0 x9 := keeps_foldl h8 (fun _ _ h11 => (keeps_step h11 judgePageLine_keeps))
    clear_value x9
    exact keeps_step h10 setPage_keeps

theorem advancePages_keeps {a1 : Nat} {a2 : Nat} {a3 : State} :
    Keeps [.freeCtr, .br, .pages, .subs, .lastEvents] [.BR_EVT, .CAM_LAD_NEXT] a3 (State.advancePages a1 a2 a3) := by
  induction a1 generalizing a2 a3 with
  | zero => unfold State.advancePages; exact keeps_refl
  | succ a1 ih =>
    unfold State.advancePages
    have h0 : Keeps [.freeCtr, .br, .pages, .subs, .lastEvents] [.BR_EVT, .CAM_LAD_NEXT] a3 a3 := keeps_refl
    split
    · exact h0
    · extract_lets -useContext +onlyGivenNames x4 x6
      refine keeps_ite ?_ ?_
      · exact h0
      · extract_lets -useContext +onlyGivenNames x8 x10
        exact keeps_step (keeps_step h0 fixPage_keeps) ih

theorem settleStretch_keeps {s : State} {l : Nat} :
    Keeps [.pend, .landed] [.BR_STRETCH, .BR_FMAX, .BR_HLIMIT] s (State.settleStretch s l) := by
  unfold State.settleStretch
  have h0 : Keeps [.pend, .landed] [.BR_STRETCH, .BR_FMAX, .BR_HLIMIT] s s := keeps_refl
  extract_lets -useContext +onlyGivenNames x1
  refine keeps_ite ?_ ?_
  · exact keeps_step (settlePend_keeps h0 (covers_one (covers .BR_STRETCH rfl))) refreshLimits_keeps
  · exact h0

theorem landPend_keeps {s : State} {p : PendVal} :
    Keeps [.freeCtr, .pos, .cam, .mot] [.any] s (State.landPend s p) := by
  unfold State.landPend
  have h0 : Keeps [.freeCtr, .pos, .cam, .mot] [.any] s s := keeps_refl
  refine keeps_ite ?_ ?_
  · exact keeps_mot h0 _
  · extract_lets -useContext +onlyGivenNames x1
    split
    · exact keeps_step h0 cmpCtrlWrite_keeps
    · extract_lets -useContext +onlyGivenNames x3 x5
      have h4 : As h0 x3 := keeps_setReg h0 (covers .any trivial)
      clear_value x3
      have h6 : As h0 x5 := by
        unfold x5
        split
        · exact keeps_step h4 setSpeed_keeps
        · exact h4
      clear_value x5
      split
      · exact keeps_step h6 exposureCommit_keeps
      · exact h6

theorem placeNext_keeps {s : State} {l : Nat} :
    Keeps [.log, .hcs, .br, .cam, .subs, .lastEvents] [.BR_STAT, .BR_EVT, .BR_CNT_STRETCH, .BR_CNT_OVSBLANK,
    .FAULT_EVT, .FAULT_LOG_WR, .FAULT_LOG_LOST, .CAM_EVT, .Pp_STAT] s (State.placeNext s l) := by
  unfold State.placeNext
  have h0 : Keeps [.log, .hcs, .br, .cam, .subs, .lastEvents] [.BR_STAT, .BR_EVT, .BR_CNT_STRETCH, .BR_CNT_OVSBLANK,
      .FAULT_EVT, .FAULT_LOG_WR, .FAULT_LOG_LOST, .CAM_EVT, .Pp_STAT] s s := keeps_refl
  extract_lets -useContext +onlyGivenNames x1 x3
  split
  · extract_lets -useContext +onlyGivenNames x5 x7 x9 x11 x13 x15 x17 x19
    have h10 : As h0 x9 := keeps_br h0 _
    have h12 : As h0 x11 := setFld_keeps h10 (covers .BR_STAT rfl)
    clear_value x11
    have h14 : As h0 x13 := count_keeps (setBit_keeps h12 (covers .BR_EVT rfl)) (covers .BR_CNT_OVSBLANK rfl)
    clear_value x13
    have h16 : As h0 x15 := keeps_ite (count_keeps (setBit_keeps h12 (covers .BR_EVT rfl)) (covers .BR_CNT_STRETCH
        rfl)) (keeps_ite (keeps_step (keeps_ite h14 (keeps_step h14 brLog_keeps)) dropLine_keeps) h12)
    clear_value x15
    have h20 : As h0 x19 := keeps_br h16 _
    refine keeps_ite ?_ ?_
    · exact keeps_step h20 pushMap_keeps
    · exact h20

theorem rowFired_keeps {s : State} {a1 : Nat} {a2 : Nat} {l : Nat} :
    Keeps [.freeCtr, .pend, .landed, .hcs, .cam, .cal, .pages, .subs, .lastEvents, .nozWet] [.HC_STAT, .BR_STAT,
    .BR_EVT, .BR_STRETCH, .BR_FMAX, .BR_SNAPLINE, .BR_ROWU, .BR_ROWD, .BR_HLIMIT, .BR_ROWU_NEXT, .BR_ROWD_NEXT,
    .HAM_LEADDEF, .FAULT_STAT, .CAL_HCh_NOW, .CAL_HCh_STAT] s (State.rowFired s a1 a2 l) := by
  unfold State.rowFired
  have h0 : Keeps [.freeCtr, .pend, .landed, .hcs, .cam, .cal, .pages, .subs, .lastEvents, .nozWet] [.HC_STAT,
      .BR_STAT, .BR_EVT, .BR_STRETCH, .BR_FMAX, .BR_SNAPLINE, .BR_ROWU, .BR_ROWD, .BR_HLIMIT, .BR_ROWU_NEXT,
      .BR_ROWD_NEXT, .HAM_LEADDEF, .FAULT_STAT, .CAL_HCh_NOW, .CAL_HCh_STAT] s s := keeps_refl
  extract_lets -useContext +onlyGivenNames x3 x5 x7 x9 x11 x13 x15
  have h4 : As h0 x3 := keeps_ite h0 (keeps_step h0 keepwetRow_keeps)
  clear_value x3
  have h6 : As h0 x5 := keeps_ite (keeps_step h4 setHcState_keeps) h4
  clear_value x5
  have h10 : As h0 x9 := keeps_ite (keeps_step h6 setRow_keeps) h6
  clear_value x9
  have h12 : As h0 x11 := keeps_step (keeps_step h10 noteUnfit_keeps) noteBand_keeps
  clear_value x11
  have h14 : As h0 x13 := keeps_setReg h12 (covers_rowNext (covers .BR_ROWU_NEXT ⟨_, rfl⟩) (covers .BR_ROWD_NEXT ⟨_,
      rfl⟩))
  clear_value x13
  have h16 : As h0 x15 := keeps_ite (keeps_step (keeps_step (settlePend_keeps h14 (covers_one (covers_row (covers
      .BR_ROWU ⟨_, rfl⟩) (covers .BR_ROWD ⟨_, rfl⟩)))) refreshLimits_keeps) refreshDatum_keeps) h14
  clear_value x15
  exact keeps_step (keeps_step (keeps_step (keeps_step (keeps_step h16 settleStretch_keeps) noteLead_keeps)
      settleReadmit_keeps) endPages_keeps) showSnap_keeps

theorem leadWrite_keeps {s : State} {a1 : Requester} {v : Word} :
    Keeps [.resp, .log, .subs, .lastEvents] [.WEAVER_EVT, .HAM_LEAD, .FAULT_EVT, .FAULT_LOG_WR, .FAULT_LOG_LOST] s
    (State.leadWrite s a1 v) := by
  unfold State.leadWrite
  have h0 : Keeps [.resp, .log, .subs, .lastEvents] [.WEAVER_EVT, .HAM_LEAD, .FAULT_EVT, .FAULT_LOG_WR,
      .FAULT_LOG_LOST] s s := keeps_refl
  extract_lets -useContext +onlyGivenNames x2
  refine keeps_ite ?_ ?_
  · exact keeps_step h0 refuse_keeps
  · refine keeps_ite ?_ ?_
    · exact keeps_step h0 refuse_keeps
    · extract_lets -useContext +onlyGivenNames x4
      refine keeps_ite ?_ ?_
      · exact keeps_step (keeps_foldl h0 (fun _ _ h6 => (setFld_keeps h6 (covers .HAM_LEAD ⟨_, rfl⟩)))) written_keeps
      · exact keeps_step (keeps_step h0 setDepthEvt_keeps) refuse_keeps

theorem settleDatum_keeps {s : State} {l : Nat} :
    Keeps [.freeCtr, .pend, .landed, .pos, .cam, .mot] [.datumSettings, .ENCn_SPEED, .ENCn_VEL, .CMPj_CTRL, .CMPj_STAT] s
      (State.settleDatum s l) := by
  unfold State.settleDatum
  have h0 : Keeps [.freeCtr, .pend, .landed, .pos, .cam, .mot] [.datumSettings, .ENCn_SPEED, .ENCn_VEL, .CMPj_CTRL, .CMPj_STAT] s s :=
    keeps_refl
  extract_lets -useContext +onlyGivenNames x1
  refine keeps_ite ?_ h0
  extract_lets -useContext +onlyGivenNames x3
  have h4 : As h0 x3 := by
    refine keeps_foldl_mem h0 (fun s p hp h => ?_)
    have hd : datumSetting p.addr = true := by
      have := (List.mem_filter.mp hp).2
      simp only [x1, Bool.and_eq_true] at this
      exact this.1
    have h1 : As h0 (s.noteLanded p) := keeps_step h noteLanded_keeps
    unfold State.landPend
    refine keeps_ite (keeps_mot h1 _) ?_
    extract_lets -useContext +onlyGivenNames x5
    split
    · exact keeps_step h1 cmpCtrlWrite_keeps
    · extract_lets -useContext +onlyGivenNames x7 x9
      have h8 : As h0 x7 := keeps_setReg h1 (covers .datumSettings hd)
      clear_value x7
      have h10 : As h0 x9 := by
        unfold x9
        split
        · exact keeps_step h8 setSpeed_keeps
        · exact h8
      clear_value x9
      split
      · exact keeps_step h10 exposureCommit_keeps
      · exact h10
  clear_value x3
  exact keeps_pend h4 _

theorem pageAtDatum_keeps {s : State} {l : Nat} :
    Keeps [.freeCtr, .pages, .subs, .lastEvents] [.BR_STAT, .BR_EVT, .BR_STRETCHSUM] s (State.pageAtDatum s l) := by
  unfold State.pageAtDatum
  have h0 : Keeps [.freeCtr, .pages, .subs, .lastEvents] [.BR_STAT, .BR_EVT, .BR_STRETCHSUM] s s := keeps_refl
  extract_lets -useContext +onlyGivenNames x1
  have h2 : As h0 x1 := keeps_foldl h0 (fun _ _ h3 => (keeps_step h3 judgePage_keeps))
  clear_value x1
  split
  · exact setBit_keeps h2 (covers .BR_STAT rfl)
  · exact setFld_keeps (setBit_keeps h2 (covers .BR_STAT rfl)) (covers .BR_STAT rfl)

theorem startGrid_keeps {s : State} :
    Keeps [.freeCtr, .log, .landed, .weaver, .hcs, .br, .cam, .pages, .subs, .lastEvents] [.BR_CTRL, .BR_STAT,
    .BR_EVT, .BR_FMAX, .BR_LINE, .BR_SNAPLINE, .BR_HLIMIT, .BR_ROWU_NEXT, .BR_ROWD_NEXT, .FAULT_EVT, .FAULT_LOG_WR,
    .FAULT_LOG_LOST, .CAM_EVT, .CAM_LAD_NEXT, .Pp_STAT, .CLKPWR_STAT, .CLKPWR_EVT] s (State.startGrid s) := by
  unfold State.startGrid
  have h0 : Keeps [.freeCtr, .log, .landed, .weaver, .hcs, .br, .cam, .pages, .subs, .lastEvents] [.BR_CTRL,
      .BR_STAT, .BR_EVT, .BR_FMAX, .BR_LINE, .BR_SNAPLINE, .BR_HLIMIT, .BR_ROWU_NEXT, .BR_ROWD_NEXT, .FAULT_EVT,
      .FAULT_LOG_WR, .FAULT_LOG_LOST, .CAM_EVT, .CAM_LAD_NEXT, .Pp_STAT, .CLKPWR_STAT, .CLKPWR_EVT] s s := keeps_refl
  extract_lets -useContext +onlyGivenNames x1 x3 x5 x7 x9 x11 x13 x15 x17 x19 x21 x23
  have h2 : As h0 x1 := keeps_step h0 setPower_keeps
  clear_value x1
  have h4 : As h0 x3 := keeps_landed h2 _
  have h14 : As h0 x13 := keeps_upd h4
  have h16 : As h0 x15 := setBit_keeps (setBit_keeps h14 (covers .BR_CTRL rfl)) (covers .BR_STAT rfl)
  clear_value x15
  have h18 : As h0 x17 := keeps_setReg (keeps_setReg h16 (covers .BR_LINE rfl)) (covers .BR_SNAPLINE rfl)
  clear_value x17
  have h20 : As h0 x19 := keeps_step (keeps_step (setFld_keeps h18 (covers .BR_STAT rfl)) startRows_keeps)
      startHamlets_keeps
  clear_value x19
  have h22 : As h0 x21 := keeps_step (keeps_step (keeps_step h20 refreshLimits_keeps) refreshDatum_keeps)
      startPages_keeps
  clear_value x21
  have h24 : As h0 x23 := keeps_step h22 advancePages_keeps
  clear_value x23
  exact keeps_step (keeps_step h24 pushMap_keeps) showLadder_keeps

theorem datumFire_keeps {s : State} {l : Nat} :
    Keeps [.freeCtr, .log, .pend, .landed, .hcs, .pos, .br, .cam, .mot, .pages, .subs, .lastEvents, .slots]
    [.datumSettings, .ENCn_SPEED, .ENCn_VEL, .CMPj_CTRL, .CMPj_STAT, .BR_STAT, .BR_EVT, .BR_LINE, .BR_STRETCHSUM,
    .BR_CNT_STRETCH, .BR_CNT_OVSBLANK, .HAM_LEAD, .FAULT_EVT, .FAULT_LOG_WR, .FAULT_LOG_LOST, .CAM_EVT,
    .CAM_LAD_NEXT, .Pp_STAT] s (State.datumFire s l) := by
  unfold State.datumFire
  have h0 : Keeps [.freeCtr, .log, .pend, .landed, .hcs, .pos, .br, .cam, .mot, .pages, .subs, .lastEvents, .slots]
      [.datumSettings, .ENCn_SPEED, .ENCn_VEL, .CMPj_CTRL, .CMPj_STAT, .BR_STAT, .BR_EVT, .BR_LINE, .BR_STRETCHSUM,
      .BR_CNT_STRETCH, .BR_CNT_OVSBLANK, .HAM_LEAD, .FAULT_EVT, .FAULT_LOG_WR, .FAULT_LOG_LOST, .CAM_EVT,
      .CAM_LAD_NEXT, .Pp_STAT] s s := keeps_refl
  extract_lets -useContext +onlyGivenNames x1 x3 x5 x7 x9 x11
  have h2 : As h0 x1 := keeps_setReg h0 (covers .BR_LINE rfl)
  clear_value x1
  have h6 : As h0 x5 := keeps_br h2 _
  have h8 : As h0 x7 := keeps_step (keeps_step (keeps_step (keeps_step h6 fillGrid_keeps) pageAtDatum_keeps)
      settleDatum_keeps) settleLead_keeps
  clear_value x7
  have h10 : As h0 x9 := keeps_step h8 landScans_keeps
  clear_value x9
  have h12 : As h0 x11 := keeps_ite h10 (keeps_step h10 placeNext_keeps)
  clear_value x11
  exact keeps_step (keeps_step (keeps_step h12 corrBoundary_keeps) showLadder_keeps) pruneGrid_keeps

theorem pageArmed_keeps {s : State} {n : Nat} :
    Keeps [.freeCtr, .br, .pages, .subs, .lastEvents] [.BR_EVT, .CAM_LAD_NEXT] s (State.pageArmed s n) := by
  unfold State.pageArmed
  have h0 : Keeps [.freeCtr, .br, .pages, .subs, .lastEvents] [.BR_EVT, .CAM_LAD_NEXT] s s := keeps_refl
  refine keeps_ite ?_ ?_
  · exact h0
  · extract_lets -useContext +onlyGivenNames x1 x3
    have h4 : As h0 x3 := keeps_ite (keeps_step h0 setPage_keeps) h0
    clear_value x3
    exact keeps_step h4 advancePages_keeps

theorem brRefuse_keeps {s : State} {a1 : Requester} {cause : Nat} :
    Keeps [.resp, .log, .subs, .lastEvents] [.BR_EVT, .FAULT_EVT, .FAULT_LOG_WR, .FAULT_LOG_LOST] s (State.brRefuse s
    a1 cause) := by
  unfold State.brRefuse
  have h0 : Keeps [.resp, .log, .subs, .lastEvents] [.BR_EVT, .FAULT_EVT, .FAULT_LOG_WR, .FAULT_LOG_LOST] s s :=
      keeps_refl
  exact keeps_step (setBit_keeps h0 (covers .BR_EVT rfl)) refuse_keeps

theorem execMarkTake_keeps {s : State} :
    ∃ t, execMarkTake s = .next t ∧ Keeps [.freeCtr, .pos, .br, .pages, .subs, .lastEvents] [.MARKi_STAT, .BR_EVT,
    .BR_CNT_MARKREJ, .CAM_LAD_NEXT] s t := by
  unfold execMarkTake
  have h0 : Keeps [.freeCtr, .pos, .br, .pages, .subs, .lastEvents] [.MARKi_STAT, .BR_EVT, .BR_CNT_MARKREJ,
      .CAM_LAD_NEXT] s s := keeps_refl
  exact ⟨_, rfl, (by
        extract_lets -useContext +onlyGivenNames x1
        split
        · exact h0
        · extract_lets -useContext +onlyGivenNames x3
          have h4 : As h0 x3 := keeps_step h0 popMark_keeps
          clear_value x3
          split
          · exact keeps_step h4 rejectMark_keeps
          · refine keeps_ite ?_ ?_
            · exact keeps_step h4 rejectMark_keeps
            · extract_lets -useContext +onlyGivenNames x5
              refine keeps_ite ?_ ?_
              · exact keeps_step h4 rejectMark_keeps
              · extract_lets -useContext +onlyGivenNames x7
                have h8 : As h0 x7 := keeps_step h4 fixPage_keeps
                clear_value x7
                exact keeps_step h8 advancePages_keeps)⟩

theorem rowRegWrite_keeps {s : State} {a1 : Requester} {a2 : Nat} {row : Nat} {v : Word} :
    Keeps [.resp, .log, .subs, .lastEvents] [.WEAVER_EVT, .BR_STAT, .BR_EVT, .BR_FMAX, .BR_ROWU, .BR_ROWD,
    .BR_HLIMIT, .FAULT_EVT, .FAULT_LOG_WR, .FAULT_LOG_LOST] s (State.rowRegWrite s a1 a2 row v) := by
  unfold State.rowRegWrite
  have h0 : Keeps [.resp, .log, .subs, .lastEvents] [.WEAVER_EVT, .BR_STAT, .BR_EVT, .BR_FMAX, .BR_ROWU, .BR_ROWD,
      .BR_HLIMIT, .FAULT_EVT, .FAULT_LOG_WR, .FAULT_LOG_LOST] s s := keeps_refl
  refine keeps_ite ?_ ?_
  · exact keeps_step h0 brRefuse_keeps
  · refine keeps_ite ?_ ?_
    · exact keeps_step h0 refuse_keeps
    · extract_lets -useContext +onlyGivenNames x3 x5
      refine keeps_ite ?_ ?_
      · exact keeps_step (keeps_step h0 setDepthEvt_keeps) refuse_keeps
      · exact keeps_step (keeps_step (keeps_step (writeByCodes_keeps h0 (covers_row (covers .BR_ROWU ⟨_, rfl⟩)
            (covers .BR_ROWD ⟨_, rfl⟩))) refreshLimits_keeps) refreshDatum_keeps) written_keeps

theorem execRowFire_keeps {a1 : Fin 24} {row : Fin 2} {s : State} :
    ∃ t, execRowFire a1 row s = .next t ∧ Keeps [.freeCtr, .log, .pend, .landed, .hcs, .pos, .br, .cam, .cal, .mot,
    .pages, .subs, .lastEvents, .slots, .nozWet] ([.datumSettings, .HC_STAT, .ENCn_SPEED, .ENCn_VEL, .CMPj_CTRL,
    .CMPj_STAT, .BR_STAT, .BR_EVT, .BR_STRETCH, .BR_FMAX, .BR_LINE, .BR_SNAPLINE, .BR_STRETCHSUM, .BR_CNT_STRETCH,
    .BR_CNT_OVSBLANK, .BR_ROWU, .BR_ROWD, .BR_HLIMIT, .BR_ROWU_NEXT, .BR_ROWD_NEXT, .HAM_LEAD, .HAM_LEADDEF,
    .FAULT_STAT, .FAULT_EVT, .FAULT_LOG_WR, .FAULT_LOG_LOST, .CAM_EVT, .CAM_LAD_NEXT, .Pp_STAT, .CAL_HCh_NOW] ++
    [.CAL_HCh_STAT]) s t := by
  unfold execRowFire
  have h0 : Keeps [.freeCtr, .log, .pend, .landed, .hcs, .pos, .br, .cam, .cal, .mot, .pages, .subs, .lastEvents,
      .slots, .nozWet] ([.datumSettings, .HC_STAT, .ENCn_SPEED, .ENCn_VEL, .CMPj_CTRL, .CMPj_STAT, .BR_STAT, .BR_EVT,
      .BR_STRETCH, .BR_FMAX, .BR_LINE, .BR_SNAPLINE, .BR_STRETCHSUM, .BR_CNT_STRETCH, .BR_CNT_OVSBLANK, .BR_ROWU,
      .BR_ROWD, .BR_HLIMIT, .BR_ROWU_NEXT, .BR_ROWD_NEXT, .HAM_LEAD, .HAM_LEADDEF, .FAULT_STAT, .FAULT_EVT,
      .FAULT_LOG_WR, .FAULT_LOG_LOST, .CAM_EVT, .CAM_LAD_NEXT, .Pp_STAT, .CAL_HCh_NOW] ++ [.CAL_HCh_STAT]) s s :=
      keeps_refl
  exact ⟨_, rfl, (by
        extract_lets -useContext +onlyGivenNames x2
        refine keeps_ite ?_ ?_
        · exact h0
        · refine keeps_ite ?_ ?_
          · exact setBit_keeps h0 (covers .BR_STAT rfl)
          · extract_lets -useContext +onlyGivenNames x4
            have h5 : As h0 x4 := keeps_ite (keeps_step h0 datumFire_keeps) h0
            clear_value x4
            exact keeps_step h5 rowFired_keeps)⟩

theorem brCtrlWrite_keeps {s : State} {a1 : Requester} {v : Word} :
    Keeps [.resp, .freeCtr, .log, .landed, .weaver, .hcs, .br, .cam, .cal, .eth, .pages, .subs, .lastEvents]
    [.HC_STAT, .BR_CTRL, .BR_STAT, .BR_EVT, .BR_NUM, .BR_DEN, .BR_RATE, .BR_FMAX, .BR_LINE, .BR_SNAPLINE, .BR_HLIMIT,
    .BR_ROWU_NEXT, .BR_ROWD_NEXT, .FAULT_STAT, .FAULT_EVT, .FAULT_LOG_WR, .FAULT_LOG_LOST, .CAM_EVT, .CAM_LAD_NEXT,
    .Pp_STAT, .CAL_HCh_NOW, .CAL_HCh_STAT, .CLKPWR_STAT, .CLKPWR_EVT] s (State.brCtrlWrite s a1 v) := by
  unfold State.brCtrlWrite
  have h0 : Keeps [.resp, .freeCtr, .log, .landed, .weaver, .hcs, .br, .cam, .cal, .eth, .pages, .subs, .lastEvents]
      [.HC_STAT, .BR_CTRL, .BR_STAT, .BR_EVT, .BR_NUM, .BR_DEN, .BR_RATE, .BR_FMAX, .BR_LINE, .BR_SNAPLINE,
      .BR_HLIMIT, .BR_ROWU_NEXT, .BR_ROWD_NEXT, .FAULT_STAT, .FAULT_EVT, .FAULT_LOG_WR, .FAULT_LOG_LOST, .CAM_EVT,
      .CAM_LAD_NEXT, .Pp_STAT, .CAL_HCh_NOW, .CAL_HCh_STAT, .CLKPWR_STAT, .CLKPWR_EVT] s s := keeps_refl
  extract_lets -useContext +onlyGivenNames x2 x4 x6 x8 x10 x12
  refine keeps_ite ?_ ?_
  · exact keeps_step h0 brRefuse_keeps
  · refine keeps_ite ?_ ?_
    · exact keeps_step h0 brRefuse_keeps
    · extract_lets -useContext +onlyGivenNames x14
      have h15 : As h0 x14 := keeps_ite (keeps_step h0 applyRatio_keeps) h0
      clear_value x14
      refine keeps_ite ?_ ?_
      · exact keeps_step h0 brRefuse_keeps
      · refine keeps_ite ?_ ?_
        · exact keeps_step h0 brRefuse_keeps
        · extract_lets -useContext +onlyGivenNames x16 x18 x20 x22 x24 x26 x28
          have h17 : As h0 x16 := setBit_keeps (setFld_keeps h15 (covers .BR_CTRL rfl)) (covers .BR_CTRL rfl)
          clear_value x16
          have h21 : As h0 x20 := keeps_step h17 drawn_keeps
          clear_value x20
          have h25 : As h0 x24 := keeps_br h21 _
          have h27 : As h0 x26 := keeps_ite (keeps_step (keeps_step h25 setLoopState_keeps) judgeLoop_keeps)
              (keeps_ite (keeps_step (keeps_step (keeps_step (keeps_step h17 setPhi_keeps) setLoopState_keeps)
              showRate_keeps) drawn_keeps) h17)
          clear_value x26
          have h29 : As h0 x28 := keeps_ite (keeps_step h27 startGrid_keeps) (keeps_ite (keeps_step h27
              stopGrid_keeps) h27)
          clear_value x28
          exact keeps_step h29 written_keeps

theorem brWrite_keeps {s : State} {a1 : Requester} {a : Nat} {v : Word} :
    Keeps [.resp, .freeCtr, .log, .landed, .weaver, .hcs, .br, .cam, .cal, .eth, .pages, .subs, .lastEvents] [.any] s
    (State.brWrite s a1 a v) := by
  unfold State.brWrite
  have h0 : Keeps [.resp, .freeCtr, .log, .landed, .weaver, .hcs, .br, .cam, .cal, .eth, .pages, .subs, .lastEvents]
      [.any] s s := keeps_refl
  refine keeps_ite ?_ ?_
  · exact keeps_step h0 brCtrlWrite_keeps
  · refine keeps_ite ?_ ?_
    · exact keeps_step (writeByCodes_keeps h0 (covers .any trivial)) written_keeps
    · refine keeps_ite ?_ ?_
      · exact keeps_step h0 brRefuse_keeps
      · refine keeps_ite ?_ ?_
        · exact keeps_step h0 brRefuse_keeps
        · refine keeps_ite ?_ ?_
          · exact keeps_step h0 written_keeps
          · exact keeps_step (keeps_step (writeByCodes_keeps h0 (covers .any trivial)) refreshLimits_keeps)
                written_keeps

theorem execRunStart_keeps {a1 : Requester} {v : Word} {s : State} :
    ∃ t, execRunStart a1 v s = .next t ∧ Keeps [.resp, .freeCtr, .log, .landed, .weaver, .hcs, .br, .cam, .cal, .eth,
    .pages, .subs, .lastEvents] [.HC_STAT, .BR_CTRL, .BR_STAT, .BR_EVT, .BR_NUM, .BR_DEN, .BR_RATE, .BR_FMAX,
    .BR_LINE, .BR_SNAPLINE, .BR_HLIMIT, .BR_ROWU_NEXT, .BR_ROWD_NEXT, .FAULT_STAT, .FAULT_EVT, .FAULT_LOG_WR,
    .FAULT_LOG_LOST, .CAM_EVT, .CAM_LAD_NEXT, .Pp_STAT, .CAL_HCh_NOW, .CAL_HCh_STAT, .CLKPWR_STAT, .CLKPWR_EVT] s t
    := by
  unfold execRunStart
  have h0 : Keeps [.resp, .freeCtr, .log, .landed, .weaver, .hcs, .br, .cam, .cal, .eth, .pages, .subs, .lastEvents]
      [.HC_STAT, .BR_CTRL, .BR_STAT, .BR_EVT, .BR_NUM, .BR_DEN, .BR_RATE, .BR_FMAX, .BR_LINE, .BR_SNAPLINE,
      .BR_HLIMIT, .BR_ROWU_NEXT, .BR_ROWD_NEXT, .FAULT_STAT, .FAULT_EVT, .FAULT_LOG_WR, .FAULT_LOG_LOST, .CAM_EVT,
      .CAM_LAD_NEXT, .Pp_STAT, .CAL_HCh_NOW, .CAL_HCh_STAT, .CLKPWR_STAT, .CLKPWR_EVT] s s := keeps_refl
  exact ⟨_, rfl, (keeps_ite (keeps_step h0 brCtrlWrite_keeps) h0)⟩

theorem execLoopDisable_keeps {a1 : Requester} {v : Word} {s : State} :
    ∃ t, execLoopDisable a1 v s = .next t ∧ Keeps [.resp, .freeCtr, .log, .landed, .weaver, .hcs, .br, .cam, .cal,
    .eth, .pages, .subs, .lastEvents] [.HC_STAT, .BR_CTRL, .BR_STAT, .BR_EVT, .BR_NUM, .BR_DEN, .BR_RATE, .BR_FMAX,
    .BR_LINE, .BR_SNAPLINE, .BR_HLIMIT, .BR_ROWU_NEXT, .BR_ROWD_NEXT, .FAULT_STAT, .FAULT_EVT, .FAULT_LOG_WR,
    .FAULT_LOG_LOST, .CAM_EVT, .CAM_LAD_NEXT, .Pp_STAT, .CAL_HCh_NOW, .CAL_HCh_STAT, .CLKPWR_STAT, .CLKPWR_EVT] s t
    := by
  unfold execLoopDisable
  have h0 : Keeps [.resp, .freeCtr, .log, .landed, .weaver, .hcs, .br, .cam, .cal, .eth, .pages, .subs, .lastEvents]
      [.HC_STAT, .BR_CTRL, .BR_STAT, .BR_EVT, .BR_NUM, .BR_DEN, .BR_RATE, .BR_FMAX, .BR_LINE, .BR_SNAPLINE,
      .BR_HLIMIT, .BR_ROWU_NEXT, .BR_ROWD_NEXT, .FAULT_STAT, .FAULT_EVT, .FAULT_LOG_WR, .FAULT_LOG_LOST, .CAM_EVT,
      .CAM_LAD_NEXT, .Pp_STAT, .CAL_HCh_NOW, .CAL_HCh_STAT, .CLKPWR_STAT, .CLKPWR_EVT] s s := keeps_refl
  exact ⟨_, rfl, (keeps_ite (keeps_step h0 brCtrlWrite_keeps) h0)⟩

theorem execLoopEnable_keeps {a1 : Requester} {v : Word} {s : State} :
    ∃ t, execLoopEnable a1 v s = .next t ∧ Keeps [.resp, .freeCtr, .log, .landed, .weaver, .hcs, .br, .cam, .cal,
    .eth, .pages, .subs, .lastEvents] [.HC_STAT, .BR_CTRL, .BR_STAT, .BR_EVT, .BR_NUM, .BR_DEN, .BR_RATE, .BR_FMAX,
    .BR_LINE, .BR_SNAPLINE, .BR_HLIMIT, .BR_ROWU_NEXT, .BR_ROWD_NEXT, .FAULT_STAT, .FAULT_EVT, .FAULT_LOG_WR,
    .FAULT_LOG_LOST, .CAM_EVT, .CAM_LAD_NEXT, .Pp_STAT, .CAL_HCh_NOW, .CAL_HCh_STAT, .CLKPWR_STAT, .CLKPWR_EVT] s t
    := by
  unfold execLoopEnable
  have h0 : Keeps [.resp, .freeCtr, .log, .landed, .weaver, .hcs, .br, .cam, .cal, .eth, .pages, .subs, .lastEvents]
      [.HC_STAT, .BR_CTRL, .BR_STAT, .BR_EVT, .BR_NUM, .BR_DEN, .BR_RATE, .BR_FMAX, .BR_LINE, .BR_SNAPLINE,
      .BR_HLIMIT, .BR_ROWU_NEXT, .BR_ROWD_NEXT, .FAULT_STAT, .FAULT_EVT, .FAULT_LOG_WR, .FAULT_LOG_LOST, .CAM_EVT,
      .CAM_LAD_NEXT, .Pp_STAT, .CAL_HCh_NOW, .CAL_HCh_STAT, .CLKPWR_STAT, .CLKPWR_EVT] s s := keeps_refl
  exact ⟨_, rfl, (keeps_ite (keeps_step h0 brCtrlWrite_keeps) h0)⟩

theorem execRunStop_keeps {a1 : Requester} {v : Word} {s : State} :
    ∃ t, execRunStop a1 v s = .next t ∧ Keeps [.resp, .freeCtr, .log, .landed, .weaver, .hcs, .br, .cam, .cal, .eth,
    .pages, .subs, .lastEvents] [.HC_STAT, .BR_CTRL, .BR_STAT, .BR_EVT, .BR_NUM, .BR_DEN, .BR_RATE, .BR_FMAX,
    .BR_LINE, .BR_SNAPLINE, .BR_HLIMIT, .BR_ROWU_NEXT, .BR_ROWD_NEXT, .FAULT_STAT, .FAULT_EVT, .FAULT_LOG_WR,
    .FAULT_LOG_LOST, .CAM_EVT, .CAM_LAD_NEXT, .Pp_STAT, .CAL_HCh_NOW, .CAL_HCh_STAT, .CLKPWR_STAT, .CLKPWR_EVT] s t
    := by
  unfold execRunStop
  have h0 : Keeps [.resp, .freeCtr, .log, .landed, .weaver, .hcs, .br, .cam, .cal, .eth, .pages, .subs, .lastEvents]
      [.HC_STAT, .BR_CTRL, .BR_STAT, .BR_EVT, .BR_NUM, .BR_DEN, .BR_RATE, .BR_FMAX, .BR_LINE, .BR_SNAPLINE,
      .BR_HLIMIT, .BR_ROWU_NEXT, .BR_ROWD_NEXT, .FAULT_STAT, .FAULT_EVT, .FAULT_LOG_WR, .FAULT_LOG_LOST, .CAM_EVT,
      .CAM_LAD_NEXT, .Pp_STAT, .CAL_HCh_NOW, .CAL_HCh_STAT, .CLKPWR_STAT, .CLKPWR_EVT] s s := keeps_refl
  exact ⟨_, rfl, (keeps_ite (keeps_step h0 brCtrlWrite_keeps) h0)⟩

end Sys2Proof.Laws
end

