-- ==== Sys2Proof/Laws/KeepsCal.lean ====
section
/-! SUPPORT. What each operation of Machine/Cal.lean may change (`Keeps`): the parts of the state and the rows of registers. -/

set_option Elab.async false

namespace Sys2Proof.Laws

open Sys2Proof.Machine

theorem visitNext_keeps {s : State} :
    Keeps [.cal] [.CAL_STAT, .CAL_EVT, .CAL_HCh_STAT] s (State.visitNext s) := by
  unfold State.visitNext
  have h0 : Keeps [.cal] [.CAL_STAT, .CAL_EVT, .CAL_HCh_STAT] s s := keeps_refl
  extract_lets -useContext +onlyGivenNames x1 x3 x5
  have h6 : As h0 x5 := keeps_cal h0 _
  clear_value x1
  split
  · exact setBit_keeps (setFld_keeps h6 (covers .CAL_STAT rfl)) (covers .CAL_HCh_STAT ⟨_, rfl⟩)
  · exact setBit_keeps (setBit_keeps h6 (covers .CAL_STAT rfl)) (covers .CAL_EVT rfl)

theorem nextPath_keeps {s : State} :
    Keeps [.cal] [.HC_TEMP, .CAL_HCh_STAT] s (State.nextPath s) := by
  unfold State.nextPath
  have h0 : Keeps [.cal] [.HC_TEMP, .CAL_HCh_STAT] s s := keeps_refl
  split
  · exact keeps_cal h0 _
  · extract_lets -useContext +onlyGivenNames x1 x3 x5
    have h4 : As h0 x3 := keeps_cal h0 _
    refine keeps_ite ?_ ?_
    · exact setBit_keeps h4 (covers .CAL_HCh_STAT ⟨_, rfl⟩)
    · extract_lets -useContext +onlyGivenNames x7 x9
      have h10 : As h0 x9 := keeps_cal h4 _
      exact setFld_keeps (setBit_keeps h10 (covers .CAL_HCh_STAT ⟨_, rfl⟩)) (covers .HC_TEMP ⟨_, rfl⟩)

theorem execAdcZero_keeps {z : BitVec 16} {s : State} :
    ∃ t, execAdcZero z s = .next t ∧ Keeps [.freeCtr, .cal] [.CAL_EVT, .CAL_ADC] s t := by
  unfold execAdcZero
  have h0 : Keeps [.freeCtr, .cal] [.CAL_EVT, .CAL_ADC] s s := keeps_refl
  exact ⟨_, rfl, (keeps_ite h0 (by
        extract_lets -useContext +onlyGivenNames x1 x3 x5 x7 x9 x11 x13 x15
        have h4 : As h0 x3 := keeps_cal h0 _
        have h12 : As h0 x11 := keeps_cal h4 _
        have h14 : As h0 x13 := keeps_step (setFld_keeps h12 (covers .CAL_ADC rfl)) drawn_keeps
        clear_value x13
        refine keeps_ite ?_ ?_
        · exact h14
        · extract_lets -useContext +onlyGivenNames x17
          refine keeps_ite ?_ ?_
          · exact setBit_keeps h14 (covers .CAL_EVT rfl)
          · exact setFld_keeps h14 (covers .CAL_ADC rfl)))⟩

theorem startCycle_keeps {s : State} :
    Keeps [.cal] [.CAL_STAT, .CAL_EVT, .CAL_HCh_STAT] s (State.startCycle s) := by
  unfold State.startCycle
  have h0 : Keeps [.cal] [.CAL_STAT, .CAL_EVT, .CAL_HCh_STAT] s s := keeps_refl
  extract_lets -useContext +onlyGivenNames x1
  have h2 : As h0 x1 := setBit_keeps h0 (covers .CAL_STAT rfl)
  clear_value x1
  exact keeps_step (keeps_cal h2 _) visitNext_keeps

theorem execPathCalibration_keeps {s : State} :
    ∃ t, execPathCalibration s = .next t ∧ Keeps [.cal] [.HC_TEMP, .CAL_HCh_STAT] s t := by
  unfold execPathCalibration
  have h0 : Keeps [.cal] [.HC_TEMP, .CAL_HCh_STAT] s s := keeps_refl
  exact ⟨_, rfl, (by
        extract_lets -useContext +onlyGivenNames x1
        refine keeps_ite ?_ ?_
        · exact h0
        · extract_lets -useContext +onlyGivenNames x3 x5 x7
          have h6 : As h0 x5 := keeps_cal h0 _
          exact keeps_step (keeps_cal h6 _) nextPath_keeps)⟩

theorem execTrimStep_keeps {a1 : Fin 24} {s : State} :
    ∃ t, execTrimStep a1 s = .next t ∧ Keeps [.cal] [.CAL_HCh_NOW, .CAL_HCh_STAT, .CAL_HCh_LASTLINE] s t := by
  unfold execTrimStep
  have h0 : Keeps [.cal] [.CAL_HCh_NOW, .CAL_HCh_STAT, .CAL_HCh_LASTLINE] s s := keeps_refl
  exact ⟨_, rfl, (by
        extract_lets -useContext +onlyGivenNames x2 x4 x6 x8 x10
        clear_value x10
        split
        · exact h0
        · refine keeps_ite ?_ ?_
          · exact h0
          · refine keeps_ite ?_ ?_
            · exact keeps_cal h0 _
            · extract_lets -useContext +onlyGivenNames x12 x17 x19 x21
              have h13 : ∀ y14, As h0 y14 → ∀ y16, As h0 (x12 y14 y16) := fun y14 h15 y16 => (setFld_keeps h15
                  (covers .CAL_HCh_NOW ⟨_, rfl⟩))
              clear_value x12
              have h18 : As h0 x17 := h13 _ (h13 _ h0 _) _
              clear_value x17
              have h20 : As h0 x19 := keeps_setReg h18 (covers .CAL_HCh_LASTLINE ⟨_, rfl⟩)
              clear_value x19
              have h22 : As h0 x21 := setBit_keeps h20 (covers .CAL_HCh_STAT ⟨_, rfl⟩)
              clear_value x21
              exact keeps_cal h22 _)⟩

theorem pathConversion_keeps {s : State} {q : Nat} {n : Nat} {sum : Nat} {code : Nat} :
    Keeps [.freeCtr, .cal] [.HC_TEMP, .CAL_HCh_PATH, .CAL_HCh_STAT] s (State.pathConversion s q n sum code) := by
  unfold State.pathConversion
  have h0 : Keeps [.freeCtr, .cal] [.HC_TEMP, .CAL_HCh_PATH, .CAL_HCh_STAT] s s := keeps_refl
  extract_lets -useContext +onlyGivenNames x1 x3
  refine keeps_ite ?_ ?_
  · exact keeps_cal h0 _
  · extract_lets -useContext +onlyGivenNames x5 x7 x9 x11
    have h10 : As h0 x9 := keeps_step h0 drawnN_keeps
    clear_value x9
    have h12 : As h0 x11 := keeps_ite (setBit_keeps (setFld_keeps h10 (covers .CAL_HCh_PATH ⟨_, rfl⟩)) (covers
        .CAL_HCh_STAT ⟨_, rfl⟩)) (setBit_keeps (setFld_keeps h10 (covers .CAL_HCh_PATH ⟨_, rfl⟩)) (covers
        .CAL_HCh_STAT ⟨_, rfl⟩))
    clear_value x11
    exact keeps_step h12 nextPath_keeps

theorem setTrimTarget_keeps {s : State} {a1 : Nat} {a2 : Word} :
    Keeps [.cal] [.CAL_HCh_TRIM, .CAL_HCh_NOW, .CAL_HCh_STAT] s (State.setTrimTarget s a1 a2) := by
  unfold State.setTrimTarget
  have h0 : Keeps [.cal] [.CAL_HCh_TRIM, .CAL_HCh_NOW, .CAL_HCh_STAT] s s := keeps_refl
  extract_lets -useContext +onlyGivenNames x3 x5 x7
  have h8 : As h0 x7 := keeps_setReg h0 (covers .CAL_HCh_TRIM ⟨_, rfl⟩)
  clear_value x7
  refine keeps_ite ?_ ?_
  · extract_lets -useContext +onlyGivenNames x9
    have h10 : As h0 x9 := setBit_keeps h8 (covers .CAL_HCh_STAT ⟨_, rfl⟩)
    clear_value x9
    refine keeps_ite ?_ ?_
    · exact keeps_cal h10 _
    · exact h10
  · exact keeps_step h8 trimAtOnce_keeps

theorem applyPoints_keeps {s : State} {a1 : Nat} :
    Keeps [.freeCtr, .cal] [.CAL_EVT, .CAL_CNT_IMPLAUS, .CAL_HCh_TRIM, .CAL_HCh_NOW, .CAL_HCh_MEAS, .CAL_HCh_STAT] s
    (State.applyPoints s a1) := by
  unfold State.applyPoints
  have h0 : Keeps [.freeCtr, .cal] [.CAL_EVT, .CAL_CNT_IMPLAUS, .CAL_HCh_TRIM, .CAL_HCh_NOW, .CAL_HCh_MEAS,
      .CAL_HCh_STAT] s s := keeps_refl
  extract_lets -useContext +onlyGivenNames x2 x4 x6 x8 x10 x12 x14 x16 x18 x20
  have h15 : As h0 x14 := setFld_keeps h0 (covers .CAL_HCh_MEAS ⟨_, rfl⟩)
  clear_value x14
  have h17 : As h0 x16 := setFld_keeps h15 (covers .CAL_HCh_MEAS ⟨_, rfl⟩)
  clear_value x16
  have h19 : As h0 x18 := keeps_step h17 drawnN_keeps
  clear_value x18
  clear_value x8
  split
  · extract_lets -useContext +onlyGivenNames x22
    have h23 : As h0 x22 := setBit_keeps (setBit_keeps h19 (covers .CAL_HCh_STAT ⟨_, rfl⟩)) (covers .CAL_EVT rfl)
    clear_value x22
    exact count_keeps (setBit_keeps h23 (covers .CAL_HCh_STAT ⟨_, rfl⟩)) (covers .CAL_CNT_IMPLAUS rfl)
  · extract_lets -useContext +onlyGivenNames x24 x26
    split
    · split
      · extract_lets -useContext +onlyGivenNames x28 x30
        have h29 : As h0 x28 := setBit_keeps (setBit_keeps h19 (covers .CAL_HCh_STAT ⟨_, rfl⟩)) (covers .CAL_HCh_STAT
            ⟨_, rfl⟩)
        clear_value x28
        have h31 : As h0 x30 := keeps_ite (setBit_keeps h29 (covers .CAL_EVT rfl)) h29
        clear_value x30
        refine keeps_ite ?_ ?_
        · exact keeps_step h31 setTrimTarget_keeps
        · exact h31

theorem channelDone_keeps {s : State} :
    Keeps [.cal] [.CAL_STAT, .CAL_EVT, .CAL_HCh_STAT] s (State.channelDone s) := by
  unfold State.channelDone
  have h0 : Keeps [.cal] [.CAL_STAT, .CAL_EVT, .CAL_HCh_STAT] s s := keeps_refl
  extract_lets -useContext +onlyGivenNames x1 x3 x5 x7
  have h2 : As h0 x1 := by
    unfold x1
    split
    · exact setBit_keeps h0 (covers .CAL_HCh_STAT ⟨_, rfl⟩)
    · exact h0
  clear_value x1
  have h6 : As h0 x5 := keeps_step (keeps_cal h2 _) visitNext_keeps
  clear_value x5
  refine keeps_ite ?_ ?_
  · exact h6
  · refine keeps_ite ?_ ?_
    · exact keeps_cal h6 _
    · exact keeps_step (setFld_keeps h6 (covers .CAL_STAT rfl)) startCycle_keeps

theorem trimWrite_keeps {s : State} {a1 : Nat} {v : Word} :
    Keeps [.cal] [.CAL_HCh_TRIM, .CAL_HCh_NOW, .CAL_HCh_STAT] s (State.trimWrite s a1 v) := by
  unfold State.trimWrite
  have h0 : Keeps [.cal] [.CAL_HCh_TRIM, .CAL_HCh_NOW, .CAL_HCh_STAT] s s := keeps_refl
  extract_lets -useContext +onlyGivenNames x2 x4 x6
  exact keeps_step h0 setTrimTarget_keeps

theorem execCalibrationSlot_keeps {ending : Bool} {s : State} :
    ∃ t, execCalibrationSlot ending s = .next t ∧ Keeps [.freeCtr, .cal] [.CAL_STAT, .CAL_EVT, .CAL_CNT_SLOTS,
    .CAL_CNT_IMPLAUS, .CAL_HCh_TRIM, .CAL_HCh_NOW, .CAL_HCh_MEAS, .CAL_HCh_STAT] s t := by
  unfold execCalibrationSlot
  have h0 : Keeps [.freeCtr, .cal] [.CAL_STAT, .CAL_EVT, .CAL_CNT_SLOTS, .CAL_CNT_IMPLAUS, .CAL_HCh_TRIM,
      .CAL_HCh_NOW, .CAL_HCh_MEAS, .CAL_HCh_STAT] s s := keeps_refl
  exact ⟨_, rfl, (by
        split
        · refine keeps_ite ?_ ?_
          · exact h0
          · refine keeps_ite ?_ ?_
            · exact keeps_step h0 channelDone_keeps
            · refine keeps_ite ?_ ?_
              · exact keeps_cal h0 _
              · exact h0
        · refine keeps_ite ?_ ?_
          · exact h0
          · extract_lets -useContext +onlyGivenNames x1 x3
            have h4 : As h0 x3 := keeps_cal h0 _
            split
            · exact h4
            · extract_lets -useContext +onlyGivenNames x5 x7 x9 x11
              have h6 : As h0 x5 := count_keeps h4 (covers .CAL_CNT_SLOTS rfl)
              have h10 : As h0 x9 := keeps_cal h6 _
              refine keeps_ite ?_ ?_
              · exact keeps_step (keeps_step h10 applyPoints_keeps) channelDone_keeps
              · exact h10
        · exact h0)⟩

theorem execTrimTargetWrite_keeps {a1 : Requester} {a2 : Fin 24} {v : Word} {s : State} :
    ∃ t, execTrimTargetWrite a1 a2 v s = .next t ∧ Keeps [.resp, .cal] [.CAL_HCh_TRIM, .CAL_HCh_NOW, .CAL_HCh_STAT] s
    t := by
  unfold execTrimTargetWrite
  have h0 : Keeps [.resp, .cal] [.CAL_HCh_TRIM, .CAL_HCh_NOW, .CAL_HCh_STAT] s s := keeps_refl
  exact ⟨_, rfl, (keeps_step (keeps_step h0 trimWrite_keeps) written_keeps)⟩

theorem beginPeriod_keeps {s : State} :
    Keeps [.log, .cal, .subs, .lastEvents] [.FAULT_EVT, .FAULT_LOG_WR, .FAULT_LOG_LOST, .CAL_STAT, .CAL_EVT,
    .CAL_HCh_STAT] s (State.beginPeriod s) := by
  unfold State.beginPeriod
  have h0 : Keeps [.log, .cal, .subs, .lastEvents] [.FAULT_EVT, .FAULT_LOG_WR, .FAULT_LOG_LOST, .CAL_STAT, .CAL_EVT,
      .CAL_HCh_STAT] s s := keeps_refl
  refine keeps_ite ?_ ?_
  · exact keeps_step h0 startCycle_keeps
  · extract_lets -useContext +onlyGivenNames x1
    have h2 : As h0 x1 := count_keeps h0 (covers .CAL_STAT rfl)
    clear_value x1
    refine keeps_ite ?_ ?_
    · exact h2
    · extract_lets -useContext +onlyGivenNames x3 x5
      have h6 : As h0 x5 := keeps_cal h2 _
      exact keeps_step h6 logFault_keeps

theorem execCalibrationCycle_keeps {s : State} :
    ∃ t, execCalibrationCycle s = .next t ∧ Keeps [.log, .cal, .subs, .lastEvents] [.FAULT_EVT, .FAULT_LOG_WR,
    .FAULT_LOG_LOST, .CAL_STAT, .CAL_EVT, .CAL_HCh_STAT] s t := by
  unfold execCalibrationCycle
  have h0 : Keeps [.log, .cal, .subs, .lastEvents] [.FAULT_EVT, .FAULT_LOG_WR, .FAULT_LOG_LOST, .CAL_STAT, .CAL_EVT,
      .CAL_HCh_STAT] s s := keeps_refl
  exact ⟨_, rfl, (by
        extract_lets -useContext +onlyGivenNames x1
        refine keeps_ite ?_ ?_
        · exact h0
        · exact keeps_step (keeps_cal h0 _) beginPeriod_keeps)⟩

theorem tsConversion_keeps {s : State} {a1 : Nat} {code : Nat} :
    Keeps [.freeCtr, .log, .landed, .hcs, .cal, .pages, .subs, .lastEvents] [.HC_STAT, .HC_EVT, .HC_TEMP,
    .HC_SCAN_PTR, .BR_STAT, .BR_EVT, .BR_FMAX, .BR_SNAPLINE, .FAULT_STAT, .FAULT_EVT, .FAULT_LOG_WR, .FAULT_LOG_LOST,
    .CAL_HCh_NOW, .CAL_HCh_STAT] s (State.tsConversion s a1 code) := by
  unfold State.tsConversion
  have h0 : Keeps [.freeCtr, .log, .landed, .hcs, .cal, .pages, .subs, .lastEvents] [.HC_STAT, .HC_EVT, .HC_TEMP,
      .HC_SCAN_PTR, .BR_STAT, .BR_EVT, .BR_FMAX, .BR_SNAPLINE, .FAULT_STAT, .FAULT_EVT, .FAULT_LOG_WR,
      .FAULT_LOG_LOST, .CAL_HCh_NOW, .CAL_HCh_STAT] s s := keeps_refl
  split
  · extract_lets -useContext +onlyGivenNames x2
    refine keeps_ite ?_ ?_
    · exact keeps_cal h0 _
    · extract_lets -useContext +onlyGivenNames x4 x6 x8 x10
      have h11 : As h0 x10 := keeps_cal h0 _
      exact keeps_step (keeps_step h11 drawn_keeps) headReading_keeps

theorem execAdcConversion_keeps {code : BitVec 16} {s : State} :
    ∃ t, execAdcConversion code s = .next t ∧ Keeps [.freeCtr, .log, .landed, .hcs, .cal, .pages, .subs, .lastEvents]
    [.HC_STAT, .HC_EVT, .HC_TEMP, .HC_SCAN_PTR, .BR_STAT, .BR_EVT, .BR_FMAX, .BR_SNAPLINE, .FAULT_STAT, .FAULT_EVT,
    .FAULT_LOG_WR, .FAULT_LOG_LOST, .CAL_HCh_NOW, .CAL_HCh_PATH, .CAL_HCh_STAT] s t := by
  unfold execAdcConversion
  have h0 : Keeps [.freeCtr, .log, .landed, .hcs, .cal, .pages, .subs, .lastEvents] [.HC_STAT, .HC_EVT, .HC_TEMP,
      .HC_SCAN_PTR, .BR_STAT, .BR_EVT, .BR_FMAX, .BR_SNAPLINE, .FAULT_STAT, .FAULT_EVT, .FAULT_LOG_WR,
      .FAULT_LOG_LOST, .CAL_HCh_NOW, .CAL_HCh_PATH, .CAL_HCh_STAT] s s := keeps_refl
  exact ⟨_, rfl, (keeps_ite h0 (by
        extract_lets -useContext +onlyGivenNames x1 x3
        have h4 : As h0 x3 := keeps_cal h0 _
        split
        · exact keeps_cal h4 _
        · exact keeps_step h4 pathConversion_keeps
        · exact keeps_step h4 tsConversion_keeps
        · exact h4))⟩

end Sys2Proof.Laws
end

