-- ==== Sys2Proof/Laws/KeepsSchedule.lean ====
section
/-! SUPPORT. What each operation of Machine/Schedule.lean may change (`Keeps`): the parts of the state and the rows of registers. -/

set_option Elab.async false

namespace Sys2Proof.Laws

open Sys2Proof.Machine

theorem refs_in {s : State} {j x : Nat} {l : List Byte} (hn : s.refLines ≠ 0) (h : l.length ≤ s.refStride - x) :
    ∀ a, s.refBase + s.refStride * (j % s.refLines) + x ≤ a →
      a < s.refBase + s.refStride * (j % s.refLines) + x + l.length → Part.refs.stores [] s a := fun a h1 h2 => by
  have hs : s.refStride ≤ 25344 := by unfold State.refStride; omega
  have hj : j % s.refLines < s.refLines := Nat.mod_lt _ (Nat.pos_of_ne_zero hn)
  have h3 : s.refStride * (j % s.refLines) + s.refStride ≤ s.refStride * s.refLines := by
    rw [← Nat.mul_succ]; exact Nat.mul_le_mul_left _ hj
  have h4 : s.refStride * s.refLines ≤ 25344 * s.refLines := Nat.mul_le_mul_right _ hs
  exact .inr (.inr (.inr ⟨by omega, by omega⟩))

theorem judgeStart_keeps {s : State} {k : Nat} {l : Nat} :
    Keeps [.weaver] [.HAM_STAT, .HAM_EVT, .HAM_CNT_LATE] s (State.judgeStart s k l) := by
  unfold State.judgeStart
  have h0 : Keeps [.weaver] [.HAM_STAT, .HAM_EVT, .HAM_CNT_LATE] s s := keeps_refl
  extract_lets -useContext +onlyGivenNames x1 x3 x5 x7 x9 x11
  have h10 : As h0 x9 := keeps_step h0 setHam_keeps
  clear_value x9
  have h12 : As h0 x11 := setBit_keeps h10 (covers .HAM_STAT ⟨_, rfl⟩)
  clear_value x11
  refine keeps_ite ?_ ?_
  · exact setBit_keeps (count_keeps h12 (covers .HAM_CNT_LATE ⟨_, rfl⟩)) (covers .HAM_EVT ⟨_, rfl⟩)
  · exact h12

theorem execRecompute_keeps {k : Fin 4} {s : State} :
    ∃ t, execRecompute k s = .next t ∧ Keeps [.dma, .miller, .weaver] [.HAM_STAT, .HAM_EVT, .HAM_CNT_RECOMP] s t := by
  unfold execRecompute
  have h0 : Keeps [.dma, .miller, .weaver] [.HAM_STAT, .HAM_EVT, .HAM_CNT_RECOMP] s s := keeps_refl
  exact ⟨_, rfl, (by
        split
        · exact h0
        · split
          · exact h0
          · extract_lets -useContext +onlyGivenNames x1 x3 x5 x7 x9 x11 x13 x15
            have h4 : As h0 x3 := keeps_step h0 setHam_keeps
            clear_value x3
            have h8 : As h0 x7 := keeps_step h4 setDec_keeps
            clear_value x7
            have h14 : As h0 x13 := keeps_step h8 setCh_keeps
            clear_value x13
            have h16 : As h0 x15 := setBit_keeps (count_keeps h14 (covers .HAM_CNT_RECOMP ⟨_, rfl⟩)) (covers .HAM_EVT
                ⟨_, rfl⟩)
            clear_value x15
            exact setBit_keeps h16 (covers .HAM_STAT ⟨_, rfl⟩))⟩

theorem settleHamlet_keeps {s : State} {k : Nat} {l : Nat} :
    Keeps [.pend, .landed] [.hamletSettings] s (State.settleHamlet s k l) := by
  unfold State.settleHamlet
  have h0 : Keeps [.pend, .landed] [.hamletSettings] s s := keeps_refl
  extract_lets -useContext +onlyGivenNames x1 x3
  have h4 : As h0 x3 := by
    refine landFields_keeps h0 (fun p hp => ?_) (by decide)
    have := (List.mem_filter.mp hp).2
    simp only [x1, Bool.and_eq_true, decide_eq_true_eq] at this
    exact covers .hamletSettings ⟨_, this.1.1⟩
  clear_value x3
  exact keeps_pend h4 _

theorem skipLine_keeps {s : State} {k : Nat} :
    Keeps [.weaver] [.HAM_EVT, .HAM_CNT_SKIP] s (State.skipLine s k) := by
  unfold State.skipLine
  have h0 : Keeps [.weaver] [.HAM_EVT, .HAM_CNT_SKIP] s s := keeps_refl
  extract_lets -useContext +onlyGivenNames x1 x3
  have h4 : As h0 x3 := keeps_step h0 setHam_keeps
  clear_value x3
  exact setBit_keeps (count_keeps h4 (covers .HAM_CNT_SKIP ⟨_, rfl⟩)) (covers .HAM_EVT ⟨_, rfl⟩)

theorem markLost_keeps {s : State} {k : Nat} {l : Nat} :
    Keeps [.freeCtr, .log, .weaver, .pages, .subs, .lastEvents] [.HAM_EVT, .HAM_CNT_LOST, .FAULT_EVT, .FAULT_LOG_WR,
    .FAULT_LOG_LOST] s (State.markLost s k l) := by
  unfold State.markLost
  have h0 : Keeps [.freeCtr, .log, .weaver, .pages, .subs, .lastEvents] [.HAM_EVT, .HAM_CNT_LOST, .FAULT_EVT,
      .FAULT_LOG_WR, .FAULT_LOG_LOST] s s := keeps_refl
  extract_lets -useContext +onlyGivenNames x1 x3 x5
  have h4 : As h0 x3 := keeps_step h0 setHam_keeps
  clear_value x3
  have h6 : As h0 x5 := setBit_keeps (count_keeps h4 (covers .HAM_CNT_LOST ⟨_, rfl⟩)) (covers .HAM_EVT ⟨_, rfl⟩)
  clear_value x5
  exact keeps_step (keeps_step h6 logFault_keeps) flagLine_keeps

theorem execTakeDeadline_keeps {a1 : Fin 24} {a2 : Fin 2} {s : State} :
    ∃ t, execTakeDeadline a1 a2 s = .next t ∧ Keeps [.freeCtr, .log, .pend, .landed, .hcs, .pages, .subs,
    .lastEvents] [.headSettings, .HC_EVT, .HC_CNT_LATE, .HAM_EVT, .HAM_CNT_BLANK, .FAULT_EVT, .FAULT_LOG_WR,
    .FAULT_LOG_LOST] s t := by
  unfold execTakeDeadline
  have h0 : Keeps [.freeCtr, .log, .pend, .landed, .hcs, .pages, .subs, .lastEvents] [.headSettings, .HC_EVT,
      .HC_CNT_LATE, .HAM_EVT, .HAM_CNT_BLANK, .FAULT_EVT, .FAULT_LOG_WR, .FAULT_LOG_LOST] s s := keeps_refl
  exact ⟨_, rfl, (keeps_ite (keeps_step h0 missTake_keeps) h0)⟩

theorem execRecomputeFailure_keeps {k : Fin 4} {s : State} :
    ∃ t, execRecomputeFailure k s = .next t ∧ Keeps [.log, .weaver, .subs, .lastEvents] [.HAM_STAT, .FAULT_EVT,
    .FAULT_LOG_WR, .FAULT_LOG_LOST] s t := by
  unfold execRecomputeFailure
  have h0 : Keeps [.log, .weaver, .subs, .lastEvents] [.HAM_STAT, .FAULT_EVT, .FAULT_LOG_WR, .FAULT_LOG_LOST] s s :=
      keeps_refl
  exact ⟨_, rfl, (by
        split
        · exact h0
        · extract_lets -useContext +onlyGivenNames x1 x3 x5
          have h4 : As h0 x3 := keeps_step h0 setHam_keeps
          clear_value x3
          have h6 : As h0 x5 := keeps_ite h4 (setBit_keeps h4 (covers .HAM_STAT ⟨_, rfl⟩))
          clear_value x5
          exact keeps_step (keeps_step h6 loseBlock_keeps) logFault_keeps)⟩

theorem passBy_keeps {k : Nat} {a1 : Nat} {a2 : State} :
    Keeps [.freeCtr, .log, .weaver, .pages, .subs, .lastEvents] [.HAM_EVT, .HAM_CNT_SKIP, .HAM_CNT_LOST, .FAULT_EVT,
    .FAULT_LOG_WR, .FAULT_LOG_LOST] a2 (State.passBy k a1 a2) := by
  induction a1 generalizing k a2 with
  | zero => unfold State.passBy; exact keeps_refl
  | succ a1 ih =>
    unfold State.passBy
    have h0 : Keeps [.freeCtr, .log, .weaver, .pages, .subs, .lastEvents] [.HAM_EVT, .HAM_CNT_SKIP, .HAM_CNT_LOST,
        .FAULT_EVT, .FAULT_LOG_WR, .FAULT_LOG_LOST] a2 a2 := keeps_refl
    extract_lets -useContext +onlyGivenNames x3 x5
    refine keeps_ite ?_ ?_
    · exact h0
    · refine keeps_ite ?_ ?_
      · exact keeps_step (keeps_step h0 skipLine_keeps) ih
      · refine keeps_ite ?_ ?_
        · exact keeps_step (keeps_step h0 markLost_keeps) ih
        · exact h0

theorem checkVersions_keeps {s : State} {k : Nat} {l : Nat} :
    Keeps [.freeCtr, .log, .pages, .subs, .lastEvents] [.WEAVER_EVT, .FAULT_EVT, .FAULT_LOG_WR, .FAULT_LOG_LOST] s
    (State.checkVersions s k l) := by
  unfold State.checkVersions
  have h0 : Keeps [.freeCtr, .log, .pages, .subs, .lastEvents] [.WEAVER_EVT, .FAULT_EVT, .FAULT_LOG_WR,
      .FAULT_LOG_LOST] s s := keeps_refl
  split
  · exact h0
  · extract_lets -useContext +onlyGivenNames x1 x3
    refine keeps_ite ?_ ?_
    · exact h0
    · extract_lets -useContext +onlyGivenNames x5
      have h6 : As h0 x5 := setBit_keeps (keeps_step h0 flagPage_keeps) (covers .WEAVER_EVT ⟨_, rfl⟩)
      clear_value x5
      exact keeps_step h6 logFault_keeps

theorem startPass_keeps {s : State} {k : Nat} {l : Nat} {first : Bool} {bad : List Nat} :
    Keeps [.freeCtr, .log, .pend, .landed, .weaver, .pages, .subs, .lastEvents, .nozRet, .thresholds]
    [.hamletSettings, .WEAVER_EVT, .HAM_STAT, .HAM_EVT, .HAM_CNT_LATE, .FAULT_EVT, .FAULT_LOG_WR, .FAULT_LOG_LOST] s
    (State.startPass s k l first bad) := by
  unfold State.startPass
  have h0 : Keeps [.freeCtr, .log, .pend, .landed, .weaver, .pages, .subs, .lastEvents, .nozRet, .thresholds]
      [.hamletSettings, .WEAVER_EVT, .HAM_STAT, .HAM_EVT, .HAM_CNT_LATE, .FAULT_EVT, .FAULT_LOG_WR, .FAULT_LOG_LOST]
      s s := keeps_refl
  extract_lets -useContext +onlyGivenNames x1 x3 x5
  have h2 : As h0 x1 := keeps_step (keeps_step h0 badNozzles_keeps) landArrays_keeps
  clear_value x1
  have h4 : As h0 x3 := keeps_ite (keeps_step (keeps_step (keeps_step h2 judgeStart_keeps) settleHamlet_keeps)
      checkVersions_keeps) h2
  clear_value x3
  have h6 : As h0 x5 := keeps_ite (setBit_keeps h4 (covers .WEAVER_EVT ⟨_, rfl⟩)) h4
  clear_value x5
  exact keeps_step h6 setHam_keeps

theorem writeRefs_keeps {s : State} {k : Nat} {p : PassOut} :
    Keeps [.log, .granary, .miller, .weaver, .cam, .subs, .lastEvents, .refs] [.GRANARY_STAT, .GRANARY_SR,
    .FAULT_EVT, .FAULT_LOG_WR, .FAULT_LOG_LOST] s (State.writeRefs s k p) := by
  unfold State.writeRefs
  have h0 : Keeps [.log, .granary, .miller, .weaver, .cam, .subs, .lastEvents, .refs] [.GRANARY_STAT, .GRANARY_SR,
      .FAULT_EVT, .FAULT_LOG_WR, .FAULT_LOG_LOST] s s := keeps_refl
  refine keeps_ite_neg h0 fun hn => ?_
  · refine keeps_ite ?_ ?_
    · exact keeps_step h0 setHam_keeps
    · split
      · refine keeps_ite ?_ ?_
        · exact h0
        · extract_lets -useContext +onlyGivenNames x1 x3 x5 x7 x9
          have h8 : As h0 x7 := keeps_step h0 (memPost_within .refs (refs_in hn (List.length_take_le _ _)))
          clear_value x7
          refine keeps_ite ?_ ?_
          · exact keeps_cam h8 _
          · exact h8
      · exact h0

theorem lineReady_keeps {s : State} {k : Nat} {p : PassOut} :
    Keeps [.log, .granary, .miller, .weaver, .cam, .subs, .lastEvents, .refs, .slots] [.GRANARY_STAT, .GRANARY_SR,
    .WEAVER_SCREENED, .WEAVER_EVT, .WEAVER_CNT_TWIN, .WEAVER_CNT_PARTNER, .WEAVER_CNT_BOOST, .WEAVER_CNT_LOST,
    .WEAVER_CNT_CLAMP, .FAULT_EVT, .FAULT_LOG_WR, .FAULT_LOG_LOST] s (State.lineReady s k p) := by
  unfold State.lineReady
  have h0 : Keeps [.log, .granary, .miller, .weaver, .cam, .subs, .lastEvents, .refs, .slots] [.GRANARY_STAT,
      .GRANARY_SR, .WEAVER_SCREENED, .WEAVER_EVT, .WEAVER_CNT_TWIN, .WEAVER_CNT_PARTNER, .WEAVER_CNT_BOOST,
      .WEAVER_CNT_LOST, .WEAVER_CNT_CLAMP, .FAULT_EVT, .FAULT_LOG_WR, .FAULT_LOG_LOST] s s := keeps_refl
  extract_lets -useContext +onlyGivenNames x1 x3 x5 x7 x9 x11
  have h4 : As h0 x3 := keeps_step h0 (setBytes_keeps .slots (slots_in (List.length_take_le _ _)))
  clear_value x3
  have h10 : As h0 x9 := keeps_step h4 setHam_keeps
  clear_value x9
  have h12 : As h0 x11 := keeps_setReg h10 (covers .WEAVER_SCREENED ⟨_, rfl⟩)
  clear_value x11
  exact keeps_step (keeps_step h12 weaverCounts_keeps) writeRefs_keeps

theorem prepareNext_keeps {s : State} {k : Nat} {bad : List Nat} :
    Keeps [.freeCtr, .log, .pend, .landed, .weaver, .pages, .subs, .lastEvents, .nozRet, .thresholds]
    [.hamletSettings, .WEAVER_EVT, .HAM_STAT, .HAM_EVT, .HAM_CNT_LATE, .HAM_CNT_SKIP, .HAM_CNT_LOST, .FAULT_EVT,
    .FAULT_LOG_WR, .FAULT_LOG_LOST] s (State.prepareNext s k bad) := by
  unfold State.prepareNext
  have h0 : Keeps [.freeCtr, .log, .pend, .landed, .weaver, .pages, .subs, .lastEvents, .nozRet, .thresholds]
      [.hamletSettings, .WEAVER_EVT, .HAM_STAT, .HAM_EVT, .HAM_CNT_LATE, .HAM_CNT_SKIP, .HAM_CNT_LOST, .FAULT_EVT,
      .FAULT_LOG_WR, .FAULT_LOG_LOST] s s := keeps_refl
  extract_lets -useContext +onlyGivenNames x1 x3 x5
  have h2 : As h0 x1 := keeps_step h0 passBy_keeps
  clear_value x1
  refine keeps_ite ?_ ?_
  · exact keeps_step h2 startPass_keeps
  · exact h2

theorem execScreeningPassEnd_keeps {k : Fin 4} {parity : Option ParityWord} {s : State} :
    ∃ t, execScreeningPassEnd k parity s = .next t ∧ Keeps [.log, .granary, .miller, .weaver, .cam, .subs,
    .lastEvents, .refs, .slots] [.GRANARY_STAT, .GRANARY_SR, .WEAVER_SCREENED, .WEAVER_EVT, .WEAVER_CNT_TWIN,
    .WEAVER_CNT_PARTNER, .WEAVER_CNT_BOOST, .WEAVER_CNT_LOST, .WEAVER_CNT_CLAMP, .HAM_STAT, .HAM_EVT,
    .HAM_CNT_PARITY, .FAULT_EVT, .FAULT_LOG_WR, .FAULT_LOG_LOST] s t := by
  unfold execScreeningPassEnd
  have h0 : Keeps [.log, .granary, .miller, .weaver, .cam, .subs, .lastEvents, .refs, .slots] [.GRANARY_STAT,
      .GRANARY_SR, .WEAVER_SCREENED, .WEAVER_EVT, .WEAVER_CNT_TWIN, .WEAVER_CNT_PARTNER, .WEAVER_CNT_BOOST,
      .WEAVER_CNT_LOST, .WEAVER_CNT_CLAMP, .HAM_STAT, .HAM_EVT, .HAM_CNT_PARITY, .FAULT_EVT, .FAULT_LOG_WR,
      .FAULT_LOG_LOST] s s := keeps_refl
  exact ⟨_, rfl, (by
        split
        · exact h0
        · refine keeps_ite ?_ ?_
          · exact h0
          · extract_lets -useContext +onlyGivenNames x1 x3 x5
            have h4 : As h0 x3 := keeps_step h0 setHam_keeps
            clear_value x3
            have h6 : As h0 x5 := setBit_keeps h4 (covers .HAM_STAT ⟨_, rfl⟩)
            clear_value x5
            split
            · exact keeps_step h6 lineReady_keeps
            · exact keeps_step h6 parityFault_keeps
            · exact keeps_step h6 parityFault_keeps
            · exact keeps_step h6 parityFault_keeps)⟩

theorem execSlotOpen_keeps {k : Fin 4} {bad : List Nat} {s : State} :
    ∃ t, execSlotOpen k bad s = .next t ∧ Keeps [.freeCtr, .log, .pend, .landed, .weaver, .pages, .subs, .lastEvents,
    .nozRet, .thresholds] [.hamletSettings, .WEAVER_EVT, .HAM_STAT, .HAM_EVT, .HAM_CNT_LATE, .HAM_CNT_SKIP,
    .HAM_CNT_LOST, .FAULT_EVT, .FAULT_LOG_WR, .FAULT_LOG_LOST] s t := by
  unfold execSlotOpen
  have h0 : Keeps [.freeCtr, .log, .pend, .landed, .weaver, .pages, .subs, .lastEvents, .nozRet, .thresholds]
      [.hamletSettings, .WEAVER_EVT, .HAM_STAT, .HAM_EVT, .HAM_CNT_LATE, .HAM_CNT_SKIP, .HAM_CNT_LOST, .FAULT_EVT,
      .FAULT_LOG_WR, .FAULT_LOG_LOST] s s := keeps_refl
  exact ⟨_, rfl, (keeps_ite (keeps_step h0 prepareNext_keeps) h0)⟩

theorem execScreeningPassStart_keeps {k : Fin 4} {bad : List Nat} {s : State} :
    ∃ t, execScreeningPassStart k bad s = .next t ∧ Keeps [.freeCtr, .log, .pend, .landed, .weaver, .pages, .subs,
    .lastEvents, .nozRet, .thresholds] [.hamletSettings, .WEAVER_EVT, .HAM_STAT, .HAM_EVT, .HAM_CNT_LATE,
    .HAM_CNT_SKIP, .HAM_CNT_LOST, .FAULT_EVT, .FAULT_LOG_WR, .FAULT_LOG_LOST] s t := by
  unfold execScreeningPassStart
  have h0 : Keeps [.freeCtr, .log, .pend, .landed, .weaver, .pages, .subs, .lastEvents, .nozRet, .thresholds]
      [.hamletSettings, .WEAVER_EVT, .HAM_STAT, .HAM_EVT, .HAM_CNT_LATE, .HAM_CNT_SKIP, .HAM_CNT_LOST, .FAULT_EVT,
      .FAULT_LOG_WR, .FAULT_LOG_LOST] s s := keeps_refl
  exact ⟨_, rfl, (keeps_ite (keeps_step h0 prepareNext_keeps) h0)⟩

end Sys2Proof.Laws
end

