-- ==== Sys2Proof/Laws/KeepsMotion.lean ====
section
/-! SUPPORT. What each operation of Machine/Motion.lean may change (`Keeps`): the parts of the state and the rows of registers. -/

set_option Elab.async false

namespace Sys2Proof.Laws

open Sys2Proof.Machine

theorem showAx_keeps {s : State} {n : Nat} :
    Keeps [.freeCtr, .axes] [.MOT_AXn_STAT, .MOT_AXn_POS, .MOT_AXn_VEL] s (State.showAx s n) := by
  unfold State.showAx
  have h0 : Keeps [.freeCtr, .axes] [.MOT_AXn_STAT, .MOT_AXn_POS, .MOT_AXn_VEL] s s := keeps_refl
  extract_lets -useContext +onlyGivenNames x1 x3 x5 x7 x9 x11 x13 x15 x17 x19 x21 x23 x25 x27 x29 x31 x33 x35 x37 x39
      x41 x43 x45 x47 x49 x51
  have h18 : As h0 x17 := keeps_setReg h0 (covers .MOT_AXn_POS ⟨_, rfl⟩)
  clear_value x17
  have h20 : As h0 x19 := keeps_setReg h18 (covers .MOT_AXn_VEL ⟨_, rfl⟩)
  clear_value x19
  have h22 : As h0 x21 := setBit_keeps (setBit_keeps h20 (covers .MOT_AXn_STAT ⟨_, rfl⟩)) (covers .MOT_AXn_STAT ⟨_,
      rfl⟩)
  clear_value x21
  have h24 : As h0 x23 := keeps_ite h22 (setBit_keeps h22 (covers .MOT_AXn_STAT ⟨_, rfl⟩))
  clear_value x23
  have h26 : As h0 x25 := setBit_keeps h24 (covers .MOT_AXn_STAT ⟨_, rfl⟩)
  clear_value x25
  have h34 : As h0 x33 := setFld_keeps h26 (covers .MOT_AXn_STAT ⟨_, rfl⟩)
  clear_value x33
  exact keeps_step (keeps_step h34 setAx_keeps) drawnN_keeps

theorem gratioWrite_keeps {s : State} {v : Word} :
    Keeps [.axes] [.MOT_AX2_GRATIO] s (State.gratioWrite s v) := by
  unfold State.gratioWrite
  have h0 : Keeps [.axes] [.MOT_AX2_GRATIO] s s := keeps_refl
  extract_lets -useContext +onlyGivenNames x1
  have h2 : As h0 x1 := keeps_setReg h0 (covers .MOT_AX2_GRATIO rfl)
  clear_value x1
  refine keeps_ite ?_ ?_
  · exact h2
  · extract_lets -useContext +onlyGivenNames x3 x5 x7
    exact keeps_step h2 setAx_keeps

theorem setAxState_keeps {s : State} {n : Nat} {v : Nat} :
    Keeps [] [.MOT_AXn_STAT] s (State.setAxState s n v) := by
  unfold State.setAxState
  have h0 : Keeps [] [.MOT_AXn_STAT] s s := keeps_refl
  exact setFld_keeps h0 (covers .MOT_AXn_STAT ⟨_, rfl⟩)

theorem quickStopOne_keeps {s : State} {n : Nat} :
    Keeps [.axes] [.MOT_AXn_STAT] s (State.quickStopOne s n) := by
  unfold State.quickStopOne
  have h0 : Keeps [.axes] [.MOT_AXn_STAT] s s := keeps_refl
  extract_lets -useContext +onlyGivenNames x1
  refine keeps_ite ?_ ?_
  · exact h0
  · extract_lets -useContext +onlyGivenNames x3 x5
    exact keeps_step (keeps_step h0 setAx_keeps) setAxState_keeps

theorem quickStopPair_keeps {s : State} {n : Nat} :
    Keeps [.axes] [.MOT_AXn_STAT] s (State.quickStopPair s n) := by
  unfold State.quickStopPair
  have h0 : Keeps [.axes] [.MOT_AXn_STAT] s s := keeps_refl
  extract_lets -useContext +onlyGivenNames x1
  have h2 : As h0 x1 := keeps_step h0 quickStopOne_keeps
  clear_value x1
  refine keeps_ite ?_ ?_
  · exact keeps_step h2 quickStopOne_keeps
  · exact h2

theorem motEvent_keeps {s : State} {n : Nat} {k : Nat} :
    Keeps [] [.MOT_EVT] s (State.motEvent s n k) := by
  unfold State.motEvent
  have h0 : Keeps [] [.MOT_EVT] s s := keeps_refl
  exact keeps_setReg h0 (covers .MOT_EVT rfl)

theorem execDisengageGearing_keeps {a1 : Requester} {n : Fin 4} {s : State} :
    ∃ t, execDisengageGearing a1 n s = .next t ∧ Keeps [.resp, .axes] [.MOT_AXn_STAT] s t := by
  unfold execDisengageGearing
  have h0 : Keeps [.resp, .axes] [.MOT_AXn_STAT] s s := keeps_refl
  exact ⟨_, rfl, (by
        extract_lets -useContext +onlyGivenNames x2
        have h3 : As h0 x2 := keeps_step h0 written_keeps
        clear_value x2
        refine keeps_ite ?_ ?_
        · exact keeps_step (keeps_step h3 setAx_keeps) setAxState_keeps
        · exact h3)⟩

theorem ratioArm_keeps {s : State} :
    Keeps [.axes] [] s (State.ratioArm s) := by
  unfold State.ratioArm
  have h0 : Keeps [.axes] [] s s := keeps_refl
  refine keeps_ite ?_ ?_
  · exact h0
  · extract_lets -useContext +onlyGivenNames x1 x3 x5 x7 x9 x11 x13
    exact keeps_step h0 setAx_keeps

theorem moveTo_keeps {s : State} {n : Nat} {g : Int} :
    Keeps [.axes] [.MOT_AXn_STAT] s (State.moveTo s n g) := by
  unfold State.moveTo
  have h0 : Keeps [.axes] [.MOT_AXn_STAT] s s := keeps_refl
  extract_lets -useContext +onlyGivenNames x1 x3
  exact keeps_step (keeps_step h0 setAx_keeps) setAxState_keeps

theorem heldChange_keeps {s : State} {n : Nat} :
    Keeps [.axes] [] s (State.heldChange s n) := by
  unfold State.heldChange
  have h0 : Keeps [.axes] [] s s := keeps_refl
  extract_lets -useContext +onlyGivenNames x1
  refine keeps_ite ?_ ?_
  · exact keeps_step h0 setAx_keeps
  · exact h0

theorem execEngageGearing_keeps {a1 : Requester} {n : Fin 4} {s : State} :
    ∃ t, execEngageGearing a1 n s = .next t ∧ Keeps [.resp, .axes] [.MOT_AXn_STAT] s t := by
  unfold execEngageGearing
  have h0 : Keeps [.resp, .axes] [.MOT_AXn_STAT] s s := keeps_refl
  exact ⟨_, rfl, (by
        extract_lets -useContext +onlyGivenNames x2
        have h3 : As h0 x2 := keeps_step h0 written_keeps
        clear_value x2
        refine keeps_ite ?_ ?_
        · extract_lets -useContext +onlyGivenNames x4 x6 x8
          exact keeps_step (keeps_step h3 setAx_keeps) setAxState_keeps
        · exact h3)⟩

theorem motSpeedWrite_keeps {s : State} {n : Nat} {a : Nat} {v : Word} :
    Keeps [.axes] [.any] s (State.motSpeedWrite s n a v) := by
  unfold State.motSpeedWrite
  have h0 : Keeps [.axes] [.any] s s := keeps_refl
  exact keeps_step (keeps_setReg h0 (covers .any trivial)) heldChange_keeps

theorem startSafe_keeps {s : State} {n : Nat} :
    Keeps [.axes] [.MOT_AXn_STAT] s (State.startSafe s n) := by
  unfold State.startSafe
  have h0 : Keeps [.axes] [.MOT_AXn_STAT] s s := keeps_refl
  extract_lets -useContext +onlyGivenNames x1
  refine keeps_ite ?_ ?_
  · exact h0
  · extract_lets -useContext +onlyGivenNames x3 x5
    exact keeps_step (keeps_step h0 setAx_keeps) setAxState_keeps

theorem gschedHiWrite_keeps {s : State} {v : Word} :
    Keeps [.halfWrites, .axes] [.MOT_AX2_GSCHED_LO, .MOT_AX2_GSCHED_HI] s (State.gschedHiWrite s v) := by
  unfold State.gschedHiWrite
  have h0 : Keeps [.halfWrites, .axes] [.MOT_AX2_GSCHED_LO, .MOT_AX2_GSCHED_HI] s s := keeps_refl
  extract_lets -useContext +onlyGivenNames x1 x3
  have h4 : As h0 x3 := by
    unfold x3
    clear_value x1
    split
    · extract_lets -useContext +onlyGivenNames x5
      have h6 : As h0 x5 := keeps_setReg h0 (covers .MOT_AX2_GSCHED_LO rfl)
      clear_value x5
      exact keeps_halfWrites h6 _
    · exact h0
  clear_value x3
  exact keeps_step (keeps_setReg h4 (covers .MOT_AX2_GSCHED_HI rfl)) ratioArm_keeps

theorem motCtrlWrite_keeps {s : State} {n : Nat} {v : Word} :
    Keeps [.axes] [.MOT_AXn_CTRL, .MOT_AXn_STAT, .MOT_AXn_LINKOFS] s (State.motCtrlWrite s n v) := by
  unfold State.motCtrlWrite
  have h0 : Keeps [.axes] [.MOT_AXn_CTRL, .MOT_AXn_STAT, .MOT_AXn_LINKOFS] s s := keeps_refl
  extract_lets -useContext +onlyGivenNames x1 x3 x5 x7 x9 x11 x13 x15 x17
  have h12 : As h0 x11 := writeByCodes_keeps h0 (covers .MOT_AXn_CTRL ⟨_, rfl⟩)
  clear_value x11
  have h14 : As h0 x13 := setFld_keeps (setFld_keeps h12 (covers .MOT_AXn_CTRL ⟨_, rfl⟩)) (covers .MOT_AXn_CTRL ⟨_,
      rfl⟩)
  clear_value x13
  have h16 : As h0 x15 := keeps_ite (keeps_setReg h14 (covers .MOT_AXn_LINKOFS ⟨_, rfl⟩)) h14
  clear_value x15
  have h18 : As h0 x17 := keeps_ite (keeps_step h16 heldChange_keeps) h16
  clear_value x17
  refine keeps_ite ?_ ?_
  · exact keeps_step (keeps_step h18 setAx_keeps) setAxState_keeps
  · refine keeps_ite ?_ ?_
    · exact setBit_keeps (keeps_step (keeps_step h18 setAx_keeps) setAxState_keeps) (covers .MOT_AXn_STAT ⟨_, rfl⟩)
    · exact h18

theorem execRatioChangeArm_keeps {a1 : Requester} {v : Word} {s : State} :
    ∃ t, execRatioChangeArm a1 v s = .next t ∧ Keeps [.halfWrites, .resp, .axes] [.MOT_AX2_GSCHED_LO,
    .MOT_AX2_GSCHED_HI] s t := by
  unfold execRatioChangeArm
  have h0 : Keeps [.halfWrites, .resp, .axes] [.MOT_AX2_GSCHED_LO, .MOT_AX2_GSCHED_HI] s s := keeps_refl
  exact ⟨_, rfl, (keeps_step (keeps_step h0 gschedHiWrite_keeps) written_keeps)⟩

theorem execAxisDisable_keeps {a1 : Requester} {n : Fin 4} {v : Word} {s : State} :
    ∃ t, execAxisDisable a1 n v s = .next t ∧ Keeps [.resp, .axes] [.MOT_AXn_CTRL, .MOT_AXn_STAT, .MOT_AXn_LINKOFS] s
    t := by
  unfold execAxisDisable
  have h0 : Keeps [.resp, .axes] [.MOT_AXn_CTRL, .MOT_AXn_STAT, .MOT_AXn_LINKOFS] s s := keeps_refl
  exact ⟨_, rfl, (keeps_step (keeps_step h0 motCtrlWrite_keeps) written_keeps)⟩

theorem execAxisLink_keeps {a1 : Requester} {v : Word} {s : State} :
    ∃ t, execAxisLink a1 v s = .next t ∧ Keeps [.resp, .axes] [.MOT_AXn_CTRL, .MOT_AXn_STAT, .MOT_AXn_LINKOFS] s t :=
    by
  unfold execAxisLink
  have h0 : Keeps [.resp, .axes] [.MOT_AXn_CTRL, .MOT_AXn_STAT, .MOT_AXn_LINKOFS] s s := keeps_refl
  exact ⟨_, rfl, (keeps_step (keeps_step h0 motCtrlWrite_keeps) written_keeps)⟩

theorem execAxisEnable_keeps {a1 : Requester} {n : Fin 4} {v : Word} {s : State} :
    ∃ t, execAxisEnable a1 n v s = .next t ∧ Keeps [.resp, .axes] [.MOT_AXn_CTRL, .MOT_AXn_STAT, .MOT_AXn_LINKOFS] s
    t := by
  unfold execAxisEnable
  have h0 : Keeps [.resp, .axes] [.MOT_AXn_CTRL, .MOT_AXn_STAT, .MOT_AXn_LINKOFS] s s := keeps_refl
  exact ⟨_, rfl, (keeps_step (keeps_step h0 motCtrlWrite_keeps) written_keeps)⟩

theorem motSet_keeps {s : State} {a : Nat} {v : Word} :
    Keeps [.halfWrites, .axes] [.any] s (State.motSet s a v) := by
  unfold State.motSet
  have h0 : Keeps [.halfWrites, .axes] [.any] s s := keeps_refl
  refine keeps_ite ?_ ?_
  · exact writeByCodes_keeps h0 (covers .any trivial)
  · refine keeps_ite ?_ ?_
    · exact keeps_step h0 gratioWrite_keeps
    · refine keeps_ite ?_ ?_
      · exact keeps_step h0 gschedHiWrite_keeps
      · refine keeps_ite ?_ ?_
        · exact writeByCodes_keeps h0 (covers .any trivial)
        · extract_lets -useContext +onlyGivenNames x1 x3
          refine keeps_ite ?_ ?_
          · exact keeps_step h0 motCtrlWrite_keeps
          · refine keeps_ite ?_ ?_
            · exact keeps_step h0 motSpeedWrite_keeps
            · exact writeByCodes_keeps h0 (covers .any trivial)

theorem landMotion_keeps {s : State} :
    Keeps [.halfWrites, .axes, .mot] [.any] s (State.landMotion s) := by
  unfold State.landMotion
  have h0 : Keeps [.halfWrites, .axes, .mot] [.any] s s := keeps_refl
  exact keeps_foldl (keeps_mot h0 _) (fun _ _ h1 => (keeps_step h1 motSet_keeps))

theorem motLag_keeps {s : State} {lag : Nat} :
    Keeps [.freeCtr, .log, .mot, .subs, .lastEvents] [.FAULT_EVT, .FAULT_LOG_WR, .FAULT_LOG_LOST] s (State.motLag s
    lag) := by
  unfold State.motLag
  have h0 : Keeps [.freeCtr, .log, .mot, .subs, .lastEvents] [.FAULT_EVT, .FAULT_LOG_WR, .FAULT_LOG_LOST] s s :=
      keeps_refl
  refine keeps_ite ?_ ?_
  · exact keeps_mot h0 _
  · refine keeps_ite ?_ ?_
    · exact h0
    · exact keeps_step (keeps_step (keeps_mot h0 _) logFault_keeps) drawn_keeps

theorem motLog_keeps {s : State} {n : Nat} {kind : Nat} {cause : Nat} :
    Keeps [.freeCtr, .log, .subs, .lastEvents] [.FAULT_EVT, .FAULT_LOG_WR, .FAULT_LOG_LOST, .MOT_AXn_STAT] s
    (State.motLog s n kind cause) := by
  unfold State.motLog
  have h0 : Keeps [.freeCtr, .log, .subs, .lastEvents] [.FAULT_EVT, .FAULT_LOG_WR, .FAULT_LOG_LOST, .MOT_AXn_STAT] s
      s := keeps_refl
  extract_lets -useContext +onlyGivenNames x1
  have h2 : As h0 x1 := setFld_keeps h0 (covers .MOT_AXn_STAT ⟨_, rfl⟩)
  clear_value x1
  exact keeps_step (keeps_step h2 logFault_keeps) notify_keeps

theorem faultAx_keeps {s : State} {n : Nat} {cause : Nat} :
    Keeps [.freeCtr, .log, .axes, .subs, .lastEvents] [.FAULT_EVT, .FAULT_LOG_WR, .FAULT_LOG_LOST, .MOT_EVT,
    .MOT_AXn_STAT] s (State.faultAx s n cause) := by
  unfold State.faultAx
  have h0 : Keeps [.freeCtr, .log, .axes, .subs, .lastEvents] [.FAULT_EVT, .FAULT_LOG_WR, .FAULT_LOG_LOST, .MOT_EVT,
      .MOT_AXn_STAT] s s := keeps_refl
  refine keeps_ite ?_ ?_
  · exact h0
  · extract_lets -useContext +onlyGivenNames x1 x3 x5
    have h4 : As h0 x3 := keeps_step h0 setAx_keeps
    clear_value x3
    have h6 : As h0 x5 := keeps_step (keeps_step h4 setAxState_keeps) motEvent_keeps
    clear_value x5
    exact keeps_step (setBit_keeps h6 (covers .MOT_AXn_STAT ⟨_, rfl⟩)) motLog_keeps

theorem limits_keeps {s : State} {n : Nat} :
    Keeps [.freeCtr, .log, .axes, .subs, .lastEvents] [.FAULT_EVT, .FAULT_LOG_WR, .FAULT_LOG_LOST, .MOT_EVT,
    .MOT_AXn_STAT] s (State.limits s n) := by
  unfold State.limits
  have h0 : Keeps [.freeCtr, .log, .axes, .subs, .lastEvents] [.FAULT_EVT, .FAULT_LOG_WR, .FAULT_LOG_LOST, .MOT_EVT,
      .MOT_AXn_STAT] s s := keeps_refl
  extract_lets -useContext +onlyGivenNames x1 x3 x5 x7 x9 x11 x13
  have h14 : As h0 x13 := setBit_keeps (setBit_keeps h0 (covers .MOT_AXn_STAT ⟨_, rfl⟩)) (covers .MOT_AXn_STAT ⟨_,
      rfl⟩)
  clear_value x13
  refine keeps_ite ?_ ?_
  · exact keeps_step (keeps_step (keeps_step h14 quickStopPair_keeps) motEvent_keeps) motLog_keeps
  · exact h14

theorem refuseCmd_keeps {s : State} {n : Nat} :
    Keeps [.freeCtr, .log, .subs, .lastEvents] [.FAULT_EVT, .FAULT_LOG_WR, .FAULT_LOG_LOST, .MOT_EVT, .MOT_AXn_STAT]
    s (State.refuseCmd s n) := by
  unfold State.refuseCmd
  have h0 : Keeps [.freeCtr, .log, .subs, .lastEvents] [.FAULT_EVT, .FAULT_LOG_WR, .FAULT_LOG_LOST, .MOT_EVT,
      .MOT_AXn_STAT] s s := keeps_refl
  exact keeps_step (keeps_step h0 motEvent_keeps) motLog_keeps

theorem stopFault_keeps {s : State} {n : Nat} {cause : Nat} :
    Keeps [.freeCtr, .log, .axes, .subs, .lastEvents] [.FAULT_EVT, .FAULT_LOG_WR, .FAULT_LOG_LOST, .MOT_EVT,
    .MOT_AXn_STAT] s (State.stopFault s n cause) := by
  unfold State.stopFault
  have h0 : Keeps [.freeCtr, .log, .axes, .subs, .lastEvents] [.FAULT_EVT, .FAULT_LOG_WR, .FAULT_LOG_LOST, .MOT_EVT,
      .MOT_AXn_STAT] s s := keeps_refl
  refine keeps_ite ?_ ?_
  · exact h0
  · refine keeps_ite ?_ ?_
    · exact keeps_step h0 faultAx_keeps
    · extract_lets -useContext +onlyGivenNames x1
      have h2 : As h0 x1 := keeps_step h0 quickStopOne_keeps
      clear_value x1
      exact keeps_step (keeps_step h2 setAx_keeps) setAxState_keeps

theorem execStopAtDmax_keeps {a1 : Requester} {n : Fin 4} {s : State} :
    ∃ t, execStopAtDmax a1 n s = .next t ∧ Keeps [.resp, .freeCtr, .log, .axes, .subs, .lastEvents] [.FAULT_EVT,
    .FAULT_LOG_WR, .FAULT_LOG_LOST, .MOT_EVT, .MOT_AXn_STAT] s t := by
  unfold execStopAtDmax
  have h0 : Keeps [.resp, .freeCtr, .log, .axes, .subs, .lastEvents] [.FAULT_EVT, .FAULT_LOG_WR, .FAULT_LOG_LOST,
      .MOT_EVT, .MOT_AXn_STAT] s s := keeps_refl
  exact ⟨_, rfl, (by
        extract_lets -useContext +onlyGivenNames x2
        have h3 : As h0 x2 := keeps_step h0 written_keeps
        clear_value x2
        refine keeps_ite ?_ ?_
        · exact keeps_step h3 refuseCmd_keeps
        · refine keeps_ite ?_ ?_
          · exact h3
          · exact keeps_step (keeps_step h3 setAx_keeps) setAxState_keeps)⟩

theorem atStandstill_keeps {s : State} {n : Nat} :
    Keeps [.freeCtr, .log, .axes, .subs, .lastEvents] [.FAULT_EVT, .FAULT_LOG_WR, .FAULT_LOG_LOST, .MOT_EVT,
    .MOT_AXn_STAT] s (State.atStandstill s n) := by
  unfold State.atStandstill
  have h0 : Keeps [.freeCtr, .log, .axes, .subs, .lastEvents] [.FAULT_EVT, .FAULT_LOG_WR, .FAULT_LOG_LOST, .MOT_EVT,
      .MOT_AXn_STAT] s s := keeps_refl
  extract_lets -useContext +onlyGivenNames x1
  refine keeps_ite ?_ ?_
  · exact h0
  · split
    · exact keeps_step (keeps_step h0 setAx_keeps) motEvent_keeps
    · exact keeps_step h0 faultAx_keeps
    · exact keeps_step (setBit_keeps (keeps_step h0 setAx_keeps) (covers .MOT_AXn_STAT ⟨_, rfl⟩)) setAxState_keeps
    · extract_lets -useContext +onlyGivenNames x3
      exact keeps_step (keeps_step h0 setAx_keeps) setAxState_keeps
    · exact keeps_step (keeps_step (keeps_step h0 setAx_keeps) motEvent_keeps) setAxState_keeps
    · refine keeps_ite ?_ ?_
      · exact keeps_step h0 setAxState_keeps
      · exact h0

theorem execQuickStop_keeps {a1 : Requester} {n : Fin 4} {s : State} :
    ∃ t, execQuickStop a1 n s = .next t ∧ Keeps [.resp, .freeCtr, .log, .axes, .subs, .lastEvents] [.FAULT_EVT,
    .FAULT_LOG_WR, .FAULT_LOG_LOST, .MOT_EVT, .MOT_AXn_STAT] s t := by
  unfold execQuickStop
  have h0 : Keeps [.resp, .freeCtr, .log, .axes, .subs, .lastEvents] [.FAULT_EVT, .FAULT_LOG_WR, .FAULT_LOG_LOST,
      .MOT_EVT, .MOT_AXn_STAT] s s := keeps_refl
  exact ⟨_, rfl, (by
        extract_lets -useContext +onlyGivenNames x2
        have h3 : As h0 x2 := keeps_step h0 written_keeps
        clear_value x2
        refine keeps_ite ?_ ?_
        · exact keeps_step h3 refuseCmd_keeps
        · refine keeps_ite ?_ ?_
          · exact h3
          · exact keeps_step h3 quickStopPair_keeps)⟩

theorem execSetPosition_keeps {a1 : Requester} {n : Fin 4} {s : State} :
    ∃ t, execSetPosition a1 n s = .next t ∧ Keeps [.resp, .freeCtr, .log, .axes, .subs, .lastEvents] [.FAULT_EVT,
    .FAULT_LOG_WR, .FAULT_LOG_LOST, .MOT_EVT, .MOT_AXn_STAT, .MOT_AXn_POS] s t := by
  unfold execSetPosition
  have h0 : Keeps [.resp, .freeCtr, .log, .axes, .subs, .lastEvents] [.FAULT_EVT, .FAULT_LOG_WR, .FAULT_LOG_LOST,
      .MOT_EVT, .MOT_AXn_STAT, .MOT_AXn_POS] s s := keeps_refl
  exact ⟨_, rfl, (by
        extract_lets -useContext +onlyGivenNames x2 x4
        have h3 : As h0 x2 := keeps_step h0 written_keeps
        clear_value x2
        refine keeps_ite ?_ ?_
        · exact keeps_step h3 refuseCmd_keeps
        · refine keeps_ite ?_ ?_
          · extract_lets -useContext +onlyGivenNames x6
            exact keeps_setReg (keeps_step h3 setAx_keeps) (covers .MOT_AXn_POS ⟨_, rfl⟩)
          · exact h3)⟩

theorem execMoveToTarget_keeps {a1 : Requester} {n : Fin 4} {s : State} :
    ∃ t, execMoveToTarget a1 n s = .next t ∧ Keeps [.resp, .freeCtr, .log, .axes, .subs, .lastEvents] [.FAULT_EVT,
    .FAULT_LOG_WR, .FAULT_LOG_LOST, .MOT_EVT, .MOT_AXn_STAT] s t := by
  unfold execMoveToTarget
  have h0 : Keeps [.resp, .freeCtr, .log, .axes, .subs, .lastEvents] [.FAULT_EVT, .FAULT_LOG_WR, .FAULT_LOG_LOST,
      .MOT_EVT, .MOT_AXn_STAT] s s := keeps_refl
  exact ⟨_, rfl, (by
        extract_lets -useContext +onlyGivenNames x2 x4
        have h3 : As h0 x2 := keeps_step h0 written_keeps
        clear_value x2
        refine keeps_ite ?_ ?_
        · exact keeps_step h3 refuseCmd_keeps
        · refine keeps_ite ?_ ?_
          · exact h3
          · exact keeps_step h3 moveTo_keeps)⟩

theorem execHomeAxis_keeps {a1 : Requester} {n : Fin 4} {s : State} :
    ∃ t, execHomeAxis a1 n s = .next t ∧ Keeps [.resp, .freeCtr, .log, .axes, .subs, .lastEvents] [.FAULT_EVT,
    .FAULT_LOG_WR, .FAULT_LOG_LOST, .MOT_EVT, .MOT_AXn_STAT] s t := by
  unfold execHomeAxis
  have h0 : Keeps [.resp, .freeCtr, .log, .axes, .subs, .lastEvents] [.FAULT_EVT, .FAULT_LOG_WR, .FAULT_LOG_LOST,
      .MOT_EVT, .MOT_AXn_STAT] s s := keeps_refl
  exact ⟨_, rfl, (by
        extract_lets -useContext +onlyGivenNames x2 x4 x6
        have h3 : As h0 x2 := keeps_step h0 written_keeps
        clear_value x2
        refine keeps_ite ?_ ?_
        · exact keeps_step h3 refuseCmd_keeps
        · refine keeps_ite ?_ ?_
          · exact h3
          · extract_lets -useContext +onlyGivenNames x8
            exact keeps_step (keeps_step h3 setAx_keeps) setAxState_keeps)⟩

theorem gearStep_keeps {s : State} :
    Keeps [.freeCtr, .log, .axes, .subs, .lastEvents] [.FAULT_EVT, .FAULT_LOG_WR, .FAULT_LOG_LOST, .MOT_EVT,
    .MOT_AXn_STAT, .MOT_AX2_GRATIO] s (State.gearStep s) := by
  unfold State.gearStep
  have h0 : Keeps [.freeCtr, .log, .axes, .subs, .lastEvents] [.FAULT_EVT, .FAULT_LOG_WR, .FAULT_LOG_LOST, .MOT_EVT,
      .MOT_AXn_STAT, .MOT_AX2_GRATIO] s s := keeps_refl
  extract_lets -useContext +onlyGivenNames x1 x3 x5 x7 x9 x11 x13 x15 x17 x19 x21 x23 x25 x27 x29 x31 x33 x35 x37 x39
      x41
  have h8 : As h0 x7 := keeps_ite (keeps_step (keeps_step h0 motEvent_keeps) motLog_keeps) h0
  clear_value x7
  have h14 : As h0 x13 := by
    unfold x13
    split
    · exact keeps_step (keeps_setReg h8 (covers .MOT_AX2_GRATIO rfl)) motEvent_keeps
    · exact h8
  clear_value x13
  have h16 : As h0 x15 := setBit_keeps h14 (covers .MOT_AXn_STAT ⟨_, rfl⟩)
  clear_value x15
  have h34 : As h0 x33 := keeps_step h16 drawnN_keeps
  clear_value x33
  have h36 : As h0 x35 := setFld_keeps h34 (covers .MOT_AXn_STAT ⟨_, rfl⟩)
  clear_value x35
  have h40 : As h0 x39 := keeps_step h36 setAx_keeps
  clear_value x39
  refine keeps_ite ?_ ?_
  · exact keeps_step h40 stopFault_keeps
  · exact h40

theorem faultPair_keeps {s : State} {n : Nat} {cause : Nat} :
    Keeps [.freeCtr, .log, .axes, .subs, .lastEvents] [.FAULT_EVT, .FAULT_LOG_WR, .FAULT_LOG_LOST, .MOT_EVT,
    .MOT_AXn_STAT] s (State.faultPair s n cause) := by
  unfold State.faultPair
  have h0 : Keeps [.freeCtr, .log, .axes, .subs, .lastEvents] [.FAULT_EVT, .FAULT_LOG_WR, .FAULT_LOG_LOST, .MOT_EVT,
      .MOT_AXn_STAT] s s := keeps_refl
  extract_lets -useContext +onlyGivenNames x1
  have h2 : As h0 x1 := keeps_step h0 faultAx_keeps
  clear_value x1
  refine keeps_ite ?_ ?_
  · exact keeps_step h2 stopFault_keeps
  · exact h2

theorem execCurrentSample_keeps {n : Fin 4} {a : BitVec 12} {b : BitVec 12} {s : State} :
    ∃ t, execCurrentSample n a b s = .next t ∧ Keeps [.freeCtr, .log, .axes, .subs, .lastEvents] [.FAULT_EVT,
    .FAULT_LOG_WR, .FAULT_LOG_LOST, .MOT_EVT, .MOT_AXn_STAT] s t := by
  unfold execCurrentSample
  have h0 : Keeps [.freeCtr, .log, .axes, .subs, .lastEvents] [.FAULT_EVT, .FAULT_LOG_WR, .FAULT_LOG_LOST, .MOT_EVT,
      .MOT_AXn_STAT] s s := keeps_refl
  exact ⟨_, rfl, (by
        extract_lets -useContext +onlyGivenNames x1 x3 x5 x7 x9
        have h8 : As h0 x7 := keeps_step h0 setAx_keeps
        clear_value x7
        refine keeps_ite ?_ ?_
        · exact keeps_step h8 faultPair_keeps
        · exact h8)⟩

theorem homeStep_keeps {s : State} {n : Nat} :
    Keeps [.freeCtr, .log, .axes, .subs, .lastEvents] [.FAULT_EVT, .FAULT_LOG_WR, .FAULT_LOG_LOST, .MOT_EVT,
    .MOT_AXn_STAT] s (State.homeStep s n) := by
  unfold State.homeStep
  have h0 : Keeps [.freeCtr, .log, .axes, .subs, .lastEvents] [.FAULT_EVT, .FAULT_LOG_WR, .FAULT_LOG_LOST, .MOT_EVT,
      .MOT_AXn_STAT] s s := keeps_refl
  extract_lets -useContext +onlyGivenNames x1 x3 x5 x7 x9 x11
  refine keeps_ite ?_ ?_
  · refine keeps_ite ?_ ?_
    · exact keeps_step h0 setAx_keeps
    · refine keeps_ite ?_ ?_
      · exact keeps_step h0 setAx_keeps
      · exact h0
  · refine keeps_ite ?_ ?_
    · refine keeps_ite ?_ ?_
      · exact keeps_step h0 setAx_keeps
      · exact h0
    · refine keeps_ite ?_ ?_
      · refine keeps_ite ?_ ?_
        · exact h0
        · exact keeps_step h0 setAx_keeps
      · refine keeps_ite ?_ ?_
        · refine keeps_ite ?_ ?_
          · exact keeps_step h0 setAx_keeps
          · exact h0
        · refine keeps_ite ?_ ?_
          · refine keeps_ite ?_ ?_
            · extract_lets -useContext +onlyGivenNames x13 x15
              exact keeps_step (keeps_step h0 setAx_keeps) drawn_keeps
            · refine keeps_ite ?_ ?_
              · exact keeps_step h0 setAx_keeps
              · exact h0
          · refine keeps_ite ?_ ?_
            · refine keeps_ite ?_ ?_
              · extract_lets -useContext +onlyGivenNames x17
                have h18 : As h0 x17 := setBit_keeps (keeps_step h0 setAx_keeps) (covers .MOT_AXn_STAT ⟨_, rfl⟩)
                clear_value x17
                exact keeps_step (keeps_step h18 motEvent_keeps) setAxState_keeps
              · exact h0
            · refine keeps_ite ?_ ?_
              · exact keeps_step h0 faultPair_keeps
              · exact h0

theorem execBridgeFault_keeps {n : Fin 4} {s : State} :
    ∃ t, execBridgeFault n s = .next t ∧ Keeps [.freeCtr, .log, .axes, .subs, .lastEvents] [.FAULT_EVT,
    .FAULT_LOG_WR, .FAULT_LOG_LOST, .MOT_EVT, .MOT_AXn_STAT] s t := by
  unfold execBridgeFault
  have h0 : Keeps [.freeCtr, .log, .axes, .subs, .lastEvents] [.FAULT_EVT, .FAULT_LOG_WR, .FAULT_LOG_LOST, .MOT_EVT,
      .MOT_AXn_STAT] s s := keeps_refl
  exact ⟨_, rfl, (keeps_step h0 faultPair_keeps)⟩

theorem moveAx_keeps {s : State} {n : Nat} :
    Keeps [.freeCtr, .log, .axes, .subs, .lastEvents] [.FAULT_EVT, .FAULT_LOG_WR, .FAULT_LOG_LOST, .MOT_EVT,
    .MOT_AXn_STAT, .MOT_AX2_GRATIO] s (State.moveAx s n) := by
  unfold State.moveAx
  have h0 : Keeps [.freeCtr, .log, .axes, .subs, .lastEvents] [.FAULT_EVT, .FAULT_LOG_WR, .FAULT_LOG_LOST, .MOT_EVT,
      .MOT_AXn_STAT, .MOT_AX2_GRATIO] s s := keeps_refl
  extract_lets -useContext +onlyGivenNames x1
  refine keeps_ite ?_ ?_
  · exact h0
  · refine keeps_ite ?_ ?_
    · extract_lets -useContext +onlyGivenNames x3
      exact keeps_step (keeps_step h0 setAx_keeps) atStandstill_keeps
    · refine keeps_ite ?_ ?_
      · exact keeps_step h0 gearStep_keeps
      · extract_lets -useContext +onlyGivenNames x5
        have h6 : As h0 x5 := keeps_step h0 setAx_keeps
        clear_value x5
        refine keeps_ite ?_ ?_
        · exact keeps_step h6 homeStep_keeps
        · exact keeps_step h6 atStandstill_keeps

theorem execMotionUpdate_keeps {s : State} :
    ∃ t, execMotionUpdate s = .next t ∧ Keeps [.halfWrites, .freeCtr, .log, .axes, .mot, .subs, .lastEvents] [.any] s
    t := by
  unfold execMotionUpdate
  have h0 : Keeps [.halfWrites, .freeCtr, .log, .axes, .mot, .subs, .lastEvents] [.any] s s := keeps_refl
  exact ⟨_, rfl, (by
        extract_lets -useContext +onlyGivenNames x1
        refine keeps_ite ?_ ?_
        · exact h0
        · extract_lets -useContext +onlyGivenNames x3
          have h4 : As h0 x3 := keeps_step (keeps_step h0 motLag_keeps) landMotion_keeps
          clear_value x3
          exact keeps_foldl (keeps_mot h4 _) (fun _ _ h5 => (keeps_step (keeps_step (keeps_step (keeps_step h5
              startSafe_keeps) limits_keeps) moveAx_keeps) showAx_keeps)))⟩

end Sys2Proof.Laws
end

