-- ==== Sys2Proof/Laws/KeepsFlash.lean ====
section
/-! SUPPORT. What each operation of Machine/Flash.lean may change (`Keeps`): the parts of the state and the rows of registers. -/

set_option Elab.async false

namespace Sys2Proof.Laws

open Sys2Proof.Machine

theorem noImage_keeps {s : State} :
    Keeps [] [.SEC_STAT] s (State.noImage s) := by
  unfold State.noImage
  have h0 : Keeps [] [.SEC_STAT] s s := keeps_refl
  exact setBit_keeps h0 (covers .SEC_STAT rfl)

theorem watchWrite_keeps {s : State} {a : Nat} {v : Nat} :
    Keeps [.pwr] [.CLKPWR_STAT] s (State.watchWrite s a v) := by
  unfold State.watchWrite
  have h0 : Keeps [.pwr] [.CLKPWR_STAT] s s := keeps_refl
  extract_lets -useContext +onlyGivenNames x1
  have h2 : As h0 x1 := setBit_keeps h0 (covers .CLKPWR_STAT rfl)
  clear_value x1
  exact keeps_pwr h2 _

theorem setStage_keeps {s : State} {v : Nat} :
    Keeps [.flash] [.SEC_STAT] s (State.setStage s v) := by
  unfold State.setStage
  have h0 : Keeps [.flash] [.SEC_STAT] s s := keeps_refl
  extract_lets -useContext +onlyGivenNames x1
  have h2 : As h0 x1 := setFld_keeps h0 (covers .SEC_STAT rfl)
  clear_value x1
  exact keeps_flash h2 _

theorem setBootState_keeps {s : State} {v : Nat} {window : Nat} :
    Keeps [.pwr] [.CLKPWR_STAT, .SEC_STAT] s (State.setBootState s v window) := by
  unfold State.setBootState
  have h0 : Keeps [.pwr] [.CLKPWR_STAT, .SEC_STAT] s s := keeps_refl
  exact keeps_step (setFld_keeps h0 (covers .SEC_STAT rfl)) watchWrite_keeps

theorem showJournal_keeps {s : State} :
    Keeps [] [.SEC_JOURNAL] s (State.showJournal s) := by
  unfold State.showJournal
  have h0 : Keeps [] [.SEC_JOURNAL] s s := keeps_refl
  extract_lets -useContext +onlyGivenNames x1
  exact setFld_keeps (setFld_keeps (setFld_keeps h0 (covers .SEC_JOURNAL rfl)) (covers .SEC_JOURNAL rfl)) (covers
      .SEC_JOURNAL rfl)

theorem setAct_keeps {s : State} {v : Nat} :
    Keeps [] [.SEC_STAT] s (State.setAct s v) := by
  unfold State.setAct
  have h0 : Keeps [] [.SEC_STAT] s s := keeps_refl
  exact setFld_keeps h0 (covers .SEC_STAT rfl)

theorem agreeBootState_keeps {s : State} {v : Nat} :
    Keeps [.pwr] [.CLKPWR_STAT, .SEC_STAT] s (State.agreeBootState s v) := by
  unfold State.agreeBootState
  have h0 : Keeps [.pwr] [.CLKPWR_STAT, .SEC_STAT] s s := keeps_refl
  refine keeps_ite ?_ ?_
  · exact setFld_keeps h0 (covers .SEC_STAT rfl)
  · exact keeps_step h0 setBootState_keeps

theorem journal_keeps {s : State} {step : Nat} {block : Nat} :
    Keeps [.flash] [.SEC_JOURNAL] s (State.journal s step block) := by
  unfold State.journal
  have h0 : Keeps [.flash] [.SEC_JOURNAL] s s := keeps_refl
  extract_lets -useContext +onlyGivenNames x1
  split
  · exact keeps_step (keeps_flash h0 _) showJournal_keeps

theorem bootRegs_keeps {s : State} :
    Keeps [.flash] [.SEC_STAT, .SEC_KEYSLOT, .SEC_SECVER, .SEC_JOURNAL, .SEC_PUBKEYw] s (State.bootRegs s) := by
  unfold State.bootRegs
  have h0 : Keeps [.flash] [.SEC_STAT, .SEC_KEYSLOT, .SEC_SECVER, .SEC_JOURNAL, .SEC_PUBKEYw] s s := keeps_refl
  extract_lets -useContext +onlyGivenNames x1 x4 x6 x8 x11
  have h2 : As h0 x1 := keeps_foldl h0 (fun _ _ h3 => (setFld_keeps h3 (covers .SEC_KEYSLOT rfl)))
  clear_value x1
  have h5 : As h0 x4 := setBit_keeps h2 (covers .SEC_KEYSLOT rfl)
  clear_value x4
  have h7 : As h0 x6 := setFld_keeps h5 (covers .SEC_SECVER rfl)
  clear_value x6
  have h9 : As h0 x8 := keeps_foldl h7 (fun _ _ h10 => (keeps_setReg h10 (covers .SEC_PUBKEYw ⟨_, rfl⟩)))
  clear_value x8
  have h12 : As h0 x11 := keeps_step (setBit_keeps h9 (covers .SEC_STAT rfl)) showJournal_keeps
  clear_value x11
  exact keeps_step h12 setStage_keeps

theorem tryStaging_keeps {s : State} :
    Keeps [.flash, .sec] [.SEC_STAT, .SEC_JOURNAL] s (State.tryStaging s) := by
  unfold State.tryStaging
  have h0 : Keeps [.flash, .sec] [.SEC_STAT, .SEC_JOURNAL] s s := keeps_refl
  refine keeps_ite ?_ ?_
  · extract_lets -useContext +onlyGivenNames x1
    have h2 : As h0 x1 := keeps_step h0 journal_keeps
    clear_value x1
    exact keeps_sec h2 _
  · extract_lets -useContext +onlyGivenNames x3
    have h4 : As h0 x3 := keeps_step h0 noImage_keeps
    clear_value x3
    exact keeps_sec h4 _

theorem beginFallback_keeps {s : State} {cause : Nat} :
    Keeps [.pwr, .flash, .sec] [.CLKPWR_STAT, .SEC_STAT, .SEC_JOURNAL] s (State.beginFallback s cause) := by
  unfold State.beginFallback
  have h0 : Keeps [.pwr, .flash, .sec] [.CLKPWR_STAT, .SEC_STAT, .SEC_JOURNAL] s s := keeps_refl
  extract_lets -useContext +onlyGivenNames x1
  have h2 : As h0 x1 := keeps_step h0 watchWrite_keeps
  clear_value x1
  refine keeps_ite ?_ ?_
  · extract_lets -useContext +onlyGivenNames x3
    have h4 : As h0 x3 := keeps_step (keeps_step h2 journal_keeps) setBootState_keeps
    clear_value x3
    exact keeps_sec h4 _
  · exact keeps_step h2 tryStaging_keeps

theorem secLog_keeps {s : State} {cause : Nat} {kind : Nat} {detail : Nat} :
    Keeps [.freeCtr, .log, .subs, .lastEvents] [.FAULT_EVT, .FAULT_LOG_WR, .FAULT_LOG_LOST] s (State.secLog s cause
    kind detail) := by
  unfold State.secLog
  have h0 : Keeps [.freeCtr, .log, .subs, .lastEvents] [.FAULT_EVT, .FAULT_LOG_WR, .FAULT_LOG_LOST] s s := keeps_refl
  exact keeps_step (keeps_step h0 logFault_keeps) notify_keeps

theorem bootRom_keeps {s : State} {why : Nat} :
    Keeps [.pwr, .flash, .sec] [.CLKPWR_STAT, .SEC_STAT, .SEC_KEYSLOT, .SEC_SECVER, .SEC_JOURNAL, .SEC_PUBKEYw] s
    (State.bootRom s why) := by
  unfold State.bootRom
  have h0 : Keeps [.pwr, .flash, .sec] [.CLKPWR_STAT, .SEC_STAT, .SEC_KEYSLOT, .SEC_SECVER, .SEC_JOURNAL,
      .SEC_PUBKEYw] s s := keeps_refl
  extract_lets -useContext +onlyGivenNames x1 x3 x5 x7
  have h4 : As h0 x3 := keeps_sec h0 _
  have h6 : As h0 x5 := keeps_step (keeps_ite (keeps_step h4 setStage_keeps) h4) bootRegs_keeps
  refine keeps_ite ?_ ?_
  · refine keeps_ite ?_ ?_
    · exact keeps_step h6 setBootState_keeps
    · exact keeps_step h6 beginFallback_keeps
  · refine keeps_ite ?_ ?_
    · exact keeps_step (keeps_step h6 setStage_keeps) beginFallback_keeps
    · extract_lets -useContext +onlyGivenNames x9
      have h10 : As h0 x9 := keeps_ite (keeps_step (keeps_step h6 setAct_keeps) agreeBootState_keeps) (keeps_step h6
          agreeBootState_keeps)
      exact keeps_sec h10 _

end Sys2Proof.Laws
end

