-- ==== Sys2Proof/Laws/KeepsPower.lean ====
section
/-! SUPPORT. What each operation of Machine/Power.lean may change (`Keeps`): the parts of the state and the rows of registers. -/

set_option Elab.async false

namespace Sys2Proof.Laws

open Sys2Proof.Machine

theorem noteClocks_keeps {s : State} :
    Keeps [.pwr] [] s (State.noteClocks s) := by
  unfold State.noteClocks
  have h0 : Keeps [.pwr] [] s s := keeps_refl
  exact keeps_pwr h0 _

theorem refuseReq_keeps {s : State} :
    Keeps [] [.CLKPWR_EVT] s (State.refuseReq s).2 := by
  unfold State.refuseReq
  have h0 : Keeps [] [.CLKPWR_EVT] s s := keeps_refl
  exact setBit_keeps h0 (covers .CLKPWR_EVT rfl)

theorem watchPairWrite_keeps {s : State} {a1 : Requester} {lo : Nat} {high : Bool} {v : Word} :
    Keeps [.halfWrites, .resp, .pwr] [.CLKPWR_STAT] s (State.watchPairWrite s a1 lo high v) := by
  unfold State.watchPairWrite
  have h0 : Keeps [.halfWrites, .resp, .pwr] [.CLKPWR_STAT] s s := keeps_refl
  refine keeps_ite ?_ ?_
  · extract_lets -useContext +onlyGivenNames x2 x4 x6
    have h7 : As h0 x6 := keeps_step h0 watchWrite_keeps
    clear_value x6
    exact keeps_step (keeps_halfWrites h7 _) written_keeps
  · exact keeps_step (keeps_halfWrites h0 _) written_keeps

theorem execDroopCleared_keeps {s : State} :
    ∃ t, execDroopCleared s = .next t ∧ Keeps [.pwr] [.CLKPWR_STAT] s t := by
  unfold execDroopCleared
  have h0 : Keeps [.pwr] [.CLKPWR_STAT] s s := keeps_refl
  exact ⟨_, rfl, (by
        extract_lets -useContext +onlyGivenNames x1 x3
        have h4 : As h0 x3 := keeps_pwr h0 _
        exact setBit_keeps h4 (covers .CLKPWR_STAT rfl))⟩

theorem execDroopStretch_keeps {s : State} :
    ∃ t, execDroopStretch s = .next t ∧ Keeps [.pwr] [.CLKPWR_STAT] s t := by
  unfold execDroopStretch
  have h0 : Keeps [.pwr] [.CLKPWR_STAT] s s := keeps_refl
  exact ⟨_, rfl, (by
        extract_lets -useContext +onlyGivenNames x1 x3 x5
        have h6 : As h0 x5 := keeps_pwr h0 _
        exact setBit_keeps h6 (covers .CLKPWR_STAT rfl))⟩

theorem execVbatLoss_keeps {s : State} :
    ∃ t, execVbatLoss s = .next t ∧ Keeps [.halfWrites, .pwr, .sec] [.watchman, .CLKPWR_STAT] s t := by
  unfold execVbatLoss
  refine ⟨_, rfl, ?_⟩
  extract_lets -useContext +onlyGivenNames u1 u2 x1
  have h1 : Keeps [.halfWrites, .pwr, .sec] [.watchman, .CLKPWR_STAT] s x1 :=
    ⟨rfl, fun g => ⟨g.mem, swf_filter _ g.regs, g.log⟩,
      fun p hp => by cases p <;> first | rfl | trivial | exact absurd (by decide) hp,
      fun a ha => sget_filter fun e he => by
        have : ¬ (0x100400100 ≤ a ∧ a < 0x100400140) := ha .watchman (by decide)
        simp only [Bool.not_eq_true', decide_eq_false_iff_not, he, this, not_false_eq_true],
      fun _ _ => rfl⟩
  exact setBit_keeps h1 (covers .CLKPWR_STAT rfl)

theorem landWrite_keeps {s : State} {a : Nat} {v : Nat} :
    Keeps [.pwr] [.any] s (State.landWrite s a v) := by
  unfold State.landWrite
  have h0 : Keeps [.pwr] [.any] s s := keeps_refl
  refine keeps_ite ?_ ?_
  · exact keeps_pwr h0 _
  · refine keeps_ite ?_ ?_
    · exact setWide_keeps h0 (covers .any trivial) (covers .any trivial)
    · exact keeps_setReg h0 (covers .any trivial)

theorem kept_keeps {s : State} : Keeps [.highLatch, .halfWrites, .resp, .log, .link, .dma, .granary, .dramValid,
    .miller, .pend, .landed, .weaver, .hcs, .pos, .br, .cam, .cal, .axes, .mot, .eth, .pages, .subs, .lastEvents,
    .pwr, .sec, .mem] [.any] s s.kept := by
  unfold State.kept
  extract_lets -useContext +onlyGivenNames x1 u1 x2
  have h2 : Keeps [.highLatch, .halfWrites, .resp, .log, .link, .dma, .granary, .dramValid, .miller, .pend, .landed,
      .weaver, .hcs, .pos, .br, .cam, .cal, .axes, .mot, .eth, .pages, .subs, .lastEvents, .pwr, .sec, .mem] [.any] s
      x2 :=
    keeps_mk rfl (fun g => ⟨rfl, swf_filter _ g.regs, Nat.zero_le _⟩)
      (fun p hp => by cases p <;> first | rfl | trivial | exact absurd (by decide) hp)
  exact setBit_keeps h2 (covers .any trivial)

theorem setPtp_keeps {s : State} {a1 : Nat} :
    Keeps [.eth] [] s (State.setPtp s a1) := by
  unfold State.setPtp
  have h0 : Keeps [.eth] [] s s := keeps_refl
  exact keeps_eth h0 _

theorem execWatchmanWriteLand_keeps {s : State} :
    ∃ t, execWatchmanWriteLand s = .next t ∧ Keeps [.pwr] [.any] s t := by
  unfold execWatchmanWriteLand
  have h0 : Keeps [.pwr] [.any] s s := keeps_refl
  exact ⟨_, rfl, (by
        split
        · exact h0
        · extract_lets -useContext +onlyGivenNames x1 x3
          have h4 : As h0 x3 := keeps_step (keeps_pwr h0 _) landWrite_keeps
          clear_value x3
          exact setBit_keeps h4 (covers .CLKPWR_STAT rfl))⟩

theorem coldReset_keeps {s : State} {cause : Nat} :
    Keeps [.highLatch, .halfWrites, .resp, .log, .link, .dma, .granary, .dramValid, .miller, .pend, .landed, .weaver,
    .hcs, .pos, .br, .cam, .cal, .axes, .mot, .eth, .pages, .subs, .lastEvents, .pwr, .sec, .mem] [.any] s
    (State.coldReset s cause) := by
  unfold State.coldReset
  have h0 : Keeps [.highLatch, .halfWrites, .resp, .log, .link, .dma, .granary, .dramValid, .miller, .pend, .landed,
      .weaver, .hcs, .pos, .br, .cam, .cal, .axes, .mot, .eth, .pages, .subs, .lastEvents, .pwr, .sec, .mem] [.any] s
      s := keeps_refl
  extract_lets -useContext +onlyGivenNames x1
  have h2 : As h0 x1 := keeps_step h0 kept_keeps
  clear_value x1
  exact keeps_pwr h2 _

theorem ptpFromRtc_keeps {s : State} :
    Keeps [.eth] [] s (State.ptpFromRtc s) := by
  unfold State.ptpFromRtc
  have h0 : Keeps [.eth] [] s s := keeps_refl
  exact keeps_step h0 setPtp_keeps

theorem enterDormant_keeps {s : State} :
    Keeps [.highLatch, .halfWrites, .resp, .freeCtr, .log, .link, .dma, .granary, .dramValid, .miller, .pend,
    .landed, .weaver, .hcs, .pos, .br, .cam, .cal, .axes, .mot, .eth, .pages, .subs, .lastEvents, .pwr, .sec, .mem]
    [.any] s (State.enterDormant s) := by
  unfold State.enterDormant
  have h0 : Keeps [.highLatch, .halfWrites, .resp, .freeCtr, .log, .link, .dma, .granary, .dramValid, .miller, .pend,
      .landed, .weaver, .hcs, .pos, .br, .cam, .cal, .axes, .mot, .eth, .pages, .subs, .lastEvents, .pwr, .sec, .mem]
      [.any] s s := keeps_refl
  extract_lets -useContext +onlyGivenNames x1
  have h2 : As h0 x1 := keeps_step (keeps_step h0 coldReset_keeps) setPower_keeps
  clear_value x1
  exact keeps_pwr h2 _

theorem standbyReached_keeps {s : State} :
    Keeps [.highLatch, .halfWrites, .resp, .freeCtr, .log, .link, .dma, .granary, .dramValid, .miller, .pend,
    .landed, .weaver, .hcs, .pos, .br, .cam, .cal, .axes, .mot, .eth, .pages, .subs, .lastEvents, .pwr, .sec, .mem]
    [.any] s (State.standbyReached s) := by
  unfold State.standbyReached
  have h0 : Keeps [.highLatch, .halfWrites, .resp, .freeCtr, .log, .link, .dma, .granary, .dramValid, .miller, .pend,
      .landed, .weaver, .hcs, .pos, .br, .cam, .cal, .axes, .mot, .eth, .pages, .subs, .lastEvents, .pwr, .sec, .mem]
      [.any] s s := keeps_refl
  extract_lets -useContext +onlyGivenNames x1 x3
  have h4 : As h0 x3 := keeps_step h0 setPower_keeps
  clear_value x3
  refine keeps_ite ?_ ?_
  · exact keeps_step h4 enterDormant_keeps
  · exact h4

theorem warmReset_keeps {s : State} {cause : Nat} : Keeps [.highLatch, .halfWrites, .resp, .log, .link, .dma,
    .granary, .dramValid, .miller, .pend, .landed, .weaver, .hcs, .pos, .br, .cam, .cal, .axes, .mot, .eth, .pages,
    .subs, .lastEvents, .pwr, .sec, .mem] [.any] s (s.warmReset cause) := by
  unfold State.warmReset
  have h0 : Keeps [.highLatch, .halfWrites, .resp, .log, .link, .dma, .granary, .dramValid, .miller, .pend, .landed,
      .weaver, .hcs, .pos, .br, .cam, .cal, .axes, .mot, .eth, .pages, .subs, .lastEvents, .pwr, .sec, .mem] [.any] s
      s := keeps_refl
  extract_lets -useContext +onlyGivenNames x1 x2 x3 x4 u5 x5
  have h1 : As h0 x1 := keeps_step h0 coldReset_keeps
  clear_value x1
  have h2 : As h0 x2 := keeps_foldl h1 (fun _ _ h => keeps_setReg h (covers .any trivial))
  clear_value x2
  have h3 : ∀ t f, As h0 t → As h0 (x3 t f) := fun _ _ h => setFld_keeps h (covers .any trivial)
  clear_value x3
  have h4 : As h0 x4 := h3 _ _ (h3 _ _ (h3 _ _ h2))
  clear_value x4
  have h5 : As h0 x5 := keeps_mk h4.queue (fun g => ⟨swf_filter _ g.mem, (h4.good g).regs, g.log⟩)
    (fun p hp => by cases p <;> first | exact h4.parts _ hp | trivial | exact absurd (by decide) hp)
  clear_value x5
  refine keeps_ite ?_ h5
  exact keeps_step (setBit_keeps (setBit_keeps h5 (covers .any trivial)) (covers .any trivial)) setChStates_keeps

theorem start_keeps {s : State} {why : Nat} :
    Keeps [.eth, .pwr, .flash, .sec] [.CLKPWR_STAT, .SEC_STAT, .SEC_KEYSLOT, .SEC_SECVER, .SEC_JOURNAL, .SEC_PUBKEYw]
    s (State.start s why) := by
  unfold State.start
  have h0 : Keeps [.eth, .pwr, .flash, .sec] [.CLKPWR_STAT, .SEC_STAT, .SEC_KEYSLOT, .SEC_SECVER, .SEC_JOURNAL,
      .SEC_PUBKEYw] s s := keeps_refl
  exact keeps_step (keeps_step h0 ptpFromRtc_keeps) bootRom_keeps

theorem execSelfRefreshEntered_keeps {s : State} :
    ∃ t, execSelfRefreshEntered s = .next t ∧ Keeps [.highLatch, .halfWrites, .resp, .freeCtr, .log, .link, .dma,
    .granary, .dramValid, .miller, .pend, .landed, .weaver, .hcs, .pos, .br, .cam, .cal, .axes, .mot, .eth, .pages,
    .subs, .lastEvents, .pwr, .sec, .mem] [.any] s t := by
  unfold execSelfRefreshEntered
  have h0 : Keeps [.highLatch, .halfWrites, .resp, .freeCtr, .log, .link, .dma, .granary, .dramValid, .miller, .pend,
      .landed, .weaver, .hcs, .pos, .br, .cam, .cal, .axes, .mot, .eth, .pages, .subs, .lastEvents, .pwr, .sec, .mem]
      [.any] s s := keeps_refl
  exact ⟨_, rfl, (keeps_ite (by
        extract_lets -useContext +onlyGivenNames x1
        have h2 : As h0 x1 := keeps_step h0 enterSelfRefresh_keeps
        clear_value x1
        refine keeps_ite ?_ ?_
        · exact keeps_step h2 standbyReached_keeps
        · exact h2) h0)⟩

theorem watchmanWrite_keeps {s : State} {a1 : Requester} {a : Nat} {v : Word} :
    Keeps [.resp, .log, .subs, .lastEvents, .pwr] [.FAULT_EVT, .FAULT_LOG_WR, .FAULT_LOG_LOST, .CLKPWR_STAT] s
    (State.watchmanWrite s a1 a v) := by
  unfold State.watchmanWrite
  have h0 : Keeps [.resp, .log, .subs, .lastEvents, .pwr] [.FAULT_EVT, .FAULT_LOG_WR, .FAULT_LOG_LOST, .CLKPWR_STAT]
      s s := keeps_refl
  refine keeps_ite ?_ ?_
  · exact keeps_step h0 refuse_keeps
  · refine keeps_ite ?_ ?_
    · exact keeps_step h0 written_keeps
    · exact keeps_step (keeps_step h0 watchWrite_keeps) written_keeps

theorem execRstn_keeps {level : Bool} {s : State} :
    ∃ t, execRstn level s = .next t ∧ Keeps [.highLatch, .halfWrites, .resp, .log, .link, .dma, .granary, .dramValid,
    .miller, .pend, .landed, .weaver, .hcs, .pos, .br, .cam, .cal, .axes, .mot, .eth, .pages, .subs, .lastEvents,
    .pwr, .flash, .sec, .mem] [.any] s t := by
  unfold execRstn
  have h0 : Keeps [.highLatch, .halfWrites, .resp, .log, .link, .dma, .granary, .dramValid, .miller, .pend, .landed,
      .weaver, .hcs, .pos, .br, .cam, .cal, .axes, .mot, .eth, .pages, .subs, .lastEvents, .pwr, .flash, .sec, .mem]
      [.any] s s := keeps_refl
  exact ⟨_, rfl, (keeps_ite h0 (keeps_ite (by
        extract_lets -useContext +onlyGivenNames x1 x3
        have h4 : As h0 x3 := keeps_pwr h0 _
        refine keeps_ite ?_ ?_
        · exact keeps_step h4 start_keeps
        · exact h4) (by
            extract_lets -useContext +onlyGivenNames x5 x7
            have h8 : As h0 x7 := keeps_pwr h0 _
            refine keeps_ite ?_ ?_
            · exact keeps_step h8 warmReset_keeps
            · exact h8)))⟩

theorem pwrLog_keeps {s : State} {kind : Nat} {cause : Nat} {detail : Nat} :
    Keeps [.log, .subs, .lastEvents] [.FAULT_EVT, .FAULT_LOG_WR, .FAULT_LOG_LOST] s (State.pwrLog s kind cause
    detail) := by
  unfold State.pwrLog
  have h0 : Keeps [.log, .subs, .lastEvents] [.FAULT_EVT, .FAULT_LOG_WR, .FAULT_LOG_LOST] s s := keeps_refl
  exact keeps_step h0 logFault_keeps

theorem execPorn_keeps {level : Bool} {s : State} :
    ∃ t, execPorn level s = .next t ∧ Keeps [.highLatch, .halfWrites, .resp, .log, .link, .dma, .granary, .dramValid,
    .miller, .pend, .landed, .weaver, .hcs, .pos, .br, .cam, .cal, .axes, .mot, .eth, .pages, .subs, .lastEvents,
    .pwr, .flash, .sec, .mem] [.any] s t := by
  unfold execPorn
  have h0 : Keeps [.highLatch, .halfWrites, .resp, .log, .link, .dma, .granary, .dramValid, .miller, .pend, .landed,
      .weaver, .hcs, .pos, .br, .cam, .cal, .axes, .mot, .eth, .pages, .subs, .lastEvents, .pwr, .flash, .sec, .mem]
      [.any] s s := keeps_refl
  exact ⟨_, rfl, (keeps_ite h0 (keeps_ite (by
        extract_lets -useContext +onlyGivenNames x1 x3
        have h4 : As h0 x3 := keeps_pwr h0 _
        refine keeps_ite ?_ ?_
        · exact keeps_step h4 start_keeps
        · exact h4) (by
            extract_lets -useContext +onlyGivenNames x5 x7
            have h8 : As h0 x7 := keeps_pwr h0 _
            exact keeps_step h8 coldReset_keeps)))⟩

theorem wakeUp_keeps {s : State} :
    Keeps [.highLatch, .halfWrites, .resp, .log, .link, .dma, .granary, .dramValid, .miller, .pend, .landed, .weaver,
    .hcs, .pos, .br, .cam, .cal, .axes, .mot, .eth, .pages, .subs, .lastEvents, .pwr, .flash, .sec, .mem] [.any] s
    (State.wakeUp s) := by
  unfold State.wakeUp
  have h0 : Keeps [.highLatch, .halfWrites, .resp, .log, .link, .dma, .granary, .dramValid, .miller, .pend, .landed,
      .weaver, .hcs, .pos, .br, .cam, .cal, .axes, .mot, .eth, .pages, .subs, .lastEvents, .pwr, .flash, .sec, .mem]
      [.any] s s := keeps_refl
  extract_lets -useContext +onlyGivenNames x1 x3
  have h4 : As h0 x3 := keeps_pwr h0 _
  exact keeps_step (keeps_step h4 coldReset_keeps) start_keeps

theorem execSagFallback_keeps {s : State} :
    ∃ t, execSagFallback s = .next t ∧ Keeps [.log, .subs, .lastEvents] [.FAULT_EVT, .FAULT_LOG_WR, .FAULT_LOG_LOST,
    .CLKPWR_STAT, .CLKPWR_EVT, .CLKPWR_SAGCNT] s t := by
  unfold execSagFallback
  have h0 : Keeps [.log, .subs, .lastEvents] [.FAULT_EVT, .FAULT_LOG_WR, .FAULT_LOG_LOST, .CLKPWR_STAT, .CLKPWR_EVT,
      .CLKPWR_SAGCNT] s s := keeps_refl
  exact ⟨_, rfl, (by
        split
        · refine keeps_ite ?_ ?_
          · extract_lets -useContext +onlyGivenNames x1 x3
            have h2 : As h0 x1 := setBit_keeps (setBit_keeps h0 (covers .CLKPWR_STAT rfl)) (covers .CLKPWR_STAT rfl)
            clear_value x1
            have h4 : As h0 x3 := setBit_keeps h2 (covers .CLKPWR_EVT rfl)
            clear_value x3
            exact keeps_step (count_keeps h4 (covers .CLKPWR_SAGCNT rfl)) pwrLog_keeps
          · exact h0
        · exact h0)⟩

theorem execSagRecover_keeps {s : State} :
    ∃ t, execSagRecover s = .next t ∧ Keeps [.log, .subs, .lastEvents] [.FAULT_EVT, .FAULT_LOG_WR, .FAULT_LOG_LOST,
    .CLKPWR_STAT, .CLKPWR_EVT] s t := by
  unfold execSagRecover
  have h0 : Keeps [.log, .subs, .lastEvents] [.FAULT_EVT, .FAULT_LOG_WR, .FAULT_LOG_LOST, .CLKPWR_STAT, .CLKPWR_EVT]
      s s := keeps_refl
  exact ⟨_, rfl, (by
        split
        · refine keeps_ite ?_ ?_
          · extract_lets -useContext +onlyGivenNames x1
            have h2 : As h0 x1 := setBit_keeps h0 (covers .CLKPWR_STAT rfl)
            clear_value x1
            exact keeps_step (setBit_keeps h2 (covers .CLKPWR_EVT rfl)) pwrLog_keeps
          · exact h0
        · exact h0)⟩

theorem wake_keeps {s : State} {src : Nat} :
    Keeps [.highLatch, .halfWrites, .resp, .log, .link, .dma, .granary, .dramValid, .miller, .pend, .landed, .weaver,
    .hcs, .pos, .br, .cam, .cal, .axes, .mot, .eth, .pages, .subs, .lastEvents, .pwr, .flash, .sec, .mem] [.any] s
    (State.wake s src) := by
  unfold State.wake
  have h0 : Keeps [.highLatch, .halfWrites, .resp, .log, .link, .dma, .granary, .dramValid, .miller, .pend, .landed,
      .weaver, .hcs, .pos, .br, .cam, .cal, .axes, .mot, .eth, .pages, .subs, .lastEvents, .pwr, .flash, .sec, .mem]
      [.any] s s := keeps_refl
  refine keeps_ite ?_ ?_
  · extract_lets -useContext +onlyGivenNames x1
    have h2 : As h0 x1 := keeps_setReg h0 (covers .CLKPWR_WAKESRC rfl)
    clear_value x1
    split
    · refine keeps_ite ?_ ?_
      · exact keeps_step h2 wakeUp_keeps
      · exact keeps_pwr h2 _
    · exact keeps_step h2 wakeUp_keeps
  · refine keeps_ite ?_ ?_
    · extract_lets -useContext +onlyGivenNames x3
      have h4 : As h0 x3 := keeps_setReg h0 (covers .CLKPWR_WAKESRC rfl)
      clear_value x3
      exact keeps_pwr h4 _
    · exact setBit_keeps h0 (covers .CLKPWR_EVT rfl)

theorem execWakeInput_keeps {k : Fin 4} {rising : Bool} {s : State} :
    ∃ t, execWakeInput k rising s = .next t ∧ Keeps [.highLatch, .halfWrites, .resp, .log, .link, .dma, .granary,
    .dramValid, .miller, .pend, .landed, .weaver, .hcs, .pos, .br, .cam, .cal, .axes, .mot, .eth, .pages, .subs,
    .lastEvents, .pwr, .flash, .sec, .mem] [.any] s t := by
  unfold execWakeInput
  have h0 : Keeps [.highLatch, .halfWrites, .resp, .log, .link, .dma, .granary, .dramValid, .miller, .pend, .landed,
      .weaver, .hcs, .pos, .br, .cam, .cal, .axes, .mot, .eth, .pages, .subs, .lastEvents, .pwr, .flash, .sec, .mem]
      [.any] s s := keeps_refl
  exact ⟨_, rfl, (keeps_ite (keeps_step h0 wake_keeps) h0)⟩

theorem execRtcAlarm_keeps {s : State} :
    ∃ t, execRtcAlarm s = .next t ∧ Keeps [.highLatch, .halfWrites, .resp, .log, .link, .dma, .granary, .dramValid,
    .miller, .pend, .landed, .weaver, .hcs, .pos, .br, .cam, .cal, .axes, .mot, .eth, .pages, .subs, .lastEvents,
    .pwr, .flash, .sec, .mem] [.any] s t := by
  unfold execRtcAlarm
  have h0 : Keeps [.highLatch, .halfWrites, .resp, .log, .link, .dma, .granary, .dramValid, .miller, .pend, .landed,
      .weaver, .hcs, .pos, .br, .cam, .cal, .axes, .mot, .eth, .pages, .subs, .lastEvents, .pwr, .flash, .sec, .mem]
      [.any] s s := keeps_refl
  exact ⟨_, rfl, (keeps_ite (keeps_step h0 wake_keeps) h0)⟩

theorem execVbatReturn_keeps {s : State} :
    ∃ t, execVbatReturn s = .next t ∧ Keeps [.highLatch, .halfWrites, .resp, .log, .link, .dma, .granary, .dramValid,
    .miller, .pend, .landed, .weaver, .hcs, .pos, .br, .cam, .cal, .axes, .mot, .eth, .pages, .subs, .lastEvents,
    .pwr, .flash, .sec, .mem] [.any] s t := by
  unfold execVbatReturn
  have h0 : Keeps [.highLatch, .halfWrites, .resp, .log, .link, .dma, .granary, .dramValid, .miller, .pend, .landed,
      .weaver, .hcs, .pos, .br, .cam, .cal, .axes, .mot, .eth, .pages, .subs, .lastEvents, .pwr, .flash, .sec, .mem]
      [.any] s s := keeps_refl
  exact ⟨_, rfl, (keeps_ite h0 (by
        extract_lets -useContext +onlyGivenNames x1 x3
        have h4 : As h0 x3 := keeps_pwr h0 _
        refine keeps_ite ?_ ?_
        · exact keeps_step h4 wakeUp_keeps
        · exact h4))⟩

theorem pauseIntake_keeps {s : State} {on : Bool} :
    Keeps [.log, .link, .dma, .subs, .lastEvents] [.LINK_STAT, .LINK_LANEn_STAT, .DMA_HALT_EVT, .DMA_CHn_CTRL,
    .DMA_CHn_STAT, .FAULT_EVT, .FAULT_LOG_WR, .FAULT_LOG_LOST] s (State.pauseIntake s on) := by
  unfold State.pauseIntake
  have h0 : Keeps [.log, .link, .dma, .subs, .lastEvents] [.LINK_STAT, .LINK_LANEn_STAT, .DMA_HALT_EVT,
      .DMA_CHn_CTRL, .DMA_CHn_STAT, .FAULT_EVT, .FAULT_LOG_WR, .FAULT_LOG_LOST] s s := keeps_refl
  exact keeps_foldl h0 (fun _ _ h1 => (keeps_step h1 dmaChCtrlWrite_keeps))

theorem enterStandbyState_keeps {s : State} :
    Keeps [.highLatch, .halfWrites, .resp, .freeCtr, .log, .link, .dma, .granary, .dramValid, .miller, .pend,
    .landed, .weaver, .hcs, .pos, .br, .cam, .cal, .axes, .mot, .eth, .pages, .subs, .lastEvents, .pwr, .sec, .mem]
    [.any] s (State.enterStandbyState s) := by
  unfold State.enterStandbyState
  have h0 : Keeps [.highLatch, .halfWrites, .resp, .freeCtr, .log, .link, .dma, .granary, .dramValid, .miller, .pend,
      .landed, .weaver, .hcs, .pos, .br, .cam, .cal, .axes, .mot, .eth, .pages, .subs, .lastEvents, .pwr, .sec, .mem]
      [.any] s s := keeps_refl
  extract_lets -useContext +onlyGivenNames x1 x3 x5 x7 x9 x12 x15
  have h2 : As h0 x1 := keeps_step h0 setPower_keeps
  clear_value x1
  have h8 : As h0 x7 := keeps_pwr h2 _
  have h10 : As h0 x9 := keeps_foldl h8 (fun _ _ h11 => (keeps_step (setBit_keeps h11 (covers .HC_CTRL ⟨_, rfl⟩))
      hcDisabled_keeps))
  clear_value x9
  have h13 : As h0 x12 := keeps_foldl h10 (fun _ _ h14 => (keeps_step h14 camCtrlWrite_keeps))
  clear_value x12
  have h16 : As h0 x15 := setBit_keeps (keeps_step h13 pauseIntake_keeps) (covers .GRANARY_SR rfl)
  clear_value x15
  refine keeps_ite ?_ ?_
  · exact keeps_step (setBit_keeps h16 (covers .GRANARY_SR rfl)) standbyReached_keeps
  · exact keeps_step h16 startSrEntry_keeps

theorem readyReached_keeps {s : State} :
    Keeps [.freeCtr, .log, .link, .dma, .landed, .hcs, .cal, .pages, .subs, .lastEvents, .pwr, .masks, .slots,
    .nozRet] [.LINK_STAT, .LINK_LANEn_STAT, .DMA_HALT_EVT, .DMA_CHn_CTRL, .DMA_CHn_STAT, .HC_CTRL, .HC_STAT,
    .BR_STAT, .BR_EVT, .BR_FMAX, .BR_SNAPLINE, .BR_HLIMIT, .FAULT_STAT, .FAULT_EVT, .FAULT_LOG_WR, .FAULT_LOG_LOST,
    .CAL_HCh_NOW, .CAL_HCh_STAT, .CLKPWR_STAT, .CLKPWR_EVT] s (State.readyReached s) := by
  unfold State.readyReached
  have h0 : Keeps [.freeCtr, .log, .link, .dma, .landed, .hcs, .cal, .pages, .subs, .lastEvents, .pwr, .masks,
      .slots, .nozRet] [.LINK_STAT, .LINK_LANEn_STAT, .DMA_HALT_EVT, .DMA_CHn_CTRL, .DMA_CHn_STAT, .HC_CTRL,
      .HC_STAT, .BR_STAT, .BR_EVT, .BR_FMAX, .BR_SNAPLINE, .BR_HLIMIT, .FAULT_STAT, .FAULT_EVT, .FAULT_LOG_WR,
      .FAULT_LOG_LOST, .CAL_HCh_NOW, .CAL_HCh_STAT, .CLKPWR_STAT, .CLKPWR_EVT] s s := keeps_refl
  extract_lets -useContext +onlyGivenNames x1
  have h2 : As h0 x1 := keeps_foldl h0 (fun _ _ h3 => (keeps_step (setBit_keeps h3 (covers .HC_CTRL ⟨_, rfl⟩))
      hcEnabled_keeps))
  clear_value x1
  exact keeps_step (by
        extract_lets -useContext +onlyGivenNames x4
        have h5 : As h0 x4 := keeps_step h2 pauseIntake_keeps
        clear_value x4
        exact keeps_pwr h5 _) setPower_keeps

theorem requestDormant_keeps {s : State} :
    Keeps [.highLatch, .halfWrites, .resp, .freeCtr, .log, .link, .dma, .granary, .dramValid, .miller, .pend,
    .landed, .weaver, .hcs, .pos, .br, .cam, .cal, .axes, .mot, .eth, .pages, .subs, .lastEvents, .pwr, .sec, .mem]
    [.any] s (State.requestDormant s).2 := by
  unfold State.requestDormant
  have h0 : Keeps [.highLatch, .halfWrites, .resp, .freeCtr, .log, .link, .dma, .granary, .dramValid, .miller, .pend,
      .landed, .weaver, .hcs, .pos, .br, .cam, .cal, .axes, .mot, .eth, .pages, .subs, .lastEvents, .pwr, .sec, .mem]
      [.any] s s := keeps_refl
  refine keeps_ite_snd ?_ ?_
  · exact h0
  · refine keeps_ite_snd ?_ ?_
    · exact keeps_step h0 refuseReq_keeps
    · refine keeps_ite_snd ?_ ?_
      · exact keeps_step (keeps_pwr h0 _) enterDormant_keeps
      · exact keeps_step (keeps_pwr h0 _) enterStandbyState_keeps

theorem softReset_keeps {s : State} {why : Nat} :
    Keeps [.highLatch, .halfWrites, .resp, .freeCtr, .log, .link, .dma, .granary, .dramValid, .miller, .pend,
    .landed, .weaver, .hcs, .pos, .br, .cam, .cal, .axes, .mot, .eth, .pages, .subs, .lastEvents, .pwr, .flash, .sec,
    .mem] [.any] s (State.softReset s why) := by
  unfold State.softReset
  have h0 : Keeps [.highLatch, .halfWrites, .resp, .freeCtr, .log, .link, .dma, .granary, .dramValid, .miller, .pend,
      .landed, .weaver, .hcs, .pos, .br, .cam, .cal, .axes, .mot, .eth, .pages, .subs, .lastEvents, .pwr, .flash,
      .sec, .mem] [.any] s s := keeps_refl
  refine keeps_ite ?_ ?_
  · exact h0
  · exact keeps_step (keeps_step (keeps_step h0 safeStop_keeps) warmReset_keeps) start_keeps

theorem execPllRelock_keeps {p : Fin 4} {s : State} :
    ∃ t, execPllRelock p s = .next t ∧ Keeps [.freeCtr, .log, .link, .dma, .granary, .landed, .hcs, .cal, .pages,
    .subs, .lastEvents, .pwr, .masks, .slots, .nozRet] [.LINK_STAT, .LINK_LANEn_STAT, .DMA_HALT_EVT, .DMA_CHn_CTRL,
    .DMA_CHn_STAT, .GRANARY_STAT, .GRANARY_EVT, .HC_CTRL, .HC_STAT, .BR_STAT, .BR_EVT, .BR_FMAX, .BR_SNAPLINE,
    .BR_HLIMIT, .FAULT_STAT, .FAULT_EVT, .FAULT_LOG_WR, .FAULT_LOG_LOST, .CAL_HCh_NOW, .CAL_HCh_STAT, .CLKPWR_STAT,
    .CLKPWR_EVT] s t := by
  unfold execPllRelock
  have h0 : Keeps [.freeCtr, .log, .link, .dma, .granary, .landed, .hcs, .cal, .pages, .subs, .lastEvents, .pwr,
      .masks, .slots, .nozRet] [.LINK_STAT, .LINK_LANEn_STAT, .DMA_HALT_EVT, .DMA_CHn_CTRL, .DMA_CHn_STAT,
      .GRANARY_STAT, .GRANARY_EVT, .HC_CTRL, .HC_STAT, .BR_STAT, .BR_EVT, .BR_FMAX, .BR_SNAPLINE, .BR_HLIMIT,
      .FAULT_STAT, .FAULT_EVT, .FAULT_LOG_WR, .FAULT_LOG_LOST, .CAL_HCh_NOW, .CAL_HCh_STAT, .CLKPWR_STAT,
      .CLKPWR_EVT] s s := keeps_refl
  exact ⟨_, rfl, (keeps_ite h0 (by
        extract_lets -useContext +onlyGivenNames x1
        have h2 : As h0 x1 := setBit_keeps h0 (covers .CLKPWR_STAT rfl)
        clear_value x1
        refine keeps_ite ?_ ?_
        · extract_lets -useContext +onlyGivenNames x3
          have h4 : As h0 x3 := keeps_step h2 finishSrExit_keeps
          clear_value x3
          refine keeps_ite ?_ ?_
          · exact keeps_step h4 readyReached_keeps
          · exact h4
        · exact h2))⟩

theorem execPllLockLoss_keeps {p : Fin 4} {s : State} :
    ∃ t, execPllLockLoss p s = .next t ∧ Keeps [.freeCtr, .log, .link, .dma, .pend, .landed, .weaver, .hcs, .cal,
    .axes, .eth, .pages, .subs, .lastEvents, .tones, .nozGain] [.LINK_STAT, .LINK_LANEn_STAT, .DMA_HALT_EVT,
    .DMA_CHn_STAT, .WEAVER_KERNEL, .WEAVER_MASKLINE, .HC_STAT, .HC_EVT, .HC_COMBLINE, .HC_SCAN_PTR, .BR_CTRL,
    .BR_STAT, .BR_EVT, .BR_FMAX, .BR_SNAPLINE, .FAULT_STAT, .FAULT_EVT, .FAULT_LOG_WR, .FAULT_LOG_LOST, .CAL_HCh_NOW,
    .CAL_HCh_STAT, .CLKPWR_STAT, .CLKPWR_EVT] s t := by
  unfold execPllLockLoss
  have h0 : Keeps [.freeCtr, .log, .link, .dma, .pend, .landed, .weaver, .hcs, .cal, .axes, .eth, .pages, .subs,
      .lastEvents, .tones, .nozGain] [.LINK_STAT, .LINK_LANEn_STAT, .DMA_HALT_EVT, .DMA_CHn_STAT, .WEAVER_KERNEL,
      .WEAVER_MASKLINE, .HC_STAT, .HC_EVT, .HC_COMBLINE, .HC_SCAN_PTR, .BR_CTRL, .BR_STAT, .BR_EVT, .BR_FMAX,
      .BR_SNAPLINE, .FAULT_STAT, .FAULT_EVT, .FAULT_LOG_WR, .FAULT_LOG_LOST, .CAL_HCh_NOW, .CAL_HCh_STAT,
      .CLKPWR_STAT, .CLKPWR_EVT] s s := keeps_refl
  exact ⟨_, rfl, (by
        extract_lets -useContext +onlyGivenNames x1
        have h2 : As h0 x1 := setBit_keeps h0 (covers .CLKPWR_STAT rfl)
        clear_value x1
        refine keeps_ite ?_ ?_
        · refine keeps_ite ?_ ?_
          · exact h2
          · exact keeps_step h2 pwrLog_keeps
        · refine keeps_ite ?_ ?_
          · exact h2
          · exact keeps_step (keeps_step (setBit_keeps h2 (covers .CLKPWR_EVT rfl)) pwrLog_keeps) safeStop_keeps)⟩

theorem requestStandby_keeps {s : State} :
    Keeps [.highLatch, .halfWrites, .resp, .freeCtr, .log, .link, .dma, .granary, .dramValid, .miller, .pend,
    .landed, .weaver, .hcs, .pos, .br, .cam, .cal, .axes, .mot, .eth, .pages, .subs, .lastEvents, .pwr, .sec, .mem]
    [.any] s (State.requestStandby s).2 := by
  unfold State.requestStandby
  have h0 : Keeps [.highLatch, .halfWrites, .resp, .freeCtr, .log, .link, .dma, .granary, .dramValid, .miller, .pend,
      .landed, .weaver, .hcs, .pos, .br, .cam, .cal, .axes, .mot, .eth, .pages, .subs, .lastEvents, .pwr, .sec, .mem]
      [.any] s s := keeps_refl
  refine keeps_ite_snd ?_ ?_
  · exact h0
  · refine keeps_ite_snd ?_ ?_
    · exact keeps_step h0 refuseReq_keeps
    · exact keeps_step h0 enterStandbyState_keeps

theorem execDieTempSample_keeps {a1 : Int} {s : State} :
    ∃ t, execDieTempSample a1 s = .next t ∧ Keeps [.freeCtr, .log, .link, .dma, .granary, .pend, .landed, .weaver,
    .hcs, .cal, .axes, .eth, .pages, .subs, .lastEvents, .pwr, .tones, .nozGain] [.LINK_STAT, .LINK_LANEn_STAT,
    .DMA_HALT_EVT, .DMA_CHn_STAT, .GRANARY_STAT, .WEAVER_KERNEL, .WEAVER_MASKLINE, .HC_STAT, .HC_EVT, .HC_COMBLINE,
    .HC_SCAN_PTR, .BR_CTRL, .BR_STAT, .BR_EVT, .BR_FMAX, .BR_SNAPLINE, .FAULT_STAT, .FAULT_EVT, .FAULT_LOG_WR,
    .FAULT_LOG_LOST, .CAL_HCh_NOW, .CAL_HCh_STAT, .CLKPWR_STAT, .CLKPWR_EVT, .CLKPWR_TEMP] s t := by
  unfold execDieTempSample
  have h0 : Keeps [.freeCtr, .log, .link, .dma, .granary, .pend, .landed, .weaver, .hcs, .cal, .axes, .eth, .pages,
      .subs, .lastEvents, .pwr, .tones, .nozGain] [.LINK_STAT, .LINK_LANEn_STAT, .DMA_HALT_EVT, .DMA_CHn_STAT,
      .GRANARY_STAT, .WEAVER_KERNEL, .WEAVER_MASKLINE, .HC_STAT, .HC_EVT, .HC_COMBLINE, .HC_SCAN_PTR, .BR_CTRL,
      .BR_STAT, .BR_EVT, .BR_FMAX, .BR_SNAPLINE, .FAULT_STAT, .FAULT_EVT, .FAULT_LOG_WR, .FAULT_LOG_LOST,
      .CAL_HCh_NOW, .CAL_HCh_STAT, .CLKPWR_STAT, .CLKPWR_EVT, .CLKPWR_TEMP] s s := keeps_refl
  exact ⟨_, rfl, (by
        extract_lets -useContext +onlyGivenNames x2 x4 x6
        have h3 : As h0 x2 := setFld_keeps h0 (covers .CLKPWR_TEMP rfl)
        clear_value x2
        have h5 : As h0 x4 := keeps_step h3 sampleBand_keeps
        clear_value x4
        refine keeps_ite ?_ ?_
        · extract_lets -useContext +onlyGivenNames x8 x10
          have h11 : As h0 x10 := keeps_pwr h5 _
          exact keeps_step (keeps_step (setBit_keeps h11 (covers .CLKPWR_EVT rfl)) pwrLog_keeps) safeStop_keeps
        · refine keeps_ite ?_ ?_
          · exact keeps_pwr h5 _
          · exact h5)⟩

theorem requestReady_keeps {s : State} :
    Keeps [.freeCtr, .log, .link, .dma, .landed, .hcs, .cal, .pages, .subs, .lastEvents, .pwr, .masks, .slots,
    .nozRet] [.LINK_STAT, .LINK_LANEn_STAT, .DMA_HALT_EVT, .DMA_CHn_CTRL, .DMA_CHn_STAT, .GRANARY_STAT, .GRANARY_SR,
    .HC_CTRL, .HC_STAT, .BR_STAT, .BR_EVT, .BR_FMAX, .BR_SNAPLINE, .BR_HLIMIT, .FAULT_STAT, .FAULT_EVT,
    .FAULT_LOG_WR, .FAULT_LOG_LOST, .CAL_HCh_NOW, .CAL_HCh_STAT, .CLKPWR_STAT, .CLKPWR_EVT] s (State.requestReady
    s).2 := by
  unfold State.requestReady
  have h0 : Keeps [.freeCtr, .log, .link, .dma, .landed, .hcs, .cal, .pages, .subs, .lastEvents, .pwr, .masks,
      .slots, .nozRet] [.LINK_STAT, .LINK_LANEn_STAT, .DMA_HALT_EVT, .DMA_CHn_CTRL, .DMA_CHn_STAT, .GRANARY_STAT,
      .GRANARY_SR, .HC_CTRL, .HC_STAT, .BR_STAT, .BR_EVT, .BR_FMAX, .BR_SNAPLINE, .BR_HLIMIT, .FAULT_STAT,
      .FAULT_EVT, .FAULT_LOG_WR, .FAULT_LOG_LOST, .CAL_HCh_NOW, .CAL_HCh_STAT, .CLKPWR_STAT, .CLKPWR_EVT] s s :=
      keeps_refl
  refine keeps_ite_snd ?_ ?_
  · exact h0
  · refine keeps_ite_snd ?_ ?_
    · exact h0
    · refine keeps_ite_snd ?_ ?_
      · exact h0
      · extract_lets -useContext +onlyGivenNames x1
        have h2 : As h0 x1 := setBit_keeps (keeps_step h0 setPower_keeps) (covers .GRANARY_SR rfl)
        clear_value x1
        refine keeps_ite_snd ?_ ?_
        · exact keeps_step h2 startSrExit_keeps
        · exact keeps_step h2 readyReached_keeps

theorem execUndervoltage_keeps {s : State} :
    ∃ t, execUndervoltage s = .next t ∧ Keeps [.freeCtr, .log, .link, .dma, .pend, .landed, .weaver, .hcs, .cal,
    .axes, .eth, .pages, .subs, .lastEvents, .pwr, .tones, .nozGain] [.LINK_STAT, .LINK_LANEn_STAT, .DMA_HALT_EVT,
    .DMA_CHn_STAT, .WEAVER_KERNEL, .WEAVER_MASKLINE, .HC_STAT, .HC_EVT, .HC_COMBLINE, .HC_SCAN_PTR, .BR_CTRL,
    .BR_STAT, .BR_EVT, .BR_FMAX, .BR_SNAPLINE, .FAULT_STAT, .FAULT_EVT, .FAULT_LOG_WR, .FAULT_LOG_LOST, .CAL_HCh_NOW,
    .CAL_HCh_STAT, .CLKPWR_STAT, .CLKPWR_EVT] s t := by
  unfold execUndervoltage
  have h0 : Keeps [.freeCtr, .log, .link, .dma, .pend, .landed, .weaver, .hcs, .cal, .axes, .eth, .pages, .subs,
      .lastEvents, .pwr, .tones, .nozGain] [.LINK_STAT, .LINK_LANEn_STAT, .DMA_HALT_EVT, .DMA_CHn_STAT,
      .WEAVER_KERNEL, .WEAVER_MASKLINE, .HC_STAT, .HC_EVT, .HC_COMBLINE, .HC_SCAN_PTR, .BR_CTRL, .BR_STAT, .BR_EVT,
      .BR_FMAX, .BR_SNAPLINE, .FAULT_STAT, .FAULT_EVT, .FAULT_LOG_WR, .FAULT_LOG_LOST, .CAL_HCh_NOW, .CAL_HCh_STAT,
      .CLKPWR_STAT, .CLKPWR_EVT] s s := keeps_refl
  exact ⟨_, rfl, (by
        extract_lets -useContext +onlyGivenNames x1 x3
        have h4 : As h0 x3 := keeps_pwr h0 _
        exact keeps_step (keeps_step (setBit_keeps h4 (covers .CLKPWR_EVT rfl)) pwrLog_keeps) safeStop_keeps)⟩

theorem requestState_keeps {s : State} {code : Nat} :
    Keeps [.highLatch, .halfWrites, .resp, .freeCtr, .log, .link, .dma, .granary, .dramValid, .miller, .pend,
    .landed, .weaver, .hcs, .pos, .br, .cam, .cal, .axes, .mot, .eth, .pages, .subs, .lastEvents, .pwr, .sec, .mem]
    [.any] s (State.requestState s code).2 := by
  unfold State.requestState
  have h0 : Keeps [.highLatch, .halfWrites, .resp, .freeCtr, .log, .link, .dma, .granary, .dramValid, .miller, .pend,
      .landed, .weaver, .hcs, .pos, .br, .cam, .cal, .axes, .mot, .eth, .pages, .subs, .lastEvents, .pwr, .sec, .mem]
      [.any] s s := keeps_refl
  refine keeps_ite_snd ?_ ?_
  · exact keeps_step h0 requestDormant_keeps
  · refine keeps_ite_snd ?_ ?_
    · exact keeps_step h0 requestStandby_keeps
    · refine keeps_ite_snd ?_ ?_
      · exact keeps_step h0 requestReady_keeps
      · exact h0

theorem clkCtrlWrite_keeps {s : State} {a1 : Requester} {v : Word} :
    Keeps [.highLatch, .halfWrites, .resp, .freeCtr, .log, .link, .dma, .granary, .dramValid, .miller, .pend,
    .landed, .weaver, .hcs, .pos, .br, .cam, .cal, .axes, .mot, .eth, .pages, .subs, .lastEvents, .pwr, .flash, .sec,
    .mem] [.any] s (State.clkCtrlWrite s a1 v) := by
  unfold State.clkCtrlWrite
  have h0 : Keeps [.highLatch, .halfWrites, .resp, .freeCtr, .log, .link, .dma, .granary, .dramValid, .miller, .pend,
      .landed, .weaver, .hcs, .pos, .br, .cam, .cal, .axes, .mot, .eth, .pages, .subs, .lastEvents, .pwr, .flash,
      .sec, .mem] [.any] s s := keeps_refl
  extract_lets -useContext +onlyGivenNames x2
  have h3 : As h0 x2 := keeps_step (writeByCodes_keeps h0 (covers .CLKPWR_CTRL rfl)) written_keeps
  clear_value x2
  refine keeps_ite ?_ ?_
  · exact keeps_step h3 softReset_keeps
  · exact keeps_step h3 requestState_keeps

theorem clkWrite_keeps {s : State} {a1 : Requester} {a : Nat} {v : Word} :
    Keeps [.highLatch, .halfWrites, .resp, .freeCtr, .log, .link, .dma, .granary, .dramValid, .miller, .pend,
    .landed, .weaver, .hcs, .pos, .br, .cam, .cal, .axes, .mot, .eth, .pages, .subs, .lastEvents, .pwr, .flash, .sec,
    .mem] [.any] s (State.clkWrite s a1 a v) := by
  unfold State.clkWrite
  have h0 : Keeps [.highLatch, .halfWrites, .resp, .freeCtr, .log, .link, .dma, .granary, .dramValid, .miller, .pend,
      .landed, .weaver, .hcs, .pos, .br, .cam, .cal, .axes, .mot, .eth, .pages, .subs, .lastEvents, .pwr, .flash,
      .sec, .mem] [.any] s s := keeps_refl
  extract_lets -useContext +onlyGivenNames x2
  refine keeps_ite ?_ ?_
  · exact keeps_step h0 clkCtrlWrite_keeps
  · refine keeps_ite ?_ ?_
    · extract_lets -useContext +onlyGivenNames x4 x6
      refine keeps_ite ?_ ?_
      · exact keeps_step (writeByCodes_keeps h0 (covers .any trivial)) written_keeps
      · exact keeps_step h0 refuse_keeps
    · refine keeps_ite ?_ ?_
      · refine keeps_ite ?_ ?_
        · exact keeps_step (writeByCodes_keeps h0 (covers .any trivial)) written_keeps
        · exact keeps_step h0 refuse_keeps
      · refine keeps_ite ?_ ?_
        · refine keeps_ite ?_ ?_
          · exact keeps_step (writeByCodes_keeps h0 (covers .any trivial)) written_keeps
          · exact keeps_step h0 refuse_keeps
        · refine keeps_ite ?_ ?_
          · exact keeps_step h0 watchPairWrite_keeps
          · refine keeps_ite ?_ ?_
            · exact keeps_step h0 watchPairWrite_keeps
            · refine keeps_ite ?_ ?_
              · exact keeps_step h0 watchPairWrite_keeps
              · refine keeps_ite ?_ ?_
                · exact keeps_step h0 watchPairWrite_keeps
                · refine keeps_ite ?_ ?_
                  · exact keeps_step h0 watchmanWrite_keeps
                  · exact keeps_step (writeByCodes_keeps h0 (covers .any trivial)) written_keeps

theorem execStandbyRequest_keeps {a1 : Requester} {v : Word} {s : State} :
    ∃ t, execStandbyRequest a1 v s = .next t ∧ Keeps [.highLatch, .halfWrites, .resp, .freeCtr, .log, .link, .dma,
    .granary, .dramValid, .miller, .pend, .landed, .weaver, .hcs, .pos, .br, .cam, .cal, .axes, .mot, .eth, .pages,
    .subs, .lastEvents, .pwr, .flash, .sec, .mem] [.any] s t := by
  unfold execStandbyRequest
  have h0 : Keeps [.highLatch, .halfWrites, .resp, .freeCtr, .log, .link, .dma, .granary, .dramValid, .miller, .pend,
      .landed, .weaver, .hcs, .pos, .br, .cam, .cal, .axes, .mot, .eth, .pages, .subs, .lastEvents, .pwr, .flash,
      .sec, .mem] [.any] s s := keeps_refl
  exact ⟨_, rfl, (keeps_step h0 clkCtrlWrite_keeps)⟩

theorem execPowerDormantRequest_keeps {a1 : Requester} {v : Word} {s : State} :
    ∃ t, execPowerDormantRequest a1 v s = .next t ∧ Keeps [.highLatch, .halfWrites, .resp, .freeCtr, .log, .link,
    .dma, .granary, .dramValid, .miller, .pend, .landed, .weaver, .hcs, .pos, .br, .cam, .cal, .axes, .mot, .eth,
    .pages, .subs, .lastEvents, .pwr, .flash, .sec, .mem] [.any] s t := by
  unfold execPowerDormantRequest
  have h0 : Keeps [.highLatch, .halfWrites, .resp, .freeCtr, .log, .link, .dma, .granary, .dramValid, .miller, .pend,
      .landed, .weaver, .hcs, .pos, .br, .cam, .cal, .axes, .mot, .eth, .pages, .subs, .lastEvents, .pwr, .flash,
      .sec, .mem] [.any] s s := keeps_refl
  exact ⟨_, rfl, (keeps_step h0 clkCtrlWrite_keeps)⟩

theorem execSoftwareWarmReset_keeps {a1 : Requester} {v : Word} {s : State} :
    ∃ t, execSoftwareWarmReset a1 v s = .next t ∧ Keeps [.highLatch, .halfWrites, .resp, .freeCtr, .log, .link, .dma,
    .granary, .dramValid, .miller, .pend, .landed, .weaver, .hcs, .pos, .br, .cam, .cal, .axes, .mot, .eth, .pages,
    .subs, .lastEvents, .pwr, .flash, .sec, .mem] [.any] s t := by
  unfold execSoftwareWarmReset
  have h0 : Keeps [.highLatch, .halfWrites, .resp, .freeCtr, .log, .link, .dma, .granary, .dramValid, .miller, .pend,
      .landed, .weaver, .hcs, .pos, .br, .cam, .cal, .axes, .mot, .eth, .pages, .subs, .lastEvents, .pwr, .flash,
      .sec, .mem] [.any] s s := keeps_refl
  exact ⟨_, rfl, (keeps_step h0 clkCtrlWrite_keeps)⟩

theorem execReadyRequest_keeps {a1 : Requester} {v : Word} {s : State} :
    ∃ t, execReadyRequest a1 v s = .next t ∧ Keeps [.highLatch, .halfWrites, .resp, .freeCtr, .log, .link, .dma,
    .granary, .dramValid, .miller, .pend, .landed, .weaver, .hcs, .pos, .br, .cam, .cal, .axes, .mot, .eth, .pages,
    .subs, .lastEvents, .pwr, .flash, .sec, .mem] [.any] s t := by
  unfold execReadyRequest
  have h0 : Keeps [.highLatch, .halfWrites, .resp, .freeCtr, .log, .link, .dma, .granary, .dramValid, .miller, .pend,
      .landed, .weaver, .hcs, .pos, .br, .cam, .cal, .axes, .mot, .eth, .pages, .subs, .lastEvents, .pwr, .flash,
      .sec, .mem] [.any] s s := keeps_refl
  exact ⟨_, rfl, (keeps_step h0 clkCtrlWrite_keeps)⟩

end Sys2Proof.Laws
end

