-- ==== Sys2Proof/Laws/KeepsShepherd.lean ====
section
/-! SUPPORT. What each operation of Machine/Shepherd.lean may change (`Keeps`): the parts of the state and the rows of registers. -/

set_option Elab.async false

namespace Sys2Proof.Laws

open Sys2Proof.Machine

theorem endSafeStop_keeps {s : State} :
    Keeps [.log, .subs, .lastEvents] [.FAULT_STAT, .FAULT_EVT, .FAULT_LOG_WR, .FAULT_LOG_LOST] s (State.endSafeStop
    s) := by
  unfold State.endSafeStop
  have h0 : Keeps [.log, .subs, .lastEvents] [.FAULT_STAT, .FAULT_EVT, .FAULT_LOG_WR, .FAULT_LOG_LOST] s s :=
      keeps_refl
  extract_lets -useContext +onlyGivenNames x1 x3
  have h4 : As h0 x3 := setFld_keeps (setBit_keeps h0 (covers .FAULT_STAT rfl)) (covers .FAULT_STAT rfl)
  clear_value x3
  exact keeps_step h4 logFault_keeps

theorem hcReadmitWrite_keeps {s : State} {v : Word} :
    Keeps [.freeCtr, .log, .landed, .hcs, .cal, .pages, .subs, .lastEvents] [.HC_STAT, .BR_STAT, .BR_EVT, .BR_FMAX,
    .BR_SNAPLINE, .FAULT_STAT, .FAULT_EVT, .FAULT_LOG_WR, .FAULT_LOG_LOST, .CAL_HCh_NOW, .CAL_HCh_STAT] s
    (State.hcReadmitWrite s v) := by
  unfold State.hcReadmitWrite
  have h0 : Keeps [.freeCtr, .log, .landed, .hcs, .cal, .pages, .subs, .lastEvents] [.HC_STAT, .BR_STAT, .BR_EVT,
      .BR_FMAX, .BR_SNAPLINE, .FAULT_STAT, .FAULT_EVT, .FAULT_LOG_WR, .FAULT_LOG_LOST, .CAL_HCh_NOW, .CAL_HCh_STAT] s
      s := keeps_refl
  exact keeps_foldl h0 (fun _ _ h1 => (keeps_step h1 readmitHc_keeps))

theorem nozRetireWrite_keeps {s : State} {v : Word} :
    Keeps [.log, .weaver, .subs, .lastEvents, .nozRet] [.FAULT_EVT, .FAULT_LOG_WR, .FAULT_LOG_LOST] s
    (State.nozRetireWrite s v) := by
  unfold State.nozRetireWrite
  have h0 : Keeps [.log, .weaver, .subs, .lastEvents, .nozRet] [.FAULT_EVT, .FAULT_LOG_WR, .FAULT_LOG_LOST] s s :=
      keeps_refl
  extract_lets -useContext +onlyGivenNames x1
  refine keeps_ite ?_ ?_
  · exact keeps_step h0 retireNozzle_keeps
  · exact h0

theorem hcRetireWrite_keeps {s : State} {v : Word} :
    Keeps [.freeCtr, .log, .landed, .hcs, .cal, .pages, .subs, .lastEvents] [.HC_STAT, .HC_EVT, .HC_SCAN_PTR,
    .BR_STAT, .BR_EVT, .BR_FMAX, .BR_SNAPLINE, .FAULT_STAT, .FAULT_EVT, .FAULT_LOG_WR, .FAULT_LOG_LOST, .CAL_HCh_NOW,
    .CAL_HCh_STAT] s (State.hcRetireWrite s v) := by
  unfold State.hcRetireWrite
  have h0 : Keeps [.freeCtr, .log, .landed, .hcs, .cal, .pages, .subs, .lastEvents] [.HC_STAT, .HC_EVT, .HC_SCAN_PTR,
      .BR_STAT, .BR_EVT, .BR_FMAX, .BR_SNAPLINE, .FAULT_STAT, .FAULT_EVT, .FAULT_LOG_WR, .FAULT_LOG_LOST,
      .CAL_HCh_NOW, .CAL_HCh_STAT] s s := keeps_refl
  exact keeps_foldl h0 (fun _ _ h1 => (keeps_ite (keeps_step h1 retireHc_keeps) (keeps_step h1 logFault_keeps)))

theorem execHcReadmitRequest_keeps {a1 : Requester} {v : Word} {s : State} :
    ∃ t, execHcReadmitRequest a1 v s = .next t ∧ Keeps [.resp, .freeCtr, .log, .landed, .hcs, .cal, .pages, .subs,
    .lastEvents] [.HC_STAT, .BR_STAT, .BR_EVT, .BR_FMAX, .BR_SNAPLINE, .FAULT_STAT, .FAULT_EVT, .FAULT_LOG_WR,
    .FAULT_LOG_LOST, .CAL_HCh_NOW, .CAL_HCh_STAT] s t := by
  unfold execHcReadmitRequest
  have h0 : Keeps [.resp, .freeCtr, .log, .landed, .hcs, .cal, .pages, .subs, .lastEvents] [.HC_STAT, .BR_STAT,
      .BR_EVT, .BR_FMAX, .BR_SNAPLINE, .FAULT_STAT, .FAULT_EVT, .FAULT_LOG_WR, .FAULT_LOG_LOST, .CAL_HCh_NOW,
      .CAL_HCh_STAT] s s := keeps_refl
  exact ⟨_, rfl, (keeps_step (keeps_step h0 hcReadmitWrite_keeps) written_keeps)⟩

theorem execHcRetireRequest_keeps {a1 : Requester} {v : Word} {s : State} :
    ∃ t, execHcRetireRequest a1 v s = .next t ∧ Keeps [.resp, .freeCtr, .log, .landed, .hcs, .cal, .pages, .subs,
    .lastEvents] [.HC_STAT, .HC_EVT, .HC_SCAN_PTR, .BR_STAT, .BR_EVT, .BR_FMAX, .BR_SNAPLINE, .FAULT_STAT,
    .FAULT_EVT, .FAULT_LOG_WR, .FAULT_LOG_LOST, .CAL_HCh_NOW, .CAL_HCh_STAT] s t := by
  unfold execHcRetireRequest
  have h0 : Keeps [.resp, .freeCtr, .log, .landed, .hcs, .cal, .pages, .subs, .lastEvents] [.HC_STAT, .HC_EVT,
      .HC_SCAN_PTR, .BR_STAT, .BR_EVT, .BR_FMAX, .BR_SNAPLINE, .FAULT_STAT, .FAULT_EVT, .FAULT_LOG_WR,
      .FAULT_LOG_LOST, .CAL_HCh_NOW, .CAL_HCh_STAT] s s := keeps_refl
  exact ⟨_, rfl, (keeps_step (keeps_step h0 hcRetireWrite_keeps) written_keeps)⟩

theorem execNozzleRetireRequest_keeps {a1 : Requester} {v : Word} {s : State} :
    ∃ t, execNozzleRetireRequest a1 v s = .next t ∧ Keeps [.resp, .log, .weaver, .subs, .lastEvents, .nozRet]
    [.FAULT_EVT, .FAULT_LOG_WR, .FAULT_LOG_LOST] s t := by
  unfold execNozzleRetireRequest
  have h0 : Keeps [.resp, .log, .weaver, .subs, .lastEvents, .nozRet] [.FAULT_EVT, .FAULT_LOG_WR, .FAULT_LOG_LOST] s
      s := keeps_refl
  exact ⟨_, rfl, (keeps_step (keeps_step h0 nozRetireWrite_keeps) written_keeps)⟩

theorem faultCtrlWrite_keeps {s : State} {a1 : Requester} {v : Word} :
    Keeps [.resp, .freeCtr, .log, .link, .dma, .pend, .landed, .weaver, .hcs, .cal, .axes, .eth, .pages, .subs,
    .lastEvents, .tones, .nozGain] [.LINK_STAT, .LINK_LANEn_STAT, .DMA_HALT_EVT, .DMA_CHn_STAT, .WEAVER_KERNEL,
    .WEAVER_MASKLINE, .HC_STAT, .HC_EVT, .HC_COMBLINE, .HC_SCAN_PTR, .BR_CTRL, .BR_STAT, .BR_EVT, .BR_FMAX,
    .BR_SNAPLINE, .FAULT_CTRL, .FAULT_STAT, .FAULT_EVT, .FAULT_LOG_WR, .FAULT_LOG_LOST, .CAL_HCh_NOW, .CAL_HCh_STAT,
    .CLKPWR_STAT, .CLKPWR_EVT] s (State.faultCtrlWrite s a1 v) := by
  unfold State.faultCtrlWrite
  have h0 : Keeps [.resp, .freeCtr, .log, .link, .dma, .pend, .landed, .weaver, .hcs, .cal, .axes, .eth, .pages,
      .subs, .lastEvents, .tones, .nozGain] [.LINK_STAT, .LINK_LANEn_STAT, .DMA_HALT_EVT, .DMA_CHn_STAT,
      .WEAVER_KERNEL, .WEAVER_MASKLINE, .HC_STAT, .HC_EVT, .HC_COMBLINE, .HC_SCAN_PTR, .BR_CTRL, .BR_STAT, .BR_EVT,
      .BR_FMAX, .BR_SNAPLINE, .FAULT_CTRL, .FAULT_STAT, .FAULT_EVT, .FAULT_LOG_WR, .FAULT_LOG_LOST, .CAL_HCh_NOW,
      .CAL_HCh_STAT, .CLKPWR_STAT, .CLKPWR_EVT] s s := keeps_refl
  extract_lets -useContext +onlyGivenNames x2 x4
  refine keeps_ite ?_ ?_
  · extract_lets -useContext +onlyGivenNames x6
    have h7 : As h0 x6 := keeps_step (keeps_step (writeByCodes_keeps h0 (covers .FAULT_CTRL rfl)) written_keeps)
        safeStop_keeps
    clear_value x6
    refine keeps_ite ?_ ?_
    · exact setBit_keeps h7 (covers .FAULT_EVT rfl)
    · exact h7
  · refine keeps_ite ?_ ?_
    · refine keeps_ite ?_ ?_
      · exact keeps_step (setBit_keeps h0 (covers .FAULT_EVT rfl)) refuse_keeps
      · exact keeps_step (keeps_step (writeByCodes_keeps h0 (covers .FAULT_CTRL rfl)) written_keeps) endSafeStop_keeps
    · exact keeps_step (writeByCodes_keeps h0 (covers .FAULT_CTRL rfl)) written_keeps

theorem execSafeStopRequest_keeps {a1 : Requester} {v : Word} {s : State} :
    ∃ t, execSafeStopRequest a1 v s = .next t ∧ Keeps [.resp, .freeCtr, .log, .link, .dma, .pend, .landed, .weaver,
    .hcs, .cal, .axes, .eth, .pages, .subs, .lastEvents, .tones, .nozGain] [.LINK_STAT, .LINK_LANEn_STAT,
    .DMA_HALT_EVT, .DMA_CHn_STAT, .WEAVER_KERNEL, .WEAVER_MASKLINE, .HC_STAT, .HC_EVT, .HC_COMBLINE, .HC_SCAN_PTR,
    .BR_CTRL, .BR_STAT, .BR_EVT, .BR_FMAX, .BR_SNAPLINE, .FAULT_CTRL, .FAULT_STAT, .FAULT_EVT, .FAULT_LOG_WR,
    .FAULT_LOG_LOST, .CAL_HCh_NOW, .CAL_HCh_STAT, .CLKPWR_STAT, .CLKPWR_EVT] s t := by
  unfold execSafeStopRequest
  have h0 : Keeps [.resp, .freeCtr, .log, .link, .dma, .pend, .landed, .weaver, .hcs, .cal, .axes, .eth, .pages,
      .subs, .lastEvents, .tones, .nozGain] [.LINK_STAT, .LINK_LANEn_STAT, .DMA_HALT_EVT, .DMA_CHn_STAT,
      .WEAVER_KERNEL, .WEAVER_MASKLINE, .HC_STAT, .HC_EVT, .HC_COMBLINE, .HC_SCAN_PTR, .BR_CTRL, .BR_STAT, .BR_EVT,
      .BR_FMAX, .BR_SNAPLINE, .FAULT_CTRL, .FAULT_STAT, .FAULT_EVT, .FAULT_LOG_WR, .FAULT_LOG_LOST, .CAL_HCh_NOW,
      .CAL_HCh_STAT, .CLKPWR_STAT, .CLKPWR_EVT] s s := keeps_refl
  exact ⟨_, rfl, (keeps_step h0 faultCtrlWrite_keeps)⟩

theorem execSafeStopClear_keeps {a1 : Requester} {v : Word} {s : State} :
    ∃ t, execSafeStopClear a1 v s = .next t ∧ Keeps [.resp, .freeCtr, .log, .link, .dma, .pend, .landed, .weaver,
    .hcs, .cal, .axes, .eth, .pages, .subs, .lastEvents, .tones, .nozGain] [.LINK_STAT, .LINK_LANEn_STAT,
    .DMA_HALT_EVT, .DMA_CHn_STAT, .WEAVER_KERNEL, .WEAVER_MASKLINE, .HC_STAT, .HC_EVT, .HC_COMBLINE, .HC_SCAN_PTR,
    .BR_CTRL, .BR_STAT, .BR_EVT, .BR_FMAX, .BR_SNAPLINE, .FAULT_CTRL, .FAULT_STAT, .FAULT_EVT, .FAULT_LOG_WR,
    .FAULT_LOG_LOST, .CAL_HCh_NOW, .CAL_HCh_STAT, .CLKPWR_STAT, .CLKPWR_EVT] s t := by
  unfold execSafeStopClear
  have h0 : Keeps [.resp, .freeCtr, .log, .link, .dma, .pend, .landed, .weaver, .hcs, .cal, .axes, .eth, .pages,
      .subs, .lastEvents, .tones, .nozGain] [.LINK_STAT, .LINK_LANEn_STAT, .DMA_HALT_EVT, .DMA_CHn_STAT,
      .WEAVER_KERNEL, .WEAVER_MASKLINE, .HC_STAT, .HC_EVT, .HC_COMBLINE, .HC_SCAN_PTR, .BR_CTRL, .BR_STAT, .BR_EVT,
      .BR_FMAX, .BR_SNAPLINE, .FAULT_CTRL, .FAULT_STAT, .FAULT_EVT, .FAULT_LOG_WR, .FAULT_LOG_LOST, .CAL_HCh_NOW,
      .CAL_HCh_STAT, .CLKPWR_STAT, .CLKPWR_EVT] s s := keeps_refl
  exact ⟨_, rfl, (keeps_step h0 faultCtrlWrite_keeps)⟩

end Sys2Proof.Laws
end

