-- ==== Sys2Proof/Laws/KeepsSecurity.lean ====
section
/-! SUPPORT. What each operation of Machine/Security.lean may change (`Keeps`): the parts of the state and the rows of registers. -/

set_option Elab.async false

namespace Sys2Proof.Laws

open Sys2Proof.Machine

theorem unitSign_keeps {s : State} {digest : List Byte} :
    Keeps [.freeCtr] [] s (State.unitSign s digest).2 := by
  unfold State.unitSign
  have h0 : Keeps [.freeCtr] [] s s := keeps_refl
  exact keeps_step h0 drawn_keeps

theorem execSignComplete_keeps {s : State} :
    ∃ t, execSignComplete s = .next t ∧ Keeps [.freeCtr, .sec] [.SEC_SIGN_CTRL, .SEC_SIGw] s t := by
  unfold execSignComplete
  have h0 : Keeps [.freeCtr, .sec] [.SEC_SIGN_CTRL, .SEC_SIGw] s s := keeps_refl
  exact ⟨_, rfl, (by
        split
        · exact h0
        · extract_lets -useContext +onlyGivenNames x1 x3 x5
          have h4 : As h0 x3 := keeps_sec h0 _
          have h6 : As h0 x5 := setBit_keeps h4 (covers .SEC_SIGN_CTRL rfl)
          clear_value x5
          refine keeps_ite ?_ ?_
          · exact setBit_keeps h6 (covers .SEC_SIGN_CTRL rfl)
          · split
            · rename State => t7
              have h9 : As h0 t7 := keeps_of_2 (by assumption) (keeps_step h6 unitSign_keeps)
              exact keeps_foldl h9 (fun _ _ h10 => (keeps_setReg h10 (covers .SEC_SIGw ⟨_, rfl⟩))))⟩

theorem setDict_keeps {s : State} {k : Nat} {v : Nat} :
    Keeps [.eth] [] s (State.setDict s k v) := by
  unfold State.setDict
  have h0 : Keeps [.eth] [] s s := keeps_refl
  exact keeps_eth h0 _

theorem activateWrite_keeps {s : State} {v : Nat} :
    Keeps [.pwr, .flash] [.CLKPWR_STAT, .SEC_STAT, .SEC_JOURNAL] s (State.activateWrite s v).2 := by
  unfold State.activateWrite
  have h0 : Keeps [.pwr, .flash] [.CLKPWR_STAT, .SEC_STAT, .SEC_JOURNAL] s s := keeps_refl
  refine keeps_ite_snd ?_ ?_
  · refine keeps_ite_snd ?_ ?_
    · extract_lets -useContext +onlyGivenNames x1
      have h2 : As h0 x1 := keeps_step (keeps_step (keeps_step h0 setAct_keeps) journal_keeps) setBootState_keeps
      clear_value x1
      exact keeps_flash h2 _
    · exact h0
  · refine keeps_ite_snd ?_ ?_
    · exact h0
    · refine keeps_ite_snd ?_ ?_
      · exact h0
      · refine keeps_ite_snd ?_ ?_
        · exact h0
        · extract_lets -useContext +onlyGivenNames x3
          have h4 : As h0 x3 := keeps_step (keeps_step (keeps_step h0 setAct_keeps) journal_keeps) setBootState_keeps
          clear_value x3
          exact keeps_flash h4 _

theorem confirmWrite_keeps {s : State} {a1 : Requester} {v : Word} :
    Keeps [.resp, .freeCtr, .log, .subs, .lastEvents, .pwr, .flash, .sec] [.FAULT_EVT, .FAULT_LOG_WR,
    .FAULT_LOG_LOST, .CLKPWR_STAT, .SEC_STAT, .SEC_EVT, .SEC_SECVER, .SEC_JOURNAL] s (State.confirmWrite s a1 v) := by
  unfold State.confirmWrite
  have h0 : Keeps [.resp, .freeCtr, .log, .subs, .lastEvents, .pwr, .flash, .sec] [.FAULT_EVT, .FAULT_LOG_WR,
      .FAULT_LOG_LOST, .CLKPWR_STAT, .SEC_STAT, .SEC_EVT, .SEC_SECVER, .SEC_JOURNAL] s s := keeps_refl
  refine keeps_ite ?_ ?_
  · exact keeps_step h0 refuse_keeps
  · refine keeps_ite ?_ ?_
    · exact keeps_step h0 written_keeps
    · extract_lets -useContext +onlyGivenNames x2 x4 x6 x8 x10 x12
      have h5 : As h0 x4 := keeps_sec h0 _
      have h7 : As h0 x6 := keeps_step (keeps_step (keeps_step h5 setAct_keeps) journal_keeps) setBootState_keeps
      clear_value x6
      have h11 : As h0 x10 := keeps_ite (keeps_flash h7 _) h7
      clear_value x10
      have h13 : As h0 x12 := setFld_keeps h11 (covers .SEC_SECVER rfl)
      clear_value x12
      exact keeps_step (keeps_step (setBit_keeps h13 (covers .SEC_EVT rfl)) secLog_keeps) written_keeps

theorem execTrialExpiry_keeps {s : State} :
    ∃ t, execTrialExpiry s = .next t ∧ Keeps [.highLatch, .halfWrites, .resp, .log, .link, .dma, .granary,
    .dramValid, .miller, .pend, .landed, .weaver, .hcs, .pos, .br, .cam, .cal, .axes, .mot, .eth, .pages, .subs,
    .lastEvents, .pwr, .flash, .sec, .mem] [.any] s t := by
  unfold execTrialExpiry
  have h0 : Keeps [.highLatch, .halfWrites, .resp, .log, .link, .dma, .granary, .dramValid, .miller, .pend, .landed,
      .weaver, .hcs, .pos, .br, .cam, .cal, .axes, .mot, .eth, .pages, .subs, .lastEvents, .pwr, .flash, .sec, .mem]
      [.any] s s := keeps_refl
  exact ⟨_, rfl, (by
        split
        · refine keeps_ite ?_ ?_
          · exact keeps_step (keeps_step h0 warmReset_keeps) start_keeps
          · exact h0
        · exact h0)⟩

theorem signWrite_keeps {s : State} {a1 : Requester} {v : Word} :
    Keeps [.resp, .log, .subs, .lastEvents, .sec] [.FAULT_EVT, .FAULT_LOG_WR, .FAULT_LOG_LOST, .SEC_SIGN_CTRL] s
    (State.signWrite s a1 v) := by
  unfold State.signWrite
  have h0 : Keeps [.resp, .log, .subs, .lastEvents, .sec] [.FAULT_EVT, .FAULT_LOG_WR, .FAULT_LOG_LOST,
      .SEC_SIGN_CTRL] s s := keeps_refl
  refine keeps_ite ?_ ?_
  · exact keeps_step h0 refuse_keeps
  · refine keeps_ite ?_ ?_
    · exact keeps_step h0 written_keeps
    · refine keeps_ite ?_ ?_
      · exact keeps_step (setBit_keeps h0 (covers .SEC_SIGN_CTRL rfl)) written_keeps
      · extract_lets -useContext +onlyGivenNames x2 x4
        have h5 : As h0 x4 := keeps_sec h0 _
        exact keeps_step (setBit_keeps (setBit_keeps h5 (covers .SEC_SIGN_CTRL rfl)) (covers .SEC_SIGN_CTRL rfl))
            written_keeps

theorem activated_keeps {s : State} :
    Keeps [.pwr, .flash, .sec] [.CLKPWR_STAT, .SEC_STAT, .SEC_JOURNAL] s (State.activated s) := by
  unfold State.activated
  have h0 : Keeps [.pwr, .flash, .sec] [.CLKPWR_STAT, .SEC_STAT, .SEC_JOURNAL] s s := keeps_refl
  refine keeps_ite ?_ ?_
  · extract_lets -useContext +onlyGivenNames x1 x3 x5
    have h4 : As h0 x3 := keeps_step (keeps_step (keeps_step h0 setStage_keeps) setAct_keeps) journal_keeps
    clear_value x3
    have h6 : As h0 x5 := keeps_step h4 setBootState_keeps
    clear_value x5
    exact keeps_upd h6
  · exact keeps_step (keeps_step h0 setStage_keeps) beginFallback_keeps

theorem fellBack_keeps {s : State} {cause : Nat} :
    Keeps [.freeCtr, .log, .subs, .lastEvents, .pwr, .flash, .sec] [.FAULT_EVT, .FAULT_LOG_WR, .FAULT_LOG_LOST,
    .CLKPWR_STAT, .SEC_STAT, .SEC_EVT, .SEC_JOURNAL] s (State.fellBack s cause) := by
  unfold State.fellBack
  have h0 : Keeps [.freeCtr, .log, .subs, .lastEvents, .pwr, .flash, .sec] [.FAULT_EVT, .FAULT_LOG_WR,
      .FAULT_LOG_LOST, .CLKPWR_STAT, .SEC_STAT, .SEC_EVT, .SEC_JOURNAL] s s := keeps_refl
  refine keeps_ite ?_ ?_
  · extract_lets -useContext +onlyGivenNames x1 x3 x5
    have h2 : As h0 x1 := keeps_step (keeps_step (keeps_step h0 setAct_keeps) journal_keeps) setBootState_keeps
    clear_value x1
    have h6 : As h0 x5 := keeps_sec h2 _
    exact keeps_step (setBit_keeps h6 (covers .SEC_EVT rfl)) secLog_keeps
  · exact keeps_step h0 tryStaging_keeps

theorem execCopyBlock_keeps {s : State} :
    ∃ t, execCopyBlock s = .next t ∧ Keeps [.freeCtr, .log, .subs, .lastEvents, .pwr, .flash, .sec] [.FAULT_EVT,
    .FAULT_LOG_WR, .FAULT_LOG_LOST, .CLKPWR_STAT, .SEC_STAT, .SEC_EVT, .SEC_JOURNAL] s t := by
  unfold execCopyBlock
  have h0 : Keeps [.freeCtr, .log, .subs, .lastEvents, .pwr, .flash, .sec] [.FAULT_EVT, .FAULT_LOG_WR,
      .FAULT_LOG_LOST, .CLKPWR_STAT, .SEC_STAT, .SEC_EVT, .SEC_JOURNAL] s s := keeps_refl
  exact ⟨_, rfl, (keeps_ite h0 (by
        extract_lets -useContext +onlyGivenNames x1 x3 x5
        refine keeps_ite ?_ ?_
        · extract_lets -useContext +onlyGivenNames x7
          exact keeps_step (keeps_flash h0 _) journal_keeps
        · refine keeps_ite ?_ ?_
          · extract_lets -useContext +onlyGivenNames x9 x11
            have h12 : As h0 x11 := keeps_step (keeps_flash h0 _) journal_keeps
            clear_value x11
            refine keeps_ite ?_ ?_
            · exact keeps_step h12 activated_keeps
            · exact h12
          · extract_lets -useContext +onlyGivenNames x13 x15
            have h16 : As h0 x15 := keeps_step (keeps_flash h0 _) journal_keeps
            clear_value x15
            refine keeps_ite ?_ ?_
            · exact keeps_step h16 fellBack_keeps
            · exact h16))⟩

theorem digestWrite_keeps {s : State} {a1 : Requester} {a : Nat} {v : Word} :
    Keeps [.resp, .log, .subs, .lastEvents] [.any] s (State.digestWrite s a1 a v) := by
  unfold State.digestWrite
  have h0 : Keeps [.resp, .log, .subs, .lastEvents] [.any] s s := keeps_refl
  refine keeps_ite ?_ ?_
  · exact keeps_step h0 refuse_keeps
  · exact keeps_step (writeByCodes_keeps h0 (covers .any trivial)) written_keeps

theorem revokeWrite_keeps {s : State} {k : Nat} :
    Keeps [.freeCtr, .log, .subs, .lastEvents, .flash] [.FAULT_EVT, .FAULT_LOG_WR, .FAULT_LOG_LOST, .SEC_KEYSLOT] s
    (State.revokeWrite s k).2 := by
  unfold State.revokeWrite
  have h0 : Keeps [.freeCtr, .log, .subs, .lastEvents, .flash] [.FAULT_EVT, .FAULT_LOG_WR, .FAULT_LOG_LOST,
      .SEC_KEYSLOT] s s := keeps_refl
  refine keeps_ite_snd ?_ ?_
  · exact h0
  · refine keeps_ite_snd ?_ ?_
    · exact h0
    · extract_lets -useContext +onlyGivenNames x1 x3
      refine keeps_ite_snd ?_ ?_
      · exact h0
      · extract_lets -useContext +onlyGivenNames x5 x7 x9
        have h8 : As h0 x7 := keeps_flash h0 _
        have h10 : As h0 x9 := setFld_keeps h8 (covers .SEC_KEYSLOT rfl)
        clear_value x9
        exact keeps_step h10 secLog_keeps

theorem execConfirm_keeps {a1 : Requester} {v : Word} {s : State} :
    ∃ t, execConfirm a1 v s = .next t ∧ Keeps [.resp, .freeCtr, .log, .subs, .lastEvents, .pwr, .flash, .sec]
    [.FAULT_EVT, .FAULT_LOG_WR, .FAULT_LOG_LOST, .CLKPWR_STAT, .SEC_STAT, .SEC_EVT, .SEC_SECVER, .SEC_JOURNAL] s t :=
    by
  unfold execConfirm
  have h0 : Keeps [.resp, .freeCtr, .log, .subs, .lastEvents, .pwr, .flash, .sec] [.FAULT_EVT, .FAULT_LOG_WR,
      .FAULT_LOG_LOST, .CLKPWR_STAT, .SEC_STAT, .SEC_EVT, .SEC_SECVER, .SEC_JOURNAL] s s := keeps_refl
  exact ⟨_, rfl, (keeps_step h0 confirmWrite_keeps)⟩

theorem execSign_keeps {a1 : Requester} {v : Word} {s : State} :
    ∃ t, execSign a1 v s = .next t ∧ Keeps [.resp, .log, .subs, .lastEvents, .sec] [.FAULT_EVT, .FAULT_LOG_WR,
    .FAULT_LOG_LOST, .SEC_SIGN_CTRL] s t := by
  unfold execSign
  have h0 : Keeps [.resp, .log, .subs, .lastEvents, .sec] [.FAULT_EVT, .FAULT_LOG_WR, .FAULT_LOG_LOST,
      .SEC_SIGN_CTRL] s s := keeps_refl
  exact ⟨_, rfl, (keeps_step h0 signWrite_keeps)⟩

theorem fallbackWrite_keeps {s : State} :
    Keeps [.highLatch, .halfWrites, .resp, .freeCtr, .log, .link, .dma, .granary, .dramValid, .miller, .pend,
    .landed, .weaver, .hcs, .pos, .br, .cam, .cal, .axes, .mot, .eth, .pages, .subs, .lastEvents, .pwr, .flash, .sec,
    .mem] [.any] s (State.fallbackWrite s).2 := by
  unfold State.fallbackWrite
  have h0 : Keeps [.highLatch, .halfWrites, .resp, .freeCtr, .log, .link, .dma, .granary, .dramValid, .miller, .pend,
      .landed, .weaver, .hcs, .pos, .br, .cam, .cal, .axes, .mot, .eth, .pages, .subs, .lastEvents, .pwr, .flash,
      .sec, .mem] [.any] s s := keeps_refl
  extract_lets -useContext +onlyGivenNames x1
  refine keeps_ite_snd ?_ ?_
  · exact h0
  · refine keeps_ite_snd ?_ ?_
    · exact h0
    · extract_lets -useContext +onlyGivenNames x3 x5
      have h4 : As h0 x3 := keeps_step (keeps_step h0 journal_keeps) setBootState_keeps
      clear_value x3
      have h6 : As h0 x5 := keeps_step h4 watchWrite_keeps
      clear_value x5
      exact keeps_step h6 softReset_keeps

theorem execActivationTime_keeps {s : State} :
    ∃ t, execActivationTime s = .next t ∧ Keeps [.highLatch, .halfWrites, .resp, .freeCtr, .log, .link, .dma,
    .granary, .dramValid, .miller, .pend, .landed, .weaver, .hcs, .pos, .br, .cam, .cal, .axes, .mot, .eth, .pages,
    .subs, .lastEvents, .pwr, .flash, .sec, .mem] [.any] s t := by
  unfold execActivationTime
  have h0 : Keeps [.highLatch, .halfWrites, .resp, .freeCtr, .log, .link, .dma, .granary, .dramValid, .miller, .pend,
      .landed, .weaver, .hcs, .pos, .br, .cam, .cal, .axes, .mot, .eth, .pages, .subs, .lastEvents, .pwr, .flash,
      .sec, .mem] [.any] s s := keeps_refl
  exact ⟨_, rfl, (by
        extract_lets -useContext +onlyGivenNames x1
        refine keeps_ite ?_ ?_
        · exact h0
        · extract_lets -useContext +onlyGivenNames x3 x5
          have h6 : As h0 x5 := keeps_flash h0 _
          refine keeps_ite ?_ ?_
          · extract_lets -useContext +onlyGivenNames x7
            have h8 : As h0 x7 := keeps_step (keeps_step (keeps_step h6 setAct_keeps) journal_keeps)
                setBootState_keeps
            clear_value x7
            exact keeps_step (setBit_keeps h8 (covers .SEC_EVT rfl)) secLog_keeps
          · exact keeps_step h6 softReset_keeps)⟩

end Sys2Proof.Laws
end

