-- ==== Sys2Proof/Laws/KeepsBus.lean ====
section
/-! SUPPORT. What each operation of Machine/Bus.lean may change (`Keeps`): the parts of the state and the rows of registers. -/

set_option Elab.async false

namespace Sys2Proof.Laws

open Sys2Proof.Machine

theorem latchHigh_keeps {s : State} {a : Nat} :
    Keeps [.highLatch] [] s (State.latchHigh s a) := by
  unfold State.latchHigh
  have h0 : Keeps [.highLatch] [] s s := keeps_refl
  exact keeps_highLatch h0 _

theorem pairWrite_keeps {s : State} {lo : Nat} {high : Bool} {v : Word} :
    Keeps [.halfWrites] [.any] s (State.pairWrite s lo high v) := by
  unfold State.pairWrite
  have h0 : Keeps [.halfWrites] [.any] s s := keeps_refl
  refine keeps_ite ?_ ?_
  · extract_lets -useContext +onlyGivenNames x1 x3
    have h2 : As h0 x1 := by
      unfold x1
      split
      · exact keeps_setReg h0 (covers .any trivial)
      · exact h0
    clear_value x1
    have h4 : As h0 x3 := keeps_setReg h2 (covers .any trivial)
    clear_value x3
    exact keeps_halfWrites h4 _
  · exact keeps_halfWrites h0 _

theorem nextOr_keeps {w : List Part} {r : List Reg} {s0 s : State} {o : Host.Outcome State Fault Refusal}
    (h : ∃ t, o = .next t ∧ Keeps w r s0 t) : Keeps w r s0 (nextOr s o) := by
  obtain ⟨t, rfl, k⟩ := h
  exact k

theorem regRead_keeps {s : State} {a1 : Requester} {a : Nat} :
    Keeps [.highLatch, .resp, .freeCtr, .log, .granary, .miller, .pos, .cam, .subs, .lastEvents] [.any] s
    (State.regRead s a1 a) := by
  unfold State.regRead
  have h0 : Keeps [.highLatch, .resp, .freeCtr, .log, .granary, .miller, .pos, .cam, .subs, .lastEvents] [.any] s s
      := keeps_refl
  extract_lets -useContext +onlyGivenNames x2 x4
  have h5 : As h0 x4 := keeps_step (clearRC_keeps h0 (covers .any trivial)) okResp_keeps
  clear_value x4
  refine keeps_ite ?_ ?_
  · exact keeps_step (keeps_step h0 latchHigh_keeps) okResp_keeps
  · refine keeps_ite ?_ ?_
    · exact keeps_step h0 popErrlog_keeps
    · refine keeps_ite ?_ ?_
      · exact keeps_step h0 delayAccess_keeps
      · refine keeps_ite ?_ ?_
        · exact keeps_step (setFld_keeps h0 (covers .any trivial)) okResp_keeps
        · refine keeps_ite ?_ ?_
          · exact keeps_step h0 popResult_keeps
          · refine keeps_ite ?_ ?_
            · exact keeps_step h0 popResult_keeps
            · refine keeps_ite ?_ ?_
              · exact keeps_step h0 (nextOr_keeps execCamTableAccess_keeps)
              · refine keeps_ite ?_ ?_
                · exact keeps_step h0 (nextOr_keeps execSerialDataAccess_keeps)
                · refine keeps_ite ?_ ?_
                  · exact keeps_step h0 (nextOr_keeps execMarkFifoPop_keeps)
                  · refine keeps_ite ?_ ?_
                    · exact keeps_step h5 drawn_keeps
                    · exact h5

theorem secWrite_keeps {s : State} {a1 : Requester} {a : Nat} {v : Word} :
    Keeps [.resp, .freeCtr, .log, .subs, .lastEvents, .pwr, .flash, .sec] [.any] s (State.secWrite s a1 a v) := by
  unfold State.secWrite
  have h0 : Keeps [.resp, .freeCtr, .log, .subs, .lastEvents, .pwr, .flash, .sec] [.any] s s := keeps_refl
  split
  · exact keeps_step h0 refuse_keeps
  · refine keeps_ite ?_ ?_
    · exact keeps_step h0 confirmWrite_keeps
    · refine keeps_ite ?_ ?_
      · exact keeps_step h0 signWrite_keeps
      · refine keeps_ite ?_ ?_
        · exact keeps_step h0 digestWrite_keeps
        · exact keeps_step (writeByCodes_keeps h0 (covers .any trivial)) written_keeps

theorem granaryWrite_keeps {s : State} {a1 : Requester} {a : Nat} {v : Word} :
    Keeps [.resp, .log, .granary, .subs, .lastEvents] [.any] s (State.granaryWrite s a1 a v) := by
  unfold State.granaryWrite
  have h0 : Keeps [.resp, .log, .granary, .subs, .lastEvents] [.any] s s := keeps_refl
  refine keeps_ite ?_ ?_
  · exact keeps_step h0 granaryCtrlWrite_keeps
  · refine keeps_ite ?_ ?_
    · exact keeps_step (keeps_step h0 granarySrWrite_keeps) written_keeps
    · refine keeps_ite ?_ ?_
      · exact keeps_step h0 initGoWrite_keeps
      · refine keeps_ite ?_ ?_
        · exact keeps_step h0 delayAccess_keeps
        · refine keeps_ite ?_ ?_
          · exact keeps_step h0 written_keeps
          · exact keeps_step (writeByCodes_keeps h0 (covers .any trivial)) written_keeps

theorem millerWrite_keeps {s : State} {a1 : Requester} {a : Nat} {v : Word} :
    Keeps [.resp, .log, .dma, .miller, .subs, .lastEvents] [.any] s (State.millerWrite s a1 a v) := by
  unfold State.millerWrite
  have h0 : Keeps [.resp, .log, .dma, .miller, .subs, .lastEvents] [.any] s s := keeps_refl
  refine keeps_ite ?_ ?_
  · exact keeps_step (keeps_step h0 millerCtrlWrite_keeps) written_keeps
  · refine keeps_ite ?_ ?_
    · exact keeps_step (writeByCodes_keeps h0 (covers .any trivial)) written_keeps
    · extract_lets -useContext +onlyGivenNames x2 x4
      refine keeps_ite ?_ ?_
      · exact keeps_step h0 encCtrlWrite_keeps
      · refine keeps_ite ?_ ?_
        · exact keeps_step h0 written_keeps
        · exact keeps_step (writeByCodes_keeps h0 (covers .any trivial)) written_keeps

theorem depthWrite_keeps {s : State} {a1 : Requester} {k : Nat} {v : Word} :
    Keeps [.resp, .log, .subs, .lastEvents] [.WEAVER_LVLBUF, .WEAVER_EVT, .FAULT_EVT, .FAULT_LOG_WR, .FAULT_LOG_LOST]
    s (State.depthWrite s a1 k v) := by
  unfold State.depthWrite
  have h0 : Keeps [.resp, .log, .subs, .lastEvents] [.WEAVER_LVLBUF, .WEAVER_EVT, .FAULT_EVT, .FAULT_LOG_WR,
      .FAULT_LOG_LOST] s s := keeps_refl
  extract_lets -useContext +onlyGivenNames x2
  refine keeps_ite ?_ ?_
  · exact keeps_step h0 refuse_keeps
  · extract_lets -useContext +onlyGivenNames x4
    have h5 : As h0 x4 := setFld_keeps h0 (covers .WEAVER_LVLBUF ⟨_, rfl⟩)
    clear_value x4
    refine keeps_ite ?_ ?_
    · exact keeps_step h5 written_keeps
    · exact keeps_step (keeps_step h0 setDepthEvt_keeps) refuse_keeps

theorem dramAccess_keeps {s : State} {a1 : Requester} {addr : Nat} {n : Nat} {data : Option (List Byte)} :
    Keeps [.resp, .log, .granary, .subs, .lastEvents] [.GRANARY_STAT, .GRANARY_SR, .FAULT_EVT, .FAULT_LOG_WR,
    .FAULT_LOG_LOST] s (State.dramAccess s a1 addr n data) := by
  unfold State.dramAccess
  have h0 : Keeps [.resp, .log, .granary, .subs, .lastEvents] [.GRANARY_STAT, .GRANARY_SR, .FAULT_EVT, .FAULT_LOG_WR,
      .FAULT_LOG_LOST] s s := keeps_refl
  refine keeps_ite ?_ ?_
  · exact keeps_step (keeps_step h0 errResp_keeps) logFault_keeps
  · split
    · rename State => t2
      have h4 : As h0 t2 := keeps_of_2 (by assumption) (keeps_step h0 dramSubmit_keeps)
      split
      · exact h4
      · extract_lets -useContext +onlyGivenNames x5
        exact keeps_granary h4 _

theorem hamletWrite_keeps {s : State} {a1 : Requester} {k : Nat} {a : Nat} {v : Word} :
    Keeps [.resp, .log, .subs, .lastEvents] [.any] s (State.hamletWrite s a1 k a v) := by
  unfold State.hamletWrite
  have h0 : Keeps [.resp, .log, .subs, .lastEvents] [.any] s s := keeps_refl
  refine keeps_ite ?_ ?_
  · exact keeps_step h0 leadWrite_keeps
  · refine keeps_ite ?_ ?_
    · exact keeps_step (writeByCodes_keeps h0 (covers .any trivial)) written_keeps
    · refine keeps_ite ?_ ?_
      · exact keeps_step (writeByCodes_keeps h0 (covers .any trivial)) written_keeps
      · refine keeps_ite ?_ ?_
        · exact keeps_step h0 overlapWrite_keeps
        · refine keeps_ite ?_ ?_
          · exact keeps_step (writeByCodes_keeps h0 (covers .any trivial)) written_keeps
          · refine keeps_ite ?_ ?_
            · exact keeps_step h0 refuse_keeps
            · refine keeps_ite ?_ ?_
              · exact keeps_step h0 depthWrite_keeps
              · exact keeps_step (keeps_step (writeByCodes_keeps h0 (covers .any trivial)) refreshLimits_keeps)
                    written_keeps

theorem pathWrite_keeps {s : State} {a1 : Requester} {n : Nat} {o : Nat} {a : Nat} {v : Word} :
    Keeps [.halfWrites, .resp, .freeCtr, .log, .pos, .br, .pages, .subs, .lastEvents] [.any] s (State.pathWrite s a1
    n o a v) := by
  unfold State.pathWrite
  have h0 : Keeps [.halfWrites, .resp, .freeCtr, .log, .pos, .br, .pages, .subs, .lastEvents] [.any] s s := keeps_refl
  refine keeps_ite ?_ ?_
  · exact keeps_step (keeps_step h0 pathCtrlWrite_keeps) written_keeps
  · refine keeps_ite ?_ ?_
    · exact keeps_step h0 written_keeps
    · refine keeps_ite ?_ ?_
      · exact keeps_step h0 (nextOr_keeps execIndexRearm_keeps)
      · refine keeps_ite ?_ ?_
        · exact keeps_step (keeps_step (writeByCodes_keeps h0 (covers .any trivial)) setSpeed_keeps) written_keeps
        · refine keeps_ite ?_ ?_
          · exact keeps_step (keeps_step h0 pairWrite_keeps) written_keeps
          · refine keeps_ite ?_ ?_
            · exact keeps_step (keeps_step h0 pairWrite_keeps) written_keeps
            · exact keeps_step (writeByCodes_keeps h0 (covers .any trivial)) written_keeps

theorem posWrite_keeps {s : State} {a1 : Requester} {a : Nat} {v : Word} :
    Keeps [.halfWrites, .resp, .freeCtr, .log, .pos, .br, .pages, .subs, .lastEvents] [.any] s (State.posWrite s a1 a
    v) := by
  unfold State.posWrite
  have h0 : Keeps [.halfWrites, .resp, .freeCtr, .log, .pos, .br, .pages, .subs, .lastEvents] [.any] s s := keeps_refl
  refine keeps_ite ?_ ?_
  · exact keeps_step h0 (nextOr_keeps execTableEntryStore_keeps)
  · refine keeps_ite ?_ ?_
    · exact keeps_step (writeByCodes_keeps h0 (covers .any trivial)) written_keeps
    · refine keeps_ite ?_ ?_
      · exact keeps_step h0 pathWrite_keeps
      · refine keeps_ite ?_ ?_
        · exact keeps_step (writeByCodes_keeps h0 (covers .any trivial)) written_keeps
        · extract_lets -useContext +onlyGivenNames x2 x4
          refine keeps_ite ?_ ?_
          · exact keeps_step (keeps_step h0 cmpCtrlWrite_keeps) written_keeps
          · refine keeps_ite ?_ ?_
            · exact keeps_step (keeps_step h0 pairWrite_keeps) written_keeps
            · refine keeps_ite ?_ ?_
              · exact keeps_step (keeps_step h0 pairWrite_keeps) written_keeps
              · exact keeps_step (writeByCodes_keeps h0 (covers .any trivial)) written_keeps

theorem headWrite_keeps {s : State} {a1 : Requester} {a2 : Nat} {a : Nat} {v : Word} :
    Keeps [.resp, .freeCtr, .log, .landed, .hcs, .cal, .pages, .subs, .lastEvents, .masks, .slots, .nozRet] [.any] s
    (State.headWrite s a1 a2 a v) := by
  unfold State.headWrite
  have h0 : Keeps [.resp, .freeCtr, .log, .landed, .hcs, .cal, .pages, .subs, .lastEvents, .masks, .slots, .nozRet]
      [.any] s s := keeps_refl
  refine keeps_ite ?_ ?_
  · exact keeps_step h0 hcCtrlWrite_keeps
  · refine keeps_ite ?_ ?_
    · exact keeps_step h0 scanCfgWrite_keeps
    · refine keeps_ite ?_ ?_
      · exact keeps_step (writeByCodes_keeps h0 (covers .any trivial)) written_keeps
      · refine keeps_ite ?_ ?_
        · exact keeps_step h0 rowRegWrite_keeps
        · refine keeps_ite ?_ ?_
          · exact keeps_step h0 rowRegWrite_keeps
          · refine keeps_ite ?_ ?_
            · exact keeps_step h0 written_keeps
            · refine keeps_ite ?_ ?_
              · exact keeps_step h0 refuse_keeps
              · refine keeps_ite ?_ ?_
                · exact keeps_step (keeps_step (keeps_step h0 combLineSet_keeps) refreshLimits_keeps) written_keeps
                · exact keeps_step (keeps_step (writeByCodes_keeps h0 (covers .any trivial)) refreshLimits_keeps)
                      written_keeps

theorem busRead_keeps {s : State} {a1 : Requester} {addr : Nat} {n : Nat} :
    Keeps [.highLatch, .resp, .freeCtr, .log, .granary, .miller, .pos, .cam, .subs, .lastEvents] [.any] s
    (State.busRead s a1 addr n) := by
  unfold State.busRead
  have h0 : Keeps [.highLatch, .resp, .freeCtr, .log, .granary, .miller, .pos, .cam, .subs, .lastEvents] [.any] s s
      := keeps_refl
  refine keeps_ite ?_ ?_
  · exact keeps_step h0 refuse_keeps
  · split
    · exact keeps_step h0 refuse_keeps
    · refine keeps_ite ?_ ?_
      · exact keeps_step h0 refuse_keeps
      · refine keeps_ite ?_ ?_
        · exact keeps_step h0 refuse_keeps
        · exact keeps_step h0 regRead_keeps
    · exact keeps_step h0 dramAccess_keeps
    · exact keeps_step h0 okResp_keeps

theorem linkWrite_keeps {s : State} {a1 : Requester} {a : Nat} {v : Word} :
    Keeps [.resp, .log, .link, .subs, .lastEvents] [.any] s (State.linkWrite s a1 a v) := by
  unfold State.linkWrite
  have h0 : Keeps [.resp, .log, .link, .subs, .lastEvents] [.any] s s := keeps_refl
  exact keeps_step (keeps_ite (keeps_step h0 linkCtrlWrite_keeps) (keeps_ite (keeps_step h0 linkRetireWrite_keeps)
      (keeps_ite (keeps_step h0 linkReadmitWrite_keeps) (keeps_ite (keeps_step h0 linkPmWrite_keeps)
      (writeByCodes_keeps h0 (covers .any trivial)))))) written_keeps

theorem execWidePairLowRead_keeps {a1 : Requester} {addr : Nat} {s : State} :
    ∃ t, execWidePairLowRead a1 addr s = .next t ∧ Keeps [.highLatch, .resp, .freeCtr, .log, .granary, .miller, .pos,
    .cam, .subs, .lastEvents] [.any] s t := by
  unfold execWidePairLowRead
  have h0 : Keeps [.highLatch, .resp, .freeCtr, .log, .granary, .miller, .pos, .cam, .subs, .lastEvents] [.any] s s
      := keeps_refl
  exact ⟨_, rfl, (keeps_ite (keeps_step h0 busRead_keeps) h0)⟩

theorem motCommand_keeps {s : State} {a1 : Requester} {n : Fin 4} {code : Nat} :
    Keeps [.resp, .freeCtr, .log, .axes, .subs, .lastEvents] [.FAULT_EVT, .FAULT_LOG_WR, .FAULT_LOG_LOST, .MOT_EVT,
    .MOT_AXn_STAT, .MOT_AXn_POS] s (State.motCommand s a1 n code) := by
  unfold State.motCommand
  have h0 : Keeps [.resp, .freeCtr, .log, .axes, .subs, .lastEvents] [.FAULT_EVT, .FAULT_LOG_WR, .FAULT_LOG_LOST,
      .MOT_EVT, .MOT_AXn_STAT, .MOT_AXn_POS] s s := keeps_refl
  refine keeps_ite ?_ ?_
  · exact keeps_step h0 (nextOr_keeps execMoveToTarget_keeps)
  · refine keeps_ite ?_ ?_
    · exact keeps_step h0 (nextOr_keeps execStopAtDmax_keeps)
    · refine keeps_ite ?_ ?_
      · exact keeps_step h0 (nextOr_keeps execQuickStop_keeps)
      · refine keeps_ite ?_ ?_
        · exact keeps_step h0 (nextOr_keeps execHomeAxis_keeps)
        · refine keeps_ite ?_ ?_
          · exact keeps_step h0 (nextOr_keeps execEngageGearing_keeps)
          · refine keeps_ite ?_ ?_
            · exact keeps_step h0 (nextOr_keeps execDisengageGearing_keeps)
            · refine keeps_ite ?_ ?_
              · exact keeps_step h0 (nextOr_keeps execSetPosition_keeps)
              · exact keeps_step h0 written_keeps

theorem execRcRegisterRead_keeps {a1 : Requester} {addr : Nat} {len : Nat} {event : Nat} {s : State} :
    ∃ t, execRcRegisterRead a1 addr len event s = .next t ∧ Keeps [.highLatch, .resp, .freeCtr, .log, .granary,
    .miller, .pos, .cam, .subs, .lastEvents] [.any] s t := by
  unfold execRcRegisterRead
  have h0 : Keeps [.highLatch, .resp, .freeCtr, .log, .granary, .miller, .pos, .cam, .subs, .lastEvents] [.any] s s
      := keeps_refl
  exact ⟨_, rfl, (by
        extract_lets -useContext +onlyGivenNames x2 x4
        have h3 : As h0 x2 := keeps_step h0 busRead_keeps
        clear_value x2
        refine keeps_ite ?_ ?_
        · exact h3
        · exact keeps_setReg h3 (covers .any trivial))⟩

theorem motWrite_keeps {s : State} {a1 : Requester} {a : Nat} {v : Word} :
    Keeps [.halfWrites, .resp, .freeCtr, .log, .axes, .subs, .lastEvents] [.any] s (State.motWrite s a1 a v) := by
  unfold State.motWrite
  have h0 : Keeps [.halfWrites, .resp, .freeCtr, .log, .axes, .subs, .lastEvents] [.any] s s := keeps_refl
  refine keeps_ite ?_ ?_
  · exact keeps_step h0 motCommand_keeps
  · refine keeps_ite ?_ ?_
    · exact keeps_step (keeps_step h0 pairWrite_keeps) written_keeps
    · exact keeps_step (keeps_step h0 motSet_keeps) written_keeps

theorem portWrite_keeps {s : State} {a1 : Requester} {n : Nat} {o : Nat} {a : Nat} {v : Word} :
    Keeps [.resp, .freeCtr, .log, .dma, .granary, .miller, .cam, .subs, .lastEvents, .records] [.any] s
    (State.portWrite s a1 n o a v) := by
  unfold State.portWrite
  have h0 : Keeps [.resp, .freeCtr, .log, .dma, .granary, .miller, .cam, .subs, .lastEvents, .records] [.any] s s :=
      keeps_refl
  refine keeps_ite ?_ ?_
  · exact keeps_step (keeps_step h0 camCtrlWrite_keeps) written_keeps
  · refine keeps_ite ?_ ?_
    · exact keeps_step (keeps_ite h0 (writeByCodes_keeps h0 (covers .any trivial))) written_keeps
    · refine keeps_ite ?_ ?_
      · refine keeps_ite ?_ ?_
        · exact keeps_step h0 refuse_keeps
        · exact keeps_step (keeps_step h0 exposureWrite_keeps) written_keeps
      · refine keeps_ite ?_ ?_
        · exact keeps_step (keeps_step h0 serialCfgWrite_keeps) written_keeps
        · refine keeps_ite ?_ ?_
          · exact keeps_step h0 (nextOr_keeps execSerialDataAccess_keeps)
          · exact keeps_step (writeByCodes_keeps h0 (covers .any trivial)) written_keeps

theorem camWrite_keeps {s : State} {a1 : Requester} {a : Nat} {v : Word} :
    Keeps [.resp, .freeCtr, .log, .dma, .granary, .miller, .weaver, .cam, .subs, .lastEvents, .records, .nozRet]
    [.any] s (State.camWrite s a1 a v) := by
  unfold State.camWrite
  have h0 : Keeps [.resp, .freeCtr, .log, .dma, .granary, .miller, .weaver, .cam, .subs, .lastEvents, .records,
      .nozRet] [.any] s s := keeps_refl
  refine keeps_ite ?_ ?_
  · exact keeps_step h0 (nextOr_keeps execCameraPortReadmit_keeps)
  · refine keeps_ite ?_ ?_
    · exact keeps_step h0 (nextOr_keeps execCamNozzleRetire_keeps)
    · refine keeps_ite ?_ ?_
      · exact keeps_step h0 (nextOr_keeps execCamTableAccess_keeps)
      · refine keeps_ite ?_ ?_
        · exact keeps_step (writeByCodes_keeps h0 (covers .any trivial)) written_keeps
        · refine keeps_ite ?_ ?_
          · exact keeps_step h0 portWrite_keeps
          · extract_lets -useContext +onlyGivenNames x2
            refine keeps_ite ?_ ?_
            · exact keeps_step h0 refuse_keeps
            · refine keeps_ite ?_ ?_
              · exact keeps_step h0 written_keeps
              · exact keeps_step (writeByCodes_keeps h0 (covers .any trivial)) written_keeps

theorem faultWrite_keeps {s : State} {a1 : Requester} {a : Nat} {v : Word} :
    Keeps [.resp, .freeCtr, .log, .link, .dma, .pend, .landed, .weaver, .hcs, .cal, .axes, .eth, .pages, .subs,
    .lastEvents, .tones, .nozRet, .nozGain] [.any] s (State.faultWrite s a1 a v) := by
  unfold State.faultWrite
  have h0 : Keeps [.resp, .freeCtr, .log, .link, .dma, .pend, .landed, .weaver, .hcs, .cal, .axes, .eth, .pages,
      .subs, .lastEvents, .tones, .nozRet, .nozGain] [.any] s s := keeps_refl
  refine keeps_ite ?_ ?_
  · exact keeps_step h0 faultCtrlWrite_keeps
  · refine keeps_ite ?_ ?_
    · exact keeps_step (keeps_step h0 hcRetireWrite_keeps) written_keeps
    · refine keeps_ite ?_ ?_
      · exact keeps_step (keeps_step h0 hcReadmitWrite_keeps) written_keeps
      · refine keeps_ite ?_ ?_
        · exact keeps_step (keeps_step h0 nozRetireWrite_keeps) written_keeps
        · exact keeps_step (writeByCodes_keeps h0 (covers .any trivial)) written_keeps

theorem dmaWrite_keeps {s : State} {a1 : Requester} {a : Nat} {v : Word} :
    Keeps [.resp, .freeCtr, .log, .link, .dma, .granary, .dramValid, .pend, .landed, .weaver, .hcs, .cal, .axes,
    .eth, .pages, .subs, .lastEvents, .dram, .tones, .nozGain] [.any] s (State.dmaWrite s a1 a v) := by
  unfold State.dmaWrite
  have h0 : Keeps [.resp, .freeCtr, .log, .link, .dma, .granary, .dramValid, .pend, .landed, .weaver, .hcs, .cal,
      .axes, .eth, .pages, .subs, .lastEvents, .dram, .tones, .nozGain] [.any] s s := keeps_refl
  refine keeps_ite ?_ ?_
  · exact keeps_step (keeps_step h0 dmaCtrlWrite_keeps) written_keeps
  · refine keeps_ite ?_ ?_
    · exact keeps_step (writeByCodes_keeps h0 (covers .any trivial)) written_keeps
    · extract_lets -useContext +onlyGivenNames x2 x4
      refine keeps_ite ?_ ?_
      · exact keeps_step (keeps_step h0 dmaChCtrlWrite_keeps) written_keeps
      · refine keeps_ite ?_ ?_
        · exact keeps_step (keeps_step h0 ringHiWrite_keeps) written_keeps
        · refine keeps_ite ?_ ?_
          · exact keeps_step h0 (nextOr_keeps execDoorbell_keeps)
          · refine keeps_ite ?_ ?_
            · exact keeps_step (keeps_step h0 abortWrite_keeps) written_keeps
            · exact keeps_step (writeByCodes_keeps h0 (covers .any trivial)) written_keeps

theorem regWrite_keeps {s : State} {a1 : Requester} {a : Nat} {v : Word} :
    Keeps [.highLatch, .halfWrites, .resp, .freeCtr, .log, .link, .dma, .granary, .dramValid, .miller, .pend,
    .landed, .weaver, .hcs, .pos, .br, .cam, .cal, .axes, .mot, .eth, .pages, .subs, .lastEvents, .pwr, .flash, .sec,
    .mem] [.any] s (State.regWrite s a1 a v) := by
  unfold State.regWrite
  have h0 : Keeps [.highLatch, .halfWrites, .resp, .freeCtr, .log, .link, .dma, .granary, .dramValid, .miller, .pend,
      .landed, .weaver, .hcs, .pos, .br, .cam, .cal, .axes, .mot, .eth, .pages, .subs, .lastEvents, .pwr, .flash,
      .sec, .mem] [.any] s s := keeps_refl
  extract_lets -useContext +onlyGivenNames x2
  refine keeps_ite ?_ ?_
  · exact keeps_step h0 linkWrite_keeps
  · refine keeps_ite ?_ ?_
    · exact keeps_step h0 dmaWrite_keeps
    · refine keeps_ite ?_ ?_
      · exact keeps_step h0 granaryWrite_keeps
      · refine keeps_ite ?_ ?_
        · exact keeps_step h0 millerWrite_keeps
        · refine keeps_ite ?_ ?_
          · exact keeps_step h0 hamletWrite_keeps
          · refine keeps_ite ?_ ?_
            · exact keeps_step h0 headWrite_keeps
            · refine keeps_ite ?_ ?_
              · exact keeps_step h0 camWrite_keeps
              · refine keeps_ite ?_ ?_
                · exact keeps_step h0 posWrite_keeps
                · refine keeps_ite ?_ ?_
                  · exact keeps_step h0 brWrite_keeps
                  · refine keeps_ite ?_ ?_
                    · exact keeps_step h0 motWrite_keeps
                    · refine keeps_ite ?_ ?_
                      · refine keeps_ite ?_ ?_
                        · exact keeps_step (keeps_step h0 trimWrite_keeps) written_keeps
                        · exact keeps_step (writeByCodes_keeps h0 (covers .any trivial)) written_keeps
                      · refine keeps_ite ?_ ?_
                        · exact keeps_step h0 clkWrite_keeps
                        · refine keeps_ite ?_ ?_
                          · exact keeps_step h0 secWrite_keeps
                          · exact keeps_step h0 faultWrite_keeps

theorem busWrite_keeps {s : State} {a1 : Requester} {addr : Nat} {data : List Byte} :
    Keeps [.highLatch, .halfWrites, .resp, .freeCtr, .log, .link, .dma, .granary, .dramValid, .miller, .pend,
    .landed, .weaver, .hcs, .pos, .br, .cam, .cal, .axes, .mot, .eth, .pages, .subs, .lastEvents, .pwr, .flash, .sec,
    .mem] [.any] s (State.busWrite s a1 addr data) := by
  unfold State.busWrite
  have h0 : Keeps [.highLatch, .halfWrites, .resp, .freeCtr, .log, .link, .dma, .granary, .dramValid, .miller, .pend,
      .landed, .weaver, .hcs, .pos, .br, .cam, .cal, .axes, .mot, .eth, .pages, .subs, .lastEvents, .pwr, .flash,
      .sec, .mem] [.any] s s := keeps_refl
  refine keeps_ite ?_ ?_
  · exact keeps_step h0 refuse_keeps
  · split
    · exact keeps_step h0 refuse_keeps
    · refine keeps_ite ?_ ?_
      · exact keeps_step h0 refuse_keeps
      · refine keeps_ite ?_ ?_
        · exact keeps_step h0 refuse_keeps
        · exact keeps_step h0 regWrite_keeps
    · exact keeps_step h0 dramAccess_keeps
    · split
      · exact keeps_step h0 refuse_keeps
      · exact keeps_step (keeps_step h0 sramWrite_keeps) written_keeps

theorem execRegisterWrite_keeps {a1 : Requester} {addr : Nat} {data : List Byte} {s : State} :
    ∃ t, execRegisterWrite a1 addr data s = .next t ∧ Keeps [.highLatch, .halfWrites, .resp, .freeCtr, .log, .link,
    .dma, .granary, .dramValid, .miller, .pend, .landed, .weaver, .hcs, .pos, .br, .cam, .cal, .axes, .mot, .eth,
    .pages, .subs, .lastEvents, .pwr, .flash, .sec, .mem] [.any] s t := by
  unfold execRegisterWrite
  have h0 : Keeps [.highLatch, .halfWrites, .resp, .freeCtr, .log, .link, .dma, .granary, .dramValid, .miller, .pend,
      .landed, .weaver, .hcs, .pos, .br, .cam, .cal, .axes, .mot, .eth, .pages, .subs, .lastEvents, .pwr, .flash,
      .sec, .mem] [.any] s s := keeps_refl
  exact ⟨_, rfl, (keeps_step h0 busWrite_keeps)⟩

theorem execW1cEventClear_keeps {a1 : Requester} {addr : Nat} {v : Word} {hw : Word} {s : State} :
    ∃ t, execW1cEventClear a1 addr v hw s = .next t ∧ Keeps [.highLatch, .halfWrites, .resp, .freeCtr, .log, .link,
    .dma, .granary, .dramValid, .miller, .pend, .landed, .weaver, .hcs, .pos, .br, .cam, .cal, .axes, .mot, .eth,
    .pages, .subs, .lastEvents, .pwr, .flash, .sec, .mem] [.any] s t := by
  unfold execW1cEventClear
  have h0 : Keeps [.highLatch, .halfWrites, .resp, .freeCtr, .log, .link, .dma, .granary, .dramValid, .miller, .pend,
      .landed, .weaver, .hcs, .pos, .br, .cam, .cal, .axes, .mot, .eth, .pages, .subs, .lastEvents, .pwr, .flash,
      .sec, .mem] [.any] s s := keeps_refl
  exact ⟨_, rfl, (by
        extract_lets -useContext +onlyGivenNames x2
        have h3 : As h0 x2 := keeps_step h0 busWrite_keeps
        clear_value x2
        split
        · refine keeps_ite ?_ ?_
          · exact h3
          · exact keeps_setReg h3 (covers .any trivial)
        · exact h3)⟩

end Sys2Proof.Laws
end

