-- ==== Sys2Proof/Laws/KeepsLinkMemory.lean ====
section
/-! SUPPORT. What each operation of Machine/LinkMemory.lean may change (`Keeps`): the parts of the state and the rows of registers. -/

set_option Elab.async false

namespace Sys2Proof.Laws

open Sys2Proof.Machine

theorem takeMemory_keeps {s : State} {p : Nat} {cls : Nat} :
    ∀ t, State.takeMemory s p cls = some t → Keeps [.link] [] s t.2 := by
  unfold State.takeMemory
  have h0 : Keeps [.link] [] s s := keeps_refl
  split
  · intro _ ht
    cases ht
  · split
    · intro t ht
      cases ht
      exact keeps_step (keeps_step h0 setPort_keeps) freeCredit_keeps
    · intro _ ht
      cases ht

theorem execMemoryReadCompletion_keeps {p : Fin 2} {s : State} :
    ∃ t, execMemoryReadCompletion p s = .next t ∧ Keeps [.log, .link, .granary, .subs, .lastEvents] [.LINK_STAT,
    .LINK_LANEn_STAT, .FAULT_EVT, .FAULT_LOG_WR, .FAULT_LOG_LOST] s t := by
  unfold execMemoryReadCompletion
  have h0 : Keeps [.log, .link, .granary, .subs, .lastEvents] [.LINK_STAT, .LINK_LANEn_STAT, .FAULT_EVT,
      .FAULT_LOG_WR, .FAULT_LOG_LOST] s s := keeps_refl
  exact ⟨_, rfl, (by
        split
        · exact h0
        · extract_lets -useContext +onlyGivenNames x1 x3
          have h4 : As h0 x3 := keeps_step h0 setPort_keeps
          clear_value x3
          split
          · exact keeps_step h4 queuePacket_keeps
          · extract_lets -useContext +onlyGivenNames x5 x7
            have h8 : As h0 x7 := keeps_step h4 dropAnswers_keeps
            clear_value x7
            refine keeps_ite ?_ ?_
            · exact keeps_step h8 queuePacket_keeps
            · exact keeps_step (keeps_step h8 logFault_keeps) queuePacket_keeps)⟩

theorem linkRefused_keeps {s : State} {p : Nat} {addr : Nat} {write : Bool} :
    Keeps [.log, .link, .subs, .lastEvents] [.LINK_STAT, .LINK_LANEn_STAT, .FAULT_EVT, .FAULT_LOG_WR,
    .FAULT_LOG_LOST] s (State.linkRefused s p addr write) := by
  unfold State.linkRefused
  have h0 : Keeps [.log, .link, .subs, .lastEvents] [.LINK_STAT, .LINK_LANEn_STAT, .FAULT_EVT, .FAULT_LOG_WR,
      .FAULT_LOG_LOST] s s := keeps_refl
  extract_lets -useContext +onlyGivenNames x1
  have h2 : As h0 x1 := keeps_step h0 logFault_keeps
  clear_value x1
  refine keeps_ite ?_ ?_
  · exact keeps_step h2 sendEvent_keeps
  · exact h2

theorem execMemoryReadRequest_keeps {p : Fin 2} {s : State} :
    ∃ t, execMemoryReadRequest p s = .next t ∧ Keeps [.highLatch, .resp, .freeCtr, .log, .link, .granary, .miller,
    .pos, .cam, .subs, .lastEvents] [.any] s t := by
  unfold execMemoryReadRequest
  have h0 : Keeps [.highLatch, .resp, .freeCtr, .log, .link, .granary, .miller, .pos, .cam, .subs, .lastEvents]
      [.any] s s := keeps_refl
  exact ⟨_, rfl, (by
        split
        · exact h0
        · rename_i t1 e2
          have h3 := keeps_step h0 (takeMemory_keeps _ e2)
          extract_lets -useContext +onlyGivenNames x4
          have h5 : ∀ y6, As h0 y6 → ∀ y8, ∀ y9, ∀ y10, As h0 (x4 y6 y8 y9 y10) := fun y6 h7 y8 y9 y10 => (keeps_step
              h7 setPort_keeps)
          clear_value x4
          refine keeps_ite ?_ ?_
          · exact h5 _ (keeps_step h3 dramAccess_keeps) _ _ _
          · extract_lets -useContext +onlyGivenNames x11
            have h12 : As h0 x11 := keeps_step h3 busRead_keeps
            clear_value x11
            split
            · exact h5 _ h12 _ _ _
            · exact h5 _ (keeps_step h12 linkRefused_keeps) _ _ _)⟩

theorem execMemoryWritePacket_keeps {p : Fin 2} {s : State} :
    ∃ t, execMemoryWritePacket p s = .next t ∧ Keeps [.highLatch, .halfWrites, .resp, .freeCtr, .log, .link, .dma,
    .granary, .dramValid, .miller, .pend, .landed, .weaver, .hcs, .pos, .br, .cam, .cal, .axes, .mot, .eth, .pages,
    .subs, .lastEvents, .pwr, .flash, .sec, .mem] [.any] s t := by
  unfold execMemoryWritePacket
  have h0 : Keeps [.highLatch, .halfWrites, .resp, .freeCtr, .log, .link, .dma, .granary, .dramValid, .miller, .pend,
      .landed, .weaver, .hcs, .pos, .br, .cam, .cal, .axes, .mot, .eth, .pages, .subs, .lastEvents, .pwr, .flash,
      .sec, .mem] [.any] s s := keeps_refl
  exact ⟨_, rfl, (by
        split
        · exact h0
        · rename_i t1 e2
          have h3 := keeps_step h0 (takeMemory_keeps _ e2)
          extract_lets -useContext +onlyGivenNames x4 x6
          have h7 : As h0 x6 := keeps_step h3 busWrite_keeps
          clear_value x6
          refine keeps_ite ?_ ?_
          · exact h7
          · split
            · exact keeps_step h7 linkRefused_keeps
            · exact h7)⟩

end Sys2Proof.Laws
end

