-- ==== Sys2Proof/Laws/KeepsStartup.lean ====
section
/-! SUPPORT. What each operation of Machine/Startup.lean may change (`Keeps`): the parts of the state and the rows of registers. -/

set_option Elab.async false

namespace Sys2Proof.Laws

open Sys2Proof.Machine

theorem mask_in {s : State} {k b c : Nat} {l : List Byte} (h : c + l.length ≤ 0x5000) :
    ∀ x, maskBankBase k b + c ≤ x → x < maskBankBase k b + c + l.length → Part.masks.stores [] s x := fun x h1 h2 => by
  unfold maskBankBase at h1 h2
  exact ⟨k, by omega, by omega⟩

theorem laneSlots_lt {k j : Nat} (h : j ∈ laneSlots k) : j < 8 := List.mem_range.mp (List.mem_filter.mp h).1

theorem loadRows_keeps {s : State} {k : Nat} {b : Nat} :
    Keeps [.masks] [] s (State.loadRows s k b) := by
  unfold State.loadRows
  have h0 : Keeps [.masks] [] s s := keeps_refl
  extract_lets -useContext +onlyGivenNames x1
  refine keeps_foldl_mem h0 (fun _ j hj h3 => ?_)
  have := laneSlots_lt hj
  extract_lets -useContext +onlyGivenNames x4 x6
  have h7 : As h0 x6 := keeps_step h3 (setBytes_keeps .masks (mask_in (by simp [x4]; omega)))
  clear_value x6
  refine keeps_step h7 (setBytes_keeps .masks ?_)
  rw [Nat.add_assoc]
  exact mask_in (by simp; omega)

theorem putSet_keeps {s : State} {objects : List (Nat × Nat)} {regs : List (Nat × Word)} :
    Keeps [.flash] [] s (State.putSet s objects regs) := by
  unfold State.putSet
  have h0 : Keeps [.flash] [] s s := keeps_refl
  extract_lets -useContext +onlyGivenNames x1
  exact keeps_flash h0 _

theorem bootFlags_keeps {s : State} {ddr : Bool} :
    Keeps [.pwr] [.CLKPWR_STAT, .CLKPWR_BOOTSTAT] s (State.bootFlags s ddr) := by
  unfold State.bootFlags
  have h0 : Keeps [.pwr] [.CLKPWR_STAT, .CLKPWR_BOOTSTAT] s s := keeps_refl
  extract_lets -useContext +onlyGivenNames x1 x4 x6 x8
  have h2 : As h0 x1 := keeps_foldl h0 (fun _ _ h3 => (setBit_keeps h3 (covers .CLKPWR_STAT rfl)))
  clear_value x1
  have h5 : As h0 x4 := setBit_keeps h2 (covers .CLKPWR_STAT rfl)
  clear_value x4
  have h7 : As h0 x6 := setFld_keeps h5 (covers .CLKPWR_BOOTSTAT rfl)
  clear_value x6
  have h9 : As h0 x8 := setBit_keeps h7 (covers .CLKPWR_BOOTSTAT rfl)
  clear_value x8
  exact keeps_pwr h9 _

theorem takeAddress_keeps {s : State} :
    Keeps [.eth] [] s (State.takeAddress s) := by
  unfold State.takeAddress
  have h0 : Keeps [.eth] [] s s := keeps_refl
  exact keeps_eth h0 _

theorem loadSettings_keeps {s : State} :
    Keeps [.eth, .flash] [.CLKPWR_BOOTSTAT] s (State.loadSettings s).1 := by
  unfold State.loadSettings
  have h0 : Keeps [.eth, .flash] [.CLKPWR_BOOTSTAT] s s := keeps_refl
  split
  · exact keeps_eth h0 _
  · extract_lets -useContext +onlyGivenNames x1
    exact setBit_keeps (keeps_step h0 putSet_keeps) (covers .CLKPWR_BOOTSTAT rfl)

theorem execRtcSync_keeps {s : State} :
    ∃ t, execRtcSync s = .next t ∧ Keeps [.pwr] [.CLKPWR_STAT] s t := by
  unfold execRtcSync
  have h0 : Keeps [.pwr] [.CLKPWR_STAT] s s := keeps_refl
  exact ⟨_, rfl, (by
        extract_lets -useContext +onlyGivenNames x1
        refine keeps_ite ?_ ?_
        · extract_lets -useContext +onlyGivenNames x3
          have h4 : As h0 x3 := keeps_step h0 watchWrite_keeps
          clear_value x3
          exact keeps_pwr h4 _
        · exact h0)⟩

theorem loadStitch_keeps {s : State} {k : Nat} {v : Nat} {b : Nat} :
    Keeps [.masks] [] s (State.loadStitch s k v b) := by
  unfold State.loadStitch
  have h0 : Keeps [.masks] [] s s := keeps_refl
  extract_lets -useContext +onlyGivenNames x1 x3
  have h4 : As h0 x3 := keeps_step h0 (setBytes_keeps .masks (mask_in (by simp)))
  clear_value x3
  refine keeps_foldl_mem h4 (fun _ q hq h5 => keeps_step h5 (setBytes_keeps .masks ?_))
  have := laneSlots_lt (List.mem_filter.mp hq).1
  rw [Nat.add_assoc]
  exact mask_in (by rw [List.length_map, List.length_range]; omega)

theorem saveSettings_keeps {s : State} :
    Keeps [.flash] [] s (State.saveSettings s) := by
  unfold State.saveSettings
  have h0 : Keeps [.flash] [] s s := keeps_refl
  exact keeps_step h0 putSet_keeps

theorem defaultRows_keeps {s : State} :
    Keeps [.masks] [] s (State.defaultRows s) := by
  unfold State.defaultRows
  have h0 : Keeps [.masks] [] s s := keeps_refl
  exact keeps_foldl h0 (fun _ _ h1 => (keeps_foldl h1 (fun _ _ h2 => (keeps_step h2 loadRows_keeps))))

theorem defaultStitch_keeps {s : State} :
    Keeps [.masks] [] s (State.defaultStitch s) := by
  unfold State.defaultStitch
  have h0 : Keeps [.masks] [] s s := keeps_refl
  exact keeps_foldl h0 (fun _ _ h1 => (keeps_foldl h1 (fun _ _ h2 => (keeps_step h2 loadStitch_keeps))))

theorem saveWrite_keeps {s : State} :
    Keeps [.flash] [] s (State.saveWrite s).2 := by
  unfold State.saveWrite
  have h0 : Keeps [.flash] [] s s := keeps_refl
  exact keeps_step h0 saveSettings_keeps

theorem startFault_keeps {s : State} {fault : Nat} :
    Keeps [.freeCtr, .log, .subs, .lastEvents] [.FAULT_EVT, .FAULT_LOG_WR, .FAULT_LOG_LOST, .CLKPWR_STAT,
    .CLKPWR_EVT, .CLKPWR_BOOTSTAT] s (State.startFault s fault) := by
  unfold State.startFault
  have h0 : Keeps [.freeCtr, .log, .subs, .lastEvents] [.FAULT_EVT, .FAULT_LOG_WR, .FAULT_LOG_LOST, .CLKPWR_STAT,
      .CLKPWR_EVT, .CLKPWR_BOOTSTAT] s s := keeps_refl
  extract_lets -useContext +onlyGivenNames x1
  have h2 : As h0 x1 := setFld_keeps h0 (covers .CLKPWR_BOOTSTAT rfl)
  clear_value x1
  exact keeps_step (keeps_step (setBit_keeps h2 (covers .CLKPWR_EVT rfl)) pwrLog_keeps) setPower_keeps

theorem enableSaved_keeps {s : State} {a1 : Nat} {v : Word} :
    Keeps [.freeCtr, .landed, .hcs, .cal, .pages, .subs, .lastEvents, .masks, .slots, .nozRet] [.HC_CTRL, .HC_STAT,
    .BR_STAT, .BR_EVT, .BR_FMAX, .BR_SNAPLINE, .BR_HLIMIT, .FAULT_STAT, .CAL_HCh_NOW, .CAL_HCh_STAT] s
    (State.enableSaved s a1 v) := by
  unfold State.enableSaved
  have h0 : Keeps [.freeCtr, .landed, .hcs, .cal, .pages, .subs, .lastEvents, .masks, .slots, .nozRet] [.HC_CTRL,
      .HC_STAT, .BR_STAT, .BR_EVT, .BR_FMAX, .BR_SNAPLINE, .BR_HLIMIT, .FAULT_STAT, .CAL_HCh_NOW, .CAL_HCh_STAT] s s
      := keeps_refl
  extract_lets -useContext +onlyGivenNames x2
  have h3 : As h0 x2 := writeByCodes_keeps h0 (covers .HC_CTRL ⟨_, rfl⟩)
  clear_value x2
  refine keeps_ite ?_ ?_
  · exact h3
  · extract_lets -useContext +onlyGivenNames x4 x6
    refine keeps_ite ?_ ?_
    · exact setFld_keeps h3 (covers .HC_STAT ⟨_, rfl⟩)
    · exact keeps_step (setBit_keeps h3 (covers .HC_CTRL ⟨_, rfl⟩)) hcEnabled_keeps

theorem checkCert_keeps {s : State} :
    Keeps [.freeCtr, .log, .subs, .lastEvents] [.FAULT_EVT, .FAULT_LOG_WR, .FAULT_LOG_LOST, .SEC_STAT] s
    (State.checkCert s) := by
  unfold State.checkCert
  have h0 : Keeps [.freeCtr, .log, .subs, .lastEvents] [.FAULT_EVT, .FAULT_LOG_WR, .FAULT_LOG_LOST, .SEC_STAT] s s :=
      keeps_refl
  refine keeps_ite ?_ ?_
  · exact keeps_step (setBit_keeps h0 (covers .SEC_STAT rfl)) secLog_keeps
  · exact h0

theorem warmGranary_keeps {s : State} {ready : Bool} :
    Keeps [.granary] [.GRANARY_STAT, .GRANARY_EVT, .GRANARY_SR] s (State.warmGranary s ready) := by
  unfold State.warmGranary
  have h0 : Keeps [.granary] [.GRANARY_STAT, .GRANARY_EVT, .GRANARY_SR] s s := keeps_refl
  extract_lets -useContext +onlyGivenNames x1 x3
  have h2 : As h0 x1 := setBit_keeps (setBit_keeps h0 (covers .GRANARY_SR rfl)) (covers .GRANARY_SR rfl)
  clear_value x1
  have h4 : As h0 x3 := keeps_step h2 setChStates_keeps
  clear_value x3
  refine keeps_ite ?_ ?_
  · exact keeps_step h4 finishSrExit_keeps
  · exact h4

theorem restore_keeps {s : State} {e : Nat × Word} :
    Keeps [.highLatch, .halfWrites, .resp, .freeCtr, .log, .link, .dma, .granary, .dramValid, .miller, .pend,
    .landed, .weaver, .hcs, .pos, .br, .cam, .cal, .axes, .mot, .eth, .pages, .subs, .lastEvents, .pwr, .flash, .sec,
    .mem] [.any] s (State.restore s e) := by
  unfold State.restore
  have h0 : Keeps [.highLatch, .halfWrites, .resp, .freeCtr, .log, .link, .dma, .granary, .dramValid, .miller, .pend,
      .landed, .weaver, .hcs, .pos, .br, .cam, .cal, .axes, .mot, .eth, .pages, .subs, .lastEvents, .pwr, .flash,
      .sec, .mem] [.any] s s := keeps_refl
  exact keeps_step h0 regWrite_keeps

theorem loadDelays_keeps {s : State} :
    Keeps [.highLatch, .halfWrites, .resp, .freeCtr, .log, .link, .dma, .granary, .dramValid, .miller, .pend,
    .landed, .weaver, .hcs, .pos, .br, .cam, .cal, .axes, .mot, .eth, .pages, .subs, .lastEvents, .pwr, .flash, .sec,
    .mem] [.any] s (State.loadDelays s) := by
  unfold State.loadDelays
  have h0 : Keeps [.highLatch, .halfWrites, .resp, .freeCtr, .log, .link, .dma, .granary, .dramValid, .miller, .pend,
      .landed, .weaver, .hcs, .pos, .br, .cam, .cal, .axes, .mot, .eth, .pages, .subs, .lastEvents, .pwr, .flash,
      .sec, .mem] [.any] s s := keeps_refl
  extract_lets -useContext +onlyGivenNames x1
  exact keeps_foldl (keeps_step h0 regWrite_keeps) (fun _ _ h3 => (keeps_step h3 delayAccess_keeps))

theorem copyProfile_keeps {s : State} {a1 : Nat} :
    Keeps [.highLatch, .halfWrites, .resp, .freeCtr, .log, .link, .dma, .granary, .dramValid, .miller, .pend,
    .landed, .weaver, .hcs, .pos, .br, .cam, .cal, .axes, .mot, .eth, .pages, .subs, .lastEvents, .pwr, .flash, .sec,
    .mem] [.any] s (State.copyProfile s a1) := by
  unfold State.copyProfile
  have h0 : Keeps [.highLatch, .halfWrites, .resp, .freeCtr, .log, .link, .dma, .granary, .dramValid, .miller, .pend,
      .landed, .weaver, .hcs, .pos, .br, .cam, .cal, .axes, .mot, .eth, .pages, .subs, .lastEvents, .pwr, .flash,
      .sec, .mem] [.any] s s := keeps_refl
  refine keeps_ite ?_ ?_
  · exact keeps_foldl h0 (fun _ _ h2 => (keeps_step h2 restore_keeps))
  · exact h0

theorem flushHalves_keeps {s : State} :
    Keeps [.highLatch, .halfWrites, .resp, .freeCtr, .log, .link, .dma, .granary, .dramValid, .miller, .pend,
    .landed, .weaver, .hcs, .pos, .br, .cam, .cal, .axes, .mot, .eth, .pages, .subs, .lastEvents, .pwr, .flash, .sec,
    .mem] [.any] s (State.flushHalves s) := by
  unfold State.flushHalves
  have h0 : Keeps [.highLatch, .halfWrites, .resp, .freeCtr, .log, .link, .dma, .granary, .dramValid, .miller, .pend,
      .landed, .weaver, .hcs, .pos, .br, .cam, .cal, .axes, .mot, .eth, .pages, .subs, .lastEvents, .pwr, .flash,
      .sec, .mem] [.any] s s := keeps_refl
  exact keeps_foldl h0 (fun _ _ h1 => (keeps_step h1 restore_keeps))

theorem coldGranary_keeps {s : State} {ready : Bool} :
    Keeps [.highLatch, .halfWrites, .resp, .freeCtr, .log, .link, .dma, .granary, .dramValid, .miller, .pend,
    .landed, .weaver, .hcs, .pos, .br, .cam, .cal, .axes, .mot, .eth, .pages, .subs, .lastEvents, .pwr, .flash, .sec,
    .mem] [.any] s (State.coldGranary s ready) := by
  unfold State.coldGranary
  have h0 : Keeps [.highLatch, .halfWrites, .resp, .freeCtr, .log, .link, .dma, .granary, .dramValid, .miller, .pend,
      .landed, .weaver, .hcs, .pos, .br, .cam, .cal, .axes, .mot, .eth, .pages, .subs, .lastEvents, .pwr, .flash,
      .sec, .mem] [.any] s s := keeps_refl
  extract_lets -useContext +onlyGivenNames x1
  have h2 : As h0 x1 := keeps_step (keeps_step h0 loadDelays_keeps) granaryCtrlWrite_keeps
  clear_value x1
  refine keeps_ite ?_ ?_
  · exact h2
  · extract_lets -useContext +onlyGivenNames x3 x5 x7 x9
    have h4 : As h0 x3 := keeps_ite (keeps_step (keeps_step h2 channelReady_keeps) channelReady_keeps) (keeps_step h2
        channelReady_keeps)
    clear_value x3
    have h8 : As h0 x7 := keeps_setReg h4 (covers .GRANARY_INIT_BASE_HI rfl)
    clear_value x7
    have h10 : As h0 x9 := keeps_setReg h8 (covers .GRANARY_INIT_LEN rfl)
    clear_value x9
    exact setBit_keeps (keeps_step h10 zeroDram_keeps) (covers .GRANARY_EVT rfl)

theorem applySettings_keeps {s : State} {enable : Bool} :
    Keeps [.highLatch, .halfWrites, .resp, .freeCtr, .log, .link, .dma, .granary, .dramValid, .miller, .pend,
    .landed, .weaver, .hcs, .pos, .br, .cam, .cal, .axes, .mot, .eth, .pages, .subs, .lastEvents, .pwr, .flash, .sec,
    .mem] [.any] s (State.applySettings s enable) := by
  unfold State.applySettings
  have h0 : Keeps [.highLatch, .halfWrites, .resp, .freeCtr, .log, .link, .dma, .granary, .dramValid, .miller, .pend,
      .landed, .weaver, .hcs, .pos, .br, .cam, .cal, .axes, .mot, .eth, .pages, .subs, .lastEvents, .pwr, .flash,
      .sec, .mem] [.any] s s := keeps_refl
  split
  · rename State => t1
    have h3 : As h0 t1 := keeps_of_1 (by assumption) (keeps_step h0 loadSettings_keeps)
    extract_lets -useContext +onlyGivenNames x4 x6 x9 x11 x14 x16
    have h7 : As h0 x6 := keeps_foldl h3 (fun _ _ h8 => (keeps_step h8 restore_keeps))
    clear_value x6
    have h10 : As h0 x9 := keeps_step (keeps_step (keeps_step (keeps_step h7 flushHalves_keeps) takeAddress_keeps)
        defaultStitch_keeps) defaultRows_keeps
    clear_value x9
    have h12 : As h0 x11 := keeps_foldl h10 (fun _ _ h13 => (keeps_step h13 copyProfile_keeps))
    clear_value x11
    have h15 : As h0 x14 := keeps_step (keeps_step h12 dmaCtrlWrite_keeps) millerCtrlWrite_keeps
    clear_value x14
    have h17 : As h0 x16 := keeps_foldl h15 (fun _ _ h18 => (keeps_step h18 restore_keeps))
    clear_value x16
    refine keeps_ite ?_ ?_
    · exact keeps_foldl h17 (fun _ _ h19 => (by
            split
            · exact keeps_step h19 enableSaved_keeps
            · exact h19))
    · exact h17

theorem execStartUpComplete_keeps {fault : Fin 5} {s : State} :
    ∃ t, execStartUpComplete fault s = .next t ∧ Keeps [.highLatch, .halfWrites, .resp, .freeCtr, .log, .link, .dma,
    .granary, .dramValid, .miller, .pend, .landed, .weaver, .hcs, .pos, .br, .cam, .cal, .axes, .mot, .eth, .pages,
    .subs, .lastEvents, .pwr, .flash, .sec, .mem] [.any] s t := by
  unfold execStartUpComplete
  have h0 : Keeps [.highLatch, .halfWrites, .resp, .freeCtr, .log, .link, .dma, .granary, .dramValid, .miller, .pend,
      .landed, .weaver, .hcs, .pos, .br, .cam, .cal, .axes, .mot, .eth, .pages, .subs, .lastEvents, .pwr, .flash,
      .sec, .mem] [.any] s s := keeps_refl
  exact ⟨_, rfl, (keeps_ite h0 (by
        extract_lets -useContext +onlyGivenNames x1
        refine keeps_ite ?_ ?_
        · exact setFld_keeps h0 (covers .CLKPWR_BOOTSTAT rfl)
        · extract_lets -useContext +onlyGivenNames x3 x5 x7
          have h4 : As h0 x3 := keeps_step (keeps_step h0 bootFlags_keeps) checkCert_keeps
          clear_value x3
          have h6 : As h0 x5 := keeps_ite h4 (keeps_ite (keeps_step h4 warmGranary_keeps) (keeps_step h4
              coldGranary_keeps))
          clear_value x5
          have h8 : As h0 x7 := keeps_step h6 applySettings_keeps
          clear_value x7
          refine keeps_ite ?_ ?_
          · exact keeps_step h8 setPower_keeps
          · exact keeps_step h8 startFault_keeps))⟩

end Sys2Proof.Laws
end

