-- ==== Sys2Proof/Laws/KeepsTables.lean ====
section
/-! SUPPORT. What each operation of Machine/Tables.lean may change (`Keeps`): the parts of the state and the rows of registers. -/

set_option Elab.async false

namespace Sys2Proof.Laws

open Sys2Proof.Machine

theorem writeGain_keeps {s : State} {gains : List (Nat × Byte)} {kernels : List (Nat × Word)} {l : Option Nat} :
    Keeps [.weaver, .nozGain] [.WEAVER_KERNEL, .WEAVER_KERNEL_START, .WEAVER_GAIN_L, .WEAVER_GAIN_E] s
    (State.writeGain s gains kernels l) := by
  unfold State.writeGain
  have h0 : Keeps [.weaver, .nozGain] [.WEAVER_KERNEL, .WEAVER_KERNEL_START, .WEAVER_GAIN_L, .WEAVER_GAIN_E] s s :=
      keeps_refl
  extract_lets -useContext +onlyGivenNames x1 x4 x7 x9 x11 x16
  have h2 : As h0 x1 := keeps_foldl h0 (fun _ _ h3 => (keeps_step h3 (setByte_keeps .nozGain ⟨_, .inl rfl⟩)))
  clear_value x1
  have h5 : As h0 x4 := keeps_foldl h2 (fun _ _ h6 => (keeps_setReg h6 (covers .WEAVER_KERNEL_START ⟨_, rfl⟩)))
  clear_value x4
  have h12 : As h0 x11 := keeps_foldl h5 (fun _ _ h13 => (by
        extract_lets -useContext +onlyGivenNames x14
        have h15 : As h0 x14 := keeps_step h13 (setByte_keeps .nozGain ⟨_, .inr rfl⟩)
        clear_value x14
        refine keeps_ite ?_ ?_
        · exact keeps_step h15 (setByte_keeps .nozGain ⟨_, .inl rfl⟩)
        · exact h15))
  clear_value x11
  have h17 : As h0 x16 := keeps_foldl h12 (fun _ _ h18 => (by
        extract_lets -useContext +onlyGivenNames x19
        have h20 : As h0 x19 := keeps_setReg h18 (covers .WEAVER_KERNEL ⟨_, rfl⟩)
        clear_value x19
        refine keeps_ite ?_ ?_
        · exact keeps_setReg h20 (covers .WEAVER_KERNEL_START ⟨_, rfl⟩)
        · exact h20))
  clear_value x16
  split
  · exact h17
  · exact keeps_foldl h17 (fun _ _ h21 => (by
          extract_lets -useContext +onlyGivenNames x22
          have h23 : As h0 x22 := keeps_setReg (keeps_setReg h21 (covers .WEAVER_GAIN_L ⟨_, rfl⟩)) (covers
              .WEAVER_GAIN_E ⟨_, rfl⟩)
          clear_value x22
          exact keeps_step h23 setHam_keeps))

theorem writeScan_keeps {s : State} {i : Nat} {v : List Byte} {l : Option Nat} :
    Keeps [.hcs, .slots] [] s (State.writeScan s i v l) := by
  unfold State.writeScan
  have h0 : Keeps [.hcs, .slots] [] s s := keeps_refl
  extract_lets -useContext +onlyGivenNames x1
  split
  · extract_lets -useContext +onlyGivenNames x3
    exact keeps_step h0 setHc_keeps
  · exact keeps_step h0 scanImageDue_keeps

theorem weaverEvt_keeps {s : State} {b : Field} {f : Nat → Bool} :
    Keeps [] [.WEAVER_EVT] s (State.weaverEvt s b f) := by
  unfold State.weaverEvt
  have h0 : Keeps [] [.WEAVER_EVT] s s := keeps_refl
  exact keeps_foldl h0 (fun _ _ h1 => (setBit_keeps h1 (covers .WEAVER_EVT ⟨_, rfl⟩)))

theorem checkTable_keeps {s : State} {a1 : Config.Table} {v : List Byte} {readmits : Nat} :
    Keeps [] [.WEAVER_EVT, .HC_EVT] s (State.checkTable s a1 v readmits).2 := by
  unfold State.checkTable
  have h0 : Keeps [] [.WEAVER_EVT, .HC_EVT] s s := keeps_refl
  split
  · refine keeps_ite_snd ?_ ?_
    · exact keeps_step h0 weaverEvt_keeps
    · exact h0
  · refine keeps_ite_snd ?_ ?_
    · exact keeps_step h0 weaverEvt_keeps
    · exact h0
  · extract_lets -useContext +onlyGivenNames x2
    refine keeps_ite_snd ?_ ?_
    · exact keeps_step h0 weaverEvt_keeps
    · refine keeps_ite_snd ?_ ?_
      · exact h0
      · exact h0
  · refine keeps_ite_snd ?_ ?_
    · exact h0
    · exact h0
  · extract_lets -useContext +onlyGivenNames x4
    refine keeps_ite_snd ?_ ?_
    · exact setBit_keeps h0 (covers .HC_EVT ⟨_, rfl⟩)
    · exact h0
  · extract_lets -useContext +onlyGivenNames x6
    refine keeps_ite_snd ?_ ?_
    · exact keeps_step h0 weaverEvt_keeps
    · exact h0
  · exact h0
  · exact h0

theorem writeTone_keeps {s : State} {recs : List (Nat × Nat × List Byte)} {l : Option Nat} :
    Keeps [.weaver, .tones] [.WEAVER_TONE_L, .WEAVER_TONE_E] s (State.writeTone s recs l) := by
  unfold State.writeTone
  have h0 : Keeps [.weaver, .tones] [.WEAVER_TONE_L, .WEAVER_TONE_E] s s := keeps_refl
  extract_lets -useContext +onlyGivenNames x1 x5 x7
  have h2 : As h0 x1 := keeps_foldl h0 (fun _ _ h3 => (keeps_foldl h3 (fun _ _ h4 => (keeps_step h4 (setBytes_keeps
      .tones (tones_in0 (Nat.le_trans (Nat.le_of_eq bytes_length) (by decide))))))))
  clear_value x1
  have h8 : As h0 x7 := keeps_foldl h2 (fun _ _ h9 => (keeps_foldl h9 (fun _ _ h10 => (by
        extract_lets -useContext +onlyGivenNames x11
        have h12 : As h0 x11 := keeps_step h10 (setBytes_keeps .tones (tones_in (List.length_take_le _ _)))
        clear_value x11
        refine keeps_ite ?_ ?_
        · exact keeps_step h12 (setBytes_keeps .tones (tones_in0 (Nat.le_trans (List.length_take_le _ _) (by
              decide))))
        · exact h12))))
  clear_value x7
  split
  · exact h8
  · exact keeps_foldl h8 (fun _ _ h13 => (by
          extract_lets -useContext +onlyGivenNames x14
          have h15 : As h0 x14 := keeps_setReg (keeps_setReg h13 (covers .WEAVER_TONE_L ⟨_, rfl⟩)) (covers
              .WEAVER_TONE_E ⟨_, rfl⟩)
          clear_value x14
          exact keeps_step h15 setHam_keeps))

theorem putMask_keeps {s : State} {k : Nat} {a : Nat} {l : List Byte} :
    Keeps [.masks] [] s (State.putMask s k a l) :=
  setBytes_keeps .masks fun x h1 h2 => by
    rw [List.length_take] at h2
    unfold State.maskOther at h1 h2
    exact ⟨k, by omega, by omega⟩

theorem putComb_keeps {s : State} {a1 : Nat} {b : Nat} {v : List Byte} :
    Keeps [] [.any] s (State.putComb s a1 b v) := by
  unfold State.putComb
  have h0 : Keeps [] [.any] s s := keeps_refl
  exact keeps_foldl h0 (fun _ _ h2 => (keeps_setReg h2 (covers .any trivial)))

theorem switchMasks_keeps {s : State} {l : Option Nat} :
    Keeps [] [.WEAVER_MASKSEL, .WEAVER_MASKLINE, .BR_FMAX, .BR_HLIMIT] s (State.switchMasks s l) := by
  unfold State.switchMasks
  have h0 : Keeps [] [.WEAVER_MASKSEL, .WEAVER_MASKLINE, .BR_FMAX, .BR_HLIMIT] s s := keeps_refl
  extract_lets -useContext +onlyGivenNames x1
  have h2 : As h0 x1 := keeps_foldl h0 (fun _ _ h3 => (by
        split
        · exact keeps_setReg h3 (covers .WEAVER_MASKLINE ⟨_, rfl⟩)
        · exact setFld_keeps h3 (covers .WEAVER_MASKSEL ⟨_, rfl⟩)))
  clear_value x1
  exact keeps_step h2 refreshLimits_keeps

theorem writeMasks_keeps {s : State} {l : List (Nat × List Byte)} :
    Keeps [.masks] [] s (State.writeMasks s l) := by
  unfold State.writeMasks
  have h0 : Keeps [.masks] [] s s := keeps_refl
  extract_lets -useContext +onlyGivenNames x1
  have h2 : As h0 x1 := keeps_foldl h0 (fun _ _ h3 => (keeps_step h3 putMask_keeps))
  clear_value x1
  exact keeps_foldl h2 (fun _ _ h4 => (by
        extract_lets -useContext +onlyGivenNames x5 x7 x9 x16 x18 x21
        have h10 : ∀ y11, As h0 y11 → ∀ y13, ∀ y14, ∀ y15, As h0 (x9 y11 y13 y14 y15) := fun y11 h12 y13 y14 y15 =>
            (keeps_step (keeps_step (keeps_step h12 putMask_keeps) putMask_keeps) putMask_keeps)
        clear_value x9
        have h17 : As h0 x16 := keeps_step h4 putMask_keeps
        clear_value x16
        have h19 : As h0 x18 := keeps_foldl h17 (fun _ _ h20 => (keeps_step h20 putMask_keeps))
        clear_value x18
        have h22 : As h0 x21 := keeps_ite (keeps_step (h10 _ (h10 _ h19 _ _ _) _ _ _) putMask_keeps) h19
        clear_value x21
        refine keeps_ite ?_ ?_
        · exact keeps_step (h10 _ (h10 _ h22 _ _ _) _ _ _) putMask_keeps
        · exact h22))

theorem writeComb_keeps {s : State} {a1 : Nat} {v : List Byte} {l : Option Nat} :
    Keeps [.hcs] [.any] s (State.writeComb s a1 v l) := by
  unfold State.writeComb
  have h0 : Keeps [.hcs] [.any] s s := keeps_refl
  extract_lets -useContext +onlyGivenNames x2 x4
  have h5 : As h0 x4 := keeps_step h0 putComb_keeps
  clear_value x4
  split
  · exact keeps_step h5 combLineSet_keeps
  · extract_lets -useContext +onlyGivenNames x6 x8 x10
    have h7 : As h0 x6 := setFld_keeps h5 (covers .HC_COMBSEL ⟨_, rfl⟩)
    clear_value x6
    have h11 : As h0 x10 := keeps_ite (keeps_step h7 setHc_keeps) h7
    clear_value x10
    exact keeps_step h11 refreshLimit_keeps

theorem writeReadmit_keeps {s : State} {v : List Byte} {l : Option Nat} :
    Keeps [.log, .weaver, .subs, .lastEvents, .nozRet] [.FAULT_EVT, .FAULT_LOG_WR, .FAULT_LOG_LOST] s
    (State.writeReadmit s v l) := by
  unfold State.writeReadmit
  have h0 : Keeps [.log, .weaver, .subs, .lastEvents, .nozRet] [.FAULT_EVT, .FAULT_LOG_WR, .FAULT_LOG_LOST] s s :=
      keeps_refl
  split
  · exact keeps_weaver h0 _
  · exact keeps_foldl h0 (fun _ _ h1 => (keeps_step h1 readmitNozzle_keeps))

theorem writeTables_keeps {s : State} {tabs : List (Config.Table × List Byte)} {kernels : List (Nat × Word)} {l :
    Option Nat} :
    Keeps [.log, .weaver, .hcs, .subs, .lastEvents, .tones, .masks, .slots, .nozRet, .nozGain, .thresholds] [.any] s
    (State.writeTables s tabs kernels l) := by
  unfold State.writeTables
  have h0 : Keeps [.log, .weaver, .hcs, .subs, .lastEvents, .tones, .masks, .slots, .nozRet, .nozGain, .thresholds]
      [.any] s s := keeps_refl
  extract_lets -useContext +onlyGivenNames x1 x3 x5 x7 x9 x11
  have h8 : As h0 x7 := keeps_ite h0 (keeps_step h0 writeTone_keeps)
  clear_value x7
  have h10 : As h0 x9 := keeps_ite h8 (keeps_step h8 writeGain_keeps)
  clear_value x9
  have h12 : As h0 x11 := keeps_ite h10 (keeps_step (keeps_step h10 writeMasks_keeps) switchMasks_keeps)
  clear_value x11
  exact keeps_foldl h12 (fun _ _ h13 => (by
        split
        · refine keeps_ite ?_ ?_
          · exact h13
          · exact keeps_step h13 (setBytes_keeps .thresholds (thresholds_in (List.length_take_le _ _)))
        · exact keeps_step h13 writeComb_keeps
        · exact keeps_step h13 writeReadmit_keeps
        · exact keeps_step h13 writeScan_keeps
        · exact h13))

end Sys2Proof.Laws
end

