-- ==== Sys2Proof/Laws/KeepsObjects.lean ====
section
/-! SUPPORT. What each operation of Machine/Objects.lean may change (`Keeps`): the parts of the state and the rows of registers. -/

set_option Elab.async false

namespace Sys2Proof.Laws

open Sys2Proof.Machine

theorem deriveRatio_keeps {s : State} :
    Keeps [.eth] [] s (State.deriveRatio s) := by
  unfold State.deriveRatio
  have h0 : Keeps [.eth] [] s s := keeps_refl
  extract_lets -useContext +onlyGivenNames x1 x3
  exact keeps_eth h0 _

theorem writeOwner_keeps {s : State} {k : Nat} {v : List Byte} :
    Keeps [.flash] [] s (State.writeOwner s k v) := by
  unfold State.writeOwner
  have h0 : Keeps [.flash] [] s s := keeps_refl
  extract_lets -useContext +onlyGivenNames x1
  exact keeps_flash h0 _

theorem writePage_keeps {s : State} {n : Nat} {sub : Nat} {v : Nat} :
    Keeps [.pages] [] s (State.writePage s n sub v).2 := by
  unfold State.writePage
  have h0 : Keeps [.pages] [] s s := keeps_refl
  extract_lets -useContext +onlyGivenNames x1 x3
  refine keeps_ite_snd ?_ ?_
  · exact h0
  · refine keeps_ite_snd ?_ ?_
    · exact h0
    · extract_lets -useContext +onlyGivenNames x5
      exact keeps_step h0 setPage_keeps

theorem readObjRegs_keeps {s : State} {o : Config.FieldObject} :
    Keeps [.highLatch, .resp, .freeCtr, .log, .granary, .miller, .pos, .cam, .subs, .lastEvents] [.any] s
    (State.readObjRegs s o) := by
  unfold State.readObjRegs
  have h0 : Keeps [.highLatch, .resp, .freeCtr, .log, .granary, .miller, .pos, .cam, .subs, .lastEvents] [.any] s s
      := keeps_refl
  extract_lets -useContext +onlyGivenNames x1
  have h2 : As h0 x1 := keeps_step h0 busRead_keeps
  clear_value x1
  refine keeps_ite ?_ ?_
  · exact keeps_step h2 busRead_keeps
  · exact h2

theorem writeField_keeps {s : State} {o : Config.FieldObject} {v : Nat} :
    Keeps [.highLatch, .halfWrites, .resp, .freeCtr, .log, .link, .dma, .granary, .dramValid, .miller, .pend,
    .landed, .weaver, .hcs, .pos, .br, .cam, .cal, .axes, .mot, .eth, .pages, .subs, .lastEvents, .pwr, .flash, .sec,
    .mem] [.any] s (State.writeField s o v).2 := by
  unfold State.writeField
  have h0 : Keeps [.highLatch, .halfWrites, .resp, .freeCtr, .log, .link, .dma, .granary, .dramValid, .miller, .pend,
      .landed, .weaver, .hcs, .pos, .br, .cam, .cal, .axes, .mot, .eth, .pages, .subs, .lastEvents, .pwr, .flash,
      .sec, .mem] [.any] s s := keeps_refl
  refine keeps_ite_snd ?_ ?_
  · extract_lets -useContext +onlyGivenNames x1 x3
    have h2 : As h0 x1 := keeps_step h0 busWrite_keeps
    clear_value x1
    have h4 : As h0 x3 := keeps_step h2 busWrite_keeps
    clear_value x3
    exact h4
  · extract_lets -useContext +onlyGivenNames x5
    have h6 : As h0 x5 := keeps_step h0 busWrite_keeps
    clear_value x5
    exact h6

theorem writeObject_keeps {s : State} {index : Nat} {sub : Nat} {value : List Byte} :
    Keeps [.highLatch, .halfWrites, .resp, .freeCtr, .log, .link, .dma, .granary, .dramValid, .miller, .pend,
    .landed, .weaver, .hcs, .pos, .br, .cam, .cal, .axes, .mot, .eth, .pages, .subs, .lastEvents, .pwr, .flash, .sec,
    .mem] [.any] s (State.writeObject s index sub value).2 := by
  unfold State.writeObject
  have h0 : Keeps [.highLatch, .halfWrites, .resp, .freeCtr, .log, .link, .dma, .granary, .dramValid, .miller, .pend,
      .landed, .weaver, .hcs, .pos, .br, .cam, .cal, .axes, .mot, .eth, .pages, .subs, .lastEvents, .pwr, .flash,
      .sec, .mem] [.any] s s := keeps_refl
  extract_lets -useContext +onlyGivenNames x1 x3
  refine keeps_ite_snd ?_ ?_
  · exact keeps_step h0 writePage_keeps
  · refine keeps_ite_snd ?_ ?_
    · exact keeps_step h0 writeOwner_keeps
    · refine keeps_ite_snd ?_ ?_
      · exact keeps_step h0 revokeWrite_keeps
      · refine keeps_ite_snd ?_ ?_
        · exact keeps_step h0 activateWrite_keeps
        · refine keeps_ite_snd ?_ ?_
          · refine keeps_ite_snd ?_ ?_
            · exact keeps_step h0 fallbackWrite_keeps
            · exact h0
          · refine keeps_ite_snd ?_ ?_
            · refine keeps_ite_snd ?_ ?_
              · exact h0
              · exact keeps_step h0 requestState_keeps
            · refine keeps_ite_snd ?_ ?_
              · refine keeps_ite_snd ?_ ?_
                · exact keeps_step h0 saveWrite_keeps
                · exact h0
              · refine keeps_ite_snd ?_ ?_
                · split
                  · exact keeps_step h0 writeField_keeps
                  · exact h0
                · refine keeps_ite_snd ?_ ?_
                  · refine keeps_ite_snd ?_ ?_
                    · exact h0
                    · refine keeps_ite_snd ?_ ?_
                      · exact h0
                      · split
                        · rename State => t5
                          have h7 : As h0 t5 := keeps_of_2 (by assumption) (keeps_step h0 writeField_keeps)
                          exact keeps_ite (keeps_step h7 defaultStitch_keeps) h7
                  · split
                    · split
                      · exact h0
                      · refine keeps_ite_snd ?_ ?_
                        · exact h0
                        · refine keeps_ite_snd ?_ ?_
                          · exact h0
                          · split
                            · rename State => t8
                              have h10 : As h0 t8 := keeps_of_2 (by assumption) (keeps_step h0 writeField_keeps)
                              exact keeps_ite (keeps_step h10 deriveRatio_keeps) h10
                    · refine keeps_ite_snd ?_ ?_
                      · exact h0
                      · refine keeps_ite_snd ?_ ?_
                        · refine keeps_ite_snd ?_ ?_
                          · exact h0
                          · exact keeps_step (keeps_step h0 setDict_keeps) deriveRatio_keeps
                        · exact keeps_step h0 setDict_keeps

end Sys2Proof.Laws
end

