-- ==== Sys2Proof/Laws/KeepsPages.lean ====
section
/-! SUPPORT. What each operation of Machine/Pages.lean may change (`Keeps`): the parts of the state and the rows of registers. -/

set_option Elab.async false

namespace Sys2Proof.Laws

open Sys2Proof.Machine

theorem disarmPage_keeps {s : State} {n : Nat} :
    Keeps [.freeCtr, .dma, .br, .pages, .subs, .lastEvents] [.BR_EVT, .CAM_LAD_NEXT] s (State.disarmPage s n).2 := by
  unfold State.disarmPage
  have h0 : Keeps [.freeCtr, .dma, .br, .pages, .subs, .lastEvents] [.BR_EVT, .CAM_LAD_NEXT] s s := keeps_refl
  extract_lets -useContext +onlyGivenNames x1
  refine keeps_ite_snd ?_ ?_
  · exact h0
  · extract_lets -useContext +onlyGivenNames x3 x5
    have h4 : As h0 x3 := keeps_step h0 setPage_keeps
    clear_value x3
    have h6 : As h0 x5 := keeps_foldl h4 (fun _ _ h7 => (keeps_step h7 setCh_keeps))
    clear_value x5
    exact keeps_ite (keeps_step h6 advancePages_keeps) h6

theorem feedPage_keeps {s : State} {serial : Nat} {a : Nat} {l : List Byte} :
    Keeps [.freeCtr, .log, .dma, .granary, .miller, .subs, .lastEvents, .rings] [.GRANARY_STAT, .GRANARY_SR,
    .FAULT_EVT, .FAULT_LOG_WR, .FAULT_LOG_LOST] s (State.feedPage s serial a l) := by
  unfold State.feedPage
  have h0 : Keeps [.freeCtr, .log, .dma, .granary, .miller, .subs, .lastEvents, .rings] [.GRANARY_STAT, .GRANARY_SR,
      .FAULT_EVT, .FAULT_LOG_WR, .FAULT_LOG_LOST] s s := keeps_refl
  exact keeps_foldl h0 (fun _ _ h1 => (by
        split
        · extract_lets -useContext +onlyGivenNames x2
          exact keeps_step (keeps_step h1 setCh_keeps) feedRing_keeps))

theorem pageIndex_keeps {s : State} {a : Nat} :
    Keeps [.resp, .freeCtr, .log, .link, .dma, .granary, .dramValid, .pend, .landed, .weaver, .hcs, .cal, .axes,
    .eth, .pages, .subs, .lastEvents, .dram, .tones, .nozGain] [.LINK_STAT, .LINK_LANEn_STAT, .DMA_HALT_EVT,
    .DMA_CHn_STAT, .GRANARY_STAT, .GRANARY_EVT, .GRANARY_SR, .GRANARY_CHc_RDERR, .GRANARY_CHc_CAPAR,
    .GRANARY_CHc_RMWERR, .GRANARY_CHc_QUEUE, .WEAVER_KERNEL, .WEAVER_MASKLINE, .HC_STAT, .HC_EVT, .HC_COMBLINE,
    .HC_SCAN_PTR, .BR_CTRL, .BR_STAT, .BR_EVT, .BR_FMAX, .BR_SNAPLINE, .FAULT_STAT, .FAULT_EVT, .FAULT_LOG_WR,
    .FAULT_LOG_LOST, .CAL_HCh_NOW, .CAL_HCh_STAT, .CLKPWR_STAT, .CLKPWR_EVT] s (State.pageIndex s a).2 := by
  unfold State.pageIndex
  have h0 : Keeps [.resp, .freeCtr, .log, .link, .dma, .granary, .dramValid, .pend, .landed, .weaver, .hcs, .cal,
      .axes, .eth, .pages, .subs, .lastEvents, .dram, .tones, .nozGain] [.LINK_STAT, .LINK_LANEn_STAT, .DMA_HALT_EVT,
      .DMA_CHn_STAT, .GRANARY_STAT, .GRANARY_EVT, .GRANARY_SR, .GRANARY_CHc_RDERR, .GRANARY_CHc_CAPAR,
      .GRANARY_CHc_RMWERR, .GRANARY_CHc_QUEUE, .WEAVER_KERNEL, .WEAVER_MASKLINE, .HC_STAT, .HC_EVT, .HC_COMBLINE,
      .HC_SCAN_PTR, .BR_CTRL, .BR_STAT, .BR_EVT, .BR_FMAX, .BR_SNAPLINE, .FAULT_STAT, .FAULT_EVT, .FAULT_LOG_WR,
      .FAULT_LOG_LOST, .CAL_HCh_NOW, .CAL_HCh_STAT, .CLKPWR_STAT, .CLKPWR_EVT] s s := keeps_refl
  split
  · rename State => t1
    have h3 : As h0 t1 := keeps_of_2 (by assumption) (keeps_step h0 memRead_keeps)
    split
    · exact h3
    · exact keeps_step h3 drawnN_keeps

theorem armPage_keeps {s : State} {n : Nat} :
    Keeps [.resp, .freeCtr, .log, .link, .dma, .granary, .dramValid, .miller, .pend, .landed, .weaver, .hcs, .br,
    .cal, .axes, .eth, .pages, .subs, .lastEvents, .dram, .rings, .tones, .nozGain] ([.LINK_STAT, .LINK_LANEn_STAT,
    .DMA_HALT_EVT, .DMA_CHn_STAT, .GRANARY_STAT, .GRANARY_EVT, .GRANARY_SR, .GRANARY_CHc_RDERR, .GRANARY_CHc_CAPAR,
    .GRANARY_CHc_RMWERR, .GRANARY_CHc_QUEUE, .WEAVER_KERNEL, .WEAVER_MASKLINE, .HC_STAT, .HC_EVT, .HC_COMBLINE,
    .HC_SCAN_PTR, .BR_CTRL, .BR_STAT, .BR_EVT, .BR_FMAX, .BR_SNAPLINE, .FAULT_STAT, .FAULT_EVT, .FAULT_LOG_WR,
    .FAULT_LOG_LOST, .CAM_LAD_NEXT, .CAL_HCh_NOW, .CAL_HCh_STAT, .CLKPWR_STAT] ++ [.CLKPWR_EVT]) s (State.armPage s
    n).2 := by
  unfold State.armPage
  have h0 : Keeps [.resp, .freeCtr, .log, .link, .dma, .granary, .dramValid, .miller, .pend, .landed, .weaver, .hcs,
      .br, .cal, .axes, .eth, .pages, .subs, .lastEvents, .dram, .rings, .tones, .nozGain] ([.LINK_STAT,
      .LINK_LANEn_STAT, .DMA_HALT_EVT, .DMA_CHn_STAT, .GRANARY_STAT, .GRANARY_EVT, .GRANARY_SR, .GRANARY_CHc_RDERR,
      .GRANARY_CHc_CAPAR, .GRANARY_CHc_RMWERR, .GRANARY_CHc_QUEUE, .WEAVER_KERNEL, .WEAVER_MASKLINE, .HC_STAT,
      .HC_EVT, .HC_COMBLINE, .HC_SCAN_PTR, .BR_CTRL, .BR_STAT, .BR_EVT, .BR_FMAX, .BR_SNAPLINE, .FAULT_STAT,
      .FAULT_EVT, .FAULT_LOG_WR, .FAULT_LOG_LOST, .CAM_LAD_NEXT, .CAL_HCh_NOW, .CAL_HCh_STAT, .CLKPWR_STAT] ++
      [.CLKPWR_EVT]) s s := keeps_refl
  extract_lets -useContext +onlyGivenNames x1
  refine keeps_ite_snd ?_ ?_
  · exact h0
  · split
    · rename State => t3
      have h5 : As h0 t3 := keeps_of_2 (by assumption) (keeps_step h0 pageIndex_keeps)
      refine keeps_ite_snd ?_ ?_
      · exact h5
      · extract_lets -useContext +onlyGivenNames x6 x8 x10 x12
        have h9 : As h0 x8 := keeps_step h5 setPage_keeps
        clear_value x8
        have h13 : As h0 x12 := keeps_br h9 _
        exact keeps_step (keeps_step h13 feedPage_keeps) pageArmed_keeps

theorem writeArm_keeps {s : State} {n : Nat} {v : Nat} :
    Keeps [.resp, .freeCtr, .log, .link, .dma, .granary, .dramValid, .miller, .pend, .landed, .weaver, .hcs, .br,
    .cal, .axes, .eth, .pages, .subs, .lastEvents, .dram, .rings, .tones, .nozGain] ([.LINK_STAT, .LINK_LANEn_STAT,
    .DMA_HALT_EVT, .DMA_CHn_STAT, .GRANARY_STAT, .GRANARY_EVT, .GRANARY_SR, .GRANARY_CHc_RDERR, .GRANARY_CHc_CAPAR,
    .GRANARY_CHc_RMWERR, .GRANARY_CHc_QUEUE, .WEAVER_KERNEL, .WEAVER_MASKLINE, .HC_STAT, .HC_EVT, .HC_COMBLINE,
    .HC_SCAN_PTR, .BR_CTRL, .BR_STAT, .BR_EVT, .BR_FMAX, .BR_SNAPLINE, .FAULT_STAT, .FAULT_EVT, .FAULT_LOG_WR,
    .FAULT_LOG_LOST, .CAM_LAD_NEXT, .CAL_HCh_NOW, .CAL_HCh_STAT, .CLKPWR_STAT] ++ [.CLKPWR_EVT]) s (State.writeArm s
    n v).2 := by
  unfold State.writeArm
  have h0 : Keeps [.resp, .freeCtr, .log, .link, .dma, .granary, .dramValid, .miller, .pend, .landed, .weaver, .hcs,
      .br, .cal, .axes, .eth, .pages, .subs, .lastEvents, .dram, .rings, .tones, .nozGain] ([.LINK_STAT,
      .LINK_LANEn_STAT, .DMA_HALT_EVT, .DMA_CHn_STAT, .GRANARY_STAT, .GRANARY_EVT, .GRANARY_SR, .GRANARY_CHc_RDERR,
      .GRANARY_CHc_CAPAR, .GRANARY_CHc_RMWERR, .GRANARY_CHc_QUEUE, .WEAVER_KERNEL, .WEAVER_MASKLINE, .HC_STAT,
      .HC_EVT, .HC_COMBLINE, .HC_SCAN_PTR, .BR_CTRL, .BR_STAT, .BR_EVT, .BR_FMAX, .BR_SNAPLINE, .FAULT_STAT,
      .FAULT_EVT, .FAULT_LOG_WR, .FAULT_LOG_LOST, .CAM_LAD_NEXT, .CAL_HCh_NOW, .CAL_HCh_STAT, .CLKPWR_STAT] ++
      [.CLKPWR_EVT]) s s := keeps_refl
  refine keeps_ite_snd ?_ ?_
  · exact keeps_step h0 armPage_keeps
  · refine keeps_ite_snd ?_ ?_
    · exact keeps_step h0 disarmPage_keeps
    · exact h0

end Sys2Proof.Laws
end

