-- ==== Sys2Proof/Laws/KeepsGroups.lean ====
section
/-! SUPPORT. What each operation of Machine/Groups.lean may change (`Keeps`): the parts of the state and the rows of registers. -/

set_option Elab.async false

namespace Sys2Proof.Laws

open Sys2Proof.Machine

theorem showStaged_keeps {s : State} :
    Keeps [.staging] [] s (State.showStaged s) := by
  unfold State.showStaged
  have h0 : Keeps [.staging] [] s s := keeps_refl
  exact keeps_step h0 (setBytes_keeps .staging (staging_in (List.length_take_le _ _)))

theorem cfgRef_keeps {s : State} :
    Keeps [] [.BR_EVT] s (State.cfgRef s).2 := by
  unfold State.cfgRef
  have h0 : Keeps [] [.BR_EVT] s s := keeps_refl
  exact setBit_keeps h0 (covers .BR_EVT rfl)

theorem setGroup_keeps {s : State} {k : Nat} {g : Group} :
    Keeps [.eth] [] s (State.setGroup s k g) := by
  unfold State.setGroup
  have h0 : Keeps [.eth] [] s s := keeps_refl
  exact keeps_eth h0 _

theorem checkField_keeps {s : State} {fields : List (Config.FieldObject × Nat)} {l : Option Nat} {o :
    Config.FieldObject} {v : Nat} :
    Keeps [] [.WEAVER_EVT, .BR_EVT] s (State.checkField s fields l o v).2 := by
  unfold State.checkField
  have h0 : Keeps [] [.WEAVER_EVT, .BR_EVT] s s := keeps_refl
  extract_lets -useContext +onlyGivenNames x1 x3 x5
  refine keeps_ite_snd ?_ ?_
  · refine keeps_ite_snd ?_ ?_
    · exact keeps_step h0 weaverEvt_keeps
    · exact h0
  · refine keeps_ite_snd ?_ ?_
    · exact keeps_step h0 cfgRef_keeps
    · refine keeps_ite_snd ?_ ?_
      · exact keeps_step h0 cfgRef_keeps
      · refine keeps_ite_snd ?_ ?_
        · exact keeps_step h0 cfgRef_keeps
        · refine keeps_ite_snd ?_ ?_
          · extract_lets -useContext +onlyGivenNames x7
            have h8 : As h0 x7 := keeps_step h0 setDepthEvt_keeps
            clear_value x7
            refine keeps_ite_snd ?_ ?_
            · exact keeps_step h8 cfgRef_keeps
            · exact h8
          · split
            · refine keeps_ite_snd ?_ ?_
              · exact h0
              · exact h0
            · exact h0

theorem openGroup_keeps {s : State} {o : Owner} :
    Keeps [.freeCtr, .eth, .subs, .lastEvents] [] s (State.openGroup s o).2 := by
  unfold State.openGroup
  have h0 : Keeps [.freeCtr, .eth, .subs, .lastEvents] [] s s := keeps_refl
  split
  · exact keeps_step (keeps_step h0 setGroup_keeps) notify_keeps
  · exact h0

theorem checkItems_keeps {s : State} {fields : List (Config.FieldObject × Nat)} {l : Option Nat} {items : List Staged}
    {done : List Nat} : Keeps [] [.WEAVER_EVT, .HC_EVT, .BR_EVT] s (s.checkItems fields l items done).2 := by
  have h0 : Keeps [] [.WEAVER_EVT, .HC_EVT, .BR_EVT] s s := keeps_refl
  induction items generalizing done with
  | nil => exact h0
  | cons i t ih =>
    unfold State.checkItems
    split
    · extract_lets -useContext +onlyGivenNames x1
      split
      refine keeps_ite_snd ?_ ih
      rename State => t1
      exact (keeps_of_2 (by assumption) (keeps_step h0 checkTable_keeps) : As h0 t1)
    · split
      · split
        refine keeps_ite_snd ?_ ih
        rename State => t1
        exact (keeps_of_2 (by assumption) (keeps_step h0 checkField_keeps) : As h0 t1)
      · exact ih

theorem stageItem_keeps {s : State} {k : Nat} {g : Group} {i : Staged} :
    Keeps [.eth, .staging] [] s (State.stageItem s k g i).2 := by
  unfold State.stageItem
  have h0 : Keeps [.eth, .staging] [] s s := keeps_refl
  extract_lets -useContext +onlyGivenNames x1 x3
  refine keeps_ite_snd ?_ ?_
  · exact h0
  · refine keeps_ite_snd ?_ ?_
    · exact h0
    · refine keeps_ite_snd ?_ ?_
      · exact h0
      · extract_lets -useContext +onlyGivenNames x5
        exact keeps_step (keeps_step h0 setGroup_keeps) showStaged_keeps

theorem discardGroup_keeps {s : State} {k : Nat} {g : Group} :
    Keeps [.freeCtr, .pend, .weaver, .hcs, .eth, .subs, .lastEvents, .tones, .nozGain] [.WEAVER_KERNEL,
    .WEAVER_MASKLINE, .HC_STAT, .HC_COMBLINE, .BR_FMAX, .BR_HLIMIT] s (State.discardGroup s k g).2 := by
  unfold State.discardGroup
  have h0 : Keeps [.freeCtr, .pend, .weaver, .hcs, .eth, .subs, .lastEvents, .tones, .nozGain] [.WEAVER_KERNEL,
      .WEAVER_MASKLINE, .HC_STAT, .HC_COMBLINE, .BR_FMAX, .BR_HLIMIT] s s := keeps_refl
  refine keeps_ite_snd ?_ ?_
  · exact h0
  · exact keeps_step (keeps_step h0 freeGroup_keeps) refreshLimits_keeps

theorem enterGroup_keeps {s : State} {k : Nat} {items : List Staged} {l : Nat} :
    Keeps [.log, .pend, .weaver, .hcs, .subs, .lastEvents, .tones, .masks, .slots, .nozRet, .nozGain, .thresholds]
    [.any] s (State.enterGroup s k items l) := by
  unfold State.enterGroup
  have h0 : Keeps [.log, .pend, .weaver, .hcs, .subs, .lastEvents, .tones, .masks, .slots, .nozRet, .nozGain,
      .thresholds] [.any] s s := keeps_refl
  extract_lets -useContext +onlyGivenNames x1 x3 x5
  have h4 : As h0 x3 := keeps_step h0 writeTables_keeps
  clear_value x3
  exact keeps_step (keeps_pend h4 _) refreshLimits_keeps

theorem checkGroup_keeps {s : State} {items : List Staged} {l : Option Nat} :
    Keeps [] [.WEAVER_EVT, .HC_EVT, .BR_EVT] s (State.checkGroup s items l).2.2 := by
  unfold State.checkGroup
  have h0 : Keeps [] [.WEAVER_EVT, .HC_EVT, .BR_EVT] s s := keeps_refl
  extract_lets -useContext +onlyGivenNames x1
  refine keeps_ite_snd2 ?_ ?_
  · exact h0
  · split
    · rename State => t3
      have h5 : As h0 t3 := keeps_of_2 (by assumption) (keeps_step h0 checkItems_keeps)
      exact h5
    · rename State => t6
      have h8 : As h0 t6 := keeps_of_2 (by assumption) (keeps_step h0 checkItems_keeps)
      exact h8

theorem landGroup_keeps {s : State} {items : List Staged} :
    Keeps [.freeCtr, .log, .weaver, .hcs, .pos, .cam, .mot, .subs, .lastEvents, .tones, .masks, .slots, .nozRet,
    .nozGain, .thresholds] [.any] s (State.landGroup s items) := by
  unfold State.landGroup
  have h0 : Keeps [.freeCtr, .log, .weaver, .hcs, .pos, .cam, .mot, .subs, .lastEvents, .tones, .masks, .slots,
      .nozRet, .nozGain, .thresholds] [.any] s s := keeps_refl
  extract_lets -useContext +onlyGivenNames x1 x3 x5
  have h4 : As h0 x3 := keeps_step h0 writeTables_keeps
  clear_value x3
  exact keeps_step (keeps_step (keeps_foldl h4 (fun _ _ h7 => (keeps_step h7 landPend_keeps))) refreshLimits_keeps)
      refreshDatum_keeps

theorem armGroup_keeps {s : State} {k : Nat} {g : Group} {kind : Nat} {value : Nat} :
    Keeps [.freeCtr, .log, .pend, .weaver, .hcs, .eth, .subs, .lastEvents, .tones, .masks, .slots, .nozRet, .nozGain,
    .thresholds] [.any] s (State.armGroup s k g kind value).2 := by
  unfold State.armGroup
  have h0 : Keeps [.freeCtr, .log, .pend, .weaver, .hcs, .eth, .subs, .lastEvents, .tones, .masks, .slots, .nozRet,
      .nozGain, .thresholds] [.any] s s := keeps_refl
  extract_lets -useContext +onlyGivenNames x1
  have h2 : ∀ y3, As h0 y3 → ∀ y5, ∀ y6, As h0 (x1 y3 y5 y6).2 := fun y3 h4 y5 y6 => (keeps_step h4 setGroup_keeps)
  clear_value x1
  split
  · split
    · rename State => t7
      have h9 : As h0 t7 := keeps_of_2_2 (by assumption) (keeps_step h0 checkGroup_keeps)
      extract_lets -useContext +onlyGivenNames x10 x12 x14
      have h15 : As h0 x14 := by
        unfold x14
        split
        · exact keeps_step h9 enterGroup_keeps
        · exact h9
      clear_value x14
      exact keeps_step (keeps_step h15 setGroup_keeps) notify_keeps
    · rename State => t16
      have h18 : As h0 t16 := keeps_of_2_2 (by assumption) (keeps_step h0 checkGroup_keeps)
      exact h2 _ h18 _ _
  · exact h2 _ h0 _ _

theorem landRunning_keeps {s : State} {k : Nat} {g : Group} :
    Keeps [.freeCtr, .log, .pend, .weaver, .hcs, .eth, .subs, .lastEvents, .tones, .masks, .slots, .nozRet, .nozGain,
    .thresholds] [.any] s (State.landRunning s k g) := by
  unfold State.landRunning
  have h0 : Keeps [.freeCtr, .log, .pend, .weaver, .hcs, .eth, .subs, .lastEvents, .tones, .masks, .slots, .nozRet,
      .nozGain, .thresholds] [.any] s s := keeps_refl
  extract_lets -useContext +onlyGivenNames x1
  split
  · rename State => t3
    have h5 : As h0 t3 := keeps_of_2_2 (by assumption) (keeps_step h0 checkGroup_keeps)
    exact keeps_step (keeps_step h5 enterGroup_keeps) setGroup_keeps
  · rename State => t6
    have h8 : As h0 t6 := keeps_of_2_2 (by assumption) (keeps_step h0 checkGroup_keeps)
    exact keeps_step (keeps_step h8 setGroup_keeps) notify_keeps

theorem armInner_keeps {s : State} {items : List Staged} {l : Option Nat} :
    Keeps [.freeCtr, .log, .pend, .weaver, .hcs, .pos, .cam, .mot, .eth, .subs, .lastEvents, .tones, .masks, .slots,
        .nozRet, .nozGain, .thresholds] [.any] s (s.armInner items l).2 := by
  have h0 : Keeps [.freeCtr, .log, .pend, .weaver, .hcs, .pos, .cam, .mot, .eth, .subs, .lastEvents, .tones, .masks,
      .slots, .nozRet, .nozGain, .thresholds] [.any] s s := keeps_refl
  have hc : As h0 (s.checkGroup items l).2.2 := keeps_step h0 checkGroup_keeps
  unfold State.armInner
  generalize s.checkGroup items l = p at hc
  obtain ⟨st, f, t⟩ := p
  replace hc : As h0 t := hc
  split
  · rename_i e
    cases e
    extract_lets -useContext +onlyGivenNames x4 x6
    have h7 : As h0 x6 := keeps_step hc enterGroup_keeps
    clear_value x6
    exact keeps_step (keeps_step h7 setGroup_keeps) notify_keeps
  · rename_i e
    cases e
    dsimp only
    exact keeps_step hc landGroup_keeps
  · rename_i e _ _
    cases e
    exact hc

theorem execGroupLanding_keeps {k : Nat} {s : State} :
    ∃ t, execGroupLanding k s = .next t ∧ Keeps [.freeCtr, .log, .pend, .weaver, .hcs, .pos, .cam, .mot, .eth, .subs,
    .lastEvents, .tones, .masks, .slots, .nozRet, .nozGain, .thresholds] [.any] s t := by
  unfold execGroupLanding
  have h0 : Keeps [.freeCtr, .log, .pend, .weaver, .hcs, .pos, .cam, .mot, .eth, .subs, .lastEvents, .tones, .masks,
      .slots, .nozRet, .nozGain, .thresholds] [.any] s s := keeps_refl
  exact ⟨_, rfl, (by
        split
        · exact h0
        · refine keeps_ite ?_ ?_
          · exact h0
          · split
            · refine keeps_ite ?_ ?_
              · exact keeps_step (keeps_step (keeps_step h0 landArrays_keeps) setGroup_keeps) notify_keeps
              · exact h0
            · extract_lets -useContext +onlyGivenNames x1
              refine keeps_ite ?_ ?_
              · exact h0
              · refine keeps_ite ?_ ?_
                · exact keeps_step h0 landRunning_keeps
                · exact keeps_step (keeps_step (keeps_step h0 landGroup_keeps) setGroup_keeps) notify_keeps)⟩

theorem execGroupApplied_keeps {k : Nat} {s : State} :
    ∃ t, execGroupApplied k s = .next t ∧ Keeps [.freeCtr, .pend, .weaver, .hcs, .eth, .subs, .lastEvents, .tones,
    .nozGain] [.WEAVER_KERNEL, .WEAVER_MASKLINE, .HC_STAT, .HC_COMBLINE] s t := by
  unfold execGroupApplied
  have h0 : Keeps [.freeCtr, .pend, .weaver, .hcs, .eth, .subs, .lastEvents, .tones, .nozGain] [.WEAVER_KERNEL,
      .WEAVER_MASKLINE, .HC_STAT, .HC_COMBLINE] s s := keeps_refl
  exact ⟨_, rfl, (by
        split
        · exact h0
        · refine keeps_ite ?_ ?_
          · extract_lets -useContext +onlyGivenNames x1 x3 x5
            have h4 : As h0 x3 := keeps_ite h0 (keeps_eth h0 _)
            clear_value x3
            have h6 : As h0 x5 := keeps_step (keeps_step h4 setGroup_keeps) notify_keeps
            clear_value x5
            refine keeps_ite ?_ ?_
            · exact keeps_step h6 freeGroup_keeps
            · exact h6
          · exact h0)⟩

theorem execGroupExpiry_keeps {k : Nat} {s : State} :
    ∃ t, execGroupExpiry k s = .next t ∧ Keeps [.freeCtr, .pend, .weaver, .hcs, .eth, .subs, .lastEvents, .tones,
    .nozGain] [.WEAVER_KERNEL, .WEAVER_MASKLINE, .HC_STAT, .HC_COMBLINE] s t := by
  unfold execGroupExpiry
  have h0 : Keeps [.freeCtr, .pend, .weaver, .hcs, .eth, .subs, .lastEvents, .tones, .nozGain] [.WEAVER_KERNEL,
      .WEAVER_MASKLINE, .HC_STAT, .HC_COMBLINE] s s := keeps_refl
  exact ⟨_, rfl, (by
        split
        · exact h0
        · refine keeps_ite ?_ ?_
          · exact keeps_step h0 freeGroup_keeps
          · exact h0)⟩

end Sys2Proof.Laws
end

