-- ==== Sys2Proof/Laws/KeepsSession.lean ====
section
/-! SUPPORT. What each operation of Machine/Session.lean may change (`Keeps`): the parts of the state and the rows of registers. -/

set_option Elab.async false

namespace Sys2Proof.Laws

open Sys2Proof.Machine

theorem opAttest_keeps {nonce : List Byte} {a1 : Nat} {s : State} :
    Keeps [.freeCtr] [] s (opAttest nonce a1 s).after := by
  unfold opAttest
  have h0 : Keeps [.freeCtr] [] s s := keeps_refl
  refine keeps_ite_after ?_ ?_
  · exact h0
  · extract_lets -useContext +onlyGivenNames x2 x4 x6
    split
    · rename State => t8
      have h10 : As h0 t8 := keeps_of_2 (by assumption) (keeps_step h0 unitSign_keeps)
      exact h10

theorem putSession_keeps {s : State} {a1 : Session} :
    Keeps [.sec] [] s (State.putSession s a1) := by
  unfold State.putSession
  have h0 : Keeps [.sec] [] s s := keeps_refl
  exact keeps_sec h0 _

theorem sendUdp_keeps {s : State} {ip : Nat} {port : Nat} {data : List Byte} :
    Keeps [.eth] [] s (State.sendUdp s ip port data) := by
  unfold State.sendUdp
  have h0 : Keeps [.eth] [] s s := keeps_refl
  exact keeps_eth h0 _

theorem quiet_keeps {s : State} :
    Keeps [.eth] [] s (State.quiet s) := by
  unfold State.quiet
  have h0 : Keeps [.eth] [] s s := keeps_refl
  exact keeps_eth h0 _

theorem dropXfer_keeps {s : State} {id : Nat} :
    Keeps [.eth, .flash] [.SEC_STAT, .SEC_EVT] s (State.dropXfer s id) := by
  unfold State.dropXfer
  have h0 : Keeps [.eth, .flash] [.SEC_STAT, .SEC_EVT] s s := keeps_refl
  extract_lets -useContext +onlyGivenNames x1 x3 x5
  have h6 : As h0 x5 := keeps_eth h0 _
  refine keeps_ite ?_ ?_
  · exact setBit_keeps (keeps_step h6 setStage_keeps) (covers .SEC_EVT rfl)
  · exact h6

theorem sendKept_keeps {s : State} {q : Request} {data : List Byte} :
    Keeps [.eth] [] s (State.sendKept s q data) := by
  unfold State.sendKept
  have h0 : Keeps [.eth] [] s s := keeps_refl
  extract_lets -useContext +onlyGivenNames x1 x3 x5
  have h6 : As h0 x5 := keeps_step h0 sendUdp_keeps
  clear_value x5
  exact keeps_eth h6 _

theorem endSession_keeps {s : State} {sid : Nat} :
    Keeps [.freeCtr, .pend, .weaver, .hcs, .eth, .subs, .lastEvents, .flash, .sec, .tones, .nozGain] [.WEAVER_KERNEL,
    .WEAVER_MASKLINE, .HC_STAT, .HC_COMBLINE, .SEC_STAT, .SEC_EVT] s (State.endSession s sid) := by
  unfold State.endSession
  have h0 : Keeps [.freeCtr, .pend, .weaver, .hcs, .eth, .subs, .lastEvents, .flash, .sec, .tones, .nozGain]
      [.WEAVER_KERNEL, .WEAVER_MASKLINE, .HC_STAT, .HC_COMBLINE, .SEC_STAT, .SEC_EVT] s s := keeps_refl
  extract_lets -useContext +onlyGivenNames x1 x3 x5 x8
  have h4 : As h0 x3 := keeps_sec h0 _
  have h6 : As h0 x5 := keeps_foldl h4 (fun _ _ h7 => (keeps_step h7 freeGroup_keeps))
  clear_value x5
  have h9 : As h0 x8 := keeps_foldl h6 (fun _ _ h10 => (keeps_step h10 dropXfer_keeps))
  clear_value x8
  exact keeps_step h9 notify_keeps

theorem execAuthTimeout_keeps {sid : Nat} {s : State} :
    ∃ t, execAuthTimeout sid s = .next t ∧ Keeps [.freeCtr, .pend, .weaver, .hcs, .eth, .subs, .lastEvents, .flash,
    .sec, .tones, .nozGain] [.WEAVER_KERNEL, .WEAVER_MASKLINE, .HC_STAT, .HC_COMBLINE, .SEC_STAT, .SEC_EVT] s t := by
  unfold execAuthTimeout
  have h0 : Keeps [.freeCtr, .pend, .weaver, .hcs, .eth, .subs, .lastEvents, .flash, .sec, .tones, .nozGain]
      [.WEAVER_KERNEL, .WEAVER_MASKLINE, .HC_STAT, .HC_COMBLINE, .SEC_STAT, .SEC_EVT] s s := keeps_refl
  exact ⟨_, rfl, (by
        split
        · refine keeps_ite ?_ ?_
          · exact keeps_step h0 endSession_keeps
          · exact h0
        · exact h0)⟩

theorem execSessionIdleTimeout_keeps {sid : Nat} {s : State} :
    ∃ t, execSessionIdleTimeout sid s = .next t ∧ Keeps [.freeCtr, .pend, .weaver, .hcs, .eth, .subs, .lastEvents,
    .flash, .sec, .tones, .nozGain] [.WEAVER_KERNEL, .WEAVER_MASKLINE, .HC_STAT, .HC_COMBLINE, .SEC_STAT, .SEC_EVT] s
    t := by
  unfold execSessionIdleTimeout
  have h0 : Keeps [.freeCtr, .pend, .weaver, .hcs, .eth, .subs, .lastEvents, .flash, .sec, .tones, .nozGain]
      [.WEAVER_KERNEL, .WEAVER_MASKLINE, .HC_STAT, .HC_COMBLINE, .SEC_STAT, .SEC_EVT] s s := keeps_refl
  exact ⟨_, rfl, (by
        split
        · refine keeps_ite ?_ ?_
          · exact keeps_step h0 endSession_keeps
          · exact h0
        · exact h0)⟩

theorem letIn_keeps {s : State} {q : Request} :
    Keeps [.freeCtr, .pend, .weaver, .hcs, .eth, .subs, .lastEvents, .flash, .sec, .tones, .nozGain] [.WEAVER_KERNEL,
    .WEAVER_MASKLINE, .HC_STAT, .HC_COMBLINE, .SEC_STAT, .SEC_EVT] s (State.letIn s q).2 := by
  unfold State.letIn
  have h0 : Keeps [.freeCtr, .pend, .weaver, .hcs, .eth, .subs, .lastEvents, .flash, .sec, .tones, .nozGain]
      [.WEAVER_KERNEL, .WEAVER_MASKLINE, .HC_STAT, .HC_COMBLINE, .SEC_STAT, .SEC_EVT] s s := keeps_refl
  split
  · exact h0
  · extract_lets -useContext +onlyGivenNames x1 x3
    have h4 : As h0 x3 := keeps_eth h0 _
    split
    · exact h4
    · refine keeps_ite_snd ?_ ?_
      · exact keeps_step h0 endSession_keeps
      · refine keeps_ite_snd ?_ ?_
        · exact h4
        · extract_lets -useContext +onlyGivenNames x5
          exact keeps_step h0 putSession_keeps

theorem refuseSession_keeps {s : State} :
    Keeps [.freeCtr, .log, .subs, .lastEvents] [.FAULT_EVT, .FAULT_LOG_WR, .FAULT_LOG_LOST, .SEC_EVT] s
    (State.refuseSession s) := by
  unfold State.refuseSession
  have h0 : Keeps [.freeCtr, .log, .subs, .lastEvents] [.FAULT_EVT, .FAULT_LOG_WR, .FAULT_LOG_LOST, .SEC_EVT] s s :=
      keeps_refl
  exact keeps_step (keeps_step (setBit_keeps h0 (covers .SEC_EVT rfl)) logFault_keeps) notify_keeps

theorem opClientAuth_keeps {q : Request} {anchor : List Byte} {cert : List Byte} {csig : List Byte} {a1 : Nat} {s :
    State} :
    Keeps [.freeCtr, .log, .pend, .weaver, .hcs, .eth, .subs, .lastEvents, .flash, .sec, .tones, .nozGain]
    [.WEAVER_KERNEL, .WEAVER_MASKLINE, .HC_STAT, .HC_COMBLINE, .FAULT_EVT, .FAULT_LOG_WR, .FAULT_LOG_LOST, .SEC_STAT,
    .SEC_EVT] s (opClientAuth q anchor cert csig a1 s).after := by
  unfold opClientAuth
  have h0 : Keeps [.freeCtr, .log, .pend, .weaver, .hcs, .eth, .subs, .lastEvents, .flash, .sec, .tones, .nozGain]
      [.WEAVER_KERNEL, .WEAVER_MASKLINE, .HC_STAT, .HC_COMBLINE, .FAULT_EVT, .FAULT_LOG_WR, .FAULT_LOG_LOST,
      .SEC_STAT, .SEC_EVT] s s := keeps_refl
  split
  · exact h0
  · split
    · extract_lets -useContext +onlyGivenNames x2 x4
      have h3 : As h0 x2 := keeps_step h0 putSession_keeps
      clear_value x2
      have h5 : As h0 x4 := keeps_ite h3 (keeps_step h3 secLog_keeps)
      clear_value x4
      exact keeps_step h5 notify_keeps
    · exact keeps_step (keeps_step h0 endSession_keeps) refuseSession_keeps

theorem opClose_keeps {q : Request} {a1 : Nat} {s : State} :
    Keeps [.freeCtr, .pend, .weaver, .hcs, .eth, .subs, .lastEvents, .flash, .sec, .tones, .nozGain] [.WEAVER_KERNEL,
    .WEAVER_MASKLINE, .HC_STAT, .HC_COMBLINE, .SEC_STAT, .SEC_EVT] s (opClose q a1 s).after := by
  unfold opClose
  have h0 : Keeps [.freeCtr, .pend, .weaver, .hcs, .eth, .subs, .lastEvents, .flash, .sec, .tones, .nozGain]
      [.WEAVER_KERNEL, .WEAVER_MASKLINE, .HC_STAT, .HC_COMBLINE, .SEC_STAT, .SEC_EVT] s s := keeps_refl
  exact keeps_step h0 endSession_keeps

theorem respond_keeps {s : State} {q : Request} {op : Nat} {a1 : Option Session} {status : Nat} {body : List Byte} :
    Keeps [.freeCtr, .pend, .weaver, .hcs, .eth, .subs, .lastEvents, .flash, .sec, .tones, .nozGain] [.WEAVER_KERNEL,
    .WEAVER_MASKLINE, .HC_STAT, .HC_COMBLINE, .SEC_STAT, .SEC_EVT] s (State.respond s q op a1 status body) := by
  unfold State.respond
  have h0 : Keeps [.freeCtr, .pend, .weaver, .hcs, .eth, .subs, .lastEvents, .flash, .sec, .tones, .nozGain]
      [.WEAVER_KERNEL, .WEAVER_MASKLINE, .HC_STAT, .HC_COMBLINE, .SEC_STAT, .SEC_EVT] s s := keeps_refl
  split
  · exact keeps_step h0 sendKept_keeps
  · refine keeps_ite ?_ ?_
    · exact keeps_step h0 endSession_keeps
    · exact keeps_step (by
            split
            · exact keeps_step h0 putSession_keeps
            · exact h0) sendKept_keeps

/-- A request's operation keeps `w` and `r`. -/
def Serves (w : List Part) (r : List Reg) (f : Option (Nat → State → Answer)) : Prop :=
  ∀ g, f = some g → ∀ l t, Keeps w r t (g l t).after

theorem serves_some {v w : List Part} {q r : List Reg} {g : Nat → State → Answer}
    (h : ∀ l t, Keeps v q t (g l t).after) (hw : within v q w r = true := by decide +kernel) : Serves w r (some g) := by
  intro g' e l t
  cases e
  exact keeps_mono hw (h l t)

theorem serves_mono {v w : List Part} {q r : List Reg} {f : Option (Nat → State → Answer)} (h : Serves v q f)
    (hw : within v q w r = true := by decide +kernel) : Serves w r f := fun g e l t => keeps_mono hw (h g e l t)

theorem serves_ite {w : List Part} {r : List Reg} {c : Prop} [Decidable c] {f : Option (Nat → State → Answer)}
    (h : Serves w r f) : Serves w r (if c then f else none) := by
  intro g e
  split at e
  · exact h g e
  · cases e

theorem serve_keeps {w : List Part} {r : List Reg} {s0 s : State} {q : Request} {op : Nat}
    {f : Option (Nat → State → Answer)} (h : Keeps w r s0 s) (hf : Serves w r f)
    (hw : within [.freeCtr, .eth, .subs, .lastEvents, .sec, .tones, .nozGain, .pend, .weaver, .hcs, .flash] [.WEAVER_KERNEL, .WEAVER_MASKLINE,
      .HC_STAT, .HC_COMBLINE, .SEC_STAT, .SEC_EVT] w r = true := by decide +kernel) : Keeps w r s0 (s.serve q op f) := by
  unfold State.serve
  refine keeps_ite h ?_
  split
  · rename State => t
    exact keeps_step h (keeps_of_2 (by assumption) letIn_keeps) (within_trans (by decide +kernel) hw)
  · rename State => t
    have h1 : Keeps w r s0 t :=
      keeps_step h (keeps_of_2 (by assumption) letIn_keeps) (within_trans (by decide +kernel) hw)
    split
    · exact keeps_step h1 sendUdp_keeps (within_trans (by decide +kernel) hw)
    · exact h1
    · rename_i g _
      refine keeps_ite (keeps_step h1 respond_keeps (within_trans (by decide +kernel) hw)) ?_
      extract_lets -useContext +onlyGivenNames a u
      have ha : Keeps w r s0 a.after := keeps_trans h1 (hf g rfl _ _)
      refine keeps_ite (keeps_step ha respond_keeps (within_trans (by decide +kernel) hw)) ?_
      refine keeps_eth ha _ ?_
      rw [within, Bool.and_eq_true, List.all_eq_true] at hw
      exact (Bool.or_eq_true _ _ ▸ hw.1 .eth (by decide)).elim id fun h => by cases h

theorem execClientAuth_keeps {q : Request} {anchor : List Byte} {cert : List Byte} {csig : List Byte} {s : State} :
    ∃ t, execClientAuth q anchor cert csig s = .next t ∧ Keeps [.freeCtr, .log, .pend, .weaver, .hcs, .eth, .subs,
    .lastEvents, .flash, .sec, .tones, .nozGain] [.WEAVER_KERNEL, .WEAVER_MASKLINE, .HC_STAT, .HC_COMBLINE,
    .FAULT_EVT, .FAULT_LOG_WR, .FAULT_LOG_LOST, .SEC_STAT, .SEC_EVT] s t := by
  unfold execClientAuth
  have h0 : Keeps [.freeCtr, .log, .pend, .weaver, .hcs, .eth, .subs, .lastEvents, .flash, .sec, .tones, .nozGain]
      [.WEAVER_KERNEL, .WEAVER_MASKLINE, .HC_STAT, .HC_COMBLINE, .FAULT_EVT, .FAULT_LOG_WR, .FAULT_LOG_LOST,
      .SEC_STAT, .SEC_EVT] s s := keeps_refl
  exact ⟨_, rfl, (serve_keeps (keeps_step h0 quiet_keeps) (serves_ite (serves_some fun _ _ => opClientAuth_keeps)))⟩

theorem execClose_keeps {q : Request} {s : State} :
    ∃ t, execClose q s = .next t ∧ Keeps [.freeCtr, .pend, .weaver, .hcs, .eth, .subs, .lastEvents, .flash, .sec,
    .tones, .nozGain] [.WEAVER_KERNEL, .WEAVER_MASKLINE, .HC_STAT, .HC_COMBLINE, .SEC_STAT, .SEC_EVT] s t := by
  unfold execClose
  have h0 : Keeps [.freeCtr, .pend, .weaver, .hcs, .eth, .subs, .lastEvents, .flash, .sec, .tones, .nozGain]
      [.WEAVER_KERNEL, .WEAVER_MASKLINE, .HC_STAT, .HC_COMBLINE, .SEC_STAT, .SEC_EVT] s s := keeps_refl
  exact ⟨_, rfl, (serve_keeps (keeps_step h0 quiet_keeps) (serves_some fun _ _ => opClose_keeps))⟩

theorem opHello_keeps {q : Request} {level : Nat} {cnonce : List Byte} {ceph : List Byte} {a1 : Nat} {s : State} :
    Keeps [.freeCtr, .log, .subs, .lastEvents, .sec] [.FAULT_EVT, .FAULT_LOG_WR, .FAULT_LOG_LOST, .SEC_EVT] s
    (opHello q level cnonce ceph a1 s).after := by
  unfold opHello
  have h0 : Keeps [.freeCtr, .log, .subs, .lastEvents, .sec] [.FAULT_EVT, .FAULT_LOG_WR, .FAULT_LOG_LOST, .SEC_EVT] s
      s := keeps_refl
  refine keeps_ite_after ?_ ?_
  · exact keeps_step h0 refuseSession_keeps
  · refine keeps_ite_after ?_ ?_
    · exact h0
    · refine keeps_ite_after ?_ ?_
      · exact keeps_step h0 refuseSession_keeps
      · extract_lets -useContext +onlyGivenNames x2 x4 x6 x8 x10 x12 x14 x16
        split
        · rename State => t18
          have h20 : As h0 t18 := keeps_of_2 (by assumption) (keeps_step (keeps_step h0 drawn_keeps) unitSign_keeps)
          extract_lets -useContext +onlyGivenNames x21 x23 x25
          have h26 : As h0 x25 := keeps_sec h20 _
          exact keeps_step h26 notify_keeps

theorem execHello_keeps {q : Request} {level : Byte} {cnonce : List Byte} {ceph : List Byte} {s : State} :
    ∃ t, execHello q level cnonce ceph s = .next t ∧ Keeps [.freeCtr, .log, .pend, .weaver, .hcs, .eth, .subs,
    .lastEvents, .flash, .sec, .tones, .nozGain] [.WEAVER_KERNEL, .WEAVER_MASKLINE, .HC_STAT, .HC_COMBLINE,
    .FAULT_EVT, .FAULT_LOG_WR, .FAULT_LOG_LOST, .SEC_STAT, .SEC_EVT] s t := by
  unfold execHello
  have h0 : Keeps [.freeCtr, .log, .pend, .weaver, .hcs, .eth, .subs, .lastEvents, .flash, .sec, .tones, .nozGain]
      [.WEAVER_KERNEL, .WEAVER_MASKLINE, .HC_STAT, .HC_COMBLINE, .FAULT_EVT, .FAULT_LOG_WR, .FAULT_LOG_LOST,
      .SEC_STAT, .SEC_EVT] s s := keeps_refl
  exact ⟨_, rfl, (serve_keeps (keeps_step h0 quiet_keeps) (serves_ite (serves_some fun _ _ => opHello_keeps)))⟩

theorem execAttest_keeps {q : Request} {nonce : List Byte} {s : State} :
    ∃ t, execAttest q nonce s = .next t ∧ Keeps [.freeCtr, .pend, .weaver, .hcs, .eth, .subs, .lastEvents, .flash,
    .sec, .tones, .nozGain] [.WEAVER_KERNEL, .WEAVER_MASKLINE, .HC_STAT, .HC_COMBLINE, .SEC_STAT, .SEC_EVT] s t := by
  unfold execAttest
  have h0 : Keeps [.freeCtr, .pend, .weaver, .hcs, .eth, .subs, .lastEvents, .flash, .sec, .tones, .nozGain]
      [.WEAVER_KERNEL, .WEAVER_MASKLINE, .HC_STAT, .HC_COMBLINE, .SEC_STAT, .SEC_EVT] s s := keeps_refl
  exact ⟨_, rfl, (serve_keeps (keeps_step h0 quiet_keeps) (serves_ite (serves_some fun _ _ => opAttest_keeps)))⟩

end Sys2Proof.Laws
end

