-- ==== Sys2Proof/Laws/KeepsLoquetu.lean ====
section
/-! SUPPORT. What each operation of Machine/Loquetu.lean may change (`Keeps`): the parts of the state and the rows of registers. -/

set_option Elab.async false

namespace Sys2Proof.Laws

open Sys2Proof.Machine

theorem opSegRead_keeps {index : Nat} {sub : Nat} {offset : Nat} {maxlen : Nat} {level : Nat} {s : State} :
    Keeps [] [] s (opSegRead index sub offset maxlen level s).after := by
  unfold opSegRead
  have h0 : Keeps [] [] s s := keeps_refl
  split
  · exact h0
  · refine keeps_ite_after ?_ ?_
    · exact h0
    · refine keeps_ite_after ?_ ?_
      · exact h0
      · refine keeps_ite_after ?_ ?_
        · exact h0
        · extract_lets -useContext +onlyGivenNames x1
          exact h0

theorem opUnsubscribe_keeps {i : Nat} {a1 : Nat} {s : State} :
    Keeps [.subs] [] s (opUnsubscribe i a1 s).after := by
  unfold opUnsubscribe
  have h0 : Keeps [.subs] [] s s := keeps_refl
  split
  · exact h0
  · exact keeps_subs h0 _

theorem opSegAbort_keeps {q : Request} {xfer : Nat} {a1 : Nat} {s : State} :
    Keeps [.eth, .flash] [.SEC_STAT, .SEC_EVT] s (opSegAbort q xfer a1 s).after := by
  unfold opSegAbort
  have h0 : Keeps [.eth, .flash] [.SEC_STAT, .SEC_EVT] s s := keeps_refl
  refine keeps_ite_after ?_ ?_
  · exact keeps_step h0 dropXfer_keeps
  · exact h0

theorem opGroupStatus_keeps {q : Request} {handle : Nat} {a1 : Nat} {s : State} :
    Keeps [] [] s (opGroupStatus q handle a1 s).after := by
  unfold opGroupStatus
  have h0 : Keeps [] [] s s := keeps_refl
  split
  · exact h0
  · exact h0

theorem setSub_keeps {s : State} {i : Nat} {b : Subscriber} :
    Keeps [.subs] [] s (State.setSub s i b) := by
  unfold State.setSub
  have h0 : Keeps [.subs] [] s s := keeps_refl
  exact keeps_subs h0 _

theorem opSegWriteInit_keeps {q : Request} {index : Nat} {sub : Nat} {handle : Nat} {total : Nat} {crc : Nat} {level
    : Nat} {s : State} :
    Keeps [.eth] [] s (opSegWriteInit q index sub handle total crc level s).after := by
  unfold opSegWriteInit
  have h0 : Keeps [.eth] [] s s := keeps_refl
  extract_lets -useContext +onlyGivenNames x1
  refine keeps_ite_after ?_ ?_
  · exact h0
  · extract_lets -useContext +onlyGivenNames x3
    exact keeps_eth h0 _

theorem opEventAck_keeps {i : Nat} {eseq : Nat} {a1 : Nat} {s : State} :
    Keeps [.subs] [] s (opEventAck i eseq a1 s).after := by
  unfold opEventAck
  have h0 : Keeps [.subs] [] s s := keeps_refl
  split
  · exact h0
  · extract_lets -useContext +onlyGivenNames x2
    exact keeps_step h0 setSub_keeps

theorem opSnapshot_keeps {objects : List (Nat × Nat)} {a1 : Nat} {s : State} :
    Keeps [] [] s (opSnapshot objects a1 s).after := by
  unfold opSnapshot
  have h0 : Keeps [] [] s s := keeps_refl
  split
  · exact h0
  · extract_lets -useContext +onlyGivenNames x2
    refine keeps_ite_after ?_ ?_
    · exact h0
    · exact h0

theorem execSegTransferTimeout_keeps {xfer : Nat} {s : State} :
    ∃ t, execSegTransferTimeout xfer s = .next t ∧ Keeps [.eth, .flash] [.SEC_STAT, .SEC_EVT] s t := by
  unfold execSegTransferTimeout
  have h0 : Keeps [.eth, .flash] [.SEC_STAT, .SEC_EVT] s s := keeps_refl
  exact ⟨_, rfl, (keeps_ite (keeps_step h0 dropXfer_keeps) h0)⟩

theorem opSubscribe_keeps {q : Request} {classes : Nat} {port : Nat} {a1 : Nat} {s : State} :
    Keeps [.subs] [] s (opSubscribe q classes port a1 s).after := by
  unfold opSubscribe
  have h0 : Keeps [.subs] [] s s := keeps_refl
  split
  · exact h0
  · exact keeps_step h0 setSub_keeps

theorem opGroupOpen_keeps {q : Request} {a1 : Nat} {s : State} :
    Keeps [.freeCtr, .eth, .subs, .lastEvents] [] s (opGroupOpen q a1 s).after := by
  unfold opGroupOpen
  have h0 : Keeps [.freeCtr, .eth, .subs, .lastEvents] [] s s := keeps_refl
  split
  · rename State => t2
    have h4 : As h0 t2 := keeps_of_2 (by assumption) (keeps_step h0 openGroup_keeps)
    exact h4
  · rename State => t5
    have h7 : As h0 t5 := keeps_of_2 (by assumption) (keeps_step h0 openGroup_keeps)
    exact h7

theorem opGroupStage_keeps {q : Request} {handle : Nat} {index : Nat} {sub : Nat} {type : Nat} {value : List Byte}
    {level : Nat} {s : State} :
    Keeps [.eth, .staging] [] s (opGroupStage q handle index sub type value level s).after := by
  unfold opGroupStage
  have h0 : Keeps [.eth, .staging] [] s s := keeps_refl
  split
  · exact h0
  · refine keeps_ite_after ?_ ?_
    · exact h0
    · extract_lets -useContext +onlyGivenNames x1
      refine keeps_ite_after ?_ ?_
      · exact h0
      · split
        · rename State => t3
          have h5 : As h0 t3 := keeps_of_2 (by assumption) (keeps_step h0 stageItem_keeps)
          exact h5

theorem opGroupArm_keeps {q : Request} {handle : Nat} {kind : Nat} {value : Nat} {a1 : Nat} {s : State} :
    Keeps [.freeCtr, .log, .pend, .weaver, .hcs, .eth, .subs, .lastEvents, .tones, .masks, .slots, .nozRet, .nozGain,
    .thresholds] [.any] s (opGroupArm q handle kind value a1 s).after := by
  unfold opGroupArm
  have h0 : Keeps [.freeCtr, .log, .pend, .weaver, .hcs, .eth, .subs, .lastEvents, .tones, .masks, .slots, .nozRet,
      .nozGain, .thresholds] [.any] s s := keeps_refl
  split
  · exact h0
  · refine keeps_ite_after ?_ ?_
    · exact h0
    · split
      · rename State => t2
        have h4 : As h0 t2 := keeps_of_2 (by assumption) (keeps_step h0 armGroup_keeps)
        exact h4

theorem endStaging_keeps {s : State} {crcOk : Bool} :
    Keeps [.freeCtr, .log, .subs, .lastEvents, .flash] [.FAULT_EVT, .FAULT_LOG_WR, .FAULT_LOG_LOST, .SEC_STAT,
    .SEC_EVT] s (State.endStaging s crcOk).2 := by
  unfold State.endStaging
  have h0 : Keeps [.freeCtr, .log, .subs, .lastEvents, .flash] [.FAULT_EVT, .FAULT_LOG_WR, .FAULT_LOG_LOST,
      .SEC_STAT, .SEC_EVT] s s := keeps_refl
  refine keeps_ite_snd ?_ ?_
  · exact keeps_step (setBit_keeps (keeps_step h0 setStage_keeps) (covers .SEC_EVT rfl)) notify_keeps
  · exact keeps_step (setBit_keeps (keeps_step h0 setStage_keeps) (covers .SEC_EVT rfl)) secLog_keeps

theorem sendEvents_keeps {s : State} {i : Nat} {b : Subscriber} {records : List EventRec} :
    Keeps [.freeCtr, .pend, .weaver, .hcs, .eth, .subs, .lastEvents, .flash, .sec, .tones, .nozGain] [.WEAVER_KERNEL,
    .WEAVER_MASKLINE, .HC_STAT, .HC_COMBLINE, .SEC_STAT, .SEC_EVT] s (State.sendEvents s i b records) := by
  unfold State.sendEvents
  have h0 : Keeps [.freeCtr, .pend, .weaver, .hcs, .eth, .subs, .lastEvents, .flash, .sec, .tones, .nozGain]
      [.WEAVER_KERNEL, .WEAVER_MASKLINE, .HC_STAT, .HC_COMBLINE, .SEC_STAT, .SEC_EVT] s s := keeps_refl
  extract_lets -useContext +onlyGivenNames x1
  split
  · exact keeps_step h0 sendUdp_keeps
  · refine keeps_ite ?_ ?_
    · exact keeps_step h0 endSession_keeps
    · exact keeps_step (keeps_step h0 putSession_keeps) sendUdp_keeps

theorem execSubscriberTimeout_keeps {subscriber : Fin 8} {s : State} :
    ∃ t, execSubscriberTimeout subscriber s = .next t ∧ Keeps [.log, .subs, .lastEvents] [.FAULT_EVT, .FAULT_LOG_WR,
    .FAULT_LOG_LOST] s t := by
  unfold execSubscriberTimeout
  have h0 : Keeps [.log, .subs, .lastEvents] [.FAULT_EVT, .FAULT_LOG_WR, .FAULT_LOG_LOST] s s := keeps_refl
  exact ⟨_, rfl, (by
        split
        · exact h0
        · refine keeps_ite ?_ ?_
          · exact h0
          · exact keeps_step (keeps_subs h0 _) logFault_keeps)⟩

theorem writeDomain_keeps {s : State} {a1 : Xfer} {value : List Byte} :
    Keeps [.freeCtr, .log, .pend, .weaver, .hcs, .pos, .cam, .mot, .eth, .subs, .lastEvents, .flash, .tones, .masks,
    .slots, .nozRet, .nozGain, .thresholds, .staging] [.any] s (State.writeDomain s a1 value).2 := by
  unfold State.writeDomain
  have h0 : Keeps [.freeCtr, .log, .pend, .weaver, .hcs, .pos, .cam, .mot, .eth, .subs, .lastEvents, .flash, .tones,
      .masks, .slots, .nozRet, .nozGain, .thresholds, .staging] [.any] s s := keeps_refl
  extract_lets -useContext +onlyGivenNames x2
  refine keeps_ite_snd ?_ ?_
  · split
    · exact keeps_step h0 stageItem_keeps
    · exact h0
  · refine keeps_ite_snd ?_ ?_
    · exact keeps_step h0 armInner_keeps
    · extract_lets -useContext +onlyGivenNames x4
      exact keeps_flash h0 _

theorem execEventFrameSend_keeps {subscriber : Fin 8} {s : State} :
    ∃ t, execEventFrameSend subscriber s = .next t ∧ Keeps [.freeCtr, .pend, .weaver, .hcs, .eth, .subs, .lastEvents,
    .flash, .sec, .tones, .nozGain] [.WEAVER_KERNEL, .WEAVER_MASKLINE, .HC_STAT, .HC_COMBLINE, .SEC_STAT, .SEC_EVT] s
    t := by
  unfold execEventFrameSend
  have h0 : Keeps [.freeCtr, .pend, .weaver, .hcs, .eth, .subs, .lastEvents, .flash, .sec, .tones, .nozGain]
      [.WEAVER_KERNEL, .WEAVER_MASKLINE, .HC_STAT, .HC_COMBLINE, .SEC_STAT, .SEC_EVT] s s := keeps_refl
  exact ⟨_, rfl, (by
        extract_lets -useContext +onlyGivenNames x1
        have h2 : As h0 x1 := keeps_step h0 quiet_keeps
        clear_value x1
        split
        · exact h2
        · refine keeps_ite ?_ ?_
          · exact h2
          · extract_lets -useContext +onlyGivenNames x3
            exact keeps_step (keeps_step h2 setSub_keeps) sendEvents_keeps)⟩

theorem opGroupDiscard_keeps {q : Request} {handle : Nat} {a1 : Nat} {s : State} :
    Keeps [.freeCtr, .pend, .weaver, .hcs, .eth, .subs, .lastEvents, .tones, .nozGain] [.WEAVER_KERNEL,
    .WEAVER_MASKLINE, .HC_STAT, .HC_COMBLINE, .BR_FMAX, .BR_HLIMIT] s (opGroupDiscard q handle a1 s).after := by
  unfold opGroupDiscard
  have h0 : Keeps [.freeCtr, .pend, .weaver, .hcs, .eth, .subs, .lastEvents, .tones, .nozGain] [.WEAVER_KERNEL,
      .WEAVER_MASKLINE, .HC_STAT, .HC_COMBLINE, .BR_FMAX, .BR_HLIMIT] s s := keeps_refl
  split
  · exact h0
  · split
    · rename State => t2
      have h4 : As h0 t2 := keeps_of_2 (by assumption) (keeps_step h0 discardGroup_keeps)
      exact h4

theorem opRead_keeps {index : Nat} {sub : Nat} {level : Nat} {s : State} :
    Keeps [.highLatch, .resp, .freeCtr, .log, .granary, .miller, .pos, .cam, .subs, .lastEvents] [.any] s (opRead
    index sub level s).after := by
  unfold opRead
  have h0 : Keeps [.highLatch, .resp, .freeCtr, .log, .granary, .miller, .pos, .cam, .subs, .lastEvents] [.any] s s
      := keeps_refl
  extract_lets -useContext +onlyGivenNames x1
  refine keeps_ite_after ?_ ?_
  · exact h0
  · extract_lets -useContext +onlyGivenNames x3 x5
    exact (by
          split
          · exact keeps_step h0 readObjRegs_keeps
          · exact h0)

theorem execGroupOpen_keeps {q : Request} {s : State} :
    ∃ t, execGroupOpen q s = .next t ∧ Keeps [.freeCtr, .pend, .weaver, .hcs, .eth, .subs, .lastEvents, .flash, .sec,
    .tones, .nozGain] [.WEAVER_KERNEL, .WEAVER_MASKLINE, .HC_STAT, .HC_COMBLINE, .SEC_STAT, .SEC_EVT] s t := by
  unfold execGroupOpen
  have h0 : Keeps [.freeCtr, .pend, .weaver, .hcs, .eth, .subs, .lastEvents, .flash, .sec, .tones, .nozGain]
      [.WEAVER_KERNEL, .WEAVER_MASKLINE, .HC_STAT, .HC_COMBLINE, .SEC_STAT, .SEC_EVT] s s := keeps_refl
  exact ⟨_, rfl, (serve_keeps (keeps_step h0 quiet_keeps) (serves_some fun _ _ => opGroupOpen_keeps))⟩

theorem execSegAbort_keeps {q : Request} {xfer : BitVec 16} {s : State} :
    ∃ t, execSegAbort q xfer s = .next t ∧ Keeps [.freeCtr, .pend, .weaver, .hcs, .eth, .subs, .lastEvents, .flash,
    .sec, .tones, .nozGain] [.WEAVER_KERNEL, .WEAVER_MASKLINE, .HC_STAT, .HC_COMBLINE, .SEC_STAT, .SEC_EVT] s t := by
  unfold execSegAbort
  have h0 : Keeps [.freeCtr, .pend, .weaver, .hcs, .eth, .subs, .lastEvents, .flash, .sec, .tones, .nozGain]
      [.WEAVER_KERNEL, .WEAVER_MASKLINE, .HC_STAT, .HC_COMBLINE, .SEC_STAT, .SEC_EVT] s s := keeps_refl
  exact ⟨_, rfl, (serve_keeps (keeps_step h0 quiet_keeps) (serves_some fun _ _ => opSegAbort_keeps))⟩

theorem execSnapshot_keeps {q : Request} {objects : List (BitVec 16 × BitVec 8)} {s : State} :
    ∃ t, execSnapshot q objects s = .next t ∧ Keeps [.freeCtr, .pend, .weaver, .hcs, .eth, .subs, .lastEvents,
    .flash, .sec, .tones, .nozGain] [.WEAVER_KERNEL, .WEAVER_MASKLINE, .HC_STAT, .HC_COMBLINE, .SEC_STAT, .SEC_EVT] s
    t := by
  unfold execSnapshot
  have h0 : Keeps [.freeCtr, .pend, .weaver, .hcs, .eth, .subs, .lastEvents, .flash, .sec, .tones, .nozGain]
      [.WEAVER_KERNEL, .WEAVER_MASKLINE, .HC_STAT, .HC_COMBLINE, .SEC_STAT, .SEC_EVT] s s := keeps_refl
  exact ⟨_, rfl, (serve_keeps (keeps_step h0 quiet_keeps) (serves_some fun _ _ => opSnapshot_keeps))⟩

theorem execGroupDiscard_keeps {q : Request} {handle : BitVec 8} {s : State} :
    ∃ t, execGroupDiscard q handle s = .next t ∧ Keeps [.freeCtr, .pend, .weaver, .hcs, .eth, .subs, .lastEvents,
    .flash, .sec, .tones, .nozGain] [.WEAVER_KERNEL, .WEAVER_MASKLINE, .HC_STAT, .HC_COMBLINE, .BR_FMAX, .BR_HLIMIT,
    .SEC_STAT, .SEC_EVT] s t := by
  unfold execGroupDiscard
  have h0 : Keeps [.freeCtr, .pend, .weaver, .hcs, .eth, .subs, .lastEvents, .flash, .sec, .tones, .nozGain]
      [.WEAVER_KERNEL, .WEAVER_MASKLINE, .HC_STAT, .HC_COMBLINE, .BR_FMAX, .BR_HLIMIT, .SEC_STAT, .SEC_EVT] s s :=
      keeps_refl
  exact ⟨_, rfl, (serve_keeps (keeps_step h0 quiet_keeps) (serves_some fun _ _ => opGroupDiscard_keeps))⟩

theorem execEventResendTimer_keeps {subscriber : Fin 8} {s : State} :
    ∃ t, execEventResendTimer subscriber s = .next t ∧ Keeps [.freeCtr, .pend, .weaver, .hcs, .eth, .subs,
    .lastEvents, .flash, .sec, .tones, .nozGain] [.WEAVER_KERNEL, .WEAVER_MASKLINE, .HC_STAT, .HC_COMBLINE,
    .SEC_STAT, .SEC_EVT] s t := by
  unfold execEventResendTimer
  have h0 : Keeps [.freeCtr, .pend, .weaver, .hcs, .eth, .subs, .lastEvents, .flash, .sec, .tones, .nozGain]
      [.WEAVER_KERNEL, .WEAVER_MASKLINE, .HC_STAT, .HC_COMBLINE, .SEC_STAT, .SEC_EVT] s s := keeps_refl
  exact ⟨_, rfl, (by
        extract_lets -useContext +onlyGivenNames x1
        have h2 : As h0 x1 := keeps_step h0 quiet_keeps
        clear_value x1
        split
        · exact h2
        · refine keeps_ite ?_ ?_
          · exact h2
          · extract_lets -useContext +onlyGivenNames x3 x5
            have h4 : As h0 x3 := keeps_step h2 setSub_keeps
            clear_value x3
            have h6 : As h0 x5 := keeps_step h4 sendEvents_keeps
            clear_value x5
            refine keeps_ite ?_ ?_
            · exact keeps_step h6 sendEvents_keeps
            · exact h6)⟩

theorem execRead_keeps {q : Request} {index : BitVec 16} {sub : BitVec 8} {s : State} :
    ∃ t, execRead q index sub s = .next t ∧ Keeps [.highLatch, .resp, .freeCtr, .log, .granary, .miller, .pend,
    .weaver, .hcs, .pos, .cam, .eth, .subs, .lastEvents, .flash, .sec, .tones, .nozGain] [.any] s t := by
  unfold execRead
  have h0 : Keeps [.highLatch, .resp, .freeCtr, .log, .granary, .miller, .pend, .weaver, .hcs, .pos, .cam, .eth,
      .subs, .lastEvents, .flash, .sec, .tones, .nozGain] [.any] s s := keeps_refl
  exact ⟨_, rfl, (serve_keeps (keeps_step h0 quiet_keeps) (serves_some fun _ _ => opRead_keeps))⟩

theorem execUnsubscribe_keeps {q : Request} {subscriber : BitVec 8} {s : State} :
    ∃ t, execUnsubscribe q subscriber s = .next t ∧ Keeps [.freeCtr, .pend, .weaver, .hcs, .eth, .subs, .lastEvents,
    .flash, .sec, .tones, .nozGain] [.WEAVER_KERNEL, .WEAVER_MASKLINE, .HC_STAT, .HC_COMBLINE, .SEC_STAT, .SEC_EVT] s
    t := by
  unfold execUnsubscribe
  have h0 : Keeps [.freeCtr, .pend, .weaver, .hcs, .eth, .subs, .lastEvents, .flash, .sec, .tones, .nozGain]
      [.WEAVER_KERNEL, .WEAVER_MASKLINE, .HC_STAT, .HC_COMBLINE, .SEC_STAT, .SEC_EVT] s s := keeps_refl
  exact ⟨_, rfl, (serve_keeps (keeps_step h0 quiet_keeps) (serves_some fun _ _ => opUnsubscribe_keeps))⟩

theorem execSegRead_keeps {q : Request} {index : BitVec 16} {sub : BitVec 8} {offset : BitVec 32} {maxlen : BitVec
    16} {s : State} :
    ∃ t, execSegRead q index sub offset maxlen s = .next t ∧ Keeps [.freeCtr, .pend, .weaver, .hcs, .eth, .subs,
    .lastEvents, .flash, .sec, .tones, .nozGain] [.WEAVER_KERNEL, .WEAVER_MASKLINE, .HC_STAT, .HC_COMBLINE,
    .SEC_STAT, .SEC_EVT] s t := by
  unfold execSegRead
  have h0 : Keeps [.freeCtr, .pend, .weaver, .hcs, .eth, .subs, .lastEvents, .flash, .sec, .tones, .nozGain]
      [.WEAVER_KERNEL, .WEAVER_MASKLINE, .HC_STAT, .HC_COMBLINE, .SEC_STAT, .SEC_EVT] s s := keeps_refl
  exact ⟨_, rfl, (serve_keeps (keeps_step h0 quiet_keeps) (serves_some fun _ _ => opSegRead_keeps))⟩

theorem execGroupArm_keeps {q : Request} {handle : BitVec 8} {kind : BitVec 8} {value : BitVec 64} {s : State} :
    ∃ t, execGroupArm q handle kind value s = .next t ∧ Keeps [.freeCtr, .log, .pend, .weaver, .hcs, .eth, .subs,
    .lastEvents, .flash, .sec, .tones, .masks, .slots, .nozRet, .nozGain, .thresholds] [.any] s t := by
  unfold execGroupArm
  have h0 : Keeps [.freeCtr, .log, .pend, .weaver, .hcs, .eth, .subs, .lastEvents, .flash, .sec, .tones, .masks,
      .slots, .nozRet, .nozGain, .thresholds] [.any] s s := keeps_refl
  exact ⟨_, rfl, (serve_keeps (keeps_step h0 quiet_keeps) (serves_some fun _ _ => opGroupArm_keeps))⟩

theorem takeSegment_keeps {s : State} {a1 : Xfer} {data : List Byte} :
    Keeps [.freeCtr, .log, .pend, .weaver, .hcs, .pos, .cam, .mot, .eth, .subs, .lastEvents, .flash, .tones, .masks,
    .slots, .nozRet, .nozGain, .thresholds, .staging] [.any] s (State.takeSegment s a1 data).2 := by
  unfold State.takeSegment
  have h0 : Keeps [.freeCtr, .log, .pend, .weaver, .hcs, .pos, .cam, .mot, .eth, .subs, .lastEvents, .flash, .tones,
      .masks, .slots, .nozRet, .nozGain, .thresholds, .staging] [.any] s s := keeps_refl
  extract_lets -useContext +onlyGivenNames x2 x4 x6 x8 x10 x12
  have h9 : As h0 x8 := keeps_eth h0 _
  have h13 : As h0 x12 := keeps_ite (keeps_flash h9 _) h9
  clear_value x12
  refine keeps_ite_snd ?_ ?_
  · exact h13
  · extract_lets -useContext +onlyGivenNames x14 x16
    have h17 : As h0 x16 := keeps_eth h13 _
    refine keeps_ite_snd ?_ ?_
    · exact keeps_step h17 endStaging_keeps
    · refine keeps_ite_snd ?_ ?_
      · exact keeps_step h17 writeDomain_keeps
      · exact h17

theorem execGroupStatus_keeps {q : Request} {handle : BitVec 8} {s : State} :
    ∃ t, execGroupStatus q handle s = .next t ∧ Keeps [.freeCtr, .pend, .weaver, .hcs, .eth, .subs, .lastEvents,
    .flash, .sec, .tones, .nozGain] [.WEAVER_KERNEL, .WEAVER_MASKLINE, .HC_STAT, .HC_COMBLINE, .SEC_STAT, .SEC_EVT] s
    t := by
  unfold execGroupStatus
  have h0 : Keeps [.freeCtr, .pend, .weaver, .hcs, .eth, .subs, .lastEvents, .flash, .sec, .tones, .nozGain]
      [.WEAVER_KERNEL, .WEAVER_MASKLINE, .HC_STAT, .HC_COMBLINE, .SEC_STAT, .SEC_EVT] s s := keeps_refl
  exact ⟨_, rfl, (serve_keeps (keeps_step h0 quiet_keeps) (serves_some fun _ _ => opGroupStatus_keeps))⟩

theorem execSegWriteInit_keeps {q : Request} {index : BitVec 16} {sub : BitVec 8} {handle : BitVec 8} {total : BitVec
    32} {crc : BitVec 32} {s : State} :
    ∃ t, execSegWriteInit q index sub handle total crc s = .next t ∧ Keeps [.freeCtr, .pend, .weaver, .hcs, .eth,
    .subs, .lastEvents, .flash, .sec, .tones, .nozGain] [.WEAVER_KERNEL, .WEAVER_MASKLINE, .HC_STAT, .HC_COMBLINE,
    .SEC_STAT, .SEC_EVT] s t := by
  unfold execSegWriteInit
  have h0 : Keeps [.freeCtr, .pend, .weaver, .hcs, .eth, .subs, .lastEvents, .flash, .sec, .tones, .nozGain]
      [.WEAVER_KERNEL, .WEAVER_MASKLINE, .HC_STAT, .HC_COMBLINE, .SEC_STAT, .SEC_EVT] s s := keeps_refl
  exact ⟨_, rfl, (serve_keeps (keeps_step h0 quiet_keeps) (serves_some fun _ _ => opSegWriteInit_keeps))⟩

theorem execSubscribe_keeps {q : Request} {classes : BitVec 32} {port : BitVec 16} {s : State} :
    ∃ t, execSubscribe q classes port s = .next t ∧ Keeps [.freeCtr, .pend, .weaver, .hcs, .eth, .subs, .lastEvents,
    .flash, .sec, .tones, .nozGain] [.WEAVER_KERNEL, .WEAVER_MASKLINE, .HC_STAT, .HC_COMBLINE, .SEC_STAT, .SEC_EVT] s
    t := by
  unfold execSubscribe
  have h0 : Keeps [.freeCtr, .pend, .weaver, .hcs, .eth, .subs, .lastEvents, .flash, .sec, .tones, .nozGain]
      [.WEAVER_KERNEL, .WEAVER_MASKLINE, .HC_STAT, .HC_COMBLINE, .SEC_STAT, .SEC_EVT] s s := keeps_refl
  exact ⟨_, rfl, (serve_keeps (keeps_step h0 quiet_keeps) (serves_some fun _ _ => opSubscribe_keeps))⟩

theorem execGroupStage_keeps {q : Request} {handle : BitVec 8} {item : Item} {s : State} :
    ∃ t, execGroupStage q handle item s = .next t ∧ Keeps [.freeCtr, .pend, .weaver, .hcs, .eth, .subs, .lastEvents,
    .flash, .sec, .tones, .nozGain, .staging] [.WEAVER_KERNEL, .WEAVER_MASKLINE, .HC_STAT, .HC_COMBLINE, .SEC_STAT,
    .SEC_EVT] s t := by
  unfold execGroupStage
  have h0 : Keeps [.freeCtr, .pend, .weaver, .hcs, .eth, .subs, .lastEvents, .flash, .sec, .tones, .nozGain,
      .staging] [.WEAVER_KERNEL, .WEAVER_MASKLINE, .HC_STAT, .HC_COMBLINE, .SEC_STAT, .SEC_EVT] s s := keeps_refl
  exact ⟨_, rfl, (serve_keeps (keeps_step h0 quiet_keeps) (serves_some fun _ _ => opGroupStage_keeps))⟩

theorem execEventAck_keeps {q : Request} {subscriber : BitVec 8} {eseq : BitVec 32} {s : State} :
    ∃ t, execEventAck q subscriber eseq s = .next t ∧ Keeps [.freeCtr, .pend, .weaver, .hcs, .eth, .subs,
    .lastEvents, .flash, .sec, .tones, .nozGain] [.WEAVER_KERNEL, .WEAVER_MASKLINE, .HC_STAT, .HC_COMBLINE,
    .SEC_STAT, .SEC_EVT] s t := by
  unfold execEventAck
  have h0 : Keeps [.freeCtr, .pend, .weaver, .hcs, .eth, .subs, .lastEvents, .flash, .sec, .tones, .nozGain]
      [.WEAVER_KERNEL, .WEAVER_MASKLINE, .HC_STAT, .HC_COMBLINE, .SEC_STAT, .SEC_EVT] s s := keeps_refl
  exact ⟨_, rfl, (serve_keeps (keeps_step h0 quiet_keeps) (serves_some fun _ _ => opEventAck_keeps))⟩

theorem opSegWrite_keeps {q : Request} {xfer : Nat} {offset : Nat} {data : List Byte} {a1 : Nat} {s : State} :
    Keeps [.freeCtr, .log, .pend, .weaver, .hcs, .pos, .cam, .mot, .eth, .subs, .lastEvents, .flash, .tones, .masks,
    .slots, .nozRet, .nozGain, .thresholds, .staging] [.any] s (opSegWrite q xfer offset data a1 s).after := by
  unfold opSegWrite
  have h0 : Keeps [.freeCtr, .log, .pend, .weaver, .hcs, .pos, .cam, .mot, .eth, .subs, .lastEvents, .flash, .tones,
      .masks, .slots, .nozRet, .nozGain, .thresholds, .staging] [.any] s s := keeps_refl
  extract_lets -useContext +onlyGivenNames x2
  split
  · exact h0
  · extract_lets -useContext +onlyGivenNames x4 x6
    refine keeps_ite_after ?_ ?_
    · exact h0
    · extract_lets -useContext +onlyGivenNames x8 x10
      refine keeps_ite_after ?_ ?_
      · refine keeps_ite_after ?_ ?_
        · split
          · rename State => t12
            have h14 : As h0 t12 := keeps_of_2 (by assumption) (keeps_step (keeps_step h0 setStage_keeps)
                takeSegment_keeps)
            exact h14
        · exact keeps_step (keeps_eth h0 _) secLog_keeps
      · refine keeps_ite_after ?_ ?_
        · exact keeps_step h0 drawn_keeps
        · split
          · rename State => t15
            have h17 : As h0 t15 := keeps_of_2 (by assumption) (keeps_step (keeps_ite (keeps_step h0 drawn_keeps) h0)
                takeSegment_keeps)
            exact h17

theorem execSegWrite_keeps {q : Request} {xfer : BitVec 16} {offset : BitVec 32} {data : List Byte} {s : State} :
    ∃ t, execSegWrite q xfer offset data s = .next t ∧ Keeps [.freeCtr, .log, .pend, .weaver, .hcs, .pos, .cam, .mot,
    .eth, .subs, .lastEvents, .flash, .sec, .tones, .masks, .slots, .nozRet, .nozGain, .thresholds, .staging] [.any]
    s t := by
  unfold execSegWrite
  have h0 : Keeps [.freeCtr, .log, .pend, .weaver, .hcs, .pos, .cam, .mot, .eth, .subs, .lastEvents, .flash, .sec,
      .tones, .masks, .slots, .nozRet, .nozGain, .thresholds, .staging] [.any] s s := keeps_refl
  exact ⟨_, rfl, (serve_keeps (keeps_step h0 quiet_keeps) (serves_some fun _ _ => opSegWrite_keeps))⟩

theorem writeItem_keeps {s : State} {index : Nat} {sub : Nat} {value : List Byte} :
    Keeps [.highLatch, .halfWrites, .resp, .freeCtr, .log, .link, .dma, .granary, .dramValid, .miller, .pend,
    .landed, .weaver, .hcs, .pos, .br, .cam, .cal, .axes, .mot, .eth, .pages, .subs, .lastEvents, .pwr, .flash, .sec,
    .mem] [.any] s (State.writeItem s index sub value).2 := by
  unfold State.writeItem
  have h0 : Keeps [.highLatch, .halfWrites, .resp, .freeCtr, .log, .link, .dma, .granary, .dramValid, .miller, .pend,
      .landed, .weaver, .hcs, .pos, .br, .cam, .cal, .axes, .mot, .eth, .pages, .subs, .lastEvents, .pwr, .flash,
      .sec, .mem] [.any] s s := keeps_refl
  refine keeps_ite_snd ?_ ?_
  · exact keeps_step h0 writeArm_keeps
  · refine keeps_ite_snd ?_ ?_
    · split
      · refine keeps_ite_snd ?_ ?_
        · exact keeps_step h0 armInner_keeps
        · exact h0
      · exact h0
    · exact keeps_step h0 writeObject_keeps

theorem opWrite_keeps {index : Nat} {sub : Nat} {type : Nat} {value : List Byte} {level : Nat} {s : State} :
    Keeps [.highLatch, .halfWrites, .resp, .freeCtr, .log, .link, .dma, .granary, .dramValid, .miller, .pend,
    .landed, .weaver, .hcs, .pos, .br, .cam, .cal, .axes, .mot, .eth, .pages, .subs, .lastEvents, .pwr, .flash, .sec,
    .mem] [.any] s (opWrite index sub type value level s).after := by
  unfold opWrite
  have h0 : Keeps [.highLatch, .halfWrites, .resp, .freeCtr, .log, .link, .dma, .granary, .dramValid, .miller, .pend,
      .landed, .weaver, .hcs, .pos, .br, .cam, .cal, .axes, .mot, .eth, .pages, .subs, .lastEvents, .pwr, .flash,
      .sec, .mem] [.any] s s := keeps_refl
  extract_lets -useContext +onlyGivenNames x1
  refine keeps_ite_after ?_ ?_
  · exact h0
  · split
    · rename State => t3
      have h5 : As h0 t3 := keeps_of_2 (by assumption) (keeps_step h0 writeItem_keeps)
      exact h5

theorem serveWrite_keeps {s : State} {q : Request} {index : Nat} {sub : Nat} {type : Nat} {value : List Byte} :
    Keeps [.highLatch, .halfWrites, .resp, .freeCtr, .log, .link, .dma, .granary, .dramValid, .miller, .pend,
    .landed, .weaver, .hcs, .pos, .br, .cam, .cal, .axes, .mot, .eth, .pages, .subs, .lastEvents, .pwr, .flash, .sec,
    .mem] [.any] s (State.serveWrite s q index sub type value) := by
  unfold State.serveWrite
  have h0 : Keeps [.highLatch, .halfWrites, .resp, .freeCtr, .log, .link, .dma, .granary, .dramValid, .miller, .pend,
      .landed, .weaver, .hcs, .pos, .br, .cam, .cal, .axes, .mot, .eth, .pages, .subs, .lastEvents, .pwr, .flash,
      .sec, .mem] [.any] s s := keeps_refl
  exact serve_keeps (keeps_step h0 quiet_keeps) (serves_some fun _ _ => opWrite_keeps)

theorem execActivate_keeps {q : Request} {time : BitVec 64} {s : State} :
    ∃ t, execActivate q time s = .next t ∧ Keeps [.highLatch, .halfWrites, .resp, .freeCtr, .log, .link, .dma,
    .granary, .dramValid, .miller, .pend, .landed, .weaver, .hcs, .pos, .br, .cam, .cal, .axes, .mot, .eth, .pages,
    .subs, .lastEvents, .pwr, .flash, .sec, .mem] [.any] s t := by
  unfold execActivate
  have h0 : Keeps [.highLatch, .halfWrites, .resp, .freeCtr, .log, .link, .dma, .granary, .dramValid, .miller, .pend,
      .landed, .weaver, .hcs, .pos, .br, .cam, .cal, .axes, .mot, .eth, .pages, .subs, .lastEvents, .pwr, .flash,
      .sec, .mem] [.any] s s := keeps_refl
  exact ⟨_, rfl, (keeps_step h0 serveWrite_keeps)⟩

theorem execRevoke_keeps {q : Request} {slot : Byte} {s : State} :
    ∃ t, execRevoke q slot s = .next t ∧ Keeps [.highLatch, .halfWrites, .resp, .freeCtr, .log, .link, .dma,
    .granary, .dramValid, .miller, .pend, .landed, .weaver, .hcs, .pos, .br, .cam, .cal, .axes, .mot, .eth, .pages,
    .subs, .lastEvents, .pwr, .flash, .sec, .mem] [.any] s t := by
  unfold execRevoke
  have h0 : Keeps [.highLatch, .halfWrites, .resp, .freeCtr, .log, .link, .dma, .granary, .dramValid, .miller, .pend,
      .landed, .weaver, .hcs, .pos, .br, .cam, .cal, .axes, .mot, .eth, .pages, .subs, .lastEvents, .pwr, .flash,
      .sec, .mem] [.any] s s := keeps_refl
  exact ⟨_, rfl, (keeps_step h0 serveWrite_keeps)⟩

theorem execPageDisarm_keeps {q : Request} {n : BitVec 8} {s : State} :
    ∃ t, execPageDisarm q n s = .next t ∧ Keeps [.highLatch, .halfWrites, .resp, .freeCtr, .log, .link, .dma,
    .granary, .dramValid, .miller, .pend, .landed, .weaver, .hcs, .pos, .br, .cam, .cal, .axes, .mot, .eth, .pages,
    .subs, .lastEvents, .pwr, .flash, .sec, .mem] [.any] s t := by
  unfold execPageDisarm
  have h0 : Keeps [.highLatch, .halfWrites, .resp, .freeCtr, .log, .link, .dma, .granary, .dramValid, .miller, .pend,
      .landed, .weaver, .hcs, .pos, .br, .cam, .cal, .axes, .mot, .eth, .pages, .subs, .lastEvents, .pwr, .flash,
      .sec, .mem] [.any] s s := keeps_refl
  exact ⟨_, rfl, (keeps_step h0 serveWrite_keeps)⟩

theorem execWrite_keeps {q : Request} {item : Item} {s : State} :
    ∃ t, execWrite q item s = .next t ∧ Keeps [.highLatch, .halfWrites, .resp, .freeCtr, .log, .link, .dma, .granary,
    .dramValid, .miller, .pend, .landed, .weaver, .hcs, .pos, .br, .cam, .cal, .axes, .mot, .eth, .pages, .subs,
    .lastEvents, .pwr, .flash, .sec, .mem] [.any] s t := by
  unfold execWrite
  have h0 : Keeps [.highLatch, .halfWrites, .resp, .freeCtr, .log, .link, .dma, .granary, .dramValid, .miller, .pend,
      .landed, .weaver, .hcs, .pos, .br, .cam, .cal, .axes, .mot, .eth, .pages, .subs, .lastEvents, .pwr, .flash,
      .sec, .mem] [.any] s s := keeps_refl
  exact ⟨_, rfl, (keeps_step h0 serveWrite_keeps)⟩

theorem execSettingsSave_keeps {q : Request} {s : State} :
    ∃ t, execSettingsSave q s = .next t ∧ Keeps [.highLatch, .halfWrites, .resp, .freeCtr, .log, .link, .dma,
    .granary, .dramValid, .miller, .pend, .landed, .weaver, .hcs, .pos, .br, .cam, .cal, .axes, .mot, .eth, .pages,
    .subs, .lastEvents, .pwr, .flash, .sec, .mem] [.any] s t := by
  unfold execSettingsSave
  have h0 : Keeps [.highLatch, .halfWrites, .resp, .freeCtr, .log, .link, .dma, .granary, .dramValid, .miller, .pend,
      .landed, .weaver, .hcs, .pos, .br, .cam, .cal, .axes, .mot, .eth, .pages, .subs, .lastEvents, .pwr, .flash,
      .sec, .mem] [.any] s s := keeps_refl
  exact ⟨_, rfl, (keeps_step h0 serveWrite_keeps)⟩

theorem execFallbackRequest_keeps {q : Request} {s : State} :
    ∃ t, execFallbackRequest q s = .next t ∧ Keeps [.highLatch, .halfWrites, .resp, .freeCtr, .log, .link, .dma,
    .granary, .dramValid, .miller, .pend, .landed, .weaver, .hcs, .pos, .br, .cam, .cal, .axes, .mot, .eth, .pages,
    .subs, .lastEvents, .pwr, .flash, .sec, .mem] [.any] s t := by
  unfold execFallbackRequest
  have h0 : Keeps [.highLatch, .halfWrites, .resp, .freeCtr, .log, .link, .dma, .granary, .dramValid, .miller, .pend,
      .landed, .weaver, .hcs, .pos, .br, .cam, .cal, .axes, .mot, .eth, .pages, .subs, .lastEvents, .pwr, .flash,
      .sec, .mem] [.any] s s := keeps_refl
  exact ⟨_, rfl, (keeps_step h0 serveWrite_keeps)⟩

theorem execPageArm_keeps {q : Request} {n : BitVec 8} {s : State} :
    ∃ t, execPageArm q n s = .next t ∧ Keeps [.highLatch, .halfWrites, .resp, .freeCtr, .log, .link, .dma, .granary,
    .dramValid, .miller, .pend, .landed, .weaver, .hcs, .pos, .br, .cam, .cal, .axes, .mot, .eth, .pages, .subs,
    .lastEvents, .pwr, .flash, .sec, .mem] [.any] s t := by
  unfold execPageArm
  have h0 : Keeps [.highLatch, .halfWrites, .resp, .freeCtr, .log, .link, .dma, .granary, .dramValid, .miller, .pend,
      .landed, .weaver, .hcs, .pos, .br, .cam, .cal, .axes, .mot, .eth, .pages, .subs, .lastEvents, .pwr, .flash,
      .sec, .mem] [.any] s s := keeps_refl
  exact ⟨_, rfl, (keeps_step h0 serveWrite_keeps)⟩

end Sys2Proof.Laws
end

