-- ==== Sys2Proof/Laws/KeepsEthernet.lean ====
section
/-! SUPPORT. What each operation of Machine/Ethernet.lean may change (`Keeps`): the parts of the state and the rows of registers. -/

set_option Elab.async false

namespace Sys2Proof.Laws

open Sys2Proof.Machine

theorem ethSend_keeps {s : State} {p : Nat} {o : EthOut} :
    Keeps [.eth] [] s (State.ethSend s p o) := by
  unfold State.ethSend
  have h0 : Keeps [.eth] [] s s := keeps_refl
  refine keeps_ite ?_ ?_
  · exact keeps_eth h0 _
  · exact h0

theorem learn_keeps {s : State} {mac : Nat} {p : Nat} :
    Keeps [.eth] [] s (State.learn s mac p) := by
  unfold State.learn
  have h0 : Keeps [.eth] [] s s := keeps_refl
  extract_lets -useContext +onlyGivenNames x1
  exact keeps_eth h0 _

theorem execEthernetPhyLinkChange_keeps {p : Fin 2} {speed : Fin 4} {s : State} :
    ∃ t, execEthernetPhyLinkChange p speed s = .next t ∧ Keeps [.eth] [] s t := by
  unfold execEthernetPhyLinkChange
  have h0 : Keeps [.eth] [] s s := keeps_refl
  exact ⟨_, rfl, (keeps_eth h0 _)⟩

theorem ptpSynced_keeps {s : State} {p : Nat} {arrival : Int} {origin : Int} {corr : Int} :
    Keeps [.eth] [] s (State.ptpSynced s p arrival origin corr) := by
  unfold State.ptpSynced
  have h0 : Keeps [.eth] [] s s := keeps_refl
  exact keeps_step (keeps_eth h0 _) ethSend_keeps

theorem ptpTake_keeps {s : State} {p : Nat} {m : PtpMsg} {at_ : Int} :
    Keeps [.freeCtr, .eth] [] s (State.ptpTake s p m at_) := by
  unfold State.ptpTake
  have h0 : Keeps [.freeCtr, .eth] [] s s := keeps_refl
  refine keeps_ite ?_ ?_
  · exact h0
  · split
    · extract_lets -useContext +onlyGivenNames x1
      exact keeps_eth h0 _
    · refine keeps_ite ?_ ?_
      · exact h0
      · refine keeps_ite ?_ ?_
        · exact keeps_eth h0 _
        · exact keeps_step h0 ptpSynced_keeps
    · split
      · refine keeps_ite ?_ ?_
        · exact keeps_step h0 ptpSynced_keeps
        · exact h0
      · exact h0
    · refine keeps_ite ?_ ?_
      · exact keeps_step h0 ethSend_keeps
      · exact h0
    · split
      · refine keeps_ite ?_ ?_
        · exact h0
        · extract_lets -useContext +onlyGivenNames x3 x5 x7
          exact keeps_step (keeps_eth h0 _) drawn_keeps
      · exact h0
    · exact h0

theorem execPtpEventMessage_keeps {p : Fin 2} {m : PtpMsg} {residence : Nat} {err : Int} {s : State} :
    ∃ t, execPtpEventMessage p m residence err s = .next t ∧ Keeps [.freeCtr, .eth] [] s t := by
  unfold execPtpEventMessage
  have h0 : Keeps [.freeCtr, .eth] [] s s := keeps_refl
  exact ⟨_, rfl, (by
        extract_lets -useContext +onlyGivenNames x1
        have h2 : As h0 x1 := keeps_step h0 quiet_keeps
        clear_value x1
        refine keeps_ite ?_ ?_
        · exact h2
        · extract_lets -useContext +onlyGivenNames x3
          have h4 : As h0 x3 := keeps_step h2 ethSend_keeps
          clear_value x3
          exact keeps_step h4 ptpTake_keeps)⟩

theorem serves_none {w : List Part} {r : List Reg} : Serves w r none := nofun

theorem serves_map {α : Type} {w : List Part} {r : List Reg} {o : Option α} {f : α → Nat → State → Answer}
    (h : ∀ a, Serves w r (some (f a))) : Serves w r (o.map f) := by
  cases o with
  | none => exact serves_none
  | some a => exact h a

theorem serves_bind {α : Type} {w : List Part} {r : List Reg} {o : Option α}
    {f : α → Option (Nat → State → Answer)} (h : ∀ a, Serves w r (f a)) : Serves w r (o.bind f) := by
  cases o with
  | none => exact serves_none
  | some a => exact h a

theorem parseOp_serves {q : Request} {op : Nat} {l : List Byte} :
    Serves [.highLatch, .halfWrites, .resp, .freeCtr, .log, .link, .dma, .granary, .dramValid, .miller, .pend, .landed,
      .weaver, .hcs, .pos, .br, .cam, .cal, .axes, .mot, .eth, .pages, .subs, .lastEvents, .pwr, .flash, .sec, .mem] [.any] (parseOp q op l) := by
  unfold parseOp
  extract_lets n u
  split
  · exact serves_ite (serves_some fun _ _ => opRead_keeps)
  · exact serves_map fun _ => serves_some fun _ _ => opWrite_keeps
  · exact serves_ite (serves_some fun _ _ => opSegRead_keeps)
  · exact serves_ite (serves_some fun _ _ => opSegWriteInit_keeps)
  · exact serves_ite (serves_some fun _ _ => opSegWrite_keeps)
  · exact serves_ite (serves_some fun _ _ => opSegAbort_keeps)
  · exact serves_ite (serves_some fun _ _ => opGroupOpen_keeps)
  · exact serves_bind fun _ => serves_map fun _ => serves_some fun _ _ => opGroupStage_keeps
  · exact serves_ite (serves_some fun _ _ => opGroupArm_keeps)
  · exact serves_ite (serves_map fun _ => serves_some fun _ _ => opGroupDiscard_keeps)
  · exact serves_ite (serves_map fun _ => serves_some fun _ _ => opGroupStatus_keeps)
  · exact serves_ite (serves_some fun _ _ => opSnapshot_keeps)
  · exact serves_ite (serves_some fun _ _ => opSubscribe_keeps)
  · exact serves_ite (serves_map fun _ => serves_some fun _ _ => opUnsubscribe_keeps)
  · exact serves_ite (serves_map fun _ => serves_some fun _ _ => opEventAck_keeps)
  · exact serves_ite (serves_some fun _ _ => opHello_keeps)
  · exact serves_ite (serves_some fun _ _ => opClientAuth_keeps)
  · exact serves_ite (serves_some fun _ _ => opClose_keeps)
  · exact serves_ite (serves_some fun _ _ => opAttest_keeps)
  · exact serves_none

theorem loquetu_keeps {s : State} {ip : BitVec 32} {port : BitVec 32} {d : List Byte} :
    Keeps [.highLatch, .halfWrites, .resp, .freeCtr, .log, .link, .dma, .granary, .dramValid, .miller, .pend,
    .landed, .weaver, .hcs, .pos, .br, .cam, .cal, .axes, .mot, .eth, .pages, .subs, .lastEvents, .pwr, .flash, .sec,
    .mem] [.any] s (State.loquetu s ip port d) := by
  unfold State.loquetu
  have h0 : Keeps [.highLatch, .halfWrites, .resp, .freeCtr, .log, .link, .dma, .granary, .dramValid, .miller, .pend,
      .landed, .weaver, .hcs, .pos, .br, .cam, .cal, .axes, .mot, .eth, .pages, .subs, .lastEvents, .pwr, .flash,
      .sec, .mem] [.any] s s := keeps_refl
  refine keeps_ite ?_ ?_
  · exact h0
  · extract_lets -useContext +onlyGivenNames x1 x3 x5 x7
    refine keeps_ite ?_ ?_
    · exact serve_keeps h0 (serves_mono parseOp_serves)
    · split
      · exact serve_keeps h0 (serves_mono parseOp_serves)
      · extract_lets -useContext +onlyGivenNames x9
        split
        · exact keeps_eth h0 _
        · exact serve_keeps h0 (serves_mono parseOp_serves)

theorem internalPort_keeps {s : State} {p : Nat} {f : EthFrame} :
    Keeps [.highLatch, .halfWrites, .resp, .freeCtr, .log, .link, .dma, .granary, .dramValid, .miller, .pend,
    .landed, .weaver, .hcs, .pos, .br, .cam, .cal, .axes, .mot, .eth, .pages, .subs, .lastEvents, .pwr, .flash, .sec,
    .mem] [.any] s (State.internalPort s p f) := by
  unfold State.internalPort
  have h0 : Keeps [.highLatch, .halfWrites, .resp, .freeCtr, .log, .link, .dma, .granary, .dramValid, .miller, .pend,
      .landed, .weaver, .hcs, .pos, .br, .cam, .cal, .axes, .mot, .eth, .pages, .subs, .lastEvents, .pwr, .flash,
      .sec, .mem] [.any] s s := keeps_refl
  split
  · refine keeps_ite ?_ ?_
    · exact keeps_step h0 ethSend_keeps
    · exact h0
  · refine keeps_ite ?_ ?_
    · exact h0
    · split
      · exact keeps_step h0 ethSend_keeps
      · refine keeps_ite ?_ ?_
        · exact keeps_step h0 loquetu_keeps
        · exact h0
      · exact h0
  · exact h0
  · exact h0

theorem execEthernetFrame_keeps {p : Fin 2} {f : EthFrame} {s : State} :
    ∃ t, execEthernetFrame p f s = .next t ∧ Keeps [.highLatch, .halfWrites, .resp, .freeCtr, .log, .link, .dma,
    .granary, .dramValid, .miller, .pend, .landed, .weaver, .hcs, .pos, .br, .cam, .cal, .axes, .mot, .eth, .pages,
    .subs, .lastEvents, .pwr, .flash, .sec, .mem] [.any] s t := by
  unfold execEthernetFrame
  have h0 : Keeps [.highLatch, .halfWrites, .resp, .freeCtr, .log, .link, .dma, .granary, .dramValid, .miller, .pend,
      .landed, .weaver, .hcs, .pos, .br, .cam, .cal, .axes, .mot, .eth, .pages, .subs, .lastEvents, .pwr, .flash,
      .sec, .mem] [.any] s s := keeps_refl
  exact ⟨_, rfl, (by
        extract_lets -useContext +onlyGivenNames x1 x3 x5 x7
        have h2 : As h0 x1 := keeps_step h0 quiet_keeps
        clear_value x1
        refine keeps_ite ?_ ?_
        · exact h2
        · extract_lets -useContext +onlyGivenNames x9 x11
          have h12 : As h0 x11 := keeps_step h2 learn_keeps
          clear_value x11
          refine keeps_ite ?_ ?_
          · exact h12
          · refine keeps_ite ?_ ?_
            · exact keeps_step h12 internalPort_keeps
            · refine keeps_ite ?_ ?_
              · exact keeps_step (keeps_step h12 ethSend_keeps) internalPort_keeps
              · refine keeps_ite ?_ ?_
                · exact h12
                · exact keeps_step h12 ethSend_keeps)⟩

end Sys2Proof.Laws
end

