-- ==== Sys2Proof/Laws/KeepsPolicy.lean ====
section
/-! SUPPORT. What each operation of Machine/Policy.lean may change (`Keeps`): the parts of the state and the rows of registers. -/

set_option Elab.async false

namespace Sys2Proof.Laws

open Sys2Proof.Machine

theorem readmitAtPage_keeps {s : State} {g : Nat} {v : NozVerdict} :
    Keeps [.freeCtr, .log, .pend, .weaver, .hcs, .pos, .cam, .mot, .eth, .subs, .lastEvents, .tones, .masks, .slots,
    .nozRet, .nozGain, .thresholds] [.any] s (State.readmitAtPage s g v).2 := by
  unfold State.readmitAtPage
  have h0 : Keeps [.freeCtr, .log, .pend, .weaver, .hcs, .pos, .cam, .mot, .eth, .subs, .lastEvents, .tones, .masks,
      .slots, .nozRet, .nozGain, .thresholds] [.any] s s := keeps_refl
  refine keeps_ite_snd ?_ ?_
  · exact h0
  · refine keeps_ite_snd ?_ ?_
    · exact h0
    · split
      · exact h0
      · split
        · rename State => t1
          have h3 : As h0 t1 := keeps_of_2 (by assumption) (keeps_step h0 armInner_keeps)
          exact h3
        · rename State => t4
          have h6 : As h0 t4 := keeps_of_2 (by assumption) (keeps_step h0 armInner_keeps)
          exact h6

theorem judgeRecord_keeps {s : State} {l : List Byte} :
    Keeps [.resp, .freeCtr, .log, .pend, .weaver, .hcs, .pos, .cam, .mot, .eth, .subs, .lastEvents, .tones, .masks,
    .slots, .nozRet, .nozGain, .thresholds] [.any] s (State.judgeRecord s l) := by
  unfold State.judgeRecord
  have h0 : Keeps [.resp, .freeCtr, .log, .pend, .weaver, .hcs, .pos, .cam, .mot, .eth, .subs, .lastEvents, .tones,
      .masks, .slots, .nozRet, .nozGain, .thresholds] [.any] s s := keeps_refl
  extract_lets -useContext +onlyGivenNames x1 x3 x5 x7 x9
  refine keeps_ite ?_ ?_
  · exact h0
  · extract_lets -useContext +onlyGivenNames x11
    have h12 : ∀ y13, As h0 y13 → ∀ y15, As h0 (x11 y13 y15) := fun y13 h14 y15 => (keeps_cam h14 _)
    clear_value x11
    refine keeps_ite ?_ ?_
    · extract_lets -useContext +onlyGivenNames x16
      refine keeps_ite ?_ ?_
      · split
        · rename State => t18
          have h20 : As h0 t18 := keeps_of_2 (by assumption) (keeps_step h0 readmitAtPage_keeps)
          exact h12 _ h20 _
      · exact h12 _ h0 _
    · extract_lets -useContext +onlyGivenNames x21
      refine keeps_ite ?_ ?_
      · exact keeps_step (h12 _ h0 _) (nextOr_keeps execCamNozzleRetire_keeps)
      · exact h12 _ h0 _

theorem execColumnProposal_keeps {s : State} :
    ∃ t, execColumnProposal s = .next t ∧ Keeps [.freeCtr, .log, .pend, .weaver, .hcs, .pos, .cam, .mot, .eth, .subs,
    .lastEvents, .tones, .masks, .slots, .nozRet, .nozGain, .thresholds] [.any] s t := by
  unfold execColumnProposal
  have h0 : Keeps [.freeCtr, .log, .pend, .weaver, .hcs, .pos, .cam, .mot, .eth, .subs, .lastEvents, .tones, .masks,
      .slots, .nozRet, .nozGain, .thresholds] [.any] s s := keeps_refl
  exact ⟨_, rfl, (by
        extract_lets -useContext +onlyGivenNames x1
        refine keeps_ite ?_ ?_
        · exact h0
        · extract_lets -useContext +onlyGivenNames x3
          split
          · rename State => t5
            have h7 : As h0 t5 := keeps_of_2 (by assumption) (keeps_step (keeps_step h0 drawnN_keeps) armInner_keeps)
            exact keeps_cam h7 _
          · rename State => t8
            have h10 : As h0 t8 := keeps_of_2 (by assumption) (keeps_step (keeps_step h0 drawnN_keeps) armInner_keeps)
            exact h10)⟩

theorem pair_keeps {α β : Type} {w : List Part} {r : List Reg} {s : State} {p : α × State} {b : β}
    (h : Keeps w r s p.2) : Keeps w r s (b, p.2).2 := h

theorem passRecord_keeps {s : State} {p i : Nat} :
    Keeps [.resp, .freeCtr, .log, .link, .dma, .granary, .dramValid, .pend, .landed, .weaver, .hcs, .cal, .axes,
        .eth, .pages, .subs, .lastEvents, .dram, .tones, .nozGain] [.LINK_STAT, .LINK_LANEn_STAT, .DMA_HALT_EVT,
        .DMA_CHn_STAT, .GRANARY_STAT, .GRANARY_EVT, .GRANARY_SR, .GRANARY_CHc_RDERR, .GRANARY_CHc_CAPAR,
        .GRANARY_CHc_RMWERR, .GRANARY_CHc_QUEUE, .WEAVER_KERNEL, .WEAVER_MASKLINE, .HC_STAT, .HC_EVT, .HC_COMBLINE,
        .HC_SCAN_PTR, .BR_CTRL, .BR_STAT, .BR_EVT, .BR_FMAX, .BR_SNAPLINE, .FAULT_STAT, .FAULT_EVT, .FAULT_LOG_WR,
        .FAULT_LOG_LOST, .CAL_HCh_NOW, .CAL_HCh_STAT, .CLKPWR_STAT, .CLKPWR_EVT] s (State.passRecord s p i).2 := by
  rw [State.passRecord]
  exact pair_keeps memRead_keeps

theorem takeFrom_keeps {s : State} {p : Nat} {n : Nat} {i : Nat} :
    Keeps [.resp, .freeCtr, .log, .link, .dma, .granary, .dramValid, .pend, .landed, .weaver, .hcs, .cal, .axes,
    .eth, .pages, .subs, .lastEvents, .dram, .tones, .nozGain] [.LINK_STAT, .LINK_LANEn_STAT, .DMA_HALT_EVT,
    .DMA_CHn_STAT, .GRANARY_STAT, .GRANARY_EVT, .GRANARY_SR, .GRANARY_CHc_RDERR, .GRANARY_CHc_CAPAR,
    .GRANARY_CHc_RMWERR, .GRANARY_CHc_QUEUE, .WEAVER_KERNEL, .WEAVER_MASKLINE, .HC_STAT, .HC_EVT, .HC_COMBLINE,
    .HC_SCAN_PTR, .BR_CTRL, .BR_STAT, .BR_EVT, .BR_FMAX, .BR_SNAPLINE, .FAULT_STAT, .FAULT_EVT, .FAULT_LOG_WR,
    .FAULT_LOG_LOST, .CAL_HCh_NOW, .CAL_HCh_STAT, .CLKPWR_STAT, .CLKPWR_EVT] s (State.takeFrom s p n i).2 := by
  unfold State.takeFrom
  have h0 : Keeps [.resp, .freeCtr, .log, .link, .dma, .granary, .dramValid, .pend, .landed, .weaver, .hcs, .cal,
      .axes, .eth, .pages, .subs, .lastEvents, .dram, .tones, .nozGain] [.LINK_STAT, .LINK_LANEn_STAT, .DMA_HALT_EVT,
      .DMA_CHn_STAT, .GRANARY_STAT, .GRANARY_EVT, .GRANARY_SR, .GRANARY_CHc_RDERR, .GRANARY_CHc_CAPAR,
      .GRANARY_CHc_RMWERR, .GRANARY_CHc_QUEUE, .WEAVER_KERNEL, .WEAVER_MASKLINE, .HC_STAT, .HC_EVT, .HC_COMBLINE,
      .HC_SCAN_PTR, .BR_CTRL, .BR_STAT, .BR_EVT, .BR_FMAX, .BR_SNAPLINE, .FAULT_STAT, .FAULT_EVT, .FAULT_LOG_WR,
      .FAULT_LOG_LOST, .CAL_HCh_NOW, .CAL_HCh_STAT, .CLKPWR_STAT, .CLKPWR_EVT] s s := keeps_refl
  exact keeps_foldl_snd h0 (fun _ _ h1 => (keeps_ite_snd h1 (keeps_step h1 passRecord_keeps)))

theorem takeRecord_keeps {s : State} {p : Nat} {n : Nat} :
    Keeps [.resp, .freeCtr, .log, .link, .dma, .granary, .dramValid, .pend, .landed, .weaver, .hcs, .cal, .axes,
    .eth, .pages, .subs, .lastEvents, .dram, .tones, .nozGain] ([.LINK_STAT, .LINK_LANEn_STAT, .DMA_HALT_EVT,
    .DMA_CHn_STAT, .GRANARY_STAT, .GRANARY_EVT, .GRANARY_SR, .GRANARY_CHc_RDERR, .GRANARY_CHc_CAPAR,
    .GRANARY_CHc_RMWERR, .GRANARY_CHc_QUEUE, .WEAVER_KERNEL, .WEAVER_MASKLINE, .HC_STAT, .HC_EVT, .HC_COMBLINE,
    .HC_SCAN_PTR, .BR_CTRL, .BR_STAT, .BR_EVT, .BR_FMAX, .BR_SNAPLINE, .FAULT_STAT, .FAULT_EVT, .FAULT_LOG_WR,
    .FAULT_LOG_LOST, .Pp_RES_RD, .CAL_HCh_NOW, .CAL_HCh_STAT, .CLKPWR_STAT] ++ [.CLKPWR_EVT]) s (State.takeRecord s p
    n).2 := by
  unfold State.takeRecord
  have h0 : Keeps [.resp, .freeCtr, .log, .link, .dma, .granary, .dramValid, .pend, .landed, .weaver, .hcs, .cal,
      .axes, .eth, .pages, .subs, .lastEvents, .dram, .tones, .nozGain] ([.LINK_STAT, .LINK_LANEn_STAT,
      .DMA_HALT_EVT, .DMA_CHn_STAT, .GRANARY_STAT, .GRANARY_EVT, .GRANARY_SR, .GRANARY_CHc_RDERR, .GRANARY_CHc_CAPAR,
      .GRANARY_CHc_RMWERR, .GRANARY_CHc_QUEUE, .WEAVER_KERNEL, .WEAVER_MASKLINE, .HC_STAT, .HC_EVT, .HC_COMBLINE,
      .HC_SCAN_PTR, .BR_CTRL, .BR_STAT, .BR_EVT, .BR_FMAX, .BR_SNAPLINE, .FAULT_STAT, .FAULT_EVT, .FAULT_LOG_WR,
      .FAULT_LOG_LOST, .Pp_RES_RD, .CAL_HCh_NOW, .CAL_HCh_STAT, .CLKPWR_STAT] ++ [.CLKPWR_EVT]) s s := keeps_refl
  split
  · rename State => t1
    have h3 : As h0 t1 := keeps_of_2 (by assumption) (keeps_step h0 takeFrom_keeps)
    exact setFld_keeps h3 (covers .Pp_RES_RD ⟨_, rfl⟩)

theorem execLadderVerdict_keeps {p : Fin 2} {s : State} :
    ∃ t, execLadderVerdict p s = .next t ∧ Keeps [.resp, .freeCtr, .log, .link, .dma, .granary, .dramValid, .pend,
    .landed, .weaver, .hcs, .pos, .cam, .cal, .axes, .mot, .eth, .pages, .subs, .lastEvents, .dram, .tones, .masks,
    .slots, .nozRet, .nozGain, .thresholds] [.any] s t := by
  unfold execLadderVerdict
  have h0 : Keeps [.resp, .freeCtr, .log, .link, .dma, .granary, .dramValid, .pend, .landed, .weaver, .hcs, .pos,
      .cam, .cal, .axes, .mot, .eth, .pages, .subs, .lastEvents, .dram, .tones, .masks, .slots, .nozRet, .nozGain,
      .thresholds] [.any] s s := keeps_refl
  exact ⟨_, rfl, (by
        extract_lets -useContext +onlyGivenNames x1
        split
        · rename State => t3
          have h5 : As h0 t3 := keeps_of_2 (by assumption) (keeps_step h0 takeRecord_keeps)
          exact keeps_step h5 judgeRecord_keeps
        · rename State => t6
          have h8 : As h0 t6 := keeps_of_2 (by assumption) (keeps_step h0 takeRecord_keeps)
          exact h8)⟩

end Sys2Proof.Laws
end

