-- ==== Sys2Proof/Laws/KeepsDispatch.lean ====
section
/-! SUPPORT. What each operation of Machine/Dispatch.lean may change (`Keeps`): the parts of the state and the rows of registers. -/

set_option Elab.async false

namespace Sys2Proof.Laws

open Sys2Proof.Machine

theorem exec_keeps {i : Instr} {s : State} :
    ∃ t, exec i s = .next t ∧ Keeps [.now, .highLatch, .halfWrites, .resp, .freeCtr, .log, .link, .dma, .granary,
    .dramValid, .miller, .pend, .landed, .weaver, .hcs, .pos, .br, .cam, .cal, .axes, .mot, .eth, .pages, .subs,
    .lastEvents, .pwr, .flash, .sec, .mem] [.any] s t := by
  unfold exec
  have h0 : Keeps [.now, .highLatch, .halfWrites, .resp, .freeCtr, .log, .link, .dma, .granary, .dramValid, .miller,
      .pend, .landed, .weaver, .hcs, .pos, .br, .cam, .cal, .axes, .mot, .eth, .pages, .subs, .lastEvents, .pwr,
      .flash, .sec, .mem] [.any] s s := keeps_refl
  split
  · obtain ⟨t, e, k⟩ := execRegisterWrite_keeps
    exact ⟨t, e, keeps_step h0 k⟩
  · obtain ⟨t, e, k⟩ := execRcRegisterRead_keeps
    exact ⟨t, e, keeps_step h0 k⟩
  · obtain ⟨t, e, k⟩ := execW1cEventClear_keeps
    exact ⟨t, e, keeps_step h0 k⟩
  · obtain ⟨t, e, k⟩ := execWidePairLowRead_keeps
    exact ⟨t, e, keeps_step h0 k⟩
  · obtain ⟨t, e, k⟩ := execLinkEnable_keeps
    exact ⟨t, e, keeps_step h0 k⟩
  · obtain ⟨t, e, k⟩ := execLinkDisable_keeps
    exact ⟨t, e, keeps_step h0 k⟩
  · obtain ⟨t, e, k⟩ := execSymbolLock_keeps
    exact ⟨t, e, keeps_step h0 k⟩
  · obtain ⟨t, e, k⟩ := execPortUp_keeps
    exact ⟨t, e, keeps_step h0 k⟩
  · obtain ⟨t, e, k⟩ := execLaneMarkerSetReceived_keeps
    exact ⟨t, e, keeps_step h0 k⟩
  · obtain ⟨t, e, k⟩ := execSkipSetReceived_keeps
    exact ⟨t, e, keeps_step h0 k⟩
  · obtain ⟨t, e, k⟩ := execEieSetReceived_keeps
    exact ⟨t, e, keeps_step h0 k⟩
  · obtain ⟨t, e, k⟩ := execPacketReceived_keeps
    exact ⟨t, e, keeps_step h0 k⟩
  · obtain ⟨t, e, k⟩ := execStreamDataPacket_keeps
    exact ⟨t, e, keeps_step h0 k⟩
  · obtain ⟨t, e, k⟩ := execMemoryWritePacket_keeps
    exact ⟨t, e, keeps_step h0 k⟩
  · obtain ⟨t, e, k⟩ := execMemoryReadRequest_keeps
    exact ⟨t, e, keeps_step h0 k⟩
  · obtain ⟨t, e, k⟩ := execMemoryReadCompletion_keeps
    exact ⟨t, e, keeps_step h0 k⟩
  · obtain ⟨t, e, k⟩ := execCreditPacketReceived_keeps
    exact ⟨t, e, keeps_step h0 k⟩
  · obtain ⟨t, e, k⟩ := execCreditUpdateSend_keeps
    exact ⟨t, e, keeps_step h0 k⟩
  · obtain ⟨t, e, k⟩ := execAckTimerExpiry_keeps
    exact ⟨t, e, keeps_step h0 k⟩
  · obtain ⟨t, e, k⟩ := execNakTransmit_keeps
    exact ⟨t, e, keeps_step h0 k⟩
  · obtain ⟨t, e, k⟩ := execNakTimeout_keeps
    exact ⟨t, e, keeps_step h0 k⟩
  · obtain ⟨t, e, k⟩ := execNakReceived_keeps
    exact ⟨t, e, keeps_step h0 k⟩
  · obtain ⟨t, e, k⟩ := execReplayTimeout_keeps
    exact ⟨t, e, keeps_step h0 k⟩
  · obtain ⟨t, e, k⟩ := execLaneRetirement_keeps
    exact ⟨t, e, keeps_step h0 k⟩
  · obtain ⟨t, e, k⟩ := execSymbolLockLoss_keeps
    exact ⟨t, e, keeps_step h0 k⟩
  · obtain ⟨t, e, k⟩ := execDeskewOverflow_keeps
    exact ⟨t, e, keeps_step h0 k⟩
  · obtain ⟨t, e, k⟩ := execLinkRetire_keeps
    exact ⟨t, e, keeps_step h0 k⟩
  · obtain ⟨t, e, k⟩ := execLinkReadmit_keeps
    exact ⟨t, e, keeps_step h0 k⟩
  · obtain ⟨t, e, k⟩ := execLaneQualificationComplete_keeps
    exact ⟨t, e, keeps_step h0 k⟩
  · obtain ⟨t, e, k⟩ := execReadmitAbandon_keeps
    exact ⟨t, e, keeps_step h0 k⟩
  · obtain ⟨t, e, k⟩ := execLinkPowerRequest_keeps
    exact ⟨t, e, keeps_step h0 k⟩
  · obtain ⟨t, e, k⟩ := execIdleTimerExpiry_keeps
    exact ⟨t, e, keeps_step h0 k⟩
  · obtain ⟨t, e, k⟩ := execStandbyExit_keeps
    exact ⟨t, e, keeps_step h0 k⟩
  · obtain ⟨t, e, k⟩ := execLinkDormantRequest_keeps
    exact ⟨t, e, keeps_step h0 k⟩
  · obtain ⟨t, e, k⟩ := execLinkDormantAnswer_keeps
    exact ⟨t, e, keeps_step h0 k⟩
  · obtain ⟨t, e, k⟩ := execSignalDetectWake_keeps
    exact ⟨t, e, keeps_step h0 k⟩
  · obtain ⟨t, e, k⟩ := execStreamBindWrite_keeps
    exact ⟨t, e, keeps_step h0 k⟩
  · obtain ⟨t, e, k⟩ := execChannelEnable_keeps
    exact ⟨t, e, keeps_step h0 k⟩
  · obtain ⟨t, e, k⟩ := execChannelDisable_keeps
    exact ⟨t, e, keeps_step h0 k⟩
  · obtain ⟨t, e, k⟩ := execChannelPause_keeps
    exact ⟨t, e, keeps_step h0 k⟩
  · obtain ⟨t, e, k⟩ := execChannelUnpause_keeps
    exact ⟨t, e, keeps_step h0 k⟩
  · obtain ⟨t, e, k⟩ := execChannelResume_keeps
    exact ⟨t, e, keeps_step h0 k⟩
  · obtain ⟨t, e, k⟩ := execChannelSkip_keeps
    exact ⟨t, e, keeps_step h0 k⟩
  · obtain ⟨t, e, k⟩ := execDoorbell_keeps
    exact ⟨t, e, keeps_step h0 k⟩
  · obtain ⟨t, e, k⟩ := execRingReset_keeps
    exact ⟨t, e, keeps_step h0 k⟩
  · obtain ⟨t, e, k⟩ := execAbortRequest_keeps
    exact ⟨t, e, keeps_step h0 k⟩
  · obtain ⟨t, e, k⟩ := execAbortComplete_keeps
    exact ⟨t, e, keeps_step h0 k⟩
  · obtain ⟨t, e, k⟩ := execDescriptorFetch_keeps
    exact ⟨t, e, keeps_step h0 k⟩
  · obtain ⟨t, e, k⟩ := execInvalidDescriptorHalt_keeps
    exact ⟨t, e, keeps_step h0 k⟩
  · obtain ⟨t, e, k⟩ := execBurstGrant_keeps
    exact ⟨t, e, keeps_step h0 k⟩
  · obtain ⟨t, e, k⟩ := execPaceTimeout_keeps
    exact ⟨t, e, keeps_step h0 k⟩
  · obtain ⟨t, e, k⟩ := execBurstComplete_keeps
    exact ⟨t, e, keeps_step h0 k⟩
  · obtain ⟨t, e, k⟩ := execWriteArrival_keeps
    exact ⟨t, e, keeps_step h0 k⟩
  · obtain ⟨t, e, k⟩ := execBurstFailure_keeps
    exact ⟨t, e, keeps_step h0 k⟩
  · obtain ⟨t, e, k⟩ := execLateWriteFailure_keeps
    exact ⟨t, e, keeps_step h0 k⟩
  · obtain ⟨t, e, k⟩ := execDrainComplete_keeps
    exact ⟨t, e, keeps_step h0 k⟩
  · obtain ⟨t, e, k⟩ := execCaptureFrameStart_keeps
    exact ⟨t, e, keeps_step h0 k⟩
  · obtain ⟨t, e, k⟩ := execGranaryInit_keeps
    exact ⟨t, e, keeps_step h0 k⟩
  · obtain ⟨t, e, k⟩ := execGranaryReady_keeps
    exact ⟨t, e, keeps_step h0 k⟩
  · obtain ⟨t, e, k⟩ := execDelayRamAccess_keeps
    exact ⟨t, e, keeps_step h0 k⟩
  · obtain ⟨t, e, k⟩ := execDramRequest_keeps
    exact ⟨t, e, keeps_step h0 k⟩
  · obtain ⟨t, e, k⟩ := execCommandSlot_keeps
    exact ⟨t, e, keeps_step h0 k⟩
  · obtain ⟨t, e, k⟩ := execDramReadComplete_keeps
    exact ⟨t, e, keeps_step h0 k⟩
  · obtain ⟨t, e, k⟩ := execDramWriteArrival_keeps
    exact ⟨t, e, keeps_step h0 k⟩
  · obtain ⟨t, e, k⟩ := execAlertN_keeps
    exact ⟨t, e, keeps_step h0 k⟩
  · obtain ⟨t, e, k⟩ := execRefreshTimer_keeps
    exact ⟨t, e, keeps_step h0 k⟩
  · obtain ⟨t, e, k⟩ := execZqcsTimer_keeps
    exact ⟨t, e, keeps_step h0 k⟩
  · obtain ⟨t, e, k⟩ := execDieTempSample_keeps
    exact ⟨t, e, keeps_step h0 k⟩
  · obtain ⟨t, e, k⟩ := execInitFill_keeps
    exact ⟨t, e, keeps_step h0 k⟩
  · obtain ⟨t, e, k⟩ := execInitFillDone_keeps
    exact ⟨t, e, keeps_step h0 k⟩
  · obtain ⟨t, e, k⟩ := execSelfRefreshRequest_keeps
    exact ⟨t, e, keeps_step h0 k⟩
  · obtain ⟨t, e, k⟩ := execSelfRefreshEntered_keeps
    exact ⟨t, e, keeps_step h0 k⟩
  · obtain ⟨t, e, k⟩ := execSelfRefreshExit_keeps
    exact ⟨t, e, keeps_step h0 k⟩
  · obtain ⟨t, e, k⟩ := execGranaryErrlogPop_keeps
    exact ⟨t, e, keeps_step h0 k⟩
  · obtain ⟨t, e, k⟩ := execDecoderBlock_keeps
    exact ⟨t, e, keeps_step h0 k⟩
  · obtain ⟨t, e, k⟩ := execEndOfPageBlock_keeps
    exact ⟨t, e, keeps_step h0 k⟩
  · obtain ⟨t, e, k⟩ := execHuntResync_keeps
    exact ⟨t, e, keeps_step h0 k⟩
  · obtain ⟨t, e, k⟩ := execDecoderEnable_keeps
    exact ⟨t, e, keeps_step h0 k⟩
  · obtain ⟨t, e, k⟩ := execDecoderDisable_keeps
    exact ⟨t, e, keeps_step h0 k⟩
  · obtain ⟨t, e, k⟩ := execEncoderEnable_keeps
    exact ⟨t, e, keeps_step h0 k⟩
  · obtain ⟨t, e, k⟩ := execEncoderDisable_keeps
    exact ⟨t, e, keeps_step h0 k⟩
  · obtain ⟨t, e, k⟩ := execEncoderFlush_keeps
    exact ⟨t, e, keeps_step h0 k⟩
  · obtain ⟨t, e, k⟩ := execEncoderLine_keeps
    exact ⟨t, e, keeps_step h0 k⟩
  · obtain ⟨t, e, k⟩ := execMillerResultPop_keeps
    exact ⟨t, e, keeps_step h0 k⟩
  · obtain ⟨t, e, k⟩ := execSlotOpen_keeps
    exact ⟨t, e, keeps_step h0 k⟩
  · obtain ⟨t, e, k⟩ := execScreeningPassStart_keeps
    exact ⟨t, e, keeps_step h0 k⟩
  · obtain ⟨t, e, k⟩ := execScreeningPassEnd_keeps
    exact ⟨t, e, keeps_step h0 k⟩
  · obtain ⟨t, e, k⟩ := execRecompute_keeps
    exact ⟨t, e, keeps_step h0 k⟩
  · obtain ⟨t, e, k⟩ := execRecomputeFailure_keeps
    exact ⟨t, e, keeps_step h0 k⟩
  · obtain ⟨t, e, k⟩ := execTakeDeadline_keeps
    exact ⟨t, e, keeps_step h0 k⟩
  · obtain ⟨t, e, k⟩ := execMaskBankFlip_keeps
    exact ⟨t, e, keeps_step h0 k⟩
  · obtain ⟨t, e, k⟩ := execNozzleRetirement_keeps
    exact ⟨t, e, keeps_step h0 k⟩
  · obtain ⟨t, e, k⟩ := execNozzleReadmitEffect_keeps
    exact ⟨t, e, keeps_step h0 k⟩
  · obtain ⟨t, e, k⟩ := execOverlapWrite_keeps
    exact ⟨t, e, keeps_step h0 k⟩
  · obtain ⟨t, e, k⟩ := execHcEnable_keeps
    exact ⟨t, e, keeps_step h0 k⟩
  · obtain ⟨t, e, k⟩ := execHcDisable_keeps
    exact ⟨t, e, keeps_step h0 k⟩
  · obtain ⟨t, e, k⟩ := execCodeFrameForm_keeps
    exact ⟨t, e, keeps_step h0 k⟩
  · obtain ⟨t, e, k⟩ := execFrameShiftStart_keeps
    exact ⟨t, e, keeps_step h0 k⟩
  · obtain ⟨t, e, k⟩ := execLatchPulse_keeps
    exact ⟨t, e, keeps_step h0 k⟩
  · obtain ⟨t, e, k⟩ := execTableFrameSend_keeps
    exact ⟨t, e, keeps_step h0 k⟩
  · obtain ⟨t, e, k⟩ := execFireTime_keeps
    exact ⟨t, e, keeps_step h0 k⟩
  · obtain ⟨t, e, k⟩ := execCombRunEnd_keeps
    exact ⟨t, e, keeps_step h0 k⟩
  · obtain ⟨t, e, k⟩ := execLateFireEvent_keeps
    exact ⟨t, e, keeps_step h0 k⟩
  · obtain ⟨t, e, k⟩ := execFrameErrorReshift_keeps
    exact ⟨t, e, keeps_step h0 k⟩
  · obtain ⟨t, e, k⟩ := execCombBankFlip_keeps
    exact ⟨t, e, keeps_step h0 k⟩
  · obtain ⟨t, e, k⟩ := execTempStaleTimeout_keeps
    exact ⟨t, e, keeps_step h0 k⟩
  · obtain ⟨t, e, k⟩ := execWarmupComplete_keeps
    exact ⟨t, e, keeps_step h0 k⟩
  · obtain ⟨t, e, k⟩ := execScanArm_keeps
    exact ⟨t, e, keeps_step h0 k⟩
  · obtain ⟨t, e, k⟩ := execSosEdge_keeps
    exact ⟨t, e, keeps_step h0 k⟩
  · obtain ⟨t, e, k⟩ := execEncoderCount_keeps
    exact ⟨t, e, keeps_step h0 k⟩
  · obtain ⟨t, e, k⟩ := execIndex_keeps
    exact ⟨t, e, keeps_step h0 k⟩
  · obtain ⟨t, e, k⟩ := execIndexCorrectionCount_keeps
    exact ⟨t, e, keeps_step h0 k⟩
  · obtain ⟨t, e, k⟩ := execIndexRearm_keeps
    exact ⟨t, e, keeps_step h0 k⟩
  · obtain ⟨t, e, k⟩ := execSpeedWindowUpdate_keeps
    exact ⟨t, e, keeps_step h0 k⟩
  · obtain ⟨t, e, k⟩ := execStandstillTimeout_keeps
    exact ⟨t, e, keeps_step h0 k⟩
  · obtain ⟨t, e, k⟩ := execLossOfSignal_keeps
    exact ⟨t, e, keeps_step h0 k⟩
  · obtain ⟨t, e, k⟩ := execSsiFrameStart_keeps
    exact ⟨t, e, keeps_step h0 k⟩
  · obtain ⟨t, e, k⟩ := execSsiFrameReceived_keeps
    exact ⟨t, e, keeps_step h0 k⟩
  · obtain ⟨t, e, k⟩ := execMarkEdge_keeps
    exact ⟨t, e, keeps_step h0 k⟩
  · obtain ⟨t, e, k⟩ := execMarkFifoPop_keeps
    exact ⟨t, e, keeps_step h0 k⟩
  · obtain ⟨t, e, k⟩ := execHomeEdge_keeps
    exact ⟨t, e, keeps_step h0 k⟩
  · obtain ⟨t, e, k⟩ := execComparePulseEnd_keeps
    exact ⟨t, e, keeps_step h0 k⟩
  · obtain ⟨t, e, k⟩ := execTableEntryStore_keeps
    exact ⟨t, e, keeps_step h0 k⟩
  · obtain ⟨t, e, k⟩ := execCompareRestart_keeps
    exact ⟨t, e, keeps_step h0 k⟩
  · obtain ⟨t, e, k⟩ := execLoopEnable_keeps
    exact ⟨t, e, keeps_step h0 k⟩
  · obtain ⟨t, e, k⟩ := execLoopDisable_keeps
    exact ⟨t, e, keeps_step h0 k⟩
  · obtain ⟨t, e, k⟩ := execLoopUpdate_keeps
    exact ⟨t, e, keeps_step h0 k⟩
  · obtain ⟨t, e, k⟩ := execRunStart_keeps
    exact ⟨t, e, keeps_step h0 k⟩
  · obtain ⟨t, e, k⟩ := execRunStop_keeps
    exact ⟨t, e, keeps_step h0 k⟩
  · obtain ⟨t, e, k⟩ := execRowFire_keeps
    exact ⟨t, e, keeps_step h0 k⟩
  · obtain ⟨t, e, k⟩ := execMarkTake_keeps
    exact ⟨t, e, keeps_step h0 k⟩
  · obtain ⟨t, e, k⟩ := execHcRetireRequest_keeps
    exact ⟨t, e, keeps_step h0 k⟩
  · obtain ⟨t, e, k⟩ := execHcReadmitRequest_keeps
    exact ⟨t, e, keeps_step h0 k⟩
  · obtain ⟨t, e, k⟩ := execNozzleRetireRequest_keeps
    exact ⟨t, e, keeps_step h0 k⟩
  · obtain ⟨t, e, k⟩ := execSafeStopRequest_keeps
    exact ⟨t, e, keeps_step h0 k⟩
  · obtain ⟨t, e, k⟩ := execSafeStopClear_keeps
    exact ⟨t, e, keeps_step h0 k⟩
  · obtain ⟨t, e, k⟩ := execCameraArm_keeps
    exact ⟨t, e, keeps_step h0 k⟩
  · obtain ⟨t, e, k⟩ := execCameraDisarm_keeps
    exact ⟨t, e, keeps_step h0 k⟩
  · obtain ⟨t, e, k⟩ := execSoftwareTrigger_keeps
    exact ⟨t, e, keeps_step h0 k⟩
  · obtain ⟨t, e, k⟩ := execTriggerPulseEnd_keeps
    exact ⟨t, e, keeps_step h0 k⟩
  · obtain ⟨t, e, k⟩ := execCameraLine_keeps
    exact ⟨t, e, keeps_step h0 k⟩
  · obtain ⟨t, e, k⟩ := execLineTimeout_keeps
    exact ⟨t, e, keeps_step h0 k⟩
  · obtain ⟨t, e, k⟩ := execPclkStop_keeps
    exact ⟨t, e, keeps_step h0 k⟩
  · obtain ⟨t, e, k⟩ := execCameraPortReadmit_keeps
    exact ⟨t, e, keeps_step h0 k⟩
  · obtain ⟨t, e, k⟩ := execSerialByteReceived_keeps
    exact ⟨t, e, keeps_step h0 k⟩
  · obtain ⟨t, e, k⟩ := execSerialDataAccess_keeps
    exact ⟨t, e, keeps_step h0 k⟩
  · obtain ⟨t, e, k⟩ := execSerialByteSent_keeps
    exact ⟨t, e, keeps_step h0 k⟩
  · obtain ⟨t, e, k⟩ := execPipelineLine_keeps
    exact ⟨t, e, keeps_step h0 k⟩
  · obtain ⟨t, e, k⟩ := execCamNozzleRetire_keeps
    exact ⟨t, e, keeps_step h0 k⟩
  · obtain ⟨t, e, k⟩ := execCamTableAccess_keeps
    exact ⟨t, e, keeps_step h0 k⟩
  · obtain ⟨t, e, k⟩ := execLadderVerdict_keeps
    exact ⟨t, e, keeps_step h0 k⟩
  · obtain ⟨t, e, k⟩ := execColumnProposal_keeps
    exact ⟨t, e, keeps_step h0 k⟩
  · obtain ⟨t, e, k⟩ := execAdcConversion_keeps
    exact ⟨t, e, keeps_step h0 k⟩
  · obtain ⟨t, e, k⟩ := execAdcZero_keeps
    exact ⟨t, e, keeps_step h0 k⟩
  · obtain ⟨t, e, k⟩ := execPathCalibration_keeps
    exact ⟨t, e, keeps_step h0 k⟩
  · obtain ⟨t, e, k⟩ := execCalibrationCycle_keeps
    exact ⟨t, e, keeps_step h0 k⟩
  · obtain ⟨t, e, k⟩ := execCalibrationSlot_keeps
    exact ⟨t, e, keeps_step h0 k⟩
  · obtain ⟨t, e, k⟩ := execTrimStep_keeps
    exact ⟨t, e, keeps_step h0 k⟩
  · obtain ⟨t, e, k⟩ := execTrimTargetWrite_keeps
    exact ⟨t, e, keeps_step h0 k⟩
  · obtain ⟨t, e, k⟩ := execMotionUpdate_keeps
    exact ⟨t, e, keeps_step h0 k⟩
  · obtain ⟨t, e, k⟩ := execCurrentSample_keeps
    exact ⟨t, e, keeps_step h0 k⟩
  · obtain ⟨t, e, k⟩ := execBridgeFault_keeps
    exact ⟨t, e, keeps_step h0 k⟩
  · obtain ⟨t, e, k⟩ := execAxisEnable_keeps
    exact ⟨t, e, keeps_step h0 k⟩
  · obtain ⟨t, e, k⟩ := execAxisDisable_keeps
    exact ⟨t, e, keeps_step h0 k⟩
  · obtain ⟨t, e, k⟩ := execAxisLink_keeps
    exact ⟨t, e, keeps_step h0 k⟩
  · obtain ⟨t, e, k⟩ := execMoveToTarget_keeps
    exact ⟨t, e, keeps_step h0 k⟩
  · obtain ⟨t, e, k⟩ := execStopAtDmax_keeps
    exact ⟨t, e, keeps_step h0 k⟩
  · obtain ⟨t, e, k⟩ := execQuickStop_keeps
    exact ⟨t, e, keeps_step h0 k⟩
  · obtain ⟨t, e, k⟩ := execHomeAxis_keeps
    exact ⟨t, e, keeps_step h0 k⟩
  · obtain ⟨t, e, k⟩ := execEngageGearing_keeps
    exact ⟨t, e, keeps_step h0 k⟩
  · obtain ⟨t, e, k⟩ := execDisengageGearing_keeps
    exact ⟨t, e, keeps_step h0 k⟩
  · obtain ⟨t, e, k⟩ := execSetPosition_keeps
    exact ⟨t, e, keeps_step h0 k⟩
  · obtain ⟨t, e, k⟩ := execRatioChangeArm_keeps
    exact ⟨t, e, keeps_step h0 k⟩
  · obtain ⟨t, e, k⟩ := execEthernetFrame_keeps
    exact ⟨t, e, keeps_step h0 k⟩
  · obtain ⟨t, e, k⟩ := execPtpEventMessage_keeps
    exact ⟨t, e, keeps_step h0 k⟩
  · obtain ⟨t, e, k⟩ := execRead_keeps
    exact ⟨t, e, keeps_step h0 k⟩
  · obtain ⟨t, e, k⟩ := execWrite_keeps
    exact ⟨t, e, keeps_step h0 k⟩
  · obtain ⟨t, e, k⟩ := execSegRead_keeps
    exact ⟨t, e, keeps_step h0 k⟩
  · obtain ⟨t, e, k⟩ := execSegWriteInit_keeps
    exact ⟨t, e, keeps_step h0 k⟩
  · obtain ⟨t, e, k⟩ := execSegWrite_keeps
    exact ⟨t, e, keeps_step h0 k⟩
  · obtain ⟨t, e, k⟩ := execSegAbort_keeps
    exact ⟨t, e, keeps_step h0 k⟩
  · obtain ⟨t, e, k⟩ := execSegTransferTimeout_keeps
    exact ⟨t, e, keeps_step h0 k⟩
  · obtain ⟨t, e, k⟩ := execGroupOpen_keeps
    exact ⟨t, e, keeps_step h0 k⟩
  · obtain ⟨t, e, k⟩ := execGroupStage_keeps
    exact ⟨t, e, keeps_step h0 k⟩
  · obtain ⟨t, e, k⟩ := execGroupArm_keeps
    exact ⟨t, e, keeps_step h0 k⟩
  · obtain ⟨t, e, k⟩ := execGroupDiscard_keeps
    exact ⟨t, e, keeps_step h0 k⟩
  · obtain ⟨t, e, k⟩ := execGroupStatus_keeps
    exact ⟨t, e, keeps_step h0 k⟩
  · obtain ⟨t, e, k⟩ := execGroupLanding_keeps
    exact ⟨t, e, keeps_step h0 k⟩
  · obtain ⟨t, e, k⟩ := execGroupApplied_keeps
    exact ⟨t, e, keeps_step h0 k⟩
  · obtain ⟨t, e, k⟩ := execGroupExpiry_keeps
    exact ⟨t, e, keeps_step h0 k⟩
  · obtain ⟨t, e, k⟩ := execSnapshot_keeps
    exact ⟨t, e, keeps_step h0 k⟩
  · obtain ⟨t, e, k⟩ := execSubscribe_keeps
    exact ⟨t, e, keeps_step h0 k⟩
  · obtain ⟨t, e, k⟩ := execUnsubscribe_keeps
    exact ⟨t, e, keeps_step h0 k⟩
  · obtain ⟨t, e, k⟩ := execEventAck_keeps
    exact ⟨t, e, keeps_step h0 k⟩
  · obtain ⟨t, e, k⟩ := execEventFrameSend_keeps
    exact ⟨t, e, keeps_step h0 k⟩
  · obtain ⟨t, e, k⟩ := execEventResendTimer_keeps
    exact ⟨t, e, keeps_step h0 k⟩
  · obtain ⟨t, e, k⟩ := execSubscriberTimeout_keeps
    exact ⟨t, e, keeps_step h0 k⟩
  · obtain ⟨t, e, k⟩ := execPageArm_keeps
    exact ⟨t, e, keeps_step h0 k⟩
  · obtain ⟨t, e, k⟩ := execPageDisarm_keeps
    exact ⟨t, e, keeps_step h0 k⟩
  · obtain ⟨t, e, k⟩ := execSettingsSave_keeps
    exact ⟨t, e, keeps_step h0 k⟩
  · obtain ⟨t, e, k⟩ := execHello_keeps
    exact ⟨t, e, keeps_step h0 k⟩
  · obtain ⟨t, e, k⟩ := execClientAuth_keeps
    exact ⟨t, e, keeps_step h0 k⟩
  · obtain ⟨t, e, k⟩ := execClose_keeps
    exact ⟨t, e, keeps_step h0 k⟩
  · obtain ⟨t, e, k⟩ := execAttest_keeps
    exact ⟨t, e, keeps_step h0 k⟩
  · obtain ⟨t, e, k⟩ := execAuthTimeout_keeps
    exact ⟨t, e, keeps_step h0 k⟩
  · obtain ⟨t, e, k⟩ := execSessionIdleTimeout_keeps
    exact ⟨t, e, keeps_step h0 k⟩
  · obtain ⟨t, e, k⟩ := execStandbyRequest_keeps
    exact ⟨t, e, keeps_step h0 k⟩
  · obtain ⟨t, e, k⟩ := execReadyRequest_keeps
    exact ⟨t, e, keeps_step h0 k⟩
  · obtain ⟨t, e, k⟩ := execPowerDormantRequest_keeps
    exact ⟨t, e, keeps_step h0 k⟩
  · obtain ⟨t, e, k⟩ := execWakeInput_keeps
    exact ⟨t, e, keeps_step h0 k⟩
  · obtain ⟨t, e, k⟩ := execRtcAlarm_keeps
    exact ⟨t, e, keeps_step h0 k⟩
  · obtain ⟨t, e, k⟩ := execWatchmanWriteLand_keeps
    exact ⟨t, e, keeps_step h0 k⟩
  · obtain ⟨t, e, k⟩ := execRtcSync_keeps
    exact ⟨t, e, keeps_step h0 k⟩
  · obtain ⟨t, e, k⟩ := execVbatLoss_keeps
    exact ⟨t, e, keeps_step h0 k⟩
  · obtain ⟨t, e, k⟩ := execPorn_keeps
    exact ⟨t, e, keeps_step h0 k⟩
  · obtain ⟨t, e, k⟩ := execRstn_keeps
    exact ⟨t, e, keeps_step h0 k⟩
  · obtain ⟨t, e, k⟩ := execSoftwareWarmReset_keeps
    exact ⟨t, e, keeps_step h0 k⟩
  · obtain ⟨t, e, k⟩ := execStartUpComplete_keeps
    exact ⟨t, e, keeps_step h0 k⟩
  · obtain ⟨t, e, k⟩ := execPllLockLoss_keeps
    exact ⟨t, e, keeps_step h0 k⟩
  · obtain ⟨t, e, k⟩ := execPllRelock_keeps
    exact ⟨t, e, keeps_step h0 k⟩
  · obtain ⟨t, e, k⟩ := execDroopStretch_keeps
    exact ⟨t, e, keeps_step h0 k⟩
  · obtain ⟨t, e, k⟩ := execSagFallback_keeps
    exact ⟨t, e, keeps_step h0 k⟩
  · obtain ⟨t, e, k⟩ := execSagRecover_keeps
    exact ⟨t, e, keeps_step h0 k⟩
  · obtain ⟨t, e, k⟩ := execUndervoltage_keeps
    exact ⟨t, e, keeps_step h0 k⟩
  · obtain ⟨t, e, k⟩ := execSign_keeps
    exact ⟨t, e, keeps_step h0 k⟩
  · obtain ⟨t, e, k⟩ := execSignComplete_keeps
    exact ⟨t, e, keeps_step h0 k⟩
  · obtain ⟨t, e, k⟩ := execActivate_keeps
    exact ⟨t, e, keeps_step h0 k⟩
  · obtain ⟨t, e, k⟩ := execActivationTime_keeps
    exact ⟨t, e, keeps_step h0 k⟩
  · obtain ⟨t, e, k⟩ := execCopyBlock_keeps
    exact ⟨t, e, keeps_step h0 k⟩
  · obtain ⟨t, e, k⟩ := execConfirm_keeps
    exact ⟨t, e, keeps_step h0 k⟩
  · obtain ⟨t, e, k⟩ := execTrialExpiry_keeps
    exact ⟨t, e, keeps_step h0 k⟩
  · obtain ⟨t, e, k⟩ := execFallbackRequest_keeps
    exact ⟨t, e, keeps_step h0 k⟩
  · obtain ⟨t, e, k⟩ := execRevoke_keeps
    exact ⟨t, e, keeps_step h0 k⟩
  · obtain ⟨t, e, k⟩ := execFrameValidEdge_keeps
    exact ⟨t, e, keeps_step h0 k⟩
  · obtain ⟨t, e, k⟩ := execVbatReturn_keeps
    exact ⟨t, e, keeps_step h0 k⟩
  · obtain ⟨t, e, k⟩ := execDroopCleared_keeps
    exact ⟨t, e, keeps_step h0 k⟩
  · obtain ⟨t, e, k⟩ := execEthernetPhyLinkChange_keeps
    exact ⟨t, e, keeps_step h0 k⟩
  · obtain ⟨t, e, k⟩ := execScanKeepwetTick_keeps
    exact ⟨t, e, keeps_step h0 k⟩

end Sys2Proof.Laws
end

