-- ==== Sys2Proof/Laws/KeepsStep.lean ====
section
/-! SUPPORT. What each operation of Machine/Step.lean may change (`Keeps`): the parts of the state and the rows of registers. -/

set_option Elab.async false

namespace Sys2Proof.Laws

open Sys2Proof.Machine

theorem tick_keeps {s : State} :
    Keeps [.now, .highLatch, .halfWrites, .resp, .log, .link, .dma, .granary, .dramValid, .miller, .pend, .landed,
    .weaver, .hcs, .pos, .br, .cam, .cal, .axes, .mot, .eth, .pages, .subs, .lastEvents, .pwr, .flash, .sec, .mem]
    [.any] s (State.tick s) := by
  unfold State.tick
  have h0 : Keeps [.now, .highLatch, .halfWrites, .resp, .log, .link, .dma, .granary, .dramValid, .miller, .pend,
      .landed, .weaver, .hcs, .pos, .br, .cam, .cal, .axes, .mot, .eth, .pages, .subs, .lastEvents, .pwr, .flash,
      .sec, .mem] [.any] s s := keeps_refl
  extract_lets -useContext +onlyGivenNames x1 x3
  have h2 : As h0 x1 := keeps_step h0 noteClocks_keeps
  clear_value x1
  have h4 : As h0 x3 := keeps_now h2 _
  split
  · refine keeps_ite ?_ ?_
    · exact keeps_step h4 wakeUp_keeps
    · exact h4
  · exact h4

end Sys2Proof.Laws
end

