-- ==== Sys2Proof/Laws/PerInstr.lean ====
section
/-! SUPPORT. Every constructor of Instr and the row of spec/opcode_table.json that it stands for. -/

set_option Elab.async false

namespace Sys2Proof.Laws

/-- Rows 1 to 40 of spec/opcode_table.json. -/
def Named.names1 : List String :=
  ["REGISTER_WRITE", "RC_REGISTER_READ", "W1C_EVENT_CLEAR", "WIDE_PAIR_LOW_READ", "LINK_ENABLE", "LINK_DISABLE",
   "SYMBOL_LOCK", "PORT_UP", "LANE_MARKER_SET_RECEIVED", "SKIP_SET_RECEIVED", "EIE_SET_RECEIVED", "PACKET_RECEIVED",
   "STREAM_DATA_PACKET", "MEMORY_WRITE_PACKET", "MEMORY_READ_REQUEST", "MEMORY_READ_COMPLETION",
   "CREDIT_PACKET_RECEIVED", "CREDIT_UPDATE_SEND", "ACK_TIMER_EXPIRY", "NAK_TRANSMIT", "NAK_TIMEOUT", "NAK_RECEIVED",
   "REPLAY_TIMEOUT", "LANE_RETIREMENT", "SYMBOL_LOCK_LOSS", "DESKEW_OVERFLOW", "LINK_RETIRE", "LINK_READMIT",
   "LANE_QUALIFICATION_COMPLETE", "READMIT_ABANDON", "LINK_POWER_REQUEST", "IDLE_TIMER_EXPIRY", "STANDBY_EXIT",
   "LINK_DORMANT_REQUEST", "LINK_DORMANT_ANSWER", "SIGNAL_DETECT_WAKE", "STREAM_BIND_WRITE", "CHANNEL_ENABLE",
   "CHANNEL_DISABLE", "CHANNEL_PAUSE"]

/-- Rows 41 to 80 of spec/opcode_table.json. -/
def Named.names2 : List String :=
  ["CHANNEL_UNPAUSE", "CHANNEL_RESUME", "CHANNEL_SKIP", "DOORBELL", "RING_RESET", "ABORT_REQUEST", "ABORT_COMPLETE",
   "DESCRIPTOR_FETCH", "INVALID_DESCRIPTOR_HALT", "BURST_GRANT", "PACE_TIMEOUT", "BURST_COMPLETE", "WRITE_ARRIVAL",
   "BURST_FAILURE", "LATE_WRITE_FAILURE", "DRAIN_COMPLETE", "CAPTURE_FRAME_START", "GRANARY_INIT", "GRANARY_READY",
   "DELAY_RAM_ACCESS", "DRAM_REQUEST", "COMMAND_SLOT", "DRAM_READ_COMPLETE", "DRAM_WRITE_ARRIVAL", "ALERT_N",
   "REFRESH_TIMER", "ZQCS_TIMER", "DIE_TEMP_SAMPLE", "INIT_FILL", "INIT_FILL_DONE", "SELF_REFRESH_REQUEST",
   "SELF_REFRESH_ENTERED", "SELF_REFRESH_EXIT", "GRANARY_ERRLOG_POP", "DECODER_BLOCK", "END_OF_PAGE_BLOCK",
   "HUNT_RESYNC", "DECODER_ENABLE", "DECODER_DISABLE", "ENCODER_ENABLE"]

/-- Rows 81 to 120 of spec/opcode_table.json. -/
def Named.names3 : List String :=
  ["ENCODER_DISABLE", "ENCODER_FLUSH", "ENCODER_LINE", "MILLER_RESULT_POP", "SLOT_OPEN", "SCREENING_PASS_START",
   "SCREENING_PASS_END", "RECOMPUTE", "RECOMPUTE_FAILURE", "TAKE_DEADLINE", "MASK_BANK_FLIP", "NOZZLE_RETIREMENT",
   "NOZZLE_READMIT_EFFECT", "OVERLAP_WRITE", "HC_ENABLE", "HC_DISABLE", "CODE_FRAME_FORM", "FRAME_SHIFT_START",
   "LATCH_PULSE", "TABLE_FRAME_SEND", "FIRE_TIME", "COMB_RUN_END", "LATE_FIRE_EVENT", "FRAME_ERROR_RESHIFT",
   "COMB_BANK_FLIP", "TEMP_STALE_TIMEOUT", "WARMUP_COMPLETE", "SCAN_ARM", "SOS_EDGE", "ENCODER_COUNT", "INDEX",
   "INDEX_CORRECTION_COUNT", "INDEX_REARM", "SPEED_WINDOW_UPDATE", "STANDSTILL_TIMEOUT", "LOSS_OF_SIGNAL",
   "SSI_FRAME_START", "SSI_FRAME_RECEIVED", "MARK_EDGE", "MARK_FIFO_POP"]

/-- Rows 121 to 160 of spec/opcode_table.json. -/
def Named.names4 : List String :=
  ["HOME_EDGE", "COMPARE_PULSE_END", "TABLE_ENTRY_STORE", "COMPARE_RESTART", "LOOP_ENABLE", "LOOP_DISABLE",
   "LOOP_UPDATE", "RUN_START", "RUN_STOP", "ROW_FIRE", "MARK_TAKE", "HC_RETIRE_REQUEST", "HC_READMIT_REQUEST",
   "NOZZLE_RETIRE_REQUEST", "SAFE_STOP_REQUEST", "SAFE_STOP_CLEAR", "CAMERA_ARM", "CAMERA_DISARM",
   "SOFTWARE_TRIGGER", "TRIGGER_PULSE_END", "CAMERA_LINE", "LINE_TIMEOUT", "PCLK_STOP", "CAMERA_PORT_READMIT",
   "SERIAL_BYTE_RECEIVED", "SERIAL_DATA_ACCESS", "SERIAL_BYTE_SENT", "PIPELINE_LINE", "CAM_NOZZLE_RETIRE",
   "CAM_TABLE_ACCESS", "LADDER_VERDICT", "COLUMN_PROPOSAL", "ADC_CONVERSION", "ADC_ZERO", "PATH_CALIBRATION",
   "CALIBRATION_CYCLE", "CALIBRATION_SLOT", "TRIM_STEP", "TRIM_TARGET_WRITE", "MOTION_UPDATE"]

/-- Rows 161 to 200 of spec/opcode_table.json. -/
def Named.names5 : List String :=
  ["CURRENT_SAMPLE", "BRIDGE_FAULT", "AXIS_ENABLE", "AXIS_DISABLE", "AXIS_LINK", "MOVE_TO_TARGET", "STOP_AT_DMAX",
   "QUICK_STOP", "HOME_AXIS", "ENGAGE_GEARING", "DISENGAGE_GEARING", "SET_POSITION", "RATIO_CHANGE_ARM",
   "ETHERNET_FRAME", "PTP_EVENT_MESSAGE", "READ", "WRITE", "SEG_READ", "SEG_WRITE_INIT", "SEG_WRITE", "SEG_ABORT",
   "SEG_TRANSFER_TIMEOUT", "GROUP_OPEN", "GROUP_STAGE", "GROUP_ARM", "GROUP_DISCARD", "GROUP_STATUS",
   "GROUP_LANDING", "GROUP_APPLIED", "GROUP_EXPIRY", "SNAPSHOT", "SUBSCRIBE", "UNSUBSCRIBE", "EVENT_ACK",
   "EVENT_FRAME_SEND", "EVENT_RESEND_TIMER", "SUBSCRIBER_TIMEOUT", "PAGE_ARM", "PAGE_DISARM", "SETTINGS_SAVE"]

/-- Rows 201 to 238 of spec/opcode_table.json. -/
def Named.names6 : List String :=
  ["HELLO", "CLIENT_AUTH", "CLOSE", "ATTEST", "AUTH_TIMEOUT", "SESSION_IDLE_TIMEOUT", "STANDBY_REQUEST",
   "READY_REQUEST", "POWER_DORMANT_REQUEST", "WAKE_INPUT", "RTC_ALARM", "WATCHMAN_WRITE_LAND", "RTC_SYNC",
   "VBAT_LOSS", "PORN", "RSTN", "SOFTWARE_WARM_RESET", "START_UP_COMPLETE", "PLL_LOCK_LOSS", "PLL_RELOCK",
   "DROOP_STRETCH", "SAG_FALLBACK", "SAG_RECOVER", "UNDERVOLTAGE", "SIGN", "SIGN_COMPLETE", "ACTIVATE",
   "ACTIVATION_TIME", "COPY_BLOCK", "CONFIRM", "TRIAL_EXPIRY", "FALLBACK_REQUEST", "REVOKE", "FRAME_VALID_EDGE",
   "VBAT_RETURN", "DROOP_CLEARED", "ETHERNET_PHY_LINK_CHANGE", "SCAN_KEEPWET_TICK"]

/-- The mnemonics of spec/opcode_table.json in the order of the constructors. -/
def Named.names : List String :=
  Named.names1 ++ Named.names2 ++ Named.names3 ++ Named.names4 ++ Named.names5 ++ Named.names6

/-- The mnemonic of a command. -/
def Named.name (i : Instr) : String :=
  match i with
  | .registerWrite _ _ _ => "REGISTER_WRITE"
  | .rcRegisterRead _ _ _ _ => "RC_REGISTER_READ"
  | .w1cEventClear _ _ _ _ => "W1C_EVENT_CLEAR"
  | .widePairLowRead _ _ => "WIDE_PAIR_LOW_READ"
  | .linkEnable _ _ => "LINK_ENABLE"
  | .linkDisable _ _ => "LINK_DISABLE"
  | .symbolLock _ _ => "SYMBOL_LOCK"
  | .portUp _ _ => "PORT_UP"
  | .laneMarkerSetReceived _ _ _ _ _ _ _ => "LANE_MARKER_SET_RECEIVED"
  | .skipSetReceived _ _ => "SKIP_SET_RECEIVED"
  | .eieSetReceived _ => "EIE_SET_RECEIVED"
  | .packetReceived _ _ => "PACKET_RECEIVED"
  | .streamDataPacket _ => "STREAM_DATA_PACKET"
  | .memoryWritePacket _ => "MEMORY_WRITE_PACKET"
  | .memoryReadRequest _ => "MEMORY_READ_REQUEST"
  | .memoryReadCompletion _ => "MEMORY_READ_COMPLETION"
  | .creditPacketReceived _ => "CREDIT_PACKET_RECEIVED"
  | .creditUpdateSend _ => "CREDIT_UPDATE_SEND"
  | .ackTimerExpiry _ => "ACK_TIMER_EXPIRY"
  | .nakTransmit _ => "NAK_TRANSMIT"
  | .nakTimeout _ => "NAK_TIMEOUT"
  | .nakReceived _ => "NAK_RECEIVED"
  | .replayTimeout _ => "REPLAY_TIMEOUT"
  | .laneRetirement _ _ _ => "LANE_RETIREMENT"
  | .symbolLockLoss _ => "SYMBOL_LOCK_LOSS"
  | .deskewOverflow _ => "DESKEW_OVERFLOW"
  | .linkRetire _ _ => "LINK_RETIRE"
  | .linkReadmit _ _ => "LINK_READMIT"
  | .laneQualificationComplete _ _ => "LANE_QUALIFICATION_COMPLETE"
  | .readmitAbandon _ _ _ => "READMIT_ABANDON"
  | .linkPowerRequest _ _ => "LINK_POWER_REQUEST"
  | .idleTimerExpiry _ => "IDLE_TIMER_EXPIRY"
  | .standbyExit _ => "STANDBY_EXIT"
  | .linkDormantRequest _ => "LINK_DORMANT_REQUEST"
  | .linkDormantAnswer _ => "LINK_DORMANT_ANSWER"
  | .signalDetectWake _ => "SIGNAL_DETECT_WAKE"
  | .streamBindWrite _ _ => "STREAM_BIND_WRITE"
  | .channelEnable _ _ _ => "CHANNEL_ENABLE"
  | .channelDisable _ _ _ => "CHANNEL_DISABLE"
  | .channelPause _ _ _ => "CHANNEL_PAUSE"
  | .channelUnpause _ _ _ => "CHANNEL_UNPAUSE"
  | .channelResume _ _ _ => "CHANNEL_RESUME"
  | .channelSkip _ _ _ => "CHANNEL_SKIP"
  | .doorbell _ _ => "DOORBELL"
  | .ringReset _ _ _ => "RING_RESET"
  | .abortRequest _ _ _ => "ABORT_REQUEST"
  | .abortComplete _ => "ABORT_COMPLETE"
  | .descriptorFetch _ => "DESCRIPTOR_FETCH"
  | .invalidDescriptorHalt _ => "INVALID_DESCRIPTOR_HALT"
  | .burstGrant => "BURST_GRANT"
  | .paceTimeout _ => "PACE_TIMEOUT"
  | .burstComplete _ => "BURST_COMPLETE"
  | .writeArrival _ => "WRITE_ARRIVAL"
  | .burstFailure _ => "BURST_FAILURE"
  | .lateWriteFailure _ => "LATE_WRITE_FAILURE"
  | .drainComplete _ => "DRAIN_COMPLETE"
  | .captureFrameStart _ => "CAPTURE_FRAME_START"
  | .granaryInit _ _ => "GRANARY_INIT"
  | .granaryReady _ => "GRANARY_READY"
  | .delayRamAccess _ _ => "DELAY_RAM_ACCESS"
  | .dramRequest _ _ _ _ => "DRAM_REQUEST"
  | .commandSlot _ _ => "COMMAND_SLOT"
  | .dramReadComplete _ _ => "DRAM_READ_COMPLETE"
  | .dramWriteArrival _ => "DRAM_WRITE_ARRIVAL"
  | .alertN _ => "ALERT_N"
  | .refreshTimer _ _ => "REFRESH_TIMER"
  | .zqcsTimer => "ZQCS_TIMER"
  | .dieTempSample _ => "DIE_TEMP_SAMPLE"
  | .initFill _ _ => "INIT_FILL"
  | .initFillDone => "INIT_FILL_DONE"
  | .selfRefreshRequest _ _ => "SELF_REFRESH_REQUEST"
  | .selfRefreshEntered => "SELF_REFRESH_ENTERED"
  | .selfRefreshExit _ _ => "SELF_REFRESH_EXIT"
  | .granaryErrlogPop _ => "GRANARY_ERRLOG_POP"
  | .decoderBlock _ _ => "DECODER_BLOCK"
  | .endOfPageBlock _ _ => "END_OF_PAGE_BLOCK"
  | .huntResync _ => "HUNT_RESYNC"
  | .decoderEnable _ _ _ => "DECODER_ENABLE"
  | .decoderDisable _ _ _ => "DECODER_DISABLE"
  | .encoderEnable _ _ _ => "ENCODER_ENABLE"
  | .encoderDisable _ _ _ => "ENCODER_DISABLE"
  | .encoderFlush _ _ _ => "ENCODER_FLUSH"
  | .encoderLine _ => "ENCODER_LINE"
  | .millerResultPop _ _ => "MILLER_RESULT_POP"
  | .slotOpen _ _ => "SLOT_OPEN"
  | .screeningPassStart _ _ => "SCREENING_PASS_START"
  | .screeningPassEnd _ _ => "SCREENING_PASS_END"
  | .recompute _ => "RECOMPUTE"
  | .recomputeFailure _ => "RECOMPUTE_FAILURE"
  | .takeDeadline _ _ => "TAKE_DEADLINE"
  | .maskBankFlip _ => "MASK_BANK_FLIP"
  | .nozzleRetirement _ _ => "NOZZLE_RETIREMENT"
  | .nozzleReadmitEffect => "NOZZLE_READMIT_EFFECT"
  | .overlapWrite _ _ _ => "OVERLAP_WRITE"
  | .hcEnable _ _ _ => "HC_ENABLE"
  | .hcDisable _ _ _ => "HC_DISABLE"
  | .codeFrameForm _ _ _ _ _ => "CODE_FRAME_FORM"
  | .frameShiftStart _ => "FRAME_SHIFT_START"
  | .latchPulse _ => "LATCH_PULSE"
  | .tableFrameSend _ => "TABLE_FRAME_SEND"
  | .fireTime _ _ => "FIRE_TIME"
  | .combRunEnd _ _ => "COMB_RUN_END"
  | .lateFireEvent _ _ => "LATE_FIRE_EVENT"
  | .frameErrorReshift _ => "FRAME_ERROR_RESHIFT"
  | .combBankFlip _ => "COMB_BANK_FLIP"
  | .tempStaleTimeout _ => "TEMP_STALE_TIMEOUT"
  | .warmupComplete _ => "WARMUP_COMPLETE"
  | .scanArm _ _ _ => "SCAN_ARM"
  | .sosEdge _ _ _ => "SOS_EDGE"
  | .encoderCount _ _ _ => "ENCODER_COUNT"
  | .index _ _ => "INDEX"
  | .indexCorrectionCount => "INDEX_CORRECTION_COUNT"
  | .indexRearm _ _ _ => "INDEX_REARM"
  | .speedWindowUpdate _ => "SPEED_WINDOW_UPDATE"
  | .standstillTimeout _ => "STANDSTILL_TIMEOUT"
  | .lossOfSignal _ _ => "LOSS_OF_SIGNAL"
  | .ssiFrameStart _ => "SSI_FRAME_START"
  | .ssiFrameReceived _ _ _ _ => "SSI_FRAME_RECEIVED"
  | .markEdge _ _ => "MARK_EDGE"
  | .markFifoPop _ _ => "MARK_FIFO_POP"
  | .homeEdge _ _ => "HOME_EDGE"
  | .comparePulseEnd _ => "COMPARE_PULSE_END"
  | .tableEntryStore _ _ => "TABLE_ENTRY_STORE"
  | .compareRestart _ _ _ => "COMPARE_RESTART"
  | .loopEnable _ _ => "LOOP_ENABLE"
  | .loopDisable _ _ => "LOOP_DISABLE"
  | .loopUpdate => "LOOP_UPDATE"
  | .runStart _ _ => "RUN_START"
  | .runStop _ _ => "RUN_STOP"
  | .rowFire _ _ => "ROW_FIRE"
  | .markTake => "MARK_TAKE"
  | .hcRetireRequest _ _ => "HC_RETIRE_REQUEST"
  | .hcReadmitRequest _ _ => "HC_READMIT_REQUEST"
  | .nozzleRetireRequest _ _ => "NOZZLE_RETIRE_REQUEST"
  | .safeStopRequest _ _ => "SAFE_STOP_REQUEST"
  | .safeStopClear _ _ => "SAFE_STOP_CLEAR"
  | .cameraArm _ _ _ => "CAMERA_ARM"
  | .cameraDisarm _ _ _ => "CAMERA_DISARM"
  | .softwareTrigger _ _ _ => "SOFTWARE_TRIGGER"
  | .triggerPulseEnd _ => "TRIGGER_PULSE_END"
  | .cameraLine _ _ _ _ _ _ => "CAMERA_LINE"
  | .lineTimeout _ => "LINE_TIMEOUT"
  | .pclkStop _ => "PCLK_STOP"
  | .cameraPortReadmit _ _ => "CAMERA_PORT_READMIT"
  | .serialByteReceived _ _ => "SERIAL_BYTE_RECEIVED"
  | .serialDataAccess _ _ _ => "SERIAL_DATA_ACCESS"
  | .serialByteSent _ => "SERIAL_BYTE_SENT"
  | .pipelineLine _ => "PIPELINE_LINE"
  | .camNozzleRetire _ _ => "CAM_NOZZLE_RETIRE"
  | .camTableAccess _ _ => "CAM_TABLE_ACCESS"
  | .ladderVerdict _ => "LADDER_VERDICT"
  | .columnProposal => "COLUMN_PROPOSAL"
  | .adcConversion _ => "ADC_CONVERSION"
  | .adcZero _ => "ADC_ZERO"
  | .pathCalibration => "PATH_CALIBRATION"
  | .calibrationCycle => "CALIBRATION_CYCLE"
  | .calibrationSlot _ => "CALIBRATION_SLOT"
  | .trimStep _ => "TRIM_STEP"
  | .trimTargetWrite _ _ _ => "TRIM_TARGET_WRITE"
  | .motionUpdate => "MOTION_UPDATE"
  | .currentSample _ _ _ => "CURRENT_SAMPLE"
  | .bridgeFault _ => "BRIDGE_FAULT"
  | .axisEnable _ _ _ => "AXIS_ENABLE"
  | .axisDisable _ _ _ => "AXIS_DISABLE"
  | .axisLink _ _ => "AXIS_LINK"
  | .moveToTarget _ _ => "MOVE_TO_TARGET"
  | .stopAtDmax _ _ => "STOP_AT_DMAX"
  | .quickStop _ _ => "QUICK_STOP"
  | .homeAxis _ _ => "HOME_AXIS"
  | .engageGearing _ _ => "ENGAGE_GEARING"
  | .disengageGearing _ _ => "DISENGAGE_GEARING"
  | .setPosition _ _ => "SET_POSITION"
  | .ratioChangeArm _ _ => "RATIO_CHANGE_ARM"
  | .ethernetFrame _ _ => "ETHERNET_FRAME"
  | .ptpEventMessage _ _ _ _ => "PTP_EVENT_MESSAGE"
  | .read _ _ _ => "READ"
  | .write _ _ => "WRITE"
  | .segRead _ _ _ _ _ => "SEG_READ"
  | .segWriteInit _ _ _ _ _ _ => "SEG_WRITE_INIT"
  | .segWrite _ _ _ _ => "SEG_WRITE"
  | .segAbort _ _ => "SEG_ABORT"
  | .segTransferTimeout _ => "SEG_TRANSFER_TIMEOUT"
  | .groupOpen _ => "GROUP_OPEN"
  | .groupStage _ _ _ => "GROUP_STAGE"
  | .groupArm _ _ _ _ => "GROUP_ARM"
  | .groupDiscard _ _ => "GROUP_DISCARD"
  | .groupStatus _ _ => "GROUP_STATUS"
  | .groupLanding _ => "GROUP_LANDING"
  | .groupApplied _ => "GROUP_APPLIED"
  | .groupExpiry _ => "GROUP_EXPIRY"
  | .snapshot _ _ => "SNAPSHOT"
  | .subscribe _ _ _ => "SUBSCRIBE"
  | .unsubscribe _ _ => "UNSUBSCRIBE"
  | .eventAck _ _ _ => "EVENT_ACK"
  | .eventFrameSend _ => "EVENT_FRAME_SEND"
  | .eventResendTimer _ => "EVENT_RESEND_TIMER"
  | .subscriberTimeout _ => "SUBSCRIBER_TIMEOUT"
  | .pageArm _ _ => "PAGE_ARM"
  | .pageDisarm _ _ => "PAGE_DISARM"
  | .settingsSave _ => "SETTINGS_SAVE"
  | .hello _ _ _ _ => "HELLO"
  | .clientAuth _ _ _ _ => "CLIENT_AUTH"
  | .close _ => "CLOSE"
  | .attest _ _ => "ATTEST"
  | .authTimeout _ => "AUTH_TIMEOUT"
  | .sessionIdleTimeout _ => "SESSION_IDLE_TIMEOUT"
  | .standbyRequest _ _ => "STANDBY_REQUEST"
  | .readyRequest _ _ => "READY_REQUEST"
  | .powerDormantRequest _ _ => "POWER_DORMANT_REQUEST"
  | .wakeInput _ _ => "WAKE_INPUT"
  | .rtcAlarm => "RTC_ALARM"
  | .watchmanWriteLand => "WATCHMAN_WRITE_LAND"
  | .rtcSync => "RTC_SYNC"
  | .vbatLoss => "VBAT_LOSS"
  | .porn _ => "PORN"
  | .rstn _ => "RSTN"
  | .softwareWarmReset _ _ => "SOFTWARE_WARM_RESET"
  | .startUpComplete _ => "START_UP_COMPLETE"
  | .pllLockLoss _ => "PLL_LOCK_LOSS"
  | .pllRelock _ => "PLL_RELOCK"
  | .droopStretch => "DROOP_STRETCH"
  | .sagFallback => "SAG_FALLBACK"
  | .sagRecover => "SAG_RECOVER"
  | .undervoltage => "UNDERVOLTAGE"
  | .sign _ _ => "SIGN"
  | .signComplete => "SIGN_COMPLETE"
  | .activate _ _ => "ACTIVATE"
  | .activationTime => "ACTIVATION_TIME"
  | .copyBlock => "COPY_BLOCK"
  | .confirm _ _ => "CONFIRM"
  | .trialExpiry => "TRIAL_EXPIRY"
  | .fallbackRequest _ => "FALLBACK_REQUEST"
  | .revoke _ _ => "REVOKE"
  | .frameValidEdge _ _ => "FRAME_VALID_EDGE"
  | .vbatReturn => "VBAT_RETURN"
  | .droopCleared => "DROOP_CLEARED"
  | .ethernetPhyLinkChange _ _ => "ETHERNET_PHY_LINK_CHANGE"
  | .scanKeepwetTick _ => "SCAN_KEEPWET_TICK"

/-- The command stands at its own row: the name at its place among the rows is its mnemonic. -/
def Named.Statement (i : Instr) : Prop := Named.names[i.ctorIdx]? = some (Named.name i)

theorem Named.registerWrite (r : Requester) (addr : Nat) (data : List Byte) : Named.Statement (.registerWrite r addr data) := rfl
theorem Named.rcRegisterRead (r : Requester) (addr : Nat) (len : Nat) (event : Nat) : Named.Statement (.rcRegisterRead r addr len event) := rfl
theorem Named.w1cEventClear (r : Requester) (addr : Nat) (v : Word) (hw : Word) : Named.Statement (.w1cEventClear r addr v hw) := rfl
theorem Named.widePairLowRead (r : Requester) (addr : Nat) : Named.Statement (.widePairLowRead r addr) := rfl
theorem Named.linkEnable (r : Requester) (v : Word) : Named.Statement (.linkEnable r v) := rfl
theorem Named.linkDisable (r : Requester) (v : Word) : Named.Statement (.linkDisable r v) := rfl
theorem Named.symbolLock (n : Fin 8) (inverted : Bool) : Named.Statement (.symbolLock n inverted) := rfl
theorem Named.portUp (p : Fin 2) (skews : List Nat) : Named.Statement (.portUp p skews) := rfl
theorem Named.laneMarkerSetReceived (n : Fin 8) (ln gen txm rxm mode chk : Byte) : Named.Statement (.laneMarkerSetReceived n ln gen txm rxm mode chk) := rfl
theorem Named.skipSetReceived (n : Fin 8) (insert : Bool) : Named.Statement (.skipSetReceived n insert) := rfl
theorem Named.eieSetReceived (p : Fin 2) : Named.Statement (.eieSetReceived p) := rfl
theorem Named.packetReceived (p : Fin 2) : Named.Statement (.packetReceived p lanes) := rfl
theorem Named.streamDataPacket (p : Fin 2) : Named.Statement (.streamDataPacket p) := rfl
theorem Named.memoryWritePacket (p : Fin 2) : Named.Statement (.memoryWritePacket p) := rfl
theorem Named.memoryReadRequest (p : Fin 2) : Named.Statement (.memoryReadRequest p) := rfl
theorem Named.memoryReadCompletion (p : Fin 2) : Named.Statement (.memoryReadCompletion p) := rfl
theorem Named.creditPacketReceived (p : Fin 2) : Named.Statement (.creditPacketReceived p) := rfl
theorem Named.creditUpdateSend (p : Fin 2) : Named.Statement (.creditUpdateSend p) := rfl
theorem Named.ackTimerExpiry (p : Fin 2) : Named.Statement (.ackTimerExpiry p) := rfl
theorem Named.nakTransmit (p : Fin 2) : Named.Statement (.nakTransmit p) := rfl
theorem Named.nakTimeout (p : Fin 2) : Named.Statement (.nakTimeout p) := rfl
theorem Named.nakReceived (p : Fin 2) : Named.Statement (.nakReceived p) := rfl
theorem Named.replayTimeout (p : Fin 2) : Named.Statement (.replayTimeout p) := rfl
theorem Named.laneRetirement (n : Fin 8) (rd : Bool) (syms : List (BitVec 10)) : Named.Statement (.laneRetirement n rd syms) := rfl
theorem Named.symbolLockLoss (n : Fin 8) : Named.Statement (.symbolLockLoss n) := rfl
theorem Named.deskewOverflow (n : Fin 8) : Named.Statement (.deskewOverflow n) := rfl
theorem Named.linkRetire (r : Requester) (v : Word) : Named.Statement (.linkRetire r v) := rfl
theorem Named.linkReadmit (r : Requester) (v : Word) : Named.Statement (.linkReadmit r v) := rfl
theorem Named.laneQualificationComplete (n : Fin 8) (skew : Nat) : Named.Statement (.laneQualificationComplete n skew) := rfl
theorem Named.readmitAbandon (n : Fin 8) (rd : Bool) (syms : List (BitVec 10)) : Named.Statement (.readmitAbandon n rd syms) := rfl
theorem Named.linkPowerRequest (r : Requester) (v : Word) : Named.Statement (.linkPowerRequest r v) := rfl
theorem Named.idleTimerExpiry (p : Fin 2) : Named.Statement (.idleTimerExpiry p) := rfl
theorem Named.standbyExit (p : Fin 2) : Named.Statement (.standbyExit p) := rfl
theorem Named.linkDormantRequest (p : Fin 2) : Named.Statement (.linkDormantRequest p) := rfl
theorem Named.linkDormantAnswer (p : Fin 2) : Named.Statement (.linkDormantAnswer p) := rfl
theorem Named.signalDetectWake (p : Fin 2) : Named.Statement (.signalDetectWake p) := rfl
theorem Named.streamBindWrite (r : Requester) (v : Word) : Named.Statement (.streamBindWrite r v) := rfl
theorem Named.channelEnable (r : Requester) (n : Fin 32) (v : Word) : Named.Statement (.channelEnable r n v) := rfl
theorem Named.channelDisable (r : Requester) (n : Fin 32) (v : Word) : Named.Statement (.channelDisable r n v) := rfl
theorem Named.channelPause (r : Requester) (n : Fin 32) (v : Word) : Named.Statement (.channelPause r n v) := rfl
theorem Named.channelUnpause (r : Requester) (n : Fin 32) (v : Word) : Named.Statement (.channelUnpause r n v) := rfl
theorem Named.channelResume (r : Requester) (n : Fin 32) (v : Word) : Named.Statement (.channelResume r n v) := rfl
theorem Named.channelSkip (r : Requester) (n : Fin 32) (v : Word) : Named.Statement (.channelSkip r n v) := rfl
theorem Named.doorbell (r : Requester) (n : Fin 32) : Named.Statement (.doorbell r n) := rfl
theorem Named.ringReset (r : Requester) (n : Fin 32) (v : Word) : Named.Statement (.ringReset r n v) := rfl
theorem Named.abortRequest (r : Requester) (n : Fin 32) (v : Word) : Named.Statement (.abortRequest r n v) := rfl
theorem Named.abortComplete (n : Fin 32) : Named.Statement (.abortComplete n) := rfl
theorem Named.descriptorFetch (n : Fin 32) : Named.Statement (.descriptorFetch n) := rfl
theorem Named.invalidDescriptorHalt (n : Fin 32) : Named.Statement (.invalidDescriptorHalt n) := rfl
theorem Named.burstGrant : Named.Statement (.burstGrant) := rfl
theorem Named.paceTimeout (n : Fin 32) : Named.Statement (.paceTimeout n) := rfl
theorem Named.burstComplete (n : Fin 32) : Named.Statement (.burstComplete n) := rfl
theorem Named.writeArrival (n : Fin 32) : Named.Statement (.writeArrival n) := rfl
theorem Named.burstFailure (n : Fin 32) : Named.Statement (.burstFailure n) := rfl
theorem Named.lateWriteFailure (n : Fin 32) : Named.Statement (.lateWriteFailure n) := rfl
theorem Named.drainComplete (n : Fin 32) : Named.Statement (.drainComplete n) := rfl
theorem Named.captureFrameStart (p : Fin 4) : Named.Statement (.captureFrameStart p) := rfl
theorem Named.granaryInit (r : Requester) (v : Word) : Named.Statement (.granaryInit r v) := rfl
theorem Named.granaryReady (c : Fin 2) : Named.Statement (.granaryReady c) := rfl
theorem Named.delayRamAccess (r : Requester) (w : Option Word) : Named.Statement (.delayRamAccess r w) := rfl
theorem Named.dramRequest (r : Requester) (addr : Nat) (len : Nat) (data : Option (List Byte)) : Named.Statement (.dramRequest r addr len data) := rfl
theorem Named.commandSlot (c : Fin 2) : Named.Statement (.commandSlot c seen) := rfl
theorem Named.dramReadComplete (c : Fin 2) : Named.Statement (.dramReadComplete c seen) := rfl
theorem Named.dramWriteArrival (c : Fin 2) : Named.Statement (.dramWriteArrival c) := rfl
theorem Named.alertN (c : Fin 2) : Named.Statement (.alertN c) := rfl
theorem Named.refreshTimer (c : Fin 2) (rank : Fin 2) : Named.Statement (.refreshTimer c rank) := rfl
theorem Named.zqcsTimer : Named.Statement (.zqcsTimer) := rfl
theorem Named.dieTempSample (t : Int) : Named.Statement (.dieTempSample t) := rfl
theorem Named.initFill (r : Requester) (v : Word) : Named.Statement (.initFill r v) := rfl
theorem Named.initFillDone : Named.Statement (.initFillDone) := rfl
theorem Named.selfRefreshRequest (r : Requester) (v : Word) : Named.Statement (.selfRefreshRequest r v) := rfl
theorem Named.selfRefreshEntered : Named.Statement (.selfRefreshEntered) := rfl
theorem Named.selfRefreshExit (r : Requester) (v : Word) : Named.Statement (.selfRefreshExit r v) := rfl
theorem Named.granaryErrlogPop (r : Requester) : Named.Statement (.granaryErrlogPop r) := rfl
theorem Named.decoderBlock (d : Fin 8) (parity : Bool) : Named.Statement (.decoderBlock d parity) := rfl
theorem Named.endOfPageBlock (d : Fin 8) (parity : Bool) : Named.Statement (.endOfPageBlock d parity) := rfl
theorem Named.huntResync (d : Fin 8) : Named.Statement (.huntResync d) := rfl
theorem Named.decoderEnable (r : Requester) (d : Fin 8) (v : Word) : Named.Statement (.decoderEnable r d v) := rfl
theorem Named.decoderDisable (r : Requester) (d : Fin 8) (v : Word) : Named.Statement (.decoderDisable r d v) := rfl
theorem Named.encoderEnable (r : Requester) (e : Fin 2) (v : Word) : Named.Statement (.encoderEnable r e v) := rfl
theorem Named.encoderDisable (r : Requester) (e : Fin 2) (v : Word) : Named.Statement (.encoderDisable r e v) := rfl
theorem Named.encoderFlush (r : Requester) (e : Fin 2) (v : Word) : Named.Statement (.encoderFlush r e v) := rfl
theorem Named.encoderLine (e : Fin 2) : Named.Statement (.encoderLine e) := rfl
theorem Named.millerResultPop (r : Requester) (e : Fin 2) : Named.Statement (.millerResultPop r e) := rfl
theorem Named.slotOpen (k : Fin 4) (bad : List Nat) : Named.Statement (.slotOpen k bad) := rfl
theorem Named.screeningPassStart (k : Fin 4) (bad : List Nat) : Named.Statement (.screeningPassStart k bad) := rfl
theorem Named.screeningPassEnd (k : Fin 4) (parity : Option ParityWord) : Named.Statement (.screeningPassEnd k parity) := rfl
theorem Named.recompute (k : Fin 4) : Named.Statement (.recompute k) := rfl
theorem Named.recomputeFailure (k : Fin 4) : Named.Statement (.recomputeFailure k) := rfl
theorem Named.takeDeadline (h : Fin 24) (r : Fin 2) : Named.Statement (.takeDeadline h r) := rfl
theorem Named.maskBankFlip (k : Fin 4) : Named.Statement (.maskBankFlip k) := rfl
theorem Named.nozzleRetirement (g : Fin 101376) (src : RetireSource) : Named.Statement (.nozzleRetirement g src) := rfl
theorem Named.nozzleReadmitEffect : Named.Statement (.nozzleReadmitEffect) := rfl
theorem Named.overlapWrite (r : Requester) (k : Fin 4) (v : Word) : Named.Statement (.overlapWrite r k v) := rfl
theorem Named.hcEnable (r : Requester) (h : Fin 24) (v : Word) : Named.Statement (.hcEnable r h v) := rfl
theorem Named.hcDisable (r : Requester) (h : Fin 24) (v : Word) : Named.Statement (.hcDisable r h v) := rfl
theorem Named.codeFrameForm (h : Fin 24) (row : Fin 2) (parity : Option ParityWord) (bad badHist : List Nat) : Named.Statement (.codeFrameForm h row parity bad badHist) := rfl
theorem Named.frameShiftStart (h : Fin 24) : Named.Statement (.frameShiftStart h) := rfl
theorem Named.latchPulse (h : Fin 24) : Named.Statement (.latchPulse h) := rfl
theorem Named.tableFrameSend (h : Fin 24) : Named.Statement (.tableFrameSend h) := rfl
theorem Named.fireTime (h : Fin 24) (row : Fin 2) : Named.Statement (.fireTime h row) := rfl
theorem Named.combRunEnd (h : Fin 24) (row : Fin 2) : Named.Statement (.combRunEnd h row) := rfl
theorem Named.lateFireEvent (h : Fin 24) (row : Fin 2) : Named.Statement (.lateFireEvent h row) := rfl
theorem Named.frameErrorReshift (h : Fin 24) : Named.Statement (.frameErrorReshift h) := rfl
theorem Named.combBankFlip (h : Fin 24) : Named.Statement (.combBankFlip h) := rfl
theorem Named.tempStaleTimeout (h : Fin 24) : Named.Statement (.tempStaleTimeout h) := rfl
theorem Named.warmupComplete (h : Fin 24) : Named.Statement (.warmupComplete h) := rfl
theorem Named.scanArm (r : Requester) (i : Fin 2) (v : Word) : Named.Statement (.scanArm r i v) := rfl
theorem Named.sosEdge (i : Fin 2) (rising wide : Bool) : Named.Statement (.sosEdge i rising wide) := rfl
theorem Named.encoderCount (n : Fin 4) (a b : Bool) : Named.Statement (.encoderCount n a b) := rfl
theorem Named.index (n : Fin 4) (z : Bool) : Named.Statement (.index n z) := rfl
theorem Named.indexCorrectionCount : Named.Statement (.indexCorrectionCount) := rfl
theorem Named.indexRearm (r : Requester) (n : Fin 4) (v : Word) : Named.Statement (.indexRearm r n v) := rfl
theorem Named.speedWindowUpdate (n : Fin 4) : Named.Statement (.speedWindowUpdate n) := rfl
theorem Named.standstillTimeout (n : Fin 4) : Named.Statement (.standstillTimeout n) := rfl
theorem Named.lossOfSignal (n : Fin 4) (rx : Fin 3) : Named.Statement (.lossOfSignal n rx) := rfl
theorem Named.ssiFrameStart (m : Fin 2) : Named.Statement (.ssiFrameStart m) := rfl
theorem Named.ssiFrameReceived (m : Fin 2) (idle : Bool) (bits : List Bool) (high : Bool) : Named.Statement (.ssiFrameReceived m idle bits high) := rfl
theorem Named.markEdge (i : Fin 4) (level : Bool) : Named.Statement (.markEdge i level) := rfl
theorem Named.markFifoPop (r : Requester) (i : Fin 4) : Named.Statement (.markFifoPop r i) := rfl
theorem Named.homeEdge (k : Fin 8) (level : Bool) : Named.Statement (.homeEdge k level) := rfl
theorem Named.comparePulseEnd (j : Fin 8) : Named.Statement (.comparePulseEnd j) := rfl
theorem Named.tableEntryStore (r : Requester) (v : Word) : Named.Statement (.tableEntryStore r v) := rfl
theorem Named.compareRestart (r : Requester) (j : Fin 8) (v : Word) : Named.Statement (.compareRestart r j v) := rfl
theorem Named.loopEnable (r : Requester) (v : Word) : Named.Statement (.loopEnable r v) := rfl
theorem Named.loopDisable (r : Requester) (v : Word) : Named.Statement (.loopDisable r v) := rfl
theorem Named.loopUpdate : Named.Statement (.loopUpdate) := rfl
theorem Named.runStart (r : Requester) (v : Word) : Named.Statement (.runStart r v) := rfl
theorem Named.runStop (r : Requester) (v : Word) : Named.Statement (.runStop r v) := rfl
theorem Named.rowFire (h : Fin 24) (row : Fin 2) : Named.Statement (.rowFire h row) := rfl
theorem Named.markTake : Named.Statement (.markTake) := rfl
theorem Named.hcRetireRequest (r : Requester) (v : Word) : Named.Statement (.hcRetireRequest r v) := rfl
theorem Named.hcReadmitRequest (r : Requester) (v : Word) : Named.Statement (.hcReadmitRequest r v) := rfl
theorem Named.nozzleRetireRequest (r : Requester) (v : Word) : Named.Statement (.nozzleRetireRequest r v) := rfl
theorem Named.safeStopRequest (r : Requester) (v : Word) : Named.Statement (.safeStopRequest r v) := rfl
theorem Named.safeStopClear (r : Requester) (v : Word) : Named.Statement (.safeStopClear r v) := rfl
theorem Named.cameraArm (r : Requester) (n : Fin 4) (v : Word) : Named.Statement (.cameraArm r n v) := rfl
theorem Named.cameraDisarm (r : Requester) (n : Fin 4) (v : Word) : Named.Statement (.cameraDisarm r n v) := rfl
theorem Named.softwareTrigger (r : Requester) (n : Fin 4) (v : Word) : Named.Statement (.softwareTrigger r n v) := rfl
theorem Named.triggerPulseEnd (n : Fin 4) : Named.Statement (.triggerPulseEnd n) := rfl
theorem Named.cameraLine (n : Fin 4) (tapA tapB : List (BitVec 12)) (fv : Bool) (pos : Int) (ts : Nat) : Named.Statement (.cameraLine n tapA tapB fv pos ts) := rfl
theorem Named.lineTimeout (n : Fin 4) : Named.Statement (.lineTimeout n) := rfl
theorem Named.pclkStop (n : Fin 4) : Named.Statement (.pclkStop n) := rfl
theorem Named.cameraPortReadmit (r : Requester) (v : Word) : Named.Statement (.cameraPortReadmit r v) := rfl
theorem Named.serialByteReceived (n : Fin 4) (b : Byte) : Named.Statement (.serialByteReceived n b) := rfl
theorem Named.serialDataAccess (r : Requester) (n : Fin 4) (v : Option Word) : Named.Statement (.serialDataAccess r n v) := rfl
theorem Named.serialByteSent (n : Fin 4) : Named.Statement (.serialByteSent n) := rfl
theorem Named.pipelineLine (p : Fin 2) : Named.Statement (.pipelineLine p) := rfl
theorem Named.camNozzleRetire (r : Requester) (v : Word) : Named.Statement (.camNozzleRetire r v) := rfl
theorem Named.camTableAccess (r : Requester) (v : Option Word) : Named.Statement (.camTableAccess r v) := rfl
theorem Named.ladderVerdict (p : Fin 2) : Named.Statement (.ladderVerdict p) := rfl
theorem Named.columnProposal : Named.Statement (.columnProposal) := rfl
theorem Named.adcConversion (code : BitVec 16) : Named.Statement (.adcConversion code) := rfl
theorem Named.adcZero (z : BitVec 16) : Named.Statement (.adcZero z) := rfl
theorem Named.pathCalibration : Named.Statement (.pathCalibration) := rfl
theorem Named.calibrationCycle : Named.Statement (.calibrationCycle) := rfl
theorem Named.calibrationSlot (ending : Bool) : Named.Statement (.calibrationSlot ending) := rfl
theorem Named.trimStep (h : Fin 24) : Named.Statement (.trimStep h) := rfl
theorem Named.trimTargetWrite (r : Requester) (h : Fin 24) (v : Word) : Named.Statement (.trimTargetWrite r h v) := rfl
theorem Named.motionUpdate : Named.Statement (.motionUpdate) := rfl
theorem Named.currentSample (n : Fin 4) (a b : BitVec 12) : Named.Statement (.currentSample n a b) := rfl
theorem Named.bridgeFault (n : Fin 4) : Named.Statement (.bridgeFault n) := rfl
theorem Named.axisEnable (r : Requester) (n : Fin 4) (v : Word) : Named.Statement (.axisEnable r n v) := rfl
theorem Named.axisDisable (r : Requester) (n : Fin 4) (v : Word) : Named.Statement (.axisDisable r n v) := rfl
theorem Named.axisLink (r : Requester) (v : Word) : Named.Statement (.axisLink r v) := rfl
theorem Named.moveToTarget (r : Requester) (n : Fin 4) : Named.Statement (.moveToTarget r n) := rfl
theorem Named.stopAtDmax (r : Requester) (n : Fin 4) : Named.Statement (.stopAtDmax r n) := rfl
theorem Named.quickStop (r : Requester) (n : Fin 4) : Named.Statement (.quickStop r n) := rfl
theorem Named.homeAxis (r : Requester) (n : Fin 4) : Named.Statement (.homeAxis r n) := rfl
theorem Named.engageGearing (r : Requester) (n : Fin 4) : Named.Statement (.engageGearing r n) := rfl
theorem Named.disengageGearing (r : Requester) (n : Fin 4) : Named.Statement (.disengageGearing r n) := rfl
theorem Named.setPosition (r : Requester) (n : Fin 4) : Named.Statement (.setPosition r n) := rfl
theorem Named.ratioChangeArm (r : Requester) (v : Word) : Named.Statement (.ratioChangeArm r v) := rfl
theorem Named.ethernetFrame (p : Fin 2) (f : EthFrame) : Named.Statement (.ethernetFrame p f) := rfl
theorem Named.ptpEventMessage (p : Fin 2) (m : PtpMsg) (residence : Nat) (err : Int) : Named.Statement (.ptpEventMessage p m residence err) := rfl
theorem Named.read (q : Request) (index : BitVec 16) (sub : BitVec 8) : Named.Statement (.read q index sub) := rfl
theorem Named.write (q : Request) (item : Item) : Named.Statement (.write q item) := rfl
theorem Named.segRead (q : Request) (index : BitVec 16) (sub : BitVec 8) (offset : BitVec 32) (maxlen : BitVec 16) : Named.Statement (.segRead q index sub offset maxlen) := rfl
theorem Named.segWriteInit (q : Request) (index : BitVec 16) (sub : BitVec 8) (handle : BitVec 8) (total crc : BitVec 32) : Named.Statement (.segWriteInit q index sub handle total crc) := rfl
theorem Named.segWrite (q : Request) (xfer : BitVec 16) (offset : BitVec 32) (data : List Byte) : Named.Statement (.segWrite q xfer offset data) := rfl
theorem Named.segAbort (q : Request) (xfer : BitVec 16) : Named.Statement (.segAbort q xfer) := rfl
theorem Named.segTransferTimeout (xfer : Nat) : Named.Statement (.segTransferTimeout xfer) := rfl
theorem Named.groupOpen (q : Request) : Named.Statement (.groupOpen q) := rfl
theorem Named.groupStage (q : Request) (handle : BitVec 8) (item : Item) : Named.Statement (.groupStage q handle item) := rfl
theorem Named.groupArm (q : Request) (handle kind : BitVec 8) (value : BitVec 64) : Named.Statement (.groupArm q handle kind value) := rfl
theorem Named.groupDiscard (q : Request) (handle : BitVec 8) : Named.Statement (.groupDiscard q handle) := rfl
theorem Named.groupStatus (q : Request) (handle : BitVec 8) : Named.Statement (.groupStatus q handle) := rfl
theorem Named.groupLanding (handle : Nat) : Named.Statement (.groupLanding handle) := rfl
theorem Named.groupApplied (handle : Nat) : Named.Statement (.groupApplied handle) := rfl
theorem Named.groupExpiry (handle : Nat) : Named.Statement (.groupExpiry handle) := rfl
theorem Named.snapshot (q : Request) (objects : List (BitVec 16 × BitVec 8)) : Named.Statement (.snapshot q objects) := rfl
theorem Named.subscribe (q : Request) (classes : BitVec 32) (port : BitVec 16) : Named.Statement (.subscribe q classes port) := rfl
theorem Named.unsubscribe (q : Request) (subscriber : BitVec 8) : Named.Statement (.unsubscribe q subscriber) := rfl
theorem Named.eventAck (q : Request) (subscriber : BitVec 8) (eseq : BitVec 32) : Named.Statement (.eventAck q subscriber eseq) := rfl
theorem Named.eventFrameSend (subscriber : Fin 8) : Named.Statement (.eventFrameSend subscriber) := rfl
theorem Named.eventResendTimer (subscriber : Fin 8) : Named.Statement (.eventResendTimer subscriber) := rfl
theorem Named.subscriberTimeout (subscriber : Fin 8) : Named.Statement (.subscriberTimeout subscriber) := rfl
theorem Named.pageArm (q : Request) (n : BitVec 8) : Named.Statement (.pageArm q n) := rfl
theorem Named.pageDisarm (q : Request) (n : BitVec 8) : Named.Statement (.pageDisarm q n) := rfl
theorem Named.settingsSave (q : Request) : Named.Statement (.settingsSave q) := rfl
theorem Named.hello (q : Request) (level : Byte) (cnonce ceph : List Byte) : Named.Statement (.hello q level cnonce ceph) := rfl
theorem Named.clientAuth (q : Request) (anchor cert csig : List Byte) : Named.Statement (.clientAuth q anchor cert csig) := rfl
theorem Named.close (q : Request) : Named.Statement (.close q) := rfl
theorem Named.attest (q : Request) (nonce : List Byte) : Named.Statement (.attest q nonce) := rfl
theorem Named.authTimeout (sid : Nat) : Named.Statement (.authTimeout sid) := rfl
theorem Named.sessionIdleTimeout (sid : Nat) : Named.Statement (.sessionIdleTimeout sid) := rfl
theorem Named.standbyRequest (r : Requester) (v : Word) : Named.Statement (.standbyRequest r v) := rfl
theorem Named.readyRequest (r : Requester) (v : Word) : Named.Statement (.readyRequest r v) := rfl
theorem Named.powerDormantRequest (r : Requester) (v : Word) : Named.Statement (.powerDormantRequest r v) := rfl
theorem Named.wakeInput (k : Fin 4) (rising : Bool) : Named.Statement (.wakeInput k rising) := rfl
theorem Named.rtcAlarm : Named.Statement (.rtcAlarm) := rfl
theorem Named.watchmanWriteLand : Named.Statement (.watchmanWriteLand) := rfl
theorem Named.rtcSync : Named.Statement (.rtcSync) := rfl
theorem Named.vbatLoss : Named.Statement (.vbatLoss) := rfl
theorem Named.porn (level : Bool) : Named.Statement (.porn level) := rfl
theorem Named.rstn (level : Bool) : Named.Statement (.rstn level) := rfl
theorem Named.softwareWarmReset (r : Requester) (v : Word) : Named.Statement (.softwareWarmReset r v) := rfl
theorem Named.startUpComplete (fault : Fin 5) : Named.Statement (.startUpComplete fault) := rfl
theorem Named.pllLockLoss (p : Fin 4) : Named.Statement (.pllLockLoss p) := rfl
theorem Named.pllRelock (p : Fin 4) : Named.Statement (.pllRelock p) := rfl
theorem Named.droopStretch : Named.Statement (.droopStretch) := rfl
theorem Named.sagFallback : Named.Statement (.sagFallback) := rfl
theorem Named.sagRecover : Named.Statement (.sagRecover) := rfl
theorem Named.undervoltage : Named.Statement (.undervoltage) := rfl
theorem Named.sign (r : Requester) (v : Word) : Named.Statement (.sign r v) := rfl
theorem Named.signComplete : Named.Statement (.signComplete) := rfl
theorem Named.activate (q : Request) (time : BitVec 64) : Named.Statement (.activate q time) := rfl
theorem Named.activationTime : Named.Statement (.activationTime) := rfl
theorem Named.copyBlock : Named.Statement (.copyBlock) := rfl
theorem Named.confirm (r : Requester) (v : Word) : Named.Statement (.confirm r v) := rfl
theorem Named.trialExpiry : Named.Statement (.trialExpiry) := rfl
theorem Named.fallbackRequest (q : Request) : Named.Statement (.fallbackRequest q) := rfl
theorem Named.revoke (q : Request) (slot : Byte) : Named.Statement (.revoke q slot) := rfl
theorem Named.frameValidEdge (n : Fin 4) (rising : Bool) : Named.Statement (.frameValidEdge n rising) := rfl
theorem Named.vbatReturn : Named.Statement (.vbatReturn) := rfl
theorem Named.droopCleared : Named.Statement (.droopCleared) := rfl
theorem Named.ethernetPhyLinkChange (p : Fin 2) (speed : Fin 4) : Named.Statement (.ethernetPhyLinkChange p speed) := rfl
theorem Named.scanKeepwetTick (i : Fin 2) : Named.Statement (.scanKeepwetTick i) := rfl

end Sys2Proof.Laws
end

