-- ==== Sys2Proof/Laws/State.lean ====
section
/-! SUPPORT. The primitive updates of a state: what every field, register, register field and byte reads after each of
them, and that memory and the register table keep their canonical forms. -/

set_option Elab.async false

namespace Sys2Proof.Laws

open Sys2Proof.Machine

variable {s : State}

/-! ## Bits of a register word -/

theorem testBit_mask {w n i : Nat} : (n % 2 ^ w).testBit i = (decide (i < w) && n.testBit i) := Nat.testBit_mod_two_pow n w i

theorem ones_testBit {w i : Nat} : (2 ^ w - 1).testBit i = decide (i < w) := Nat.testBit_two_pow_sub_one w i

/-- The bits of a word in which a field was set. -/
theorem putField_testBit {f : Field} {w : Word} {v i : Nat} :
    (putField f w v).toNat.testBit i = (decide (i < 32) &&
      (if f.lo ≤ i ∧ i < f.lo + f.width then v.testBit (i - f.lo) else w.toNat.testBit i)) := by
  have e : (0xFFFFFFFF : Nat) = 2 ^ 32 - 1 := by decide
  simp only [putField, BitVec.toNat_ofNat, testBit_mask, Nat.testBit_or, Nat.testBit_and, Nat.testBit_xor, Field.mask,
    Nat.testBit_shiftLeft, ones_testBit, e]
  by_cases h2 : f.lo ≤ i
  · have h4 : i - f.lo < f.width ↔ i < f.lo + f.width := by omega
    by_cases h1 : i < 32 <;> by_cases h3 : i < f.lo + f.width <;> simp [h1, h2, h3, h4]
  · by_cases h1 : i < 32 <;> simp [h1, h2]

theorem getField_testBit {f : Field} {w : Word} {i : Nat} :
    (getField f w).testBit i = (decide (i < f.width) && w.toNat.testBit (f.lo + i)) := by
  rw [getField, testBit_mask, Nat.testBit_shiftRight]

@[simp] theorem getField_putField {f : Field} {w : Word} {v : Nat} (h : f.lo + f.width ≤ 32 := by decide) :
    getField f (putField f w v) = v % 2 ^ f.width := by
  refine Nat.eq_of_testBit_eq fun i => ?_
  rw [getField_testBit, putField_testBit, testBit_mask]
  by_cases h1 : i < f.width
  · simp [h1, show f.lo + i < 32 by omega]
  · simp [h1]

theorem getField_putField_other {f g : Field} {w : Word} {v : Nat}
    (h : f.lo + f.width ≤ g.lo ∨ g.lo + g.width ≤ f.lo := by decide) : getField f (putField g w v) = getField f w := by
  refine Nat.eq_of_testBit_eq fun i => ?_
  rw [getField_testBit, getField_testBit, putField_testBit]
  by_cases h1 : i < f.width
  · have h2 : ¬ (g.lo ≤ f.lo + i ∧ f.lo + i < g.lo + g.width) := by omega
    by_cases h3 : f.lo + i < 32
    · simp [h1, h2, h3]
    · have : w.toNat.testBit (f.lo + i) = false :=
        Nat.testBit_lt_two_pow (Nat.lt_of_lt_of_le w.isLt (Nat.pow_le_pow_right (by decide) (by omega)))
      simp [h2, h3, this]
  · simp [h1]

theorem getField_lt {f : Field} {w : Word} : getField f w < 2 ^ f.width := Nat.mod_lt _ (Nat.two_pow_pos _)

/-! ## Register fields after a write of a register field -/

@[simp] theorem fld_setFld_same {a v : Nat} {f : Field} (h : f.lo + f.width ≤ 32 := by decide) :
    (s.setFld a f v).fld a f = v % 2 ^ f.width := by
  rw [State.fld, State.setFld, reg_setReg_same, getField_putField h]

theorem fld_setFld_disjoint {a v : Nat} {f g : Field}
    (h : f.lo + f.width ≤ g.lo ∨ g.lo + g.width ≤ f.lo := by decide) : (s.setFld a g v).fld a f = s.fld a f := by
  rw [State.fld, State.setFld, reg_setReg_same, getField_putField_other h]; rfl

theorem reg_setFld_other {a b v : Nat} {g : Field} (h : a ≠ b) : (s.setFld b g v).reg a = s.reg a :=
  reg_setReg_other h

theorem fld_setFld_other {a b v : Nat} {f g : Field} (h : a ≠ b) : (s.setFld b g v).fld a f = s.fld a f :=
  congrArg (getField f) (reg_setReg_other h)

theorem fld_setReg_other {a b : Nat} {w : Word} {f : Field} (h : a ≠ b) : (s.setReg b w).fld a f = s.fld a f :=
  congrArg (getField f) (reg_setReg_other h)

@[simp] theorem fld_setReg_same {a : Nat} {w : Word} {f : Field} : (s.setReg a w).fld a f = getField f w := by
  rw [State.fld, reg_setReg_same]

@[simp] theorem bit_setBit_same {a : Nat} {f : Field} {b : Bool} (h : f.lo + f.width ≤ 32 := by decide)
    (h1 : f.width = 1 := by rfl) : (s.setBit a f b).bit a f = b := by
  rw [State.bit, State.setBit, fld_setFld_same h, h1]; cases b <;> rfl

@[simp] theorem fld_setBit_same {a : Nat} {f : Field} {b : Bool} (h : f.lo + f.width ≤ 32 := by decide)
    (h1 : f.width = 1 := by rfl) : (s.setBit a f b).fld a f = if b then 1 else 0 := by
  rw [State.setBit, fld_setFld_same h, h1]; cases b <;> rfl

theorem fld_lt {a : Nat} {f : Field} : s.fld a f < 2 ^ f.width := getField_lt

/-- A row that a change does not touch: the field reads as before. -/
theorem fld_of_reg {t : State} {a : Nat} {f : Field} (h : t.reg a = s.reg a) : t.fld a f = s.fld a f :=
  congrArg (getField f) h

theorem bit_of_reg {t : State} {a : Nat} {f : Field} (h : t.reg a = s.reg a) : t.bit a f = s.bit a f := by
  rw [State.bit, State.bit, fld_of_reg h]

/-! ## Units of a table after an update -/

@[simp] theorem port_setPort_same {n : Nat} {x : PortSt} : (s.setPort n x).port n = x := sget_sset_same

theorem port_setPort_other {n m : Nat} {x : PortSt} (h : m ≠ n) : (s.setPort n x).port m = s.port m := sget_sset_other h

@[simp] theorem lane_setLane_same {n : Nat} {x : LaneSt} : (s.setLane n x).lane n = x := sget_sset_same

theorem lane_setLane_other {n m : Nat} {x : LaneSt} (h : m ≠ n) : (s.setLane n x).lane m = s.lane m := sget_sset_other h

@[simp] theorem fifo_setFifo_same {n : Nat} {x : List FifoPacket} : (s.setFifo n x).fifo n = x := sget_sset_same

theorem fifo_setFifo_other {n m : Nat} {x : List FifoPacket} (h : m ≠ n) : (s.setFifo n x).fifo m = s.fifo m := sget_sset_other h

@[simp] theorem ch_setCh_same {n : Nat} {x : DmaChan} : (s.setCh n x).ch n = x := sget_sset_same

theorem ch_setCh_other {n m : Nat} {x : DmaChan} (h : m ≠ n) : (s.setCh n x).ch m = s.ch m := sget_sset_other h

@[simp] theorem chan_setChan_same {n : Nat} {x : DramChan} : (s.setChan n x).chan n = x := sget_sset_same

theorem chan_setChan_other {n m : Nat} {x : DramChan} (h : m ≠ n) : (s.setChan n x).chan m = s.chan m := sget_sset_other h

@[simp] theorem dec_setDec_same {n : Nat} {x : DecoderSt} : (s.setDec n x).dec n = x := sget_sset_same

theorem dec_setDec_other {n m : Nat} {x : DecoderSt} (h : m ≠ n) : (s.setDec n x).dec m = s.dec m := sget_sset_other h

@[simp] theorem enc_setEnc_same {n : Nat} {x : EncoderSt} : (s.setEnc n x).enc n = x := sget_sset_same

theorem enc_setEnc_other {n m : Nat} {x : EncoderSt} (h : m ≠ n) : (s.setEnc n x).enc m = s.enc m := sget_sset_other h

@[simp] theorem ham_setHam_same {n : Nat} {x : HamletSt} : (s.setHam n x).ham n = x := sget_sset_same

theorem ham_setHam_other {n m : Nat} {x : HamletSt} (h : m ≠ n) : (s.setHam n x).ham m = s.ham m := sget_sset_other h

@[simp] theorem hc_setHc_same {n : Nat} {x : HcSt} : (s.setHc n x).hc n = x := sget_sset_same

theorem hc_setHc_other {n m : Nat} {x : HcSt} (h : m ≠ n) : (s.setHc n x).hc m = s.hc m := sget_sset_other h

@[simp] theorem encSt_setEncSt_same {n : Nat} {x : EncSt} : (s.setEncSt n x).encSt n = x := sget_sset_same

theorem encSt_setEncSt_other {n m : Nat} {x : EncSt} (h : m ≠ n) : (s.setEncSt n x).encSt m = s.encSt m := sget_sset_other h

@[simp] theorem ssi_setSsi_same {n : Nat} {x : SsiSt} : (s.setSsi n x).ssi n = x := sget_sset_same

theorem ssi_setSsi_other {n m : Nat} {x : SsiSt} (h : m ≠ n) : (s.setSsi n x).ssi m = s.ssi m := sget_sset_other h

@[simp] theorem mark_setMark_same {n : Nat} {x : MarkSt} : (s.setMark n x).mark n = x := sget_sset_same

theorem mark_setMark_other {n m : Nat} {x : MarkSt} (h : m ≠ n) : (s.setMark n x).mark m = s.mark m := sget_sset_other h

@[simp] theorem cmp_setCmp_same {n : Nat} {x : CmpSt} : (s.setCmp n x).cmp n = x := sget_sset_same

theorem cmp_setCmp_other {n m : Nat} {x : CmpSt} (h : m ≠ n) : (s.setCmp n x).cmp m = s.cmp m := sget_sset_other h

@[simp] theorem camPort_setCamPort_same {n : Nat} {x : CamPort} : (s.setCamPort n x).camPort n = x := sget_sset_same

theorem camPort_setCamPort_other {n m : Nat} {x : CamPort} (h : m ≠ n) : (s.setCamPort n x).camPort m = s.camPort m := sget_sset_other h

@[simp] theorem ax_setAx_same {n : Nat} {x : AxisSt} : (s.setAx n x).ax n = x := sget_sset_same

theorem ax_setAx_other {n m : Nat} {x : AxisSt} (h : m ≠ n) : (s.setAx n x).ax m = s.ax m := sget_sset_other h

@[simp] theorem page_setPage_same {n : Nat} {x : PageCtx} : (s.setPage n x).page n = x := sget_sset_same

theorem page_setPage_other {n m : Nat} {x : PageCtx} (h : m ≠ n) : (s.setPage n x).page m = s.page m := sget_sset_other h

/-! ## Fields after an update -/

@[simp] theorem setReg_now {a : Nat} {x : Word} : (s.setReg a x).now = s.now := rfl
@[simp] theorem setReg_mem {a : Nat} {x : Word} : (s.setReg a x).mem = s.mem := rfl
@[simp] theorem setReg_highLatch {a : Nat} {x : Word} : (s.setReg a x).highLatch = s.highLatch := rfl
@[simp] theorem setReg_halfWrites {a : Nat} {x : Word} : (s.setReg a x).halfWrites = s.halfWrites := rfl
@[simp] theorem setReg_resp {a : Nat} {x : Word} : (s.setReg a x).resp = s.resp := rfl
@[simp] theorem setReg_freeCtr {a : Nat} {x : Word} : (s.setReg a x).freeCtr = s.freeCtr := rfl
@[simp] theorem setReg_log {a : Nat} {x : Word} : (s.setReg a x).log = s.log := rfl
@[simp] theorem setReg_link {a : Nat} {x : Word} : (s.setReg a x).link = s.link := rfl
@[simp] theorem setReg_dma {a : Nat} {x : Word} : (s.setReg a x).dma = s.dma := rfl
@[simp] theorem setReg_granary {a : Nat} {x : Word} : (s.setReg a x).granary = s.granary := rfl
@[simp] theorem setReg_dramValid {a : Nat} {x : Word} : (s.setReg a x).dramValid = s.dramValid := rfl
@[simp] theorem setReg_miller {a : Nat} {x : Word} : (s.setReg a x).miller = s.miller := rfl
@[simp] theorem setReg_pend {a : Nat} {x : Word} : (s.setReg a x).pend = s.pend := rfl
@[simp] theorem setReg_landed {a : Nat} {x : Word} : (s.setReg a x).landed = s.landed := rfl
@[simp] theorem setReg_weaver {a : Nat} {x : Word} : (s.setReg a x).weaver = s.weaver := rfl
@[simp] theorem setReg_hcs {a : Nat} {x : Word} : (s.setReg a x).hcs = s.hcs := rfl
@[simp] theorem setReg_pos {a : Nat} {x : Word} : (s.setReg a x).pos = s.pos := rfl
@[simp] theorem setReg_br {a : Nat} {x : Word} : (s.setReg a x).br = s.br := rfl
@[simp] theorem setReg_cam {a : Nat} {x : Word} : (s.setReg a x).cam = s.cam := rfl
@[simp] theorem setReg_cal {a : Nat} {x : Word} : (s.setReg a x).cal = s.cal := rfl
@[simp] theorem setReg_axes {a : Nat} {x : Word} : (s.setReg a x).axes = s.axes := rfl
@[simp] theorem setReg_mot {a : Nat} {x : Word} : (s.setReg a x).mot = s.mot := rfl
@[simp] theorem setReg_eth {a : Nat} {x : Word} : (s.setReg a x).eth = s.eth := rfl
@[simp] theorem setReg_pages {a : Nat} {x : Word} : (s.setReg a x).pages = s.pages := rfl
@[simp] theorem setReg_subs {a : Nat} {x : Word} : (s.setReg a x).subs = s.subs := rfl
@[simp] theorem setReg_lastEvents {a : Nat} {x : Word} : (s.setReg a x).lastEvents = s.lastEvents := rfl
@[simp] theorem setReg_pwr {a : Nat} {x : Word} : (s.setReg a x).pwr = s.pwr := rfl
@[simp] theorem setReg_flash {a : Nat} {x : Word} : (s.setReg a x).flash = s.flash := rfl
@[simp] theorem setReg_sec {a : Nat} {x : Word} : (s.setReg a x).sec = s.sec := rfl
@[simp] theorem setReg_pending {a : Nat} {x : Word} : (s.setReg a x).pending = s.pending := rfl
@[simp] theorem byte_setReg {j : Nat} {a : Nat} {x : Word} : (s.setReg a x).byte j = s.byte j := rfl

@[simp] theorem setFld_now {a v : Nat} {f : Field} : (s.setFld a f v).now = s.now := rfl
@[simp] theorem setFld_mem {a v : Nat} {f : Field} : (s.setFld a f v).mem = s.mem := rfl
@[simp] theorem setFld_highLatch {a v : Nat} {f : Field} : (s.setFld a f v).highLatch = s.highLatch := rfl
@[simp] theorem setFld_halfWrites {a v : Nat} {f : Field} : (s.setFld a f v).halfWrites = s.halfWrites := rfl
@[simp] theorem setFld_resp {a v : Nat} {f : Field} : (s.setFld a f v).resp = s.resp := rfl
@[simp] theorem setFld_freeCtr {a v : Nat} {f : Field} : (s.setFld a f v).freeCtr = s.freeCtr := rfl
@[simp] theorem setFld_log {a v : Nat} {f : Field} : (s.setFld a f v).log = s.log := rfl
@[simp] theorem setFld_link {a v : Nat} {f : Field} : (s.setFld a f v).link = s.link := rfl
@[simp] theorem setFld_dma {a v : Nat} {f : Field} : (s.setFld a f v).dma = s.dma := rfl
@[simp] theorem setFld_granary {a v : Nat} {f : Field} : (s.setFld a f v).granary = s.granary := rfl
@[simp] theorem setFld_dramValid {a v : Nat} {f : Field} : (s.setFld a f v).dramValid = s.dramValid := rfl
@[simp] theorem setFld_miller {a v : Nat} {f : Field} : (s.setFld a f v).miller = s.miller := rfl
@[simp] theorem setFld_pend {a v : Nat} {f : Field} : (s.setFld a f v).pend = s.pend := rfl
@[simp] theorem setFld_landed {a v : Nat} {f : Field} : (s.setFld a f v).landed = s.landed := rfl
@[simp] theorem setFld_weaver {a v : Nat} {f : Field} : (s.setFld a f v).weaver = s.weaver := rfl
@[simp] theorem setFld_hcs {a v : Nat} {f : Field} : (s.setFld a f v).hcs = s.hcs := rfl
@[simp] theorem setFld_pos {a v : Nat} {f : Field} : (s.setFld a f v).pos = s.pos := rfl
@[simp] theorem setFld_br {a v : Nat} {f : Field} : (s.setFld a f v).br = s.br := rfl
@[simp] theorem setFld_cam {a v : Nat} {f : Field} : (s.setFld a f v).cam = s.cam := rfl
@[simp] theorem setFld_cal {a v : Nat} {f : Field} : (s.setFld a f v).cal = s.cal := rfl
@[simp] theorem setFld_axes {a v : Nat} {f : Field} : (s.setFld a f v).axes = s.axes := rfl
@[simp] theorem setFld_mot {a v : Nat} {f : Field} : (s.setFld a f v).mot = s.mot := rfl
@[simp] theorem setFld_eth {a v : Nat} {f : Field} : (s.setFld a f v).eth = s.eth := rfl
@[simp] theorem setFld_pages {a v : Nat} {f : Field} : (s.setFld a f v).pages = s.pages := rfl
@[simp] theorem setFld_subs {a v : Nat} {f : Field} : (s.setFld a f v).subs = s.subs := rfl
@[simp] theorem setFld_lastEvents {a v : Nat} {f : Field} : (s.setFld a f v).lastEvents = s.lastEvents := rfl
@[simp] theorem setFld_pwr {a v : Nat} {f : Field} : (s.setFld a f v).pwr = s.pwr := rfl
@[simp] theorem setFld_flash {a v : Nat} {f : Field} : (s.setFld a f v).flash = s.flash := rfl
@[simp] theorem setFld_sec {a v : Nat} {f : Field} : (s.setFld a f v).sec = s.sec := rfl
@[simp] theorem setFld_pending {a v : Nat} {f : Field} : (s.setFld a f v).pending = s.pending := rfl
@[simp] theorem byte_setFld {j : Nat} {a v : Nat} {f : Field} : (s.setFld a f v).byte j = s.byte j := rfl

@[simp] theorem setBit_now {a : Nat} {f : Field} {b : Bool} : (s.setBit a f b).now = s.now := rfl
@[simp] theorem setBit_mem {a : Nat} {f : Field} {b : Bool} : (s.setBit a f b).mem = s.mem := rfl
@[simp] theorem setBit_highLatch {a : Nat} {f : Field} {b : Bool} : (s.setBit a f b).highLatch = s.highLatch := rfl
@[simp] theorem setBit_halfWrites {a : Nat} {f : Field} {b : Bool} : (s.setBit a f b).halfWrites = s.halfWrites := rfl
@[simp] theorem setBit_resp {a : Nat} {f : Field} {b : Bool} : (s.setBit a f b).resp = s.resp := rfl
@[simp] theorem setBit_freeCtr {a : Nat} {f : Field} {b : Bool} : (s.setBit a f b).freeCtr = s.freeCtr := rfl
@[simp] theorem setBit_log {a : Nat} {f : Field} {b : Bool} : (s.setBit a f b).log = s.log := rfl
@[simp] theorem setBit_link {a : Nat} {f : Field} {b : Bool} : (s.setBit a f b).link = s.link := rfl
@[simp] theorem setBit_dma {a : Nat} {f : Field} {b : Bool} : (s.setBit a f b).dma = s.dma := rfl
@[simp] theorem setBit_granary {a : Nat} {f : Field} {b : Bool} : (s.setBit a f b).granary = s.granary := rfl
@[simp] theorem setBit_dramValid {a : Nat} {f : Field} {b : Bool} : (s.setBit a f b).dramValid = s.dramValid := rfl
@[simp] theorem setBit_miller {a : Nat} {f : Field} {b : Bool} : (s.setBit a f b).miller = s.miller := rfl
@[simp] theorem setBit_pend {a : Nat} {f : Field} {b : Bool} : (s.setBit a f b).pend = s.pend := rfl
@[simp] theorem setBit_landed {a : Nat} {f : Field} {b : Bool} : (s.setBit a f b).landed = s.landed := rfl
@[simp] theorem setBit_weaver {a : Nat} {f : Field} {b : Bool} : (s.setBit a f b).weaver = s.weaver := rfl
@[simp] theorem setBit_hcs {a : Nat} {f : Field} {b : Bool} : (s.setBit a f b).hcs = s.hcs := rfl
@[simp] theorem setBit_pos {a : Nat} {f : Field} {b : Bool} : (s.setBit a f b).pos = s.pos := rfl
@[simp] theorem setBit_br {a : Nat} {f : Field} {b : Bool} : (s.setBit a f b).br = s.br := rfl
@[simp] theorem setBit_cam {a : Nat} {f : Field} {b : Bool} : (s.setBit a f b).cam = s.cam := rfl
@[simp] theorem setBit_cal {a : Nat} {f : Field} {b : Bool} : (s.setBit a f b).cal = s.cal := rfl
@[simp] theorem setBit_axes {a : Nat} {f : Field} {b : Bool} : (s.setBit a f b).axes = s.axes := rfl
@[simp] theorem setBit_mot {a : Nat} {f : Field} {b : Bool} : (s.setBit a f b).mot = s.mot := rfl
@[simp] theorem setBit_eth {a : Nat} {f : Field} {b : Bool} : (s.setBit a f b).eth = s.eth := rfl
@[simp] theorem setBit_pages {a : Nat} {f : Field} {b : Bool} : (s.setBit a f b).pages = s.pages := rfl
@[simp] theorem setBit_subs {a : Nat} {f : Field} {b : Bool} : (s.setBit a f b).subs = s.subs := rfl
@[simp] theorem setBit_lastEvents {a : Nat} {f : Field} {b : Bool} : (s.setBit a f b).lastEvents = s.lastEvents := rfl
@[simp] theorem setBit_pwr {a : Nat} {f : Field} {b : Bool} : (s.setBit a f b).pwr = s.pwr := rfl
@[simp] theorem setBit_flash {a : Nat} {f : Field} {b : Bool} : (s.setBit a f b).flash = s.flash := rfl
@[simp] theorem setBit_sec {a : Nat} {f : Field} {b : Bool} : (s.setBit a f b).sec = s.sec := rfl
@[simp] theorem setBit_pending {a : Nat} {f : Field} {b : Bool} : (s.setBit a f b).pending = s.pending := rfl
@[simp] theorem byte_setBit {j : Nat} {a : Nat} {f : Field} {b : Bool} : (s.setBit a f b).byte j = s.byte j := rfl

@[simp] theorem orFld_now {a i : Nat} {f : Field} : (s.orFld a f i).now = s.now := rfl
@[simp] theorem orFld_mem {a i : Nat} {f : Field} : (s.orFld a f i).mem = s.mem := rfl
@[simp] theorem orFld_highLatch {a i : Nat} {f : Field} : (s.orFld a f i).highLatch = s.highLatch := rfl
@[simp] theorem orFld_halfWrites {a i : Nat} {f : Field} : (s.orFld a f i).halfWrites = s.halfWrites := rfl
@[simp] theorem orFld_resp {a i : Nat} {f : Field} : (s.orFld a f i).resp = s.resp := rfl
@[simp] theorem orFld_freeCtr {a i : Nat} {f : Field} : (s.orFld a f i).freeCtr = s.freeCtr := rfl
@[simp] theorem orFld_log {a i : Nat} {f : Field} : (s.orFld a f i).log = s.log := rfl
@[simp] theorem orFld_link {a i : Nat} {f : Field} : (s.orFld a f i).link = s.link := rfl
@[simp] theorem orFld_dma {a i : Nat} {f : Field} : (s.orFld a f i).dma = s.dma := rfl
@[simp] theorem orFld_granary {a i : Nat} {f : Field} : (s.orFld a f i).granary = s.granary := rfl
@[simp] theorem orFld_dramValid {a i : Nat} {f : Field} : (s.orFld a f i).dramValid = s.dramValid := rfl
@[simp] theorem orFld_miller {a i : Nat} {f : Field} : (s.orFld a f i).miller = s.miller := rfl
@[simp] theorem orFld_pend {a i : Nat} {f : Field} : (s.orFld a f i).pend = s.pend := rfl
@[simp] theorem orFld_landed {a i : Nat} {f : Field} : (s.orFld a f i).landed = s.landed := rfl
@[simp] theorem orFld_weaver {a i : Nat} {f : Field} : (s.orFld a f i).weaver = s.weaver := rfl
@[simp] theorem orFld_hcs {a i : Nat} {f : Field} : (s.orFld a f i).hcs = s.hcs := rfl
@[simp] theorem orFld_pos {a i : Nat} {f : Field} : (s.orFld a f i).pos = s.pos := rfl
@[simp] theorem orFld_br {a i : Nat} {f : Field} : (s.orFld a f i).br = s.br := rfl
@[simp] theorem orFld_cam {a i : Nat} {f : Field} : (s.orFld a f i).cam = s.cam := rfl
@[simp] theorem orFld_cal {a i : Nat} {f : Field} : (s.orFld a f i).cal = s.cal := rfl
@[simp] theorem orFld_axes {a i : Nat} {f : Field} : (s.orFld a f i).axes = s.axes := rfl
@[simp] theorem orFld_mot {a i : Nat} {f : Field} : (s.orFld a f i).mot = s.mot := rfl
@[simp] theorem orFld_eth {a i : Nat} {f : Field} : (s.orFld a f i).eth = s.eth := rfl
@[simp] theorem orFld_pages {a i : Nat} {f : Field} : (s.orFld a f i).pages = s.pages := rfl
@[simp] theorem orFld_subs {a i : Nat} {f : Field} : (s.orFld a f i).subs = s.subs := rfl
@[simp] theorem orFld_lastEvents {a i : Nat} {f : Field} : (s.orFld a f i).lastEvents = s.lastEvents := rfl
@[simp] theorem orFld_pwr {a i : Nat} {f : Field} : (s.orFld a f i).pwr = s.pwr := rfl
@[simp] theorem orFld_flash {a i : Nat} {f : Field} : (s.orFld a f i).flash = s.flash := rfl
@[simp] theorem orFld_sec {a i : Nat} {f : Field} : (s.orFld a f i).sec = s.sec := rfl
@[simp] theorem orFld_pending {a i : Nat} {f : Field} : (s.orFld a f i).pending = s.pending := rfl
@[simp] theorem byte_orFld {j : Nat} {a i : Nat} {f : Field} : (s.orFld a f i).byte j = s.byte j := rfl

@[simp] theorem count_now {a i : Nat} {f : Field} : (s.count a f i).now = s.now := rfl
@[simp] theorem count_mem {a i : Nat} {f : Field} : (s.count a f i).mem = s.mem := rfl
@[simp] theorem count_highLatch {a i : Nat} {f : Field} : (s.count a f i).highLatch = s.highLatch := rfl
@[simp] theorem count_halfWrites {a i : Nat} {f : Field} : (s.count a f i).halfWrites = s.halfWrites := rfl
@[simp] theorem count_resp {a i : Nat} {f : Field} : (s.count a f i).resp = s.resp := rfl
@[simp] theorem count_freeCtr {a i : Nat} {f : Field} : (s.count a f i).freeCtr = s.freeCtr := rfl
@[simp] theorem count_log {a i : Nat} {f : Field} : (s.count a f i).log = s.log := rfl
@[simp] theorem count_link {a i : Nat} {f : Field} : (s.count a f i).link = s.link := rfl
@[simp] theorem count_dma {a i : Nat} {f : Field} : (s.count a f i).dma = s.dma := rfl
@[simp] theorem count_granary {a i : Nat} {f : Field} : (s.count a f i).granary = s.granary := rfl
@[simp] theorem count_dramValid {a i : Nat} {f : Field} : (s.count a f i).dramValid = s.dramValid := rfl
@[simp] theorem count_miller {a i : Nat} {f : Field} : (s.count a f i).miller = s.miller := rfl
@[simp] theorem count_pend {a i : Nat} {f : Field} : (s.count a f i).pend = s.pend := rfl
@[simp] theorem count_landed {a i : Nat} {f : Field} : (s.count a f i).landed = s.landed := rfl
@[simp] theorem count_weaver {a i : Nat} {f : Field} : (s.count a f i).weaver = s.weaver := rfl
@[simp] theorem count_hcs {a i : Nat} {f : Field} : (s.count a f i).hcs = s.hcs := rfl
@[simp] theorem count_pos {a i : Nat} {f : Field} : (s.count a f i).pos = s.pos := rfl
@[simp] theorem count_br {a i : Nat} {f : Field} : (s.count a f i).br = s.br := rfl
@[simp] theorem count_cam {a i : Nat} {f : Field} : (s.count a f i).cam = s.cam := rfl
@[simp] theorem count_cal {a i : Nat} {f : Field} : (s.count a f i).cal = s.cal := rfl
@[simp] theorem count_axes {a i : Nat} {f : Field} : (s.count a f i).axes = s.axes := rfl
@[simp] theorem count_mot {a i : Nat} {f : Field} : (s.count a f i).mot = s.mot := rfl
@[simp] theorem count_eth {a i : Nat} {f : Field} : (s.count a f i).eth = s.eth := rfl
@[simp] theorem count_pages {a i : Nat} {f : Field} : (s.count a f i).pages = s.pages := rfl
@[simp] theorem count_subs {a i : Nat} {f : Field} : (s.count a f i).subs = s.subs := rfl
@[simp] theorem count_lastEvents {a i : Nat} {f : Field} : (s.count a f i).lastEvents = s.lastEvents := rfl
@[simp] theorem count_pwr {a i : Nat} {f : Field} : (s.count a f i).pwr = s.pwr := rfl
@[simp] theorem count_flash {a i : Nat} {f : Field} : (s.count a f i).flash = s.flash := rfl
@[simp] theorem count_sec {a i : Nat} {f : Field} : (s.count a f i).sec = s.sec := rfl
@[simp] theorem count_pending {a i : Nat} {f : Field} : (s.count a f i).pending = s.pending := rfl
@[simp] theorem byte_count {j : Nat} {a i : Nat} {f : Field} : (s.count a f i).byte j = s.byte j := rfl

@[simp] theorem setWide_now {a v : Nat} : (s.setWide a v).now = s.now := rfl
@[simp] theorem setWide_mem {a v : Nat} : (s.setWide a v).mem = s.mem := rfl
@[simp] theorem setWide_highLatch {a v : Nat} : (s.setWide a v).highLatch = s.highLatch := rfl
@[simp] theorem setWide_halfWrites {a v : Nat} : (s.setWide a v).halfWrites = s.halfWrites := rfl
@[simp] theorem setWide_resp {a v : Nat} : (s.setWide a v).resp = s.resp := rfl
@[simp] theorem setWide_freeCtr {a v : Nat} : (s.setWide a v).freeCtr = s.freeCtr := rfl
@[simp] theorem setWide_log {a v : Nat} : (s.setWide a v).log = s.log := rfl
@[simp] theorem setWide_link {a v : Nat} : (s.setWide a v).link = s.link := rfl
@[simp] theorem setWide_dma {a v : Nat} : (s.setWide a v).dma = s.dma := rfl
@[simp] theorem setWide_granary {a v : Nat} : (s.setWide a v).granary = s.granary := rfl
@[simp] theorem setWide_dramValid {a v : Nat} : (s.setWide a v).dramValid = s.dramValid := rfl
@[simp] theorem setWide_miller {a v : Nat} : (s.setWide a v).miller = s.miller := rfl
@[simp] theorem setWide_pend {a v : Nat} : (s.setWide a v).pend = s.pend := rfl
@[simp] theorem setWide_landed {a v : Nat} : (s.setWide a v).landed = s.landed := rfl
@[simp] theorem setWide_weaver {a v : Nat} : (s.setWide a v).weaver = s.weaver := rfl
@[simp] theorem setWide_hcs {a v : Nat} : (s.setWide a v).hcs = s.hcs := rfl
@[simp] theorem setWide_pos {a v : Nat} : (s.setWide a v).pos = s.pos := rfl
@[simp] theorem setWide_br {a v : Nat} : (s.setWide a v).br = s.br := rfl
@[simp] theorem setWide_cam {a v : Nat} : (s.setWide a v).cam = s.cam := rfl
@[simp] theorem setWide_cal {a v : Nat} : (s.setWide a v).cal = s.cal := rfl
@[simp] theorem setWide_axes {a v : Nat} : (s.setWide a v).axes = s.axes := rfl
@[simp] theorem setWide_mot {a v : Nat} : (s.setWide a v).mot = s.mot := rfl
@[simp] theorem setWide_eth {a v : Nat} : (s.setWide a v).eth = s.eth := rfl
@[simp] theorem setWide_pages {a v : Nat} : (s.setWide a v).pages = s.pages := rfl
@[simp] theorem setWide_subs {a v : Nat} : (s.setWide a v).subs = s.subs := rfl
@[simp] theorem setWide_lastEvents {a v : Nat} : (s.setWide a v).lastEvents = s.lastEvents := rfl
@[simp] theorem setWide_pwr {a v : Nat} : (s.setWide a v).pwr = s.pwr := rfl
@[simp] theorem setWide_flash {a v : Nat} : (s.setWide a v).flash = s.flash := rfl
@[simp] theorem setWide_sec {a v : Nat} : (s.setWide a v).sec = s.sec := rfl
@[simp] theorem setWide_pending {a v : Nat} : (s.setWide a v).pending = s.pending := rfl
@[simp] theorem byte_setWide {j : Nat} {a v : Nat} : (s.setWide a v).byte j = s.byte j := rfl

@[simp] theorem setByte_now {a : Nat} {b : Byte} : (s.setByte a b).now = s.now := rfl
@[simp] theorem setByte_regs {a : Nat} {b : Byte} : (s.setByte a b).regs = s.regs := rfl
@[simp] theorem setByte_highLatch {a : Nat} {b : Byte} : (s.setByte a b).highLatch = s.highLatch := rfl
@[simp] theorem setByte_halfWrites {a : Nat} {b : Byte} : (s.setByte a b).halfWrites = s.halfWrites := rfl
@[simp] theorem setByte_resp {a : Nat} {b : Byte} : (s.setByte a b).resp = s.resp := rfl
@[simp] theorem setByte_freeCtr {a : Nat} {b : Byte} : (s.setByte a b).freeCtr = s.freeCtr := rfl
@[simp] theorem setByte_log {a : Nat} {b : Byte} : (s.setByte a b).log = s.log := rfl
@[simp] theorem setByte_link {a : Nat} {b : Byte} : (s.setByte a b).link = s.link := rfl
@[simp] theorem setByte_dma {a : Nat} {b : Byte} : (s.setByte a b).dma = s.dma := rfl
@[simp] theorem setByte_granary {a : Nat} {b : Byte} : (s.setByte a b).granary = s.granary := rfl
@[simp] theorem setByte_dramValid {a : Nat} {b : Byte} : (s.setByte a b).dramValid = s.dramValid := rfl
@[simp] theorem setByte_miller {a : Nat} {b : Byte} : (s.setByte a b).miller = s.miller := rfl
@[simp] theorem setByte_pend {a : Nat} {b : Byte} : (s.setByte a b).pend = s.pend := rfl
@[simp] theorem setByte_landed {a : Nat} {b : Byte} : (s.setByte a b).landed = s.landed := rfl
@[simp] theorem setByte_weaver {a : Nat} {b : Byte} : (s.setByte a b).weaver = s.weaver := rfl
@[simp] theorem setByte_hcs {a : Nat} {b : Byte} : (s.setByte a b).hcs = s.hcs := rfl
@[simp] theorem setByte_pos {a : Nat} {b : Byte} : (s.setByte a b).pos = s.pos := rfl
@[simp] theorem setByte_br {a : Nat} {b : Byte} : (s.setByte a b).br = s.br := rfl
@[simp] theorem setByte_cam {a : Nat} {b : Byte} : (s.setByte a b).cam = s.cam := rfl
@[simp] theorem setByte_cal {a : Nat} {b : Byte} : (s.setByte a b).cal = s.cal := rfl
@[simp] theorem setByte_axes {a : Nat} {b : Byte} : (s.setByte a b).axes = s.axes := rfl
@[simp] theorem setByte_mot {a : Nat} {b : Byte} : (s.setByte a b).mot = s.mot := rfl
@[simp] theorem setByte_eth {a : Nat} {b : Byte} : (s.setByte a b).eth = s.eth := rfl
@[simp] theorem setByte_pages {a : Nat} {b : Byte} : (s.setByte a b).pages = s.pages := rfl
@[simp] theorem setByte_subs {a : Nat} {b : Byte} : (s.setByte a b).subs = s.subs := rfl
@[simp] theorem setByte_lastEvents {a : Nat} {b : Byte} : (s.setByte a b).lastEvents = s.lastEvents := rfl
@[simp] theorem setByte_pwr {a : Nat} {b : Byte} : (s.setByte a b).pwr = s.pwr := rfl
@[simp] theorem setByte_flash {a : Nat} {b : Byte} : (s.setByte a b).flash = s.flash := rfl
@[simp] theorem setByte_sec {a : Nat} {b : Byte} : (s.setByte a b).sec = s.sec := rfl
@[simp] theorem setByte_pending {a : Nat} {b : Byte} : (s.setByte a b).pending = s.pending := rfl
@[simp] theorem reg_setByte {j : Nat} {a : Nat} {b : Byte} : (s.setByte a b).reg j = s.reg j := rfl
@[simp] theorem fld_setByte {j : Nat} {e : Field} {a : Nat} {b : Byte} : (s.setByte a b).fld j e = s.fld j e := rfl
@[simp] theorem bit_setByte {j : Nat} {e : Field} {a : Nat} {b : Byte} : (s.setByte a b).bit j e = s.bit j e := rfl

@[simp] theorem setBytes_now {a : Nat} {l : List Byte} : (s.setBytes a l).now = s.now := rfl
@[simp] theorem setBytes_regs {a : Nat} {l : List Byte} : (s.setBytes a l).regs = s.regs := rfl
@[simp] theorem setBytes_highLatch {a : Nat} {l : List Byte} : (s.setBytes a l).highLatch = s.highLatch := rfl
@[simp] theorem setBytes_halfWrites {a : Nat} {l : List Byte} : (s.setBytes a l).halfWrites = s.halfWrites := rfl
@[simp] theorem setBytes_resp {a : Nat} {l : List Byte} : (s.setBytes a l).resp = s.resp := rfl
@[simp] theorem setBytes_freeCtr {a : Nat} {l : List Byte} : (s.setBytes a l).freeCtr = s.freeCtr := rfl
@[simp] theorem setBytes_log {a : Nat} {l : List Byte} : (s.setBytes a l).log = s.log := rfl
@[simp] theorem setBytes_link {a : Nat} {l : List Byte} : (s.setBytes a l).link = s.link := rfl
@[simp] theorem setBytes_dma {a : Nat} {l : List Byte} : (s.setBytes a l).dma = s.dma := rfl
@[simp] theorem setBytes_granary {a : Nat} {l : List Byte} : (s.setBytes a l).granary = s.granary := rfl
@[simp] theorem setBytes_dramValid {a : Nat} {l : List Byte} : (s.setBytes a l).dramValid = s.dramValid := rfl
@[simp] theorem setBytes_miller {a : Nat} {l : List Byte} : (s.setBytes a l).miller = s.miller := rfl
@[simp] theorem setBytes_pend {a : Nat} {l : List Byte} : (s.setBytes a l).pend = s.pend := rfl
@[simp] theorem setBytes_landed {a : Nat} {l : List Byte} : (s.setBytes a l).landed = s.landed := rfl
@[simp] theorem setBytes_weaver {a : Nat} {l : List Byte} : (s.setBytes a l).weaver = s.weaver := rfl
@[simp] theorem setBytes_hcs {a : Nat} {l : List Byte} : (s.setBytes a l).hcs = s.hcs := rfl
@[simp] theorem setBytes_pos {a : Nat} {l : List Byte} : (s.setBytes a l).pos = s.pos := rfl
@[simp] theorem setBytes_br {a : Nat} {l : List Byte} : (s.setBytes a l).br = s.br := rfl
@[simp] theorem setBytes_cam {a : Nat} {l : List Byte} : (s.setBytes a l).cam = s.cam := rfl
@[simp] theorem setBytes_cal {a : Nat} {l : List Byte} : (s.setBytes a l).cal = s.cal := rfl
@[simp] theorem setBytes_axes {a : Nat} {l : List Byte} : (s.setBytes a l).axes = s.axes := rfl
@[simp] theorem setBytes_mot {a : Nat} {l : List Byte} : (s.setBytes a l).mot = s.mot := rfl
@[simp] theorem setBytes_eth {a : Nat} {l : List Byte} : (s.setBytes a l).eth = s.eth := rfl
@[simp] theorem setBytes_pages {a : Nat} {l : List Byte} : (s.setBytes a l).pages = s.pages := rfl
@[simp] theorem setBytes_subs {a : Nat} {l : List Byte} : (s.setBytes a l).subs = s.subs := rfl
@[simp] theorem setBytes_lastEvents {a : Nat} {l : List Byte} : (s.setBytes a l).lastEvents = s.lastEvents := rfl
@[simp] theorem setBytes_pwr {a : Nat} {l : List Byte} : (s.setBytes a l).pwr = s.pwr := rfl
@[simp] theorem setBytes_flash {a : Nat} {l : List Byte} : (s.setBytes a l).flash = s.flash := rfl
@[simp] theorem setBytes_sec {a : Nat} {l : List Byte} : (s.setBytes a l).sec = s.sec := rfl
@[simp] theorem setBytes_pending {a : Nat} {l : List Byte} : (s.setBytes a l).pending = s.pending := rfl
@[simp] theorem reg_setBytes {j : Nat} {a : Nat} {l : List Byte} : (s.setBytes a l).reg j = s.reg j := rfl
@[simp] theorem fld_setBytes {j : Nat} {e : Field} {a : Nat} {l : List Byte} : (s.setBytes a l).fld j e = s.fld j e := rfl
@[simp] theorem bit_setBytes {j : Nat} {e : Field} {a : Nat} {l : List Byte} : (s.setBytes a l).bit j e = s.bit j e := rfl

@[simp] theorem okResp_now {q : Requester} {l : List Byte} : (s.okResp q l).now = s.now := rfl
@[simp] theorem okResp_regs {q : Requester} {l : List Byte} : (s.okResp q l).regs = s.regs := rfl
@[simp] theorem okResp_mem {q : Requester} {l : List Byte} : (s.okResp q l).mem = s.mem := rfl
@[simp] theorem okResp_highLatch {q : Requester} {l : List Byte} : (s.okResp q l).highLatch = s.highLatch := rfl
@[simp] theorem okResp_halfWrites {q : Requester} {l : List Byte} : (s.okResp q l).halfWrites = s.halfWrites := rfl
@[simp] theorem okResp_freeCtr {q : Requester} {l : List Byte} : (s.okResp q l).freeCtr = s.freeCtr := rfl
@[simp] theorem okResp_log {q : Requester} {l : List Byte} : (s.okResp q l).log = s.log := rfl
@[simp] theorem okResp_link {q : Requester} {l : List Byte} : (s.okResp q l).link = s.link := rfl
@[simp] theorem okResp_dma {q : Requester} {l : List Byte} : (s.okResp q l).dma = s.dma := rfl
@[simp] theorem okResp_granary {q : Requester} {l : List Byte} : (s.okResp q l).granary = s.granary := rfl
@[simp] theorem okResp_dramValid {q : Requester} {l : List Byte} : (s.okResp q l).dramValid = s.dramValid := rfl
@[simp] theorem okResp_miller {q : Requester} {l : List Byte} : (s.okResp q l).miller = s.miller := rfl
@[simp] theorem okResp_pend {q : Requester} {l : List Byte} : (s.okResp q l).pend = s.pend := rfl
@[simp] theorem okResp_landed {q : Requester} {l : List Byte} : (s.okResp q l).landed = s.landed := rfl
@[simp] theorem okResp_weaver {q : Requester} {l : List Byte} : (s.okResp q l).weaver = s.weaver := rfl
@[simp] theorem okResp_hcs {q : Requester} {l : List Byte} : (s.okResp q l).hcs = s.hcs := rfl
@[simp] theorem okResp_pos {q : Requester} {l : List Byte} : (s.okResp q l).pos = s.pos := rfl
@[simp] theorem okResp_br {q : Requester} {l : List Byte} : (s.okResp q l).br = s.br := rfl
@[simp] theorem okResp_cam {q : Requester} {l : List Byte} : (s.okResp q l).cam = s.cam := rfl
@[simp] theorem okResp_cal {q : Requester} {l : List Byte} : (s.okResp q l).cal = s.cal := rfl
@[simp] theorem okResp_axes {q : Requester} {l : List Byte} : (s.okResp q l).axes = s.axes := rfl
@[simp] theorem okResp_mot {q : Requester} {l : List Byte} : (s.okResp q l).mot = s.mot := rfl
@[simp] theorem okResp_eth {q : Requester} {l : List Byte} : (s.okResp q l).eth = s.eth := rfl
@[simp] theorem okResp_pages {q : Requester} {l : List Byte} : (s.okResp q l).pages = s.pages := rfl
@[simp] theorem okResp_subs {q : Requester} {l : List Byte} : (s.okResp q l).subs = s.subs := rfl
@[simp] theorem okResp_lastEvents {q : Requester} {l : List Byte} : (s.okResp q l).lastEvents = s.lastEvents := rfl
@[simp] theorem okResp_pwr {q : Requester} {l : List Byte} : (s.okResp q l).pwr = s.pwr := rfl
@[simp] theorem okResp_flash {q : Requester} {l : List Byte} : (s.okResp q l).flash = s.flash := rfl
@[simp] theorem okResp_sec {q : Requester} {l : List Byte} : (s.okResp q l).sec = s.sec := rfl
@[simp] theorem okResp_pending {q : Requester} {l : List Byte} : (s.okResp q l).pending = s.pending := rfl
@[simp] theorem reg_okResp {j : Nat} {q : Requester} {l : List Byte} : (s.okResp q l).reg j = s.reg j := rfl
@[simp] theorem fld_okResp {j : Nat} {e : Field} {q : Requester} {l : List Byte} : (s.okResp q l).fld j e = s.fld j e := rfl
@[simp] theorem bit_okResp {j : Nat} {e : Field} {q : Requester} {l : List Byte} : (s.okResp q l).bit j e = s.bit j e := rfl
@[simp] theorem byte_okResp {j : Nat} {q : Requester} {l : List Byte} : (s.okResp q l).byte j = s.byte j := rfl

@[simp] theorem errResp_now {q : Requester} : (s.errResp q).now = s.now := rfl
@[simp] theorem errResp_regs {q : Requester} : (s.errResp q).regs = s.regs := rfl
@[simp] theorem errResp_mem {q : Requester} : (s.errResp q).mem = s.mem := rfl
@[simp] theorem errResp_highLatch {q : Requester} : (s.errResp q).highLatch = s.highLatch := rfl
@[simp] theorem errResp_halfWrites {q : Requester} : (s.errResp q).halfWrites = s.halfWrites := rfl
@[simp] theorem errResp_freeCtr {q : Requester} : (s.errResp q).freeCtr = s.freeCtr := rfl
@[simp] theorem errResp_log {q : Requester} : (s.errResp q).log = s.log := rfl
@[simp] theorem errResp_link {q : Requester} : (s.errResp q).link = s.link := rfl
@[simp] theorem errResp_dma {q : Requester} : (s.errResp q).dma = s.dma := rfl
@[simp] theorem errResp_granary {q : Requester} : (s.errResp q).granary = s.granary := rfl
@[simp] theorem errResp_dramValid {q : Requester} : (s.errResp q).dramValid = s.dramValid := rfl
@[simp] theorem errResp_miller {q : Requester} : (s.errResp q).miller = s.miller := rfl
@[simp] theorem errResp_pend {q : Requester} : (s.errResp q).pend = s.pend := rfl
@[simp] theorem errResp_landed {q : Requester} : (s.errResp q).landed = s.landed := rfl
@[simp] theorem errResp_weaver {q : Requester} : (s.errResp q).weaver = s.weaver := rfl
@[simp] theorem errResp_hcs {q : Requester} : (s.errResp q).hcs = s.hcs := rfl
@[simp] theorem errResp_pos {q : Requester} : (s.errResp q).pos = s.pos := rfl
@[simp] theorem errResp_br {q : Requester} : (s.errResp q).br = s.br := rfl
@[simp] theorem errResp_cam {q : Requester} : (s.errResp q).cam = s.cam := rfl
@[simp] theorem errResp_cal {q : Requester} : (s.errResp q).cal = s.cal := rfl
@[simp] theorem errResp_axes {q : Requester} : (s.errResp q).axes = s.axes := rfl
@[simp] theorem errResp_mot {q : Requester} : (s.errResp q).mot = s.mot := rfl
@[simp] theorem errResp_eth {q : Requester} : (s.errResp q).eth = s.eth := rfl
@[simp] theorem errResp_pages {q : Requester} : (s.errResp q).pages = s.pages := rfl
@[simp] theorem errResp_subs {q : Requester} : (s.errResp q).subs = s.subs := rfl
@[simp] theorem errResp_lastEvents {q : Requester} : (s.errResp q).lastEvents = s.lastEvents := rfl
@[simp] theorem errResp_pwr {q : Requester} : (s.errResp q).pwr = s.pwr := rfl
@[simp] theorem errResp_flash {q : Requester} : (s.errResp q).flash = s.flash := rfl
@[simp] theorem errResp_sec {q : Requester} : (s.errResp q).sec = s.sec := rfl
@[simp] theorem errResp_pending {q : Requester} : (s.errResp q).pending = s.pending := rfl
@[simp] theorem reg_errResp {j : Nat} {q : Requester} : (s.errResp q).reg j = s.reg j := rfl
@[simp] theorem fld_errResp {j : Nat} {e : Field} {q : Requester} : (s.errResp q).fld j e = s.fld j e := rfl
@[simp] theorem bit_errResp {j : Nat} {e : Field} {q : Requester} : (s.errResp q).bit j e = s.bit j e := rfl
@[simp] theorem byte_errResp {j : Nat} {q : Requester} : (s.errResp q).byte j = s.byte j := rfl

@[simp] theorem drawn_now : (s.drawn).now = s.now := rfl
@[simp] theorem drawn_regs : (s.drawn).regs = s.regs := rfl
@[simp] theorem drawn_mem : (s.drawn).mem = s.mem := rfl
@[simp] theorem drawn_highLatch : (s.drawn).highLatch = s.highLatch := rfl
@[simp] theorem drawn_halfWrites : (s.drawn).halfWrites = s.halfWrites := rfl
@[simp] theorem drawn_resp : (s.drawn).resp = s.resp := rfl
@[simp] theorem drawn_log : (s.drawn).log = s.log := rfl
@[simp] theorem drawn_link : (s.drawn).link = s.link := rfl
@[simp] theorem drawn_dma : (s.drawn).dma = s.dma := rfl
@[simp] theorem drawn_granary : (s.drawn).granary = s.granary := rfl
@[simp] theorem drawn_dramValid : (s.drawn).dramValid = s.dramValid := rfl
@[simp] theorem drawn_miller : (s.drawn).miller = s.miller := rfl
@[simp] theorem drawn_pend : (s.drawn).pend = s.pend := rfl
@[simp] theorem drawn_landed : (s.drawn).landed = s.landed := rfl
@[simp] theorem drawn_weaver : (s.drawn).weaver = s.weaver := rfl
@[simp] theorem drawn_hcs : (s.drawn).hcs = s.hcs := rfl
@[simp] theorem drawn_pos : (s.drawn).pos = s.pos := rfl
@[simp] theorem drawn_br : (s.drawn).br = s.br := rfl
@[simp] theorem drawn_cam : (s.drawn).cam = s.cam := rfl
@[simp] theorem drawn_cal : (s.drawn).cal = s.cal := rfl
@[simp] theorem drawn_axes : (s.drawn).axes = s.axes := rfl
@[simp] theorem drawn_mot : (s.drawn).mot = s.mot := rfl
@[simp] theorem drawn_eth : (s.drawn).eth = s.eth := rfl
@[simp] theorem drawn_pages : (s.drawn).pages = s.pages := rfl
@[simp] theorem drawn_subs : (s.drawn).subs = s.subs := rfl
@[simp] theorem drawn_lastEvents : (s.drawn).lastEvents = s.lastEvents := rfl
@[simp] theorem drawn_pwr : (s.drawn).pwr = s.pwr := rfl
@[simp] theorem drawn_flash : (s.drawn).flash = s.flash := rfl
@[simp] theorem drawn_sec : (s.drawn).sec = s.sec := rfl
@[simp] theorem drawn_pending : (s.drawn).pending = s.pending := rfl
@[simp] theorem reg_drawn {j : Nat} : (s.drawn).reg j = s.reg j := rfl
@[simp] theorem fld_drawn {j : Nat} {e : Field} : (s.drawn).fld j e = s.fld j e := rfl
@[simp] theorem bit_drawn {j : Nat} {e : Field} : (s.drawn).bit j e = s.bit j e := rfl
@[simp] theorem byte_drawn {j : Nat} : (s.drawn).byte j = s.byte j := rfl

@[simp] theorem drawnN_now {n : Nat} : (s.drawnN n).now = s.now := rfl
@[simp] theorem drawnN_regs {n : Nat} : (s.drawnN n).regs = s.regs := rfl
@[simp] theorem drawnN_mem {n : Nat} : (s.drawnN n).mem = s.mem := rfl
@[simp] theorem drawnN_highLatch {n : Nat} : (s.drawnN n).highLatch = s.highLatch := rfl
@[simp] theorem drawnN_halfWrites {n : Nat} : (s.drawnN n).halfWrites = s.halfWrites := rfl
@[simp] theorem drawnN_resp {n : Nat} : (s.drawnN n).resp = s.resp := rfl
@[simp] theorem drawnN_log {n : Nat} : (s.drawnN n).log = s.log := rfl
@[simp] theorem drawnN_link {n : Nat} : (s.drawnN n).link = s.link := rfl
@[simp] theorem drawnN_dma {n : Nat} : (s.drawnN n).dma = s.dma := rfl
@[simp] theorem drawnN_granary {n : Nat} : (s.drawnN n).granary = s.granary := rfl
@[simp] theorem drawnN_dramValid {n : Nat} : (s.drawnN n).dramValid = s.dramValid := rfl
@[simp] theorem drawnN_miller {n : Nat} : (s.drawnN n).miller = s.miller := rfl
@[simp] theorem drawnN_pend {n : Nat} : (s.drawnN n).pend = s.pend := rfl
@[simp] theorem drawnN_landed {n : Nat} : (s.drawnN n).landed = s.landed := rfl
@[simp] theorem drawnN_weaver {n : Nat} : (s.drawnN n).weaver = s.weaver := rfl
@[simp] theorem drawnN_hcs {n : Nat} : (s.drawnN n).hcs = s.hcs := rfl
@[simp] theorem drawnN_pos {n : Nat} : (s.drawnN n).pos = s.pos := rfl
@[simp] theorem drawnN_br {n : Nat} : (s.drawnN n).br = s.br := rfl
@[simp] theorem drawnN_cam {n : Nat} : (s.drawnN n).cam = s.cam := rfl
@[simp] theorem drawnN_cal {n : Nat} : (s.drawnN n).cal = s.cal := rfl
@[simp] theorem drawnN_axes {n : Nat} : (s.drawnN n).axes = s.axes := rfl
@[simp] theorem drawnN_mot {n : Nat} : (s.drawnN n).mot = s.mot := rfl
@[simp] theorem drawnN_eth {n : Nat} : (s.drawnN n).eth = s.eth := rfl
@[simp] theorem drawnN_pages {n : Nat} : (s.drawnN n).pages = s.pages := rfl
@[simp] theorem drawnN_subs {n : Nat} : (s.drawnN n).subs = s.subs := rfl
@[simp] theorem drawnN_lastEvents {n : Nat} : (s.drawnN n).lastEvents = s.lastEvents := rfl
@[simp] theorem drawnN_pwr {n : Nat} : (s.drawnN n).pwr = s.pwr := rfl
@[simp] theorem drawnN_flash {n : Nat} : (s.drawnN n).flash = s.flash := rfl
@[simp] theorem drawnN_sec {n : Nat} : (s.drawnN n).sec = s.sec := rfl
@[simp] theorem drawnN_pending {n : Nat} : (s.drawnN n).pending = s.pending := rfl
@[simp] theorem reg_drawnN {j : Nat} {n : Nat} : (s.drawnN n).reg j = s.reg j := rfl
@[simp] theorem fld_drawnN {j : Nat} {e : Field} {n : Nat} : (s.drawnN n).fld j e = s.fld j e := rfl
@[simp] theorem bit_drawnN {j : Nat} {e : Field} {n : Nat} : (s.drawnN n).bit j e = s.bit j e := rfl
@[simp] theorem byte_drawnN {j : Nat} {n : Nat} : (s.drawnN n).byte j = s.byte j := rfl

@[simp] theorem setPort_now {n : Nat} {x : PortSt} : (s.setPort n x).now = s.now := rfl
@[simp] theorem setPort_regs {n : Nat} {x : PortSt} : (s.setPort n x).regs = s.regs := rfl
@[simp] theorem setPort_mem {n : Nat} {x : PortSt} : (s.setPort n x).mem = s.mem := rfl
@[simp] theorem setPort_highLatch {n : Nat} {x : PortSt} : (s.setPort n x).highLatch = s.highLatch := rfl
@[simp] theorem setPort_halfWrites {n : Nat} {x : PortSt} : (s.setPort n x).halfWrites = s.halfWrites := rfl
@[simp] theorem setPort_resp {n : Nat} {x : PortSt} : (s.setPort n x).resp = s.resp := rfl
@[simp] theorem setPort_freeCtr {n : Nat} {x : PortSt} : (s.setPort n x).freeCtr = s.freeCtr := rfl
@[simp] theorem setPort_log {n : Nat} {x : PortSt} : (s.setPort n x).log = s.log := rfl
@[simp] theorem setPort_dma {n : Nat} {x : PortSt} : (s.setPort n x).dma = s.dma := rfl
@[simp] theorem setPort_granary {n : Nat} {x : PortSt} : (s.setPort n x).granary = s.granary := rfl
@[simp] theorem setPort_dramValid {n : Nat} {x : PortSt} : (s.setPort n x).dramValid = s.dramValid := rfl
@[simp] theorem setPort_miller {n : Nat} {x : PortSt} : (s.setPort n x).miller = s.miller := rfl
@[simp] theorem setPort_pend {n : Nat} {x : PortSt} : (s.setPort n x).pend = s.pend := rfl
@[simp] theorem setPort_landed {n : Nat} {x : PortSt} : (s.setPort n x).landed = s.landed := rfl
@[simp] theorem setPort_weaver {n : Nat} {x : PortSt} : (s.setPort n x).weaver = s.weaver := rfl
@[simp] theorem setPort_hcs {n : Nat} {x : PortSt} : (s.setPort n x).hcs = s.hcs := rfl
@[simp] theorem setPort_pos {n : Nat} {x : PortSt} : (s.setPort n x).pos = s.pos := rfl
@[simp] theorem setPort_br {n : Nat} {x : PortSt} : (s.setPort n x).br = s.br := rfl
@[simp] theorem setPort_cam {n : Nat} {x : PortSt} : (s.setPort n x).cam = s.cam := rfl
@[simp] theorem setPort_cal {n : Nat} {x : PortSt} : (s.setPort n x).cal = s.cal := rfl
@[simp] theorem setPort_axes {n : Nat} {x : PortSt} : (s.setPort n x).axes = s.axes := rfl
@[simp] theorem setPort_mot {n : Nat} {x : PortSt} : (s.setPort n x).mot = s.mot := rfl
@[simp] theorem setPort_eth {n : Nat} {x : PortSt} : (s.setPort n x).eth = s.eth := rfl
@[simp] theorem setPort_pages {n : Nat} {x : PortSt} : (s.setPort n x).pages = s.pages := rfl
@[simp] theorem setPort_subs {n : Nat} {x : PortSt} : (s.setPort n x).subs = s.subs := rfl
@[simp] theorem setPort_lastEvents {n : Nat} {x : PortSt} : (s.setPort n x).lastEvents = s.lastEvents := rfl
@[simp] theorem setPort_pwr {n : Nat} {x : PortSt} : (s.setPort n x).pwr = s.pwr := rfl
@[simp] theorem setPort_flash {n : Nat} {x : PortSt} : (s.setPort n x).flash = s.flash := rfl
@[simp] theorem setPort_sec {n : Nat} {x : PortSt} : (s.setPort n x).sec = s.sec := rfl
@[simp] theorem setPort_pending {n : Nat} {x : PortSt} : (s.setPort n x).pending = s.pending := rfl
@[simp] theorem reg_setPort {j : Nat} {n : Nat} {x : PortSt} : (s.setPort n x).reg j = s.reg j := rfl
@[simp] theorem fld_setPort {j : Nat} {e : Field} {n : Nat} {x : PortSt} : (s.setPort n x).fld j e = s.fld j e := rfl
@[simp] theorem bit_setPort {j : Nat} {e : Field} {n : Nat} {x : PortSt} : (s.setPort n x).bit j e = s.bit j e := rfl
@[simp] theorem byte_setPort {j : Nat} {n : Nat} {x : PortSt} : (s.setPort n x).byte j = s.byte j := rfl

@[simp] theorem setLane_now {n : Nat} {x : LaneSt} : (s.setLane n x).now = s.now := rfl
@[simp] theorem setLane_regs {n : Nat} {x : LaneSt} : (s.setLane n x).regs = s.regs := rfl
@[simp] theorem setLane_mem {n : Nat} {x : LaneSt} : (s.setLane n x).mem = s.mem := rfl
@[simp] theorem setLane_highLatch {n : Nat} {x : LaneSt} : (s.setLane n x).highLatch = s.highLatch := rfl
@[simp] theorem setLane_halfWrites {n : Nat} {x : LaneSt} : (s.setLane n x).halfWrites = s.halfWrites := rfl
@[simp] theorem setLane_resp {n : Nat} {x : LaneSt} : (s.setLane n x).resp = s.resp := rfl
@[simp] theorem setLane_freeCtr {n : Nat} {x : LaneSt} : (s.setLane n x).freeCtr = s.freeCtr := rfl
@[simp] theorem setLane_log {n : Nat} {x : LaneSt} : (s.setLane n x).log = s.log := rfl
@[simp] theorem setLane_dma {n : Nat} {x : LaneSt} : (s.setLane n x).dma = s.dma := rfl
@[simp] theorem setLane_granary {n : Nat} {x : LaneSt} : (s.setLane n x).granary = s.granary := rfl
@[simp] theorem setLane_dramValid {n : Nat} {x : LaneSt} : (s.setLane n x).dramValid = s.dramValid := rfl
@[simp] theorem setLane_miller {n : Nat} {x : LaneSt} : (s.setLane n x).miller = s.miller := rfl
@[simp] theorem setLane_pend {n : Nat} {x : LaneSt} : (s.setLane n x).pend = s.pend := rfl
@[simp] theorem setLane_landed {n : Nat} {x : LaneSt} : (s.setLane n x).landed = s.landed := rfl
@[simp] theorem setLane_weaver {n : Nat} {x : LaneSt} : (s.setLane n x).weaver = s.weaver := rfl
@[simp] theorem setLane_hcs {n : Nat} {x : LaneSt} : (s.setLane n x).hcs = s.hcs := rfl
@[simp] theorem setLane_pos {n : Nat} {x : LaneSt} : (s.setLane n x).pos = s.pos := rfl
@[simp] theorem setLane_br {n : Nat} {x : LaneSt} : (s.setLane n x).br = s.br := rfl
@[simp] theorem setLane_cam {n : Nat} {x : LaneSt} : (s.setLane n x).cam = s.cam := rfl
@[simp] theorem setLane_cal {n : Nat} {x : LaneSt} : (s.setLane n x).cal = s.cal := rfl
@[simp] theorem setLane_axes {n : Nat} {x : LaneSt} : (s.setLane n x).axes = s.axes := rfl
@[simp] theorem setLane_mot {n : Nat} {x : LaneSt} : (s.setLane n x).mot = s.mot := rfl
@[simp] theorem setLane_eth {n : Nat} {x : LaneSt} : (s.setLane n x).eth = s.eth := rfl
@[simp] theorem setLane_pages {n : Nat} {x : LaneSt} : (s.setLane n x).pages = s.pages := rfl
@[simp] theorem setLane_subs {n : Nat} {x : LaneSt} : (s.setLane n x).subs = s.subs := rfl
@[simp] theorem setLane_lastEvents {n : Nat} {x : LaneSt} : (s.setLane n x).lastEvents = s.lastEvents := rfl
@[simp] theorem setLane_pwr {n : Nat} {x : LaneSt} : (s.setLane n x).pwr = s.pwr := rfl
@[simp] theorem setLane_flash {n : Nat} {x : LaneSt} : (s.setLane n x).flash = s.flash := rfl
@[simp] theorem setLane_sec {n : Nat} {x : LaneSt} : (s.setLane n x).sec = s.sec := rfl
@[simp] theorem setLane_pending {n : Nat} {x : LaneSt} : (s.setLane n x).pending = s.pending := rfl
@[simp] theorem reg_setLane {j : Nat} {n : Nat} {x : LaneSt} : (s.setLane n x).reg j = s.reg j := rfl
@[simp] theorem fld_setLane {j : Nat} {e : Field} {n : Nat} {x : LaneSt} : (s.setLane n x).fld j e = s.fld j e := rfl
@[simp] theorem bit_setLane {j : Nat} {e : Field} {n : Nat} {x : LaneSt} : (s.setLane n x).bit j e = s.bit j e := rfl
@[simp] theorem byte_setLane {j : Nat} {n : Nat} {x : LaneSt} : (s.setLane n x).byte j = s.byte j := rfl

@[simp] theorem setFifo_now {n : Nat} {x : List FifoPacket} : (s.setFifo n x).now = s.now := rfl
@[simp] theorem setFifo_regs {n : Nat} {x : List FifoPacket} : (s.setFifo n x).regs = s.regs := rfl
@[simp] theorem setFifo_mem {n : Nat} {x : List FifoPacket} : (s.setFifo n x).mem = s.mem := rfl
@[simp] theorem setFifo_highLatch {n : Nat} {x : List FifoPacket} : (s.setFifo n x).highLatch = s.highLatch := rfl
@[simp] theorem setFifo_halfWrites {n : Nat} {x : List FifoPacket} : (s.setFifo n x).halfWrites = s.halfWrites := rfl
@[simp] theorem setFifo_resp {n : Nat} {x : List FifoPacket} : (s.setFifo n x).resp = s.resp := rfl
@[simp] theorem setFifo_freeCtr {n : Nat} {x : List FifoPacket} : (s.setFifo n x).freeCtr = s.freeCtr := rfl
@[simp] theorem setFifo_log {n : Nat} {x : List FifoPacket} : (s.setFifo n x).log = s.log := rfl
@[simp] theorem setFifo_dma {n : Nat} {x : List FifoPacket} : (s.setFifo n x).dma = s.dma := rfl
@[simp] theorem setFifo_granary {n : Nat} {x : List FifoPacket} : (s.setFifo n x).granary = s.granary := rfl
@[simp] theorem setFifo_dramValid {n : Nat} {x : List FifoPacket} : (s.setFifo n x).dramValid = s.dramValid := rfl
@[simp] theorem setFifo_miller {n : Nat} {x : List FifoPacket} : (s.setFifo n x).miller = s.miller := rfl
@[simp] theorem setFifo_pend {n : Nat} {x : List FifoPacket} : (s.setFifo n x).pend = s.pend := rfl
@[simp] theorem setFifo_landed {n : Nat} {x : List FifoPacket} : (s.setFifo n x).landed = s.landed := rfl
@[simp] theorem setFifo_weaver {n : Nat} {x : List FifoPacket} : (s.setFifo n x).weaver = s.weaver := rfl
@[simp] theorem setFifo_hcs {n : Nat} {x : List FifoPacket} : (s.setFifo n x).hcs = s.hcs := rfl
@[simp] theorem setFifo_pos {n : Nat} {x : List FifoPacket} : (s.setFifo n x).pos = s.pos := rfl
@[simp] theorem setFifo_br {n : Nat} {x : List FifoPacket} : (s.setFifo n x).br = s.br := rfl
@[simp] theorem setFifo_cam {n : Nat} {x : List FifoPacket} : (s.setFifo n x).cam = s.cam := rfl
@[simp] theorem setFifo_cal {n : Nat} {x : List FifoPacket} : (s.setFifo n x).cal = s.cal := rfl
@[simp] theorem setFifo_axes {n : Nat} {x : List FifoPacket} : (s.setFifo n x).axes = s.axes := rfl
@[simp] theorem setFifo_mot {n : Nat} {x : List FifoPacket} : (s.setFifo n x).mot = s.mot := rfl
@[simp] theorem setFifo_eth {n : Nat} {x : List FifoPacket} : (s.setFifo n x).eth = s.eth := rfl
@[simp] theorem setFifo_pages {n : Nat} {x : List FifoPacket} : (s.setFifo n x).pages = s.pages := rfl
@[simp] theorem setFifo_subs {n : Nat} {x : List FifoPacket} : (s.setFifo n x).subs = s.subs := rfl
@[simp] theorem setFifo_lastEvents {n : Nat} {x : List FifoPacket} : (s.setFifo n x).lastEvents = s.lastEvents := rfl
@[simp] theorem setFifo_pwr {n : Nat} {x : List FifoPacket} : (s.setFifo n x).pwr = s.pwr := rfl
@[simp] theorem setFifo_flash {n : Nat} {x : List FifoPacket} : (s.setFifo n x).flash = s.flash := rfl
@[simp] theorem setFifo_sec {n : Nat} {x : List FifoPacket} : (s.setFifo n x).sec = s.sec := rfl
@[simp] theorem setFifo_pending {n : Nat} {x : List FifoPacket} : (s.setFifo n x).pending = s.pending := rfl
@[simp] theorem reg_setFifo {j : Nat} {n : Nat} {x : List FifoPacket} : (s.setFifo n x).reg j = s.reg j := rfl
@[simp] theorem fld_setFifo {j : Nat} {e : Field} {n : Nat} {x : List FifoPacket} : (s.setFifo n x).fld j e = s.fld j e := rfl
@[simp] theorem bit_setFifo {j : Nat} {e : Field} {n : Nat} {x : List FifoPacket} : (s.setFifo n x).bit j e = s.bit j e := rfl
@[simp] theorem byte_setFifo {j : Nat} {n : Nat} {x : List FifoPacket} : (s.setFifo n x).byte j = s.byte j := rfl

@[simp] theorem setCh_now {n : Nat} {x : DmaChan} : (s.setCh n x).now = s.now := rfl
@[simp] theorem setCh_regs {n : Nat} {x : DmaChan} : (s.setCh n x).regs = s.regs := rfl
@[simp] theorem setCh_mem {n : Nat} {x : DmaChan} : (s.setCh n x).mem = s.mem := rfl
@[simp] theorem setCh_highLatch {n : Nat} {x : DmaChan} : (s.setCh n x).highLatch = s.highLatch := rfl
@[simp] theorem setCh_halfWrites {n : Nat} {x : DmaChan} : (s.setCh n x).halfWrites = s.halfWrites := rfl
@[simp] theorem setCh_resp {n : Nat} {x : DmaChan} : (s.setCh n x).resp = s.resp := rfl
@[simp] theorem setCh_freeCtr {n : Nat} {x : DmaChan} : (s.setCh n x).freeCtr = s.freeCtr := rfl
@[simp] theorem setCh_log {n : Nat} {x : DmaChan} : (s.setCh n x).log = s.log := rfl
@[simp] theorem setCh_link {n : Nat} {x : DmaChan} : (s.setCh n x).link = s.link := rfl
@[simp] theorem setCh_granary {n : Nat} {x : DmaChan} : (s.setCh n x).granary = s.granary := rfl
@[simp] theorem setCh_dramValid {n : Nat} {x : DmaChan} : (s.setCh n x).dramValid = s.dramValid := rfl
@[simp] theorem setCh_miller {n : Nat} {x : DmaChan} : (s.setCh n x).miller = s.miller := rfl
@[simp] theorem setCh_pend {n : Nat} {x : DmaChan} : (s.setCh n x).pend = s.pend := rfl
@[simp] theorem setCh_landed {n : Nat} {x : DmaChan} : (s.setCh n x).landed = s.landed := rfl
@[simp] theorem setCh_weaver {n : Nat} {x : DmaChan} : (s.setCh n x).weaver = s.weaver := rfl
@[simp] theorem setCh_hcs {n : Nat} {x : DmaChan} : (s.setCh n x).hcs = s.hcs := rfl
@[simp] theorem setCh_pos {n : Nat} {x : DmaChan} : (s.setCh n x).pos = s.pos := rfl
@[simp] theorem setCh_br {n : Nat} {x : DmaChan} : (s.setCh n x).br = s.br := rfl
@[simp] theorem setCh_cam {n : Nat} {x : DmaChan} : (s.setCh n x).cam = s.cam := rfl
@[simp] theorem setCh_cal {n : Nat} {x : DmaChan} : (s.setCh n x).cal = s.cal := rfl
@[simp] theorem setCh_axes {n : Nat} {x : DmaChan} : (s.setCh n x).axes = s.axes := rfl
@[simp] theorem setCh_mot {n : Nat} {x : DmaChan} : (s.setCh n x).mot = s.mot := rfl
@[simp] theorem setCh_eth {n : Nat} {x : DmaChan} : (s.setCh n x).eth = s.eth := rfl
@[simp] theorem setCh_pages {n : Nat} {x : DmaChan} : (s.setCh n x).pages = s.pages := rfl
@[simp] theorem setCh_subs {n : Nat} {x : DmaChan} : (s.setCh n x).subs = s.subs := rfl
@[simp] theorem setCh_lastEvents {n : Nat} {x : DmaChan} : (s.setCh n x).lastEvents = s.lastEvents := rfl
@[simp] theorem setCh_pwr {n : Nat} {x : DmaChan} : (s.setCh n x).pwr = s.pwr := rfl
@[simp] theorem setCh_flash {n : Nat} {x : DmaChan} : (s.setCh n x).flash = s.flash := rfl
@[simp] theorem setCh_sec {n : Nat} {x : DmaChan} : (s.setCh n x).sec = s.sec := rfl
@[simp] theorem setCh_pending {n : Nat} {x : DmaChan} : (s.setCh n x).pending = s.pending := rfl
@[simp] theorem reg_setCh {j : Nat} {n : Nat} {x : DmaChan} : (s.setCh n x).reg j = s.reg j := rfl
@[simp] theorem fld_setCh {j : Nat} {e : Field} {n : Nat} {x : DmaChan} : (s.setCh n x).fld j e = s.fld j e := rfl
@[simp] theorem bit_setCh {j : Nat} {e : Field} {n : Nat} {x : DmaChan} : (s.setCh n x).bit j e = s.bit j e := rfl
@[simp] theorem byte_setCh {j : Nat} {n : Nat} {x : DmaChan} : (s.setCh n x).byte j = s.byte j := rfl

@[simp] theorem setChan_now {n : Nat} {x : DramChan} : (s.setChan n x).now = s.now := rfl
@[simp] theorem setChan_regs {n : Nat} {x : DramChan} : (s.setChan n x).regs = s.regs := rfl
@[simp] theorem setChan_mem {n : Nat} {x : DramChan} : (s.setChan n x).mem = s.mem := rfl
@[simp] theorem setChan_highLatch {n : Nat} {x : DramChan} : (s.setChan n x).highLatch = s.highLatch := rfl
@[simp] theorem setChan_halfWrites {n : Nat} {x : DramChan} : (s.setChan n x).halfWrites = s.halfWrites := rfl
@[simp] theorem setChan_resp {n : Nat} {x : DramChan} : (s.setChan n x).resp = s.resp := rfl
@[simp] theorem setChan_freeCtr {n : Nat} {x : DramChan} : (s.setChan n x).freeCtr = s.freeCtr := rfl
@[simp] theorem setChan_log {n : Nat} {x : DramChan} : (s.setChan n x).log = s.log := rfl
@[simp] theorem setChan_link {n : Nat} {x : DramChan} : (s.setChan n x).link = s.link := rfl
@[simp] theorem setChan_dma {n : Nat} {x : DramChan} : (s.setChan n x).dma = s.dma := rfl
@[simp] theorem setChan_dramValid {n : Nat} {x : DramChan} : (s.setChan n x).dramValid = s.dramValid := rfl
@[simp] theorem setChan_miller {n : Nat} {x : DramChan} : (s.setChan n x).miller = s.miller := rfl
@[simp] theorem setChan_pend {n : Nat} {x : DramChan} : (s.setChan n x).pend = s.pend := rfl
@[simp] theorem setChan_landed {n : Nat} {x : DramChan} : (s.setChan n x).landed = s.landed := rfl
@[simp] theorem setChan_weaver {n : Nat} {x : DramChan} : (s.setChan n x).weaver = s.weaver := rfl
@[simp] theorem setChan_hcs {n : Nat} {x : DramChan} : (s.setChan n x).hcs = s.hcs := rfl
@[simp] theorem setChan_pos {n : Nat} {x : DramChan} : (s.setChan n x).pos = s.pos := rfl
@[simp] theorem setChan_br {n : Nat} {x : DramChan} : (s.setChan n x).br = s.br := rfl
@[simp] theorem setChan_cam {n : Nat} {x : DramChan} : (s.setChan n x).cam = s.cam := rfl
@[simp] theorem setChan_cal {n : Nat} {x : DramChan} : (s.setChan n x).cal = s.cal := rfl
@[simp] theorem setChan_axes {n : Nat} {x : DramChan} : (s.setChan n x).axes = s.axes := rfl
@[simp] theorem setChan_mot {n : Nat} {x : DramChan} : (s.setChan n x).mot = s.mot := rfl
@[simp] theorem setChan_eth {n : Nat} {x : DramChan} : (s.setChan n x).eth = s.eth := rfl
@[simp] theorem setChan_pages {n : Nat} {x : DramChan} : (s.setChan n x).pages = s.pages := rfl
@[simp] theorem setChan_subs {n : Nat} {x : DramChan} : (s.setChan n x).subs = s.subs := rfl
@[simp] theorem setChan_lastEvents {n : Nat} {x : DramChan} : (s.setChan n x).lastEvents = s.lastEvents := rfl
@[simp] theorem setChan_pwr {n : Nat} {x : DramChan} : (s.setChan n x).pwr = s.pwr := rfl
@[simp] theorem setChan_flash {n : Nat} {x : DramChan} : (s.setChan n x).flash = s.flash := rfl
@[simp] theorem setChan_sec {n : Nat} {x : DramChan} : (s.setChan n x).sec = s.sec := rfl
@[simp] theorem setChan_pending {n : Nat} {x : DramChan} : (s.setChan n x).pending = s.pending := rfl
@[simp] theorem reg_setChan {j : Nat} {n : Nat} {x : DramChan} : (s.setChan n x).reg j = s.reg j := rfl
@[simp] theorem fld_setChan {j : Nat} {e : Field} {n : Nat} {x : DramChan} : (s.setChan n x).fld j e = s.fld j e := rfl
@[simp] theorem bit_setChan {j : Nat} {e : Field} {n : Nat} {x : DramChan} : (s.setChan n x).bit j e = s.bit j e := rfl
@[simp] theorem byte_setChan {j : Nat} {n : Nat} {x : DramChan} : (s.setChan n x).byte j = s.byte j := rfl

@[simp] theorem setDec_now {n : Nat} {x : DecoderSt} : (s.setDec n x).now = s.now := rfl
@[simp] theorem setDec_regs {n : Nat} {x : DecoderSt} : (s.setDec n x).regs = s.regs := rfl
@[simp] theorem setDec_mem {n : Nat} {x : DecoderSt} : (s.setDec n x).mem = s.mem := rfl
@[simp] theorem setDec_highLatch {n : Nat} {x : DecoderSt} : (s.setDec n x).highLatch = s.highLatch := rfl
@[simp] theorem setDec_halfWrites {n : Nat} {x : DecoderSt} : (s.setDec n x).halfWrites = s.halfWrites := rfl
@[simp] theorem setDec_resp {n : Nat} {x : DecoderSt} : (s.setDec n x).resp = s.resp := rfl
@[simp] theorem setDec_freeCtr {n : Nat} {x : DecoderSt} : (s.setDec n x).freeCtr = s.freeCtr := rfl
@[simp] theorem setDec_log {n : Nat} {x : DecoderSt} : (s.setDec n x).log = s.log := rfl
@[simp] theorem setDec_link {n : Nat} {x : DecoderSt} : (s.setDec n x).link = s.link := rfl
@[simp] theorem setDec_dma {n : Nat} {x : DecoderSt} : (s.setDec n x).dma = s.dma := rfl
@[simp] theorem setDec_granary {n : Nat} {x : DecoderSt} : (s.setDec n x).granary = s.granary := rfl
@[simp] theorem setDec_dramValid {n : Nat} {x : DecoderSt} : (s.setDec n x).dramValid = s.dramValid := rfl
@[simp] theorem setDec_pend {n : Nat} {x : DecoderSt} : (s.setDec n x).pend = s.pend := rfl
@[simp] theorem setDec_landed {n : Nat} {x : DecoderSt} : (s.setDec n x).landed = s.landed := rfl
@[simp] theorem setDec_weaver {n : Nat} {x : DecoderSt} : (s.setDec n x).weaver = s.weaver := rfl
@[simp] theorem setDec_hcs {n : Nat} {x : DecoderSt} : (s.setDec n x).hcs = s.hcs := rfl
@[simp] theorem setDec_pos {n : Nat} {x : DecoderSt} : (s.setDec n x).pos = s.pos := rfl
@[simp] theorem setDec_br {n : Nat} {x : DecoderSt} : (s.setDec n x).br = s.br := rfl
@[simp] theorem setDec_cam {n : Nat} {x : DecoderSt} : (s.setDec n x).cam = s.cam := rfl
@[simp] theorem setDec_cal {n : Nat} {x : DecoderSt} : (s.setDec n x).cal = s.cal := rfl
@[simp] theorem setDec_axes {n : Nat} {x : DecoderSt} : (s.setDec n x).axes = s.axes := rfl
@[simp] theorem setDec_mot {n : Nat} {x : DecoderSt} : (s.setDec n x).mot = s.mot := rfl
@[simp] theorem setDec_eth {n : Nat} {x : DecoderSt} : (s.setDec n x).eth = s.eth := rfl
@[simp] theorem setDec_pages {n : Nat} {x : DecoderSt} : (s.setDec n x).pages = s.pages := rfl
@[simp] theorem setDec_subs {n : Nat} {x : DecoderSt} : (s.setDec n x).subs = s.subs := rfl
@[simp] theorem setDec_lastEvents {n : Nat} {x : DecoderSt} : (s.setDec n x).lastEvents = s.lastEvents := rfl
@[simp] theorem setDec_pwr {n : Nat} {x : DecoderSt} : (s.setDec n x).pwr = s.pwr := rfl
@[simp] theorem setDec_flash {n : Nat} {x : DecoderSt} : (s.setDec n x).flash = s.flash := rfl
@[simp] theorem setDec_sec {n : Nat} {x : DecoderSt} : (s.setDec n x).sec = s.sec := rfl
@[simp] theorem setDec_pending {n : Nat} {x : DecoderSt} : (s.setDec n x).pending = s.pending := rfl
@[simp] theorem reg_setDec {j : Nat} {n : Nat} {x : DecoderSt} : (s.setDec n x).reg j = s.reg j := rfl
@[simp] theorem fld_setDec {j : Nat} {e : Field} {n : Nat} {x : DecoderSt} : (s.setDec n x).fld j e = s.fld j e := rfl
@[simp] theorem bit_setDec {j : Nat} {e : Field} {n : Nat} {x : DecoderSt} : (s.setDec n x).bit j e = s.bit j e := rfl
@[simp] theorem byte_setDec {j : Nat} {n : Nat} {x : DecoderSt} : (s.setDec n x).byte j = s.byte j := rfl

@[simp] theorem setEnc_now {n : Nat} {x : EncoderSt} : (s.setEnc n x).now = s.now := rfl
@[simp] theorem setEnc_regs {n : Nat} {x : EncoderSt} : (s.setEnc n x).regs = s.regs := rfl
@[simp] theorem setEnc_mem {n : Nat} {x : EncoderSt} : (s.setEnc n x).mem = s.mem := rfl
@[simp] theorem setEnc_highLatch {n : Nat} {x : EncoderSt} : (s.setEnc n x).highLatch = s.highLatch := rfl
@[simp] theorem setEnc_halfWrites {n : Nat} {x : EncoderSt} : (s.setEnc n x).halfWrites = s.halfWrites := rfl
@[simp] theorem setEnc_resp {n : Nat} {x : EncoderSt} : (s.setEnc n x).resp = s.resp := rfl
@[simp] theorem setEnc_freeCtr {n : Nat} {x : EncoderSt} : (s.setEnc n x).freeCtr = s.freeCtr := rfl
@[simp] theorem setEnc_log {n : Nat} {x : EncoderSt} : (s.setEnc n x).log = s.log := rfl
@[simp] theorem setEnc_link {n : Nat} {x : EncoderSt} : (s.setEnc n x).link = s.link := rfl
@[simp] theorem setEnc_dma {n : Nat} {x : EncoderSt} : (s.setEnc n x).dma = s.dma := rfl
@[simp] theorem setEnc_granary {n : Nat} {x : EncoderSt} : (s.setEnc n x).granary = s.granary := rfl
@[simp] theorem setEnc_dramValid {n : Nat} {x : EncoderSt} : (s.setEnc n x).dramValid = s.dramValid := rfl
@[simp] theorem setEnc_pend {n : Nat} {x : EncoderSt} : (s.setEnc n x).pend = s.pend := rfl
@[simp] theorem setEnc_landed {n : Nat} {x : EncoderSt} : (s.setEnc n x).landed = s.landed := rfl
@[simp] theorem setEnc_weaver {n : Nat} {x : EncoderSt} : (s.setEnc n x).weaver = s.weaver := rfl
@[simp] theorem setEnc_hcs {n : Nat} {x : EncoderSt} : (s.setEnc n x).hcs = s.hcs := rfl
@[simp] theorem setEnc_pos {n : Nat} {x : EncoderSt} : (s.setEnc n x).pos = s.pos := rfl
@[simp] theorem setEnc_br {n : Nat} {x : EncoderSt} : (s.setEnc n x).br = s.br := rfl
@[simp] theorem setEnc_cam {n : Nat} {x : EncoderSt} : (s.setEnc n x).cam = s.cam := rfl
@[simp] theorem setEnc_cal {n : Nat} {x : EncoderSt} : (s.setEnc n x).cal = s.cal := rfl
@[simp] theorem setEnc_axes {n : Nat} {x : EncoderSt} : (s.setEnc n x).axes = s.axes := rfl
@[simp] theorem setEnc_mot {n : Nat} {x : EncoderSt} : (s.setEnc n x).mot = s.mot := rfl
@[simp] theorem setEnc_eth {n : Nat} {x : EncoderSt} : (s.setEnc n x).eth = s.eth := rfl
@[simp] theorem setEnc_pages {n : Nat} {x : EncoderSt} : (s.setEnc n x).pages = s.pages := rfl
@[simp] theorem setEnc_subs {n : Nat} {x : EncoderSt} : (s.setEnc n x).subs = s.subs := rfl
@[simp] theorem setEnc_lastEvents {n : Nat} {x : EncoderSt} : (s.setEnc n x).lastEvents = s.lastEvents := rfl
@[simp] theorem setEnc_pwr {n : Nat} {x : EncoderSt} : (s.setEnc n x).pwr = s.pwr := rfl
@[simp] theorem setEnc_flash {n : Nat} {x : EncoderSt} : (s.setEnc n x).flash = s.flash := rfl
@[simp] theorem setEnc_sec {n : Nat} {x : EncoderSt} : (s.setEnc n x).sec = s.sec := rfl
@[simp] theorem setEnc_pending {n : Nat} {x : EncoderSt} : (s.setEnc n x).pending = s.pending := rfl
@[simp] theorem reg_setEnc {j : Nat} {n : Nat} {x : EncoderSt} : (s.setEnc n x).reg j = s.reg j := rfl
@[simp] theorem fld_setEnc {j : Nat} {e : Field} {n : Nat} {x : EncoderSt} : (s.setEnc n x).fld j e = s.fld j e := rfl
@[simp] theorem bit_setEnc {j : Nat} {e : Field} {n : Nat} {x : EncoderSt} : (s.setEnc n x).bit j e = s.bit j e := rfl
@[simp] theorem byte_setEnc {j : Nat} {n : Nat} {x : EncoderSt} : (s.setEnc n x).byte j = s.byte j := rfl

@[simp] theorem setHam_now {n : Nat} {x : HamletSt} : (s.setHam n x).now = s.now := rfl
@[simp] theorem setHam_regs {n : Nat} {x : HamletSt} : (s.setHam n x).regs = s.regs := rfl
@[simp] theorem setHam_mem {n : Nat} {x : HamletSt} : (s.setHam n x).mem = s.mem := rfl
@[simp] theorem setHam_highLatch {n : Nat} {x : HamletSt} : (s.setHam n x).highLatch = s.highLatch := rfl
@[simp] theorem setHam_halfWrites {n : Nat} {x : HamletSt} : (s.setHam n x).halfWrites = s.halfWrites := rfl
@[simp] theorem setHam_resp {n : Nat} {x : HamletSt} : (s.setHam n x).resp = s.resp := rfl
@[simp] theorem setHam_freeCtr {n : Nat} {x : HamletSt} : (s.setHam n x).freeCtr = s.freeCtr := rfl
@[simp] theorem setHam_log {n : Nat} {x : HamletSt} : (s.setHam n x).log = s.log := rfl
@[simp] theorem setHam_link {n : Nat} {x : HamletSt} : (s.setHam n x).link = s.link := rfl
@[simp] theorem setHam_dma {n : Nat} {x : HamletSt} : (s.setHam n x).dma = s.dma := rfl
@[simp] theorem setHam_granary {n : Nat} {x : HamletSt} : (s.setHam n x).granary = s.granary := rfl
@[simp] theorem setHam_dramValid {n : Nat} {x : HamletSt} : (s.setHam n x).dramValid = s.dramValid := rfl
@[simp] theorem setHam_miller {n : Nat} {x : HamletSt} : (s.setHam n x).miller = s.miller := rfl
@[simp] theorem setHam_pend {n : Nat} {x : HamletSt} : (s.setHam n x).pend = s.pend := rfl
@[simp] theorem setHam_landed {n : Nat} {x : HamletSt} : (s.setHam n x).landed = s.landed := rfl
@[simp] theorem setHam_hcs {n : Nat} {x : HamletSt} : (s.setHam n x).hcs = s.hcs := rfl
@[simp] theorem setHam_pos {n : Nat} {x : HamletSt} : (s.setHam n x).pos = s.pos := rfl
@[simp] theorem setHam_br {n : Nat} {x : HamletSt} : (s.setHam n x).br = s.br := rfl
@[simp] theorem setHam_cam {n : Nat} {x : HamletSt} : (s.setHam n x).cam = s.cam := rfl
@[simp] theorem setHam_cal {n : Nat} {x : HamletSt} : (s.setHam n x).cal = s.cal := rfl
@[simp] theorem setHam_axes {n : Nat} {x : HamletSt} : (s.setHam n x).axes = s.axes := rfl
@[simp] theorem setHam_mot {n : Nat} {x : HamletSt} : (s.setHam n x).mot = s.mot := rfl
@[simp] theorem setHam_eth {n : Nat} {x : HamletSt} : (s.setHam n x).eth = s.eth := rfl
@[simp] theorem setHam_pages {n : Nat} {x : HamletSt} : (s.setHam n x).pages = s.pages := rfl
@[simp] theorem setHam_subs {n : Nat} {x : HamletSt} : (s.setHam n x).subs = s.subs := rfl
@[simp] theorem setHam_lastEvents {n : Nat} {x : HamletSt} : (s.setHam n x).lastEvents = s.lastEvents := rfl
@[simp] theorem setHam_pwr {n : Nat} {x : HamletSt} : (s.setHam n x).pwr = s.pwr := rfl
@[simp] theorem setHam_flash {n : Nat} {x : HamletSt} : (s.setHam n x).flash = s.flash := rfl
@[simp] theorem setHam_sec {n : Nat} {x : HamletSt} : (s.setHam n x).sec = s.sec := rfl
@[simp] theorem setHam_pending {n : Nat} {x : HamletSt} : (s.setHam n x).pending = s.pending := rfl
@[simp] theorem reg_setHam {j : Nat} {n : Nat} {x : HamletSt} : (s.setHam n x).reg j = s.reg j := rfl
@[simp] theorem fld_setHam {j : Nat} {e : Field} {n : Nat} {x : HamletSt} : (s.setHam n x).fld j e = s.fld j e := rfl
@[simp] theorem bit_setHam {j : Nat} {e : Field} {n : Nat} {x : HamletSt} : (s.setHam n x).bit j e = s.bit j e := rfl
@[simp] theorem byte_setHam {j : Nat} {n : Nat} {x : HamletSt} : (s.setHam n x).byte j = s.byte j := rfl

@[simp] theorem setHc_now {n : Nat} {x : HcSt} : (s.setHc n x).now = s.now := rfl
@[simp] theorem setHc_regs {n : Nat} {x : HcSt} : (s.setHc n x).regs = s.regs := rfl
@[simp] theorem setHc_mem {n : Nat} {x : HcSt} : (s.setHc n x).mem = s.mem := rfl
@[simp] theorem setHc_highLatch {n : Nat} {x : HcSt} : (s.setHc n x).highLatch = s.highLatch := rfl
@[simp] theorem setHc_halfWrites {n : Nat} {x : HcSt} : (s.setHc n x).halfWrites = s.halfWrites := rfl
@[simp] theorem setHc_resp {n : Nat} {x : HcSt} : (s.setHc n x).resp = s.resp := rfl
@[simp] theorem setHc_freeCtr {n : Nat} {x : HcSt} : (s.setHc n x).freeCtr = s.freeCtr := rfl
@[simp] theorem setHc_log {n : Nat} {x : HcSt} : (s.setHc n x).log = s.log := rfl
@[simp] theorem setHc_link {n : Nat} {x : HcSt} : (s.setHc n x).link = s.link := rfl
@[simp] theorem setHc_dma {n : Nat} {x : HcSt} : (s.setHc n x).dma = s.dma := rfl
@[simp] theorem setHc_granary {n : Nat} {x : HcSt} : (s.setHc n x).granary = s.granary := rfl
@[simp] theorem setHc_dramValid {n : Nat} {x : HcSt} : (s.setHc n x).dramValid = s.dramValid := rfl
@[simp] theorem setHc_miller {n : Nat} {x : HcSt} : (s.setHc n x).miller = s.miller := rfl
@[simp] theorem setHc_pend {n : Nat} {x : HcSt} : (s.setHc n x).pend = s.pend := rfl
@[simp] theorem setHc_landed {n : Nat} {x : HcSt} : (s.setHc n x).landed = s.landed := rfl
@[simp] theorem setHc_weaver {n : Nat} {x : HcSt} : (s.setHc n x).weaver = s.weaver := rfl
@[simp] theorem setHc_pos {n : Nat} {x : HcSt} : (s.setHc n x).pos = s.pos := rfl
@[simp] theorem setHc_br {n : Nat} {x : HcSt} : (s.setHc n x).br = s.br := rfl
@[simp] theorem setHc_cam {n : Nat} {x : HcSt} : (s.setHc n x).cam = s.cam := rfl
@[simp] theorem setHc_cal {n : Nat} {x : HcSt} : (s.setHc n x).cal = s.cal := rfl
@[simp] theorem setHc_axes {n : Nat} {x : HcSt} : (s.setHc n x).axes = s.axes := rfl
@[simp] theorem setHc_mot {n : Nat} {x : HcSt} : (s.setHc n x).mot = s.mot := rfl
@[simp] theorem setHc_eth {n : Nat} {x : HcSt} : (s.setHc n x).eth = s.eth := rfl
@[simp] theorem setHc_pages {n : Nat} {x : HcSt} : (s.setHc n x).pages = s.pages := rfl
@[simp] theorem setHc_subs {n : Nat} {x : HcSt} : (s.setHc n x).subs = s.subs := rfl
@[simp] theorem setHc_lastEvents {n : Nat} {x : HcSt} : (s.setHc n x).lastEvents = s.lastEvents := rfl
@[simp] theorem setHc_pwr {n : Nat} {x : HcSt} : (s.setHc n x).pwr = s.pwr := rfl
@[simp] theorem setHc_flash {n : Nat} {x : HcSt} : (s.setHc n x).flash = s.flash := rfl
@[simp] theorem setHc_sec {n : Nat} {x : HcSt} : (s.setHc n x).sec = s.sec := rfl
@[simp] theorem setHc_pending {n : Nat} {x : HcSt} : (s.setHc n x).pending = s.pending := rfl
@[simp] theorem reg_setHc {j : Nat} {n : Nat} {x : HcSt} : (s.setHc n x).reg j = s.reg j := rfl
@[simp] theorem fld_setHc {j : Nat} {e : Field} {n : Nat} {x : HcSt} : (s.setHc n x).fld j e = s.fld j e := rfl
@[simp] theorem bit_setHc {j : Nat} {e : Field} {n : Nat} {x : HcSt} : (s.setHc n x).bit j e = s.bit j e := rfl
@[simp] theorem byte_setHc {j : Nat} {n : Nat} {x : HcSt} : (s.setHc n x).byte j = s.byte j := rfl

@[simp] theorem setEncSt_now {n : Nat} {x : EncSt} : (s.setEncSt n x).now = s.now := rfl
@[simp] theorem setEncSt_regs {n : Nat} {x : EncSt} : (s.setEncSt n x).regs = s.regs := rfl
@[simp] theorem setEncSt_mem {n : Nat} {x : EncSt} : (s.setEncSt n x).mem = s.mem := rfl
@[simp] theorem setEncSt_highLatch {n : Nat} {x : EncSt} : (s.setEncSt n x).highLatch = s.highLatch := rfl
@[simp] theorem setEncSt_halfWrites {n : Nat} {x : EncSt} : (s.setEncSt n x).halfWrites = s.halfWrites := rfl
@[simp] theorem setEncSt_resp {n : Nat} {x : EncSt} : (s.setEncSt n x).resp = s.resp := rfl
@[simp] theorem setEncSt_freeCtr {n : Nat} {x : EncSt} : (s.setEncSt n x).freeCtr = s.freeCtr := rfl
@[simp] theorem setEncSt_log {n : Nat} {x : EncSt} : (s.setEncSt n x).log = s.log := rfl
@[simp] theorem setEncSt_link {n : Nat} {x : EncSt} : (s.setEncSt n x).link = s.link := rfl
@[simp] theorem setEncSt_dma {n : Nat} {x : EncSt} : (s.setEncSt n x).dma = s.dma := rfl
@[simp] theorem setEncSt_granary {n : Nat} {x : EncSt} : (s.setEncSt n x).granary = s.granary := rfl
@[simp] theorem setEncSt_dramValid {n : Nat} {x : EncSt} : (s.setEncSt n x).dramValid = s.dramValid := rfl
@[simp] theorem setEncSt_miller {n : Nat} {x : EncSt} : (s.setEncSt n x).miller = s.miller := rfl
@[simp] theorem setEncSt_pend {n : Nat} {x : EncSt} : (s.setEncSt n x).pend = s.pend := rfl
@[simp] theorem setEncSt_landed {n : Nat} {x : EncSt} : (s.setEncSt n x).landed = s.landed := rfl
@[simp] theorem setEncSt_weaver {n : Nat} {x : EncSt} : (s.setEncSt n x).weaver = s.weaver := rfl
@[simp] theorem setEncSt_hcs {n : Nat} {x : EncSt} : (s.setEncSt n x).hcs = s.hcs := rfl
@[simp] theorem setEncSt_br {n : Nat} {x : EncSt} : (s.setEncSt n x).br = s.br := rfl
@[simp] theorem setEncSt_cam {n : Nat} {x : EncSt} : (s.setEncSt n x).cam = s.cam := rfl
@[simp] theorem setEncSt_cal {n : Nat} {x : EncSt} : (s.setEncSt n x).cal = s.cal := rfl
@[simp] theorem setEncSt_axes {n : Nat} {x : EncSt} : (s.setEncSt n x).axes = s.axes := rfl
@[simp] theorem setEncSt_mot {n : Nat} {x : EncSt} : (s.setEncSt n x).mot = s.mot := rfl
@[simp] theorem setEncSt_eth {n : Nat} {x : EncSt} : (s.setEncSt n x).eth = s.eth := rfl
@[simp] theorem setEncSt_pages {n : Nat} {x : EncSt} : (s.setEncSt n x).pages = s.pages := rfl
@[simp] theorem setEncSt_subs {n : Nat} {x : EncSt} : (s.setEncSt n x).subs = s.subs := rfl
@[simp] theorem setEncSt_lastEvents {n : Nat} {x : EncSt} : (s.setEncSt n x).lastEvents = s.lastEvents := rfl
@[simp] theorem setEncSt_pwr {n : Nat} {x : EncSt} : (s.setEncSt n x).pwr = s.pwr := rfl
@[simp] theorem setEncSt_flash {n : Nat} {x : EncSt} : (s.setEncSt n x).flash = s.flash := rfl
@[simp] theorem setEncSt_sec {n : Nat} {x : EncSt} : (s.setEncSt n x).sec = s.sec := rfl
@[simp] theorem setEncSt_pending {n : Nat} {x : EncSt} : (s.setEncSt n x).pending = s.pending := rfl
@[simp] theorem reg_setEncSt {j : Nat} {n : Nat} {x : EncSt} : (s.setEncSt n x).reg j = s.reg j := rfl
@[simp] theorem fld_setEncSt {j : Nat} {e : Field} {n : Nat} {x : EncSt} : (s.setEncSt n x).fld j e = s.fld j e := rfl
@[simp] theorem bit_setEncSt {j : Nat} {e : Field} {n : Nat} {x : EncSt} : (s.setEncSt n x).bit j e = s.bit j e := rfl
@[simp] theorem byte_setEncSt {j : Nat} {n : Nat} {x : EncSt} : (s.setEncSt n x).byte j = s.byte j := rfl

@[simp] theorem setSsi_now {n : Nat} {x : SsiSt} : (s.setSsi n x).now = s.now := rfl
@[simp] theorem setSsi_regs {n : Nat} {x : SsiSt} : (s.setSsi n x).regs = s.regs := rfl
@[simp] theorem setSsi_mem {n : Nat} {x : SsiSt} : (s.setSsi n x).mem = s.mem := rfl
@[simp] theorem setSsi_highLatch {n : Nat} {x : SsiSt} : (s.setSsi n x).highLatch = s.highLatch := rfl
@[simp] theorem setSsi_halfWrites {n : Nat} {x : SsiSt} : (s.setSsi n x).halfWrites = s.halfWrites := rfl
@[simp] theorem setSsi_resp {n : Nat} {x : SsiSt} : (s.setSsi n x).resp = s.resp := rfl
@[simp] theorem setSsi_freeCtr {n : Nat} {x : SsiSt} : (s.setSsi n x).freeCtr = s.freeCtr := rfl
@[simp] theorem setSsi_log {n : Nat} {x : SsiSt} : (s.setSsi n x).log = s.log := rfl
@[simp] theorem setSsi_link {n : Nat} {x : SsiSt} : (s.setSsi n x).link = s.link := rfl
@[simp] theorem setSsi_dma {n : Nat} {x : SsiSt} : (s.setSsi n x).dma = s.dma := rfl
@[simp] theorem setSsi_granary {n : Nat} {x : SsiSt} : (s.setSsi n x).granary = s.granary := rfl
@[simp] theorem setSsi_dramValid {n : Nat} {x : SsiSt} : (s.setSsi n x).dramValid = s.dramValid := rfl
@[simp] theorem setSsi_miller {n : Nat} {x : SsiSt} : (s.setSsi n x).miller = s.miller := rfl
@[simp] theorem setSsi_pend {n : Nat} {x : SsiSt} : (s.setSsi n x).pend = s.pend := rfl
@[simp] theorem setSsi_landed {n : Nat} {x : SsiSt} : (s.setSsi n x).landed = s.landed := rfl
@[simp] theorem setSsi_weaver {n : Nat} {x : SsiSt} : (s.setSsi n x).weaver = s.weaver := rfl
@[simp] theorem setSsi_hcs {n : Nat} {x : SsiSt} : (s.setSsi n x).hcs = s.hcs := rfl
@[simp] theorem setSsi_br {n : Nat} {x : SsiSt} : (s.setSsi n x).br = s.br := rfl
@[simp] theorem setSsi_cam {n : Nat} {x : SsiSt} : (s.setSsi n x).cam = s.cam := rfl
@[simp] theorem setSsi_cal {n : Nat} {x : SsiSt} : (s.setSsi n x).cal = s.cal := rfl
@[simp] theorem setSsi_axes {n : Nat} {x : SsiSt} : (s.setSsi n x).axes = s.axes := rfl
@[simp] theorem setSsi_mot {n : Nat} {x : SsiSt} : (s.setSsi n x).mot = s.mot := rfl
@[simp] theorem setSsi_eth {n : Nat} {x : SsiSt} : (s.setSsi n x).eth = s.eth := rfl
@[simp] theorem setSsi_pages {n : Nat} {x : SsiSt} : (s.setSsi n x).pages = s.pages := rfl
@[simp] theorem setSsi_subs {n : Nat} {x : SsiSt} : (s.setSsi n x).subs = s.subs := rfl
@[simp] theorem setSsi_lastEvents {n : Nat} {x : SsiSt} : (s.setSsi n x).lastEvents = s.lastEvents := rfl
@[simp] theorem setSsi_pwr {n : Nat} {x : SsiSt} : (s.setSsi n x).pwr = s.pwr := rfl
@[simp] theorem setSsi_flash {n : Nat} {x : SsiSt} : (s.setSsi n x).flash = s.flash := rfl
@[simp] theorem setSsi_sec {n : Nat} {x : SsiSt} : (s.setSsi n x).sec = s.sec := rfl
@[simp] theorem setSsi_pending {n : Nat} {x : SsiSt} : (s.setSsi n x).pending = s.pending := rfl
@[simp] theorem reg_setSsi {j : Nat} {n : Nat} {x : SsiSt} : (s.setSsi n x).reg j = s.reg j := rfl
@[simp] theorem fld_setSsi {j : Nat} {e : Field} {n : Nat} {x : SsiSt} : (s.setSsi n x).fld j e = s.fld j e := rfl
@[simp] theorem bit_setSsi {j : Nat} {e : Field} {n : Nat} {x : SsiSt} : (s.setSsi n x).bit j e = s.bit j e := rfl
@[simp] theorem byte_setSsi {j : Nat} {n : Nat} {x : SsiSt} : (s.setSsi n x).byte j = s.byte j := rfl

@[simp] theorem setMark_now {n : Nat} {x : MarkSt} : (s.setMark n x).now = s.now := rfl
@[simp] theorem setMark_regs {n : Nat} {x : MarkSt} : (s.setMark n x).regs = s.regs := rfl
@[simp] theorem setMark_mem {n : Nat} {x : MarkSt} : (s.setMark n x).mem = s.mem := rfl
@[simp] theorem setMark_highLatch {n : Nat} {x : MarkSt} : (s.setMark n x).highLatch = s.highLatch := rfl
@[simp] theorem setMark_halfWrites {n : Nat} {x : MarkSt} : (s.setMark n x).halfWrites = s.halfWrites := rfl
@[simp] theorem setMark_resp {n : Nat} {x : MarkSt} : (s.setMark n x).resp = s.resp := rfl
@[simp] theorem setMark_freeCtr {n : Nat} {x : MarkSt} : (s.setMark n x).freeCtr = s.freeCtr := rfl
@[simp] theorem setMark_log {n : Nat} {x : MarkSt} : (s.setMark n x).log = s.log := rfl
@[simp] theorem setMark_link {n : Nat} {x : MarkSt} : (s.setMark n x).link = s.link := rfl
@[simp] theorem setMark_dma {n : Nat} {x : MarkSt} : (s.setMark n x).dma = s.dma := rfl
@[simp] theorem setMark_granary {n : Nat} {x : MarkSt} : (s.setMark n x).granary = s.granary := rfl
@[simp] theorem setMark_dramValid {n : Nat} {x : MarkSt} : (s.setMark n x).dramValid = s.dramValid := rfl
@[simp] theorem setMark_miller {n : Nat} {x : MarkSt} : (s.setMark n x).miller = s.miller := rfl
@[simp] theorem setMark_pend {n : Nat} {x : MarkSt} : (s.setMark n x).pend = s.pend := rfl
@[simp] theorem setMark_landed {n : Nat} {x : MarkSt} : (s.setMark n x).landed = s.landed := rfl
@[simp] theorem setMark_weaver {n : Nat} {x : MarkSt} : (s.setMark n x).weaver = s.weaver := rfl
@[simp] theorem setMark_hcs {n : Nat} {x : MarkSt} : (s.setMark n x).hcs = s.hcs := rfl
@[simp] theorem setMark_br {n : Nat} {x : MarkSt} : (s.setMark n x).br = s.br := rfl
@[simp] theorem setMark_cam {n : Nat} {x : MarkSt} : (s.setMark n x).cam = s.cam := rfl
@[simp] theorem setMark_cal {n : Nat} {x : MarkSt} : (s.setMark n x).cal = s.cal := rfl
@[simp] theorem setMark_axes {n : Nat} {x : MarkSt} : (s.setMark n x).axes = s.axes := rfl
@[simp] theorem setMark_mot {n : Nat} {x : MarkSt} : (s.setMark n x).mot = s.mot := rfl
@[simp] theorem setMark_eth {n : Nat} {x : MarkSt} : (s.setMark n x).eth = s.eth := rfl
@[simp] theorem setMark_pages {n : Nat} {x : MarkSt} : (s.setMark n x).pages = s.pages := rfl
@[simp] theorem setMark_subs {n : Nat} {x : MarkSt} : (s.setMark n x).subs = s.subs := rfl
@[simp] theorem setMark_lastEvents {n : Nat} {x : MarkSt} : (s.setMark n x).lastEvents = s.lastEvents := rfl
@[simp] theorem setMark_pwr {n : Nat} {x : MarkSt} : (s.setMark n x).pwr = s.pwr := rfl
@[simp] theorem setMark_flash {n : Nat} {x : MarkSt} : (s.setMark n x).flash = s.flash := rfl
@[simp] theorem setMark_sec {n : Nat} {x : MarkSt} : (s.setMark n x).sec = s.sec := rfl
@[simp] theorem setMark_pending {n : Nat} {x : MarkSt} : (s.setMark n x).pending = s.pending := rfl
@[simp] theorem reg_setMark {j : Nat} {n : Nat} {x : MarkSt} : (s.setMark n x).reg j = s.reg j := rfl
@[simp] theorem fld_setMark {j : Nat} {e : Field} {n : Nat} {x : MarkSt} : (s.setMark n x).fld j e = s.fld j e := rfl
@[simp] theorem bit_setMark {j : Nat} {e : Field} {n : Nat} {x : MarkSt} : (s.setMark n x).bit j e = s.bit j e := rfl
@[simp] theorem byte_setMark {j : Nat} {n : Nat} {x : MarkSt} : (s.setMark n x).byte j = s.byte j := rfl

@[simp] theorem setCmp_now {n : Nat} {x : CmpSt} : (s.setCmp n x).now = s.now := rfl
@[simp] theorem setCmp_regs {n : Nat} {x : CmpSt} : (s.setCmp n x).regs = s.regs := rfl
@[simp] theorem setCmp_mem {n : Nat} {x : CmpSt} : (s.setCmp n x).mem = s.mem := rfl
@[simp] theorem setCmp_highLatch {n : Nat} {x : CmpSt} : (s.setCmp n x).highLatch = s.highLatch := rfl
@[simp] theorem setCmp_halfWrites {n : Nat} {x : CmpSt} : (s.setCmp n x).halfWrites = s.halfWrites := rfl
@[simp] theorem setCmp_resp {n : Nat} {x : CmpSt} : (s.setCmp n x).resp = s.resp := rfl
@[simp] theorem setCmp_freeCtr {n : Nat} {x : CmpSt} : (s.setCmp n x).freeCtr = s.freeCtr := rfl
@[simp] theorem setCmp_log {n : Nat} {x : CmpSt} : (s.setCmp n x).log = s.log := rfl
@[simp] theorem setCmp_link {n : Nat} {x : CmpSt} : (s.setCmp n x).link = s.link := rfl
@[simp] theorem setCmp_dma {n : Nat} {x : CmpSt} : (s.setCmp n x).dma = s.dma := rfl
@[simp] theorem setCmp_granary {n : Nat} {x : CmpSt} : (s.setCmp n x).granary = s.granary := rfl
@[simp] theorem setCmp_dramValid {n : Nat} {x : CmpSt} : (s.setCmp n x).dramValid = s.dramValid := rfl
@[simp] theorem setCmp_miller {n : Nat} {x : CmpSt} : (s.setCmp n x).miller = s.miller := rfl
@[simp] theorem setCmp_pend {n : Nat} {x : CmpSt} : (s.setCmp n x).pend = s.pend := rfl
@[simp] theorem setCmp_landed {n : Nat} {x : CmpSt} : (s.setCmp n x).landed = s.landed := rfl
@[simp] theorem setCmp_weaver {n : Nat} {x : CmpSt} : (s.setCmp n x).weaver = s.weaver := rfl
@[simp] theorem setCmp_hcs {n : Nat} {x : CmpSt} : (s.setCmp n x).hcs = s.hcs := rfl
@[simp] theorem setCmp_br {n : Nat} {x : CmpSt} : (s.setCmp n x).br = s.br := rfl
@[simp] theorem setCmp_cam {n : Nat} {x : CmpSt} : (s.setCmp n x).cam = s.cam := rfl
@[simp] theorem setCmp_cal {n : Nat} {x : CmpSt} : (s.setCmp n x).cal = s.cal := rfl
@[simp] theorem setCmp_axes {n : Nat} {x : CmpSt} : (s.setCmp n x).axes = s.axes := rfl
@[simp] theorem setCmp_mot {n : Nat} {x : CmpSt} : (s.setCmp n x).mot = s.mot := rfl
@[simp] theorem setCmp_eth {n : Nat} {x : CmpSt} : (s.setCmp n x).eth = s.eth := rfl
@[simp] theorem setCmp_pages {n : Nat} {x : CmpSt} : (s.setCmp n x).pages = s.pages := rfl
@[simp] theorem setCmp_subs {n : Nat} {x : CmpSt} : (s.setCmp n x).subs = s.subs := rfl
@[simp] theorem setCmp_lastEvents {n : Nat} {x : CmpSt} : (s.setCmp n x).lastEvents = s.lastEvents := rfl
@[simp] theorem setCmp_pwr {n : Nat} {x : CmpSt} : (s.setCmp n x).pwr = s.pwr := rfl
@[simp] theorem setCmp_flash {n : Nat} {x : CmpSt} : (s.setCmp n x).flash = s.flash := rfl
@[simp] theorem setCmp_sec {n : Nat} {x : CmpSt} : (s.setCmp n x).sec = s.sec := rfl
@[simp] theorem setCmp_pending {n : Nat} {x : CmpSt} : (s.setCmp n x).pending = s.pending := rfl
@[simp] theorem reg_setCmp {j : Nat} {n : Nat} {x : CmpSt} : (s.setCmp n x).reg j = s.reg j := rfl
@[simp] theorem fld_setCmp {j : Nat} {e : Field} {n : Nat} {x : CmpSt} : (s.setCmp n x).fld j e = s.fld j e := rfl
@[simp] theorem bit_setCmp {j : Nat} {e : Field} {n : Nat} {x : CmpSt} : (s.setCmp n x).bit j e = s.bit j e := rfl
@[simp] theorem byte_setCmp {j : Nat} {n : Nat} {x : CmpSt} : (s.setCmp n x).byte j = s.byte j := rfl

@[simp] theorem setCamPort_now {n : Nat} {x : CamPort} : (s.setCamPort n x).now = s.now := rfl
@[simp] theorem setCamPort_regs {n : Nat} {x : CamPort} : (s.setCamPort n x).regs = s.regs := rfl
@[simp] theorem setCamPort_mem {n : Nat} {x : CamPort} : (s.setCamPort n x).mem = s.mem := rfl
@[simp] theorem setCamPort_highLatch {n : Nat} {x : CamPort} : (s.setCamPort n x).highLatch = s.highLatch := rfl
@[simp] theorem setCamPort_halfWrites {n : Nat} {x : CamPort} : (s.setCamPort n x).halfWrites = s.halfWrites := rfl
@[simp] theorem setCamPort_resp {n : Nat} {x : CamPort} : (s.setCamPort n x).resp = s.resp := rfl
@[simp] theorem setCamPort_freeCtr {n : Nat} {x : CamPort} : (s.setCamPort n x).freeCtr = s.freeCtr := rfl
@[simp] theorem setCamPort_log {n : Nat} {x : CamPort} : (s.setCamPort n x).log = s.log := rfl
@[simp] theorem setCamPort_link {n : Nat} {x : CamPort} : (s.setCamPort n x).link = s.link := rfl
@[simp] theorem setCamPort_dma {n : Nat} {x : CamPort} : (s.setCamPort n x).dma = s.dma := rfl
@[simp] theorem setCamPort_granary {n : Nat} {x : CamPort} : (s.setCamPort n x).granary = s.granary := rfl
@[simp] theorem setCamPort_dramValid {n : Nat} {x : CamPort} : (s.setCamPort n x).dramValid = s.dramValid := rfl
@[simp] theorem setCamPort_miller {n : Nat} {x : CamPort} : (s.setCamPort n x).miller = s.miller := rfl
@[simp] theorem setCamPort_pend {n : Nat} {x : CamPort} : (s.setCamPort n x).pend = s.pend := rfl
@[simp] theorem setCamPort_landed {n : Nat} {x : CamPort} : (s.setCamPort n x).landed = s.landed := rfl
@[simp] theorem setCamPort_weaver {n : Nat} {x : CamPort} : (s.setCamPort n x).weaver = s.weaver := rfl
@[simp] theorem setCamPort_hcs {n : Nat} {x : CamPort} : (s.setCamPort n x).hcs = s.hcs := rfl
@[simp] theorem setCamPort_pos {n : Nat} {x : CamPort} : (s.setCamPort n x).pos = s.pos := rfl
@[simp] theorem setCamPort_br {n : Nat} {x : CamPort} : (s.setCamPort n x).br = s.br := rfl
@[simp] theorem setCamPort_cal {n : Nat} {x : CamPort} : (s.setCamPort n x).cal = s.cal := rfl
@[simp] theorem setCamPort_axes {n : Nat} {x : CamPort} : (s.setCamPort n x).axes = s.axes := rfl
@[simp] theorem setCamPort_mot {n : Nat} {x : CamPort} : (s.setCamPort n x).mot = s.mot := rfl
@[simp] theorem setCamPort_eth {n : Nat} {x : CamPort} : (s.setCamPort n x).eth = s.eth := rfl
@[simp] theorem setCamPort_pages {n : Nat} {x : CamPort} : (s.setCamPort n x).pages = s.pages := rfl
@[simp] theorem setCamPort_subs {n : Nat} {x : CamPort} : (s.setCamPort n x).subs = s.subs := rfl
@[simp] theorem setCamPort_lastEvents {n : Nat} {x : CamPort} : (s.setCamPort n x).lastEvents = s.lastEvents := rfl
@[simp] theorem setCamPort_pwr {n : Nat} {x : CamPort} : (s.setCamPort n x).pwr = s.pwr := rfl
@[simp] theorem setCamPort_flash {n : Nat} {x : CamPort} : (s.setCamPort n x).flash = s.flash := rfl
@[simp] theorem setCamPort_sec {n : Nat} {x : CamPort} : (s.setCamPort n x).sec = s.sec := rfl
@[simp] theorem setCamPort_pending {n : Nat} {x : CamPort} : (s.setCamPort n x).pending = s.pending := rfl
@[simp] theorem reg_setCamPort {j : Nat} {n : Nat} {x : CamPort} : (s.setCamPort n x).reg j = s.reg j := rfl
@[simp] theorem fld_setCamPort {j : Nat} {e : Field} {n : Nat} {x : CamPort} : (s.setCamPort n x).fld j e = s.fld j e := rfl
@[simp] theorem bit_setCamPort {j : Nat} {e : Field} {n : Nat} {x : CamPort} : (s.setCamPort n x).bit j e = s.bit j e := rfl
@[simp] theorem byte_setCamPort {j : Nat} {n : Nat} {x : CamPort} : (s.setCamPort n x).byte j = s.byte j := rfl

@[simp] theorem setAx_now {n : Nat} {x : AxisSt} : (s.setAx n x).now = s.now := rfl
@[simp] theorem setAx_regs {n : Nat} {x : AxisSt} : (s.setAx n x).regs = s.regs := rfl
@[simp] theorem setAx_mem {n : Nat} {x : AxisSt} : (s.setAx n x).mem = s.mem := rfl
@[simp] theorem setAx_highLatch {n : Nat} {x : AxisSt} : (s.setAx n x).highLatch = s.highLatch := rfl
@[simp] theorem setAx_halfWrites {n : Nat} {x : AxisSt} : (s.setAx n x).halfWrites = s.halfWrites := rfl
@[simp] theorem setAx_resp {n : Nat} {x : AxisSt} : (s.setAx n x).resp = s.resp := rfl
@[simp] theorem setAx_freeCtr {n : Nat} {x : AxisSt} : (s.setAx n x).freeCtr = s.freeCtr := rfl
@[simp] theorem setAx_log {n : Nat} {x : AxisSt} : (s.setAx n x).log = s.log := rfl
@[simp] theorem setAx_link {n : Nat} {x : AxisSt} : (s.setAx n x).link = s.link := rfl
@[simp] theorem setAx_dma {n : Nat} {x : AxisSt} : (s.setAx n x).dma = s.dma := rfl
@[simp] theorem setAx_granary {n : Nat} {x : AxisSt} : (s.setAx n x).granary = s.granary := rfl
@[simp] theorem setAx_dramValid {n : Nat} {x : AxisSt} : (s.setAx n x).dramValid = s.dramValid := rfl
@[simp] theorem setAx_miller {n : Nat} {x : AxisSt} : (s.setAx n x).miller = s.miller := rfl
@[simp] theorem setAx_pend {n : Nat} {x : AxisSt} : (s.setAx n x).pend = s.pend := rfl
@[simp] theorem setAx_landed {n : Nat} {x : AxisSt} : (s.setAx n x).landed = s.landed := rfl
@[simp] theorem setAx_weaver {n : Nat} {x : AxisSt} : (s.setAx n x).weaver = s.weaver := rfl
@[simp] theorem setAx_hcs {n : Nat} {x : AxisSt} : (s.setAx n x).hcs = s.hcs := rfl
@[simp] theorem setAx_pos {n : Nat} {x : AxisSt} : (s.setAx n x).pos = s.pos := rfl
@[simp] theorem setAx_br {n : Nat} {x : AxisSt} : (s.setAx n x).br = s.br := rfl
@[simp] theorem setAx_cam {n : Nat} {x : AxisSt} : (s.setAx n x).cam = s.cam := rfl
@[simp] theorem setAx_cal {n : Nat} {x : AxisSt} : (s.setAx n x).cal = s.cal := rfl
@[simp] theorem setAx_mot {n : Nat} {x : AxisSt} : (s.setAx n x).mot = s.mot := rfl
@[simp] theorem setAx_eth {n : Nat} {x : AxisSt} : (s.setAx n x).eth = s.eth := rfl
@[simp] theorem setAx_pages {n : Nat} {x : AxisSt} : (s.setAx n x).pages = s.pages := rfl
@[simp] theorem setAx_subs {n : Nat} {x : AxisSt} : (s.setAx n x).subs = s.subs := rfl
@[simp] theorem setAx_lastEvents {n : Nat} {x : AxisSt} : (s.setAx n x).lastEvents = s.lastEvents := rfl
@[simp] theorem setAx_pwr {n : Nat} {x : AxisSt} : (s.setAx n x).pwr = s.pwr := rfl
@[simp] theorem setAx_flash {n : Nat} {x : AxisSt} : (s.setAx n x).flash = s.flash := rfl
@[simp] theorem setAx_sec {n : Nat} {x : AxisSt} : (s.setAx n x).sec = s.sec := rfl
@[simp] theorem setAx_pending {n : Nat} {x : AxisSt} : (s.setAx n x).pending = s.pending := rfl
@[simp] theorem reg_setAx {j : Nat} {n : Nat} {x : AxisSt} : (s.setAx n x).reg j = s.reg j := rfl
@[simp] theorem fld_setAx {j : Nat} {e : Field} {n : Nat} {x : AxisSt} : (s.setAx n x).fld j e = s.fld j e := rfl
@[simp] theorem bit_setAx {j : Nat} {e : Field} {n : Nat} {x : AxisSt} : (s.setAx n x).bit j e = s.bit j e := rfl
@[simp] theorem byte_setAx {j : Nat} {n : Nat} {x : AxisSt} : (s.setAx n x).byte j = s.byte j := rfl

@[simp] theorem setPage_now {n : Nat} {x : PageCtx} : (s.setPage n x).now = s.now := rfl
@[simp] theorem setPage_regs {n : Nat} {x : PageCtx} : (s.setPage n x).regs = s.regs := rfl
@[simp] theorem setPage_mem {n : Nat} {x : PageCtx} : (s.setPage n x).mem = s.mem := rfl
@[simp] theorem setPage_highLatch {n : Nat} {x : PageCtx} : (s.setPage n x).highLatch = s.highLatch := rfl
@[simp] theorem setPage_halfWrites {n : Nat} {x : PageCtx} : (s.setPage n x).halfWrites = s.halfWrites := rfl
@[simp] theorem setPage_resp {n : Nat} {x : PageCtx} : (s.setPage n x).resp = s.resp := rfl
@[simp] theorem setPage_freeCtr {n : Nat} {x : PageCtx} : (s.setPage n x).freeCtr = s.freeCtr := rfl
@[simp] theorem setPage_log {n : Nat} {x : PageCtx} : (s.setPage n x).log = s.log := rfl
@[simp] theorem setPage_link {n : Nat} {x : PageCtx} : (s.setPage n x).link = s.link := rfl
@[simp] theorem setPage_dma {n : Nat} {x : PageCtx} : (s.setPage n x).dma = s.dma := rfl
@[simp] theorem setPage_granary {n : Nat} {x : PageCtx} : (s.setPage n x).granary = s.granary := rfl
@[simp] theorem setPage_dramValid {n : Nat} {x : PageCtx} : (s.setPage n x).dramValid = s.dramValid := rfl
@[simp] theorem setPage_miller {n : Nat} {x : PageCtx} : (s.setPage n x).miller = s.miller := rfl
@[simp] theorem setPage_pend {n : Nat} {x : PageCtx} : (s.setPage n x).pend = s.pend := rfl
@[simp] theorem setPage_landed {n : Nat} {x : PageCtx} : (s.setPage n x).landed = s.landed := rfl
@[simp] theorem setPage_weaver {n : Nat} {x : PageCtx} : (s.setPage n x).weaver = s.weaver := rfl
@[simp] theorem setPage_hcs {n : Nat} {x : PageCtx} : (s.setPage n x).hcs = s.hcs := rfl
@[simp] theorem setPage_pos {n : Nat} {x : PageCtx} : (s.setPage n x).pos = s.pos := rfl
@[simp] theorem setPage_br {n : Nat} {x : PageCtx} : (s.setPage n x).br = s.br := rfl
@[simp] theorem setPage_cam {n : Nat} {x : PageCtx} : (s.setPage n x).cam = s.cam := rfl
@[simp] theorem setPage_cal {n : Nat} {x : PageCtx} : (s.setPage n x).cal = s.cal := rfl
@[simp] theorem setPage_axes {n : Nat} {x : PageCtx} : (s.setPage n x).axes = s.axes := rfl
@[simp] theorem setPage_mot {n : Nat} {x : PageCtx} : (s.setPage n x).mot = s.mot := rfl
@[simp] theorem setPage_eth {n : Nat} {x : PageCtx} : (s.setPage n x).eth = s.eth := rfl
@[simp] theorem setPage_subs {n : Nat} {x : PageCtx} : (s.setPage n x).subs = s.subs := rfl
@[simp] theorem setPage_lastEvents {n : Nat} {x : PageCtx} : (s.setPage n x).lastEvents = s.lastEvents := rfl
@[simp] theorem setPage_pwr {n : Nat} {x : PageCtx} : (s.setPage n x).pwr = s.pwr := rfl
@[simp] theorem setPage_flash {n : Nat} {x : PageCtx} : (s.setPage n x).flash = s.flash := rfl
@[simp] theorem setPage_sec {n : Nat} {x : PageCtx} : (s.setPage n x).sec = s.sec := rfl
@[simp] theorem setPage_pending {n : Nat} {x : PageCtx} : (s.setPage n x).pending = s.pending := rfl
@[simp] theorem reg_setPage {j : Nat} {n : Nat} {x : PageCtx} : (s.setPage n x).reg j = s.reg j := rfl
@[simp] theorem fld_setPage {j : Nat} {e : Field} {n : Nat} {x : PageCtx} : (s.setPage n x).fld j e = s.fld j e := rfl
@[simp] theorem bit_setPage {j : Nat} {e : Field} {n : Nat} {x : PageCtx} : (s.setPage n x).bit j e = s.bit j e := rfl
@[simp] theorem byte_setPage {j : Nat} {n : Nat} {x : PageCtx} : (s.setPage n x).byte j = s.byte j := rfl

@[simp] theorem setDict_now {n v : Nat} : (s.setDict n v).now = s.now := rfl
@[simp] theorem setDict_regs {n v : Nat} : (s.setDict n v).regs = s.regs := rfl
@[simp] theorem setDict_mem {n v : Nat} : (s.setDict n v).mem = s.mem := rfl
@[simp] theorem setDict_highLatch {n v : Nat} : (s.setDict n v).highLatch = s.highLatch := rfl
@[simp] theorem setDict_halfWrites {n v : Nat} : (s.setDict n v).halfWrites = s.halfWrites := rfl
@[simp] theorem setDict_resp {n v : Nat} : (s.setDict n v).resp = s.resp := rfl
@[simp] theorem setDict_freeCtr {n v : Nat} : (s.setDict n v).freeCtr = s.freeCtr := rfl
@[simp] theorem setDict_log {n v : Nat} : (s.setDict n v).log = s.log := rfl
@[simp] theorem setDict_link {n v : Nat} : (s.setDict n v).link = s.link := rfl
@[simp] theorem setDict_dma {n v : Nat} : (s.setDict n v).dma = s.dma := rfl
@[simp] theorem setDict_granary {n v : Nat} : (s.setDict n v).granary = s.granary := rfl
@[simp] theorem setDict_dramValid {n v : Nat} : (s.setDict n v).dramValid = s.dramValid := rfl
@[simp] theorem setDict_miller {n v : Nat} : (s.setDict n v).miller = s.miller := rfl
@[simp] theorem setDict_pend {n v : Nat} : (s.setDict n v).pend = s.pend := rfl
@[simp] theorem setDict_landed {n v : Nat} : (s.setDict n v).landed = s.landed := rfl
@[simp] theorem setDict_weaver {n v : Nat} : (s.setDict n v).weaver = s.weaver := rfl
@[simp] theorem setDict_hcs {n v : Nat} : (s.setDict n v).hcs = s.hcs := rfl
@[simp] theorem setDict_pos {n v : Nat} : (s.setDict n v).pos = s.pos := rfl
@[simp] theorem setDict_br {n v : Nat} : (s.setDict n v).br = s.br := rfl
@[simp] theorem setDict_cam {n v : Nat} : (s.setDict n v).cam = s.cam := rfl
@[simp] theorem setDict_cal {n v : Nat} : (s.setDict n v).cal = s.cal := rfl
@[simp] theorem setDict_axes {n v : Nat} : (s.setDict n v).axes = s.axes := rfl
@[simp] theorem setDict_mot {n v : Nat} : (s.setDict n v).mot = s.mot := rfl
@[simp] theorem setDict_pages {n v : Nat} : (s.setDict n v).pages = s.pages := rfl
@[simp] theorem setDict_subs {n v : Nat} : (s.setDict n v).subs = s.subs := rfl
@[simp] theorem setDict_lastEvents {n v : Nat} : (s.setDict n v).lastEvents = s.lastEvents := rfl
@[simp] theorem setDict_pwr {n v : Nat} : (s.setDict n v).pwr = s.pwr := rfl
@[simp] theorem setDict_flash {n v : Nat} : (s.setDict n v).flash = s.flash := rfl
@[simp] theorem setDict_sec {n v : Nat} : (s.setDict n v).sec = s.sec := rfl
@[simp] theorem setDict_pending {n v : Nat} : (s.setDict n v).pending = s.pending := rfl
@[simp] theorem reg_setDict {j : Nat} {n v : Nat} : (s.setDict n v).reg j = s.reg j := rfl
@[simp] theorem fld_setDict {j : Nat} {e : Field} {n v : Nat} : (s.setDict n v).fld j e = s.fld j e := rfl
@[simp] theorem bit_setDict {j : Nat} {e : Field} {n v : Nat} : (s.setDict n v).bit j e = s.bit j e := rfl
@[simp] theorem byte_setDict {j : Nat} {n v : Nat} : (s.setDict n v).byte j = s.byte j := rfl

@[simp] theorem setGroup_now {n : Nat} {g : Group} : (s.setGroup n g).now = s.now := rfl
@[simp] theorem setGroup_regs {n : Nat} {g : Group} : (s.setGroup n g).regs = s.regs := rfl
@[simp] theorem setGroup_mem {n : Nat} {g : Group} : (s.setGroup n g).mem = s.mem := rfl
@[simp] theorem setGroup_highLatch {n : Nat} {g : Group} : (s.setGroup n g).highLatch = s.highLatch := rfl
@[simp] theorem setGroup_halfWrites {n : Nat} {g : Group} : (s.setGroup n g).halfWrites = s.halfWrites := rfl
@[simp] theorem setGroup_resp {n : Nat} {g : Group} : (s.setGroup n g).resp = s.resp := rfl
@[simp] theorem setGroup_freeCtr {n : Nat} {g : Group} : (s.setGroup n g).freeCtr = s.freeCtr := rfl
@[simp] theorem setGroup_log {n : Nat} {g : Group} : (s.setGroup n g).log = s.log := rfl
@[simp] theorem setGroup_link {n : Nat} {g : Group} : (s.setGroup n g).link = s.link := rfl
@[simp] theorem setGroup_dma {n : Nat} {g : Group} : (s.setGroup n g).dma = s.dma := rfl
@[simp] theorem setGroup_granary {n : Nat} {g : Group} : (s.setGroup n g).granary = s.granary := rfl
@[simp] theorem setGroup_dramValid {n : Nat} {g : Group} : (s.setGroup n g).dramValid = s.dramValid := rfl
@[simp] theorem setGroup_miller {n : Nat} {g : Group} : (s.setGroup n g).miller = s.miller := rfl
@[simp] theorem setGroup_pend {n : Nat} {g : Group} : (s.setGroup n g).pend = s.pend := rfl
@[simp] theorem setGroup_landed {n : Nat} {g : Group} : (s.setGroup n g).landed = s.landed := rfl
@[simp] theorem setGroup_weaver {n : Nat} {g : Group} : (s.setGroup n g).weaver = s.weaver := rfl
@[simp] theorem setGroup_hcs {n : Nat} {g : Group} : (s.setGroup n g).hcs = s.hcs := rfl
@[simp] theorem setGroup_pos {n : Nat} {g : Group} : (s.setGroup n g).pos = s.pos := rfl
@[simp] theorem setGroup_br {n : Nat} {g : Group} : (s.setGroup n g).br = s.br := rfl
@[simp] theorem setGroup_cam {n : Nat} {g : Group} : (s.setGroup n g).cam = s.cam := rfl
@[simp] theorem setGroup_cal {n : Nat} {g : Group} : (s.setGroup n g).cal = s.cal := rfl
@[simp] theorem setGroup_axes {n : Nat} {g : Group} : (s.setGroup n g).axes = s.axes := rfl
@[simp] theorem setGroup_mot {n : Nat} {g : Group} : (s.setGroup n g).mot = s.mot := rfl
@[simp] theorem setGroup_pages {n : Nat} {g : Group} : (s.setGroup n g).pages = s.pages := rfl
@[simp] theorem setGroup_subs {n : Nat} {g : Group} : (s.setGroup n g).subs = s.subs := rfl
@[simp] theorem setGroup_lastEvents {n : Nat} {g : Group} : (s.setGroup n g).lastEvents = s.lastEvents := rfl
@[simp] theorem setGroup_pwr {n : Nat} {g : Group} : (s.setGroup n g).pwr = s.pwr := rfl
@[simp] theorem setGroup_flash {n : Nat} {g : Group} : (s.setGroup n g).flash = s.flash := rfl
@[simp] theorem setGroup_sec {n : Nat} {g : Group} : (s.setGroup n g).sec = s.sec := rfl
@[simp] theorem setGroup_pending {n : Nat} {g : Group} : (s.setGroup n g).pending = s.pending := rfl
@[simp] theorem reg_setGroup {j : Nat} {n : Nat} {g : Group} : (s.setGroup n g).reg j = s.reg j := rfl
@[simp] theorem fld_setGroup {j : Nat} {e : Field} {n : Nat} {g : Group} : (s.setGroup n g).fld j e = s.fld j e := rfl
@[simp] theorem bit_setGroup {j : Nat} {e : Field} {n : Nat} {g : Group} : (s.setGroup n g).bit j e = s.bit j e := rfl
@[simp] theorem byte_setGroup {j : Nat} {n : Nat} {g : Group} : (s.setGroup n g).byte j = s.byte j := rfl

@[simp] theorem setSub_now {n : Nat} {b : Subscriber} : (s.setSub n b).now = s.now := rfl
@[simp] theorem setSub_regs {n : Nat} {b : Subscriber} : (s.setSub n b).regs = s.regs := rfl
@[simp] theorem setSub_mem {n : Nat} {b : Subscriber} : (s.setSub n b).mem = s.mem := rfl
@[simp] theorem setSub_highLatch {n : Nat} {b : Subscriber} : (s.setSub n b).highLatch = s.highLatch := rfl
@[simp] theorem setSub_halfWrites {n : Nat} {b : Subscriber} : (s.setSub n b).halfWrites = s.halfWrites := rfl
@[simp] theorem setSub_resp {n : Nat} {b : Subscriber} : (s.setSub n b).resp = s.resp := rfl
@[simp] theorem setSub_freeCtr {n : Nat} {b : Subscriber} : (s.setSub n b).freeCtr = s.freeCtr := rfl
@[simp] theorem setSub_log {n : Nat} {b : Subscriber} : (s.setSub n b).log = s.log := rfl
@[simp] theorem setSub_link {n : Nat} {b : Subscriber} : (s.setSub n b).link = s.link := rfl
@[simp] theorem setSub_dma {n : Nat} {b : Subscriber} : (s.setSub n b).dma = s.dma := rfl
@[simp] theorem setSub_granary {n : Nat} {b : Subscriber} : (s.setSub n b).granary = s.granary := rfl
@[simp] theorem setSub_dramValid {n : Nat} {b : Subscriber} : (s.setSub n b).dramValid = s.dramValid := rfl
@[simp] theorem setSub_miller {n : Nat} {b : Subscriber} : (s.setSub n b).miller = s.miller := rfl
@[simp] theorem setSub_pend {n : Nat} {b : Subscriber} : (s.setSub n b).pend = s.pend := rfl
@[simp] theorem setSub_landed {n : Nat} {b : Subscriber} : (s.setSub n b).landed = s.landed := rfl
@[simp] theorem setSub_weaver {n : Nat} {b : Subscriber} : (s.setSub n b).weaver = s.weaver := rfl
@[simp] theorem setSub_hcs {n : Nat} {b : Subscriber} : (s.setSub n b).hcs = s.hcs := rfl
@[simp] theorem setSub_pos {n : Nat} {b : Subscriber} : (s.setSub n b).pos = s.pos := rfl
@[simp] theorem setSub_br {n : Nat} {b : Subscriber} : (s.setSub n b).br = s.br := rfl
@[simp] theorem setSub_cam {n : Nat} {b : Subscriber} : (s.setSub n b).cam = s.cam := rfl
@[simp] theorem setSub_cal {n : Nat} {b : Subscriber} : (s.setSub n b).cal = s.cal := rfl
@[simp] theorem setSub_axes {n : Nat} {b : Subscriber} : (s.setSub n b).axes = s.axes := rfl
@[simp] theorem setSub_mot {n : Nat} {b : Subscriber} : (s.setSub n b).mot = s.mot := rfl
@[simp] theorem setSub_eth {n : Nat} {b : Subscriber} : (s.setSub n b).eth = s.eth := rfl
@[simp] theorem setSub_pages {n : Nat} {b : Subscriber} : (s.setSub n b).pages = s.pages := rfl
@[simp] theorem setSub_lastEvents {n : Nat} {b : Subscriber} : (s.setSub n b).lastEvents = s.lastEvents := rfl
@[simp] theorem setSub_pwr {n : Nat} {b : Subscriber} : (s.setSub n b).pwr = s.pwr := rfl
@[simp] theorem setSub_flash {n : Nat} {b : Subscriber} : (s.setSub n b).flash = s.flash := rfl
@[simp] theorem setSub_sec {n : Nat} {b : Subscriber} : (s.setSub n b).sec = s.sec := rfl
@[simp] theorem setSub_pending {n : Nat} {b : Subscriber} : (s.setSub n b).pending = s.pending := rfl
@[simp] theorem reg_setSub {j : Nat} {n : Nat} {b : Subscriber} : (s.setSub n b).reg j = s.reg j := rfl
@[simp] theorem fld_setSub {j : Nat} {e : Field} {n : Nat} {b : Subscriber} : (s.setSub n b).fld j e = s.fld j e := rfl
@[simp] theorem bit_setSub {j : Nat} {e : Field} {n : Nat} {b : Subscriber} : (s.setSub n b).bit j e = s.bit j e := rfl
@[simp] theorem byte_setSub {j : Nat} {n : Nat} {b : Subscriber} : (s.setSub n b).byte j = s.byte j := rfl

/-! ## Memory keeps its canonical form -/

theorem setByte_wf {a : Nat} {b : Byte} (h : Memory.wf s.mem = true) : Memory.wf (s.setByte a b).mem = true := swf_sset h

theorem setBytes_wf {a : Nat} {l : List Byte} (h : Memory.wf s.mem = true) : Memory.wf (s.setBytes a l).mem = true :=
  memSet_wf h

theorem setReg_wf {a : Nat} {x : Word} (h : Regs.wf s.regs = true) : Regs.wf (s.setReg a x).regs = true := swf_sset h

end Sys2Proof.Laws
end

