-- ==== Sys2Proof/Tests/Slice0.lean ====
section
/-! SUPPORT. The package's own tests: ill-formed operands are refused, the worked examples of the spec come out, and every
obligation with hypotheses has a state that meets them. -/

set_option linter.unusedVariables false

namespace Sys2Proof.Tests

set_option Elab.async false

open Sys2Proof.Machine

/-- Link mode 0b00 with all lanes: port 0 is up and active. -/
def linkUp : State :=
  ((State.reset.setBit R.LINK_STAT (upField 0) true).setFld R.LINK_STAT F.LINK_STAT_TXMASK 255).setPort 0
    { rxm := 255, hostRxm := 255, hostTxm := 255, hostLimits := some (8, 8) }

/-- Port 0 starts: its lanes have symbol lock and have seen their own numbers. -/
def linkStarting : State :=
  (List.range 8).foldl (fun s n =>
      (s.setBit (R.LINK_LANEn_STAT n) F.LINK_LANEn_STAT_LOCK true).setLane n { lnSeen := some n })
    (State.reset.setPort 0 { starting := true, rxm := 255 })

/-- A packet of class `cls` and the target, with a payload of `len` zero bytes and DLEN `dlen`. -/
def packetOf (cls target len dlen addr : Nat) : Packet := ⟨cls, target, 0, addr, 0, 0, dlen, List.replicate len 0⟩

/-- The bytes of a packet of class 5 with event code 0x20, as R45 lays them out, with their CRC. -/
def eventBytes : List Byte :=
  let l := leBytes 4 0x2050 ++ leBytes 2 0 ++ leBytes 2 16 ++ List.replicate 8 0 ++ List.replicate 16 0
  l ++ leBytes 4 (crc32c l)

/-- Bytes after SOP and before a last symbol, as eight lanes carry them. -/
def onLanes (l : List Byte) (last : Sym) : List (Bool × List (BitVec 10)) :=
  (List.range 8).map (fun j => (false, lineSyms false (stripe 8 j (.ctl .sop :: l.map .data ++ [last]))))

/-- Port 0 of `linkUp` with a list of accepted packets. -/
def linkGot (l : List Packet) : State := linkUp.setPort 0 { linkUp.port 0 with accepted := l }

/-- DMA is enabled; channel 24 has a ring of 16 descriptors in shared SRAM, is enabled and is in a state. -/
def dmaIn (state : Nat) : State :=
  (((((State.reset.setBit R.DMA_CTRL F.DMA_CTRL_EN true).setReg (R.DMA_CHn_RING_LO 24) 0x1000).setReg
    (R.DMA_CHn_RING_HI 24) 0x40000).setReg (R.DMA_CHn_CTRL 24) (if state = 0 then 0 else 1))).setFld
    (R.DMA_CHn_STAT 24) F.DMA_CHn_STAT_STATE state

/-- A descriptor at an index that moves 64 bytes from shared SRAM to shared SRAM, all of them issued. -/
def desc (idx : Nat) : Desc := ⟨idx, false, true, false, 64, 0x4000, 0x5000, 7, true, 64, 0, [], 0⟩

/-- A burst of descriptor 3 whose data are there. -/
def burst : Burst := ⟨3, 0, 32, 0x4000, 0x5000, some (List.replicate 32 9), none, none, false, 0, false⟩

/-- Channel 24 in a state with descriptors and bursts. -/
def dmaWith (state : Nat) (held : List Desc) (bursts : List Burst) : State :=
  ((dmaIn state).setCh 24 { held := held, bursts := bursts }).setReg (R.DMA_CHn_HEAD 24) 0x00040003

/-- Granary is enabled and its channel 0 is ready; channel 0 with some state. -/
def dram (x : DramChan) : State :=
  (((State.reset.setReg R.GRANARY_CTRL 1).setReg R.GRANARY_SR 0).setFld R.GRANARY_STAT F.GRANARY_STAT_CH0STATE 2).setChan 0 x

/-- A request of DMA channel 24 for a whole block at the start of DRAM. -/
def dramReq (data : Option (List Byte)) : DramReq := ⟨4, 0, 24, 0x8000000000, 0, 64, data, 0, 0, 0⟩

/-- A write of a block of fives in flight, with its CRC-64. -/
def fives : DramReq :=
  { dramReq (some (List.replicate 64 5)) with crc := State.reset.burstCrc 0x8000000000 (List.replicate 64 5) }

/-- The header of a raw block of FMT 0 with one line of 12 columns, for page 3 from line 5 on. -/
def rawHeader : BlockHeader := ⟨2, 0, false, 5, 0, 12, 1, 3, 12⟩

/-- The bytes of that block: its line holds 12 equal samples. -/
def rawBlock : List Byte := headerBytes rawHeader ++ List.replicate 12 9 ++ leBytes 4 (crc32c (List.replicate 12 9))

/-- An overlap of 2110 columns, page 3 armed with 100 lines, and decoder 0 serving it at a header with some input. -/
def decoding (x : DecoderSt) : State :=
  ({ State.reset with pages := [(3, { state := 2, length := 100, serial := 1 })], weaver := { overlap := 2110 } }.setDec 0
    { x with serving := true, page := 3, serial := 1 }).setDecState 0 1

/-- Encoder 1 is enabled for lines of 4 columns of FMT 0. -/
def encoding (x : EncoderSt) : State :=
  ((State.reset.setReg (R.MILLER_ENCe_CTRL 1) 1).setFld (R.MILLER_ENCe_CFG 1) F.MILLER_ENCe_CFG_WIDTH 4).setEnc 1 x


/-- The grid runs from line 0 on, and head channel 0 is enabled, Printing, with row U alone. -/
def printing : State :=
  (((((State.reset.setBit R.CLKPWR_STAT F.CLKPWR_STAT_SHIFTLOCK true).setBit R.BR_CTRL F.BR_CTRL_RUN true).setBit R.BR_CTRL F.BR_CTRL_EN true).setBit R.BR_STAT
    F.BR_STAT_RUNNING true).setBit (R.HC_CTRL 0) F.HC_CTRL_EN true).setFld (R.HC_STAT 0) F.HC_STAT_STATE 2

/-- A block to be recomputed, which decoder 0 accepted first. -/
def recompJob : RecompJob := ⟨0, ⟨0x8000000000, 1, 3, 0, 0, 12, 100⟩, none, none, false⟩

/-- Ready; head channel 5 in a state, its EN set unless it is Disabled, with a profile that passes every check. -/
def heads (state : Nat) : State :=
  let s := (((State.reset.setPower 2).setReg (R.HC_MAP_LO 5) 0x11111111).setReg (R.HC_MAP_HI 5) 0x11111111).setReg
    (R.HC_DMAP_LO 5) 0x11111111
  let s := ((s.setReg (R.HC_DMAP_HI 5) 0x11111111).setReg (R.HC_CODES 5) 0x1111).setFld (R.HC_PROF0 5) F.HC_PROF0_NOZ 64
  let s := ((s.setFld (R.HC_PROF0 5) F.HC_PROF0_PAIRS 1).setFld (R.HC_PROF1 5) F.HC_PROF1_STROBEMAX 1000).setFld
    (R.HC_PROF2 5) F.HC_PROF2_SEGMIN 1
  (s.setBit (R.HC_CTRL 5) F.HC_CTRL_EN (state != 0)).setFld (R.HC_STAT 5) F.HC_STAT_STATE state

/-- Channel 23 is scan-paced, enabled, Printing and armed, for groups of one line. -/
def scanning : State :=
  let s := (State.reset.setBit (R.HC_CTRL 23) F.HC_CTRL_SCAN true).setBit (R.HC_CTRL 23) F.HC_CTRL_EN true
  let s := (s.setFld (R.HC_STAT 23) F.HC_STAT_STATE 2).setBit (R.HC_SCAN_CFG 23) F.HC_SCAN_CFG_ARM true
  ((s.setReg (R.HC_SCAN_PER 23) 0xFFFFF).setReg (R.HC_SCAN_DLY 23) 0x100).setFld (R.HC_PROF1 23) F.HC_PROF1_STROBEMAX 1000

/-- A code frame of row U for line 4. -/
def frame : Frame := ⟨false, 0, 4, 0, [1, 0, 2], [5, 0, 6], [0, 2], 0, 1, 2, false, false, 0, []⟩

/-- All encoder paths are enabled in a mode with a multiplier, at position 5. -/
def counting (mode mult : Nat) : State :=
  (List.range 4).foldl (fun s n =>
    (((s.setBit (R.ENCn_CTRL n) F.ENCn_CTRL_EN true).setFld (R.ENCn_CTRL n) F.ENCn_CTRL_MODE mode).setFld (R.ENCn_CTRL n)
      F.ENCn_CTRL_MULT mult).setWide (R.ENCn_POS_LO n) 5) State.reset

/-- Quadrature paths that use Z at its rising edge with 1000 counts a revolution, IDXPOS 7, a tolerance of 4 and REV as
given, with or without REF. -/
def indexed (ref : Bool) (rev : Nat) : State :=
  (List.range 4).foldl (fun s n =>
    let s := (s.setBit (R.ENCn_CTRL n) F.ENCn_CTRL_ZEN true).setReg (R.ENCn_REVCNT n) 1000
    let s := (s.setReg (R.ENCn_IDXPOS n) 7).setFld (R.ENCn_IDXCFG n) F.ENCn_IDXCFG_TOL 4
    (s.setFld (R.ENCn_REV n) F.ENCn_REV_REV rev).setBit (R.ENCn_STAT n) F.ENCn_STAT_REF ref) (counting 0 3)

/-- SSI port 0 reads three position bits and has a frame in progress, after two rejected ones. -/
def ssiPort : State :=
  ((State.reset.setFld (R.SSIm_CFG 0) F.SSIm_CFG_POSBITS 3).setReg (R.SSIm_MAXJUMP 0) 100).setSsi 0 { start := some 77, rejected := 2 }

/-- Mark input 2 is enabled. -/
def marking (x : MarkSt) : State := (State.reset.setBit (R.MARKi_CFG 2) F.MARKi_CFG_EN true).setMark 2 x

/-- A ratio of `n` over 2, which R261 allows up to 8. -/
def ratio (n : Nat) : State := (State.reset.setReg R.BR_NUM (BitVec.ofNat 32 n)).setReg R.BR_DEN 2

/-- The loop is enabled, in a state, and ENC0 is VALID at a good speed; the ratio is 1. -/
def tracking (state : Nat) : State :=
  ((((ratio 2).setBit R.BR_CTRL F.BR_CTRL_EN true).setLoopState state).setBit (R.ENCn_STAT 0) F.ENCn_STAT_VALID true).setReg
    (R.ENCn_SPEED 0) 0x1000000

/-- That loop a microsecond after its last update. -/
def updating (state : Nat) : State := { tracking state with now := 800 }

/-- Camera port 2 is armed in FV framing for frames of three lines of three pixels. -/
def camera (x : CamPort) : State :=
  let s := (State.reset.setPower 2).setBit (R.CAMn_CTRL 2) F.CAMn_CTRL_ARM true
  let s := (s.setBit (R.CAMn_CTRL 2) F.CAMn_CTRL_FRAMEMODE true).setFld (R.CAMn_STAT 2) F.CAMn_STAT_STATE 1
  let s := (s.setFld (R.CAMn_GEOM 2) F.CAMn_GEOM_LINEPX 3).setFld (R.CAMn_GEOM 2) F.CAMn_GEOM_FRAMELINES 3
  ((s.setFld (R.CAMn_ERR_THR 2) F.CAMn_ERR_THR_ERRMAX 4).setFld (R.Pp_RES_HI 1) F.Pp_RES_HI_SIZE_LOG2 4).setCamPort 2 x

/-- An open frame without lines. -/
def camFrame : CamFrame := { info := ⟨5, 0, 0, 9⟩ }

/-- A ladder record of a nozzle in service that is absent. -/
def ladderBytes : List Byte :=
  [2, 0, 0, 0] ++ leBytes 4 70 ++ leBytes 4 1000 ++ List.replicate 20 0

/-- That record stands in the result ring of pipeline 0, with FAILN as given. -/
def judging (failn : Nat) : State :=
  ((((State.reset.setFld (R.Pp_RES_HI 0) F.Pp_RES_HI_SIZE_LOG2 4).setFld (R.Pp_RES_LO 0) F.Pp_RES_LO_BASE_LO 0x800).setFld
    (R.Pp_RES_WR 0) F.Pp_RES_WR_INDEX 1).setBytes 0x10000 ladderBytes).setDict 0x250002 failn

/-- Proposals are enabled and column 100 was measured on enough pages with half its reference density. -/
def proposing (run : Bool) : State :=
  let s := (if run then printing else State.reset).setDict 0x25000A 1
  { s with cam := { s.cam with measures := [(100, ⟨1000, none, 100000000, 500, 1000⟩)] } }

/-- The channel of the worked example after R349, before its last point, which reads `v`. -/
def calibrated (v : Nat) : State :=
  let s := (State.reset.setFld (R.CAL_HCh_PTS 9) F.CAL_HCh_PTS_CODELO 1000).setFld (R.CAL_HCh_PTS 9) F.CAL_HCh_PTS_CODEHI 12000
  let s := (s.setFld (R.CAL_HCh_TGT 9) F.CAL_HCh_TGT_TGTLO 4000).setFld (R.CAL_HCh_TGT 9) F.CAL_HCh_TGT_TGTHI 48000
  let s := (s.setReg R.CAL_CTRL 3).setFld (R.HC_STAT 9) F.HC_STAT_STATE 2
  { s with now := 100000, cal := { s.cal with left := [9], lo := List.replicate 16 4030, hi := List.replicate 15 48220, slot := some ⟨9, true, some v, 0⟩ } }

/-- Axis 3 (and, by their resets, the others) with speeds that a move may use, in a state. -/
def axis (state : Nat) (a : AxisSt) : State :=
  let s := (State.reset.setReg (R.MOT_AXn_VMAX 3) 32000).setReg (R.MOT_AXn_AMAX 3) 20000
  let s := (s.setReg (R.MOT_AXn_DMAX 3) 20000).setFld (R.MOT_AXn_CURPI 3) F.MOT_AXn_CURPI_IMAX 50
  let s := (s.setFld (R.MOT_AXn_HOME 3) F.MOT_AXn_HOME_HFAST 400).setFld (R.MOT_AXn_HOME 3) F.MOT_AXn_HOME_HSLOW 50
  (((s.setReg (R.MOT_AXn_SW 3) 0).setAxState 3 state).setAxState 1 state).setAx 3 a

/-- AX2 in gear mode, in a state. -/
def geared (state : Nat) : State :=
  ((State.reset.setFld (R.MOT_AXn_CTRL 2) F.MOT_AXn_CTRL_MODE 2).setReg R.MOT_AX2_GNEXT 0x20000).setAxState 2 state

/-- Ready, with both Ethernet links at a speed. -/
def online : State := let s := (State.reset.setPower 2).setBit R.CLKPWR_STAT F.CLKPWR_STAT_IOLOCK true; { s with eth := { s.eth with link0 := 3, link1 := 3 } }

/-- A request of a client without a session, and one of the client of session 9 with an SSEQ. -/
def client : Request := ⟨7, 9, 0, 3, none⟩
def member (n : Nat) : Request := ⟨7, 9, 9, 3, some (BitVec.ofNat 64 n)⟩

/-- Session 9 of that client at a level; its last SSEQ was 7. -/
def sessionAt (level : Nat) : Session := ⟨9, 7, 9, 2, level, 0, 0, [], [], [], 7, [7], 0⟩
def inSession (level : Nat) : State := { online with sec := { online.sec with sessions := [sessionAt level] } }

/-- A transfer of the client to subindex 1 of an object, with bytes that have come. -/
def moving (index total : Nat) (data : List Byte) : State :=
  { online with eth := { online.eth with xfers := [⟨5, ⟨0, 7, 9⟩, index, 1, 0, total, 77, data, 0⟩] } }

/-- Commit group 2. -/
def grouped (g : Group) : State := online.setGroup 2 g

/-- A subscriber with two records that were never sent. -/
def subscriber : Subscriber := ⟨7, 9, 0, 4, 5000, [⟨0, 2, 1, 0, []⟩, ⟨1, 2, 2, 0, []⟩], 2, 0, 0, 0, 2⟩

/-- A chip in a power state, whose wake inputs 2 and 3 are enabled, active high, and whose alarm is due. -/
def sleeping (power : Nat) : State :=
  ((State.reset.setPower power).setReg R.CLKPWR_WAKECFG 0x1CC).setFld R.CLKPWR_WAKECFG F.CLKPWR_WAKECFG_WPOL 0

/-- The boot ROM copies images, with the last record at a step; Staging and Previous hold the given bytes. -/
def copying (step : Nat) (active other : List Byte) : State :=
  { State.reset with
    sec := { State.reset.sec with copying := true }
    flash := { State.reset.flash with jStep := step, active := active, staging := other, previous := other } }

/-- Output 3 runs with entry `e` at its pointer, and waits at position 9. -/
def comparing (e : Nat) : State :=
  ({ State.reset with pos := { State.reset.pos with table := [(3072, e)] } }.setFld (R.CMPj_STAT 3) F.CMPj_STAT_STATE 1).setCmp 3
    { reach := some 9 }

/-- A record of the head profiles that fits no head: VERSION 1, COUNT 1, every index 15, a profile of zeros, and its CRC. -/
def noHeads : List Byte :=
  [1, 1, 0, 0] ++ List.replicate 12 0xFF ++ List.replicate 64 0 ++ [0xc1, 0xb5, 0x24, 0xc9]

/-- A chip in Starting after a warm reset: Granary is enabled, the head profiles are sound, the delay table is empty. -/
def booted : State :=
  { State.reset with flash := { State.reset.flash with board := [(0, []), (1, noHeads)] } }.setBit R.GRANARY_CTRL
    F.GRANARY_CTRL_EN true

theorem test_crc32c_0 : ([1, 1, 0, 0] ++ List.replicate 12 0xFF : List Byte).foldl crc32cByte 0xffffffff#32 = 0x38dd2605#32 := by decide +kernel
theorem test_crc32c_1 : (List.replicate 16 0 : List Byte).foldl crc32cByte 0x38dd2605#32 = 0x67fb55#32 := by decide +kernel
theorem test_crc32c_2 : (List.replicate 16 0 : List Byte).foldl crc32cByte 0x67fb55#32 = 0xb0ff8cb2#32 := by decide +kernel
theorem test_crc32c_3 : (List.replicate 16 0 : List Byte).foldl crc32cByte 0xb0ff8cb2#32 = 0xd70ae345#32 := by decide +kernel
theorem test_crc32c_4 : (List.replicate 16 0 : List Byte).foldl crc32cByte 0xd70ae345#32 = 0x36db4a3e#32 := by decide +kernel

theorem test_crc32c_no_heads : crc32c (noHeads.take 80) = 0xC924B5C1 := by
  have h : noHeads.take 80 = ([1, 1, 0, 0] ++ List.replicate 12 0xFF) ++ (List.replicate 16 0 ++
      (List.replicate 16 0 ++ (List.replicate 16 0 ++ List.replicate 16 0))) := by decide +kernel
  rw [h, crc32c, List.foldl_append, test_crc32c_0, List.foldl_append, test_crc32c_1, List.foldl_append, test_crc32c_2,
    List.foldl_append, test_crc32c_3, test_crc32c_4]
  decide +kernel

theorem test_booted_heads : booted.headRecordOk = true := by
  have hb : booted.boardRec 1 = noHeads := by decide +kernel
  have hp : profCount noHeads = 1 := by decide +kernel
  rw [State.headRecordOk, hb, recCrcOk, hp]
  have h := test_crc32c_no_heads
  have hl : noHeads.length = 84 := by decide +kernel
  have hw : recWord noHeads 20 = 0xC924B5C1 := by decide +kernel
  have hi : ∀ x : Nat, x < 24 → profIndex noHeads x = 0 ∨ profIndex noHeads x = 15 := by decide +kernel
  have hv : recWord noHeads 0 % 256 = 1 := by decide +kernel
  simpa [hl, hw, hv, h] using hi

theorem test_booted_granary : booted.bit R.GRANARY_CTRL F.GRANARY_CTRL_EN = true := by decide +kernel

theorem test_booted_cause : booted.starting = true ∧ booted.startCause 0 = 0 := by
  refine ⟨by decide +kernel, ?_⟩
  simp [State.startCause, test_booted_heads, test_booted_granary]

theorem test_booted_fault : booted.starting = true ∧ booted.startCause 4 = 4 ∧ 4 ≠ 0 ∧ 4 ≠ 3 :=
  ⟨test_booted_cause.1, by simp [State.startCause, test_booted_granary], by decide, by decide⟩
theorem witness_empty_queue_lets_time_pass :
    (∃ (s : State), (s.pending = []) ∧ (s.pwr.wakeDue = false)) ∧
    (∃ (s : State) (o : Nat), (s.pending = []) ∧ (s.pwr.wakeDue = true) ∧ (s.power = 0) ∧ (s.pwr.offAt = some o) ∧ (o
        + 8000000 ≤ s.now + 1)) :=
  ⟨⟨State.reset, by decide +kernel⟩,
    ⟨{ State.reset.setFld R.CLKPWR_STAT F.CLKPWR_STAT_STATE 0 with now := 9000000, pwr := { State.reset.pwr with wakeDue := true, offAt := some 1000 } }, 1000, by decide +kernel⟩⟩

theorem witness_every_step_keeps_good :
    (∃ (s : State), (Memory.wf s.mem = true ∧ Regs.wf s.regs = true ∧ s.log.length ≤ 4096)) :=
    ⟨linkUp, by decide +kernel⟩

theorem witness_access_codes_of_every_field :
    (∃ (a : Nat), ((regAt a).isSome = true)) :=
    ⟨R.LINK_EVT, by decide +kernel⟩

theorem witness_register_width_and_alignment :
    (∃ (a : Nat), ((regAt a).isSome = true)) ∧
    (∃ (r : Requester) (v : Word) (s : State) (data : List Byte), (data.length = 4) ∧ (v = BitVec.ofNat 32 (leNat
        data))) ∧
    (∃ (r : Requester) (a : Nat) (data : List Byte) (s : State), (s.rangeRegion a data.length = some .regs) ∧ (data ≠
        []) ∧ (data.length ≠ 4 ∨ a % 4 ≠ 0)) ∧
    (∃ (r : Requester) (a n ev : Nat) (s : State), (s.rangeRegion a n = some .regs) ∧ (0 < n) ∧ (n ≠ 4 ∨ a % 4 ≠ 0)) :=
  ⟨⟨R.HC_CTRL 23, by decide +kernel⟩,
    ⟨.core 0, 0x12345678, State.reset, [0x78, 0x56, 0x34, 0x12], by decide +kernel⟩,
    ⟨.core 0, R.LINK_EVT_EN, [1, 2], State.reset, by decide +kernel⟩,
    ⟨.core 0, R.LINK_EVT_EN + 1, 4, 7, State.reset, by decide +kernel⟩⟩

theorem witness_reserved_addresses_refused :
    (∃ (r : Requester) (a : Nat) (data : List Byte) (s : State), (data ≠ []) ∧ (s.region a = none ∨ (s.region a =
        some .regs ∧ data.length = 4 ∧ a % 4 = 0 ∧ regAt a = none))) ∧
    (∃ (r : Requester) (a n ev : Nat) (s : State), (0 < n) ∧ (s.region a = none ∨ (s.region a = some .regs ∧ n = 4 ∧
        a % 4 = 0 ∧ regAt a = none))) :=
  ⟨⟨.dma 3, 0x1300000, [1], State.reset, by decide +kernel⟩,
    ⟨.core 0, 0x200000, 4, 7, State.reset, by decide +kernel⟩⟩

theorem witness_protected_writes_refused :
    (∃ (p : Fin 2) (a : Nat) (data : List Byte) (s : State), (0x100410000 ≤ a ∧ a < 0x100420000) ∧ (data.length = 4)
        ∧ ((regAt a).isSome = true)) ∧
    (∃ (r : Requester) (a : Nat) (data : List Byte) (s : State) (k : Nat), (data ≠ []) ∧ (s.anyPrinting = true) ∧
        (s.rangeRegion a data.length = some .comp ∨ (s.rangeRegion a data.length = some (.line k) ∧ ¬ (8 ≤ reqCode r
        ∧ reqCode r < 16)))) ∧
    (∃ (r : Requester) (a : Nat) (data : List Byte) (s : State) (k : Nat), (data ≠ []) ∧ (s.anyPrinting = false) ∧
        (s.rangeRegion a data.length = some .comp ∨ (s.rangeRegion a data.length = some (.line k) ∧ apertureAt a =
        none))) :=
  ⟨⟨1, R.SEC_CONFIRM, [1, 0, 0, 0], State.reset, by decide +kernel⟩,
    ⟨.core 0, 0x1420000, [1], State.reset.setFld (R.HC_STAT 3) F.HC_STAT_STATE 2, 1, by decide +kernel⟩,
    ⟨.host 0, 0x1C20000, [1, 2, 3], State.reset, 3, by decide +kernel⟩⟩

theorem witness_event_and_counter_registers :
    (∃ (r : Requester) (a e : Nat) (v hw : Word) (s : State) (row : RegRow) (ix : List Nat), ((a, e) ∈ eventPairs) ∧
        (a ≠ R.SEC_EVT) ∧ (regAt a = some (row, ix))) ∧
    (∃ (r : Requester) (a ev i : Nat) (s : State), (a = R.LINK_Pp_CRCERR i ∨ a = R.LINK_Pp_NAKTX i ∨ a =
        R.LINK_Pp_NAKRX i ∨ a = R.LINK_Pp_DUP i ∨ a = R.LINK_Pp_SEQERR i ∨ a = R.LINK_LANEn_CODEERR i ∨ a =
        R.LINK_LANEn_DISPERR i)) :=
  ⟨⟨.host 0, R.HC_EVT 5, R.HC_EVT_EN 5, 0x5, 0x4, State.reset.setReg (R.HC_EVT 5) 0xF, (findRow rowsHEADCH 8).elim
        ⟨0, [], [], 0⟩ (·.1), [], by decide +kernel⟩,
    ⟨.core 0, R.LINK_LANEn_CODEERR 6, 3, 6, State.reset.setReg (R.LINK_LANEn_CODEERR 6) 77, by decide +kernel⟩⟩

theorem witness_wide_pairs_latch :
    (∃ (r : Requester) (a : Nat) (s : State), (pairLow a = true)) ∧
    (∃ (r : Requester) (a : Nat) (s : State), (pairLow a = true) ∧ (¬ (R.MARKi_CFG 0 ≤ a + 4 ∧ a + 4 < R.CMPj_CTRL 0
        ∧ (a + 4 - R.MARKi_CFG 0) % 0x20 = 0x10))) ∧
    (∃ (a : Nat), (pairLow a = true)) :=
  ⟨⟨.core 2, R.CLKPWR_RTC_LO, State.reset, by decide +kernel⟩,
    ⟨.core 2, R.BR_PHI_LO, State.reset, by decide +kernel⟩,
    ⟨R.DMA_CHn_CUR_SRC_LO 31, by decide +kernel⟩⟩

theorem witness_repeated_faults_merge :
    (∃ (s : State) (e : FaultInfo) (n : LogEntry) (rest : List LogEntry), (s.log = n :: rest) ∧ (s.bit R.FAULT_CTRL
        F.FAULT_CTRL_MERGE = true) ∧ (n.src = e.src ∧ n.unit = e.unit ∧ n.cause = e.cause ∧ n.kind = e.kind ∧ n.ts ≤
        s.ptp ∧ s.ptp ≤ n.ts + 1000000)) :=
    ⟨{ State.reset.setBit R.FAULT_CTRL F.FAULT_CTRL_MERGE true with now := 800000, log := [⟨5, 1000, 0, 7, 3, 5, 2, 1, 4, 255, 0⟩] }, ⟨3, 5, 2, 1, 4, 0, none⟩, ⟨5, 1000, 0, 7, 3, 5, 2, 1, 4, 255, 0⟩, [], by decide +kernel⟩

theorem witness_fault_entries_are_written :
    (∃ (s : State) (e : FaultInfo), (s.log.head?.all (fun n => !mergesWith s e n))) :=
    ⟨linkUp, ⟨3, 2, 5, 1, 4, 0, none⟩, by decide +kernel⟩

theorem witness_link_bring_up :
    (∃ (r : Requester) (v : Word) (s : State), (s.bit R.LINK_CTRL F.LINK_CTRL_EN = false)) ∧
    (∃ (r : Requester) (v : Word) (s : State), (s.bit R.LINK_CTRL F.LINK_CTRL_EN = true)) ∧
    (∃ (n : Fin 8) (inverted : Bool) (s : State), ((s.port (portOfLane s.link.mode n)).starting = true ∨ s.bit
        (R.LINK_LANEn_STAT n) F.LINK_LANEn_STAT_QUALIFYING = true)) ∧
    (∃ (p : Fin 2) (skews : List Nat) (s : State) (good : List (Nat × Nat)), ((s.port p).starting = true) ∧ (good =
        ((portLanes s.link.mode p).zip skews).filter (fun e => s.admits e.1 e.2)) ∧ (good ≠ [])) ∧
    (∃ (n : Fin 8) (ln gen txm rxm mode chk : Byte) (s : State) (p : Nat), (p = portOfLane s.link.mode n) ∧ (chk = ln
        ^^^ gen ^^^ txm ^^^ rxm ^^^ mode) ∧ ((s.port p).rx ≠ .dormant) ∧ ((s.port p).starting = true ∨ (s.portUp p =
        true ∧ 0 < modSub 256 gen.toNat (s.port p).hostGen ∧ modSub 256 gen.toNat (s.port p).hostGen < 128))) :=
  ⟨⟨.core 0, 0x3, State.reset, by decide +kernel⟩,
    ⟨.core 0, 0, linkUp.setBit R.LINK_CTRL F.LINK_CTRL_EN true, by decide +kernel⟩,
    ⟨3, true, linkStarting, by decide +kernel⟩,
    ⟨0, [0, 64, 65, 3], linkStarting, [(0, 0), (1, 64), (3, 3)], by decide +kernel⟩,
    ⟨2, 2, 1, 0x7F, 0x7F, 0, 3, linkUp, 0, by decide +kernel⟩⟩

theorem witness_link_packets :
    (∃ (p : Fin 2) (s : State), (s.portUp p = true)) ∧
    (∃ (p : Fin 2) (lanes : List (Bool × List (BitVec 10))) (bytes : List Byte) (s : State) (k : Packet), (s.portUp p
        = true) ∧ ((s.port p).starting = false) ∧ ((s.port p).rx = .active) ∧ (s.stripingGood p = true) ∧
        (s.lanesBelowMax p lanes) ∧ (s.packetOn p lanes = some (bytes.map some, .eop)) ∧ (packetValid bytes = true) ∧
        (k = parsePacket bytes) ∧ (k.cls = 1 ∧ s.streamOnPort (k.target % 8) p = true ∨ k.cls = 2 ∨ k.cls = 3 ∨ k.cls
        = 5 ∧ (k.target = 0x20 ∨ k.target = 0x21 ∨ k.target = 0x22)) ∧ ((leAt bytes 4 2).testBit 12 = false) ∧ ((leAt
        bytes 4 2).testBit 13 = false) ∧ (k.seq = s.fld (R.LINK_Pp_SEQ p) F.LINK_Pp_SEQ_RXNEXT) ∧ (overCredit (s.port
        p) k = false)) ∧
    (∃ (p : Fin 2) (lanes : List (Bool × List (BitVec 10))) (l : List (Option Byte)) (e : PacketEnd) (s : State),
        (s.portUp p = true) ∧ ((s.port p).starting = false) ∧ ((s.port p).rx = .active) ∧ (s.stripingGood p = true) ∧
        (s.lanesBelowMax p lanes) ∧ (s.packetOn p lanes = some (l, e)) ∧ (e ≠ .ebp) ∧ (e = .eop → l.all (·.isSome) =
        true → packetValid (l.map (·.getD 0)) = false) ∧ (leAt (l.map (·.getD 0)) 0 1 / 16 ≠ 6) ∧ (l.length < 4 ∨
        modSub 4096 (leAt (l.map (·.getD 0)) 2 2 % 4096) (s.fld (R.LINK_Pp_SEQ p) F.LINK_Pp_SEQ_RXNEXT) ≤ 1023)) ∧
    (∃ (p : Fin 2) (lanes : List (Bool × List (BitVec 10))) (l : List (Option Byte)) (e : PacketEnd) (s : State),
        (s.portUp p = true) ∧ ((s.port p).starting = false) ∧ ((s.port p).rx = .active) ∧ (s.stripingGood p = true) ∧
        (s.lanesBelowMax p lanes) ∧ (s.packetOn p lanes = some (l, e)) ∧ (e ≠ .ebp) ∧ (e = .eop → l.all (·.isSome) =
        true → packetValid (l.map (·.getD 0)) = false) ∧ (leAt (l.map (·.getD 0)) 0 1 / 16 = 6)) ∧
    (∃ (p : Fin 2) (lanes : List (Bool × List (BitVec 10))) (l : List (Option Byte)) (e : PacketEnd) (s : State),
        (s.portUp p = true) ∧ ((s.port p).starting = false) ∧ ((s.port p).rx = .active) ∧ (s.stripingGood p = true) ∧
        (s.lanesBelowMax p lanes) ∧ (s.packetOn p lanes = some (l, e)) ∧ (e = .ebp)) ∧
    (∃ (p : Fin 2) (lanes : List (Bool × List (BitVec 10))) (s : State), (s.stripingGood p = false) ∧
        (s.lanesBelowMax p lanes)) ∧
    (∃ (p : Fin 2) (s : State) (k : Packet) (rest : List Packet), (takeFirst (fun k => k.cls = 1) (s.port p).accepted
        = some (k, rest))) ∧
    (∃ (p : Fin 2) (s : State) (k : Packet) (rest : List Packet), (takeFirst (fun k => k.cls = 6) (s.port p).accepted
        = some (k, rest)) ∧ ((s.port p).hostLimits = none)) :=
  ⟨⟨0, linkUp, by decide +kernel⟩,
    ⟨0, onLanes eventBytes (.ctl .eop), eventBytes, linkUp, parsePacket eventBytes, by decide +kernel⟩,
    ⟨0, onLanes (eventBytes.take 30 ++ [9]) (.ctl .eop), (eventBytes.take 30 ++ [9]).map some, .eop, linkUp, by
        decide +kernel⟩,
    ⟨0, onLanes (List.replicate 40 0x60) (.ctl .eop), (List.replicate 40 0x60).map some, .eop, linkUp, by
        decide +kernel⟩,
    ⟨0, onLanes eventBytes (.ctl .ebp), eventBytes.map some, .ebp, linkUp, by decide +kernel⟩,
    ⟨0, onLanes eventBytes (.ctl .eop), linkUp.retireLane 3, by decide +kernel⟩,
    ⟨0, linkGot [packetOf 2 0 16 4 0, packetOf 1 3 16 0 0], packetOf 1 3 16 0 0, [packetOf 2 0 16 4 0], by
        decide +kernel⟩,
    ⟨0, linkUp.setPort 0 { linkUp.port 0 with accepted := [packetOf 6 0 32 0 0], hostLimits := none }, packetOf 6 0
        32 0 0, [], by decide +kernel⟩⟩

theorem witness_link_line_code :
    (∃ (n : Nat) (k : Packet), (0 < n) ∧ (k.cls < 16 ∧ k.target < 256 ∧ k.seq < 4096 ∧ k.addr < 2 ^ 40 ∧ k.pad < 16 ∧
        (k.cls = 1 → k.addr = 0) ∧ (k.cls ≠ 1 → k.pad = 0) ∧ k.status < 256 ∧ k.dlen < 65536 ∧ k.payload.length <
        65536)) :=
    ⟨8, packetOf 2 0 16 4 0x100, by decide +kernel⟩

theorem witness_link_acknowledges :
    (∃ (p : Fin 2) (s : State), (s.maySpeak p = true) ∧ (creditDue s.now (s.port p) = true)) ∧
    (∃ (p : Fin 2) (s : State), (s.maySpeak p = true) ∧ (s.ackDue p = true)) ∧
    (∃ (p : Fin 2) (s : State), (s.maySpeak p = true) ∧ ((s.port p).nakPending = true) ∧ ((s.port p).nakCount + 1 <
        max 1 (s.fld R.LINK_REPLAY_MAX F.LINK_REPLAY_MAX_COUNT))) ∧
    (∃ (p : Fin 2) (s : State), (s.maySpeak p = true) ∧ ((s.port p).nakOut = true) ∧ ((s.port p).nakSince + 80 *
        s.fld R.LINK_TIMERS F.LINK_TIMERS_NAK_TO ≤ s.now) ∧ ((s.port p).nakCount + 1 < max 1 (s.fld R.LINK_REPLAY_MAX
        F.LINK_REPLAY_MAX_COUNT))) ∧
    (∃ (p : Fin 2) (s : State) (ack : Nat), ((s.port p).nakIn = some ack) ∧ (s.maySpeak p = true)) ∧
    (∃ (p : Fin 2) (s : State), (s.maySpeak p = true) ∧ ((s.port p).unacked ≠ []) ∧ (3 * (s.port p).ackedAt + 4000 *
        s.fld R.LINK_TIMERS F.LINK_TIMERS_REPLAY_TO ≤ 3 * s.now)) :=
  ⟨⟨0, { linkUp with now := 1600 }, by decide +kernel⟩,
    ⟨0, { linkUp.setPort 0 { linkUp.port 0 with ackPending := 2 } with now := 80000 }, by decide +kernel⟩,
    ⟨0, linkUp.setPort 0 { linkUp.port 0 with nakPending := true, nakCount := 2 }, by decide +kernel⟩,
    ⟨0, { linkUp.setPort 0 { linkUp.port 0 with nakOut := true, nakCount := 1 } with now := 800000 }, by
        decide +kernel⟩,
    ⟨0, linkUp.setPort 0
        { linkUp.port 0 with nakIn := some 4, unacked := [packetOf 5 0x20 16 0 0, { packetOf 5 0x21 16 0 0 with seq := 5 }] }, 4, by decide +kernel⟩,
    ⟨0, { linkUp.setPort 0 { linkUp.port 0 with unacked := [packetOf 5 0x20 16 0 0] } with now := 8000000 }, by
        decide +kernel⟩⟩

theorem witness_link_lanes :
    (∃ (n : Fin 8) (rd : Bool) (syms : List (BitVec 10)) (s : State), ((s.port (portOfLane s.link.mode n)).rx =
        .active) ∧ (s.bit (R.LINK_LANEn_STAT n) F.LINK_LANEn_STAT_RETIRED = false) ∧ ((portLanes s.link.mode
        (portOfLane s.link.mode n)).contains n.val = true) ∧ (0 < s.fld R.LINK_LANE_THR F.LINK_LANE_THR_ERRMAX) ∧
        (s.fld R.LINK_LANE_THR F.LINK_LANE_THR_ERRMAX ≤ (readSyms rd syms).2.1 + (readSyms rd syms).2.2)) ∧
    (∃ (n : Fin 8) (s : State), ((s.port (portOfLane s.link.mode n)).rx = .active) ∧ (s.bit (R.LINK_LANEn_STAT n)
        F.LINK_LANEn_STAT_RETIRED = false) ∧ ((portLanes s.link.mode (portOfLane s.link.mode n)).contains n.val =
        true)) ∧
    (∃ (n : Fin 8) (s : State), (s.bit (R.LINK_LANEn_STAT n) F.LINK_LANEn_STAT_RETIRED = false) ∧ ((portLanes
        s.link.mode (portOfLane s.link.mode n)).contains n.val = true)) ∧
    (∃ (r : Requester) (v : Word) (s : State), (s.link.mode ≤ 2)) ∧
    (∃ (n : Fin 8) (skew : Nat) (s : State), (s.bit (R.LINK_LANEn_STAT n) F.LINK_LANEn_STAT_QUALIFYING = true) ∧
        (s.bit (R.LINK_LANEn_STAT n) F.LINK_LANEn_STAT_LOCK = true) ∧ (s.qualified n = true) ∧ (skew ≤ 64)) ∧
    (∃ (n : Fin 8) (rd : Bool) (syms : List (BitVec 10)) (s : State), (s.bit (R.LINK_LANEn_STAT n)
        F.LINK_LANEn_STAT_QUALIFYING = true) ∧ ((s.port (portOfLane s.link.mode n)).rx = .active) ∧ (0 < (readSyms rd
        syms).2.1 + (readSyms rd syms).2.2) ∧ ((s.lane n).restarts < 4)) ∧
    (∃ (n : Fin 8) (rd : Bool) (syms : List (BitVec 10)) (s : State), (s.bit (R.LINK_LANEn_STAT n)
        F.LINK_LANEn_STAT_QUALIFYING = true) ∧ ((s.port (portOfLane s.link.mode n)).rx = .active) ∧ (0 < (readSyms rd
        syms).2.1 + (readSyms rd syms).2.2) ∧ (4 ≤ (s.lane n).restarts)) :=
  ⟨⟨2, false, List.replicate 16 0, linkUp, by decide +kernel⟩,
    ⟨7, linkUp, by decide +kernel⟩,
    ⟨0, linkUp, by decide +kernel⟩,
    ⟨.core 0, 0x81, linkUp, by decide +kernel⟩,
    ⟨2, 64,
        { ((linkUp.retireLane 2).setBit (R.LINK_LANEn_STAT 2) F.LINK_LANEn_STAT_QUALIFYING true).setBit (R.LINK_LANEn_STAT 2) F.LINK_LANEn_STAT_LOCK true with now := 80000000 }, by decide +kernel⟩,
    ⟨5, false, [0], (linkUp.setBit (R.LINK_LANEn_STAT 5) F.LINK_LANEn_STAT_QUALIFYING true).setLane 5
        { restarts := 3 }, by decide +kernel⟩,
    ⟨5, false, [0], (linkUp.setBit (R.LINK_LANEn_STAT 5) F.LINK_LANEn_STAT_QUALIFYING true).setLane 5
        { restarts := 4 }, by decide +kernel⟩⟩

theorem witness_link_power_and_memory :
    (∃ (r : Requester) (v : Word) (s : State), (s.portUp 0 = true) ∧ (s.portUp 1 = false) ∧ (s.txActive 0 = true) ∧
        (getField F.LINK_PM_CTRL_P0_REQ v = 1)) ∧
    (∃ (p : Fin 2) (s : State), (s.maySpeak p = true) ∧ (s.txActive p = true) ∧ ((s.port p).waiting = []) ∧ (s.fld
        R.LINK_PM_CTRL F.LINK_PM_CTRL_IDLE_US ≠ 0) ∧ ((s.port p).idleSince + 800 * s.fld R.LINK_PM_CTRL
        F.LINK_PM_CTRL_IDLE_US ≤ s.now)) ∧
    (∃ (p : Fin 2) (s : State), (s.portUp p = true) ∧ (s.fld R.LINK_STAT (pwrField p) = 1) ∧ ((s.port p).dormantDue =
        false)) ∧
    (∃ (p : Fin 2) (s : State) (k : Packet) (rest : List Packet), (takeFirst (fun k => decide (k.cls = 5 ∧ k.target =
        0x20)) (s.port p).accepted = some (k, rest)) ∧ (s.anyPageArmed = true)) ∧
    (∃ (p : Fin 2) (s : State) (k : Packet) (rest : List Packet), (takeFirst (fun k => decide (k.cls = 5 ∧ k.target =
        0x20)) (s.port p).accepted = some (k, rest)) ∧ (s.anyPageArmed = false) ∧ (s.maySpeak p = true) ∧ ((s.port
        p).waiting = []) ∧ ((s.port p).dormantDue = false) ∧ (maySend (s.port p) ⟨5, 0x21, 0, 0, 0, 0, 0,
        List.replicate 16 0⟩ = true)) ∧
    (∃ (p : Fin 2) (s : State) (k : Packet) (rest : List Packet), (takeFirst (fun k => decide (k.cls = 5 ∧ (k.target
        = 0x21 ∨ k.target = 0x22))) (s.port p).accepted = some (k, rest)) ∧ ((s.port p).dormantAsked = true) ∧
        (k.target = 0x22)) ∧
    (∃ (p : Fin 2) (s : State) (k : Packet) (rest : List Packet), (takeFirst (fun k => decide (k.cls = 5 ∧ (k.target
        = 0x21 ∨ k.target = 0x22))) (s.port p).accepted = some (k, rest)) ∧ ((s.port p).dormantAsked = true) ∧
        (k.target = 0x21) ∧ ((s.port p).unacked = []) ∧ ((s.port p).waiting = [])) ∧
    (∃ (p : Fin 2) (s : State), (s.portUp p = true) ∧ ((s.port p).rx = .dormant)) ∧
    (∃ (p : Fin 2) (s : State) (k : Packet) (rest : List Packet), (takeFirst isMemory (s.port p).accepted = some (k,
        rest)) ∧ (k.cls = 2) ∧ (s.rangeRegion k.addr (k.payload.take k.dlen).length = some .shared) ∧ (k.payload.take
        k.dlen ≠ [])) ∧
    (∃ (p : Fin 2) (s : State) (k : Packet) (rest : List Packet), (takeFirst isMemory (s.port p).accepted = some (k,
        rest)) ∧ (k.cls = 3) ∧ (s.rangeRegion k.addr k.dlen = some .shared) ∧ (0 < k.dlen)) ∧
    (∃ (p : Fin 2) (s : State) (x : LinkRead) (rest : List LinkRead), (takeFirst s.readDone (s.port p).reads = some
        (x, rest))) :=
  ⟨⟨.core 0, 0x00050001, linkUp, by decide +kernel⟩,
    ⟨0, { linkUp.setFld R.LINK_PM_CTRL F.LINK_PM_CTRL_IDLE_US 5 with now := 4000 }, by decide +kernel⟩,
    ⟨0, linkUp.setFld R.LINK_STAT (pwrField 0) 1, by decide +kernel⟩,
    ⟨0, { linkGot [packetOf 5 0x20 16 0 0] with pages := [(3, { state := 2 })] }, packetOf 5 0x20 16 0 0, [], by
        decide +kernel⟩,
    ⟨0, linkGot [packetOf 5 0x20 16 0 0], packetOf 5 0x20 16 0 0, [], by decide +kernel⟩,
    ⟨0, linkUp.setPort 0 { linkUp.port 0 with accepted := [packetOf 5 0x22 16 0 0], dormantAsked := true }, packetOf
        5 0x22 16 0 0, [], by decide +kernel⟩,
    ⟨0, linkUp.setPort 0 { linkUp.port 0 with accepted := [packetOf 5 0x21 16 0 0], dormantAsked := true }, packetOf
        5 0x21 16 0 0, [], by decide +kernel⟩,
    ⟨0, linkUp.setPort 0 { linkUp.port 0 with rx := .dormant }, by decide +kernel⟩,
    ⟨0, linkGot [packetOf 2 0 16 4 0x100], packetOf 2 0 16 4 0x100, [], by decide +kernel⟩,
    ⟨0, linkGot [packetOf 3 0x11 16 8 0x100], packetOf 3 0x11 16 8 0x100, [], by decide +kernel⟩,
    ⟨0, linkUp.setPort 0 { linkUp.port 0 with reads := [⟨0x11, 0x100, 4, none, [1, 2, 3, 4], false⟩] }, ⟨0x11, 0x100,
        4, none, [1, 2, 3, 4], false⟩, [], by decide +kernel⟩⟩

theorem witness_dma_channel_control :
    (∃ (r : Requester) (n : Fin 32) (v : Word) (s : State), (s.dmaState n = 0) ∧ (s.bit (R.DMA_CHn_CTRL n)
        F.DMA_CHn_CTRL_EN = false) ∧ (s.bit R.DMA_CTRL F.DMA_CTRL_EN = true) ∧ (s.enableCause n = 0) ∧ (getField
        F.DMA_CHn_CTRL_PAUSE v = 0)) ∧
    (∃ (r : Requester) (n : Fin 32) (v : Word) (s : State), (s.bit (R.DMA_CHn_CTRL n) F.DMA_CHn_CTRL_EN = true) ∧
        (s.dmaState n = 1 ∨ s.dmaState n = 2 ∨ s.dmaState n = 4 ∨ s.dmaState n = 5)) ∧
    (∃ (r : Requester) (n : Fin 32) (v : Word) (s : State), (s.bit (R.DMA_CHn_CTRL n) F.DMA_CHn_CTRL_EN = true) ∧
        (s.dmaState n = 1 ∨ s.dmaState n = 2) ∧ (getField F.DMA_CHn_CTRL_EN v = 1)) ∧
    (∃ (r : Requester) (n : Fin 32) (v : Word) (s : State), (s.bit (R.DMA_CHn_CTRL n) F.DMA_CHn_CTRL_EN = true) ∧
        (s.bit R.DMA_CTRL F.DMA_CTRL_EN = true) ∧ (s.dmaState n = 4) ∧ (getField F.DMA_CHn_CTRL_EN v = 1)) ∧
    (∃ (r : Requester) (n : Fin 32) (v : Word) (s : State), (s.bit (R.DMA_CHn_CTRL n) F.DMA_CHn_CTRL_EN = true) ∧
        (s.bit R.DMA_CTRL F.DMA_CTRL_EN = true) ∧ (s.dmaState n = 5) ∧ (s.fld (R.DMA_CHn_STAT n)
        F.DMA_CHn_STAT_HALT_CAUSE ≠ 5 ∧ s.fld (R.DMA_CHn_STAT n) F.DMA_CHn_STAT_HALT_CAUSE ≠ 6) ∧ (getField
        F.DMA_CHn_CTRL_EN v = 1 ∧ getField F.DMA_CHn_CTRL_PAUSE v = 0 ∧ getField F.DMA_CHn_CTRL_SKIP v = 0)) ∧
    (∃ (r : Requester) (n : Fin 32) (v : Word) (s : State) (d : Desc) (rest : List Desc), (s.bit (R.DMA_CHn_CTRL n)
        F.DMA_CHn_CTRL_EN = true) ∧ (s.bit R.DMA_CTRL F.DMA_CTRL_EN = true) ∧ (s.dmaState n = 5) ∧ (s.fld
        (R.DMA_CHn_STAT n) F.DMA_CHn_STAT_HALT_CAUSE ∈ [1, 2, 3, 4]) ∧ (getField F.DMA_CHn_CTRL_EN v = 1 ∧ getField
        F.DMA_CHn_CTRL_PAUSE v = 0 ∧ getField F.DMA_CHn_CTRL_RESUME v = 0) ∧ ((s.ch n).held = d :: rest)) ∧
    (∃ (r : Requester) (n : Fin 32) (v : Word) (s : State), (s.dmaState n = 0)) ∧
    (∃ (r : Requester) (n : Fin 32) (v : Word) (s : State), (s.dmaState n ≠ 0)) :=
  ⟨⟨.core 0, 24, 0xC, dmaIn 0, by decide +kernel⟩,
    ⟨.core 0, 24, 4, dmaIn 2, by decide +kernel⟩,
    ⟨.core 0, 24, 1, dmaIn 1, by decide +kernel⟩,
    ⟨.core 0, 24, 3, dmaIn 4, by decide +kernel⟩,
    ⟨.core 0, 24, 1, (dmaWith 5 [desc 3] []).setFld (R.DMA_CHn_STAT 24) F.DMA_CHn_STAT_HALT_CAUSE 7, by
        decide +kernel⟩,
    ⟨.core 0, 24, 1, (dmaWith 5 [desc 15, desc 0] []).setFld (R.DMA_CHn_STAT 24) F.DMA_CHn_STAT_HALT_CAUSE 1, desc
        15, [desc 0], by decide +kernel⟩,
    ⟨.core 0, 24, 0x0C0040, dmaWith 0 [desc 3] [], by decide +kernel⟩,
    ⟨.core 0, 24, 0x0C0040, dmaIn 5, by decide +kernel⟩⟩

theorem witness_dma_descriptors :
    (∃ (n : Fin 32) (s : State) (b : Burst) (l : List Byte), ((s.ch n).bursts.find? (fun b => b.idx == fetchIdx &&
        !b.retry && (s.burstData b).isSome) = some b) ∧ (s.burstData b = some l) ∧ ((leAt l 0 1).testBit 0 = true) ∧
        (s.ringSize n ≤ 4096)) ∧
    (∃ (n : Fin 32) (s : State) (b : Burst) (l : List Byte), ((s.ch n).bursts.find? (fun b => b.idx == fetchIdx &&
        !b.retry && (s.burstData b).isSome) = some b) ∧ (s.burstData b = some l) ∧ ((leAt l 0 1).testBit 0 = false)) ∧
    (∃ (n : Fin 32) (s : State) (d : Desc) (rest : List Desc), ((s.ch n).held = d :: rest) ∧ (d.valid = false) ∧
        (s.dmaState n = 2 ∨ s.dmaState n = 3) ∧ (outstanding (s.ch n) = 0) ∧ ((s.ch n).haltDue = 0) ∧ ((s.ch
        n).backStatus = none)) ∧
    (∃ (r : Requester) (n : Fin 32) (v : Word) (s : State) (i : Nat), (i = getField F.DMA_CHn_ABORT_INDEX v) ∧
        (s.dmaState n ≠ 0) ∧ (i < s.ringSize n) ∧ (beingReturned (s.ch n) i = false) ∧ ((s.ch n).held.any (fun d =>
        d.idx == i) = true ∨ (s.rangeRegion (s.descAddr n i) 32 = some .shared ∧ (leAt (s.sramRead (s.descAddr n i)
        32) 0 1).testBit 0 = true)) ∧ ((s.ch n).abort = none)) ∧
    (∃ (r : Requester) (n : Fin 32) (v : Word) (s : State) (i : Nat), (i = getField F.DMA_CHn_ABORT_INDEX v) ∧
        (s.dmaState n = 0 ∨ s.ringSize n ≤ i ∨ beingReturned (s.ch n) i = true ∨ ((s.ch n).held.any (fun d => d.idx
        == i) = false ∧ s.rangeRegion (s.descAddr n i) 32 = some .shared ∧ (leAt (s.sramRead (s.descAddr n i) 32) 0
        1).testBit 0 = false))) ∧
    (∃ (n : Fin 32) (s : State), (s.dmaState n = 6) ∧ ((s.ch n).held = []) ∧ (outstanding (s.ch n) = 0)) ∧
    (∃ (p : Fin 4) (s : State) (l : List CamItem), ((s.camPort p).fifo = .frameStart :: l) ∧ (outstanding (s.ch (16 +
        p)) = 0) ∧ (headComplete (s.ch (16 + p)) = false) ∧ ((s.ch (16 + p)).held.any (fun d => decide (d.issued ≠
        0)) = false)) ∧
    (∃ (p : Fin 4) (s : State) (l : List CamItem), ((s.camPort p).fifo = .frameStart :: l) ∧ (outstanding (s.ch (16 +
        p)) = 0) ∧ (headComplete (s.ch (16 + p)) = false) ∧ ((s.ch (16 + p)).held.any (fun d => decide (d.issued ≠
        0)) = true)) :=
  ⟨⟨24, (dmaIn 1).setCh 24
        { look := true, bursts := [⟨fetchIdx, 15, 32, 0x11E0, 0, some (1 :: List.replicate 31 0), none, none, false, 0, false⟩] }, ⟨fetchIdx, 15, 32, 0x11E0, 0, some (1 :: List.replicate 31 0), none, none, false, 0, false⟩, 1 :: List.replicate 31 0, by decide +kernel⟩,
    ⟨24, (dmaIn 1).setCh 24
        { look := true, bursts := [⟨fetchIdx, 0, 32, 0x1000, 0, some (List.replicate 32 0), none, none, false, 0, false⟩] }, ⟨fetchIdx, 0, 32, 0x1000, 0, some (List.replicate 32 0), none, none, false, 0, false⟩, List.replicate 32 0, by decide +kernel⟩,
    ⟨24, dmaWith 2 [{ desc 3 with valid := false }] [], { desc 3 with valid := false }, [], by decide +kernel⟩,
    ⟨.core 0, 24, 3, dmaWith 2 [desc 3] [], 3, by decide +kernel⟩,
    ⟨.core 0, 24, 9, dmaWith 2 [desc 3] [], 9, by decide +kernel⟩,
    ⟨24, (dmaWith 6 [] []).setCh 24 { abort := some 3 }, by decide +kernel⟩,
    ⟨2, (State.reset.setCamPort 2 { fifo := [.frameStart, .fill 8] }).setCh 18 { frameUsed := 64 }, [.fill 8], by
        decide +kernel⟩,
    ⟨2, (State.reset.setCamPort 2 { fifo := [.frameStart, .fill 8] }).setCh 18 { held := [desc 3] }, [.fill 8], by
        decide +kernel⟩⟩

theorem witness_dma_bursts :
    (∃ (s : State) (lvl n k : Nat) (d : Desc), (s.offering.grantee = some (lvl, n)) ∧ (s.offering.wants n = some
        (.data d k)) ∧ (fixedSrc n = false) ∧ (s.offering.rangeRegion (d.src + d.issued) k = some .shared)) ∧
    (∃ (s : State) (lvl n : Nat), (s.offering.grantee = some (lvl, n)) ∧ (s.offering.wants n = some .fetch) ∧
        (s.offering.rangeRegion (s.offering.descAddr n (s.offering.dmaFetch n)) 32 = some .shared)) ∧
    (∃ (s : State) (lvl n k : Nat) (d : Desc) (rest : List Desc), (s.offering.grantee = some (lvl, n)) ∧
        (s.offering.wants n = some (.writeBack k)) ∧ ((s.offering.ch n).held = d :: rest) ∧ (s.offering.rangeRegion
        (s.offering.descAddr n d.idx) 32 = some .shared)) ∧
    (∃ (n : Fin 32) (s : State), (s.paceMode n = 1) ∧ (s.fld (R.DMA_CHn_PACE n) F.DMA_CHn_PACE_PACE_TO ≠ 0) ∧ (0 <
        s.srcFill n) ∧ (s.srcFill n < s.paceHigh n) ∧ ((s.ch n).paceOn = false) ∧ ((s.ch n).paceSince + 800 * s.fld
        (R.DMA_CHn_PACE n) F.DMA_CHn_PACE_PACE_TO ≤ s.now)) ∧
    (∃ (n : Fin 32) (s : State) (b : Burst) (d : List Byte), ((s.ch n).bursts.find? (s.canComplete n) = some b) ∧
        (b.idx ≠ backIdx) ∧ (b.data = some d) ∧ (s.sinkOf n b = .sram)) ∧
    (∃ (n : Fin 32) (s : State) (b : Burst) (l : List Byte) (d : Desc) (rest : List Desc), ((s.ch n).bursts.find?
        (s.canComplete n) = some b) ∧ (b.idx = backIdx) ∧ (b.data = some l) ∧ (l.length = 8) ∧ (b.wr = none) ∧
        (s.rangeRegion b.dst 32 = some .shared) ∧ ((s.ch n).held = d :: rest) ∧ ((s.ch n).abort = none) ∧ ((s.ch
        n).backlog = []) ∧ (s.ringSize n ≤ 4096)) ∧
    (∃ (n : Fin 32) (s : State) (b : Burst), ((s.ch n).bursts.find? s.hasArrived = some b)) ∧
    (∃ (n : Fin 32) (s : State) (b : Burst) (a : Nat), ((s.ch n).bursts.find? (fun b => (s.burstFailed n b).isSome) =
        some b) ∧ (s.burstFailed n b = some a) ∧ (s.sinkOf n b = .sram) ∧ (b.idx ≠ fetchIdx) ∧ (s.dmaState n ≠ 6) ∧
        (∀ c ∈ (s.ch n).bursts, c ≠ b → c.retry = false ∧ (c.okd = true ∨ c.fails = 0)) ∧ (b.fails + 1 ≤ s.fld
        (R.DMA_CHn_CFG n) F.DMA_CHn_CFG_RETRY) ∧ ((recent s.now (ms (s.fld R.DMA_ERR_THR F.DMA_ERR_THR_WINDOW)) (s.ch
        n).stamps).length < s.fld R.DMA_ERR_THR F.DMA_ERR_THR_ERRMAX)) ∧
    (∃ (n : Fin 32) (s : State) (b : Burst), ((s.ch n).bursts.find? (fun b => s.writeAnswered b && !s.hasArrived b &&
        !(s.ch n).held.any (fun d => d.idx == b.idx && d.barrier)) = some b) ∧ (b.fails + 1 ≤ s.fld (R.DMA_CHn_CFG n)
        F.DMA_CHn_CFG_RETRY) ∧ ((recent s.now (ms (s.fld R.DMA_ERR_THR F.DMA_ERR_THR_WINDOW)) (s.ch n).stamps).length
        < s.fld R.DMA_ERR_THR F.DMA_ERR_THR_ERRMAX)) ∧
    (∃ (n : Fin 32) (s : State), (s.dmaState n = 3) ∧ (outstanding (s.ch n) = 0) ∧ ((s.ch n).haltDue = 0) ∧ ((s.ch
        n).bursts.any (·.retry) = false) ∧ (s.dueStatus n = none)) ∧
    (∃ (n : Fin 32) (s : State), (outstanding (s.ch n) = 0) ∧ (0 < (s.ch n).haltDue ∧ (s.ch n).haltDue < 16)) :=
  ⟨⟨dmaWith 2 [{ desc 3 with issued := 0 }] [], 3, 24, 64, { desc 3 with issued := 0 }, by decide +kernel⟩,
    ⟨(dmaIn 1).setCh 24 { look := true }, 3, 24, by decide +kernel⟩,
    ⟨dmaWith 2 [{ desc 3 with inOrder := 64 }] [], 3, 24, 0, { desc 3 with inOrder := 64 }, [], by decide +kernel⟩,
    ⟨2, { State.reset.setFifo 2 [⟨[1, 2, 3, 4], 1, 0⟩] with now := 80000000 }, by decide +kernel⟩,
    ⟨24, dmaWith 2 [desc 3] [burst], burst, List.replicate 32 9, by decide +kernel⟩,
    ⟨24, dmaWith 2 [desc 3] [⟨backIdx, 2, 8, 0, 0x1060, some [1, 2, 3, 4, 5, 6, 7, 8], none, none, false, 0, false⟩],
        ⟨backIdx, 2, 8, 0, 0x1060, some [1, 2, 3, 4, 5, 6, 7, 8], none, none, false, 0, false⟩, [1, 2, 3, 4, 5, 6, 7,
        8], desc 3, [], by decide +kernel⟩,
    ⟨24, { dmaWith 2 [desc 3] [{ burst with wr := some 5, okd := true }] with granary := { answers := [⟨5, 0, true, true, [], 0x5000⟩] } }, { burst with wr := some 5, okd := true }, by decide +kernel⟩,
    ⟨24, dmaWith 2 [desc 3] [{ burst with data := none }], { burst with data := none }, 0x4000, by decide +kernel⟩,
    ⟨24, { dmaWith 2 [] [{ burst with wr := some 5, okd := true }] with granary := { answers := [⟨5, 0, true, false, [], 0x5000⟩] } }, { burst with wr := some 5, okd := true }, by decide +kernel⟩,
    ⟨24, dmaWith 3 [desc 3] [], by decide +kernel⟩,
    ⟨24, (dmaWith 2 [desc 3] []).setCh 24 { held := [desc 3], haltDue := 7 }, by decide +kernel⟩⟩

theorem witness_granary_requests :
    (∃ (r : Requester) (a n c : Nat) (s : State), (dramBase ≤ a ∧ a + n ≤ dramBase + s.dramBytes) ∧ (0 < n ∧ a % 64 +
        n ≤ 64) ∧ (s.bit R.GRANARY_SR F.GRANARY_SR_IN_SR = false) ∧ (c = (s.place (a - a % 64)).ch) ∧ (s.chState c <
        4) ∧ ((s.chan c).held = [] ∧ (s.chan c).queue.length < 128)) ∧
    (∃ (r : Requester) (a n : Nat) (s : State), (dramBase ≤ a ∧ a + n ≤ dramBase + s.dramBytes) ∧ (0 < n ∧ a % 64 + n
        ≤ 64) ∧ (s.dramAsleep = true)) ∧
    (∃ (c : Fin 2) (s : State) (i : Nat) (q : DramReq), (s.chState c = 2 ∨ s.chState c = 4) ∧ (s.bit R.CLKPWR_STAT
        F.CLKPWR_STAT_DDRLOCK = true) ∧ ((s.chan c).held = [] ∧ s.granary.fill = none) ∧ ((s.chan c).forced = false ∧
        (s.chan c).zqOwed = 0) ∧ (i = s.chooseReq c (s.chan c).queue) ∧ ((s.chan c).queue[i]? = some q) ∧ (q.data =
        none)) ∧
    (∃ (c : Fin 2) (seen : Option (List (List Byte))) (s : State), ((s.chState c ≠ 2 ∧ s.chState c ≠ 4) ∨ s.bit
        R.CLKPWR_STAT F.CLKPWR_STAT_DDRLOCK = false)) ∧
    (∃ (c : Fin 2) (seen : Option (List (List Byte))) (s : State) (q : DramReq) (rest : List DramReq) (d : List
        Byte), (takeFirst (fun q => q.data.isNone) (s.chan c).flight = some (q, rest)) ∧ (s.clocksPassed q = true) ∧
        (((s.chan c).flight.takeWhile (fun f => f.data.isSome)).any (fun f => f.addr == q.addr) = false) ∧
        (s.checkedBurst q.addr seen = some d) ∧ (q.req < 0x20) ∧ (s.burstWaits q.req q.id = true) ∧ (s.granary.sync ≠
        some q.id)) ∧
    (∃ (c : Fin 2) (seen : Option (List (List Byte))) (s : State) (q : DramReq) (rest : List DramReq), (takeFirst
        (fun q => q.data.isNone) (s.chan c).flight = some (q, rest)) ∧ (s.clocksPassed q = true) ∧ (((s.chan
        c).flight.takeWhile (fun f => f.data.isSome)).any (fun f => f.addr == q.addr) = false) ∧ (s.checkedBurst
        q.addr seen = none)) ∧
    (∃ (c : Fin 2) (s : State) (q : DramReq) (rest : List DramReq) (d : List Byte), (takeFirst (fun q =>
        q.data.isSome) (s.chan c).flight = some (q, rest)) ∧ (s.clocksPassed q = true) ∧ (q.data = some d) ∧
        (d.length = 64) ∧ (dramBase ≤ q.addr ∧ q.addr % 64 = 0)) :=
  ⟨⟨.dma 3, 0x8000000123, 5, 1, dram {}, by decide +kernel⟩,
    ⟨.dma 3, 0x8000000123, 5, (dram {}).setBit R.GRANARY_SR F.GRANARY_SR_IN_SR true, by decide +kernel⟩,
    ⟨0, (dram { queue := [dramReq none] }).setBit R.CLKPWR_STAT F.CLKPWR_STAT_DDRLOCK true, 0, dramReq none, by
        decide +kernel⟩,
    ⟨0, none, dram { queue := [dramReq none] }, by decide +kernel⟩,
    ⟨0, none,
        { (dram { flight := [dramReq none] }).setCh 24 { bursts := [{ burst with data := none, rd := some 4 }] } with dramValid := [(0, 4)], now := 43 }, dramReq none, [], List.replicate 64 0, by decide +kernel⟩,
    ⟨0, none, { dram { flight := [dramReq none] } with now := 43 }, dramReq none, [], by decide +kernel⟩,
    ⟨0, { dram { flight := [fives] } with now := 43 }, fives, [], List.replicate 64 5, by decide +kernel⟩⟩

theorem witness_granary_upkeep :
    (∃ (r : Requester) (v : Word) (s : State), (s.bit R.GRANARY_CTRL F.GRANARY_CTRL_EN = false) ∧ (getField
        F.GRANARY_CTRL_DENSITY v ≠ 3) ∧ (¬ (getField F.GRANARY_CTRL_DENSITY v = 2 ∧ getField F.GRANARY_CTRL_RANKS v =
        1))) ∧
    (∃ (c : Fin 2) (s : State), (s.chState c = 1) ∧ (s.ddrCke c = true) ∧ (s.bit R.CLKPWR_STAT F.CLKPWR_STAT_DDRLOCK
        = true)) ∧
    (∃ (r : Requester) (w : Word) (s : State), (s.bit R.GRANARY_CTRL F.GRANARY_CTRL_EN = false) ∧ (s.fld
        R.GRANARY_DLY_ADDR F.GRANARY_DLY_ADDR_INDEX ≤ 595)) ∧
    (∃ (c rank : Fin 2) (s : State), (s.chState c = 2 ∨ s.chState c = 4) ∧ (rank.val = 0 ∨ s.bit R.GRANARY_CTRL
        F.GRANARY_CTRL_RANKS = true) ∧ ((if rank.val = 0 then (s.chan c).refAt0 else (s.chan c).refAt1) ≤ s.now) ∧
        ((s.chan c).queue ≠ [])) ∧
    (∃ (c rank : Fin 2) (s : State), (s.chState c = 2 ∨ s.chState c = 4) ∧ (rank.val = 0 ∨ s.bit R.GRANARY_CTRL
        F.GRANARY_CTRL_RANKS = true) ∧ ((if rank.val = 0 then (s.chan c).refAt0 else (s.chan c).refAt1) ≤ s.now) ∧
        ((s.chan c).queue = [])) ∧
    (∃ (s : State), (s.fld R.GRANARY_REF F.GRANARY_REF_ZQINT ≠ 0)) ∧
    (∃ (x : Int) (s : State), (x < 16 * sext 8 (s.fld R.CLKPWR_OT F.CLKPWR_OT_OTTRIP))) ∧
    (∃ (x : Int) (s : State), (16 * sext 8 (s.fld R.CLKPWR_OT F.CLKPWR_OT_OTTRIP) ≤ x) ∧ (s.pwr.ot = false)) ∧
    (∃ (r : Requester) (v : Word) (s : State) (base n : Nat), (getField F.GRANARY_INIT_GO_GO v = 1) ∧ (s.bit
        R.GRANARY_STAT F.GRANARY_STAT_INITBUSY = false) ∧ (s.anyPrinting = false) ∧ (base = s.fld
        R.GRANARY_INIT_BASE_HI F.GRANARY_INIT_BASE_HI_BASE_HI * 2 ^ 32 + s.fld R.GRANARY_INIT_BASE_LO
        F.GRANARY_INIT_BASE_LO_BASE_LO * 65536) ∧ (n = s.fld R.GRANARY_INIT_LEN F.GRANARY_INIT_LEN_UNITS * 65536) ∧
        (dramBase ≤ base ∧ 0 < n ∧ base + n ≤ dramBase + s.dramBytes) ∧ (s.dramAsleep = false)) ∧
    (∃ (s : State) (lo hi : Nat), (s.granary.fill = some (lo, hi)) ∧ (s.fillWaits 0 = false ∧ s.fillWaits 1 = false)) ∧
    (∃ (r : Requester) (v : Word) (s : State), (s.chState 0 = 2)) ∧
    (∃ (s : State), (s.srReady = true) ∧ (s.power ≠ 5) ∧ ((s.chan 0).held = [] ∧ (s.chan 1).held = [])) ∧
    (∃ (r : Requester) (v : Word) (s : State), (s.bit R.GRANARY_SR F.GRANARY_SR_IN_SR = true) ∧ (s.chState 0 = 5)) ∧
    (∃ (r : Requester) (s : State) (e : DramErr) (rest : List DramErr), (s.granary.errFifo = e :: rest)) :=
  ⟨⟨.core 0, 0x0A, State.reset, by decide +kernel⟩,
    ⟨0, { ((dram { rows := [(1, 2)], held := [dramReq none] }).setChState 0 1).setBit R.CLKPWR_STAT F.CLKPWR_STAT_DDRLOCK true with now := 560000 }, by decide +kernel⟩,
    ⟨.core 0, 0x12345678, State.reset.setReg R.GRANARY_DLY_ADDR 595, by decide +kernel⟩,
    ⟨0, 0, dram { queue := [dramReq none], rows := [(1, 2)] }, by decide +kernel⟩,
    ⟨0, 0, dram { rows := [(1, 2), (17, 3)] }, by decide +kernel⟩,
    ⟨(dram {}).setReg R.GRANARY_REF 0x1400, by decide +kernel⟩,
    ⟨400, State.reset, by decide +kernel⟩,
    ⟨3000, State.reset, by decide +kernel⟩,
    ⟨.core 0, 1, ((State.reset.setReg R.GRANARY_INIT_BASE_HI 0x80).setReg R.GRANARY_INIT_BASE_LO 0x10000).setReg
        R.GRANARY_INIT_LEN 2, 0x8000010000, 0x20000, by decide +kernel⟩,
    ⟨{ dram {} with granary := { fill := some (1, 3), fillNext := 1 } }, 1, 3, by decide +kernel⟩,
    ⟨.core 0, 0x2, dram {}, by decide +kernel⟩,
    ⟨(dram {}).setReg R.GRANARY_STAT 0x24, by decide +kernel⟩,
    ⟨.core 0, 0, ((dram {}).setReg R.GRANARY_STAT 0x2D).setReg R.GRANARY_SR 0x101, by decide +kernel⟩,
    ⟨.core 0, { State.reset with granary := { errFifo := [⟨1, 0, 0, false, 3, 1, 1, 0x8000000000, 7, 9, 2⟩] } }, ⟨1,
        0, 0, false, 3, 1, 1, 0x8000000000, 7, 9, 2⟩, [], by decide +kernel⟩⟩

theorem witness_miller_decoders :
    (∃ (d : Fin 8) (parity : Bool) (s : State) (b : List Byte) (rest : List (Nat × List Byte)) (hd : BlockHeader) (o
        : List Byte), (s.blocksRun = true) ∧ ((s.dec d).block ≠ []) ∧ (takePieces (28 + (parseHeader (s.dec
        d).block).paylen - (s.dec d).block.length) (s.dec d).input = (b, rest)) ∧ (((s.dec d).block ++ b).length = 28
        + (parseHeader (s.dec d).block).paylen) ∧ (hd = parseHeader ((s.dec d).block ++ b)) ∧ (hd.page = (s.dec
        d).page) ∧ (s.blockAccepted (d / 2) (s.dec d).page (s.dec d).serial hd = true) ∧ (blockOriginal hd (slice
        ((s.dec d).block ++ b) 24 hd.paylen) ((s.dec d).parity || parity) = some o) ∧ (leAt ((s.dec d).block ++ b)
        (24 + hd.paylen) 4 = crc32c o) ∧ ((s.ham (d / 2)).held.any (ofBlock (s.dec d).serial hd.line0 hd.lines) =
        true ∨ (s.freeArea (d / 2) (lineBytes hd.fmt hd.width * hd.lines) (s.ham (d / 2)).held).isSome = true)) ∧
    (∃ (d : Fin 8) (parity : Bool) (s : State) (b : List Byte) (rest : List (Nat × List Byte)), ((s.dec d).block =
        []) ∧ (s.decState d ≠ 0 ∧ s.decState d ≠ 5) ∧ (s.blocksRun = true) ∧ (s.awaitsRecompute d = false) ∧ ((s.dec
        d).serving = true) ∧ (takePieces 28 (s.dec d).input = (b, rest)) ∧ (b.length = 28 ∧ headerSound b = true ∧
        headerFields b = true) ∧ (parity = false ∧ (s.dec d).parity = false) ∧ ((parseHeader b).type = 3 ∧
        (parseHeader b).page = (s.dec d).page ∧ leAt b 24 4 = 0) ∧ (s.nextInOrder (s.dec d).serial = none)) ∧
    (∃ (d : Fin 8) (parity : Bool) (s : State) (b : List Byte) (rest : List (Nat × List Byte)), ((s.dec d).block =
        []) ∧ (s.decState d ≠ 0 ∧ s.decState d ≠ 5) ∧ (s.blocksRun = true) ∧ (s.awaitsRecompute d = false) ∧ ((s.dec
        d).serving = true) ∧ (takePieces 28 (s.dec d).input = (b, rest)) ∧ (b.length = 28 ∧ headerSound b = true ∧
        headerFields b = true) ∧ (parity = true ∨ (s.dec d).parity = true) ∧ ((parseHeader b).type = 3)) ∧
    (∃ (d : Fin 8) (s : State) (l : List Byte) (k : Nat), (s.decState d = 5) ∧ (s.blocksRun = true) ∧ (l =
        (takePieces (inputBytes (s.dec d).input) (s.dec d).input).1) ∧ (s.huntSkip d l.length l = (k, true))) ∧
    (∃ (r : Requester) (d : Fin 8) (v : Word) (s : State), ((s.dec d).block = [])) :=
  ⟨⟨0, false, decoding { block := rawBlock.take 30, input := [(0x8000000000, rawBlock.drop 30), (0, [1])] },
        rawBlock.drop 30, [(0, [1])], rawHeader, List.replicate 12 9, by decide +kernel⟩,
    ⟨0, false, decoding { input := [(0, headerBytes ⟨3, 0, false, 6, 0, 12, 0, 3, 0⟩ ++ leBytes 4 0)] }, headerBytes
        ⟨3, 0, false, 6, 0, 12, 0, 3, 0⟩ ++ leBytes 4 0, [], by decide +kernel⟩,
    ⟨0, true, decoding { input := [(0, headerBytes ⟨3, 0, false, 6, 0, 12, 0, 3, 0⟩ ++ leBytes 4 0)] }, headerBytes
        ⟨3, 0, false, 6, 0, 12, 0, 3, 0⟩ ++ leBytes 4 0, [], by decide +kernel⟩,
    ⟨0, (decoding { input := [(0, [1, 2, 3, 4] ++ rawBlock)] }).setDecState 0 5, [1, 2, 3, 4] ++ rawBlock, 4, by
        decide +kernel⟩,
    ⟨.core 0, 0, 0x3, (decoding {}).setReg R.MILLER_CTRL 0xFF, by decide +kernel⟩⟩

theorem witness_miller_encoders :
    (∃ (r : Requester) (e : Fin 2) (v : Word) (s : State), (s.bit (R.MILLER_ENCe_CTRL e) F.MILLER_ENCe_CTRL_EN =
        false) ∧ (1 ≤ s.encWidth e ∧ s.encWidth e ≤ 16384) ∧ (getField F.MILLER_ENCe_CTRL_FLUSH v = 0)) ∧
    (∃ (r : Requester) (e : Fin 2) (v : Word) (s : State), (s.bit (R.MILLER_ENCe_CTRL e) F.MILLER_ENCe_CTRL_EN =
        false) ∧ (s.encWidth e = 0 ∨ 16384 < s.encWidth e)) ∧
    (∃ (r : Requester) (e : Fin 2) (v : Word) (s : State), (s.bit (R.MILLER_ENCe_CTRL e) F.MILLER_ENCe_CTRL_EN =
        true) ∧ ((s.enc e).lines = []) ∧ ((s.enc e).part.length + (s.enc e).input.length < max 1 (s.encLineBytes e))) ∧
    (∃ (r : Requester) (e : Fin 2) (v : Word) (s : State), (s.bit (R.MILLER_ENCe_CTRL e) F.MILLER_ENCe_CTRL_EN =
        true) ∧ (getField F.MILLER_ENCe_CTRL_EN v = 1) ∧ ((s.enc e).lines ≠ [] ∧ (s.enc e).part = [] ∧ (s.enc
        e).input = [] ∧ (s.enc e).flushLeft = none) ∧ (s.encReady e = true)) ∧
    (∃ (e : Fin 2) (s : State), (s.encWorks e = true ∧ s.blocksRun = true) ∧ (s.encFull e = false) ∧ ((s.enc
        e).flushLeft = none) ∧ (0 < s.encLineBytes e ∧ s.encLineBytes e ≤ (s.enc e).part.length + (s.enc
        e).input.length) ∧ (s.fld (R.MILLER_ENCe_GEOM e) F.MILLER_ENCe_GEOM_LINESMAX = 0 ∨ (s.enc e).lines.length + 1
        < s.fld (R.MILLER_ENCe_GEOM e) F.MILLER_ENCe_GEOM_LINESMAX)) ∧
    (∃ (e : Fin 2) (s : State), (s.encWorks e = true ∧ s.blocksRun = true) ∧ (s.encFull e = false) ∧ ((s.enc
        e).flushLeft = none) ∧ ((s.enc e).part.length + (s.enc e).input.length < s.encLineBytes e) ∧ (s.fld
        (R.MILLER_ENCe_GEOM e) F.MILLER_ENCe_GEOM_LINESMAX = 0 ∨ (s.enc e).lines.length < s.fld (R.MILLER_ENCe_GEOM
        e) F.MILLER_ENCe_GEOM_LINESMAX)) ∧
    (∃ (r : Requester) (e : Fin 2) (s : State) (x : EncResult) (rest : List EncResult), ((s.enc e).results = x ::
        rest)) :=
  ⟨⟨.core 0, 1, 0, (encoding {}).setReg (R.MILLER_ENCe_CTRL 1) 0, by decide +kernel⟩,
    ⟨.core 0, 0, 0, State.reset.setFld (R.MILLER_ENCe_CFG 0) F.MILLER_ENCe_CFG_WIDTH 0, by decide +kernel⟩,
    ⟨.core 0, 1, 0x3, encoding { input := [1, 2, 3] }, by decide +kernel⟩,
    ⟨.core 0, 1, 0x1, encoding { lines := [[1, 2, 3, 4], [1, 2, 3, 4]] }, by decide +kernel⟩,
    ⟨1, encoding { part := [9], input := [1, 2, 3, 4, 5] }, by decide +kernel⟩,
    ⟨1, encoding { part := [9], input := [1, 2] }, by decide +kernel⟩,
    ⟨.core 0, 1, encoding { results := [⟨0, 2, false, true, 8⟩] }, ⟨0, 2, false, true, 8⟩, [], by decide +kernel⟩⟩

theorem witness_screening_passes :
    (∃ (k : Fin 4) (bad : List Nat) (s : State), (s.mayPrepare k = true) ∧ ((s.ham k).redo = []) ∧ (s.slotOpened k
        s.lead (s.ham k).next = true) ∧ (s.mustSkip k (s.ham k).next = false) ∧ (s.lineLost k (s.ham k).next = false)
        ∧ (s.inputsReady k (s.ham k).next = true)) ∧
    (∃ (k : Fin 4) (bad : List Nat) (s : State), (s.mayPrepare k = true) ∧ ((s.ham k).redo = []) ∧ (s.slotOpened k
        s.lead (s.ham k).next = true) ∧ (s.mustSkip k (s.ham k).next = true) ∧ (s.slotOpened k s.lead (lineAdd (s.ham
        k).next 1) = false)) ∧
    (∃ (k : Fin 4) (bad : List Nat) (s : State), (s.mayPrepare k = true) ∧ ((s.ham k).redo = []) ∧ (s.slotOpened k
        s.lead (s.ham k).next = true) ∧ (s.mustSkip k (s.ham k).next = false) ∧ (s.lineLost k (s.ham k).next = true)
        ∧ (s.slotOpened k s.lead (lineAdd (s.ham k).next 1) = false)) ∧
    (∃ (k : Fin 4) (bad : List Nat) (s : State) (l : Nat) (rest : List Nat), (s.mayPrepare k = true) ∧ ((s.ham
        k).redo = l :: rest) ∧ (s.lineLost k l = false) ∧ (s.inputsReady k l = true)) ∧
    (∃ (k : Fin 4) (bad : List Nat) (s : State), (s.mayPrepare k = true) ∧ ((s.ham k).redo = []) ∧ (s.slotOpened k
        s.lead (s.ham k).next = true) ∧ (s.mustSkip k (s.ham k).next = false) ∧ (s.pageOfLine (s.ham k).next = none)) ∧
    (∃ (k : Fin 4) (s : State) (x : PassOut), ((s.ham k).pass = some x) ∧ (x.doneAt ≤ s.now) ∧ (x.slot.length = 3200)
        ∧ (s.refLines = 0) ∧ ((s.ham k).lastPrep = none)) ∧
    (∃ (k : Fin 4) (s : State) (x : PassOut), ((s.ham k).pass = some x) ∧ (x.doneAt ≤ s.now) ∧ (s.refLines ≠ 0 ∧
        x.line % 2 = 0)) ∧
    (∃ (k : Fin 4) (c : ParityWord) (s : State) (x : PassOut), ((s.ham k).pass = some x) ∧ (x.doneAt ≤ s.now)) :=
  ⟨⟨3, [], printing, by decide +kernel⟩,
    ⟨0, [], (printing.setHam 0 { next := printing.lead - 1 }).setRow 0 0 { nextTake := 5000 }, by decide +kernel⟩,
    ⟨1, [],
        ({ printing with pages := [(3, { state := 2, length := 5000, serial := 1, lfirst := 0, llast := 4999 })] }).setHam 1 { next := printing.lead - 1, lostDec := [(1, 0, 4000)] }, by decide +kernel⟩,
    ⟨2, [], printing.setHam 2 { next := 9, redo := [7] }, 7, [], by decide +kernel⟩,
    ⟨1, [], printing, by decide +kernel⟩,
    ⟨0, printing.setHam 0 { next := 9, pass := some ⟨9, true, List.replicate 3200 7, 3, 2, 1, [], 0⟩ }, ⟨9, true,
        List.replicate 3200 7, 3, 2, 1, [], 0⟩, by decide +kernel⟩,
    ⟨0, (printing.setReg R.CAM_REF_LINES 0x40).setHam 0 { pass := some ⟨8, true, [1], 3, 2, 1, [4, 5], 0⟩ }, ⟨8,
        true, [1], 3, 2, 1, [4, 5], 0⟩, by decide +kernel⟩,
    ⟨0, .levelBuffer, printing.setHam 0 { pass := some ⟨8, true, [1], 3, 2, 1, [4, 5], 0⟩, valid := [8, 7] }, ⟨8,
        true, [1], 3, 2, 1, [4, 5], 0⟩, by decide +kernel⟩⟩

theorem witness_recomputes :
    (∃ (k : Fin 4) (s : State) (j : RecompJob) (d : Nat), ((s.ham k).jobs.find? (fun j => j.given.isNone &&
        !j.failed) = some j) ∧ (s.recomputeDecoder k j.dec = some d)) ∧
    (∃ (k : Fin 4) (s : State) (j : RecompJob), ((s.ham k).jobs.find? (fun j => j.failed) = some j)) ∧
    (∃ (h : Fin 24) (r : Fin 2) (s : State) (l : Nat), (s.running = true ∧ s.scanPaced h = false ∧ s.hcState h ≠ 0 ∧
        r.val ∈ s.rowsOf h) ∧ (l = (s.row h r).nextTake) ∧ (s.blankLine l = false) ∧ (s.rowMode h l = 2) ∧ (s.rowacts
        h r l = true) ∧ (l ∉ (s.ham (h / 6)).valid ∧ l ∉ (s.ham (h / 6)).lost)) ∧
    (∃ (h : Fin 24) (r : Fin 2) (s : State), (s.running = true ∧ s.scanPaced h = false ∧ s.hcState h ≠ 0 ∧ r.val ∈
        s.rowsOf h) ∧ (s.rowMode h (s.row h r).nextTake = 0)) :=
  ⟨⟨0, ((decoding {}).setReg R.MILLER_CTRL 0xFF).setHam 0 { jobs := [recompJob] }, recompJob, 0, by decide +kernel⟩,
    ⟨0, State.reset.setHam 0 { jobs := [{ recompJob with failed := true }] }, { recompJob with failed := true }, by
        decide +kernel⟩,
    ⟨0, 0, (printing.setByte (lineBase 0 + 0xA3000 + 0x4390) 0xFF), 0, by decide +kernel⟩,
    ⟨0, 0, printing.setFld (R.HC_STAT 0) F.HC_STAT_STATE 4, by decide +kernel⟩⟩

theorem witness_nozzles_and_masks :
    (∃ (s : State) (g l : Nat), (g < 101376) ∧ (s.weaver.readmit.find? (fun e => s.allStarted e.2) = some (g, l))) ∧
    (∃ (k : Fin 4) (s : State), (s.regN (R.WEAVER_MASKLINE k) ≠ 0xFFFFFFFF) ∧ (s.allStarted (s.regN
        (R.WEAVER_MASKLINE k)) = true)) ∧
    (∃ (r : Requester) (k : Fin 4) (v : Word) (s : State), (s.bit R.BR_CTRL F.BR_CTRL_RUN = false ∧ s.anyPrinting =
        false) ∧ (getField F.WEAVER_OVERLAP_V v ≤ 128)) ∧
    (∃ (r : Requester) (k : Fin 4) (v : Word) (s : State), (s.bit R.BR_CTRL F.BR_CTRL_RUN = true ∨ s.anyPrinting =
        true)) ∧
    (∃ (r : Requester) (k : Fin 4) (v : Word) (s : State), (s.bit R.BR_CTRL F.BR_CTRL_RUN = false ∧ s.anyPrinting =
        false) ∧ (128 < getField F.WEAVER_OVERLAP_V v)) :=
  ⟨⟨{ State.reset.setByte (nozAddr 70) 0x15 with weaver := { readmit := [(70, 12)] } }, 70, 12, by decide +kernel⟩,
    ⟨2, State.reset.setReg (R.WEAVER_MASKLINE 2) 100, by decide +kernel⟩,
    ⟨.core 0, 1, 128, State.reset, by decide +kernel⟩,
    ⟨.core 0, 1, 48, printing, by decide +kernel⟩,
    ⟨.core 0, 3, 129, State.reset, by decide +kernel⟩⟩

theorem witness_head_channel_enables :
    (∃ (r : Requester) (h : Fin 24) (v : Word) (s : State), (h.val < 22 ∨ getField F.HC_CTRL_SCAN v = getField
        F.HC_CTRL_SCAN (s.reg (R.HC_CTRL h)) ∨ s.scanErr h = 0) ∧ (s.hcState h = 0 ∧ s.bit (R.HC_CTRL h) F.HC_CTRL_EN
        = false) ∧ (s.power = 2 ∨ s.power = 3) ∧ (s.profErr h = 0)) ∧
    (∃ (r : Requester) (h : Fin 24) (v : Word) (s : State), (h.val < 22 ∨ getField F.HC_CTRL_SCAN v = getField
        F.HC_CTRL_SCAN (s.reg (R.HC_CTRL h)) ∨ s.scanErr h = 0) ∧ (s.hcState h = 0 ∧ s.bit (R.HC_CTRL h) F.HC_CTRL_EN
        = false) ∧ (s.power = 2 ∨ s.power = 3) ∧ (s.profErr h ≠ 0)) ∧
    (∃ (r : Requester) (h : Fin 24) (v : Word) (s : State), (22 ≤ h.val ∧ getField F.HC_CTRL_SCAN v = 1 ∧ s.bit
        (R.HC_CTRL h) F.HC_CTRL_SCAN = false ∧ s.scanErr h ≠ 0) ∧ (s.hcState h = 0 ∧ s.bit (R.HC_CTRL h) F.HC_CTRL_EN
        = false) ∧ (s.power = 2 ∨ s.power = 3)) ∧
    (∃ (r : Requester) (h : Fin 24) (v : Word) (s : State), (s.bit (R.HC_CTRL h) F.HC_CTRL_EN = true) ∧ (getField
        F.HC_CTRL_SCAN v = getField F.HC_CTRL_SCAN (s.reg (R.HC_CTRL h)) ∧ getField F.HC_CTRL_DMODE v = getField
        F.HC_CTRL_DMODE (s.reg (R.HC_CTRL h))) ∧ (s.combRuns h 0 = false ∧ s.combRuns h 1 = false)) ∧
    (∃ (r : Requester) (h : Fin 24) (v : Word) (s : State), (s.bit (R.HC_CTRL h) F.HC_CTRL_EN = true) ∧ (getField
        F.HC_CTRL_SCAN v = getField F.HC_CTRL_SCAN (s.reg (R.HC_CTRL h)) ∧ getField F.HC_CTRL_DMODE v = getField
        F.HC_CTRL_DMODE (s.reg (R.HC_CTRL h))) ∧ (s.combRuns h 0 = true ∨ s.combRuns h 1 = true)) :=
  ⟨⟨.core 0, 5, 0, heads 0, by decide +kernel⟩,
    ⟨.core 0, 5, 0, (heads 0).setFld (R.HC_PROF0 5) F.HC_PROF0_NOZ 0, by decide +kernel⟩,
    ⟨.core 0, 23, BitVec.ofNat 32 (2 ^ F.HC_CTRL_SCAN.lo), heads 0, by decide +kernel⟩,
    ⟨.core 0, 5, 0, heads 2, by decide +kernel⟩,
    ⟨.core 0, 5, 0, (heads 2).setRow 5 0 { runEnd := some 100 }, by decide +kernel⟩⟩

theorem witness_head_channel_frames :
    (∃ (h : Fin 24) (r : Fin 2) (s : State) (l : Nat), (s.mayTake h r = true ∧ s.scanPaced h = false) ∧ (l = (s.row h
        r).nextTake) ∧ (s.blankLine l = false ∧ l ∈ (s.ham (h / 6)).valid) ∧ (s.rowMode h l = 2 ∧ s.rowacts h r l =
        true)) ∧
    (∃ (h : Fin 24) (r : Fin 2) (s : State) (l : Nat), (s.mayTake h r = true ∧ s.scanPaced h = false) ∧ (l = (s.row h
        r).nextTake) ∧ (s.blankLine l = false ∧ l ∈ (s.ham (h / 6)).valid) ∧ (s.rowMode h l = 0)) ∧
    (∃ (h : Fin 24) (r : Fin 2) (p : Option ParityWord) (a b : List Nat) (s : State) (l : Nat), (s.mayTake h r = true
        ∧ s.scanPaced h = false) ∧ (l = (s.row h r).nextTake) ∧ (s.blankLine l = false) ∧ (s.rowMode h l = 1 ∧
        s.rowacts h r l = true)) ∧
    (∃ (h : Fin 24) (r : Fin 2) (p : Option ParityWord) (a b : List Nat) (s : State) (l : Nat), (s.mayTake h r = true
        ∧ s.scanPaced h = false) ∧ (l = (s.row h r).nextTake) ∧ (s.blankLine l = true)) ∧
    (∃ (h : Fin 24) (r : Fin 2) (p : Option ParityWord) (a b : List Nat) (s : State) (l : Nat), (s.mayTake h r =
        false ∨ (s.scanPaced h = false ∧ s.blankLine l = false ∧ s.rowMode h l ≠ 1 ∧ l ∉ (s.ham (h / 6)).valid)) ∧ (l
        = (s.row h r).nextTake)) ∧
    (∃ (h : Fin 24) (r : Fin 2) (p : ParityWord) (a b : List Nat) (s : State) (l : Nat), (s.mayTake h r = true ∧
        s.scanPaced h = false) ∧ (l = (s.row h r).nextTake) ∧ (s.blankLine l = false ∧ l ∈ (s.ham (h / 6)).valid) ∧
        (s.rowMode h l ≠ 1)) ∧
    (∃ (h : Fin 24) (r : Fin 2) (a b : List Nat) (s : State), (s.mayTake h r = true ∧ s.scanPaced h = true)) ∧
    (∃ (h : Fin 24) (s : State) (x : Frame) (rest : List Frame), ((s.hc h).formed = x :: rest) ∧ (s.shiftFree h =
        true ∧ x.bank ∉ (s.hc h).tables) ∧ ((s.hc h).tablesFirst = false ∨ (s.hc h).tables = []) ∧ (x.warm = true ∨
        x.derated = s.bit (R.HC_STAT h) F.HC_STAT_DERATED)) ∧
    (∃ (h : Fin 24) (s : State) (x : Frame) (rest : List Frame), ((s.hc h).formed = x :: rest) ∧ (s.shiftFree h =
        true ∧ x.bank ∉ (s.hc h).tables) ∧ ((s.hc h).tablesFirst = false ∨ (s.hc h).tables = []) ∧ (x.warm = false ∧
        x.derated ≠ s.bit (R.HC_STAT h) F.HC_STAT_DERATED)) ∧
    (∃ (h : Fin 24) (s : State) (b : Nat) (rest : List Nat), ((s.hc h).formed = [] ∧ (s.hc h).tables = b :: rest) ∧
        (s.shiftFree h = true) ∧ ((s.hc h).tablesFirst = true ∨ s.tableFits h = true)) ∧
    (∃ (h : Fin 24) (s : State) (x : Frame) (rest : List Frame), ((s.hc h).formed = x :: rest ∧ x.bank ∈ (s.hc
        h).tables) ∧ (s.shiftFree h = true)) ∧
    (∃ (h : Fin 24) (s : State), (s.shiftFree h = false ∨ ((s.hc h).tablesFirst = false ∧ s.tableFits h = false ∧ ∀ x
        ∈ (s.hc h).formed.head?, x.bank ∉ (s.hc h).tables))) ∧
    (∃ (h : Fin 24) (s : State) (x : Frame), ((s.hc h).shifting = some x ∧ x.table = false ∧ x.bank < 2) ∧ ((s.hc
        h).shiftStart + s.frameTicks h + 2 ≤ s.now) ∧ (s.combRuns h x.row = false ∧ (s.row h x.row).latched = none) ∧
        ((s.dueOf h x.row x.line).all (fun u => decide (s.now + s.latw h + s.lfsu h ≤ u)) = true)) ∧
    (∃ (h : Fin 24) (s : State) (x : Frame), ((s.hc h).shifting = some x ∧ x.table = false) ∧ ((s.hc h).shiftStart +
        s.frameTicks h + 2 ≤ s.now) ∧ (s.combRuns h x.row = false ∧ (s.row h x.row).latched = none) ∧ ((s.dueOf h
        x.row x.line).any (fun u => decide (u < s.now + s.latw h + s.lfsu h)) = true)) ∧
    (∃ (h : Fin 24) (s : State) (x : Frame), ((s.hc h).shifting = some x ∧ x.table = true) ∧ ((s.hc h).shiftStart +
        s.tableTicks h + 2 ≤ s.now)) ∧
    (∃ (h : Fin 24) (r : Fin 2) (s : State) (x : Frame) (n : Nat), (((s.hc h).shifting.toList ++ (s.hc
        h).formed).find? (fun f => !f.table && f.row == r.val) = some x) ∧ (s.latchTicks h r = some n) ∧
        (s.firesAfter h r x.line (n + s.lfsu h) = false)) ∧
    (∃ (h : Fin 24) (s : State) (x : Frame), ((s.hc h).shifting = some x ∧ x.errors = 0 ∧ x.table = false) ∧ ((s.hc
        h).stamps = [] ∧ s.fld (R.HC_ERR_THR h) F.HC_ERR_THR_ERRMAX ≠ 0)) ∧
    (∃ (h : Fin 24) (s : State) (x : Frame), ((s.hc h).shifting = some x ∧ x.errors = 0 ∧ x.table = true) ∧ ((s.hc
        h).stamps = [] ∧ s.fld (R.HC_ERR_THR h) F.HC_ERR_THR_ERRMAX ≠ 0)) ∧
    (∃ (h : Fin 24) (s : State) (x : Frame), ((s.hc h).shifting = some x ∧ x.errors ≠ 0)) :=
  ⟨⟨0, 0, (printing.setByte (lineBase 0 + 0xA3000 + 0x4390) 0xFF).setHam 0 { valid := [0] }, 0, by decide +kernel⟩,
    ⟨0, 0, (printing.setFld (R.HC_STAT 0) F.HC_STAT_STATE 4).setHam 0 { valid := [0] }, 0, by decide +kernel⟩,
    ⟨0, 0, some .table, [], [], ((printing.setByte (lineBase 0 + 0xA3000 + 0x4390) 0xFF).setFld (R.HC_STAT 0)
        F.HC_STAT_STATE 3).setHc 0 { lr := some 5 }, 0, by decide +kernel⟩,
    ⟨0, 0, some .table, [], [], { printing with br := { grid := [⟨0, 0, false, true⟩] } }, 0, by decide +kernel⟩,
    ⟨0, 0, some .table, [], [], printing, 0, by decide +kernel⟩,
    ⟨0, 0, .levelBuffer, [], [], printing.setHam 0 { valid := [0] }, 0, by decide +kernel⟩,
    ⟨23, 0, [], [], scanning, by decide +kernel⟩,
    ⟨0, printing.setHc 0 { formed := [frame] }, frame, [], by decide +kernel⟩,
    ⟨0, printing.setHc 0 { formed := [{ frame with derated := true }] }, { frame with derated := true }, [], by
        decide +kernel⟩,
    ⟨0, printing.setHc 0 { tables := [1, 0], tablesFirst := true }, 1, [0], by decide +kernel⟩,
    ⟨0, printing.setHc 0 { tables := [1, 0], formed := [frame] }, frame, [], by decide +kernel⟩,
    ⟨0, (heads 0).setHc 0 { tables := [1, 0] }, by decide +kernel⟩,
    ⟨0, { printing with now := 100000 }.setHc 0 { shifting := some frame }, frame, by decide +kernel⟩,
    ⟨0, { printing with now := 100000 }.setHc 0 { shifting := some frame, rowU := { due := [(4, 99990)] } }, frame,
        by decide +kernel⟩,
    ⟨0, { printing with now := 100000 }.setHc 0 { shifting := some (tableFrame 1 0) }, tableFrame 1 0, by
        decide +kernel⟩,
    ⟨0, 0, printing.setHc 0 { shifting := some (tableFrame 1 0), formed := [frame], rowU := { due := [(4, 1)] } },
        frame, 10, by decide +kernel⟩,
    ⟨0, printing.setHc 0 { shifting := some frame }, frame, by decide +kernel⟩,
    ⟨0, printing.setHc 0 { shifting := some (tableFrame 1 0) }, tableFrame 1 0, by decide +kernel⟩,
    ⟨0, printing.setHc 0 { shifting := some { frame with errors := 1 } }, { frame with errors := 1 }, by
        decide +kernel⟩⟩

theorem witness_head_channel_firing :
    (∃ (h : Fin 24) (r : Fin 2) (s : State) (l u : Nat) (rest : List (Nat × Nat)) (x : Frame), ((s.row h r).due = (l,
        u) :: rest ∧ u ≤ s.now) ∧ (lineDist l (s.row h r).nextTake < 0) ∧ ((s.row h r).latched = some x ∧ x.line = l
        ∧ x.warm = false) ∧ ((s.row h r).latchedAt + s.lfsu h ≤ u) ∧ ((s.row h r).lastFire.all (fun y => decide (y +
        s.strobeTicks h ≤ u)) = true) ∧ ((s.row h (1 - r.val)).runEnd.all (fun y => !s.twoRows h || decide (y ≤ u)) =
        true) ∧ (s.scanPaced h = false)) ∧
    (∃ (h : Fin 24) (r : Fin 2) (s : State) (l u y : Nat) (rest : List (Nat × Nat)) (x : Frame), ((s.row h r).due =
        (l, u) :: rest ∧ u ≤ s.now) ∧ (lineDist l (s.row h r).nextTake < 0) ∧ ((s.row h r).latched = some x ∧ x.line
        = l) ∧ ((s.row h r).lastFire = some y ∧ u < y + s.strobeTicks h)) ∧
    (∃ (h : Fin 24) (r : Fin 2) (s : State) (l u y : Nat) (rest : List (Nat × Nat)) (x : Frame), ((s.row h r).due =
        (l, u) :: rest ∧ u ≤ s.now) ∧ (lineDist l (s.row h r).nextTake < 0) ∧ ((s.row h r).latched = some x ∧ x.line
        = l) ∧ ((s.row h r).lastFire.all (fun z => decide (z + s.strobeTicks h ≤ u)) = true) ∧ ((s.row h (1 -
        r.val)).runEnd = some y ∧ u < y ∧ s.twoRows h = true)) ∧
    (∃ (h : Fin 24) (r : Fin 2) (s : State) (y : Nat), ((s.row h r).runEnd = some y ∧ y ≤ s.now) ∧ (s.bit (R.HC_CTRL
        h) F.HC_CTRL_EN = false ∧ s.combRuns h (1 - r.val) = false)) ∧
    (∃ (h : Fin 24) (r : Fin 2) (s : State) (y : Nat), ((s.row h r).runEnd = some y ∧ y ≤ s.now) ∧ (s.bit (R.HC_CTRL
        h) F.HC_CTRL_EN = true)) ∧
    (∃ (h : Fin 24) (s : State) (l : Nat), (l = s.regN (R.HC_COMBLINE h) ∧ l ≠ 0xFFFFFFFF) ∧ (s.scanPaced h = false ∧
        (s.rowsOf h).all (fun r => lineLt l (s.regN (rowNextReg h r))) = true)) ∧
    (∃ (h : Fin 24) (s : State) (l : Nat), ((s.hc h).lr = some l ∧ s.hcState h = 3) ∧ ((s.rowsOf h).all (fun r =>
        lineLt l (s.regN (rowNextReg h r))) = true)) ∧
    (∃ (h : Fin 24) (s : State), (max ((s.hc h).freshAt.getD 0) (s.hc h).enabledAt + 80000000 ≤ s.now) ∧ (s.hcState h
        ≠ 0 ∧ s.bit (R.HC_STAT h) F.HC_STAT_STALE = false)) :=
  ⟨⟨0, 0, { printing with now := 100000 }.setHc 0
        { rowU := { due := [(4, 99990)], latched := some frame, nextTake := 5, lastFire := some 7 } }, 4, 99990, [],
        frame, by decide +kernel⟩,
    ⟨0, 0, ({ printing with now := 100000 }.setHc 0
        { rowU := { due := [(4, 99990)], latched := some frame, nextTake := 5, lastFire := some 99989 } }).setFld
        (R.HC_PROF1 0) F.HC_PROF1_STROBEMAX 1000, 4, 99990, 99989, [], frame, by decide +kernel⟩,
    ⟨0, 0, ({ printing with now := 100000 }.setHc 0
        { rowU := { due := [(4, 99990)], latched := some frame, nextTake := 5 }, rowD := { runEnd := some 99999 } }).setBit (R.HC_PROF0 0) F.HC_PROF0_ROWS true, 4, 99990, 99999, [], frame, by decide +kernel⟩,
    ⟨5, 0, (heads 0).setRow 5 0 { runEnd := some 0 }, 0, by decide +kernel⟩,
    ⟨0, 0, printing.setRow 0 0 { runEnd := some 0 }, 0, by decide +kernel⟩,
    ⟨0, (printing.setReg (R.HC_COMBLINE 0) 3).setReg (R.BR_ROWU_NEXT 0) 4, 3, by decide +kernel⟩,
    ⟨0, ((printing.setFld (R.HC_STAT 0) F.HC_STAT_STATE 3).setHc 0 { lr := some 3 }).setReg (R.BR_ROWU_NEXT 0) 4, 3,
        by decide +kernel⟩,
    ⟨0, { printing with now := 80000000 }, by decide +kernel⟩⟩

theorem witness_scan_paced_channels :
    (∃ (r : Requester) (i : Fin 2) (v : Word) (s : State), (s.hcState (22 + i) ≠ 2 ∧ s.hcState (22 + i) ≠ 3) ∧
        ((s.writeByCodes (R.HC_SCAN_CFG (22 + i)) (putField F.HC_SCAN_CFG_ARM v 1)).scanErr (22 + i) = 0)) ∧
    (∃ (r : Requester) (i : Fin 2) (v : Word) (s : State), (s.hcState (22 + i) ≠ 2 ∧ s.hcState (22 + i) ≠ 3) ∧
        ((s.writeByCodes (R.HC_SCAN_CFG (22 + i)) (putField F.HC_SCAN_CFG_ARM v 1)).scanErr (22 + i) ≠ 0)) ∧
    (∃ (i : Fin 2) (b : Bool) (s : State), (s.scanPaced (22 + i) = true ∧ s.hcFires (22 + i) = true) ∧ (s.bit
        (R.HC_SCAN_CFG (22 + i)) F.HC_SCAN_CFG_ARM = true ∧ s.bit (R.HC_SCAN_CFG (22 + i)) F.HC_SCAN_CFG_EDGE = !b) ∧
        ((s.hc (22 + i)).scan.left = 0)) ∧
    (∃ (i : Fin 2) (b : Bool) (s : State), ((s.hc (22 + i)).scan.left = 0 ∧ (s.hc (22 + i)).scan.image = none)) ∧
    (∃ (i : Fin 2) (b : Bool) (s : State), (s.scanPaced (22 + i) = true ∧ s.hcFires (22 + i) = true) ∧ (s.bit
        (R.HC_SCAN_CFG (22 + i)) F.HC_SCAN_CFG_ARM = true ∧ s.bit (R.HC_SCAN_CFG (22 + i)) F.HC_SCAN_CFG_EDGE = !b) ∧
        ((s.hc (22 + i)).scan.left ≠ 0) ∧ (s.bit (R.HC_SCAN_CFG (22 + i)) F.HC_SCAN_CFG_QUEUE = true ∧ (s.hc (22 +
        i)).scan.heldEdge = none)) ∧
    (∃ (i : Fin 2) (b : Bool) (s : State), (s.scanPaced (22 + i) = true ∧ s.hcFires (22 + i) = true) ∧ (s.bit
        (R.HC_SCAN_CFG (22 + i)) F.HC_SCAN_CFG_ARM = true ∧ s.bit (R.HC_SCAN_CFG (22 + i)) F.HC_SCAN_CFG_EDGE = !b) ∧
        ((s.hc (22 + i)).scan.left ≠ 0) ∧ (s.bit (R.HC_SCAN_CFG (22 + i)) F.HC_SCAN_CFG_QUEUE = false ∨ (s.hc (22 +
        i)).scan.heldEdge ≠ none)) ∧
    (∃ (i : Fin 2) (b c : Bool) (s : State), (c = false ∨ s.scanPaced (22 + i) = false ∨ s.hcFires (22 + i) = false ∨
        s.bit (R.HC_SCAN_CFG (22 + i)) F.HC_SCAN_CFG_ARM = false ∨ s.bit (R.HC_SCAN_CFG (22 + i)) F.HC_SCAN_CFG_EDGE
        = b)) ∧
    (∃ (i : Fin 2) (s : State), (s.scanPaced (22 + i) = true ∧ s.hcState (22 + i) ≠ 0)) :=
  ⟨⟨.core 0, 1, 0x10, (scanning.setFld (R.HC_STAT 23) F.HC_STAT_STATE 1), by decide +kernel⟩,
    ⟨.core 0, 1, 0x10, (scanning.setFld (R.HC_STAT 23) F.HC_STAT_STATE 1).setReg (R.HC_SCAN_PER 23) 0, by
        decide +kernel⟩,
    ⟨1, true, scanning, by decide +kernel⟩,
    ⟨1, true, scanning, by decide +kernel⟩,
    ⟨1, true, (scanning.setHc 23 { scan := { left := 2 } }).setBit (R.HC_SCAN_CFG 23) F.HC_SCAN_CFG_QUEUE true, by
        decide +kernel⟩,
    ⟨1, true, (scanning.setHc 23 { scan := { left := 2 } }), by decide +kernel⟩,
    ⟨1, true, false, scanning, by decide +kernel⟩,
    ⟨1, scanning, by decide +kernel⟩⟩

theorem witness_encoder_counts :
    (∃ (n : Fin 4) (a b : Bool) (s : State) (back : Bool) (d : Int), (s.encOn n = true ∧ s.fld (R.ENCn_CTRL n)
        F.ENCn_CTRL_MODE = 0) ∧ (quadCount (s.fld (R.ENCn_CTRL n) F.ENCn_CTRL_MULT) (if s.bit (R.ENCn_CTRL n)
        F.ENCn_CTRL_SWAP then (s.encSt n).b else (s.encSt n).a) (if s.bit (R.ENCn_CTRL n) F.ENCn_CTRL_SWAP then
        (s.encSt n).a else (s.encSt n).b) (if s.bit (R.ENCn_CTRL n) F.ENCn_CTRL_SWAP then b else a) (if s.bit
        (R.ENCn_CTRL n) F.ENCn_CTRL_SWAP then a else b) = some back) ∧ ((s.encSt n).a = a ∨ (s.encSt n).b = b) ∧ (d =
        (if back != s.bit (R.ENCn_CTRL n) F.ENCn_CTRL_INV then -1 else 1))) ∧
    (∃ (n : Fin 4) (a b : Bool) (s : State) (d : Int), (s.encOn n = true ∧ s.fld (R.ENCn_CTRL n) F.ENCn_CTRL_MODE =
        1) ∧ ((if s.bit (R.ENCn_CTRL n) F.ENCn_CTRL_SWAP then (s.encSt n).b else (s.encSt n).a) = false) ∧ ((if s.bit
        (R.ENCn_CTRL n) F.ENCn_CTRL_SWAP then b else a) = true) ∧ (d = (if (!(if s.bit (R.ENCn_CTRL n)
        F.ENCn_CTRL_SWAP then a else b)) != s.bit (R.ENCn_CTRL n) F.ENCn_CTRL_INV then -1 else 1))) ∧
    (∃ (n : Fin 4) (a b : Bool) (s : State) (d : Int), (s.encOn n = true ∧ s.fld (R.ENCn_CTRL n) F.ENCn_CTRL_MODE =
        2) ∧ ((if s.bit (R.ENCn_CTRL n) F.ENCn_CTRL_SWAP then (s.encSt n).b else (s.encSt n).a) = false ∧ (s.encSt
        n).edge = none) ∧ ((if s.bit (R.ENCn_CTRL n) F.ENCn_CTRL_SWAP then b else a) = true) ∧ (d = (if (s.bit
        (R.ENCn_CTRL n) F.ENCn_CTRL_TWDIR && !(if s.bit (R.ENCn_CTRL n) F.ENCn_CTRL_SWAP then a else b)) != s.bit
        (R.ENCn_CTRL n) F.ENCn_CTRL_INV then -1 else 1))) ∧
    (∃ (n : Fin 4) (a b : Bool) (s : State), (s.encOn n = true ∧ s.fld (R.ENCn_CTRL n) F.ENCn_CTRL_MODE = 0) ∧
        ((s.encSt n).a ≠ a ∧ (s.encSt n).b ≠ b)) ∧
    (∃ (n : Fin 4) (a b : Bool) (s : State), (s.encOn n = false)) :=
  ⟨⟨0, true, false, counting 0 3, false, 1, by decide +kernel⟩,
    ⟨2, true, false, counting 1 0, -1, by decide +kernel⟩,
    ⟨3, true, false, counting 2 0, 1, by decide +kernel⟩,
    ⟨1, true, true, counting 0 3, by decide +kernel⟩,
    ⟨1, true, true, State.reset, by decide +kernel⟩⟩

theorem witness_index_pulses :
    (∃ (n : Fin 4) (z : Bool) (s : State), ((s.encSt n).z ≠ z ∧ s.encOn n = true ∧ s.bit (R.ENCn_CTRL n)
        F.ENCn_CTRL_ZEN = true ∧ s.fld (R.ENCn_CTRL n) F.ENCn_CTRL_MODE ≠ 2) ∧ (z ≠ s.bit (R.ENCn_CTRL n)
        F.ENCn_CTRL_ZPOL) ∧ (s.bit (R.ENCn_CTRL n) F.ENCn_CTRL_ZGATE = false ∨ ((s.encSt n).a = true ∧ (s.encSt n).b
        = true)) ∧ (s.judges n = true ∧ s.bit (R.ENCn_STAT n) F.ENCn_STAT_REF = false)) ∧
    (∃ (n : Fin 4) (z : Bool) (s : State) (e : Int), ((s.encSt n).z ≠ z ∧ s.encOn n = true ∧ s.bit (R.ENCn_CTRL n)
        F.ENCn_CTRL_ZEN = true ∧ s.fld (R.ENCn_CTRL n) F.ENCn_CTRL_MODE ≠ 2) ∧ (z ≠ s.bit (R.ENCn_CTRL n)
        F.ENCn_CTRL_ZPOL) ∧ (s.bit (R.ENCn_CTRL n) F.ENCn_CTRL_ZGATE = false ∨ ((s.encSt n).a = true ∧ (s.encSt n).b
        = true)) ∧ (s.judges n = true ∧ s.bit (R.ENCn_STAT n) F.ENCn_STAT_REF = true) ∧ (e = indexError (s.revcnt n)
        (s.revAt n) (s.idxpos n) ∧ s.idxTol n < e.natAbs)) ∧
    (∃ (n : Fin 4) (z : Bool) (s : State) (e : Int), ((s.encSt n).z ≠ z ∧ s.encOn n = true ∧ s.bit (R.ENCn_CTRL n)
        F.ENCn_CTRL_ZEN = true ∧ s.fld (R.ENCn_CTRL n) F.ENCn_CTRL_MODE ≠ 2) ∧ (z ≠ s.bit (R.ENCn_CTRL n)
        F.ENCn_CTRL_ZPOL) ∧ (s.bit (R.ENCn_CTRL n) F.ENCn_CTRL_ZGATE = false ∨ ((s.encSt n).a = true ∧ (s.encSt n).b
        = true)) ∧ (s.judges n = true ∧ s.bit (R.ENCn_STAT n) F.ENCn_STAT_REF = true) ∧ (e = indexError (s.revcnt n)
        (s.revAt n) (s.idxpos n) ∧ e.natAbs ≤ s.idxTol n ∧ e ≠ 0) ∧ (n.val ≠ 0 ∨ s.running = false)) ∧
    (∃ (n : Fin 4) (z : Bool) (s : State) (e : Int), ((s.encSt n).z ≠ z ∧ s.encOn n = true ∧ s.bit (R.ENCn_CTRL n)
        F.ENCn_CTRL_ZEN = true ∧ s.fld (R.ENCn_CTRL n) F.ENCn_CTRL_MODE ≠ 2) ∧ (z ≠ s.bit (R.ENCn_CTRL n)
        F.ENCn_CTRL_ZPOL) ∧ (s.bit (R.ENCn_CTRL n) F.ENCn_CTRL_ZGATE = false ∨ ((s.encSt n).a = true ∧ (s.encSt n).b
        = true)) ∧ (s.judges n = true ∧ s.bit (R.ENCn_STAT n) F.ENCn_STAT_REF = true) ∧ (e = indexError (s.revcnt n)
        (s.revAt n) (s.idxpos n) ∧ e.natAbs ≤ s.idxTol n ∧ e ≠ 0) ∧ (n.val = 0 ∧ s.running = true)) ∧
    (∃ (n : Fin 4) (z : Bool) (s : State), ((s.encSt n).z = z ∨ s.encOn n = false ∨ s.bit (R.ENCn_CTRL n)
        F.ENCn_CTRL_ZEN = false ∨ z = s.bit (R.ENCn_CTRL n) F.ENCn_CTRL_ZPOL)) ∧
    (∃ (s : State) (d : Int), (s.corr 0 ≠ 0) ∧ (s.running = false ∨ (s.encSt 0).corrDue = true) ∧ (d = (if s.corr 0 <
        0 then -1 else 1))) ∧
    (∃ (r : Requester) (n : Fin 4) (v : Word) (s : State), (getField F.ENCn_IDXCFG_REARM v = 1)) :=
  ⟨⟨1, true, indexed false 3, by decide +kernel⟩,
    ⟨1, true, indexed true 300, 293, by decide +kernel⟩,
    ⟨1, true, indexed true 9, 2, by decide +kernel⟩,
    ⟨0, true, (indexed true 9).setBit R.BR_STAT F.BR_STAT_RUNNING true, 2, by decide +kernel⟩,
    ⟨2, true, State.reset, by decide +kernel⟩,
    ⟨(indexed true 9).setCorr 0 (-2), -1, by decide +kernel⟩,
    ⟨.core 0, 1, BitVec.ofNat 32 (2 ^ F.ENCn_IDXCFG_REARM.lo + 5), indexed true 9, by decide +kernel⟩⟩

theorem witness_speed_and_signals :
    (∃ (n : Fin 4) (s : State) (w : List (Nat × Bool)) (x y : Nat × Bool), (s.encOn n = true) ∧ (s.windowCounts n = w
        ∧ w.head? = some x ∧ w.getLast? = some y) ∧ (s.fld (R.ENCn_SPDCFG n) F.ENCn_SPDCFG_XHI ≤ w.length ∧ 2 ≤
        w.length ∧ w.all (fun c => c.2 == x.2) = true)) ∧
    (∃ (n : Fin 4) (s : State), (s.encOn n = false)) ∧
    (∃ (n : Fin 4) (s : State), (s.encOn n = true ∧ s.bit (R.ENCn_STAT n) F.ENCn_STAT_STILL = false) ∧ ((s.encSt
        n).since + 800000 * s.fld (R.ENCn_DIRCFG n) F.ENCn_DIRCFG_STILL ≤ s.now)) ∧
    (∃ (n : Fin 4) (rx : Fin 3) (s : State), (s.encOn n = true ∧ s.rxUsed n rx = true ∧ n.val ≠ 0)) ∧
    (∃ (n : Fin 4) (rx : Fin 3) (s : State), (s.encOn n = true ∧ s.rxUsed n rx = true ∧ n.val = 0)) :=
  ⟨⟨1, ((counting 0 3).setEncSt 1 { counts := [(9, true), (5, true), (1, true)] }).setFld (R.ENCn_SPDCFG 1)
        F.ENCn_SPDCFG_XHI 3, [(9, true), (5, true), (1, true)], (9, true), (1, true), by decide +kernel⟩,
    ⟨1, State.reset, by decide +kernel⟩,
    ⟨1, { counting 0 3 with now := 10 ^ 12 }, by decide +kernel⟩,
    ⟨1, 0, counting 0 3, by decide +kernel⟩,
    ⟨0, 1, counting 0 3, by decide +kernel⟩⟩

theorem witness_ssi_and_marks :
    (∃ (m : Fin 2) (s : State), (s.bit (R.SSIm_CFG m) F.SSIm_CFG_EN = true)) ∧
    (∃ (m : Fin 2) (idle high : Bool) (bits : List Bool) (s : State) (ts : Nat) (d : Int), ((s.ssi m).start = some
        ts) ∧ (d = leastStep (s.fld (R.SSIm_CFG m) F.SSIm_CFG_POSBITS) (bitsNat (if s.bit (R.SSIm_CFG m)
        F.SSIm_CFG_GRAY then grayBits (bits.take (s.fld (R.SSIm_CFG m) F.SSIm_CFG_POSBITS)) else bits.take (s.fld
        (R.SSIm_CFG m) F.SSIm_CFG_POSBITS))) s.freeCtr (s.srcPos (4 + m.val))) ∧ (s.ssiError m idle bits high d = 0)) ∧
    (∃ (m : Fin 2) (idle high : Bool) (bits : List Bool) (s : State) (ts : Nat) (d : Int), ((s.ssi m).start = some
        ts) ∧ (d = leastStep (s.fld (R.SSIm_CFG m) F.SSIm_CFG_POSBITS) (bitsNat (if s.bit (R.SSIm_CFG m)
        F.SSIm_CFG_GRAY then grayBits (bits.take (s.fld (R.SSIm_CFG m) F.SSIm_CFG_POSBITS)) else bits.take (s.fld
        (R.SSIm_CFG m) F.SSIm_CFG_POSBITS))) s.freeCtr (s.srcPos (4 + m.val))) ∧ (s.ssiError m idle bits high d ≠ 0)) ∧
    (∃ (i : Fin 4) (level : Bool) (s : State), ((s.mark i).level ≠ level ∧ s.bit (R.MARKi_CFG i) F.MARKi_CFG_EN =
        true ∧ level ≠ s.bit (R.MARKi_CFG i) F.MARKi_CFG_EDGE) ∧ ((s.mark i).blank = 0 ∧ (s.mark i).fifo.length < 16)) ∧
    (∃ (i : Fin 4) (level : Bool) (s : State), ((s.mark i).level ≠ level ∧ s.bit (R.MARKi_CFG i) F.MARKi_CFG_EN =
        true ∧ level ≠ s.bit (R.MARKi_CFG i) F.MARKi_CFG_EDGE) ∧ ((s.mark i).blank ≠ 0)) ∧
    (∃ (i : Fin 4) (level : Bool) (s : State), ((s.mark i).level ≠ level ∧ s.bit (R.MARKi_CFG i) F.MARKi_CFG_EN =
        true ∧ level ≠ s.bit (R.MARKi_CFG i) F.MARKi_CFG_EDGE) ∧ ((s.mark i).blank = 0 ∧ 16 ≤ (s.mark i).fifo.length)) ∧
    (∃ (k : Fin 8) (level : Bool) (s : State), (s.pos.home.testBit k ≠ level)) :=
  ⟨⟨1, State.reset.setBit (R.SSIm_CFG 1) F.SSIm_CFG_EN true, by decide +kernel⟩,
    ⟨0, true, true, [false, true, true], ssiPort, 77, 3, by decide +kernel⟩,
    ⟨0, false, true, [false, true, true], ssiPort, 77, 3, by decide +kernel⟩,
    ⟨2, true, marking {}, by decide +kernel⟩,
    ⟨2, true, marking { blank := 4 }, by decide +kernel⟩,
    ⟨2, true, marking { fifo := List.replicate 16 (1, 2) }, by decide +kernel⟩,
    ⟨7, true, State.reset, by decide +kernel⟩⟩

theorem witness_compare_outputs :
    (∃ (j : Fin 8) (s : State) (u : Nat), ((s.cmp j).pulse = some u ∧ u ≤ s.now) ∧ ((s.cmp j).reach = none ∧ (s.cmp
        j).stopping = false)) ∧
    (∃ (j : Fin 8) (s : State) (u : Nat), ((s.cmp j).pulse = some u ∧ u ≤ s.now) ∧ ((s.cmp j).stopping = true)) ∧
    (∃ (j : Fin 8) (s : State) (e : Nat) (p : Int), ((s.cmp j).pulse = none ∧ (s.cmp j).free ≤ s.now ∧ (s.cmp
        j).stopping = false) ∧ ((s.cmp j).reach = some p ∧ s.fld (R.CMPj_STAT j) F.CMPj_STAT_STATE = 1) ∧ (e =
        s.cmpEntry j ∧ s.cmpTarget j e ≤ p)) ∧
    (∃ (j : Fin 8) (s : State), ((s.cmp j).pulse = none ∧ (s.cmp j).reach = none ∨ s.now < (s.cmp j).pulse.getD 0)) ∧
    (∃ (r : Requester) (j : Fin 8) (v : Word) (s : State), (getField F.CMPj_CTRL_RESTART v = 1)) :=
  ⟨⟨3, State.reset.setCmp 3 { pulse := some 0 }, 0, by decide +kernel⟩,
    ⟨3, State.reset.setCmp 3 { pulse := some 0, stopping := true }, 0, by decide +kernel⟩,
    ⟨3, comparing 0x13000000000005, 0x13000000000005, 9, by decide +kernel⟩,
    ⟨3, State.reset, by decide +kernel⟩,
    ⟨.core 0, 3, BitVec.ofNat 32 (2 ^ F.CMPj_CTRL_RESTART.lo + 1), State.reset, by decide +kernel⟩⟩

theorem witness_loop_control :
    (∃ (r : Requester) (v : Word) (s : State), (getField F.BR_CTRL_EN v = 1 ∧ getField F.BR_CTRL_RUN v = 0) ∧ (s.bit
        R.BR_CTRL F.BR_CTRL_EN = false ∧ s.bit R.BR_CTRL F.BR_CTRL_RUN = false) ∧ (s.applyRatio.ratioOk = true) ∧
        (s.enc0Valid = false ∧ s.bit (R.ENCn_STAT 0) F.ENCn_STAT_FAULT = false)) ∧
    (∃ (r : Requester) (v : Word) (s : State), (getField F.BR_CTRL_EN v = 1) ∧ (s.bit R.BR_CTRL F.BR_CTRL_EN = false
        ∧ s.bit R.BR_CTRL F.BR_CTRL_RUN = false) ∧ (s.applyRatio.ratioOk = false)) ∧
    (∃ (r : Requester) (v : Word) (s : State), (getField F.BR_CTRL_EN v = 0 ∧ getField F.BR_CTRL_RUN v = 0) ∧ (s.bit
        R.BR_CTRL F.BR_CTRL_EN = true ∧ s.bit R.BR_CTRL F.BR_CTRL_RUN = false)) ∧
    (∃ (r : Requester) (v : Word) (s : State), (getField F.BR_CTRL_EN v = 0) ∧ (s.bit R.BR_CTRL F.BR_CTRL_EN = true ∧
        s.bit R.BR_CTRL F.BR_CTRL_RUN = true)) ∧
    (∃ (s : State) (e : Int), (2 ≤ s.loopState ∧ s.br.updAt + 800 ≤ s.now) ∧ (s.enc0Valid = true ∧ s.bit (R.ENCn_STAT
        0) F.ENCn_STAT_FAULT = false ∧ s.bit (R.ENCn_STAT 0) F.ENCn_STAT_STILL = false ∧ s.fastFor 8 = true) ∧ (e =
        s.wNum s.enc0Pos (if s.enc0Back then -32 else 32) - s.phiNow * s.regN R.BR_DEN) ∧ (e.natAbs ≤ 64 * s.fld
        R.BR_LOCK F.BR_LOCK_SNAPTOL * 65536 * s.regN R.BR_DEN)) ∧
    (∃ (s : State) (e : Int), (2 ≤ s.loopState ∧ s.br.updAt + 800 ≤ s.now) ∧ (s.enc0Valid = true ∧ s.bit (R.ENCn_STAT
        0) F.ENCn_STAT_FAULT = false ∧ s.bit (R.ENCn_STAT 0) F.ENCn_STAT_STILL = false ∧ s.fastFor 8 = true) ∧ (e =
        s.wNum s.enc0Pos (if s.enc0Back then -32 else 32) - s.phiNow * s.regN R.BR_DEN) ∧ (64 * s.fld R.BR_LOCK
        F.BR_LOCK_SNAPTOL * 65536 * s.regN R.BR_DEN < e.natAbs)) :=
  ⟨⟨.core 0, 1, ratio 8, by decide +kernel⟩,
    ⟨.core 0, 1, ratio 9, by decide +kernel⟩,
    ⟨.core 0, 0, tracking 2, by decide +kernel⟩,
    ⟨.core 0, 0, printing, by decide +kernel⟩,
    ⟨updating 2, 4194304, by decide +kernel⟩,
    ⟨(updating 3).setFld R.BR_LOCK F.BR_LOCK_SNAPTOL 0, 4194304, by decide +kernel⟩⟩

theorem witness_grid_runs :
    (∃ (r : Requester) (v : Word) (s : State), (getField F.BR_CTRL_RUN v = 1 ∧ getField F.BR_CTRL_EN v = 1) ∧ (s.bit
        R.BR_CTRL F.BR_CTRL_EN = true ∧ s.bit R.BR_CTRL F.BR_CTRL_RUN = false) ∧ (s.power = 2 ∨ s.power = 3)) ∧
    (∃ (r : Requester) (v : Word) (s : State), (getField F.BR_CTRL_RUN v = 1 ∧ getField F.BR_CTRL_EN v = 1) ∧ (s.bit
        R.BR_CTRL F.BR_CTRL_EN = true ∧ s.bit R.BR_CTRL F.BR_CTRL_RUN = false) ∧ (s.power ≠ 2 ∧ s.power ≠ 3)) ∧
    (∃ (r : Requester) (v : Word) (s : State), (getField F.BR_CTRL_RUN v = 0 ∧ s.bit R.BR_CTRL F.BR_CTRL_RUN = true)
        ∧ (getField F.BR_CTRL_EN v = getField F.BR_CTRL_EN (s.reg R.BR_CTRL) ∧ getField F.BR_CTRL_STRETCHONLY v =
        getField F.BR_CTRL_STRETCHONLY (s.reg R.BR_CTRL)) ∧ (s.pagesOpen = false)) ∧
    (∃ (r : Requester) (v : Word) (s : State), (getField F.BR_CTRL_RUN v = 0 ∧ s.bit R.BR_CTRL F.BR_CTRL_RUN = true)
        ∧ (s.pagesOpen = true)) :=
  ⟨⟨.core 0, 3, ((tracking 1).setPower 2).setReg R.BR_LINESTART 40, by decide +kernel⟩,
    ⟨.core 0, 3, (tracking 1).setPower 1, by decide +kernel⟩,
    ⟨.core 0, 1, (printing.setPower 3).setHc 0 { formed := [frame], shifting := some { frame with table := true } },
        by decide +kernel⟩,
    ⟨.core 0, 1, { printing with pages := [(3, { state := 3 })] }, by decide +kernel⟩⟩

theorem witness_rows_and_marks :
    (∃ (h : Fin 24) (i : Fin 2) (s : State) (l : Nat), (l = s.regN (rowNextReg h i)) ∧ (s.running = true ∧
        s.scanPaced h = false ∧ i.val ∈ s.rowsOf h) ∧ (s.firePos h i l * 65536 ≤ s.phimaxNow ∧ s.enc0Back = false)) ∧
    (∃ (h : Fin 24) (i : Fin 2) (s : State), (s.running = true ∧ s.scanPaced h = false ∧ i.val ∈ s.rowsOf h) ∧
        (s.firePos h i (s.regN (rowNextReg h i)) * 65536 ≤ s.phimaxNow ∧ s.enc0Back = true)) ∧
    (∃ (h : Fin 24) (i : Fin 2) (s : State), (s.running = false ∨ s.scanPaced h = true ∨ i.val ∉ s.rowsOf h ∨
        s.phimaxNow < s.firePos h i (s.regN (rowNextReg h i)) * 65536)) ∧
    (∃ (s : State) (e : Int × Nat) (rest : List (Int × Nat)) (n l : Nat), ((s.mark (s.fld R.BR_PAGE_CFG
        F.BR_PAGE_CFG_MARKSEL)).fifo = e :: rest) ∧ (s.nextPage = some n ∧ (s.page n).trigger = 0 ∧ s.running = true)
        ∧ (l = s.lineAtDot (s.dotOf e.1 + sext 32 (s.regN R.BR_MARKOFF))) ∧ (lineLe l s.pageLimit = false ∧ lineLe l
        s.prepBegun = false)) ∧
    (∃ (s : State) (e : Int × Nat) (rest : List (Int × Nat)), ((s.mark (s.fld R.BR_PAGE_CFG
        F.BR_PAGE_CFG_MARKSEL)).fifo = e :: rest) ∧ (s.nextPage.any (fun n => s.running && (s.page n).trigger == 0 &&
        !lineLe (s.lineAtDot (s.dotOf e.1 + sext 32 (s.regN R.BR_MARKOFF))) s.pageLimit) = false)) ∧
    (∃ (s : State), ((s.mark (s.fld R.BR_PAGE_CFG F.BR_PAGE_CFG_MARKSEL)).fifo = [])) :=
  ⟨⟨0, 0, { printing.setReg (R.BR_ROWU_NEXT 0) 7 with br := { grid := [⟨7, 0, false, false⟩] } }, 7, by
        decide +kernel⟩,
    ⟨0, 0, printing.setBit (R.ENCn_STAT 0) F.ENCn_STAT_DIR true, by decide +kernel⟩,
    ⟨0, 0, State.reset, by decide +kernel⟩,
    ⟨{ printing.setMark 0 { fifo := [(0, 1)] } with pages := [(3, { state := 2, length := 100, serial := 1 })], br := { grid := [⟨200, 0, false, false⟩] } }, (0, 1), [], 3, 200, by decide +kernel⟩,
    ⟨State.reset.setMark 0 { fifo := [(0, 1)] }, (0, 1), [], by decide +kernel⟩,
    ⟨State.reset, by decide +kernel⟩⟩

theorem witness_retire_and_readmit_requests :
    (∃ (r : Requester) (v : Word) (s : State), (getField F.FAULT_NOZ_RETIRE_NOZ v < 101376)) ∧
    (∃ (r : Requester) (v : Word) (s : State), (101376 ≤ getField F.FAULT_NOZ_RETIRE_NOZ v)) :=
  ⟨⟨.core 0, 101375, State.reset, by decide +kernel⟩,
    ⟨.core 0, 101376, State.reset, by decide +kernel⟩⟩

theorem witness_safe_stops :
    (∃ (r : Requester) (v : Word) (s : State), (s.bit R.FAULT_STAT F.FAULT_STAT_SAFE = false)) ∧
    (∃ (r : Requester) (v : Word) (s : State), (s.bit R.FAULT_STAT F.FAULT_STAT_SAFE = true)) ∧
    (∃ (r : Requester) (v : Word) (s : State), (getField F.FAULT_CTRL_SAFESTOP v = 0) ∧ (s.bit R.FAULT_STAT
        F.FAULT_STAT_SAFE = true ∧ s.triggerPresent = false)) ∧
    (∃ (r : Requester) (v : Word) (s : State), (getField F.FAULT_CTRL_SAFESTOP v = 0) ∧ (s.bit R.FAULT_STAT
        F.FAULT_STAT_SAFE = true ∧ s.triggerPresent = true)) ∧
    (∃ (r : Requester) (v : Word) (s : State), (getField F.FAULT_CTRL_SAFESTOP v = 0) ∧ (s.bit R.FAULT_STAT
        F.FAULT_STAT_SAFE = false)) :=
  ⟨⟨.core 0, 0,
        { (printing.setFld (R.DMA_CHn_STAT 5) F.DMA_CHn_STAT_STATE 2).setFld (R.MOT_AXn_STAT 1) F.MOT_AXn_STAT_STATE 2 with pages := [(3, { state := 3 })] }, by decide +kernel⟩,
    ⟨.core 0, 0, State.reset.setBit R.FAULT_STAT F.FAULT_STAT_SAFE true, by decide +kernel⟩,
    ⟨.core 0, 0, State.reset.setBit R.FAULT_STAT F.FAULT_STAT_SAFE true, by decide +kernel⟩,
    ⟨.core 0, 0, (State.reset.setBit R.FAULT_STAT F.FAULT_STAT_SAFE true).setBit (R.ENCn_STAT 0) F.ENCn_STAT_FAULT
        true, by decide +kernel⟩,
    ⟨.core 0, 0, State.reset, by decide +kernel⟩⟩

theorem witness_camera_ports :
    (∃ (r : Requester) (n : Fin 4) (v : Word) (s : State), (getField F.CAMn_CTRL_ARM v = 1 ∧ getField
        F.CAMn_CTRL_SWTRIG v = 0) ∧ (s.bit (R.CAMn_CTRL n) F.CAMn_CTRL_ARM = false)) ∧
    (∃ (r : Requester) (n : Fin 4) (v : Word) (s : State), (getField F.CAMn_CTRL_ARM v = 0 ∧ getField
        F.CAMn_CTRL_SWTRIG v = 0) ∧ (s.bit (R.CAMn_CTRL n) F.CAMn_CTRL_ARM = true)) ∧
    (∃ (r : Requester) (n : Fin 4) (v : Word) (s : State), (getField F.CAMn_CTRL_SWTRIG v = 1 ∧ getField
        F.CAMn_CTRL_ARM v = 1) ∧ (s.bit (R.CAMn_CTRL n) F.CAMn_CTRL_ARM = true ∧ s.camState n = 1 ∧ s.fld
        (R.CAMn_CTRL n) F.CAMn_CTRL_TRIGSRC = 9) ∧ ((s.camPort n).trig.length < 16 ∧ (s.camPort n).pulse = none)) ∧
    (∃ (r : Requester) (n : Fin 4) (v : Word) (s : State), (getField F.CAMn_CTRL_SWTRIG v = 1 ∧ getField
        F.CAMn_CTRL_ARM v = 1) ∧ (s.bit (R.CAMn_CTRL n) F.CAMn_CTRL_ARM = true ∧ s.camState n = 1 ∧ s.fld
        (R.CAMn_CTRL n) F.CAMn_CTRL_TRIGSRC = 9 ∧ s.bit (R.CAMn_CTRL n) F.CAMn_CTRL_FRAMEMODE = true) ∧ (16 ≤
        (s.camPort n).trig.length ∨ (s.camPort n).pulse ≠ none) ∧ ((s.camPort n).frames = [] ∧ (s.camPort n).stamps =
        [] ∧ s.fld (R.CAMn_ERR_THR n) F.CAMn_ERR_THR_ERRMAX ≠ 0)) ∧
    (∃ (n : Fin 4) (s : State) (u : Nat), ((s.camPort n).pulse = some u ∧ u ≤ s.now)) ∧
    (∃ (n : Fin 4) (s : State) (u : CamTrig) (rest : List CamTrig), ((s.camPort n).trig = u :: rest ∧ u.at_ + 800 *
        s.fld (R.CAMn_TIMEOUT n) F.CAMn_TIMEOUT_LINETO ≤ s.now) ∧ ((s.camPort n).readmit = false ∧ s.bit (R.CAMn_CTRL
        n) F.CAMn_CTRL_FRAMEMODE = true) ∧ ((s.camPort n).frames = [] ∧ (s.camPort n).stamps = [] ∧ s.fld
        (R.CAMn_ERR_THR n) F.CAMn_ERR_THR_ERRMAX ≠ 0)) ∧
    (∃ (n : Fin 4) (s : State), ((s.camPort n).trig.head?.all (fun u => decide (s.now < u.at_ + 800 * s.fld
        (R.CAMn_TIMEOUT n) F.CAMn_TIMEOUT_LINETO)) = true)) ∧
    (∃ (n : Fin 4) (s : State), (s.camState n = 1 ∧ (s.camPort n).trig ≠ [])) ∧
    (∃ (n : Fin 4) (s : State), (s.camState n = 1 ∧ s.bit (R.CAMn_CTRL n) F.CAMn_CTRL_FRAMEMODE = true) ∧ ((s.camPort
        n).frames = [])) ∧
    (∃ (n : Fin 4) (s : State) (x : CamFrame), (s.camState n = 1 ∧ s.bit (R.CAMn_CTRL n) F.CAMn_CTRL_FRAMEMODE =
        true) ∧ ((s.camPort n).frames = [x] ∧ x.dropped = none ∧ x.lines = s.frameLines n ∧ (s.camPort n).work = [])
        ∧ ((s.fld (R.Pp_RES_WR (n.val / 2)) F.Pp_RES_WR_INDEX + 1) % s.resSize (n.val / 2) ≠ s.fld (R.Pp_RES_RD
        (n.val / 2)) F.Pp_RES_RD_INDEX % s.resSize (n.val / 2))) ∧
    (∃ (n : Fin 4) (s : State) (x : CamFrame), (s.camState n = 1 ∧ s.bit (R.CAMn_CTRL n) F.CAMn_CTRL_FRAMEMODE =
        true) ∧ ((s.camPort n).frames = [x] ∧ x.dropped = none ∧ x.lines ≠ s.frameLines n) ∧ ((s.camPort n).stamps =
        [] ∧ s.fld (R.CAMn_ERR_THR n) F.CAMn_ERR_THR_ERRMAX ≠ 0)) :=
  ⟨⟨.core 0, 2, BitVec.ofNat 32 (2 ^ F.CAMn_CTRL_ARM.lo), State.reset, by decide +kernel⟩,
    ⟨.core 0, 2, 0, camera {}, by decide +kernel⟩,
    ⟨.core 0, 2, BitVec.ofNat 32 (2 ^ F.CAMn_CTRL_ARM.lo + 2 ^ F.CAMn_CTRL_SWTRIG.lo), (camera {}).setFld
        (R.CAMn_CTRL 2) F.CAMn_CTRL_TRIGSRC 9, by decide +kernel⟩,
    ⟨.core 0, 2, BitVec.ofNat 32 (2 ^ F.CAMn_CTRL_ARM.lo + 2 ^ F.CAMn_CTRL_SWTRIG.lo), (camera
        { pulse := some 5 }).setFld (R.CAMn_CTRL 2) F.CAMn_CTRL_TRIGSRC 9, by decide +kernel⟩,
    ⟨2, camera { pulse := some 0 }, 0, by decide +kernel⟩,
    ⟨2, { camera { trig := [⟨1, 2, 0, none⟩] } with now := 1000000000 }, ⟨1, 2, 0, none⟩, [], by decide +kernel⟩,
    ⟨2, camera { trig := [⟨1, 2, 1, none⟩] }, by decide +kernel⟩,
    ⟨2, camera { trig := [⟨1, 2, 0, none⟩] }, by decide +kernel⟩,
    ⟨2, camera { readmit := true }, by decide +kernel⟩,
    ⟨2, camera { frames := [{ camFrame with lines := 3 }] }, { camFrame with lines := 3 }, by decide +kernel⟩,
    ⟨2, camera { frames := [camFrame] }, camFrame, by decide +kernel⟩⟩

theorem witness_camera_lines :
    (∃ (n : Fin 4) (a b : List (BitVec 12)) (pos : Int) (ts : Nat) (s : State) (x : CamFrame), (s.camState n = 1 ∧
        s.fld (R.CAMn_CTRL n) F.CAMn_CTRL_TRIGSRC = 0 ∧ s.bit (R.CAMn_CTRL n) F.CAMn_CTRL_FRAMEMODE = true) ∧
        ((s.camPort n).readmit = false ∧ (s.camPort n).frames = [x] ∧ x.dropped = none) ∧ ((s.linePixels n a
        b).length = s.linePx n) ∧ (fifoBytesHeld (s.camPort n) + 2 * s.linePx n ≤ 65536)) ∧
    (∃ (n : Fin 4) (a b : List (BitVec 12)) (pos : Int) (ts : Nat) (s : State) (x : CamFrame) (u : CamTrig) (rest :
        List CamTrig), (s.camState n = 1 ∧ s.fld (R.CAMn_CTRL n) F.CAMn_CTRL_TRIGSRC ≠ 0 ∧ s.bit (R.CAMn_CTRL n)
        F.CAMn_CTRL_FRAMEMODE = true) ∧ ((s.camPort n).readmit = false ∧ (s.camPort n).frames = [x] ∧ x.dropped =
        none ∧ (s.camPort n).trig = u :: rest) ∧ ((s.linePixels n a b).length = s.linePx n) ∧ (fifoBytesHeld
        (s.camPort n) + 2 * s.linePx n ≤ 65536)) ∧
    (∃ (n : Fin 4) (a b : List (BitVec 12)) (pos : Int) (ts : Nat) (s : State) (x : CamFrame), (s.camState n = 1 ∧
        s.fld (R.CAMn_CTRL n) F.CAMn_CTRL_TRIGSRC = 0 ∧ s.bit (R.CAMn_CTRL n) F.CAMn_CTRL_FRAMEMODE = true) ∧
        ((s.camPort n).readmit = false ∧ (s.camPort n).frames = [x] ∧ x.dropped = none) ∧ ((s.linePixels n a
        b).length ≠ s.linePx n) ∧ ((s.camPort n).stamps = [] ∧ s.fld (R.CAMn_ERR_THR n) F.CAMn_ERR_THR_ERRMAX ≠ 0)) ∧
    (∃ (n : Fin 4) (a b : List (BitVec 12)) (fv : Bool) (pos : Int) (ts : Nat) (s : State), (s.camState n = 1 ∧ s.fld
        (R.CAMn_CTRL n) F.CAMn_CTRL_TRIGSRC ≠ 0 ∧ (s.camPort n).trig = []) ∧ ((s.camPort n).readmit = false ∧
        (s.camPort n).frames = []) ∧ ((s.camPort n).stamps = [] ∧ s.fld (R.CAMn_ERR_THR n) F.CAMn_ERR_THR_ERRMAX ≠ 0)) ∧
    (∃ (n : Fin 4) (a b : List (BitVec 12)) (fv : Bool) (pos : Int) (ts : Nat) (s : State) (x : CamFrame),
        (s.camState n = 1 ∧ s.fld (R.CAMn_CTRL n) F.CAMn_CTRL_TRIGSRC = 0 ∧ s.bit (R.CAMn_CTRL n)
        F.CAMn_CTRL_FRAMEMODE = false) ∧ ((s.camPort n).count % max 1 (s.frameLines n) ≠ 0 ∧ x.lines + 1 ≠
        s.frameLines n) ∧ ((s.camPort n).readmit = false ∧ (s.camPort n).frames = [x] ∧ x.dropped = none) ∧
        ((s.linePixels n a b).length = s.linePx n) ∧ (fifoBytesHeld (s.camPort n) + 2 * s.linePx n ≤ 65536)) ∧
    (∃ (n : Fin 4) (a b : List (BitVec 12)) (fv : Bool) (pos : Int) (ts : Nat) (s : State), (s.camState n ≠ 1)) ∧
    (∃ (p : Fin 2) (s : State) (n : Nat) (px : List Nat) (pos : Int) (x : FrameInfo), (s.pipeFree p = true ∧
        s.nextPort p = some n) ∧ ((s.camPort n).work = [.line px pos x])) ∧
    (∃ (p : Fin 2) (s : State), (s.pipeFree p = false ∨ s.nextPort p = none)) :=
  ⟨⟨2, [1, 2, 3], [], 77, 5, camera { frames := [camFrame] }, camFrame, by decide +kernel⟩,
    ⟨2, [1, 2, 3], [], 77, 5, (camera { frames := [camFrame], trig := [⟨9, 2, 0, none⟩] }).setFld (R.CAMn_CTRL 2)
        F.CAMn_CTRL_TRIGSRC 9, camFrame, ⟨9, 2, 0, none⟩, [], by decide +kernel⟩,
    ⟨2, [1, 2], [], 77, 5, camera { frames := [camFrame] }, camFrame, by decide +kernel⟩,
    ⟨2, [1, 2], [], false, 77, 5, (camera {}).setFld (R.CAMn_CTRL 2) F.CAMn_CTRL_TRIGSRC 9, by decide +kernel⟩,
    ⟨2, [1, 2, 3], [], false, 77, 5, (camera { frames := [camFrame], count := 1 }).setBit (R.CAMn_CTRL 2)
        F.CAMn_CTRL_FRAMEMODE false, camFrame, by decide +kernel⟩,
    ⟨1, [1, 2], [], false, 77, 5, camera {}, by decide +kernel⟩,
    ⟨1, camera { work := [.line [1, 2, 3] 5 camFrame.info] }, 2, [1, 2, 3], 5, camFrame.info, by decide +kernel⟩,
    ⟨1, camera {}, by decide +kernel⟩⟩

theorem witness_camera_policy :
    (∃ (n : Fin 4) (b : Byte) (s : State), (s.bit (R.CAMn_SER_CFG n) F.CAMn_SER_CFG_EN = true)) ∧
    (∃ (n : Fin 4) (s : State), (s.bit (R.CAMn_SER_CFG n) F.CAMn_SER_CFG_EN = true ∧ (s.camPort n).tx ≠ []) ∧
        ((s.camPort n).txFrom + 80 * s.fld (R.CAMn_SER_CFG n) F.CAMn_SER_CFG_DIV ≤ s.now)) ∧
    (∃ (n : Fin 4) (s : State), (s.bit (R.CAMn_SER_CFG n) F.CAMn_SER_CFG_EN = false ∨ (s.camPort n).tx = [] ∨ s.now <
        (s.camPort n).txFrom + 80 * s.fld (R.CAMn_SER_CFG n) F.CAMn_SER_CFG_DIV)) ∧
    (∃ (r : Requester) (v : Word) (s : State) (a u i : Nat), (a = s.fld R.CAM_TAB_ADDR F.CAM_TAB_ADDR_TAB ∧ u = s.fld
        R.CAM_TAB_ADDR F.CAM_TAB_ADDR_UNIT ∧ i = s.fld R.CAM_TAB_ADDR F.CAM_TAB_ADDR_INDEX) ∧ (i < tabSize a ∧ (a < 3
        ∨ u < 2)) ∧ ((tabPorts a u).any (fun n => s.bit (R.CAMn_CTRL n) F.CAMn_CTRL_ARM) = false)) ∧
    (∃ (r : Requester) (v : Word) (s : State) (a u i : Nat), (a = s.fld R.CAM_TAB_ADDR F.CAM_TAB_ADDR_TAB ∧ u = s.fld
        R.CAM_TAB_ADDR F.CAM_TAB_ADDR_UNIT ∧ i = s.fld R.CAM_TAB_ADDR F.CAM_TAB_ADDR_INDEX) ∧ (tabSize a ≤ i ∨ (3 ≤ a
        ∧ 2 ≤ u)) ∧ ((tabPorts a u).any (fun n => s.bit (R.CAMn_CTRL n) F.CAMn_CTRL_ARM) = false)) ∧
    (∃ (r : Requester) (v : Word) (s : State), ((tabPorts (s.fld R.CAM_TAB_ADDR F.CAM_TAB_ADDR_TAB) (s.fld
        R.CAM_TAB_ADDR F.CAM_TAB_ADDR_UNIT)).any (fun n => s.bit (R.CAMn_CTRL n) F.CAMn_CTRL_ARM) = true)) ∧
    (∃ (r : Requester) (s : State) (a u i : Nat), (a = s.fld R.CAM_TAB_ADDR F.CAM_TAB_ADDR_TAB ∧ u = s.fld
        R.CAM_TAB_ADDR F.CAM_TAB_ADDR_UNIT ∧ i = s.fld R.CAM_TAB_ADDR F.CAM_TAB_ADDR_INDEX) ∧ (i < tabSize a ∧ (a < 3
        ∨ u < 2))) ∧
    (∃ (r : Requester) (s : State) (a u i : Nat), (a = s.fld R.CAM_TAB_ADDR F.CAM_TAB_ADDR_TAB ∧ u = s.fld
        R.CAM_TAB_ADDR F.CAM_TAB_ADDR_UNIT ∧ i = s.fld R.CAM_TAB_ADDR F.CAM_TAB_ADDR_INDEX) ∧ (tabSize a ≤ i ∨ (3 ≤ a
        ∧ 2 ≤ u))) ∧
    (∃ (r : Requester) (v : Word) (s : State), (getField F.CAM_NOZ_RETIRE_NOZ v < 101376)) ∧
    (∃ (r : Requester) (v : Word) (s : State), (101376 ≤ getField F.CAM_NOZ_RETIRE_NOZ v)) ∧
    (∃ (p : Fin 2) (s : State) (k : Nat) (l : List Byte) (g : Nat), (k = modSub (s.resSize p) (s.fld (R.Pp_RES_WR p)
        F.Pp_RES_WR_INDEX) (s.fld (R.Pp_RES_RD p) F.Pp_RES_RD_INDEX)) ∧ ((s.takeRecord p k).1 = some l) ∧ (g = leAt l
        4 4 % 2 ^ 17 ∧ g < 101376) ∧ ((leAt l 1 1).testBit 2 = false ∧ (leAt l 1 1).testBit 3 = false ∧ (leAt l 1
        1).testBit 4 = false) ∧ ((sget (fun _ => {}) s.cam.verdicts g).l0 ≠ some (leAt l 8 4)) ∧ (max 1 (s.dictVal
        0x250002) ≤ (sget (fun _ => {}) s.cam.verdicts g).fails + 1)) ∧
    (∃ (p : Fin 2) (s : State) (k : Nat) (l : List Byte) (g : Nat), (k = modSub (s.resSize p) (s.fld (R.Pp_RES_WR p)
        F.Pp_RES_WR_INDEX) (s.fld (R.Pp_RES_RD p) F.Pp_RES_RD_INDEX)) ∧ ((s.takeRecord p k).1 = some l) ∧ (g = leAt l
        4 4 % 2 ^ 17 ∧ g < 101376) ∧ ((leAt l 1 1).testBit 2 = false ∧ (leAt l 1 1).testBit 3 = false ∧ (leAt l 1
        1).testBit 4 = false) ∧ ((sget (fun _ => {}) s.cam.verdicts g).l0 ≠ some (leAt l 8 4)) ∧ ((sget (fun _ => {})
        s.cam.verdicts g).fails + 1 < max 1 (s.dictVal 0x250002))) ∧
    (∃ (s : State) (l : Nat), (s.dictVal 0x25000A ≠ 0 ∧ s.cam.measures.any (fun e => s.columnDue e.2) = true ∧
        s.toneBusy = false) ∧ (s.cam.measures.all (fun e => !s.columnDue e.2 || (s.headsOf e.1).all (fun h => !s.bit
        (R.HC_STAT h) F.HC_STAT_DERATED)) = true) ∧ (s.running = true ∧ l = lineAdd s.prepBegun 1 ∧ lineLe l
        s.prepBegun = false) ∧ (s.br.v ≤ 0 ∨ 67584 * s.br.v ≤ (s.datumPos (lineSub l s.lead) * 65536 - s.phiNow) *
        800000000)) ∧
    (∃ (s : State), (s.dictVal 0x25000A ≠ 0 ∧ s.cam.measures.any (fun e => s.columnDue e.2) = true ∧ s.toneBusy =
        false) ∧ (s.cam.measures.all (fun e => !s.columnDue e.2 || (s.headsOf e.1).all (fun h => !s.bit (R.HC_STAT h)
        F.HC_STAT_DERATED)) = true) ∧ (s.running = false)) ∧
    (∃ (s : State), (s.dictVal 0x25000A = 0 ∨ s.cam.measures.any (fun e => s.columnDue e.2) = false ∨ s.toneBusy =
        true ∨ s.cam.measures.any (fun e => s.columnDue e.2 && (s.headsOf e.1).any (fun h => s.bit (R.HC_STAT h)
        F.HC_STAT_DERATED)) = true)) :=
  ⟨⟨2, 7, (camera { rx := [1] }).setBit (R.CAMn_SER_CFG 2) F.CAMn_SER_CFG_EN true, by decide +kernel⟩,
    ⟨2, { (camera { tx := [1, 2] }).setBit (R.CAMn_SER_CFG 2) F.CAMn_SER_CFG_EN true with now := 10 ^ 9 }, by
        decide +kernel⟩,
    ⟨2, camera { tx := [1, 2] }, by decide +kernel⟩,
    ⟨.core 0, 99, State.reset, 0, 0, 0, by decide +kernel⟩,
    ⟨.core 0, 99, (State.reset.setFld R.CAM_TAB_ADDR F.CAM_TAB_ADDR_TAB 3).setFld R.CAM_TAB_ADDR F.CAM_TAB_ADDR_INDEX
        256, 3, 0, 256, by decide +kernel⟩,
    ⟨.core 0, 99, (camera {}).setFld R.CAM_TAB_ADDR F.CAM_TAB_ADDR_UNIT 2, by decide +kernel⟩,
    ⟨.core 0, State.reset, 0, 0, 0, by decide +kernel⟩,
    ⟨.core 0, (State.reset.setFld R.CAM_TAB_ADDR F.CAM_TAB_ADDR_TAB 3).setFld R.CAM_TAB_ADDR F.CAM_TAB_ADDR_INDEX
        256, 3, 0, 256, by decide +kernel⟩,
    ⟨.core 0, 101375, State.reset, by decide +kernel⟩,
    ⟨.core 0, 101376, State.reset, by decide +kernel⟩,
    ⟨0, judging 1, 1, ladderBytes, 70, by decide +kernel⟩,
    ⟨0, judging 3, 1, ladderBytes, 70, by decide +kernel⟩,
    ⟨proposing true, printing.lead, by decide +kernel⟩,
    ⟨proposing false, by decide +kernel⟩,
    ⟨State.reset, by decide +kernel⟩⟩

theorem witness_sense_adc :
    (∃ (v : BitVec 16) (s : State) (x : CalSlot), (periodOver s.cal.convAt 640 s.now = true) ∧ (s.cal.slot = some x ∧
        x.value = none ∧ x.since + 8 * s.fld R.CAL_SLOT F.CAL_SLOT_SETTLE + 640 ≤ s.now)) ∧
    (∃ (v : BitVec 16) (s : State) (q n m : Nat), (periodOver s.cal.convAt 640 s.now = true ∧ s.slotDue = none ∧
        s.cal.path = some (q, n, m)) ∧ (n + 1 < max 1 (s.fld R.CAL_TSCFG F.CAL_TSCFG_PCALN))) ∧
    (∃ (v : BitVec 16) (s : State) (h n m : Nat), (periodOver s.cal.convAt 640 s.now = true ∧ s.slotDue = none ∧
        s.cal.path = some (2 * h, n, m) ∧ s.cal.paths = []) ∧ (max 1 (s.fld R.CAL_TSCFG F.CAL_TSCFG_PCALN) = n + 1)) ∧
    (∃ (v : BitVec 16) (s : State) (h n m : Nat), (periodOver s.cal.convAt 640 s.now = true ∧ s.slotDue = none ∧
        s.cal.path = some (2 * h + 1, n, m) ∧ s.cal.paths = []) ∧ (max 1 (s.fld R.CAL_TSCFG F.CAL_TSCFG_PCALN) = n +
        1)) ∧
    (∃ (v : BitVec 16) (s : State) (h n m : Nat), (periodOver s.cal.convAt 640 s.now = true ∧ s.slotDue = none ∧
        s.cal.path = none ∧ s.nextTs = some h) ∧ (((s.cal.ts.find? (fun e => e.1 == h)).map (·.2)).getD (0, 0) = (n,
        m) ∧ n + 1 < max 1 (s.fld R.CAL_TSCFG F.CAL_TSCFG_TAVG))) ∧
    (∃ (v : BitVec 16) (s : State) (h n m : Nat), (periodOver s.cal.convAt 640 s.now = true ∧ s.slotDue = none ∧
        s.cal.path = none ∧ s.nextTs = some h) ∧ (((s.cal.ts.find? (fun e => e.1 == h)).map (·.2)).getD (0, 0) = (n,
        m) ∧ max 1 (s.fld R.CAL_TSCFG F.CAL_TSCFG_TAVG) = n + 1)) ∧
    (∃ (v : BitVec 16) (s : State), (periodOver s.cal.convAt 640 s.now = true ∧ s.slotDue = none ∧ s.cal.path = none
        ∧ s.nextTs = none)) ∧
    (∃ (v : BitVec 16) (s : State), (periodOver s.cal.convAt 640 s.now = false)) ∧
    (∃ (z : BitVec 16) (s : State), (periodOver s.cal.zeroAt 800000 s.now = false)) ∧
    (∃ (z : BitVec 16) (s : State) (l : List Int), (periodOver s.cal.zeroAt 800000 s.now = true) ∧ (l = (sext 16
        z.toNat :: s.cal.zeros).take 16)) ∧
    (∃ (s : State) (h : Nat) (l : List Nat), (s.cal.path = none ∧ allHc.filter (fun h => s.bit (R.HC_CTRL h)
        F.HC_CTRL_EN) = h :: l) ∧ (periodOver s.cal.pathAt (800000 * (1000 * s.fld R.CAL_TSCFG F.CAL_TSCFG_PCALPER))
        s.now = true)) ∧
    (∃ (s : State), (s.cal.path = none ∧ allHc.filter (fun h => s.bit (R.HC_CTRL h) F.HC_CTRL_EN) = []) ∧ (periodOver
        s.cal.pathAt (800000 * (1000 * s.fld R.CAL_TSCFG F.CAL_TSCFG_PCALPER)) s.now = true)) ∧
    (∃ (s : State), (s.cal.path ≠ none ∨ periodOver s.cal.pathAt (800000 * (1000 * s.fld R.CAL_TSCFG
        F.CAL_TSCFG_PCALPER)) s.now = false)) :=
  ⟨⟨500, { State.reset with now := 10000, cal := { State.reset.cal with slot := some ⟨9, true, none, 0⟩ } }, ⟨9,
        true, none, 0⟩, by decide +kernel⟩,
    ⟨500, { State.reset with cal := { State.reset.cal with path := some (4, 2, 900) } }, 4, 2, 900, by decide +kernel⟩,
    ⟨640, { State.reset with cal := { State.reset.cal with path := some (6, 63, 40320) } }, 3, 63, 40320, by
        decide +kernel⟩,
    ⟨640, { State.reset with cal := { State.reset.cal with path := some (7, 63, 40320) } }, 3, 63, 40320, by
        decide +kernel⟩,
    ⟨640, { heads 2 with cal := { State.reset.cal with ts := [(5, 3, 30)] } }, 5, 3, 30, by decide +kernel⟩,
    ⟨33000, { heads 1 with cal := { State.reset.cal with ts := [(5, 63, 2079000)] } }.setFld R.CAL_TSLIN
        F.CAL_TSLIN_TSSLOPE 1000, 5, 63, 2079000, by decide +kernel⟩,
    ⟨500, State.reset, by decide +kernel⟩,
    ⟨500, { State.reset with cal := { State.reset.cal with convAt := some 0 } }, by decide +kernel⟩,
    ⟨500, { State.reset with cal := { State.reset.cal with zeroAt := some 0 } }, by decide +kernel⟩,
    ⟨3, { State.reset with cal := { State.reset.cal with zeros := List.replicate 15 2 } }, (3 :: List.replicate 15
        2), by decide +kernel⟩,
    ⟨{ (heads 2).setBit (R.HC_CTRL 7) F.HC_CTRL_EN true with cal := { State.reset.cal with ts := [(5, 3, 30)] } }, 5,
        [7], by decide +kernel⟩,
    ⟨State.reset, by decide +kernel⟩,
    ⟨{ heads 2 with cal := { State.reset.cal with path := some (4, 2, 900) } }, by decide +kernel⟩⟩

theorem witness_calibration_and_trims :
    (∃ (s : State) (h : Nat) (l : List Nat), (s.bit R.CAL_CTRL F.CAL_CTRL_EN = true ∧ s.bit R.CAL_STAT
        F.CAL_STAT_BUSY = false ∧ periodOver s.cal.cycleAt (800000 * s.fld R.CAL_SCHED F.CAL_SCHED_PERIOD) s.now =
        true) ∧ ((bitList 24 (s.fld R.CAL_HCMASK F.CAL_HCMASK_HC)).dropWhile (fun h => s.hcState h == 0) = h :: l)) ∧
    (∃ (s : State), (s.bit R.CAL_CTRL F.CAL_CTRL_EN = true ∧ s.bit R.CAL_STAT F.CAL_STAT_BUSY = false ∧ periodOver
        s.cal.cycleAt (800000 * s.fld R.CAL_SCHED F.CAL_SCHED_PERIOD) s.now = true) ∧ ((bitList 24 (s.fld
        R.CAL_HCMASK F.CAL_HCMASK_HC)).dropWhile (fun h => s.hcState h == 0) = [])) ∧
    (∃ (s : State), (s.bit R.CAL_CTRL F.CAL_CTRL_EN = true ∧ s.bit R.CAL_STAT F.CAL_STAT_BUSY = true ∧ periodOver
        s.cal.cycleAt (800000 * s.fld R.CAL_SCHED F.CAL_SCHED_PERIOD) s.now = true) ∧ (s.fld R.CAL_STAT
        F.CAL_STAT_LAG < 3 ∨ s.cal.lagged = true)) ∧
    (∃ (s : State), (s.bit R.CAL_CTRL F.CAL_CTRL_EN = true ∧ s.bit R.CAL_STAT F.CAL_STAT_BUSY = true ∧ periodOver
        s.cal.cycleAt (800000 * s.fld R.CAL_SCHED F.CAL_SCHED_PERIOD) s.now = true) ∧ (s.fld R.CAL_STAT
        F.CAL_STAT_LAG = 3 ∧ s.cal.lagged = false)) ∧
    (∃ (s : State), (s.bit R.CAL_CTRL F.CAL_CTRL_EN = false ∨ periodOver s.cal.cycleAt (800000 * s.fld R.CAL_SCHED
        F.CAL_SCHED_PERIOD) s.now = false)) ∧
    (∃ (s : State) (h : Nat) (l : List Nat), (s.cal.slot = none ∧ s.cal.left = h :: l ∧ s.bit R.CAL_CTRL
        F.CAL_CTRL_EN = true ∧ s.hcState h ≠ 0)) ∧
    (∃ (s : State) (h k : Nat) (l l' : List Nat), (s.cal.slot = none ∧ s.cal.left = h :: l ∧ s.bit R.CAL_CTRL
        F.CAL_CTRL_EN = true ∧ s.hcState h = 0) ∧ (l.dropWhile (fun h => s.hcState h == 0) = k :: l')) ∧
    (∃ (s : State) (h v u : Nat) (b : Bool), (s.cal.slot = some ⟨h, b, some v, u⟩ ∧ u + s.slotTicks ≤ s.now) ∧
        ((s.cal.lo.length + (if b then 0 else 1) < s.fld R.CAL_SCHED F.CAL_SCHED_NPT) ∨ (s.cal.hi.length + (if b then
        1 else 0) < s.fld R.CAL_SCHED F.CAL_SCHED_NPT))) ∧
    (∃ (s : State), (s.cal.slot.all (fun x => decide (s.now < x.since + s.slotTicks)) = true)) ∧
    (∃ (s : State) (h u : Nat) (b : Bool), (s.cal.slot = some ⟨h, b, none, u⟩ ∧ u + s.slotTicks ≤ s.now)) ∧
    (∃ (s : State) (h : Fin 24) (v u n : Nat) (x y : Int), (s.cal.slot = some ⟨h.val, true, some v, u⟩ ∧ u +
        s.slotTicks ≤ s.now ∧ n = max 1 (s.fld R.CAL_SCHED F.CAL_SCHED_NPT) ∧ s.cal.lo.length = n ∧ s.cal.hi.length +
        1 = n) ∧ (trimChange s.cal.lo (s.cal.hi ++ [v]) (sext 16 (s.fld (R.CAL_HCh_PATH h) F.CAL_HCh_PATH_VSOFS))
        ((s.fld (R.CAL_HCh_TGT h) F.CAL_HCh_TGT_TGTLO : Nat) : Int) ((s.fld (R.CAL_HCh_TGT h) F.CAL_HCh_TGT_TGTHI :
        Nat) : Int) ((s.fld (R.CAL_HCh_PTS h) F.CAL_HCh_PTS_CODELO : Nat) : Int) ((s.fld (R.CAL_HCh_PTS h)
        F.CAL_HCh_PTS_CODEHI : Nat) : Int) = some (x, y))) ∧
    (∃ (s : State) (h : Fin 24) (v u n : Nat), (s.cal.slot = some ⟨h.val, true, some v, u⟩ ∧ u + s.slotTicks ≤ s.now
        ∧ n = max 1 (s.fld R.CAL_SCHED F.CAL_SCHED_NPT) ∧ s.cal.lo.length = n ∧ s.cal.hi.length + 1 = n) ∧
        (trimChange s.cal.lo (s.cal.hi ++ [v]) (sext 16 (s.fld (R.CAL_HCh_PATH h) F.CAL_HCh_PATH_VSOFS)) ((s.fld
        (R.CAL_HCh_TGT h) F.CAL_HCh_TGT_TGTLO : Nat) : Int) ((s.fld (R.CAL_HCh_TGT h) F.CAL_HCh_TGT_TGTHI : Nat) :
        Int) ((s.fld (R.CAL_HCh_PTS h) F.CAL_HCh_PTS_CODELO : Nat) : Int) ((s.fld (R.CAL_HCh_PTS h)
        F.CAL_HCh_PTS_CODEHI : Nat) : Int) = none)) ∧
    (∃ (h : Fin 24) (s : State) (l : Nat) (u : TrimSt), (u = sget (fun _ => ({} : TrimSt)) s.cal.trims h) ∧
        (s.hcState h = 2 ∨ s.hcState h = 3) ∧ (u.due = some l ∨ u.due = none ∧ l = lineSub (s.regN (rowNextReg h
        (s.refRowOf h))) 1 ∧ u.first.all (fun f => l != s.regN (R.CAL_HCh_LASTLINE h) && lineDist l f % ((max 1
        (s.fld R.CAL_SLOT F.CAL_SLOT_STEPLINES) : Nat) : Int) == 0) = true) ∧ (s.reg (R.CAL_HCh_NOW h) ≠ s.reg
        (R.CAL_HCh_TRIM h) ∧ s.trimFree h = true)) ∧
    (∃ (h : Fin 24) (s : State) (l : Nat) (u : TrimSt), (u = sget (fun _ => ({} : TrimSt)) s.cal.trims h) ∧
        (s.hcState h = 2 ∨ s.hcState h = 3) ∧ (u.due = some l ∨ u.due = none ∧ l = lineSub (s.regN (rowNextReg h
        (s.refRowOf h))) 1 ∧ u.first.all (fun f => l != s.regN (R.CAL_HCh_LASTLINE h) && lineDist l f % ((max 1
        (s.fld R.CAL_SLOT F.CAL_SLOT_STEPLINES) : Nat) : Int) == 0) = true) ∧ (s.reg (R.CAL_HCh_NOW h) ≠ s.reg
        (R.CAL_HCh_TRIM h) ∧ s.trimFree h = false)) ∧
    (∃ (h : Fin 24) (s : State) (l : Nat) (u : TrimSt), (u = sget (fun _ => ({} : TrimSt)) s.cal.trims h ∧ l =
        lineSub (s.regN (rowNextReg h (s.refRowOf h))) 1) ∧ ((s.hcState h ≠ 2 ∧ s.hcState h ≠ 3) ∨ s.reg
        (R.CAL_HCh_NOW h) = s.reg (R.CAL_HCh_TRIM h) ∨ u.due = none ∧ u.first.all (fun f => l != s.regN
        (R.CAL_HCh_LASTLINE h) && lineDist l f % ((max 1 (s.fld R.CAL_SLOT F.CAL_SLOT_STEPLINES) : Nat) : Int) == 0)
        = false)) :=
  ⟨⟨((heads 2).setBit R.CAL_CTRL F.CAL_CTRL_EN true).setFld R.CAL_HCMASK F.CAL_HCMASK_HC 0x31, 5, [], by
        decide +kernel⟩,
    ⟨State.reset.setBit R.CAL_CTRL F.CAL_CTRL_EN true, by decide +kernel⟩,
    ⟨((heads 2).setBit R.CAL_CTRL F.CAL_CTRL_EN true).setReg R.CAL_STAT 0x0225, by decide +kernel⟩,
    ⟨((heads 2).setBit R.CAL_CTRL F.CAL_CTRL_EN true).setReg R.CAL_STAT 0x0327, by decide +kernel⟩,
    ⟨State.reset, by decide +kernel⟩,
    ⟨({ heads 2 with cal := { State.reset.cal with left := [5, 7] } }).setBit R.CAL_CTRL F.CAL_CTRL_EN true, 5, [7],
        by decide +kernel⟩,
    ⟨({ heads 2 with cal := { State.reset.cal with left := [9, 5, 7] } }).setBit R.CAL_CTRL F.CAL_CTRL_EN true, 9, 5,
        [5, 7], [7], by decide +kernel⟩,
    ⟨{ heads 2 with now := 100000, cal := { State.reset.cal with left := [5, 7], lo := [1], slot := some ⟨5, true, some 77, 0⟩ } }, 5, 77, 0, true, by decide +kernel⟩,
    ⟨{ heads 2 with cal := { State.reset.cal with left := [5, 7], slot := some ⟨5, true, none, 0⟩ } }, by
        decide +kernel⟩,
    ⟨{ heads 2 with now := 100000, cal := { State.reset.cal with left := [5, 7], lo := [1], slot := some ⟨5, true, none, 0⟩ } }, 5, 0, true, by decide +kernel⟩,
    ⟨calibrated 48220, 9, 48220, 0, 16, 71, 13, by decide +kernel⟩,
    ⟨calibrated 65535, 9, 65535, 0, 16, by decide +kernel⟩,
    ⟨5, (heads 2).setReg (R.CAL_HCh_TRIM 5) 0x020001F0, 4294967294, {}, by decide +kernel⟩,
    ⟨5, ((heads 2).setReg (R.CAL_HCh_TRIM 5) 0x020001F0).setRow 5 0 { due := [(3, 50)] }, 4294967294, {}, by
        decide +kernel⟩,
    ⟨5, heads 2, 4294967294, {}, by decide +kernel⟩⟩

theorem witness_motion_updates :
    (∃ (s : State) (n : Fin 4) (g : Seg) (l : List Seg), (s.motNominal ≤ s.now ∧ s.mot.due = []) ∧ (s.linked = false
        ∧ s.axState n = 2 ∧ (s.ax n).safe = false ∧ (s.ax n).replan = false) ∧ (s.bit (R.MOT_AXn_SW n)
        F.MOT_AXn_SW_LNEGEN = false ∧ s.bit (R.MOT_AXn_SW n) F.MOT_AXn_SW_LPOSEN = false) ∧ ((s.ax n).plan = g :: l ∧
        (s.ax n).t + 65536 < g.dur)) ∧
    (∃ (s : State) (n : Fin 4) (g : Seg) (y : Int), (s.motNominal ≤ s.now ∧ s.mot.due = []) ∧ (s.linked = false ∧
        s.axState n = 2 ∧ (s.ax n).safe = false ∧ (s.ax n).replan = false) ∧ (s.bit (R.MOT_AXn_SW n)
        F.MOT_AXn_SW_LNEGEN = false ∧ s.bit (R.MOT_AXn_SW n) F.MOT_AXn_SW_LPOSEN = false) ∧ ((s.ax n).plan = [g] ∧
        g.dur ≤ (s.ax n).t + 65536 ∧ g.v1 = 0 ∧ (s.ax n).after = .rest ∧ (s.ax n).goal = some y)) ∧
    (∃ (s : State) (n : Fin 4) (g : Seg) (y : Int), (s.motNominal ≤ s.now ∧ s.mot.due = []) ∧ (s.linked = false ∧
        s.axState n = 2 ∧ (s.ax n).safe = false ∧ (s.ax n).replan = false) ∧ (s.bit (R.MOT_AXn_SW n)
        F.MOT_AXn_SW_LNEGEN = false ∧ s.bit (R.MOT_AXn_SW n) F.MOT_AXn_SW_LPOSEN = false) ∧ ((s.ax n).plan = [g] ∧
        g.dur ≤ (s.ax n).t + 65536 ∧ g.v1 = 0 ∧ (s.ax n).after = .reverse ∧ (s.ax n).goal = some y)) ∧
    (∃ (s : State) (n : Fin 4), (s.motNominal ≤ s.now ∧ s.mot.due = []) ∧ (s.linked = false ∧ (s.axState n = 0 ∨
        s.axState n = 6) ∧ (s.ax n).safe = false)) ∧
    (∃ (s : State), (s.motNominal ≤ s.now ∧ s.mot.due = []) ∧ (s.linked = true ∧ s.axState 1 ≠ 0 ∧ s.axState 1 ≠ 6) ∧
        ((s.axState 0 = 1 ∨ s.axState 0 = 2 ∨ s.axState 0 = 3) ∧ (s.ax 0).after = .rest)) ∧
    (∃ (s : State), (s.motNominal ≤ s.now)) ∧
    (∃ (s : State), (4 ≤ (s.now - s.motNominal) / 20000 ∧ s.mot.lagged = false ∧ s.mot.due = [] ∧ (∀ n : Fin 4,
        s.axState n = 0 ∧ (s.ax n).safe = false))) ∧
    (∃ (s : State), (s.now < s.motNominal)) ∧
    (∃ (n : Fin 4) (s : State), (s.axState n ≠ 0 ∧ s.axState n ≠ 6)) ∧
    (∃ (n : Fin 4) (a b : BitVec 12) (s : State), (s.fld (R.MOT_AXn_CURPI n) F.MOT_AXn_CURPI_IMAX = 0 ∨ max a.toNat
        b.toNat ≤ 16 * s.fld (R.MOT_AXn_CURPI n) F.MOT_AXn_CURPI_IMAX)) ∧
    (∃ (n : Fin 4) (a b : BitVec 12) (s : State), (s.fld (R.MOT_AXn_CURPI n) F.MOT_AXn_CURPI_IMAX ≠ 0 ∧ 16 * s.fld
        (R.MOT_AXn_CURPI n) F.MOT_AXn_CURPI_IMAX < max a.toNat b.toNat) ∧ (s.axState n ≠ 0 ∧ s.axState n ≠ 6)) ∧
    (∃ (n : Fin 4) (a b : BitVec 12) (s : State), ((s.axState n = 0 ∨ s.axState n = 6) ∧ (s.linked = false ∨ 2 ≤
        n.val))) ∧
    (∃ (r : Requester) (n : Fin 4) (v : Word) (s : State), (getField F.MOT_AXn_CTRL_EN v = 1 ∧ s.fld (R.MOT_AXn_CTRL
        n) F.MOT_AXn_CTRL_EN = 0)) ∧
    (∃ (r : Requester) (n : Fin 4) (v : Word) (s : State), (getField F.MOT_AXn_CTRL_EN v = 0 ∧ s.axState n ≠ 0)) ∧
    (∃ (r : Requester) (v : Word) (s : State), (getField F.MOT_AXn_CTRL_LINK v = 1 ∧ s.linked = false ∧ s.liftStill =
        true)) ∧
    (∃ (r : Requester) (v : Word) (s : State), (s.liftStill = false)) :=
  ⟨⟨axis 2 { plan := [⟨0, 0, 1048576000, 1000000, 0⟩], goal := some 5000 }, 3, ⟨0, 0, 1048576000, 1000000, 0⟩, [],
        by decide +kernel⟩,
    ⟨axis 2 { plan := [⟨0, 1048576000, 0, 1000000, 0⟩], t := 940000, goal := some 48 }, 3, ⟨0, 1048576000, 0,
        1000000, 0⟩, 48, by decide +kernel⟩,
    ⟨axis 2 { plan := [⟨0, 1048576000, 0, 1000000, 0⟩], t := 940000, goal := some (-48), after := .reverse }, 3, ⟨0,
        1048576000, 0, 1000000, 0⟩, -48, by decide +kernel⟩,
    ⟨axis 6 { x := 77 }, 3, by decide +kernel⟩,
    ⟨((((axis 2 {}).setAx 0 { plan := [⟨0, 0, 1048576000, 1000000, 0⟩], goal := some 5000 }).setAxState 0 2).setBit
        (R.MOT_AXn_CTRL 1) F.MOT_AXn_CTRL_LINK true).setReg (R.MOT_AXn_LINKOFS 1) 9, by decide +kernel⟩,
    ⟨axis 2 { x := 77 }, by decide +kernel⟩,
    ⟨{ State.reset with now := 200000, mot := { State.reset.mot with last := some 0 } }, by decide +kernel⟩,
    ⟨{ axis 2 { x := 77 } with mot := { State.reset.mot with last := some 0 } }, by decide +kernel⟩,
    ⟨3, axis 2 { x := 77 }, by decide +kernel⟩,
    ⟨3, 800, 16, axis 2 {}, by decide +kernel⟩,
    ⟨3, 801, 16, axis 2 {}, by decide +kernel⟩,
    ⟨3, 801, 16, axis 6 {}, by decide +kernel⟩,
    ⟨.core 0, 3, 1, (axis 0 { x := 77 }).setReg (R.MOT_AXn_CTRL 3) 0, by decide +kernel⟩,
    ⟨.core 0, 3, 0, axis 2 { x := 77, v := 3 }, by decide +kernel⟩,
    ⟨.core 0, BitVec.ofNat 32 (2 ^ F.MOT_AXn_CTRL_LINK.lo + 1), (State.reset.setReg (R.MOT_AXn_POS 1) 5).setReg
        (R.MOT_AXn_POS 0) 8, by decide +kernel⟩,
    ⟨.core 0, BitVec.ofNat 32 (2 ^ F.MOT_AXn_CTRL_LINK.lo + 1), State.reset.setAx 1 { v := 5 }, by decide +kernel⟩⟩

theorem witness_axis_commands :
    (∃ (r : Requester) (n : Fin 4) (s : State), (s.noCommands n = true ∨ s.badSpeeds n = true ∨ s.badTarget n (sext
        32 (s.regN (R.MOT_AXn_TGT n))) = true)) ∧
    (∃ (r : Requester) (n : Fin 4) (s : State) (g : Int), (g = sext 32 (s.regN (R.MOT_AXn_TGT n)) ∧ s.noCommands n =
        false ∧ s.badSpeeds n = false ∧ s.badTarget n g = false ∧ s.axBusy n = false)) ∧
    (∃ (r : Requester) (n : Fin 4) (s : State), (s.noCommands n = false ∧ s.badSpeeds n = false ∧ s.badTarget n (sext
        32 (s.regN (R.MOT_AXn_TGT n))) = false ∧ s.axBusy n = true)) ∧
    (∃ (r : Requester) (n : Fin 4) (s : State), (s.noCommands n = false ∧ s.axBusy n = false)) ∧
    (∃ (r : Requester) (s : State), (s.linked = true)) ∧
    (∃ (r : Requester) (n : Fin 4) (s : State), ((n.val ≠ 1 ∨ s.linked = false) ∧ (s.noCommands n = true ∨ s.axBusy n
        = true))) ∧
    (∃ (r : Requester) (n : Fin 4) (s : State), (s.noCommands n = false)) ∧
    (∃ (r : Requester) (s : State), (s.linked = true)) ∧
    (∃ (r : Requester) (n : Fin 4) (s : State), ((n.val ≠ 1 ∨ s.linked = false) ∧ s.noCommands n = true)) ∧
    (∃ (r : Requester) (n : Fin 4) (s : State), (s.axState n = 1 ∧ (s.linked = false ∨ 2 ≤ n.val) ∧ s.badSpeeds n =
        false) ∧ (0 < s.fld (R.MOT_AXn_HOME n) F.MOT_AXn_HOME_HFAST ∧ s.fld (R.MOT_AXn_HOME n) F.MOT_AXn_HOME_HFAST ≤
        20000) ∧ (0 < s.fld (R.MOT_AXn_HOME n) F.MOT_AXn_HOME_HSLOW ∧ s.fld (R.MOT_AXn_HOME n) F.MOT_AXn_HOME_HSLOW ≤
        20000)) ∧
    (∃ (r : Requester) (n : Fin 4) (s : State), (s.noCommands n = true ∨ s.linked = true ∧ n.val < 2 ∨ s.badSpeeds n
        = true ∨ s.fld (R.MOT_AXn_HOME n) F.MOT_AXn_HOME_HFAST = 0 ∨ 20000 < s.fld (R.MOT_AXn_HOME n)
        F.MOT_AXn_HOME_HFAST ∨ s.fld (R.MOT_AXn_HOME n) F.MOT_AXn_HOME_HSLOW = 0 ∨ 20000 < s.fld (R.MOT_AXn_HOME n)
        F.MOT_AXn_HOME_HSLOW)) ∧
    (∃ (r : Requester) (n : Fin 4) (s : State), (s.axState n ≠ 0 ∧ s.axState n ≠ 6 ∧ s.axState n ≠ 1 ∧ (s.linked =
        false ∨ 2 ≤ n.val) ∧ s.badSpeeds n = false) ∧ (0 < s.fld (R.MOT_AXn_HOME n) F.MOT_AXn_HOME_HFAST ∧ s.fld
        (R.MOT_AXn_HOME n) F.MOT_AXn_HOME_HFAST ≤ 20000) ∧ (0 < s.fld (R.MOT_AXn_HOME n) F.MOT_AXn_HOME_HSLOW ∧ s.fld
        (R.MOT_AXn_HOME n) F.MOT_AXn_HOME_HSLOW ≤ 20000)) ∧
    (∃ (r : Requester) (n : Fin 4) (s : State), (n.val ≠ 2 ∨ s.fld (R.MOT_AXn_CTRL 2) F.MOT_AXn_CTRL_MODE ≠ 2 ∨
        (s.axState 2 ≠ 1 ∧ s.axState 2 ≠ 2))) ∧
    (∃ (r : Requester) (s : State), (s.fld (R.MOT_AXn_CTRL 2) F.MOT_AXn_CTRL_MODE = 2 ∧ (s.axState 2 = 1 ∨ s.axState
        2 = 2))) ∧
    (∃ (r : Requester) (s : State), (s.axState 2 = 5 ∧ (s.ax 2).home = 0)) ∧
    (∃ (r : Requester) (n : Fin 4) (s : State), (n.val ≠ 2 ∨ s.axState 2 ≠ 5)) ∧
    (∃ (r : Requester) (s : State), (s.linked = true)) ∧
    (∃ (r : Requester) (n : Fin 4) (s : State), (n.val ≠ 1 ∨ s.linked = false) ∧ (s.axRef n = true ∧ (s.ax n).v = 0 ∧
        (s.ax n).plan = [] ∧ s.axState n ≠ 0 ∧ s.axState n ≠ 6)) ∧
    (∃ (r : Requester) (n : Fin 4) (s : State), (n.val ≠ 1 ∨ s.linked = false) ∧ (s.axRef n = false ∨ (s.ax n).v ≠ 0
        ∨ (s.ax n).plan ≠ [] ∨ s.axState n = 0 ∨ s.axState n = 6)) ∧
    (∃ (r : Requester) (v : Word) (s : State) (m y : Int), (s.axState 2 = 5 ∧ m = (s.ax 2).gear.lastM ∧
        s.halfWrites.find? (fun e => e.1 == R.MOT_AX2_GSCHED_LO) = none) ∧ (y = sext 64 ((s.setReg
        R.MOT_AX2_GSCHED_HI v).wide R.MOT_AX2_GSCHED_LO)) ∧ ((s.ax 2).gear.blends = [])) ∧
    (∃ (r : Requester) (v w : Word) (s : State), (s.axState 2 ≠ 5 ∧ s.halfWrites.find? (fun e => e.1 ==
        R.MOT_AX2_GSCHED_LO) = some (R.MOT_AX2_GSCHED_LO, w))) :=
  ⟨⟨.core 0, 3, axis 6 { x := 77 }, by decide +kernel⟩,
    ⟨.core 0, 3, (axis 1 { x := 77 }).setReg (R.MOT_AXn_TGT 3) 5000, 5000, by decide +kernel⟩,
    ⟨.core 0, 3, (axis 4 { x := 77 }).setReg (R.MOT_AXn_TGT 3) 5000, by decide +kernel⟩,
    ⟨.core 0, 3, axis 2 { v := 1048576000 }, by decide +kernel⟩,
    ⟨.core 0, (axis 2 { x := 77 }).setBit (R.MOT_AXn_CTRL 1) F.MOT_AXn_CTRL_LINK true, by decide +kernel⟩,
    ⟨.core 0, 3, axis 6 { x := 77 }, by decide +kernel⟩,
    ⟨.core 0, 3, (axis 2 { v := 1048576000 }).setReg (R.MOT_AXn_QDEC 3) 100000, by decide +kernel⟩,
    ⟨.core 0, (axis 2 { x := 77 }).setBit (R.MOT_AXn_CTRL 1) F.MOT_AXn_CTRL_LINK true, by decide +kernel⟩,
    ⟨.core 0, 3, axis 6 { v := 1048576000, home := 1 }, by decide +kernel⟩,
    ⟨.core 0, 3, axis 1 { x := 77 }, by decide +kernel⟩,
    ⟨.core 0, 0, (axis 1 { x := 77 }).setBit (R.MOT_AXn_CTRL 1) F.MOT_AXn_CTRL_LINK true, by decide +kernel⟩,
    ⟨.core 0, 3, axis 2 { x := 77 }, by decide +kernel⟩,
    ⟨.core 0, 3, geared 1, by decide +kernel⟩,
    ⟨.core 0, geared 1, by decide +kernel⟩,
    ⟨.core 0, geared 5, by decide +kernel⟩,
    ⟨.core 0, 3, geared 5, by decide +kernel⟩,
    ⟨.core 0, (axis 2 { x := 77 }).setBit (R.MOT_AXn_CTRL 1) F.MOT_AXn_CTRL_LINK true, by decide +kernel⟩,
    ⟨.core 0, 3, ((axis 1 { x := 77 }).setReg (R.MOT_AXn_TGT 3) 5000).setBit (R.MOT_AXn_STAT 3) F.MOT_AXn_STAT_REF
        true, by decide +kernel⟩,
    ⟨.core 0, 3, axis 1 { x := 77 }, by decide +kernel⟩,
    ⟨.core 0, 1, geared 5, 0, 4294967296, by decide +kernel⟩,
    ⟨.core 0, 1, 9, { geared 1 with halfWrites := [(R.MOT_AX2_GSCHED_LO, 9)] }, by decide +kernel⟩⟩

theorem witness_requests_let_in :
    (∃ (c : Instr) (q : Request) (op : Nat) (s : State), (requestOf c = some (q, op) ∧ s.served = false)) ∧
    (∃ (c : Instr) (q : Request) (op : Nat) (s : State) (x : Session), (requestOf c = some (q, op) ∧ s.served = true
        ∧ s.sessionOf q = some x) ∧ (q.sseq.all (fun n => decide (n.toNat ≤ 2 ^ 48 ∧ freshSeq x n.toNat = false)) =
        true)) ∧
    (∃ (c : Instr) (q : Request) (op : Nat) (s : State) (d : List Byte), (requestOf c = some (q, op) ∧ s.served =
        true ∧ (s.quiet.letIn q).1 = true ∧ (s.heard q).keptFor q = some d)) ∧
    (∃ (c : Instr) (q : Request) (op : Nat) (s : State), (requestOf c = some (q, op) ∧ c.wellFormed = true ∧ s.served
        = true ∧ (s.quiet.letIn q).1 = true ∧ (s.heard q).keptFor q = none) ∧ ((s.heard q).opServed q op = false)) :=
  ⟨⟨.groupOpen client, client, 0x10, State.reset.setPower 0, by decide +kernel⟩,
    ⟨.groupOpen (member 7), member 7, 0x10, inSession 2, sessionAt 2, by decide +kernel⟩,
    ⟨.groupOpen client, client, 0x10, { online with eth := { online.eth with kept := [((7, 9), [⟨3, [1, 2]⟩])] } },
        [1, 2], by decide +kernel⟩,
    ⟨.close client, client, 0x42, online, by decide +kernel⟩⟩

theorem witness_object_access :
    (∃ (q : Request) (index : BitVec 16) (sub : BitVec 8) (s : State), (s.accepts q 0x01 = true ∧ readStatus (s.level
        q) index.toNat sub.toNat ≠ 0)) ∧
    (∃ (q : Request) (index : BitVec 16) (sub : BitVec 8) (s : State), (s.accepts q 0x01 = true ∧ readStatus (s.level
        q) index.toNat sub.toNat = 0 ∧ objField index.toNat sub.toNat = none)) ∧
    (∃ (q : Request) (index : BitVec 16) (sub : BitVec 8) (s : State) (o : Config.FieldObject), (s.accepts q 0x01 =
        true ∧ readStatus (s.level q) index.toNat sub.toNat = 0 ∧ objField index.toNat sub.toNat = some o)) ∧
    (∃ (q : Request) (index : BitVec 16) (sub : BitVec 8) (offset : BitVec 32) (maxlen : BitVec 16) (s : State),
        (s.accepts q 0x03 = true ∧ (objInfo index.toNat sub.toNat).any (fun o => mayRead (s.level q) o && o.acc != 3
        && o.type == 13) = true)) ∧
    (∃ (q : Request) (index : BitVec 16) (sub : BitVec 8) (offset : BitVec 32) (maxlen : BitVec 16) (s : State),
        (s.accepts q 0x03 = true ∧ (objInfo index.toNat sub.toNat).any (fun o => mayRead (s.level q) o && o.acc != 3
        && o.type == 13) = false)) ∧
    (∃ (q : Request) (item : Item) (s : State), (s.accepts q 0x02 = true ∧ (s.heard q).writeStatus (s.level q)
        item.index.toNat item.sub.toNat item.type.toNat item.value ≠ 0)) ∧
    (∃ (q : Request) (item : Item) (s : State) (k : Nat), (s.accepts q 0x02 = true ∧ (s.heard q).writeStatus (s.level
        q) item.index.toNat item.sub.toNat item.type.toNat item.value = 0) ∧ (k = objKey item.index.toNat
        item.sub.toNat ∧ k ∈ [0x110002, 0x110003, 0x110004, 0x120001, 0x120005, 0x130002, 0x150005, 0x250002,
        0x250003, 0x250004, 0x250005, 0x250006, 0x250007, 0x250008, 0x250009, 0x25000A]) ∧ (dictRange k (leNat
        item.value) = true)) ∧
    (∃ (q : Request) (n : Fin 256) (value : List Byte) (s : State), (s.accepts q 0x02 = true ∧ value.length = 4 ∧
        (s.page n).state ≠ 2 ∧ (s.page n).state ≠ 3)) ∧
    (∃ (q : Request) (value : List Byte) (s : State), (s.accepts q 0x02 = true ∧ value.length = 32 ∧ (2 ≤ s.level q ∨
        s.noOwner = true))) ∧
    (∃ (q : Request) (n : BitVec 8) (s : State) (l : List Byte), (s.accepts q 0x02 = true ∧ (s.page n.toNat).state =
        1 ∧ l = ((s.heard q).pageIndex (s.page n.toNat).addr).1) ∧ ((List.range 8).any (fun d => decide ((s.page
        n.toNat).size < (indexEntry l d).1 + (indexEntry l d).2)) = false)) ∧
    (∃ (q : Request) (n : BitVec 8) (s : State), (s.accepts q 0x02 = true ∧ (s.page n.toNat).state ≠ 1)) ∧
    (∃ (q : Request) (n : BitVec 8) (s : State) (l : List Byte), (s.accepts q 0x02 = true ∧ (s.page n.toNat).state =
        1 ∧ l = ((s.heard q).pageIndex (s.page n.toNat).addr).1) ∧ ((List.range 8).any (fun d => decide ((s.page
        n.toNat).size < (indexEntry l d).1 + (indexEntry l d).2)) = true)) ∧
    (∃ (q : Request) (n : BitVec 8) (s : State), (s.accepts q 0x02 = true ∧ (s.page n.toNat).state = 2 ∧ (s.page
        n.toNat).lfirst = 0xFFFFFFFF)) ∧
    (∃ (q : Request) (n : BitVec 8) (s : State), (s.accepts q 0x02 = true ∧ ((s.page n.toNat).state ≠ 2 ∨ (s.page
        n.toNat).lfirst ≠ 0xFFFFFFFF))) ∧
    (∃ (q : Request) (s : State), (s.accepts q 0x02 = true)) ∧
    (∃ (q : Request) (objects : List (BitVec 16 × BitVec 8)) (s : State) (l : List Byte), (s.accepts q 0x20 = true ∧
        objects.all (fun e => snapStatus e.1.toNat e.2.toNat == 0) = true) ∧ (l = leBytes 4 (s.regN R.BR_SNAPLINE) ++
        objects.flatMap (fun e => itemBytes e.1.toNat e.2.toNat (objType e.1.toNat e.2.toNat) ((s.heard q).objValue
        e.1.toNat e.2.toNat ((s.heard q).kernelRead (if s.regN R.BR_SNAPLINE = 0xFFFFFFFF then s.lastFired else
        s.regN R.BR_SNAPLINE) ((s.heard q).snapWord (((objInfo e.1.toNat e.2.toNat).map (·.acc)).getD 0 == 2))))))) ∧
    (∃ (q : Request) (objects : List (BitVec 16 × BitVec 8)) (s : State) (st : Nat), (s.accepts q 0x20 = true ∧
        (objects.map (fun e => snapStatus e.1.toNat e.2.toNat)).find? (· != 0) = some st)) :=
  ⟨⟨client, 0x1430, 1, online, by decide +kernel⟩,
    ⟨member 70, 0x1300, 1, inSession 2, by decide +kernel⟩,
    ⟨client, 0x2100, 6, online, ⟨R.ENCn_POS_LO 0, 0, 64, 9, 0⟩, by decide +kernel⟩,
    ⟨client, 0x1010, 1, 0, 64, online, by decide +kernel⟩,
    ⟨client, 0x1000, 1, 0, 64, online, by decide +kernel⟩,
    ⟨client, ⟨0x1000, 1, 11, []⟩, online, by decide +kernel⟩,
    ⟨client, ⟨0x1300, 2, 3, [0x58, 2]⟩, online, 0x130002, by decide +kernel⟩,
    ⟨client, 255, [8, 1, 0, 0], online, by decide +kernel⟩,
    ⟨client, List.replicate 32 7, online, by decide +kernel⟩,
    ⟨client, 3, { online with pages := [(3, { state := 1, length := 9, size := 4096, addr := 0x2000000 })] },
        List.replicate 64 0, by decide +kernel⟩,
    ⟨client, 3, online, by decide +kernel⟩,
    ⟨client, 3, { online with pages := [(3, { state := 1, length := 9, size := 4096, addr := 0x2000000 })] }.setBytes
        0x2000000 [1, 0x10], [1, 0x10] ++ List.replicate 62 0, by decide +kernel⟩,
    ⟨client, 3, { online with pages := [(3, { state := 2 })] }, by decide +kernel⟩,
    ⟨client, 3, { online with pages := [(3, { state := 2, lfirst := 7 })] }, by decide +kernel⟩,
    ⟨client, online, by decide +kernel⟩,
    ⟨member 70, [(0x1300, 1)], inSession 2, [0xFF, 0xFF, 0xFF, 0xFF, 0, 0x13, 1, 2, 1, 0, 1, 0], by decide +kernel⟩,
    ⟨client, [(0x1300, 1), (0x1010, 1)], online, 4, by decide +kernel⟩⟩

theorem witness_transfers_and_groups :
    (∃ (q : Request) (index : BitVec 16) (sub : BitVec 8) (handle : BitVec 8) (total crc : BitVec 32) (s : State) (st
        : Nat), (s.accepts q 0x04 = true)) ∧
    (∃ (q : Request) (xfer : BitVec 16) (offset : BitVec 32) (data : List Byte) (s : State) (x : Xfer), (s.accepts q
        0x05 = true ∧ s.eth.xfers.find? (fun x => x.id == xfer.toNat && x.owner == ownerOf q) = some x) ∧
        (offset.toNat = x.data.length ∧ isStaging x.index x.sub = false ∧ 4 ≤ data.length ∧ data.length ≤ 1024 ∧
        x.data.length + data.length < x.total)) ∧
    (∃ (q : Request) (xfer : BitVec 16) (offset : BitVec 32) (data : List Byte) (s : State) (x : Xfer), (s.accepts q
        0x05 = true ∧ s.eth.xfers.find? (fun x => x.id == xfer.toNat && x.owner == ownerOf q) = some x) ∧
        (offset.toNat = x.data.length ∧ isStaging x.index x.sub = false ∧ 4 ≤ data.length ∧ data.length ≤ 1024) ∧
        (x.data.length < x.total ∧ data.length = (x.total - x.data.length + 3) / 4 * 4 ∧ crc32c (x.data ++ data.take
        (x.total - x.data.length)) ≠ x.crc)) ∧
    (∃ (q : Request) (xfer : BitVec 16) (offset : BitVec 32) (data : List Byte) (s : State) (x : Xfer), (s.accepts q
        0x05 = true ∧ s.eth.xfers.find? (fun x => x.id == xfer.toNat && x.owner == ownerOf q) = some x) ∧
        (offset.toNat ≠ x.data.length)) ∧
    (∃ (q : Request) (xfer : BitVec 16) (offset : BitVec 32) (data : List Byte) (s : State), (s.accepts q 0x05 = true
        ∧ s.eth.xfers.find? (fun x => x.id == xfer.toNat && x.owner == ownerOf q) = none)) ∧
    (∃ (q : Request) (xfer : BitVec 16) (data : List Byte) (s : State) (x : Xfer), (s.accepts q 0x05 = true ∧
        s.eth.xfers.find? (fun x => x.id == xfer.toNat && x.owner == ownerOf q) = some x) ∧ (isStaging x.index x.sub
        = true ∧ x.data = [] ∧ 4 ≤ data.length ∧ data.length ≤ 1024 ∧ data.length ≤ x.total) ∧ ((s.heard q).firstOk x
        data = false)) ∧
    (∃ (q : Request) (xfer : BitVec 16) (s : State), (s.accepts q 0x06 = true ∧ s.eth.xfers.any (fun x => x.id ==
        xfer.toNat && x.owner == ownerOf q) = true)) ∧
    (∃ (q : Request) (xfer : BitVec 16) (s : State), (s.accepts q 0x06 = true ∧ s.eth.xfers.any (fun x => x.id ==
        xfer.toNat && x.owner == ownerOf q) = false)) ∧
    (∃ (i : Nat) (s : State), (s.eth.xfers.any (fun x => x.id == i && decide (x.at_ + ms 1000 ≤ s.now)) = true)) ∧
    (∃ (i : Nat) (s : State), (s.eth.xfers.any (fun x => x.id == i && decide (x.at_ + ms 1000 ≤ s.now)) = false)) ∧
    (∃ (q : Request) (s : State) (k : Nat), (s.accepts q 0x10 = true ∧ [1, 2, 3, 4, 5, 6, 7, 8].find? (fun k =>
        (s.group k).isNone) = some k)) ∧
    (∃ (q : Request) (s : State), (s.accepts q 0x10 = true ∧ [1, 2, 3, 4, 5, 6, 7, 8].all (fun k => (s.group
        k).isSome) = true)) ∧
    (∃ (q : Request) (handle : BitVec 8) (item : Item) (s : State) (g : Group) (i : Staged), (s.accepts q 0x11 = true
        ∧ s.ownGroup (ownerOf q) handle.toNat = some g ∧ g.state = 1) ∧ ((s.heard q).stageStatus (s.level q)
        item.index.toNat item.sub.toNat item.type.toNat item.value = 0) ∧ (i = ⟨item.index.toNat, item.sub.toNat,
        none, item.value⟩)) ∧
    (∃ (q : Request) (handle : BitVec 8) (item : Item) (s : State) (g : Group), (s.accepts q 0x11 = true ∧ s.ownGroup
        (ownerOf q) handle.toNat = some g ∧ g.state = 1) ∧ ((s.heard q).stageStatus (s.level q) item.index.toNat
        item.sub.toNat item.type.toNat item.value ≠ 0)) ∧
    (∃ (q : Request) (handle : BitVec 8) (item : Item) (s : State), (s.accepts q 0x11 = true ∧ (s.ownGroup (ownerOf
        q) handle.toNat).any (fun g => g.state == 1) = false)) ∧
    (∃ (q : Request) (handle : BitVec 8) (value : BitVec 64) (s : State) (g : Group) (l : Nat), (s.accepts q 0x12 =
        true ∧ s.ownGroup (ownerOf q) handle.toNat = some g ∧ g.state = 1) ∧ (l = value.toNat % 2 ^ 32 ∧ l ≠
        0xFFFFFFFF ∧ ((s.heard q).checkGroup g.items (some l)).1 = 0)) ∧
    (∃ (q : Request) (handle : BitVec 8) (value : BitVec 64) (s : State) (g : Group) (l : Nat), (s.accepts q 0x12 =
        true ∧ s.ownGroup (ownerOf q) handle.toNat = some g ∧ g.state = 1) ∧ (l = value.toNat % 2 ^ 32 ∧ l ≠
        0xFFFFFFFF ∧ s.running = true ∧ lineLe l s.prepBegun = true)) ∧
    (∃ (q : Request) (handle kind : BitVec 8) (value : BitVec 64) (s : State), (s.accepts q 0x12 = true ∧ s.ownGroup
        (ownerOf q) handle.toNat = none)) ∧
    (∃ (q : Request) (handle : BitVec 8) (s : State) (g : Group), (s.accepts q 0x13 = true ∧ s.ownGroup (ownerOf q)
        handle.toNat = some g) ∧ (g.state ≠ 3 ∧ (g.state ≠ 2 ∨ g.wait ≠ none ∨ s.running = false ∨ lineLe g.line
        s.prepBegun = false))) ∧
    (∃ (q : Request) (handle : BitVec 8) (s : State) (g : Group), (s.accepts q 0x13 = true ∧ s.ownGroup (ownerOf q)
        handle.toNat = some g) ∧ (g.state = 3 ∨ (g.state = 2 ∧ g.wait = none ∧ s.running = true ∧ lineLe g.line
        s.prepBegun = true))) ∧
    (∃ (q : Request) (handle : BitVec 8) (s : State), (s.accepts q 0x14 = true)) ∧
    (∃ (k : Nat) (s : State) (g : Group), (s.group k = some g ∧ g.state = 2 ∧ g.wait = none)) ∧
    (∃ (k : Nat) (s : State) (g : Group), (s.group k = some g ∧ g.state = 3 ∧ g.line ≠ 0xFFFFFFFF ∧ s.running = true
        ∧ s.allFired g.line = true)) ∧
    (∃ (k : Nat) (s : State) (g : Group), (s.group k = some g ∧ g.state = 4 ∧ g.at_ + ms 10000 ≤ s.now)) ∧
    (∃ (k : Nat) (s : State), ((s.group k).all (fun g => g.state != 4 || decide (s.now < g.at_ + ms 10000)) = true)) :=
  ⟨⟨member 70, 0x1500, 1, 0, 1000, 0, inSession 2, 1, by decide +kernel⟩,
    ⟨client, 5, 0, [1, 2, 3, 4], moving 0x2200 1000 [], ⟨5, ⟨0, 7, 9⟩, 0x2200, 1, 0, 1000, 77, [], 0⟩, by
        decide +kernel⟩,
    ⟨client, 5, 2, [1, 2, 3, 4], moving 0x2200 6 [0, 0], ⟨5, ⟨0, 7, 9⟩, 0x2200, 1, 0, 6, 77, [0, 0], 0⟩, by
        decide +kernel⟩,
    ⟨client, 5, 8, [1, 2, 3, 4], moving 0x2200 1000 [], ⟨5, ⟨0, 7, 9⟩, 0x2200, 1, 0, 1000, 77, [], 0⟩, by
        decide +kernel⟩,
    ⟨client, 5, 8, [1, 2, 3, 4], online, by decide +kernel⟩,
    ⟨client, 5, [1, 2, 3, 4], moving 0x1500 1000 [], ⟨5, ⟨0, 7, 9⟩, 0x1500, 1, 0, 1000, 77, [], 0⟩, by decide +kernel⟩,
    ⟨client, 5, moving 0x2200 1000 [], by decide +kernel⟩,
    ⟨client, 6, moving 0x2200 1000 [], by decide +kernel⟩,
    ⟨5, { moving 0x1500 1000 [] with now := ms 1000 }, by decide +kernel⟩,
    ⟨5, moving 0x1500 1000 [], by decide +kernel⟩,
    ⟨client, online, 1, by decide +kernel⟩,
    ⟨client, [1, 2, 3, 4, 5, 6, 7, 8].foldl (fun s k => s.setGroup k (Group.new ⟨0, 7, 9⟩)) online, by decide +kernel⟩,
    ⟨client, 2, ⟨0x2200, 2, 8, [5, 0, 0, 0]⟩, grouped
        { Group.new ⟨0, 7, 9⟩ with items := [⟨0x2200, 2, none, [1, 0, 0, 0]⟩] },
        { Group.new ⟨0, 7, 9⟩ with items := [⟨0x2200, 2, none, [1, 0, 0, 0]⟩] }, ⟨0x2200, 2, none, [5, 0, 0, 0]⟩, by
        decide +kernel⟩,
    ⟨client, 2, ⟨0x1300, 2, 3, [5, 0]⟩, grouped (Group.new ⟨0, 7, 9⟩), Group.new ⟨0, 7, 9⟩, by decide +kernel⟩,
    ⟨client, 2, ⟨0x2200, 2, 8, [5, 0, 0, 0]⟩, grouped (Group.new ⟨0, 8, 9⟩), by decide +kernel⟩,
    ⟨client, 2, 77, grouped { Group.new ⟨0, 7, 9⟩ with items := [⟨0x2200, 2, none, [1, 0, 0, 0]⟩] },
        { Group.new ⟨0, 7, 9⟩ with items := [⟨0x2200, 2, none, [1, 0, 0, 0]⟩] }, 77, by decide +kernel⟩,
    ⟨client, 2, 0, ((printing.setPower 2).setBit R.CLKPWR_STAT F.CLKPWR_STAT_IOLOCK true).setGroup 2 (Group.new ⟨0,
        7, 9⟩), Group.new ⟨0, 7, 9⟩, 0, by decide +kernel⟩,
    ⟨client, 3, 0, 5, grouped (Group.new ⟨0, 7, 9⟩), by decide +kernel⟩,
    ⟨client, 2, grouped (Group.new ⟨0, 7, 9⟩), Group.new ⟨0, 7, 9⟩, by decide +kernel⟩,
    ⟨client, 2, grouped { Group.new ⟨0, 7, 9⟩ with state := 3 }, { Group.new ⟨0, 7, 9⟩ with state := 3 }, by
        decide +kernel⟩,
    ⟨client, 2, grouped (Group.new ⟨0, 7, 9⟩), by decide +kernel⟩,
    ⟨2, (printing.setReg (R.BR_ROWU_NEXT 0) 6).setGroup 2 { Group.new ⟨0, 7, 9⟩ with state := 2, line := 5 },
        { Group.new ⟨0, 7, 9⟩ with state := 2, line := 5 }, by decide +kernel⟩,
    ⟨2, (printing.setReg (R.BR_ROWU_NEXT 0) 6).setGroup 2 { Group.new ⟨0, 7, 9⟩ with state := 3, line := 5 },
        { Group.new ⟨0, 7, 9⟩ with state := 3, line := 5 }, by decide +kernel⟩,
    ⟨2, { grouped { Group.new ⟨0, 7, 9⟩ with state := 4 } with now := ms 10000 },
        { Group.new ⟨0, 7, 9⟩ with state := 4 }, by decide +kernel⟩,
    ⟨2, grouped { Group.new ⟨0, 7, 9⟩ with state := 4 }, by decide +kernel⟩⟩

theorem witness_subscriptions :
    (∃ (q : Request) (classes : BitVec 32) (port : BitVec 16) (s : State) (i : Nat), (s.accepts q 0x30 = true ∧
        (List.range 8).find? (fun i => (s.sub i).isNone) = some i)) ∧
    (∃ (q : Request) (classes : BitVec 32) (port : BitVec 16) (s : State), (s.accepts q 0x30 = true ∧ (List.range
        8).all (fun i => (s.sub i).isSome) = true)) ∧
    (∃ (q : Request) (i : BitVec 8) (s : State), (s.accepts q 0x31 = true)) ∧
    (∃ (q : Request) (i : BitVec 8) (eseq : BitVec 32) (s : State) (b : Subscriber), (s.accepts q 0x33 = true ∧ s.sub
        i.toNat = some b)) ∧
    (∃ (q : Request) (i : BitVec 8) (eseq : BitVec 32) (s : State), (s.accepts q 0x33 = true ∧ s.sub i.toNat = none)) ∧
    (∃ (i : Fin 8) (s : State) (b : Subscriber) (l : List EventRec), (s.sub i = some b ∧ b.unsent ≠ 0 ∧ s.served =
        true ∧ b.sid = 0) ∧ (l = (b.queue.drop (b.queue.length - b.unsent)).take 32)) ∧
    (∃ (i : Fin 8) (s : State) (b : Subscriber) (x : Session) (l : List EventRec), (s.sub i = some b ∧ b.unsent ≠ 0 ∧
        s.served = true ∧ b.sid ≠ 0) ∧ (s.sec.sessions.find? (fun x => x.sid == b.sid) = some x ∧ x.sent < 2 ^ 48) ∧
        (l = (b.queue.drop (b.queue.length - b.unsent)).take 32)) ∧
    (∃ (i : Fin 8) (s : State), ((s.sub i).all (fun b => b.unsent == 0) = true ∨ s.served = false)) ∧
    (∃ (i : Fin 8) (s : State) (b : Subscriber), (s.sub i = some b ∧ b.queue ≠ [] ∧ b.lastSend + ms 10 ≤ s.now ∧
        s.served = true ∧ b.sid = 0)) ∧
    (∃ (i : Fin 8) (s : State), ((s.sub i).all (fun b => b.queue.isEmpty || decide (s.now < b.lastSend + ms 10)) =
        true ∨ s.served = false)) ∧
    (∃ (i : Fin 8) (s : State) (b : Subscriber), (s.sub i = some b ∧ b.queue ≠ [] ∧ b.lastAck + ms 1000 ≤ s.now)) ∧
    (∃ (i : Fin 8) (s : State), ((s.sub i).all (fun b => b.queue.isEmpty || decide (s.now < b.lastAck + ms 1000)) =
        true)) :=
  ⟨⟨client, 0x3F, 5000, online, 0, by decide +kernel⟩,
    ⟨client, 0x3F, 5000, (List.range 8).foldl (fun s i => s.setSub i subscriber) online, by decide +kernel⟩,
    ⟨client, 3, online.setSub 3 subscriber, by decide +kernel⟩,
    ⟨client, 3, 0, online.setSub 3 subscriber, subscriber, by decide +kernel⟩,
    ⟨client, 3, 0, online, by decide +kernel⟩,
    ⟨3, online.setSub 3 subscriber, subscriber, [⟨0, 2, 1, 0, []⟩, ⟨1, 2, 2, 0, []⟩], by decide +kernel⟩,
    ⟨3, (inSession 2).setSub 3 { subscriber with sid := 9 }, { subscriber with sid := 9 }, sessionAt 2, [⟨0, 2, 1, 0,
        []⟩, ⟨1, 2, 2, 0, []⟩], by decide +kernel⟩,
    ⟨3, online, by decide +kernel⟩,
    ⟨3, { online.setSub 3 subscriber with now := ms 10 }, subscriber, by decide +kernel⟩,
    ⟨3, online.setSub 3 subscriber, by decide +kernel⟩,
    ⟨3, { online.setSub 3 subscriber with now := ms 1000 }, subscriber, by decide +kernel⟩,
    ⟨3, online.setSub 3 subscriber, by decide +kernel⟩⟩

theorem witness_sessions_and_network :
    (∃ (q : Request) (level : Byte) (cnonce ceph : List Byte) (s : State), (s.accepts q 0x40 = true ∧ cnonce.length =
        32 ∧ ceph.length = 64) ∧ (s.sessionOf q = none) ∧ (s.keysServed = false ∨ (level.toNat = 2 ∨ level.toNat = 3)
        ∧ 4 ≤ s.sec.sessions.length)) ∧
    (∃ (q : Request) (level : Byte) (cnonce ceph : List Byte) (s : State), (s.accepts q 0x40 = true ∧ cnonce.length =
        32 ∧ ceph.length = 64 ∧ s.keysServed = true) ∧ (level.toNat ≠ 2 ∧ level.toNat ≠ 3)) ∧
    (∃ (q : Request) (level : Byte) (cnonce ceph : List Byte) (s : State), (s.accepts q 0x40 = true ∧ cnonce.length =
        32 ∧ ceph.length = 64 ∧ s.keysServed = true) ∧ ((level.toNat = 2 ∨ level.toNat = 3) ∧ s.sec.sessions.length <
        4 ∧ s.sessionOf q = none)) ∧
    (∃ (q : Request) (anchor cert csig : List Byte) (s : State) (x : Session) (l : Nat), (s.accepts q 0x41 = true ∧
        anchor.length = 64 ∧ csig.length = 64) ∧ ((s.heard q).sessionOf q = some x)) ∧
    (∃ (q : Request) (s : State) (x : Session), (s.accepts q 0x42 = true ∧ s.sessionOf q = some x)) ∧
    (∃ (q : Request) (nonce : List Byte) (s : State), (s.accepts q 0x43 = true ∧ nonce.length = 32 ∧ s.keysServed =
        true)) ∧
    (∃ (q : Request) (nonce : List Byte) (s : State), (s.accepts q 0x43 = true ∧ nonce.length = 32 ∧ s.keysServed =
        false)) ∧
    (∃ (i : Nat) (s : State) (x : Session), (s.sec.sessions.find? (fun x => x.sid == i) = some x)) ∧
    (∃ (i : Nat) (s : State) (x : Session), (s.sec.sessions.find? (fun x => x.sid == i) = some x)) ∧
    (∃ (p : Fin 2) (f : EthFrame) (s : State), (s.served = false ∨ s.ethUp p = false ∨ 1522 < f.len)) ∧
    (∃ (p : Fin 2) (f : EthFrame) (s : State), (s.served = true ∧ s.ethUp p = true ∧ f.len ≤ 1522 ∧ f.content =
        .other ∧ s.ethUp (1 - p.val) = true) ∧ (s.eth.table.find? (fun e => e.1 == f.dst.toNat && decide (s.now <
        e.2.2 + ms 300000)) = none)) ∧
    (∃ (p : Fin 2) (src : BitVec 48) (n : Nat) (a : BitVec 32) (s : State), (s.served = true ∧ s.ethUp p = true ∧ n ≤
        1522 ∧ s.eth.ip < 2 ^ 32)) ∧
    (∃ (p : Fin 2) (src : BitVec 48) (n : Nat) (a : BitVec 32) (l : List Byte) (s : State), (s.served = true ∧
        s.ethUp p = true ∧ n ≤ 1522 ∧ s.eth.ip < 2 ^ 32)) ∧
    (∃ (p : Fin 2) (src : BitVec 48) (n : Nat) (a : BitVec 32) (sp : BitVec 16) (l : List Byte) (s : State),
        (s.served = true ∧ s.ethUp p = true ∧ n ≤ 1522 ∧ s.eth.ip < 2 ^ 32)) ∧
    (∃ (p : Fin 2) (m : PtpMsg) (residence : Nat) (err : Int) (s : State), (s.served = false ∨ s.ethUp p = false)) ∧
    (∃ (p : Fin 2) (m : PtpMsg) (residence : Nat) (err : Int) (s : State), (s.served = true ∧ s.ethUp p = true ∧
        s.ethUp (1 - p.val) = true ∧ m.domain ≠ s.dictVal 0x120001)) ∧
    (∃ (p : Fin 2) (d i : Nat) (o : Nat) (c : Int) (residence : Nat) (err : Int) (s : State), (s.served = true ∧
        s.ethUp p = true ∧ s.ethUp (1 - p.val) = true ∧ d = s.dictVal 0x120001 ∧ s.ptpSlave = true)) ∧
    (∃ (p : Fin 2) (d i : Nat) (residence : Nat) (err : Int) (s : State), (s.served = true ∧ s.ethUp p = true ∧ d =
        s.dictVal 0x120001 ∧ s.ptpSlave = false)) :=
  ⟨⟨client, 2, List.replicate 32 1, List.replicate 64 2, online.setBit R.SEC_STAT F.SEC_STAT_CERTBAD true, by
        decide +kernel⟩,
    ⟨client, 1, List.replicate 32 1, List.replicate 64 2, online, by decide +kernel⟩,
    ⟨client, 2, List.replicate 32 1, List.replicate 64 2, online, by decide +kernel⟩,
    ⟨member 70, List.replicate 64 1, [], List.replicate 64 2, inSession 0,
        { sessionAt 0 with high := 70, seen := [70, 7] }, 2, by decide +kernel⟩,
    ⟨member 70, inSession 2, sessionAt 2, by decide +kernel⟩,
    ⟨client, List.replicate 32 1, online, by decide +kernel⟩,
    ⟨client, List.replicate 32 1, online.setBit R.SEC_STAT F.SEC_STAT_CERTBAD true, by decide +kernel⟩,
    ⟨9, { inSession 0 with now := ms 5000 }, sessionAt 0, by decide +kernel⟩,
    ⟨9, { inSession 2 with now := ms 4000000 }, sessionAt 2, by decide +kernel⟩,
    ⟨1, ⟨5, 6, 64, .other⟩, State.reset.setPower 2, by decide +kernel⟩,
    ⟨1, ⟨5, 6, 64, .other⟩, online, by decide +kernel⟩,
    ⟨1, 6, 64, 77, online, by decide +kernel⟩,
    ⟨1, 6, 64, 77, [1, 2], online, by decide +kernel⟩,
    ⟨1, 6, 64, 77, 9, [1, 2], online, by decide +kernel⟩,
    ⟨1, ⟨0, 5, .other⟩, 3, 0, State.reset.setPower 2, by decide +kernel⟩,
    ⟨1, ⟨3, 5, .sync false 100 2⟩, 3, 0, online, by decide +kernel⟩,
    ⟨1, 0, 5, 100, 2, 3, 4, { online with eth := { online.eth with ptpState := 8 } }, by decide +kernel⟩,
    ⟨1, 0, 5, 3, 4, online, by decide +kernel⟩⟩

theorem witness_power_states :
    (∃ (r : Requester) (v : Word) (s : State), (getField F.CLKPWR_CTRL_SWRST v = 0 ∧ s.power ≠ 1 ∧ s.noStandby =
        true)) ∧
    (∃ (r : Requester) (v : Word) (s : State), (getField F.CLKPWR_CTRL_SWRST v = 0 ∧ s.power = 2 ∧ s.noStandby =
        false ∧ s.pwr.dormantDue = false)) ∧
    (∃ (r : Requester) (v : Word) (s : State), (getField F.CLKPWR_CTRL_SWRST v = 0 ∧ (s.power ≠ 1 ∨ s.fld
        R.CLKPWR_BOOTSTAT F.CLKPWR_BOOTSTAT_FAULT ≠ 0))) ∧
    (∃ (r : Requester) (v : Word) (s : State), (getField F.CLKPWR_CTRL_SWRST v = 0 ∧ s.power = 1 ∧ s.fld
        R.CLKPWR_BOOTSTAT F.CLKPWR_BOOTSTAT_FAULT = 0)) ∧
    (∃ (r : Requester) (v : Word) (s : State), (getField F.CLKPWR_CTRL_SWRST v = 0 ∧ s.power ≠ 0 ∧ s.noStandby =
        true)) ∧
    (∃ (r : Requester) (v : Word) (s : State), (getField F.CLKPWR_CTRL_SWRST v = 0 ∧ s.power = 1 ∧ s.noStandby =
        false)) ∧
    (∃ (k : Fin 4) (rising : Bool) (s : State), ((s.fld R.CLKPWR_WAKECFG F.CLKPWR_WAKECFG_WEN).testBit k = true ∧
        (s.fld R.CLKPWR_WAKECFG F.CLKPWR_WAKECFG_WPOL).testBit k = !rising ∧ s.pwr.vbat = true)) ∧
    (∃ (k : Fin 4) (rising : Bool) (s : State), ((s.fld R.CLKPWR_WAKECFG F.CLKPWR_WAKECFG_WEN).testBit k = false ∨
        (s.fld R.CLKPWR_WAKECFG F.CLKPWR_WAKECFG_WPOL).testBit k = rising ∨ s.pwr.vbat = false)) ∧
    (∃ (s : State), (s.bit R.CLKPWR_WAKECFG F.CLKPWR_WAKECFG_ALRMEN = true ∧ s.wide R.CLKPWR_ALARM_LO ≤ s.rtc ∧
        s.pwr.vbat = true)) ∧
    (∃ (s : State), (s.bit R.CLKPWR_WAKECFG F.CLKPWR_WAKECFG_ALRMEN = false ∨ s.rtc < s.wide R.CLKPWR_ALARM_LO ∨
        s.pwr.vbat = false)) ∧
    (∃ (s : State) (a v : Nat) (l : List (Nat × Nat)), (s.pwr.wpend = (a, v) :: l)) ∧
    (∃ (s : State), (s.pwr.wpend = [])) ∧
    (∃ (s : State), (s.inReset = false ∧ s.power ≠ 4 ∧ s.ptpSync = true ∧ s.pwr.vbat = true) ∧ (s.pwr.rtcSync.all
        (fun u => decide (u + ms 60000 ≤ s.now)) = true)) ∧
    (∃ (s : State), (s.inReset = true ∨ s.power = 4 ∨ s.ptpSync = false ∨ s.pwr.vbat = false ∨ s.pwr.rtcSync.any (fun
        u => decide (s.now < u + ms 60000)) = true)) ∧
    (∃ (s : State), (s.pwr.vbat = false)) ∧
    (∃ (s : State), (s.pwr.vbat = true)) :=
  ⟨⟨.core 0, 0, State.reset.setPower 3, by decide +kernel⟩,
    ⟨.core 0, 0, heads 1, by decide +kernel⟩,
    ⟨.core 0, 0, State.reset.setPower 3, by decide +kernel⟩,
    ⟨.core 0, 0, { (heads 0).setPower 1 with pwr := { State.reset.pwr with hcRec := 32 } }.setReg R.GRANARY_SR 0, by
        decide +kernel⟩,
    ⟨.core 0, 0, State.reset.setPower 3, by decide +kernel⟩,
    ⟨.core 0, 0, State.reset.setPower 1, by decide +kernel⟩,
    ⟨2, true, sleeping 0, by decide +kernel⟩,
    ⟨1, true, sleeping 0, by decide +kernel⟩,
    ⟨sleeping 0, by decide +kernel⟩,
    ⟨State.reset, by decide +kernel⟩,
    ⟨{ State.reset with pwr := { State.reset.pwr with wpend := [(R.CLKPWR_RETw 1, 9), (R.CLKPWR_RETw 0, 8)] } },
        R.CLKPWR_RETw 1, 9, [(R.CLKPWR_RETw 0, 8)], by decide +kernel⟩,
    ⟨State.reset, by decide +kernel⟩,
    ⟨{ online with eth := { online.eth with ptpState := 6 } }, by decide +kernel⟩,
    ⟨online, by decide +kernel⟩,
    ⟨{ sleeping 0 with pwr := { (sleeping 0).pwr with vbat := false } }, by decide +kernel⟩,
    ⟨State.reset, by decide +kernel⟩⟩

theorem witness_resets_and_start :
    (∃ (s : State), (s.pwr.porn = false)) ∧
    (∃ (s : State), (s.pwr.porn = true ∧ (s.power ≠ 4 ∨ s.pwr.cause ≠ 1))) ∧
    (∃ (s : State), (s.pwr.rstn = false)) ∧
    (∃ (s : State), (s.pwr.rstn = true)) ∧
    (∃ (r : Requester) (v : Word) (s : State), (s.inReset = false)) ∧
    (∃ (r : Requester) (v : Word) (s : State), (s.inReset = true)) ∧
    (∃ (fault : Fin 5) (s : State), (s.starting = true ∧ s.startCause fault.val = 0)) ∧
    (∃ (s : State) (fault : Fin 5) (f : Nat), (s.starting = true ∧ s.startCause fault.val = f ∧ f ≠ 0 ∧ f ≠ 3)) ∧
    (∃ (s : State), (s.starting = true)) ∧
    (∃ (s : State) (fault : Fin 5), (s.starting = false)) :=
  ⟨⟨{ State.reset with pwr := { State.reset.pwr with porn := false } }, by decide +kernel⟩,
    ⟨online, by decide +kernel⟩,
    ⟨{ State.reset with pwr := { State.reset.pwr with rstn := false } }, by decide +kernel⟩,
    ⟨online, by decide +kernel⟩,
    ⟨.core 0, 0, (printing.setPower 3).setBytes 0x8000000000 [1, 2], by decide +kernel⟩,
    ⟨.core 0, 0, State.reset.setPower 0, by decide +kernel⟩,
    ⟨0, booted, test_booted_cause⟩,
    ⟨booted, 4, 4, test_booted_fault⟩,
    ⟨State.reset, by decide +kernel⟩,
    ⟨online, 0, by decide +kernel⟩⟩

theorem witness_supply_and_clocks :
    (∃ (p : Fin 4) (s : State), ((s.power ≠ 2 ∧ s.power ≠ 3 ∧ p.val ≠ 3) ∨ s.power = 0)) ∧
    (∃ (s : State), (s.power ≠ 0)) ∧
    (∃ (p : Fin 4) (s : State), ((s.power = 2 ∨ s.power = 3) ∧ p.val ≠ 3)) ∧
    (∃ (p : Fin 4) (s : State), (p.val ≠ 1 ∧ s.power ≠ 0 ∧ s.pwr.porn = true)) ∧
    (∃ (p : Fin 4) (s : State), (s.power = 0 ∨ s.pwr.porn = false ∨ (p.val = 1 ∧ s.bit R.GRANARY_SR
        F.GRANARY_SR_IN_SR = true))) ∧
    (∃ (s : State), (s.bit R.GRANARY_SR F.GRANARY_SR_IN_SR = false ∧ s.power ≠ 0 ∧ s.pwr.porn = true)) ∧
    (∃ (s : State) (u : Nat), (s.pwr.lowSince = some u ∧ u + us (s.fld R.CLKPWR_SAGTIME F.CLKPWR_SAGTIME_FBDELAY) ≤
        s.now ∧ s.bit R.CLKPWR_STAT F.CLKPWR_STAT_CORE600 = false)) ∧
    (∃ (s : State), (s.pwr.lowSince.all (fun u => decide (s.now < u + us (s.fld R.CLKPWR_SAGTIME
        F.CLKPWR_SAGTIME_FBDELAY))) = true ∨ s.bit R.CLKPWR_STAT F.CLKPWR_STAT_CORE600 = true)) ∧
    (∃ (s : State) (u : Nat), (s.pwr.highSince = some u ∧ u + us (s.fld R.CLKPWR_SAGTIME F.CLKPWR_SAGTIME_RECOVER) ≤
        s.now ∧ s.bit R.CLKPWR_STAT F.CLKPWR_STAT_CORE600 = true)) ∧
    (∃ (s : State), (s.pwr.highSince.all (fun u => decide (s.now < u + us (s.fld R.CLKPWR_SAGTIME
        F.CLKPWR_SAGTIME_RECOVER))) = true ∨ s.bit R.CLKPWR_STAT F.CLKPWR_STAT_CORE600 = false)) :=
  ⟨⟨0, State.reset, by decide +kernel⟩,
    ⟨online, by decide +kernel⟩,
    ⟨0, online, by decide +kernel⟩,
    ⟨0, State.reset, by decide +kernel⟩,
    ⟨1, State.reset.setBit R.GRANARY_SR F.GRANARY_SR_IN_SR true, by decide +kernel⟩,
    ⟨(State.reset.setReg R.GRANARY_SR 0).setPower 6, by decide +kernel⟩,
    ⟨{ online with now := ms 1, pwr := { online.pwr with lowSince := some 0 } }, 0, by decide +kernel⟩,
    ⟨online, by decide +kernel⟩,
    ⟨{ online.setBit R.CLKPWR_STAT F.CLKPWR_STAT_CORE600 true with now := ms 100, pwr := { online.pwr with highSince := some 0 } }, 0, by decide +kernel⟩,
    ⟨online, by decide +kernel⟩⟩

theorem witness_signature_revocation_confirmation :
    (∃ (r : Requester) (v : Word) (s : State), (r ≠ .core 0)) ∧
    (∃ (v : Word) (s : State), (getField F.SEC_SIGN_CTRL_GO v = 1 ∧ s.sec.signing = none)) ∧
    (∃ (v : Word) (s : State), (getField F.SEC_SIGN_CTRL_GO v = 0 ∨ s.sec.signing ≠ none)) ∧
    (∃ (s : State) (d : List Byte), (s.sec.signing = some d)) ∧
    (∃ (s : State), (s.sec.signing = none)) ∧
    (∃ (q : Request) (k : Byte) (s : State), (s.accepts q 0x02 = true ∧ s.level q < 3)) ∧
    (∃ (q : Request) (k : Byte) (s : State), (s.accepts q 0x02 = true ∧ 3 ≤ s.level q ∧ k.toNat ≤ 2 ∧ s.act ≠ 3 ∧
        s.act ≠ 4)) ∧
    (∃ (q : Request) (k : Byte) (s : State), (s.accepts q 0x02 = true ∧ 3 ≤ s.level q ∧ (2 < k.toNat ∨ s.act = 3 ∨
        s.act = 4))) ∧
    (∃ (r : Requester) (v : Word) (s : State), (r ≠ .core 0)) ∧
    (∃ (v : Word) (s : State), (v ≠ 0x434F4E46 ∨ s.sec.trialEnd = none ∨ s.power = 4 ∨ s.fld R.CLKPWR_BOOTSTAT
        F.CLKPWR_BOOTSTAT_FAULT ≠ 0)) ∧
    (∃ (s : State) (u : Nat), (s.sec.trialEnd = some u ∧ s.power ≠ 4 ∧ s.fld R.CLKPWR_BOOTSTAT
        F.CLKPWR_BOOTSTAT_FAULT = 0)) :=
  ⟨⟨.core 1, 1, State.reset, by decide +kernel⟩,
    ⟨BitVec.ofNat 32 (2 ^ F.SEC_SIGN_CTRL_GO.lo), State.reset.setReg (R.SEC_DIGESTw 3) 0x01020304, by decide +kernel⟩,
    ⟨0, State.reset, by decide +kernel⟩,
    ⟨{ State.reset with sec := { State.reset.sec with signing := some [1, 2] } }, [1, 2], by decide +kernel⟩,
    ⟨State.reset, by decide +kernel⟩,
    ⟨client, 1, online, by decide +kernel⟩,
    ⟨member 70, 2, inSession 3, by decide +kernel⟩,
    ⟨member 70, 3, inSession 3, by decide +kernel⟩,
    ⟨.core 1, 0x434F4E46, online, by decide +kernel⟩,
    ⟨5, online, by decide +kernel⟩,
    ⟨{ online with sec := { online.sec with trialEnd := some 99 } }, 99, by decide +kernel⟩⟩

theorem witness_firmware_update :
    (∃ (q : Request) (v : BitVec 64) (s : State), (s.accepts q 0x02 = true ∧ s.level q < 2)) ∧
    (∃ (q : Request) (v : BitVec 64) (s : State), (s.accepts q 0x02 = true ∧ 2 ≤ s.level q ∧ v.toNat ≠
        0xFFFFFFFFFFFFFFFF) ∧ (s.flash.stage ≠ 2 ∨ (v.toNat ≠ 0 ∧ (s.ptpSync = false ∨ v.toNat < s.ptp +
        1000000000)))) ∧
    (∃ (q : Request) (v : BitVec 64) (s : State), (s.accepts q 0x02 = true ∧ 2 ≤ s.level q ∧ v.toNat ≠
        0xFFFFFFFFFFFFFFFF) ∧ (s.flash.stage = 2 ∧ (v.toNat = 0 ∨ (s.ptpSync = true ∧ s.ptp + 1000000000 ≤ v.toNat)))) ∧
    (∃ (q : Request) (s : State), (s.accepts q 0x02 = true ∧ 2 ≤ s.level q)) ∧
    (∃ (s : State), (s.act ≠ 1 ∨ s.flash.activate = 0 ∨ s.flash.activate = 0xFFFFFFFFFFFFFFFF ∨ s.ptp <
        s.flash.activate)) ∧
    (∃ (s : State), (s.act = 1 ∧ s.flash.activate ≠ 0 ∧ s.flash.activate ≠ 0xFFFFFFFFFFFFFFFF ∧ s.flash.activate ≤
        s.ptp)) ∧
    (∃ (s : State), (s.sec.copying = false ∨ s.power ≠ 4 ∨ s.pwr.porn = false ∨ s.pwr.rstn = false)) ∧
    (∃ (s : State) (b : Nat), (s.sec.copying = true ∧ s.power = 4 ∧ s.pwr.porn = true ∧ s.pwr.rstn = true) ∧
        ((s.flash.jStep = 1 ∧ b = 0) ∨ (s.flash.jStep = 2 ∧ b = s.flash.jBlock + 1 ∧ b < imageBlocks s.flash.active))) ∧
    (∃ (s : State) (b : Nat), (s.sec.copying = true ∧ s.power = 4 ∧ s.pwr.porn = true ∧ s.pwr.rstn = true) ∧
        ((s.flash.jStep = 2 ∧ imageBlocks s.flash.active ≤ s.flash.jBlock + 1 ∧ b = 0) ∨ (s.flash.jStep = 3 ∧ b =
        s.flash.jBlock + 1))) ∧
    (∃ (s : State) (b : Nat), (s.sec.copying = true ∧ s.power = 4 ∧ s.pwr.porn = true ∧ s.pwr.rstn = true) ∧
        ((s.flash.jStep = 6 ∧ b = 0) ∨ (s.flash.jStep = 5 ∧ b = s.flash.jBlock + 1))) ∧
    (∃ (s : State) (u : Nat), (s.sec.trialEnd = some u ∧ u ≤ s.now ∧ s.inReset = false)) ∧
    (∃ (s : State), (s.sec.trialEnd.all (fun u => decide (s.now < u)) = true ∨ s.inReset = true)) ∧
    (∃ (q : Request) (s : State), (s.accepts q 0x02 = true ∧ s.level q < 2)) ∧
    (∃ (q : Request) (s : State), (s.accepts q 0x02 = true ∧ 2 ≤ s.level q) ∧ (s.sec.trialEnd ≠ none ∨
        s.updateBlocked = true ∨ s.flash.revoked.testBit (hdrKeySlot s.flash.previous) = true ∨ hdrSecver
        s.flash.previous < s.flash.secver)) ∧
    (∃ (q : Request) (s : State), (s.accepts q 0x02 = true ∧ 2 ≤ s.level q) ∧ (s.sec.trialEnd = none ∧
        s.updateBlocked = false ∧ s.flash.revoked.testBit (hdrKeySlot s.flash.previous) = false ∧ s.flash.secver ≤
        hdrSecver s.flash.previous)) :=
  ⟨⟨client, 0, online, by decide +kernel⟩,
    ⟨member 70, 0, inSession 2, by decide +kernel⟩,
    ⟨member 70, 0, { inSession 2 with flash := { online.flash with stage := 2 } }, by decide +kernel⟩,
    ⟨member 70, (inSession 2).setAct 1, by decide +kernel⟩,
    ⟨online, by decide +kernel⟩,
    ⟨{ online.setAct 1 with flash := { online.flash with activate := 5 }, eth := { online.eth with ptpBase := 7 } },
        by decide +kernel⟩,
    ⟨online, by decide +kernel⟩,
    ⟨copying 1 [1, 2, 3] [4, 5], 0, by decide +kernel⟩,
    ⟨copying 2 [1, 2, 3] [4, 5], 0, by decide +kernel⟩,
    ⟨copying 6 [1, 2, 3] [4, 5], 0, by decide +kernel⟩,
    ⟨{ online with sec := { online.sec with trialEnd := some 0 } }, 0, by decide +kernel⟩,
    ⟨{ online with sec := { online.sec with trialEnd := some 9 } }, by decide +kernel⟩,
    ⟨client, online, by decide +kernel⟩,
    ⟨member 70, inSession 2, by decide +kernel⟩,
    ⟨member 70, { inSession 2 with eth := { online.eth with ptpState := 6 } }, by decide +kernel⟩⟩

/-! ## Ill-formed operands are refused -/

/-- An address of 40 bits and at least one byte. -/
theorem test_wf_accesses :
    (Instr.registerWrite (.core 0) (2 ^ 40) [1]).wellFormed = false ∧
    (Instr.registerWrite (.core 0) 0 []).wellFormed = false ∧
    (Instr.rcRegisterRead (.core 0) (2 ^ 40) 4 0).wellFormed = false ∧
    (Instr.rcRegisterRead (.core 0) 0 0 0).wellFormed = false ∧
    (Instr.w1cEventClear (.core 0) (2 ^ 40) 1 0).wellFormed = false ∧
    (Instr.widePairLowRead (.core 0) (2 ^ 40)).wellFormed = false ∧
    (Instr.registerWrite (.core 0) (2 ^ 40 - 1) [1]).wellFormed = true := by decide

/-- The two directions of a bit are commands of their own. -/
theorem test_wf_directions :
    (Instr.linkEnable (.core 0) 2).wellFormed = false ∧ (Instr.linkDisable (.core 0) 3).wellFormed = false ∧
    (Instr.loopEnable (.core 0) 2).wellFormed = false ∧ (Instr.loopDisable (.core 0) 1).wellFormed = false ∧
    (Instr.runStart (.core 0) 1).wellFormed = false ∧ (Instr.runStop (.core 0) 2).wellFormed = false ∧
    (Instr.runStart (.core 0) 3).wellFormed = true := by decide

/-- At most eight lanes; bursts of eight beats of nine bytes; data of the stated length. -/
theorem test_wf_link_and_dram :
    (Instr.portUp 0 (List.replicate 9 0)).wellFormed = false ∧
    (Instr.dramRequest (.dma 1) 0x8000000000 4 (some [1, 2, 3])).wellFormed = false ∧
    (Instr.dramRequest (.dma 1) 0x8000000000 0 none).wellFormed = false ∧
    (Instr.commandSlot 0 (some [[1, 2]])).wellFormed = false ∧
    (Instr.dramReadComplete 0 (some (List.replicate 7 (List.replicate 9 0)))).wellFormed = false ∧
    (Instr.dramRequest (.dma 1) 0x8000000000 4 none).wellFormed = true := by decide

/-- The bar has 101,376 nozzles. -/
theorem test_wf_nozzles :
    (Instr.slotOpen 0 [101376]).wellFormed = false ∧ (Instr.screeningPassStart 0 [101376]).wellFormed = false ∧
    (Instr.codeFrameForm 0 0 none [101376] []).wellFormed = false ∧
    (Instr.codeFrameForm 0 0 (some .decoded) [] []).wellFormed = false ∧ (Instr.slotOpen 0 [101375]).wellFormed = true := by decide

/-- SSI frames of at most 48 bits, lines of at most 16,384 pixels a tap, timestamp errors within 8 ns. -/
theorem test_wf_inputs :
    (Instr.ssiFrameReceived 0 true (List.replicate 49 true) false).wellFormed = false ∧
    (Instr.cameraLine 0 [] [] true 0 (2 ^ 64)).wellFormed = false ∧
    (Instr.ptpEventMessage 0 ⟨0, 1, .delayReq 0⟩ 0 9).wellFormed = false := by decide

/-- What the fields of a frame of Loquetu can carry. -/
theorem test_wf_requests :
    (Instr.write client ⟨0, 0, 0, List.replicate 1395 0⟩).wellFormed = false ∧
    (Instr.segWrite client 0 0 [1, 2, 3]).wellFormed = false ∧
    (Instr.groupStage client 0 ⟨0, 0, 0, List.replicate 1391 0⟩).wellFormed = false ∧
    (Instr.snapshot client (List.replicate 350 (0, 0))).wellFormed = false ∧
    (Instr.hello client 1 (List.replicate 31 0) (List.replicate 64 0)).wellFormed = false ∧
    (Instr.hello client 1 (List.replicate 32 0) []).wellFormed = false ∧
    (Instr.clientAuth client (List.replicate 64 0) [] []).wellFormed = false ∧
    (Instr.attest client []).wellFormed = false ∧
    (Instr.segWrite client 0 0 [1, 2, 3, 4]).wellFormed = true := by decide +kernel

/-! ## Worked examples of the spec -/

/-- The check value of CRC-32C for the digits 1 to 9, which its catalogue entry gives. -/
theorem test_crc32c_check_value :
    crc32c [0x31, 0x32, 0x33, 0x34, 0x35, 0x36, 0x37, 0x38, 0x39] = 0xE3069283 := by decide +kernel

/-- The check value of the CRC-64 with polynomial 0x42F0E1EBA9EA3693, all ones at start and end, for the same digits. -/
theorem test_crc64_check_value :
    crc64 [0x31, 0x32, 0x33, 0x34, 0x35, 0x36, 0x37, 0x38, 0x39] = 0x62EC59E3F1A4F00A#64 := by decide +kernel

/-- The decode example of Granary DRAM: byte 0x80_4000_0A40 of a bar with 8 Gb devices in two ranks. -/
theorem test_dram_place :
    decodeL (chanAddr false 0x40000A40).1 true 16 (chanAddr false 0x40000A40).2 = ⟨0, 0, 1, 0, 2048, 40⟩ := by decide

/-- The coding example of Miller Codec: two lines of four samples give the bytes 83 C8 52 CC. -/
theorem test_miller_encodes : encodeCoded 0 4 [[6, 6, 6, 9], [6, 6, 7, 9]] = [0x83, 0xC8, 0x52, 0xCC] := by decide +kernel

/-- The same payload decodes to the eight samples. -/
theorem test_miller_decodes :
    decodeCoded 0 4 2 [0x83, 0xC8, 0x52, 0xCC] = some [6, 6, 6, 9, 6, 6, 7, 9] := by decide +kernel

/-- The example of HC9 nozzle 2500: global 40,516, its twin 388 is global 38,404. -/
theorem test_twin_of_2500 : nozId 9 2500 = 40516 ∧ twinOf 2500 = 388 ∧ nozId 9 (twinOf 2500) = 38404 := by decide

/-- The example after R349: with mlo = 4,030 and mhi = 48,220 the new targets are GAIN 496 and OFS 499. -/
theorem test_calibration_example :
    (match exec (.calibrationSlot true) (calibrated 48220) with
      | .next t => [t.fld (R.CAL_HCh_TRIM 9) F.CAL_HCh_TRIM_GAIN, t.fld (R.CAL_HCh_TRIM 9) F.CAL_HCh_TRIM_OFS]
      | _ => []) = [496, 499] := by decide +kernel

/-- The READ example: HC16 at 47.5 °C answers the item 10 24 03 07 02 00 F8 02. -/
theorem test_read_temperature :
    (match exec (.read client 0x2410 3) (online.setReg (R.HC_TEMP 16) 760) with
      | .next t => t.eth.sent.map (fun f => match f with | .datagram _ _ l => l.drop (l.length - 8) | _ => [])
      | _ => []) = [[0x10, 0x24, 0x03, 0x07, 0x02, 0x00, 0xF8, 0x02]] := by decide +kernel

/-- The overspeed example of job Campion-9: 304,724 lines/s over a limit of 300,000 stretch the pitch to 66,568. -/
theorem test_stretch_pitch :
    ({ ((State.reset.setLoopState 3).setReg R.BR_FMAX 300000).setReg R.BR_OVS 30 with
        br := { State.reset.br with v := 304724 * 64 * 65536 } }).pitchOf 0 = (66568, 1) := by decide +kernel

/-- At 6.60 m/s, 311,811 lines/s, the line is blank. -/
theorem test_blank_line :
    ({ ((State.reset.setLoopState 3).setReg R.BR_FMAX 300000).setReg R.BR_OVS 30 with
        br := { State.reset.br with v := 311811 * 64 * 65536 } }).pitchOf 0 = (65536, 2) := by decide +kernel

/-- The response of the GROUP_ARM example: the handle, the state Armed and the line 800,000. -/
theorem test_group_arm_response :
    (match exec (.groupArm ⟨7, 9, 0, 0x2A, none⟩ 3 0 800000)
        (({ printing.setPower 2 with eth := online.eth }.setBit R.CLKPWR_STAT F.CLKPWR_STAT_IOLOCK true).setGroup 3 ⟨⟨0, 7, 9⟩, 1, [], 0, 0, none, 0, 0, 0, 0⟩) with
      | .next t => t.eth.sent.map (fun f => match f with | .datagram _ _ l => l.drop (l.length - 12) | _ => [])
      | _ => []) = [[3, 2, 0, 0, 0, 0x35, 0x0C, 0, 0, 0, 0, 0]] := by decide +kernel

/-- The index of the Hawthorn-3 example: REV = 39,997 with REVCNT = 40,000 is an error of −3, and REV restarts at 0. -/
theorem test_index_error :
    (match exec (.index 1 true) (((indexed true 39997).setReg (R.ENCn_REVCNT 1) 40000).setReg (R.ENCn_IDXPOS 1) 0) with
      | .next t => [sext 24 (t.fld (R.ENCn_IDXERR 1) F.ENCn_IDXERR_E), (t.fld (R.ENCn_REV 1) F.ENCn_REV_REV : Int)]
      | _ => []) = [-3, 0] := by decide +kernel

/-- R6: a 1 clears its event bit, and an event of the same cycle wins. -/
theorem test_w1c_clears :
    (match exec (.w1cEventClear (.core 0) (R.HC_EVT 5) 0x5 0x4) (State.reset.setReg (R.HC_EVT 5) 0xF) with
      | .next t => t.reg (R.HC_EVT 5)
      | _ => 0) = 0xE := by decide +kernel

/-- An empty queue lets time pass, and the front command of a queue acts. -/
theorem test_step_of_the_queue :
    (match step State.reset with | .next t => t.now | _ => 0) = 1 ∧
    (match step { State.reset with pending := [.rtcAlarm, .zqcsTimer] } with | .next t => t.pending | _ => []) = [.zqcsTimer] := by
  decide +kernel

end Sys2Proof.Tests
end

section
/-! PROOFS. Settles the statements of spec/00_scope.md: the queue and the good form, the register map and its access
codes, and the accesses of registers on the bus. -/

namespace Sys2Proof.Scope

open Sys2Proof.Machine Sys2Proof.Laws

/-! ## The queue and the good form -/

/-- Settles O1: `step` hands the front of the queue to `exec`. -/
theorem stepRunsFrontCommand : Obligations.StepRunsFrontCommand := fun _ _ _ => rfl

/-- Settles O5: each command's frame lemma gives its next state and keeps the queue. -/
theorem everyCommandAnswersNext : Obligations.EveryCommandAnswersNext := fun _ _ =>
  exec_keeps.imp fun _ ⟨answers, keeps⟩ => ⟨answers, keeps.queue⟩

theorem good_setPending {s : State} (h : s.Good) (q : List Instr) : State.Good { s with pending := q } :=
  ⟨h.mem, h.regs, h.log⟩

theorem exec_keeps_good {c : Instr} {s t : State} (h : s.Good) (e : exec c s = .next t) : t.Good := by
  obtain ⟨u, answers, keeps⟩ := exec_keeps (i := c) (s := s)
  obtain rfl : u = t := Host.Outcome.next.inj (answers.symm.trans e)
  exact keeps.good h

/-- Settles O4: by the front of the queue, the good form stays in a tick and in every command. -/
theorem everyStepKeepsGood : Obligations.EveryStepKeepsGood := by
  intro s t h e
  rw [step] at e
  split at e
  next =>
    obtain rfl := Host.Outcome.next.inj e
    exact tick_keeps.good h
  next c q _ => exact exec_keeps_good (good_setPending h q) e

theorem reset_good : State.reset.Good := ⟨rfl, rfl, Nat.zero_le _⟩

/-- Settles O3: after reset memory and the register table list nothing. -/
theorem resetStateIsGood : Obligations.ResetStateIsGood :=
  ⟨reset_good, rfl, rfl, fun _ => rfl, fun _ => rfl⟩

/-! ## The register map -/

/-- The register tables of the blocks (R28). -/
def registerTables : List (List RegRow) :=
  [rowsLINK, rowsDMA, rowsGRANARY, rowsMILLER, rowsHAMLET, rowsHEADCH, rowsCAM, rowsPOS, rowsBR, rowsMOTION, rowsCAL,
    rowsCLKPWR, rowsSEC, rowsFAULT]

/-- What a conditional equals, its condition decides. -/
theorem ite_eq_cases {α : Type} {c : Prop} [Decidable c] {x y z : α} (h : (if c then x else y) = z) :
    (c ∧ x = z) ∨ (¬ c ∧ y = z) := by
  by_cases k : c
  · exact .inl ⟨k, by rwa [if_pos k] at h⟩
  · exact .inr ⟨k, by rwa [if_neg k] at h⟩

/-- Table `rows` is one of the map, and its offset `o` stands for offset `x` of the register space. -/
def InTable (x : Nat) (rows : List RegRow) (o : Nat) : Prop := rows ∈ registerTables ∧ x < 0x430000 ∧ o % 4 = x % 4

/-- One branch of `blockAt`. -/
theorem inTable_of_ite {x o o' : Nat} {c : Prop} [Decidable c] {t rows : List RegRow} {e : Option (List RegRow × Nat)}
    (ht : t ∈ registerTables) (hc : c → x < 0x430000 ∧ o' % 4 = x % 4)
    (he : ¬ c → e = some (rows, o) → InTable x rows o) (h : (if c then some (t, o') else e) = some (rows, o)) :
    InTable x rows o := by
  rcases ite_eq_cases h with ⟨k, h⟩ | ⟨k, h⟩
  · obtain ⟨rfl, rfl⟩ := Prod.mk.inj (Option.some.inj h)
    exact ⟨ht, hc k⟩
  · exact he k h

theorem le_and_lt_of_decide {m x b : Nat} (h : (decide (m ≤ x) && decide (x < b)) = true) : m ≤ x ∧ x < b := by
  simpa only [Bool.and_eq_true, decide_eq_true_eq] using h

theorem blockAt_inTable {x o : Nat} {rows : List RegRow} (h : blockAt (0x100000000 + x) = some (rows, o)) :
    InTable x rows o := by
  rw [blockAt, if_neg (by omega), Nat.add_sub_cancel_left] at h
  revert h
  iterate 4 refine inTable_of_ite (by simp [registerTables]) (fun _ => by omega) fun _ => ?_
  refine inTable_of_ite (by simp [registerTables]) (fun hc => by have := le_and_lt_of_decide hc; omega) fun _ h => ?_
  rcases ite_eq_cases h with ⟨-, h⟩ | ⟨-, h⟩
  · cases h
  revert h
  iterate 9
    refine inTable_of_ite (by simp [registerTables]) (fun hc => by have := le_and_lt_of_decide hc; omega) fun _ => ?_
  intro h
  cases h

theorem base_le_of_blockAt {a o : Nat} {rows : List RegRow} (h : blockAt a = some (rows, o)) : 0x100000000 ≤ a := by
  rw [blockAt] at h
  rcases ite_eq_cases h with ⟨-, h⟩ | ⟨h, -⟩
  · cases h
  · exact Nat.le_of_not_lt h

theorem findRow_mem {rows : List RegRow} {row : RegRow} {o : Nat} {ix : List Nat}
    (h : findRow rows o = some (row, ix)) : row ∈ rows ∧ row.indices o = some ix := by
  induction rows with
  | nil => cases h
  | cons r t ih =>
    rw [findRow] at h
    split at h
    next l e =>
      cases h
      exact ⟨List.mem_cons_self, e⟩
    next => exact ⟨List.mem_cons_of_mem _ (ih h).1, (ih h).2⟩

theorem regAt_mem {a : Nat} {row : RegRow} {ix : List Nat} (h : regAt a = some (row, ix)) :
    ∃ x rows o, a = 0x100000000 + x ∧ InTable x rows o ∧ row ∈ rows ∧ row.indices o = some ix := by
  unfold regAt at h
  split at h
  next rows o e =>
    obtain ⟨x, rfl⟩ := Nat.exists_eq_add_of_le (base_le_of_blockAt e)
    exact ⟨x, rows, o, rfl, blockAt_inTable e, findRow_mem h⟩
  next => cases h

/-- The strides of a row keep its registers on multiples of 4. -/
theorem indices_go_aligned {dims : List (Nat × Nat)} {x : Nat} {ix : List Nat} (hd : ∀ d ∈ dims, d.1 % 4 = 0)
    (h : RegRow.indices.go dims x = some ix) : x % 4 = 0 := by
  induction dims generalizing x ix with
  | nil =>
    rw [RegRow.indices.go] at h
    split at h
    next h0 => rw [h0]
    next => cases h
  | cons d t ih =>
    obtain ⟨stride, count⟩ := d
    rw [RegRow.indices.go] at h
    split at h
    next =>
      obtain ⟨l, hl, -⟩ := Option.map_eq_some_iff.mp h
      have hrest : x % stride % 4 = 0 := ih (fun d hd' => hd d (List.mem_cons_of_mem _ hd')) hl
      have hstride : 4 ∣ stride := Nat.dvd_of_mod_eq_zero (hd _ List.mem_cons_self)
      rwa [Nat.mod_mod_of_dvd x hstride] at hrest
    next => cases h

theorem indices_aligned {row : RegRow} {o : Nat} {ix : List Nat} (hoff : row.off % 4 = 0)
    (hd : ∀ d ∈ row.dims, d.1 % 4 = 0) (h : row.indices o = some ix) : o % 4 = 0 := by
  rw [RegRow.indices] at h
  split at h
  next => cases h
  next =>
    have := indices_go_aligned hd h
    omega

theorem tables_aligned : ∀ rows ∈ registerTables, ∀ row ∈ rows, row.off % 4 = 0 ∧ ∀ d ∈ row.dims, d.1 % 4 = 0 := by
  decide +kernel

/-- A register stands in the register space at a multiple of 4 (R5, R28). -/
theorem regAt_place {a : Nat} (h : (regAt a).isSome = true) : 0x100000000 ≤ a ∧ a < 0x100430000 ∧ a % 4 = 0 := by
  obtain ⟨⟨row, ix⟩, h⟩ := Option.isSome_iff_exists.mp h
  obtain ⟨x, rows, o, rfl, ⟨hrows, hx, ho⟩, hrow, hix⟩ := regAt_mem h
  obtain ⟨hoff, hdims⟩ := tables_aligned rows hrows row hrow
  have := indices_aligned hoff hdims hix
  omega

/-! ## Fields of a register word by their access codes (R6, R7) -/

/-- The fields lie in the word and share no bit. -/
def Separate (fs : List Field) : Prop :=
  ∀ f ∈ fs, f.lo + f.width ≤ 32 ∧ ∀ g ∈ fs, g = f ∨ f.lo + f.width ≤ g.lo ∨ g.lo + g.width ≤ f.lo

theorem tables_separate : ∀ rows ∈ registerTables, ∀ row ∈ rows, Separate row.fields := by
  unfold Separate
  decide +kernel

theorem regAt_separate {a : Nat} {row : RegRow} {ix : List Nat} (h : regAt a = some (row, ix)) :
    Separate row.fields := by
  obtain ⟨_, rows, _, -, ⟨hrows, -⟩, hrow, -⟩ := regAt_mem h
  exact tables_separate rows hrows row hrow

theorem mask_testBit {f : Field} {i : Nat} : f.mask.testBit i = true ↔ f.lo ≤ i ∧ i < f.lo + f.width := by
  rw [Field.mask, Nat.testBit_shiftLeft, ones_testBit, Bool.and_eq_true, decide_eq_true_eq, decide_eq_true_eq]
  omega

theorem maskFold_testBit {c : Access} {fs : List Field} {n i : Nat} :
    (fs.foldl (fun m f => if f.acc = c then m ||| f.mask else m) n).testBit i = true ↔
      n.testBit i = true ∨ ∃ f ∈ fs, f.acc = c ∧ f.lo ≤ i ∧ i < f.lo + f.width := by
  induction fs generalizing n with
  | nil => simp
  | cons f t ih =>
    rw [List.foldl_cons, ih]
    by_cases hc : f.acc = c
    · simp only [hc, if_true, Nat.testBit_or, Bool.or_eq_true, mask_testBit, List.mem_cons, exists_eq_or_imp, true_and,
        or_assoc]
    · simp only [hc, if_false, List.mem_cons, exists_eq_or_imp, false_and, false_or]

/-- The bits of a mask are those of the fields that carry its access code. -/
theorem maskOf_bit {c : Access} {fs : List Field} {i : Nat} :
    (maskOf c fs).getLsbD i = true ↔ i < 32 ∧ ∃ f ∈ fs, f.acc = c ∧ f.lo ≤ i ∧ i < f.lo + f.width := by
  rw [maskOf, BitVec.getLsbD_ofNat, Bool.and_eq_true, decide_eq_true_eq, maskFold_testBit]
  simp

/-- A bit of a field is in the mask of the field's own access code alone. -/
theorem maskOf_bit_of_mem {c : Access} {fs : List Field} {f : Field} {i : Nat} (hs : Separate fs) (hf : f ∈ fs)
    (hi : i < f.width) : (maskOf c fs).getLsbD (f.lo + i) = decide (f.acc = c) := by
  obtain ⟨hword, halone⟩ := hs f hf
  rw [Bool.eq_iff_iff, maskOf_bit, decide_eq_true_eq]
  constructor
  · rintro ⟨-, g, hg, hc, hlo, hhi⟩
    rcases halone g hg with rfl | h | h
    · exact hc
    · omega
    · omega
  · exact fun hc => ⟨by omega, f, hf, hc, by omega, by omega⟩

theorem getField_testBit_lt {f : Field} {w : Word} {i : Nat} (hi : i < f.width) :
    (getField f w).testBit i = w.getLsbD (f.lo + i) := by
  rw [getField_testBit, decide_eq_true hi, Bool.true_and, BitVec.testBit_toNat]

/-- Fields are equal where their bits below the width are. -/
theorem getField_eq {f : Field} {w x : Word} (h : ∀ i < f.width, w.getLsbD (f.lo + i) = x.getLsbD (f.lo + i)) :
    getField f w = getField f x := by
  refine Nat.eq_of_testBit_eq fun i => ?_
  by_cases hi : i < f.width
  · rw [getField_testBit_lt hi, getField_testBit_lt hi, h i hi]
  · simp [getField_testBit, hi]

section AccessCodes

variable {s : State} {a : Nat} {row : RegRow} {ix : List Nat}

theorem reg_writeByCodes {v : Word} (h : regAt a = some (row, ix)) :
    (s.writeByCodes a v).reg a = writePlain row (s.reg a) v &&& ~~~(v &&& maskOf .w1c row.fields) := by
  rw [State.writeByCodes, h]
  exact reg_setReg_same

theorem reg_clearRC (h : regAt a = some (row, ix)) :
    (s.clearRC a).reg a = s.reg a &&& ~~~maskOf .rc row.fields := by
  rw [State.clearRC, h]
  exact reg_setReg_same

theorem readByCodes_eq (h : regAt a = some (row, ix)) :
    s.readByCodes a =
      s.reg a &&&
        (maskOf .ro row.fields ||| maskOf .rw row.fields ||| maskOf .w1c row.fields ||| maskOf .rc row.fields) := by
  rw [State.readByCodes, h]

variable {f : Field} {i : Nat} (h : regAt a = some (row, ix)) (hf : f ∈ row.fields) (hi : i < f.width)
include h hf hi

/-- A write by access codes, bit by bit of a field (R6). -/
theorem writeByCodes_bit {v : Word} : ((s.writeByCodes a v).reg a).getLsbD (f.lo + i) =
    if f.acc = .rw then v.getLsbD (f.lo + i)
    else (s.reg a).getLsbD (f.lo + i) && !(decide (f.acc = .w1c) && v.getLsbD (f.lo + i)) := by
  have hs := regAt_separate h
  have hlt : f.lo + i < 32 := by have := (hs f hf).1; omega
  rw [reg_writeByCodes h, writePlain]
  simp only [BitVec.getLsbD_and, BitVec.getLsbD_or, BitVec.getLsbD_not, maskOf_bit_of_mem hs hf hi, hlt,
    decide_true, Bool.true_and]
  cases f.acc <;> simp

/-- A read by access codes, bit by bit of a field (R6). -/
theorem readByCodes_bit : (s.readByCodes a).getLsbD (f.lo + i) =
    ((s.reg a).getLsbD (f.lo + i) && !decide (f.acc = .wo)) := by
  have hs := regAt_separate h
  rw [readByCodes_eq h]
  simp only [BitVec.getLsbD_and, BitVec.getLsbD_or, maskOf_bit_of_mem hs hf hi]
  cases f.acc <;> simp

/-- The clear of a read, bit by bit of a field (R6). -/
theorem clearRC_bit : ((s.clearRC a).reg a).getLsbD (f.lo + i) =
    ((s.reg a).getLsbD (f.lo + i) && !decide (f.acc = .rc)) := by
  have hs := regAt_separate h
  have hlt : f.lo + i < 32 := by have := (hs f hf).1; omega
  rw [reg_clearRC h]
  simp only [BitVec.getLsbD_and, BitVec.getLsbD_not, maskOf_bit_of_mem hs hf hi, hlt, decide_true, Bool.true_and]

end AccessCodes

/-- A bit of no field reads 0 (R7). -/
theorem readByCodes_reserved {s : State} {a i : Nat} {row : RegRow} {ix : List Nat} (h : regAt a = some (row, ix))
    (hi : ∀ f ∈ row.fields, i < f.lo ∨ f.lo + f.width ≤ i) : (s.readByCodes a).getLsbD i = false := by
  have hmask : ∀ c, (maskOf c row.fields).getLsbD i = false := fun c => by
    rw [← Bool.not_eq_true, maskOf_bit]
    rintro ⟨-, f, hf, -, hlo, hhi⟩
    have := hi f hf
    omega
  simp [readByCodes_eq h, BitVec.getLsbD_and, BitVec.getLsbD_or, hmask]

/-- Settles O6: the bits of a field lie in the mask of its own access code alone, so the masks of the operations act on
each field as its code says. -/
theorem accessCodesOfEveryField : Obligations.AccessCodesOfEveryField := by
  intro a row ix h s v
  refine ⟨fun f hf => ⟨fun hc => ?_, fun hc => ?_, fun hc i hi => ?_, fun hc => ?_, fun hc => ?_, fun hc => ?_⟩,
    fun i _ hfree => ?_⟩
  · exact getField_eq fun i hi => by rw [writeByCodes_bit h hf hi, if_pos hc]
  · refine getField_eq fun i hi => ?_
    rw [writeByCodes_bit h hf hi]
    rcases hc with hc | hc | hc <;> simp [hc]
  · rw [State.fld, State.fld, getField_testBit_lt hi, getField_testBit_lt hi, getField_testBit_lt hi,
      writeByCodes_bit h hf hi]
    simp [hc]
  · exact getField_eq fun i hi => by simp [readByCodes_bit h hf hi, hc]
  · rw [getField_eq (x := 0) fun i hi => by simp [readByCodes_bit h hf hi, hc]]
    simp [getField]
  · rw [State.fld, getField_eq (x := 0) fun i hi => by simp [clearRC_bit h hf hi, hc]]
    simp [getField]
  · rw [BitVec.testBit_toNat, readByCodes_reserved h hfree]

/-! ## Accesses of a register on the bus (R5, R28) -/

section Bus

variable {s : State} {r : Requester} {a : Nat}

theorem rangeRegion_regs {n : Nat} (hlow : 0x100000000 ≤ a) (hhigh : a + (n - 1) < 0x200000000) :
    s.rangeRegion a n = some .regs := by
  have hregion : ∀ b, 0x100000000 ≤ b → b < 0x200000000 → s.region b = some .regs := fun b h1 h2 => by
    rw [State.region, if_neg (by omega), if_neg (by simp only [Bool.and_eq_true, decide_eq_true_eq]; omega),
      if_neg (by simp only [Bool.and_eq_true, decide_eq_true_eq]; omega),
      if_pos (by simp only [Bool.and_eq_true, decide_eq_true_eq]; omega)]
  simp [State.rangeRegion, hregion a hlow (by omega), hregion (a + (n - 1)) (by omega) hhigh]

theorem leNat_leBytes {n v : Nat} : leNat (leBytes n v) = v % 256 ^ n := by
  induction n generalizing v with
  | zero => simp [leBytes, leNat, Nat.mod_one]
  | succ n ih =>
    rw [leBytes, leNat, ih, BitVec.toNat_ofNat, Nat.pow_succ' (m := 256), Nat.mod_mul]

theorem word_of_bytes {v : Word} : BitVec.ofNat 32 (leNat (leBytes 4 v.toNat)) = v := by
  have hlt : v.toNat < 256 ^ 4 := v.isLt
  rw [leNat_leBytes, Nat.mod_eq_of_lt hlt, BitVec.ofNat_toNat, BitVec.setWidth_eq]

/-- A write of 4 bytes at a register's address is a write of the register (R5). -/
theorem busWrite_register {v : Word} (h : (regAt a).isSome = true) :
    s.busWrite r a (leBytes 4 v.toNat) = s.regWrite r a v := by
  obtain ⟨hlow, hhigh, halign⟩ := regAt_place h
  have hregion : s.rangeRegion a 4 = some .regs := rangeRegion_regs hlow (by omega)
  have hnone : (regAt a).isNone = false := Option.isNone_eq_false_iff.mpr h
  rw [State.busWrite, if_neg (by simp [leBytes]), leBytes_length]
  simp only [hregion]
  rw [if_neg (by omega), if_neg (by simp [hnone]), word_of_bytes]

/-- A read of 4 bytes at a register's address is a read of the register (R5). -/
theorem busRead_register (h : (regAt a).isSome = true) : s.busRead r a 4 = s.regRead r a := by
  obtain ⟨hlow, hhigh, halign⟩ := regAt_place h
  have hregion : s.rangeRegion a 4 = some .regs := rangeRegion_regs hlow (by omega)
  have hnone : (regAt a).isNone = false := Option.isNone_eq_false_iff.mpr h
  rw [State.busRead, if_neg (by omega)]
  simp only [hregion]
  rw [if_neg (by omega), if_neg (by simp [hnone])]

/-- The register at `a` is read without an effect of its own: it is the low word of no pair, and no FIFO, table or drawn
value stands behind it. -/
def PlainRead (a : Nat) : Prop :=
  pairLow a = false ∧ a ≠ R.GRANARY_ERRLOG3 ∧ a ≠ R.GRANARY_DLY_DATA ∧
    ¬ (a = R.GRANARY_CHc_QUEUE 0 ∨ a = R.GRANARY_CHc_QUEUE 1) ∧ a ≠ R.MILLER_ENCe_RES2 0 ∧ a ≠ R.MILLER_ENCe_RES2 1 ∧
    a ≠ R.CAM_TAB_DATA ∧ ¬ (R.CAMn_CTRL 0 ≤ a ∧ a < R.Pp_CTRL 0 ∧ (a - R.CAMn_CTRL 0) % 0x80 = 0x34) ∧
    ¬ (R.MARKi_CFG 0 ≤ a ∧ a < R.CMPj_CTRL 0 ∧ (a - R.MARKi_CFG 0) % 0x20 = 0x10) ∧ a ≠ R.CLKPWR_GATE

theorem regRead_plain (h : PlainRead a) :
    s.regRead r a = (s.clearRC a).okResp r (leBytes 4 (s.readWord a).toNat) := by
  obtain ⟨hpair, herrlog, hdelay, hqueue, hres0, hres1, htab, hserial, hmark, hgate⟩ := h
  rw [State.regRead, if_neg (by simp [hpair]), if_neg herrlog, if_neg hdelay, if_neg hqueue, if_neg hres0, if_neg hres1,
    if_neg htab, if_neg hserial, if_neg hmark, if_neg hgate]

theorem regRead_pairLow (h : pairLow a = true) :
    s.regRead r a = (s.latchHigh a).okResp r (leBytes 4 (s.readWord a).toNat) := by
  rw [State.regRead, if_pos h]

end Bus

theorem clearRC_keeps_any {s : State} {a : Nat} : Keeps [] [.any] s (s.clearRC a) :=
  clearRC_keeps keeps_refl (covers .any trivial)

/-! ## Event registers (R6, R402) -/

section

variable {s : State} {r : Requester} {v : Word} {k x : Nat}

theorem regWrite_hamlet (hk : k < 4) (hx : x < 0x10000) :
    s.regWrite r (0x100100000 + 0x10000 * k + x) v = s.hamletWrite r k (0x100100000 + 0x10000 * k + x) v := by
  have hunit : (0x100100000 + 0x10000 * k + x - 0x100000000 - 0x100000) / 0x10000 = k := by omega
  rw [State.regWrite, if_neg (by omega), if_neg (by omega), if_neg (by omega), if_neg (by omega), if_pos (by omega),
    hunit]

theorem regWrite_head (hk : k < 24) (hx : x < 0x1000) :
    s.regWrite r (0x100180000 + 0x1000 * k + x) v = s.headWrite r k (0x100180000 + 0x1000 * k + x) v := by
  have hunit : (0x100180000 + 0x1000 * k + x - 0x100000000 - 0x180000) / 0x1000 = k := by omega
  rw [State.regWrite, if_neg (by omega), if_neg (by omega), if_neg (by omega), if_neg (by omega), if_neg (by omega),
    if_pos (by omega), hunit]

theorem regWrite_HAM_EVT (hk : k < 4) :
    s.regWrite r (R.HAM_EVT k) v = (s.writeByCodes (R.HAM_EVT k) v).written r := by
  have ha : R.HAM_EVT k = 0x100100000 + 0x10000 * k + 0x10 := by rw [R.HAM_EVT]; omega
  have hlead : R.HAM_EVT k ≠ R.HAM_LEAD k := by rw [ha, R.HAM_LEAD]; omega
  have hcfg : R.HAM_EVT k < R.WEAVER_CFG k := by rw [ha, R.WEAVER_CFG]; omega
  rw [ha, regWrite_hamlet hk (by decide), ← ha, State.hamletWrite, if_neg hlead, if_pos hcfg]

theorem regWrite_WEAVER_EVT (hk : k < 4) :
    s.regWrite r (R.WEAVER_EVT k) v = (s.writeByCodes (R.WEAVER_EVT k) v).written r := by
  have ha : R.WEAVER_EVT k = 0x100100000 + 0x10000 * k + 0x13c := by rw [R.WEAVER_EVT]; omega
  have hlead : R.WEAVER_EVT k ≠ R.HAM_LEAD k := by rw [ha, R.HAM_LEAD]; omega
  have hcfg : ¬ R.WEAVER_EVT k < R.WEAVER_CFG k := by rw [ha, R.WEAVER_CFG]; omega
  rw [ha, regWrite_hamlet hk (by decide), ← ha, State.hamletWrite, if_neg hlead, if_neg hcfg, if_pos (.inl rfl)]

theorem regWrite_HC_EVT (hk : k < 24) :
    s.regWrite r (R.HC_EVT k) v = (s.writeByCodes (R.HC_EVT k) v).written r := by
  have ha : R.HC_EVT k = 0x100180000 + 0x1000 * k + 8 := by rw [R.HC_EVT]; omega
  have hctrl : R.HC_EVT k ≠ R.HC_CTRL k := by rw [ha, R.HC_CTRL]; omega
  have hscan : R.HC_EVT k ≠ R.HC_SCAN_CFG k := by rw [ha, R.HC_SCAN_CFG]; omega
  rw [ha, regWrite_head hk (by decide), ← ha, State.headWrite, if_neg hctrl, if_neg hscan, if_pos (.inl rfl)]

end

/-- In every block a write of an event register goes by its access codes alone. -/
theorem regWrite_event {s : State} {r : Requester} {v : Word} {a e : Nat} (h : (a, e) ∈ eventPairs)
    (ha : a ≠ R.SEC_EVT) : s.regWrite r a v = (s.writeByCodes a v).written r := by
  simp only [eventPairs, List.mem_append, List.mem_cons, List.not_mem_nil, or_false, List.mem_flatMap, List.mem_map,
    List.mem_range, Prod.mk.injEq] at h
  rcases h with (h | ⟨k, hk, ⟨rfl, -⟩ | ⟨rfl, -⟩⟩) | ⟨k, hk, rfl, -⟩
  · iterate 13
      rcases h with ⟨rfl, -⟩ | h
      · rfl
    exact absurd h.1 ha
  · exact regWrite_HAM_EVT hk
  · exact regWrite_WEAVER_EVT hk
  · exact regWrite_HC_EVT hk

theorem eventPairs_fields :
    ∀ p ∈ eventPairs, (regAt p.1).all (fun x => maskOf .rw x.1.fields == 0#32) = true := by
  decide +kernel

theorem writePlain_of_no_rw {row : RegRow} {old v : Word} (h : maskOf .rw row.fields = 0#32) :
    writePlain row old v = old := by
  simp only [writePlain, h, BitVec.not_zero, BitVec.and_allOnes, BitVec.and_zero, BitVec.or_zero]

@[simp] theorem reg_written {s : State} {r : Requester} {a : Nat} : (s.written r).reg a = s.reg a := rfl

@[simp] theorem reg_okResp {s : State} {r : Requester} {a : Nat} {l : List Byte} : (s.okResp r l).reg a = s.reg a := rfl

/-- W1C_EVENT_CLEAR of an event register: the write by access codes, then what hardware sets (R6). -/
theorem exec_w1cEventClear {s : State} {r : Requester} {v hw : Word} {a e : Nat} {row : RegRow} {ix : List Nat}
    (h : (a, e) ∈ eventPairs) (ha : a ≠ R.SEC_EVT) (hr : regAt a = some (row, ix)) :
    exec (.w1cEventClear r a v hw) s = .next (((s.writeByCodes a v).written r).setReg a
      ((s.writeByCodes a v).reg a ||| (hw &&& maskOf .w1c row.fields))) := by
  have hsome : (regAt a).isSome = true := by rw [hr]; rfl
  have halign := (regAt_place hsome).2.2
  change execW1cEventClear r a v hw s = _
  rw [execW1cEventClear, busWrite_register hsome, regWrite_event h ha]
  simp only [hr, halign, ne_eq, not_true_eq_false, if_false, reg_written]

/-- What a change of one register beside the answer leaves as it is. -/
theorem keeps_setReg_frame {s t : State} {a : Nat} {w : Word} (h : Keeps [.resp] [.any] s t)
    (hreg : ∀ b, b ≠ a → t.reg b = s.reg b) :
    (∀ b, b ≠ a → (t.setReg a w).reg b = s.reg b) ∧ (∀ p : Part, p ≠ .resp → p.same s (t.setReg a w)) ∧
      (t.setReg a w).pending = s.pending := by
  have hk : Keeps [.resp] [.any] s (t.setReg a w) := keeps_setReg h (covers .any trivial)
  exact ⟨fun b hb => (reg_setReg_other hb).trans (hreg b hb), fun p hp => hk.parts p (by simpa using hp), hk.queue⟩

theorem reg_writeByCodes_other {s : State} {a b : Nat} {v : Word} (h : b ≠ a) : (s.writeByCodes a v).reg b = s.reg b := by
  unfold State.writeByCodes
  split
  · exact reg_setReg_other h
  · rfl

theorem reg_clearRC_other {s : State} {a b : Nat} (h : b ≠ a) : (s.clearRC a).reg b = s.reg b := by
  unfold State.clearRC
  split
  · exact reg_setReg_other h
  · rfl

theorem eventRegister_clears (r : Requester) (a e : Nat) (v hw : Word) (s : State) (row : RegRow) (ix : List Nat)
    (h : (a, e) ∈ eventPairs) (ha : a ≠ R.SEC_EVT) (hr : regAt a = some (row, ix)) :
    Answers (.w1cEventClear r a v hw) s fun t =>
      t.reg a = (s.reg a &&& ~~~(v &&& maskOf .w1c row.fields)) ||| (hw &&& maskOf .w1c row.fields) ∧
      t.resp = some ⟨reqCode r, true, []⟩ ∧ (∀ b, b ≠ a → t.reg b = s.reg b) ∧ (∀ p : Part, p ≠ .resp → p.same s t) ∧
      t.pending = s.pending := by
  have hmask : maskOf .rw row.fields = 0#32 := by simpa [hr] using eventPairs_fields _ h
  have hk : Keeps [.resp] [.any] s ((s.writeByCodes a v).written r) :=
    keeps_step (writeByCodes_keeps keeps_refl (covers .any trivial)) written_keeps
  refine ⟨_, exec_w1cEventClear h ha hr, ?_, rfl, keeps_setReg_frame hk fun b hb => reg_writeByCodes_other hb⟩
  rw [reg_setReg_same, reg_writeByCodes hr, writePlain_of_no_rw hmask]

/-! ## Error counters of the link (R6, R73) -/

/-- The error counters of the ports and lanes of the link. -/
def linkCounters : List Nat :=
  (List.range 2).flatMap (fun p => [R.LINK_Pp_CRCERR p, R.LINK_Pp_NAKTX p, R.LINK_Pp_NAKRX p, R.LINK_Pp_DUP p,
    R.LINK_Pp_SEQERR p]) ++
  (List.range 8).flatMap (fun n => [R.LINK_LANEn_CODEERR n, R.LINK_LANEn_DISPERR n])

theorem mem_linkCounters {a i : Nat} (h : a = R.LINK_Pp_CRCERR i ∨ a = R.LINK_Pp_NAKTX i ∨ a = R.LINK_Pp_NAKRX i ∨
    a = R.LINK_Pp_DUP i ∨ a = R.LINK_Pp_SEQERR i ∨ a = R.LINK_LANEn_CODEERR i ∨ a = R.LINK_LANEn_DISPERR i) :
    a ∈ linkCounters := by
  simp only [linkCounters, List.mem_append, List.mem_flatMap, List.mem_range]
  rcases h with h | h | h | h | h | h | h
  iterate 5
    exact .inl ⟨i % 2, Nat.mod_lt _ (by decide), by
      simp [h, R.LINK_Pp_CRCERR, R.LINK_Pp_NAKTX, R.LINK_Pp_NAKRX, R.LINK_Pp_DUP, R.LINK_Pp_SEQERR]⟩
  iterate 2
    exact .inr ⟨i % 8, Nat.mod_lt _ (by decide), by simp [h, R.LINK_LANEn_CODEERR, R.LINK_LANEn_DISPERR]⟩

theorem linkCounters_facts : ∀ a ∈ linkCounters, PlainRead a ∧ pairLow (a - 4) = false ∧ rcMask a = BitVec.allOnes 32 ∧
    0x100000000 ≤ a ∧ a < R.LINK_STREAMs_CREDIT 0 := by
  unfold PlainRead
  decide +kernel

theorem regAt_of_rcMask {a : Nat} (h : rcMask a ≠ 0) :
    ∃ row ix, regAt a = some (row, ix) ∧ rcMask a = maskOf .rc row.fields := by
  unfold rcMask at h ⊢
  split at h
  next row ix e => exact ⟨row, ix, e, rfl⟩
  next => exact absurd rfl h

/-- A register of the link below the credits shows its word by its access codes. -/
theorem readWord_link {s : State} {a : Nat} (hpair : pairLow (a - 4) = false) (hlow : 0x100000000 ≤ a)
    (hhigh : a < R.LINK_STREAMs_CREDIT 0) : s.readWord a = s.readByCodes a := by
  have ho : a - 0x100000000 < 0x10000 := by have : a < 0x100000200 := hhigh; omega
  rw [State.readWord, if_neg (by simp [hpair]), State.shown, if_pos ho, if_neg (Nat.not_le_of_lt hhigh)]

/-- RC_REGISTER_READ of a register that counts: the read, then what hardware counts (R6). -/
theorem exec_rcRegisterRead_counter {s : State} {r : Requester} {a ev : Nat} (hmask : rcMask a ≠ 0)
    (hpops : ¬ (a = R.GRANARY_ERRLOG3 ∨ a = R.MILLER_ENCe_RES2 0 ∨ a = R.MILLER_ENCe_RES2 1 ∨
      (R.MARKi_CFG 0 ≤ a ∧ a < R.CMPj_CTRL 0))) :
    exec (.rcRegisterRead r a 4 ev) s = .next ((s.regRead r a).setReg a
      ((s.regRead r a).reg a ||| (BitVec.ofNat 32 ev &&& rcMask a))) := by
  obtain ⟨row, ix, hr, -⟩ := regAt_of_rcMask hmask
  have hsome : (regAt a).isSome = true := by rw [hr]; rfl
  have halign := (regAt_place hsome).2.2
  change execRcRegisterRead r a 4 ev s = _
  rw [execRcRegisterRead, busRead_register hsome]
  simp only [hpops, hmask, halign, ne_eq, not_true_eq_false, or_self, if_false]

theorem linkCounter_reads (r : Requester) (a ev : Nat) (s : State) (h : a ∈ linkCounters) :
    Answers (.rcRegisterRead r a 4 ev) s fun t => t.resp = some ⟨reqCode r, true, leBytes 4 (s.reg a).toNat⟩ ∧
      t.reg a = BitVec.ofNat 32 ev ∧ (∀ b, b ≠ a → t.reg b = s.reg b) ∧ (∀ p : Part, p ≠ .resp → p.same s t) ∧
      t.pending = s.pending := by
  obtain ⟨hplain, hpair, hones, hlow, hhigh⟩ := linkCounters_facts a h
  have hmask : rcMask a ≠ 0 := by rw [hones]; decide
  obtain ⟨row, ix, hr, hrc⟩ := regAt_of_rcMask hmask
  have hword : s.readWord a = s.reg a := by
    rw [readWord_link hpair hlow hhigh, readByCodes_eq hr, ← hrc, hones, BitVec.or_allOnes, BitVec.and_allOnes]
  have hclear : (s.clearRC a).reg a = 0#32 := by
    rw [reg_clearRC hr, ← hrc, hones, BitVec.not_allOnes, BitVec.and_zero]
  have hk : Keeps [.resp] [.any] s (s.regRead r a) := by
    rw [regRead_plain hplain]
    exact keeps_step (keeps_step keeps_refl clearRC_keeps_any) okResp_keeps
  have hpops : ¬ (a = R.GRANARY_ERRLOG3 ∨ a = R.MILLER_ENCe_RES2 0 ∨ a = R.MILLER_ENCe_RES2 1 ∨
      (R.MARKi_CFG 0 ≤ a ∧ a < R.CMPj_CTRL 0)) := by
    have : a < 0x100000200 := hhigh
    simp only [R.GRANARY_ERRLOG3, R.MILLER_ENCe_RES2, R.MARKi_CFG]
    omega
  refine ⟨_, exec_rcRegisterRead_counter hmask hpops, ?_, ?_, keeps_setReg_frame hk fun b hb => ?_⟩
  · rw [setReg_resp, regRead_plain hplain, hword]
    rfl
  · rw [reg_setReg_same, regRead_plain hplain, reg_okResp, hclear, hones, BitVec.and_allOnes, BitVec.zero_or]
  · rw [regRead_plain hplain, reg_okResp, reg_clearRC_other hb]

/-- Settles O10: an event register is written by its access codes in each block, and a counter of the link is one RC field
of 32 bits. -/
theorem eventAndCounterRegisters : Obligations.EventAndCounterRegisters :=
  ⟨eventRegister_clears, fun r a ev _ s h => linkCounter_reads r a ev s (mem_linkCounters h)⟩

/-! ## Pairs of registers (R8) -/

/-- The registers that stand at the offsets `offs` of `count` units, `stride` apart from address `base` on. -/
def unitRegs (base stride count : Nat) (offs : List Nat) : List Nat :=
  (List.range count).flatMap (fun n => offs.map (fun c => base + stride * n + c))

theorem mem_unitRegs {base stride count a x : Nat} {offs : List Nat} (ha : a = base + x) (hx : x < stride * count)
    (hc : offs.contains (x % stride) = true) : a ∈ unitRegs base stride count offs := by
  simp only [unitRegs, List.mem_flatMap, List.mem_range, List.mem_map]
  refine ⟨x / stride, Nat.div_lt_of_lt_mul hx, x % stride, List.contains_iff_mem.mp hc, ?_⟩
  rw [ha, Nat.add_assoc, Nat.div_add_mod]

/-- The low words of the latched pairs. -/
def pairLows : List Nat :=
  unitRegs 0x100010100 0x40 32 [8, 0x20, 0x28, 0x34] ++ unitRegs 0x100300100 0x80 4 [0x20, 0x28, 0x30] ++
  unitRegs 0x100300300 0x40 2 [0xC, 0x14] ++ unitRegs 0x100300400 0x20 4 [4, 0xC] ++
  unitRegs 0x100300500 0x40 8 [8, 0x10] ++
  [R.BR_ORG_LO, R.BR_PHI_LO, R.BR_PHIMAX_LO, R.MOT_AX2_GSCHED_LO, R.CLKPWR_RTC_LO, R.CLKPWR_ALARM_LO,
    R.POS_TAB_DATA_LO, R.FAULT_LOG_Ww 1, R.FAULT_LOG_Ww 3]

theorem mem_pairLows {a : Nat} (h : pairLow a = true) : a ∈ pairLows := by
  rw [pairLow] at h
  rcases ite_eq_cases h with ⟨-, h⟩ | ⟨h0, h⟩
  · cases h
  obtain ⟨x, rfl⟩ := Nat.exists_eq_add_of_le (Nat.le_of_not_lt h0)
  rw [Nat.add_sub_cancel_left] at h
  simp only [pairLows, List.mem_append, or_assoc]
  rcases ite_eq_cases h with ⟨k, h⟩ | ⟨-, h⟩
  · exact .inl (mem_unitRegs (x := x - 0x10100) (by omega) (by omega) h)
  rcases ite_eq_cases h with ⟨k, h⟩ | ⟨-, h⟩
  · exact .inr (.inl (mem_unitRegs (x := x - 0x300100) (by omega) (by omega) h))
  rcases ite_eq_cases h with ⟨k, h⟩ | ⟨-, h⟩
  · exact .inr (.inr (.inl (mem_unitRegs (x := x - 0x300300) (by omega) (by omega) h)))
  rcases ite_eq_cases h with ⟨k, h⟩ | ⟨-, h⟩
  · exact .inr (.inr (.inr (.inl (mem_unitRegs (x := x - 0x300400) (by omega) (by omega) h))))
  rcases ite_eq_cases h with ⟨k, h⟩ | ⟨-, h⟩
  · exact .inr (.inr (.inr (.inr (.inl (mem_unitRegs (x := x - 0x300500) (by omega) (by omega) h)))))
  · exact .inr (.inr (.inr (.inr (.inr (List.contains_iff_mem.mp h)))))

theorem pairLows_facts : ∀ a ∈ pairLows, (regAt a).isSome = true ∧ (regAt (a + 4)).isSome = true ∧
    pairLow (a - 4) = false := by
  decide +kernel

/-- The read of a high word has no effect of its own but for LAT3 of a mark, which takes an entry (R254). -/
theorem pairLows_high_plain : ∀ a ∈ pairLows, ¬ (R.MARKi_CFG 0 ≤ a + 4 ∧ a + 4 < R.CMPj_CTRL 0 ∧
    (a + 4 - R.MARKi_CFG 0) % 0x20 = 0x10) → PlainRead (a + 4) := by
  unfold PlainRead
  decide +kernel

/-- The read of a high word returns what was latched (R8). -/
theorem readWord_high {s : State} {a : Nat} (h : pairLow a = true) :
    s.readWord (a + 4) = sget (fun _ => 0) s.highLatch a := by
  rw [State.readWord, Nat.add_sub_cancel, if_pos h]

theorem readWord_of_not_high {s : State} {a : Nat} (h : pairLow (a - 4) = false) : s.readWord a = s.shown a := by
  rw [State.readWord, if_neg (by simp [h])]

theorem highLatch_latchHigh {s : State} {r : Requester} {a : Nat} {l : List Byte} :
    ((s.latchHigh a).okResp r l).highLatch = sset (fun _ => 0) s.highLatch a (s.shown (a + 4)) := by
  rw [State.okResp, State.latchHigh]

theorem lowRead_latches (r : Requester) (a : Nat) (s : State) (h : pairLow a = true) :
    Answers (.widePairLowRead r a) s fun t => t.resp = some ⟨reqCode r, true, leBytes 4 (s.shown a).toNat⟩ ∧
      t.readWord (a + 4) = s.shown (a + 4) ∧
      Keeps [.highLatch, .resp, .freeCtr, .log, .granary, .miller, .pos, .cam, .subs, .lastEvents] [.any] s t := by
  obtain ⟨hsome, -, hlow⟩ := pairLows_facts a (mem_pairLows h)
  have hexec : exec (.widePairLowRead r a) s =
      .next ((s.latchHigh a).okResp r (leBytes 4 (s.shown a).toNat)) := by
    change execWidePairLowRead r a s = _
    rw [execWidePairLowRead, if_pos h, busRead_register hsome, regRead_pairLow h, readWord_of_not_high hlow]
  refine ⟨_, hexec, rfl, ?_, keeps_step (keeps_step keeps_refl latchHigh_keeps) okResp_keeps⟩
  rw [readWord_high h, highLatch_latchHigh, sget_sset_same]

/-- RC_REGISTER_READ of a register: the read, and the word of that register alone is set after it. -/
theorem exec_rcRegisterRead_register {s : State} {r : Requester} {a ev : Nat} (h : (regAt a).isSome = true) :
    exec (.rcRegisterRead r a 4 ev) s = .next (s.regRead r a) ∨
      ∃ w, exec (.rcRegisterRead r a 4 ev) s = .next ((s.regRead r a).setReg a w) := by
  change execRcRegisterRead r a 4 ev s = _ ∨ ∃ w, execRcRegisterRead r a 4 ev s = _
  rw [execRcRegisterRead, busRead_register h]
  dsimp only
  split
  · exact .inl rfl
  · exact .inr ⟨_, rfl⟩

theorem highRead_returns_latch (r : Requester) (a : Nat) (s : State) (h : pairLow a = true)
    (hmark : ¬ (R.MARKi_CFG 0 ≤ a + 4 ∧ a + 4 < R.CMPj_CTRL 0 ∧ (a + 4 - R.MARKi_CFG 0) % 0x20 = 0x10)) :
    Answers (.rcRegisterRead r (a + 4) 4 0) s fun t =>
      t.resp = some ⟨reqCode r, true, leBytes 4 (s.readWord (a + 4)).toNat⟩ ∧ t.highLatch = s.highLatch ∧
      Keeps [.highLatch, .resp, .freeCtr, .log, .granary, .miller, .pos, .cam, .subs, .lastEvents] [.any] s t := by
  have hmem := mem_pairLows h
  have hsome := (pairLows_facts a hmem).2.1
  have hlatch : (s.clearRC (a + 4)).highLatch = s.highLatch := clearRC_keeps_any.parts .highLatch (by simp)
  obtain ⟨t, ht, hk⟩ := execRcRegisterRead_keeps (a1 := r) (addr := a + 4) (len := 4) (event := 0) (s := s)
  refine ⟨t, ht, ?_⟩
  have hplain := regRead_plain (s := s) (r := r) (pairLows_high_plain a hmem hmark)
  rcases exec_rcRegisterRead_register (s := s) (r := r) (ev := 0) hsome with e | ⟨w, e⟩
  all_goals
    obtain rfl := Host.Outcome.next.inj (e.symm.trans ht)
    rw [hplain] at hk ⊢
    exact ⟨rfl, hlatch, hk⟩

/-- Settles O11: the low words are those of `pairLows`, none of which is the high word of another pair. -/
theorem widePairsLatch : Obligations.WidePairsLatch :=
  ⟨lowRead_latches, highRead_returns_latch, fun _ h => readWord_high h⟩

/-! ## Reserved bits of a register (R7) -/

/-- LINK_EVT_EN with its reserved bits set: the statement speaks of every state, this one among them. -/
def reservedBitsSet : State := State.reset.setReg R.LINK_EVT_EN 0xFFFFFFFF

theorem write_keeps_reserved_bits :
    (nextOr reservedBitsSet (exec (.registerWrite .update R.LINK_EVT_EN [0, 0, 0, 0]) reservedBitsSet)).reg
      R.LINK_EVT_EN = 0xFFC00000#32 := by
  decide +kernel

/-- Refutes O7: its second clause wants the reserved bits 22 to 31 of LINK_EVT_EN 0 after any write, and a write keeps
them as they are (R6, R7), so that they stay 1 where they were 1. -/
theorem not_registerWidthAndAlignment : ¬ Obligations.RegisterWidthAndAlignment := by
  rintro ⟨-, hwrite, -⟩
  obtain ⟨t, ht, hreg, -⟩ := hwrite .update 0 reservedBitsSet [0, 0, 0, 0] rfl rfl
  have hkept := write_keeps_reserved_bits
  rw [ht] at hkept
  exact absurd (hkept.symm.trans hreg) (by decide)

end Sys2Proof.Scope

end
